-- ==== Sys2Proof/Word.lean ====
section
/-! DEFINITION. The word types of the model. A word is 64 bits and an address is a byte address (Table 0.3 of
spec/00_scope.md). A table holds the entries of a sparse map by key: what is not listed has the class's own default. -/

namespace Sys2Proof

abbrev Byte := BitVec 8
abbrev Word := BitVec 64

/-- A sparse map: pairs of key and value in strictly rising key order, no value equal to the class's default. -/
abbrev Tbl (α : Type) := List (Nat × α)

/-- A byte memory: addresses strictly rising, no byte equal to what an unlisted address reads as. -/
abbrev Memory := Tbl Byte

/-- The numeric value of a Bool as a register bit. -/
def bit (b : Bool) : Nat := if b then 1 else 0

/-- Rounded-up quotient; 0 for a divisor of 0. -/
def ceilDiv (a b : Nat) : Nat := if b = 0 then 0 else (a + b - 1) / b

end Sys2Proof
end

