-- ==== Sys2Proof/Syntax.lean ====
section
/-! DEFINITION. The commands of the DR4: one constructor of Instr for each row of spec/opcode_table.json, with the
operands the rules give the step (spec/95_what_each_step_holds.md lists what comes about inside each). What the
environment decides (instants, measured values, training outcomes, bit errors met) comes in as operands.
An operand `now` is the instant of the step in ns on the part's own time, which counts from the start of its first option
loading. -/

namespace Sys2Proof

/-- The three requesters that own copies of the selectors (R511). -/
inductive Requester where
  | host      -- BAR0 of the physical function
  | steading  -- the Steading firmware
  | i3c       -- the I3C port
  deriving DecidableEq, Repr

/-- Where a register access lands: BAR0, or a function page of BAR2 (R361, R362). -/
inductive RegAddr where
  | bar0 (offset : BitVec 26)
  | bar2 (page : BitVec 6) (offset : BitVec 18)
  deriving DecidableEq, Repr

/-- A submission entry (Table 12.7); reserved bytes are left out. -/
structure SubEntry where
  opcode : Byte := 0
  cid : BitVec 16 := 0
  stream : BitVec 16 := 0
  streamEpoch : Byte := 0
  job : Byte := 0
  jobEpoch : Byte := 0
  addr : Word := 0
  count : BitVec 32 := 0
  arg0 : Word := 0
  arg1 : Word := 0
  arg2 : Word := 0
  arg3 : Word := 0
  deriving DecidableEq, Repr

/-- A mesh row header (Table 5.1). -/
structure RowHdr where
  src : BitVec 10 := 0
  op : BitVec 6 := 0
  stream : BitVec 16 := 0
  epoch : Byte := 0
  wide : Bool := false
  nan : Bool := false
  sat : Bool := false
  last : Bool := false
  empty : Bool := false
  row : BitVec 12 := 0
  pos : BitVec 20 := 0
  col : BitVec 24 := 0
  expert : BitVec 16 := 0xFFFF
  deriving DecidableEq, Repr

/-- A row on the mesh: header and payload (R135). -/
structure MeshRow where
  hdr : RowHdr := {}
  data : List Byte := []
  deriving DecidableEq, Repr

/-- A row that reaches a cell, and when. -/
structure RowArrival where
  row : MeshRow
  now : Nat := 0
  deriving DecidableEq, Repr

/-- Who reads or writes a store: the reader column of Table 10.2, with its unit. -/
inductive Reader where
  | cell (c : BitVec 10)
  | flailStage (c : BitVec 10)
  | chute (ch : BitVec 5)
  | host (fn : BitVec 6)
  | rake
  | flailPort
  | hub (store : BitVec 4)
  | pfxMachine
  deriving DecidableEq, Repr

/-- The store an access goes to (Table 10.1): a device address, a loft word (byte address ÷ 8) that stands in its controller's
queues or transpose buffer, a word of a cell's SRAM or of its router, or a word of a hub store. -/
inductive MemTarget where
  | device (addr : BitVec 48)
  | controller (word : BitVec 38)
  | cellSram (c : BitVec 10) (word : Nat)
  | router (c : BitVec 10) (word : Nat)
  | hubStore (store : BitVec 4) (word : Nat)
  deriving DecidableEq, Repr

/-- What the check bits of one word say: one bit in error, of the 72, or an error beyond correction; or an error of three or
more bits that passes undetected or is miscorrected at one bit, the data bits that end up wrong being `flips` (R295). -/
inductive WordFault where
  | single (bit : BitVec 7)
  | double
  | unseen (flips : BitVec 64) (miscorrected : Option (BitVec 7))
  deriving DecidableEq, Repr

/-- A word error met at an access: the word's byte address ÷ 8 for a loft word, its word index otherwise; `onWire` when
the decoder attributes the corrected bit to a wire of the channel (R263, R289). -/
structure WordErr where
  word : Nat
  fault : WordFault
  onWire : Option (BitVec 9) := none
  deriving DecidableEq, Repr

/-- A data envelope (Table 11.2) as it arrives: `fecOk` is false when a codeword is beyond correction (R319);
`corrected` counts the FEC symbols corrected. -/
structure Envelope where
  flags : Byte := 0
  srcPart : BitVec 10 := 0
  srcCell : BitVec 10 := 0
  dstPart : BitVec 10 := 0
  dstCell : BitVec 10 := 0
  sheaf : BitVec 12 := 0
  sheafEpoch : Byte := 0
  entry : BitVec 16 := 0
  offset : BitVec 32 := 0
  seq : BitVec 16 := 0
  tick : BitVec 16 := 0
  payload : List Byte := []
  crc : BitVec 32 := 0
  deriving DecidableEq, Repr

/-- A raise commit on the ring (R94): the part whose cell is slow, the amount in µs, and the target edge that the timekeeper
announces, with whether a replay has moved it there; with none, the part asks for it. Table 11.3 has no word for it (DESIGN CHOICE, log
entry 52). -/
structure RaiseWord where
  part : BitVec 10 := 0
  us : BitVec 10 := 0
  target : Option (BitVec 64) := none
  moved : Bool := false
  deriving DecidableEq, Repr

/-- An edge announcement (Table 11.3, kind 0x03): the new edge in 100 ns units from t0, and its flag bits; `sheafs` are
the sheafs of parts named in the overrun reports (R86, R87); `raise` goes beside it. -/
structure EdgeWord where
  raise : Option RaiseWord := none
  newEdge : BitVec 16 := 0
  overrun : Bool := false
  pause : Bool := false
  pauseEnds : Bool := false
  sheafs : List (BitVec 12) := []
  deriving DecidableEq, Repr

/-- The phase of a ring commit word (Table 11.3, kind 0x0A). -/
inductive RingPhase where
  | request | announcement | submission | result
  deriving DecidableEq, Repr

/-- A ring commit word (Table 11.3): the originating part, check code, phase, target edge; and the commit value word that
follows it, with its reserved bits (R321). -/
structure RingWord where
  part : BitVec 10 := 0
  phase : RingPhase := .request
  code : BitVec 16 := 0
  target : BitVec 28 := 0
  value : Option (BitVec 10 × BitVec 16 × BitVec 5 × BitVec 15) := none
  deriving DecidableEq, Repr

/-- The outcome of training one ring port: trained at full rate or at 112 Gb/s, with the peer part found and the delay of
the hop as measured, or failed. -/
inductive TrainOutcome where
  | full (peer : BitVec 10) (hopNs : BitVec 14)
  | reduced (peer : BitVec 10) (hopNs : BitVec 14)
  | failed
  deriving DecidableEq, Repr

/-- A training of one ring port: how it ended, and how long it took. -/
structure Training where
  outcome : TrainOutcome
  ns : Nat := 0
  deriving DecidableEq, Repr

/-- A release word (Table 11.3, kind 0x08), and the planes that its sender gives up, which no word says (log entry 52). -/
structure ReleaseWord where
  tick : BitVec 32 := 0
  planes : List (BitVec 2) := []
  deriving DecidableEq, Repr

/-- The lanes of a die-to-die flit whose parity is wrong (R346), when the flit came, and whether it came from the second die that Table
11.8 names for the link. -/
structure ParityErrs where
  lanes : List Nat := []
  now : Nat := 0
  back : Bool := false
  deriving DecidableEq, Repr

/-- A host read request that met a host memory error (R358). -/
inductive HostReq where
  | submissionEntry (q : BitVec 6)
  | commandBuffer (q : BitVec 6) (e : SubEntry)
  | feedTokens (stream : BitVec 16)
  | chute (ch : Option (BitVec 5)) (fetch : Bool) (fn : BitVec 6) (addr : Word)
  deriving DecidableEq, Repr

/-- One sensor reading: the sensor's number (R475) and its value in 1/16 °C. -/
structure Reading where
  sensor : Nat
  value : Int
  deriving DecidableEq, Repr

/-- The rails (Table 16.4), numbered as event source class 0xE. -/
inductive Rail where
  | vinCore | vmem | vio | vstby
  deriving DecidableEq, Repr

/-- A housekeeping round (R474): the readings of the round sensors, and the voltage of each rail in mV. -/
structure Round where
  temps : List Reading := []
  rails : List (Rail × Nat) := []
  deriving DecidableEq, Repr

/-- The two forecasts of R479, made at once: the hottest junction at the limit words in force and its cell, and the higher of the
junction and loft forecasts at 800 W, in 1/16 °C. -/
structure Forecast where
  limit : Int := 0
  cell : BitVec 10 := 0
  at800 : Int := 0
  deriving DecidableEq, Repr

/-- What the governor of the Steading firmware measured and estimated for one window (R478 to R481, R484): the power of
the tick in W; the junction forecast at the limit words in force, its cell, and the higher of the junction and loft
forecasts at 800 W, in 1/16 °C; `rHat` in 0.1 mK/W after its filter; the model estimates at sensors; the duty limits it
sets; the power of each stook's cells in W. -/
structure GovIn where
  power : Nat := 0
  forecast : Int := 0
  forecast800 : Int := 0
  hotCell : BitVec 10 := 0
  rHat : Nat := 0
  models : List Reading := []
  duty : List (BitVec 10 × Nat) := []
  stookPower : List (BitVec 6 × Nat) := []
  deriving DecidableEq, Repr

/-- The limit words of the governor (R32): cap in W, duty in sixteenths by cell, flail limit by stook. -/
structure LimitWords where
  cap : Nat := 800
  duty : List (BitVec 10 × Nat) := []
  flail : List (BitVec 6 × Nat) := []
  deriving DecidableEq, Repr

/-- What the memory test of one channel found (R435 to R441): wires with no eye, failed rows as (bank, row), and which
spare rows of a bank passed every test, as (bank, spare); for a Keep resume, whether it retrained. -/
structure ChanTest where
  channel : BitVec 10
  wires : List Nat := []
  rows : List (Nat × Nat) := []
  goodSpares : List (Nat × Nat) := []
  trained : Bool := true
  routerOk : Bool := true
  decayed : List (Nat × Nat) := []
  deriving DecidableEq, Repr

/-- A broadcast frame (Table 14.8). -/
structure Frame where
  seq : BitVec 32 := 0
  count : BitVec 32 := 1
  targets : Byte := 0
  storeOff : BitVec 32 := 0
  digest : List Byte := []
  payload : List Byte := []
  deriving DecidableEq, Repr

/-- Who receives a broadcast frame. -/
inductive Target where
  | cell (c : BitVec 10)
  | controller (ch : BitVec 10)
  deriving DecidableEq, Repr

/-- Identifier spaces with quarantine (Table 7.9). -/
inductive IdSpace where
  | stream (id : BitVec 16)
  | page (job : BitVec 3) (cell : BitVec 10) (entry : BitVec 2) (slot : BitVec 24)
  | job (id : BitVec 3)
  | sheaf (id : BitVec 12)
  deriving DecidableEq, Repr

/-- The two rings of a part (R315). -/
inductive RingId where
  | row | column
  deriving DecidableEq, Repr

/-- The three words of a flail command (Table 9.3), and whether the controller issues it as the last SCORE for a query set (R278). -/
structure FlailWords where
  w0 : Word := 0
  w1 : Word := 0
  w2 : Word := 0
  last : Bool := false
  deriving DecidableEq, Repr

/-- What a sudden loss took with it (R335): the jobs whose collectives had envelopes on the lost hop, the parts that are gone, and the parts
on either side that retrain. -/
structure LossReport where
  jobs : List (BitVec 3) := []
  parts : List (BitVec 10) := []
  ends : List (BitVec 10) := []
  deriving DecidableEq, Repr

/-- The commands, one for each row of the operation table, in its order. -/
inductive Instr where
  -- host queues and commands
  | loadProgram (q : BitVec 6) (e : SubEntry)
  | unloadProgram (q : BitVec 6) (e : SubEntry)
  | openStream (q : BitVec 6) (e : SubEntry)
  | feedTokens (q : BitVec 6) (e : SubEntry)
  | setStreamParameters (q : BitVec 6) (e : SubEntry)
  | closeStream (q : BitVec 6) (e : SubEntry)
  | invalidOpcode (q : BitVec 6) (e : SubEntry)
  | submissionTailDoorbell (page q : BitVec 6) (value : Word)
  | completionHeadDoorbell (page q : BitVec 6) (value : Word)
  | eventQueueHeadDoorbell (value : Word)
  | queuePairEnable (page : Option (BitVec 6)) (q : BitVec 6) (value : Word)
  | queueOwnerWrite (by_ : Requester) (value : Word)
  | eventQueueEnable (value : Word)
  | functionLevelReset (fn : BitVec 6)
  | bar4Read (offset : BitVec 41) (len : Nat) (found : List WordErr)
  | bar4Write (offset : BitVec 41) (data : List Byte) (found : List WordErr)
  | hostMemoryError (req : HostReq) (cause : BitVec 3)
  -- Chute
  | chuteGo (by_ : Requester)
  | chuteAbort (by_ : Requester)
  | chuteDescriptorDone (ch : BitVec 5)
  | chuteErrorClear
  -- the tick
  | tickEdge (now : Nat)
  | stageStart (cell : BitVec 10) (now : Nat)
  | stageFinish (cell : BitVec 10) (now : Nat)
  | runDeadline (now : Nat)
  | lateNotice (port : BitVec 3) (part : BitVec 10) (tick : BitVec 32)
  | edgeAnnouncement (port : BitVec 3) (w : EdgeWord)
  | maintenanceWindow (now : Nat) (gov : Option GovIn)
  | stretchLimit (now : Nat)
  | cellSlow (cell : BitVec 10)
  -- commits
  | commitRequest (now : Nat)
  | steadingCommitRequest (now : Nat)
  | commitChecksDone (now : Nat)
  | stagedWrite (by_ : Requester) (offset : BitVec 26) (size : Nat) (value : Word)
  | stagingRevert
  | governorSilent
  | limitWordWrite (w : LimitWords)
  -- ring words and envelopes
  | tickMarker (port : BitVec 3) (tick : BitVec 32) (delay : BitVec 14) (now : Nat)
  | acknowledgement (port : BitVec 3) (seq : BitVec 16) (now : Nat)
  | retryRequest (port : BitVec 3) (seq : BitVec 16)
  | credit (port : BitVec 3) (free : BitVec 10)
  | take (port : BitVec 3) (part : BitVec 10) (plane : BitVec 2)
  | release (port : BitVec 3) (part : BitVec 10) (word : ReleaseWord)
  | candidate (port : BitVec 3) (prio : BitVec 4) (coords : BitVec 10) (settled : Bool) (winner : Option (BitVec 64 × Nat × (BitVec 10 × BitVec 16 × BitVec 5)))
  | ringCommit (port : BitVec 3) (w : RingWord)
  | ringCommitDeadline
  | dataEnvelope (port : BitVec 3) (e : Envelope) (badWords corrected : Nat)
  | portDown (port : BitVec 3)
  | markerLoss (settled : Bool) (keeper : BitVec 10)
  | ringTake (plane : BitVec 2) (east west : Training)
  | bypassSwitched (plane : BitVec 2)
  | linkReset (by_ : Requester) (set : Bool)
  | suddenLoss (ring : RingId) (loss : LossReport) (now : Nat)
  | ringBroken (ring : RingId)
  | serLimit (port : BitVec 3) (errors : Nat)
  | linkRetrainRequest (by_ : Requester)
  | portRetrainDone (port : BitVec 3) (out : TrainOutcome) (durNs : Nat)
  | ringSlowRaise (ring : RingId) (lateness : Nat)
  -- die-to-die links
  | d2dFlit (link : BitVec 3) (seq : BitVec 16) (crc : BitVec 32) (parity : ParityErrs) (payload : List Byte)
  | d2dResendLimit (link : BitVec 3) (seq : BitVec 16) (consumer : Reader)
  | d2dLaneFailed (link : BitVec 3) (lane : Nat)
  | d2dReset (by_ : Requester) (set : Bool)
  | d2dTest (by_ : Requester) (test loop : Bool)
  | d2dCapabilityWord (link : BitVec 3) (near far : Word)
  -- rows on the mesh
  | meshRow (consumer : BitVec 10) (row : RowArrival)
  | producerLost (consumer producer : BitVec 10)
  -- memory
  | memoryAccess (reader : Reader) (target : MemTarget) (len : Nat) (write : Option (List Byte)) (found : List WordErr) (now : Nat)
  | bankRefresh (channel : BitVec 10) (bank : Nat) (busy : Bool)
  | bucketLeak
  | housekeepingRound (round : Round) (now : Nat)
  | sensorReturn (sensor : Nat)
  | scheduledRetrain (channel : BitVec 10) (now : Nat)
  | channelRetrainRequest (by_ : Requester)
  | channelRetrainDone (channel : BitVec 10) (deadWires : List Nat) (now : Nat)
  | channelHoldTimeout (channel : BitVec 10) (now : Nat)
  | marginRequest (by_ : Requester) (mode : Bool) (wire : BitVec 9)
  | wireFailed (channel : BitVec 10) (wire : BitVec 9)
  | channelReset (by_ : Requester) (set : Bool)
  -- flails
  | loadq (channel : BitVec 10) (w : FlailWords) (data : List Byte) (stage : Bool)
  | score (channel : BitVec 10) (w : FlailWords) (found : List WordErr) (stage : Bool)
  | topk (channel : BitVec 10) (w : FlailWords) (found : List WordErr)
  | requant (channel : BitVec 10) (w : FlailWords) (found : List WordErr)
  | scrub (channel : BitVec 10) (w : FlailWords) (found : List WordErr) (byRake : Bool)
  | frag (channel : BitVec 10) (w : FlailWords) (data : List Byte)
  | flailOpComplete (channel : BitVec 10) (bank : Nat) (now : Nat)
  -- prefix table and identifiers
  | prefixFlush
  | quarantineEnd (id : IdSpace)
  -- resets and starts
  | powerOnDetection (rail : Rail) (mv : Nat) (now : Nat)
  | porstN (lowNs : Nat) (now : Nat)
  | porstNRelease (now : Nat)
  | perstN (lowNs : Nat)
  | perstNRelease (now : Nat)
  | optionLoading (readingMv : Nat) (now : Nat)
  | resetStorm (now : Nat)
  | stormExit (lowNs : Nat) (now : Nat)
  | startDelayEnd (now : Nat)
  | crystalMeasurement (count : BitVec 32) (now : Nat)
  | crystalFail
  | watchdogRestart (now : Nat)
  | watchdogExpiry (now : Nat)
  | thermalTrip (sentinel : BitVec 6) (reading : Int) (now : Nat)
  | tripHoldEnd (now : Nat)
  | cellResetGo (by_ : Requester) (now : Nat)
  | cellResetHold (by_ : Requester) (set : Bool) (now : Nat)
  | stookResetGo (by_ : Requester) (now : Nat)
  | stookResetHold (by_ : Requester) (set : Bool) (now : Nat)
  | sheafResetGo (by_ : Requester) (now : Nat)
  | sheafResetHold (by_ : Requester) (set : Bool) (now : Nat)
  | steadingRestart (by_ : Requester) (now : Nat)
  | clockRampStep (domain : BitVec 6)
  | clockMonitorSelect (by_ : Requester) (value : Word)
  | frequencyMeasurement (by_ : Requester) (value : Word)
  | frequencyMeasurementDone (count : BitVec 32)
  | railFault (mv : Nat) (now : Nat)
  | steadingBoot (flashAnswers : Bool) (now : Nat)
  | broadcastFrame (target : Target) (frame : Frame)
  | segmentRequest (target : Target) (missing : List (BitVec 32))
  | memoryTest (tests : List ChanTest) (now : Nat)
  | heatingTimeout (stack : BitVec 5) (reached : Int)
  | cellSelfTest (fails : List (BitVec 10)) (now : Nat)
  | recoveryVerify (by_ : Requester)
  | recoveryProgram (by_ : Requester)
  | recoveryColdReset (by_ : Requester)
  | flashLogWrite (now : Nat)
  -- settings and trust
  | otpProgramGeneration (by_ : Requester)
  | attestationRequest (by_ : Requester)
  | attestationReady
  -- heat and power
  | sentinelReading (readings : List Reading) (forecasts : Option Forecast) (reach110Ns : Nat) (now : Nat)
  | coolantLoss (now : Nat)
  | stopCooldown
  | inletWrite (by_ : Requester) (value : BitVec 16) (now : Nat)
  | inletStale (now : Nat)
  | fastThrottle (power : Nat)
  | fastThrottleStep (excess : Bool) (belowUs : Nat)
  | regionCycleSkip (cell : BitVec 10) (currentMa : Nat)
  | capRaiseStep
  | pwrfail (lowNs : Nat) (now : Nat)
  | keepStageStop (now : Nat)
  | keepEntered (now : Nat)
  | keepEntryAbandoned (now : Nat)
  | keepCheck (readings : List Reading) (railsLow : List Rail) (recordBad : Bool) (now : Nat)
  | keepAbandonWrite (by_ : Requester)
  | keepEnd (now : Nat)
  -- the I3C port
  | i3cWriteRegister (bytes : List Byte) (now : Nat)
  | i3cSetReadPointer (bytes : List Byte)
  | i3cWriteWords (bytes : List Byte)
  | i3cPrivateRead (words : Nat) (now : Nat)
  | i3cSetdasa (static dynamic : BitVec 7)
  | i3cEntdaa (dynamic : BitVec 7)
  | i3cGetstatus
  | i3cIbiTimeout (waitedNs : Nat)
  -- registers
  | rcRead (by_ : Requester) (addr : RegAddr) (size : Nat) (now : Nat)
  | registerWrite (by_ : Requester) (addr : RegAddr) (size : Nat) (value : Word) (now : Nat)
  -- the rest of the table
  | finishReport (port : BitVec 3) (part : BitVec 10) (finishNs : Nat) (overrun : Bool) (sheafs : List (BitVec 12))
  | sheafDigest (port : BitVec 3) (part : BitVec 10) (sheaf : BitVec 12) (digest : List Byte)
  | pwrfailNRelease (railsOkNs : Nat)
  | ringReleaseTimeout (now : Nat)
  | flailPortGo (by_ : Requester)
  | otpProgrammingDone (readBackOk : Bool)
  | imageProgrammingDone
  | completionTimeout (ch : Option (BitVec 5)) (fetch : Bool) (fn : BitVec 6) (addr : Word)
  deriving DecidableEq, Repr

end Sys2Proof
end

