-- ==== Sys2Proof/Decode.lean ====
section
/-! DEFINITION. The command that a word spells by the operation table's bits: no row of spec/opcode_table.json gives
bits, so no word spells a command (log entry 1). -/

namespace Sys2Proof

def decodeTableWord (_nbits _w : Nat) : Option Instr := none

end Sys2Proof
end

