-- ==== Sys2Proof/Config.lean ====
section
/-! DEFINITION. What an implementation fixes and the free values: constants without a body, so that nothing can be
proved from their values. -/

namespace Sys2Proof

/-- A free word for each count of State.fresh: the value the spec leaves open at one place of one step (log entry 5). -/
opaque Config.freeWord : Nat → Word

/-- A free byte for each count of State.fresh and each index of a byte string left open (R291, R469; log entry 5). -/
opaque Config.freeByte : Nat → Nat → Byte

/-- The public key that the key engine derives from the 64-byte seed (R467), of 1,793 bytes where it is used. -/
opaque Config.falconPublic : List Byte → List Byte

/-- The compressed vector of a signature of the key engine: seed, message and Falcon nonce (R470, R471). -/
opaque Config.falconSign : List Byte → List Byte → List Byte → List Byte

/-- Which path carries a flit of a collective, and which share of the data goes round in a step: by the collective's place in the slot
tables, what is asked, and the step and flit (R160; log entry 12). -/
opaque Config.flitPath : Nat × Nat → Nat → Nat × Nat → Nat

/-- The usable cells of a kind on another part, by ring coordinates, as this part knows them at an edge (R62; log entry 41). -/
opaque Config.partCells : Nat → Nat → Nat → Nat

/-- The size of BAR4 that the host has chosen (Table 12.4). -/
opaque Config.bar4Size : Nat

end Sys2Proof
end

