-- ==== Sys2Proof/Machine/Reg.lean ====
section
/-! DEFINITION. The registers of BAR0 by name (Table 17.2 of spec/17_state_and_registers.md, R512): direct offset, the
way each is selected (R511, R522) and value after a cold reset; and their fields with access codes (Table 0.4 of
spec/00_scope.md, R7), as the register maps of the chapters give them. A field marked L holds 0 in the reset value until
it is loaded (log entry 3). -/

namespace Sys2Proof.Machine

/-- What chooses the shown copy of a register (R511, Table 17.7): nothing, one of the selectors, or, for a selector
register itself, the requester. -/
inductive Shown where
  | part | sheaf | cell | stream | channel | hub | rake | port | link | queue | fn | chute | domain | sensor | otp
  | selector
  deriving DecidableEq, Repr

/-- The access codes of Table 0.4. -/
inductive Access where
  | ro | rw | w1c | rc | st
  deriving DecidableEq, Repr

/-- A register: its direct BAR0 offset, what selects its copy, its plain reset value. -/
structure Reg where
  off : Nat
  shown : Shown
  reset : Nat
  deriving DecidableEq, Repr

/-- A field of a register: bits [lo + width - 1 : lo]. -/
structure Fld where
  reg : Reg
  lo : Nat
  width : Nat
  acc : Access
  deriving DecidableEq, Repr

/-! ## The registers, in the order of Table 17.2 -/

namespace R

def stdEccCfg : Reg := ⟨0x0, .part, 0x400064⟩
def stdBsel : Reg := ⟨0x8, .selector, 0⟩
def stdBkt : Reg := ⟨0x10, .hub, 0⟩
def stdUeCnt : Reg := ⟨0x18, .part, 0⟩
def stdUe0 : Reg := ⟨0x20, .part, 0⟩
def stdUe1 : Reg := ⟨0x28, .part, 0⟩
def stdUe2 : Reg := ⟨0x30, .part, 0⟩
def stdUe3 : Reg := ⟨0x38, .part, 0⟩
def stdBoot : Reg := ⟨0x40, .part, 0x41⟩
def stdBootRet : Reg := ⟨0x48, .part, 0⟩
def stdRcvLen : Reg := ⟨0x50, .part, 0⟩
def stdRcvCtl : Reg := ⟨0x58, .part, 0⟩
def stdRcvStat : Reg := ⟨0x60, .part, 0⟩
def stdAttNonce0 : Reg := ⟨0x68, .part, 0⟩
def stdAttNonce1 : Reg := ⟨0x70, .part, 0⟩
def stdAttNonce2 : Reg := ⟨0x78, .part, 0⟩
def stdAttNonce3 : Reg := ⟨0x80, .part, 0⟩
def stdAttCtl : Reg := ⟨0x88, .part, 0⟩
def stdEvtCfg : Reg := ⟨0x90, .part, 0x26⟩
def tikPeriod : Reg := ⟨0x1000, .part, 0x64⟩
def tikWindow : Reg := ⟨0x1008, .part, 0xfa0⟩
def tikGuard : Reg := ⟨0x1010, .part, 0x8⟩
def tikCount : Reg := ⟨0x1018, .part, 0⟩
def tikPhase : Reg := ⟨0x1020, .part, 0⟩
def tikLate : Reg := ⟨0x1028, .part, 0⟩
def tikRaise : Reg := ⟨0x1030, .part, 0⟩
def tikCmt : Reg := ⟨0x1038, .part, 0⟩
def tikCmtStat : Reg := ⟨0x1040, .part, 0⟩
def tikStg : Reg := ⟨0x1048, .part, 0⟩
def tikCmtWhere : Reg := ⟨0x1050, .part, 0⟩
def shfSel : Reg := ⟨0x2000, .selector, 0⟩
def shfStatus : Reg := ⟨0x2008, .sheaf, 0⟩
def shfBudget : Reg := ⟨0x2010, .sheaf, 0⟩
def shfErrsum : Reg := ⟨0x2018, .sheaf, 0⟩
def shfCap : Reg := ⟨0x2020, .sheaf, 0x1000000000000⟩
def shfAvail0 : Reg := ⟨0x2028, .part, 0⟩
def shfAvail1 : Reg := ⟨0x2030, .part, 0⟩
def shfAvail2 : Reg := ⟨0x2038, .part, 0⟩
def shfAvail3 : Reg := ⟨0x2040, .part, 0⟩
def shfAvail4 : Reg := ⟨0x2048, .part, 0⟩
def shfAvail5 : Reg := ⟨0x2050, .part, 0⟩
def shfAvail6 : Reg := ⟨0x2058, .part, 0⟩
def shfAvail7 : Reg := ⟨0x2060, .part, 0⟩
def shfAvail8 : Reg := ⟨0x2068, .part, 0⟩
def shfAvail9 : Reg := ⟨0x2070, .part, 0⟩
def shfAvail10 : Reg := ⟨0x2078, .part, 0⟩
def shfAvail11 : Reg := ⟨0x2080, .part, 0⟩
def shfAvail12 : Reg := ⟨0x2088, .part, 0⟩
def shfAvail13 : Reg := ⟨0x2090, .part, 0⟩
def shfAvail14 : Reg := ⟨0x2098, .part, 0⟩
def shfAvail15 : Reg := ⟨0x20A0, .part, 0⟩
def celSel : Reg := ⟨0x3000, .selector, 0⟩
def celTick : Reg := ⟨0x3008, .cell, 0⟩
def celStat : Reg := ⟨0x3010, .cell, 0⟩
def celVec : Reg := ⟨0x3018, .cell, 0⟩
def celGat : Reg := ⟨0x3020, .cell, 0⟩
def celColl : Reg := ⟨0x3028, .cell, 0⟩
def celSamp : Reg := ⟨0x3030, .cell, 0⟩
def celMesh : Reg := ⟨0x3038, .cell, 0⟩
def celBkt : Reg := ⟨0x3040, .cell, 0⟩
def mxcStat : Reg := ⟨0x4000, .cell, 0⟩
def mxcPasses : Reg := ⟨0x4008, .cell, 0⟩
def mxcFlags : Reg := ⟨0x4010, .cell, 0⟩
def mxcBubble : Reg := ⟨0x4018, .cell, 0⟩
def mxcStall : Reg := ⟨0x4020, .cell, 0⟩
def thrStat : Reg := ⟨0x5000, .cell, 0⟩
def thrBlocks : Reg := ⟨0x5008, .cell, 0⟩
def thrEdge : Reg := ⟨0x5010, .cell, 0⟩
def thrPos : Reg := ⟨0x5018, .cell, 0⟩
def kvpStat : Reg := ⟨0x6000, .cell, 0⟩
def kvpQuant : Reg := ⟨0x6008, .cell, 0⟩
def kvpWin : Reg := ⟨0x6010, .cell, 0⟩
def kvpDrop : Reg := ⟨0x6018, .cell, 0⟩
def kvpSsel : Reg := ⟨0x6020, .selector, 0⟩
def kvpSinfo : Reg := ⟨0x6028, .stream, 0⟩
def kvpSpages : Reg := ⟨0x6030, .stream, 0⟩
def kvpSres : Reg := ⟨0x6038, .stream, 0⟩
def pfxCfg : Reg := ⟨0x7000, .part, 0⟩
def pfxCtl : Reg := ⟨0x7008, .part, 0⟩
def pfxLook : Reg := ⟨0x7010, .part, 0⟩
def pfxMiss : Reg := ⟨0x7018, .part, 0⟩
def pfxIns : Reg := ⟨0x7020, .part, 0⟩
def pfxFill : Reg := ⟨0x7028, .part, 0⟩
def vccSel : Reg := ⟨0x8000, .selector, 0⟩
def vccStat : Reg := ⟨0x8008, .channel, 0⟩
def vccCtl : Reg := ⟨0x8010, .channel, 0⟩
def vccTrain : Reg := ⟨0x8018, .channel, 0⟩
def vccMargin : Reg := ⟨0x8020, .channel, 0⟩
def vccEye : Reg := ⟨0x8028, .channel, 0⟩
def vccErr : Reg := ⟨0x8030, .channel, 0⟩
def vccRetrain : Reg := ⟨0x8038, .part, 0x28064⟩
def vccBkt : Reg := ⟨0x8040, .channel, 0⟩
def vccLost : Reg := ⟨0x8048, .channel, 0⟩
def fllStat : Reg := ⟨0x9000, .channel, 0⟩
def fllOps : Reg := ⟨0x9008, .channel, 0⟩
def fllHold : Reg := ⟨0x9010, .channel, 0⟩
def fllEcc : Reg := ⟨0x9018, .channel, 0⟩
def fllLimit0 : Reg := ⟨0x9020, .part, 0x8888888888888888⟩
def fllLimit1 : Reg := ⟨0x9028, .part, 0x8888888888888888⟩
def fllLimit2 : Reg := ⟨0x9030, .part, 0x8888888888888888⟩
def fllLimit3 : Reg := ⟨0x9038, .part, 0x8888888888888888⟩
def fllPort0 : Reg := ⟨0x9040, .channel, 0⟩
def fllPort1 : Reg := ⟨0x9048, .channel, 0⟩
def fllPort2 : Reg := ⟨0x9050, .channel, 0⟩
def fllPaddr : Reg := ⟨0x9058, .channel, 0⟩
def fllPctl : Reg := ⟨0x9060, .channel, 0⟩
def rakRate : Reg := ⟨0xA000, .part, 0x5a0⟩
def rakStat : Reg := ⟨0xA008, .part, 0⟩
def rakPass : Reg := ⟨0xA010, .part, 0⟩
def rakLogsel : Reg := ⟨0xA018, .selector, 0⟩
def rakLog0 : Reg := ⟨0xA020, .rake, 0⟩
def rakLog1 : Reg := ⟨0xA028, .rake, 0⟩
def lnkSel : Reg := ⟨0xB000, .selector, 0⟩
def lnkStat : Reg := ⟨0xB008, .port, 0⟩
def lnkErr : Reg := ⟨0xB010, .port, 0⟩
def lnkFec : Reg := ⟨0xB018, .port, 0⟩
def lnkTrain : Reg := ⟨0xB020, .port, 0⟩
def lnkCtl : Reg := ⟨0xB028, .port, 0⟩
def lnkCfg : Reg := ⟨0xB030, .part, 0x100000⟩
def lnkRing : Reg := ⟨0xB038, .part, 0x40000000⟩
def d2dSel : Reg := ⟨0xC000, .selector, 0⟩
def d2dStat : Reg := ⟨0xC008, .link, 0⟩
def d2dErr : Reg := ⟨0xC010, .link, 0⟩
def d2dCtl : Reg := ⟨0xC018, .link, 0⟩
def d2dCfg : Reg := ⟨0xC020, .part, 0x10⟩
def hstWin : Reg := ⟨0xD000, .part, 0⟩
def hstQsel : Reg := ⟨0xD008, .selector, 0⟩
def hstQown : Reg := ⟨0xD010, .queue, 0⟩
def hstSqBase : Reg := ⟨0xD018, .queue, 0⟩
def hstCqBase : Reg := ⟨0xD020, .queue, 0⟩
def hstQcfg : Reg := ⟨0xD028, .queue, 0⟩
def hstQstat : Reg := ⟨0xD030, .queue, 0x1000000000000⟩
def hstQcnt : Reg := ⟨0xD038, .queue, 0⟩
def hstFsel : Reg := ⟨0xD040, .selector, 0⟩
def hstFwin : Reg := ⟨0xD048, .fn, 0⟩
def hstEvqBase : Reg := ⟨0xD050, .part, 0⟩
def hstEvqCfg : Reg := ⟨0xD058, .part, 0⟩
def hstEvqStat : Reg := ⟨0xD060, .part, 0⟩
def hstErr : Reg := ⟨0xD068, .part, 0⟩
def chuSel : Reg := ⟨0xE000, .selector, 0⟩
def chuHead : Reg := ⟨0xE008, .chute, 0⟩
def chuCfg : Reg := ⟨0xE010, .chute, 0⟩
def chuCtl : Reg := ⟨0xE018, .chute, 0⟩
def chuStat : Reg := ⟨0xE020, .chute, 0⟩
def chuCrc : Reg := ⟨0xE028, .chute, 0⟩
def chuDesc0 : Reg := ⟨0xE030, .chute, 0⟩
def chuDesc1 : Reg := ⟨0xE038, .chute, 0⟩
def chuDesc2 : Reg := ⟨0xE040, .chute, 0⟩
def chuDesc3 : Reg := ⟨0xE048, .chute, 0⟩
def chuDesc4 : Reg := ⟨0xE050, .chute, 0⟩
def chuDesc5 : Reg := ⟨0xE058, .chute, 0⟩
def chuDesc6 : Reg := ⟨0xE060, .chute, 0⟩
def chuDesc7 : Reg := ⟨0xE068, .chute, 0⟩
def chuErr : Reg := ⟨0xE070, .part, 0⟩
def chuErrAddr : Reg := ⟨0xE078, .part, 0⟩
def clkSel : Reg := ⟨0xF000, .selector, 0⟩
def clkDom : Reg := ⟨0xF008, .domain, 0⟩
def clkStat : Reg := ⟨0xF010, .domain, 0⟩
def clkXtal : Reg := ⟨0xF018, .part, 0⟩
def clkMon : Reg := ⟨0xF020, .part, 0⟩
def clkFmc : Reg := ⟨0xF028, .part, 0x100000000⟩
def clkFmcRes : Reg := ⟨0xF030, .part, 0⟩
def rstCause : Reg := ⟨0x10000, .part, 0⟩
def rstOpt : Reg := ⟨0x10008, .part, 0⟩
def rstCell : Reg := ⟨0x10010, .part, 0⟩
def rstStook : Reg := ⟨0x10018, .part, 0⟩
def rstShf : Reg := ⟨0x10020, .part, 0⟩
def rstStd : Reg := ⟨0x10028, .part, 0⟩
def rstWdt : Reg := ⟨0x10030, .part, 0⟩
def otpStat : Reg := ⟨0x11000, .part, 0x70⟩
def otpRaddr : Reg := ⟨0x11008, .selector, 0⟩
def otpRdata : Reg := ⟨0x11010, .otp, 0⟩
def otpProg : Reg := ⟨0x11018, .part, 0⟩
def thmSel : Reg := ⟨0x12000, .selector, 0⟩
def thmSens : Reg := ⟨0x12008, .sensor, 0⟩
def thmHot : Reg := ⟨0x12010, .part, 0⟩
def thmRth : Reg := ⟨0x12018, .part, 0⟩
def thmCool : Reg := ⟨0x12020, .part, 0x2d0⟩
def thmPlace : Reg := ⟨0x12028, .part, 0x1030⟩
def pwrCap : Reg := ⟨0x13000, .part, 0x1c80⟩
def pwrStat : Reg := ⟨0x13008, .part, 0x320⟩
def pwrDuty : Reg := ⟨0x13010, .cell, 0x10⟩
def pwrKeep : Reg := ⟨0x13018, .part, 0⟩

end R

/-! ## The fields -/

namespace F

def stdEccCfg_leak_ms : Fld := ⟨R.stdEccCfg, 0, 16, .st⟩
def stdEccCfg_thresh : Fld := ⟨R.stdEccCfg, 16, 16, .st⟩
def stdBsel_store : Fld := ⟨R.stdBsel, 0, 4, .rw⟩
def stdBkt_level : Fld := ⟨R.stdBkt, 0, 16, .ro⟩
def stdBkt_overflows : Fld := ⟨R.stdBkt, 16, 16, .rc⟩
def stdBkt_corrected : Fld := ⟨R.stdBkt, 32, 16, .rc⟩
def stdBkt_spares : Fld := ⟨R.stdBkt, 48, 5, .ro⟩
def stdUeCnt_records : Fld := ⟨R.stdUeCnt, 0, 32, .rc⟩
def stdUeCnt_dropped : Fld := ⟨R.stdUeCnt, 32, 16, .rc⟩
def stdUe0_word : Fld := ⟨R.stdUe0, 0, 64, .ro⟩
def stdUe1_word : Fld := ⟨R.stdUe1, 0, 64, .ro⟩
def stdUe2_word : Fld := ⟨R.stdUe2, 0, 64, .ro⟩
def stdUe3_word : Fld := ⟨R.stdUe3, 0, 64, .ro⟩
def stdBoot_stage : Fld := ⟨R.stdBoot, 0, 4, .ro⟩
def stdBoot_start : Fld := ⟨R.stdBoot, 4, 2, .ro⟩
def stdBoot_minimal : Fld := ⟨R.stdBoot, 6, 1, .ro⟩
def stdBoot_degraded : Fld := ⟨R.stdBoot, 7, 1, .ro⟩
def stdBoot_fail : Fld := ⟨R.stdBoot, 8, 8, .ro⟩
def stdBoot_cool : Fld := ⟨R.stdBoot, 16, 1, .ro⟩
def stdBoot_elapsed_ms : Fld := ⟨R.stdBoot, 32, 32, .ro⟩
def stdBootRet_cells : Fld := ⟨R.stdBootRet, 0, 11, .ro⟩
def stdBootRet_channels : Fld := ⟨R.stdBootRet, 11, 11, .ro⟩
def stdBootRet_narrowed : Fld := ⟨R.stdBootRet, 22, 11, .ro⟩
def stdBootRet_towers : Fld := ⟨R.stdBootRet, 33, 3, .ro⟩
def stdBootRet_ports : Fld := ⟨R.stdBootRet, 36, 4, .ro⟩
def stdBootRet_log_lost : Fld := ⟨R.stdBootRet, 40, 8, .rc⟩
def stdBootRet_remaps : Fld := ⟨R.stdBootRet, 48, 16, .ro⟩
def stdRcvLen_len : Fld := ⟨R.stdRcvLen, 0, 25, .rw⟩
def stdRcvCtl_cmd : Fld := ⟨R.stdRcvCtl, 0, 4, .rw⟩
def stdRcvStat_state : Fld := ⟨R.stdRcvStat, 0, 3, .ro⟩
def stdRcvStat_fail : Fld := ⟨R.stdRcvStat, 8, 8, .ro⟩
def stdRcvStat_progress : Fld := ⟨R.stdRcvStat, 16, 13, .ro⟩
def stdAttNonce0_nonce : Fld := ⟨R.stdAttNonce0, 0, 64, .rw⟩
def stdAttNonce1_nonce : Fld := ⟨R.stdAttNonce1, 0, 64, .rw⟩
def stdAttNonce2_nonce : Fld := ⟨R.stdAttNonce2, 0, 64, .rw⟩
def stdAttNonce3_nonce : Fld := ⟨R.stdAttNonce3, 0, 64, .rw⟩
def stdAttCtl_go : Fld := ⟨R.stdAttCtl, 0, 1, .rw⟩
def stdAttCtl_status : Fld := ⟨R.stdAttCtl, 1, 3, .ro⟩
def stdEvtCfg_msix : Fld := ⟨R.stdEvtCfg, 0, 3, .rw⟩
def stdEvtCfg_i3c : Fld := ⟨R.stdEvtCfg, 3, 3, .rw⟩
def tikPeriod_us : Fld := ⟨R.tikPeriod, 0, 10, .st⟩
def tikWindow_ns : Fld := ⟨R.tikWindow, 0, 16, .st⟩
def tikGuard_pct : Fld := ⟨R.tikGuard, 0, 5, .st⟩
def tikCount_count : Fld := ⟨R.tikCount, 0, 64, .ro⟩
def tikPhase_phase : Fld := ⟨R.tikPhase, 0, 2, .ro⟩
def tikPhase_stretch : Fld := ⟨R.tikPhase, 2, 1, .ro⟩
def tikPhase_replay : Fld := ⟨R.tikPhase, 3, 1, .ro⟩
def tikPhase_since_edge : Fld := ⟨R.tikPhase, 8, 32, .ro⟩
def tikLate_stretch_ns : Fld := ⟨R.tikLate, 0, 32, .ro⟩
def tikLate_stretched : Fld := ⟨R.tikLate, 32, 16, .rc⟩
def tikLate_overruns : Fld := ⟨R.tikLate, 48, 16, .rc⟩
def tikRaise_ns : Fld := ⟨R.tikRaise, 0, 32, .ro⟩
def tikCmt_req : Fld := ⟨R.tikCmt, 0, 1, .rw⟩
def tikCmtStat_result : Fld := ⟨R.tikCmtStat, 0, 2, .ro⟩
def tikCmtStat_source : Fld := ⟨R.tikCmtStat, 2, 3, .ro⟩
def tikCmtStat_deferred : Fld := ⟨R.tikCmtStat, 5, 1, .ro⟩
def tikCmtStat_check : Fld := ⟨R.tikCmtStat, 16, 16, .ro⟩
def tikCmtStat_edge : Fld := ⟨R.tikCmtStat, 32, 32, .ro⟩
def tikStg_revert : Fld := ⟨R.tikStg, 0, 1, .rw⟩
def tikStg_dirty : Fld := ⟨R.tikStg, 1, 1, .ro⟩
def tikStg_diff : Fld := ⟨R.tikStg, 2, 14, .ro⟩
def tikStg_last : Fld := ⟨R.tikStg, 16, 2, .ro⟩
def tikCmtWhere_offset : Fld := ⟨R.tikCmtWhere, 0, 16, .ro⟩
def tikCmtWhere_instance : Fld := ⟨R.tikCmtWhere, 16, 16, .ro⟩
def shfSel_id : Fld := ⟨R.shfSel, 0, 12, .rw⟩
def shfStatus_state : Fld := ⟨R.shfStatus, 0, 2, .ro⟩
def shfStatus_late : Fld := ⟨R.shfStatus, 2, 1, .ro⟩
def shfStatus_stretched : Fld := ⟨R.shfStatus, 3, 1, .ro⟩
def shfStatus_overrun : Fld := ⟨R.shfStatus, 4, 1, .ro⟩
def shfStatus_replayed : Fld := ⟨R.shfStatus, 5, 1, .ro⟩
def shfStatus_late_run : Fld := ⟨R.shfStatus, 8, 8, .ro⟩
def shfStatus_epoch : Fld := ⟨R.shfStatus, 16, 8, .ro⟩
def shfStatus_margin_ns : Fld := ⟨R.shfStatus, 32, 32, .ro⟩
def shfBudget_ns : Fld := ⟨R.shfBudget, 0, 32, .st⟩
def shfErrsum_sources : Fld := ⟨R.shfErrsum, 0, 7, .w1c⟩
def shfCap_m : Fld := ⟨R.shfCap, 0, 9, .ro⟩
def shfCap_a : Fld := ⟨R.shfCap, 9, 8, .ro⟩
def shfCap_v : Fld := ⟨R.shfCap, 17, 9, .ro⟩
def shfCap_g : Fld := ⟨R.shfCap, 26, 8, .ro⟩
def shfCap_l : Fld := ⟨R.shfCap, 34, 7, .ro⟩
def shfCap_s : Fld := ⟨R.shfCap, 41, 7, .ro⟩
def shfCap_level : Fld := ⟨R.shfCap, 48, 4, .ro⟩
def shfCap_degraded : Fld := ⟨R.shfCap, 53, 1, .ro⟩
def shfCap_parts : Fld := ⟨R.shfCap, 54, 10, .ro⟩
def shfAvail0_cells : Fld := ⟨R.shfAvail0, 0, 64, .ro⟩
def shfAvail1_cells : Fld := ⟨R.shfAvail1, 0, 64, .ro⟩
def shfAvail2_cells : Fld := ⟨R.shfAvail2, 0, 64, .ro⟩
def shfAvail3_cells : Fld := ⟨R.shfAvail3, 0, 64, .ro⟩
def shfAvail4_cells : Fld := ⟨R.shfAvail4, 0, 64, .ro⟩
def shfAvail5_cells : Fld := ⟨R.shfAvail5, 0, 64, .ro⟩
def shfAvail6_cells : Fld := ⟨R.shfAvail6, 0, 64, .ro⟩
def shfAvail7_cells : Fld := ⟨R.shfAvail7, 0, 64, .ro⟩
def shfAvail8_cells : Fld := ⟨R.shfAvail8, 0, 64, .ro⟩
def shfAvail9_cells : Fld := ⟨R.shfAvail9, 0, 64, .ro⟩
def shfAvail10_cells : Fld := ⟨R.shfAvail10, 0, 64, .ro⟩
def shfAvail11_cells : Fld := ⟨R.shfAvail11, 0, 64, .ro⟩
def shfAvail12_cells : Fld := ⟨R.shfAvail12, 0, 64, .ro⟩
def shfAvail13_cells : Fld := ⟨R.shfAvail13, 0, 64, .ro⟩
def shfAvail14_cells : Fld := ⟨R.shfAvail14, 0, 64, .ro⟩
def shfAvail15_cells : Fld := ⟨R.shfAvail15, 0, 64, .ro⟩
def celSel_cell : Fld := ⟨R.celSel, 0, 10, .rw⟩
def celTick_margin_ns : Fld := ⟨R.celTick, 0, 32, .ro⟩
def celTick_own_late_ns : Fld := ⟨R.celTick, 32, 24, .ro⟩
def celTick_late_run : Fld := ⟨R.celTick, 56, 5, .ro⟩
def celTick_slow : Fld := ⟨R.celTick, 61, 1, .ro⟩
def celTick_demoted : Fld := ⟨R.celTick, 62, 1, .ro⟩
def celTick_idle : Fld := ⟨R.celTick, 63, 1, .ro⟩
def celStat_busy : Fld := ⟨R.celStat, 0, 1, .ro⟩
def celStat_entry : Fld := ⟨R.celStat, 1, 6, .ro⟩
def celStat_tables : Fld := ⟨R.celStat, 7, 1, .ro⟩
def celStat_rows_in : Fld := ⟨R.celStat, 16, 16, .ro⟩
def celVec_sat : Fld := ⟨R.celVec, 0, 32, .rc⟩
def celVec_nan : Fld := ⟨R.celVec, 32, 32, .rc⟩
def celGat_range : Fld := ⟨R.celGat, 0, 32, .rc⟩
def celGat_drops : Fld := ⟨R.celGat, 32, 16, .rc⟩
def celGat_collide : Fld := ⟨R.celGat, 48, 16, .rc⟩
def celColl_done : Fld := ⟨R.celColl, 0, 32, .rc⟩
def celColl_rerouted : Fld := ⟨R.celColl, 32, 16, .rc⟩
def celColl_failed : Fld := ⟨R.celColl, 48, 16, .rc⟩
def celSamp_draws : Fld := ⟨R.celSamp, 0, 32, .rc⟩
def celSamp_accepted : Fld := ⟨R.celSamp, 32, 16, .rc⟩
def celSamp_empty : Fld := ⟨R.celSamp, 48, 16, .rc⟩
def celMesh_epoch_drop : Fld := ⟨R.celMesh, 0, 32, .rc⟩
def celMesh_lost : Fld := ⟨R.celMesh, 32, 32, .rc⟩
def celBkt_level : Fld := ⟨R.celBkt, 0, 16, .ro⟩
def celBkt_overflows : Fld := ⟨R.celBkt, 16, 16, .rc⟩
def celBkt_corrected : Fld := ⟨R.celBkt, 32, 32, .rc⟩
def mxcStat_busy : Fld := ⟨R.mxcStat, 0, 1, .ro⟩
def mxcStat_entry : Fld := ⟨R.mxcStat, 1, 2, .ro⟩
def mxcStat_wide : Fld := ⟨R.mxcStat, 3, 1, .ro⟩
def mxcStat_group : Fld := ⟨R.mxcStat, 16, 16, .ro⟩
def mxcStat_tile : Fld := ⟨R.mxcStat, 32, 32, .ro⟩
def mxcPasses_done : Fld := ⟨R.mxcPasses, 0, 32, .rc⟩
def mxcPasses_discarded : Fld := ⟨R.mxcPasses, 32, 32, .rc⟩
def mxcFlags_wide : Fld := ⟨R.mxcFlags, 0, 16, .rc⟩
def mxcFlags_nan : Fld := ⟨R.mxcFlags, 16, 16, .rc⟩
def mxcFlags_sat : Fld := ⟨R.mxcFlags, 32, 16, .rc⟩
def mxcFlags_zero_scale : Fld := ⟨R.mxcFlags, 48, 16, .rc⟩
def mxcBubble_feed : Fld := ⟨R.mxcBubble, 0, 32, .rc⟩
def mxcBubble_wload : Fld := ⟨R.mxcBubble, 32, 32, .rc⟩
def mxcStall_drain : Fld := ⟨R.mxcStall, 0, 32, .rc⟩
def mxcStall_throttle : Fld := ⟨R.mxcStall, 32, 32, .rc⟩
def thrStat_busy : Fld := ⟨R.thrStat, 0, 1, .ro⟩
def thrStat_in_loft : Fld := ⟨R.thrStat, 1, 1, .ro⟩
def thrStat_merging : Fld := ⟨R.thrStat, 2, 1, .ro⟩
def thrStat_tables : Fld := ⟨R.thrStat, 3, 1, .ro⟩
def thrStat_kv_head : Fld := ⟨R.thrStat, 16, 16, .ro⟩
def thrStat_block : Fld := ⟨R.thrStat, 32, 32, .ro⟩
def thrBlocks_blocks : Fld := ⟨R.thrBlocks, 0, 32, .rc⟩
def thrBlocks_rescales : Fld := ⟨R.thrBlocks, 32, 32, .rc⟩
def thrEdge_flush : Fld := ⟨R.thrEdge, 0, 16, .rc⟩
def thrEdge_empty : Fld := ⟨R.thrEdge, 16, 16, .rc⟩
def thrEdge_nan : Fld := ⟨R.thrEdge, 32, 16, .rc⟩
def thrEdge_sat : Fld := ⟨R.thrEdge, 48, 8, .rc⟩
def thrEdge_bad_global : Fld := ⟨R.thrEdge, 56, 8, .rc⟩
def thrPos_admitted : Fld := ⟨R.thrPos, 0, 32, .rc⟩
def thrPos_evicted : Fld := ⟨R.thrPos, 32, 16, .rc⟩
def thrPos_loft_pages : Fld := ⟨R.thrPos, 48, 16, .rc⟩
def kvpStat_appends : Fld := ⟨R.kvpStat, 0, 32, .rc⟩
def kvpStat_opened : Fld := ⟨R.kvpStat, 32, 16, .rc⟩
def kvpStat_released : Fld := ⟨R.kvpStat, 48, 16, .rc⟩
def kvpQuant_sat : Fld := ⟨R.kvpQuant, 0, 32, .rc⟩
def kvpQuant_nan : Fld := ⟨R.kvpQuant, 32, 32, .rc⟩
def kvpWin_evicted : Fld := ⟨R.kvpWin, 0, 32, .rc⟩
def kvpWin_freed : Fld := ⟨R.kvpWin, 32, 16, .rc⟩
def kvpWin_fails : Fld := ⟨R.kvpWin, 48, 16, .rc⟩
def kvpDrop_page : Fld := ⟨R.kvpDrop, 0, 32, .rc⟩
def kvpDrop_copies : Fld := ⟨R.kvpDrop, 32, 16, .rc⟩
def kvpSsel_stream : Fld := ⟨R.kvpSsel, 0, 16, .rw⟩
def kvpSinfo_prec : Fld := ⟨R.kvpSinfo, 0, 2, .ro⟩
def kvpSinfo_prefix : Fld := ⟨R.kvpSinfo, 2, 2, .ro⟩
def kvpSinfo_privileged : Fld := ⟨R.kvpSinfo, 4, 1, .ro⟩
def kvpSinfo_winnow : Fld := ⟨R.kvpSinfo, 5, 1, .ro⟩
def kvpSinfo_failed : Fld := ⟨R.kvpSinfo, 6, 1, .ro⟩
def kvpSinfo_open : Fld := ⟨R.kvpSinfo, 7, 1, .ro⟩
def kvpSinfo_epoch : Fld := ⟨R.kvpSinfo, 8, 8, .ro⟩
def kvpSinfo_length : Fld := ⟨R.kvpSinfo, 16, 21, .ro⟩
def kvpSpages_held : Fld := ⟨R.kvpSpages, 0, 24, .ro⟩
def kvpSpages_shared : Fld := ⟨R.kvpSpages, 24, 24, .ro⟩
def kvpSpages_slot : Fld := ⟨R.kvpSpages, 48, 14, .ro⟩
def kvpSres_budget : Fld := ⟨R.kvpSres, 0, 32, .ro⟩
def pfxCfg_mib : Fld := ⟨R.pfxCfg, 0, 7, .ro⟩
def pfxCfg_lost : Fld := ⟨R.pfxCfg, 7, 1, .ro⟩
def pfxCtl_flush : Fld := ⟨R.pfxCtl, 0, 1, .rw⟩
def pfxLook_lookups : Fld := ⟨R.pfxLook, 0, 32, .rc⟩
def pfxLook_hits : Fld := ⟨R.pfxLook, 32, 32, .rc⟩
def pfxMiss_absent : Fld := ⟨R.pfxMiss, 0, 16, .rc⟩
def pfxMiss_check : Fld := ⟨R.pfxMiss, 16, 16, .rc⟩
def pfxMiss_verify : Fld := ⟨R.pfxMiss, 32, 16, .rc⟩
def pfxMiss_prec : Fld := ⟨R.pfxMiss, 48, 8, .rc⟩
def pfxMiss_budget : Fld := ⟨R.pfxMiss, 56, 8, .rc⟩
def pfxIns_inserts : Fld := ⟨R.pfxIns, 0, 32, .rc⟩
def pfxIns_skipped : Fld := ⟨R.pfxIns, 32, 16, .rc⟩
def pfxIns_reclaimed : Fld := ⟨R.pfxIns, 48, 16, .rc⟩
def pfxFill_entries : Fld := ⟨R.pfxFill, 0, 22, .ro⟩
def vccSel_channel : Fld := ⟨R.vccSel, 0, 10, .rw⟩
def vccStat_state : Fld := ⟨R.vccStat, 0, 3, .ro⟩
def vccStat_hot_hold : Fld := ⟨R.vccStat, 3, 1, .ro⟩
def vccStat_half : Fld := ⟨R.vccStat, 4, 1, .ro⟩
def vccStat_spares : Fld := ⟨R.vccStat, 5, 5, .ro⟩
def vccStat_refresh : Fld := ⟨R.vccStat, 16, 24, .ro⟩
def vccStat_owed : Fld := ⟨R.vccStat, 40, 4, .ro⟩
def vccCtl_retrain : Fld := ⟨R.vccCtl, 0, 1, .rw⟩
def vccCtl_reset : Fld := ⟨R.vccCtl, 1, 1, .rw⟩
def vccTrain_edge : Fld := ⟨R.vccTrain, 0, 32, .ro⟩
def vccTrain_dur : Fld := ⟨R.vccTrain, 32, 12, .ro⟩
def vccTrain_count : Fld := ⟨R.vccTrain, 44, 16, .ro⟩
def vccTrain_pending : Fld := ⟨R.vccTrain, 60, 1, .ro⟩
def vccTrain_urgent : Fld := ⟨R.vccTrain, 61, 1, .ro⟩
def vccMargin_req : Fld := ⟨R.vccMargin, 0, 1, .rw⟩
def vccMargin_mode : Fld := ⟨R.vccMargin, 1, 1, .rw⟩
def vccMargin_bit : Fld := ⟨R.vccMargin, 2, 9, .rw⟩
def vccMargin_status : Fld := ⟨R.vccMargin, 11, 2, .ro⟩
def vccEye_worst_t : Fld := ⟨R.vccEye, 0, 8, .ro⟩
def vccEye_worst_v : Fld := ⟨R.vccEye, 8, 8, .ro⟩
def vccEye_worst_bit : Fld := ⟨R.vccEye, 16, 9, .ro⟩
def vccEye_sel_t : Fld := ⟨R.vccEye, 25, 8, .ro⟩
def vccEye_sel_v : Fld := ⟨R.vccEye, 33, 8, .ro⟩
def vccErr_addr : Fld := ⟨R.vccErr, 0, 16, .rc⟩
def vccErr_holds : Fld := ⟨R.vccErr, 16, 16, .rc⟩
def vccErr_wires : Fld := ⟨R.vccErr, 32, 16, .rc⟩
def vccErr_forced : Fld := ⟨R.vccErr, 48, 16, .rc⟩
def vccRetrain_interval_ms : Fld := ⟨R.vccRetrain, 0, 14, .st⟩
def vccRetrain_delta_c : Fld := ⟨R.vccRetrain, 14, 6, .st⟩
def vccBkt_level : Fld := ⟨R.vccBkt, 0, 16, .ro⟩
def vccBkt_overflows : Fld := ⟨R.vccBkt, 16, 16, .rc⟩
def vccBkt_corrected : Fld := ⟨R.vccBkt, 32, 32, .rc⟩
def vccLost_entries : Fld := ⟨R.vccLost, 0, 7, .ro⟩
def vccLost_remapped : Fld := ⟨R.vccLost, 7, 10, .ro⟩
def vccLost_listed : Fld := ⟨R.vccLost, 17, 10, .ro⟩
def fllStat_active : Fld := ⟨R.fllStat, 0, 8, .ro⟩
def fllStat_queued : Fld := ⟨R.fllStat, 8, 16, .ro⟩
def fllStat_qvalid : Fld := ⟨R.fllStat, 24, 1, .ro⟩
def fllStat_held : Fld := ⟨R.fllStat, 25, 1, .ro⟩
def fllOps_score : Fld := ⟨R.fllOps, 0, 32, .rc⟩
def fllOps_scrub : Fld := ⟨R.fllOps, 32, 16, .rc⟩
def fllOps_other : Fld := ⟨R.fllOps, 48, 16, .rc⟩
def fllHold_held : Fld := ⟨R.fllHold, 0, 32, .rc⟩
def fllHold_longest_ns : Fld := ⟨R.fllHold, 32, 32, .rc⟩
def fllEcc_corrected : Fld := ⟨R.fllEcc, 0, 32, .rc⟩
def fllEcc_uncorrectable : Fld := ⟨R.fllEcc, 32, 16, .rc⟩
def fllEcc_abandoned : Fld := ⟨R.fllEcc, 48, 16, .rc⟩
def fllLimit0_n0 : Fld := ⟨R.fllLimit0, 0, 4, .ro⟩
def fllLimit0_n1 : Fld := ⟨R.fllLimit0, 4, 4, .ro⟩
def fllLimit0_n2 : Fld := ⟨R.fllLimit0, 8, 4, .ro⟩
def fllLimit0_n3 : Fld := ⟨R.fllLimit0, 12, 4, .ro⟩
def fllLimit0_n4 : Fld := ⟨R.fllLimit0, 16, 4, .ro⟩
def fllLimit0_n5 : Fld := ⟨R.fllLimit0, 20, 4, .ro⟩
def fllLimit0_n6 : Fld := ⟨R.fllLimit0, 24, 4, .ro⟩
def fllLimit0_n7 : Fld := ⟨R.fllLimit0, 28, 4, .ro⟩
def fllLimit0_n8 : Fld := ⟨R.fllLimit0, 32, 4, .ro⟩
def fllLimit0_n9 : Fld := ⟨R.fllLimit0, 36, 4, .ro⟩
def fllLimit0_n10 : Fld := ⟨R.fllLimit0, 40, 4, .ro⟩
def fllLimit0_n11 : Fld := ⟨R.fllLimit0, 44, 4, .ro⟩
def fllLimit0_n12 : Fld := ⟨R.fllLimit0, 48, 4, .ro⟩
def fllLimit0_n13 : Fld := ⟨R.fllLimit0, 52, 4, .ro⟩
def fllLimit0_n14 : Fld := ⟨R.fllLimit0, 56, 4, .ro⟩
def fllLimit0_n15 : Fld := ⟨R.fllLimit0, 60, 4, .ro⟩
def fllLimit1_n0 : Fld := ⟨R.fllLimit1, 0, 4, .ro⟩
def fllLimit1_n1 : Fld := ⟨R.fllLimit1, 4, 4, .ro⟩
def fllLimit1_n2 : Fld := ⟨R.fllLimit1, 8, 4, .ro⟩
def fllLimit1_n3 : Fld := ⟨R.fllLimit1, 12, 4, .ro⟩
def fllLimit1_n4 : Fld := ⟨R.fllLimit1, 16, 4, .ro⟩
def fllLimit1_n5 : Fld := ⟨R.fllLimit1, 20, 4, .ro⟩
def fllLimit1_n6 : Fld := ⟨R.fllLimit1, 24, 4, .ro⟩
def fllLimit1_n7 : Fld := ⟨R.fllLimit1, 28, 4, .ro⟩
def fllLimit1_n8 : Fld := ⟨R.fllLimit1, 32, 4, .ro⟩
def fllLimit1_n9 : Fld := ⟨R.fllLimit1, 36, 4, .ro⟩
def fllLimit1_n10 : Fld := ⟨R.fllLimit1, 40, 4, .ro⟩
def fllLimit1_n11 : Fld := ⟨R.fllLimit1, 44, 4, .ro⟩
def fllLimit1_n12 : Fld := ⟨R.fllLimit1, 48, 4, .ro⟩
def fllLimit1_n13 : Fld := ⟨R.fllLimit1, 52, 4, .ro⟩
def fllLimit1_n14 : Fld := ⟨R.fllLimit1, 56, 4, .ro⟩
def fllLimit1_n15 : Fld := ⟨R.fllLimit1, 60, 4, .ro⟩
def fllLimit2_n0 : Fld := ⟨R.fllLimit2, 0, 4, .ro⟩
def fllLimit2_n1 : Fld := ⟨R.fllLimit2, 4, 4, .ro⟩
def fllLimit2_n2 : Fld := ⟨R.fllLimit2, 8, 4, .ro⟩
def fllLimit2_n3 : Fld := ⟨R.fllLimit2, 12, 4, .ro⟩
def fllLimit2_n4 : Fld := ⟨R.fllLimit2, 16, 4, .ro⟩
def fllLimit2_n5 : Fld := ⟨R.fllLimit2, 20, 4, .ro⟩
def fllLimit2_n6 : Fld := ⟨R.fllLimit2, 24, 4, .ro⟩
def fllLimit2_n7 : Fld := ⟨R.fllLimit2, 28, 4, .ro⟩
def fllLimit2_n8 : Fld := ⟨R.fllLimit2, 32, 4, .ro⟩
def fllLimit2_n9 : Fld := ⟨R.fllLimit2, 36, 4, .ro⟩
def fllLimit2_n10 : Fld := ⟨R.fllLimit2, 40, 4, .ro⟩
def fllLimit2_n11 : Fld := ⟨R.fllLimit2, 44, 4, .ro⟩
def fllLimit2_n12 : Fld := ⟨R.fllLimit2, 48, 4, .ro⟩
def fllLimit2_n13 : Fld := ⟨R.fllLimit2, 52, 4, .ro⟩
def fllLimit2_n14 : Fld := ⟨R.fllLimit2, 56, 4, .ro⟩
def fllLimit2_n15 : Fld := ⟨R.fllLimit2, 60, 4, .ro⟩
def fllLimit3_n0 : Fld := ⟨R.fllLimit3, 0, 4, .ro⟩
def fllLimit3_n1 : Fld := ⟨R.fllLimit3, 4, 4, .ro⟩
def fllLimit3_n2 : Fld := ⟨R.fllLimit3, 8, 4, .ro⟩
def fllLimit3_n3 : Fld := ⟨R.fllLimit3, 12, 4, .ro⟩
def fllLimit3_n4 : Fld := ⟨R.fllLimit3, 16, 4, .ro⟩
def fllLimit3_n5 : Fld := ⟨R.fllLimit3, 20, 4, .ro⟩
def fllLimit3_n6 : Fld := ⟨R.fllLimit3, 24, 4, .ro⟩
def fllLimit3_n7 : Fld := ⟨R.fllLimit3, 28, 4, .ro⟩
def fllLimit3_n8 : Fld := ⟨R.fllLimit3, 32, 4, .ro⟩
def fllLimit3_n9 : Fld := ⟨R.fllLimit3, 36, 4, .ro⟩
def fllLimit3_n10 : Fld := ⟨R.fllLimit3, 40, 4, .ro⟩
def fllLimit3_n11 : Fld := ⟨R.fllLimit3, 44, 4, .ro⟩
def fllLimit3_n12 : Fld := ⟨R.fllLimit3, 48, 4, .ro⟩
def fllLimit3_n13 : Fld := ⟨R.fllLimit3, 52, 4, .ro⟩
def fllLimit3_n14 : Fld := ⟨R.fllLimit3, 56, 4, .ro⟩
def fllLimit3_n15 : Fld := ⟨R.fllLimit3, 60, 4, .ro⟩
def fllPort0_word0 : Fld := ⟨R.fllPort0, 0, 64, .rw⟩
def fllPort1_word1 : Fld := ⟨R.fllPort1, 0, 64, .rw⟩
def fllPort2_word2 : Fld := ⟨R.fllPort2, 0, 64, .rw⟩
def fllPaddr_addr : Fld := ⟨R.fllPaddr, 0, 48, .rw⟩
def fllPctl_go : Fld := ⟨R.fllPctl, 0, 1, .rw⟩
def fllPctl_status : Fld := ⟨R.fllPctl, 1, 3, .ro⟩
def rakRate_min : Fld := ⟨R.rakRate, 0, 16, .st⟩
def rakStat_corrected : Fld := ⟨R.rakStat, 0, 32, .rc⟩
def rakStat_behind : Fld := ⟨R.rakStat, 32, 8, .rc⟩
def rakStat_queue_full : Fld := ⟨R.rakStat, 40, 8, .rc⟩
def rakStat_overwritten : Fld := ⟨R.rakStat, 48, 16, .rc⟩
def rakPass_passes : Fld := ⟨R.rakPass, 0, 32, .ro⟩
def rakPass_progress : Fld := ⟨R.rakPass, 32, 10, .ro⟩
def rakLogsel_entry : Fld := ⟨R.rakLogsel, 0, 12, .rw⟩
def rakLogsel_head : Fld := ⟨R.rakLogsel, 12, 12, .ro⟩
def rakLog0_entry : Fld := ⟨R.rakLog0, 0, 64, .ro⟩
def rakLog1_entry : Fld := ⟨R.rakLog1, 0, 64, .ro⟩
def lnkSel_port : Fld := ⟨R.lnkSel, 0, 3, .rw⟩
def lnkStat_state : Fld := ⟨R.lnkStat, 0, 3, .ro⟩
def lnkStat_take : Fld := ⟨R.lnkStat, 3, 1, .ro⟩
def lnkStat_rerouted : Fld := ⟨R.lnkStat, 4, 1, .ro⟩
def lnkStat_peer : Fld := ⟨R.lnkStat, 5, 10, .ro⟩
def lnkStat_bypassed : Fld := ⟨R.lnkStat, 15, 3, .ro⟩
def lnkErr_crc : Fld := ⟨R.lnkErr, 0, 16, .rc⟩
def lnkErr_retries : Fld := ⟨R.lnkErr, 16, 16, .rc⟩
def lnkErr_epoch : Fld := ⟨R.lnkErr, 32, 16, .rc⟩
def lnkErr_down : Fld := ⟨R.lnkErr, 48, 16, .rc⟩
def lnkFec_corrected : Fld := ⟨R.lnkFec, 0, 32, .rc⟩
def lnkFec_uncorrectable : Fld := ⟨R.lnkFec, 32, 32, .rc⟩
def lnkTrain_edge : Fld := ⟨R.lnkTrain, 0, 32, .ro⟩
def lnkTrain_dur : Fld := ⟨R.lnkTrain, 32, 12, .ro⟩
def lnkTrain_count : Fld := ⟨R.lnkTrain, 44, 16, .ro⟩
def lnkTrain_pending : Fld := ⟨R.lnkTrain, 60, 1, .ro⟩
def lnkCtl_retrain : Fld := ⟨R.lnkCtl, 0, 1, .rw⟩
def lnkCtl_reset : Fld := ⟨R.lnkCtl, 1, 1, .rw⟩
def lnkCfg_prio : Fld := ⟨R.lnkCfg, 0, 4, .st⟩
def lnkCfg_ser_limit : Fld := ⟨R.lnkCfg, 8, 24, .st⟩
def lnkRing_own : Fld := ⟨R.lnkRing, 0, 10, .ro⟩
def lnkRing_row_len : Fld := ⟨R.lnkRing, 10, 5, .ro⟩
def lnkRing_col_len : Fld := ⟨R.lnkRing, 15, 5, .ro⟩
def lnkRing_keeper : Fld := ⟨R.lnkRing, 20, 10, .ro⟩
def lnkRing_is_keeper : Fld := ⟨R.lnkRing, 30, 1, .ro⟩
def lnkRing_pause : Fld := ⟨R.lnkRing, 31, 1, .ro⟩
def lnkRing_row_broken : Fld := ⟨R.lnkRing, 32, 1, .ro⟩
def lnkRing_column_broken : Fld := ⟨R.lnkRing, 33, 1, .ro⟩
def lnkRing_mismatch : Fld := ⟨R.lnkRing, 34, 1, .ro⟩
def d2dSel_link : Fld := ⟨R.d2dSel, 0, 3, .rw⟩
def d2dStat_state : Fld := ⟨R.d2dStat, 0, 2, .ro⟩
def d2dStat_half : Fld := ⟨R.d2dStat, 2, 1, .ro⟩
def d2dStat_wrapper : Fld := ⟨R.d2dStat, 3, 1, .ro⟩
def d2dStat_test : Fld := ⟨R.d2dStat, 4, 1, .ro⟩
def d2dStat_spares : Fld := ⟨R.d2dStat, 5, 6, .ro⟩
def d2dStat_rev_near : Fld := ⟨R.d2dStat, 11, 8, .ro⟩
def d2dStat_rev_far : Fld := ⟨R.d2dStat, 19, 8, .ro⟩
def d2dStat_proto : Fld := ⟨R.d2dStat, 27, 4, .ro⟩
def d2dErr_retries : Fld := ⟨R.d2dErr, 0, 32, .rc⟩
def d2dErr_lanes : Fld := ⟨R.d2dErr, 32, 16, .rc⟩
def d2dErr_wrapper : Fld := ⟨R.d2dErr, 48, 16, .rc⟩
def d2dCtl_reset : Fld := ⟨R.d2dCtl, 0, 1, .rw⟩
def d2dCtl_test : Fld := ⟨R.d2dCtl, 1, 1, .rw⟩
def d2dCtl_loop : Fld := ⟨R.d2dCtl, 2, 1, .rw⟩
def d2dCfg_lane_thresh : Fld := ⟨R.d2dCfg, 0, 16, .st⟩
def hstWin_base : Fld := ⟨R.hstWin, 0, 41, .rw⟩
def hstQsel_queue : Fld := ⟨R.hstQsel, 0, 6, .rw⟩
def hstQown_function : Fld := ⟨R.hstQown, 0, 6, .rw⟩
def hstSqBase_addr : Fld := ⟨R.hstSqBase, 0, 64, .rw⟩
def hstCqBase_addr : Fld := ⟨R.hstCqBase, 0, 64, .rw⟩
def hstQcfg_enable : Fld := ⟨R.hstQcfg, 0, 1, .rw⟩
def hstQcfg_sq_log : Fld := ⟨R.hstQcfg, 1, 5, .rw⟩
def hstQcfg_cq_log : Fld := ⟨R.hstQcfg, 6, 5, .rw⟩
def hstQcfg_vector : Fld := ⟨R.hstQcfg, 11, 5, .rw⟩
def hstQstat_sq_head : Fld := ⟨R.hstQstat, 0, 16, .ro⟩
def hstQstat_cq_tail : Fld := ⟨R.hstQstat, 16, 16, .ro⟩
def hstQstat_reserved_cq : Fld := ⟨R.hstQstat, 32, 16, .ro⟩
def hstQstat_phase : Fld := ⟨R.hstQstat, 48, 1, .ro⟩
def hstQstat_error : Fld := ⟨R.hstQstat, 49, 3, .ro⟩
def hstQcnt_commands : Fld := ⟨R.hstQcnt, 0, 32, .rc⟩
def hstQcnt_cq_stall : Fld := ⟨R.hstQcnt, 32, 32, .rc⟩
def hstFsel_function : Fld := ⟨R.hstFsel, 0, 6, .rw⟩
def hstFwin_base : Fld := ⟨R.hstFwin, 0, 21, .rw⟩
def hstFwin_limit : Fld := ⟨R.hstFwin, 21, 21, .rw⟩
def hstEvqBase_addr : Fld := ⟨R.hstEvqBase, 0, 64, .rw⟩
def hstEvqCfg_enable : Fld := ⟨R.hstEvqCfg, 0, 1, .rw⟩
def hstEvqCfg_log : Fld := ⟨R.hstEvqCfg, 1, 5, .rw⟩
def hstEvqStat_tail : Fld := ⟨R.hstEvqStat, 0, 16, .ro⟩
def hstEvqStat_head : Fld := ⟨R.hstEvqStat, 16, 16, .ro⟩
def hstEvqStat_lost : Fld := ⟨R.hstEvqStat, 32, 16, .rc⟩
def hstErr_doorbell : Fld := ⟨R.hstErr, 0, 16, .rc⟩
def hstErr_win_drop : Fld := ⟨R.hstErr, 16, 16, .rc⟩
def hstErr_win_err : Fld := ⟨R.hstErr, 32, 16, .rc⟩
def hstErr_host_mem : Fld := ⟨R.hstErr, 48, 16, .rc⟩
def chuSel_channel : Fld := ⟨R.chuSel, 0, 5, .rw⟩
def chuHead_addr : Fld := ⟨R.chuHead, 0, 63, .rw⟩
def chuHead_dev : Fld := ⟨R.chuHead, 63, 1, .rw⟩
def chuCfg_owner : Fld := ⟨R.chuCfg, 0, 6, .rw⟩
def chuCfg_vector : Fld := ⟨R.chuCfg, 6, 5, .rw⟩
def chuCtl_go : Fld := ⟨R.chuCtl, 0, 1, .rw⟩
def chuCtl_abort : Fld := ⟨R.chuCtl, 1, 1, .rw⟩
def chuStat_status : Fld := ⟨R.chuStat, 0, 8, .ro⟩
def chuStat_running : Fld := ⟨R.chuStat, 8, 1, .ro⟩
def chuStat_moved : Fld := ⟨R.chuStat, 32, 32, .ro⟩
def chuCrc_crc : Fld := ⟨R.chuCrc, 0, 32, .ro⟩
def chuCrc_done : Fld := ⟨R.chuCrc, 32, 32, .ro⟩
def chuDesc0_word : Fld := ⟨R.chuDesc0, 0, 64, .ro⟩
def chuDesc1_word : Fld := ⟨R.chuDesc1, 0, 64, .ro⟩
def chuDesc2_word : Fld := ⟨R.chuDesc2, 0, 64, .ro⟩
def chuDesc3_word : Fld := ⟨R.chuDesc3, 0, 64, .ro⟩
def chuDesc4_word : Fld := ⟨R.chuDesc4, 0, 64, .ro⟩
def chuDesc5_word : Fld := ⟨R.chuDesc5, 0, 64, .ro⟩
def chuDesc6_word : Fld := ⟨R.chuDesc6, 0, 64, .ro⟩
def chuDesc7_word : Fld := ⟨R.chuDesc7, 0, 64, .ro⟩
def chuErr_valid : Fld := ⟨R.chuErr, 0, 1, .w1c⟩
def chuErr_known : Fld := ⟨R.chuErr, 1, 1, .ro⟩
def chuErr_channel : Fld := ⟨R.chuErr, 2, 5, .ro⟩
def chuErr_fetch : Fld := ⟨R.chuErr, 7, 1, .ro⟩
def chuErr_cause : Fld := ⟨R.chuErr, 8, 3, .ro⟩
def chuErr_function : Fld := ⟨R.chuErr, 11, 6, .ro⟩
def chuErrAddr_addr : Fld := ⟨R.chuErrAddr, 0, 64, .ro⟩
def clkSel_domain : Fld := ⟨R.clkSel, 0, 6, .rw⟩
def clkDom_src : Fld := ⟨R.clkDom, 0, 2, .st⟩
def clkDom_div : Fld := ⟨R.clkDom, 2, 8, .st⟩
def clkStat_src : Fld := ⟨R.clkStat, 0, 2, .ro⟩
def clkStat_div : Fld := ⟨R.clkStat, 2, 8, .ro⟩
def clkStat_locked : Fld := ⟨R.clkStat, 10, 1, .ro⟩
def clkStat_ramping : Fld := ⟨R.clkStat, 11, 1, .ro⟩
def clkStat_running : Fld := ⟨R.clkStat, 12, 1, .ro⟩
def clkXtal_mhz50 : Fld := ⟨R.clkXtal, 0, 1, .ro⟩
def clkXtal_delay : Fld := ⟨R.clkXtal, 1, 2, .ro⟩
def clkXtal_stable : Fld := ⟨R.clkXtal, 3, 1, .ro⟩
def clkXtal_fail : Fld := ⟨R.clkXtal, 4, 1, .ro⟩
def clkXtal_auto : Fld := ⟨R.clkXtal, 5, 1, .ro⟩
def clkXtal_meas : Fld := ⟨R.clkXtal, 6, 7, .ro⟩
def clkXtal_count : Fld := ⟨R.clkXtal, 32, 32, .ro⟩
def clkMon_sel : Fld := ⟨R.clkMon, 0, 6, .rw⟩
def clkMon_div : Fld := ⟨R.clkMon, 6, 5, .rw⟩
def clkMon_over : Fld := ⟨R.clkMon, 11, 1, .ro⟩
def clkFmc_target : Fld := ⟨R.clkFmc, 0, 6, .rw⟩
def clkFmc_ref : Fld := ⟨R.clkFmc, 6, 1, .rw⟩
def clkFmc_gate : Fld := ⟨R.clkFmc, 7, 24, .rw⟩
def clkFmc_go : Fld := ⟨R.clkFmc, 31, 1, .rw⟩
def clkFmc_owner : Fld := ⟨R.clkFmc, 32, 1, .ro⟩
def clkFmcRes_count : Fld := ⟨R.clkFmcRes, 0, 32, .ro⟩
def clkFmcRes_done : Fld := ⟨R.clkFmcRes, 32, 1, .ro⟩
def rstCause_cold : Fld := ⟨R.rstCause, 0, 4, .ro⟩
def rstCause_storm : Fld := ⟨R.rstCause, 4, 1, .ro⟩
def rstCause_thermal : Fld := ⟨R.rstCause, 8, 8, .ro⟩
def rstCause_warm : Fld := ⟨R.rstCause, 16, 16, .ro⟩
def rstCause_wdt : Fld := ⟨R.rstCause, 32, 16, .ro⟩
def rstCause_restarts : Fld := ⟨R.rstCause, 48, 8, .ro⟩
def rstOpt_code : Fld := ⟨R.rstOpt, 0, 4, .ro⟩
def rstOpt_invalid : Fld := ⟨R.rstOpt, 4, 1, .ro⟩
def rstOpt_untrimmed : Fld := ⟨R.rstOpt, 5, 1, .ro⟩
def rstOpt_reading : Fld := ⟨R.rstOpt, 16, 11, .ro⟩
def rstCell_cell : Fld := ⟨R.rstCell, 0, 10, .rw⟩
def rstCell_go : Fld := ⟨R.rstCell, 10, 1, .rw⟩
def rstCell_hold : Fld := ⟨R.rstCell, 11, 1, .rw⟩
def rstCell_active : Fld := ⟨R.rstCell, 12, 1, .ro⟩
def rstStook_stook : Fld := ⟨R.rstStook, 0, 6, .rw⟩
def rstStook_go : Fld := ⟨R.rstStook, 6, 1, .rw⟩
def rstStook_hold : Fld := ⟨R.rstStook, 7, 1, .rw⟩
def rstStook_active : Fld := ⟨R.rstStook, 8, 1, .ro⟩
def rstShf_id : Fld := ⟨R.rstShf, 0, 12, .rw⟩
def rstShf_go : Fld := ⟨R.rstShf, 12, 1, .rw⟩
def rstShf_hold : Fld := ⟨R.rstShf, 13, 1, .rw⟩
def rstShf_active : Fld := ⟨R.rstShf, 14, 1, .ro⟩
def rstStd_restart : Fld := ⟨R.rstStd, 0, 1, .rw⟩
def rstWdt_ms : Fld := ⟨R.rstWdt, 0, 16, .st⟩
def rstWdt_reach : Fld := ⟨R.rstWdt, 16, 2, .st⟩
def rstWdt_remain_ms : Fld := ⟨R.rstWdt, 32, 16, .ro⟩
def otpStat_factory : Fld := ⟨R.otpStat, 0, 1, .ro⟩
def otpStat_trim : Fld := ⟨R.otpStat, 1, 1, .ro⟩
def otpStat_identity : Fld := ⟨R.otpStat, 2, 1, .ro⟩
def otpStat_debug : Fld := ⟨R.otpStat, 3, 1, .ro⟩
def otpStat_active : Fld := ⟨R.otpStat, 4, 3, .ro⟩
def otpStat_candidates : Fld := ⟨R.otpStat, 8, 6, .ro⟩
def otpStat_spent : Fld := ⟨R.otpStat, 14, 6, .ro⟩
def otpStat_bad_repair : Fld := ⟨R.otpStat, 20, 12, .ro⟩
def otpRaddr_offset : Fld := ⟨R.otpRaddr, 0, 16, .rw⟩
def otpRdata_data : Fld := ⟨R.otpRdata, 0, 64, .ro⟩
def otpProg_cmd : Fld := ⟨R.otpProg, 0, 4, .rw⟩
def otpProg_state : Fld := ⟨R.otpProg, 4, 3, .ro⟩
def otpProg_fail : Fld := ⟨R.otpProg, 8, 8, .ro⟩
def otpProg_slot : Fld := ⟨R.otpProg, 16, 3, .ro⟩
def thmSel_sensor : Fld := ⟨R.thmSel, 0, 12, .rw⟩
def thmSens_reading : Fld := ⟨R.thmSens, 0, 16, .ro⟩
def thmSens_suspect : Fld := ⟨R.thmSens, 16, 1, .ro⟩
def thmSens_disagree : Fld := ⟨R.thmSens, 17, 1, .ro⟩
def thmSens_model : Fld := ⟨R.thmSens, 32, 16, .ro⟩
def thmHot_junction : Fld := ⟨R.thmHot, 0, 16, .ro⟩
def thmHot_loft : Fld := ⟨R.thmHot, 16, 16, .ro⟩
def thmHot_forecast : Fld := ⟨R.thmHot, 32, 16, .ro⟩
def thmHot_cell : Fld := ⟨R.thmHot, 48, 10, .ro⟩
def thmRth_r_hat : Fld := ⟨R.thmRth, 0, 16, .ro⟩
def thmRth_formula : Fld := ⟨R.thmRth, 16, 12, .ro⟩
def thmCool_t_in : Fld := ⟨R.thmCool, 0, 16, .rw⟩
def thmCool_age_ms : Fld := ⟨R.thmCool, 16, 16, .ro⟩
def thmPlace_stook_w : Fld := ⟨R.thmPlace, 0, 8, .st⟩
def thmPlace_span_w : Fld := ⟨R.thmPlace, 8, 8, .st⟩
def pwrCap_w : Fld := ⟨R.pwrCap, 0, 12, .st⟩
def pwrCap_mode : Fld := ⟨R.pwrCap, 12, 1, .st⟩
def pwrCap_keep : Fld := ⟨R.pwrCap, 13, 1, .st⟩
def pwrStat_cap : Fld := ⟨R.pwrStat, 0, 12, .ro⟩
def pwrStat_power : Fld := ⟨R.pwrStat, 12, 12, .ro⟩
def pwrStat_skip : Fld := ⟨R.pwrStat, 24, 4, .ro⟩
def pwrStat_fallback : Fld := ⟨R.pwrStat, 28, 1, .ro⟩
def pwrStat_state : Fld := ⟨R.pwrStat, 29, 2, .ro⟩
def pwrStat_cause : Fld := ⟨R.pwrStat, 31, 3, .ro⟩
def pwrDuty_duty : Fld := ⟨R.pwrDuty, 0, 5, .ro⟩
def pwrKeep_keep_ok : Fld := ⟨R.pwrKeep, 0, 1, .ro⟩
def pwrKeep_record : Fld := ⟨R.pwrKeep, 1, 1, .ro⟩
def pwrKeep_last : Fld := ⟨R.pwrKeep, 2, 2, .ro⟩
def pwrKeep_abandon : Fld := ⟨R.pwrKeep, 4, 1, .w1c⟩
def pwrKeep_held_s : Fld := ⟨R.pwrKeep, 32, 32, .ro⟩

end F

/-- Every register, in ascending offset: part 0 of the list. -/
def allRegsPart0 : List Reg := [
  R.stdEccCfg, R.stdBsel, R.stdBkt, R.stdUeCnt, R.stdUe0, R.stdUe1, R.stdUe2, R.stdUe3, R.stdBoot, R.stdBootRet,
  R.stdRcvLen, R.stdRcvCtl, R.stdRcvStat, R.stdAttNonce0, R.stdAttNonce1, R.stdAttNonce2, R.stdAttNonce3,
  R.stdAttCtl, R.stdEvtCfg, R.tikPeriod, R.tikWindow, R.tikGuard, R.tikCount, R.tikPhase, R.tikLate, R.tikRaise,
  R.tikCmt, R.tikCmtStat, R.tikStg, R.tikCmtWhere, R.shfSel, R.shfStatus, R.shfBudget, R.shfErrsum, R.shfCap,
  R.shfAvail0, R.shfAvail1, R.shfAvail2, R.shfAvail3, R.shfAvail4]

/-- Every register, in ascending offset: part 1 of the list. -/
def allRegsPart1 : List Reg := [
  R.shfAvail5, R.shfAvail6, R.shfAvail7, R.shfAvail8, R.shfAvail9, R.shfAvail10, R.shfAvail11, R.shfAvail12,
  R.shfAvail13, R.shfAvail14, R.shfAvail15, R.celSel, R.celTick, R.celStat, R.celVec, R.celGat, R.celColl,
  R.celSamp, R.celMesh, R.celBkt, R.mxcStat, R.mxcPasses, R.mxcFlags, R.mxcBubble, R.mxcStall, R.thrStat,
  R.thrBlocks, R.thrEdge, R.thrPos, R.kvpStat, R.kvpQuant, R.kvpWin, R.kvpDrop, R.kvpSsel, R.kvpSinfo, R.kvpSpages,
  R.kvpSres, R.pfxCfg, R.pfxCtl, R.pfxLook]

/-- Every register, in ascending offset: part 2 of the list. -/
def allRegsPart2 : List Reg := [
  R.pfxMiss, R.pfxIns, R.pfxFill, R.vccSel, R.vccStat, R.vccCtl, R.vccTrain, R.vccMargin, R.vccEye, R.vccErr,
  R.vccRetrain, R.vccBkt, R.vccLost, R.fllStat, R.fllOps, R.fllHold, R.fllEcc, R.fllLimit0, R.fllLimit1,
  R.fllLimit2, R.fllLimit3, R.fllPort0, R.fllPort1, R.fllPort2, R.fllPaddr, R.fllPctl, R.rakRate, R.rakStat,
  R.rakPass, R.rakLogsel, R.rakLog0, R.rakLog1, R.lnkSel, R.lnkStat, R.lnkErr, R.lnkFec, R.lnkTrain, R.lnkCtl,
  R.lnkCfg, R.lnkRing]

/-- Every register, in ascending offset: part 3 of the list. -/
def allRegsPart3 : List Reg := [
  R.d2dSel, R.d2dStat, R.d2dErr, R.d2dCtl, R.d2dCfg, R.hstWin, R.hstQsel, R.hstQown, R.hstSqBase, R.hstCqBase,
  R.hstQcfg, R.hstQstat, R.hstQcnt, R.hstFsel, R.hstFwin, R.hstEvqBase, R.hstEvqCfg, R.hstEvqStat, R.hstErr,
  R.chuSel, R.chuHead, R.chuCfg, R.chuCtl, R.chuStat, R.chuCrc, R.chuDesc0, R.chuDesc1, R.chuDesc2, R.chuDesc3,
  R.chuDesc4, R.chuDesc5, R.chuDesc6, R.chuDesc7, R.chuErr, R.chuErrAddr, R.clkSel, R.clkDom, R.clkStat, R.clkXtal,
  R.clkMon]

/-- Every register, in ascending offset: part 4 of the list. -/
def allRegsPart4 : List Reg := [
  R.clkFmc, R.clkFmcRes, R.rstCause, R.rstOpt, R.rstCell, R.rstStook, R.rstShf, R.rstStd, R.rstWdt, R.otpStat,
  R.otpRaddr, R.otpRdata, R.otpProg, R.thmSel, R.thmSens, R.thmHot, R.thmRth, R.thmCool, R.thmPlace, R.pwrCap,
  R.pwrStat, R.pwrDuty, R.pwrKeep]

/-- Every register, in ascending offset. -/
def allRegs : List Reg :=
  allRegsPart0 ++ allRegsPart1 ++ allRegsPart2 ++ allRegsPart3 ++ allRegsPart4

/-- Every field, in ascending offset; reserved bits belong to none (R12): part 0 of the list. -/
def allFieldsPart0 : List Fld := [
  F.stdEccCfg_leak_ms, F.stdEccCfg_thresh, F.stdBsel_store, F.stdBkt_level, F.stdBkt_overflows, F.stdBkt_corrected,
  F.stdBkt_spares, F.stdUeCnt_records, F.stdUeCnt_dropped, F.stdUe0_word, F.stdUe1_word, F.stdUe2_word,
  F.stdUe3_word, F.stdBoot_stage, F.stdBoot_start, F.stdBoot_minimal, F.stdBoot_degraded, F.stdBoot_fail,
  F.stdBoot_cool, F.stdBoot_elapsed_ms, F.stdBootRet_cells, F.stdBootRet_channels, F.stdBootRet_narrowed,
  F.stdBootRet_towers, F.stdBootRet_ports, F.stdBootRet_log_lost, F.stdBootRet_remaps, F.stdRcvLen_len,
  F.stdRcvCtl_cmd, F.stdRcvStat_state, F.stdRcvStat_fail, F.stdRcvStat_progress, F.stdAttNonce0_nonce,
  F.stdAttNonce1_nonce, F.stdAttNonce2_nonce, F.stdAttNonce3_nonce, F.stdAttCtl_go, F.stdAttCtl_status,
  F.stdEvtCfg_msix, F.stdEvtCfg_i3c]

/-- Every field, in ascending offset; reserved bits belong to none (R12): part 1 of the list. -/
def allFieldsPart1 : List Fld := [
  F.tikPeriod_us, F.tikWindow_ns, F.tikGuard_pct, F.tikCount_count, F.tikPhase_phase, F.tikPhase_stretch,
  F.tikPhase_replay, F.tikPhase_since_edge, F.tikLate_stretch_ns, F.tikLate_stretched, F.tikLate_overruns,
  F.tikRaise_ns, F.tikCmt_req, F.tikCmtStat_result, F.tikCmtStat_source, F.tikCmtStat_deferred, F.tikCmtStat_check,
  F.tikCmtStat_edge, F.tikStg_revert, F.tikStg_dirty, F.tikStg_diff, F.tikStg_last, F.tikCmtWhere_offset,
  F.tikCmtWhere_instance, F.shfSel_id, F.shfStatus_state, F.shfStatus_late, F.shfStatus_stretched,
  F.shfStatus_overrun, F.shfStatus_replayed, F.shfStatus_late_run, F.shfStatus_epoch, F.shfStatus_margin_ns,
  F.shfBudget_ns, F.shfErrsum_sources, F.shfCap_m, F.shfCap_a, F.shfCap_v, F.shfCap_g, F.shfCap_l]

/-- Every field, in ascending offset; reserved bits belong to none (R12): part 2 of the list. -/
def allFieldsPart2 : List Fld := [
  F.shfCap_s, F.shfCap_level, F.shfCap_degraded, F.shfCap_parts, F.shfAvail0_cells, F.shfAvail1_cells,
  F.shfAvail2_cells, F.shfAvail3_cells, F.shfAvail4_cells, F.shfAvail5_cells, F.shfAvail6_cells, F.shfAvail7_cells,
  F.shfAvail8_cells, F.shfAvail9_cells, F.shfAvail10_cells, F.shfAvail11_cells, F.shfAvail12_cells,
  F.shfAvail13_cells, F.shfAvail14_cells, F.shfAvail15_cells, F.celSel_cell, F.celTick_margin_ns,
  F.celTick_own_late_ns, F.celTick_late_run, F.celTick_slow, F.celTick_demoted, F.celTick_idle, F.celStat_busy,
  F.celStat_entry, F.celStat_tables, F.celStat_rows_in, F.celVec_sat, F.celVec_nan, F.celGat_range, F.celGat_drops,
  F.celGat_collide, F.celColl_done, F.celColl_rerouted, F.celColl_failed, F.celSamp_draws]

/-- Every field, in ascending offset; reserved bits belong to none (R12): part 3 of the list. -/
def allFieldsPart3 : List Fld := [
  F.celSamp_accepted, F.celSamp_empty, F.celMesh_epoch_drop, F.celMesh_lost, F.celBkt_level, F.celBkt_overflows,
  F.celBkt_corrected, F.mxcStat_busy, F.mxcStat_entry, F.mxcStat_wide, F.mxcStat_group, F.mxcStat_tile,
  F.mxcPasses_done, F.mxcPasses_discarded, F.mxcFlags_wide, F.mxcFlags_nan, F.mxcFlags_sat, F.mxcFlags_zero_scale,
  F.mxcBubble_feed, F.mxcBubble_wload, F.mxcStall_drain, F.mxcStall_throttle, F.thrStat_busy, F.thrStat_in_loft,
  F.thrStat_merging, F.thrStat_tables, F.thrStat_kv_head, F.thrStat_block, F.thrBlocks_blocks,
  F.thrBlocks_rescales, F.thrEdge_flush, F.thrEdge_empty, F.thrEdge_nan, F.thrEdge_sat, F.thrEdge_bad_global,
  F.thrPos_admitted, F.thrPos_evicted, F.thrPos_loft_pages, F.kvpStat_appends, F.kvpStat_opened]

/-- Every field, in ascending offset; reserved bits belong to none (R12): part 4 of the list. -/
def allFieldsPart4 : List Fld := [
  F.kvpStat_released, F.kvpQuant_sat, F.kvpQuant_nan, F.kvpWin_evicted, F.kvpWin_freed, F.kvpWin_fails,
  F.kvpDrop_page, F.kvpDrop_copies, F.kvpSsel_stream, F.kvpSinfo_prec, F.kvpSinfo_prefix, F.kvpSinfo_privileged,
  F.kvpSinfo_winnow, F.kvpSinfo_failed, F.kvpSinfo_open, F.kvpSinfo_epoch, F.kvpSinfo_length, F.kvpSpages_held,
  F.kvpSpages_shared, F.kvpSpages_slot, F.kvpSres_budget, F.pfxCfg_mib, F.pfxCfg_lost, F.pfxCtl_flush,
  F.pfxLook_lookups, F.pfxLook_hits, F.pfxMiss_absent, F.pfxMiss_check, F.pfxMiss_verify, F.pfxMiss_prec,
  F.pfxMiss_budget, F.pfxIns_inserts, F.pfxIns_skipped, F.pfxIns_reclaimed, F.pfxFill_entries, F.vccSel_channel,
  F.vccStat_state, F.vccStat_hot_hold, F.vccStat_half, F.vccStat_spares]

/-- Every field, in ascending offset; reserved bits belong to none (R12): part 5 of the list. -/
def allFieldsPart5 : List Fld := [
  F.vccStat_refresh, F.vccStat_owed, F.vccCtl_retrain, F.vccCtl_reset, F.vccTrain_edge, F.vccTrain_dur,
  F.vccTrain_count, F.vccTrain_pending, F.vccTrain_urgent, F.vccMargin_req, F.vccMargin_mode, F.vccMargin_bit,
  F.vccMargin_status, F.vccEye_worst_t, F.vccEye_worst_v, F.vccEye_worst_bit, F.vccEye_sel_t, F.vccEye_sel_v,
  F.vccErr_addr, F.vccErr_holds, F.vccErr_wires, F.vccErr_forced, F.vccRetrain_interval_ms, F.vccRetrain_delta_c,
  F.vccBkt_level, F.vccBkt_overflows, F.vccBkt_corrected, F.vccLost_entries, F.vccLost_remapped, F.vccLost_listed,
  F.fllStat_active, F.fllStat_queued, F.fllStat_qvalid, F.fllStat_held, F.fllOps_score, F.fllOps_scrub,
  F.fllOps_other, F.fllHold_held, F.fllHold_longest_ns, F.fllEcc_corrected]

/-- Every field, in ascending offset; reserved bits belong to none (R12): part 6 of the list. -/
def allFieldsPart6 : List Fld := [
  F.fllEcc_uncorrectable, F.fllEcc_abandoned, F.fllLimit0_n0, F.fllLimit0_n1, F.fllLimit0_n2, F.fllLimit0_n3,
  F.fllLimit0_n4, F.fllLimit0_n5, F.fllLimit0_n6, F.fllLimit0_n7, F.fllLimit0_n8, F.fllLimit0_n9, F.fllLimit0_n10,
  F.fllLimit0_n11, F.fllLimit0_n12, F.fllLimit0_n13, F.fllLimit0_n14, F.fllLimit0_n15, F.fllLimit1_n0,
  F.fllLimit1_n1, F.fllLimit1_n2, F.fllLimit1_n3, F.fllLimit1_n4, F.fllLimit1_n5, F.fllLimit1_n6, F.fllLimit1_n7,
  F.fllLimit1_n8, F.fllLimit1_n9, F.fllLimit1_n10, F.fllLimit1_n11, F.fllLimit1_n12, F.fllLimit1_n13,
  F.fllLimit1_n14, F.fllLimit1_n15, F.fllLimit2_n0, F.fllLimit2_n1, F.fllLimit2_n2, F.fllLimit2_n3, F.fllLimit2_n4,
  F.fllLimit2_n5]

/-- Every field, in ascending offset; reserved bits belong to none (R12): part 7 of the list. -/
def allFieldsPart7 : List Fld := [
  F.fllLimit2_n6, F.fllLimit2_n7, F.fllLimit2_n8, F.fllLimit2_n9, F.fllLimit2_n10, F.fllLimit2_n11,
  F.fllLimit2_n12, F.fllLimit2_n13, F.fllLimit2_n14, F.fllLimit2_n15, F.fllLimit3_n0, F.fllLimit3_n1,
  F.fllLimit3_n2, F.fllLimit3_n3, F.fllLimit3_n4, F.fllLimit3_n5, F.fllLimit3_n6, F.fllLimit3_n7, F.fllLimit3_n8,
  F.fllLimit3_n9, F.fllLimit3_n10, F.fllLimit3_n11, F.fllLimit3_n12, F.fllLimit3_n13, F.fllLimit3_n14,
  F.fllLimit3_n15, F.fllPort0_word0, F.fllPort1_word1, F.fllPort2_word2, F.fllPaddr_addr, F.fllPctl_go,
  F.fllPctl_status, F.rakRate_min, F.rakStat_corrected, F.rakStat_behind, F.rakStat_queue_full,
  F.rakStat_overwritten, F.rakPass_passes, F.rakPass_progress, F.rakLogsel_entry]

/-- Every field, in ascending offset; reserved bits belong to none (R12): part 8 of the list. -/
def allFieldsPart8 : List Fld := [
  F.rakLogsel_head, F.rakLog0_entry, F.rakLog1_entry, F.lnkSel_port, F.lnkStat_state, F.lnkStat_take,
  F.lnkStat_rerouted, F.lnkStat_peer, F.lnkStat_bypassed, F.lnkErr_crc, F.lnkErr_retries, F.lnkErr_epoch,
  F.lnkErr_down, F.lnkFec_corrected, F.lnkFec_uncorrectable, F.lnkTrain_edge, F.lnkTrain_dur, F.lnkTrain_count,
  F.lnkTrain_pending, F.lnkCtl_retrain, F.lnkCtl_reset, F.lnkCfg_prio, F.lnkCfg_ser_limit, F.lnkRing_own,
  F.lnkRing_row_len, F.lnkRing_col_len, F.lnkRing_keeper, F.lnkRing_is_keeper, F.lnkRing_pause,
  F.lnkRing_row_broken, F.lnkRing_column_broken, F.lnkRing_mismatch, F.d2dSel_link, F.d2dStat_state,
  F.d2dStat_half, F.d2dStat_wrapper, F.d2dStat_test, F.d2dStat_spares, F.d2dStat_rev_near, F.d2dStat_rev_far]

/-- Every field, in ascending offset; reserved bits belong to none (R12): part 9 of the list. -/
def allFieldsPart9 : List Fld := [
  F.d2dStat_proto, F.d2dErr_retries, F.d2dErr_lanes, F.d2dErr_wrapper, F.d2dCtl_reset, F.d2dCtl_test,
  F.d2dCtl_loop, F.d2dCfg_lane_thresh, F.hstWin_base, F.hstQsel_queue, F.hstQown_function, F.hstSqBase_addr,
  F.hstCqBase_addr, F.hstQcfg_enable, F.hstQcfg_sq_log, F.hstQcfg_cq_log, F.hstQcfg_vector, F.hstQstat_sq_head,
  F.hstQstat_cq_tail, F.hstQstat_reserved_cq, F.hstQstat_phase, F.hstQstat_error, F.hstQcnt_commands,
  F.hstQcnt_cq_stall, F.hstFsel_function, F.hstFwin_base, F.hstFwin_limit, F.hstEvqBase_addr, F.hstEvqCfg_enable,
  F.hstEvqCfg_log, F.hstEvqStat_tail, F.hstEvqStat_head, F.hstEvqStat_lost, F.hstErr_doorbell, F.hstErr_win_drop,
  F.hstErr_win_err, F.hstErr_host_mem, F.chuSel_channel, F.chuHead_addr, F.chuHead_dev]

/-- Every field, in ascending offset; reserved bits belong to none (R12): part 10 of the list. -/
def allFieldsPart10 : List Fld := [
  F.chuCfg_owner, F.chuCfg_vector, F.chuCtl_go, F.chuCtl_abort, F.chuStat_status, F.chuStat_running,
  F.chuStat_moved, F.chuCrc_crc, F.chuCrc_done, F.chuDesc0_word, F.chuDesc1_word, F.chuDesc2_word, F.chuDesc3_word,
  F.chuDesc4_word, F.chuDesc5_word, F.chuDesc6_word, F.chuDesc7_word, F.chuErr_valid, F.chuErr_known,
  F.chuErr_channel, F.chuErr_fetch, F.chuErr_cause, F.chuErr_function, F.chuErrAddr_addr, F.clkSel_domain,
  F.clkDom_src, F.clkDom_div, F.clkStat_src, F.clkStat_div, F.clkStat_locked, F.clkStat_ramping, F.clkStat_running,
  F.clkXtal_mhz50, F.clkXtal_delay, F.clkXtal_stable, F.clkXtal_fail, F.clkXtal_auto, F.clkXtal_meas,
  F.clkXtal_count, F.clkMon_sel]

/-- Every field, in ascending offset; reserved bits belong to none (R12): part 11 of the list. -/
def allFieldsPart11 : List Fld := [
  F.clkMon_div, F.clkMon_over, F.clkFmc_target, F.clkFmc_ref, F.clkFmc_gate, F.clkFmc_go, F.clkFmc_owner,
  F.clkFmcRes_count, F.clkFmcRes_done, F.rstCause_cold, F.rstCause_storm, F.rstCause_thermal, F.rstCause_warm,
  F.rstCause_wdt, F.rstCause_restarts, F.rstOpt_code, F.rstOpt_invalid, F.rstOpt_untrimmed, F.rstOpt_reading,
  F.rstCell_cell, F.rstCell_go, F.rstCell_hold, F.rstCell_active, F.rstStook_stook, F.rstStook_go, F.rstStook_hold,
  F.rstStook_active, F.rstShf_id, F.rstShf_go, F.rstShf_hold, F.rstShf_active, F.rstStd_restart, F.rstWdt_ms,
  F.rstWdt_reach, F.rstWdt_remain_ms, F.otpStat_factory, F.otpStat_trim, F.otpStat_identity, F.otpStat_debug,
  F.otpStat_active]

/-- Every field, in ascending offset; reserved bits belong to none (R12): part 12 of the list. -/
def allFieldsPart12 : List Fld := [
  F.otpStat_candidates, F.otpStat_spent, F.otpStat_bad_repair, F.otpRaddr_offset, F.otpRdata_data, F.otpProg_cmd,
  F.otpProg_state, F.otpProg_fail, F.otpProg_slot, F.thmSel_sensor, F.thmSens_reading, F.thmSens_suspect,
  F.thmSens_disagree, F.thmSens_model, F.thmHot_junction, F.thmHot_loft, F.thmHot_forecast, F.thmHot_cell,
  F.thmRth_r_hat, F.thmRth_formula, F.thmCool_t_in, F.thmCool_age_ms, F.thmPlace_stook_w, F.thmPlace_span_w,
  F.pwrCap_w, F.pwrCap_mode, F.pwrCap_keep, F.pwrStat_cap, F.pwrStat_power, F.pwrStat_skip, F.pwrStat_fallback,
  F.pwrStat_state, F.pwrStat_cause, F.pwrDuty_duty, F.pwrKeep_keep_ok, F.pwrKeep_record, F.pwrKeep_last,
  F.pwrKeep_abandon, F.pwrKeep_held_s]

/-- Every field, in ascending offset; reserved bits belong to none (R12). -/
def allFields : List Fld :=
  allFieldsPart0 ++ allFieldsPart1 ++ allFieldsPart2 ++ allFieldsPart3 ++ allFieldsPart4 ++ allFieldsPart5 ++
  allFieldsPart6 ++ allFieldsPart7 ++
  allFieldsPart8 ++ allFieldsPart9 ++ allFieldsPart10 ++ allFieldsPart11 ++ allFieldsPart12

/-- The register at a direct offset. -/
def regAt (off : Nat) : Option Reg := allRegs.find? (fun r => r.off = off)

/-- The fields of a register. -/
def fieldsOf (r : Reg) : List Fld := allFields.filter (fun f => f.reg.off = r.off)

end Sys2Proof.Machine
end

