-- ==== Sys2Proof/Machine/State.lean ====
section
/-! DEFINITION. The state of the DR4 as plain data: the registers by direct offset and copy, the memories, and every
piece of state of the chapters of spec/ that no register shows, grouped by block. Identifiers, counts, lengths and
instants (ns on the part's own time, from the start of its first option loading) are natural numbers. Each table holds only units that differ from
the class's idle value. -/

namespace Sys2Proof.Machine

/-! ## Images of a loaded program (R46 to R60, R249), as parsed at load -/

/-- A tensor entry (Table 2.2). -/
structure Tensor where
  rank : Nat := 0
  fmt : Nat := 0
  role : Nat := 0
  dims : List Nat := []
  cls : Nat := 0
  deriving DecidableEq, Repr

/-- An operator entry (R49). -/
structure Oper where
  opcode : Nat := 0
  flags : Nat := 0
  role : Nat := 0
  ins : List Nat := []
  outs : List Nat := []
  attrs : List Byte := []
  deriving DecidableEq, Repr

/-- A stage descriptor (Table 2.5): the common header's fields, and all 256 bytes. -/
structure Stage where
  cell : Nat := 0
  kind : Nat := 0
  sheaf : Nat := 0
  epoch : Nat := 0
  firstOp : Nat := 0
  opCount : Nat := 0
  startNs : Nat := 0
  finishNs : Nat := 0
  nearBytes : Nat := 0
  raw : List Byte := []
  deriving DecidableEq, Repr

/-- A slot table entry (R55). -/
structure SlotEntry where
  src : Nat := 0
  dst : Nat := 0
  cls : Nat := 0
  plane : Nat := 0
  start : Nat := 0
  dur : Nat := 0
  deriving DecidableEq, Repr

/-- A placement entry (R56); for a spread entry, the base offset and channels of its stripe set (Table 8.5). -/
structure Place where
  tensor : Nat := 0
  spread : Bool := false
  addr : Nat := 0
  len : Nat := 0
  base : Nat := 0
  chans : List Nat := []
  deriving DecidableEq, Repr

/-- A sheaf descriptor (Table 2.8) with its members taken from the pool. -/
structure SheafDesc where
  id : Nat := 0
  epoch : Nat := 0
  mtype : Nat := 0
  parent : Nat := 0xFFFF
  policy : Nat := 0
  budget : Nat := 0
  cap : Nat := 0
  role : Nat := 0xFFFF
  members : List Nat := []
  raw : List Byte := []
  deriving DecidableEq, Repr

/-- What the two images of a program say, as parsed. -/
structure Image where
  tensors : List Tensor := []
  ops : List Oper := []
  roleClasses : List Nat := []
  periodUs : Nat := 0
  windowNs : Nat := 0
  span : Nat := 0
  sheafs : List SheafDesc := []
  stages : List Stage := []
  slots : List (List SlotEntry) := []
  places : List Place := []
  criticalNs : Nat := 0
  joftDigest : List Byte := []
  deriving DecidableEq, Repr

/-! ## Programs, sheafs and streams -/

/-- The state of a job identifier (Table 17.6). -/
inductive ProgState where
  | free | staged | active | quarantine
  deriving DecidableEq, Repr

/-- A command's identity for its completion: queue pair, command identifier, submission head after it. -/
structure CmdId where
  q : Nat := 0
  cid : Nat := 0
  sqHead : Nat := 0
  deriving DecidableEq, Repr

/-- A word that an invalidated tick met as uncorrectable (R306, R308): a loft row, a word of a cell's SRAM. -/
inductive BadPlace where
  | row (channel bank row : Nat)
  | sram (cell word : Nat)
  deriving DecidableEq, Repr

/-- A job slot: a loaded program (R66, R372). `remap` gives, for each stage moved by a repair, the cell that runs it
(R64); `failStreams` a stream failure due at the next validation point (Table 8.8), with its status. -/
structure Program where
  state : ProgState := .free
  epoch : Nat := 0
  released : Option Nat := none
  jAddr : Nat := 0
  jLen : Nat := 0
  sAddr : Nat := 0
  sLen : Nat := 0
  fmask : Word := 0
  img : Image := {}
  remap : List (Nat × Nat) := []
  invalid : Bool := false
  replaying : Bool := false
  replayNext : Bool := false
  badNow : List BadPlace := []
  badBefore : List BadPlace := []
  failStreams : Option Nat := none
  storageLost : Bool := false
  lastRow : Option Nat := none
  deriving DecidableEq, Repr

/-- A sheaf identifier (R58, R237): its descriptor while in use, the job that holds it, its last epoch. -/
structure SheafSt where
  inUse : Bool := false
  job : Nat := 0
  desc : SheafDesc := {}
  epoch : Nat := 0
  everUsed : Bool := false
  released : Option Nat := none
  digests : List (Nat × List Byte) := []
  deriving DecidableEq, Repr

/-- The sampler record of a stream (Table 5.9). -/
structure Sampler where
  seed : BitVec 128 := 0
  temp : BitVec 32 := 0
  topK : Nat := 0
  topP : BitVec 32 := 0
  rep : BitVec 32 := 0
  pres : BitVec 32 := 0
  freq : BitVec 32 := 0
  window : Nat := 0
  drafts : Nat := 0
  stop : List (BitVec 32) := []
  deriving DecidableEq, Repr

/-- The KV record of a stream (Table 7.5); a truncate takes effect at the edge that carries it out and leaves none. -/
structure KvRec where
  prec : Nat := 0
  pfx : Nat := 0
  privileged : Bool := false
  winnow : Bool := false
  maxLen : Nat := 0
  budget : Nat := 0
  deriving DecidableEq, Repr

/-- An accepted feed tokens command in a stream's feed queue (R375, R376). -/
structure Feed where
  cmd : CmdId := {}
  addr : Nat := 0
  count : Nat := 0
  consumed : Nat := 0
  deriving DecidableEq, Repr

/-- One token row given to a stream for the coming tick (R374): its position, its input token, and whether that token
is the pending one, a fed one, or a draft's place. -/
inductive RowKind where
  | pending | fed | draft
  deriving DecidableEq, Repr

structure TokRow where
  pos : Nat := 0
  token : BitVec 32 := 0
  kind : RowKind := .fed
  deriving DecidableEq, Repr

/-- A page of a list that a truncate must copy (R218): pool key of the source, list position. -/
structure CopyJob where
  cell : Nat := 0
  entry : Nat := 0
  head : Nat := 0
  block : Nat := 0
  keep : Nat := 0
  deriving DecidableEq, Repr

/-- A stream identifier and what the part holds for the stream (R164, R211, R374 to R377, R549, Table 17.6).
`pfxRec` is the stream prefix record: offset in the prefix region and bytes (R227); `waitsPair` says that Keep has restored
the stream (R442); `silent` that a function-level reset has: no entry of the stream is written any more (R360). -/
structure Stream where
  isOpen : Bool := false
  failed : Bool := false
  ended : Bool := false
  genEnd : Nat := 0
  epoch : Nat := 0
  released : Option Nat := none
  job : Nat := 0
  jobEpoch : Nat := 0
  fn : Nat := 0
  cq : Nat := 0
  samp : Sampler := {}
  kv : KvRec := {}
  slot : Nat := 0
  length : Nat := 0
  lenEdge : Nat := 0
  pendingTok : Option (BitVec 32) := none
  feeds : List Feed := []
  rows : List TokRow := []
  sampled : Bool := false
  tokReserved : Bool := false
  endReserved : Bool := false
  tokens : List (BitVec 32) := []
  emit : List (BitVec 32) := []
  accepted : Nat := 0
  stopHit : Bool := false
  noCand : Option Nat := none
  overBudget : Option Nat := none
  failStatus : Option Nat := none
  keys : List Word := []
  pfxRec : Option (Nat × Nat) := none
  missAt : Option Nat := none
  copies : List CopyJob := []
  stateSel : Bool := false
  waitsPair : Bool := false
  silent : Bool := false
  deriving DecidableEq, Repr

/-- A command accepted and waiting for the edge at which it acts (R97, Table 12.8): the issuing function and, where
the command has one, its buffer as read. `done` only awaits its completion with the status found at acceptance. -/
inductive Waiting where
  | unload (c : CmdId) (job epoch : Nat)
  | openS (c : CmdId) (fn job epoch : Nat) (block : List Byte)
  | feed (c : CmdId) (fn stream epoch addr count : Nat)
  | setP (c : CmdId) (fn stream epoch : Nat) (mask : Word) (block : List Byte)
  | close (c : CmdId) (fn stream epoch : Nat)
  | closeSilent (stream : Nat)
  | done (c : CmdId) (stream epoch job jobEpoch status count : Nat)
  deriving DecidableEq, Repr

/-- A slot of a page pool, keyed by job, KVAPPEND cell, entry and slot number (R207, R234, R306). -/
structure PageSlot where
  used : Bool := false
  epoch : Nat := 0
  released : Option Nat := none
  retired : Bool := false
  newInTick : Bool := false
  deriving DecidableEq, Repr

/-- A valid prefix-table entry with its set record (Tables 7.7, 7.8); pages in the order of the record. -/
structure PfxEntry where
  key : Word := 0
  check : BitVec 32 := 0
  record : Nat := 0
  way : Nat := 0
  job : Nat := 0
  jobEpoch : Nat := 0
  prec : Nat := 0
  lastHit : Nat := 0
  block : Nat := 0
  refs : Nat := 0
  tokens : List (BitVec 32) := []
  pages : List (BitVec 32) := []
  deriving DecidableEq, Repr

/-- The control state that a Keep record holds (R497): programs, sheafs, streams, page pools, the prefix table. -/
structure Ctl where
  progs : Tbl Program := []
  sheafs : Tbl SheafSt := []
  streams : Tbl Stream := []
  waiting : List Waiting := []
  loads : List (SubEntry × CmdId) := []
  pools : Tbl PageSlot := []
  pfx : List PfxEntry := []
  pfxLost : Bool := false
  deriving DecidableEq, Repr

/-! ## Cells -/

/-- A position's key and value record of the current tick (R178, R215): KV head, row's stream and position, and the
records' bytes with the page scales they were stored under. -/
structure InTick where
  entry : Nat := 0
  head : Nat := 0
  stream : Nat := 0
  pos : Nat := 0
  keyRec : List Byte := []
  valRec : List Byte := []
  kscale : BitVec 16 := 0
  vscale : BitVec 16 := 0
  prec : Nat := 0
  deriving DecidableEq, Repr

/-- A Winnow increment still to be applied (R220): list, position, the query row and head it came from, and the score
and lam. -/
structure WinInc where
  cell : Nat := 0
  entry : Nat := 0
  head : Nat := 0
  stream : Nat := 0
  pos : Nat := 0
  row : Nat := 0
  qhead : Nat := 0
  score : BitVec 32 := 0
  lam : BitVec 32 := 0
  deriving DecidableEq, Repr

/-- A cell: its stage in the current tick (R77, R81): what it has waited for inputs and for memory, since when it has had nothing
to work on, since when a held channel, or the flails of a channel, keep its accesses (R260, R287); whether it has read what it reads at
its start (R149, R182, R222); buffers (R135 to R140); the entries whose flits an L cell has sent
(R160) and whether it has sent some on the sibling plane (R162); held tables (R149, R182, R548), service records (R91 to R93, R266) and reset (R416). -/
structure Cell where
  job : Option Nat := none
  started : Option Nat := none
  finished : Option Nat := none
  stopped : Bool := false
  waitNs : Nat := 0
  idleAt : Nat := 0
  memWaitNs : Nat := 0
  memHeld : Option Nat := none
  flailSince : List (Nat × Nat) := []
  prepared : Bool := false
  sent : List Nat := []
  rerouted : Bool := false
  rowsIn : List MeshRow := []
  lost : List Nat := []
  rowsOut : List (Nat × MeshRow) := []
  doneOps : List Nat := []
  tables : List (Nat × List Byte) := []
  globals : Option (List Nat) := none
  mask : Option (List Byte) := none
  readers : List (Nat × Nat × List Nat) := []
  inTick : List InTick := []
  increments : List WinInc := []
  flits : List (Nat × Nat × List Byte) := []
  worstLate : Nat := 0
  slowBy : Nat := 0
  retired : Bool := false
  demoted : Bool := false
  stuckSram : Bool := false
  why : Nat := 0
  inReset : Bool := false
  deriving DecidableEq, Repr

/-- A reset target that is held or waits for its release, after a pulse or after hold was cleared (R416): target kind 0 cell,
1 stook, 2 sheaf. -/
structure ResetHold where
  kind : Nat := 0
  target : Nat := 0
  cells : List Nat := []
  pulse : Bool := false
  held : Bool := false
  releaseAfter : Nat := 0
  deriving DecidableEq, Repr

/-! ## Memory channels -/

/-- A flail command in a bank queue or in progress (R275, R287): its words, opcode, bank, every bank it works on; `port` when
the command port issued it; its number in order of arrival; the operations it still is split into (R278); the bytes that a FRAG of the controller
itself reads first, as address and length (R277); whether its results are discarded (Table 9.6). -/
structure FlailCmd where
  op : Nat := 0
  bank : Nat := 0
  banks : List Nat := []
  words : FlailWords := {}
  data : List Byte := []
  port : Bool := false
  running : Bool := false
  no : Nat := 0
  left : Nat := 1
  src : Option (Nat × Nat) := none
  discard : Bool := false
  deriving DecidableEq, Repr

/-- The scores of a completed SCORE that has still to be sent: its place in the order of commands, its tag, whether it is the last for its
query set, and nothing where an uncorrectable word was met (R274, R278, R290). -/
structure ScoreRes where
  no : Nat := 0
  tag : Nat := 0
  last : Bool := false
  scores : Option (List Byte) := none
  deriving DecidableEq, Repr

/-- An access that waits, for a hold (R260), a row copy (R306) or a busy bank (R287): what it asks for, when it came, its
number in order of arrival, its offset in BAR4 where the host made it (R364), since when a held channel keeps it and how long one has
(R77), the channel whose command port made it (R292), for a result that a Chute chain owes whether a signal follows it (R384), and since when the flails of each channel keep it and how long they have (R293). -/
structure WaitAcc where
  reader : Reader
  addr : Nat := 0
  len : Nat := 0
  write : Option (List Byte) := none
  found : List WordErr := []
  since : Nat := 0
  no : Nat := 0
  bar4 : Option Nat := none
  held : Option Nat := none
  heldNs : Nat := 0
  port : Option Nat := none
  result : Option Bool := none
  flails : List (Nat × Nat) := []
  flailNs : List (Nat × Nat) := []
  deriving DecidableEq, Repr

/-- A vertical channel and its controller: refresh (R252), training (R258 to R260), wires (R263, R264), lost words and
row repairs (R296, R306, R307), Rake credit (R310), margining (R261), flails (R273, R277, R279, R287). -/
structure Chan where
  owed : Tbl Nat := []
  want : Bool := false
  wantUrgent : Bool := false
  waited : Nat := 0
  retrainStart : Option Nat := none
  heldSince : Option Nat := none
  lastTrainAt : Nat := 0
  lastTemps : List Int := []
  failedWires : List Nat := []
  narrowed : Bool := false
  bonds : List (Nat × Nat) := []
  deadBonds : List Nat := []
  newBonds : List Nat := []
  blame : List (Nat × Nat) := []
  blameTick : List Nat := []
  narrowPending : Bool := false
  retirePending : Option Nat := none
  lostWords : List Nat := []
  remaps : List (Nat × Nat × Nat) := []
  remapped : Nat := 0
  copyRows : List (Nat × Nat × Nat) := []
  listed : List (Nat × Nat) := []
  goodSpares : List (Nat × Nat) := []
  scrubQ : List (Nat × Nat) := []
  rakePos : Nat := 0
  rakeCredit : Nat := 0
  rakeBehind : Bool := false
  marginStep : Nat := 0
  flails : List FlailCmd := []
  scored : List ScoreRes := []
  burst : List Byte := []
  burstTags : List Nat := []
  lastDur : Nat := 0
  qbuf : Option (List Byte) := none
  qhead : Nat := 0
  qdh : Nat := 0
  maxima : Tbl Nat := []
  frags : Tbl (List Byte) := []
  selfRefresh : Bool := false
  isolated : Bool := false
  deriving DecidableEq, Repr

/-- A memory stack's heat state (R254 to R256): for each loft the housekeeping rounds spent cool enough for a longer
interval and below 102 °C, hot hold, stop. -/
structure Stack where
  bands : List Nat := []
  coolRounds : List Nat := []
  below102 : List Nat := []
  hotHold : Bool := false
  stopped : Bool := false
  deriving DecidableEq, Repr

/-! ## Links -/

/-- A control word that leaves by a ring port (Table 11.3). -/
inductive CtlWord where
  | marker (tick : BitVec 32) (delay : BitVec 14)
  | late (tick : BitVec 32)
  | edge (w : EdgeWord)
  | ack (seq : BitVec 16)
  | retry (seq : BitVec 16)
  | credit (free : BitVec 10)
  | take (plane : BitVec 2)
  | release (tick : BitVec 32)
  | candidate (prio : BitVec 4) (coords : BitVec 10)
  | commit (w : RingWord)
  | finish (ns : Nat) (overrun : Bool) (sheafs : List Nat)
  | digest (sheaf : Nat) (d : List Byte)
  deriving DecidableEq, Repr

/-- A ring port (R320, R323, R341 to R343): hop sequence numbers, replay buffer with resend counts, credits of the far side
and the envelopes that wait for them, retrains; the last number that came out of sequence since a retry was asked for. -/
structure Port where
  txSeq : Nat := 0
  rxSeq : Nat := 0
  replay : List (Envelope × Nat) := []
  credits : Nat := 0
  retryAsked : Bool := false
  retraining : Bool := false
  failedTrains : Nat := 0
  hopNs : Nat := 0
  outSeq : Option Nat := none
  waiting : List Envelope := []
  deriving DecidableEq, Repr

/-- One direction of a die-to-die link as its receiver sees it (R323, R345): the number due, the number after the highest that has come, the
resends asked for of the flit that is due, and the run of bad or missing flits. -/
structure LinkDir where
  seq : Nat := 0
  next : Nat := 0
  resends : Nat := 0
  retryAsked : Bool := false
  outSeq : Option Nat := none
  deriving DecidableEq, Repr

/-- A die-to-die link (R345 to R352): its two directions, the parity errors of each lane since the
window of R346 began, failed lanes and those to spare, narrowing, isolation. -/
structure Link where
  forth : LinkDir := {}
  back : LinkDir := {}
  parity : Tbl Nat := []
  parityAt : Nat := 0
  failed : List Nat := []
  toSpare : List Nat := []
  narrowPending : Bool := false
  half : Option Nat := none
  isolatePending : Bool := false
  deriving DecidableEq, Repr

/-- A member's submission to a ring commit: its part, its first failed code or 0, its value word. -/
structure Submission where
  part : Nat := 0
  code : Nat := 0
  value : Nat × Nat × Nat := (0, 0, 0)
  deriving DecidableEq, Repr

/-- A ring commit under way (R100, R321): announced target edge; at the timekeeper, the submissions; the result's code. -/
structure RingCommit where
  target : Nat := 0
  submitted : List Submission := []
  result : Option Nat := none
  deriving DecidableEq, Repr

/-- A part at the end of a hop that a pause waits for, and the plane (R334, R335): `atEdge` where the hop goes only as the pause starts,
`again` once the part has told that it holds take there again. -/
structure PauseEnd where
  part : Nat := 0
  plane : Nat := 0
  atEdge : Bool := false
  again : Bool := false
  deriving DecidableEq, Repr

/-- The ring as this part sees it (R327 to R340): `pauseWaits` what a pause waits for, `gone` the parts
that have left a plane, with the plane (R337), `facing` the planes towards a winner of an election, `lateLog` by how much the collectives of the row and of the column ring were late in each of the last ticks, latest first, at most 16;
`seen` the control words of this tick already carried on (R328, R329). -/
structure Ring where
  electing : Bool := false
  best : Option (Nat × Nat) := none
  missedMarkers : Nat := 0
  markerSeen : Option Nat := none
  commit : Option RingCommit := none
  parts : List Nat := []
  bypassOpen : List Bool := [false, false, false, false]
  releasing : List Nat := []
  releasedPlanes : List Nat := []
  pauseNext : Bool := false
  pauseEnds : Bool := false
  pauseWaits : List PauseEnd := []
  gone : List (Nat × Nat) := []
  facing : List Nat := []
  lateLog : List (List Nat) := [[], []]
  realignTo : Option (Nat × Nat) := none
  alignValues : Option (Nat × Nat × Nat) := none
  seen : List (Nat × CtlWord) := []
  deriving DecidableEq, Repr

/-! ## The tick and commits -/

/-- The tick in progress (R75 to R88): instants in ns since the start of option loading; reports held by the timekeeper; the programs
with sheafs of parts whose outputs wait to become valid until no overrun can name them any more (R87);
`fallbackNext` says that the fallback limit words apply at the next edge (R36). -/
structure TickSt where
  running : Bool := false
  edgeAt : Nat := 0
  windowOpen : Bool := false
  deferred : Bool := false
  newEdge : Option Nat := none
  overrun : Bool := false
  overrunJobs : List Nat := []
  namedSheafs : List Nat := []
  lateSent : Bool := false
  lateParts : List Nat := []
  finishes : List (Nat × Nat) := []
  heldJobs : List Nat := []
  reports : List Nat := []
  held : Bool := false
  replaying : Bool := false
  updatesAgo : Nat := 0
  govWrote : Bool := false
  limits : Option LimitWords := none
  fallbackNext : Bool := false
  acceptedCmds : Tbl Nat := []
  deriving DecidableEq, Repr

/-- Where a host or Steading commit stands (R30, R98 to R102): the captured copies that differ, the staged images, whether
it is a ring commit, whether its checks have passed; `align` for the commit of a ring winner's values (R331). -/
structure CommitSt where
  steading : Bool := false
  align : Bool := false
  captured : List (Nat × Word) := []
  images : List Nat := []
  ringed : Bool := false
  checked : Bool := false
  deferred : Bool := false
  deriving DecidableEq, Repr

/-- A repair or raise commit on its way (R93, R94): the edges left, what it does, whether a replay moved it; or a raise that the
timekeeper has still to announce. -/
inductive AutoCommit where
  | repair (edges cell : Nat) (spare : Nat) (moved : Bool)
  | raise (edges : Nat) (cell : Option Nat) (amountUs : Nat) (moved : Bool)
  | asked (cell : Option Nat) (amountUs : Nat)
  deriving DecidableEq, Repr

/-! ## Management -/

/-- An event record (Table 16.6) with its payload. -/
structure Event where
  code : Nat := 0
  srcClass : Nat := 0
  flags : Nat := 0
  index : Nat := 0
  start : Nat := 0
  tick : Nat := 0
  time : Nat := 0
  arg : Word := 0
  payload : List Byte := []
  deriving DecidableEq, Repr

/-- An MSI-X table entry and its pending bit (R362, R381). -/
structure MsixEntry where
  addr : Word := 0
  data : BitVec 32 := 0
  masked : Bool := true
  pending : Bool := false
  deriving DecidableEq, Repr

/-- A Chute channel beyond its registers (R384, R386, R389): results owed at the chain's end, each with whether its descriptor
signals; whether the chain has still to start; the current descriptor's address while the channel runs; whether its fetch
still waits. -/
structure ChuteSt where
  owedResults : List ((Nat × Bool) × Bool) := []
  first : Bool := true
  cur : Nat × Bool := (0, false)
  fetchDue : Bool := false
  deriving DecidableEq, Repr

/-- A clock domain's ramp (R401): D in force and the change it makes for. -/
structure Ramp where
  div : Nat := 0
  src : Nat := 0
  goalDiv : Nat := 0
  goalSrc : Nat := 0
  deriving DecidableEq, Repr

/-- The standby domain and the start (R393 to R418, R426 to R443): `loadAt` is the instant at which the option loading of
this start began; `restartTimes` the restarts of option loading since it last completed; `railsLow` the rails outside
their operating range; `perstUntil` the end of a PERST_N
that the watchdog applies internally; `xtal` the last counts of the crystal; `header` the image header verified in this start; `gotSegs`
and `asked`, by target, the segments received and the requests made, `sentSegs`, by segment, one more than the targets field of its frames, and `segCount` the
segments of the broadcast (R433, R434); `pinsAt` the instant from which a stopped Steading holds its output pins (R410); `stopAt` the instant at which an orderly stop began (R491); `trim` the
trim code in force (R393). -/
structure Start where
  loadAt : Nat := 0
  loading : Bool := true
  restartTimes : List Nat := []
  storm : Bool := false
  tripTimes : List Nat := []
  tripHold : Bool := false
  tripForever : Bool := false
  therm : Bool := false
  railsLow : List Rail := []
  porstLow : Bool := false
  perstLow : Bool := false
  perstUntil : Nat := 0
  warmReset : Bool := false
  pwrfailLow : Bool := false
  startDelayDone : Bool := false
  xtal : List Nat := []
  header : List Byte := []
  bootDone : Bool := false
  steadingDown : Bool := true
  configured : Bool := false
  wdtAt : Nat := 0
  memTested : Bool := false
  cellsTested : Bool := false
  gotSegs : Tbl (List Nat) := []
  asked : Tbl Nat := []
  sentSegs : Tbl Nat := []
  segCount : Nat := 0
  pinsAt : Nat := 0
  stopAt : Nat := 0
  trim : Option Nat := none
  deriving DecidableEq, Repr

/-- A sensor's cross-check record (R476, R477). -/
structure Sensor where
  agree : Nat := 0
  saidDisagree : Option Nat := none
  deriving DecidableEq, Repr

/-- Heat and power beyond the registers (R479 to R492): when the inlet was last written and whether INLET_STALE has been
raised; whether CAP_REDUCED has; since when the cap formula has asked for less than 800 W; the cap the governor wants; the
last 50 readings of each sentinel; the regions' cycle skips by cell; since when a stop's cooling condition has held; the voltage of each rail in mV at its last round (R474). -/
structure Heat where
  coolWritten : Option Nat := none
  inletStale : Bool := false
  capReduced : Bool := false
  lowSince : Option Nat := none
  capTarget : Nat := 800
  sentinels : Tbl (List Int) := []
  skips : Tbl Nat := []
  coolSince : Option Nat := none
  railMv : List (Rail × Nat) := []
  deriving DecidableEq, Repr

/-- The Keep record (R497); `header` is the image header of the start before Keep (R428). -/
structure KeepRec where
  ctl : Ctl := {}
  regs : Tbl Word := []
  staged : Tbl Word := []
  cells : Tbl Cell := []
  chans : Tbl Chan := []
  header : List Byte := []
  deriving DecidableEq, Repr

/-- Keep beyond PWR_KEEP (R495 to R501): when its entry began, whether the part is in Keep, since when, its record. -/
structure KeepSt where
  entryAt : Option Nat := none
  inKeep : Bool := false
  enteredAt : Nat := 0
  record : Option KeepRec := none
  deriving DecidableEq, Repr

/-- The I3C port (R537 to R539): the read pointer, the dynamic address, the cause of an ignored write, and the in-band
interrupts offered and not yet dropped, as class byte and record. -/
structure I3cSt where
  pointer : Nat := 0
  dynAddr : Option Nat := none
  cause : Nat := 0
  ibis : List (Nat × List Byte) := []
  deriving DecidableEq, Repr

/-- The published snapshot of the mirror (R514 to R519); `staleWords` the mirror words that have read as lost since, `stale`
the blocks that were in reset since it was captured, as (record class, number). -/
structure Snap where
  valid : Bool := false
  edge : Nat := 0
  time : Nat := 0
  regs : Tbl Word := []
  staged : Tbl Word := []
  ctl : Ctl := {}
  sqTails : Tbl Nat := []
  cqHeads : Tbl Nat := []
  otp : Memory := []
  staleWords : List Nat := []
  stale : List (Nat × Nat) := []
  deriving DecidableEq, Repr

/-- An error record (Table 10.2): what it names, the reads of its word in the tick so far, the tick. -/
structure UeRec where
  type : Nat := 1
  reader : Nat := 0
  outcome : Nat := 0
  unit : Nat := 0
  word : Nat := 0
  consumer : Nat := 0xFFFF
  job : Nat := 0xFF
  count : Nat := 1
  tick : Nat := 0
  deriving DecidableEq, Repr

/-- Stored words with bits in error (R295), by byte address ÷ 8: 0 none, 2 beyond correction, 3 + b bit b alone. -/
abbrev ErrTbl := Tbl Nat

/-- What the part sends out while it carries out one command: completions, interrupts, ring traffic (a control word with
the port it leaves by and the part it comes from), alerts. -/
inductive Output where
  | readData (status : Nat) (bytes : List Byte)
  | regData (v : Word)
  | msix (fn vector : Nat) (addr : Word) (data : BitVec 32)
  | ctl (port part : Nat) (w : CtlWord)
  | env (port : Nat) (e : Envelope)
  | d2dRetry (link : Nat) (back : Bool) (seq : Nat)
  | ibi (cls : Nat) (bytes : List Byte)
  | memResp (reader : Reader) (status : Nat) (bytes : List Byte)
  | scores (channel : Nat) (tags : List Nat) (bytes : List Byte)
  | scoreError (channel tag : Nat)
  | lostMark (consumer producer : Nat)
  | frame (target : Target) (seq : Nat)
  | status (v : Nat)
  deriving DecidableEq, Repr

/-- The state of the part. `fuseCells` are the two sense cells of the debug fuse beside bit 0 of the lock word: every part leaves the
factory with the fuse blown (R472). -/
structure State where
  pending : List Instr := []
  regs : Tbl Word := []
  staged : Tbl Word := []
  now : Nat := 0
  fresh : Nat := 0
  out : List Output := []
  -- memories
  devMem : Memory := []
  hostMem : Memory := []
  flash : Memory := []
  otp : Memory := []
  fuseCells : List Bool := [true, true]
  rcvBuf : Memory := []
  loftErr : ErrTbl := []
  ueTick : List UeRec := []
  -- control plane
  ctl : Ctl := {}
  tick : TickSt := {}
  commit : Option CommitSt := none
  autos : List AutoCommit := []
  stagedAfter : List Nat := []
  -- data plane
  cells : Tbl Cell := []
  resets : List ResetHold := []
  chans : Tbl Chan := []
  stackTbl : Tbl Stack := []
  hubErr : ErrTbl := []
  hubSpares : Tbl Nat := []
  fullBuckets : List Nat := []
  halfAsked : List Nat := []
  accWait : List WaitAcc := []
  arrivals : Nat := 0
  ports : Tbl Port := []
  links : Tbl Link := []
  ring : Ring := {}
  -- host interface
  sqTails : Tbl Nat := []
  cqHeads : Tbl Nat := []
  msix : Tbl MsixEntry := []
  wroteCq : List Nat := []
  heldCq : List (Nat × List Byte) := []
  chutes : Tbl ChuteSt := []
  -- management
  ramps : Tbl Ramp := []
  start : Start := {}
  logRing : Tbl (Word × Word) := []
  stdBuf : List Event := []
  logPend : List Event := []
  logTimes : List Nat := []
  rakeAt : Nat := 0
  rakeDue : Nat := 0
  sensors : Tbl Sensor := []
  heat : Heat := {}
  keep : KeepSt := {}
  i3c : I3cSt := {}
  seqStores : Tbl Memory := []
  repairMark : Nat × Nat := (0, 0)
  otpJob : Option (List Byte) := none
  imgJob : Option (List Byte) := none
  attBody : List Byte := []
  report : List Byte := []
  attZero : Bool := false
  jtagReset : Bool := true
  minSvn : Nat := 0
  flagsActive : Nat := 0
  svn : Nat := 0
  snap : Snap := {}
  deriving DecidableEq, Repr

/-- The stops a step can end in by fault. None is used: an access to an address the spec says does not exist is
answered by the part itself (R242, R364, R13), which is an effect. Safe. -/
inductive Fault where
  | none
  deriving DecidableEq, Repr

/-- The stops a step can end in by refusal. `notModelled` stands in the arms of exec of a command that has no meaning
yet; safe. `illFormed` is raised by a command whose operands are outside the ranges the spec gives the unit they name
(Instr.wellFormed refuses it; log entry 4): no such command can be sent, so the refusal is safe. -/
inductive Refusal where
  | notModelled (mnemonic : String)
  | illFormed
  deriving DecidableEq, Repr

/-- The part right after a cold reset is released, before option loading (Table 13.5, R411): registers at their reset
values (unlisted), memories with nothing listed, no program, no stream, no command. -/
def State.reset : State := {}

end Sys2Proof.Machine
end

