-- ==== Sys2Proof/Machine/Ops.lean ====
section
/-! DEFINITION. The named operations that every family shares: sparse tables, byte memories and byte strings, register
fields, counters, selectors, the numbering of units (Table 0.7, Table 1.5), events and interrupts (R37, R38, R381,
R502 to R504). -/

namespace Sys2Proof.Machine

/-! ## Sparse tables -/

/-- The value of a key; the default where the table lists none. -/
def tget {α : Type} (d : α) : Tbl α → Nat → α
  | [], _ => d
  | (k, v) :: r, i => if k = i then v else tget d r i

/-- Sets the value of a key, keeping the canonical form: strictly rising keys, no value equal to the default. Whatever the
form, the key then reads as the value and every other key as before. -/
def tput {α : Type} [DecidableEq α] (d : α) : Tbl α → Nat → α → Tbl α
  | [], i, v => if v = d then [] else [(i, v)]
  | (k, w) :: r, i, v =>
    if v = d then (if i = k then tput d r i v else (k, w) :: tput d r i v)
    else if i < k then (i, v) :: (k, w) :: r
    else if i = k then (i, v) :: r
    else (k, w) :: tput d r i v

/-- Every key is above n and the keys rise strictly. -/
def keysAbove {α : Type} : Nat → Tbl α → Bool
  | _, [] => true
  | n, (k, _) :: r => decide (n < k) && keysAbove k r

/-- The keys rise strictly. -/
def keysRise {α : Type} : Tbl α → Bool
  | [] => true
  | (k, _) :: r => keysAbove k r

/-- The canonical form of a table with default d. -/
def tblWf {α : Type} [DecidableEq α] (d : α) (t : Tbl α) : Bool :=
  keysRise t && t.all (fun e => decide (e.2 ≠ d))

/-- Changes the value of a key by a function. -/
def tmod {α : Type} [DecidableEq α] (d : α) (t : Tbl α) (i : Nat) (f : α → α) : Tbl α := tput d t i (f (tget d t i))

/-- Changes the values of a list of keys. -/
def tmods {α : Type} [DecidableEq α] (d : α) (t : Tbl α) (ks : List Nat) (f : α → α) : Tbl α :=
  ks.foldl (fun t k => tmod d t k f) t

/-! ## Byte memories and byte strings -/

/-- What an unlisted byte of any memory reads as (log entry 2). -/
def emptyByte : Byte := 0

/-- The byte at an address. -/
def mget (m : Memory) (a : Nat) : Byte := tget emptyByte m a

/-- Writes one byte, keeping the canonical form. -/
def mput (m : Memory) (a : Nat) (b : Byte) : Memory := tput emptyByte m a b

/-- The canonical form of a memory. -/
def Memory.wf (m : Memory) : Bool := tblWf emptyByte m

/-- n bytes from an address, in ascending address order. -/
def mread (m : Memory) (a n : Nat) : List Byte := (List.range n).map (fun i => mget m (a + i))

/-- Writes bytes from an address, in ascending address order. -/
def mwrite (m : Memory) : Nat → List Byte → Memory
  | _, [] => m
  | a, b :: r => mwrite (mput m a b) (a + 1) r

/-- A byte string from an address, without the bytes equal to what an unlisted byte reads as. -/
def listed (a : Nat) : List Byte → Memory
  | [] => []
  | b :: r => (if b = emptyByte then [] else [(a, b)]) ++ listed (a + 1) r

/-- Writes a whole block of bytes at once: the same as mwrite. -/
def mblock (m : Memory) (a : Nat) (bs : List Byte) : Memory :=
  m.filter (fun e => decide (e.1 < a)) ++ listed a bs ++ m.filter (fun e => decide (a + bs.length ≤ e.1))

/-- The flash keeps its bytes inverted, so that an unlisted byte is an erased one and reads 0xFF (log entry 2). -/
def fread (m : Memory) (a n : Nat) : List Byte := (mread m a n).map (fun b => ~~~b)
def fwrite (m : Memory) (a : Nat) (bs : List Byte) : Memory := mblock m a (bs.map (fun b => ~~~b))
/-- Erases n bytes from an address: every byte reads 0xFF. -/
def ferase (m : Memory) (a n : Nat) : Memory := m.filter (fun e => decide (e.1 < a) || decide (a + n ≤ e.1))

/-- A little-endian byte string as a number (R6). -/
def leNat : List Byte → Nat
  | [] => 0
  | b :: r => b.toNat + 256 * leNat r

/-- The n-byte little-endian string of a number (R6). -/
def leBytes : Nat → Nat → List Byte
  | 0, _ => []
  | n + 1, v => BitVec.ofNat 8 v :: leBytes n (v / 256)

/-- n bytes of a string from an offset; bytes beyond its end read 0. -/
def slice (l : List Byte) (o n : Nat) : List Byte :=
  let r := (l.drop o).take n
  r ++ List.replicate (n - r.length) 0

/-- The little-endian field of n bytes at an offset. -/
def fieldAt (l : List Byte) (o n : Nat) : Nat := leNat (slice l o n)

/-- Whether n bytes from an offset are all zero. -/
def zeroAt (l : List Byte) (o n : Nat) : Bool := (slice l o n).all (fun b => decide (b = 0))

/-- Bits [lo + n - 1 : lo] of a number. -/
def bitsOf (v lo n : Nat) : Nat := v / 2 ^ lo % 2 ^ n

/-- Whether bit i of a number is set. -/
def bitOf (v i : Nat) : Bool := v.testBit i

/-- A string cut into runs of n bytes. -/
def chunksOf (n : Nat) : Nat → List Byte → List (List Byte)
  | 0, _ => []
  | f + 1, l => if l.isEmpty then [] else l.take n :: chunksOf n f (l.drop n)

/-- The position of the first element that meets a condition. -/
def findIdx? {α : Type} (p : α → Bool) (l : List α) : Option Nat :=
  ((l.zip (List.range l.length)).find? (fun e => p e.1)).map (fun e => e.2)

/-- Insertion into a list sorted by a key, after equal keys. -/
def insertBy {α : Type} (k : α → Nat) (x : α) : List α → List α
  | [] => [x]
  | y :: r => if k x < k y then x :: y :: r else y :: insertBy k x r

/-- A list sorted by a key, equal keys in their order. -/
def sortBy {α : Type} (k : α → Nat) (l : List α) : List α := l.foldl (fun acc x => insertBy k x acc) []

/-- Repeats a change of the state n times. -/
def iterate {α : Type} (f : α → α) : Nat → α → α
  | 0, a => a
  | n + 1, a => iterate f n (f a)

/-! ## Register words -/

/-- The mask of n low bits. -/
def maskW (n : Nat) : Word := (BitVec.allOnes n).setWidth 64

/-- Bits [lo + n - 1 : lo] of a register word. -/
def fieldGet (w : Word) (lo n : Nat) : Nat := (w.extractLsb' lo n).toNat

/-- A register word with bits [lo + n - 1 : lo] set to v. -/
def fieldPut (w : Word) (lo n v : Nat) : Word :=
  (w &&& ~~~(maskW n <<< lo)) ||| ((BitVec.ofNat n v).setWidth 64 <<< lo)

/-- The boot value of CLK_DOM by domain (Tables 13.2 and 13.7): D = 8 eighths on the PLL, but for domains 53 to 56
and 58 on the internal oscillator (log entry 3). -/
def clkBoot (d : Nat) : Nat :=
  if d = 53 then 1 + 4 * 8 else if d = 54 then 1 + 4 * 16 else if d = 55 then 1 + 4 * 32
  else if d = 56 then 1 + 4 * 64 else if d = 58 then 1 + 4 * 16 else 4 * 8

/-- The value of a register's copy after a cold reset. -/
def regReset (r : Reg) (inst : Nat) : Word :=
  if r.off = R.clkDom.off then BitVec.ofNat 64 (clkBoot inst) else BitVec.ofNat 64 r.reset

/-- The key of a register's copy in the register tables: no register has more than 65,536 copies, and no two registers
share a key. -/
def regKey (r : Reg) (inst : Nat) : Nat := r.off / 8 * 65536 + inst % 65536

/-- The register word of a copy: the active copy for an ST register. -/
def State.reg (s : State) (r : Reg) (inst : Nat) : Word := tget (regReset r inst) s.regs (regKey r inst)

/-- Sets a register word. -/
def State.setReg (s : State) (r : Reg) (inst : Nat) (w : Word) : State :=
  { s with regs := tput (regReset r inst) s.regs (regKey r inst) w }

/-- The staged copy of an ST register (R11). -/
def State.stagedReg (s : State) (r : Reg) (inst : Nat) : Word := tget (regReset r inst) s.staged (regKey r inst)

/-- Sets a staged copy. -/
def State.setStaged (s : State) (r : Reg) (inst : Nat) (w : Word) : State :=
  { s with staged := tput (regReset r inst) s.staged (regKey r inst) w }

/-- The value of a field of a copy. -/
def State.getF (s : State) (f : Fld) (inst : Nat := 0) : Nat := fieldGet (s.reg f.reg inst) f.lo f.width

/-- Whether a one-bit field is set. -/
def State.onF (s : State) (f : Fld) (inst : Nat := 0) : Bool := s.getF f inst != 0

/-- Sets a field of a copy, leaving the register's other bits. -/
def State.putF (s : State) (f : Fld) (inst v : Nat) : State :=
  s.setReg f.reg inst (fieldPut (s.reg f.reg inst) f.lo f.width v)

/-- The value of a field in a staged copy. -/
def State.getStagedF (s : State) (f : Fld) (inst : Nat := 0) : Nat := fieldGet (s.stagedReg f.reg inst) f.lo f.width

/-- Sets a field in a staged copy. -/
def State.putStagedF (s : State) (f : Fld) (inst v : Nat) : State :=
  s.setStaged f.reg inst (fieldPut (s.stagedReg f.reg inst) f.lo f.width v)

/-- Adds to a counter field, saturating at its largest value (R131, R169, R201, R238, R269, R293, R313, R354, R390). -/
def State.bump (s : State) (f : Fld) (inst : Nat) (n : Nat := 1) : State :=
  s.putF f inst (min (s.getF f inst + n) (2 ^ f.width - 1))

/-! ## The tick (R74) -/

/-- The run deadline and the stretch limit, from the edge (R74). -/
def State.period (s : State) : Nat := s.getF F.tikPeriod_us * 1000
def State.windowNs (s : State) : Nat := s.getF F.tikWindow_ns
def State.guardNs (s : State) : Nat := s.getF F.tikGuard_pct * s.period / 100 / 10 * 10
def State.deadline (s : State) : Nat := s.period - s.windowNs
def State.stretchLimit (s : State) : Nat := s.deadline + s.guardNs

/-- The instant of the next edge. -/
def State.edgeDue (s : State) : Nat := s.tick.edgeAt + s.tick.newEdge.getD s.period

/-- ns left in a window that opens now: to the edge, or a window's length while a deferred edge is not yet known. -/
def State.windowLeft (s : State) (now : Nat) : Nat :=
  if s.tick.deferred && s.tick.newEdge.isNone then s.windowNs else s.edgeDue - now

/-! ## Requesters and selectors (R511) -/

/-- The number of a requester's selector copy. -/
def reqNo : Requester → Nat
  | .host => 0
  | .steading => 1
  | .i3c => 2

/-- The value of a requester's own copy of a selector. -/
def State.sel (s : State) (by_ : Requester) (f : Fld) : Nat := s.getF f (reqNo by_)

/-- The copy of a register that a requester's accesses reach. -/
def State.shownInst (s : State) (by_ : Requester) (r : Reg) : Nat :=
  match r.shown with
  | .part => 0
  | .sheaf => s.sel by_ F.shfSel_id
  | .cell => s.sel by_ F.celSel_cell
  | .stream => s.sel by_ F.kvpSsel_stream
  | .channel => s.sel by_ F.vccSel_channel
  | .hub => s.sel by_ F.stdBsel_store
  | .rake => s.sel by_ F.rakLogsel_entry
  | .port => s.sel by_ F.lnkSel_port
  | .link => s.sel by_ F.d2dSel_link
  | .queue => s.sel by_ F.hstQsel_queue
  | .fn => s.sel by_ F.hstFsel_function
  | .chute => s.sel by_ F.chuSel_channel
  | .domain => s.sel by_ F.clkSel_domain
  | .sensor => s.sel by_ F.thmSel_sensor
  | .otp => reqNo by_
  | .selector => reqNo by_

/-! ## Units (Table 0.7, Table 1.5) -/

/-- Cell kinds, in the encoding of Table 2.6. -/
def kM : Nat := 0
def kA : Nat := 1
def kV : Nat := 2
def kG : Nat := 3
def kL : Nat := 4
def kS : Nat := 5

/-- Row and column of a cell within its tower, and its tower. -/
def cellRow (c : Nat) : Nat := c / 16 % 16
def cellCol (c : Nat) : Nat := c % 16
def cellTower (c : Nat) : Nat := c / 256

/-- The kind of a cell by its position in its stook (Table 1.5). -/
def kindOf (c : Nat) : Nat :=
  [kM, kV, kA, kV, kV, kG, kM, kS, kM, kL, kV, kG, kV, kA, kV, kM].getD (cellRow c % 4 * 4 + cellCol c % 4) kM

/-- The stook of a cell. -/
def stookOf (c : Nat) : Nat := cellTower c * 16 + cellRow c / 4 * 4 + cellCol c / 4

/-- The memory stack above a cell. -/
def stackOf (c : Nat) : Nat := cellTower c * 8 + cellRow c / 4 * 2 + cellCol c / 8

/-- Every cell number, which is also every channel number. -/
def allCells : List Nat := List.range 1024

/-- The M positions in ascending cell number (R455). -/
def mPositions : List Nat := allCells.filter (fun c => kindOf c == kM)

/-- The channels of a stack. -/
def chansOfStack (k : Nat) : List Nat := allCells.filter (fun c => stackOf c == k)

/-- A cell's record, and setting it. -/
def State.cell (s : State) (c : Nat) : Cell := tget {} s.cells c
def State.setCell (s : State) (c : Nat) (x : Cell) : State := { s with cells := tput {} s.cells c x }
def State.modCell (s : State) (c : Nat) (f : Cell → Cell) : State := s.setCell c (f (s.cell c))

/-- A channel's record, and setting it. -/
def State.chan (s : State) (c : Nat) : Chan := tget {} s.chans c
def State.setChan (s : State) (c : Nat) (x : Chan) : State := { s with chans := tput {} s.chans c x }
def State.modChan (s : State) (c : Nat) (f : Chan → Chan) : State := s.setChan c (f (s.chan c))

/-- A program slot, a sheaf, a stream, and setting them. -/
def State.prog (s : State) (j : Nat) : Program := tget {} s.ctl.progs j
def State.setProg (s : State) (j : Nat) (p : Program) : State :=
  { s with ctl := { s.ctl with progs := tput {} s.ctl.progs j p } }
def State.modProg (s : State) (j : Nat) (f : Program → Program) : State := s.setProg j (f (s.prog j))
def State.sheaf (s : State) (i : Nat) : SheafSt := tget {} s.ctl.sheafs i
def State.setSheaf (s : State) (i : Nat) (x : SheafSt) : State :=
  { s with ctl := { s.ctl with sheafs := tput {} s.ctl.sheafs i x } }
def State.stream (s : State) (i : Nat) : Stream := tget {} s.ctl.streams i
def State.setStream (s : State) (i : Nat) (x : Stream) : State :=
  { s with ctl := { s.ctl with streams := tput {} s.ctl.streams i x } }
def State.modStream (s : State) (i : Nat) (f : Stream → Stream) : State := s.setStream i (f (s.stream i))

/-- A ring port and a die-to-die link, and setting them. -/
def State.port (s : State) (p : Nat) : Port := tget {} s.ports p
def State.setPort (s : State) (p : Nat) (x : Port) : State := { s with ports := tput {} s.ports p x }
def State.modPort (s : State) (p : Nat) (f : Port → Port) : State := s.setPort p (f (s.port p))
def State.link (s : State) (l : Nat) : Link := tget {} s.links l
def State.setLink (s : State) (l : Nat) (x : Link) : State := { s with links := tput {} s.links l x }
def State.modLink (s : State) (l : Nat) (f : Link → Link) : State := s.setLink l (f (s.link l))

/-- A stack's heat record, and setting it. -/
def State.stackSt (s : State) (k : Nat) : Stack := tget {} s.stackTbl k
def State.setStack (s : State) (k : Nat) (x : Stack) : State := { s with stackTbl := tput {} s.stackTbl k x }

/-- The jobs whose program is staged or active, and the active ones. -/
def State.jobs (s : State) : List Nat :=
  (List.range 8).filter (fun j => (s.prog j).state == .staged || (s.prog j).state == .active)
def State.activeJobs (s : State) : List Nat := (List.range 8).filter (fun j => (s.prog j).state == .active)

/-- The stream identifiers in use, ascending. -/
def State.openStreams (s : State) : List Nat := (s.ctl.streams.filter (fun e => e.2.isOpen)).map (fun e => e.1)

/-- The cells that run the stages of a program now, by R64. -/
def Program.runner (p : Program) (c : Nat) : Nat := ((p.remap.find? (fun e => e.1 == c)).map (fun e => e.2)).getD c

/-- The stages of a program with the cell that runs each. -/
def Program.stagesAt (p : Program) : List (Nat × Stage) := p.img.stages.map (fun g => (p.runner g.cell, g))

/-- The stage that a cell runs, with its job. -/
def State.stageOf (s : State) (c : Nat) : Option (Nat × Stage) :=
  ((List.range 8).flatMap (fun j => if (s.prog j).state == .active then
    ((s.prog j).stagesAt.filter (fun e => e.1 == c)).map (fun e => (j, e.2)) else [])).head?

/-- Own coordinates (LNK_RING.own). -/
def State.own (s : State) : Nat := s.getF F.lnkRing_own

/-- A ring port's plane is held in reset (LNK_CTL.reset of either of its ports). -/
def State.planeReset (s : State) (p : Nat) : Bool :=
  s.onF F.lnkCtl_reset (2 * (p / 2)) || s.onF F.lnkCtl_reset (2 * (p / 2) + 1)

/-! ## Availability (R62) -/

/-- The SHF_AVAIL register that holds a cell's bit. -/
def availReg (c : Nat) : Reg := [R.shfAvail0, R.shfAvail1, R.shfAvail2, R.shfAvail3, R.shfAvail4, R.shfAvail5,
  R.shfAvail6, R.shfAvail7, R.shfAvail8, R.shfAvail9, R.shfAvail10, R.shfAvail11, R.shfAvail12, R.shfAvail13,
  R.shfAvail14, R.shfAvail15].getD (c / 64) R.shfAvail0

/-- Whether SHF_AVAIL of the part reports a cell as usable. -/
def State.usable (s : State) (c : Nat) : Bool := fieldGet (s.reg (availReg c) 0) (c % 64) 1 != 0

/-- Sets or clears a cell's bit of the part's SHF_AVAIL. -/
def State.setUsable (s : State) (c : Nat) (b : Bool) : State :=
  s.setReg (availReg c) 0 (fieldPut (s.reg (availReg c) 0) (c % 64) 1 (bit b))

/-- Counts a retirement, a narrowing or an isolation of a start in STD_BOOT_RET (R429). -/
def State.countInStart (s : State) (f : Fld) : State :=
  if s.getF F.stdBoot_stage < 7 then (s.bump f 0).putF F.stdBoot_degraded 0 1 else s

/-! ## One command -/

/-- Every command starts with nothing sent yet (State.out). -/
def State.begin (s : State) : State := { s with out := [] }

/-- Sends something out. -/
def State.send (s : State) (o : Output) : State := { s with out := s.out ++ [o] }

/-- A command whose effect is a change of the state; the queue of waiting commands is none of a command's business. -/
def run (f : State → State) (s : State) : Host.Outcome State Fault Refusal := .next { f s.begin with pending := s.pending }

/-- A command whose operands must be ones the spec gives (R16 and the ranges of the unit). -/
def runIf (ok : Bool) (f : State → State) (s : State) : Host.Outcome State Fault Refusal :=
  if ok then run f s else .refused .illFormed

/-- Time goes on: the latest instant a command has named. -/
def State.at_ (s : State) (now : Nat) : State := { s with now := max s.now now }

/-- A fresh free word (log entry 5). -/
def State.freeWord (s : State) : Word := Config.freeWord s.fresh
def State.nextFree (s : State) : State := { s with fresh := s.fresh + 1 }

/-- The mirror record of a block that is or was in reset is stale until the next publication (R519). -/
def State.markStale (s : State) (cls n : Nat) : State :=
  { s with snap := { s.snap with stale := if s.snap.stale.contains (cls, n) then s.snap.stale else s.snap.stale ++ [(cls, n)] } }

/-! ## Events and interrupts -/

/-- The classes of R503. -/
inductive EvClass where
  | info | warning | fault
  deriving DecidableEq, Repr

/-- The class of an event code and whether it is marked L (Table 16.7). -/
def evClass (code : Nat) : EvClass × Bool :=
  if [0x01, 0x33, 0x43, 0x68, 0x69, 0x6A].contains code then (.info, true)
  else if [0x13, 0x14].contains code then (.info, false)
  else if [0x02, 0x05, 0x10, 0x11, 0x21, 0x22, 0x30, 0x32, 0x40, 0x50, 0x51, 0x60, 0x61, 0x62, 0x63].contains code then
    (.warning, false)
  else (.fault, false)

/-- The bit of a class in STD_EVT_CFG.msix and .i3c (Table 16.8). -/
def evBit : EvClass → Nat
  | .info => 0
  | .warning => 1
  | .fault => 2

/-- The 32 bytes of an event record (Table 16.6), with its payload record after it. -/
def Event.bytes (e : Event) : List Byte :=
  leBytes 2 e.code ++ leBytes 1 e.srcClass ++ leBytes 1 e.flags ++ leBytes 2 e.index ++ leBytes 2 e.start ++
  leBytes 8 e.tick ++ leBytes 8 e.time ++ leBytes 8 e.arg.toNat ++
  (if e.payload.isEmpty then [] else slice e.payload 0 32)

/-- How many records an event takes (R502). -/
def Event.records (e : Event) : Nat := if e.payload.isEmpty then 1 else 2

/-- Signals a function's MSI-X vector: a masked vector becomes pending (R381). -/
def State.signal (s : State) (fn vec : Nat) : State :=
  let m := tget {} s.msix (fn * 32 + vec)
  if m.masked then { s with msix := tput {} s.msix (fn * 32 + vec) { m with pending := true } }
  else s.send (.msix fn vec m.addr m.data)

/-- Free records of the host event queue: one record always stays unused (R380; log entry 8). -/
def State.evqFree (s : State) : Nat :=
  let n := 2 ^ s.getF F.hstEvqCfg_log
  n - 1 - (s.getF F.hstEvqStat_tail + n - s.getF F.hstEvqStat_head) % n

/-- Appends the records of an event to the host event queue, or drops and counts them (R380, R502). -/
def State.toHostQueue (s : State) (e : Event) : State :=
  if !s.onF F.hstEvqCfg_enable then s
  else if s.evqFree < e.records then s.bump F.hstEvqStat_lost 0 e.records
  else (chunksOf 32 2 e.bytes).foldl (fun s r =>
    let t := s.getF F.hstEvqStat_tail
    { s with hostMem := mwrite s.hostMem (s.getF F.hstEvqBase_addr + 32 * t) r }.putF F.hstEvqStat_tail 0
      ((t + 1) % 2 ^ s.getF F.hstEvqCfg_log)) s

/-- One in-band interrupt on I3C: its data byte, which gives the class, and one record of 32 bytes (R539). -/
def State.alert (s : State) (cls : Nat) (bytes : List Byte) : State :=
  { s with i3c := { s.i3c with ibis := s.i3c.ibis ++ [(cls, bytes)] } }.send (.ibi cls bytes)

/-- What Steading decides for a record (R38, R503, R504): MSI-X vector 0, an I3C alert, a flash log write. Steading memory
holds 16 KiB of records for the log, and drops and counts what comes beyond (R445). -/
def State.steadingTakes (s : State) (e : Event) : State :=
  let (c, l) := evClass e.code
  let s := if bitOf (s.getF F.stdEvtCfg_msix) (evBit c) then s.signal 0 0 else s
  let s := if bitOf (s.getF F.stdEvtCfg_i3c) (evBit c) then (chunksOf 32 2 e.bytes).foldl (fun s r => s.alert (2 ^ evBit c) r) s
    else s
  if c == .fault || l then
    if 512 < (s.logPend.foldl (fun n x => n + x.records) 0) + e.records then s.bump F.stdBootRet_log_lost 0 e.records
    else { s with logPend := s.logPend ++ [e] }
  else s

/-- PERST_N is low at its pin, or applied internally by the watchdog (R417). -/
def State.perstOn (s : State) : Bool := s.start.perstLow || decide (s.now < s.start.perstUntil)

/-- The part is ready (R443). -/
def State.ready (s : State) : Bool := s.getF F.stdBoot_stage == 7

/-- Whether an event's record goes to the flash log (R504). -/
def evLogged (code : Nat) : Bool := (evClass code).1 == .fault || (evClass code).2

/-- The event-log sectors (Table 14.2), and the one in use: a valid magic and the higher sequence, modulo 2³² (R445). -/
def logSector (i : Nat) : Nat := 0x1800000 + 0x10000 * i
def State.logValid (s : State) (i : Nat) : Bool := leNat (fread s.flash (logSector i) 4) == 0x474F4C45
def State.logSeq (s : State) (i : Nat) : Nat := leNat (fread s.flash (logSector i + 4) 4)
def State.logCur (s : State) : Option Nat :=
  if s.logValid 0 && s.logValid 1 then some (bit (decide ((s.logSeq 1 + 2 ^ 32 - s.logSeq 0) % 2 ^ 32 < 2 ^ 31)))
  else if s.logValid 1 then some 1 else if s.logValid 0 then some 0 else none

/-- The low 16 bits of the cold starts counted in the current event-log sector header (R445, R502). -/
def State.coldStarts (s : State) : Nat :=
  match s.logCur with
  | some i => leNat (fread s.flash (logSector i + 8) 4) % 65536
  | none => 0

/-- Raises an event (R37, R38): its record goes to the host event queue and to Steading, which keeps it until it runs
again while it restarts (Table 1.10). -/
def State.raise (s : State) (code cls idx : Nat) (arg : Word) (payload : List Byte := []) : State :=
  let e : Event := {
    code := code, srcClass := cls, index := idx, arg := arg, payload := payload,
    flags := bit (!payload.isEmpty) + 2 * bit (evLogged code) +
      4 * bit (!s.ready || s.onF F.pwrKeep_keep_ok),
    start := s.coldStarts, tick := s.getF F.tikCount_count, time := (s.now - s.start.loadAt) / 1000 }
  let s := s.toHostQueue e
  if s.start.steadingDown then { s with stdBuf := s.stdBuf ++ [e] } else s.steadingTakes e

/-! ## Who reaches a register (R408, R431, R513, R537, Table 1.10) -/

/-- The registers that BAR0 reaches in minimal mode (R431). -/
def minimalRegs : List Reg := [R.stdBoot, R.stdBootRet, R.stdRcvLen, R.stdRcvCtl, R.stdRcvStat, R.rstCause, R.rstOpt, R.clkXtal,
  R.clkMon, R.hstEvqBase, R.hstEvqCfg, R.hstEvqStat]

/-- Whether a requester reaches a register now: BAR0 not in minimal mode apart from its list (R431), and not while PERST_N
is low (R408); the firmware not while Steading restarts (Table 1.10);
the I3C port from the end of Steading boot (R537). -/
def State.reaches (s : State) (by_ : Requester) (off : Nat) : Bool :=
  match by_ with
  | .host => !s.perstOn && !s.start.loading && (!s.onF F.stdBoot_minimal || minimalRegs.any (fun r => r.off == off / 8 * 8))
  | .steading => !s.start.steadingDown
  | .i3c => s.start.bootDone

/-- Whether a requester's write of a register that is not open to I3C takes effect (R513). -/
def State.writes (s : State) (by_ : Requester) (off : Nat) : Bool := by_ != .i3c && s.reaches by_ off

end Sys2Proof.Machine
end

