-- ==== Sys2Proof/Machine/Hash.lean ====
section
/-! DEFINITION. Check sums and digests: CRC-32C (R383), CRC-32 of IEEE 802.3 (R319), SHAKE256 of FIPS 202 (R464), and
the Philox-4x32-10 generator of R166. -/

namespace Sys2Proof.Machine

/-! ## Cyclic redundancy checks, reflected -/

/-- One bit of a reflected CRC register with a reflected polynomial. -/
def crcBit (poly r : BitVec 32) : BitVec 32 := if r.getLsbD 0 then (r >>> 1) ^^^ poly else r >>> 1

/-- One byte into a reflected CRC register. -/
def crcByte (poly r : BitVec 32) (b : Byte) : BitVec 32 := iterate (crcBit poly) 8 (r ^^^ b.setWidth 32)

/-- The CRC of bytes appended to data whose CRC is given: the register is complemented before and after. -/
def crcOver (poly start : BitVec 32) (bs : List Byte) : BitVec 32 := ~~~(bs.foldl (crcByte poly) (~~~start))

/-- CRC-32C: polynomial 0x1EDC_6F41 reflected. -/
def crc32c (start : BitVec 32) (bs : List Byte) : BitVec 32 := crcOver 0x82F63B78 start bs

/-- CRC-32 of IEEE 802.3: polynomial 0x04C1_1DB7 reflected. -/
def crc32 (bs : List Byte) : BitVec 32 := crcOver 0xEDB88320 0 bs

/-! ## SHAKE256 -/

/-- The walk of step rho over the lanes but (0, 0): the lane it has come to with its rotation, the t-th triangular number. -/
def rhoWalk : Nat → Nat → Nat → Nat → List (Nat × Nat)
  | 0, _, _, _ => []
  | n + 1, t, x, y => (x + 5 * y, (t + 1) * (t + 2) / 2 % 64) :: rhoWalk n (t + 1) y ((2 * x + 3 * y) % 5)

/-- The rotation of each lane in step rho; a lane's index is x + 5 y. -/
def rhoTurns : List Nat := (List.range 25).map (fun i => tget 0 (rhoWalk 24 0 1 0) i)

/-- The shift register of step iota, of 8 bits. -/
def iotaNext (r : Nat) : Nat := if 2 * r < 256 then 2 * r else Nat.xor (2 * r) 0x171

/-- The constants of step iota for n rounds from a register: bit 2 ^ j - 1 is the register's low bit j shifts on. -/
def iotaFrom : Nat → Nat → List Word
  | 0, _ => []
  | n + 1, r =>
    BitVec.ofNat 64 (((List.range 7).map (fun j => iterate iotaNext j r % 2 * 2 ^ (2 ^ j - 1))).foldl Nat.add 0) ::
      iotaFrom n (iterate iotaNext 7 r)

/-- The constants of step iota. -/
def iotaConst : List Word := iotaFrom 24 1

/-- A lane of a state of 25. -/
def lane (a : List Word) (x y : Nat) : Word := a.getD (x % 5 + 5 * (y % 5)) 0

/-- The parity of a column, over which step theta works. -/
def columnParity (a : List Word) (x : Nat) : Word := (List.range 5).foldl (fun w y => w ^^^ lane a x y) 0

/-- A state from its lanes by place. -/
def planeMap (f : Nat → Nat → Word) : List Word := (List.range 25).map (fun i => f (i % 5) (i / 5))

/-- Step theta: every lane with the parities of the column before it and, turned by one, of the column after it. -/
def stepTheta (a : List Word) : List Word :=
  let p := (List.range 5).map (columnParity a)
  planeMap (fun x y => lane a x y ^^^ p.getD ((x + 4) % 5) 0 ^^^ (p.getD ((x + 1) % 5) 0).rotateLeft 1)

/-- Steps rho and pi: lane (x, y) is the turned lane (x + 3 y, x). -/
def stepRhoPi (a : List Word) : List Word :=
  planeMap (fun x y => (lane a (x + 3 * y) x).rotateLeft (rhoTurns.getD ((x + 3 * y) % 5 + 5 * x) 0))

/-- Step chi: a row's lanes are mixed without linearity. -/
def stepChi (a : List Word) : List Word :=
  planeMap (fun x y => lane a x y ^^^ (lane a (x + 2) y &&& ~~~(lane a (x + 1) y)))

/-- One round of Keccak-f[1600]. -/
def keccakRound (a : List Word) (rc : Word) : List Word :=
  let b := stepChi (stepRhoPi (stepTheta a))
  b.set 0 (b.getD 0 0 ^^^ rc)

/-- Keccak-f[1600]. -/
def keccakF (a : List Word) : List Word := iotaConst.foldl keccakRound a

/-- A lane from 8 bytes. -/
def laneOf (bs : List Byte) : Word := BitVec.ofNat 64 (leNat bs)

/-- Absorbs one block of 136 bytes. -/
def absorb (a : List Word) (blk : List Byte) : List Word :=
  keccakF ((List.range 25).map (fun i => if i < 17 then a.getD i 0 ^^^ laneOf (slice blk (8 * i) 8) else a.getD i 0))

/-- The padding of SHAKE256 for a message of n bytes: 0x1F, zeros, and the last bit of the block. -/
def shakePad (n : Nat) : List Byte :=
  let k := 136 - n % 136
  if k = 1 then [0x9F] else 0x1F :: (List.replicate (k - 2) 0 ++ [0x80])

/-- SHAKE256 of a message, truncated to n ≤ 136 bytes (every use of R464 asks for 64 or fewer). -/
def shake256 (msg : List Byte) (n : Nat) : List Byte :=
  let m := msg ++ shakePad msg.length
  let a := (chunksOf 136 (m.length / 136 + 1) m).foldl absorb (List.replicate 25 0)
  (a.flatMap (fun w => leBytes 8 w.toNat)).take n

/-! ## Philox-4x32-10 (R166) -/

/-- One round on counter words and keys. -/
def philoxRound (k0 k1 : Nat) (c : Nat × Nat × Nat × Nat) : Nat × Nat × Nat × Nat :=
  let p0 := 0xD2511F53 * c.1
  let p1 := 0xCD9E8D57 * c.2.2.1
  (Nat.xor (Nat.xor (p1 / 2 ^ 32) c.2.1) k0, p1 % 2 ^ 32, Nat.xor (Nat.xor (p0 / 2 ^ 32) c.2.2.2) k1, p0 % 2 ^ 32)

/-- Ten rounds with rising keys; the first output word. -/
def philox (k0 k1 : Nat) (c : Nat × Nat × Nat × Nat) : Nat :=
  ((List.range 10).foldl (fun c i =>
    philoxRound ((k0 + 0x9E3779B9 * i) % 2 ^ 32) ((k1 + 0xBB67AE85 * i) % 2 ^ 32) c) c).1

/-- The draw for position q of a stream's seed: u = draw × 2⁻²⁴ (R166). -/
def drawAt (seed : BitVec 128) (q : Nat) : Nat :=
  let w := fun i => bitsOf seed.toNat (32 * i) 32
  philox (w 0) (w 1) (q, 0, w 2, w 3) / 256

end Sys2Proof.Machine
end

