-- ==== Sys2Proof/Machine/Falcon.lean ====
section
/-! DEFINITION. Falcon-1024 verification (R465, Table 15.6): the encodings of a public key and of a padded signature, the hash to a point, the
product with the public key and the norm bound, as the Falcon specification 1.2 has them (log entry 6). -/

namespace Sys2Proof.Machine

/-- The modulus, and the bound on the square of a signature's norm. -/
def falconQ : Nat := 12289
def falconBound : Nat := 70265242

/-! ## Encodings -/

/-- The coefficients of a public key: 14 bits each, the most significant bit first. -/
def keyCoeffs (bs : List Byte) : List Nat :=
  let v := bs.foldl (fun a b => a * 256 + b.toNat) 0
  (List.range 1024).map (fun i => v / 2 ^ (14 * (1023 - i)) % 2 ^ 14)
def keyOk (k : List Byte) : Bool :=
  k.length == 1793 && k.getD 0 0 == 0x0A && (keyCoeffs (k.drop 1)).all (fun c => decide (c < falconQ))

/-- The bits of a byte string, the most significant of each byte first. -/
def bitsMsb (bs : List Byte) : List Bool := bs.flatMap (fun b => (List.range 8).map (fun i => b.getLsbD (7 - i)))

/-- The length of the run of zeros that a bit string begins with, and what follows the 1 that ends it. -/
def unaryRun : List Bool → Option (Nat × List Bool)
  | [] => none
  | true :: r => some (0, r)
  | false :: r => (unaryRun r).map (fun e => (e.1 + 1, e.2))

/-- n coefficients of a compressed vector: a sign, seven low bits, the rest in unary; zero has one encoding only. What is left is padding. -/
def unpackVector : Nat → List Bool → Option (List Int × List Bool)
  | 0, bs => some ([], bs)
  | n + 1, bs =>
    match bs.splitAt 8 with
    | (sign :: low, r) =>
      if low.length < 7 then none
      else match unaryRun r with
        | none => none
        | some (k, r) =>
          let v : Nat := low.foldl (fun a b => 2 * a + bit b) 0 + 128 * k
          if sign && v == 0 then none
          else (unpackVector n r).map (fun e => ((if sign then -(v : Int) else (v : Int)) :: e.1, e.2))
    | _ => none

/-- The vector of a signature, where its padding is zero. -/
def sigVector (bs : List Byte) : Option (List Int) :=
  match unpackVector 1024 (bitsMsb bs) with
  | some (v, pad) => if pad.all (fun b => !b) then some v else none
  | none => none

/-! ## The hash to a point -/

/-- The first n blocks of 136 bytes of the output of SHAKE256. -/
def squeeze : Nat → List Word → List Byte
  | 0, _ => []
  | n + 1, a => (a.flatMap (fun w => leBytes 8 w.toNat)).take 136 ++ squeeze n (keccakF a)

/-- The state of SHAKE256 that has taken a message. -/
def absorbed (msg : List Byte) : List Word :=
  let m := msg ++ shakePad msg.length
  (chunksOf 136 (m.length / 136 + 1) m).foldl absorb (List.replicate 25 0)

/-- The coefficients from 16-bit numbers, the most significant byte first; a number of 5 q or more is passed over. Of 64 blocks of output,
four times what is needed, none remains to be seen (log entry 6). -/
def hashPoint (msg : List Byte) : List Int :=
  ((((chunksOf 2 4352 (squeeze 64 (absorbed msg))).map (fun e => 256 * (e.getD 0 0).toNat + (e.getD 1 0).toNat)).filter
    (fun t => decide (t < 5 * falconQ))).take 1024).map (fun t => ((t % falconQ : Nat) : Int))

/-! ## The ring of polynomials modulo x¹⁰²⁴ + 1 and q -/

/-- A polynomial times x. -/
def timesX (p : List Int) : List Int := -(p.getLastD 0) :: p.dropLast

/-- The product of two polynomials. -/
def polyMul (a b : List Int) : List Int :=
  (a.foldl (fun (s : List Int × List Int) c => (List.zipWith (fun x y => (x + c * y) % (falconQ : Int)) s.1 s.2, timesX s.2))
    (List.replicate b.length 0, b)).1

/-- The representative of least absolute value. -/
def centred (x : Int) : Int :=
  let r := x % (falconQ : Int)
  if (falconQ : Int) < 2 * r then r - falconQ else r

def normSq (v : List Int) : Nat := v.foldl (fun n x => n + x.natAbs ^ 2) 0

/-- A vector s2 verifies for a point c and a public key h: (c - s2 h, s2) is short enough. -/
def shortEnough (c s2 h : List Int) : Bool :=
  let s1 := List.zipWith (fun x y => centred (x - y)) c (polyMul s2 h)
  decide (normSq s1 + normSq s2 ≤ falconBound)

/-- A signature over a 64-byte message verifies (R465, R466): the encodings are right, and the vector that it holds is short enough for the hash
of its nonce with the message. -/
def sigOk (key msg sig : List Byte) : Bool :=
  keyOk key && sig.length == 1280 && sig.getD 0 0 == 0x3A &&
  (match sigVector (sig.drop 41) with
  | some s2 => shortEnough (hashPoint (slice sig 1 40 ++ msg)) s2 ((keyCoeffs (key.drop 1)).map (fun n => (n : Int)))
  | none => false)

end Sys2Proof.Machine
end

