-- ==== Sys2Proof/Machine/Otp.lean ====
section
/-! DEFINITION. The one-time-programmable store (R451 to R466): the factory block, the settings generations, the factory
repair data, programming that fails or is cut short. -/

namespace Sys2Proof.Machine

/-- n bytes of the store (R451). -/
def State.otpAt (s : State) (o n : Nat) : List Byte := mread s.otp o n
def State.otpNat (s : State) (o n : Nat) : Nat := leNat (s.otpAt o n)

/-- Programs bytes at an offset: a programmed bit stays 1 (R451). -/
def burn (m : Memory) : Nat → List Byte → Memory
  | _, [] => m
  | a, b :: r => burn (mput m a (mget m a ||| b)) (a + 1) r

/-- The number of 1 bits of a byte string. -/
def ones (bs : List Byte) : Nat := bs.foldl (fun n b => n + ((List.range 8).filter (fun i => b.getLsbD i)).length) 0

/-! ## The factory block (Table 15.2) -/

def State.serial (s : State) : Nat := s.otpNat 0x008 8
def State.mCount (s : State) : Nat := s.otpNat 0x006 2

/-- The block is valid (R453). -/
def State.factoryOk (s : State) : Bool :=
  s.otpNat 0 4 == 0x4650544F && s.otpNat 4 2 == 1 && s.otpAt 0x1C0 64 == shake256 (s.otpAt 0 0x1C0) 64 &&
  ones (s.otpAt 0x18 32) + s.mCount == 256

/-- The trim word is valid (R454). -/
def State.trimOk (s : State) : Bool :=
  let w := s.otpNat 0x14 4
  w / 65536 == 65535 - w % 65536

/-- The trim code that option loading applies; none without a valid trim word (R393, R454). -/
def State.trimCode (s : State) : Option Nat := if s.trimOk then some (s.otpNat 0x14 4 % 1024) else none

/-- The disabled M cells, by position in ascending cell number (R455). -/
def State.disabled (s : State) (c : Nat) : Bool :=
  match findIdx? (fun k => k == c) mPositions with
  | some i => (mget s.otp (0x18 + i / 8)).getLsbD (i % 8) && s.factoryOk
  | none => false

/-! ## Settings generations (Table 15.4) -/

def genAt (g : Nat) : Nat := 0x800 + g * 0x400
def slotAt (g : Nat) : Nat := 0x2000 + g * 0x500
def State.genBlock (s : State) (g : Nat) : List Byte := s.otpAt (genAt g) 1024
def genFlags (b : List Byte) : Nat := fieldAt b 5 1
def genMinSvn (b : List Byte) : Nat := fieldAt b 0x10 4

/-- A block's format for an index: magic, index, reserved fields, digest (R458). -/
def genFormOk (g : Nat) (b : List Byte) : Bool :=
  fieldAt b 0 4 == 0x5350544F && fieldAt b 4 1 == g && decide (genFlags b < 16) && zeroAt b 6 2 && zeroAt b 0x18 936 &&
  slice b 0x3C0 64 == shake256 (slice b 0 0x3C0) 64
/-- Its serial binding names this part. -/
def State.genBound (s : State) (b : List Byte) : Bool := !bitOf (genFlags b) 0 || fieldAt b 8 8 == s.serial

def State.genBlank (s : State) (g : Nat) : Bool := zeroAt (s.genBlock g) 0 1024
def State.candidate (s : State) (g : Nat) : Bool := !s.genBlank g && genFormOk g (s.genBlock g) && s.genBound (s.genBlock g)
def State.candidates (s : State) : List Nat := (List.range 6).filter s.candidate
def State.spentGens (s : State) : List Nat := (List.range 6).filter (fun g => !s.genBlank g && !s.candidate g)
def mapOf (l : List Nat) : Nat := l.foldl (fun a g => a + 2 ^ g) 0

/-- The generation that Steading boot confirms: the highest candidate whose signature verifies with a key (R459). -/
def State.confirmed (s : State) (key : List Byte) : Option Nat :=
  s.candidates.reverse.find? (fun g => sigOk key (shake256 (s.genBlock g) 64) (s.otpAt (slotAt g) 1280))

/-- The slot that the next generation is programmed into: the lowest above every one that is not all zero (R462). -/
def State.targetSlot (s : State) : Option Nat :=
  let n := ((List.range 6).filter (fun g => !s.genBlank g)).foldl (fun a g => max a (g + 1)) 0
  if n < 6 then some n else none

/-- The bits of the store that a programming job makes 1 in the 8 bytes at an offset. -/
def State.jobWord (s : State) (o : Nat) : Word :=
  let g := s.getF F.otpProg_slot
  match s.otpJob with
  | none => 0
  | some job =>
    if genAt g ≤ o ∧ o < genAt g + 1024 then BitVec.ofNat 64 (fieldAt job (o - genAt g) 8)
    else if slotAt g ≤ o ∧ o < slotAt g + 1280 then BitVec.ofNat 64 (fieldAt job (1024 + (o - slotAt g)) 8) else 0

/-- The 8 bytes of the one-time-programmable store at an offset, as a read shows them: zero in the identity key region; while a
generation is programmed, any of its bits may have been made 1 by the moment of the read (R452, log entry 5). -/
def State.otpShown (s : State) (o : Nat) : Word :=
  if 0x200 ≤ o ∧ o < 0x280 then 0 else BitVec.ofNat 64 (s.otpNat o 8) ||| (s.freeWord &&& s.jobWord o)

/-! ## What the endpoint presents (R453, R461) -/

/-- The identifiers that the PCI Express endpoint presents; those of the subsystem once a generation is active. -/
structure Endpoint where
  vendor : Nat
  device : Nat
  serial : Nat
  subsystem : Option (Nat × Nat)
  deriving DecidableEq, Repr

/-- As the factory block reads, whether it is valid or not, and as the active generation sets them. -/
def State.endpoint (s : State) : Endpoint :=
  let g := s.getF F.otpStat_active
  { vendor := s.otpNat 0x010 2, device := s.otpNat 0x012 2, serial := s.serial
    subsystem := if g = 7 then none else some (fieldAt (s.genBlock g) 0x14 2, fieldAt (s.genBlock g) 0x16 2) }

/-! ## Factory repair data (Table 15.3) -/

/-- The entries before the end of the list. -/
def State.repairWords (s : State) : List Nat :=
  ((List.range 6144).map (fun i => s.otpNat (0x4000 + 8 * i) 8)).takeWhile (fun w => bitsOf w 10 2 != 0)

/-- An entry's check byte is right. -/
def repairOk (w : Nat) : Bool :=
  bitsOf w 56 8 == 255 - (List.range 7).foldl (fun a i => Nat.xor a (bitsOf w (8 * i) 8)) 0

/-! ## Programming that fails or is cut short (R462, R463) -/

/-- The last word of a block that is not zero. -/
def lastWord (b : List Byte) : Nat := (List.range 128).foldl (fun m k => if zeroAt b (8 * k) 8 then m else k) 0

/-- The words of a job that are programmed when it stops after the word in progress: how many is free, but the slot is left spent, so the
block's last word that is not zero is none of them (log entry 43). -/
def State.cutJob (s : State) (job : List Byte) : List Byte := job.take (8 * (1 + s.freeWord.toNat % max 1 (lastWord (job.take 1024))))

/-- The bits of a job that a programming whose read-back differs has made 1: free among the job's own, but such that the slot is spent (log entry
43). -/
def State.badJob (s : State) (g : Nat) (job : List Byte) : List Byte :=
  let part := job.zipIdx.map (fun e => e.1 &&& Config.freeByte s.fresh e.2)
  if zeroAt (part.take 1024) 0 1024 || genFormOk g (part.take 1024) then s.cutJob job else part

/-- The store with bytes of a job programmed into the block and the signature slot. -/
def State.burnJob (s : State) (bytes : List Byte) : State :=
  let g := s.getF F.otpProg_slot
  { s with otp := burn (burn s.otp (genAt g) (bytes.take 1024)) (slotAt g) (bytes.drop 1024), otpJob := none }

/-- Programming stops after the word in progress (R463). -/
def State.cutOtp (s : State) : State :=
  match s.otpJob with
  | none => s
  | some job =>
    ((((s.burnJob (s.cutJob job)).putF F.otpProg_cmd 0 0).putF F.otpProg_state 0 4).putF F.otpProg_fail 0 8).nextFree

/-- The image area while it is programmed keeps what a free number of 4 KiB units leaves of it (R422, R448, R463). -/
def State.cutImage (s : State) : State :=
  match s.imgJob with
  | none => s
  | some img =>
    let n := 4096 * (s.freeWord.toNat % 4096)
    let s := { s with flash := fwrite (ferase s.flash 0 0x1000000) 0 ((img.take n).take (img.length - 1)), imgJob := none }
    ((s.putF F.stdRcvCtl_cmd 0 0).putF F.stdRcvStat_state 0 5).nextFree

end Sys2Proof.Machine
end

