-- ==== Sys2Proof/Machine/Addr.lean ====
section
/-! DEFINITION. Device addresses: classes, windows, spread regions (R239 to R243, R248 to R250), what an access to an
address meets (R242, R260, R268, R256, R350), and the bytes at device addresses. -/

namespace Sys2Proof.Machine

/-- Populated bytes of a channel window, and a window's size (R239, R241). -/
def chanBytes : Nat := 0x60000000
def chanWindow : Nat := 0x80000000

/-- States of VCC_STAT.state (Table 8.9). -/
def vccUntrained : Nat := 0
def vccInService : Nat := 1
def vccHeld : Nat := 2
def vccNarrowed : Nat := 3
def vccRetired : Nat := 4
def vccInReset : Nat := 5

/-- The state of a channel. -/
def State.chanState (s : State) (c : Nat) : Nat := s.getF F.vccStat_state c

/-- A channel is in service for a load, command or port check when it is not retired (R546). -/
def State.chanServes (s : State) (c : Nat) : Bool := decide (c < 1024) && s.chanState c != vccRetired

/-- The channel and offset of a physical device address. -/
def chanAt (a : Nat) : Nat := a / chanWindow
def offAt (a : Nat) : Nat := a % chanWindow

/-- An address of the physical class, and of the spread class (Table 8.3). -/
def isPhys (a : Nat) : Bool := decide (a < 2 ^ 41)
def isSpread (a : Nat) : Bool := decide (2 ^ 41 ≤ a) && decide (a < 2 ^ 42)

/-- The spread placements of the active programs. -/
def State.spreads (s : State) : List Place :=
  s.activeJobs.flatMap (fun j => (s.prog j).img.places.filter (fun p => p.spread))

/-- The spread region that holds an address. -/
def State.spreadAt (s : State) (a : Nat) : Option Place :=
  s.spreads.find? (fun p => decide (p.addr ≤ a) && decide (a < p.addr + p.len))

/-- The physical address of byte x of a spread region (R250). -/
def Place.physOf (p : Place) (x : Nat) : Nat :=
  let n := p.chans.length
  p.chans.getD (x / 4096 % n) 0 * chanWindow + (p.base + x / (4096 * n) * 4096 + x % 4096)

/-- The physical address of a byte, where the address is valid. -/
def State.physAddr (s : State) (a : Nat) : Option Nat :=
  if isPhys a then some a
  else if isSpread a then (s.spreadAt a).map (fun p => p.physOf (a - p.addr))
  else none

/-- The physical address, 0 standing for an invalid one. -/
def State.phys (s : State) (a : Nat) : Nat := (s.physAddr a).getD 0

/-- The channels that an access of n bytes touches. -/
def State.chansTouched (s : State) (a n : Nat) : List Nat :=
  if isPhys a then [chanAt a]
  else match s.spreadAt a with
    | none => []
    | some p => ((List.range ((a - p.addr + n - 1) / 4096 - (a - p.addr) / 4096 + 1)).map (fun i =>
        p.chans.getD (((a - p.addr) / 4096 + i) % p.chans.length) 0)).eraseDups

/-- Whether an access of n bytes at an address meets an address error (R242): an invalid class, an unpopulated offset,
a retired channel, an address in no spread region of an active program, or a crossing. -/
def State.addrError (s : State) (a n : Nat) : Bool :=
  if isPhys a then
    decide (1024 ≤ chanAt a) || s.chanState (chanAt a) == vccRetired || decide (chanBytes < offAt a + max n 1)
  else if isSpread a then
    match s.spreadAt a with
    | none => true
    | some p => decide (p.addr + p.len < a + n) ||
        (s.chansTouched a (max n 1)).any (fun c => s.chanState c == vccRetired)
  else true

/-- Whether a channel answers with an error response: its controller is in reset (R268), its stack is stopped (R256),
its tower is isolated (R348, R350), its hold has failed (R260), or the part has made an orderly stop (R491). -/
def State.chanErrs (s : State) (c : Nat) : Bool :=
  s.chanState c == vccInReset || (s.stackSt (stackOf c)).stopped || (s.chan c).isolated ||
  (s.chan c).retirePending == some 2 || s.getF F.pwrStat_state == 2

/-- The die-to-die links that a transfer between two towers crosses. -/
def routeLinks (a b : Nat) : List Nat :=
  if a = b then [] else
    let lo := min a b
    let hi := max a b
    if lo = 0 ∧ hi = 1 then [4] else if lo = 2 ∧ hi = 3 then [5] else if lo = 0 ∧ hi = 2 then [6]
    else if lo = 1 ∧ hi = 3 then [7] else [lo, hi]

/-- The links that a request crosses from a tower, or from the hub die where none is given. -/
def State.linksTo (s : State) (tower : Option Nat) (a n : Nat) : List Nat :=
  ((s.chansTouched a (max n 1)).flatMap (fun c => match tower with
    | none => [cellTower c]
    | some t => routeLinks t (cellTower c))).eraseDups

/-- The crossed links whose isolation wrapper answers (R350). A link in stand-alone test or loop-back serves as one that is up:
the spec does not say what a transfer across it meets (R21; DESIGN CHOICE, log entry 53). -/
def State.wrapped (s : State) (tower : Option Nat) (a n : Nat) : List Nat :=
  (s.linksTo tower a n).filter (fun l => s.onF F.d2dStat_wrapper l)

/-- Whether an access of n bytes from the hub die, or from a cell, meets an error response. -/
def State.errResponse (s : State) (a n : Nat) : Bool :=
  (s.chansTouched a (max n 1)).any s.chanErrs || !(s.wrapped none a n).isEmpty
def State.cellErrResponse (s : State) (c a n : Nat) : Bool :=
  (s.chansTouched a (max n 1)).any s.chanErrs || !(s.wrapped (some (cellTower c)) a n).isEmpty

/-- Counts an address error at the channel that it concerns. An address of the invalid class, and one of a spread region that is none or
leaves its region, names no channel, and the spec no controller that counts it: it counts nowhere (R242; DESIGN CHOICE, log entry 54). -/
def State.countAddr (s : State) (a n : Nat) : State :=
  if isPhys a then (if chanAt a < 1024 then s.bump F.vccErr_addr (chanAt a) else s)
  else match (s.chansTouched a (max n 1)).find? (fun c => s.chanState c == vccRetired) with
    | some c => s.bump F.vccErr_addr c
    | none => s

/-- Counts the responses that wrappers give. -/
def State.countWrapped (s : State) (tower : Option Nat) (a n : Nat) : State :=
  (s.wrapped tower a n).foldl (fun s l => s.bump F.d2dErr_wrapper l) s

/-- The words, as physical byte address ÷ 8, that an access of n bytes touches. -/
def State.wordsTouched (s : State) (a n : Nat) : List Nat :=
  ((List.range n).map (fun i => s.phys (a + i) / 8)).eraseDups

/-- A read of a lost word never reaches the loft (R307). -/
def State.isLost (s : State) (w : Nat) : Bool := (s.chan (chanAt (8 * w))).lostWords.contains w

/-- What is stored in error at a word: 0 nothing, 1 one bit, 2 beyond correction or lost. -/
def State.wordErr (s : State) (w : Nat) : Nat := if s.isLost w then 2 else
  let v := tget 0 s.loftErr w
  if 3 ≤ v then 1 else v

/-- The bit in error of a correctable stored word, of the 72. -/
def State.errBit (s : State) (w : Nat) : Nat := tget 0 s.loftErr w - 3

/-- The words of an access that cannot be corrected, and those that can. -/
def State.badWords (s : State) (a n : Nat) : List Nat := (s.wordsTouched a n).filter (fun w => s.wordErr w == 2)
def State.softWords (s : State) (a n : Nat) : List Nat := (s.wordsTouched a n).filter (fun w => s.wordErr w == 1)

/-- The words that an access of n bytes covers only in part: fewer than their eight bytes (R297). -/
def State.partWords (s : State) (a n : Nat) : List Nat :=
  let ws := (List.range n).map (fun i => s.phys (a + i) / 8)
  ws.eraseDups.filter (fun w => decide (ws.count w < 8))

/-- n bytes at a device address, in ascending address. -/
def State.readDev (s : State) (a n : Nat) : List Byte :=
  if isPhys a then mread s.devMem a n else (List.range n).map (fun i => mget s.devMem (s.phys (a + i)))

/-- Writes bytes at physical addresses. -/
def mwriteAt (m : Memory) (f : Nat → Nat) : Nat → List Byte → Memory
  | _, [] => m
  | i, b :: r => mwriteAt (mput m (f i) b) f (i + 1) r

/-- Writes bytes at a device address: whole words lose their stored errors and their lost-word entries, for fresh check
bits are encoded (R297, R307). -/
def State.writeDev (s : State) (a : Nat) (bs : List Byte) : State :=
  let parts := s.partWords a bs.length
  let whole := (s.wordsTouched a bs.length).filter (fun w => !parts.contains w)
  let part := parts.filter (fun w => s.wordErr w == 1)
  let mem := if isPhys a then mblock s.devMem a bs else mwriteAt s.devMem (fun i => s.phys (a + i)) 0 bs
  let s := { s with devMem := mem }
  let s := { s with loftErr := (whole ++ part).foldl (fun t w => tput 0 t w 0) s.loftErr }
  (whole.filter s.isLost).foldl (fun s w =>
    s.modChan (chanAt (8 * w)) (fun c => { c with lostWords := c.lostWords.filter (fun x => x != w) })) s

/-- Loft, bank within the loft, row and word of a physical word address (Table 8.2). -/
def loftOf (w : Nat) : Nat := bitsOf (offAt (8 * w)) 27 4
def bankOf (w : Nat) : Nat := bitsOf (offAt (8 * w)) 11 4
def rowOf (w : Nat) : Nat := bitsOf (offAt (8 * w)) 15 12
def wordInRow (w : Nat) : Nat := bitsOf (offAt (8 * w)) 3 8
/-- The bank in the channel (Table 0.7). -/
def bankInChan (w : Nat) : Nat := loftOf w * 16 + bankOf w
/-- The first byte, as physical address, of a row of a channel by bank in the channel. -/
def rowAddr (c bank row : Nat) : Nat :=
  c * chanWindow + (bank / 16 * 2 ^ 27 + row * 2 ^ 15 + bank % 16 * 2 ^ 11)

/-! ## Bank queues (R287) -/

/-- What an access of n bytes covers of each channel: the channel, the first offset and the last. -/
def State.localRanges (s : State) (a n : Nat) : List (Nat × Nat × Nat) :=
  if isPhys a then [(chanAt a, offAt a, offAt a + max n 1 - 1)]
  else match s.spreadAt a with
    | none => []
    | some p =>
      let k := p.chans.length
      let s0 := (a - p.addr) / 4096
      let s1 := (a - p.addr + max n 1 - 1) / 4096
      ((List.range k).zip p.chans).filterMap (fun e =>
        let lo := (s0 + k - 1 - e.1) / k
        let hi := (s1 - e.1) / k
        if e.1 ≤ s1 ∧ lo ≤ hi then some (e.2, p.base + 4096 * lo, p.base + 4096 * hi + 4095) else none)

/-- Whether the offsets lo to hi of a channel have a byte in a bank of the channel (Table 8.2). -/
def rangeInBank (lo hi b : Nat) : Bool :=
  let first := max (lo / 2048) (b / 16 * 65536)
  let last := min (hi / 2048) (b / 16 * 65536 + 65535)
  decide (first + (b % 16 + 16 - first % 16) % 16 ≤ last)

/-- A flail command that keeps what comes after it from its banks: it opens rows there, and it runs or no hot hold keeps it
back (R286, R287). -/
def State.flailBlocks (s : State) (c : Nat) (f : FlailCmd) : Bool :=
  f.op != 1 && f.op != 6 && (f.running || !(s.stackSt (stackOf c)).hotHold)

/-- A flail works on a bank, or has a command ahead in its queue that no hot hold keeps back (R286, R287). -/
def State.flailAhead (s : State) (c b : Nat) : Bool :=
  (s.chan c).flails.any (fun f => f.banks.contains b && s.flailBlocks c f)

/-- The channels at which an access of n bytes must wait for a flail command that came before number no. -/
def State.flailChans (s : State) (a n no : Nat) : List Nat :=
  ((s.localRanges a n).filter (fun r => (s.chan r.1).flails.any (fun f =>
    decide (f.no < no) && s.flailBlocks r.1 f && f.banks.any (rangeInBank r.2.1 r.2.2)))).map (fun r => r.1)

/-- An access of n bytes must wait for a flail command that came before number no. -/
def State.flailInWay (s : State) (a n no : Nat) : Bool := !(s.flailChans a n no).isEmpty

/-- An access of n bytes touches a row whose copy to its spare row is still to be made (R306). -/
def State.copyInWay (s : State) (a n : Nat) : Bool :=
  (s.localRanges a n).any (fun r => (s.chan r.1).copyRows.any (fun x =>
    let o := offAt (rowAddr r.1 x.1 x.2.1)
    decide (r.2.1 < o + 2048) && decide (o ≤ r.2.2)))

/-- An access of n bytes touches a held channel (R260). -/
def State.heldInWay (s : State) (a n : Nat) : Bool := (s.chansTouched a (max n 1)).any (fun c => s.chanState c == vccHeld)

/-! ## Accesses that wait (R77, R287, R293) -/

/-- The bytes that an access covers. -/
def WaitAcc.bytes (a : WaitAcc) : Nat :=
  match a.write with
  | some bs => bs.length
  | none => a.len

/-- Adds what has been waited to a channel's entry of a list. -/
def addWait (t : List (Nat × Nat)) (f : Nat × Nat) : List (Nat × Nat) :=
  if t.any (fun e => e.1 == f.1) then t.map (fun e => if e.1 == f.1 then (e.1, e.2 + f.2) else e) else t ++ [f]

/-- What keeps an access from now on, a held channel and the flails of these channels, and how long what no longer does has kept it. -/
def State.keptAs (s : State) (a : WaitAcc) (held : Bool) (flails : List Nat) : WaitAcc :=
  let gone := a.flails.filter (fun f => !flails.contains f.1)
  { a with
    held := if held then some (a.held.getD s.now) else none
    heldNs := if held then a.heldNs else a.heldNs + ((a.held.map (fun t => s.now - t)).getD 0)
    flails := a.flails.filter (fun f => flails.contains f.1) ++
      (flails.filter (fun c => !a.flails.any (fun f => f.1 == c))).map (fun c => (c, s.now))
    flailNs := gone.foldl (fun t f => addWait t (f.1, s.now - f.2)) a.flailNs }

/-- What keeps an access is remembered. -/
def State.keptBy (s : State) (a : WaitAcc) : WaitAcc :=
  s.keptAs a (s.heldInWay a.addr a.bytes) (s.flailChans a.addr a.bytes a.no)


/-! ## Banks and their refreshes (R252, R288) -/

/-- The banks that an access touches, as (channel, bank in the channel). -/
def State.banksTouched (s : State) (addr n : Nat) : List (Nat × Nat) :=
  ((s.wordsTouched addr n).map (fun w => (chanAt (8 * w), bankInChan w))).eraseDups

/-- Sets what a bank owes and shows the most owed by one bank. -/
def State.setOwed (s : State) (c b n : Nat) : State :=
  let s := s.modChan c (fun x => { x with owed := tput 0 x.owed b n })
  s.putF F.vccStat_owed c ((s.chan c).owed.foldl (fun m e => max m e.2) 0)

/-- A bank that owes 8 refreshes is refreshed before an access to it, until it owes 7. -/
def State.forceRefresh (s : State) (c b : Nat) : State :=
  let n := tget 0 (s.chan c).owed b
  if n < 8 then s else (s.setOwed c b 7).bump F.vccErr_forced c (n - 7)

/-- The forced refreshes of every bank that an access of n bytes touches. -/
def State.forceRefreshes (s : State) (a n : Nat) : State :=
  if s.chans.any (fun e => e.2.owed.any (fun o => decide (8 ≤ o.2))) then
    (s.banksTouched a n).foldl (fun s b => s.forceRefresh b.1 b.2) s
  else s

/-- The lofts of a placement's byte range on channels. -/
def Place.physRanges (p : Place) : List (Nat × Nat) :=
  if p.spread then
    let n := p.chans.length
    p.chans.map (fun c => (c * chanWindow + p.base, ceilDiv p.len (4096 * n) * 4096))
  else [(p.addr, p.len)]

/-- The channels that hold a byte of a list of ranges. -/
def rangeChans (rs : List (Nat × Nat)) : List Nat := (rs.map (fun r => chanAt r.1)).eraseDups

end Sys2Proof.Machine
end

