-- ==== Sys2Proof/Machine/Queue.lean ====
section
/-! DEFINITION. Queue pairs, doorbells and completion entries (R365 to R371, R376, R378 to R381) and the parts of a
stream's life that end in a completion entry. -/

namespace Sys2Proof.Machine

/-! ## Completion entries -/

/-- The contents of a completion entry (Table 12.10), its phase bit apart. -/
structure Cqe where
  kind : Nat := 1
  status : Nat := 0
  cid : Nat := 0
  stream : Nat := 0
  epoch : Nat := 0
  stop : Bool := false
  limit : Bool := false
  sqHead : Nat := 0
  count : Nat := 0
  job : Nat := 0
  length : Nat := 0
  jobEpoch : Nat := 0
  detail : Nat := 0
  tokens : List (BitVec 32) := []
  deriving DecidableEq, Repr

/-- The 64 bytes of a completion entry written in a tick with a phase. -/
def Cqe.bytes (e : Cqe) (tick phase : Nat) : List Byte :=
  leBytes 1 e.kind ++ leBytes 1 e.status ++ leBytes 2 e.cid ++ leBytes 2 e.stream ++ leBytes 1 e.epoch ++
  leBytes 1 (phase + 2 * bit e.stop + 4 * bit e.limit) ++ leBytes 4 tick ++ leBytes 2 e.sqHead ++
  leBytes 1 e.count ++ leBytes 1 e.job ++ leBytes 4 e.length ++ leBytes 1 e.jobEpoch ++ [0] ++ leBytes 6 e.detail ++
  (List.range 9).flatMap (fun i => leBytes 4 (e.tokens.getD i 0).toNat)

/-- Entries of a completion queue, and of a submission queue. -/
def State.cqSize (s : State) (q : Nat) : Nat := 2 ^ s.getF F.hstQcfg_cq_log q
def State.sqSize (s : State) (q : Nat) : Nat := 2 ^ s.getF F.hstQcfg_sq_log q

/-- Whether a pair is enabled, and whether it is in error (R369). -/
def State.pairOn (s : State) (q : Nat) : Bool := s.onF F.hstQcfg_enable q
def State.pairErr (s : State) (q : Nat) : Bool := s.getF F.hstQstat_error q != 0

/-- The function that owns a pair (R365). -/
def State.owner (s : State) (q : Nat) : Nat := s.getF F.hstQown_function q

/-- Completion entries written and not yet returned by the host. -/
def State.cqUsed (s : State) (q : Nat) : Nat :=
  (s.getF F.hstQstat_cq_tail q + s.cqSize q - tget 0 s.cqHeads q) % s.cqSize q

/-- Room for n more reserved entries: a full queue has one entry unused (R368). -/
def State.cqRoom (s : State) (q n : Nat) : Bool :=
  decide (s.cqUsed q + s.getF F.hstQstat_reserved_cq q + n + 1 ≤ s.cqSize q)

/-- Reserves n completion entries, or gives n back. -/
def State.reserve (s : State) (q n : Nat) : State :=
  s.putF F.hstQstat_reserved_cq q (s.getF F.hstQstat_reserved_cq q + n)
def State.unreserve (s : State) (q n : Nat) : State :=
  s.putF F.hstQstat_reserved_cq q (s.getF F.hstQstat_reserved_cq q - n)

/-- Whether an entry finds room now: never into a full queue (R368). -/
def State.cqFree (s : State) (q : Nat) : Bool := s.cqUsed q + 1 != s.cqSize q

/-- Puts an entry of phase 0 at the tail of a completion queue with the queue's phase, which turns when the tail wraps to
entry 0 (R367); it uses one reserved entry. -/
def State.putCq (s : State) (q : Nat) (b : List Byte) : State :=
  let s := s.unreserve q 1
  let t := s.getF F.hstQstat_cq_tail q
  let ph := s.getF F.hstQstat_phase q
  let b := b.take 7 ++ ((b.drop 7).take 1).map (fun x => x ||| BitVec.ofNat 8 ph) ++ b.drop 8
  let s := { s with
    hostMem := mwrite s.hostMem (s.getF F.hstCqBase_addr q + 64 * t) b
    wroteCq := if s.wroteCq.contains q then s.wroteCq else s.wroteCq ++ [q] }
  let t' := (t + 1) % s.cqSize q
  let s := s.putF F.hstQstat_cq_tail q t'
  if t' == 0 then s.putF F.hstQstat_phase q (1 - ph) else s

/-- Entries that wait for a pair are written in order once it is enabled, out of error, and has room (R369). -/
def State.putHeld (s : State) (q : Nat) : State :=
  s.heldCq.foldl (fun s e =>
    if e.1 == q && s.pairOn q && !s.pairErr q && s.cqFree q then s.putCq q e.2 else { s with heldCq := s.heldCq ++ [e] })
    { s with heldCq := [] }

/-- Writes an entry into a completion queue. It waits while the pair is in error (R369) or older entries wait; an entry of a
disabled pair is lost. -/
def State.writeCq (s : State) (q : Nat) (e : Cqe) : State :=
  let b := e.bytes (s.getF F.tikCount_count % 2 ^ 32) 0
  if s.pairErr q && s.getF F.hstQstat_error q != 1 || s.heldCq.any (fun h => h.1 == q) || (s.pairOn q && !s.cqFree q) then
    { s with heldCq := s.heldCq ++ [(q, b)] }
  else if s.pairOn q then s.putCq q b
  else s.unreserve q 1

/-- Signals a completion queue's vector (R381): the entries written to it so far need no further signal. -/
def State.signalCq (s : State) (q : Nat) : State :=
  { s with wroteCq := s.wroteCq.filter (fun x => x != q) }.signal (s.owner q) (s.getF F.hstQcfg_vector q)

/-- Signals the vector of every queue that entries were written to since the last window (R381). -/
def State.signalWritten (s : State) : State :=
  s.wroteCq.foldl (fun s q => s.signalCq q) { s with wroteCq := [] }

/-- Completes a command (kind 0x1). -/
def State.complete (s : State) (c : CmdId) (status : Nat) (e : Cqe := {}) : State :=
  s.writeCq c.q { e with kind := 1, status := status, cid := c.cid, sqHead := c.sqHead }

/-! ## Taking a submission entry -/

/-- Whether the part can take a load program command from a pair now: enabled, not in error, an entry shown by the tail, room for
one more completion (R368), fewer than 64 taken in the tick (R370); and the part is ready (R431, R443), its control
plane is not in reset (R408) and it is in no Keep entry (R496). -/
def State.takesLoad (s : State) (q : Nat) : Bool :=
  s.pairOn q && !s.pairErr q && s.getF F.hstQstat_sq_head q != tget 0 s.sqTails q && s.cqRoom q 1 &&
  decide (tget 0 s.tick.acceptedCmds q < 64) && s.ready && !s.start.warmReset && s.getF F.pwrStat_state != 3

/-- Whether it can take another command: each needs a tick, so there is none in an orderly stop (R491). -/
def State.takes (s : State) (q : Nat) : Bool := s.takesLoad q && s.getF F.pwrStat_state == 0

/-- Takes the entry at the submission head: the head moves on, one completion entry is reserved, the command counts. -/
def State.take (s : State) (q : Nat) : State :=
  let s := s.putF F.hstQstat_sq_head q ((s.getF F.hstQstat_sq_head q + 1) % s.sqSize q)
  let s := (s.reserve q 1).bump F.hstQcnt_commands q
  { s with tick := { s.tick with acceptedCmds := tmod 0 s.tick.acceptedCmds q (fun n => n + 1) } }

/-- The identity of the command just taken. -/
def State.cmdId (s : State) (q : Nat) (e : SubEntry) : CmdId :=
  { q := q, cid := e.cid.toNat, sqHead := s.getF F.hstQstat_sq_head q }

/-- A command row on a submission queue: nothing happens while the part does not take a command (it stays in the
queue, R368); otherwise the entry is taken and acted on. -/
def onTake (q : BitVec 6) (e : SubEntry) (f : CmdId → State → State) (s : State) : State :=
  if s.takes q.toNat then
    let s := s.take q.toNat
    f (s.cmdId q.toNat e) s
  else s

/-- Puts an accepted command behind those already waiting for the edge. -/
def State.wait (s : State) (w : Waiting) : State :=
  { s with ctl := { s.ctl with waiting := s.ctl.waiting ++ [w] } }

/-! ## Doorbells (R369, R380) -/

/-- Sets a pair's error code. -/
def State.pairFail (s : State) (q code : Nat) : State := s.putF F.hstQstat_error q code

/-- Whether a page may ring a pair's doorbells: the pair is enabled and owned by the page's function. -/
def State.rings (s : State) (page q : Nat) : Bool := s.pairOn q && s.owner q == page && !s.start.warmReset

/-- The write at q × 16. -/
def opSqDoorbell (page q : BitVec 6) (value : Word) (s : State) : State :=
  let q := q.toNat
  let v := value.toNat % 65536
  if !s.rings page.toNat q then s.bump F.hstErr_doorbell 0
  else if s.sqSize q ≤ v then s.pairFail q 2
  else { s with sqTails := tput 0 s.sqTails q v }

/-- The write at q × 16 + 8: the head may move up to the tail and not past it. -/
def opCqDoorbell (page q : BitVec 6) (value : Word) (s : State) : State :=
  let q := q.toNat
  let v := value.toNat % 65536
  let n := s.cqSize q
  let head := tget 0 s.cqHeads q
  if !s.rings page.toNat q then s.bump F.hstErr_doorbell 0
  else if n ≤ v || s.cqUsed q < (v + n - head) % n then s.pairFail q 2
  else { s with cqHeads := tput 0 s.cqHeads q v }.putHeld q

/-- The event queue's head doorbell at page 0 offset 0x0_0400. -/
def opEvqDoorbell (value : Word) (s : State) : State :=
  let v := value.toNat
  let n := 2 ^ s.getF F.hstEvqCfg_log
  let head := s.getF F.hstEvqStat_head
  let used := (s.getF F.hstEvqStat_tail + n - head) % n
  if !s.onF F.hstEvqCfg_enable || n ≤ v || used < (v + n - head) % n then s.bump F.hstErr_doorbell 0
  else s.putF F.hstEvqStat_head 0 v

/-! ## Enabling and owning (R365, R366, R380) -/

/-- The streams that Keep has restored wait no longer for their pair (R442). -/
def State.endPairWait (s : State) (q : Nat) : State :=
  ((s.ctl.streams.filter (fun e => e.2.waitsPair && e.2.cq == q)).map (fun e => e.1)).foldl (fun s i =>
    s.modStream i (fun t => { t with waitsPair := t.waitsPair && t.cq != q })) s

/-- A write of HST_QCFG: on a disabled pair it sets the size fields and the vector, and enables the pair when the
checks of R366 pass; on an enabled pair the size fields are kept. -/
def opQcfg (q : Nat) (value : Word) (s : State) : State :=
  let v := value.toNat
  if s.pairOn q then
    let s := s.putF F.hstQcfg_vector q (bitsOf v 11 5)
    if bitOf v 0 then s else (s.putF F.hstQcfg_enable q 0)
  else
    let s := ((s.putF F.hstQcfg_sq_log q (bitsOf v 1 5)).putF F.hstQcfg_cq_log q (bitsOf v 6 5)).putF
      F.hstQcfg_vector q (bitsOf v 11 5)
    if !bitOf v 0 then s
    else if bitsOf v 1 5 == 0 || 16 < bitsOf v 1 5 || bitsOf v 6 5 == 0 || 16 < bitsOf v 6 5 ||
        s.getF F.hstSqBase_addr q % 4096 != 0 || s.getF F.hstCqBase_addr q % 4096 != 0 then s.pairFail q 1
    else
      let s := { s with sqTails := tput 0 s.sqTails q 0, cqHeads := tput 0 s.cqHeads q 0 }
      ((((((s.putF F.hstQstat_sq_head q 0).putF F.hstQstat_cq_tail q 0).putF F.hstQstat_phase q 1).pairFail q 0).putF
        F.hstQcfg_enable q 1).putHeld q).endPairWait q

/-- A write of HST_SQ_BASE or HST_CQ_BASE, ignored while the pair is enabled; bits [11:0] are held as written, and
enabling judges them (R366). -/
def opQbase (f : Fld) (q : Nat) (value : Word) (s : State) : State :=
  if s.pairOn q then s else s.putF f q value.toNat

/-- A write of HST_QOWN, ignored for an enabled pair. -/
def opQown (q : Nat) (value : Word) (s : State) : State :=
  if s.pairOn q then s else s.putF F.hstQown_function q (value.toNat % 64)

/-- A write of HST_EVQ_CFG: an enable with log outside 4 to 16 stays disabled; enabling starts the ring at 0. -/
def opEvqCfg (value : Word) (s : State) : State :=
  let v := value.toNat
  let log := bitsOf v 1 5
  let was := s.onF F.hstEvqCfg_enable
  let s := s.putF F.hstEvqCfg_log 0 log
  if bitOf v 0 && decide (4 ≤ log) && decide (log ≤ 16) then
    let s := s.putF F.hstEvqCfg_enable 0 1
    if was then s else (s.putF F.hstEvqStat_tail 0 0).putF F.hstEvqStat_head 0 0
  else s.putF F.hstEvqCfg_enable 0 0

/-- The pair that a queue command names may be written in this mode: not in minimal mode (R431), and through a virtual
function's page only when that function owns it (R362). -/
def State.queueBlockOpen (s : State) (page : Option (BitVec 6)) (q : Nat) : Bool :=
  !s.perstOn && !s.start.loading && !s.onF F.stdBoot_minimal &&
  (match page with
   | none => true
   | some p => p == 0 || s.owner q == p.toNat)

/-- Doorbells act: the host interface is up and not in minimal mode (R408, R431). -/
def State.doorbellsOpen (s : State) : Bool := !s.perstOn && !s.start.loading && !s.onF F.stdBoot_minimal

/-! ## The doorbell and enable rows -/

/-- SUBMISSION_TAIL_DOORBELL (R369); ignored in minimal mode (R431). -/
def execSubmissionTailDoorbell (page q : BitVec 6) (value : Word) (s : State) : Host.Outcome State Fault Refusal :=
  run (fun s => if s.doorbellsOpen then opSqDoorbell page q value s else s) s

/-- COMPLETION_HEAD_DOORBELL (R369); ignored in minimal mode (R431). -/
def execCompletionHeadDoorbell (page q : BitVec 6) (value : Word) (s : State) : Host.Outcome State Fault Refusal :=
  run (fun s => if s.doorbellsOpen then opCqDoorbell page q value s else s) s

/-- EVENT_QUEUE_HEAD_DOORBELL (R380); ignored in minimal mode (R431). -/
def execEventQueueHeadDoorbell (value : Word) (s : State) : Host.Outcome State Fault Refusal :=
  run (fun s => if s.doorbellsOpen then opEvqDoorbell value s else s) s

/-- QUEUE_PAIR_ENABLE: a write of HST_QCFG, through BAR0 or a function page (R362, R366, R390). -/
def execQueuePairEnable (page : Option (BitVec 6)) (q : BitVec 6) (value : Word) (s : State) :
    Host.Outcome State Fault Refusal :=
  run (fun s => if s.queueBlockOpen page q.toNat then opQcfg q.toNat value s else s) s

/-- QUEUE_OWNER_WRITE: a write of HST_QOWN for the pair the requester has selected (R365). -/
def execQueueOwnerWrite (by_ : Requester) (value : Word) (s : State) : Host.Outcome State Fault Refusal :=
  run (fun s => if s.writes by_ R.hstQown.off then opQown (s.sel by_ F.hstQsel_queue) value s else s) s

/-- EVENT_QUEUE_ENABLE: a write of HST_EVQ_CFG (R380, R390), reachable in minimal mode (R431). -/
def execEventQueueEnable (value : Word) (s : State) : Host.Outcome State Fault Refusal :=
  run (fun s => if s.writes .host R.hstEvqCfg.off then opEvqCfg value s else s) s

/-! ## Streams' ends -/

/-- The completion entry fields that name a stream. -/
def State.streamCqe (s : State) (i : Nat) : Cqe :=
  let t := s.stream i
  { stream := i, epoch := t.epoch, job := t.job, jobEpoch := t.jobEpoch, length := t.length }

/-- Writes an entry of a stream, or gives its reservation back where a function-level reset has silenced the stream (R360). -/
def State.streamEntry (s : State) (i : Nat) (e : Cqe) : State :=
  let t := s.stream i
  if t.silent then s.unreserve t.cq 1 else s.writeCq t.cq e

/-- Completes a feed of a stream with a status and the number of its tokens consumed (R376), or gives its entry back (R360). -/
def State.endFeed (s : State) (i : Nat) (f : Feed) (status : Nat) : State :=
  if (s.stream i).silent then s.unreserve f.cmd.q 1
  else s.complete f.cmd status { s.streamCqe i with detail := f.consumed }

/-- Completes every feed still queued for a stream with status 0x09; a partly consumed feed reports what it gave
(R376, R377). -/
def State.dropFeeds (s : State) (i : Nat) : State :=
  let s' := (s.stream i).feeds.foldl (fun s f => s.endFeed i f 9) s
  s'.modStream i (fun t => { t with feeds := [] })

/-- Gives back the reservation of a token entry that the tick does not write (R368). -/
def State.dropTokenReservation (s : State) (i : Nat) : State :=
  let t := s.stream i
  if t.tokReserved then (s.unreserve t.cq 1).modStream i (fun t => { t with tokReserved := false }) else s

/-- A stream's stream-end entry is written with a status; it runs no further tick and keeps its identifier. Its queued
feeds stay to be completed. -/
def State.endStream (s : State) (i status : Nat) : State :=
  let t := s.stream i
  if !t.isOpen || t.ended then s
  else
    let s := s.dropTokenReservation i
    let s := if t.endReserved then
      s.streamEntry i { s.streamCqe i with kind := 3, status := status, sqHead := s.getF F.hstQstat_sq_head t.cq } else s
    s.modStream i (fun t => { t with failed := true, ended := true, endReserved := false, rows := [], emit := [] })

/-- A stream fails: its stream-end entry, then its feeds (R89, R370, R376, R379). `signalNow` for a failure outside a tick
(R370 item 5, R381). -/
def State.failStream (s : State) (i status : Nat) (signalNow : Bool := false) : State :=
  let t := s.stream i
  if !t.isOpen || t.ended then s
  else
    let s := (s.endStream i status).dropFeeds i
    if signalNow then s.signalCq t.cq else s

/-- The open streams of a program. -/
def State.streamsOf (s : State) (j : Nat) : List Nat :=
  s.openStreams.filter (fun i => (s.stream i).job == j)

/-- Every stream of a program that was active in the tick: it was given rows and has not failed (R89). -/
def State.activeStreams (s : State) (j : Nat) : List Nat :=
  (s.streamsOf j).filter (fun i => !(s.stream i).rows.isEmpty && !(s.stream i).failed)

end Sys2Proof.Machine
end

