-- ==== Sys2Proof/Machine/Integrity.lean ====
section
/-! DEFINITION. Error handling shared by every reader: the sheafs over a cell, error summaries, leaky buckets (R298 to
R301), the scrub queue (R296), error records (R303, R305), and the invalidation of a tick (R87 to R89). -/

namespace Sys2Proof.Machine

/-! ## Sheafs -/

/-- The sheaf identifiers in use. -/
def State.sheafIds (s : State) : List Nat := (s.ctl.sheafs.filter (fun e => e.2.inUse)).map (fun e => e.1)

/-- The leaf sheaf (member type 0) that holds a cell. -/
def State.leafOf (s : State) (c : Nat) : Option Nat :=
  s.sheafIds.find? (fun i => (s.sheaf i).desc.mtype == 0 && (s.sheaf i).desc.members.contains c)

/-- A sheaf and its ancestors, up to n levels. -/
def State.upFrom (s : State) : Nat → Nat → List Nat
  | 0, _ => []
  | n + 1, i => if i = 0 then [] else i :: (let p := (s.sheaf i).desc.parent; if p = 0xFFFF then [] else s.upFrom n p)

/-- Every sheaf that holds a cell: its leaf, the ancestors of the leaf, and sheaf 0, which is the part. -/
def State.sheafsOver (s : State) (c : Nat) : List Nat :=
  (match s.leafOf c with
   | none => []
   | some i => s.upFrom 4096 i) ++ [0]

/-- The sheafs of a program, with sheaf 0. -/
def State.sheafsOfJob (s : State) (j : Nat) : List Nat :=
  0 :: (s.sheafIds.filter (fun i => (s.sheaf i).job == j && i != 0))

/-- A sheaf and every sheaf below it, up to n levels. -/
def State.downFrom (s : State) : Nat → Nat → List Nat
  | 0, _ => []
  | n + 1, i => i :: (if (s.sheaf i).desc.mtype = 1 then (s.sheaf i).desc.members.flatMap (fun m => s.downFrom n m) else [])

/-- The cells of this part that a sheaf holds, through its member sheafs; sheaf 0 holds every cell (R58, R415). -/
def State.cellsOfSheaf (s : State) (i : Nat) : List Nat :=
  if i = 0 then allCells
  else ((s.downFrom (s.ctl.sheafs.length + 1) i).flatMap (fun k => if (s.sheaf k).desc.mtype = 0 then (s.sheaf k).desc.members else [])).eraseDups

/-- Sets bit b of SHF_ERRSUM.sources in sheafs (Table 2.9). -/
def State.errsum (s : State) (sheafs : List Nat) (b : Nat) : State :=
  sheafs.foldl (fun s i => s.putF F.shfErrsum_sources i (Nat.lor (s.getF F.shfErrsum_sources i) (2 ^ b))) s

/-- Sets SHF_STATUS.state of a sheaf in use to at least a value: 2 degraded, 3 failed (Table 2.9). -/
def State.worsen (s : State) (i v : Nat) : State := s.putF F.shfStatus_state i (max v (s.getF F.shfStatus_state i))

/-- Sets SHF_CAP.degraded in sheafs (Table 2.10). -/
def State.degrade (s : State) (sheafs : List Nat) : State :=
  sheafs.foldl (fun s i => s.putF F.shfCap_degraded i 1) s

/-! ## Invalidating a tick -/

/-- The outputs of a program's tick have become valid: the window is open, and they do not wait for the reports of other parts
(R79, R87). -/
def State.outputsValid (s : State) (j : Nat) : Bool := s.tick.windowOpen && !s.tick.heldJobs.contains j

/-- Invalidates the current tick for a program, unless its outputs are already valid (R79, R87, R416). -/
def State.invalidate (s : State) (j : Nat) : State :=
  if s.outputsValid j || (s.prog j).state != .active then s else s.modProg j (fun p => { p with invalid := true })

/-- Invalidates the current tick for the program whose stage a cell runs. -/
def State.invalidateCell (s : State) (c : Nat) : State :=
  match s.stageOf c with
  | none => s
  | some (j, _) => s.invalidate j

/-- The job whose stage a cell runs. -/
def State.jobOfCell (s : State) (c : Nat) : Option Nat := (s.stageOf c).map (fun e => e.1)

/-! ## Leaky buckets -/

/-- The buckets of R298. -/
inductive BucketId where
  | chan (c : Nat)
  | cell (c : Nat)
  | hub (h : Nat)
  deriving DecidableEq, Repr

/-- A bucket's registers: level, overflows, corrected; its copy; its number among the full buckets. -/
def BucketId.level : BucketId → Fld
  | .chan _ => F.vccBkt_level
  | .cell _ => F.celBkt_level
  | .hub _ => F.stdBkt_level
def BucketId.overflows : BucketId → Fld
  | .chan _ => F.vccBkt_overflows
  | .cell _ => F.celBkt_overflows
  | .hub _ => F.stdBkt_overflows
def BucketId.corrected : BucketId → Fld
  | .chan _ => F.vccBkt_corrected
  | .cell _ => F.celBkt_corrected
  | .hub _ => F.stdBkt_corrected
def BucketId.index : BucketId → Nat
  | .chan c => c
  | .cell c => c
  | .hub h => h
def BucketId.no : BucketId → Nat
  | .chan c => c
  | .cell c => 1024 + c
  | .hub h => 2048 + h
/-- The source class of a bucket's event (Table 16.6). -/
def BucketId.srcClass : BucketId → Nat
  | .chan _ => 2
  | .cell _ => 1
  | .hub _ => 8

/-- Every bucket. -/
def allBuckets : List BucketId :=
  allCells.map BucketId.chan ++ allCells.map BucketId.cell ++ (List.range 12).map BucketId.hub

/-- The bucket threshold in force. -/
def State.thresh (s : State) : Nat := s.getF F.stdEccCfg_thresh

/-- Requests an urgent retrain of a channel (R258). -/
def State.urgentRetrain (s : State) (c : Nat) : State :=
  let s := s.modChan c (fun x => { x with want := true, wantUrgent := true })
  (s.putF F.vccTrain_pending c 1).putF F.vccTrain_urgent c 1

/-- A channel's bucket has reached half its threshold (R258, R300): an urgent retrain is requested, once until the level has
leaked down to half of that again (DESIGN CHOICE, log entry 53). -/
def State.halfReached (s : State) (c lv : Nat) : State :=
  if s.thresh ≤ 2 * lv ∧ !s.halfAsked.contains c then ({ s with halfAsked := s.halfAsked ++ [c] }).urgentRetrain c else s

/-- One word corrected (R298 to R300): the level rises, an overflow is raised once until the level has leaked to half
the threshold, and the half threshold of a channel requests an urgent retrain. -/
def State.corrected (s : State) (b : BucketId) : State :=
  let i := b.index
  let th := s.thresh
  let s := s.bump b.corrected i
  let lv := s.getF b.level i
  if th ≤ lv then s
  else
    let s := s.putF b.level i (lv + 1)
    let s := match b with
      | .chan c => s.halfReached c (lv + 1)
      | _ => s
    if lv + 1 == th && !s.fullBuckets.contains b.no then
      let s := { s with fullBuckets := s.fullBuckets ++ [b.no] }
      let s := s.bump b.overflows i
      let s := match b with
        | .hub _ => s
        | _ => s.errsum (s.sheafsOver i) 1
      s.raise 0x21 b.srcClass i (BitVec.ofNat 64 (s.getF b.corrected i))
    else s

/-- One leak of a bucket (R298): the level falls by 1 when above 0, and at half the threshold or below the bucket may
overflow again (R299). -/
def State.leak (s : State) (b : BucketId) : State :=
  let lv := s.getF b.level b.index
  if lv = 0 then s
  else
    let s := s.putF b.level b.index (lv - 1)
    let s := match b with
      | .chan c => if 4 * (lv - 1) ≤ s.thresh then { s with halfAsked := s.halfAsked.filter (fun x => x != c) } else s
      | _ => s
    if lv - 1 ≤ s.thresh / 2 then { s with fullBuckets := s.fullBuckets.filter (fun x => x != b.no) } else s

/-- A commit changed the threshold (R301): levels at or above it are set to it and count as having overflowed. -/
def State.rethresh (s : State) : State :=
  allBuckets.foldl (fun s b =>
    if s.thresh ≤ s.getF b.level b.index then
      { s with fullBuckets := if s.fullBuckets.contains b.no then s.fullBuckets else s.fullBuckets ++ [b.no] }.putF
        b.level b.index s.thresh
    else s) s

/-! ## Correctable words -/

/-- Queues a row of a channel for a scrub; a full queue of 16 leaves it to the pass and counts it (R296). -/
def State.queueScrub (s : State) (c bank row : Nat) : State :=
  let q := (s.chan c).scrubQ
  if q.contains (bank, row) then s
  else if 16 ≤ q.length then s.bump F.rakStat_queue_full 0
  else s.modChan c (fun x => { x with scrubQ := x.scrubQ ++ [(bank, row)] })

/-- A controller read meets a correctable loft word: it uses the corrected value, counts it and queues the row. The
loft keeps the stored error. -/
def State.softWord (s : State) (w : Nat) : State :=
  let c := chanAt (8 * w)
  (s.corrected (.chan c)).queueScrub c (bankInChan w) (rowOf w)

/-! ## Error records -/

/-- The 32 bytes of an error record. -/
def UeRec.bytes (r : UeRec) : List Byte :=
  let loft := r.type == 1
  leBytes 1 r.type ++ leBytes 1 r.reader ++ leBytes 1 r.outcome ++ leBytes 1 (min r.count 255) ++ leBytes 2 r.unit ++
  leBytes 1 (if loft then loftOf r.word else 0) ++ leBytes 1 (if loft then bankOf r.word else 0) ++
  leBytes 2 (if loft then rowOf r.word else 0) ++ leBytes 1 (if loft then wordInRow r.word else 0) ++ [0] ++
  leBytes 4 (if loft then 0 else r.word) ++ leBytes 8 (if loft then 8 * r.word else 0) ++ leBytes 4 r.tick ++
  leBytes 2 r.consumer ++ leBytes 1 r.job ++ [0]

/-- The source class of an UNCORRECTABLE event, by error record type (Table 16.7). -/
def ueClass (type : Nat) : Nat := if type = 1 then 2 else if type = 2 then 1 else 8

/-- Sets STD_UE0 to STD_UE3 to the last record made. -/
def State.showUe (s : State) (b : List Byte) : State :=
  (((s.putF F.stdUe0_word 0 (fieldAt b 0 8)).putF F.stdUe1_word 0 (fieldAt b 8 8)).putF F.stdUe2_word 0
    (fieldAt b 16 8)).putF F.stdUe3_word 0 (fieldAt b 24 8)

/-- Sends a record on the event path. -/
def State.sendRecord (s : State) (r : UeRec) : State := s.raise 0x20 (ueClass r.type) r.unit 1 r.bytes

/-- The tick ends: the records of its first 256 words are sent with their counts of reads; those beyond have been counted and
are not delivered (R303, R305; log entry 13). -/
def State.sendRecords (s : State) : State := (s.ueTick.take 256).foldl State.sendRecord { s with ueTick := [] }

/-- Two records are of one word. -/
def UeRec.sameWord (a b : UeRec) : Bool := a.type == b.type && a.unit == b.unit && a.word == b.word

/-- An uncorrectable word is met (R303): the first read of it in a tick makes a record, a later read raises the record's count.
STD_UE0 to STD_UE3 show the last record made. Outside a tick the record is sent at once. -/
def State.ueRecord (s : State) (r : UeRec) : State :=
  let r := { r with tick := s.getF F.tikCount_count % 2 ^ 32 }
  let s := if r.job < 8 then s.errsum (s.sheafsOfJob r.job) 0 else s
  if s.ueTick.any r.sameWord then
    let more := s.ueTick.map (fun x => if r.sameWord x then { x with count := x.count + 1, outcome := Nat.lor x.outcome r.outcome } else x)
    let s := { s with ueTick := more }
    match more.getLast? with
    | some x => if r.sameWord x then s.showUe x.bytes else s
    | none => s
  else
    let s := (s.bump F.stdUeCnt_records 0).showUe r.bytes
    let s := if 256 ≤ s.ueTick.length then s.bump F.stdUeCnt_dropped 0 else s
    if s.tick.running then { s with ueTick := s.ueTick ++ [r] } else s.sendRecord r

end Sys2Proof.Machine
end

