-- ==== Sys2Proof/Machine/Operands.lean ====
section
/-! DEFINITION. Operand forms: the number formats of Tables 4.3 to 4.7, exact values of element codes, rounding to
nearest even, FP32 arithmetic, and the elementary functions of R544. -/

namespace Sys2Proof.Machine

/-! ## Values -/

/-- A value: a NaN, an infinity, or mag × 2^e with a sign; a magnitude of 0 is a signed zero. -/
inductive Num where
  | nan
  | inf (neg : Bool)
  | fin (neg : Bool) (mag : Nat) (e : Int)
  deriving DecidableEq, Repr

/-- Plus zero, and a natural number. -/
def Num.zero : Num := .fin false 0 0
def Num.ofNat (n : Nat) : Num := .fin false n 0

def Num.isNan : Num → Bool
  | .nan => true
  | _ => false
def Num.isInf : Num → Bool
  | .inf _ => true
  | _ => false
def Num.isZero : Num → Bool
  | .fin _ m _ => m == 0
  | _ => false
def Num.isNeg : Num → Bool
  | .nan => false
  | .inf s => s
  | .fin s m _ => s && m != 0

/-- The negative of a value. -/
def Num.negate : Num → Num
  | .nan => .nan
  | .inf s => .inf (!s)
  | .fin s m e => .fin (!s) m e
/-- The magnitude of a value. -/
def Num.abs : Num → Num
  | .nan => .nan
  | .inf _ => .inf false
  | .fin _ m e => .fin false m e

/-- The signed integer ±mag × 2^(e − q), for q ≤ e. -/
def scaled (neg : Bool) (m : Nat) (e q : Int) : Int :=
  let k := m <<< (e - q).toNat
  if neg then -(k : Int) else k

/-- The exact sum. Infinities of opposite sign give a NaN; an exact cancellation gives +0. -/
def Num.add : Num → Num → Num
  | .nan, _ => .nan
  | _, .nan => .nan
  | .inf a, .inf b => if a == b then .inf a else .nan
  | .inf a, _ => .inf a
  | _, .inf b => .inf b
  | .fin a m e, .fin b n f =>
    if m == 0 && n == 0 then .fin (a && b) 0 0
    else if m == 0 then .fin b n f
    else if n == 0 then .fin a m e
    else
      let q := min e f
      let v := scaled a m e q + scaled b n f q
      .fin (decide (v < 0)) v.natAbs q

/-- The exact product; infinity times zero is a NaN. -/
def Num.mul : Num → Num → Num
  | .nan, _ => .nan
  | _, .nan => .nan
  | .inf a, .inf b => .inf (a != b)
  | .inf a, .fin b n _ => if n == 0 then .nan else .inf (a != b)
  | .fin a m _, .inf b => if m == 0 then .nan else .inf (a != b)
  | .fin a m e, .fin b n f => .fin (a != b) (m * n) (e + f)

/-- Whether a < b, for values that are not NaN. -/
def Num.lt (a b : Num) : Bool :=
  match a, b with
  | .nan, _ => false
  | _, .nan => false
  | .inf a, .inf b => a && !b
  | .inf a, _ => a
  | _, .inf b => !b
  | .fin s m e, .fin t n f =>
    let q := min e f
    decide (scaled s m e q < scaled t n f q)
def Num.le (a b : Num) : Bool := !a.isNan && !b.isNan && !b.lt a
/-- The larger of two values that are not NaN; the first when they are equal. -/
def Num.max (a b : Num) : Num := if a.lt b then b else a

/-- ⌊log2 of a positive fraction num ÷ den × 2^e⌋. -/
def log2Frac (num den : Nat) (e : Int) : Int :=
  let l : Int := (num.log2 : Int) - den.log2
  let below := if 0 ≤ l then decide (num < den <<< l.toNat) else decide (num <<< (-l).toNat < den)
  e + (if below then l - 1 else l)

/-- A quotient of natural numbers rounded to the nearest integer, ties to even. -/
def divEven (n d : Nat) : Nat :=
  let q := n / d
  let r := n % d
  if 2 * r < d then q else if d < 2 * r then q + 1 else q + q % 2

/-- num ÷ den × 2^(e − q), rounded to nearest even. -/
def roundAt (num den : Nat) (e q : Int) : Nat :=
  if q ≤ e then divEven (num <<< (e - q).toNat) den else divEven num (den <<< (q - e).toNat)

/-! ## Element formats (Table 4.4) -/

/-- An encoding with sign, exponent and mantissa: mantissa bits, bias, width, largest finite magnitude code, and
whether the exponent of all ones holds infinities and NaNs (otherwise only magnitude codes above the largest are NaN). -/
structure FloatFmt where
  man : Nat
  bias : Int
  width : Nat
  top : Nat
  ieee : Bool
  deriving DecidableEq, Repr

def fmtFp32 : FloatFmt := ⟨23, 127, 32, 0x7F7FFFFF, true⟩
def fmtBf16 : FloatFmt := ⟨7, 127, 16, 0x7F7F, true⟩
def fmtE4m3 : FloatFmt := ⟨3, 7, 8, 0x7E, false⟩
def fmtE5m2 : FloatFmt := ⟨2, 15, 8, 0x7B, true⟩
def fmtE2m3 : FloatFmt := ⟨3, 1, 6, 0x1F, false⟩
def fmtE3m2 : FloatFmt := ⟨2, 3, 6, 0x1F, false⟩
def fmtE2m1 : FloatFmt := ⟨1, 1, 4, 0x7, false⟩

/-- The value of a code. -/
def FloatFmt.value (f : FloatFmt) (code : Nat) : Num :=
  let neg := code.testBit (f.width - 1)
  let mag := code % 2 ^ (f.width - 1)
  let ex := mag / 2 ^ f.man
  let fr := mag % 2 ^ f.man
  if f.top < mag then (if f.ieee && fr == 0 then .inf neg else .nan)
  else if ex = 0 then .fin neg fr (1 - f.bias - f.man)
  else .fin neg (fr + 2 ^ f.man) (ex - f.bias - f.man)

/-- The magnitude code nearest to num ÷ den × 2^e, ties to even; above `top` when it lies beyond the largest finite. -/
def FloatFmt.code (f : FloatFmt) (num den : Nat) (e : Int) : Nat :=
  if num = 0 then 0
  else
    let lowest : Int := 1 - f.bias - f.man
    let q := max lowest (log2Frac num den e - f.man)
    (q - lowest).toNat * 2 ^ f.man + roundAt num den e q

/-- The value of a magnitude code with a sign. -/
def FloatFmt.ofCode (f : FloatFmt) (neg : Bool) (code : Nat) : Num :=
  if f.top < code then .inf neg else
    match f.value code with
    | .fin _ m e => .fin neg m e
    | x => x

/-- A code with its sign bit. -/
def FloatFmt.signed (f : FloatFmt) (neg : Bool) (code : Nat) : Nat := code + (if neg then 2 ^ (f.width - 1) else 0)

/-- Rounding to FP32, a value beyond its range becoming the infinity of its sign. -/
def fp32 : Num → Num
  | .fin s m e => fmtFp32.ofCode s (fmtFp32.code m 1 e)
  | x => x

/-- Rounding to FP32, a value beyond its range becoming the largest finite value of its sign; true when it did (R117). -/
def fp32Sat : Num → Num × Bool
  | .fin s m e =>
    let c := fmtFp32.code m 1 e
    if fmtFp32.top < c then (fmtFp32.ofCode s fmtFp32.top, true) else (fmtFp32.ofCode s c, false)
  | .inf s => (fmtFp32.ofCode s fmtFp32.top, true)
  | .nan => (.nan, false)

/-- FP32 arithmetic, each operation rounded once to nearest even. -/
def fadd (a b : Num) : Num := fp32 (a.add b)
def fsub (a b : Num) : Num := fp32 (a.add b.negate)
def fmul (a b : Num) : Num := fp32 (a.mul b)

/-- The quotient in a format, rounded once. -/
def quotient (f : FloatFmt) : Num → Num → Num
  | .nan, _ => .nan
  | _, .nan => .nan
  | .inf _, .inf _ => .nan
  | .inf a, .fin b _ _ => .inf (a != b)
  | .fin a _ _, .inf b => .fin (a != b) 0 0
  | .fin a m e, .fin b n g =>
    if n = 0 then (if m = 0 then .nan else .inf (a != b))
    else f.ofCode (a != b) (f.code m n (e - g))
def fdiv (a b : Num) : Num := quotient fmtFp32 a b

/-- The FP32 value of a 32-bit code, and the code of a value that FP32 holds; a NaN gives the canonical one (Table 4.9). -/
def ofBits32 (c : Nat) : Num := fmtFp32.value c
def bits32 : Num → Nat
  | .nan => 0x7FC00000
  | .inf s => fmtFp32.signed s 0x7F800000
  | .fin s m e => fmtFp32.signed s (fmtFp32.code m 1 e)
def bits16 : Num → Nat
  | .nan => 0x7FC0
  | .inf s => fmtBf16.signed s 0x7F80
  | .fin s m e => fmtBf16.signed s (fmtBf16.code m 1 e)

/-- Rounding to BF16 with saturation; true when it saturated. -/
def bf16Sat : Num → Num × Bool
  | .fin s m e =>
    let c := fmtBf16.code m 1 e
    if fmtBf16.top < c then (fmtBf16.ofCode s fmtBf16.top, true) else (fmtBf16.ofCode s c, false)
  | .inf s => (fmtBf16.ofCode s fmtBf16.top, true)
  | .nan => (.nan, false)

/-- The value 2^k. -/
def pow2 (k : Int) : Num := .fin false 1 k

/-- ⌊log2⌋ of the magnitude of a finite non-zero value. -/
def Num.log2Floor : Num → Int
  | .fin _ m e => log2Frac m 1 e
  | _ => 0

/-- The sum of a list, exactly. -/
def sumExact (l : List Num) : Num := l.foldl Num.add Num.zero

/-! ## Elementary functions, each the exact value rounded once to FP32 (R544)

Irrational values are enclosed between two fixed-point bounds; when both round to the same FP32 value, that is the
rounded exact value. The precision doubles until they do (log entry 7). -/

/-- A positive enclosure [lo, hi] × 2^(−p) rounded: some code when both bounds round to it. -/
def enclosed (lo hi : Nat) (p : Int) : Option Nat :=
  let a := fmtFp32.code lo 1 (-p)
  if a == fmtFp32.code hi 1 (-p) then some a else none

/-- The first answer among rising precisions; the lower bound's rounding at the last. -/
def refine (f : Nat → Nat × Nat × Int) : List Nat → Nat
  | [] => 0
  | [p] => let (lo, _, q) := f p; fmtFp32.code lo 1 (-q)
  | p :: r =>
    let (lo, hi, q) := f p
    match enclosed lo hi q with
    | some c => c
    | none => refine f r

/-- The precisions tried, in bits. -/
def precisions : List Nat := [96, 160, 320, 640]

/-- atanh(a ÷ b) × 2^p from below, by its series, with at most one unit lost in each term. -/
def atanhSeries (p a b : Nat) : Nat :=
  let step := fun (st : Nat × Nat × Nat) (_ : Nat) =>
    let (sum, term, k) := st
    (sum + term / k, term * a * a / (b * b), k + 2)
  ((List.range (p / 2 + 2)).foldl step (0, (a <<< p) / b, 1)).1

/-- The error of a series of p terms, in units of 2^(−p). -/
def slack (p : Nat) : Nat := 4 * p + 16

/-- ln 2 × 2^p from below. -/
def ln2At (p : Nat) : Nat := 2 * atanhSeries p 1 3

/-- e^(x × 2^(−p)) × 2^p from below, for 0 ≤ x < 2^p. -/
def expSeries (p x : Nat) : Nat :=
  let step := fun (st : Nat × Nat) (k : Nat) =>
    let (sum, term) := st
    (sum + term, (term * x) >>> p / (k + 1))
  ((List.range (p / 2 + 8)).foldl step (0, 1 <<< p)).1

/-- 2^x. -/
def exp2 : Num → Num
  | .nan => .nan
  | .inf s => if s then .zero else .inf false
  | .fin s m e =>
    if m = 0 then .ofNat 1
    else if 10 ≤ log2Frac m 1 e then (if s then .zero else .inf false)
    else
      -- x = k + r ÷ 2^d with 0 ≤ r < 2^d
      let d := (-e).toNat
      let v : Int := scaled s m e (min e 0)
      let k : Int := v / (2 ^ d : Nat)
      let r : Nat := (v % (2 ^ d : Nat)).toNat
      if r = 0 then fp32 (pow2 k)
      else
        let f := fun p =>
          let x := (((r <<< p) >>> d) * ln2At p) >>> p
          let lo := expSeries p x
          (lo, lo + 16 * slack p, (p : Int) - k)
        fmtFp32.ofCode false (refine f precisions)

/-- log2 x. -/
def flog2 : Num → Num
  | .nan => .nan
  | .inf s => if s then .nan else .inf false
  | .fin s m e =>
    if m = 0 then .inf true
    else if s then .nan
    else
      let l := m.log2
      let k : Int := e + l
      if m = 1 <<< l then fp32 (.fin (decide (k < 0)) k.natAbs 0)
      else
        -- log2 x = k + ln (m ÷ 2^l) ÷ ln 2
        let f := fun p =>
          let ln := 2 * atanhSeries p (m - 1 <<< l) (m + 1 <<< l)
          let lo := (ln <<< p) / (ln2At p + slack p)
          let hi := ((ln + slack p) <<< p) / ln2At p + 1
          (lo, hi)
        let whole := fun (p : Nat) => k * ((1 <<< p : Nat) : Int)
        let neg := decide (k < 0)
        let g := fun p =>
          let (lo, hi) := f p
          let a := whole p + lo
          let b := whole p + hi
          if neg then (b.natAbs, a.natAbs, (p : Int)) else (a.natAbs, b.natAbs, (p : Int))
        fmtFp32.ofCode neg (refine g precisions)

/-- The reciprocal square root: the exact root is compared through its square, so one rounding is exact. -/
def rsqrt : Num → Num
  | .nan => .nan
  | .inf s => if s then .nan else .zero
  | .fin s m e =>
    if m = 0 then .inf s
    else if s then .nan
    else
      -- x = n × 2^(2h); r = ⌊2^q ÷ √n⌋ with a sticky bit
      let odd := e % 2 != 0
      let n := if odd then 2 * m else m
      let h : Int := if odd then (e - 1) / 2 else e / 2
      let q := n.log2 / 2 + 40
      let r := ((1 <<< (2 * q)) / n).sqrt
      let exact := decide (r * r * n = 1 <<< (2 * q))
      fmtFp32.ofCode false (fmtFp32.code (2 * r + bit (!exact)) 1 (-(q : Int) - h - 1))

/-- π × 2^p from below, by Machin's formula. -/
def piAt (p : Nat) : Nat :=
  let q := p + 32
  let arctan := fun (b : Nat) =>
    let step := fun (st : Int × Nat × Nat) (_ : Nat) =>
      let (sum, term, k) := st
      (if k % 4 == 1 then sum + (term / k : Nat) else sum - (term / k : Nat), term / (b * b), k + 2)
    ((List.range (q / 4 + 4)).foldl step ((0 : Int), (1 <<< q) / b, 1)).1
  ((4 * (4 * arctan 5 - arctan 239)).toNat >>> 32) - 1

/-- The sine (k = 1) or cosine (k = 0) of x × 2^(−p) as an integer of units 2^(−p), by its series. -/
def trigSeries (p : Nat) (x : Int) (k : Nat) : Int :=
  let unit : Int := (1 <<< p : Nat)
  let step := fun (st : Int × Int × Nat) (_ : Nat) =>
    let (sum, term, n) := st
    (sum + term, -(term * x / unit * x / unit) / (((n + 1) * (n + 2) : Nat) : Int), n + 2)
  ((List.range (p / 4 + 12)).foldl step (0, if k = 1 then x else unit, k)).1

/-- Sine or cosine of an exact value. -/
def trig (k : Nat) : Num → Num
  | .nan => .nan
  | .inf _ => .nan
  | .fin s m e =>
    if m = 0 then (if k = 1 then .fin s 0 0 else .ofNat 1)
    else
      let l := log2Frac m 1 e
      let bounds := fun (p0 : Nat) =>
        let p := p0 + (-l).toNat
        let wide := p + (max l 0).toNat + 8
        -- the argument modulo 2π, in units of 2^(−p), lies in [r, r + 2]
        let a := if 0 ≤ e + (wide : Int) then m <<< (e + (wide : Int)).toNat else m >>> (-(e + (wide : Int))).toNat
        let r := (a % (2 * piAt wide)) >>> (wide - p)
        let half := piAt p
        let x : Int := if half < r then (r : Int) - 2 * half else r
        let y := trigSeries p x k
        (if s && k == 1 then -y else y, p)
      let f := fun p0 =>
        let (y, p) := bounds p0
        (y.natAbs - 32 * slack p, y.natAbs + 32 * slack p, (p : Int))
      let neg := decide ((bounds 640).1 < 0)
      fmtFp32.ofCode neg (refine f precisions)

def fsin (x : Num) : Num := trig 1 x
def fcos (x : Num) : Num := trig 0 x

/-- FP32 values of log2 e, ln 2 (R171, R175). -/
def log2e : Num := ofBits32 0x3FB8AA3B
def ln2c : Num := ofBits32 0x3F317218

/-! ## Storage formats (Table 4.3) -/

/-- Format codes. -/
def fFP32 : Nat := 1
def fBF16 : Nat := 2
def fE4M3 : Nat := 3
def fE5M2 : Nat := 4
def fINT8 : Nat := 5
def fINT32 : Nat := 6
def fMXINT8 : Nat := 0xC
def fTERN : Nat := 0xD
def fKV : Nat := 0xE

/-- A code that Table 4.3 lists. -/
def isFmt (f : Nat) : Bool := decide (1 ≤ f) && decide (f ≤ 0xE)
/-- A format with 32-element blocks and E8M0 scales. -/
def isMx (f : Nat) : Bool := decide (7 ≤ f) && decide (f ≤ 0xC)
/-- A drain format (Table 4.9). -/
def isDrain (f : Nat) : Bool := (decide (1 ≤ f) && decide (f ≤ 4)) || isMx f

/-- Bits of one element code. -/
def elemBits (f : Nat) : Nat :=
  if f = 1 ∨ f = 6 then 32 else if f = 2 then 16 else if f = 9 ∨ f = 0xA then 6 else if f = 0xB then 4
  else if f = 0xD then 2 else 8

/-- Elements of a packing group, and its bytes (Table 4.7). -/
def groupElems (f : Nat) : Nat :=
  if elemBits f = 6 then 4 else if elemBits f = 4 then 2 else if elemBits f = 2 then 4 else 1
def groupBytes (f : Nat) : Nat := groupElems f * elemBits f / 8

/-- Bytes of n packed element codes. -/
def codeBytes (f n : Nat) : Nat := ceilDiv n (groupElems f) * groupBytes f

/-- Block length of a block-scaled format; 0 for the others. -/
def blockLen (f : Nat) : Nat := if isMx f then 32 else if f = fTERN then 64 else 0

/-- Codes held for a row of n elements: whole blocks for a block-scaled format (R114). -/
def heldElems (f n : Nat) : Nat := if blockLen f = 0 then n else ceilDiv n (blockLen f) * blockLen f

/-- Offset of the scales in a row of n elements. -/
def scaleOff (f n : Nat) : Nat := ceilDiv (codeBytes f (heldElems f n)) 64 * 64

/-- Bytes of a row of n elements, its scales included (R114). -/
def rowBytes (f n : Nat) : Nat :=
  if blockLen f = 0 then codeBytes f n else scaleOff f n + ceilDiv n (blockLen f)

/-- Element code j of packed bytes. -/
def codeAt (f : Nat) (bs : List Byte) (j : Nat) : Nat :=
  let g := j / groupElems f
  let w := elemBits f
  bitsOf (fieldAt bs (g * groupBytes f) (groupBytes f)) (w * (j % groupElems f)) w

/-- The value of an 8-bit two's complement code. -/
def int8Of (c : Nat) : Int := if c < 128 then c else (c : Int) - 256

/-- A signed integer times a power of two. -/
def Num.ofInt (i : Int) (e : Int) : Num := .fin (decide (i < 0)) i.natAbs e

/-- The element encoding of a format that has sign, exponent and mantissa. -/
def elemFmt (f : Nat) : FloatFmt :=
  if f = 1 then fmtFp32 else if f = 2 then fmtBf16 else if f = 3 ∨ f = 7 then fmtE4m3
  else if f = 4 ∨ f = 8 then fmtE5m2 else if f = 9 then fmtE2m3 else if f = 0xA then fmtE3m2 else fmtE2m1

/-- The value of an element code, its block scale apart (Tables 4.4 and 4.6). -/
def elemValue (f c : Nat) : Num :=
  if f = fINT8 then Num.ofInt (int8Of c) 0
  else if f = fMXINT8 then Num.ofInt (int8Of c) (-6)
  else if f = fINT32 then Num.ofInt (if c < 2 ^ 31 then (c : Int) else (c : Int) - 2 ^ 32) 0
  else if f = fTERN then (if c = 1 then Num.ofNat 1 else if c = 3 then .fin true 1 0 else .zero)
  else (elemFmt f).value c

/-- The value of an E8M0 scale code (Table 4.4). -/
def scaleValue (c : Nat) : Num := if c = 0xFF then .nan else pow2 ((c : Int) - 127)

/-- The values of a row of n elements held as R114 says. -/
def rowValues (f n : Nat) (bs : List Byte) : List Num :=
  let so := scaleOff f n
  (List.range n).map (fun j =>
    let v := elemValue f (codeAt f bs j)
    if isMx f then v.mul (scaleValue ((bs.getD (so + j / 32) 0).toNat)) else v)

/-- Packs element codes. -/
def packCodes (f : Nat) (cs : List Nat) : List Byte :=
  (List.range (ceilDiv cs.length (groupElems f))).flatMap (fun g =>
    leBytes (groupBytes f) ((List.range (groupElems f)).foldl (fun acc j =>
      acc + cs.getD (g * groupElems f + j) 0 * 2 ^ (elemBits f * j)) 0))

end Sys2Proof.Machine
end

