-- ==== Sys2Proof/Machine/Image.lean ====
section
/-! DEFINITION. The two images of a program as bytes: their tables, stage descriptors and the derived quantities that
both the load checks and the running of stages use (R46 to R60, R129, R141, R144, R154, R159, R163, R198, R206 to R209,
R246, R325, R326). -/

namespace Sys2Proof.Machine

/-! ## Jofort image -/

/-- Tensor entry i of a table (Table 2.2). -/
def parseTensor (j : List Byte) (o : Nat) : Tensor :=
  { rank := fieldAt j (o + 4) 1, fmt := fieldAt j (o + 5) 1, role := fieldAt j (o + 6) 2,
    dims := (List.range 4).map (fun i => fieldAt j (o + 8 + 4 * i) 4), cls := fieldAt j (o + 0x18) 4 }

/-- Operator entry (R49): inputs and outputs within their counts. -/
def parseOper (j : List Byte) (o : Nat) : Oper :=
  { opcode := fieldAt j o 2, flags := fieldAt j (o + 2) 2, role := fieldAt j (o + 4) 2,
    ins := (List.range (min 8 (fieldAt j (o + 6) 1))).map (fun i => fieldAt j (o + 8 + 2 * i) 2),
    outs := (List.range (min 4 (fieldAt j (o + 7) 1))).map (fun i => fieldAt j (o + 0x18 + 2 * i) 2),
    attrs := slice j (o + 0x20) 32 }

/-- The dimension value that marks the sequence position (R48). -/
def seqDim : Nat := 0xFFFFFFFF

/-- Tensor i of an image, and dimension d of it. -/
def Image.tensor (g : Image) (i : Nat) : Tensor := g.tensors.getD i {}
def Image.oper (g : Image) (i : Nat) : Oper := g.ops.getD i {}
def Image.stageAt (g : Image) (c : Nat) : Option Stage := g.stages.find? (fun t => t.cell == c)
def Tensor.dim (t : Tensor) (d : Nat) : Nat := t.dims.getD d 0

/-- The cell kind of an opcode (Table 2.3). -/
def opKind (op : Nat) : Nat :=
  if [2, 0xB].contains op then kM else if op = 8 then kA
  else if [1, 9, 0xA, 0xE, 0xF].contains op then kG
  else if op = 0x10 then kL else if [0x12, 0x13].contains op then kS else kV

/-- The dimensions that Table 2.3 names: token rows T and T·k, the width d, K and N of a product, the n of element-wise
operators and of tables, heads, the sequence position S, and the others by their letter; `exactly` for a number. -/
inductive ShapeDim where
  | tok | tokK | width | contr | outer | elems | heads | qHeads | kvHeads | headW | seq | rank | experts | stateW | items
  | rowW | vocab
  | exactly (n : Nat)
  deriving DecidableEq, Repr

/-- The shapes of Table 2.3 under R545 and R197, inputs and outputs; COLLECTIVE is not listed, its operands have any rank.
Absent inputs keep their place. -/
def opShapes (op : Nat) : List (List ShapeDim) × List (List ShapeDim) :=
  match op with
  | 1 => ([[.tok], [.vocab, .width]], [[.tok, .width]])
  | 2 => ([[.tok, .contr], [.contr, .outer]], [[.tok, .outer]])
  | 3 => ([[.tok, .width]], [[.tok, .width]])
  | 4 => ([[.tok, .elems]], [[.tok, .elems]])
  | 5 => ([[.tok, .heads, .headW]], [[.tok, .heads, .headW]])
  | 6 => ([[.tok, .width], [.tok, .width]], [[.tok, .width]])
  | 7 => ([[.tok, .elems]], [[.tok, .elems]])
  | 8 => ([[.tok, .qHeads, .headW], [.kvHeads, .seq, .headW], [.kvHeads, .seq, .headW], [.items], [.exactly 256]],
      [[.tok, .qHeads, .headW], [.tok, .qHeads]])
  | 9 => ([[.tok, .kvHeads, .headW], [.tok, .kvHeads, .headW]], [[.kvHeads, .seq, .headW], [.kvHeads, .seq, .headW]])
  | 0xA => ([[.tok, .experts]], [[.tok, .rank], [.tok, .rank]])
  | 0xB => ([[.tok, .contr], [.experts, .contr, .outer]], [[.tokK, .outer]])
  | 0xC => ([[.tokK, .outer], [.tok, .rank]], [[.tok, .outer]])
  | 0xD => ([[.tok, .elems]], [[.tok, .elems], [.elems, .stateW]])
  | 0xE => ([[.items], [.elems, .rowW]], [[.items, .rowW]])
  | 0xF => ([[.items], [.items, .rowW]], [[.elems, .rowW]])
  | 0x11 => ([[.tok, .width]], [[.exactly 1, .width]])
  | 0x12 => ([[.tok, .vocab]], [[.tok]])
  | 0x13 => ([[.tok], [.tok, .vocab]], [[.tok], [.tok]])
  | _ => ([], [])

/-- How many inputs and outputs an operator has at least: those of Table 2.3 (R49); ATTEND's counts are R197's. -/
def opCounts (op : Nat) : Nat × Nat :=
  if op = 8 then (3, 1) else ((opShapes op).1.length, (opShapes op).2.length)

/-- The largest value of a dimension (Table 2.3, R545); none where the operator's row gives no limit. -/
def dimLimit (op : Nat) : ShapeDim → Option Nat
  | .tok => some 4096
  | .width => if op = 0x11 then none else some 65536
  | .contr => some 262144
  | .outer => if op = 0xC then none else some 262144
  | .elems => if op = 4 then some 262144 else if op = 0xD then some 65536 else none
  | .headW => some (if op = 5 then 512 else 256)
  | .qHeads => some 1024
  | .seq => some 1048576
  | .rank => some 16
  | .experts => if op = 0xA then some 1024 else none
  | .stateW => some 256
  | .items => if op = 8 then some 256 else some 1048576
  | .vocab => some 4194304
  | .exactly n => some n
  | .tokK | .heads | .kvHeads | .rowW => none

/-- Four times the rate r of a permitted pair of weight and activation formats (Table 4.1). -/
def pairRate (w a : Nat) : Option Nat :=
  let fp8 := fun x => x == 3 || x == 4
  let mx8 := fun x => x == 7 || x == 8
  let mxs := fun x => x == 9 || x == 0xA || x == 0xB
  if fp8 w && fp8 a then some 4
  else if (w == 5 && a == 5) || (w == 0xC && a == 0xC) then some 4
  else if mx8 w && (mx8 a || mxs a) then some 4
  else if mxs w && mx8 a then some 4
  else if mxs w && mxs a then some 8
  else if w == 0xD && a == 3 then some 16
  else if w == 2 && a == 2 then some 1
  else none

/-- Rows of K in a weight tile (R105). -/
def tileK (w a : Nat) : Nat := match pairRate w a with
  | some 8 => 256
  | some 16 => 512
  | _ => 128

/-! ## Schedule image -/

/-- A stage descriptor (Table 2.5). -/
def parseStage (b : List Byte) (o : Nat) : Stage :=
  { cell := fieldAt b o 2, kind := fieldAt b (o + 2) 1, sheaf := fieldAt b (o + 4) 2, epoch := fieldAt b (o + 6) 1,
    firstOp := fieldAt b (o + 8) 4, opCount := fieldAt b (o + 0xC) 2, startNs := fieldAt b (o + 0x10) 4,
    finishNs := fieldAt b (o + 0x14) 4, nearBytes := fieldAt b (o + 0x18) 4,
    raw := slice b o 256 }

/-- A field of a stage descriptor. -/
def Stage.f (g : Stage) (o n : Nat) : Nat := fieldAt g.raw o n

/-- A slot table entry (R55). -/
def parseSlot (b : List Byte) (o : Nat) : SlotEntry :=
  { src := fieldAt b o 2, dst := fieldAt b (o + 2) 2, cls := fieldAt b (o + 4) 1, plane := fieldAt b (o + 5) 1,
    start := fieldAt b (o + 8) 4, dur := fieldAt b (o + 12) 4 }

/-- n slot tables, one behind the other; none when one does not fit below a bound or is empty. A table counts by its place:
what a table number out of order means is open, and the model does not read it (DESIGN CHOICE, log entry 51). -/
def parseTables (b : List Byte) (bound : Nat) : Nat → Nat → Option (List (List SlotEntry))
  | 0, _ => some []
  | n + 1, o =>
    let c := fieldAt b o 4
    if c = 0 ∨ bound < o + 8 + 16 * c then none
    else (parseTables b bound n (o + 8 + 16 * c)).map (fun r =>
      (List.range c).map (fun i => parseSlot b (o + 8 + 16 * i)) :: r)

/-- Entry i of the member pool. -/
def poolAt (b : List Byte) (off i : Nat) : Nat := fieldAt b (off + 2 * i) 2

/-- A placement entry with its stripe set (R56, R249). -/
def parsePlace (b : List Byte) (memOff o : Nat) : Place :=
  let n := fieldAt b (o + 6) 2
  let k := fieldAt b (o + 0x18) 4
  let spread := fieldAt b (o + 4) 1 == 1
  { tensor := fieldAt b o 4, spread := spread, addr := fieldAt b (o + 8) 6, len := fieldAt b (o + 0x10) 8,
    base := if spread then (poolAt b memOff k + 65536 * poolAt b memOff (k + 1)) * 4096 else 0,
    chans := if spread then (List.range n).map (fun i => poolAt b memOff (k + 2 + i)) else [] }

/-- A sheaf descriptor (Table 2.8). -/
def parseSheaf (b : List Byte) (memOff o : Nat) : SheafDesc :=
  { id := fieldAt b o 2, epoch := fieldAt b (o + 2) 1, mtype := fieldAt b (o + 3) 1, parent := fieldAt b (o + 6) 2,
    policy := fieldAt b (o + 8) 4, budget := fieldAt b (o + 0xC) 4, cap := fieldAt b (o + 0x10) 8,
    role := fieldAt b (o + 0x1C) 2,
    members := (List.range (fieldAt b (o + 4) 2)).map (fun i => poolAt b memOff (fieldAt b (o + 0x18) 4 + i)),
    raw := slice b o 64 }

/-! ## Stage descriptors by kind -/

/-- The consumers named in dst. -/
def Stage.dst (g : Stage) : List Nat :=
  let o := if g.kind = kA then 0x58 else 0x38
  ((List.range 4).map (fun i => g.f (o + 2 * i) 2)).filter (fun c => c != 0xFFFF)

/-- t_max of a descriptor. -/
def Stage.tMax (g : Stage) : Nat :=
  if g.kind = kM then g.f 0x26 2 else if g.kind = kA then g.f 0x28 2 else g.f 0x24 2

/-- Size and number of operator entries by kind (Tables 4.12, 5.3). -/
def entrySize (k : Nat) : Nat := if k = kV then 32 else if k = kS then 192 else 48
def entryMax (k : Nat) : Nat := if k = kV then 6 else if k = kS then 1 else 4

/-- The offset of operator entry i. -/
def entryOff (k i : Nat) : Nat := 0x40 + entrySize k * i

/-- A field of operator entry i. -/
def Stage.e (g : Stage) (i o n : Nat) : Nat := g.f (entryOff g.kind i + o) n

/-- The SRAM limit of buffers by kind (Tables 4.13, 5.3, 6.4). -/
def bufLimit (k : Nat) : Nat :=
  if k = kM then 0x1A0000 else if k = kA then 0x300000 else if k = kV then 0x7C000 else if k = kG then 0x100000
  else if k = kL then 0x200000 else 0x78000

/-- The buffers of a descriptor: field offset, start, length. -/
def Stage.bufs (g : Stage) : List (Nat × Nat × Nat) :=
  let at2 := if g.kind = kA then [0x60, 0x68, 0x70] else [0x28, 0x30]
  at2.map (fun o => (o, g.f o 4, g.f (o + 4) 4))

/-- M entry fields. -/
def mKlo (g : Stage) (i : Nat) : Nat := g.e i 0 4
def mKcnt (g : Stage) (i : Nat) : Nat := g.e i 4 4
def mNlo (g : Stage) (i : Nat) : Nat := g.e i 8 4
def mNcnt (g : Stage) (i : Nat) : Nat := g.e i 0xC 4
def mExperts (g : Stage) (i : Nat) : Nat := g.e i 0x10 2
def mWt (g : Stage) : Bool := bitOf (g.f 0x23 1) 0
def mAt (g : Stage) : Bool := bitOf (g.f 0x23 1) 1
def mPartial (g : Stage) : Bool := bitOf (g.f 0x23 1) 2

/-- Bytes rounded up to whole 64-byte units. -/
def up64 (n : Nat) : Nat := ceilDiv n 64 * 64

/-- Bytes of one share's code array and of its scale array (R550). -/
def codeArray (f k n : Nat) (wt : Bool) : Nat :=
  if wt then n * up64 (codeBytes f (heldElems f k)) else heldElems f k * up64 (codeBytes f n)
def scaleArray (f k n : Nat) (wt : Bool) : Nat :=
  if blockLen f = 0 then 0 else if wt then n * up64 (ceilDiv k (blockLen f)) else ceilDiv k (blockLen f) * up64 n

/-- The opcode that a V, G, L or S function code stands for; 0 for none (Tables 5.5, 5.6, 5.8, R163). -/
def funcOp (k func : Nat) : Nat :=
  if k = kV then [0, 3, 4, 5, 6, 7, 0xC, 0xD, 0x11].getD func 0
  else if k = kG then [0, 1, 0xE, 0xF, 0xA, 9].getD func 0
  else if k = kS then [0, 0x12, 0x13].getD func 0
  else 0x10

/-! ## Pages and pools (Tables 7.2 to 7.4) -/

/-- Code bytes and scales of a position record by precision. -/
def recCodes (prec dh : Nat) : Nat := if prec = 0 then 2 * dh else if prec = 1 then dh else ceilDiv dh 2
def recScales (prec dh : Nat) : Nat := if prec = 0 then 0 else ceilDiv dh 32
def recBytes (prec dh : Nat) : Nat := recCodes prec dh + recScales prec dh

/-- Bytes of a page. -/
def pageBytes (prec dh : Nat) : Nat := 64 + 128 * recBytes prec dh

/-- A KVAPPEND entry's fields (Table 7.3). -/
structure KvEntry where
  rows : Nat := 0
  dh : Nat := 0
  pool : Nat := 0
  n : List Nat := []
  kvCnt : Nat := 0
  kvLo : Nat := 0
  slots : Nat := 0
  state : Nat := 0
  winnow : Bool := false
  deriving DecidableEq, Repr

/-- KVAPPEND entry i of a G stage. -/
def Stage.kv (g : Stage) (i : Nat) : KvEntry :=
  { rows := g.e i 4 4, dh := g.e i 8 4, pool := g.e i 0x10 8,
    n := [g.e i 0x18 3, g.e i 0x1B 3, g.e i 0x1E 3], kvCnt := g.e i 0x21 1, kvLo := g.e i 0x22 2,
    slots := g.e i 0x24 2, state := g.e i 0x28 8, winnow := bitOf (g.e i 2 1) 0 }

/-- The KVAPPEND entries of a program: stage cell, entry, fields. -/
def Image.kvEntries (g : Image) : List (Nat × Nat × KvEntry) :=
  (g.stages.filter (fun t => t.kind == kG)).flatMap (fun t =>
    ((List.range t.opCount).filter (fun i => t.e i 0 1 == 5)).map (fun i => (t.cell, i, t.kv i)))

/-- Bytes of an entry's page pool, and of one stream slot Z (R207, R209). -/
def KvEntry.poolBytes (e : KvEntry) : Nat :=
  (List.range 3).foldl (fun a p => a + e.n.getD p 0 * pageBytes p e.dh) 0
def KvEntry.blocks (e : KvEntry) : Nat := ceilDiv e.rows 64
def KvEntry.slotBytes (e : KvEntry) : Nat :=
  ceilDiv (e.kvCnt * e.blocks * 16 + (if e.winnow then 2 * e.kvCnt * e.blocks * 256 else 0)) 4096 * 4096

/-- The device address of page slot k of a pool (R207). -/
def KvEntry.pageAt (e : KvEntry) (k : Nat) : Nat :=
  let n0 := e.n.getD 0 0
  let n1 := e.n.getD 1 0
  e.pool + (if k < n0 then k * pageBytes 0 e.dh
    else if k < n0 + n1 then n0 * pageBytes 0 e.dh + (k - n0) * pageBytes 1 e.dh
    else n0 * pageBytes 0 e.dh + n1 * pageBytes 1 e.dh + (k - n0 - n1) * pageBytes 2 e.dh)

/-- The slots of a precision, first and count. -/
def KvEntry.slotRange (e : KvEntry) (prec : Nat) : Nat × Nat :=
  ((List.range prec).foldl (fun a p => a + e.n.getD p 0) 0, e.n.getD prec 0)

/-- The SCAN entries of a program: stage cell, entry, operator. -/
def Image.scans (g : Image) : List (Nat × Nat × Oper) :=
  (g.stages.filter (fun t => t.kind == kV)).flatMap (fun t =>
    ((List.range t.opCount).filter (fun i => t.e i 0 1 == 7)).map (fun i => (t.cell, i, g.oper (t.firstOp + i))))

/-- Bytes of a stream's slot of a SCAN state: two copies of n × s FP32 values (R210). -/
def scanSlot (t : Tensor) : Nat := 2 * t.dim 0 * t.dim 1 * 4

/-- The placement of a tensor. -/
def Image.placeOf (g : Image) (t : Nat) : Option Place := g.places.find? (fun p => p.tensor == t)

/-- The state placement of a SCAN operator (its output 1) and the bytes of a slot. -/
def Image.scanState (g : Image) (o : Oper) : Option (Place × Nat) :=
  (g.placeOf (o.outs.getD 1 0xFFFF)).map (fun p => (p, scanSlot (g.tensor (o.outs.getD 1 0xFFFF))))

/-- Stream slots of a program: the fewest that a state pool holds (R209). -/
def Image.streamSlots (g : Image) : Nat :=
  let a := g.kvEntries.map (fun e => e.2.2.slots)
  let b := g.scans.map (fun e => match g.scanState e.2.2 with
    | some (p, z) => if z = 0 then 16384 else p.len / z
    | none => 0)
  (a ++ b).foldl min 16384

/-! ## Slot tables (R246, R325, R326) -/

/-- What an entry uses: ring plane p is p, link l is 4 + l. -/
def SlotEntry.uses (e : SlotEntry) : List Nat :=
  if e.cls = 2 then [e.plane % 4]
  else if e.cls = 1 then (routeLinks (cellTower (e.src % 1024)) (cellTower (e.dst % 1024))).map (fun l => 4 + l)
  else []

/-- The retry slack of an entry. -/
def SlotEntry.slackNs (e : SlotEntry) : Nat := ceilDiv (e.dur + 5000) 51

/-- The sum over the entries of a table that use a resource. -/
def sumUse (t : List SlotEntry) (u : Nat) (f : SlotEntry → Nat) : Nat :=
  ((t.filter (fun e => e.uses.contains u)).map f).foldl (· + ·) 0

def maxList (l : List Nat) : Nat := l.foldl max 0

/-- retry_ns and ring_ns of Table 2.7. -/
def Image.retryNs (g : Image) : Nat :=
  maxList (g.slots.flatMap (fun t => (List.range 12).map (fun u => sumUse t u SlotEntry.slackNs)))
def Image.ringNs (g : Image) : Nat :=
  maxList (g.slots.flatMap (fun t => (List.range 4).map (fun u => sumUse t u (fun e => e.dur))))

/-- The share of a link that a transfer crosses, by the edge cell at either end (R246): it leaves its tower in the source's
row for east–west links and the hub link, in its column for north–south links, and enters the other at the matching one. -/
def linkShare (src link : Nat) : Nat := if link = 6 ∨ link = 7 then cellCol src else cellRow src

/-- Whether a narrowed link can still carry every slot table of an image (R348): for each edge cell, the doubled class 1
durations routed through its share, out of its tower and into it, stay within critical_ns. -/
def Image.carriedBy (g : Image) (link : Nat) : Bool :=
  g.slots.all (fun t =>
    let es := t.filter (fun e => e.cls == 1 && e.uses.contains (4 + link))
    es.all (fun e => decide (((es.filter (fun x => linkShare (x.src % 1024) link == linkShare (e.src % 1024) link)).map
      (fun x => 2 * x.dur)).foldl (· + ·) 0 ≤ g.criticalNs)))

/-! ## Sheafs of an image -/

def Image.sheafOf (g : Image) (i : Nat) : Option SheafDesc := g.sheafs.find? (fun d => d.id == i)

/-- A sheaf's cells through its member sheafs, up to n levels. -/
def Image.cellsUnder (g : Image) : Nat → SheafDesc → List Nat
  | 0, _ => []
  | n + 1, d => if d.mtype = 0 then d.members
    else if d.mtype = 1 then d.members.flatMap (fun m => match g.sheafOf m with
      | some x => g.cellsUnder n x
      | none => [])
    else []

/-- The leaf sheafs and all their cells. -/
def Image.leaves (g : Image) : List SheafDesc := g.sheafs.filter (fun d => d.mtype == 0)
def Image.cells (g : Image) : List Nat := g.leaves.flatMap (fun d => d.members)

/-- Whether a cell has a stage descriptor. -/
def Image.hasStage (g : Image) (c : Nat) : Bool := g.stages.any (fun t => t.cell == c)

/-- The field of a spare policy word for a kind (Table 2.11); M has none. -/
def policyField (w k : Nat) : Nat :=
  if k = kA then bitsOf w 0 4 else if k = kV then bitsOf w 4 4 else if k = kG then bitsOf w 8 4
  else if k = kL then bitsOf w 12 4 else if k = kS then bitsOf w 16 4 else 0

/-- Idle cells that a leaf sheaf's policy requires of a kind (R63). -/
def SheafDesc.required (d : SheafDesc) (k : Nat) : Nat :=
  let n := policyField d.policy k
  if n = 0 then 0 else ceilDiv (d.members.filter (fun c => kindOf c == k)).length (2 ^ n)

end Sys2Proof.Machine
end

