-- ==== Sys2Proof/Machine/Load.lean ====
section
/-! DEFINITION. The load-time checks of Table 2.12, in the order of the table (R46 to R65, R104, R111, R130, R142 to
R149, R154, R159, R163, R197 to R199, R206 to R208, R237, R248 to R251, R545 to R547). A check answers the refusal
code and the byte offset of the failing field, or nothing. -/

namespace Sys2Proof.Machine

/-- What a check answers: nothing, or the refusal code and offset (R65). -/
abbrev Chk := Option (Nat × Nat)

/-- A rule that must hold, with the offset that a refusal names. -/
abbrev Rule := Bool × Nat

/-- The first rule of a list that fails, under a code. -/
def broken (code : Nat) (rs : List Rule) : Chk := ((rs.find? (fun r => !r.1)).map (fun r => (code, r.2)))

/-- The first check of a list that fails. -/
def firstFail : List Chk → Chk
  | [] => none
  | some x :: _ => some x
  | none :: r => firstFail r

/-! ## The Jofort image: codes 0x0001 to 0x0006 -/

/-- A section of count entries lies on a multiple of 8 within the image. -/
def sectionOk (off count size len : Nat) : Bool := off % 8 == 0 && decide (off + count * size ≤ len)

def chkJofHeader (j : List Byte) (len : Nat) : Chk :=
  let tn := fieldAt j 0x0C 4
  let on := fieldAt j 0x10 4
  let rn := fieldAt j 0x14 4
  broken 0x0001 [
    (fieldAt j 0 4 == 0x54464F4A, 0), (fieldAt j 0x08 4 == 64, 8),
    (fieldAt j 0x18 8 == len && decide (64 ≤ len), 0x18),
    (decide (1 ≤ tn) && decide (tn ≤ 65535), 0x0C), (decide (1 ≤ on) && decide (on ≤ 65535), 0x10),
    (decide (1 ≤ rn) && decide (rn ≤ 4096), 0x14),
    (sectionOk (fieldAt j 0x20 8) tn 32 len, 0x20), (sectionOk (fieldAt j 0x28 8) on 64 len, 0x28),
    (sectionOk (fieldAt j 0x30 8) rn 16 len, 0x30), (sectionOk (fieldAt j 0x38 8) 0 0 len, 0x38),
    (bitsOf (fieldAt j 0x06 2) 1 15 == 0, 0x06)]

def chkLevel (j : List Byte) : Chk := broken 0x0002 [(fieldAt j 4 2 == 1, 4)]

/-- One tensor entry (R47, R48, R111). -/
def chkTensor (j : List Byte) (o : Nat) : Chk :=
  let t := parseTensor j o
  let seqs := (List.range 4).filter (fun i => decide (i < t.rank) && t.dim i == seqDim)
  broken 0x0003 ([
    (decide (1 ≤ t.rank) && decide (t.rank ≤ 4), o + 4), (isFmt t.fmt, o + 5)] ++
    (List.range 4).map (fun i => (if i < t.rank then t.dim i != 0 else t.dim i == 0, o + 8 + 4 * i)) ++ [
    ([1, 2, 4, 8].contains t.cls, o + 0x18),
    (decide (seqs.length ≤ 1) && (seqs.isEmpty || t.cls == 2 || t.cls == 8), o + 8 + 4 * seqs.getLastD 0),
    (fieldAt j (o + 0x1C) 4 == 0, o + 0x1C)])

/-- One operator entry's opcode and operand counts (R49, R50). -/
def chkOper (j : List Byte) (nt o : Nat) : Chk :=
  let op := fieldAt j o 2
  let ni := fieldAt j (o + 6) 1
  let no := fieldAt j (o + 7) 1
  let want := opCounts op
  broken 0x0004 ([
    (decide (1 ≤ op) && decide (op ≤ 0x13), o),
    (decide (1 ≤ ni) && decide (ni ≤ 8) && (op == 8 || decide (want.1 ≤ ni)), o + 6),
    (decide (1 ≤ no) && decide (no ≤ 4) && (op == 8 || decide (want.2 ≤ no)), o + 7)] ++
    (List.range 8).map (fun i =>
      let v := fieldAt j (o + 8 + 2 * i) 2
      (if i < ni then decide (v < nt) || (v == 0xFFFF && ((op == 8 && i == 3) || (op == 0xE && i == 0))) else v == 0xFFFF, o + 8 + 2 * i)) ++
    (List.range 4).map (fun i =>
      let v := fieldAt j (o + 0x18 + 2 * i) 2
      (if i < no then decide (v < nt) else v == 0xFFFF, o + 0x18 + 2 * i)))

/-- The ATTEND attributes and operand counts (R197). -/
def chkAttend (p : Oper) (hq o : Nat) : List Rule :=
  let a := p.attrs
  let pat := fieldAt a 4 1
  let hkv := fieldAt a 6 2
  let sw := fieldAt a 8 4
  let ng := fieldAt a 0xC 2
  let sc := ofBits32 (fieldAt a 0 4)
  let want := if pat = 3 then 5 else if ng = 0 then 3 else 4
  [ (!sc.isNan && !sc.isInf && !sc.isZero && !sc.isNeg, o + 0x20), (decide (pat ≤ 3), o + 0x24),
    (decide (fieldAt a 5 1 < 4), o + 0x25),
    (decide (1 ≤ hkv) && decide (hkv ≤ 1024) && hq % max hkv 1 == 0, o + 0x26),
    (decide (sw ≤ 65536) && (pat == 1 || pat == 2 || sw == 0), o + 0x28),
    (decide (ng ≤ 256) && (pat == 2 || ng == 0), o + 0x2C), (zeroAt a 0xE 18, o + 0x2E),
    (p.ins.length == want, o + 6), (decide (want < 4) || (p.ins.getD 3 0xFFFF == 0xFFFF) == (pat == 3), o + 0xE),
    (p.outs.length == 1 + bitsOf (fieldAt a 5 1) 1 1, o + 7)]

/-- The operands of an operator that stand in Table 2.3: output or input, number, shape; an absent one is left out. -/
def Oper.operands (p : Oper) : List (Bool × Nat × List ShapeDim) :=
  let of_ := fun (out : Bool) (slots : List Nat) (sh : List (List ShapeDim)) =>
    ((slots.zip sh).zip (List.range 8)).filterMap (fun e =>
      if e.1.1 = 0xFFFF then none else some (out, e.2, e.1.2))
  of_ false p.ins (opShapes p.opcode).1 ++ of_ true p.outs (opShapes p.opcode).2

/-- The dimensions of an operator's operands with what they stand for: name, value, offset in the image. -/
def Image.dimsOf (g : Image) (tOff : Nat) (p : Oper) : List (ShapeDim × Nat × Nat) :=
  p.operands.flatMap (fun e =>
    let i := if e.1 then p.outs.getD e.2.1 0xFFFF else p.ins.getD e.2.1 0xFFFF
    (e.2.2.zip (List.range 4)).map (fun x => (x.1, (g.tensor i).dim x.2, tOff + 32 * i + 8 + 4 * x.2)))

/-- A dimension keeps its limit, and is the sequence dimension exactly where Table 2.3 writes S (R48, R50, R545). -/
def dimRule (op : Nat) (e : ShapeDim × Nat × Nat) : Rule :=
  (if e.1 = .seq then e.2.1 == seqDim
   else e.2.1 != seqDim && (match e.1 with
     | .exactly n => e.2.1 == n
     | _ => match dimLimit op e.1 with
       | some hi => decide (e.2.1 ≤ hi)
       | none => true), e.2.2)

/-- Dimensions of one name are equal; T·k is T times the k of its operator, and where the operator has no k a multiple of T
by 1 to 16. The width of ACT's input is twice the output's where its gate is in the row (R148), so it is not compared. SCAN's input tensor
has the n columns of Table 2.3, like its output, though R153 gives its row n + n + 2s elements: the spec does not say which the tensor
holds (DESIGN CHOICE, log entry 54). -/
def sameDims (op : Nat) (ds : List (ShapeDim × Nat × Nat)) : List Rule :=
  let first := fun (d : ShapeDim) => (ds.find? (fun e => e.1 == d)).map (fun e => e.2.1)
  ds.map (fun e =>
    (match e.1 with
     | .elems => op == 4 || first .elems == some e.2.1
     | .tokK =>
       let t := (first .tok).getD 1
       match first .rank with
       | some k => e.2.1 == t * k
       | none => e.2.1 % max t 1 == 0 && decide (1 ≤ e.2.1 / max t 1) && decide (e.2.1 / max t 1 ≤ 16)
     | d => first d == some e.2.1, e.2.2))

/-- Operands that hold identifiers, counts or positions are INT32 (R181, R545). -/
def int32Operands (op : Nat) : List (Bool × Nat) :=
  match op with
  | 8 => [(false, 3), (false, 4)]
  | 0x12 => [(true, 0)]
  | 0x13 => [(false, 0), (true, 0), (true, 1)]
  | _ => []

/-- One operator's shapes (R50, R104, R545). -/
def chkShapes (g : Image) (tOff : Nat) (p : Oper) (o : Nat) : Chk :=
  let idx := fun (out : Bool) k => if out then p.outs.getD k 0xFFFF else p.ins.getD k 0xFFFF
  let at_ := fun (out : Bool) k => tOff + 32 * idx out k
  let ds := g.dimsOf tOff p
  broken 0x0005 (
    (if p.opcode = 8 then [(decide (3 ≤ p.ins.length), o + 6)] else []) ++
    p.operands.map (fun e => ((g.tensor (idx e.1 e.2.1)).rank == e.2.2.length, at_ e.1 e.2.1 + 4)) ++
    ds.map (dimRule p.opcode) ++ sameDims p.opcode ds ++
    (p.operands.filter (fun e => (int32Operands p.opcode).contains (e.1, e.2.1))).map (fun e =>
      ((g.tensor (idx e.1 e.2.1)).fmt == fINT32, at_ e.1 e.2.1 + 5)) ++
    (if p.opcode = 5 then [((g.tensor (idx false 0)).dim 2 % 2 == 0, at_ false 0 + 16)] else []) ++
    (if p.opcode = 7 then [(isDrain (g.tensor (idx true 0)).fmt, at_ true 0 + 5)] else []) ++
    (if p.opcode = 2 ∨ p.opcode = 0xB then
      [((pairRate (g.tensor (idx false 1)).fmt (g.tensor (idx false 0)).fmt).isSome, at_ false 1 + 5)] else []) ++
    (if p.opcode = 8 then
      chkAttend p ((g.tensor (idx false 0)).dim 1) o ++
      [((g.tensor (idx false 1)).dim 0 == fieldAt p.attrs 6 2, at_ false 1 + 8)] ++
      (if p.outs.length = 2 then [((g.tensor (idx true 1)).fmt == fBF16, at_ true 1 + 5)] else []) ++
      (if fieldAt p.attrs 0xC 2 = 0 then [] else
        [((g.tensor (idx false 3)).dim 0 == fieldAt p.attrs 0xC 2, at_ false 3 + 8)])
     else []))

/-- One role entry (R51). -/
def chkRole (j : List Byte) (o : Nat) : List Rule :=
  [ (decide (fieldAt j (o + 4) 1 ≤ 5), o + 4), (zeroAt j (o + 5) 1, o + 5),
    (decide (1 ≤ fieldAt j (o + 6) 2) && decide (fieldAt j (o + 6) 2 ≤ 4096), o + 6), (zeroAt j (o + 8) 8, o + 8)]

/-- The tables of a Jofort image, once its header has passed. -/
def parseJofort (j : List Byte) : Image :=
  { tensors := (List.range (fieldAt j 0x0C 4)).map (fun i => parseTensor j (fieldAt j 0x20 8 + 32 * i)),
    ops := (List.range (fieldAt j 0x10 4)).map (fun i => parseOper j (fieldAt j 0x28 8 + 64 * i)),
    roleClasses := (List.range (fieldAt j 0x14 4)).map (fun i => fieldAt j (fieldAt j 0x30 8 + 16 * i + 4) 1) }

def chkRoles (j : List Byte) (g : Image) : Chk :=
  let n := g.roleClasses.length
  broken 0x0006 (
    (List.range n).flatMap (fun i => chkRole j (fieldAt j 0x30 8 + 16 * i)) ++
    (g.tensors.zip (List.range g.tensors.length)).map (fun e => (decide (e.1.role < n), fieldAt j 0x20 8 + 32 * e.2 + 6)) ++
    (g.ops.zip (List.range g.ops.length)).map (fun e => (decide (e.1.role < n), fieldAt j 0x28 8 + 64 * e.2 + 4)))

/-- Checks 0x0001 to 0x0006. -/
def chkJofort (j : List Byte) (len : Nat) : Chk :=
  chkJofHeader j len <|> chkLevel j <|>
    (let g := parseJofort j
     let tOff := fieldAt j 0x20 8
     let oOff := fieldAt j 0x28 8
     firstFail ((List.range g.tensors.length).map (fun i => chkTensor j (tOff + 32 * i))) <|>
     firstFail ((List.range g.ops.length).map (fun i => chkOper j g.tensors.length (oOff + 64 * i))) <|>
     firstFail ((g.ops.zip (List.range g.ops.length)).map (fun e => chkShapes g tOff e.1 (oOff + 64 * e.2))) <|>
     chkRoles j g)

/-! ## The schedule image: codes 0x0010 to 0x0013 -/

def chkSchedHeader (b : List Byte) (len : Nat) : Chk :=
  let po := fieldAt b 0x60 8
  let n := fun o (size lo hi : Nat) => decide (lo ≤ fieldAt b o size) && decide (fieldAt b o size ≤ hi)
  broken 0x0010 [
    (fieldAt b 0 4 == 0x44484353, 0), (fieldAt b 4 2 == 1, 4), (fieldAt b 8 8 == len && decide (128 ≤ len), 8),
    (decide (fieldAt b 0x35 1 ≤ 2), 0x35), (decide (2000 ≤ fieldAt b 0x32 2), 0x32), (n 0x34 1 0 25, 0x34),
    (n 0x36 2 1 4096, 0x36), (n 0x38 2 1 1024, 0x38), (n 0x3A 2 1 16, 0x3A), (n 0x3C 4 0 1048576, 0x3C),
    (n 0x70 4 1 1048576, 0x70),
    (sectionOk (fieldAt b 0x40 8) (fieldAt b 0x36 2) 64 po, 0x40),
    (sectionOk (fieldAt b 0x48 8) (fieldAt b 0x38 2) 256 po, 0x48),
    (sectionOk (fieldAt b 0x50 8) 0 0 po &&
      (parseTables b po (min 16 (fieldAt b 0x3A 2)) (fieldAt b 0x50 8)).isSome, 0x50),
    (sectionOk (fieldAt b 0x58 8) (fieldAt b 0x3C 4) 32 po, 0x58),
    (po % 8 == 0 && po + 128 == len, 0x60), (sectionOk (fieldAt b 0x68 8) (fieldAt b 0x70 4) 2 po, 0x68),
    (fieldAt b 6 2 == 0, 6), (zeroAt b 0x74 12, 0x74)]

/-- The active run time of the part (R53). -/
def State.activeRun (s : State) : Nat := s.getF F.tikPeriod_us * 1000 - s.getF F.tikWindow_ns

def chkFit (s : State) (b : List Byte) : Chk :=
  let p := fieldAt b 0x30 2
  broken 0x0013 [(decide (25 ≤ p) && decide (p ≤ 1000) && decide (p * 1000 - fieldAt b 0x32 2 ≤ s.activeRun), 0x30)]

/-- The images as parsed, once both headers have passed. -/
def parseImage (j b : List Byte) : Image :=
  let m := fieldAt b 0x68 8
  { parseJofort j with
    periodUs := fieldAt b 0x30 2, windowNs := fieldAt b 0x32 2, span := fieldAt b 0x35 1,
    sheafs := (List.range (fieldAt b 0x36 2)).map (fun i => parseSheaf b m (fieldAt b 0x40 8 + 64 * i)),
    stages := (List.range (fieldAt b 0x38 2)).map (fun i => parseStage b (fieldAt b 0x48 8 + 256 * i)),
    slots := (parseTables b (fieldAt b 0x60 8) (fieldAt b 0x3A 2) (fieldAt b 0x50 8)).getD [],
    places := (List.range (fieldAt b 0x3C 4)).map (fun i => parsePlace b m (fieldAt b 0x58 8 + 32 * i)),
    criticalNs := fieldAt b (fieldAt b 0x60 8) 4, joftDigest := slice b 0x10 32 }

/-! ## Sheafs, roles and stages: codes 0x0014 to 0x001A -/

/-- Whether an identifier released at an edge is still in quarantine (R236). -/
def State.inQuarantine (s : State) (released : Option Nat) : Bool :=
  match released with
  | none => false
  | some r => decide (s.getF F.tikCount_count < r + 2)

/-- The usable cells of a kind in a list. -/
def State.countUsable (s : State) (cs : List Nat) (k : Nat) : Nat := (cs.filter (fun c => kindOf c == k && s.usable c)).length

/-- Fields of a capability summary by kind, M to S in the order of Table 2.6 (Table 2.10). -/
def capField (w k : Nat) : Nat :=
  if k = kM then bitsOf w 0 9 else if k = kA then bitsOf w 9 8 else if k = kV then bitsOf w 17 9
  else if k = kG then bitsOf w 26 8 else if k = kL then bitsOf w 34 7 else bitsOf w 41 7

/-- Whether a sheaf reaches sheaf 0 through its parents. -/
def Image.reachesRoot (g : Image) : Nat → Nat → Bool
  | 0, _ => false
  | n + 1, i => i == 0 || (match g.sheafOf i with
    | some d => d.parent != 0xFFFF && g.reachesRoot n d.parent
    | none => false)

/-- One sheaf descriptor at offset o (R58, R59, R237, Table 2.8). -/
def chkSheaf (s : State) (g : Image) (nMember : Nat) (before : List SheafDesc) (d : SheafDesc) (o : Nat) : List Rule :=
  let idx := fieldAt d.raw 0x18 4
  let n := fieldAt d.raw 4 2
  let top := d.id == 0 || d.mtype == 2
  let st := s.sheaf d.id
  let stagedHas := s.jobs.any (fun j => ((s.prog j).img.sheafs.any (fun x => x.id == d.id && x.id != 0)))
  let under := if d.mtype = 2 then allCells else g.cellsUnder (g.sheafs.length + 1) d
  [ (decide (d.id ≤ 4095) && before.all (fun x => x.id != d.id), o),
    (decide (d.mtype ≤ 2) && (d.id != 0 || d.mtype != 2), o + 3),
    (decide (1 ≤ n) && decide (idx + n ≤ nMember), o + 4), (bitsOf d.policy 23 9 == 0, o + 8),
    (fieldAt d.raw 0x1E 2 == 0, o + 0x1E), (zeroAt d.raw 0x20 32, o + 0x20),
    (d.id == 0 || (!st.inUse && !stagedHas && !s.inQuarantine st.released), o),
    (if d.id = 0 then d.epoch == 0 else !st.everUsed || st.epoch != d.epoch, o + 2),
    ((d.parent == 0xFFFF) == top, o + 6),
    (top || (match g.sheafOf d.parent with
      | some p => p.mtype == 1 && p.members.contains d.id && g.reachesRoot (g.sheafs.length + 1) d.id
      | none => false), o + 6),
    (if d.mtype = 0 then d.members.all (fun c => decide (c < 1024) &&
        before.all (fun x => x.mtype != 0 || !x.members.contains c)) && d.members.eraseDups.length == d.members.length
     else if d.mtype = 1 then d.members.all (fun m => match g.sheafOf m with
        | some x => x.mtype != 2 && x.parent == d.id
        | none => false)
     else d.members.all (fun m => decide (m < 1024)), o + 0x18),
    ((List.range 6).all (fun k => capField d.cap k == 0 || decide (capField d.cap k ≤ s.countUsable under k)) &&
      decide (bitsOf d.cap 48 4 ≤ 1) && bitsOf d.cap 52 12 == 0, o + 0x10)]

/-- A stage's sheaf and epoch (Table 2.12 0x0014). -/
def chkStageSheaf (g : Image) (t : Stage) (o : Nat) : List Rule :=
  match g.sheafOf t.sheaf with
  | some d => [(d.mtype == 0 && d.members.contains t.cell, o + 4), (d.epoch == t.epoch, o + 6)]
  | none => [(false, o + 4)]

/-- A device address at which n bytes of a channel in service start, 64-byte aligned; a spread address must lie in a
spread entry of the image (R130, R199, R208, R546). -/
def State.goodAddr (s : State) (g : Image) (a n : Nat) : Bool :=
  a % 64 == 0 &&
  (if isPhys a then s.chanServes (chanAt a) && decide (offAt a + max n 1 ≤ chanBytes)
   else g.places.any (fun p => p.spread && decide (p.addr ≤ a) && decide (a + max n 1 ≤ p.addr + p.len) &&
     p.chans.all s.chanServes))

/-- Buffers of a descriptor: non-zero, below the limit of the kind, not overlapping. -/
def chkBufs (t : Stage) (o : Nat) : List Rule :=
  t.bufs.flatMap (fun b => [(b.2.2 != 0, o + b.1 + 4), (decide (b.2.1 + b.2.2 ≤ bufLimit t.kind) &&
    t.bufs.all (fun x => decide (b.1 ≤ x.1) || decide (x.2.1 + x.2.2 ≤ b.2.1) || decide (b.2.1 + b.2.2 ≤ x.2.1)), o + b.1)])

/-- An entry beyond the operators of a stage is zero; the offset is that of its first byte that is not. -/
def unusedEntry (t : Stage) (o i size : Nat) : Rule :=
  let at_ := entryOff t.kind i
  match (List.range size).find? (fun k => fieldAt t.raw (at_ + k) 1 != 0) with
  | some k => (decide (i < t.opCount), o + at_ + k)
  | none => (true, o + at_)

/-- dst slots name cells. -/
def chkDst (t : Stage) (o : Nat) (mayBeNone : Bool) : List Rule :=
  [(t.dst.all (fun c => decide (c < 1024)) && (mayBeNone || !t.dst.isEmpty), o + (if t.kind = kA then 0x58 else 0x38))]

/-- The operators of a stage that exist, with their entry. -/
def Image.opsOf (g : Image) (t : Stage) : List (Nat × Oper) :=
  ((List.range t.opCount).filter (fun i => decide (t.firstOp + i < g.ops.length))).map (fun i => (i, g.oper (t.firstOp + i)))

/-- Whether a cell runs a GATHER with opt bit 1 (R158). -/
def Image.gathersTransposed (g : Image) (c : Nat) : Bool :=
  g.stages.any (fun t => t.cell == c && t.kind == kG &&
    (List.range t.opCount).any (fun i => t.e i 0 1 == 2 && bitOf (t.e i 2 1) 1))

/-- An M entry (Table 4.13). -/
def chkMEntry (s : State) (g : Image) (t : Stage) (o : Nat) (i : Nat) (p : Oper) : List Rule :=
  let w := g.tensor (p.ins.getD 1 0)
  let a := g.tensor (p.ins.getD 0 0)
  let wf := t.f 0x20 1
  let x := p.opcode == 0xB
  let (k, n) := if x then (w.dim 1, w.dim 2) else (w.dim 0, w.dim 1)
  let at_ := o + entryOff kM i
  let ex := mExperts t i
  let code := codeArray wf (mKcnt t i) (mNcnt t i) (mWt t)
  let scale := scaleArray wf (mKcnt t i) (mNcnt t i) (mWt t)
  let stride := t.e i 0x14 4
  let span := fun b => b + (if ex = 0 then 0 else (ex - 1) * stride)
  let mxd := isMx (t.f 0x22 1)
  [ (w.fmt == wf, o + 0x20), (a.fmt == t.f 0x21 1, o + 0x21),
    (blockLen wf == 0 || mKlo t i % max (blockLen wf) 1 == 0, at_),
    (decide (1 ≤ mKcnt t i) && decide (mKcnt t i ≤ 262144) && decide (mKlo t i + mKcnt t i ≤ k), at_ + 4),
    (!mxd || mNlo t i % 32 == 0, at_ + 8),
    (decide (1 ≤ mNcnt t i) && decide (mNcnt t i ≤ 262144) && decide (mNlo t i + mNcnt t i ≤ n) &&
      (!mxd || mNcnt t i % 32 == 0), at_ + 0xC),
    (if x then decide (1 ≤ ex) && decide (ex ≤ 1024) && decide (ex ≤ w.dim 0) else ex == 0, at_ + 0x10),
    (t.e i 0x12 2 == 0, at_ + 0x12),
    (if ex = 0 then stride == 0 else stride % 64 == 0 && decide (code ≤ stride) && decide (scale ≤ stride), at_ + 0x14),
    (s.goodAddr g (t.e i 0x18 8) (span code), at_ + 0x18),
    (if blockLen wf = 0 then t.e i 0x20 8 == 0 else t.e i 0x20 8 != 0 && s.goodAddr g (t.e i 0x20 8) (span scale), at_ + 0x20),
    (t.e i 0x28 8 == 0, at_ + 0x28)]

/-- An M descriptor (R130). -/
def chkM (s : State) (g : Image) (t : Stage) (o : Nat) : List Rule :=
  let af := t.f 0x21 1
  let fl := t.f 0x23 1
  [ (decide (1 ≤ t.opCount) && decide (t.opCount ≤ 4), o + 0xC),
    (isDrain (t.f 0x22 1) && (!mPartial t || t.f 0x22 1 == fFP32), o + 0x22),
    (decide (fl < 8) && (!mAt t || (g.gathersTransposed (t.f 0x24 2) && !isMx af)), o + 0x23),
    (decide (t.f 0x24 2 < 1024), o + 0x24), (decide (1 ≤ t.tMax) && decide (t.tMax ≤ 4096), o + 0x26)] ++
  chkBufs t o ++
  [ (decide (rowBytes af (tileK (t.f 0x20 1) af) ≤ t.f 0x2C 4), o + 0x2C),
    (decide (rowBytes (t.f 0x22 1) 128 ≤ t.f 0x34 4), o + 0x34)] ++
  chkDst t o false ++
  (g.opsOf t).flatMap (fun e => if opKind e.2.opcode == kM && decide (e.1 < 4) then chkMEntry s g t o e.1 e.2 else []) ++
  [((pairRate (t.f 0x20 1) af).isSome, o + 0x20)] ++
  (List.range 4).map (fun i => unusedEntry t o i 48)

/-- The producers of partial shares of an operator's input: stages whose dst names the cell and whose operators write
the tensor (R146). -/
def Image.shareProducers (g : Image) (cell tensor : Nat) : List Nat :=
  (g.stages.filter (fun t => t.dst.contains cell &&
    (g.opsOf t).any (fun e => e.2.outs.contains tensor))).map (fun t => t.cell)

/-- A V entry (R144, R146, R149). An operator that the image does not hold (opcode 0) is left to code 0x0018. -/
def chkV (g : Image) (t : Stage) (o i : Nat) (p : Oper) : List Rule :=
  let at_ := o + entryOff kV i
  let fn := t.e i 0 1
  let opt := t.e i 3 1
  let aux := t.e i 8 4
  let optMax := if fn = 2 then 3 else if fn = 8 then 2 else if fn = 1 ∨ fn = 3 then 1 else 0
  let eps := ofBits32 aux
  let dh := (g.tensor (p.ins.getD 0 0)).dim 2
  let parts := t.e i 0xC 1
  let pa := t.e i 0x10 8
  [ (funcOp kV fn != 0 && (p.opcode == 0 || opKind p.opcode != kV || funcOp kV fn == p.opcode), at_),
    (isDrain (t.e i 2 1), at_ + 2), (decide (opt ≤ optMax), at_ + 3),
    (decide (1 ≤ t.e i 4 4) && decide (t.e i 4 4 ≤ 262144), at_ + 4),
    (if fn = 1 then !eps.isNan && !eps.isNeg
     else if fn = 3 then aux % 2 == 0 && (p.opcode == 0 || decide (aux ≤ dh))
     else if fn = 6 then decide (1 ≤ aux) && decide (aux ≤ 16)
     else if fn = 7 then decide (1 ≤ aux) && decide (aux ≤ 256) else true, at_ + 8),
    (decide (parts ≤ 16) && (decide (parts < 2) ||
      (g.shareProducers t.cell (p.ins.getD 0 0xFFFF)).length == parts), at_ + 0xC),
    (decide (t.e i 0xD 1 ≤ 15) &&
      (fn != 2 || (List.range t.opCount).all (fun k => t.e k 0 1 != 2 || t.e k 0xD 1 != t.e i 0xD 1 ||
        t.e k 0x10 8 == pa)), at_ + 0xD),
    (t.e i 0xE 2 == 0, at_ + 0xE), (!([4, 5, 6, 8].contains fn) || pa == 0, at_ + 0x10), (t.e i 0x18 8 == 0, at_ + 0x18)]

/-- A pool lies within one placement of a tensor of class KV or stream state, on channels in service (R208). -/
def State.poolPlaced (s : State) (g : Image) (a n : Nat) : Bool :=
  g.places.any (fun p => decide (p.addr ≤ a) && decide (a + n ≤ p.addr + p.len) &&
    ((g.tensor p.tensor).cls == 2 || (g.tensor p.tensor).cls == 8) &&
    (if p.spread then p.chans.all s.chanServes else s.chanServes (chanAt p.addr)))

/-- A KVAPPEND entry (R206, R208). -/
def chkKv (s : State) (g : Image) (t : Stage) (o i : Nat) (p : Oper) : List Rule :=
  let at_ := o + entryOff kG i
  let e := t.kv i
  let readers := g.ops.filter (fun a => a.opcode == 8 && p.outs.any (fun x => a.ins.getD 1 0xFFFF == x || a.ins.getD 2 0xFFFF == x))
  let total := e.n.foldl (· + ·) 0
  [ (t.e i 1 1 == fKV, at_ + 1), (decide (t.e i 2 1 ≤ 1) && g.kvEntries.all (fun x => x.2.2.winnow == e.winnow), at_ + 2),
    (t.e i 3 1 == 0, at_ + 3), (decide (1 ≤ e.rows) && decide (e.rows ≤ 1048576), at_ + 4),
    (decide (1 ≤ e.dh) && decide (e.dh ≤ 256) &&
      readers.all (fun a => (g.tensor (a.ins.getD 0 0)).dim 2 == e.dh), at_ + 8),
    (t.e i 0xC 2 == 0, at_ + 0xC), (t.e i 0xE 2 == 0, at_ + 0xE),
    (e.pool % 64 == 0 && s.poolPlaced g e.pool e.poolBytes, at_ + 0x10),
    (decide (1 ≤ total) && decide (total ≤ 16777216), at_ + 0x18),
    (decide (1 ≤ e.kvCnt) && decide (e.kvCnt ≤ 64) &&
      decide (((g.kvEntries.map (fun x => x.2.2.kvCnt)).foldl (· + ·) 0) ≤ 8192), at_ + 0x21),
    (readers.all (fun a => decide (e.kvLo < fieldAt a.attrs 6 2)), at_ + 0x22),
    (readers.all (fun a => decide (e.kvLo + e.kvCnt ≤ fieldAt a.attrs 6 2)), at_ + 0x21),
    (decide (1 ≤ e.slots) && decide (e.slots ≤ 16384), at_ + 0x24), (t.e i 0x26 2 == 0, at_ + 0x26),
    (e.state % 64 == 0 && s.poolPlaced g e.state (e.slots * e.slotBytes), at_ + 0x28)]

/-- A G entry (R154, R155 to R157): its rules under code 0x0017, and the reserved ROUTE mode under 0x0005 (Table 5.7). -/
def chkG (s : State) (g : Image) (t : Stage) (o i : Nat) (p : Oper) : List Chk :=
  let at_ := o + entryOff kG i
  let fn := t.e i 0 1
  let opt := t.e i 2 1
  let named : Rule := (funcOp kG fn != 0 && (opKind p.opcode != kG || funcOp kG fn == p.opcode), at_)
  if fn = 5 then [broken 0x0017 (named :: chkKv s g t o i p)]
  else
    let fmt := t.e i 1 1
    let width := t.e i 8 4
    let table := fn == 1 || fn == 2 || fn == 3
    [ broken 0x0017 [named, (decide (opt ≤ (if fn = 2 ∨ fn = 4 then 3 else 0)), at_ + 2)],
      broken 0x0005 [(fn != 4 || opt % 4 != 3, at_ + 2)],
      broken 0x0017 [
        (if fn = 4 then decide (1 ≤ t.e i 3 1) && decide (t.e i 3 1 ≤ 16) else t.e i 3 1 == 0, at_ + 3),
        (decide (1 ≤ t.e i 4 4) && decide (t.e i 4 4 ≤ 4194304), at_ + 4),
        (if fn = 4 then width == 0 else decide (1 ≤ width) && decide (width ≤ 65536), at_ + 8),
        (if fn = 4 then decide (1 ≤ t.e i 0xC 2) && decide (t.e i 0xC 2 ≤ 256) else t.e i 0xC 2 == 0, at_ + 0xC),
        (t.e i 0xE 2 == 0, at_ + 0xE), (t.e i 0x10 8 % 64 == 0, at_ + 0x10),
        (!table || decide (rowBytes fmt width ≤ t.e i 0x18 4), at_ + 0x18), (zeroAt t.raw (entryOff kG i + 0x1C) 20, at_ + 0x1C)]]

/-- The parts that a sheaf of parts names. -/
def Image.parts (g : Image) (sheaf : Nat) : List Nat :=
  match g.sheafOf sheaf with
  | some d => if d.mtype = 2 then d.members else []
  | none => []

/-- Members of an L entry's collective: parts of the sheaf, or for span 0 the L cells of the part that run the operator. -/
def Image.members (g : Image) (t : Stage) (i : Nat) : Nat :=
  if t.e i 2 1 = 0 then
    (g.stages.filter (fun x => x.kind == kL && decide (x.firstOp ≤ t.firstOp + i) &&
      decide (t.firstOp + i < x.firstOp + x.opCount))).length
  else (g.parts (t.e i 0xA 2)).length

/-- An L entry (R159). -/
def chkL (g : Image) (t : Stage) (o i : Nat) : List Rule :=
  let at_ := o + entryOff kL i
  let op := t.e i 0 1
  let bytes := t.e i 4 4
  let held := if op = 0 then bytes * g.members t i else bytes
  [ (decide (op ≤ 3), at_),
    ((op != 1 && op != 2) || t.e i 1 1 == fFP32 || t.e i 1 1 == fBF16, at_ + 1),
    (decide (t.e i 2 1 ≤ 3), at_ + 2), (decide (t.e i 3 1 ≤ (if op = 1 ∨ op = 2 then 1 else 0)), at_ + 3),
    (bytes % 256 == 0, at_ + 4), (if op = 3 then decide (t.e i 8 2 < 1024) else t.e i 8 2 == 0, at_ + 8),
    (t.e i 2 1 != 0 || t.e i 0xA 2 == 0, at_ + 0xA), (decide (t.e i 0x10 4 + held ≤ 0x200000), at_ + 0x10),
    (zeroAt t.raw (entryOff kL i + 0x14) 28, at_ + 0x14)]

/-- An S entry (R163). -/
def chkS (t : Stage) (o : Nat) (p : Oper) : List Rule :=
  let fn := t.f 0x40 1
  [ (funcOp kS fn != 0 && (opKind p.opcode != kS || funcOp kS fn == p.opcode), o + 0x40),
    (t.f 0x41 1 == fFP32 || t.f 0x41 1 == fBF16, o + 0x41),
    (if fn = 2 then decide (1 ≤ t.f 0x42 1) && decide (t.f 0x42 1 ≤ 8) else t.f 0x42 1 == 0, o + 0x42),
    (t.f 0x43 1 == 0, o + 0x43), (decide (1 ≤ t.f 0x44 4) && decide (t.f 0x44 4 ≤ 4194304), o + 0x44),
    (decide (1 ≤ t.f 0x48 2) && decide (t.f 0x48 2 ≤ 4096), o + 0x48),
    (if fn = 2 then decide (t.f 0x4A 2 < 1024) else t.f 0x4A 2 == 0xFFFF, o + 0x4A), (zeroAt t.raw 0x4C 180, o + 0x4C)]

/-- An A descriptor (R170, R198, R199). -/
def chkA (s : State) (g : Image) (t : Stage) (o : Nat) : List Rule :=
  let p := g.oper t.firstOp
  let a := p.attrs
  let q := g.tensor (p.ins.getD 0 0)
  let fl := t.f 0x23 1
  let dh := t.f 0x2A 2
  let grp := t.f 0x2C 2
  let hkv := fieldAt a 6 2
  let kvc := t.f 0x30 2
  let nsh := t.f 0x32 1
  let qf := t.f 0x20 1
  let ofm := t.f 0x21 1
  let merge := t.f 0x3A 2
  let partialSet := bitOf fl 3
  let qrow := 16 + up64 (codeBytes qf (kvc * grp * dh))
  let head := g.stages.find? (fun x => x.cell == merge)
  let writers := g.ops.filter (fun w => w.opcode == 9 && w.outs.contains (p.ins.getD 1 0xFFFF) && w.outs.contains (p.ins.getD 2 0xFFFF))
  [ (t.opCount == 1 && decide (t.firstOp < g.ops.length) && p.opcode == 8, o + 0xC), (writers.length == 1, o + 8),
    ([fFP32, fBF16, fE4M3].contains qf && qf == q.fmt, o + 0x20),
    (isDrain ofm && (if partialSet then ofm == fFP32 else ofm == (g.tensor (p.outs.getD 0 0)).fmt) &&
      (!isMx ofm || dh % 32 == 0), o + 0x21),
    (t.f 0x22 1 == fieldAt a 4 1, o + 0x22),
    (decide (fl < 16) && (bitOf fl 0 == bitOf (fieldAt a 5 1) 0) && (bitOf fl 2 == bitOf (fieldAt a 5 1) 1) &&
      (partialSet == decide (1 ≤ t.f 0x33 1)), o + 0x23),
    (decide (t.f 0x24 2 < 1024), o + 0x24), (decide (t.f 0x26 2 < 1024) && kindOf (t.f 0x26 2) == kG, o + 0x26),
    (decide (1 ≤ t.tMax) && decide (t.tMax ≤ 4096), o + 0x28), (dh == q.dim 2 && decide (1 ≤ dh) && decide (dh ≤ 256), o + 0x2A),
    (grp * hkv == q.dim 1 && decide (1 ≤ grp) && decide (grp ≤ 64), o + 0x2C),
    (decide (t.f 0x2E 2 < hkv), o + 0x2E),
    (decide (1 ≤ kvc) && decide (kvc ≤ 64) && decide (kvc * grp ≤ 64) && decide (t.f 0x2E 2 + kvc ≤ hkv), o + 0x30),
    (decide (1 ≤ nsh) && decide (nsh ≤ 16), o + 0x32), (decide (t.f 0x33 1 < nsh), o + 0x33),
    (t.f 0x34 4 == fieldAt a 8 4, o + 0x34), (t.f 0x38 2 == fieldAt a 0xC 2, o + 0x38),
    (if nsh = 1 then merge == 0xFFFF else (match head with
      | some x => x.kind == kA && x.firstOp == t.firstOp && x.f 0x33 1 == 0 && x.f 0x2E 2 == t.f 0x2E 2 && x.f 0x30 2 == kvc
      | none => false), o + 0x3A),
    (decide (1 ≤ t.f 0x3C 4) && decide (t.f 0x3C 4 ≤ 1048576), o + 0x3C), (t.f 0x40 4 == fieldAt a 0 4, o + 0x40),
    (t.f 0x44 4 == 0, o + 0x44),
    (if t.f 0x38 2 = 0 then t.f 0x48 8 == 0 else s.goodAddr g (t.f 0x48 8) (4 * t.f 0x38 2), o + 0x48),
    (if t.f 0x22 1 = 3 then s.goodAddr g (t.f 0x50 8) 1024 else t.f 0x50 8 == 0, o + 0x50)] ++
  chkDst t o false ++
  [(!partialSet || t.dst == [merge], o + 0x58)] ++ chkBufs t o ++
  [ (decide (t.tMax * qrow ≤ t.f 0x64 4), o + 0x64), (decide (2 * kvc * pageBytes 0 dh ≤ t.f 0x6C 4), o + 0x6C),
    (t.f 0x78 4 == 0, o + 0x78), (zeroAt t.raw 0x7C 132, o + 0x7C)]

/-- The fields that V, G, L and S descriptors share (R141, R142). -/
def chkShared (t : Stage) (o : Nat) : List Rule :=
  let k := t.kind
  let scatterOnly := k == kG && decide (0 < t.opCount) && (List.range t.opCount).all (fun i => t.e i 0 1 == 3)
  [ (decide (t.opCount ≤ entryMax k), o + 0xC), (decide (1 ≤ t.tMax) && decide (t.tMax ≤ 4096), o + 0x24),
    (t.f 0x26 2 == 0, o + 0x26)] ++ chkBufs t o ++ chkDst t o scatterOnly ++
  (List.range (entryMax k)).map (fun i => unusedEntry t o i (entrySize k))

/-- The format fields of a stage descriptor, as offset in it (R111). -/
def Stage.fmtFields (t : Stage) : List Nat :=
  if t.kind = kM then [0x20, 0x21, 0x22] else if t.kind = kA then [0x20, 0x21] else if t.kind = kS then [0x41]
  else (List.range (min t.opCount (entryMax t.kind))).flatMap (fun i =>
    if t.kind = kV then [entryOff kV i + 1, entryOff kV i + 2] else [entryOff t.kind i + 1])

/-- A stage descriptor's own rules: a format field that holds no code of Table 4.3 (R111), and code 0x0017 (Table 2.12). -/
def chkStage (s : State) (g : Image) (t : Stage) (o : Nat) : Chk :=
  let common : List Rule := [
    (decide (t.kind ≤ 5) && t.kind == kindOf t.cell, o + 2), (t.f 3 1 == 1, o + 3), (t.f 7 1 == 0, o + 7), (t.f 0xE 2 == 0, o + 0xE),
    (decide (t.startNs < t.finishNs) && decide (256 < t.finishNs), o + 0x14)]
  broken 0x0017 common <|> broken 0x0003 (t.fmtFields.map (fun k => (isFmt (t.f k 1), o + k))) <|>
    (if t.kind = kM then broken 0x0017 (chkM s g t o)
     else if t.kind = kA then broken 0x0017 (chkA s g t o)
     else broken 0x0017 (chkShared t o) <|>
      firstFail ((List.range t.opCount).flatMap (fun i =>
        let p := g.oper (t.firstOp + i)
        if t.kind = kV then [broken 0x0017 (chkV g t o i p)]
        else if t.kind = kG then chkG s g t o i p
        else if t.kind = kL then [broken 0x0017 (chkL g t o i)]
        else [broken 0x0017 (chkS t o p)])))

/-- Codes 0x0014 to 0x001A. -/
def chkPlan (s : State) (g : Image) (ro : Nat) (b : List Byte) : Chk :=
  let so := fieldAt b 0x40 8
  let st0 := fieldAt b 0x48 8
  let nm := fieldAt b 0x70 4
  let shf := g.sheafs.zip (List.range g.sheafs.length)
  let stg := (g.stages.zip (List.range g.stages.length)).map (fun e => (e.1, st0 + 256 * e.2))
  let others := s.jobs.flatMap (fun j => (s.prog j).img.cells)
  broken 0x0014 ([(g.sheafs.any (fun d => d.id == 0), 0x40)] ++
    shf.flatMap (fun e => chkSheaf s g nm (g.sheafs.take e.2) e.1 (so + 64 * e.2)) ++ stg.flatMap (fun e => chkStageSheaf g e.1 e.2)) <|>
  broken 0x0015 (shf.map (fun e => (e.1.role == 0xFFFF || decide (e.1.role < g.roleClasses.length), so + 64 * e.2 + 0x1C)) ++
    (List.range g.roleClasses.length).map (fun r => (g.sheafs.any (fun d => d.role == r), ro + 16 * r))) <|>
  broken 0x0016 (stg.map (fun e => (s.usable e.1.cell, e.2))) <|>
  firstFail (stg.map (fun e => chkStage s g e.1 e.2)) <|>
  broken 0x0018 (stg.flatMap (fun e =>
    [ (stg.all (fun x => decide (e.2 ≤ x.2) || x.1.cell != e.1.cell), e.2),
      (decide (e.1.firstOp < g.ops.length), e.2 + 8), (e.1.opCount != 0 && decide (e.1.firstOp + e.1.opCount ≤ g.ops.length), e.2 + 0xC),
      ((g.opsOf e.1).all (fun x => opKind x.2.opcode == e.1.kind), e.2 + 8)])) <|>
  broken 0x0019 (stg.map (fun e => (!others.contains e.1.cell, e.2)) ++
    shf.map (fun e => (e.1.mtype != 0 || !e.1.members.any others.contains, so + 64 * e.2 + 0x18))) <|>
  broken 0x001A (shf.flatMap (fun e => if e.1.mtype = 0 then
    (List.range 6).map (fun k => (decide (e.1.required k ≤ (e.1.members.filter (fun c =>
      kindOf c == k && !g.hasStage c && s.usable c)).length), so + 64 * e.2 + 8)) else []))

/-! ## Placements: code 0x001B -/

/-- The physical ranges of the prefix region: the top mib MiB of the populated range of each channel with local row 0
(R223). -/
def State.prefixRanges (s : State) : List (Nat × Nat) :=
  let n := s.getF F.pfxCfg_mib * 1048576
  if n = 0 then [] else
    (allCells.filter (fun c => cellRow c % 4 == 0)).map (fun c => (c * chanWindow + chanBytes - n, n))

/-- Two physical ranges, as start and length, overlap. -/
def meets (a b : Nat × Nat) : Bool := decide (a.1 < b.1 + b.2) && decide (b.1 < a.1 + a.2)

/-- The physical ranges of a device range, near or in a spread entry of an image. -/
def Image.rangesOf (g : Image) (a n : Nat) : List (Nat × Nat) :=
  if isPhys a then [(a, n)] else
    match g.places.find? (fun p => p.spread && decide (p.addr ≤ a) && decide (a < p.addr + p.len)) with
    | some p => p.physRanges
    | none => []

/-- The page pools and state pools of an image. -/
def Image.pools (g : Image) : List (Nat × Nat) :=
  g.kvEntries.flatMap (fun e => g.rangesOf e.2.2.pool e.2.2.poolBytes ++ g.rangesOf e.2.2.state (e.2.2.slots * e.2.2.slotBytes))

/-- The channels that hold any part of a page pool or state pool of an image (R219). -/
def Image.poolChans (g : Image) : List Nat :=
  (rangeChans g.pools ++ g.scans.flatMap (fun e => match g.scanState e.2.2 with
    | some (p, _) => rangeChans p.physRanges
    | none => [])).eraseDups

def chkPlaces (s : State) (g : Image) (b : List Byte) : Chk :=
  let po := fieldAt b 0x58 8
  let mo := fieldAt b 0x68 8
  let nm := fieldAt b 0x70 4
  let es := (g.places.zip (List.range g.places.length)).map (fun e => (e.1, po + 32 * e.2))
  let other := s.jobs.map (fun j => (s.prog j).img)
  let taken := other.flatMap (fun x => x.places.flatMap Place.physRanges ++ x.pools) ++ s.prefixRanges
  let spreads := other.flatMap (fun x => x.places.filter (fun p => p.spread))
  broken 0x001B (es.flatMap (fun e =>
    let p := e.1
    let o := e.2
    let c := fieldAt b (o + 6) 2
    let k := fieldAt b (o + 0x18) 4
    [ (decide (p.tensor < g.tensors.length), o), (decide (fieldAt b (o + 4) 1 ≤ 1), o + 4), (zeroAt b (o + 5) 1, o + 5),
      (if p.spread then decide (2 ≤ c) && decide (c ≤ 256) else c == 1, o + 6), (p.len != 0, o + 0x10),
      (zeroAt b (o + 0x1C) 4, o + 0x1C)] ++
    (if p.spread then [
      (isSpread p.addr && decide (p.addr + p.len ≤ 2 ^ 42), o + 8),
      (decide (k + c + 2 ≤ nm) && decide (poolAt b mo k + 65536 * poolAt b mo (k + 1) < chanBytes / 4096) &&
        p.chans.all s.chanServes && p.chans.eraseDups.length == c, o + 0x18),
      (decide (p.base + ceilDiv p.len (4096 * max c 1) * 4096 ≤ chanBytes), o + 0x10),
      ((spreads ++ (es.filter (fun x => x.2 != o)).map (fun x => x.1)).all (fun x => !x.spread ||
        !meets (p.addr, p.len) (x.addr, x.len)), o + 8)]
     else [
      (isPhys p.addr && s.chanServes (chanAt p.addr), o + 8), (decide (offAt p.addr + p.len ≤ chanBytes), o + 0x10)]) ++
    [(p.physRanges.all (fun r => (taken ++ (es.filter (fun x => x.2 != o)).flatMap (fun x => x.1.physRanges)).all
      (fun x => !meets r x)), o + 8)]))

/-! ## Proof of fit and span: codes 0x001C to 0x001F -/

def chkProof (s : State) (g : Image) (b : List Byte) : Chk :=
  let o := fieldAt b 0x60 8
  let f := fun k n => fieldAt b (o + k) n
  let crit := maxList (g.stages.map (fun t => t.finishNs))
  let worst := maxList (g.stages.map (fun t => t.nearBytes))
  let used := fun k => (g.stages.filter (fun t => t.kind == k)).length
  let idle := fun k => ((g.cells.filter (fun c => kindOf c == k)).filter (fun c => !g.hasStage c)).length
  let live := (allCells.filter s.chanServes).length
  broken 0x001C ([
    (f 0 4 == crit, o), (f 4 4 == g.retryNs, o + 4)] ++
    (List.range 6).map (fun k => (f (8 + 2 * k) 2 == used k, o + 8 + 2 * k)) ++
    (List.range 5).map (fun k => (f (0x14 + 2 * k) 2 == idle (k + 1), o + 0x14 + 2 * k)) ++ [
    (f 0x1E 2 == 0, o + 0x1E), (f 0x20 8 == (g.places.map (fun p => p.len)).foldl (· + ·) 0, o + 0x20),
    (f 0x28 8 == worst, o + 0x28), (f 0x30 4 == ceilDiv (worst * 10) 1216, o + 0x30), (f 0x34 4 == g.ringNs, o + 0x34),
    (zeroAt b (o + 0x38) 8, o + 0x38), (zeroAt b (o + 0x60) 32, o + 0x60)]) <|>
  broken 0x001D ([
    (decide (crit ≤ s.activeRun), o), (decide (f 4 4 ≤ crit), o + 4)] ++
    (List.range 6).map (fun k => (decide (used k ≤ s.countUsable g.cells k), o + 8 + 2 * k)) ++
    (List.range 5).map (fun k => (decide ((g.leaves.map (fun d => d.required (k + 1))).foldl (· + ·) 0 ≤ idle (k + 1)),
      o + 0x14 + 2 * k)) ++ [
    (decide (f 0x20 8 ≤ live * chanBytes), o + 0x20), (decide (f 0x30 4 ≤ crit), o + 0x30), (decide (f 0x34 4 ≤ crit), o + 0x34)])

/-- Ring row and column of a part (Table 2.8). -/
def partRow (p : Nat) : Nat := p / 32 % 32
def partCol (p : Nat) : Nat := p % 32

/-- Whether parts share one ring row, or one ring column. -/
def oneRow (ps : List Nat) : Bool := decide ((ps.map partRow).eraseDups.length ≤ 1)
def oneCol (ps : List Nat) : Bool := decide ((ps.map partCol).eraseDups.length ≤ 1)

/-- The spans (R547). -/
def chkSpan (s : State) (g : Image) (b : List Byte) : Chk :=
  let own := s.getF F.lnkRing_own
  let pp := g.sheafs.filter (fun d => d.mtype == 2)
  let stg := (g.stages.zip (List.range g.stages.length)).filter (fun e => e.1.kind == kL)
  broken 0x001E ([
    (g.span == 0 || !pp.isEmpty, 0x35), (g.span != 2 || pp.any (fun d => !oneRow d.members), 0x35)] ++
    stg.flatMap (fun e => (List.range e.1.opCount).map (fun i =>
      let sp := e.1.e i 2 1
      let ps := g.parts (e.1.e i 0xA 2)
      (sp == 0 || ((g.span == 2 || (g.span == 1 && sp == 1)) && !ps.isEmpty &&
        (sp != 1 || (ps.map partRow).all (fun r => r == partRow own)) &&
        (sp != 2 || (ps.map partCol).all (fun c => c == partCol own)) &&
        (sp != 3 || (!oneRow ps && !oneCol ps))), fieldAt b 0x48 8 + 256 * e.2 + entryOff kL i + 2))))

/-- A digest of the same sheaf of parts that a member part has sent differs (R60). -/
def chkParts (s : State) (g : Image) (b : List Byte) : Chk :=
  broken 0x001F ((g.sheafs.zip (List.range g.sheafs.length)).map (fun e =>
    (e.1.mtype != 2 || ((s.sheaf e.1.id).digests.all (fun d => !e.1.members.contains d.1 || d.2 == shake256 e.1.raw 32)),
      fieldAt b 0x40 8 + 64 * e.2)))

/-- Every check of Table 2.12, in its order. -/
def loadChecks (s : State) (j b : List Byte) (jLen sLen : Nat) : Chk :=
  chkJofort j jLen <|> chkSchedHeader b sLen <|>
  broken 0x0011 [(slice b 0x10 32 == shake256 j 32, 0x10)] <|>
  (let po := fieldAt b 0x60 8
   broken 0x0012 [(slice b (po + 0x40) 32 == shake256 (b.take po) 32, po + 0x40)]) <|>
  chkFit s b <|>
  (let g := parseImage j b
   chkPlan s g (fieldAt j 0x30 8) b <|> chkPlaces s g b <|> chkProof s g b <|> chkSpan s g b <|> chkParts s g b)

end Sys2Proof.Machine
end

