-- ==== Sys2Proof/Machine/Chute.lean ====
section
/-! DEFINITION. The Chute DMA engine (R382 to R389, R391) and the host memory errors that stop it (R358, R387). -/

namespace Sys2Proof.Machine

/-! ## Descriptors (Table 12.12) -/

structure Desc where
  next : Nat := 0
  src : Nat := 0
  dst : Nat := 0
  len : Nat := 0
  srcDev : Bool := false
  dstDev : Bool := false
  nextDev : Bool := false
  last : Bool := false
  wb : Nat := 0
  irq : Bool := false
  crcMode : Nat := 0
  seed : Nat := 0
  reservedOk : Bool := true
  deriving DecidableEq, Repr

/-- A descriptor from its 64 bytes. -/
def Desc.parse (b : List Byte) : Desc :=
  let fl := fieldAt b 0x1C 2
  { next := fieldAt b 0 8, src := fieldAt b 8 8, dst := fieldAt b 0x10 8, len := fieldAt b 0x18 4,
    srcDev := bitOf fl 0, dstDev := bitOf fl 1, nextDev := bitOf fl 2, last := bitOf fl 3, wb := bitsOf fl 4 2,
    irq := bitOf fl 6, crcMode := fieldAt b 0x1E 1 % 4, seed := fieldAt b 0x20 4,
    reservedOk := bitsOf fl 7 9 == 0 && decide (fieldAt b 0x1E 1 < 4) && zeroAt b 0x1F 1 && zeroAt b 0x24 4 && zeroAt b 0x30 16 }

/-- A channel's record, and setting it. -/
def State.chute (s : State) (ch : Nat) : ChuteSt := tget {} s.chutes ch
def State.setChute (s : State) (ch : Nat) (x : ChuteSt) : State := { s with chutes := tput {} s.chutes ch x }

/-- The owner of a channel, and whether it is running. -/
def State.chuteOwner (s : State) (ch : Nat) : Nat := s.getF F.chuCfg_owner ch
def State.chuteRuns (s : State) (ch : Nat) : Bool := s.onF F.chuStat_running ch

/-- A device range lies in the owner's HST_FWIN range; the physical function's channels have no bound (R382, R391). -/
def State.inFwin (s : State) (ch a n : Nat) : Bool :=
  let f := s.chuteOwner ch
  f == 0 || (isPhys a && decide (s.getF F.hstFwin_base f * 2 ^ 20 ≤ a) &&
    decide (a + max n 1 ≤ (s.getF F.hstFwin_limit f + 1) * 2 ^ 20))

/-- A descriptor is rejected (R382). -/
def State.rejects (s : State) (ch : Nat) (d : Desc) : Bool :=
  !d.reservedOk || d.crcMode == 3 || (!d.srcDev && !d.dstDev) || (d.srcDev && !s.inFwin ch d.src d.len) ||
  (d.dstDev && !s.inFwin ch d.dst d.len) || (d.nextDev && !d.last && !s.inFwin ch d.next 64)

/-- The running CRC at a descriptor's start, by its mode (R383). -/
def crcStart (mode seed : Nat) (prev : BitVec 32) : BitVec 32 := if mode = 1 then BitVec.ofNat 32 seed else prev

/-- What a device access of Chute meets: 0 nothing, else the status of Table 12.13. -/
def State.chuteMeets (s : State) (a n : Nat) (write : Bool) : Nat :=
  if s.addrError a n then 3 else if s.errResponse a n then 8
  else if write then (if (s.partWords a n).any (fun w => s.wordErr w == 2) then 4 else 0)
  else if !(s.badWords a n).isEmpty then 4 else 0

/-- Records the uncorrectable words that Chute met, and counts the corrected ones. -/
def State.chuteWords (s : State) (ch a n : Nat) (write : Bool) : State :=
  let bad := if write then (s.partWords a n).filter (fun w => s.wordErr w == 2) else s.badWords a n
  let soft := if write then (s.partWords a n).filter (fun w => s.wordErr w == 1) else s.softWords a n
  let s := soft.foldl (fun s w => s.softWord w) s
  bad.foldl (fun s w => s.ueRecord
    { reader := 2, outcome := if s.isLost w then 0x80 else 0, unit := chanAt (8 * w), word := w, consumer := ch }) s

/-- What a failed device access of Chute leaves behind: its words or its address error counted, the wrapper's responses. -/
def State.chuteMet (s : State) (ch a n : Nat) (write : Bool) (st : Nat) : State :=
  if st = 3 then s.countAddr a n else if st = 8 then s.countWrapped none a n
  else (s.forceRefreshes a n).chuteWords ch a n write

/-- Moves a descriptor's bytes from an offset, 256 at a time in ascending order (R385); stops with a status at the
first transfer that fails. The running CRC covers what was read. -/
def State.chuteMove (d : Desc) (ch : Nat) : Nat → Nat → BitVec 32 → State → State × Nat × BitVec 32
  | 0, _, crc, s => (s, 0, crc)
  | f + 1, o, crc, s =>
    if d.len ≤ o then (s, 0, crc)
    else
      let n := min 256 (d.len - o)
      let st := if d.srcDev then s.chuteMeets (d.src + o) n false else 0
      let s := if d.srcDev then s.chuteMet ch (d.src + o) n false st else s
      if st != 0 then (s, st, crc)
      else
        let bs := if d.srcDev then s.readDev (d.src + o) n else mread s.hostMem (d.src + o) n
        let st := if d.dstDev then s.chuteMeets (d.dst + o) n true else 0
        let s := if d.dstDev then s.chuteMet ch (d.dst + o) n true st else s
        if st != 0 then (s, st, crc)
        else
          let s := if d.dstDev then s.writeDev (d.dst + o) bs else { s with hostMem := mwrite s.hostMem (d.dst + o) bs }
          let s := s.putF F.chuStat_moved ch (o + n)
          State.chuteMove d ch f (o + n) (if d.crcMode == 0 then crc else crc32c crc bs) s

/-- The 8 bytes of a result (Table 12.12). -/
def resultBytes (status : Nat) (crc : BitVec 32) : List Byte := leBytes 4 crc.toNat ++ leBytes 1 status ++ [1, 0, 0]

/-- Writes a result of a channel at a descriptor's address + 0x28: 0, or the status with which a device write fails. -/
def State.putResult (s : State) (ch : Nat) (at_ : Nat × Bool) (status : Nat) (crc : BitVec 32) : State × Nat :=
  let b := resultBytes status crc
  if at_.2 then
    let st := s.chuteMeets (at_.1 + 0x28) 8 true
    let s := s.chuteMet ch (at_.1 + 0x28) 8 true st
    (if st = 0 then s.writeDev (at_.1 + 0x28) b else s, st)
  else ({ s with hostMem := mwrite s.hostMem (at_.1 + 0x28) b }, 0)

/-- The address of the current descriptor. -/
def State.chuteAt (s : State) (ch : Nat) : Nat × Bool := (s.chute ch).cur

/-- Makes CHU_HEAD show a descriptor's address. -/
def State.putHead (s : State) (ch : Nat) (at_ : Nat × Bool) : State :=
  (s.putF F.chuHead_addr ch at_.1).putF F.chuHead_dev ch (bit at_.2)

/-- Stops a channel with a status: CHU_HEAD holds the address of the current descriptor and CHU_CRC stays at its start, so that
a go runs it again (R386). -/
def State.chuteStop (s : State) (ch status : Nat) : State :=
  let s := s.putHead ch (s.chuteAt ch)
  let s := s.setChute ch { s.chute ch with fetchDue := false, first := false }
  ((s.putF F.chuStat_running ch 0).putF F.chuStat_status ch status).putF F.chuCtl_go ch 0

/-- Signals a channel's vector. -/
def State.chuteSignal (s : State) (ch : Nat) (irq : Bool) : State :=
  if irq then s.signal (s.chuteOwner ch) (s.getF F.chuCfg_vector ch) else s

/-- The channel whose use by Chute waits for a maintenance window holds a placement, a page pool or a state pool of an active
program (R389). -/
def State.programChans (s : State) : List Nat :=
  s.activeJobs.flatMap (fun j => let g := (s.prog j).img
    rangeChans (g.places.flatMap Place.physRanges) ++ g.poolChans)

/-- A device access of Chute waits: for a held channel (R260), the copy of its row (R306), a flail command before it (R287), or
the maintenance window where its channel belongs to an active program (R389). -/
def State.chuteWaits (s : State) (a n : Nat) : Bool :=
  !s.addrError a n && !s.errResponse a n &&
  (s.heldInWay a n || s.copyInWay a n || s.flailInWay a n s.arrivals ||
    (!s.tick.windowOpen && (s.chansTouched a (max n 1)).any s.programChans.contains))

/-- A result owed is written, followed by its descriptor's signal. Where its device access has to wait it joins the accesses that wait
(R389). -/
def State.putOwedOne (s : State) (ch : Nat) (e : (Nat × Bool) × Bool) (status : Nat) (crc : BitVec 32) : State :=
  if e.1.2 && s.chuteWaits (e.1.1 + 0x28) 8 then
    let a : WaitAcc := { reader := .chute (BitVec.ofNat 5 ch), addr := e.1.1 + 0x28, len := 8, write := some (resultBytes status crc)
                         since := s.now, no := s.arrivals, result := some e.2 }
    { s with accWait := s.accWait ++ [s.keptBy a], arrivals := s.arrivals + 1 }
  else (s.putResult ch e.1 status crc).1.chuteSignal ch e.2

/-- The results owed at the chain's end are written, each followed by its descriptor's signal. -/
def State.putOwed (s : State) (ch : Nat) (owed : List ((Nat × Bool) × Bool)) (status : Nat) (crc : BitVec 32) : State :=
  owed.foldl (fun s e => s.putOwedOne ch e status crc) s

/-- Stops a channel at the end of its chain or at a failure that writes a result (R384, R386): this descriptor's own
result and those owed at the chain's end. A result that cannot be written is the chain's failure. -/
def State.chuteEnd (s : State) (ch : Nat) (d : Desc) (status : Nat) (crc : BitVec 32) : State :=
  let here := s.chuteAt ch
  let before := (s.chute ch).owedResults
  let (s, st) := if d.wb == 1 then s.putResult ch here status crc else (s, 0)
  let status := if st = 0 then status else st
  let s := if d.wb == 2 then s else s.chuteSignal ch d.irq
  let s := s.putOwed ch (before ++ (if d.wb == 2 then [(here, d.irq)] else [])) status crc
  let s := s.setChute ch { s.chute ch with owedResults := if status == 1 then [] else before }
  s.chuteStop ch status

/-- Fetches the current descriptor into CHU_DESC0 to CHU_DESC7; a device fetch may fail with a status. -/
def State.chuteFetch (s : State) (ch : Nat) : State × Nat :=
  let (a, dev) := s.chuteAt ch
  let st := if dev then (if s.inFwin ch a 64 then s.chuteMeets a 64 false else 2) else 0
  let s := if dev && st != 2 then s.chuteMet ch a 64 false st else s
  if st != 0 then (s, st)
  else
    let b := if dev then s.readDev a 64 else mread s.hostMem a 64
    let put := fun s (f : Fld) i => State.putF s f ch (fieldAt b (8 * i) 8)
    let s := [(F.chuDesc0_word, 0), (F.chuDesc1_word, 1), (F.chuDesc2_word, 2), (F.chuDesc3_word, 3),
      (F.chuDesc4_word, 4), (F.chuDesc5_word, 5), (F.chuDesc6_word, 6), (F.chuDesc7_word, 7)].foldl
        (fun s e => put s e.1 e.2) s
    (s, 0)

/-- The 64 bytes of the descriptor that a channel holds. -/
def State.chuteHolds (s : State) (ch : Nat) : List Byte :=
  [F.chuDesc0_word, F.chuDesc1_word, F.chuDesc2_word, F.chuDesc3_word, F.chuDesc4_word, F.chuDesc5_word,
   F.chuDesc6_word, F.chuDesc7_word].flatMap (fun f => leBytes 8 (s.getF f ch))

/-- Fetches the current descriptor, or leaves the fetch to wait (R389); a fetch that fails ends the chain: the results owed are
written and the channel stops (R384, R386). -/
def State.chuteFetchOrStop (s : State) (ch : Nat) : State :=
  let (a, dev) := s.chuteAt ch
  if dev && s.chuteWaits a 64 then s.setChute ch { s.chute ch with fetchDue := true }
  else
    let (s, st) := s.chuteFetch ch
    let s := s.setChute ch { s.chute ch with fetchDue := false }
    if st = 0 then s
    else
      (s.putOwed ch (s.chute ch).owedResults st (BitVec.ofNat 32 (s.getF F.chuCrc_crc ch))).chuteStop ch st

/-- The device ranges that the end of a descriptor needs: what it moves, its own result, the results owed at the chain's end. -/
def State.chuteRanges (s : State) (ch : Nat) (d : Desc) : List (Nat × Nat) :=
  (if d.srcDev then [(d.src, d.len)] else []) ++ (if d.dstDev then [(d.dst, d.len)] else []) ++
  ((if d.wb != 0 then [s.chuteAt ch] else []) ++ (if d.last then (s.chute ch).owedResults.map (fun e => e.1) else [])).filterMap
    (fun a => if a.2 then some (a.1 + 0x28, 8) else none)

/-- The channel holds its descriptor, and none of the descriptor's device accesses has to wait. -/
def State.chuteMayMove (s : State) (ch : Nat) (d : Desc) : Bool :=
  !(s.chute ch).fetchDue && (s.chuteRanges ch d).all (fun r => !s.chuteWaits r.1 r.2)

/-- The channel goes on to its next descriptor: the result is written or owed, the signal given, the next fetched. -/
def State.chuteNext (s : State) (ch : Nat) (d : Desc) (crc : BitVec 32) : State :=
  let here := s.chuteAt ch
  let (s, bad) := if d.wb == 1 then s.putResult ch here 1 crc else (s, 0)
  if bad != 0 then s.chuteEnd ch { d with wb := 0 } bad crc
  else
  let s := if d.wb == 2 then s else s.chuteSignal ch d.irq
  let st := s.chute ch
  let s := s.setChute ch { st with
    cur := (d.next, d.nextDev), owedResults := if d.wb == 2 then st.owedResults ++ [(here, d.irq)] else st.owedResults }
  (((s.putHead ch (d.next, d.nextDev)).putF F.chuCrc_crc ch crc.toNat).putF F.chuStat_moved ch 0).chuteFetchOrStop ch

/-- The current descriptor ends (R383 to R386): it is checked, its bytes move, its result is written, and the channel
goes on to the next or stops. -/
def opDescriptorDone (ch : Nat) (s : State) : State :=
  let s := if s.chuteRuns ch && (s.chute ch).fetchDue then s.chuteFetchOrStop ch else s
  let d := Desc.parse (s.chuteHolds ch)
  if !s.chuteRuns ch || !s.chuteMayMove ch d then s
  else
    let c0 := BitVec.ofNat 32 (s.getF F.chuCrc_crc ch)
    if s.rejects ch d then s.chuteEnd ch d 2 c0
    else
      let start := crcStart d.crcMode d.seed c0
      let badSrc := d.srcDev && d.len != 0 && s.addrError d.src d.len
      let badDst := d.dstDev && d.len != 0 && s.addrError d.dst d.len
      if badSrc then (s.countAddr d.src d.len).chuteEnd ch d 3 start
      else if badDst then (s.countAddr d.dst d.len).chuteEnd ch d 3 start
      else
        let (s, st, crc) := State.chuteMove d ch (d.len / 256 + 1) 0 start s
        if st != 0 then s.chuteEnd ch d st crc
        else
          let s := s.bump F.chuCrc_done ch
          if d.last then s.chuteEnd ch d 1 crc else s.chuteNext ch d crc

/-- A write of 1 to CHU_CTL.go (R386, R387): ignored while the channel runs or CHU_ERR.valid is set. A go at a
descriptor that software has named starts a chain with CRC 0; a go after a stop runs the current descriptor again. -/
def opChuteGo (ch : Nat) (s : State) : State :=
  if s.chuteRuns ch || s.onF F.chuErr_valid then s
  else
    let st := s.chute ch
    let s := if st.first then s.putF F.chuCrc_crc ch 0 else s
    let s := s.setChute ch { st with
      first := false, owedResults := if st.first then [] else st.owedResults,
      cur := (s.getF F.chuHead_addr ch, s.onF F.chuHead_dev ch) }
    let s := (((s.putF F.chuStat_running ch 1).putF F.chuCtl_go ch 1).putF F.chuCrc_done ch 0).putF F.chuStat_moved ch 0
    s.chuteFetchOrStop ch

/-- A write of 1 to CHU_CTL.abort: the channel stops after the transfer in progress with status 0x07. -/
def opChuteAbort (ch : Nat) (s : State) : State := if s.chuteRuns ch then s.chuteStop ch 7 else s

/-- The channel with the lowest number that owns a failing request, when it is known. -/
def State.chuteBusError (s : State) (ch : Option Nat) (fetch : Bool) (cause fn addr : Nat) : State :=
  let s := (List.range 32).foldl (fun s c => if s.chuteRuns c then s.chuteStop c 5 else s) s
  let s := (((((s.putF F.chuErr_valid 0 1).putF F.chuErr_known 0 (bit ch.isSome)).putF F.chuErr_channel 0
    (ch.getD 0)).putF F.chuErr_fetch 0 (bit fetch)).putF F.chuErr_cause 0 cause).putF F.chuErr_function 0 fn
  let s := s.putF F.chuErrAddr_addr 0 addr
  s.raise 0x51 0xB (ch.getD 0) (s.reg R.chuErr 0)

/-! ## The rows -/

/-- CHUTE_GO (R386). -/
def execChuteGo (by_ : Requester) (s : State) : Host.Outcome State Fault Refusal :=
  run (fun s => if s.writes by_ R.chuCtl.off then opChuteGo (s.sel by_ F.chuSel_channel) s else s) s

/-- CHUTE_ABORT (R386). -/
def execChuteAbort (by_ : Requester) (s : State) : Host.Outcome State Fault Refusal :=
  run (fun s => if s.writes by_ R.chuCtl.off then opChuteAbort (s.sel by_ F.chuSel_channel) s else s) s

/-- CHUTE_DESCRIPTOR_DONE (R381 to R386). -/
def execChuteDescriptorDone (ch : BitVec 5) (s : State) : Host.Outcome State Fault Refusal :=
  run (opDescriptorDone ch.toNat) s

/-- CHUTE_ERROR_CLEAR: a write of 1 to CHU_ERR.valid (R387). -/
def execChuteErrorClear (s : State) : Host.Outcome State Fault Refusal :=
  run (fun s => if s.writes .host R.chuErr.off then s.putF F.chuErr_valid 0 0 else s) s

/-- COMPLETION_TIMEOUT on a Chute read of host memory: a host bus error of cause 0b011 (R387, R391). -/
def execCompletionTimeout (ch : Option (BitVec 5)) (fetch : Bool) (fn : BitVec 6) (addr : Word) (s : State) :
    Host.Outcome State Fault Refusal :=
  run (fun s => s.chuteBusError (ch.map BitVec.toNat) fetch 3 fn.toNat addr.toNat) s

end Sys2Proof.Machine
end

