-- ==== Sys2Proof/Machine/Pages.lean ====
section
/-! DEFINITION. KV pages: pools, page tables and page headers in device memory, reference counts, and the prefix table
with its region (R202 to R209, R213, R216, R223 to R227, R230 to R234). -/

namespace Sys2Proof.Machine

/-! ## Page pools -/

/-- The key of a pool slot: job, KVAPPEND cell, entry, slot. -/
def poolKey (job cell entry slot : Nat) : Nat := ((job * 1024 + cell) * 4 + entry) * 2 ^ 24 + slot

def State.poolSlot (s : State) (k : Nat) : PageSlot := tget {} s.ctl.pools k
def State.setPoolSlot (s : State) (k : Nat) (x : PageSlot) : State :=
  { s with ctl := { s.ctl with pools := tput {} s.ctl.pools k x } }

/-- A list of a program: KVAPPEND cell, entry, its fields, head within the entry (R202). -/
structure ListId where
  cell : Nat
  entry : Nat
  e : KvEntry
  head : Nat
  deriving DecidableEq, Repr

/-- The lists of a program, by KVAPPEND cell, entry and head, ascending (Table 7.8). -/
def Image.lists (g : Image) : List ListId :=
  (sortBy (fun x => x.1 * 4 + x.2.1) g.kvEntries).flatMap (fun x =>
    (List.range x.2.2.kvCnt).map (fun h => { cell := x.1, entry := x.2.1, e := x.2.2, head := h }))

/-- The image of a job. -/
def State.image (s : State) (j : Nat) : Image := (s.prog j).img

/-- A page identifier: slot [23:0], epoch [31:24]. -/
def pageId (slot epoch : Nat) : Nat := slot + epoch % 256 * 2 ^ 24
def noPage : Nat := 0xFFFFFFFF

/-! ## Page tables (R209) -/

/-- The device address of a stream's slot of an entry's state pool, and of a page-table entry in it. -/
def KvEntry.slotAt (e : KvEntry) (slot : Nat) : Nat := e.state + slot * e.slotBytes
def KvEntry.tableAt (e : KvEntry) (slot head block : Nat) : Nat := e.slotAt slot + (head * e.blocks + block) * 16

/-- The device address of the 64 scores of a block in copy c. -/
def KvEntry.scoresAt (e : KvEntry) (slot c head block : Nat) : Nat :=
  e.slotAt slot + e.kvCnt * e.blocks * 16 + ((c * e.kvCnt + head) * e.blocks + block) * 256

/-! ## Words met by the page and prefix machinery (R296, R297, R302, Table 10.3) -/

/-- The words that the page or prefix machinery reads or writes in part for a program: corrected ones are counted and queued, uncorrectable
ones recorded; whether none is uncorrectable. -/
def State.checkWords (s : State) (j : Nat) (ws : List Nat) : State × Bool :=
  let s := (ws.filter (fun w => s.wordErr w == 1)).foldl (fun s w => s.softWord w) s
  let bad := ws.filter (fun w => s.wordErr w == 2)
  (bad.foldl (fun s w => s.ueRecord {
    reader := 7, outcome := if s.isLost w then 0x80 else 0, unit := chanAt (8 * w), word := w, job := j }) s, bad.isEmpty)

/-- An access of the page or prefix machinery reaches its words from the hub die: none where a channel is retired, which counts it (R242), or
answers with an error response, or an isolation wrapper does (R260, R268, R350); the banks that owe 8 refreshes are refreshed first
(R252). -/
def State.reachWords (s : State) (ws : List Nat) : State × Bool :=
  let cs := (ws.map (fun w => chanAt (8 * w))).eraseDups
  match cs.find? (fun c => s.chanState c == vccRetired) with
  | some c => (s.bump F.vccErr_addr c, false)
  | none =>
    let ls := ((cs.map cellTower).eraseDups).filter (fun l => s.onF F.d2dStat_wrapper l)
    if cs.any s.chanErrs then (s, false)
    else if !ls.isEmpty then (ls.foldl (fun s l => s.bump F.d2dErr_wrapper l) s, false)
    else (((ws.map (fun w => (chanAt (8 * w), bankInChan w))).eraseDups).foldl (fun s b => s.forceRefresh b.1 b.2) s, true)

/-- An access of the page or prefix machinery to words, of which it needs some as they stand; whether it succeeds. -/
def State.touchWords (s : State) (j : Nat) (ws needs : List Nat) : State × Bool :=
  match s.reachWords ws with
  | (s, false) => (s, false)
  | (s, true) => s.checkWords j needs

/-- A read by the page machinery of n bytes: whether it succeeds. -/
def State.touchRead (s : State) (j a n : Nat) : State × Bool := s.touchWords j (s.wordsTouched a n) (s.wordsTouched a n)

/-- A write by the page machinery: dropped where it does not reach its words, or would cover part of one that cannot be corrected (R297). -/
def State.touchWrite (s : State) (j a : Nat) (bs : List Byte) : State :=
  match s.touchWords j (s.wordsTouched a bs.length) (s.partWords a bs.length) with
  | (s, true) => s.writeDev a bs
  | (s, false) => s

/-- A page-table entry: page identifier, score selector, live mask. -/
structure TableEntry where
  page : Nat := 0xFFFFFFFF
  sel : Nat := 0
  live : Nat := 0
  deriving DecidableEq, Repr

def TableEntry.bytes (t : TableEntry) : List Byte := leBytes 4 t.page ++ leBytes 4 t.sel ++ leBytes 8 t.live

def State.tableEntry (s : State) (l : ListId) (slot block : Nat) : TableEntry :=
  let b := s.readDev (l.e.tableAt slot l.head block) 16
  { page := fieldAt b 0 4, sel := fieldAt b 4 4 % 2, live := fieldAt b 8 8 }

/-- The entry as the page machinery reads it for a program: none where the access fails. -/
def State.readEntry (s : State) (j : Nat) (l : ListId) (slot block : Nat) : State × Option TableEntry :=
  let (s, ok) := s.touchRead j (l.e.tableAt slot l.head block) 16
  (s, if ok then some (s.tableEntry l slot block) else none)

def State.setTableEntry (s : State) (j : Nat) (l : ListId) (slot block : Nat) (t : TableEntry) : State :=
  s.touchWrite j (l.e.tableAt slot l.head block) t.bytes

/-- The scores of a block in a copy, as FP32 codes, and writing them. -/
def State.scores (s : State) (l : ListId) (slot c block : Nat) : List Nat :=
  let b := s.readDev (l.e.scoresAt slot c l.head block) 256
  (List.range 64).map (fun i => fieldAt b (4 * i) 4)
def State.setScores (s : State) (j : Nat) (l : ListId) (slot c block : Nat) (vs : List Nat) : State :=
  if l.e.winnow then s.touchWrite j (l.e.scoresAt slot c l.head block) (vs.flatMap (leBytes 4)) else s

/-- The blocks that a stream can have. -/
def Stream.blocks (t : Stream) : Nat := ceilDiv t.kv.maxLen 64

/-- The held pages of a list: block and page-table entry, ascending. -/
def State.held (s : State) (l : ListId) (t : Stream) : List (Nat × TableEntry) :=
  ((List.range (min t.blocks l.e.blocks)).map (fun b => (b, s.tableEntry l t.slot b))).filter (fun x => x.2.page != noPage)

/-- The effective page budget of a stream (Table 7.5). -/
def Stream.budgetOf (t : Stream) : Nat :=
  if t.kv.budget = 0 then ceilDiv t.kv.maxLen 64 else min t.kv.budget (ceilDiv t.kv.maxLen 64)

/-! ## Page headers (Table 7.1) -/

/-- The device address of the page that an identifier names in a pool. -/
def KvEntry.pageOf (e : KvEntry) (page : Nat) : Nat := e.pageAt (page % 2 ^ 24)

def State.pageRefs (s : State) (e : KvEntry) (page : Nat) : Nat := fieldAt (s.readDev (e.pageOf page + 0x14) 2) 0 2

/-- The refs of a page as the page machinery reads them, and a write of them: part of a word, so that a word that cannot be
corrected is left unchanged (R297). -/
def State.readRefs (s : State) (j : Nat) (e : KvEntry) (page : Nat) : State × Option Nat :=
  let (s, ok) := s.touchRead j (e.pageOf page + 0x14) 2
  (s, if ok then some (s.pageRefs e page) else none)
def State.setPageRefs (s : State) (j : Nat) (e : KvEntry) (page n : Nat) : State := s.touchWrite j (e.pageOf page + 0x14) (leBytes 2 n)

/-- The 64 bytes of the header of a page opened by a stream. -/
def pageHeader (page : Nat) (l : ListId) (block prec kscale vscale refs writer wEpoch : Nat) : List Byte :=
  leBytes 4 page ++ leBytes 4 (l.cell + l.entry * 1024 + l.head * 4096) ++ leBytes 4 block ++ leBytes 1 prec ++ [0] ++
  leBytes 2 l.e.dh ++ leBytes 2 kscale ++ leBytes 2 vscale ++ leBytes 2 refs ++ [0, 0] ++
  leBytes 4 (writer + wEpoch * 65536) ++ List.replicate 36 0

/-! ## Releasing pages (R232, R236) -/

/-- The edge that ends the tick in progress: what is released during a tick counts from it. -/
def State.nextEdge (s : State) : Nat := s.getF F.tikCount_count + 1

/-- The cell that runs the stage described for a cell. -/
def State.runnerOf (s : State) (j c : Nat) : Nat := (s.prog j).runner c

/-- Frees a pool slot from edge `re` on and counts it. -/
def State.freeSlot (s : State) (j : Nat) (l : ListId) (page re : Nat) : State :=
  let k := poolKey j l.cell l.entry (page % 2 ^ 24)
  let x := s.poolSlot k
  if x.used then
    (s.setPoolSlot k { x with used := false, released := some re, newInTick := false }).bump F.kvpStat_released
      (s.runnerOf j l.cell)
  else s

/-- Whether a valid prefix entry of the job references a page of a list: the set records list pages in the order of the
program's lists. -/
def State.pfxHolds (s : State) (j : Nat) (l : ListId) (page : Nat) : Bool :=
  match findIdx? (fun x => x == l) (s.image j).lists with
  | none => false
  | some i => s.ctl.pfx.any (fun p => p.job == j && (p.pages.getD i 0).toNat == page)

/-- One holder of a page fewer; a page with none is released unless a prefix entry references it. A page whose refs cannot be
read keeps its slot (DESIGN CHOICE, log entry 53). -/
def State.dropRef (s : State) (j : Nat) (l : ListId) (page re : Nat) : State :=
  match s.readRefs j l.e page with
  | (s, none) => s
  | (s, some n) =>
    let s := s.setPageRefs j l.e page (n - 1)
    if n - 1 = 0 && !s.pfxHolds j l page then s.freeSlot j l page re else s

/-- A stream gives up the page of a block of a list, which its table entry names. -/
def State.dropPage (s : State) (j : Nat) (l : ListId) (slot block page re : Nat) : State :=
  if page = noPage then s else (s.setTableEntry j l slot block {}).dropRef j l page re
def State.dropBlock (s : State) (j : Nat) (l : ListId) (slot block re : Nat) : State :=
  match s.readEntry j l slot block with
  | (s, none) => s
  | (s, some t) => s.dropPage j l slot block t.page re

/-! ## The prefix region (R223, R225, R226) -/

def State.pfxMib (s : State) : Nat := s.getF F.pfxCfg_mib

/-- The region as a stripe set over the channels whose cell has local row 0. -/
def State.pfxRegion (s : State) : Place :=
  { spread := true, base := chanBytes - s.pfxMib * 1048576, len := 256 * s.pfxMib * 1048576,
    chans := allCells.filter (fun c => cellRow c % 4 == 0) }

/-- Writes bytes of the region by offset; a write that does not reach its words, or covers part of one that cannot be corrected, is dropped
(R297). -/
def State.pfxWrite (s : State) (j o : Nat) (bs : List Byte) : State :=
  let p := s.pfxRegion
  let at_ := (List.range bs.length).map (fun i => p.physOf (o + i) / 8)
  let parts := at_.eraseDups.filter (fun w => decide (at_.count w < 8))
  let whole := at_.eraseDups.filter (fun w => !parts.contains w)
  let (s, ok) := s.touchWords j at_.eraseDups parts
  if !ok then s
  else
    let s := { s with
      devMem := mwriteAt s.devMem (fun i => p.physOf (o + i)) 0 bs
      loftErr := at_.eraseDups.foldl (fun t w => tput 0 t w 0) s.loftErr }
    (whole.filter s.isLost).foldl (fun s w =>
      s.modChan (chanAt (8 * w)) (fun c => { c with lostWords := c.lostWords.filter (fun x => x != w) })) s

/-- Writes the stream prefix record (R227): the keys from one block on and the tokens of the block in progress. -/
def State.putStreamRec (s : State) (i first : Nat) : State :=
  let t := s.stream i
  match t.pfxRec with
  | none => s
  | some (o, _) =>
    let s := s.pfxWrite t.job (o + 8 * first) ((t.keys.drop first).flatMap (fun k => leBytes 8 k.toNat))
    s.pfxWrite t.job (o + 8 * ceilDiv t.kv.maxLen 64) ((t.tokens.drop (64 * t.keys.length)).flatMap (fun x => leBytes 4 x.toNat))

/-- Bytes of the table at the base of the region. -/
def pfxTable : Nat := 67108864

/-- Bytes of a set record of n lists, and of a stream prefix record (R226, R227). -/
def recordBytes (n : Nat) : Nat := up64 (320 + 4 * n)
def streamRecBytes (maxLen : Nat) : Nat := up64 (8 * ceilDiv maxLen 64 + 256)

/-- The ranges of the region in use above the table: set records and stream records. -/
def State.pfxUsed (s : State) : List (Nat × Nat) :=
  s.ctl.pfx.map (fun p => (p.record * 64, recordBytes p.pages.length)) ++
  s.ctl.streams.filterMap (fun e => e.2.pfxRec)

/-- The lowest free range of n bytes above the table (log entry 9). -/
def State.pfxFit (s : State) (n : Nat) : Option Nat :=
  let used := s.pfxUsed
  let size := s.pfxRegion.len
  let starts := sortBy id (pfxTable :: used.map (fun u => u.1 + u.2))
  starts.find? (fun o => decide (o + n ≤ size) && used.all (fun u => decide (o + n ≤ u.1) || decide (u.1 + u.2 ≤ o)))

/-- The bucket of a key, and the offset of an entry of the table. -/
def bucketOf (key : Word) : Nat := key.toNat % 2 ^ 18
def entryAt (key : Word) (way : Nat) : Nat := bucketOf key * 256 + way * 32

/-- The 32 bytes of a valid entry, and the bytes of its set record. -/
def PfxEntry.bytes (p : PfxEntry) : List Byte :=
  leBytes 8 p.key.toNat ++ leBytes 4 p.check.toNat ++ leBytes 4 p.record ++ leBytes 1 p.job ++ leBytes 1 p.jobEpoch ++
  leBytes 1 p.prec ++ leBytes 1 1 ++ leBytes 4 p.lastHit ++ leBytes 4 p.block ++ leBytes 4 0
def PfxEntry.recBytes (p : PfxEntry) : List Byte :=
  leBytes 8 p.key.toNat ++ leBytes 4 p.pages.length ++ leBytes 4 p.refs ++ List.replicate 48 0 ++
  p.tokens.flatMap (fun t => leBytes 4 t.toNat) ++ p.pages.flatMap (fun t => leBytes 4 t.toNat)

/-- Stores an entry and its record in the region, in place of any entry of the same bucket and way. -/
def State.putPfx (s : State) (p : PfxEntry) : State :=
  let others := s.ctl.pfx.filter (fun x => !(bucketOf x.key == bucketOf p.key && x.way == p.way))
  let s := { s with ctl := { s.ctl with pfx := others ++ [p] } }
  let s := (s.pfxWrite p.job (entryAt p.key p.way) p.bytes).pfxWrite p.job (p.record * 64) p.recBytes
  s.putF F.pfxFill_entries 0 s.ctl.pfx.length

/-- Removes an entry: its valid flag is cleared, its record freed, and its pages with refs 0 released (R232, R233). -/
def State.dropPfx (s : State) (p : PfxEntry) (re : Nat) : State :=
  let s := { s with ctl := { s.ctl with pfx := s.ctl.pfx.filter (fun x => x != p) } }
  let s := s.pfxWrite p.job (entryAt p.key p.way + 0x13) [0]
  let s := s.putF F.pfxFill_entries 0 s.ctl.pfx.length
  ((s.image p.job).lists.zip p.pages).foldl (fun s x =>
    match s.readRefs p.job x.1.e x.2.toNat with
    | (s, some 0) => s.freeSlot p.job x.1 x.2.toNat re
    | (s, _) => s) s

/-- The entry whose set includes a page of a list. -/
def State.pfxOfPage (s : State) (j : Nat) (l : ListId) (page : Nat) : Option PfxEntry :=
  match findIdx? (fun x => x == l) (s.image j).lists with
  | none => none
  | some i => s.ctl.pfx.find? (fun p => p.job == j && (p.pages.getD i 0).toNat == page)

/-- Winnow releases a page: a published block loses its entry, then the page goes (R222, R233). -/
def State.winnowRelease (s : State) (j : Nat) (l : ListId) (slot block re : Nat) : State :=
  let t := s.tableEntry l slot block
  let s := match s.pfxOfPage j l t.page with
    | some p => s.dropPfx p re
    | none => s
  s.dropBlock j l slot block re

/-- The cached sets of a pool of a precision with refs 0, oldest last hit first (R232). -/
def State.reclaimable (s : State) (j prec : Nat) : List PfxEntry :=
  sortBy (fun p => p.lastHit) (s.ctl.pfx.filter (fun p => p.job == j && p.prec == prec && p.refs == 0))

/-- The lowest free slot of a precision, out of quarantine or not (R207). -/
def State.freePoolSlot (s : State) (j : Nat) (l : ListId) (prec : Nat) (quarantined : Bool) : Option Nat :=
  let (first, n) := l.e.slotRange prec
  (List.range n).map (fun i => first + i) |>.find? (fun k =>
    let x := s.poolSlot (poolKey j l.cell l.entry k)
    !x.used && !x.retired && (quarantined || !(match x.released with
      | none => false
      | some r => decide (s.getF F.tikCount_count < r + 2))))

/-- Reclaims cached sets of a pool, oldest last hit first, until a slot of a list is free; at most f of them (R232). -/
def State.reclaim (j : Nat) (l : ListId) (prec : Nat) : Nat → State → State
  | 0, s => s
  | f + 1, s =>
    if (s.freePoolSlot j l prec true).isSome then s
    else match s.reclaimable j prec with
      | [] => s
      | p :: _ => State.reclaim j l prec f ((s.dropPfx p s.nextEdge).bump F.pfxIns_reclaimed 0)

/-- Allocates a page slot: the lowest that is free and not in quarantine; its epoch rises by 1 (R207, R236). With none free, cached sets of
the pool are reclaimed (R232); none where every free slot is in quarantine still, or the pool has lost slots. -/
def State.allocPage (s : State) (j : Nat) (l : ListId) (prec : Nat) : State × Option Nat :=
  let s := if (s.freePoolSlot j l prec false).isSome then s else State.reclaim j l prec (s.reclaimable j prec).length s
  match s.freePoolSlot j l prec false with
  | some k =>
    let key := poolKey j l.cell l.entry k
    let x := s.poolSlot key
    let ep := (x.epoch + 1) % 256
    (s.setPoolSlot key { x with used := true, epoch := ep, released := none, newInTick := true }, some (pageId k ep))
  | none => (s, none)

/-- A stream's entries of a block in each list of its program, as the page machinery reads them. -/
def State.blockEntries (s : State) (i block : Nat) : State × List (ListId × Option Nat) :=
  let t := s.stream i
  (s.image t.job).lists.foldl (fun acc l =>
    let (s, te) := acc.1.readEntry t.job l t.slot block
    (s, acc.2 ++ [(l, te.map (fun x => x.page))])) (s, [])

/-- A copy of the page of a block in a list is still to be made. -/
def Stream.copyDue (t : Stream) (l : ListId) (block : Nat) : Bool :=
  t.copies.any (fun k => k.cell == l.cell && k.entry == l.entry && k.head == l.head && k.block == block)

/-- The published set that a stream's block holds, by the pages in its lists: while copies of the block are being made, by those
of the lists that still await theirs. -/
def State.setOf (s : State) (i block : Nat) (es : List (ListId × Option Nat)) : Option PfxEntry :=
  let t := s.stream i
  let some_ := t.copies.any (fun k => k.block == block)
  s.ctl.pfx.find? (fun p => p.job == t.job && p.block == block &&
    (es.zip p.pages).all (fun x => (some_ && !t.copyDue x.1.1 block) || x.1.2 == some x.2.toNat))

/-- Gives a stream's block up, and the record of a published block one holder fewer (R232). -/
def State.leaveBlock (s : State) (i block re : Nat) : State :=
  let t := s.stream i
  let (s, es) := s.blockEntries i block
  let s := match s.setOf i block es with
    | some p => s.putPfx { p with refs := p.refs - 1 }
    | none => s
  es.foldl (fun s e => match e.2 with
    | some page => s.dropPage t.job e.1 t.slot block page re
    | none => s) s

/-- A stream gives up every block from one on. -/
def State.leaveFrom (s : State) (i first re : Nat) : State :=
  ((List.range (s.stream i).blocks).filter (fun b => decide (first ≤ b))).foldl (fun s b => s.leaveBlock i b re) s

/-- The root key of a program, and the key and check of a block (R224). -/
def rootKey (g : Image) : Word := BitVec.ofNat 64 (leNat ((shake256 g.joftDigest 32).take 8))
def blockKey (parent : Word) (tokens : List (BitVec 32)) : Word × BitVec 32 :=
  let d := shake256 (leBytes 8 parent.toNat ++ tokens.flatMap (fun t => leBytes 4 t.toNat)) 12
  (BitVec.ofNat 64 (leNat (d.take 8)), BitVec.ofNat 32 (leNat (d.drop 8)))

end Sys2Proof.Machine
end

