-- ==== Sys2Proof/Machine/Access.lean ====
section
/-! DEFINITION. What a cell stage's own reads and writes of device memory and of its SRAM meet: address errors, error
responses, corrected and uncorrectable words, and the retirement of a row at the second occurrence (R242, R296, R297,
R303 to R308, Table 10.3). -/

namespace Sys2Proof.Machine

/-- Marks the tick of a job as invalidated, remembering the word that caused it; true when the tick it repeats met the
same place (R306, R308). -/
def State.badPlace (s : State) (j : Nat) (b : BadPlace) : State × Bool :=
  let p := s.prog j
  let second := p.replaying && p.badBefore.contains b
  let s := s.setProg j { p with badNow := if p.badNow.contains b then p.badNow else p.badNow ++ [b] }
  (s.invalidate j, second)

/-- Whether a page slot has a byte in the 2 KiB row at a physical address. -/
def State.slotMeetsRow (s : State) (e : KvEntry) (k row : Nat) : Bool :=
  let a := e.pageAt k
  let n := pageBytes (if k < e.n.getD 0 0 then 0 else if k < e.n.getD 0 0 + e.n.getD 1 0 then 1 else 2) e.dh
  (List.range (n / 64)).any (fun i => decide (s.phys (a + 64 * i) / 2048 = row / 2048))

/-- Retires every page slot of an active program that has a byte in a row: streams that hold the page fail at the next
validation point, a prefix entry with the page is removed. True when a slot was retired. -/
def State.retireSlots (s : State) (row : Nat) : State × Bool :=
  s.activeJobs.foldl (fun acc j =>
    (acc.1.image j).kvEntries.foldl (fun acc x =>
      let total := x.2.2.n.foldl (· + ·) 0
      ((List.range total).filter (fun k => acc.1.slotMeetsRow x.2.2 k row)).foldl (fun acc k =>
        let s := acc.1
        let key := poolKey j x.1 x.2.1 k
        let ps := s.poolSlot key
        let id := pageId k ps.epoch
        let ls := (s.image j).lists.filter (fun l => l.cell == x.1 && l.entry == x.2.1)
        let s := s.setPoolSlot key { ps with retired := true }
        if !ps.used then (s, true)
        else
          let s := (s.streamsOf j).foldl (fun s i =>
            if ls.any (fun l => (s.held l (s.stream i)).any (fun h => h.2.page == id)) then
              s.modStream i (fun t => { t with failStatus := some 0x13 }) else s) s
          (ls.foldl (fun s l => match s.pfxOfPage j l id with
            | some p => s.dropPfx p s.nextEdge
            | none => s) s, true)) acc) acc) (s, false)

/-- Uncorrectable words of a row. -/
def State.rowLost (s : State) (c bank row : Nat) : List Nat :=
  ((List.range 256).map (fun i => rowAddr c bank row / 8 + i)).filter (fun w => s.wordErr w == 2)

/-- Retires a row (R306): page slots, then a remap to a spare row of the bank or a listing for repair, and the event.
Answers the outcome bits of Table 10.2. -/
def State.retireRow (s : State) (c bank row : Nat) : State × Nat :=
  let (s, pages) := s.retireSlots (rowAddr c bank row)
  let x := s.chan c
  let used := x.remaps.filter (fun r => r.1 == bank)
  let due := (x.copyRows.flatMap (fun r => s.rowLost c r.1 r.2.1)).filter (fun w => !x.lostWords.contains w)
  let lost := (s.rowLost c bank row).filter (fun w => !x.lostWords.contains w)
  let arg := fun listed => BitVec.ofNat 64 (bank + row * 256 + (if listed then 2 ^ 20 else 0))
  let known := x.remaps.any (fun r => r.1 == bank && r.2.1 == row && x.copyRows.contains r)
  let (s, bits) :=
    if known then (s, 8)
    else if used.length < 4 ∧ x.lostWords.length + due.length + lost.length ≤ 64 then
      let r := (bank, row, used.length)
      ((s.modChan c (fun x => { x with remaps := x.remaps ++ [r], remapped := x.remapped + 1, copyRows := x.copyRows ++ [r] })).raise 0x24 2 c (arg false), 8)
    else
      ((s.modChan c (fun x => { x with listed := if x.listed.contains (bank, row) then x.listed else x.listed ++ [(bank, row)] })).raise
        0x24 2 c (arg true), 16)
  (s, bits + 4 * bit pages)

/-- A cell stage's access to an uncorrectable loft word: record, invalidation, retirement at the second occurrence. -/
def State.stageUe (s : State) (reader c w : Nat) : State :=
  let ch := chanAt (8 * w)
  let lostBit := if s.isLost w then 0x80 else 0
  match s.jobOfCell c with
  | none => s.ueRecord { reader := reader, outcome := lostBit, unit := ch, word := w, consumer := c }
  | some j =>
    let (s, second) := s.badPlace j (.row ch (bankInChan w) (rowOf w))
    let (s, bits) := if second then s.retireRow ch (bankInChan w) (rowOf w) else (s, 0)
    s.ueRecord { reader := reader, outcome := 1 + lostBit + 2 * bit (s.prog j).replaying + bits, unit := ch, word := w,
                 consumer := c, job := j }

/-- A read by a cell's stage: the bytes, or nothing when the access fails; a failed access is an input from a failed
producer, so the tick is invalidated for the cell's program (R242, R304). -/
def State.stageRead (s : State) (c a n : Nat) : State × Option (List Byte) :=
  if n = 0 then (s, some [])
  else if s.addrError a n then ((s.countAddr a n).invalidateCell c, none)
  else if s.cellErrResponse c a n then ((s.countWrapped (some (cellTower c)) a n).invalidateCell c, none)
  else
    let s := (s.softWords a n).foldl (fun s w => s.softWord w) (s.forceRefreshes a n)
    match s.badWords a n with
    | [] => (s, some (s.readDev a n))
    | bad => (bad.foldl (fun s w => s.stageUe 0 c w) s, none)

/-- A read of a page-table entry by a KVAPPEND stage (R209, Table 10.3): none where it fails. -/
def State.walkEntry (s : State) (c : Nat) (l : ListId) (slot block : Nat) : State × Option TableEntry :=
  match s.stageRead c (l.e.tableAt slot l.head block) 16 with
  | (s, none) => (s, none)
  | (s, some b) => (s, some { page := fieldAt b 0 4, sel := fieldAt b 4 4 % 2, live := fieldAt b 8 8 })

/-- A read of a page's refs, and of the scores of a block, by a KVAPPEND stage. -/
def State.walkRefs (s : State) (c : Nat) (e : KvEntry) (page : Nat) : State × Option Nat :=
  let (s, b) := s.stageRead c (e.pageOf page + 0x14) 2
  (s, b.map (fun b => fieldAt b 0 2))
def State.walkScores (s : State) (c : Nat) (l : ListId) (slot copy block : Nat) : State × Option (List Nat) :=
  let (s, b) := s.stageRead c (l.e.scoresAt slot copy l.head block) 256
  (s, b.map (fun b => (List.range 64).map (fun i => fieldAt b (4 * i) 4)))

/-- A write by a cell's stage: dropped when it fails; a partial write of an uncorrectable word leaves it (R297). -/
def State.stageWrite (s : State) (c a : Nat) (bs : List Byte) : State :=
  if bs.isEmpty then s
  else if s.addrError a bs.length then (s.countAddr a bs.length).invalidateCell c
  else if s.cellErrResponse c a bs.length then (s.countWrapped (some (cellTower c)) a bs.length).invalidateCell c
  else
    let parts := s.partWords a bs.length
    let s := s.forceRefreshes a bs.length
    let s := (parts.filter (fun w => s.wordErr w == 1)).foldl (fun s w => s.softWord w) s
    match parts.filter (fun w => s.wordErr w == 2) with
    | [] => s.writeDev a bs
    | bad => bad.foldl (fun s w => s.stageUe 0 c w) s

/-- The pass in progress of an M cell is discarded. -/
def State.dropPass (s : State) (c : Nat) : State :=
  if s.onF F.mxcStat_busy c then (s.bump F.mxcPasses_discarded c).putF F.mxcStat_busy c 0 else s

/-- Drops the tables, lists and masks that a cell holds (R149, R182). -/
def Cell.dropTables (x : Cell) : Cell := { x with tables := [], globals := none, mask := none, readers := [] }

/-- An uncorrectable word of a cell's SRAM (Table 10.1): the tick is invalidated for the cell's program, held tables are
dropped, a pass in progress is discarded; at the second occurrence the cell is to be retired (R308). `reader` is the reader's
number and unit. -/
def State.sramUe (s : State) (reader : Nat × Nat) (c w : Nat) : State :=
  let s := s.modCell c Cell.dropTables
  let s := s.putF F.celStat_tables c 0
  let s := s.putF F.thrStat_tables c 0
  match s.jobOfCell c with
  | none => s.ueRecord { type := 2, reader := reader.1, unit := c, word := w, consumer := reader.2 }
  | some j =>
    let (s, second) := s.badPlace j (.sram c w)
    let s := if kindOf c == kM then s.dropPass c else s
    let s := if second then s.modCell c (fun x => { x with stuckSram := true }) else s
    s.ueRecord { type := 2, reader := reader.1, outcome := 1 + 2 * bit (s.prog j).replaying + (if second then 32 else 0), unit := c,
                 word := w, consumer := reader.2, job := j }

end Sys2Proof.Machine
end

