-- ==== Sys2Proof/Machine/Streams.lean ====
section
/-! DEFINITION. What a stream command or an unload does at the edge where it acts (R66, R68, R97, R164, R184, R209 to
R213, R218, R227, R232, R236, R368, R371 to R379). -/

namespace Sys2Proof.Machine

/-! ## Field ranges -/

/-- An FP32 code lies between two FP32 values. -/
def f32In (c lo hi : Nat) : Bool := (ofBits32 lo).le (ofBits32 c) && (ofBits32 c).le (ofBits32 hi)

/-- FP32 codes of the bounds of Table 5.9: 1, 10, −10, 100. -/
def f1 : Nat := 0x3F800000
def f10 : Nat := 0x41200000
def fm10 : Nat := 0xC1200000
def f100 : Nat := 0x42C80000

/-- Whether sampler field n (the order of the mask bits of R373) of a block lies in its range; drafts at most j. -/
def samplerField (b : List Byte) (j n : Nat) : Bool :=
  if n = 1 then f32In (fieldAt b 0x10 4) 0 f100
  else if n = 2 then decide (fieldAt b 0x14 2 ≤ 4096)
  else if n = 3 then f32In (fieldAt b 0x18 4) 0 f1
  else if n = 4 then f32In (fieldAt b 0x1C 4) f1 f10
  else if n = 5 then f32In (fieldAt b 0x20 4) fm10 f10
  else if n = 6 then f32In (fieldAt b 0x24 4) fm10 f10
  else if n = 7 then decide (fieldAt b 0x28 2 ≤ 1024)
  else if n = 8 then decide (fieldAt b 0x2A 1 ≤ j)
  else true

/-- The reserved fields of the sampler record, of the KV record, of the rest of the open block. -/
def samplerReserved (b : List Byte) : Bool := zeroAt b 0x16 2 && zeroAt b 0x2B 1 && zeroAt b 0x3C 4
def kvReserved (b : List Byte) : Bool := bitsOf (fieldAt b 0x42 1) 2 6 == 0 && zeroAt b 0x43 1 && zeroAt b 0x50 16
def blockReserved (b : List Byte) : Bool := samplerReserved b && kvReserved b && zeroAt b 0x62 30

/-- A sampler record from a block. -/
def parseSampler (b : List Byte) : Sampler :=
  { seed := BitVec.ofNat 128 (fieldAt b 0 16), temp := BitVec.ofNat 32 (fieldAt b 0x10 4), topK := fieldAt b 0x14 2,
    topP := BitVec.ofNat 32 (fieldAt b 0x18 4), rep := BitVec.ofNat 32 (fieldAt b 0x1C 4),
    pres := BitVec.ofNat 32 (fieldAt b 0x20 4), freq := BitVec.ofNat 32 (fieldAt b 0x24 4), window := fieldAt b 0x28 2,
    drafts := fieldAt b 0x2A 1, stop := (List.range 4).map (fun i => BitVec.ofNat 32 (fieldAt b (0x2C + 4 * i) 4)) }

/-- A KV record from a block (Table 7.5). -/
def parseKv (b : List Byte) : KvRec :=
  { prec := fieldAt b 0x40 1, pfx := fieldAt b 0x41 1, privileged := bitOf (fieldAt b 0x42 1) 0,
    winnow := bitOf (fieldAt b 0x42 1) 1, maxLen := fieldAt b 0x44 4, budget := fieldAt b 0x48 4 }

/-- The draft limit of a program: the smallest j_max of its S stages; 0 without one. -/
def Image.jMax (g : Image) : Nat :=
  match (g.stages.filter (fun t => t.kind == kS)).map (fun t => t.f 0x42 1) with
  | [] => 0
  | x :: r => r.foldl min x

/-- h of R222 for the KVAPPEND stage of a cell. -/
def winnowH (tMax : Nat) : Nat := ceilDiv (tMax + 63) 64
def Image.kvTmax (g : Image) (c : Nat) : Nat := ((g.stageAt c).map Stage.tMax).getD 0

/-- A live stream identifier (R235). -/
def State.live (s : State) (i epoch : Nat) : Bool := (s.stream i).isOpen && (s.stream i).epoch == epoch

/-- The identifiers of streams that a part can hold. -/
def State.freeStream (s : State) : Option Nat :=
  (List.range 65536).find? (fun i => !(s.stream i).isOpen && !s.inQuarantine (s.stream i).released)

/-- The lowest stream slot of a program that is free and not in quarantine (R209). -/
def State.freeSlotIndex (s : State) (j : Nat) : Option Nat :=
  let mine := (s.ctl.streams.filter (fun e => e.2.job == j && (e.2.isOpen || s.inQuarantine e.2.released))).map (fun e => e.2.slot)
  (List.range (s.image j).streamSlots).find? (fun k => !mine.contains k)

/-- Whether an entry's reservations of a precision leave room for one more stream (R213). -/
def State.poolRoom (s : State) (j : Nat) (e : KvEntry) (prec budget : Nat) : Bool :=
  let held := (s.streamsOf j).foldl (fun a i => if (s.stream i).kv.prec = prec then a + (s.stream i).budgetOf * e.kvCnt else a) 0
  decide (held + budget * e.kvCnt ≤ e.n.getD prec 0)

/-! ## Open (R212) -/

/-- The status of an open stream command: the first condition of R212 that holds, 0 when none does. -/
def State.openStatus (s : State) (fn job epoch : Nat) (b : List Byte) : Nat :=
  let p := s.prog job
  let g := p.img
  let kv := parseKv b
  let cq := fieldAt b 0x60 2
  let kvs := g.kvEntries
  let eff := if kv.budget = 0 then ceilDiv kv.maxLen 64 else min kv.budget (ceilDiv kv.maxLen 64)
  if p.state != .active || p.epoch != epoch then 3
  else if !p.fmask.getLsbD fn || decide (64 ≤ cq) || s.owner cq != fn || (kv.privileged && fn != 0) then 4
  else if kvs.any (fun e => decide (e.2.2.rows < kv.maxLen)) ||
      g.stages.any (fun t => t.kind == kA && decide (t.f 0x3C 4 < kv.maxLen)) then 2
  else if kvs.any (fun e => e.2.2.n.getD kv.prec 0 == 0) then 2
  else if kv.winnow && (!kv.privileged || kvs.any (fun e => !e.2.2.winnow || decide (eff ≤ winnowH (g.kvTmax e.1)))) then 2
  else if kv.pfx != 0 && s.pfxMib == 0 then 2
  else if !(List.range 10).all (samplerField b g.jMax) || !blockReserved b || decide (2 < kv.prec) || decide (2 < kv.pfx) ||
      kv.maxLen == 0 || decide (1048576 < kv.maxLen) || !(fieldAt b 0x4C 4 == 0 || fieldAt b 0x4C 4 == 0xFFFFFFFF) then 2
  else if (s.freeStream).isNone || (s.freeSlotIndex job).isNone || p.storageLost then 5
  else if !kvs.all (fun e => s.poolRoom job e.2.2 kv.prec eff) || !s.cqRoom cq 1 then 5
  else if kv.pfx != 0 && (s.pfxFit (streamRecBytes kv.maxLen)).isNone then 5
  else 0

/-- Clears the state region of a stream: no page in any list, SCAN states zero (R153, R209). -/
def State.clearRegion (s : State) (j slot : Nat) : State :=
  let g := s.image j
  let s := g.kvEntries.foldl (fun s e =>
    s.touchWrite j (e.2.2.slotAt slot) ((List.replicate (e.2.2.kvCnt * e.2.2.blocks) ({} : TableEntry).bytes).flatten)) s
  g.scans.foldl (fun s e => match g.scanState e.2.2 with
    | some (p, z) => s.touchWrite j (p.addr + slot * z) (List.replicate z 0)
    | none => s) s

/-- An open stream command acts. -/
def State.openNow (s : State) (c : CmdId) (fn job epoch : Nat) (b : List Byte) : State :=
  let st := s.openStatus fn job epoch b
  match st, s.freeStream, s.freeSlotIndex job with
  | 0, some i, some slot =>
    let kv := parseKv b
    let ep := ((s.stream i).epoch + 1) % 256
    let recAt := if kv.pfx = 0 then none else (s.pfxFit (streamRecBytes kv.maxLen)).map (fun o => (o, streamRecBytes kv.maxLen))
    let s := s.setStream i {
      isOpen := true, epoch := ep, job := job, jobEpoch := epoch, fn := fn, cq := fieldAt b 0x60 2,
      samp := parseSampler b, kv := kv, slot := slot, endReserved := true, pfxRec := recAt }
    let s := (s.reserve (fieldAt b 0x60 2) 1).clearRegion job slot
    s.complete c 0 (s.streamCqe i)
  | _, _, _ => s.complete c st { job := job, jobEpoch := epoch }

/-! ## Feed (R375, R377, R379) -/

/-- What a refused command of a stream reports: nothing of a stream that is not its own. -/
def State.refusedCqe (s : State) (i epoch status : Nat) : Cqe :=
  if status = 3 ∨ status = 4 then { stream := i, epoch := epoch } else { s.streamCqe i with stream := i, epoch := epoch }

/-- The status of a feed tokens command. -/
def State.feedStatus (s : State) (fn i epoch count : Nat) : Nat :=
  let t := s.stream i
  if !s.live i epoch then 3
  else if t.fn != fn then 4
  else if t.ended then 9
  else if decide (1048576 < count) then 2
  else if count == 0 then 0
  else if t.genEnd == 2 || decide (16 ≤ t.feeds.length) then 5
  else 0

/-- A feed acts: it joins its stream's feed queue, or completes. -/
def State.feedNow (s : State) (c : CmdId) (fn i epoch addr count : Nat) : State :=
  let st := s.feedStatus fn i epoch count
  if st = 0 ∧ count ≠ 0 then
    s.modStream i (fun t => { t with feeds := t.feeds ++ [{ cmd := c, addr := addr, count := count }] })
  else s.complete c st (s.refusedCqe i epoch st)

/-! ## Truncate (R218) -/

/-- Withdraws the rows given to a stream for the coming tick, with the tokens read for them. -/
def State.withdraw (s : State) (i : Nat) : State :=
  (s.dropTokenReservation i).modStream i (fun t => { t with rows := [] })

/-- A truncate cuts the live bits of a list's partial block, and asks whether its page is shared: that it is, where a read fails, so that the
copy meets the same word (R218, R304). -/
def State.cutBlock (s : State) (j : Nat) (l : ListId) (slot b keep : Nat) : State × Bool :=
  match s.readEntry j l slot b with
  | (s, none) => (s, true)
  | (s, some e) =>
    if e.page = noPage then (s, false)
    else match (s.setTableEntry j l slot b { e with live := e.live % 2 ^ keep }).readRefs j l.e e.page with
      | (s, none) => (s, true)
      | (s, some n) => (s, decide (1 < n))

/-- A truncate to a length takes effect: pages given up, live bits cleared, a private copy owed for a shared partial
block, the pending token and the end of generation dropped, the stream prefix record written anew (R218, R227). Where the stream is the
only holder of a published block that it cuts, no copy is made and the entry stays as it is: the spec does not say that it goes
(DESIGN CHOICE, log entry 53). -/
def State.truncateTo (s : State) (i len : Nat) : State :=
  let s := s.withdraw i
  let t := s.stream i
  let ls := (s.image t.job).lists
  let s := s.leaveFrom i (ceilDiv len 64) (s.getF F.tikCount_count)
  let b := len / 64
  let keep := len % 64
  let (s, shared) := if keep = 0 then (s, false) else ls.foldl (fun acc l =>
    let (s, yes) := acc.1.cutBlock t.job l t.slot b keep
    (s, acc.2 || yes)) (s, false)
  (s.modStream i (fun t => { t with
    length := len, pendingTok := none, genEnd := 0, tokens := t.tokens.take len, keys := t.keys.take (len / 64),
    missAt := none, copies := if shared then ls.map (fun l => { cell := l.cell, entry := l.entry, head := l.head, block := b, keep := keep })
      else [] })).putStreamRec i (len / 64)

/-! ## Set stream parameters (R373) -/

/-- The status of a set stream parameters command. -/
def State.setStatus (s : State) (fn i epoch : Nat) (mask : Word) (b : List Byte) : Nat :=
  let t := s.stream i
  let m := mask.toNat
  let tr := fieldAt b 0x4C 4
  if !s.live i epoch then 3
  else if t.fn != fn then 4
  else if t.ended then 9
  else if bitsOf m 10 6 != 0 || bitsOf m 18 46 != 0 then 2
  else if !(List.range 10).all (fun k => !bitOf m k || samplerField b (s.image t.job).jMax k) then 2
  else if bitsOf m 0 10 != 0 && !samplerReserved b then 2
  else if bitsOf m 16 2 != 0 && !kvReserved b then 2
  else if bitOf m 16 && bitOf (fieldAt b 0x42 1) 1 && !t.kv.privileged then 2
  else if bitOf m 17 && tr != 0xFFFFFFFF && decide (t.length < tr) then 2
  else 0

/-- The sampler record with the selected fields changed. -/
def mergeSampler (old new : Sampler) (m : Nat) : Sampler :=
  { seed := if bitOf m 0 then new.seed else old.seed, temp := if bitOf m 1 then new.temp else old.temp,
    topK := if bitOf m 2 then new.topK else old.topK, topP := if bitOf m 3 then new.topP else old.topP,
    rep := if bitOf m 4 then new.rep else old.rep, pres := if bitOf m 5 then new.pres else old.pres,
    freq := if bitOf m 6 then new.freq else old.freq, window := if bitOf m 7 then new.window else old.window,
    drafts := if bitOf m 8 then new.drafts else old.drafts, stop := if bitOf m 9 then new.stop else old.stop }

/-- A set stream parameters command acts. -/
def State.setNow (s : State) (c : CmdId) (fn i epoch : Nat) (mask : Word) (b : List Byte) : State :=
  let st := s.setStatus fn i epoch mask b
  let m := mask.toNat
  if st ≠ 0 then s.complete c st (s.refusedCqe i epoch st)
  else
    let s := s.modStream i (fun t => { t with
      samp := mergeSampler t.samp (parseSampler b) m,
      kv := if bitOf m 16 then { t.kv with winnow := (parseKv b).winnow } else t.kv })
    let tr := fieldAt b 0x4C 4
    let s := if bitOf m 17 && tr != 0xFFFFFFFF then s.truncateTo i tr else s
    s.complete c 0 (s.streamCqe i)

/-! ## Close (R232, R236, R376) -/

/-- The stream's identifier, pages, reservations and record are given up, as of an edge. -/
def State.releaseStream (s : State) (i edge : Nat) : State :=
  let s := s.dropTokenReservation i
  let t := s.stream i
  let s := s.leaveFrom i 0 edge
  let s := if t.endReserved then s.unreserve t.cq 1 else s
  s.setStream i { epoch := t.epoch, released := some edge, job := t.job, slot := t.slot }

/-- A close stream command acts. -/
def State.closeNow (s : State) (c : CmdId) (fn i epoch : Nat) : State :=
  if !s.live i epoch then s.complete c 3 { stream := i, epoch := epoch }
  else if (s.stream i).fn != fn then s.complete c 4 { stream := i, epoch := epoch }
  else
    let e := s.streamCqe i
    ((s.dropFeeds i).releaseStream i (s.getF F.tikCount_count)).complete c 0 e

/-- A stream closes without any completion entry (Table 12.3). -/
def State.closeSilently (s : State) (i edge : Nat) : State :=
  if (s.stream i).isOpen then
    let s := (s.stream i).feeds.foldl (fun s f => s.unreserve f.cmd.q 1) s
    (s.modStream i (fun t => { t with feeds := [] })).releaseStream i edge
  else s

/-! ## Unload (R66, R232, R236) -/

/-- A cell runs no entry and holds no table and no row: its status fields say so (R131, R169, R201). -/
def State.showIdle (s : State) (c : Nat) : State :=
  (((s.setReg R.celStat c 0).putF F.mxcStat_busy c 0).putF F.thrStat_busy c 0).putF F.thrStat_tables c 0 |>.putF F.thrStat_in_loft c 0

/-- The program leaves, as of an edge: its prefix entries, sheaf identifiers and cells are given up, its job identifier released. -/
def State.dropProgram (s : State) (j edge : Nat) : State :=
  let s := (s.ctl.pfx.filter (fun p => p.job == j)).foldl (fun s p => s.dropPfx p edge) s
  let mine := s.sheafIds.filter (fun i => (s.sheaf i).job == j && i != 0)
  let s := mine.foldl (fun s i =>
    let x := s.sheaf i
    (s.setSheaf i { epoch := x.epoch, everUsed := true, released := some edge }).putF F.shfStatus_state i 0) s
  let cells := (s.prog j).stagesAt.map (fun e => e.1)
  let s := cells.foldl (fun s c => (s.showIdle c).modCell c (fun x => ({ x with
    job := none, started := none, finished := none, rowsIn := [], rowsOut := [], inTick := [], increments := []
    doneOps := [] } : Cell).dropTables)) s
  s.setProg j { state := .quarantine, epoch := (s.prog j).epoch, released := some edge }

/-- An unload program command acts. -/
def State.unloadNow (s : State) (c : CmdId) (j epoch : Nat) : State :=
  let p := s.prog j
  let e : Cqe := { job := j, jobEpoch := epoch }
  if (p.state != .staged && p.state != .active) || p.epoch != epoch then s.complete c 3 e
  else if !(s.streamsOf j).isEmpty then s.complete c 6 { e with detail := 0x20 }
  else (s.dropProgram j (s.getF F.tikCount_count)).complete c 0 e

end Sys2Proof.Machine
end

