-- ==== Sys2Proof/Machine/Commands.lean ====
section
/-! DEFINITION. The host command rows: submission entries (R65, R66, R358 to R360, R370 to R375), the device memory
window (R363, R364), host memory errors and function-level resets. -/

namespace Sys2Proof.Machine

/-- The buffer of a command, read at acceptance. -/
def State.block (s : State) (e : SubEntry) (n : Nat) : List Byte := mread s.hostMem e.addr.toNat n

/-! ## Load program (R65, R66, R372) -/

/-- The lowest free job identifier (R236). -/
def State.freeJob (s : State) : Option Nat :=
  (List.range 8).find? (fun j => (s.prog j).state == .free ||
    ((s.prog j).state == .quarantine && !s.inQuarantine (s.prog j).released))

/-- The image ranges, placements and pools of the loaded programs, and the prefix region. -/
def State.takenRanges (s : State) : List (Nat × Nat) :=
  s.jobs.flatMap (fun j =>
    let p := s.prog j
    [(p.jAddr, p.jLen), (p.sAddr, p.sLen)] ++ p.img.places.flatMap Place.physRanges ++ p.img.pools) ++ s.prefixRanges

/-- An image range is refused (R372). An image of no bytes lies outside no range and overlaps none: its checks refuse it. -/
def State.rangeBad (s : State) (a n : Nat) : Bool :=
  !isPhys a || decide (chanBytes < offAt a + n) || !s.chanServes (chanAt a) || (n != 0 && s.takenRanges.any (meets (a, n)))

/-- Reads an image: its corrected words are counted, its uncorrectable words recorded; true when it was read whole. -/
def State.readImage (s : State) (a n : Nat) : State × Bool :=
  if n = 0 then (s, true)
  else if s.addrError a n then (s.countAddr a n, false)
  else if s.errResponse a n then (s.countWrapped none a n, false)
  else
    let s := (s.softWords a n).foldl (fun s w => s.softWord w) (s.forceRefreshes a n)
    let bad := s.badWords a n
    (bad.foldl (fun s w => s.ueRecord { reader := 6, outcome := if s.isLost w then 0x80 else 0, unit := chanAt (8 * w), word := w }) s,
      bad.isEmpty)

/-- A narrowed link whose schedule no longer fits with the loaded programs is to isolate a tower (R348). -/
def State.checkNarrowed (s : State) : State :=
  (List.range 8).foldl (fun s l =>
    if (s.link l).half.isSome && !(s.jobs.all (fun j => (s.image j).carriedBy l)) then
      s.modLink l (fun x => { x with isolatePending := true }) else s) s

/-- The read of an image must wait, as any access does (R260, R287, R306). -/
def State.imageKept (s : State) (a n : Nat) : Bool :=
  n != 0 && !s.addrError a n && !s.errResponse a n && (s.heldInWay a n || s.copyInWay a n || s.flailInWay a n s.arrivals)

/-- A load; `wait` tells whether its reads wait for what keeps them. -/
def State.loadNow (s : State) (e : SubEntry) (c : CmdId) (wait : Bool) : State :=
  let ja := e.arg0.toNat
  let jn := e.arg1.toNat
  let sa := e.arg2.toNat
  let sn := e.arg3.toNat
  let finish := fun (s : State) st (q : Cqe) => (s.complete c st q).signalCq c.q
  if s.owner c.q != 0 then finish s 4 {}
  else match s.freeJob with
    | none => finish s 5 {}
    | some j =>
      if s.rangeBad ja jn || s.rangeBad sa sn then finish s 8 {}
      else if wait && (s.imageKept ja jn || s.imageKept sa sn) then { s with ctl := { s.ctl with loads := s.ctl.loads ++ [(e, c)] } }
      else
        let (s, ok) := s.readImage ja jn
        let (s, ok2) := s.readImage sa sn
        if !(ok && ok2) then finish s 7 {}
        else
          let jb := s.readDev ja jn
          let sb := s.readDev sa sn
          match loadChecks s jb sb jn sn with
          | some (code, off) => finish s 6 { detail := code + off * 65536 }
          | none =>
            let ep := ((s.prog j).epoch + 1) % 256
            let s := s.setProg j {
              state := .staged, epoch := ep, jAddr := ja, jLen := jn, sAddr := sa, sLen := sn,
              fmask := BitVec.ofNat 64 (leNat (s.block e 8)), img := parseImage jb sb }
            finish s.checkNarrowed 0 { job := j, jobEpoch := ep }

def opLoad (e : SubEntry) (c : CmdId) (s : State) : State := s.loadNow e c true

/-- The loads whose reads were kept go on, in order. -/
def State.resumeLoads (s : State) (wait : Bool) : State :=
  s.ctl.loads.foldl (fun s x => s.loadNow x.1 x.2 wait) { s with ctl := { s.ctl with loads := [] } }

/-! ## The other commands -/

/-- A command that only completes at the next edge with a status. -/
def State.waitDone (s : State) (c : CmdId) (e : SubEntry) (status : Nat) : State :=
  s.wait (.done c e.stream.toNat e.streamEpoch.toNat e.job.toNat e.jobEpoch.toNat status 0)

def opUnload (e : SubEntry) (c : CmdId) (s : State) : State :=
  if s.owner c.q != 0 then s.waitDone c e 4 else s.wait (.unload c e.job.toNat e.jobEpoch.toNat)

def opOpen (e : SubEntry) (c : CmdId) (s : State) : State :=
  s.wait (.openS c (s.owner c.q) e.job.toNat e.jobEpoch.toNat (s.block e 128))

/-- Whether a command that its function gave to a stream already waits for the edge. -/
def Waiting.isFor (i fn : Nat) : Waiting → Bool
  | .setP _ f k _ _ _ => k == i && f == fn
  | .close _ f k _ => k == i && f == fn
  | .closeSilent k => k == i
  | .feed _ f k _ _ _ => k == i && f == fn
  | _ => false

/-- A feed joins its stream's queue at acceptance when no command of the stream waits before it; a feed that is refused
or empty completes at the next edge. -/
def opFeed (e : SubEntry) (c : CmdId) (s : State) : State :=
  let i := e.stream.toNat
  let fn := s.owner c.q
  if s.ctl.waiting.any (Waiting.isFor i fn) then
    s.wait (.feed c fn i e.streamEpoch.toNat e.addr.toNat e.count.toNat)
  else
    let st := s.feedStatus fn i e.streamEpoch.toNat e.count.toNat
    if st = 0 ∧ e.count ≠ 0 then s.feedNow c fn i e.streamEpoch.toNat e.addr.toNat e.count.toNat
    else s.waitDone c e st

def opSet (e : SubEntry) (c : CmdId) (s : State) : State :=
  s.wait (.setP c (s.owner c.q) e.stream.toNat e.streamEpoch.toNat e.arg0 (s.block e 128))

def opClose (e : SubEntry) (c : CmdId) (s : State) : State :=
  s.wait (.close c (s.owner c.q) e.stream.toNat e.streamEpoch.toNat)

/-- LOAD_PROGRAM. -/
def execLoadProgram (q : BitVec 6) (e : SubEntry) (s : State) : Host.Outcome State Fault Refusal :=
  run (fun s => if s.takesLoad q.toNat then (let s := s.take q.toNat; opLoad e (s.cmdId q.toNat e) s) else s) s
/-- UNLOAD_PROGRAM. -/
def execUnloadProgram (q : BitVec 6) (e : SubEntry) (s : State) : Host.Outcome State Fault Refusal :=
  run (onTake q e (opUnload e)) s
/-- OPEN_STREAM. -/
def execOpenStream (q : BitVec 6) (e : SubEntry) (s : State) : Host.Outcome State Fault Refusal :=
  run (onTake q e (opOpen e)) s
/-- FEED_TOKENS. -/
def execFeedTokens (q : BitVec 6) (e : SubEntry) (s : State) : Host.Outcome State Fault Refusal :=
  run (onTake q e (opFeed e)) s
/-- SET_STREAM_PARAMETERS. -/
def execSetStreamParameters (q : BitVec 6) (e : SubEntry) (s : State) : Host.Outcome State Fault Refusal :=
  run (onTake q e (opSet e)) s
/-- CLOSE_STREAM. -/
def execCloseStream (q : BitVec 6) (e : SubEntry) (s : State) : Host.Outcome State Fault Refusal :=
  run (onTake q e (opClose e)) s
/-- INVALID_OPCODE: status 0x01 (R371). -/
def execInvalidOpcode (q : BitVec 6) (e : SubEntry) (s : State) : Host.Outcome State Fault Refusal :=
  run (onTake q e (fun c s => s.waitDone c e 1)) s

/-! ## The device memory window (R363, R364, Table 12.6) -/

/-- The physical address of a window access, when it stays in the physical space. -/
def State.winAddr (s : State) (off n : Nat) : Option Nat :=
  let a := s.getF F.hstWin_base + off
  if a + max n 1 ≤ 2 ^ 41 then some a else none

/-- What a word that held an error holds with one more: two bits of a word in error cannot be corrected (R295). -/
def errMore (old : Nat) (f : WordFault) : Nat :=
  match f with
  | .double => 2
  | .single b => if old = 0 ∨ old = 3 + b.toNat then 3 + b.toNat else 2
  | .unseen _ none => old
  | .unseen _ (some b) => if old = 2 then 2 else 3 + b.toNat

/-- The eight bytes of a word with some bits flipped: what an error of three or more bits leaves that nothing detects. -/
def State.flipWord (s : State) (w : Nat) (flips : BitVec 64) : State :=
  { s with devMem := mwrite s.devMem (8 * w) ((List.range 8).map (fun i => mget s.devMem (8 * w + i) ^^^ flips.extractLsb' (8 * i) 8)) }

/-- Errors that the check bits show at the words of an access are stored errors from now on, and an error that they do not show
is in the data (R295). -/
def State.findErrs (s : State) (found : List WordErr) : State :=
  found.foldl (fun s e =>
    let s := match e.fault with
      | .unseen flips _ => s.flipWord e.word flips
      | _ => s
    { s with loftErr := tput 0 s.loftErr e.word (errMore (tget 0 s.loftErr e.word) e.fault) }) s

/-! ## Host memory errors (R358, R369, R375, R387, Table 12.11) -/

/-- A host read met a poisoned, Unsupported Request or Completer Abort completion. -/
def opHostMemoryError (req : HostReq) (cause : BitVec 3) (s : State) : State :=
  let s := s.bump F.hstErr_host_mem 0
  match req with
  | .submissionEntry q => if s.pairOn q.toNat then s.pairFail q.toNat 3 else s
  | .commandBuffer q e =>
    if e.opcode = 1 then
      (if s.takesLoad q.toNat then
        let s := s.take q.toNat
        (s.complete (s.cmdId q.toNat e) 7 {}).signalCq q.toNat
       else s)
    else onTake q e (fun c s => s.waitDone c e 7) s
  | .feedTokens i => s.failStream i.toNat 0x1A true
  | .chute ch fetch fn addr => s.chuteBusError (ch.map BitVec.toNat) fetch cause.toNat fn.toNat addr.toNat

/-- HOST_MEMORY_ERROR. -/
def execHostMemoryError (req : HostReq) (cause : BitVec 3) (s : State) : Host.Outcome State Fault Refusal :=
  run (opHostMemoryError req cause) s

/-! ## Function-level reset (R360, Table 12.3) -/

/-- The command that a waiting entry will complete. -/
def Waiting.cmd : Waiting → Option CmdId
  | .unload c _ _ => some c
  | .openS c _ _ _ _ => some c
  | .feed c _ _ _ _ _ => some c
  | .setP c _ _ _ _ _ => some c
  | .close c _ _ _ => some c
  | .closeSilent _ => none
  | .done c _ _ _ _ _ _ => some c

/-- The reset of one function: its pairs are disabled and the commands that came by them dropped with their entries; its streams
fall silent and close at the next edge; its Chute channels stop without results. -/
def State.resetFn (s : State) (f : Nat) : State :=
  let mine := fun (w : Waiting) => w.cmd.any (fun c => s.owner c.q == f)
  let s := (List.range 64).foldl (fun s q => if s.owner q == f && s.pairOn q then s.putF F.hstQcfg_enable q 0 else s) s
  let s := (s.ctl.waiting.filter mine).foldl (fun s w => match w.cmd with
    | some c => s.unreserve c.q 1
    | none => s) s
  let s := (s.heldCq.filter (fun e => s.owner e.1 == f)).foldl (fun s e => s.unreserve e.1 1) s
  let s := if f = 0 then s.putF F.hstEvqStat_head 0 0 else s
  let s := (s.ctl.loads.filter (fun x => s.owner x.2.q == f)).foldl (fun s x => s.unreserve x.2.q 1) s
  let s := { s with ctl := { s.ctl with
    waiting := s.ctl.waiting.filter (fun w => !mine w), loads := s.ctl.loads.filter (fun x => s.owner x.2.q != f) } }
  let s := (s.openStreams.filter (fun i => (s.stream i).fn == f)).foldl (fun s i =>
    (s.modStream i (fun t => { t with silent := true })).wait (.closeSilent i)) s
  let s := (List.range 32).foldl (fun s c => if s.chuteRuns c && s.chuteOwner c == f then
    let s := s.chuteStop c 6
    s.setChute c { s.chute c with owedResults := [] } else s) s
  { s with
    msix := s.msix.filter (fun e => e.1 / 32 != f)
    sqTails := s.sqTails.filter (fun e => s.owner e.1 != f)
    cqHeads := s.cqHeads.filter (fun e => s.owner e.1 != f)
    heldCq := s.heldCq.filter (fun e => s.owner e.1 != f)
    accWait := s.accWait.filter (fun a => match a.reader, a.result with
      | .chute c, some _ => s.chuteOwner c.toNat != f
      | _, _ => true) }

def opFlr (f : Nat) (s : State) : State :=
  if f = 0 then (List.range 64).foldl State.resetFn s else s.resetFn f

/-- FUNCTION_LEVEL_RESET; it has no effect during option loading (R412). -/
def execFunctionLevelReset (fn : BitVec 6) (s : State) : Host.Outcome State Fault Refusal :=
  run (fun s => if s.start.loading then s else opFlr fn.toNat s) s

end Sys2Proof.Machine
end

