-- ==== Sys2Proof/Machine/Flags.lean ====
section
/-! DEFINITION. The WIDE, NAN and SAT flags of values and rows (R117, R121 to R124), and conversion to a drain format
with them (R120 to R123). -/

namespace Sys2Proof.Machine

/-- The flags of a value or a row (R124). -/
structure Flags where
  wide : Bool := false
  nan : Bool := false
  sat : Bool := false
  deriving DecidableEq, Repr

/-- Either's flags. -/
def Flags.or (a b : Flags) : Flags := { wide := a.wide || b.wide, nan := a.nan || b.nan, sat := a.sat || b.sat }

/-- The flags of a row header. -/
def hdrFlags (h : RowHdr) : Flags := { wide := h.wide, nan := h.nan, sat := h.sat }

/-- A header with flags. -/
def withFlags (h : RowHdr) (f : Flags) : RowHdr := { h with wide := f.wide, nan := f.nan, sat := f.sat }

/-- A drained value: its element code and what happened to it. -/
structure Drained where
  code : Nat := 0
  nan : Bool := false
  sat : Bool := false
  deriving DecidableEq, Repr

/-- A value, rounded once to an element encoding, saturating to the largest finite value of its sign (R120, R121). -/
def FloatFmt.drain (f : FloatFmt) (canonical : Nat) : Num → Drained
  | .nan => { code := canonical, nan := true }
  | .inf s => { code := f.signed s f.top, sat := true }
  | .fin s m e =>
    let c := f.code m 1 e
    if f.top < c then { code := f.signed s f.top, sat := true } else { code := f.signed s c }

/-- A value divided by a step, rounded to an 8-bit two's complement code with the symmetric limit (R121). -/
def drainInt8 (step : Int) : Num → Drained
  | .nan => { nan := true }
  | .inf s => { code := if s then 0x81 else 0x7F, sat := true }
  | .fin s m e =>
    let n := roundAt m 1 e step
    if 127 < n then { code := if s then 0x81 else 0x7F, sat := true }
    else { code := if s && n != 0 then 256 - n else n }

/-- The canonical NaN code of an unscaled drain format (Table 4.9). -/
def canonNan (f : Nat) : Nat := if f = 1 then 0x7FC00000 else if f = 2 then 0x7FC0 else if f = 3 then 0x7F else 0x7E

/-- Element emax for computed scales (Table 4.9). -/
def emaxOf (f : Nat) : Int :=
  if f = 7 then 8 else if f = 8 then 15 else if f = 9 then 2 else if f = 0xA then 4 else if f = 0xB then 2 else 0

/-- The largest magnitude of a list of finite values or infinities. -/
def maxMag (l : List Num) : Num := l.foldl (fun m v => m.max v.abs) Num.zero

/-- A block of at most 32 outputs in an MX drain format: scale code and elements (R123). An infinity is first taken as
the largest finite FP32 value of its sign (R122). In a block that holds a NaN no other output is written, so none of them sets SAT,
an infinite one neither: the spec does not say (DESIGN CHOICE, log entry 51). -/
def drainBlock (f : Nat) (vs : List Num) : Nat × List Drained :=
  if vs.any Num.isNan then (0xFF, vs.map (fun v => { code := 0, nan := v.isNan }))
  else
    let ws := vs.map (fun v => if v.isInf then ((fp32Sat v).1, true) else (v, false))
    let top := maxMag (ws.map (fun e => e.1))
    if top.isZero then (0, ws.map (fun _ => {}))
    else
      let ex := max (-127) (min 127 (top.log2Floor - emaxOf f))
      let scale := (ex + 127).toNat
      (scale, ws.map (fun e =>
        let d := match e.1 with
          | .fin s m x => if f = fMXINT8 then drainInt8 (-6) (.fin s m (x - ex)) else (elemFmt f).drain 0 (.fin s m (x - ex))
          | x => (elemFmt f).drain 0 x
        { d with sat := d.sat || e.2 }))

/-- Cuts a list into runs of n. -/
def runsOf {α : Type} (n : Nat) : Nat → List α → List (List α)
  | 0, _ => []
  | k + 1, l => if l.isEmpty then [] else l.take n :: runsOf n k (l.drop n)

/-- A row of values in a drain format as bytes (R114, R123), and what happened to each. -/
def drainRow (f : Nat) (vs : List Num) : List Byte × List Drained :=
  if isMx f then
    let blocks := (runsOf 32 (vs.length / 32 + 1) vs).map (drainBlock f)
    let codes := blocks.flatMap (fun b => b.2.map (fun d => d.code) ++ List.replicate (32 - b.2.length) 0)
    let packed := packCodes f codes
    (packed ++ List.replicate (scaleOff f vs.length - packed.length) 0 ++ blocks.map (fun b => BitVec.ofNat 8 b.1),
      blocks.flatMap (fun b => b.2))
  else
    let ds := vs.map (fun v => if f = fINT8 then drainInt8 0 v else (elemFmt f).drain (canonNan f) v)
    (packCodes f (ds.map (fun d => d.code)), ds)

/-- The flags of drained values. -/
def drainFlags (ds : List Drained) : Flags := { nan := ds.any (fun d => d.nan), sat := ds.any (fun d => d.sat) }

/-- Bytes padded with zeros to whole 64-byte units (R135). -/
def pad64 (bs : List Byte) : List Byte := bs ++ List.replicate (ceilDiv bs.length 64 * 64 - bs.length) 0

/-- Input elements as FP32, exactly; a scaled value beyond the FP32 range saturates (R145). -/
def fp32In (vs : List Num) : List Num × Bool :=
  (vs.map (fun v => match v with
    | .fin _ _ _ => (fp32Sat v).1
    | x => x),
   vs.any (fun v => match v with
    | .fin _ _ _ => (fp32Sat v).2
    | _ => false))

end Sys2Proof.Machine
end

