-- ==== Sys2Proof/Machine/Mesh.lean ====
section
/-! DEFINITION. Rows on the mesh and the running of a stage's entries: which rows feed an operand, when an operand is
complete, and what a stage sends (R135 to R139, R143, log entry 10). -/

namespace Sys2Proof.Machine

/-! ## Producers of an operand -/

/-- The entries of a stage that write a tensor. -/
def Image.writes (g : Image) (t : Stage) (x : Nat) : List Nat :=
  ((g.opsOf t).filter (fun e => e.2.outs.contains x)).map (fun e => e.1)

/-- The descriptor field that names the producer of input k of a stage. -/
def Stage.srcField (t : Stage) (k : Nat) : Nat :=
  if t.kind = kM then t.f 0x24 2 else if t.kind = kA then t.f 0x24 2
  else if t.kind = kS ∧ t.f 0x40 1 = 2 ∧ k = 0 then t.f 0x4A 2
  else if t.kind = kS then t.f 0x20 2
  else if k = 0 then t.f 0x20 2 else t.f 0x22 2

/-- The producers of input k of an entry that reads tensor x: (cell, entry) pairs by descriptor. An operand that no operator
writes is fed by the last entry of the cell that the descriptor names (log entry 10). -/
def Image.feeds (g : Image) (t : Stage) (x k : Nat) : List (Nat × Option Nat) :=
  let named := t.srcField k
  let of := fun (u : Stage) => (g.writes u x).map (fun e => (u.cell, some e))
  let writers := (g.stages.filter (fun u => u.dst.contains t.cell && u.cell != t.cell)).flatMap of
  let alone := (named, (g.stages.find? (fun u => u.cell == named)).map (fun u => u.opCount - 1))
  if t.kind = kM ∨ t.kind = kA then
    match (g.stages.find? (fun u => u.cell == named)).map of with
    | some (p :: r) => p :: r
    | _ => [alone]
  else if writers.isEmpty then (if named = 0xFFFF then [] else [alone]) else writers

/-- An operand's rows come from an earlier entry of the same stage. -/
def Image.inner (g : Image) (t : Stage) (x i : Nat) : Option Nat :=
  ((g.writes t x).filter (fun e => decide (e < i))).getLast?

/-- Whether a row was sent by a producer. -/
def sentBy (p : Program) (r : MeshRow) (f : Nat × Option Nat) : Bool :=
  r.hdr.src.toNat == p.runner f.1 && (match f.2 with
    | some e => r.hdr.op.toNat == e
    | none => true)

/-- The rows that feed input k of an entry, without the markers of producers that have none. -/
def State.rowsFor (s : State) (j c : Nat) (t : Stage) (i x k : Nat) : List MeshRow :=
  let g := s.image j
  match g.inner t x i with
  | some e => ((s.cell c).rowsOut.filter (fun r => r.1 == c && r.2.hdr.op.toNat == e)).map (fun r => r.2)
  | none => (s.cell c).rowsIn.filter (fun r => !r.hdr.empty && (g.feeds t x k).any (sentBy (s.prog j) r))

/-- Whether the operand is complete: a last row is held from every producer that feeds it (R139). -/
def State.inputDone (s : State) (j c : Nat) (t : Stage) (i x k : Nat) : Bool :=
  let g := s.image j
  match g.inner t x i with
  | some e => (s.cell c).doneOps.contains e
  | none => (g.feeds t x k).all (fun f => (s.cell c).rowsIn.any (fun r => r.hdr.last && r.hdr.src.toNat == (s.prog j).runner f.1))

/-- The number of elements of a row that an entry of a stage sends. -/
def outWidth (t : Stage) (i : Nat) : Nat :=
  if t.kind = kM then mNcnt t i else if t.kind = kV then t.e i 4 4
  else if t.kind = kG then (if t.e i 0 1 = 2 ∧ bitOf (t.e i 2 1) 1 then t.e i 4 4 else t.e i 8 4)
  else if t.kind = kA then t.f 0x30 2 * t.f 0x2C 2 * t.f 0x2A 2 else 0

/-- The first column of the rows that an entry of a stage sends. -/
def outCol (t : Stage) (i : Nat) : Nat :=
  if t.kind = kM then mNlo t i else if t.kind = kA then t.f 0x2E 2 * t.f 0x2C 2 * t.f 0x2A 2 else 0

/-- Whether an entry of a stage is a ROUTE. -/
def isRoute (t : Stage) (i : Nat) : Bool := t.kind == kG && t.e i 0 1 == 4

/-- The producers whose rows an entry sends on as they came: a ROUTE those of its activation rows, a collective those of its own data. -/
def Image.passesOn (g : Image) (t : Stage) (i : Nat) : List (Stage × Nat) :=
  let all := fun (f : Nat × Option Nat) => match g.stageAt f.1 with
    | none => []
    | some u => (match f.2 with
      | some e => [e]
      | none => List.range u.opCount).map (fun e => (u, e))
  let own := (g.feeds t ((g.oper (t.firstOp + i)).ins.getD 0 0xFFFF) 0).flatMap all
  if isRoute t i then (if t.f 0x22 2 = 0xFFFF then own else all (t.f 0x22 2, none))
  else if t.kind = kL then own else []

/-- The elements of a row that entry i of a stage sends from a column on; 0 where its descriptor and those of the stages before it give no
number. What ROUTE and a collective send on keeps the width it came with (R114, R156, R161). -/
def Image.sentWidth (g : Image) : Nat → Stage → Nat → Nat → Nat
  | 0, t, i, _ => outWidth t i
  | fuel + 1, t, i, col =>
    if outWidth t i ≠ 0 then outWidth t i
    else
      let ps := g.passesOn t i
      match (ps.find? (fun p => outCol p.1 p.2 == col)).orElse (fun _ => ps.head?) with
      | none => 0
      | some p => g.sentWidth fuel p.1 p.2 col

/-- The elements that a received row of a format carries. The results of a ROUTE, which name no expert, and the parts of rows that a
reduce-scatter gives (R161) fill their bytes. -/
def State.rowWidth (s : State) (j f : Nat) (r : MeshRow) : Nat :=
  let g := s.image j
  let i := r.hdr.op.toNat
  let w := match (s.prog j).stagesAt.find? (fun e => e.1 == r.hdr.src.toNat) with
    | some (_, t) =>
      if (isRoute t i && r.hdr.expert.toNat == 0xFFFF) || (t.kind == kL && t.e i 0 1 == 1) then 0
      else g.sentWidth g.stages.length t i r.hdr.col.toNat
    | none => 0
  if w = 0 then r.data.length * 8 / elemBits f else w

/-- The format of the elements of a received row: that of its producer's output, which a row fed to an operand that no
operator writes keeps (log entry 10). -/
def State.sentFmt (s : State) (j f : Nat) (rs : List MeshRow) : Nat :=
  match rs with
  | [] => f
  | r :: _ =>
    match (s.prog j).stagesAt.find? (fun e => e.1 == r.hdr.src.toNat) with
    | none => f
    | some (_, t) =>
      if t.kind = kM then t.f 0x22 1 else if t.kind = kA then t.f 0x21 1
      else match ((s.image j).oper (t.firstOp + r.hdr.op.toNat)).outs with
        | [] => f
        | x :: _ => ((s.image j).tensor x).fmt

/-- A slice of a token row: first column and values. -/
structure Piece where
  col : Nat
  vals : List Num
  deriving DecidableEq, Repr

/-- The slices of one token row of a stream, as values of a format. -/
def State.pieces (s : State) (j f : Nat) (rs : List MeshRow) : List Piece :=
  rs.map (fun r => { col := r.hdr.col.toNat, vals := rowValues f (s.rowWidth j f r) r.data })

/-- n values from column lo on: each from the slice that starts last at or before it, zero where none carries it. -/
def gather (ps : List Piece) (lo n : Nat) : List Num :=
  (List.range n).map (fun i =>
    let k := lo + i
    match ps.foldl (fun (best : Option Piece) p =>
        if k < p.col then best else match best with
          | none => some p
          | some b => if b.col ≤ p.col then some p else some b) none with
    | some p => p.vals.getD (k - p.col) .zero
    | none => .zero)

/-- The distinct token rows of a list, with their slices, both in order of arrival. -/
def arrivalRows (rs : List MeshRow) : List (RowHdr × List MeshRow) :=
  let keys := rs.foldl (fun (acc : List RowHdr) r =>
    if acc.any (fun h => h.stream == r.hdr.stream && h.row == r.hdr.row && h.expert == r.hdr.expert) then acc
    else acc ++ [r.hdr]) []
  keys.map (fun h => (h, rs.filter (fun r => h.stream == r.hdr.stream && h.row == r.hdr.row && h.expert == r.hdr.expert)))

/-- The distinct token rows of a list; ascending token row. -/
def tokenRows (rs : List MeshRow) : List (RowHdr × List MeshRow) := sortBy (fun e => e.1.row.toNat) (arrivalRows rs)

/-- The flags of the slices of a row. -/
def rowFlags (rs : List MeshRow) : Flags := rs.foldl (fun f r => f.or (hdrFlags r.hdr)) {}

/-- A pass may be in progress in an M cell: its stage has started and has entries to run, and rows have come (R131). -/
def State.showPass (s : State) (c : Nat) : State :=
  let x := s.cell c
  match s.stageOf c with
  | some (j, t) =>
    if t.kind = kM ∧ x.started.isSome ∧ x.finished.isNone ∧ x.doneOps.length < t.opCount ∧ !(s.prog j).invalid ∧
        x.rowsIn.any (fun r => !r.hdr.empty) then s.putF F.mxcStat_busy c 1 else s
  | none => s

/-! ## Sending -/

/-- The consumers of a stage as they run now. -/
def State.consumers (s : State) (j : Nat) (t : Stage) : List Nat := t.dst.map (s.prog j).runner

/-- A stage sends rows of an entry to consumers, and keeps them for its own later entries. A row stands in rowsOut from when it is
made; while the consumer has no buffer room the producer holds it, and it arrives later: MESH_ROW is its arrival (R137). -/
def State.emitTo (s : State) (c : Nat) (ds : List Nat) (rows : List MeshRow) : State :=
  s.modCell c (fun x => { x with rowsOut := x.rowsOut ++ rows.map (fun r => (c, r)) ++ ds.flatMap (fun d => rows.map (fun r => (d, r))) })

/-- A row of an entry made from a header. -/
def mkRow (h : RowHdr) (c i col : Nat) (f : Flags) (bs : List Byte) : MeshRow :=
  { hdr := withFlags { h with src := BitVec.ofNat 10 c, op := BitVec.ofNat 6 i, col := BitVec.ofNat 24 col, last := false, empty := false } f,
    data := pad64 bs }

/-- Marks an entry as run. -/
def State.entryDone (s : State) (c i : Nat) : State := s.modCell c (fun x => { x with doneOps := x.doneOps ++ [i] })

/-- Sets last on the last row for a consumer, or adds the marker of a producer with nothing to send (R139, R143). -/
def closeRows (c d op : Nat) (rows : List (Nat × MeshRow)) : List (Nat × MeshRow) :=
  let n := rows.length
  match ((rows.zip (List.range n)).filter (fun e => e.1.1 == d)).getLast? with
  | some (_, k) => (rows.zip (List.range n)).map (fun e =>
      if e.2 = k then (e.1.1, { e.1.2 with hdr := { e.1.2.hdr with last := true } }) else e.1)
  | none => rows ++ [(d, { hdr := { src := BitVec.ofNat 10 c, op := BitVec.ofNat 6 op, last := true, empty := true } })]

/-- Every entry has run: the stage's output to each consumer ends. -/
def State.closeStage (s : State) (j c : Nat) (t : Stage) : State :=
  (s.consumers j t).eraseDups.foldl (fun s d =>
    s.modCell c (fun x => { x with rowsOut := closeRows c d (t.opCount - 1) x.rowsOut })) s

/-- The token rows given to a program for the tick: stream, position, token, in the order of R374. -/
def State.tickRows (s : State) (j : Nat) : List (Nat × TokRow) :=
  (s.streamsOf j).flatMap (fun i => if (s.stream i).failed then [] else (s.stream i).rows.map (fun r => (i, r)))

/-- The header of token row n of a stream. -/
def State.tokenHdr (s : State) (n i pos : Nat) : RowHdr :=
  { stream := BitVec.ofNat 16 i, epoch := BitVec.ofNat 8 (s.stream i).epoch, row := BitVec.ofNat 12 n, pos := BitVec.ofNat 20 pos }

end Sys2Proof.Machine
end

