-- ==== Sys2Proof/Machine/Ports.lean ====
section
/-! DEFINITION. Ring ports (R315 to R323, R162): where envelopes go, replay buffers, link failures during a collective, and the
control words as they are sent (R320, R321). -/

namespace Sys2Proof.Machine

/-- The plane and side of a port (Table 0.7), its opposite on the same plane, its like on the sibling plane. -/
def portPlane (p : Nat) : Nat := p / 2
def opposite (p : Nat) : Nat := Nat.xor p 1
def sibling (p : Nat) : Nat := Nat.xor p 2

/-- The states of LNK_STAT.state. -/
def lnkUntrained : Nat := 0
def lnkLoop : Nat := 1
def lnkTraining : Nat := 2
def lnkFull : Nat := 3
def lnkHalf : Nat := 4
def lnkDown : Nat := 5
def lnkReset : Nat := 6

def State.lnk (s : State) (p : Nat) : Nat := s.getF F.lnkStat_state p

/-- A port is up, and carries envelopes. -/
def State.portUp (s : State) (p : Nat) : Bool := s.lnk p == lnkFull || s.lnk p == lnkHalf
def State.portCarries (s : State) (p : Nat) : Bool := s.portUp p && !(s.port p).retraining

/-! ## Envelopes (Table 11.2, R319) -/

/-- Bytes 0x000 to 0x11B of an envelope. -/
def envBytes (e : Envelope) : List Byte :=
  [1, e.flags] ++ leBytes 2 e.srcPart.toNat ++ leBytes 2 e.srcCell.toNat ++ leBytes 2 e.dstPart.toNat ++ leBytes 2 e.dstCell.toNat ++
  leBytes 2 e.sheaf.toNat ++ [e.sheafEpoch, 0] ++ leBytes 2 e.entry.toNat ++ leBytes 4 e.offset.toNat ++ leBytes 2 e.seq.toNat ++
  leBytes 2 e.tick.toNat ++ leBytes 4 0 ++ slice e.payload 0 256

/-- Its CRC is right. -/
def envOk (e : Envelope) : Bool := e.crc == crc32 (envBytes e)

/-- Whether an envelope is marked as rerouted (R323). -/
def envRerouted (e : Envelope) : Bool := e.flags.getLsbD 1

/-! ## Link failures (R162) -/

/-- A cell has a stage in the current tick that has not finished. -/
def Cell.unfinished (x : Cell) : Bool := x.job.isSome && x.finished.isNone && !x.inReset

/-- The cells with an unfinished stage. -/
def State.unfinished (s : State) : List Nat := (s.cells.filter (fun e => e.2.unfinished)).map (fun e => e.1)

/-- An entry of an L stage is a collective over a ring, 0 the row ring and 1 the column ring. -/
def spansRing (t : Stage) (i r : Nat) : Bool := t.kind == kL && (t.e i 2 1 == r + 1 || t.e i 2 1 == 3)

/-- A cell has a collective over a ring still to do. -/
def State.ringLeft (s : State) (c : Nat) (t : Stage) (r : Nat) : Bool :=
  (List.range t.opCount).any (fun i => !(s.cell c).doneOps.contains i && spansRing t i r)

/-- A link failure on some rings during a collective: the tick is invalidated for every program with an unfinished collective over one of
them (R162), and the sheafs of the program show it (Table 2.9; log entry 53). -/
def State.linkFailure (s : State) (rs : List Nat) : State :=
  s.unfinished.foldl (fun s c => match s.stageOf c with
    | some (j, t) => if rs.any (s.ringLeft c t) then ((s.bump F.celColl_failed c).invalidate j).errsum (s.sheafsOfJob j) 2 else s
    | none => s) s

/-! ## Sending (R320, R323) -/

/-- A port sends an envelope under its next sequence number, or keeps it until there is a free buffer on the far side and room
in the replay buffer. -/
def State.transmit (s : State) (p : Nat) (e : Envelope) : State :=
  let x := s.port p
  if x.credits = 0 ∨ 512 ≤ x.replay.length then s.setPort p { x with waiting := x.waiting ++ [e] }
  else
    let e := { e with seq := BitVec.ofNat 16 x.txSeq }
    let e := { e with crc := crc32 (envBytes e) }
    (s.setPort p { x with txSeq := (x.txSeq + 1) % 65536, credits := x.credits - 1, replay := x.replay ++ [(e, 0)] }).send (.env p e)

/-- An envelope for a port: on the sibling plane when the port cannot carry it, marked as rerouted, which an L cell of this part notes of
its collective; on neither, a link failure of the ring (R323, R162). -/
def State.sendEnv (s : State) (p : Nat) (e : Envelope) : State :=
  if s.portCarries p then s.transmit p e
  else if s.portCarries (sibling p) then
    let s := if e.srcPart.toNat = s.own then s.modCell e.srcCell.toNat (fun x => { x with rerouted := x.rerouted || x.unfinished }) else s
    s.transmit (sibling p) { e with flags := e.flags ||| 2 }
  else s.linkFailure [p / 4]

/-- What a port keeps waiting goes on as far as it can. -/
def State.flushPort (s : State) (p : Nat) : State :=
  let ws := (s.port p).waiting
  ws.foldl (fun s e => s.transmit p e) (s.modPort p (fun x => { x with waiting := [] }))

/-- A port that stops carrying: every unacknowledged and every waiting envelope moves to the sibling plane. -/
def State.movePort (s : State) (p : Nat) : State :=
  let x := s.port p
  let es := x.replay.map (fun e => e.1) ++ x.waiting
  let s := s.setPort p { x with replay := [], waiting := [] }
  let s := if s.portCarries (sibling p) then s.putF F.lnkStat_rerouted p 1 else s
  es.foldl (fun s e => s.sendEnv p e) s

end Sys2Proof.Machine
end

