-- ==== Sys2Proof/Machine/VCell.lean ====
section
/-! DEFINITION. Vector cells: normalisation, activation tables, rotary encoding, residual sums, conversion, COMBINE, SCAN
and POOL (R144 to R153, R544). -/

namespace Sys2Proof.Machine

/-- A sum in FP32 in ascending order; +0 for none. -/
def fsum : List Num → Num
  | [] => .zero
  | x :: r => r.foldl fadd x

/-- FP32 values of a parameter tensor's bytes. -/
def f32s (bs : List Byte) (o n : Nat) : List Num := (List.range n).map (fun i => ofBits32 (fieldAt bs (o + 4 * i) 4))

/-- NORM (R147). -/
def normRow (layer : Bool) (eps : Num) (gamma beta xs : List Num) : List Num :=
  let n := Num.ofNat xs.length
  if layer then
    let mu := fdiv (fsum xs) n
    let ds := xs.map (fun x => fsub x mu)
    let v := fdiv (fsum (ds.map (fun d => fmul d d))) n
    let r := rsqrt (fadd v eps)
    ((ds.zip gamma).zip beta).map (fun e => fadd (fmul (fmul e.1.1 r) e.1.2) e.2)
  else
    let m := fdiv (fsum (xs.map (fun x => fmul x x))) n
    let r := rsqrt (fadd m eps)
    (xs.zip gamma).map (fun e => fmul (fmul e.1 r) e.2)

/-- ⌊x⌋ of a finite value. -/
def floorOf : Num → Int
  | .fin s m e =>
    let v := scaled s m e (min e 0)
    v / (2 ^ (-e).toNat : Nat)
  | _ => 0

/-- One activation table evaluation (R148). -/
def actTable (tab : List Byte) (x : Num) : Num :=
  let u := fmul (fsub x (ofBits32 (fieldAt tab 0 4))) (ofBits32 (fieldAt tab 4 4))
  let seg := fun (i : Nat) (t : Num) =>
    let c := fun k => ofBits32 (fieldAt tab (16 + 16 * i + 4 * k) 4)
    fadd (fmul (fadd (fmul (fadd (fmul (c 3) t) (c 2)) t) (c 1)) t) (c 0)
  let outside := fun (mode i : Nat) =>
    if mode = 0 then .zero else if mode = 1 then x else seg i (fsub u (Num.ofNat i))
  if x.isNan || u.isNan then .nan
  else
    let below := if u.isInf then u.isNeg else decide (floorOf u < 0)
    let above := if u.isInf then !u.isNeg else decide (62 < floorOf u)
    if below then outside (fieldAt tab 8 1) 0
    else if above then outside (fieldAt tab 9 1) 62
    else let i := (floorOf u).toNat
         seg i (fsub u (Num.ofNat i))

/-- ROTARY of one head (R150): pairs (2i, 2i + 1), or (i, i + r ÷ 2). -/
def rotaryHead (split : Bool) (r pos : Nat) (theta xs : List Num) : List Num :=
  let half := r / 2
  let partner := fun (j : Nat) => if split then (if j < half then (j, j + half, true) else (j - half, j, false))
    else (if j % 2 = 0 then (j, j + 1, true) else (j - 1, j, false))
  (xs.zip (List.range xs.length)).map (fun e =>
    if r ≤ e.2 then e.1
    else
      let (a, b, first) := partner e.2
      let i := if split then a else a / 2
      let ang := (Num.ofNat pos).mul (theta.getD i .zero)
      let xa := xs.getD a .zero
      let xb := xs.getD b .zero
      if first then fsub (fmul xa (fcos ang)) (fmul xb (fsin ang))
      else fadd (fmul xa (fsin ang)) (fmul xb (fcos ang)))

/-- The state step of SCAN for one token row (R153): the state h by i then j, and the output. -/
def scanStep (n w : Nat) (d : List Num) (h : List (List Num)) (row : List Num) : List (List Num) × List Num :=
  let x := fun i => row.getD i .zero
  let a := fun i => row.getD (n + i) .zero
  let b := fun j => row.getD (2 * n + j) .zero
  let c := fun j => row.getD (2 * n + w + j) .zero
  let h' := (List.range n).map (fun i => (List.range w).map (fun j =>
    fadd (fmul (a i) ((h.getD i []).getD j .zero)) (fmul (b j) (x i))))
  (h', (List.range n).map (fun i =>
    fadd (fsum ((List.range w).map (fun j => fmul (c j) ((h'.getD i []).getD j .zero)))) (fmul (d.getD i .zero) (x i))))

/-- FP32 values of n elements of the slices of a row, with the saturation of R145. -/
def State.fp32Row (s : State) (j f lo n : Nat) (rs : List MeshRow) : List Num × Bool :=
  let (vs, sat) := fp32In (gather (s.pieces j f rs) lo n)
  (vs, sat)

/-- A row of one producer's slices as an input, with the flag of what it saturates (R145). -/
def State.plainRow (s : State) (j f n : Nat) (rs : List MeshRow) : List Num × Flags :=
  let (v, sat) := s.fp32Row j f 0 n rs
  (v, { sat := sat })

/-- A V stage's input row: one producer's slices, or the sum of its partial shares in ascending producer, with their flags (R146). -/
def State.vInput (s : State) (j : Nat) (t : Stage) (i n : Nat) (rs : List MeshRow) : List Num × Flags :=
  let fl := rowFlags rs
  if t.e i 0xC 1 < 2 then s.plainRow j (t.e i 1 1) n rs
  else
    let srcs := sortBy id ((rs.map (fun r => r.hdr.src.toNat)).eraseDups)
    let shares := srcs.map (fun c => gather (s.pieces j fFP32 (rs.filter (fun r => r.hdr.src.toNat == c))) 0 n)
    (match shares with
      | [] => List.replicate n .zero
      | x :: r => r.foldl (fun acc y => (acc.zip y).map (fun e => fadd e.1 e.2)) x, fl)

/-- Counts and sends one output row of a V stage. -/
def State.vEmit (s : State) (j c : Nat) (t : Stage) (i : Nat) (h : RowHdr) (fl : Flags) (vs : List Num) : State :=
  let (bs, ds) := drainRow (t.e i 2 1) vs
  let f := fl.or (drainFlags ds)
  let s := (s.bump F.celVec_sat c (ds.filter (fun d => d.sat)).length).bump F.celVec_nan c (ds.filter (fun d => d.nan)).length
  s.emitTo c (s.consumers j t) [mkRow h c i 0 f bs]

/-- The bytes of parameters that an entry reads at p_addr (Table 5.5). -/
def vParamBytes (t : Stage) (i dh : Nat) : Nat :=
  let fn := t.e i 0 1
  let n := t.e i 4 4
  if fn = 1 then (if bitOf (t.e i 3 1) 0 then 8 * n else 4 * n) else if fn = 2 then 1024
  else if fn = 3 then 4 * (dh / 2) else if fn = 7 then 4 * n else 0

/-- An activation table in its slot, copied in the first tick in which the stage runs (R149). -/
def State.heldTable (s : State) (c : Nat) (t : Stage) (i : Nat) : State × Option (List Byte) :=
  let slot := t.e i 0xD 1
  match (s.cell c).tables.find? (fun e => e.1 == slot) with
  | some (_, b) => (s, some b)
  | none =>
    match s.stageRead c (t.e i 0x10 8) 1024 with
    | (s, some b) => ((s.modCell c (fun x => { x with tables := x.tables ++ [(slot, b)] })).putF F.celStat_tables c 1, some b)
    | (s, none) => (s, none)

/-- The parameters of an entry; nothing when their read failed. -/
def State.vParams (s : State) (c : Nat) (t : Stage) (i dh : Nat) : State × Option (List Byte) :=
  if t.e i 0 1 = 2 then s.heldTable c t i else s.stageRead c (t.e i 0x10 8) (vParamBytes t i dh)

/-- The row of a list with the same stream and token row. -/
def partnerOf (h : RowHdr) (rs : List (RowHdr × List MeshRow)) : Option (List MeshRow) :=
  (rs.find? (fun e => e.1.stream == h.stream && e.1.row == h.row)).map (fun e => e.2)

/-- SCAN over the rows of one stream: the state is read from the validated copy and written to the other. -/
def State.scanStream (s : State) (j c : Nat) (t : Stage) (i : Nat) (d : List Num) (place : Place) (z : Nat)
    (rows : List (RowHdr × List MeshRow)) (stream : Nat) : State :=
  let n := t.e i 4 4
  let w := t.e i 8 4
  let st := s.stream stream
  let base := place.addr + st.slot * z
  let copy := fun (b : Bool) => base + (if b then n * w * 4 else 0)
  match s.stageRead c (copy st.stateSel) (n * w * 4) with
  | (s, none) => s
  | (s, some bs) =>
    let h0 := (List.range n).map (fun k => f32s bs (4 * w * k) w)
    let mine := sortBy (fun r => r.1.pos.toNat) (rows.filter (fun r => r.1.stream.toNat == stream))
    let (s, h) := mine.foldl (fun (acc : State × List (List Num)) r =>
      let (v, fl) := acc.1.vInput j t i (2 * n + 2 * w) r.2
      let (h', y) := scanStep n w d acc.2 v
      (acc.1.vEmit j c t i r.1 fl y, h')) (s, h0)
    s.stageWrite c (copy (!st.stateSel)) (h.flatMap (fun r => r.flatMap (fun v => leBytes 4 (bits32 v))))

/-- The ROUTE result of a token row: (expert, weight) by rank, a dropped one without expert (log entry 11). -/
def routeResult (k : Nat) (bs : List Byte) : List (Option Nat × Num) :=
  (List.range k).map (fun i =>
    let e := fieldAt bs (4 * i) 4
    (if e = 0xFFFFFFFF then none else some e, ofBits32 (fieldAt bs (4 * k + 4 * i) 4)))

/-- The activation tables of a V stage's entries are copied in the first tick in which it runs (R149). -/
def State.vTables (s : State) (c : Nat) (t : Stage) : State :=
  ((List.range t.opCount).filter (fun i => t.e i 0 1 == 2)).foldl (fun s i => (s.heldTable c t i).1) s

/-- One entry of a V stage over its complete rows. An ACT with both gate bits takes the gate row of src1: the spec gives both bits no
meaning (DESIGN CHOICE, log entry 51). -/
def State.vEntry (s : State) (j c : Nat) (t : Stage) (i : Nat) : State :=
  let g := s.image j
  let p := g.oper (t.firstOp + i)
  let fn := t.e i 0 1
  let n := t.e i 4 4
  let opt := t.e i 3 1
  let dh := (g.tensor (p.ins.getD 0 0)).dim 2
  let rows := tokenRows (s.rowsFor j c t i (p.ins.getD 0 0xFFFF) 0)
  let others := tokenRows (s.rowsFor j c t i (p.ins.getD 1 0xFFFF) 1)
  let src1 := tokenRows ((s.cell c).rowsIn.filter (fun r => !r.hdr.empty && r.hdr.src.toNat == (s.prog j).runner (t.f 0x22 2)))
  let (s, params) := if rows.isEmpty then (s, some []) else s.vParams c t i dh
  match params with
  | none => s
  | some pb =>
    let s :=
      if fn = 7 then
        match g.scanState p with
        | none => s
        | some (pl, z) => ((rows.map (fun r => r.1.stream.toNat)).eraseDups).foldl
            (fun s k => s.scanStream j c t i (f32s pb 0 n) pl z rows k) s
      else if fn = 8 then
        ((rows.map (fun r => r.1.stream)).eraseDups).foldl (fun s k =>
          let mine := rows.filter (fun r => r.1.stream == k)
          let vals := mine.map (fun r => s.vInput j t i n r.2)
          let fl := (vals.map (fun v => v.2)).foldl Flags.or {}
          let cols := fun (x : Nat) => vals.map (fun v => v.1.getD x .zero)
          let out := if opt = 0 then (vals.headD ([], {})).1 else if opt = 1 then (vals.getLastD ([], {})).1
            else (List.range n).map (fun x => fdiv (fsum (cols x)) (Num.ofNat mine.length))
          let f := if opt = 0 then (vals.headD ([], {})).2 else if opt = 1 then (vals.getLastD ([], {})).2 else fl
          s.vEmit j c t i (mine.getLastD ({}, [])).1 f out) s
      else if fn = 4 then
        let keys := sortBy (fun h : RowHdr => h.row.toNat) (rows.map (fun r => r.1) ++
          (others.filter (fun o => (partnerOf o.1 rows).isNone)).map (fun o => o.1))
        keys.foldl (fun s h =>
          let va := (partnerOf h rows).map (fun rs => s.vInput j t i n rs)
          let vb := (partnerOf h others).map (s.plainRow j (t.e i 1 1) n)
          match va, vb with
          | some a, some b => s.vEmit j c t i h (a.2.or b.2) ((a.1.zip b.1).map (fun e => fadd e.1 e.2))
          | some a, none => s.vEmit j c t i h a.2 a.1
          | none, some b => s.vEmit j c t i h b.2 b.1
          | none, none => s) s
      else if fn = 6 then
        let k := t.e i 8 4
        src1.foldl (fun s r =>
          let res := routeResult k ((r.2.headD {}).data)
          let mine := rows.filter (fun e => e.1.stream == r.1.stream && e.1.row == r.1.row)
          let terms := res.filterMap (fun a => match a.1 with
            | none => none
            | some ex => (mine.find? (fun e => e.1.expert.toNat == ex)).map (fun e => (a.2, s.vInput j t i n e.2)))
          let out := (List.range n).map (fun x => fsum (terms.map (fun a => fmul a.1 (a.2.1.getD x .zero))))
          s.vEmit j c t i { r.1 with expert := 0xFFFF } ((terms.map (fun a => a.2.2)).foldl Flags.or {}) out) s
      else
        rows.foldl (fun s r =>
          let wide := if fn = 2 ∧ !bitOf opt 0 ∧ bitOf opt 1 then 2 * n else n
          let (v, fl) := s.vInput j t i wide r.2
          let gate := match (if fn = 2 ∧ bitOf opt 0 then partnerOf r.1 src1 else none) with
            | some rs => s.plainRow j (t.e i 1 1) n rs
            | none => (List.replicate n .zero, {})
          let out :=
            if fn = 1 then normRow (bitOf opt 0) (ofBits32 (t.e i 8 4)) (f32s pb 0 n) (f32s pb (4 * n) n) v
            else if fn = 2 then
              let y := (v.take n).map (actTable pb)
              if bitOf opt 0 then (y.zip gate.1).map (fun e => fmul e.1 e.2)
              else if bitOf opt 1 then (y.zip (v.drop n)).map (fun e => fmul e.1 e.2)
              else y
            else if fn = 3 then
              let rw := if t.e i 8 4 = 0 then dh else t.e i 8 4
              (runsOf (max dh 1) (n / max dh 1 + 1) v).flatMap (rotaryHead (bitOf opt 0) rw r.1.pos.toNat (f32s pb 0 (dh / 2)))
            else v
          s.vEmit j c t i r.1 (fl.or gate.2) out) s
    if (s.prog j).invalid && fn = 7 then s else s.entryDone c i

end Sys2Proof.Machine
end

