-- ==== Sys2Proof/Machine/GCell.lean ====
section
/-! DEFINITION. Gather cells: EMBED, GATHER, SCATTER, ROUTE (R154 to R158) and KVAPPEND with Winnow's evictions (R204 to
R207, R214, R215, R220 to R222, R548). -/

namespace Sys2Proof.Machine

/-! ## Indices -/

/-- The indices that one row carries: one, or as many as the producing entry sends. -/
def State.idxWidth (s : State) (j : Nat) (r : MeshRow) : Nat :=
  match (s.prog j).stagesAt.find? (fun e => e.1 == r.hdr.src.toNat) with
  | some (_, t) => max 1 (outWidth t r.hdr.op.toNat)
  | none => 1

/-- The indices of an input in the order they arrive, as unsigned 32-bit values (R155). -/
def State.indexRows (s : State) (j c : Nat) (t : Stage) (i x k : Nat) : List (RowHdr × Nat) :=
  (s.rowsFor j c t i x k).flatMap (fun r =>
    (List.range (s.idxWidth j r)).map (fun e => (r.hdr, fieldAt r.data (4 * e) 4)))

/-- EMBED takes the tokens of the tick's rows where no stage of the tick makes them (log entry 10). -/
def State.embedFromTick (s : State) (j : Nat) (t : Stage) : Bool :=
  let src := t.f 0x20 2
  src == 0xFFFF || (match (s.image j).stageAt src with
    | none => true
    | some u => u.kind == kS)

/-- The token rows of the tick with their headers. -/
def State.tickHdrs (s : State) (j : Nat) : List (RowHdr × Nat) :=
  let rs := s.tickRows j
  (rs.zip (List.range rs.length)).map (fun e => (s.tokenHdr e.2 e.1.1 e.1.2.pos, e.1.2.token.toNat))

/-- The indices of an EMBED or GATHER entry: tokens, an index input, or every table row (opt bit 0). -/
def State.gIndices (s : State) (j c : Nat) (t : Stage) (i : Nat) (p : Oper) : List (RowHdr × Nat) :=
  let fn := t.e i 0 1
  if fn = 1 && s.embedFromTick j t then s.tickHdrs j
  else if fn = 2 && bitOf (t.e i 2 1) 0 then
    let hs := (s.tickHdrs j).map (fun e => e.1)
    (List.range (t.e i 4 4)).map (fun n => (hs.getD n { (hs.headD {}) with row := BitVec.ofNat 12 n }, n))
  else s.indexRows j c t i (p.ins.getD 0 0xFFFF) 0

/-- The bytes of a table row; zeros for an index out of range, which is counted; nothing when its read failed. -/
def State.tableRow (s : State) (c : Nat) (t : Stage) (i idx : Nat) : State × Option (List Byte) :=
  let n := rowBytes (t.e i 1 1) (t.e i 8 4)
  if t.e i 4 4 ≤ idx then (s.bump F.celGat_range c, some (List.replicate n 0))
  else s.stageRead c (t.e i 0x10 8 + idx * t.e i 0x18 4) n

/-- Reads the table rows of a list of indices; false when a read failed. -/
def State.tableRows (s : State) (c : Nat) (t : Stage) (i : Nat) (ids : List (RowHdr × Nat)) :
    State × List (RowHdr × List Byte) × Bool :=
  ids.foldl (fun acc e =>
    if acc.2.2 then
      match acc.1.tableRow c t i e.2 with
      | (s, some b) => (s, acc.2.1 ++ [(e.1, b)], true)
      | (s, none) => (s, acc.2.1, false)
    else acc) (s, [], true)

/-- EMBED and GATHER; with opt bit 1 the gathered rows are delivered along K (R158). -/
def State.gatherEntry (s : State) (j c : Nat) (t : Stage) (i : Nat) (p : Oper) : State :=
  let fmt := t.e i 1 1
  let (s, rows, ok) := s.tableRows c t i (s.gIndices j c t i p)
  if !ok then s
  else
    let out :=
      if t.e i 0 1 = 2 && bitOf (t.e i 2 1) 1 then
        ((s.tickHdrs j).zip (List.range (t.e i 8 4))).map (fun e =>
          mkRow e.1.1 c i 0 {} (packCodes fmt (rows.map (fun r => codeAt fmt r.2 e.2))))
      else rows.map (fun r => mkRow r.1 c i 0 {} r.2)
    (s.emitTo c (s.consumers j t) out).entryDone c i

/-- SCATTER: each arriving row goes to its index; a row slice of a format without scales goes to its columns. -/
def State.scatterEntry (s : State) (j c : Nat) (t : Stage) (i : Nat) (p : Oper) : State :=
  let fmt := t.e i 1 1
  let w := t.e i 8 4
  let ids := s.indexRows j c t i (p.ins.getD 0 0xFFFF) 0
  let rows := s.rowsFor j c t i (p.ins.getD 1 0xFFFF) 1
  let same := fun (h : RowHdr) (r : MeshRow) => h.stream == r.hdr.stream && h.row == r.hdr.row && h.col == r.hdr.col
  let (s, _) := (rows.zip (List.range rows.length)).foldl (fun (acc : State × List (Nat × Nat)) e =>
    let r := e.1
    let col := r.hdr.col.toNat
    let mine := (ids.filter (fun x => x.1.stream == r.hdr.stream && x.1.row == r.hdr.row)).map (fun x => x.2)
    let n := ((rows.take e.2).filter (same r.hdr)).length
    match mine[n]? with
    | none => acc
    | some idx =>
      if t.e i 4 4 ≤ idx then (acc.1.bump F.celGat_range c, acc.2)
      else
        let s := if acc.2.contains (idx, col) then acc.1.bump F.celGat_collide c else acc.1
        let part := min (s.rowWidth j fmt r) (w - col)
        let bs := if col = 0 && w ≤ part then slice r.data 0 (rowBytes fmt w) else slice r.data 0 (codeBytes fmt part)
        (s.stageWrite c (t.e i 0x10 8 + idx * t.e i 0x18 4 + codeBytes fmt col) bs, acc.2 ++ [(idx, col)]))
    (s, [])
  s.entryDone c i

/-! ## ROUTE (R156, R157) -/

/-- e^x as R544 forms it. -/
def fexp (x : Num) : Num := exp2 (fmul x log2e)

/-- The k largest logits that are not NaN, lower expert index first among equals: (expert, logit) by rank. -/
def topExperts (k : Nat) (ls : List Num) : List (Nat × Num) :=
  (((ls.zip (List.range ls.length)).filter (fun e => !e.1.isNan)).foldl (fun (acc : List (Nat × Num)) e =>
    let (before, after) := acc.partition (fun a => e.1.le a.2)
    (before ++ (e.2, e.1) :: after)) []).take k

/-- The weights of the chosen experts (Table 5.7). The softmax subtracts the largest logit first and sums the exponentials by ascending
rank: the spec gives neither (DESIGN CHOICE, log entry 51). -/
def routeWeights (mode : Nat) (ls : List Num) (chosen : List (Nat × Num)) : List Num :=
  let soft := fun (all : List Num) =>
    let top := maxNum all
    let den := fsum (all.map (fun l => fexp (fsub l top)))
    chosen.map (fun e => fdiv (fexp (fsub e.2 top)) den)
  if mode = 0 then soft (chosen.map (fun e => e.2))
  else if mode = 1 then soft ls
  else
    let sg := chosen.map (fun e => fdiv (Num.ofNat 1) (fadd (Num.ofNat 1) (fexp e.2.negate)))
    sg.map (fun x => fdiv x (fsum sg))
where
  maxNum (l : List Num) : Num := (l.filter (fun x => !x.isNan)).foldl (fun m x => if m.lt x then x else m) (.inf true)

/-- C of R157. -/
def routeCap (cap16 tokens k experts : Nat) : Nat := max 1 (ceilDiv (cap16 * tokens * k) (16 * experts))

/-- The assignments kept: (token index, rank, expert) in ascending rank, then ascending token row, each expert holding
at most a number of rows; with the number dropped. -/
def keptRoutes (cap k : Nat) (chosen : List (List (Nat × Num))) : List (Nat × Nat × Nat) × Nat :=
  let all := (List.range k).flatMap (fun r =>
    (chosen.zip (List.range chosen.length)).filterMap (fun e => (e.1[r]?).map (fun x => (e.2, r, x.1))))
  all.foldl (fun acc a =>
    if (acc.1.filter (fun b => b.2.2 == a.2.2)).length < cap then (acc.1 ++ [a], acc.2) else (acc.1, acc.2 + 1)) ([], 0)

/-- ROUTE: result rows go to consumers other than M cells, routed activation rows to M consumers (log entry 11). -/
def State.routeEntry (s : State) (j c : Nat) (t : Stage) (i : Nat) (p : Oper) : State :=
  let g := s.image j
  let fmt := t.e i 1 1
  let experts := t.e i 4 4
  let k := t.e i 3 1
  let rows := tokenRows (s.rowsFor j c t i (p.ins.getD 0 0xFFFF) 0)
  let logits := rows.map (fun r => gather (s.pieces j fmt r.2) 0 experts)
  let chosen := logits.map (topExperts k)
  let (kept, drops) := keptRoutes (routeCap (t.e i 0xC 2) rows.length k experts) k chosen
  let acts := tokenRows ((s.cell c).rowsIn.filter (fun r => !r.hdr.empty && r.hdr.src.toNat == s.runnerOf j (t.f 0x22 2)))
  let idx := List.range rows.length
  let results := ((rows.zip idx).zip (logits.zip chosen)).map (fun e =>
    let n := e.1.2
    let ws := routeWeights (t.e i 2 1 % 4) e.2.1 e.2.2
    let held := fun r => kept.any (fun a => a.1 == n && a.2.1 == r)
    let ids := (List.range k).flatMap (fun r => leBytes 4 (if held r then (e.2.2.getD r (0xFFFFFFFF, .zero)).1 else 0xFFFFFFFF))
    let wts := (List.range k).flatMap (fun r => leBytes 4 (if held r then bits32 (ws.getD r .zero) else 0))
    mkRow e.1.1.1 c i 0 {} (ids ++ wts))
  let routed := kept.flatMap (fun a =>
    match rows[a.1]? with
    | none => []
    | some r =>
      let act := if t.f 0x22 2 = 0xFFFF then r.2 else (partnerOf r.1 acts).getD []
      act.map (fun m => mkRow { m.hdr with expert := BitVec.ofNat 16 a.2.2 } c i m.hdr.col.toNat (hdrFlags m.hdr) m.data))
  let ds := t.dst
  let isM := fun d => match g.stageAt d with
    | some u => u.kind == kM
    | none => false
  let s := s.bump F.celGat_drops c drops
  let s := s.emitTo c ((ds.filter (fun d => !isM d)).map (s.runnerOf j)) results
  let s := s.modCell c (fun x => { x with rowsOut := x.rowsOut ++ (ds.filter isM).flatMap (fun d => routed.map (fun r => (s.runnerOf j d, r))) })
  s.entryDone c i

/-! ## Quantising on store (R204) -/

/-- The limit q and the element encoding of a precision. -/
def kvQ (prec : Nat) : Nat := if prec = 1 then 448 else 6
def kvFmt (prec : Nat) : FloatFmt := if prec = 1 then fmtE4m3 else fmtE2m1

/-- A finite value. -/
def Num.isFin : Num → Bool
  | .fin _ _ _ => true
  | _ => false

/-- e of the page scale for a magnitude A: ⌈log2(A ÷ q)⌉ within −126 to 127; 0 for A = 0. -/
def pageExp (prec : Nat) (a : Num) : Int :=
  match a with
  | .fin _ m e =>
    if m = 0 then 0
    else
      let l := log2Frac m (kvQ prec) e
      let exact := !((pow2 l).mul (Num.ofNat (kvQ prec))).lt (.fin false m e)
      max (-126) (min 127 (if exact then l else l + 1))
  | _ => 0

/-- num ÷ den × 2^e rounded up to an E4M3 code, at most 448. -/
def ceilE4m3 (num den : Nat) (e : Int) : Nat :=
  let c := fmtE4m3.code num den e
  let below := ((fmtE4m3.value c).mul (Num.ofNat den)).lt (.fin false num e)
  min 0x7E (if below then c + 1 else c)

/-- x ÷ y rounded once to an element code, saturating. -/
def kvCode (f : FloatFmt) (x y : Num) : Drained :=
  match x, y with
  | .fin sg m e, .fin _ n d =>
    let c := f.code m n (e - d)
    if f.top < c then { code := f.signed sg f.top, sat := true } else { code := f.signed sg c }
  | _, _ => {}

/-- A block of at most 32 elements under a page scale 2^pe: scale code, element codes, whether NaN. -/
def kvBlock (prec : Nat) (pe : Int) (vs : List Num) : Nat × List Drained × Bool :=
  if vs.any (fun v => !v.isFin) then (0x7F, vs.map (fun _ => {}), true)
  else
    match maxMag vs with
    | .fin _ m e =>
      if m = 0 then (0, vs.map (fun _ => {}), false)
      else
        let sc := ceilE4m3 m (kvQ prec) (e - pe)
        let y := (fmtE4m3.value sc).mul (pow2 pe)
        (sc, vs.map (fun v => kvCode (kvFmt prec) v y), false)
    | _ => (0x7F, vs.map (fun _ => {}), true)

/-- The bytes of one region's record of a position, the elements or blocks stored as NaN, the elements saturated. -/
def kvRecord (prec : Nat) (pe : Int) (vs : List Num) : List Byte × Nat × Nat :=
  if prec = 0 then
    let cs := vs.map (fun v => if v.isFin then let r := bf16Sat v; (bits16 r.1, r.2) else (0x7FC0, false))
    (cs.flatMap (fun c => leBytes 2 c.1), (vs.filter (fun v => !v.isFin)).length, (cs.filter (fun c => c.2)).length)
  else
    let bl := (runsOf 32 (vs.length / 32 + 1) vs).map (kvBlock prec pe)
    let codes := bl.flatMap (fun b => b.2.1)
    (packCodes (if prec = 1 then fE4M3 else 0xB) (codes.map (fun d => d.code)) ++ bl.map (fun b => BitVec.ofNat 8 b.1),
      (bl.filter (fun b => b.2.2)).length, (codes.filter (fun d => d.sat)).length)

/-- The exponent of a page scale held as BF16 (a power of two). -/
def scaleExp (code : Nat) : Int := (code / 128 % 256 : Nat) - 127

/-! ## KVAPPEND (R206, R214, R215) -/

/-- Opens the page of a position's block for a list, under the page scales of its first position; the stream fails at
the validation point when its budget or the pool has no slot (R213, R214). -/
def State.openPage (s : State) (j c : Nat) (l : ListId) (i pos : Nat) (ks vs : List Num) : State × Option Nat :=
  let t := s.stream i
  let fail := fun (s : State) => (s.modStream i (fun t => { t with overBudget := some c }), none)
  if t.blocks ≤ pos / 64 ∨ t.budgetOf ≤ (s.held l t).length then fail s
  else match s.allocPage j l t.kv.prec with
    | (s, none) => fail s
    | (s, some page) =>
      let top := fun (v : List Num) => bits16 (pow2 (pageExp t.kv.prec (maxMag (v.filter Num.isFin))))
      let sc := fun v => if t.kv.prec = 0 then 0x3F80 else top v
      let s := s.stageWrite c (l.e.pageOf page) (pageHeader page l (pos / 64) t.kv.prec (sc ks) (sc vs) 1 i t.epoch)
      let s := if l.e.winnow then s.stageWrite c (l.e.scoresAt t.slot 0 l.head (pos / 64)) (List.replicate 256 0) else s
      let s := s.stageWrite c (l.e.tableAt t.slot l.head (pos / 64)) ({ page := page } : TableEntry).bytes
      (s.bump F.kvpStat_opened c, some page)

/-- Stores one position of one list and forwards its records. -/
def State.appendOne (s : State) (j c : Nat) (l : ListId) (i pos : Nat) (ks vs : List Num) : State :=
  let t := s.stream i
  let prec := t.kv.prec
  let (s, te) := if t.blocks ≤ pos / 64 then (s, some {}) else s.walkEntry c l t.slot (pos / 64)
  let (s, te) := match te with
    | none => (s, none)
    | some te =>
      if te.page ≠ noPage then (s, some te)
      else
        let (s, page) := s.openPage j c l i pos ks vs
        (s, page.map (fun k => { page := k }))
  match te with
  | none => s
  | some te =>
    let page := te.page
    match s.stageRead c (l.e.pageOf page) 64 with
    | (s, none) => s
    | (s, some hd) =>
      let n := pos % 64
      let rb := recBytes prec l.e.dh
      let ksc := fieldAt hd 0x10 2
      let vsc := fieldAt hd 0x12 2
      let (kb, kn, kst) := kvRecord prec (scaleExp ksc) ks
      let (vb, vn, vst) := kvRecord prec (scaleExp vsc) vs
      let s := s.stageWrite c (l.e.pageOf page + 64 + n * rb) kb
      let s := s.stageWrite c (l.e.pageOf page + 64 + (64 + n) * rb) vb
      let s := s.stageWrite c (l.e.tableAt t.slot l.head (pos / 64)) { te with live := Nat.lor te.live (2 ^ n) }.bytes
      let s := if l.e.winnow then s.stageWrite c (l.e.scoresAt t.slot te.sel l.head (pos / 64) + 4 * n) [0, 0, 0, 0] else s
      let s := (s.bump F.kvpQuant_nan c (kn + vn)).bump F.kvpQuant_sat c (kst + vst)
      s.modCell c (fun x => { x with inTick := x.inTick ++ [{
        entry := l.entry, head := l.e.kvLo + l.head, stream := i, pos := pos, keyRec := kb, valRec := vb,
        kscale := BitVec.ofNat 16 ksc, vscale := BitVec.ofNat 16 vsc, prec := prec }] })

/-- One KVAPPEND entry over the tick's key and value rows. -/
def State.appendEntry (s : State) (j c : Nat) (t : Stage) (i : Nat) (p : Oper) : State :=
  let g := s.image j
  let e := t.kv i
  let kr := s.rowsFor j c t i (p.ins.getD 0 0xFFFF) 0
  let vr := s.rowsFor j c t i (p.ins.getD 1 0xFFFF) 1
  let kf := s.sentFmt j (g.tensor (p.ins.getD 0 0)).fmt kr
  let vf := s.sentFmt j (g.tensor (p.ins.getD 1 0)).fmt vr
  let keys := tokenRows kr
  let vals := tokenRows vr
  let s := keys.foldl (fun s r =>
    let st := r.1.stream.toNat
    let pos := r.1.pos.toNat
    let before := (s.stream st).overBudget
    let s := (List.range e.kvCnt).foldl (fun s h =>
      if (s.stream st).overBudget.isSome || (s.prog j).invalid then s
      else
        let lo := (e.kvLo + h) * e.dh
        s.appendOne j c { cell := t.cell, entry := i, e := e, head := h } st pos
          (gather (s.pieces j kf r.2) lo e.dh) (gather (s.pieces j vf ((partnerOf r.1 vals).getD [])) lo e.dh)) s
    if before.isNone && (s.stream st).overBudget.isNone then s.bump F.kvpStat_appends c else s) s
  if (s.prog j).invalid then s else s.entryDone c i

/-! ## Winnow's evictions (R221, R222, R548) -/

/-- The A stages that read a list through a KVAPPEND cell. -/
def Image.readersOf (g : Image) (t : Stage) (l : ListId) : List Stage :=
  let outs := (g.oper (t.firstOp + l.entry)).outs
  g.stages.filter (fun u => u.kind == kA && u.f 0x26 2 == t.cell && outs.contains ((g.oper u.firstOp).ins.getD 1 0xFFFF) &&
    decide (u.f 0x2E 2 ≤ l.e.kvLo + l.head) && decide (l.e.kvLo + l.head < u.f 0x2E 2 + u.f 0x30 2))

/-- w and G of a list, once every A cell that reads it has sent them. -/
def State.reach (s : State) (j c : Nat) (t : Stage) (l : ListId) : Option (Nat × List Nat) :=
  let want := (s.image j).readersOf t l |>.map (fun u => s.runnerOf j u.cell)
  let got := want.filterMap (fun a => (s.cell c).readers.find? (fun r => r.1 == a))
  if got.length = want.length then some (maxList (got.map (fun r => r.2.1)), got.flatMap (fun r => r.2.2)) else none

/-- The held pages of a list as the KVAPPEND cell walks them, each with its refs and its scores; nothing when a read failed. -/
def State.walkList (s : State) (c : Nat) (l : ListId) (t : Stream) : State × Option (List (Nat × TableEntry × Nat × List Nat)) :=
  (List.range (min t.blocks l.e.blocks)).foldl (fun acc b => match acc with
    | (s, none) => (s, none)
    | (s, some ps) => match s.walkEntry c l t.slot b with
      | (s, none) => (s, none)
      | (s, some te) =>
        if te.page = noPage then (s, some ps)
        else match s.walkRefs c l.e te.page with
          | (s, none) => (s, none)
          | (s, some n) => match s.walkScores c l t.slot te.sel b with
            | (s, none) => (s, none)
            | (s, some sc) => (s, some (ps ++ [(b, te, n, sc)]))) (s, some [])

/-- The evictable positions of a list, lowest score first, lower position first among equals. -/
def evictable (pages : List (Nat × TableEntry × Nat × List Nat)) (len w : Nat) (glob : List Nat) : List Nat :=
  let lives := fun (x : Nat × TableEntry × Nat × List Nat) =>
    (List.range 64).filter (fun n => bitOf x.2.1.live n && decide (64 * x.1 + n < len))
  let able := pages.filter (fun x => x.2.2.1 == 1 && !(lives x).isEmpty && (len == 0 || x.1 != (len - 1) / 64) &&
    (lives x).all (fun n => decide (64 * x.1 + n + w ≤ len) && !glob.contains (64 * x.1 + n)))
  (sortBy (fun e => e.1 * 2 ^ 21 + e.2) (able.flatMap (fun x => (lives x).map (fun n => (x.2.2.2.getD n 0, 64 * x.1 + n))))).map
    (fun e => e.2)

/-- The loop of R222 over one list. -/
def State.winnowList (s : State) (j c : Nat) (t : Stage) (l : ListId) (i : Nat) : State :=
  let st := s.stream i
  let limit := st.budgetOf - winnowH t.tMax
  if (s.held l st).length ≤ limit then s
  else match s.reach j c t l, s.walkList c l st with
  | none, _ => s
  | _, (s, none) => s
  | some (w, glob), (s, some pages) =>
    (evictable pages st.length w glob).foldl (fun s pos =>
      if (s.held l st).length ≤ limit then s
      else
        let b := pos / 64
        let te := s.tableEntry l st.slot b
        let live := Nat.xor te.live (Nat.land te.live (2 ^ (pos % 64)))
        let s := (s.stageWrite c (l.e.tableAt st.slot l.head b) { te with live := live }.bytes).bump F.kvpWin_evicted c
        if live = 0 then (s.winnowRelease j l st.slot b s.nextEdge).bump F.kvpWin_freed c else s) s

/-- Winnow before a KVAPPEND stage's appends: each list of a stream with winnow set above budget less h. -/
def State.winnowStage (s : State) (j c : Nat) (t : Stage) : State :=
  ((List.range t.opCount).filter (fun i => t.e i 0 1 == 5)).foldl (fun s i =>
    let e := t.kv i
    ((s.streamsOf j).filter (fun k => (s.stream k).kv.winnow && !(s.stream k).failed && e.winnow)).foldl (fun s k =>
      (List.range e.kvCnt).foldl (fun s h => s.winnowList j c t { cell := t.cell, entry := i, e := e, head := h } k) s) s) s

/-! ## One entry -/

/-- One entry of a G stage over its complete rows. -/
def State.gEntry (s : State) (j c : Nat) (t : Stage) (i : Nat) : State :=
  let p := (s.image j).oper (t.firstOp + i)
  let fn := t.e i 0 1
  if fn = 3 then s.scatterEntry j c t i p
  else if fn = 4 then s.routeEntry j c t i p
  else if fn = 5 then s.appendEntry j c t i p
  else s.gatherEntry j c t i p

end Sys2Proof.Machine
end

