-- ==== Sys2Proof/Machine/Thresher.lean ====
section
/-! DEFINITION. Attention in A cells: admission, scores, the running fold, position shares, and what the cells hold and
send to Winnow (R171 to R194, R200, R205, R217, R220, R548). -/

namespace Sys2Proof.Machine

/-! ## Admission (R178 to R183) -/

/-- Bit d of a bitmap held as bytes. -/
def mapBit (m : List Byte) (d : Nat) : Bool := bitOf (m.getD (d / 8) 0).toNat (d % 8)

/-- Whether a pattern admits position q for a query at p (Table 6.1, R179, R181). -/
def admits (pat : Nat) (causal : Bool) (w : Nat) (glob : List Nat) (mask : List Byte) (p q : Nat) : Bool :=
  let swath := if causal then decide (p < q + w) && decide (q ≤ p) else decide (p < q + w) && decide (q < p + w)
  let a := p / 64
  let b := q / 64
  let block := (decide (b < 4096) && mapBit (mask.drop 512) b) ||
    (decide (b ≤ a) && decide (a - b ≤ 4095) && mapBit mask (a - b)) ||
    (!causal && decide (a < b) && decide (b - a ≤ 4095) && mapBit mask (b - a))
  let ok := if pat = 0 then true else if pat = 1 then swath else if pat = 2 then swath || glob.contains q else block
  ok && !(causal && decide (p < q))

/-- A stage's pattern, and whether all its queries are empty (R187). -/
def aPattern (t : Stage) : Nat := t.f 0x22 1
def aFlag (t : Stage) (b : Nat) : Bool := bitOf (t.f 0x23 1) b
def aSwath (t : Stage) : Nat := t.f 0x34 4
def aSilent (t : Stage) : Bool :=
  (aPattern t == 1 && aSwath t == 0) || (aPattern t == 2 && aSwath t == 0 && t.f 0x38 2 == 0)

/-- The global list and block mask are copied in the first tick in which the cell runs; the KVAPPEND cell is sent the
cell's swath and list when it does not hold them (R182, R548). A stage that has neither holds both from then on, so that THR_STAT.tables
reads 1 (DESIGN CHOICE, log entry 54). -/
def State.aTables (s : State) (j c : Nat) (t : Stage) : State :=
  let n := t.f 0x38 2
  let s :=
    if (s.cell c).globals.isSome then s
    else
      match s.stageRead c (t.f 0x48 8) (4 * n) with
      | (s, none) => s
      | (s, some bs) =>
        match s.stageRead c (t.f 0x50 8) (if aPattern t = 3 then 1024 else 0) with
        | (s, none) => s
        | (s, some m) =>
          let vs := (List.range n).map (fun i => fieldAt bs (4 * i) 4)
          let bad := (vs.filter (fun v => decide (1048576 ≤ v))).length
          let good := (vs.filter (fun v => decide (v < 1048576))).eraseDups
          ((s.modCell c (fun x => { x with globals := some good, mask := some m })).bump F.thrEdge_bad_global c bad).putF
            F.thrStat_tables c 1
  match (s.cell c).globals with
  | none => s
  | some gl =>
    let pg := s.runnerOf j (t.f 0x26 2)
    let w := if aPattern t = 1 ∨ aPattern t = 2 then aSwath t else 0
    if (s.cell pg).readers.any (fun r => r.1 == c) then s
    else s.modCell pg (fun x => { x with readers := x.readers ++ [(c, w, gl)] })

/-! ## Reading positions (R188, R189, R205, R217) -/

/-- An admitted position: its dequantised key and value, and its key in the form a flail uses where it scores it. -/
structure KvPos where
  pos : Nat
  key : List Num
  loft : Option (List Num)
  val : List Num
  deriving DecidableEq, Repr

/-- The element values of a region's record, and the element scale of each. -/
def recElems (prec dh : Nat) (r : List Byte) : List (Num × Num) :=
  let f := if prec = 0 then fBF16 else if prec = 1 then fE4M3 else 0xB
  (List.range dh).map (fun i =>
    (elemValue f (codeAt f r i),
     if prec = 0 then Num.ofNat 1 else fmtE4m3.value (fieldAt r (recCodes prec dh + i / 32) 1)))

/-- Elements as a reader dequantises them (R205); an infinite element counts as a NaN (R176). -/
def dequant (prec dh scale : Nat) (r : List Byte) : List Num :=
  (recElems prec dh r).map (fun e =>
    let v := fp32 ((e.1.mul e.2).mul (ofBits32 (scale * 65536)))
    if v.isFin then v else .nan)

/-- A key in the form of Table 9.2, its scales applied exactly. -/
def loftKey (prec dh scale : Nat) (r : List Byte) : List Num :=
  (recElems prec dh r).map (fun e =>
    if prec = 0 then (if e.1.isFin then fmtE4m3.value (fmtE4m3.drain 0x7F e.1).code else .nan)
    else (e.1.mul e.2).mul (ofBits32 (scale * 65536)))

/-- The list that a KV head of an A stage reads. -/
def State.listOf (s : State) (j : Nat) (t : Stage) (kvh : Nat) : Option ListId :=
  let g := s.image j
  let key := (g.oper t.firstOp).ins.getD 1 0xFFFF
  match g.stageAt (t.f 0x26 2) with
  | none => none
  | some u =>
    (((List.range u.opCount).filter (fun i => u.e i 0 1 == 5 && (g.oper (u.firstOp + i)).outs.contains key)).map (fun i =>
      ({ cell := u.cell, entry := i, e := u.kv i, head := kvh - (u.kv i).kvLo } : ListId))).find? (fun l =>
        decide (l.e.kvLo ≤ kvh) && decide (kvh < l.e.kvLo + l.e.kvCnt))

/-- A flail's read of a key record for a stage: the cell reads no key itself, and an uncorrectable word gives no score
(R191). -/
def State.loftRead (s : State) (c a n : Nat) : State × Option (List Byte) :=
  if s.addrError a n then ((s.countAddr a n).invalidateCell c, none)
  else if s.cellErrResponse c a n then ((s.countWrapped (some (cellTower c)) a n).invalidateCell c, none)
  else
    let s := (s.softWords a n).foldl (fun s w => s.softWord w) (s.forceRefreshes a n)
    match s.badWords a n with
    | [] => (s, some (s.readDev a n))
    | bad => (bad.foldl (fun s w => s.stageUe 1 c w) s, none)

/-- A page-list entry (Table 7.6): what a KVAPPEND cell sends an A cell for a held page, by block and then by KV head. -/
structure PageEntry where
  addr : Nat := 0
  live : Nat := 0
  page : Nat := 0xFFFFFFFF
  block : Nat := 0
  head : Nat := 0
  prec : Nat := 0
  deriving DecidableEq, Repr

/-- Its 32 bytes. -/
def PageEntry.bytes (p : PageEntry) : List Byte :=
  leBytes 8 p.addr ++ leBytes 8 p.live ++ leBytes 4 p.page ++ leBytes 4 p.block ++ leBytes 2 p.head ++ leBytes 1 p.prec ++ [0, 0, 0, 0, 0]

/-- The entry of a block of a list that the KVAPPEND cell k walks, for the KV head kvh; nothing when its read failed (R215). -/
def State.pageEntry (s : State) (k : Nat) (l : ListId) (t : Stream) (kvh block : Nat) : State × Option PageEntry :=
  match s.walkEntry k l t.slot block with
  | (s, none) => (s, none)
  | (s, some te) => (s, some {
      addr := l.e.pageOf te.page, live := te.live, page := te.page, block := block, head := kvh, prec := t.kv.prec })

/-- Reads the admitted positions of one block that lie in a page; nothing when a read or the page's check (R217) failed. -/
def State.readPage (s : State) (j c : Nat) (t : Stage) (l : ListId) (te : PageEntry) (js : List Nat) :
    State × Option (List KvPos) :=
  let base := te.addr
  let prec := te.prec
  let dh := l.e.dh
  let rb := recBytes prec dh
  let loft := aFlag t 1
  match s.stageRead c base 64 with
  | (s, none) => (s, none)
  | (s, some hd) =>
    if fieldAt hd 0 4 ≠ te.page then ((s.bump F.kvpDrop_page (s.runnerOf j l.cell)).invalidate j, none)
    else
      js.foldl (fun acc q =>
        match acc.2 with
        | none => acc
        | some ps =>
          let n := q % 64
          let (s, kb) := if loft then acc.1.loftRead c (base + 64 + n * rb) rb else acc.1.stageRead c (base + 64 + n * rb) rb
          let (s, vb) := s.stageRead c (base + 64 + (64 + n) * rb) rb
          match kb, vb with
          | some kb, some vb =>
            let ks := fieldAt hd 0x10 2
            (s, some (ps ++ [{
              pos := q, key := dequant prec dh ks kb, val := dequant prec dh (fieldAt hd 0x12 2) vb,
              loft := if loft then some (loftKey prec dh ks kb) else none }]))
          | _, _ => (s, none)) (s, some [])

/-- Whether a stage's pattern admits position q for a query at p, by the tables that its cell holds. -/
def State.aFits (s : State) (c : Nat) (t : Stage) (p q : Nat) : Bool :=
  admits (aPattern t) (aFlag t 0) (aSwath t) (((s.cell c).globals).getD []) (((s.cell c).mask).getD []) p q

/-- The blocks of a stage's position share below a length. -/
def aShare (t : Stage) (len : Nat) : List Nat := (List.range (ceilDiv len 64)).filter (fun b => b % (max 1 (t.f 0x32 1)) == t.f 0x33 1)

/-- The query rows of a stage, ascending token row, and their streams and positions. -/
def State.aRows (s : State) (j c : Nat) (t : Stage) : List (RowHdr × List MeshRow) :=
  tokenRows (s.rowsFor j c t 0 (((s.image j).oper t.firstOp).ins.getD 0 0xFFFF) 0)
def State.aQueries (s : State) (j c : Nat) (t : Stage) : List (Nat × Nat) :=
  (s.aRows j c t).map (fun r => (r.1.stream.toNat, r.1.pos.toNat))

/-- A block of a list of which at least one query row of its stream admits a position of the cache. -/
structure ABlock where
  stream : Nat
  list : ListId
  head : Nat
  block : Nat
  places : List Nat

/-- Those blocks of a stage: by stream, then ascending block, then ascending KV head (R215). -/
def State.aBlocks (s : State) (j c : Nat) (t : Stage) : List ABlock :=
  let qs := if aSilent t then [] else s.aQueries j c t
  ((qs.map (fun q => q.1)).eraseDups).flatMap (fun st =>
    let ps := (qs.filter (fun q => q.1 == st)).map (fun q => q.2)
    let len := (s.stream st).length
    (aShare t len).flatMap (fun b =>
      let here := ((List.range 64).map (fun n => 64 * b + n)).filter (fun q => decide (q < len) && ps.any (fun p => s.aFits c t p q))
      if here.isEmpty then []
      else (List.range (t.f 0x30 2)).filterMap (fun k => (s.listOf j t (t.f 0x2E 2 + k)).map (fun l =>
        { stream := st, list := l, head := t.f 0x2E 2 + k, block := b, places := here }))))

/-- A page that the cell has read: its stream, its page-list entry, and the admitted positions that are live. -/
structure APage where
  stream : Nat
  entry : PageEntry
  kvs : List KvPos
  deriving DecidableEq, Repr

/-- The KVAPPEND cell sends an entry for each of the blocks that has a page, and the cell reads their admitted positions, each once in the
tick (R188, R215); nothing when a read failed. -/
def State.aPages (s : State) (j c : Nat) (t : Stage) : State × Option (List APage) :=
  (s.aBlocks j c t).foldl (fun (acc : State × Option (List APage)) x =>
    match acc.2 with
    | none => acc
    | some ps =>
      match acc.1.pageEntry (s.runnerOf j x.list.cell) x.list (s.stream x.stream) x.head x.block with
      | (s, none) => (s, none)
      | (s, some te) =>
        let live := x.places.filter (fun q => bitOf te.live (q % 64))
        if te.page = noPage then (s, some ps)
        else if live.isEmpty then (s, some (ps ++ [{ stream := x.stream, entry := te, kvs := [] }]))
        else
          let s := if aFlag t 1 then s.bump F.thrPos_loft_pages c else s
          match s.readPage j c t x.list te live with
          | (s, none) => (s, none)
          | (s, some kvs) => (s, some (ps ++ [{ stream := x.stream, entry := te, kvs := kvs }]))) (s, some [])

/-- The admitted positions of a KV head for a query at p, by block: those of the pages, then those of this tick (R178). Positions skipped as
evicted are counted for each token row and KV head, and pages read for a flail once for each KV head: the table gives a unit for
admitted alone (DESIGN CHOICE, log entry 54). -/
def State.admitted (s : State) (j c : Nat) (t : Stage) (pages : List APage) (st kvh p : Nat) : State × List (List KvPos) :=
  match s.listOf j t kvh with
  | none => (s, [])
  | some l =>
    let sm := s.stream st
    let len := sm.length
    let lim := len + sm.rows.length
    let fresh := (s.cell (s.runnerOf j l.cell)).inTick.filter (fun x => x.entry == l.entry && x.head == kvh && x.stream == st)
    (aShare t lim).foldl (fun acc b =>
      let here := ((List.range 64).map (fun n => 64 * b + n)).filter (fun q => decide (q < lim) && s.aFits c t p q)
      let page := pages.find? (fun x => x.stream == st && x.entry.head == kvh && x.entry.block == b)
      let old := if page.isSome then here.filter (fun q => decide (q < len)) else []
      let kvs := ((page.map (fun x => x.kvs)).getD []).filter (fun k => old.contains k.pos)
      let own := (here.filter (fun q => decide (len ≤ q))).filterMap (fun q =>
        (fresh.find? (fun x => x.pos == q)).map (fun x => ({
          pos := q, key := dequant x.prec l.e.dh x.kscale.toNat x.keyRec, loft := none,
          val := dequant x.prec l.e.dh x.vscale.toNat x.valRec } : KvPos)))
      let blk := kvs ++ own
      (acc.1.bump F.thrPos_evicted c (old.length - kvs.length), if blk.isEmpty then acc.2 else acc.2 ++ [blk])) (s, [])

/-! ## One query head -/

/-- What one query head gives: its output, lam, and what was counted on the way. -/
structure HeadOut where
  empty : Bool := false
  nan : Bool := false
  sat : Nat := 0
  out : List Num := []
  lam : Num := .nan
  scored : List (Nat × Num) := []
  blocks : Nat := 0
  rescales : Nat := 0
  flushes : Nat := 0
  deriving DecidableEq, Repr

/-- The exact dot product. -/
def dotExact (a b : List Num) : Num := sumExact ((a.zip b).map (fun e => e.1.mul e.2))

/-- The query in FP8 form and e (R189). -/
def loftQuery (qs : List Num) : List Num × Int :=
  let m := maxMag qs
  if m.isZero then (qs.map (fun _ => .zero), 0)
  else
    let e := m.log2Floor - 7
    (qs.map (fun x => fmtE4m3.value (fmtE4m3.drain 0x7F (x.mul (pow2 (-e)))).code), e)

/-- The score of a position (R172, R189). -/
def scoreOf (qs q8 : List Num) (e : Int) (k : KvPos) : Num × Bool :=
  match k.loft with
  | some f => fp32Sat ((dotExact q8 f).mul (pow2 e))
  | none => fp32Sat (dotExact qs k.key)

/-- The running state of R173. -/
structure Fold where
  m : Num := .inf true
  l : Num := .zero
  acc : List Num := []
  blocks : Nat := 0
  rescales : Nat := 0
  flushes : Nat := 0
  deriving DecidableEq, Repr

/-- One block of R173: positions' scores and values. -/
def Fold.block (a : Fold) (ps : List (Num × List Num)) : Fold :=
  let mb := ps.foldl (fun m p => if m.lt p.1 then p.1 else m) (.inf true)
  let a := { a with blocks := a.blocks + 1 }
  let a :=
    if a.m.lt mb then
      if a.m.isInf then { a with m := mb }
      else
        let d := fsub mb a.m
        if (Num.ofNat 126).lt d then
          { a with m := mb, l := .zero, acc := a.acc.map (fun _ => .zero), flushes := a.flushes + 1 }
        else
          let f := exp2 d.negate
          { a with m := mb, l := fmul a.l f, acc := a.acc.map (fun x => fmul x f), rescales := a.rescales + 1 }
    else a
  ps.foldl (fun a p =>
    let w := exp2 (fsub p.1 a.m)
    { a with l := fadd a.l w, acc := (a.acc.zip p.2).map (fun e => fadd e.1 (fmul w e.2)) }) a

/-- The output of a query head over its admitted blocks (R173 to R176, R186). A head that is NaN counts no blocks, rescales, flushes or
saturated scores and sets no SAT flag for them: the spec does not say whether its scores count (DESIGN CHOICE, log entry 54). -/
def headOut (dh : Nat) (c : Num) (q : List Num) (blocks : List (List KvPos)) : HeadOut :=
  if blocks.isEmpty then { empty := true, out := List.replicate dh .zero, lam := .inf true }
  else
    let qs := q.map (fun x => fmul x c)
    let bad := qs.any (fun x => !x.isFin) || blocks.any (fun b => b.any (fun k =>
      k.val.any Num.isNan || (match k.loft with
        | some f => f.any (fun x => !x.isFin)
        | none => k.key.any Num.isNan)))
    if bad then { nan := true, out := List.replicate dh .nan }
    else
      let (q8, e) := loftQuery qs
      let sc := blocks.map (fun b => b.map (fun k => (k, scoreOf qs q8 e k)))
      let f := sc.foldl (fun (a : Fold) b => a.block (b.map (fun x => (x.2.1, x.1.val)))) { acc := List.replicate dh .zero }
      { out := f.acc.map (fun x => fdiv x f.l), lam := fadd f.m (flog2 f.l),
        sat := (sc.flatMap (fun b => b.filter (fun x => x.2.2))).length,
        scored := sc.flatMap (fun b => b.map (fun x => (x.1.pos, x.2.1))),
        blocks := f.blocks, rescales := f.rescales, flushes := f.flushes }

/-- The combination of position shares in ascending share (R194). -/
def mergeShares (dh : Nat) (hs : List HeadOut) : HeadOut :=
  if hs.any (fun h => h.nan) then { nan := true, out := List.replicate dh .nan }
  else
    let some_ := hs.filter (fun h => !h.empty)
    if some_.isEmpty then { empty := true, out := List.replicate dh .zero, lam := .inf true }
    else
      let top := some_.foldl (fun m h => if m.lt h.lam then h.lam else m) (.inf true)
      let ws := some_.map (fun h => exp2 (fsub h.lam top))
      let den := fsum ws
      { out := (List.range dh).map (fun i => fdiv (fsum ((ws.zip some_).map (fun e => fmul e.1 (e.2.out.getD i .zero)))) den),
        lam := fadd top (flog2 den) }

/-! ## Rows (R200) -/

/-- The payload of a row: outputs, empty mask, LSE or lam. -/
def aPayload (t : Stage) (hs : List HeadOut) : List Byte × Flags :=
  let (bs, ds) := drainRow (t.f 0x21 1) (hs.flatMap (fun h => h.out))
  let mask := ((hs.zip (List.range hs.length)).map (fun e => if e.1.empty then 2 ^ e.2 else 0)).foldl (· + ·) 0
  let tail :=
    if aFlag t 3 then hs.flatMap (fun h => leBytes 4 (bits32 h.lam))
    else if aFlag t 2 then hs.flatMap (fun h =>
      leBytes 2 (if h.empty then 0xFF80 else if h.nan then 0x7FC0 else bits16 (h.lam.mul ln2c)))
    else []
  let f := drainFlags ds
  (bs ++ leBytes 8 mask ++ tail,
    { f with nan := f.nan || hs.any (fun h => h.nan), sat := f.sat || hs.any (fun h => decide (0 < h.sat)) })

/-- The heads that a partial row carries. -/
def partialHeads (n dh : Nat) (bs : List Byte) : List HeadOut :=
  (List.range n).map (fun h =>
    let lam := ofBits32 (fieldAt bs (n * dh * 4 + 8 + 4 * h) 4)
    { empty := bitOf (fieldAt bs (n * dh * 4) 8) h, nan := lam.isNan,
      out := (List.range dh).map (fun i => ofBits32 (fieldAt bs (4 * (h * dh + i)) 4)), lam := lam })

/-- The A stages that hold the other position shares of a merging stage, ascending share. -/
def Image.sharesOf (g : Image) (t : Stage) : List Stage :=
  if t.f 0x32 1 ≤ 1 ∨ t.f 0x33 1 ≠ 0 then []
  else sortBy (fun u => u.f 0x33 1) (g.stages.filter (fun u => u.kind == kA && u.f 0x3A 2 == t.cell && u.cell != t.cell))

/-- Whether everything an A stage waits for has come: its query rows, the appends of its KVAPPEND cell, partial rows. -/
def State.aReady (s : State) (j c : Nat) (t : Stage) : Bool :=
  let g := s.image j
  let q := (g.oper t.firstOp).ins.getD 0 0xFFFF
  let pg := s.runnerOf j (t.f 0x26 2)
  let kvDone := match g.stageAt (t.f 0x26 2) with
    | none => true
    | some u => ((List.range u.opCount).filter (fun i => u.e i 0 1 == 5)).all (fun i => (s.cell pg).doneOps.contains i)
  s.inputDone j c t 0 q 0 && (kvDone || aSilent t) &&
    (g.sharesOf t).all (fun u => (s.cell c).rowsIn.any (fun r => r.hdr.last && r.hdr.src.toNat == s.runnerOf j u.cell))

/-- Counts what a head's fold did: for each query head and token row, since the spec says only "blocks processed" (DESIGN CHOICE, log entry
54). -/
def State.countHead (s : State) (c : Nat) (h : HeadOut) : State :=
  (((((s.bump F.thrBlocks_blocks c h.blocks).bump F.thrBlocks_rescales c h.rescales).bump F.thrEdge_flush c h.flushes).bump
    F.thrEdge_sat c h.sat).bump F.thrEdge_empty c (bit h.empty))

/-- The final lam of a query head reaches the increments that every share of it holds; a head with none adds nothing
(R220). -/
def State.settleLam (s : State) (cells : List Nat) (st row qhead : Nat) (h : HeadOut) : State :=
  cells.foldl (fun s c => s.modCell c (fun x => { x with
    increments := x.increments.filterMap (fun w =>
      if w.stream == st && w.row == row && w.qhead == qhead then
        (if h.empty || h.nan then none else some { w with lam := BitVec.ofNat 32 (bits32 h.lam) })
      else some w) })) s

/-- The own results of one token row: for each KV head of the share, its query heads. -/
def State.aHeads (s : State) (j c : Nat) (t : Stage) (pages : List APage) (h : RowHdr) (q : List Piece) : State × List HeadOut :=
  let dh := t.f 0x2A 2
  let grp := t.f 0x2C 2
  let cc := fmul (ofBits32 (t.f 0x40 4)) log2e
  let st := h.stream.toNat
  (List.range (t.f 0x30 2)).foldl (fun acc k =>
    let kvh := t.f 0x2E 2 + k
    let (s, bl) := if aSilent t then (acc.1, []) else acc.1.admitted j c t pages st kvh h.pos.toNat
    let mine := (List.range grp).map (fun g => headOut dh cc (gather q ((kvh * grp + g) * dh) dh) bl)
    let s := s.bump F.thrPos_admitted c ((bl.map List.length).foldl (· + ·) 0)
    let s := mine.foldl (fun s m => s.countHead c m) s
    let l := s.listOf j t kvh
    let incs := if (s.stream st).kv.winnow then
      ((mine.zip (List.range grp)).flatMap (fun e => e.1.scored.map (fun x => ({
        cell := (l.map (fun l => l.cell)).getD 0, entry := (l.map (fun l => l.entry)).getD 0, head := kvh, stream := st, pos := x.1, row := h.row.toNat, qhead := kvh * grp + e.2,
        score := BitVec.ofNat 32 (bits32 x.2), lam := BitVec.ofNat 32 (bits32 e.1.lam) } : WinInc)))) else []
    (s.modCell c (fun x => { x with increments := x.increments ++ incs }), acc.2 ++ mine)) (s, [])

/-- An A stage over its complete rows. The SAT flag of a merged row is that of the merging cell's own scores and of the drain; the flags of
the other shares' partial rows take no part, which the spec leaves open (DESIGN CHOICE, log entry 51). -/
def State.aEntry (s : State) (j c : Nat) (t : Stage) : State :=
  let g := s.image j
  let dh := t.f 0x2A 2
  let grp := t.f 0x2C 2
  let n := t.f 0x30 2 * grp
  let shares := g.sharesOf t
  match s.aPages j c t with
  | (s, none) => s
  | (s, some pages) =>
    let s := (s.aRows j c t).foldl (fun s r =>
      let (s, own) := s.aHeads j c t pages r.1 (s.pieces j (t.f 0x20 1) r.2)
      let parts := shares.map (fun u => partialHeads n dh ((((s.cell c).rowsIn.find? (fun m => !m.hdr.empty &&
        m.hdr.src.toNat == s.runnerOf j u.cell && m.hdr.stream == r.1.stream && m.hdr.row == r.1.row)).map
          (fun m => m.data)).getD []))
      let fin := if shares.isEmpty then own
        else (own.zip (List.range n)).map (fun e => mergeShares dh (e.1 :: parts.map (fun p => p.getD e.2 { empty := true })))
      let cells := c :: shares.map (fun u => s.runnerOf j u.cell)
      let s := if aFlag t 3 then s
        else ((fin.zip (List.range n)).foldl (fun s e =>
          s.settleLam cells r.1.stream.toNat r.1.row.toNat (t.f 0x2E 2 * grp + e.2) e.1) s)
      let s := s.bump F.thrEdge_nan c (fin.filter (fun h => h.nan)).length
      let (bs, fl) := aPayload t fin
      -- the saturations of own scores flag the row also when shares are merged
      let fl := { fl with sat := fl.sat || own.any (fun h => decide (0 < h.sat)) }
      s.emitTo c (s.consumers j t) [mkRow r.1 c 0 (t.f 0x2E 2 * grp * dh) fl bs]) s
    s.entryDone c 0

/-! ## Winnow's increments at the validation point (R220) -/

/-- The increments made in the tick for the lists of a program, in order of token row and query head. -/
def State.incsOf (s : State) (j : Nat) : List WinInc :=
  let cells := ((s.prog j).stagesAt.filter (fun e => e.2.kind == kA)).map (fun e => e.1)
  sortBy (fun w => w.row * 1024 + w.qhead) (cells.flatMap (fun c => (s.cell c).increments))

/-- The blocks of a list that receive increments in the tick, as stream and block, with their increments in order. -/
def State.incBlocks (s : State) (j : Nat) (l : ListId) : List (Nat × Nat × List WinInc) :=
  let own := (s.incsOf j).filter (fun w => l.e.winnow && w.cell == l.cell && w.entry == l.entry && w.head == l.e.kvLo + l.head)
  ((own.map (fun w => (w.stream, w.pos / 64))).eraseDups).map (fun x =>
    (x.1, x.2, own.filter (fun w => w.stream == x.1 && w.pos / 64 == x.2)))

/-- A KVAPPEND cell adds the increments of one block to the scores of the copy selected and writes the other copy; a read or a write
that fails invalidates the tick (R220, R242, Table 10.3). -/
def State.addIncs (s : State) (j : Nat) (l : ListId) (x : Nat × Nat × List WinInc) : State :=
  let (st, b, mine) := x
  let c := s.runnerOf j l.cell
  let slot := (s.stream st).slot
  match s.walkEntry c l slot b with
  | (s, none) => s
  | (s, some te) =>
    if te.page = noPage then s
    else match s.walkScores c l slot te.sel b with
      | (s, none) => s
      | (s, some sc) =>
        let new := (sc.zip (List.range 64)).map (fun e => bits32 ((mine.filter (fun w => w.pos == 64 * b + e.2)).foldl (fun a w =>
          fadd a (exp2 (fsub (ofBits32 w.score.toNat) (ofBits32 w.lam.toNat)))) (ofBits32 e.1)))
        s.stageWrite c (l.e.scoresAt slot (1 - te.sel) l.head b) (new.flatMap (leBytes 4))

/-- The score copies of a program's tick are written. -/
def State.writeScores (s : State) (j : Nat) : State :=
  (s.image j).lists.foldl (fun s l => (s.incBlocks j l).foldl (fun s x => s.addIncs j l x) s) s

/-- In the window after a valid tick the selector of every block that received an increment is switched. -/
def State.switchSels (s : State) (j : Nat) : State :=
  (s.image j).lists.foldl (fun s l => (s.incBlocks j l).foldl (fun s x =>
    let slot := (s.stream x.1).slot
    match s.readEntry j l slot x.2.1 with
    | (s, some te) => if te.page = noPage then s else s.setTableEntry j l slot x.2.1 { te with sel := 1 - te.sel }
    | (s, none) => s) s) s

end Sys2Proof.Machine
end

