-- ==== Sys2Proof/Machine/SCell.lean ====
section
/-! DEFINITION. Sampler cells: penalties, candidates, the draw, speculative verification and stop tokens (R163 to R168,
R377). -/

namespace Sys2Proof.Machine

/-- The logits of a row that its slices carry, by identifier. -/
def logitsOf (ps : List Piece) (vocab : Nat) : List (Nat × Num) :=
  (List.range vocab).filterMap (fun i =>
    ((ps.filter (fun p => decide (p.col ≤ i) && decide (i < p.col + p.vals.length))).getLast?).map (fun p =>
      (i, p.vals.getD (i - p.col) .nan)))

/-- The penalties of R165 over the last W tokens. -/
def penalise (r : Sampler) (hist : List (BitVec 32)) (ls : List (Nat × Num)) : List (Nat × Num) :=
  let seen := if r.window = 0 then [] else hist.drop (hist.length - r.window)
  let f := fun (x : BitVec 32) => ofBits32 x.toNat
  ls.map (fun e =>
    let c := (seen.filter (fun t => t.toNat == e.1)).length
    if c = 0 then e
    else
      let l := if Num.zero.lt e.2 then fdiv e.2 (f r.rep) else fmul e.2 (f r.rep)
      (e.1, fsub (fsub l (f r.pres)) (fmul (f r.freq) (Num.ofNat c))))

/-- A list in descending order of a value, earlier entries first among equals. -/
def descending (ls : List (Nat × Num)) : List (Nat × Num) :=
  ls.foldl (fun acc e =>
    let (before, after) := acc.partition (fun a => e.2.le a.2)
    before ++ e :: after) []

/-- Running sums in FP32. -/
def runningSums (ws : List Num) : List Num :=
  (ws.foldl (fun (acc : List Num × Option Num) w =>
    let t := match acc.2 with
      | none => w
      | some x => fadd x w
    (acc.1 ++ [t], some t)) ([], none)).1

/-- The token for position q from the logits of position q − 1 (R165); none when every logit is NaN. -/
def chooseToken (r : Sampler) (cand q : Nat) (hist : List (BitVec 32)) (logits : List (Nat × Num)) : Option Nat :=
  let ls := (penalise r hist logits).filter (fun e => !e.2.isNan)
  let order := descending ls
  match order with
  | [] => none
  | best :: _ =>
    let temp := ofBits32 r.temp.toNat
    if temp.isZero then some best.1
    else
      let k := if 0 < r.topK ∧ r.topK ≤ cand then r.topK else cand
      let kept := order.take k
      let w := fun (l : Num) => if l = best.2 ∨ !(l.lt best.2) then Num.ofNat 1
        else exp2 (fdiv (fmul (fsub l best.2) log2e) temp)
      let ws := descending (sortBy (fun e => e.1) (kept.map (fun e => (e.1, w e.2))))
      let sums := runningSums (ws.map (fun e => e.2))
      let bound := fmul (ofBits32 r.topP.toNat) (sums.getLastD .zero)
      let m := (findIdx? (fun x => bound.le x) sums).getD (sums.length - 1)
      let cut := (Num.fin false (drawAt r.seed q) (-24)).mul (sums.getD m .zero)
      let i := (findIdx? (fun x => cut.lt x) (sums.take (m + 1))).getD m
      (ws[i]?).map (fun e => e.1)

/-- What the sampled rows of a stream give: tokens, drafts accepted, whether a sampled row had no candidate. -/
structure Sampled where
  tokens : List Nat := []
  accepted : Nat := 0
  noCand : Bool := false
  deriving DecidableEq, Repr

/-- The rows of R167 in turn, each with its draft: a draft that equals the token is accepted. -/
def sampleRows (r : Sampler) (cand : Nat) : List (Nat × List (Nat × Num) × Option Nat) → List (BitVec 32) → Sampled → Sampled
  | [], _, acc => acc
  | (q, logits, draft) :: rest, hist, acc =>
    match chooseToken r cand q hist logits with
    | none => { acc with noCand := true }
    | some t =>
      let acc := { acc with tokens := acc.tokens ++ [t] }
      if draft = some t then
        sampleRows r cand rest (hist ++ [BitVec.ofNat 32 t]) { acc with accepted := acc.accepted + 1 }
      else acc

/-- Tokens up to and with the first stop token, and whether there is one (R168). -/
def cutAtStop (stop : List (BitVec 32)) (ts : List Nat) : List Nat × Bool :=
  let ids := (stop.filter (fun x => x != 0xFFFFFFFF)).map BitVec.toNat
  match findIdx? (fun t => ids.contains t) ts with
  | some i => (ts.take (i + 1), true)
  | none => (ts, false)

/-- A sampler stage whose tokens only serve a VERIFY stage as drafts. -/
def Image.makesDrafts (g : Image) (t : Stage) : Bool :=
  g.stages.any (fun u => u.kind == kS && u.f 0x40 1 == 2 && u.f 0x4A 2 == t.cell)

/-- The tokens of a stream below a position: what it holds, then this tick's input tokens. -/
def Stream.history (t : Stream) (q : Nat) : List (BitVec 32) :=
  (t.tokens ++ (t.rows.filter (fun r => r.kind != .draft)).map (fun r => r.token)).take q

/-- A token row of a sampler stage. -/
def tokenRow (h : RowHdr) (c pos tok : Nat) : MeshRow :=
  mkRow { h with pos := BitVec.ofNat 20 pos } c 0 0 {} (leBytes 4 tok)

/-- One stream at a sampler stage whose tokens the stream emits. A later row of a VERIFY stream that has no candidate takes the tokens of
the whole tick with it, the drafts accepted before too: the spec does not say whether those stand (DESIGN CHOICE, log entry 51). -/
def State.sampleStream (s : State) (j c : Nat) (t : Stage) (st : Nat) (rows : List (RowHdr × List MeshRow))
    (drafts : List Nat) : State :=
  let x := s.stream st
  let own := x.rows.filter (fun r => r.kind != .draft)
  match own.getLast? with
  | none => s
  | some last =>
    let n := (x.rows.filter (fun r => r.kind == .draft)).length
    let find := fun pos => rows.find? (fun r => r.1.pos.toNat == pos)
    let turn := (List.range (n + 1)).filterMap (fun i =>
      (find (last.pos + i)).map (fun r =>
        (last.pos + i + 1, logitsOf (s.pieces j (t.f 0x41 1) r.2) (t.f 0x44 4), if i < n then drafts[i]? else none)))
    if turn.isEmpty then s
    else
      let q := last.pos + 1
      let out := sampleRows x.samp (t.f 0x48 2) turn (x.history q) {}
      if out.noCand then
        s.modStream st (fun x => { x with emit := [], accepted := 0, stopHit := false, noCand := some c })
      else
        let (toks, stop) := cutAtStop x.samp.stop out.tokens
        let acc := min out.accepted (toks.length - (if out.accepted < out.tokens.length then 1 else 0))
        let s := s.modStream st (fun x => { x with
          emit := toks.map (BitVec.ofNat 32), accepted := acc, stopHit := stop, noCand := none })
        let s := (s.bump F.celSamp_draws c toks.length).bump F.celSamp_accepted c acc
        let h := ((find last.pos).map (fun r => r.1)).getD {}
        s.emitTo c (s.consumers j t) ((toks.zip (List.range toks.length)).map (fun e => tokenRow h c (q + e.2) e.1))

/-- A sampler stage over its complete rows. -/
def State.sEntry (s : State) (j c : Nat) (t : Stage) : State :=
  let g := s.image j
  let p := g.oper t.firstOp
  let verify := t.f 0x40 1 == 2
  let k := bit verify
  let rows := tokenRows (s.rowsFor j c t 0 (p.ins.getD k 0xFFFF) k)
  let drafts := if verify then tokenRows (s.rowsFor j c t 0 (p.ins.getD 0 0xFFFF) 0) else []
  let ofStream := fun (l : List (RowHdr × List MeshRow)) (st : Nat) => l.filter (fun r => r.1.stream.toNat == st)
  let s :=
    if g.makesDrafts t then
      rows.foldl (fun s r =>
        let x := s.stream r.1.stream.toNat
        let q := r.1.pos.toNat + 1
        match chooseToken x.samp (t.f 0x48 2) q (x.history q) (logitsOf (s.pieces j (t.f 0x41 1) r.2) (t.f 0x44 4)) with
        | none => s
        | some tok => (s.bump F.celSamp_draws c).emitTo c (s.consumers j t) [tokenRow r.1 c q tok]) s
    else
      ((s.streamsOf j).filter (fun st => (s.stream st).sampled && !(s.stream st).failed)).foldl (fun s st =>
        s.sampleStream j c t st (ofStream rows st)
          ((ofStream drafts st).map (fun d => fieldAt ((d.2.headD {}).data) 0 4))) s
  s.entryDone c 0

end Sys2Proof.Machine
end

