-- ==== Sys2Proof/Machine/LCell.lean ====
section
/-! DEFINITION. Link cells: collectives over the L cells of the part and over rings (R159 to R162, R325, log entry 12). -/

namespace Sys2Proof.Machine

/-- Fields of an L entry. -/
def lOp (t : Stage) (i : Nat) : Nat := t.e i 0 1
def lDtype (t : Stage) (i : Nat) : Nat := t.e i 1 1
def lSpan (t : Stage) (i : Nat) : Nat := t.e i 2 1
def lMax (t : Stage) (i : Nat) : Bool := t.e i 3 1 == 1
def lBytes (t : Stage) (i : Nat) : Nat := t.e i 4 4

/-- The own data of a collective: its rows in ascending token row and column, each with its offset and bytes. -/
def State.lRows (s : State) (j c : Nat) (t : Stage) (i : Nat) : List (MeshRow × Nat × List Byte) :=
  let p := (s.image j).oper (t.firstOp + i)
  let f := lDtype t i
  let rs := sortBy (fun r => r.hdr.row.toNat * 2 ^ 24 + r.hdr.col.toNat) (s.rowsFor j c t i (p.ins.getD 0 0xFFFF) 0)
  (rs.foldl (fun (acc : List (MeshRow × Nat × List Byte) × Nat) r =>
    let b := slice r.data 0 (rowBytes f (s.rowWidth j f r))
    (acc.1 ++ [(r, acc.2, b)], acc.2 + b.length)) ([], 0)).1

/-- The own data as a buffer of the collective's length. -/
def State.lBuffer (s : State) (j c : Nat) (t : Stage) (i : Nat) : List Byte :=
  slice ((s.lRows j c t i).flatMap (fun r => r.2.2)) 0 (lBytes t i)

/-- One reduction of an element: a sum rounded to FP32, or to BF16 with saturation; a maximum, which a NaN wins. -/
def lReduce (f : Nat) (isMax : Bool) (a b : Nat) : Nat :=
  let v := fun c => elemValue f c
  if isMax then
    if (v a).isNan then a else if (v b).isNan then b else if (v a).lt (v b) then b else a
  else if f = fBF16 then bits16 (bf16Sat ((v a).add (v b))).1
  else bits32 (fadd (v a) (v b))

/-- Two byte strings reduced element by element. -/
def lCombine (f : Nat) (isMax : Bool) (a b : List Byte) : List Byte :=
  let w := elemBits f / 8
  (List.range (a.length / max w 1)).flatMap (fun k => leBytes w (lReduce f isMax (fieldAt a (w * k) w) (fieldAt b (w * k) w)))

/-- The L stages of the part that run an operator, ascending cell (span 0). -/
def Image.lMembers (g : Image) (op : Nat) : List (Stage × Nat) :=
  sortBy (fun m => m.1.cell) ((g.stages.filter (fun u => u.kind == kL)).flatMap (fun u =>
    ((List.range u.opCount).filter (fun i => u.firstOp + i == op)).map (fun i => (u, i))))

/-- The parts that a collective joins and the place of this part among them. -/
def State.lParts (s : State) (t : Stage) (i : Nat) : List Nat :=
  let d := (s.sheaf (t.e i 0xA 2)).desc
  if d.mtype = 2 then d.members else [s.own]

/-- The slot entries of a collective in the table of this tick. -/
def State.lSlots (s : State) (j : Nat) (t : Stage) (i : Nat) : List SlotEntry :=
  let g := s.image j
  let tb := g.slots.getD (s.getF F.tikCount_count % max g.slots.length 1) []
  (tb.drop (t.e i 0xC 2)).take (t.e i 0xE 2)

/-- Entries in which a stage's cell, as its descriptor names it, receives and sends, and the path of an entry, which is the port:
plane and side. A plane above 3 counts modulo 4, and a link class above 2 is no path: the spec refuses neither and gives them no
meaning (R55; DESIGN CHOICE, log entry 51). -/
def SlotEntry.receives (e : SlotEntry) (c : Nat) : Bool := e.cls == 2 && bitOf e.dst 15 && e.src == c
def SlotEntry.sends (e : SlotEntry) (c : Nat) : Bool := e.cls == 2 && !bitOf e.dst 15 && e.src == c
def SlotEntry.path (e : SlotEntry) : Nat := e.plane % 4 * 2 + bit (bitOf e.dst 14)

/-- How many of a list of flits a collective takes: up to the last flit of each of its receiving entries. -/
def flitsNeeded (n : Nat) : List (Nat × Nat × List Byte) → Option Nat
  | [] => if n = 0 then some 0 else none
  | f :: r => if n = 0 then some 0 else (flitsNeeded (n - f.1 % 2) r).map (fun k => k + 1)

/-- Joins the received flits with the own data in the order they came. -/
def joinFlits (t : Stage) (i : Nat) (slots : List SlotEntry) (c : Nat) (own : List Byte) (fl : List (Nat × Nat × List Byte)) :
    List Byte :=
  let op := lOp t i
  (fl.foldl (fun (acc : List Byte × List Nat) f =>
    let path := f.1 / 2
    let n := (slots.filter (fun e => e.receives c && e.path == path)).length
    let lasts := (acc.2.filter (fun p => p == path)).length
    let reduce := op == 1 || (op == 2 && decide (2 * lasts < n))
    let old := slice acc.1 f.2.1 f.2.2.length
    let new := if reduce then lCombine (lDtype t i) (lMax t i) f.2.2 old else f.2.2
    (acc.1.take f.2.1 ++ new ++ acc.1.drop (f.2.1 + new.length), if f.1 % 2 = 1 then acc.2 ++ [path] else acc.2)) (own, [])).1

/-- Sends the result of a collective in the shape of the own rows: `me` is the member's place among `n`. How the result is cut into rows,
and their columns, the spec does not say: an all-gather gives each member's share in the own rows' shape, the members side by side; a
reduce-scatter the parts of the own rows that lie in the own share, at their own columns; the others the own rows (DESIGN CHOICE, log
entry 12). -/
def State.lSend (s : State) (j c : Nat) (t : Stage) (i me n : Nat) (result : List Byte) : State :=
  let rows := s.lRows j c t i
  let bytes := lBytes t i
  let cols := maxList (rows.map (fun r => r.1.hdr.col.toNat + s.rowWidth j (lDtype t i) r.1))
  let out :=
    if lOp t i = 0 then
      (List.range n).flatMap (fun m => rows.map (fun r =>
        mkRow r.1.hdr c i (r.1.hdr.col.toNat + m * cols - me * cols) (hdrFlags r.1.hdr)
          (slice result (m * bytes + r.2.1) r.2.2.length)))
    else if lOp t i = 1 then
      let share := bytes / max n 1
      let lo := fun (r : MeshRow × Nat × List Byte) => max r.2.1 (me * share)
      let hi := fun (r : MeshRow × Nat × List Byte) => min (r.2.1 + r.2.2.length) ((me + 1) * share)
      (rows.filter (fun r => decide (lo r < hi r))).map (fun r =>
        mkRow r.1.hdr c i (r.1.hdr.col.toNat + (lo r - r.2.1) * 8 / elemBits (lDtype t i)) (hdrFlags r.1.hdr)
          (slice result (lo r) (hi r - lo r)))
    else rows.map (fun r => mkRow r.1.hdr c i r.1.hdr.col.toNat (hdrFlags r.1.hdr) (slice result r.2.1 r.2.2.length))
  let s := s.emitTo c (s.consumers j t) out
  (s.bump F.celColl_done c).entryDone c i

/-! ## Sending flits (R160) -/

/-- How many entries of a path stand before an entry of a collective, and in all, of those that send or those that receive. -/
def pathPlace (slots : List SlotEntry) (k : Nat) (p : SlotEntry → Bool) : Nat × Nat :=
  (((slots.take k).filter p).length, (slots.filter p).length)

/-- The step of a two-dimensional collective to which an entry belongs (R160): the row ring, the column ring, and for an all-reduce the row
ring again with the second half of a path's entries. Another collective has one step. -/
def stepOf (t : Stage) (i : Nat) (slots : List SlotEntry) (c k : Nat) : Nat :=
  let e := slots.getD k {}
  if lSpan t i != 3 then 0
  else if 4 ≤ e.path then 1
  else if lOp t i = 2 then
    let (n, all) := pathPlace slots k (fun x => (if e.sends c then x.sends c else x.receives c) && x.path == e.path)
    if all ≤ 2 * n then 2 else 0
  else 0

/-- Entries that have ended by the flits that have come on a path. -/
def lastsOn (fl : List (Nat × Nat × List Byte)) (path : Nat) : Nat := (fl.filter (fun f => f.1 / 2 == path && f.1 % 2 == 1)).length

/-- Every receiving entry of the earlier steps has ended. -/
def stepsOver (t : Stage) (i : Nat) (slots : List SlotEntry) (c step : Nat) (fl : List (Nat × Nat × List Byte)) : Bool :=
  (List.range 8).all (fun p => decide (((List.range slots.length).filter (fun k =>
    (slots.getD k {}).receives c && (slots.getD k {}).path == p && decide (stepOf t i slots c k < step))).length ≤ lastsOn fl p))

/-- The sending entries of a collective whose turn has come: the m-th of a path once m receiving entries of the other side of its
plane have ended, and not before the steps that come first are over. -/
def sendTurn (t : Stage) (i : Nat) (slots : List SlotEntry) (c : Nat) (fl : List (Nat × Nat × List Byte)) : List Nat :=
  (List.range slots.length).filter (fun k =>
    let e := slots.getD k {}
    e.sends c && decide ((pathPlace slots k (fun x => x.sends c && x.path == e.path)).1 ≤ lastsOn fl (opposite e.path)) &&
    stepsOver t i slots c (stepOf t i slots c k) fl)

/-- The shares into which a collective divides its buffer: one for each member, but a broadcast has one. -/
def lShares (t : Stage) (i n : Nat) : Nat := if lOp t i = 3 then 1 else max n 1

/-- The flits of the buffer that a sending entry carries. The m-th entries of the paths of its step carry one share of the data between
them, each flit on one path, and the shares follow each other round the ring. Which share comes first, which way they follow and which
flit takes which path the slot table fixes, and none of its fields says: they are free values (log entry 12). -/
def flitsOf (t : Stage) (i : Nat) (slots : List SlotEntry) (c n total k : Nat) : List Nat :=
  let e := slots.getD k {}
  let key := (t.e i 0xC 2, t.e i 0xE 2)
  let step := stepOf t i slots c k
  let place := fun (q : Nat) => (pathPlace slots q (fun x => x.sends c && x.path == (slots.getD q {}).path)).1
  let m := place k
  let peers := ((List.range slots.length).filter (fun q => (slots.getD q {}).sends c && decide (place q = m) &&
    decide (stepOf t i slots c q = step))).map (fun q => (slots.getD q {}).path)
  let shares := lShares t i n
  let per := ceilDiv total shares
  let first := Config.flitPath key 0 (step, 0)
  let share := if Config.flitPath key 1 (step, 0) % 2 = 0 then (first + m) % shares else (first + (shares - 1) * m) % shares
  (List.range total).filter (fun o => decide (o / max 1 per = share) &&
    peers.getD (Config.flitPath key 2 (m, o) % max 1 peers.length) 8 == e.path)

/-- Sends the flits of one sending entry, which is entry `base + k` of the slot table. The far L cell is in none of its fields: it is a free
value (log entry 12). A port that retrains is replaced by its like on the sibling plane (R162). -/
def State.sendFlits (s : State) (c : Nat) (t : Stage) (i : Nat) (slots : List SlotEntry) (n k : Nat) (replay : Bool) (buf : List Byte) : State :=
  let w := s.freeWord.toNat
  let e := slots.getD k {}
  let os := flitsOf t i slots t.cell n (buf.length / 256) k
  let sheaf := t.e i 0xA 2
  os.foldl (fun s o =>
    s.sendEnv e.path {
      flags := BitVec.ofNat 8 (bit (some o == os.getLast?) + 4 * bit replay), srcPart := BitVec.ofNat 10 s.own, srcCell := BitVec.ofNat 10 c
      dstPart := BitVec.ofNat 10 e.dst, dstCell := BitVec.ofNat 10 (w / 2 ^ 50), sheaf := BitVec.ofNat 12 sheaf
      sheafEpoch := BitVec.ofNat 8 (s.sheaf sheaf).epoch, entry := BitVec.ofNat 16 (t.e i 0xC 2 + k), offset := BitVec.ofNat 32 o
      tick := BitVec.ofNat 16 (s.getF F.tikCount_count), payload := slice buf (256 * o) 256 }) s.nextFree

/-- Sends what is due of a collective whose own data are complete. -/
def State.lSendDue (s : State) (j c : Nat) (t : Stage) (i n : Nat) (start : List Byte) : State :=
  let slots := s.lSlots j t i
  let fl := (s.cell c).flits
  let base := t.e i 0xC 2
  let due := (sendTurn t i slots t.cell fl).filter (fun k => !(s.cell c).sent.contains (base + k))
  due.foldl (fun s k => (s.sendFlits c t i slots n k (s.prog j).replaying (joinFlits t i slots t.cell start fl)).modCell c
    (fun x => { x with sent := x.sent ++ [base + k] })) s

/-- The other members' data of an L entry are there: of the part's L cells the rows, of a ring the flits (R159 to R161). -/
def State.lFed (s : State) (j c : Nat) (t : Stage) (i : Nat) : Bool :=
  let g := s.image j
  let op := t.firstOp + i
  if lBytes t i = 0 then true
  else if lSpan t i = 0 then
    (g.lMembers op).all (fun m => s.inputDone j (s.runnerOf j m.1.cell) m.1 m.2 ((g.oper op).ins.getD 0 0xFFFF) 0)
  else decide ((s.lParts t i).length ≤ 1) ||
    (flitsNeeded ((s.lSlots j t i).filter (fun e => e.receives t.cell)).length (s.cell c).flits).isSome

/-- The flits of an entry whose work is discarded are taken. -/
def State.lSkip (s : State) (j c : Nat) (t : Stage) (i : Nat) : State :=
  if lSpan t i = 0 ∨ lBytes t i = 0 then s
  else
    let n := (flitsNeeded ((s.lSlots j t i).filter (fun e => e.receives t.cell)).length (s.cell c).flits).getD 0
    s.modCell c (fun x => { x with flits := x.flits.drop n })

/-- An L entry whose own rows are complete: it ends when the other members' data are there; one of zero bytes ends at once (R161). A
span-0 broadcast sends the buffer of the lowest member cell: the root names a part, and the spec does not say which cell of it is the
source (DESIGN CHOICE, log entry 51). -/
def State.lEntry (s : State) (j c : Nat) (t : Stage) (i : Nat) : State :=
  let g := s.image j
  let op := t.firstOp + i
  let p := g.oper op
  let own := s.lBuffer j c t i
  if lSpan t i = 0 then
    let ms := g.lMembers op
    let ready := ms.all (fun m => s.inputDone j (s.runnerOf j m.1.cell) m.1 m.2 (p.ins.getD 0 0xFFFF) 0)
    if !ready && lBytes t i != 0 then s
    else
      let bufs := ms.map (fun m => s.lBuffer j (s.runnerOf j m.1.cell) m.1 m.2)
      let me := (findIdx? (fun m => m.1.cell == t.cell) ms).getD 0
      let res :=
        if lOp t i = 0 then bufs.flatten
        else if lOp t i = 3 then bufs.headD own
        else match bufs with
          | [] => own
          | b :: r => r.foldl (lCombine (lDtype t i) (lMax t i)) b
      s.lSend j c t i me ms.length res
  else
    let parts := s.lParts t i
    let me := (findIdx? (fun x => x == s.own) parts).getD 0
    let n := parts.length
    let start := if lOp t i = 0 then List.replicate (me * lBytes t i) 0 ++ own ++ List.replicate ((n - 1 - me) * lBytes t i) 0 else own
    if n ≤ 1 ∨ lBytes t i = 0 then s.lSend j c t i me n start
    else
      let slots := s.lSlots j t i
      let s := s.lSendDue j c t i n start
      match flitsNeeded (slots.filter (fun e => e.receives t.cell)).length (s.cell c).flits with
      | none => s
      | some k =>
        let res := joinFlits t i slots t.cell start ((s.cell c).flits.take k)
        let s := if (s.cell c).rerouted then s.bump F.celColl_rerouted c else s
        let s := s.modCell c (fun x => { x with flits := x.flits.drop k, rerouted := false })
        s.lSend j c t i me n res

end Sys2Proof.Machine
end

