-- ==== Sys2Proof/Machine/MCell.lean ====
section
/-! DEFINITION. Matrix cells: exact accumulation, WIDE mode, drain, EXPERT rows (R103 to R128, R550). -/

namespace Sys2Proof.Machine

/-- A block of products: its exponent and exact value (Table 4.8). -/
structure Blk where
  exp : Int
  val : Num
  deriving DecidableEq, Repr

/-- The accumulator of one output: exact sum, exponents met, FP32 sum once WIDE, flags, blocks left out (R116, R117). -/
structure Acc where
  sum : Num := .zero
  lo : Option Int := none
  hi : Int := 0
  wide : Bool := false
  sat : Bool := false
  skipped : Nat := 0
  deriving DecidableEq, Repr

/-- An FP32 step that saturates and keeps infinities that the operands brought. -/
def satStep (x : Num) : Num × Bool := if x.isInf then (x, false) else fp32Sat x

/-- Adds a block in ascending k. The exponent of a NaN or infinite block counts for the window as its scales give it, a scale of
0xFF as 128: the spec does not say whether it does (DESIGN CHOICE, log entry 51). -/
def Acc.add (a : Acc) (b : Blk) : Acc :=
  if b.val.isZero then { a with skipped := a.skipped + 1 }
  else if a.wide then
    let v := satStep b.val
    let t := satStep (a.sum.add v.1)
    { a with sum := t.1, sat := a.sat || v.2 || t.2 }
  else
    let lo := match a.lo with
      | none => b.exp
      | some l => min l b.exp
    let hi := match a.lo with
      | none => b.exp
      | some _ => max a.hi b.exp
    if 47 < hi - lo then
      let z := satStep a.sum
      let v := satStep b.val
      let t := satStep (z.1.add v.1)
      { a with sum := t.1, wide := true, sat := a.sat || z.2 || v.2 || t.2 }
    else { a with sum := a.sum.add b.val, lo := some lo, hi := hi }

/-- A value's NaN or infinity has no block window; the unbiased exponent of an element or scale (Table 4.8). -/
def unbiased (f : FloatFmt) (code : Nat) : Int :=
  let ex := code % 2 ^ (f.width - 1) / 2 ^ f.man
  if ex = 0 then 1 - f.bias else ex - f.bias

/-- One output's operands: weight and activation codes and scale codes by k from the share's first k. -/
structure MOps where
  wf : Nat
  af : Nat
  w : Nat → Nat
  a : Nat → Nat
  ws : Nat → Nat
  asc : Nat → Nat

/-- The block that starts at k and holds at most n products. A block whose products are all zero and one of whose scales is NaN gives NaN
(R122), and is not left out as R116 would have it: the spec says both and does not say which (DESIGN CHOICE, log entry 54). -/
def MOps.block (o : MOps) (k n : Nat) : Blk :=
  let prod := fun i => (elemValue o.wf (o.w (k + i))).mul (elemValue o.af (o.a (k + i)))
  let total := sumExact ((List.range n).map prod)
  if isMx o.wf then
    let sw := o.ws (k / 32)
    let sa := o.asc (k / 32)
    { exp := (sw : Int) + sa - 254, val := (total.mul (scaleValue sw)).mul (scaleValue sa) }
  else if o.wf = fTERN then
    let sc := o.ws (k / 64)
    { exp := unbiased fmtE4m3 sc, val := total.mul (fmtE4m3.value sc) }
  else if o.wf = fBF16 then { exp := unbiased fmtBf16 (o.w k) + unbiased fmtBf16 (o.a k), val := total }
  else { exp := 0, val := total }

/-- Products in a block of a pair. -/
def blockOf (wf : Nat) : Nat := if wf = fBF16 then 1 else if wf = fTERN then 64 else 32

/-- The sum over one K segment [from, from + n) of a share. -/
def MOps.segment (o : MOps) (start n : Nat) : Acc :=
  let b := blockOf o.wf
  (List.range (ceilDiv n b)).foldl (fun acc i => acc.add (o.block (start + i * b) (min b (n - i * b)))) {}

/-- Elements of a K segment (R107). -/
def kSegment : Nat := 65536

/-- One output over its K range: value and flags, and the blocks left out (R118, R119). -/
def MOps.output (o : MOps) (kCnt : Nat) : Num × Flags × Nat :=
  let segs := (List.range (ceilDiv kCnt kSegment)).map (fun i => o.segment (i * kSegment) (min kSegment (kCnt - i * kSegment)))
  match segs with
  | [] => (.zero, {}, 0)
  | [a] => (a.sum, { wide := a.wide, sat := a.sat }, a.skipped)
  | a :: r =>
    let first := satStep a.sum
    let out := r.foldl (fun (st : Num × Flags × Nat) x =>
      let v := satStep x.sum
      let t := satStep (st.1.add v.1)
      (t.1, { wide := st.2.1.wide || x.wide, sat := st.2.1.sat || x.sat || v.2 || t.2 }, st.2.2 + x.skipped))
      (first.1, { wide := a.wide, sat := a.sat || first.2 }, a.skipped)
    out

/-- The operands of output column n (from the share's first) of a row of activation codes. -/
def mOps (t : Stage) (i : Nat) (code scale : List Byte) (acodes ascales : Nat → Nat) (n : Nat) : MOps :=
  let wf := t.f 0x20 1
  let k := mKcnt t i
  let nc := mNcnt t i
  let bl := max (blockLen wf) 1
  let wt := mWt t
  let rowLen := if wt then up64 (codeBytes wf (heldElems wf k)) else up64 (codeBytes wf nc)
  let scLen := if wt then up64 (ceilDiv k bl) else up64 nc
  { wf := wf, af := t.f 0x21 1,
    w := fun kk => if wt then codeAt wf (slice code (n * rowLen) rowLen) kk else codeAt wf (slice code (kk * rowLen) rowLen) n,
    a := acodes,
    ws := fun b => fieldAt scale (if wt then n * scLen + b else b * scLen + n) 1,
    asc := ascales }

/-- The element and scale codes of an activation row from the share's first k: the slice that holds each k. -/
def State.actCodes (s : State) (j f lo : Nat) (rs : List MeshRow) : (Nat → Nat) × (Nat → Nat) :=
  let pick := fun (k : Nat) => rs.foldl (fun (best : Option MeshRow) r =>
    if k < r.hdr.col.toNat then best else match best with
      | none => some r
      | some b => if b.hdr.col.toNat ≤ r.hdr.col.toNat then some r else some b) none
  (fun kk => match pick (lo + kk) with
    | some r => let d := lo + kk - r.hdr.col.toNat
                if d < s.rowWidth j f r then codeAt f r.data d else 0
    | none => 0,
   fun b => match pick (lo + 32 * b) with
    | some r => fieldAt r.data (scaleOff f (s.rowWidth j f r) + (lo + 32 * b - r.hdr.col.toNat) / 32) 1
    | none => 0)

/-- One drained row: bytes, flags, counts of WIDE, NAN, SAT outputs and of blocks left out. -/
def drainOutputs (f : Nat) (outs : List (Num × Flags × Nat)) : List Byte × Flags × (Nat × Nat × Nat × Nat) :=
  let (bs, ds) := drainRow f (outs.map (fun o => o.1))
  let both := outs.zip ds
  let wide := (outs.filter (fun o => o.2.1.wide)).length
  let nan := (ds.filter (fun d => d.nan)).length
  let sat := (both.filter (fun e => e.1.2.1.sat || e.2.sat)).length
  (bs, { wide := decide (0 < wide), nan := decide (0 < nan), sat := decide (0 < sat) },
    (wide, nan, sat, (outs.map (fun o => o.2.2)).foldl (· + ·) 0))

/-- Cycles of a cell are being skipped: by its duty limit, the fast throttle or its region's cycle skip (R32, R33). -/
def State.throttled (s : State) (c : Nat) : Bool :=
  decide (s.getF F.pwrDuty_duty c < 16) || s.getF F.pwrStat_skip != 0 || tget 0 s.heat.skips c != 0

/-- The bubble and stall cycles that passes add (R125), which no rule maps to cycles: free amounts (log entry 5); none skipped by a
throttle where none acts. -/
def State.bubbles (s : State) (c : Nat) : State :=
  let (a, b) := (s.freeWord.toNat, s.nextFree.freeWord.toNat)
  let s := ((s.bump F.mxcBubble_feed c (a % 2 ^ 32)).bump F.mxcBubble_wload c (a / 2 ^ 32)).bump F.mxcStall_drain c (b % 2 ^ 32)
  (if s.throttled c then s.bump F.mxcStall_throttle c (b / 2 ^ 32) else s).nextFree.nextFree

/-- What the passes of a column group, of n outputs from n0 on, read for a K segment of kn elements from k0 on, as offset and bytes: of the
rows of the code array, and of those of the scale array (R550). -/
def passCodes (wf k nc : Nat) (wt : Bool) (n0 n k0 kn : Nat) : List (Nat × Nat) :=
  if wt then (List.range n).map (fun i => ((n0 + i) * up64 (codeBytes wf (heldElems wf k)) + codeBytes wf k0, codeBytes wf (heldElems wf kn)))
  else (List.range (heldElems wf kn)).map (fun i => ((k0 + i) * up64 (codeBytes wf nc) + codeBytes wf n0, codeBytes wf n))
def passScales (wf k nc : Nat) (wt : Bool) (n0 n k0 kn : Nat) : List (Nat × Nat) :=
  let b := blockLen wf
  if b = 0 then []
  else if wt then (List.range n).map (fun i => ((n0 + i) * up64 (ceilDiv k b) + k0 / b, ceilDiv kn b))
  else (List.range (ceilDiv kn b)).map (fun i => ((k0 / b + i) * up64 nc + n0, n))

/-- Reads a list of ranges; false from the first that fails on. -/
def State.readAll (s : State) (c : Nat) (rs : List (Nat × Nat)) : State × Bool :=
  rs.foldl (fun acc r => if acc.2 then (let (s, b) := acc.1.stageRead c r.1 r.2; (s, b.isSome)) else acc) (s, true)

/-- One pass (R107): it reads its weights, and is completed, or discarded where a read fails (R126). `code` and `scale` are where the share
lies. -/
def State.mPass (s : State) (c : Nat) (t : Stage) (i code scale n0 n k0 kn : Nat) : State × Bool :=
  let wf := t.f 0x20 1
  let at_ := fun (a : Nat) (r : Nat × Nat) => (a + r.1, r.2)
  let (s, ok) := s.readAll c ((passCodes wf (mKcnt t i) (mNcnt t i) (mWt t) n0 n k0 kn).map (at_ code) ++
    (passScales wf (mKcnt t i) (mNcnt t i) (mWt t) n0 n k0 kn).map (at_ scale))
  if ok then (s.bump F.mxcPasses_done c, true) else (s.dropPass c, false)

/-- The outputs of a row in a column group, and what is counted of them at the drain of its last pass (R124). -/
abbrev MOut := List (Num × Flags × Nat)

/-- Counts the flagged outputs of a drain. -/
def State.countDrain (s : State) (c f : Nat) (outs : MOut) : State :=
  let (_, _, w, na, sa, z) := drainOutputs f outs
  (((s.bump F.mxcFlags_wide c w).bump F.mxcFlags_nan c na).bump F.mxcFlags_sat c sa).bump F.mxcFlags_zero_scale c z

/-- A row group through a column group: its K segments in ascending order, then the drain (R108, R118). -/
def State.mRows (s : State) (j c : Nat) (t : Stage) (i code scale n0 n : Nat) (rows : List (RowHdr × List MeshRow)) :
    State × Option (List MOut) :=
  let wf := t.f 0x20 1
  let k := mKcnt t i
  let (s, ok) := (List.range (ceilDiv k kSegment)).foldl (fun acc q =>
    if acc.2 then acc.1.mPass c t i code scale n0 n (q * kSegment) (min kSegment (k - q * kSegment)) else acc) (s, true)
  if !ok then (s, none)
  else
    let cb := s.readDev code (codeArray wf k (mNcnt t i) (mWt t))
    let sb := s.readDev scale (scaleArray wf k (mNcnt t i) (mWt t))
    let outs := rows.map (fun r =>
      let (ac, sc) := s.actCodes j (t.f 0x21 1) (mKlo t i) r.2
      (List.range n).map (fun x => (mOps t i cb sb ac sc (n0 + x)).output k))
    (outs.foldl (fun s o => s.countDrain c (t.f 0x22 1) o) s, some outs)

/-- A column group: its row groups in ascending order, for each of which the weights are read again (R108). -/
def State.mColumns (s : State) (j c : Nat) (t : Stage) (i code scale n0 n : Nat) (rows : List (RowHdr × List MeshRow)) :
    State × Option (List MOut) :=
  (runsOf 256 (rows.length / 256 + 1) rows).foldl (fun acc g => match acc.2 with
    | none => acc
    | some os =>
      let (s, o) := acc.1.mRows j c t i code scale n0 n g
      (s, o.map (fun o => os ++ o))) (s, some [])

/-- The rows of one expert (or of MATMUL) through an entry: its column groups in ascending order; false when a read of its weights failed. A
drained row carries all the columns of the entry: R130 speaks of a row of 128 outputs, and nothing says that each group of 128 is a row
of its own (DESIGN CHOICE, log entry 51). -/
def State.mGroup (s : State) (j c : Nat) (t : Stage) (i ex : Nat) (rows : List (RowHdr × List MeshRow)) : State × Bool :=
  let nc := mNcnt t i
  let stride := t.e i 0x14 4
  let (s, outs) := (List.range (ceilDiv nc 128)).foldl (fun (acc : State × Option (List MOut)) g => match acc.2 with
    | none => acc
    | some os =>
      let (s, o) := acc.1.mColumns j c t i (t.e i 0x18 8 + ex * stride) (t.e i 0x20 8 + ex * stride) (128 * g) (min 128 (nc - 128 * g)) rows
      (s, o.map (fun o => (os.zip o).map (fun e => e.1 ++ e.2)))) (s, some (rows.map (fun _ => [])))
  match outs with
  | none => (s, false)
  | some os =>
    let s := (rows.zip os).foldl (fun s e =>
      let (bs, fl, _) := drainOutputs (t.f 0x22 1) e.2
      s.emitTo c (s.consumers j t) [mkRow e.1.1 c i (mNlo t i) fl bs]) s
    (s.bubbles c, true)

/-- An entry of an M stage, once its rows are complete: each expert that has rows, in ascending index, its rows in the order in which
they came (R108, R110). A row for an expert that the entry does not have takes part in no pass: the spec does not say what becomes of
it (DESIGN CHOICE, log entry 51). -/
def State.mEntry (s : State) (j c : Nat) (t : Stage) (i : Nat) : State :=
  let p := (s.image j).oper (t.firstOp + i)
  let rows := (if mExperts t i = 0 then tokenRows else arrivalRows) (s.rowsFor j c t i (p.ins.getD 0 0xFFFF) 0)
  let groups : List (Nat × List (RowHdr × List MeshRow)) :=
    if mExperts t i = 0 then (if rows.isEmpty then [] else [(0, rows)])
    else ((List.range (mExperts t i)).map (fun e => (e, rows.filter (fun r => r.1.expert.toNat == e)))).filter (fun e => !e.2.isEmpty)
  let (s, ok) := groups.foldl (fun acc e =>
    if acc.2 then acc.1.mGroup j c t i e.1 e.2 else acc) (s, true)
  if !ok then s
  else
    let s := s.entryDone c i
    if (s.cell c).doneOps.length < t.opCount then s else s.putF F.mxcStat_busy c 0

end Sys2Proof.Machine
end

