-- ==== Sys2Proof/Machine/MeshRow.lean ====
section
/-! DEFINITION. The rows of the mesh family: a row that arrives, a producer-lost mark, and the running of the stages they
feed (R135 to R143, R235). -/

namespace Sys2Proof.Machine

/-- A last row of the producer that a descriptor field names has come, or the field names none. -/
def State.srcDone (s : State) (j c : Nat) (t : Stage) (o : Nat) : Bool :=
  t.f o 2 == 0xFFFF || (s.cell c).rowsIn.any (fun r => r.hdr.last && r.hdr.src.toNat == s.runnerOf j (t.f o 2))

/-- Everything an entry needs has come (R139). -/
def State.entryReady (s : State) (j c : Nat) (t : Stage) (i : Nat) : Bool :=
  let p := (s.image j).oper (t.firstOp + i)
  let have_ := fun k => s.inputDone j c t i (p.ins.getD k 0xFFFF) k
  let fn := t.e i 0 1
  if t.kind = kA then s.aReady j c t
  else if t.kind = kV then
    have_ 0 && (if fn = 4 then have_ 1 else if fn = 6 ∨ (fn = 2 ∧ bitOf (t.e i 3 1) 0) then s.srcDone j c t 0x22 else true)
  else if t.kind = kG then
    if fn = 1 then s.embedFromTick j t || have_ 0
    else if fn = 2 then bitOf (t.e i 2 1) 0 || have_ 0
    else if fn = 4 then have_ 0 && s.srcDone j c t 0x22
    else have_ 0 && have_ 1
  else if t.kind = kS then have_ 0 && (t.f 0x40 1 != 2 || have_ 1)
  else have_ 0

/-- Runs one entry of a stage. -/
def State.runEntry (s : State) (j c : Nat) (t : Stage) (i : Nat) : State :=
  if t.kind = kM then s.mEntry j c t i
  else if t.kind = kA then s.aEntry j c t
  else if t.kind = kV then s.vEntry j c t i
  else if t.kind = kG then s.gEntry j c t i
  else if t.kind = kL then s.lEntry j c t i
  else s.sEntry j c t

/-- Whether a cell's stage may work now: started, not stopped, not finished, out of reset, no producer lost, and no window open. -/
def State.works (s : State) (c : Nat) : Bool :=
  let x := s.cell c
  x.started.isSome && x.finished.isNone && !x.stopped && !x.inReset && x.lost.isEmpty && !s.tick.windowOpen && (s.stageOf c).isSome

/-! ## Waiting (R77, R260) -/

/-- The end of the last slot of this tick in which an entry's input reaches the cell: a ring slot of a collective, or a slot from a
producer of the entry's operands. A start below 256 counts as it stands: R55 says that it is counted as start_ns is, and not whether it
too acts as 256 (DESIGN CHOICE, log entry 54). -/
def State.slotEnd (s : State) (j : Nat) (t : Stage) (i : Nat) : Nat :=
  let g := s.image j
  let p := g.oper (t.firstOp + i)
  let ring := if t.kind = kL ∧ lSpan t i ≠ 0 then (s.lSlots j t i).filter (fun e => e.receives t.cell) else []
  let srcs := (List.range p.ins.length).flatMap (fun k => (g.feeds t (p.ins.getD k 0xFFFF) k).map (fun f => f.1))
  let tb := g.slots.getD (s.getF F.tikCount_count % max g.slots.length 1) []
  maxList ((ring ++ tb.filter (fun e => decide (e.cls < 2) && e.dst == t.cell && srcs.contains e.src)).map (fun e => e.start + e.dur))

/-- Since when a cell has waited for an entry's input: from the input's slot on, where it had nothing else to work on. What the
cell's own work takes between two inputs no command tells, so it counts as having nothing to work on (log entry 51). -/
def State.waitsFrom (s : State) (j c : Nat) (t : Stage) (i : Nat) : Nat := max (s.cell c).idleAt (s.tick.edgeAt + s.slotEnd j t i)

/-! ## What an entry reads and writes (R260, R287) -/

/-- The records of positions of a page, each region's, with the page's header. -/
def pageRanges (e : KvEntry) (prec page : Nat) (ns : List Nat) : List (Nat × Nat) :=
  let rb := recBytes prec e.dh
  (e.pageOf page, 64) :: ns.flatMap (fun n => [(e.pageOf page + 64 + n * rb, rb), (e.pageOf page + 64 + (64 + n) * rb, rb)])

/-- What a KVAPPEND entry touches for one position of a list: its page-table entry, its page, which it may have yet to take, and its
scores. -/
def State.appendRanges (s : State) (j : Nat) (l : ListId) (i pos : Nat) : List (Nat × Nat) :=
  let t := s.stream i
  let te := s.tableEntry l t.slot (pos / 64)
  let page := if te.page = noPage then (s.allocPage j l t.kv.prec).2 else some te.page
  (l.e.tableAt t.slot l.head (pos / 64), 16) ::
    ((page.map (fun k => pageRanges l.e t.kv.prec k [pos % 64])).getD [] ++
      (if l.e.winnow then [(l.e.scoresAt t.slot te.sel l.head (pos / 64), 256)] else []))

/-- What an A stage reads: of each block of which a query admits a position, the page-table entry and the page's admitted positions. -/
def State.aRanges (s : State) (j c : Nat) (t : Stage) : List (Nat × Nat) :=
  (s.aBlocks j c t).flatMap (fun x =>
    let m := s.stream x.stream
    let te := s.tableEntry x.list m.slot x.block
    let live := (x.places.filter (fun q => bitOf te.live (q % 64))).map (fun q => q % 64)
    (x.list.e.tableAt m.slot x.list.head x.block, 16) ::
      (if te.page = noPage ∨ live.isEmpty then [] else pageRanges x.list.e m.kv.prec te.page live))

/-- The table rows that an EMBED, GATHER or SCATTER entry reads or writes: those of its indices in range. -/
def State.tableRanges (s : State) (j c : Nat) (t : Stage) (i : Nat) : List (Nat × Nat) :=
  let p := (s.image j).oper (t.firstOp + i)
  let ids := if t.e i 0 1 = 3 then s.indexRows j c t i (p.ins.getD 0 0xFFFF) 0 else s.gIndices j c t i p
  ((ids.map (fun e => e.2)).filter (fun k => decide (k < t.e i 4 4))).eraseDups.map (fun k =>
    (t.e i 0x10 8 + k * t.e i 0x18 4, rowBytes (t.e i 1 1) (t.e i 8 4)))

/-- The device bytes that an entry reads and writes, as ranges: those, and no others (R260). -/
def State.entryRanges (s : State) (j c : Nat) (t : Stage) (i : Nat) : List (Nat × Nat) :=
  let g := s.image j
  let p := g.oper (t.firstOp + i)
  let fn := t.e i 0 1
  let rows := s.rowsFor j c t i (p.ins.getD 0 0xFFFF) 0
  let streams := (rows.map (fun r => r.hdr.stream.toNat)).eraseDups
  if t.kind = kM then
    let wf := t.f 0x20 1
    let code := codeArray wf (mKcnt t i) (mNcnt t i) (mWt t)
    let scale := scaleArray wf (mKcnt t i) (mNcnt t i) (mWt t)
    let exs := if mExperts t i = 0 then (if rows.isEmpty then [] else [0])
      else (List.range (mExperts t i)).filter (fun e => rows.any (fun r => r.hdr.expert.toNat == e))
    (exs.flatMap (fun e => [(t.e i 0x18 8 + e * t.e i 0x14 4, code), (t.e i 0x20 8 + e * t.e i 0x14 4, scale)])).filter (fun r => r.2 != 0)
  else if t.kind = kV then
    let dh := (g.tensor (p.ins.getD 0 0)).dim 2
    let own := if rows.isEmpty ∨ (fn = 2 ∧ (s.cell c).tables.any (fun e => e.1 == t.e i 0xD 1)) then 0 else vParamBytes t i dh
    let scan := if fn = 7 then (match g.scanState p with
      | some (pl, z) => streams.map (fun k => (pl.addr + (s.stream k).slot * z, z))
      | none => []) else []
    (if own = 0 then [] else [(t.e i 0x10 8, own)]) ++ scan
  else if t.kind = kG then
    if fn = 5 then
      let e := t.kv i
      (tokenRows rows).flatMap (fun r => (List.range e.kvCnt).flatMap (fun h =>
        s.appendRanges j { cell := t.cell, entry := i, e := e, head := h } r.1.stream.toNat r.1.pos.toNat))
    else if fn = 4 then [] else s.tableRanges j c t i
  else if t.kind = kA then s.aRanges j c t
  else []

/-- What a stage reads at its start: a V cell the activation tables, an A cell the list and the mask that it does not hold yet (R149, R182), a
KVAPPEND cell what Winnow walks (R222). -/
def State.startRanges (s : State) (j c : Nat) (t : Stage) : List (Nat × Nat) :=
  let x := s.cell c
  if t.kind = kV then
    ((List.range t.opCount).filter (fun i => t.e i 0 1 == 2 && !x.tables.any (fun e => e.1 == t.e i 0xD 1))).map (fun i =>
      (t.e i 0x10 8, vParamBytes t i 0))
  else if t.kind = kA then
    if x.globals.isSome then []
    else ((t.f 0x48 8, 4 * t.f 0x38 2) :: (if aPattern t = 3 then [(t.f 0x50 8, 1024)] else [])).filter (fun r => r.2 != 0)
  else if t.kind = kG then
    ((List.range t.opCount).filter (fun i => t.e i 0 1 == 5 && (t.kv i).winnow)).flatMap (fun i =>
      ((s.streamsOf j).filter (fun k => (s.stream k).kv.winnow && !(s.stream k).failed)).flatMap (fun k =>
        (List.range (t.kv i).kvCnt).flatMap (fun h =>
          let l : ListId := { cell := t.cell, entry := i, e := t.kv i, head := h }
          let m := s.stream k
          if (s.held l m).length ≤ m.budgetOf - winnowH t.tMax then []
          else (List.range (min m.blocks l.e.blocks)).flatMap (fun b =>
            let te := s.tableEntry l m.slot b
            (l.e.tableAt m.slot h b, 16) ::
              (if te.page = noPage then [] else [(l.e.pageOf te.page, 64), (l.e.scoresAt m.slot te.sel h b, 256)])))))
  else []

/-! ## Waits for memory -/

/-- A stage's accesses would wait on a held channel (R260), and the channels at which a flail works on their banks (R287). -/
def State.rangesHeld (s : State) (rs : List (Nat × Nat)) : Bool := rs.any (fun r => s.heldInWay r.1 r.2)
def State.rangesFlails (s : State) (rs : List (Nat × Nat)) : List Nat := (rs.flatMap (fun r => s.flailChans r.1 r.2 s.arrivals)).eraseDups

/-- The ranges of a cell's accesses that wait for what keeps them: one that meets an error waits for nothing. -/
def State.waitable (s : State) (c : Nat) (rs : List (Nat × Nat)) : List (Nat × Nat) :=
  rs.filter (fun r => !s.addrError r.1 r.2 && !s.cellErrResponse c r.1 r.2)

/-- Something may keep a stage's accesses: a channel is held, or a flail command is queued. -/
def State.mayKeep (s : State) : Bool := s.chans.any (fun e => e.2.heldSince.isSome || !e.2.flails.isEmpty)

/-- An access that a channel's flails kept is counted there (R293). -/
def State.countFlailWait (s : State) (c ns : Nat) : State :=
  (s.bump F.fllHold_held c).putF F.fllHold_longest_ns c (max (s.getF F.fllHold_longest_ns c) (min ns (2 ^ 32 - 1)))

/-- The wait of a stage for memory is over: what a held channel kept it counts as input wait, what flails kept it in FLL_HOLD. -/
def State.endKeep (s : State) (c : Nat) : State :=
  let x := s.cell c
  let s := x.flailSince.foldl (fun s f => s.countFlailWait f.1 (s.now - f.2)) s
  if x.memHeld.isNone && x.flailSince.isEmpty then s
  else s.modCell c (fun x => { x with
    memWaitNs := x.memWaitNs + ((x.memHeld.map (fun m => s.now - m)).getD 0), memHeld := none, flailSince := [], idleAt := s.now })

/-- An entry whose input is there has been waited for until now. What it waited for memory counts apart. -/
def State.noteWait (s : State) (j c : Nat) (t : Stage) (i : Nat) : State :=
  let x := s.cell c
  if x.memHeld.isSome || !x.flailSince.isEmpty then s
  else s.modCell c (fun x => { x with waitNs := x.waitNs + (s.now - s.waitsFrom j c t i), idleAt := s.now })

/-- What now keeps a stage's accesses: a held channel, or else flails. -/
def State.keepStage (s : State) (c : Nat) (held : Bool) (flails : List Nat) : State :=
  let x := s.cell c
  let gone := x.flailSince.filter (fun f => held || !flails.contains f.1)
  let s := gone.foldl (fun s f => s.countFlailWait f.1 (s.now - f.2)) s
  let stay := x.flailSince.filter (fun f => !gone.contains f)
  let new := if held then [] else (flails.filter (fun f => !stay.any (fun y => y.1 == f))).map (fun f => (f, s.now))
  s.modCell c (fun x => { x with
    flailSince := stay ++ new
    memWaitNs := if held then x.memWaitNs else x.memWaitNs + ((x.memHeld.map (fun m => s.now - m)).getD 0)
    memHeld := if held then some (x.memHeld.getD s.now) else none })

/-! ## Entries in their turn -/

/-- One entry of a stage in its turn: it runs when its input is there and nothing keeps its accesses. In a tick that is invalid its work is
discarded, and only its waits count (R77, R91). -/
def State.turn (s : State) (j c : Nat) (t : Stage) (i : Nat) : State :=
  let bad := (s.prog j).invalid
  if !s.entryReady j c t i then s
  else if t.kind = kL && !s.lFed j c t i then (if bad then s else s.runEntry j c t i)
  else
    let rs := if s.mayKeep then s.waitable c (s.entryRanges j c t i) else []
    let held := s.rangesHeld rs
    let flails := s.rangesFlails rs
    if held || !flails.isEmpty then (s.noteWait j c t i).keepStage c held flails
    else
      let s := (s.noteWait j c t i).endKeep c
      let s := if bad then (if t.kind = kL then s.lSkip j c t i else s) else s.runEntry j c t i
      if (s.prog j).invalid && !(s.cell c).doneOps.contains i then s.entryDone c i else s

/-- What a stage does first: a G cell evicts before its appends (R222), an A cell takes the tables it is to hold (R182), as a V cell does
(R149). -/
def State.prepare (s : State) (j c : Nat) (t : Stage) : State :=
  let rs := if s.mayKeep then s.waitable c (s.startRanges j c t) else []
  let held := s.rangesHeld rs
  let flails := s.rangesFlails rs
  if held || !flails.isEmpty then s.keepStage c held flails
  else
    let s := (s.endKeep c).modCell c (fun x => { x with prepared := true })
    if (s.prog j).invalid then s
    else if t.kind = kG then s.winnowStage j c t
    else if t.kind = kA then s.aTables j c t
    else if t.kind = kV then s.vTables c t else s

/-- Runs the entries of a cell's stage in order while each has what it needs; the output ends after the last. -/
def State.runStage (s : State) (c : Nat) : State :=
  match s.stageOf c with
  | none => s
  | some (j, t) =>
    let before := (s.cell c).doneOps.length
    let s := if s.works c && !(s.cell c).prepared then s.prepare j c t else s
    let s := (List.range t.opCount).foldl (fun s i =>
      if s.works c && (s.cell c).prepared && !(s.cell c).doneOps.contains i && decide ((s.cell c).doneOps.length = i) then s.turn j c t i
      else s) s
    let n := (s.cell c).doneOps.length
    if before < t.opCount ∧ n = t.opCount ∧ !(s.prog j).invalid then s.closeStage j c t else s

/-- The cells that a cell's progress serves without a row: A cells of a KVAPPEND cell, the other L cells of the part. -/
def State.served (s : State) (c : Nat) : List Nat :=
  match s.stageOf c with
  | none => []
  | some (j, t) =>
    ((s.prog j).stagesAt.filter (fun e => (t.kind == kG && e.2.kind == kA && e.2.f 0x26 2 == t.cell) ||
      (t.kind == kL && e.2.kind == kL && e.2.cell != t.cell))).map (fun e => e.1)

/-- Runs a cell's stage and those it serves. -/
def State.runFrom (s : State) (c : Nat) : State :=
  (s.served c).foldl State.runStage (s.runStage c)

/-- A cell's work for the tick is lost. -/
def State.discardWork (s : State) (c : Nat) : State :=
  (s.dropPass c).modCell c (fun x => { x with rowsIn := [], rowsOut := [], inTick := [], increments := [], flits := [] })

/-- A row whose stream identifier is not live with its epoch. -/
def State.staleRow (s : State) (r : MeshRow) : Bool := !r.hdr.empty && !s.live r.hdr.stream.toNat r.hdr.epoch.toNat

/-- A started cell that works has waited until now for the entry whose turn it is (R77). -/
def State.notePending (s : State) (j c : Nat) (t : Stage) : State :=
  let n := (s.cell c).doneOps.length
  if s.works c && (s.cell c).prepared && decide (n < t.opCount) then (s.noteWait j c t n).endKeep c else s

/-- A producer-lost mark reaches a consumer, which counts it (R169): its work for the tick is lost, and the tick of its program (R140,
R302). -/
def opProducerLost (c p : Nat) (s : State) : State :=
  let s := s.bump F.celMesh_lost c
  match s.stageOf c with
  | none => s
  | some (j, t) =>
    if s.tick.windowOpen || (s.cell c).job.isNone then s
    else
      let s := ((s.notePending j c t).discardWork c).modCell c (fun x => { x with lost := if x.lost.contains p then x.lost else x.lost ++ [p] })
      s.invalidate j

/-- PRODUCER_LOST. -/
def execProducerLost (consumer producer : BitVec 10) (s : State) : Host.Outcome State Fault Refusal :=
  run (opProducerLost consumer.toNat producer.toNat) s

/-- The link on a row's way whose isolation wrapper answers (R350). -/
def State.rowBlocked (s : State) (c : Nat) (r : MeshRow) : Option Nat :=
  (routeLinks (cellTower r.hdr.src.toNat) (cellTower c)).find? (fun l => s.onF F.d2dStat_wrapper l)

/-- A row arrives. Where a wrapper answers on its way it does not, and the consumer takes its producer for one that has failed (R350). The
router of a cell in reset discards it (R140); a stale row is dropped and counted (R138); else it waits for the entry it feeds. -/
def opMeshRow (c : Nat) (r : MeshRow) (now : Nat) (s : State) : State :=
  let s := s.at_ now
  match s.stageOf c, s.rowBlocked c r with
  | none, _ => s
  | some _, some l => opProducerLost c r.hdr.src.toNat (s.bump F.d2dErr_wrapper l)
  | some (j, _), none =>
    if (s.cell c).inReset then s
    else if s.staleRow r then (s.bump F.celMesh_epoch_drop c).errsum (s.sheafsOfJob j) 6
    else if s.tick.windowOpen || (s.cell c).stopped || (s.cell c).finished.isSome then s
    else
      let s := (s.modCell c (fun x => { x with
        rowsIn := x.rowsIn ++ [r], idleAt := if x.started.isNone && x.rowsIn.isEmpty then s.now else x.idleAt })).bump F.celStat_rows_in c
      (s.showPass c).runFrom c

/-- MESH_ROW. -/
def execMeshRow (consumer : BitVec 10) (row : RowArrival) (s : State) : Host.Outcome State Fault Refusal :=
  run (opMeshRow consumer.toNat row.row row.now) s

end Sys2Proof.Machine
end

