-- ==== Sys2Proof/Machine/Retire.lean ====
section
/-! DEFINITION. Retiring cells and channels, spares (R63, R64, R93, R95, R133, R219, R233, R266, Table 8.8), the stop of
stages (R86), what a part tells the ring, and ports that go down or retrain (R323, R327, R334, R341, R342). -/

namespace Sys2Proof.Machine

/-! ## Failing programs -/

/-- Every open stream of a program fails at once with a status (R95, R133, R336). -/
def State.failProgram (s : State) (j status : Nat) : State :=
  (s.streamsOf j).foldl (fun s i => s.failStream i status true) s

/-- Every stream of a program is to fail at the next validation point (Table 8.8). -/
def State.failLater (s : State) (j status : Nat) : State := s.modProg j (fun p => { p with failStreams := some status })

/-! ## Spares -/

/-- The position of a kind in the spare policy word (Table 2.11); M has none. -/
def policyBits (policy kind : Nat) : Nat := if kind = kM then 0 else bitsOf policy (4 * (kind - 1)) 4

/-- The spares that repair commits on their way have taken. -/
def State.takenSpares (s : State) : List Nat := s.autos.filterMap (fun a => match a with
  | .repair _ _ p _ => some p
  | _ => none)

/-- An idle spare for a stage's cell within the scope of the sheaf's policy (Table 2.11): in the stook first, then in the tower, then
in another tower; the lowest cell number of the scope (R93; log entry 14). -/
def State.spareOf (s : State) (j : Nat) (t : Stage) (c : Nat) : Option Nat :=
  let d := ((s.image j).sheafOf t.sheaf).getD {}
  let pol := d.policy
  if policyBits pol t.kind = 0 then none
  else
    let busy := s.jobs.flatMap (fun j => ((s.prog j).stagesAt.map (fun e => e.1)) ++ (s.image j).stages.map (fun g => g.cell))
    let idle := sortBy id (d.members.filter (fun k =>
      k != c && kindOf k == t.kind && s.usable k && !(s.cell k).inReset && !busy.contains k && !s.takenSpares.contains k))
    let pick := fun (b : Nat) (p : Nat → Bool) => if bitOf pol b then idle.find? p else none
    match pick 20 (fun k => stookOf k == stookOf c), pick 21 (fun k => cellTower k == cellTower c), 
        pick 22 (fun k => cellTower k != cellTower c) with
    | some k, _, _ => some k
    | none, some k, _ => some k
    | none, none, r => r

/-- The stage of a retired cell moves to a spare by a repair commit; with none, its sheaf and its program's streams fail. -/
def State.moveStage (s : State) (c : Nat) : State :=
  match s.stageOf c with
  | none => s
  | some (j, t) => match s.spareOf j t c with
    | some p => { s with autos := s.autos ++ [.repair 2 c p false] }
    | none => (s.worsen t.sheaf 3).failProgram j 0x16

/-- A cell leaves service: 0 test, 1 slow, 2 SRAM, 3 channel, 4 broadcast (Table 16.7). -/
def State.retireCell (s : State) (c reason : Nat) : State :=
  if (s.cell c).retired then s
  else
    let was := s.usable c
    let s := (s.modCell c (fun x => { x with retired := true, stuckSram := false, why := reason })).setUsable c false
    let s := (s.degrade (s.sheafsOver c)).errsum (s.sheafsOver c) 5
    if was then (s.countInStart F.stdBootRet_cells).raise 0x16 1 c (BitVec.ofNat 64 reason) else s

/-! ## Retiring a channel -/

/-- A range has a byte on a channel. -/
def onChan (c : Nat) (r : Nat × Nat) : Bool :=
  decide (r.1 < (c + 1) * chanWindow) && decide (c * chanWindow < r.1 + r.2)

/-- The KV page pools and state pools of a program that meet a channel. -/
def Image.poolsOn (g : Image) (c : Nat) : Bool := g.poolChans.contains c

/-- A stream holds a page or a state slot on a channel. -/
def State.streamOn (s : State) (i c : Nat) : Bool :=
  let t := s.stream i
  let g := s.image t.job
  g.kvEntries.any (fun e => onChan c (e.2.2.slotAt t.slot, e.2.2.slotBytes)) ||
  g.scans.any (fun e => match g.scanState e.2.2 with
    | some (p, z) => onChan c (p.addr + t.slot * z, z)
    | none => false) ||
  g.lists.any (fun l => (s.held l t).any (fun h => onChan c (l.e.pageOf h.2.page, 1)))

/-- The prefix region loses a channel: every entry goes and prefix sharing ends (R233). -/
def State.losePrefix (s : State) (c : Nat) : State :=
  if s.pfxMib != 0 && cellRow c % 4 == 0 && !s.ctl.pfxLost then
    let s := s.ctl.pfx.foldl (fun s p => s.dropPfx p (s.getF F.tikCount_count)) s
    let s := { s with ctl := { s.ctl with pfxLost := true } }
    (s.putF F.pfxCfg_lost 0 1).raise 0x36 2 c 0
  else s

/-- Shows the operations in progress and the commands queued of a channel, and whether a hot hold keeps them (R293). -/
def State.showFlails (s : State) (c : Nat) : State :=
  let fs := (s.chan c).flails
  let q := (fs.filter (fun f => !f.running)).length
  ((s.putF F.fllStat_active c (min 255 (fs.filter (fun f => f.running)).length)).putF F.fllStat_queued c q).putF F.fllStat_held c
    (bit ((s.stackSt (stackOf c)).hotHold && q != 0))

/-- The port command ends with a status. -/
def State.portEnd (s : State) (c status : Nat) : State := (s.putF F.fllPctl_go c 0).putF F.fllPctl_status c status

/-- The tag of a flail command (Table 9.3). -/
def fwTag (w : FlailWords) : Nat := fieldGet w.w2 16 16

/-- The opcodes of the commands that stages have issued, to which there is an error response: LOADQ, SCORE and FRAG. -/
def stageOps : List Nat := [1, 2, 6]

/-- A command that is queued is dropped: a stage's with an error response, the port's as abandoned (Table 9.6). -/
def State.dropFlail (s : State) (c : Nat) (f : FlailCmd) : State :=
  if f.port then s.portEnd c 6 else if stageOps.contains f.op then s.send (.scoreError c (fwTag f.words)) else s

/-- The queued commands of a channel are dropped. -/
def State.dropQueued (s : State) (c : Nat) : State :=
  let s := ((s.chan c).flails.filter (fun f => !f.running)).foldl (fun s f => s.dropFlail c f) s
  (s.modChan c (fun x => { x with flails := x.flails.filter (fun f => f.running) })).showFlails c

/-- A channel is retired with its owning cell: reason 0 wires, 1 a command wire, 2 a hold (R266). What waited at it has
had its response. Every row of Table 8.8 that applies, applies; an M cell's sheaf fails in any case (R133). -/
def State.retireChannel (s : State) (c reason : Nat) : State :=
  if s.chanState c = vccRetired then s
  else
    let s := s.modChan c (fun x => { x with
      want := false, wantUrgent := false, waited := 0, retrainStart := none, heldSince := none
      narrowPending := false, retirePending := none, newBonds := [], rakeCredit := 0 })
    let s := ((((s.dropQueued c).putF F.vccCtl_retrain c 0).putF F.vccTrain_pending c 0).putF F.vccTrain_urgent c 0).putF F.vccStat_state c
      vccRetired
    let s := (s.countInStart F.stdBootRet_channels).raise 0x35 2 c (BitVec.ofNat 64 reason)
    let hit := s.jobs.filter (fun j => (rangeChans ((s.image j).places.flatMap Place.physRanges)).contains c)
    let s := s.jobs.foldl (fun s j =>
      if (s.image j).poolsOn c then
        ((s.streamsOf j).filter (fun i => s.streamOn i c)).foldl (fun s i => s.failStream i 0x13 true)
          (s.modProg j (fun p => { p with storageLost := true }))
      else s) s
    let s := hit.foldl (fun s j => s.failLater j 0x13) s
    let s := s.retireCell c 3
    let s := match s.jobOfCell c with
      | some j => if hit.contains j && kindOf c != kM then s else s.moveStage c
      | none => s
    s.losePrefix c

/-! ## Stopping stages -/

/-- Stops a cell's stage at an instant and discards its partial work and its pass in progress. -/
def State.stopCell (s : State) (c at_ : Nat) : State :=
  let s := s.dropPass c
  let s := ((s.putF F.celStat_busy c 0).putF F.mxcStat_busy c 0).putF F.thrStat_busy c 0
  let s := s.modCell c (fun x => { x with
    stopped := true, finished := some at_, rowsIn := [], rowsOut := [], inTick := [], increments := [], flits := [] })
  s.invalidateCell c

/-- Every unfinished stage stops (R86, R490, R491, R496). -/
def State.stopStages (s : State) (at_ : Nat) : State := s.unfinished.foldl (fun s c => s.stopCell c at_) s

/-! ## Ring words of this part -/

/-- The ports that hold take and are up: LNK_STAT.take says that the plane's bypass is open. -/
def State.takePorts (s : State) : List Nat :=
  (List.range 8).filter (fun p => s.onF F.lnkStat_take p && s.portUp p)

/-- A part's control word leaves by every port that holds take but one (R328, R329); each is carried on once. -/
def State.relay (s : State) (port : Option Nat) (part : Nat) (w : CtlWord) : State :=
  (s.takePorts.filter (fun p => some p != port)).foldl (fun s p => s.send (.ctl p part w))
    { s with ring := { s.ring with seen := s.ring.seen ++ [(part, w)] } }

/-- Sends a control word of this part. -/
def State.tell (s : State) (w : CtlWord) : State := s.relay none (s.getF F.lnkRing_own) w

/-- A control word that arrives on a port: carried on and acted on unless it has been seen. -/
def State.onWord (s : State) (port part : Nat) (w : CtlWord) (f : State → State) : State :=
  if s.ring.seen.contains (part, w) then s else f (s.relay (some port) part w)

/-- The planes this part holds. -/
def State.heldPlanes (s : State) : List Nat :=
  (List.range 4).filter (fun k => s.onF F.lnkStat_take (2 * k) || s.onF F.lnkStat_take (2 * k + 1))

/-- A part with no port up that holds take is its own timekeeper (R71, R327). -/
def State.aloneKeeper (s : State) : State :=
  if !s.takePorts.isEmpty then s
  else
    let was := s.onF F.lnkRing_is_keeper
    let s := (s.putF F.lnkRing_is_keeper 0 1).putF F.lnkRing_keeper 0 s.own
    if was then s else s.raise 0x13 0 0 (BitVec.ofNat 64 s.own)

/-- The bypasses of planes close, and their ports lose take (R332, R334). -/
def State.closePlanes (s : State) (ks : List Nat) : State :=
  let s := (ks.flatMap (fun k => [2 * k, 2 * k + 1])).foldl (fun s p =>
    (s.putF F.lnkStat_take p 0).putF F.lnkStat_state p (if s.planeReset p then lnkReset else lnkLoop)) s
  { s with ring := { s.ring with
    releasedPlanes := (s.ring.releasedPlanes ++ ks).eraseDups, releasing := s.ring.releasing.filter (fun k => !ks.contains k)
    pauseWaits := s.ring.pauseWaits.filter (fun w => !(w.part == s.own && ks.contains w.plane)) } }.aloneKeeper

/-! ## What a pause waits for (R334, R335) -/

/-- The parts that a plane joins to a part, as this part knows the ring: the nearest in both directions that have not left the plane (R316,
R338). -/
def State.neighbours (s : State) (x k : Nat) : List Nat :=
  let row := decide (k < 2)
  let n := (if row then s.getF F.lnkRing_row_len else s.getF F.lnkRing_col_len) + 1
  let pos := fun (y : Nat) => if row then y % 32 else y / 32
  let line := fun (y : Nat) => if row then y / 32 else y % 32
  let mine := if s.heldPlanes.contains k && !s.ring.releasing.contains k then [s.own] else []
  let ys := (mine ++ s.ring.parts).filter (fun y => y != x && line y == line x && !s.ring.gone.contains (y, k))
  let ahead := fun (a b : Nat) => (pos b + n - pos a % n) % n
  ((sortBy (ahead x) ys).head?.toList ++ (sortBy (fun y => ahead y x) ys).head?.toList).eraseDups

/-- A pause waits for parts at the ends of hops of a plane. -/
def State.waitFor (s : State) (k : Nat) (atEdge : Bool) (ys : List Nat) : State :=
  let ws := s.ring.pauseWaits.filter (fun w => !(w.plane == k && ys.contains w.part))
  { s with ring := { s.ring with pauseWaits := ws ++ ys.map (fun y => { part := y, plane := k, atEdge := atEdge }) } }

/-- A part releases planes: a pause waits for its neighbours there, and no longer for it. -/
def State.waitForRelease (s : State) (x : Nat) (ks : List Nat) : State :=
  ks.foldl (fun s k => { s with ring := { s.ring with
    pauseWaits := s.ring.pauseWaits.filter (fun w => !(w.part == x && w.plane == k)) } }.waitFor k true (s.neighbours x k)) s

/-- A part has left both planes of a ring: it is absent from the sheafs of parts that have it as a member (R337). -/
def State.absent (s : State) (k : Nat) : Bool :=
  [0, 2].any (fun r => s.ring.gone.contains (k, r) && s.ring.gone.contains (k, r + 1))

/-! ## Down and retraining (R323, R341, R342) -/

/-- A port goes down. -/
def State.portFalls (s : State) (p : Nat) : State :=
  if !s.portUp p then s
  else
    let s := ((s.putF F.lnkStat_state p lnkDown).bump F.lnkErr_down p).putF F.lnkTrain_pending p 1
    (s.movePort p).aloneKeeper

/-- A port may start to retrain: it asks for it, no other port of the part retrains, and its like on the sibling plane is
neither down nor retraining. -/
def State.mayRetrain (s : State) (p : Nat) : Bool :=
  s.onF F.lnkTrain_pending p && !((List.range 8).any (fun q => (s.port q).retraining)) && s.lnk p != lnkReset &&
  s.lnk (sibling p) != lnkDown && !(s.port (sibling p)).retraining

/-- A port may be retrained as its peer asks: the same holds of it, but in a pause the ports of a lost hop retrain one after another (R335,
R342). -/
def State.mayJoin (s : State) (p : Nat) : Bool :=
  !((List.range 8).any (fun q => q != p && (s.port q).retraining)) && (s.tick.held || s.lnk (sibling p) != lnkDown)

/-- The retrain that starts at an edge, if any. -/
def State.startRetrain (s : State) : State :=
  match (List.range 8).find? s.mayRetrain with
  | none => s
  | some p =>
    let s := s.modPort p (fun x => { x with retraining := true })
    let s := s.movePort p
    ((s.putF F.lnkTrain_pending p 0).putF F.lnkStat_state p lnkTraining).aloneKeeper

/-! ## Elections (R327) -/

/-- The best candidate this part knows: itself at first, unless it is leaving the ring (R334). -/
def State.bestCand (s : State) : Nat × Nat :=
  match s.ring.best with
  | some b => b
  | none => if s.ring.releasing.isEmpty then (s.getF F.lnkCfg_prio, s.own) else (15, 1023)

/-- Spreads a candidate. -/
def State.spread (s : State) (b : Nat × Nat) : State :=
  { s with ring := { s.ring with best := some b } }.tell (.candidate (BitVec.ofNat 4 b.1) (BitVec.ofNat 10 b.2))

/-- The part enters an election. -/
def State.enterElection (s : State) : State :=
  if s.ring.electing then s
  else
    let s := { s with ring := { s.ring with electing := true, best := none } }
    s.spread s.bestCand

/-- The part releases planes of the ring in order: a release word goes to the timekeeper, who announces a pause from the
next edge (R334). -/
def State.releasePlanes (s : State) (ps : List Nat) : State :=
  let ps := ps.filter (fun k => s.heldPlanes.contains k && !s.ring.releasing.contains k)
  if ps.isEmpty then s
  else
    let s := s.tell (.release (BitVec.ofNat 32 (s.getF F.tikCount_count)))
    let s := { s with ring := { s.ring with releasing := s.ring.releasing ++ ps } }.waitForRelease s.own ps
    if s.onF F.lnkRing_is_keeper then { s with ring := { s.ring with pauseNext := true } }.tell (.edge { pause := true }) else s

/-! ## Flails abandoned (R291, Table 9.6) -/

/-- Writes free bytes where a REQUANT in progress left its region undefined: every word is a valid codeword (R291). -/
def State.scramble (s : State) (a n : Nat) : State :=
  (s.writeDev a ((List.range n).map (Config.freeByte s.fresh))).nextFree

/-- The fields of a flail command (Table 9.3). -/
def fwBank (w : FlailWords) : Nat := fieldGet w.w0 4 4
def fwLoft (w : FlailWords) : Nat := fieldGet w.w0 8 4
def fwRow (w : FlailWords) : Nat := fieldGet w.w0 12 12
def fwForm (w : FlailWords) : Nat := fieldGet w.w0 24 3
def fwCount (w : FlailWords) : Nat := fieldGet w.w0 27 6
def fwSel (w : FlailWords) : Bool := fieldGet w.w0 33 1 != 0
def fwDh (w : FlailWords) : Nat := fieldGet w.w0 34 8 + 1
def fwBase (w : FlailWords) : Int := (w.w0.extractLsb' 42 17).toInt
def fwMask (w : FlailWords) (i : Nat) : Bool := w.w1.getLsbD i
def fwPscale (w : FlailWords) : Nat := fieldGet w.w2 0 16
/-- The bank in the channel that a command works on. -/
def fwBankNo (w : FlailWords) : Nat := (fwLoft w) * 16 + (fwBank w)
/-- The physical address of the first byte of its row, and of its page. -/
def fwRowAt (w : FlailWords) (c : Nat) : Nat := rowAddr c (fwBankNo w) (fwRow w)
def fwPageAt (w : FlailWords) (c : Nat) : Nat := ((fwRowAt w c : Int) + (fwBase w)).toNat

/-- Bytes of a record, and of one region of a page, by form (Tables 7.2 and 9.2). -/
def formRecord (form dh : Nat) : Nat :=
  if form = 0 then recBytes 1 dh else if form = 1 then recBytes 2 dh else if form = 2 then recBytes 0 dh else dh
def formRegion (form dh : Nat) : Nat := 64 * formRecord form dh

/-- Where a region starts: keys 64 bytes after the page's first byte, values after them. -/
def fwRegionAt (w : FlailWords) (c : Nat) : Nat :=
  (fwPageAt w c) + 64 + (if (fwSel w) then formRegion (fwForm w) (fwDh w) else 0)

/-- One operation in progress is abandoned. -/
def State.abandonOp (s : State) (c : Nat) (f : FlailCmd) : State :=
  let s := s.bump F.fllEcc_abandoned c
  let s := if f.port then s.portEnd c 6 else s
  if f.op = 4 then s.scramble (fwRegionAt f.words c) (formRegion (fwForm f.words) (fwDh f.words))
  else if f.op = 5 then
    let a := (fwRowAt f.words c) / 8
    let w := s.freeWord
    { s with loftErr := (List.range 256).foldl (fun t i =>
        if s.wordErr (a + i) = 1 ∧ w.getLsbD (i % 64) then tput 0 t (a + i) 0 else t) s.loftErr }.nextFree
  else s

/-- The flails of a channel stop: operations in progress are abandoned, queued commands dropped, with an error response where
`err`; a port command that waits or is queued is abandoned; the buffers are lost. -/
def State.abandonFlails (s : State) (c : Nat) (err : Bool) : State :=
  let fs := (s.chan c).flails
  let s := (fs.filter (fun f => f.running)).foldl (fun s f => s.abandonOp c f) s
  let s := if err then s.dropQueued c else s
  let s := if s.getF F.fllPctl_status c = 1 || fs.any (fun f => f.port && !f.running) then s.portEnd c 6 else s
  let s := s.modChan c (fun x => { x with flails := [], scored := [], burst := [], burstTags := [], qbuf := none, maxima := [], frags := [] })
  (s.showFlails c).putF F.fllStat_qvalid c 0

/-! ## Self-refresh (R255, R491) -/

/-- Shows the refresh interval of each loft of a channel: 3 in self-refresh, else the loft's band (Table 8.6). -/
def State.showRefresh (s : State) (c : Nat) : State :=
  let k := s.stackSt (stackOf c)
  let self := (s.chan c).selfRefresh || k.stopped
  let v := (List.range 12).foldl (fun a l =>
    a + (if self then 3 else if k.hotHold then 2 else min 2 (k.bands.getD l 0)) * 4 ^ l) 0
  s.putF F.vccStat_refresh c v

/-- The lofts of a channel enter or leave self-refresh. -/
def State.selfRefresh (s : State) (c : Nat) (on : Bool) : State :=
  (s.modChan c (fun x => { x with selfRefresh := on })).showRefresh c

/-! ## Steading restarts (R415, Table 13.5, Table 1.10) -/

/-- Steading stops for a restart: the boot that follows loads and verifies the firmware again. A commit from Steading is
abandoned, a host commit goes on; the event path keeps the records for it. -/
def State.steadingStops (s : State) : State :=
  let s := match s.commit with
    | some c => if c.steading then { s with commit := none }.putF F.tikCmtStat_result 0 0 else s
    | none => s
  { s with start := { s.start with steadingDown := true, pinsAt := s.now } }

end Sys2Proof.Machine
end

