-- ==== Sys2Proof/Machine/Memory.lean ====
section
/-! DEFINITION. The rows of the memory family: accesses at the channels and at the other protected stores, refresh,
leaky buckets, training, holds, margining, wires and controller resets (R242, R247, R252, R257 to R269, R287, R295 to
R308, Tables 8.7 to 8.9, 10.1 and 10.3). -/

namespace Sys2Proof.Machine

/-! ## Requesters -/

/-- The reader column of Table 10.2. -/
def readerNo : Reader → Nat
  | .cell _ => 0
  | .flailStage _ => 1
  | .chute _ => 2
  | .host _ => 3
  | .rake => 4
  | .flailPort => 5
  | .hub _ => 6
  | .pfxMachine => 7

/-- The consumer field of an error record. -/
def readerUnit : Reader → Nat
  | .cell c => c.toNat
  | .flailStage c => c.toNat
  | .chute ch => ch.toNat
  | .host f => f.toNat
  | _ => 0xFFFF

/-- The cell whose stage made a request. -/
def readerCell : Reader → Option Nat
  | .cell c => some c.toNat
  | .flailStage c => some c.toNat
  | _ => none

/-- A response to a request: 0 served, 1 address error, 2 uncorrectable, 3 error response. -/
def State.respond (s : State) (r : Reader) (status : Nat) (bs : List Byte) : State := s.send (.memResp r status bs)

/-- The command ports whose commands run. -/
def State.busyPorts (s : State) : List Nat :=
  (s.chans.filter (fun e => e.2.flails.any (fun f => f.port && f.running))).map (fun e => e.1)

/-- What a failed request does to the unit that made it (R242, R256, R268, R304, R348, R350, R386): a cell's tick is
invalidated, a Chute channel stops, the command of a flail port ends, where one port alone has one that runs (Table 10.3). -/
def State.failReader (s : State) (r : Reader) (status : Nat) : State :=
  let s := s.respond r status []
  match r with
  | .cell c => (s.dropPass c.toNat).invalidateCell c.toNat
  | .flailStage c => s.invalidateCell c.toNat
  | .chute ch => if s.chuteRuns ch.toNat then s.chuteStop ch.toNat (if status = 1 then 3 else if status = 2 then 4 else 8) else s
  | .flailPort => (match s.busyPorts with
    | [c] => s.portEnd c 5
    | _ => s)
  | _ => s

/-! ## Wires (R244, R263 to R266) -/

/-- Wires of a channel by number: data and check, spare bonds, command, address and clock. -/
def dataWires : Nat := 288
def cmdWire : Nat := 304
def allWires : Nat := 344

/-- The lowest spare bond that is sound and not assigned. -/
def Chan.spareBond (x : Chan) : Option Nat :=
  (List.range 16).find? (fun b => !x.deadBonds.contains b && !x.bonds.any (fun e => e.1 == b))

/-- Spare bonds left for a newly failed wire. -/
def Chan.sparesLeft (x : Chan) : Nat :=
  ((List.range 16).filter (fun b => !x.deadBonds.contains b && !x.bonds.any (fun e => e.1 == b))).length - x.newBonds.length

/-- A wire, not a spare bond, has failed: it takes a spare in the next window, or the channel is to narrow or to retire. -/
def State.wireLost (s : State) (c w : Nat) : State :=
  let x := s.chan c
  if 0 < x.sparesLeft then s.setChan c { x with newBonds := x.newBonds ++ [w] }
  else if dataWires ≤ w then s.setChan c { x with retirePending := some 1 }
  else
    let bad := x.failedWires ++ [w]
    let low := bad.any (fun v => decide (v < 144))
    let high := bad.any (fun v => decide (144 ≤ v))
    if x.narrowed then
      let keptHigh := s.getF F.vccStat_half c == 1
      s.setChan c { x with failedWires := bad, retirePending := if decide (144 ≤ w) == keptHigh then some 0 else x.retirePending }
    else if low && high then s.setChan c { x with failedWires := bad, retirePending := some 0 }
    else s.setChan c { x with failedWires := bad, narrowPending := true }

/-- A wire of a channel is declared failed. A spare bond that fails is not used again, and the wire it replaced needs
another. -/
def State.failWire (s : State) (c w : Nat) : State :=
  if s.chanState c = vccRetired then s
  else
    let s := s.bump F.vccErr_wires c
    let s := s.modChan c (fun x => { x with blame := x.blame.filter (fun b => b.1 != w), blameTick := x.blameTick.filter (fun b => b != w) })
    if dataWires ≤ w ∧ w < cmdWire then
      let x := s.chan c
      let mine := x.bonds.filter (fun e => e.1 == w - dataWires)
      let s := s.setChan c { x with deadBonds := x.deadBonds ++ [w - dataWires], bonds := x.bonds.filter (fun e => e.1 != w - dataWires) }
      mine.foldl (fun s e => s.wireLost c e.2) s
    else s.wireLost c w

/-- The decoder attributes a corrected bit to a wire: 8 of 16 consecutive ticks declare it failed (R263). -/
def State.blameWire (s : State) (c w : Nat) : State :=
  let x := s.chan c
  if x.blameTick.contains w then s
  else
    let now := s.getF F.tikCount_count
    let hist := (x.blame.filter (fun b => decide (now < b.2 + 16))) ++ [(w, now)]
    let s := s.setChan c { x with blame := hist, blameTick := x.blameTick ++ [w] }
    if 8 ≤ (hist.filter (fun b => b.1 == w)).length then s.failWire c w else s

/-- The wire errors that an access met: corrected on the way, so nothing is stored in error; the rest are stored. -/
def State.meetErrs (s : State) (found : List WordErr) : State :=
  found.foldl (fun s e => match e.onWire, e.fault with
    | some w, .single _ => (s.softWord e.word).blameWire (chanAt (8 * e.word)) w.toNat
    | _, _ => s.findErrs [e]) s

/-! ## Device accesses -/

/-- An uncorrectable loft word met by a reader (Table 10.3). -/
def State.metWord (s : State) (r : Reader) (w : Nat) : State :=
  match readerCell r with
  | some c => s.stageUe (readerNo r) c w
  | none => s.ueRecord { reader := readerNo r, outcome := if s.isLost w then 0x80 else 0, unit := chanAt (8 * w), word := w,
                         consumer := readerUnit r }

/-- The tower from which an access comes: that of its cell, or of the channel whose command port makes it (R355). -/
def WaitAcc.tower (a : WaitAcc) : Option Nat := (a.port <|> readerCell a.reader).map cellTower

/-- Whether an access of n bytes meets an error response. -/
def State.accessErr (s : State) (a : WaitAcc) (n : Nat) : Bool :=
  (s.chansTouched a.addr (max n 1)).any s.chanErrs || !(s.wrapped a.tower a.addr n).isEmpty

/-- A result that a Chute chain owed has been written, or dropped: its descriptor's signal follows (R384). -/
def State.chuteResulted (s : State) (a : WaitAcc) : State :=
  match a.reader, a.result with
  | .chute ch, some irq => s.chuteSignal ch.toNat irq
  | _, _ => s

/-- A failed access: 1 an address error, 2 an uncorrectable word, 3 an error response. A host read is answered with an error status
and a host write dropped and reported (Table 12.6); another unit takes the response. -/
def State.failAcc (s : State) (a : WaitAcc) (status : Nat) : State :=
  match a.bar4, a.port with
  | none, none => if a.result.isSome then s.chuteResulted a else s.failReader a.reader status
  | none, some c => s.portEnd c 5
  | some off, _ =>
    if a.write.isSome then (s.bump F.hstErr_win_drop 0).raise 0x50 0xC 0 (BitVec.ofNat 64 off)
    else (s.bump F.hstErr_win_err 0).send (.readData (if status = 1 then 1 else 2) [])

/-- A served access: the data, or the acknowledgement; a host write has none. -/
def State.answerAcc (s : State) (a : WaitAcc) (bs : List Byte) : State :=
  match a.bar4, a.port with
  | none, none => if a.result.isSome then s.chuteResulted a else s.respond a.reader 0 bs
  | none, some c => s.portEnd c 3
  | some _, _ => if a.write.isSome then s else s.send (.readData 0 bs)

/-- Serves an access to a device address that waits for nothing. -/
def State.serve (s : State) (a : WaitAcc) : State :=
  let n := a.bytes
  if s.addrError a.addr n then (s.countAddr a.addr n).failAcc a 1
  else if s.accessErr a n then (s.countWrapped a.tower a.addr n).failAcc a 3
  else
    let s := (s.meetErrs a.found).forceRefreshes a.addr n
    let ws := if a.write.isSome then s.partWords a.addr n else s.wordsTouched a.addr n
    let s := (ws.filter (fun w => s.wordErr w == 1)).foldl (fun s w => s.softWord w) s
    match ws.filter (fun w => s.wordErr w == 2), a.write with
    | [], some bs => (s.writeDev a.addr bs).answerAcc a []
    | [], none => s.answerAcc a (s.readDev a.addr n)
    | bad, _ => (bad.foldl (fun s w => s.metWord a.reader w) s).failAcc a 2

/-! ## Bank queues (R260, R286, R287) -/

/-- Two accesses meet in a bank. -/
def State.shareBank (s : State) (a b : WaitAcc) : Bool :=
  (s.localRanges a.addr a.bytes).any (fun r => (s.localRanges b.addr b.bytes).any (fun q => r.1 == q.1 &&
    (List.range 192).any (fun k => rangeInBank r.2.1 r.2.2 k && rangeInBank q.2.1 q.2.2 k)))

/-- A Chute access to a channel of an active program is issued in a maintenance window only (R389). -/
def State.windowInWay (s : State) (a : WaitAcc) : Bool :=
  match a.reader with
  | .chute _ => !s.tick.windowOpen && (s.chansTouched a.addr (max a.bytes 1)).any s.programChans.contains
  | _ => false

/-- The controller's own read for a FRAG still stands before an access in a bank's queue (R277, R287). -/
def State.fragInWay (s : State) (a : WaitAcc) : Bool :=
  (s.localRanges a.addr a.bytes).any (fun r => (s.chan r.1).flails.any (fun f => f.op == 6 && decide (f.no < a.no) &&
    (match f.src with
     | some p => rangeInBank r.2.1 r.2.2 (bankInChan (p.1 / 8))
     | none => false)))

/-- An access must wait: for a held channel (R260), for the copy of its row (R306), behind a flail (R287) or an access that came
before it to one of its banks, or for the window (R389). One that meets an error waits for nothing. -/
def State.mustWait (s : State) (a : WaitAcc) : Bool :=
  !(s.addrError a.addr a.bytes) && !(s.accessErr a a.bytes) &&
  (s.heldInWay a.addr a.bytes || s.copyInWay a.addr a.bytes || s.flailInWay a.addr a.bytes a.no ||
    s.accWait.any (fun b => decide (b.no < a.no) && s.shareBank a b) || s.fragInWay a || s.windowInWay a)

/-- An access to a device address arrives, behind all that came before it. -/
def State.accessDev (s : State) (a : WaitAcc) : State :=
  let a := { a with no := s.arrivals }
  if s.mustWait a then { s with accWait := s.accWait ++ [s.keptBy a], arrivals := s.arrivals + 1 } else s.serve a

/-- A waiting access has waited long enough: what a held channel kept it counts as the cell's input wait (R77), what the flails of a channel
kept it in that channel's FLL_HOLD (R293). Each access of a cell counts its own wait, also where several wait at once: the spec does not
say whether time in which several wait counts once (R77; DESIGN CHOICE, log entry 54). -/
def State.countWait (s : State) (a : WaitAcc) : State :=
  let a := s.keptAs a false []
  let s := match readerCell a.reader with
    | some k => if a.heldNs = 0 then s else s.modCell k (fun x => { x with memWaitNs := x.memWaitNs + a.heldNs })
    | none => s
  a.flailNs.foldl (fun s f => s.countFlailWait f.1 f.2) s

/-- The bank from which the controller reads for a FRAG of its own. -/
def FlailCmd.srcBank (g : FlailCmd) : List Nat :=
  match g.op, g.src with
  | 6, some p => [bankInChan (p.1 / 8)]
  | _, _ => []

/-- A command of a channel may not start before another that came before it: they share a bank, that from which a FRAG is read counted, or one
loads the query buffer that the other scores with (R273, R277, R287). -/
def FlailCmd.after (f g : FlailCmd) : Bool :=
  if f.op = 1 then g.op == 1 || g.op == 2
  else (f.op == 2 && g.op == 1) || (g.banks ++ g.srcBank).any (f.banks ++ f.srcBank).contains

/-- A command may start: no hot hold (R286), nothing before it in its banks, fewer than 8 refreshes owed (R288), and what it
reads first is to be had. -/
def State.mayStart (s : State) (c : Nat) (ahead : List FlailCmd) (f : FlailCmd) : Bool :=
  !(s.stackSt (stackOf c)).hotHold && !ahead.any f.after && f.banks.all (fun b => decide (tget 0 (s.chan c).owed b < 8)) &&
  !s.accWait.any (fun a => decide (a.no < f.no) && (s.localRanges a.addr a.bytes).any (fun r => r.1 == c &&
    f.op != 1 && f.banks.any (rangeInBank r.2.1 r.2.2))) &&
  (match f.src with
   | none => true
   | some (a, n) => !s.heldInWay a n && !s.copyInWay a n && !s.flailInWay a n f.no &&
       !s.accWait.any (fun b => decide (b.no < f.no) && s.shareBank { reader := .rake, addr := a, len := n } b))

/-- The queue with every command started that may start, in order. -/
def State.started (s : State) (c : Nat) (fs : List FlailCmd) : List FlailCmd :=
  fs.foldl (fun acc f => acc ++ [if f.running then f else { f with running := s.mayStart c acc f }]) []

/-- Starts the queued commands of a channel that may start. -/
def State.startFlails (s : State) (c : Nat) : State :=
  (s.modChan c (fun x => { x with flails := s.started c x.flails })).showFlails c

/-- Starts what may start on every channel. -/
def State.startAll (s : State) : State :=
  ((s.chans.filter (fun e => e.2.flails.any (fun f => !f.running))).map (fun e => e.1)).foldl State.startFlails s

/-- Stages and loads whose accesses were kept go on where nothing keeps them any longer (R260, R287). -/
def State.resumeCells (s : State) : State :=
  ((s.cells.filter (fun e => e.2.memHeld.isSome || !e.2.flailSince.isEmpty)).map (fun e => e.1)).foldl State.runFrom
    (s.resumeLoads true)

/-- What waited goes on, in order of arrival, where nothing stands in its way any more; then flail commands start. -/
def State.goOn (s : State) : State :=
  (s.accWait.foldl (fun (s : State) a =>
    if s.mustWait a then { s with accWait := s.accWait ++ [s.keptBy a] } else (s.countWait a).serve a) { s with accWait := [] }).resumeCells.startAll

/-- Everything that waits at a channel completes with an error response (R256, R260, R268). -/
def State.errAll (s : State) (c : Nat) : State :=
  let mine := s.accWait.filter (fun a => (s.chansTouched a.addr (max a.bytes 1)).contains c)
  (mine.foldl (fun (s : State) a => s.failAcc a 3) { s with accWait := s.accWait.filter (fun a => !mine.contains a) }).resumeCells

/-! ## Orderly stop -/

/-- The stop is complete: streams end, accesses and flail operations in progress are finished (an operation when FLAIL_COMPLETE comes), queued
flail commands go, lofts go into self-refresh, the stop is logged (R491 items 2, 4 and 5). -/
def State.finishStop (s : State) : State :=
  let cause := s.getF F.pwrStat_cause
  let s := s.openStreams.foldl (fun s i => s.failStream i 0x18 true) s
  let s := (s.accWait.foldl (fun (s : State) a => s.serve a) { s with accWait := [] }).resumeLoads false
  let s := allCells.foldl (fun s c => (s.dropQueued c).selfRefresh c true) s
  let s := s.putF F.pwrStat_state 0 2
  let s := { s with tick := { s.tick with running := false, windowOpen := false } }.sendRecords
  s.raise 0x65 0 0 (BitVec.ofNat 64 cause)

/-- An orderly stop begins: the ring is released; compute stops at the tick edge, or at once. -/
def State.beginStop (s : State) (cause : Nat) (atOnce : Bool) : State :=
  if s.getF F.pwrStat_state = 1 ∨ s.getF F.pwrStat_state = 2 then s
  else
    let s := (s.putF F.pwrStat_state 0 1).putF F.pwrStat_cause 0 cause
    let s := { s with start := { s.start with stopAt := s.now } }
    let s := s.releasePlanes s.heldPlanes
    if atOnce then (s.stopStages s.now).finishStop
    else if !s.tick.running then s.finishStop else s

/-! ## The device memory window (R363, R364, Table 12.6) -/

/-- A BAR4 access of n bytes at an offset arrives: an address beyond the physical space is an address error. -/
def State.windowAcc (s : State) (off n : Nat) (write : Option (List Byte)) : WaitAcc :=
  { reader := .host 0, addr := (s.winAddr off n).getD (2 ^ 42), len := n, write := write, since := s.now, bar4 := some off }

/-- The device memory window is closed: the host interface is down, or BAR0 is in minimal mode (R412, R431). -/
def State.windowShut (s : State) : Bool := s.perstOn || s.start.loading || s.onF F.stdBoot_minimal

/-- A read of the window: in minimal mode it is answered with Unsupported Request; with the host interface down none comes. -/
def opBar4Read (off n : Nat) (found : List WordErr) (s : State) : State :=
  if s.windowShut then (if s.perstOn || s.start.loading then s else s.send (.readData 1 []))
  else
  let s := s.findErrs found
  if n = 0 ∧ (s.winAddr off n).isSome then s.send (.readData 0 []) else s.accessDev (s.windowAcc off n none)

/-- A write of the window; in minimal mode it is dropped. -/
def opBar4Write (off : Nat) (bs : List Byte) (found : List WordErr) (s : State) : State :=
  if s.windowShut then s
  else
  let s := s.findErrs found
  if bs.isEmpty ∧ (s.winAddr off 0).isSome then s else s.accessDev (s.windowAcc off bs.length (some bs))

/-- BAR4_READ: an access beyond the BAR's size reaches no BAR, so it does not come to the part (R361). -/
def execBar4Read (offset : BitVec 41) (len : Nat) (found : List WordErr) (s : State) : Host.Outcome State Fault Refusal :=
  run (opBar4Read offset.toNat len found) s
/-- BAR4_WRITE. -/
def execBar4Write (offset : BitVec 41) (data : List Byte) (found : List WordErr) (s : State) :
    Host.Outcome State Fault Refusal :=
  run (opBar4Write offset.toNat data found) s

/-! ## Refresh (R252) -/

/-- A refresh falls due: it is made at once on an idle bank, else owed. With 8 owed one is forced and the count stays, but never
into a running flail operation, which adds to what is owed (R252, R288). -/
def opBankRefresh (c b : Nat) (busy : Bool) (s : State) : State :=
  if (s.chan c).selfRefresh || (s.stackSt (stackOf c)).stopped then s
  else
    let n := tget 0 (s.chan c).owed b
    if (s.chan c).flails.any (fun f => f.running && f.banks.contains b) then s.setOwed c b (min 15 (n + 1))
    else if !(busy || s.flailAhead c b) then s
    else if n < 8 then s.setOwed c b (n + 1)
    else s.bump F.vccErr_forced c

/-- BANK_REFRESH. -/
def execBankRefresh (channel : BitVec 10) (bank : Nat) (busy : Bool) (s : State) : Host.Outcome State Fault Refusal :=
  runIf (decide (bank < 192)) (opBankRefresh channel.toNat bank busy) s

/-! ## Leaks (R298) -/

/-- BUCKET_LEAK. -/
def execBucketLeak (s : State) : Host.Outcome State Fault Refusal :=
  run (fun s => allBuckets.foldl State.leak s) s

/-! ## Training (R257 to R260) -/

/-- A loft's temperature in use, by its four sensors not suspect and the model (R253); 1/16 °C, signed. -/
def State.thmReading (s : State) (i : Nat) : Int := (BitVec.ofNat 16 (s.getF F.thmSens_reading i)).toInt
def State.thmModel (s : State) (i : Nat) : Int := (BitVec.ofNat 16 (s.getF F.thmSens_model i)).toInt
def loftSensor (stack loft corner : Nat) : Nat := 1024 + stack * 48 + loft * 4 + corner

/-- The highest of the sensors of a loft not marked suspect, or the model where that is higher. -/
def State.loftTemp (s : State) (k l : Nat) : Int :=
  (List.range 4).foldl (fun m q => let i := loftSensor k l q
    max m (max (s.thmModel i) (if s.onF F.thmSens_suspect i then s.thmModel i else s.thmReading i))) (-32768)

/-- The temperatures of the lofts of a channel. -/
def State.loftTemps (s : State) (c : Nat) : List Int := (List.range 12).map (fun l => s.loftTemp (stackOf c) l)

/-- The interval since a channel's last training has passed, or one of its lofts has changed by delta_c since then (R258). -/
def State.retrainDue (s : State) (c now : Nat) : Bool :=
  let x := s.chan c
  decide (x.lastTrainAt + s.getF F.vccRetrain_interval_ms * 1000000 ≤ now) ||
  ((s.loftTemps c).zip x.lastTemps).any (fun e => decide (16 * s.getF F.vccRetrain_delta_c ≤ (e.1 - e.2).natAbs))

/-- SCHEDULED_RETRAIN (R258). -/
def opScheduledRetrain (c now : Nat) (s : State) : State :=
  let s := s.at_ now
  if s.chanState c = vccRetired ∨ (s.chan c).want ∨ !s.retrainDue c now then s
  else (s.modChan c (fun x => { x with want := true })).putF F.vccTrain_pending c 1
def execScheduledRetrain (channel : BitVec 10) (now : Nat) (s : State) : Host.Outcome State Fault Refusal :=
  run (opScheduledRetrain channel.toNat now) s

/-- CHANNEL_RETRAIN_REQUEST: a write of 1 to VCC_CTL.retrain (R258). -/
def opChannelRetrain (c : Nat) (s : State) : State :=
  if s.chanState c = vccRetired then s else (s.putF F.vccCtl_retrain c 1).urgentRetrain c
def execChannelRetrainRequest (by_ : Requester) (s : State) : Host.Outcome State Fault Refusal :=
  run (fun s => if s.writes by_ R.vccCtl.off then opChannelRetrain (s.sel by_ F.vccSel_channel) s else s) s

/-- The state of a channel that nothing troubles: narrowed, or in service. -/
def State.servingState (s : State) (c : Nat) : Nat := if (s.chan c).narrowed then vccNarrowed else vccInService

/-- CHANNEL_RETRAIN_DONE (R260, R263): wires with no eye fail; a held channel returns to service and what waited goes on. -/
def opRetrainDone (c : Nat) (dead : List Nat) (now : Nat) (s : State) : State :=
  let s := s.at_ now
  match (s.chan c).retrainStart with
  | none => s
  | some t0 =>
    let s := ((s.putF F.vccTrain_dur c (min ((now - t0) / 100) 0xFFF)).putF F.vccTrain_edge c (s.getF F.tikCount_count % 2 ^ 32)).bump
      F.vccTrain_count c
    let s := if (s.chan c).wantUrgent then s else s.putF F.vccCtl_retrain c 0
    let held := s.chanState c == vccHeld
    let temps := s.loftTemps c
    let s := s.modChan c (fun x => { x with
      retrainStart := none, heldSince := none, lastTrainAt := now, lastTemps := temps, lastDur := now - t0 })
    let s := dead.foldl (fun s w => s.failWire c w) s
    if held then (s.putF F.vccStat_state c (s.servingState c)).goOn else s
def execChannelRetrainDone (channel : BitVec 10) (deadWires : List Nat) (now : Nat) (s : State) :
    Host.Outcome State Fault Refusal :=
  runIf (deadWires.all (fun w => decide (w < cmdWire))) (opRetrainDone channel.toNat deadWires now) s

/-- A channel has failed its hold; it is retired at the next edge (R260, R266). -/
def State.failHold (s : State) (c : Nat) : State :=
  (s.modChan c (fun x => { x with retrainStart := none, heldSince := none, retirePending := some 2 })).errAll c

/-- CHANNEL_HOLD_TIMEOUT: the channel is still held when the guard amount has passed since the edge (R260). -/
def opHoldTimeout (c now : Nat) (s : State) : State :=
  let s := s.at_ now
  match (s.chan c).heldSince with
  | some t => if s.chanState c != vccHeld || decide (now < t + s.guardNs) then s else s.failHold c
  | none => s
def execChannelHoldTimeout (channel : BitVec 10) (now : Nat) (s : State) : Host.Outcome State Fault Refusal :=
  run (opHoldTimeout channel.toNat now) s

/-! ## Margining (R261, R262) -/

/-- The windows of a sweep: 129 of a timing sweep, 97 of a voltage sweep. -/
def sweepSteps (voltage : Bool) : Nat := if voltage then 97 else 129

/-- MARGIN_REQUEST: a write of VCC_MARGIN with req set. A refused request leaves a running sweep's mode and wire. -/
def opMargin (c : Nat) (mode : Bool) (wire : Nat) (s : State) : State :=
  let st := s.chanState c
  if s.onF F.vccMargin_req c then s.putF F.vccMargin_status c 3
  else
    let s := (s.putF F.vccMargin_mode c (bit mode)).putF F.vccMargin_bit c wire
    if st = vccHeld ∨ st = vccNarrowed ∨ st = vccRetired then s.putF F.vccMargin_status c 3
    else ((s.putF F.vccMargin_req c 1).putF F.vccMargin_status c 1).modChan c (fun x => { x with marginStep := 0 })
def execMarginRequest (by_ : Requester) (mode : Bool) (wire : BitVec 9) (s : State) : Host.Outcome State Fault Refusal :=
  run (fun s => if s.writes by_ R.vccMargin.off then opMargin (s.sel by_ F.vccSel_channel) mode wire.toNat s else s) s

/-- One step of a sweep; its end reports the eyes, which the spec leaves to what is measured: free values within a sweep's
steps (log entry 5). -/
def State.marginStep (s : State) (c : Nat) : State :=
  if !s.onF F.vccMargin_req c then s
  else
    let v := s.onF F.vccMargin_mode c
    let n := sweepSteps v
    let k := (s.chan c).marginStep + 1
    let s := s.modChan c (fun x => { x with marginStep := k })
    if k < n then s
    else
      let w := s.freeWord.toNat
      let worst := w % (n + 1)
      let at_ := w / 65536 % 304
      let sel := if at_ = s.getF F.vccMargin_bit c then worst else worst + w / 256 % (n + 1 - worst)
      let s := (if v then (s.putF F.vccEye_worst_v c worst).putF F.vccEye_sel_v c sel
        else (s.putF F.vccEye_worst_t c worst).putF F.vccEye_sel_t c sel)
      let s := s.putF F.vccEye_worst_bit c at_
      (((s.putF F.vccMargin_req c 0).putF F.vccMargin_status c 2).modChan c (fun x => { x with marginStep := 0 })).nextFree

/-! ## Wires and resets -/

/-- A newly failed wire takes a spare bond, which is trained; the channel asks for an urgent retrain (R263, R258). -/
def State.assignBond (s : State) (c w : Nat) : State :=
  match (s.chan c).spareBond with
  | none => s.wireLost c w
  | some b =>
    let s := (s.modChan c (fun x => { x with bonds := x.bonds ++ [(b, w)] })).bump F.vccStat_spares c
    (s.raise 0x33 2 c (BitVec.ofNat 64 w)).urgentRetrain c

/-- The leaf sheaf of a channel's cell, or sheaf 0 where it is in none or is disabled (R264). -/
def State.leafOrPart (s : State) (c : Nat) : Nat := if s.disabled c then 0 else (s.leafOf c).getD 0

/-- A channel narrows to the half that holds no failed wire. -/
def State.narrowChannel (s : State) (c : Nat) : State :=
  let h := bit ((s.chan c).failedWires.any (fun w => decide (w < 144)))
  let s := (s.modChan c (fun x => { x with narrowPending := false, narrowed := true })).putF F.vccStat_half c h
  let s := if s.chanState c = vccInService then s.putF F.vccStat_state c vccNarrowed else s
  ((s.countInStart F.stdBootRet_narrowed).raise 0x34 2 c (BitVec.ofNat 64 h)).worsen (s.leafOrPart c) 2

/-- A channel is retired now: what waits at it has an error response first (R266). -/
def State.retireNow (s : State) (c reason : Nat) : State := (s.errAll c).retireChannel c reason

/-- What new wire faults of a channel lead to, at once: spare bonds, narrowing, retirement. During a start this does not
wait for a window or an edge (R429). -/
def State.wiresNow (s : State) (c : Nat) : State :=
  let ws := (s.chan c).newBonds
  let s := ws.foldl (fun s w => s.assignBond c w) (s.modChan c (fun x => { x with newBonds := [] }))
  match (s.chan c).retirePending with
  | some r => s.retireNow c r
  | none => if (s.chan c).narrowPending then s.narrowChannel c else s

/-- A wire fails in service, or in a start. -/
def opWireFailed (c w : Nat) (s : State) : State :=
  let s := s.failWire c w
  if s.getF F.stdBoot_stage < 7 then s.wiresNow c else s

/-- WIRE_FAILED (R263, R264, R266). -/
def execWireFailed (channel : BitVec 10) (wire : BitVec 9) (s : State) : Host.Outcome State Fault Refusal :=
  runIf (decide (wire.toNat < allWires)) (opWireFailed channel.toNat wire.toNat) s

/-- CHANNEL_RESET: a write of VCC_CTL.reset (R268). A retired channel stays retired. -/
def opChannelReset (c : Nat) (on : Bool) (s : State) : State :=
  let was := s.onF F.vccCtl_reset c
  let s := (s.putF F.vccCtl_reset c (bit on)).markStale 2 c
  if s.chanState c = vccRetired ∨ was = on then s
  else if on then
    let s := s.modChan c (fun x => { x with retrainStart := none, heldSince := none, rakeCredit := 0, rakeBehind := false })
    (((s.putF F.vccStat_state c vccInReset).errAll c).abandonFlails c false).selfRefresh c true
  else
    let s := (s.putF F.vccStat_state c (s.servingState c)).selfRefresh c false
    let s := (s.putF F.vccTrain_pending c 0).putF F.vccTrain_urgent c 0
    s.modChan c (fun x => { x with retrainStart := some s.now, want := false, wantUrgent := false, waited := 0 })
def execChannelReset (by_ : Requester) (set : Bool) (s : State) : Host.Outcome State Fault Refusal :=
  run (fun s => if s.writes by_ R.vccCtl.off then opChannelReset (s.sel by_ F.vccSel_channel) set s else s) s

end Sys2Proof.Machine
end

