-- ==== Sys2Proof/Machine/D2d.lean ====
section
/-! DEFINITION. Die-to-die links (R344 to R352, R355): flits and resends, lanes, narrowing, isolation, resets, test mode
and pairing. -/

namespace Sys2Proof.Machine

/-- Data lanes and spare lanes of a link (Table 11.8). -/
def dataLanes (l : Nat) : Nat := if l < 4 then 1024 else 512
def spareLanes (l : Nat) : Nat := if l < 4 then 32 else 16

/-- The towers that a link joins, the tower it isolates (R348). -/
def linkTowers (l : Nat) : List Nat := [[0], [1], [2], [3], [0, 1], [2, 3], [0, 2], [1, 3]].getD l []
def isolates (l : Nat) : Nat := [0, 1, 2, 3, 1, 3, 2, 3].getD l 0

/-! ## Flits (R345) -/

/-- The retry window of a link in flits, and the window in which a lane's parity errors count, with the limit they must exceed, by
the protocol in use (Table 11.10, R346). -/
def State.flitWindow (s : State) (l : Nat) : Nat := if s.getF F.d2dStat_proto l = 1 then 128 else 256
def State.laneWindow (s : State) (l : Nat) : Nat := if s.getF F.d2dStat_proto l = 1 then 10000000 else 1000000
def State.laneLimit (s : State) (l : Nat) : Nat := s.getF F.d2dCfg_lane_thresh * (if s.getF F.d2dStat_proto l = 1 then 10 else 1)

/-- The parity errors of lanes are counted within the window of R346. -/
def State.countParity (s : State) (l : Nat) (lanes : List Nat) (now : Nat) : State :=
  if lanes.isEmpty then s
  else s.modLink l (fun x =>
    let x := if x.parityAt + s.laneWindow l ≤ now then { x with parity := [], parityAt := now } else x
    { x with parity := lanes.foldl (fun t k => tmod 0 t k (fun n => n + 1)) x.parity })

/-- A direction of a link. -/
def Link.dir (x : Link) (back : Bool) : LinkDir := if back then x.back else x.forth
def Link.put (x : Link) (back : Bool) (d : LinkDir) : Link := if back then { x with back := d } else { x with forth := d }
def State.setDir (s : State) (l : Nat) (back : Bool) (d : LinkDir) : State :=
  s.modLink l (fun x => x.put back d)

/-- How far a flit's number lies past the one due, and whether it has been seen before: it is sent again. -/
def LinkDir.past (d : LinkDir) (seq : Nat) : Nat := (seq + 65536 - d.seq % 65536) % 65536
def LinkDir.seen (d : LinkDir) (seq : Nat) : Bool := decide (32768 ≤ (seq + 65536 - d.next % 65536) % 65536)

/-- A bad or missing flit is the first of its run, as with an envelope (R323). -/
def LinkDir.newRun (d : LinkDir) (seq : Nat) : Bool := !d.retryAsked || decide (d.past seq ≤ d.outSeq.getD 0)

/-- A flit of 256 bytes whose CRC-32C is right is accepted with the sequence number that is due, and dropped where it has been
accepted before, within the retry window. The first of a run that is bad, or follows a missing one, is answered with a retry request, which
asks for the flit that is due once more (R323, R345). -/
def opFlit (l : Nat) (seq : BitVec 16) (crc : BitVec 32) (parity : ParityErrs) (payload : List Byte) (s : State) : State :=
  let s := s.at_ parity.now
  if s.getF F.d2dStat_state l != 1 then s
  else
    let s := s.countParity l parity.lanes s.now
    let d := (s.link l).dir parity.back
    let ok := payload.length == 256 && crc32c 0 payload == crc
    let q := seq.toNat
    let s := if d.seen q then s.bump F.d2dErr_retries l else s
    let next := if d.seen q then d.next else (q + 1) % 65536
    if ok && d.past q == 0 then s.setDir l parity.back { seq := (d.seq + 1) % 65536, next := next }
    else if ok && decide (65536 - s.flitWindow l ≤ d.past q) then s
    else
      let s := s.setDir l parity.back { d with
        next := next, retryAsked := true, outSeq := some (d.past q), resends := d.resends + bit (d.newRun q) }
      if d.newRun q then s.send (.d2dRetry l parity.back (d.seq % 65536)) else s

/-- D2D_FLIT. -/
def execD2dFlit (link : BitVec 3) (seq : BitVec 16) (crc : BitVec 32) (parity : ParityErrs) (payload : List Byte) (s : State) :
    Host.Outcome State Fault Refusal :=
  run (opFlit link.toNat seq crc parity payload) s

/-- The direction in which a flit has been asked for again 16 times. -/
def Link.spent (x : Link) (seq : Nat) : Option Bool :=
  [false, true].find? (fun b => decide (16 ≤ (x.dir b).resends) && (x.dir b).past seq == 0)

/-- A flit that has been asked for again 16 times ends its transfer with an error response for its consumer; the next one is due. -/
def opResendLimit (l : Nat) (seq : BitVec 16) (consumer : Reader) (s : State) : State :=
  match (s.link l).spent seq.toNat with
  | none => s
  | some b => (s.setDir l b { seq := (seq.toNat + 1) % 65536, next := ((s.link l).dir b).next }).failReader consumer 3

/-- D2D_RESEND_LIMIT. -/
def execD2dResendLimit (link : BitVec 3) (seq : BitVec 16) (consumer : Reader) (s : State) : Host.Outcome State Fault Refusal :=
  run (opResendLimit link.toNat seq consumer) s

/-! ## Lanes (R346 to R348) -/

/-- A lane has failed: it takes a spare in the next window; without one the link narrows at the next edge, and a link that
loses its kept half, or has no good half, isolates a tower. -/
def opLaneFailed (l lane : Nat) (s : State) : State :=
  let x := s.link l
  if x.toSpare.contains lane || x.failed.contains lane then s
  else
    let s := s.bump F.d2dErr_lanes l
    if s.getF F.d2dStat_spares l + x.toSpare.length < spareLanes l then s.setLink l { x with toSpare := x.toSpare ++ [lane] }
    else
      let mid := dataLanes l / 2
      let bad := x.failed ++ [lane]
      let x := { x with failed := bad }
      match x.half with
      | some h => s.setLink l { x with isolatePending := x.isolatePending || decide (lane / mid = h) }
      | none =>
        if bad.any (fun k => decide (k < mid)) && bad.any (fun k => decide (mid ≤ k)) then
          s.setLink l { x with narrowPending := false, isolatePending := true }
        else s.setLink l { x with narrowPending := true }

/-- In the window each failed lane is replaced by a spare. -/
def State.spareTheLanes (s : State) (l : Nat) : State :=
  let x := s.link l
  x.toSpare.foldl (fun s k => (s.bump F.d2dStat_spares l).raise 0x43 7 l (BitVec.ofNat 64 k)) (s.setLink l { x with toSpare := [] })

/-- The stages that have sent rows across a link which the consumer still awaits, as producer and consumer. -/
def State.rowsAcross (s : State) (l : Nat) : List (Nat × Nat) :=
  s.cells.flatMap (fun e => (((e.2.rowsOut.map (fun r => r.1)).eraseDups.filter (fun d =>
    (routeLinks (cellTower e.1) (cellTower d)).contains l && (s.cell d).unfinished &&
    !(s.cell d).rowsIn.any (fun r => r.hdr.last && r.hdr.src.toNat == e.1)))).map (fun d => (e.1, d)))

/-- What is outstanding across a link completes with an error response, given by its isolation wrapper: the accesses, and the rows, whose
consumers take it for a producer that has failed (R350). -/
def State.errAcross (s : State) (l : Nat) : State :=
  let mine := s.accWait.filter (fun a => (s.linksTo ((readerCell a.reader).map cellTower) a.addr a.bytes).contains l)
  let s := mine.foldl (fun (s : State) a => (s.bump F.d2dErr_wrapper l).failAcc a 3)
    { s with accWait := s.accWait.filter (fun a => !mine.contains a) }
  (s.rowsAcross l).foldl (fun s e => opProducerLost e.2 e.1 (s.bump F.d2dErr_wrapper l)) s

/-- A tower is isolated at a link's fault (R348): its cells and channels are retired, its other links answer with errors. -/
def State.isolateTower (s : State) (l : Nat) : State :=
  let t := isolates l
  let cs := allCells.filter (fun c => cellTower c == t)
  let s := s.modLink l (fun x => { x with isolatePending := false, narrowPending := false })
  if cs.all (fun c => (s.chan c).isolated) then s
  else
    let s := (s.countInStart F.stdBootRet_towers).raise 0x45 5 t (BitVec.ofNat 64 l)
    let s := ((List.range 8).filter (fun k => (linkTowers k).contains t)).foldl (fun s k =>
      let s := s.errAcross k
      (if s.getF F.d2dStat_state k = 3 then s else s.putF F.d2dStat_state k 2).putF F.d2dStat_wrapper k 1) s
    let s := cs.foldl (fun s c => (s.errAll c).modChan c (fun x => { x with isolated := true })) s
    let s := cs.foldl (fun s c => s.retireNow c 0) s
    (s.degrade [0]).errsum (cs.flatMap s.sheafsOver).eraseDups 2

/-- What a link does at an edge: an isolation that was pending, then a narrowing, after which the loaded slot tables are
checked for the next edge; in a start the part is degraded (R429). -/
def State.linkEdge (s : State) (l : Nat) : State :=
  let x := s.link l
  if x.isolatePending then s.isolateTower l
  else if x.narrowPending then
    let h := if x.failed.any (fun k => decide (k < dataLanes l / 2)) then 1 else 0
    let s := s.setLink l { x with narrowPending := false, half := some h }
    let s := if s.getF F.stdBoot_stage < 7 then s.putF F.stdBoot_degraded 0 1 else s
    ((s.putF F.d2dStat_half l 1).raise 0x44 7 l (BitVec.ofNat 64 h)).checkNarrowed
  else s

/-- D2D_LANE_FAILED: in service, a lane whose parity errors in one window exceed the limit (R346); in a start, one that training
finds, and the result applies at once (R429). -/
def opLane (l lane : Nat) (s : State) : State :=
  if s.getF F.stdBoot_stage < 7 then ((opLaneFailed l lane s).spareTheLanes l).linkEdge l
  else if s.laneLimit l < tget 0 (s.link l).parity lane then opLaneFailed l lane s
  else s
def execD2dLaneFailed (link : BitVec 3) (lane : Nat) (s : State) : Host.Outcome State Fault Refusal :=
  runIf (decide (lane < dataLanes link.toNat)) (opLane link.toNat lane) s

/-! ## Resets, test mode, pairing (R350 to R352) -/

/-- D2D_RESET: a write of D2D_CTL.reset. While it is set, and until the pair has trained again, the wrapper answers,
what is outstanding and what comes (R350). -/
def opD2dReset (l : Nat) (on : Bool) (s : State) : State :=
  let was := s.onF F.d2dCtl_reset l
  let s := (s.putF F.d2dCtl_reset l (bit on)).markStale 7 l
  if was = on ∨ s.getF F.d2dStat_state l = 2 then s
  else
    let s := s.modLink l (fun x => { x with forth := {}, back := {} })
    (((s.errAcross l).putF F.d2dStat_state l 0).putF F.d2dStat_proto l 0).putF F.d2dStat_wrapper l 1
def execD2dReset (by_ : Requester) (set : Bool) (s : State) : Host.Outcome State Fault Refusal :=
  run (fun s => if s.writes by_ R.d2dCtl.off then opD2dReset (s.sel by_ F.d2dSel_link) set s else s) s

/-- A loaded program has a stage or a placement in a tower of a link. -/
def State.linkBusy (s : State) (l : Nat) : Bool :=
  s.jobs.any (fun j => (s.prog j).stagesAt.any (fun e => (linkTowers l).contains (cellTower e.1)) ||
    (rangeChans ((s.image j).places.flatMap Place.physRanges)).any (fun c => (linkTowers l).contains (cellTower c)))

/-- D2D_TEST: a write of D2D_CTL.test and loop; it takes effect only when no loaded program uses a tower of the link. -/
def opD2dTest (l : Nat) (test loop : Bool) (s : State) : State :=
  let s := (s.putF F.d2dCtl_test l (bit test)).putF F.d2dCtl_loop l (bit loop)
  if test && s.linkBusy l then s else s.putF F.d2dStat_test l (bit test)
def execD2dTest (by_ : Requester) (test loop : Bool) (s : State) : Host.Outcome State Fault Refusal :=
  run (fun s => if s.writes by_ R.d2dCtl.off then opD2dTest (s.sel by_ F.d2dSel_link) test loop s else s) s

/-- The highest protocol version that two capability words share (Table 11.9). -/
def sharedProto (a b : Word) : Option Nat :=
  let lo := max (fieldGet a 16 4) (fieldGet b 16 4)
  let hi := min (fieldGet a 20 4) (fieldGet b 20 4)
  if lo ≤ hi then some hi else none

/-- D2D_CAPABILITY_WORD: the two ends exchange their words at training (R351). -/
def opCapability (l : Nat) (near far : Word) (s : State) : State :=
  if s.getF F.d2dStat_state l = 2 ∨ s.onF F.d2dCtl_reset l ∨ s.getF F.stdBoot_stage = 8 then s
  else
    let s := s.modLink l (fun x => { x with forth := {}, back := {} })
    let s := s.putF F.d2dStat_rev_far l (fieldGet far 8 8)
    match sharedProto near far with
    | some v => ((s.putF F.d2dStat_proto l v).putF F.d2dStat_state l 1).putF F.d2dStat_wrapper l 0
    | none =>
      let s := ((s.putF F.d2dStat_proto l 0).putF F.d2dStat_state l 3).putF F.d2dStat_wrapper l 1
      let s := if fieldGet far 20 4 < fieldGet near 20 4 then s.putF F.d2dStat_test l 1 else s
      let s := s.raise 0x46 7 l ((near &&& 0xFFFFFFFF) ||| (far <<< 32))
      if l < 4 then (if s.ready then s.modLink l (fun x => { x with isolatePending := true }) else s.isolateTower l) else s
def execD2dCapabilityWord (link : BitVec 3) (near far : Word) (s : State) : Host.Outcome State Fault Refusal :=
  run (opCapability link.toNat near far) s

end Sys2Proof.Machine
end

