-- ==== Sys2Proof/WellFormed.lean ====
section
/-! DEFINITION. The commands that the spec's units can send: those whose operands lie in the ranges that the spec gives
the unit they name. Any other command is refused under the name illFormed (log entry 4). -/

namespace Sys2Proof

/-- The loft field of a flail command is 0 to 11 (Table 9.3: 12 to 15 refused). -/
def FlailWords.loftOk (w : FlailWords) : Bool := decide ((w.w0.extractLsb' 8 4).toNat < 12)

/-- The words of a command of an operation: its opcode (Table 9.1) stands in word 0, and its loft exists. -/
def FlailWords.ok (w : FlailWords) (op : BitVec 4) : Bool := w.w0.extractLsb' 0 4 == op && w.loftOk

/-- The limit words of R32: a cap of 800 to 3,600 W, a duty of 1 to 16 sixteenths, a flail limit of at most 8. -/
def LimitWords.ok (w : LimitWords) : Bool :=
  decide (800 ≤ w.cap) && decide (w.cap ≤ 3600) && w.duty.all (fun e => decide (1 ≤ e.2) && decide (e.2 ≤ 16)) &&
  w.flail.all (fun e => decide (e.2 ≤ 8))

/-- What the governor measured: sensors of R475, duty limits of R32. -/
def GovIn.ok (g : GovIn) : Bool :=
  g.models.all (fun r => decide (r.sensor < 2640)) && g.duty.all (fun e => decide (1 ≤ e.2) && decide (e.2 ≤ 16))

/-- There are twelve hub stores (Table 10.1). -/
def MemTarget.ok : MemTarget → Bool
  | .hubStore h _ => decide (h.toNat < 12)
  | .device _ => true
  | .controller _ => true
  | .cellSram _ _ => true
  | .router _ _ => true

/-- The ranges by command: 60 clock domains (Table 13.2), 1,024 or 512 data lanes of a link (R346), 192 banks and 344
wires of a channel, 304 of them data and check wires (R244, R263), 64 sentinels, 1,552 stack sensors and 2,640 sensors in
all (R475). -/
def Instr.wellFormed : Instr → Bool
  | .loadProgram _ _ => true
  | .unloadProgram _ _ => true
  | .openStream _ _ => true
  | .feedTokens _ _ => true
  | .setStreamParameters _ _ => true
  | .closeStream _ _ => true
  | .invalidOpcode _ _ => true
  | .submissionTailDoorbell _ _ _ => true
  | .completionHeadDoorbell _ _ _ => true
  | .eventQueueHeadDoorbell _ => true
  | .queuePairEnable _ _ _ => true
  | .queueOwnerWrite _ _ => true
  | .eventQueueEnable _ => true
  | .functionLevelReset _ => true
  | .bar4Read _ _ _ => true
  | .bar4Write _ _ _ => true
  | .hostMemoryError _ _ => true
  | .chuteGo _ => true
  | .chuteAbort _ => true
  | .chuteDescriptorDone _ => true
  | .chuteErrorClear => true
  | .tickEdge _ => true
  | .stageStart _ _ => true
  | .stageFinish _ _ => true
  | .runDeadline _ => true
  | .lateNotice _ _ _ => true
  | .edgeAnnouncement _ _ => true
  | .maintenanceWindow _ gov => (gov.map GovIn.ok).getD true
  | .stretchLimit _ => true
  | .cellSlow _ => true
  | .commitRequest _ => true
  | .steadingCommitRequest _ => true
  | .commitChecksDone _ => true
  | .stagedWrite _ _ _ _ => true
  | .stagingRevert => true
  | .governorSilent => true
  | .limitWordWrite w => w.ok
  | .tickMarker _ _ _ _ => true
  | .acknowledgement _ _ _ => true
  | .retryRequest _ _ => true
  | .credit _ _ => true
  | .take _ _ _ => true
  | .release _ _ _ => true
  | .candidate _ _ _ _ _ => true
  | .ringCommit _ _ => true
  | .ringCommitDeadline => true
  | .dataEnvelope _ _ _ _ => true
  | .portDown _ => true
  | .markerLoss _ _ => true
  | .ringTake _ _ _ => true
  | .bypassSwitched _ => true
  | .linkReset _ _ => true
  | .suddenLoss _ _ _ => true
  | .ringBroken _ => true
  | .serLimit _ _ => true
  | .linkRetrainRequest _ => true
  | .portRetrainDone _ _ _ => true
  | .ringSlowRaise _ _ => true
  | .d2dFlit _ _ _ _ _ => true
  | .d2dResendLimit _ _ _ => true
  | .d2dLaneFailed link lane => decide (lane < if link.toNat < 4 then 1024 else 512)
  | .d2dReset _ _ => true
  | .d2dTest _ _ _ => true
  | .d2dCapabilityWord _ _ _ => true
  | .meshRow _ _ => true
  | .producerLost _ _ => true
  | .memoryAccess _ target _ _ _ _ => target.ok
  | .bankRefresh _ bank _ => decide (bank < 192)
  | .bucketLeak => true
  | .housekeepingRound round _ => round.temps.all (fun r => decide (r.sensor < 2640))
  | .sensorReturn sensor => decide (sensor < 2640)
  | .scheduledRetrain _ _ => true
  | .channelRetrainRequest _ => true
  | .channelRetrainDone _ deadWires _ => deadWires.all (fun w => decide (w < 304))
  | .channelHoldTimeout _ _ => true
  | .marginRequest _ _ _ => true
  | .wireFailed _ wire => decide (wire.toNat < 344)
  | .channelReset _ _ => true
  | .loadq _ w _ _ => w.ok 1
  | .score _ w _ _ => w.ok 2
  | .topk _ w _ => w.ok 3
  | .requant _ w _ => w.ok 4
  | .scrub _ w _ _ => w.ok 5
  | .frag _ w _ => w.ok 6
  | .flailOpComplete _ bank _ => decide (bank < 192)
  | .prefixFlush => true
  | .quarantineEnd _ => true
  | .powerOnDetection _ _ _ => true
  | .porstN _ _ => true
  | .porstNRelease _ => true
  | .perstN _ => true
  | .perstNRelease _ => true
  | .optionLoading _ _ => true
  | .resetStorm _ => true
  | .stormExit _ _ => true
  | .startDelayEnd _ => true
  | .crystalMeasurement _ _ => true
  | .crystalFail => true
  | .watchdogRestart _ => true
  | .watchdogExpiry _ => true
  | .thermalTrip _ _ _ => true
  | .tripHoldEnd _ => true
  | .cellResetGo _ _ => true
  | .cellResetHold _ _ _ => true
  | .stookResetGo _ _ => true
  | .stookResetHold _ _ _ => true
  | .sheafResetGo _ _ => true
  | .sheafResetHold _ _ _ => true
  | .steadingRestart _ _ => true
  | .clockRampStep domain => decide (domain.toNat < 60)
  | .clockMonitorSelect _ _ => true
  | .frequencyMeasurement _ _ => true
  | .frequencyMeasurementDone _ => true
  | .railFault _ _ => true
  | .steadingBoot _ _ => true
  | .broadcastFrame _ _ => true
  | .segmentRequest _ _ => true
  | .memoryTest _ _ => true
  | .heatingTimeout _ _ => true
  | .cellSelfTest _ _ => true
  | .recoveryVerify _ => true
  | .recoveryProgram _ => true
  | .recoveryColdReset _ => true
  | .flashLogWrite _ => true
  | .otpProgramGeneration _ => true
  | .attestationRequest _ => true
  | .attestationReady => true
  | .sentinelReading readings _ _ _ => readings.all (fun r => decide (2576 ≤ r.sensor) && decide (r.sensor < 2640))
  | .coolantLoss _ => true
  | .stopCooldown => true
  | .inletWrite _ _ _ => true
  | .inletStale _ => true
  | .fastThrottle _ => true
  | .fastThrottleStep _ _ => true
  | .regionCycleSkip _ _ => true
  | .capRaiseStep => true
  | .pwrfail _ _ => true
  | .keepStageStop _ => true
  | .keepEntered _ => true
  | .keepEntryAbandoned _ => true
  | .keepCheck readings _ _ _ => readings.all (fun r => decide (1024 ≤ r.sensor) && decide (r.sensor < 2576))
  | .keepAbandonWrite _ => true
  | .keepEnd _ => true
  | .i3cWriteRegister _ _ => true
  | .i3cSetReadPointer _ => true
  | .i3cWriteWords _ => true
  | .i3cPrivateRead _ _ => true
  | .i3cSetdasa _ _ => true
  | .i3cEntdaa _ => true
  | .i3cGetstatus => true
  | .i3cIbiTimeout _ => true
  | .rcRead _ _ _ _ => true
  | .registerWrite _ _ _ _ _ => true
  | .finishReport _ _ _ _ _ => true
  | .sheafDigest _ _ _ _ => true
  | .pwrfailNRelease _ => true
  | .ringReleaseTimeout _ => true
  | .flailPortGo _ => true
  | .otpProgrammingDone _ => true
  | .imageProgrammingDone => true
  | .completionTimeout _ _ _ _ => true

end Sys2Proof
end

