-- ==== Sys2Proof/Machine/Flail.lean ====
section
/-! DEFINITION. The rows of the flail family (R271 to R292, Tables 9.1 to 9.6) and the SCRUBs of the Rake (R282, R312).
A command takes effect when it completes; until then it is in progress or queued. -/

namespace Sys2Proof.Machine

/-! ## Queues -/

/-- A channel whose flails work: not retired, not in reset, its stack not stopped. -/
def State.flailsWork (s : State) (c : Nat) : Bool := s.chanState c != vccRetired && !s.chanErrs c

/-- The records of a SCORE that end in its row. -/
def scoreRecords (c : Nat) (w : FlailWords) : List Nat :=
  let rb := formRecord (fwForm w) (fwDh w)
  (List.range 64).filter (fun i => fwMask w i && decide ((fwRegionAt w c + (i + 1) * rb - 1) / 2048 = fwRowAt w c / 2048))

/-- The first part of the record of a SCORE that begins in the row before, as address and length; no more than one does. -/
def splitPart (c : Nat) (w : FlailWords) : Option (Nat × Nat) :=
  let at_ := fun i => fwRegionAt w c + i * formRecord (fwForm w) (fwDh w)
  ((scoreRecords c w).find? (fun i => decide (at_ i < fwRowAt w c))).map (fun i => (at_ i, fwRowAt w c - at_ i))

/-- The operations that a SCORE is split into, by query heads, so that each has at most 1,871 cycles; with 64 records at most,
one head is never too long (R278; log entry 38). -/
def scorePieces (c : Nat) (w : FlailWords) : Nat :=
  let perHead := (scoreRecords c w).length * ceilDiv (fwDh w) 64
  ceilDiv (fwCount w + 1) (1871 / max 1 perHead)

/-- The banks that an operation works on: those of its rows (R280), of its page's header and region (R281), or its own. -/
def flailBanks (c op : Nat) (w : FlailWords) : List Nat :=
  let rows := fun (a n : Nat) => (List.range ((a + n - 1) / 2048 - a / 2048 + 1)).map (fun i => bankInChan ((a / 2048 + i) * 256))
  if op = 3 then (rows (fwRowAt w c) (2048 * (fieldGet w.w1 0 4 + 1))).eraseDups
  else if op = 4 then (fwBankNo w :: rows (fwPageAt w c) 64 ++ rows (fwRegionAt w c) (formRegion (fwForm w) (fwDh w))).eraseDups
  else [fwBankNo w]

/-- A command joins its bank's queue, behind all that came before it. -/
def State.enqueue (s : State) (c : Nat) (f : FlailCmd) : State :=
  let s := s.modChan c (fun x => { x with flails := x.flails ++ [{ f with no := s.arrivals, banks := flailBanks c f.op f.words }] })
  { s with arrivals := s.arrivals + 1 }

/-- A fragment for the next SCORE of a bank is held, or its FRAG is queued. -/
def Chan.hasFrag (x : Chan) (bank : Nat) : Bool :=
  !(tget [] x.frags bank).isEmpty || (x.flails.filter (fun f => f.bank == bank && (f.op == 2 || f.op == 6))).getLast?.any (fun f => f.op == 6)

/-- The bytes of a LOADQ (R273). -/
def loadqBytes (w : FlailWords) : Nat := up64 ((fwCount w + 1) * fwDh w) + 128

/-- A command reaches its bank's queue. Before a SCORE of a split record the controller reads the first part and sends it to the
flail of the second by a FRAG (R277). The data of a port's LOADQ are read from FLL_PADDR as an ordinary access is (R287, R292). At a channel
whose flails do not work a stage's command has an error response. -/
def State.flailCmd (s : State) (c op : Nat) (w : FlailWords) (data : List Byte) (port : Bool) : State :=
  if !s.flailsWork c then (if stageOps.contains op ∧ !port then s.send (.scoreError c (fwTag w)) else s)
  else
    let b := fwBankNo w
    let s := match splitPart c w with
      | some p => if op = 2 ∧ !(s.chan c).hasFrag b then s.enqueue c { op := 6, bank := b, words := w, port := port, src := some p } else s
      | none => s
    (s.enqueue c { op := op, bank := b, words := w, data := data, port := port
                   src := if op = 1 ∧ port then some (s.getF F.fllPaddr_addr c, loadqBytes w) else none
                   left := if op = 2 ∧ !port then scorePieces c w else 1 }).startFlails c

/-! ## The command port (R292) -/

/-- The words that the port registers of a channel hold. -/
def State.portWords (s : State) (c : Nat) : FlailWords :=
  { w0 := s.reg R.fllPort0 c, w1 := s.reg R.fllPort1 c, w2 := s.reg R.fllPort2 c }

/-- The duration of a command in ten-thousandths of a nanosecond (R275, Table 9.4): LOADQ opens no row; a TOPK waits for
one bus slot of 16 ns for each of its rows (R283; log entry 38). -/
def flailTime (c op : Nat) (w : FlailWords) : Nat :=
  let n := fieldGet w.w1 0 4 + 1
  let cycles :=
    if op = 2 then (scoreRecords c w).length * (fwCount w + 1) * ceilDiv (fwDh w) 64
    else if op = 3 then 32 * n
    else if op = 4 then 4 * ceilDiv (min (64 * fwDh w) (ceilDiv (2048 * fwDh w) (formRecord (fwForm w) (fwDh w)))) 64
    else 64
  if op = 1 then 0 else 300000 + 10526 * cycles + (if op = 3 then 160000 * n else 0)

/-- Every field of a command word is in the range of Tables 9.2 and 9.3 for its operation. -/
def fieldsOk (c op : Nat) (w : FlailWords) : Bool :=
  let n := fieldGet w.w1 0 4 + 1
  fieldGet w.w0 0 4 == op && decide (fwLoft w < 12) && fieldGet w.w0 59 5 == 0 && fieldGet w.w2 32 32 == 0 &&
  (op == 2 || fwPscale w == 0) && (op == 3 || op == 4 || !fwSel w) &&
  (if op = 1 then fwForm w < 4
   else if op = 2 then fwForm w < 4
   else if op = 3 then fwForm w = 4 ∧ fieldGet w.w1 4 60 = 0 ∧ offAt (fwRowAt w c) + n * 2048 ≤ chanBytes
   else if op = 4 then fwForm w < 2
   else fwForm w < 5)

/-- The port refuses a command. -/
def State.portRefuses (s : State) (c : Nat) (w : FlailWords) : Bool :=
  let op := fieldGet w.w0 0 4
  let a := s.getF F.fllPaddr_addr c
  let st := s.chanState c
  !([1, 2, 3, 4, 5].contains op) || !fieldsOk c op w ||
  decide (20000000 < flailTime c op w) || decide (10000 * s.windowNs < flailTime c op w) ||
  a % 64 != 0 || !isPhys a || !s.chanServes (chanAt a) || decide (chanBytes ≤ offAt a) ||
  st == vccHeld || st == vccRetired || st == vccInReset

/-- FLAIL_PORT_GO: a write of 1 to FLL_PCTL.go. -/
def opPortGo (c : Nat) (s : State) : State :=
  if s.onF F.fllPctl_go c then s
  else if s.portRefuses c (s.portWords c) then s.putF F.fllPctl_status c 4
  else (s.putF F.fllPctl_go c 1).putF F.fllPctl_status c 1
def execFlailPortGo (by_ : Requester) (s : State) : Host.Outcome State Fault Refusal :=
  run (fun s => if s.writes by_ R.fllPctl.off then opPortGo (s.sel by_ F.vccSel_channel) s else s) s

/-- A port command may start now: the window's other work is done, no retrain of the channel among it, the rest of the window can hold the
command, and nothing keeps its banks or its data (R286 to R288, R292). -/
def State.portMayStart (s : State) (c op : Nat) (w : FlailWords) : Bool :=
  s.tick.windowOpen && (s.chan c).retrainStart.isNone && decide (flailTime c op w ≤ 10000 * s.windowLeft s.now) &&
  s.mayStart c (s.chan c).flails { op := op, bank := fwBankNo w, words := w, banks := flailBanks c op w, port := true, no := s.arrivals
                                   src := if op = 1 then some (s.getF F.fllPaddr_addr c, loadqBytes w) else none }

/-- A port command starts in a window whose rest can hold it; its words are those of the port registers. Where the channel's
flails do not work any more, it is abandoned. -/
def State.portStart (s : State) (c op : Nat) (w : FlailWords) : State :=
  if s.getF F.fllPctl_status c ≠ 1 ∨ s.portWords c ≠ w then s
  else if !s.flailsWork c then s.portEnd c 6
  else if s.portMayStart c op w then
    (s.putF F.fllPctl_status c 2).flailCmd c op w [] true
  else s

/-- The port's own accesses at FLL_PADDR, from the tower of its channel (R355): what a read meets, and a write, which waits as any ordinary
access does and ends the command (R287). -/
def State.portRead (s : State) (c n : Nat) : State × Option (List Byte) :=
  let a := s.getF F.fllPaddr_addr c
  if s.addrError a n then (s.countAddr a n, none)
  else if s.cellErrResponse c a n then (s.countWrapped (some (cellTower c)) a n, none)
  else
    let s := (s.softWords a n).foldl (fun s w => s.softWord w) (s.forceRefreshes a n)
    match s.badWords a n with
    | [] => (s, some (s.readDev a n))
    | bad => (bad.foldl (fun s w => s.metWord .flailPort w) s, none)
def State.portWrite (s : State) (c : Nat) (bs : List Byte) : State :=
  s.accessDev { reader := .flailPort, addr := s.getF F.fllPaddr_addr c, len := bs.length, write := some bs, since := s.now, port := some c }

/-! ## Check bits (R289, R290) -/

/-- The words of physical byte ranges. -/
def rangeWords (rs : List (Nat × Nat)) : List Nat :=
  (rs.flatMap (fun r => (List.range ((r.1 + r.2 + 7) / 8 - r.1 / 8)).map (fun i => r.1 / 8 + i))).eraseDups

/-- A flail reads words: corrections are counted; the uncorrectable ones are the answer. -/
def State.flailRead (s : State) (c : Nat) (ws : List Nat) : State × List Nat :=
  let s := (ws.filter (fun w => s.wordErr w == 1)).foldl (fun s w => (s.softWord w).bump F.fllEcc_corrected c) s
  (s, ws.filter (fun w => s.wordErr w == 2))

/-- The in-loft A stage that a SCORE of a row serves: one whose pool holds the row. -/
def State.scoreCell (s : State) (a : Nat) : Option Nat :=
  (s.activeJobs.flatMap (fun j => ((s.prog j).stagesAt.filter (fun e => e.2.kind == kA && aFlag e.2 1 &&
    (List.range (e.2.f 0x2C 2)).any (fun h => match s.listOf j e.2 (e.2.f 0x28 2 + h) with
      | some l => decide (l.e.pool ≤ a) && decide (a < l.e.pool + (List.range 3).foldl (fun t p => t + l.e.n.getD p 0 * pageBytes p l.e.dh) 0)
      | none => false))).map (fun e => e.1))).head?

/-- Uncorrectable words that a command meets are reported: to the stage, to the port, or for the Rake. -/
def State.flailMet (s : State) (c : Nat) (f : FlailCmd) (bad : List Nat) : State :=
  bad.foldl (fun s w =>
    if f.port then s.metWord .flailPort w
    else if f.op = 5 then s.metWord .rake w
    else match s.scoreCell (8 * w) with
      | some k => s.metWord (.flailStage (BitVec.ofNat 10 k)) w
      | none => s.ueRecord { reader := 1, unit := c, word := w }) s

/-- The uncorrectable words that a flail met (R290). -/
def State.flailBad (s : State) (c : Nat) (f : FlailCmd) (bad : List Nat) : State :=
  (s.flailMet c f bad).bump F.fllEcc_uncorrectable c bad.length

/-! ## Scores (R272, R273, R276 to R279) -/

/-- The precision whose records a form reads. -/
def formPrec (form : Nat) : Nat := if form = 0 then 1 else if form = 1 then 2 else 0

/-- The lane inputs of a record with its element scales applied; none for a record with a NaN (Table 9.2, R272). -/
def laneKey (form dh : Nat) (r : List Byte) : Option (List Num) :=
  if form = 3 then some ((List.range dh).map (fun i => Num.ofInt (int8Of (fieldAt r i 1)) 0))
  else
    let vs := (recElems (formPrec form) dh r).map (fun e =>
      if form = 2 then (if e.1.isFin then fmtE4m3.value (fmtE4m3.drain 0x7F e.1).code else .nan) else e.1.mul e.2)
    if vs.any (fun v => !v.isFin) then none else some vs

/-- The elements and the exponent of a query head in the buffer. -/
def Chan.query (x : Chan) (form h : Nat) : List Num × Int :=
  let b := x.qbuf.getD []
  let es := (List.range x.qdh).map (fun i =>
    let c := fieldAt b (h * x.qdh + i) 1
    if form = 3 then Num.ofInt (int8Of c) 0 else fmtE4m3.value c)
  (es, (BitVec.ofNat 16 (fieldAt b (up64 (x.qhead * x.qdh) + 2 * h) 2)).toInt)

/-- The score of a record for a query head, as an FP32 code. -/
def flailScore (form dh pscale : Nat) (q : List Num × Int) (r : List Byte) : Nat :=
  match laneKey form dh r with
  | none => 0x7FC00000
  | some k => bits32 (fp32Sat (((dotExact q.1 k).mul (ofBits32 (pscale * 65536))).mul (pow2 q.2))).1

/-- The bytes of a record for the flail of its last row: what lies before that row comes from the fragment buffer. -/
def State.recordOf (s : State) (c : Nat) (w : FlailWords) (i : Nat) : List Byte :=
  let rb := formRecord (fwForm w) (fwDh w)
  let a := fwRegionAt w c + i * rb
  let row := fwRowAt w c
  let first := row - a
  let frag := tget [] (s.chan c).frags (fwBankNo w)
  if a < row then slice frag 0 first ++ s.readDev row (rb - first) else s.readDev a rb

/-- The running maximum of a head (held as code + 1, 0 before the first score), with one more score. -/
def maxScore (old code : Nat) : Nat :=
  if (ofBits32 code).isNan then old
  else if old = 0 then code + 1
  else if (ofBits32 (old - 1)).lt (ofBits32 code) then code + 1 else old

/-- What stands in the burst of a channel leaves, partly filled. -/
def State.flushBurst (s : State) (c : Nat) : State :=
  let x := s.chan c
  if x.burst.isEmpty then s
  else (s.send (.scores c x.burstTags x.burst)).modChan c (fun x => { x with burst := [], burstTags := [] })

/-- Sends scores from the front: those of commands before which no SCORE of a stage is still to complete go into the burst, whose
full 256 bytes leave; what is left leaves with the last SCORE for a query set (R278). -/
def State.sendScores (s : State) (c : Nat) : State :=
  let x := s.chan c
  let open_ := (x.flails.filter (fun f => f.op == 2 && !f.port && !f.discard)).map (fun f => f.no)
  let ready := x.scored.filter (fun r => open_.all (fun n => decide (r.no < n)))
  let s := s.modChan c (fun x => { x with scored := x.scored.filter (fun r => !ready.contains r) })
  (sortBy (fun r => r.no) ready).foldl (fun s r =>
    let s := (match r.scores with
    | none => s.send (.scoreError c r.tag)
    | some bs =>
      let x := s.chan c
      let all := x.burst ++ bs
      let tags := x.burstTags ++ [r.tag]
      let full := all.length / 256
      let s := (chunksOf 256 full all).foldl (fun s b => s.send (.scores c tags b)) s
      s.modChan c (fun x => { x with
        burst := all.drop (256 * full), burstTags := if all.length = 256 * full then [] else if full = 0 then tags else [r.tag] }))
    if r.last then s.flushBurst c else s) s

/-- The result of a stage's SCORE takes its place among the results to be sent, unless it is discarded (Table 9.6). -/
def State.putScores (s : State) (c : Nat) (f : FlailCmd) (bytes : Option (List Byte)) : State :=
  if f.discard then s.sendScores c
  else (s.modChan c (fun x => { x with scored := x.scored ++ [{ no := f.no, tag := fwTag f.words, last := f.words.last, scores := bytes }] })).sendScores c

/-- A SCORE completes: no score where a word cannot be corrected, or where the first part of a record could not be read. -/
def State.scoreEnds (s : State) (c : Nat) (f : FlailCmd) : State :=
  let w := f.words
  let x := s.chan c
  let rb := formRecord (fwForm w) (fwDh w)
  let row := fwRowAt w c
  let recs := scoreRecords c w
  let lacks := (splitPart c w).isSome && (tget [] x.frags f.bank).isEmpty
  let (s, bad) := s.flailRead c (rangeWords (recs.map (fun i =>
    let a := max row (fwRegionAt w c + i * rb)
    (a, fwRegionAt w c + (i + 1) * rb - a))))
  let heads := List.range (fwCount w + 1)
  let s := s.bump F.fllOps_score c
  let used := fun (s : State) => s.modChan c (fun x => { x with frags := tput [] x.frags f.bank [] })
  if !bad.isEmpty || lacks then
    let s := used (s.flailBad c f bad)
    if f.port then s.portEnd c 5 else s.putScores c f none
  else
    let scores := recs.map (fun i => heads.map (fun h =>
      flailScore (fwForm w) (fwDh w) (fwPscale w) (x.query (fwForm w) h) (s.recordOf c w i)))
    let key := fun h => fwLoft w * 64 + h
    let s := (used s).modChan c (fun x => { x with maxima := scores.foldl (fun m sc =>
      (sc.zip heads).foldl (fun m e => tput 0 m (key e.2) (maxScore (tget 0 m (key e.2)) e.1)) m) x.maxima })
    let bytes := scores.flatMap (fun sc => sc.flatMap (leBytes 4))
    if !f.port then s.putScores c f (some bytes)
    else if f.discard then s.portEnd c 3
    else
      let top := heads.flatMap (fun h => leBytes 4 (tget 0 (s.chan c).maxima (key h) - 1))
      s.portWrite c (bytes ++ top)

/-- A LOADQ completes: the buffers of all twelve lofts hold it, the maxima are cleared (R273). -/
def State.loadqEnds (s : State) (c : Nat) (f : FlailCmd) : State :=
  let n := loadqBytes f.words
  let (s, data) := if f.port then s.portRead c n else (s, some f.data)
  let s := s.bump F.fllOps_other c
  match data with
  | none => s.portEnd c 5
  | some b =>
    let s := (s.modChan c (fun x => { x with
      qbuf := some (slice b 0 n), qhead := fwCount f.words + 1, qdh := fwDh f.words, maxima := [] })).putF F.fllStat_qvalid c 1
    if f.port then s.portEnd c 3 else s

/-- The column accesses of 256 bytes that hold a range of bytes. -/
def colAccesses (a n : Nat) : Nat × Nat := (a / 256 * 256, ceilDiv (a % 256 + n) 256 * 256)

/-- A FRAG completes: its data stand in the fragment buffer of 512 bytes of its bank (R277). One that the controller makes itself
has read them first, as an ordinary read of the column accesses that hold them; where a word of it cannot be corrected there is nothing to send. -/
def State.fragEnds (s : State) (c : Nat) (f : FlailCmd) : State :=
  let (s, data) := match f.src with
    | none => (s, f.data)
    | some (a, n) =>
      let ws := rangeWords [colAccesses a n]
      let s := (ws.filter (fun w => s.wordErr w == 1)).foldl (fun (s : State) w => s.softWord w) (s.forceRefreshes a n)
      match ws.filter (fun w => s.wordErr w == 2) with
      | [] => (s, s.readDev a n)
      | bad => (s.flailMet c f bad, [])
  (s.modChan c (fun x => { x with frags := tput [] x.frags f.bank (slice data 0 (min 512 (ceilDiv data.length 256 * 256))) })).bump
    F.fllOps_other c

/-! ## Top-k (R280) -/

/-- The k best of values with their indices, best first, ties to the lower index; a NaN is never chosen. -/
def kBest (smallest : Bool) (k : Nat) (vs : List Nat) : List (Nat × Nat) :=
  let cand := ((List.range vs.length).zip vs).filter (fun e => !(ofBits32 e.2).isNan)
  (cand.foldl (fun (acc : List (Nat × Nat)) e =>
    let better := fun (y : Nat × Nat) => if smallest then (ofBits32 e.2).lt (ofBits32 y.2) else (ofBits32 y.2).lt (ofBits32 e.2)
    let pos := (findIdx? better acc).getD acc.length
    (acc.take pos ++ [e] ++ acc.drop pos).take k) [])

/-- A TOPK completes; places for which no value can be chosen are free (log entry 5). -/
def State.topkEnds (s : State) (c : Nat) (f : FlailCmd) : State :=
  let w := f.words
  let n := fieldGet w.w1 0 4 + 1
  let k := fwCount w + 1
  let a := fwRowAt w c
  let (s, bad) := s.flailRead c (rangeWords [(a, 2048 * n)])
  let s := s.bump F.fllOps_other c
  if !bad.isEmpty then (s.flailBad c f bad).portEnd c 5
  else
    let b := s.readDev a (2048 * n)
    let best := kBest (fwSel w) k ((List.range (512 * n)).map (fun i => fieldAt b (4 * i) 4))
    let free := (List.range (8 * (k - best.length))).map (Config.freeByte s.fresh)
    let s := if free.isEmpty then s else s.nextFree
    if f.discard then s.portEnd c 3 else s.portWrite c (best.flatMap (fun e => leBytes 4 e.1 ++ leBytes 4 e.2) ++ free)

/-! ## Requantisation (R281) -/

/-- The first parts of the records of a region that begin in one row and end in the next, as address and length. -/
def splitParts (a rb : Nat) (w : FlailWords) : List (Nat × Nat) :=
  ((List.range 64).filter (fwMask w)).filterMap (fun i =>
    let x := a + i * rb
    if x / 2048 = (x + rb - 1) / 2048 then none else some (x, 2048 - x % 2048))

/-- The controller reads the first parts of split records, as ordinary reads, and sends each by a FRAG (R277, R281); the words that cannot be
corrected. -/
def State.fragParts (s : State) (c : Nat) (ps : List (Nat × Nat)) : State × List Nat :=
  let ws := rangeWords (ps.map (fun p => colAccesses p.1 p.2))
  let s := (ws.filter (fun w => s.wordErr w == 1)).foldl (fun (s : State) w => s.softWord w) (s.bump F.fllOps_other c ps.length)
  (s, ws.filter (fun w => s.wordErr w == 2))

/-- The part of a rewritten record of n bytes at an address that its own flail writes, and the first part, which the controller writes back
with an ordinary write where the record is split (R281). -/
def State.putRecord (s : State) (a : Nat) (bs : List Byte) : State :=
  let n := 2048 - a % 2048
  if bs.length ≤ n then s.writeDev a bs else (s.writeDev (a + n) (bs.drop n)).writeDev a (bs.take n)

/-- A REQUANT completes. -/
def State.requantEnds (s : State) (c : Nat) (f : FlailCmd) : State :=
  let w := f.words
  let prec := formPrec (fwForm w)
  let dh := fwDh w
  let rb := recBytes prec dh
  let page := fwPageAt w c
  let a := fwRegionAt w c
  let so := if fwSel w then 0x12 else 0x10
  let parts := splitParts a rb w
  let firsts := rangeWords parts
  let (s, bad) := s.flailRead c ((rangeWords [(page + 0x10, 8), (a, 64 * rb)]).filter (fun x => !firsts.contains x))
  let (s, badFirst) := s.fragParts c parts
  let s := s.bump F.fllOps_other c
  if !bad.isEmpty || !badFirst.isEmpty then ((s.flailBad c f bad).flailMet c f badFirst).portEnd c 5
  else
    let old := ofBits32 (fieldAt (s.readDev page 64) so 2 * 65536)
    let recs := ((List.range 64).filter (fwMask w)).map (fun i =>
      (i, (recElems prec dh (s.readDev (a + i * rb) rb)).map (fun e => (e.1.mul e.2).mul old)))
    let pe := pageExp prec (maxMag ((recs.flatMap (fun r => r.2)).filter Num.isFin))
    let s := recs.foldl (fun s r => s.putRecord (a + r.1 * rb) (kvRecord prec pe r.2).1) s
    let s := s.writeDev (page + so) (leBytes 2 (bits16 (pow2 pe)))
    s.portEnd c 3

/-! ## Scrubs (R282, R312) -/

/-- Appends an entry to the Rake's log; the ring of 4,096 overwrites its oldest when full. -/
def State.rakeLog (s : State) (w0 w1 : Nat) : State :=
  let h := s.getF F.rakLogsel_head 0
  let s := if s.logRing.any (fun e => e.1 == h) then s.bump F.rakStat_overwritten 0 else s
  let s := { s with logRing := tput (0, 0) s.logRing h (BitVec.ofNat 64 w0, BitVec.ofNat 64 w1) }
  (List.range 3).foldl (fun s q => s.putF F.rakLogsel_head q ((h + 1) % 4096)) s

/-- The Rake corrects a loft word. -/
def State.rakeFixed (s : State) (w bitNo : Nat) : State :=
  let s := s.bump F.rakStat_corrected 0
  s.rakeLog (chanAt (8 * w) + loftOf w * 2 ^ 12 + bankOf w * 2 ^ 16 + rowOf w * 2 ^ 20 + wordInRow w * 2 ^ 32 + bitNo * 2 ^ 40)
    (s.getF F.tikCount_count % 2 ^ 32)

/-- A SCRUB of a row: corrected words are rewritten, uncorrectable ones stay and are recorded. -/
def State.scrubRow (s : State) (c : Nat) (f : FlailCmd) : State :=
  let a := fwRowAt f.words c / 8
  let ws := (List.range 256).map (fun i => a + i)
  let bad := ws.filter (fun w => s.wordErr w == 2)
  let s := (ws.filter (fun w => s.wordErr w == 1)).foldl (fun s w =>
    let b := s.errBit w
    let s := (s.corrected (.chan c)).bump F.fllEcc_corrected c
    let s := if f.port then s else s.rakeFixed w b
    { s with loftErr := tput 0 s.loftErr w 0 }) s
  let s := s.modChan c (fun x => { x with scrubQ := x.scrubQ.filter (fun e => e != (f.bank, fwRow f.words)) })
  s.flailBad c f bad

/-- A SCRUB completes. -/
def State.scrubEnds (s : State) (c : Nat) (f : FlailCmd) : State :=
  let n := (s.badWords (fwRowAt f.words c) 2048).length
  let s := (s.scrubRow c f).bump F.fllOps_scrub c
  if f.port then s.portEnd c (if n = 0 then 3 else 5) else s

/-! ## The rows -/

/-- The effect of an operation that ends. -/
def State.opEnds (s : State) (c : Nat) (f : FlailCmd) : State :=
  if f.op = 1 then s.loadqEnds c f else if f.op = 2 then s.scoreEnds c f else if f.op = 3 then s.topkEnds c f
  else if f.op = 4 then s.requantEnds c f else if f.op = 5 then s.scrubEnds c f else s.fragEnds c f

/-- An operation ends: its effect, and what waits for its banks goes on. The operations that a SCORE is split into follow one
another, and its scores are worked out at the end of the last (R278). -/
def opFlailComplete (c b now : Nat) (s : State) : State :=
  let s := s.at_ now
  match (s.chan c).flails.find? (fun f => f.running && f.bank == b) with
  | none => s
  | some f =>
    if 1 < f.left then
      ((s.bump F.fllOps_score c).modChan c (fun x => { x with
        flails := x.flails.map (fun g => if g = f then { f with left := f.left - 1, running := false } else g) })).startFlails c
    else
      (((s.modChan c (fun x => { x with flails := x.flails.erase f })).opEnds c f).showFlails c).goOn

/-- FLAIL_OP_COMPLETE (R275). -/
def execFlailOpComplete (channel : BitVec 10) (bank now : Nat) (s : State) : Host.Outcome State Fault Refusal :=
  runIf (decide (bank < 192)) (opFlailComplete channel.toNat bank now) s

/-- LOADQ (R273). -/
def execLoadq (channel : BitVec 10) (w : FlailWords) (data : List Byte) (stage : Bool) (s : State) :
    Host.Outcome State Fault Refusal :=
  runIf (w.ok 1) (fun s =>
    if stage then s.flailCmd channel.toNat 1 w data false else s.portStart channel.toNat 1 w) s

/-- SCORE (R276). -/
def execScore (channel : BitVec 10) (w : FlailWords) (found : List WordErr) (stage : Bool) (s : State) :
    Host.Outcome State Fault Refusal :=
  runIf (w.ok 2) (fun s =>
    let s := s.findErrs found
    if stage then s.flailCmd channel.toNat 2 w [] false else s.portStart channel.toNat 2 w) s

/-- TOPK (R280). -/
def execTopk (channel : BitVec 10) (w : FlailWords) (found : List WordErr) (s : State) : Host.Outcome State Fault Refusal :=
  runIf (w.ok 3) (fun s => (s.findErrs found).portStart channel.toNat 3 w) s

/-- REQUANT (R281). -/
def execRequant (channel : BitVec 10) (w : FlailWords) (found : List WordErr) (s : State) :
    Host.Outcome State Fault Refusal :=
  runIf (w.ok 4) (fun s => (s.findErrs found).portStart channel.toNat 4 w) s

/-- SCRUB (R282): of the Rake, or of the port. -/
def execScrub (channel : BitVec 10) (w : FlailWords) (found : List WordErr) (byRake : Bool) (s : State) :
    Host.Outcome State Fault Refusal :=
  runIf (w.ok 5) (fun s =>
    let s := s.findErrs found
    if byRake then s.flailCmd channel.toNat 5 w [] false else s.portStart channel.toNat 5 w) s

/-- FRAG (R277): by the controller only. -/
def execFrag (channel : BitVec 10) (w : FlailWords) (data : List Byte) (s : State) : Host.Outcome State Fault Refusal :=
  runIf (w.ok 6) (fun s => s.flailCmd channel.toNat 6 w data false) s

end Sys2Proof.Machine
end

