-- ==== Sys2Proof/Machine/Sensors.lean ====
section
/-! DEFINITION. Housekeeping rounds: refresh bands, hot hold, stack stop (R253 to R256) and the cross-check of sensors
(R474 to R477). Temperatures are in 1/16 °C. -/

namespace Sys2Proof.Machine

/-- Degrees in 1/16 °C. -/
def deg (t : Int) : Int := 16 * t

/-- A temperature as a register field. -/
def tempField (t : Int) : Nat := (BitVec.ofInt 16 t).toNat

/-- A 64-bit event argument with a temperature. -/
def tempArg (t : Int) : Word := BitVec.ofNat 64 (tempField t)

/-- Takes the readings of sensors. -/
def State.takeReadings (s : State) (rs : List Reading) : State :=
  rs.foldl (fun s r => s.putF F.thmSens_reading r.sensor (tempField r.value)) s

/-! ## Bands (R253 to R256) -/

/-- The refresh band of a temperature: 0 for 3.9 µs, 1 for 1.95 µs, 2 for 0.975 µs (Table 8.6). -/
def bandOf (t : Int) : Nat := if t ≤ deg 85 then 0 else if t ≤ deg 95 then 1 else 2

/-- The lower bound of a band. -/
def bandFloor (b : Nat) : Int := if b = 1 then deg 85 else if b = 2 then deg 95 else -32768

/-- A list of 12 with one loft's value changed. -/
def setLoft (l : List Nat) (i v : Nat) : List Nat := (List.range 12).map (fun k => if k = i then v else l.getD k 0)

/-- Shows the refresh intervals and hot hold of a stack's channels. -/
def State.showStack (s : State) (k : Nat) : State :=
  (chansOfStack k).foldl (fun s c => ((s.showRefresh c).putF F.vccStat_hot_hold c (bit (s.stackSt k).hotHold)).showFlails c) s

/-- The sheafs that hold cells of a stack show a thermal error (Table 2.9; log entry 53). -/
def State.thermalError (s : State) (k : Nat) : State := s.errsum ((chansOfStack k).flatMap s.sheafsOver).eraseDups 3

/-- A stack enters hot hold (R255): accesses that waited behind a held command go ahead of it (R286). -/
def State.enterHotHold (s : State) (k : Nat) (t : Int) : State :=
  if (s.stackSt k).hotHold then s
  else ((((s.setStack k { s.stackSt k with hotHold := true, below102 := [] }).showStack k).thermalError k).raise 0x30 3 k (tempArg t)).goOn

/-- A stack stops (R256): accesses end with an error response, lofts go into self-refresh, the part stops in order. -/
def State.stopStack (s : State) (k : Nat) (t : Int) : State :=
  if (s.stackSt k).stopped then s
  else
    let s := s.setStack k { s.stackSt k with stopped := true }
    let s := (chansOfStack k).foldl (fun s c => ((s.errAll c).abandonFlails c true).showRefresh c) s
    ((s.thermalError k).raise 0x31 3 k (tempArg t)).beginStop 1 false

/-- What a loft's raw temperature does at once: a warmer band, hot hold, the stack stop (R254). -/
def State.warmLoft (s : State) (k l : Nat) (t : Int) : State :=
  let x := s.stackSt k
  let s := if x.bands.getD l 0 < bandOf t then
      (s.setStack k { x with bands := setLoft x.bands l (bandOf t), coolRounds := setLoft x.coolRounds l 0 }).showStack k
    else s
  let s := if deg 105 < t then s.enterHotHold k t else s
  if deg 110 < t then s.stopStack k t else s

/-- What a round's temperature in use does: a cooler band after 10 rounds, and the count towards the end of hot hold. -/
def State.coolLoft (s : State) (k l : Nat) (t : Int) : State :=
  let x := s.stackSt k
  let b := x.bands.getD l 0
  let n := if bandOf t < b ∧ t ≤ bandFloor b - deg 3 then x.coolRounds.getD l 0 + 1 else 0
  let h := if x.hotHold ∧ t < deg 102 then min 10 (x.below102.getD l 0 + 1) else 0
  let x := { x with below102 := if x.hotHold then setLoft x.below102 l h else x.below102 }
  if 10 ≤ n then (s.setStack k { x with bands := setLoft x.bands l (bandOf t), coolRounds := setLoft x.coolRounds l 0 }).showStack k
  else s.setStack k { x with coolRounds := if n = 0 ∧ x.coolRounds = [] then [] else setLoft x.coolRounds l n }

/-- Hot hold ends at an edge once every loft has had its 10 rounds; the held flail commands start in order (R255, R286). -/
def State.endHotHold (s : State) (k : Nat) : State :=
  let x := s.stackSt k
  if x.hotHold && (List.range 12).all (fun l => decide (10 ≤ x.below102.getD l 0)) then
    let s := (s.setStack k { x with hotHold := false, below102 := [] }).showStack k
    (chansOfStack k).foldl (fun s c => s.startFlails c) s
  else s

/-! ## Cross-check (R476, R477) -/

/-- The cells of the part that share an edge with a cell. -/
def edgeCells (c : Nat) : List Nat :=
  (if cellRow c = 0 then [] else [c - 16]) ++ (if cellRow c = 15 then [] else [c + 16]) ++
  (if cellCol c = 0 then [] else [c - 1]) ++ (if cellCol c = 15 then [] else [c + 1])

/-- The M cell beside a stook's sentinel: local row 1, column 2 (Table 16.1). -/
def sentinelCell (k : Nat) : Nat := k / 16 * 256 + (k % 16 / 4 * 4 + 1) * 16 + (k % 4 * 4 + 2)
def sentinelNo (k : Nat) : Nat := 2576 + k

/-- The groups that are compared: a stook's hot spot, and a loft's four sensors. -/
def sensorGroups : List (List Nat) :=
  (List.range 64).map (fun k => [sentinelCell k, sentinelNo k]) ++
  (List.range 32).flatMap (fun k => (List.range 12).map (fun l => (List.range 4).map (loftSensor k l)))

/-- The neighbours of a sensor of a group. -/
def neighboursOf (g : List Nat) (i : Nat) : List Nat :=
  match g with
  | [c, _] => edgeCells c
  | _ => g.filter (fun k => k != i)

/-- A sensor's value departs by more than 5 °C from a mean of values. -/
def farFromMean (v : Int) (l : List Int) : Bool :=
  let n : Int := l.length
  !l.isEmpty && decide (deg 5 * n < (v * n - l.foldl (fun a b => a + b) 0).natAbs)

/-- One group's comparison in a round. -/
def State.checkGroup (s : State) (now : Nat) (g : List Nat) : State :=
  let live := g.filter (fun i => !s.onF F.thmSens_suspect i)
  let vs := live.map (fun i => s.thmReading i)
  let hi := vs.foldl max (-32768)
  let lo := vs.foldl min 32767
  let s := g.foldl (fun s i => s.putF F.thmSens_disagree i 0) s
  if live.length < 2 ∨ hi - lo ≤ deg 3 then s
  else
    let odd := live.filter (fun i =>
      let v := s.thmReading i
      decide (deg 5 < (v - s.thmModel i).natAbs) &&
        farFromMean v (((neighboursOf g i).filter (fun k => !s.onF F.thmSens_suspect k)).map s.thmReading))
    if odd.isEmpty then
      let s := live.foldl (fun s i => s.putF F.thmSens_disagree i 1) s
      let first := g.headD 0
      let x := tget {} s.sensors first
      let due := match x.saidDisagree with
        | none => true
        | some t => decide (t + 1000000000 ≤ now)
      if due then
        { s with sensors := tput {} s.sensors first { x with saidDisagree := some now } }.raise 0x61 0xD first
          (BitVec.ofNat 64 (tempField hi + 65536 * tempField lo))
      else s
    else odd.foldl (fun s i =>
      let x : Sensor := tget {} s.sensors i
      let s := s.putF F.thmSens_suspect i 1
      { s with sensors := tput {} s.sensors i { x with agree := 0 } }.raise 0x60 0xD i (tempArg (s.thmReading i))) s

/-- The rounds in which a suspect sensor has agreed with the model. -/
def State.countAgree (s : State) (i : Nat) : State :=
  if s.onF F.thmSens_suspect i then
    let x := tget {} s.sensors i
    let ok := decide ((s.thmReading i - s.thmModel i).natAbs ≤ deg 3)
    { s with sensors := tput {} s.sensors i { x with agree := if ok then min 100 (x.agree + 1) else 0 } }
  else s

/-- The temperature in use of a stook's hot spot: the higher of its sensors not suspect, else the model. -/
def State.spotTemp (s : State) (k : Nat) : Int :=
  let live := [sentinelCell k, sentinelNo k].filter (fun i => !s.onF F.thmSens_suspect i)
  if live.isEmpty then s.thmModel (sentinelCell k) else (live.map s.thmReading).foldl max (-32768)

/-- The highest of the raw readings of a loft's sensors not suspect, or the model (R254). -/
def State.hottestLoft (s : State) : Int :=
  (List.range 32).foldl (fun m k => (List.range 12).foldl (fun m l => max m (s.loftTemp k l)) m) (-32768)

/-- Every sentinel's last reading is below a temperature; one that has not been read since the last reset is not. -/
def State.sentinelsBelow (s : State) (t : Int) : Bool :=
  (List.range 64).all (fun k => (tget [] s.heat.sentinels k).getLast?.any (fun v => decide (v < t)))

/-- Every loft has read below a temperature: the readings of its sensors that are not suspect. -/
def State.loftsReadBelow (s : State) (t : Int) : Bool :=
  (List.range 32).all (fun k => (List.range 12).all (fun l => (List.range 4).all (fun i =>
    s.onF F.thmSens_suspect (loftSensor k l i) || decide (s.thmReading (loftSensor k l i) < t))))

/-- The cooling condition of a trip (R418) or of a stop (Table 16.3) holds. -/
def State.isCool (s : State) : Bool :=
  if s.start.tripHold then s.sentinelsBelow (deg 85)
  else if s.getF F.pwrStat_cause = 1 then s.loftsReadBelow (deg 85)
  else s.sentinelsBelow (deg 60)

/-- Keeps the instant from which the cooling condition of a stop or a trip has held. -/
def State.trackCool (s : State) (now : Nat) : State :=
  if s.getF F.pwrStat_state = 2 ∨ s.start.tripHold then
    { s with heat := { s.heat with coolSince := if s.isCool then some (s.heat.coolSince.getD now) else none } }
  else s

/-! ## The rows -/

/-- HOUSEKEEPING_ROUND: the rails are read with the sensors (R474). -/
def opHousekeeping (r : Round) (now : Nat) (s : State) : State :=
  let s := (s.at_ now).takeReadings r.temps
  let s := { s with heat := { s.heat with railMv := r.rails ++ s.heat.railMv.filter (fun (e : Rail × Nat) => !r.rails.any (fun x => x.1 == e.1)) } }
  let lofts := (List.range 32).flatMap (fun k => (List.range 12).map (fun l => (k, l)))
  let s := lofts.foldl (fun s e => s.warmLoft e.1 e.2 (s.loftTemp e.1 e.2)) s
  let s := sensorGroups.foldl (fun s g => s.checkGroup now g) s
  let s := (List.range 2640).foldl (fun s i => s.countAgree i) s
  let s := lofts.foldl (fun s e => s.coolLoft e.1 e.2 (s.loftTemp e.1 e.2)) s
  let hot := (List.range 64).foldl (fun m k => max m (s.spotTemp k)) (-32768)
  let s := (s.putF F.thmHot_junction 0 (tempField hot)).putF F.thmHot_loft 0 (tempField s.hottestLoft)
  s.trackCool now

def execHousekeepingRound (round : Round) (now : Nat) (s : State) : Host.Outcome State Fault Refusal :=
  runIf (round.temps.all (fun r => decide (r.sensor < 2640))) (opHousekeeping round now) s

/-- SENSOR_RETURN: a suspect sensor that has agreed for 100 rounds returns to use (R477). -/
def opSensorReturn (i : Nat) (s : State) : State :=
  let x := tget {} s.sensors i
  if s.onF F.thmSens_suspect i && decide (100 ≤ x.agree) then
    { s with sensors := tput {} s.sensors i { x with agree := 0 } }.putF F.thmSens_suspect i 0
  else s
def execSensorReturn (sensor : Nat) (s : State) : Host.Outcome State Fault Refusal :=
  runIf (decide (sensor < 2640)) (opSensorReturn sensor) s

end Sys2Proof.Machine
end

