-- ==== Sys2Proof/Machine/Governor.lean ====
section
/-! DEFINITION. The governor's limit words and what acts faster than a tick (R32 to R36, R478 to R490): the update of a
window, the cap, the fallback, the throttles, the inlet, and the sentinels' forecasts. -/

namespace Sys2Proof.Machine

/-! ## Limit words (R32, R34 to R36, R483) -/

/-- The cap that the next edge applies. -/
def State.capNext (s : State) : Nat :=
  match s.tick.limits with
  | some l => l.cap
  | none => s.getF F.pwrStat_cap

/-- The governor writes limit words: a lower cap holds from the next edge, a higher one is the target that CAP_RAISE_STEP
approaches; a word of a cell or stook not written stays as it was. Of two writes before one edge the second is measured against the
first, so a higher second cap is a rise, even below the cap in force (DESIGN CHOICE, log entry 15). A write before the edge at which the fallback words
would apply takes their place (R36; log entry 15). -/
def State.writeLimits (s : State) (w : LimitWords) : State :=
  let now := if s.tick.fallbackNext then s.getF F.pwrStat_cap else s.capNext
  let old := s.tick.limits.getD {}
  { s with
    tick := { s.tick with
      govWrote := true, fallbackNext := false
      limits := some { cap := min now w.cap, duty := old.duty ++ w.duty, flail := old.flail ++ w.flail } }
    heat := { s.heat with capTarget := w.cap } }

/-- The field of FLL_LIMIT0 to FLL_LIMIT3 that holds the limit of a stook. -/
def flailLimit (k : Nat) : Fld :=
  { reg := [R.fllLimit0, R.fllLimit1, R.fllLimit2, R.fllLimit3].getD (k / 16) R.fllLimit0, lo := 4 * (k % 16), width := 4, acc := .ro }

/-- Step 1 of Load: the limit words written since the last edge apply; an edge without an update counts (R36). -/
def State.applyLimits (s : State) : State :=
  match s.tick.limits with
  | some l =>
    let s := s.putF F.pwrStat_cap 0 l.cap
    let s := l.duty.foldl (fun s e => s.putF F.pwrDuty_duty e.1.toNat e.2) s
    let s := l.flail.foldl (fun s e => s.putF (flailLimit e.1.toNat) 0 (max 1 e.2)) s
    let s := if s.tick.govWrote then s.putF F.pwrStat_fallback 0 0
      else if s.tick.fallbackNext then s.putF F.pwrStat_fallback 0 1 else s
    { s with tick := { s.tick with limits := none, updatesAgo := if s.tick.govWrote then 0 else s.tick.updatesAgo + 1,
                                   govWrote := false, fallbackNext := false } }
  | none => { s with tick := { s.tick with updatesAgo := s.tick.updatesAgo + 1 } }

/-- GOVERNOR_SILENT: after 64 edges without an update the fallback cap applies at the next edge, in place of a raise that is
under way, and is kept until the governor writes again (R36). -/
def opGovernorSilent (s : State) : State :=
  if s.tick.updatesAgo < 64 || s.tick.govWrote || s.onF F.pwrStat_fallback || s.tick.fallbackNext then s
  else
    let s := { s with
      tick := { s.tick with limits := some { cap := 800 }, fallbackNext := true }
      heat := { s.heat with capTarget := 800 } }
    s.raise 0x12 0 0 (BitVec.ofNat 64 s.tick.updatesAgo)
def execGovernorSilent (s : State) : Host.Outcome State Fault Refusal := run opGovernorSilent s

/-- Limit words in the ranges the spec gives them: the cap 800 to 3,600 W, a duty 1 to 16, a flail limit 0 to 8. -/
def LimitWordsOk (w : LimitWords) : Bool :=
  decide (800 ≤ w.cap) && decide (w.cap ≤ 3600) && w.duty.all (fun e => decide (1 ≤ e.2) && decide (e.2 ≤ 16)) &&
  w.flail.all (fun e => decide (e.2 ≤ 8))

/-- LIMIT_WORD_WRITE (R32); the governor does not run while Steading restarts (Table 1.10). -/
def opLimitWordWrite (w : LimitWords) (s : State) : State := if s.start.steadingDown then s else s.writeLimits w
def execLimitWordWrite (w : LimitWords) (s : State) : Host.Outcome State Fault Refusal :=
  runIf (LimitWordsOk w) (opLimitWordWrite w) s

/-- CAP_RAISE_STEP: the cap rises toward its target by at most 100 W (R483). -/
def opCapRaiseStep (s : State) : State :=
  if s.onF F.pwrStat_fallback || s.tick.fallbackNext || decide (s.heat.capTarget ≤ s.capNext) then s
  else
    let old := s.tick.limits.getD {}
    { s with tick := { s.tick with limits := some { old with cap := min s.heat.capTarget (s.capNext + 100) } } }
def execCapRaiseStep (s : State) : Host.Outcome State Fault Refusal := run opCapRaiseStep s

/-! ## The update of a window (R478 to R489) -/

/-- The inlet temperature the governor uses: 45 °C until the first write and while the value is stale (R482). -/
def State.inlet (s : State) : Int :=
  if s.heat.coolWritten.isNone || s.heat.inletStale then deg 45 else (BitVec.ofNat 16 (s.getF F.thmCool_t_in)).toInt

/-- The cap that R481 asks for, in W: (102 °C − inlet) ÷ R̂, with R̂ in 0.1 mK/W. Before R̂ has a value the spec states none:
a free value (log entry 5). -/
def State.capFormula (s : State) : Nat :=
  let r := s.getF F.thmRth_r_hat
  if r = 0 then s.freeWord.toNat % 4096 else ((deg 102 - s.inlet) * 625 / r).toNat

/-- The cap the governor wants. -/
def State.capWanted (s : State) : Nat :=
  if s.onF F.pwrCap_mode then max 800 (min s.capFormula (s.getF F.pwrCap_w)) else s.getF F.pwrCap_w

/-- The flail limit above a stook whose cells drew p W (R487). -/
def State.flailLimitFor (s : State) (p : Nat) : Nat :=
  let th := s.getF F.thmPlace_stook_w
  if p ≤ th then 8 else max 1 (8 - ceilDiv (7 * (p - th)) (s.getF F.thmPlace_span_w))

/-- CAP_REDUCED: in following mode, once below 75 % of PWR_CAP.w until the cap is above 85 % again (R489). -/
def State.watchCap (s : State) (cap : Nat) : State :=
  let w := s.getF F.pwrCap_w
  if !s.onF F.pwrCap_mode then s
  else if decide (cap * 100 < 75 * w) && !s.heat.capReduced then
    { s with heat := { s.heat with capReduced := true } }.raise 0x63 0 0 (BitVec.ofNat 64 cap)
  else if 85 * w < cap * 100 then { s with heat := { s.heat with capReduced := false } } else s

/-- Loss of coolant: the event, and the stop (R489, R490). -/
def State.coolantLost (s : State) (sudden atOnce : Bool) : State :=
  if s.getF F.pwrStat_state = 1 ∨ s.getF F.pwrStat_state = 2 then s
  else ((s.errsum (0 :: s.sheafIds) 3).raise 0x64 0 0 (BitVec.ofNat 64 (bit sudden))).beginStop (if sudden then 3 else 4) atOnce

/-- The hottest junction in use. -/
def State.junction (s : State) : Int := (BitVec.ofNat 16 (s.getF F.thmHot_junction)).toInt

/-- What R̂'s filter leads to, in 0.1 mK/W: (hottest junction − inlet) ÷ power (R481). -/
def State.rthNow (s : State) (power : Nat) : Nat := ((s.junction - s.inlet) * 625 / (max 1 power : Nat)).toNat

/-- R̂ after the filter of 100 ms: between the old value and the new ratio, where the firmware's result lies; the ratio itself at first
(log entry 45). -/
def State.rthFiltered (s : State) (power said : Nat) : Nat :=
  let old := s.getF F.thmRth_r_hat
  let new := min 65535 (s.rthNow power)
  if old = 0 then new else max (min old new) (min said (max old new))

/-- The duty limits of a window (R481, R484): those the firmware sets. While the power is above the cap, or a forecast above its limit, the
cell that contributes most to the hottest forecast goes down by 1/16 at least, and no cell goes up. -/
def State.dutyWanted (s : State) (g : GovIn) : List (BitVec 10 × Nat) :=
  let now := fun (c : BitVec 10) => s.getF F.pwrDuty_duty c.toNat
  if deg 105 < g.forecast || s.getF F.pwrStat_cap < g.power || deg 112 ≤ g.forecast800 then
    let hot := min (((g.duty.find? (fun e => e.1 == g.hotCell)).map (fun e => e.2)).getD 16) (max 1 (now g.hotCell - 1))
    (g.duty.filter (fun e => e.1 != g.hotCell)).map (fun e => (e.1, min e.2 (now e.1))) ++ [(g.hotCell, hot)]
  else g.duty

/-- The governor's update in a window. -/
def State.govern (s : State) (g : GovIn) : State :=
  if s.start.steadingDown then s
  else
    let s := g.models.foldl (fun s r => s.putF F.thmSens_model r.sensor (tempField r.value)) s
    let s := (s.putF F.thmHot_forecast 0 (tempField g.forecast)).putF F.thmHot_cell 0 g.hotCell.toNat
    let s := s.putF F.pwrStat_power 0 (min g.power 4095)
    let s := if 400 ≤ g.power then s.putF F.thmRth_r_hat 0 (s.rthFiltered g.power g.rHat) else s
    let asked := s.capFormula
    let want := s.capWanted
    let s := s.putF F.thmRth_formula 0 (min asked 4095)
    let s := if s.getF F.thmRth_r_hat = 0 then s.nextFree else s
    let s := { s with heat := { s.heat with
      lowSince := if s.onF F.pwrCap_mode && decide (asked < 800) then some (s.heat.lowSince.getD s.now) else none } }
    let s := s.writeLimits { cap := want, duty := s.dutyWanted g, flail := g.stookPower.map (fun e => (e.1, s.flailLimitFor e.2)) }
    let s := s.watchCap want
    if deg 112 ≤ g.forecast800 then s.coolantLost true false else s

/-- What a window's governor may say: a duty from 1 to 16, a sensor that exists. -/
def GovInOk (g : GovIn) : Bool :=
  g.models.all (fun r => decide (r.sensor < 2640)) && g.duty.all (fun e => decide (1 ≤ e.2) && decide (e.2 ≤ 16))

/-- COOLANT_LOSS: the formula has asked for less than 800 W for 1 s (R489). -/
def opCoolantLoss (now : Nat) (s : State) : State :=
  let s := s.at_ now
  match s.heat.lowSince with
  | some t => if s.onF F.pwrCap_mode && decide (t + 1000000000 ≤ now) then s.coolantLost false false else s
  | none => s
def execCoolantLoss (now : Nat) (s : State) : Host.Outcome State Fault Refusal := run (opCoolantLoss now) s

/-! ## Sentinels (R474, R479, R490) -/

/-- The time in ns until a sentinel's line reaches a temperature, from its last 50 readings, which cover 500 µs (R479); none where it does
not rise, or has had fewer readings. -/
def reachNs (t : Int) (l : List Int) : Option Nat :=
  let last := l.getLastD 0
  let rise := last - l.headD 0
  if l.length < 50 then none
  else if t ≤ last then some 0
  else if rise ≤ 0 then none else some ((t - last) * 500000 / rise).toNat

/-- A sentinel's extrapolation reaches 112 °C within 8 ms; of one that has had fewer than 50 readings the comparators say it (log entry
45). -/
def State.sentinelNear (s : State) (r : Reading) : Bool :=
  let l := tget [] s.heat.sentinels (r.sensor - 2576)
  decide (l.length < 50) || (reachNs (deg 112) l).any (fun n => decide (n ≤ 8000000))

/-- When the first of the sentinels read reaches 110 °C: what their lines say, else what the comparators do. -/
def State.reach110 (s : State) (rs : List Reading) (said : Nat) : Nat :=
  match rs.filterMap (fun r => reachNs (deg 110) (tget [] s.heat.sentinels (r.sensor - 2576))) with
  | [] => said
  | n :: l => l.foldl min n

/-- SENTINEL_READING: each sentinel keeps its last 50 readings; where one nears 112 °C, both forecasts are made at once: the one at the limit
words in force shows in THM_HOT, and one for 800 W that places the junction or a loft at 112 °C stops the part; the tick completes when its
deadline falls before the extrapolation reaches 110 °C. -/
def opSentinel (rs : List Reading) (f : Option Forecast) (reach : Nat) (now : Nat) (s : State) : State :=
  let s := (s.at_ now).takeReadings rs
  let s := rs.foldl (fun s r => { s with heat := { s.heat with
    sentinels := tmod [] s.heat.sentinels (r.sensor - 2576) (fun l => (l ++ [r.value]).drop (l.length - 49)) } }) s
  let s := s.trackCool now
  match f with
  | some v =>
    if s.start.steadingDown || !rs.any s.sentinelNear then s
    else
      let s := (s.putF F.thmHot_forecast 0 (tempField v.limit)).putF F.thmHot_cell 0 v.cell.toNat
      if v.at800 < deg 112 then s
      else s.coolantLost true (s.tick.running && !s.unfinished.isEmpty && !decide (s.tick.edgeAt + s.deadline < now + s.reach110 rs reach))
  | none => s
def execSentinelReading (readings : List Reading) (forecasts : Option Forecast) (reach110Ns now : Nat) (s : State) :
    Host.Outcome State Fault Refusal :=
  runIf (readings.all (fun r => decide (2576 ≤ r.sensor) && decide (r.sensor < 2640))) (opSentinel readings forecasts reach110Ns now) s

/-! ## The inlet (R482) -/

/-- INLET_WRITE. -/
def opInletWrite (v : Nat) (now : Nat) (s : State) : State :=
  let s := ((s.at_ now).putF F.thmCool_t_in 0 v).putF F.thmCool_age_ms 0 0
  { s with heat := { s.heat with coolWritten := some now, inletStale := false } }
def execInletWrite (by_ : Requester) (value : BitVec 16) (now : Nat) (s : State) : Host.Outcome State Fault Refusal :=
  run (fun s => if s.reaches by_ R.thmCool.off then opInletWrite value.toNat now s else s.at_ now) s

/-- INLET_STALE: a value more than 5 s old is not used, and the event is raised once. -/
def opInletStale (now : Nat) (s : State) : State :=
  let s := s.at_ now
  match s.heat.coolWritten with
  | some t =>
    if s.heat.inletStale || decide (now ≤ t + 5000000000) then s
    else { s with heat := { s.heat with inletStale := true } }.raise 0x62 0 0 (BitVec.ofNat 64 ((now - t) / 1000000))
  | none => s
def execInletStale (now : Nat) (s : State) : Host.Outcome State Fault Refusal := run (opInletStale now) s

/-! ## Throttles (R485, R486) -/

/-- FAST_THROTTLE: power over 10 µs more than 5 % above the cap starts the skip at 2/16. -/
def opFastThrottle (p : Nat) (s : State) : State :=
  if decide (105 * s.getF F.pwrStat_cap < 100 * p) && s.getF F.pwrStat_skip == 0 then s.putF F.pwrStat_skip 0 2 else s
def execFastThrottle (power : Nat) (s : State) : Host.Outcome State Fault Refusal := run (opFastThrottle power) s

/-- FAST_THROTTLE_STEP: one step of 2 µs: up to 15/16 while the excess lasts, down once the power has stayed below the cap for
100 µs. -/
def opThrottleStep (excess : Bool) (belowUs : Nat) (s : State) : State :=
  let k := s.getF F.pwrStat_skip
  if k = 0 then s
  else if excess then s.putF F.pwrStat_skip 0 (min 15 (k + 1))
  else if 100 ≤ belowUs then s.putF F.pwrStat_skip 0 (k - 1) else s
def execFastThrottleStep (excess : Bool) (belowUs : Nat) (s : State) : Host.Outcome State Fault Refusal :=
  run (opThrottleStep excess belowUs) s

/-- REGION_CYCLE_SKIP: one step of a region's own skip, from 3.5 A until its current is below 3.2 A. -/
def opRegionSkip (c ma : Nat) (s : State) : State :=
  let k := tget 0 s.heat.skips c
  let n := if k = 0 then (if 3500 ≤ ma then 2 else 0) else if ma < 3200 then 0 else min 15 (k + 1)
  { s with heat := { s.heat with skips := tput 0 s.heat.skips c n } }
def execRegionCycleSkip (cell : BitVec 10) (currentMa : Nat) (s : State) : Host.Outcome State Fault Refusal :=
  run (opRegionSkip cell.toNat currentMa) s

end Sys2Proof.Machine
end

