-- ==== Sys2Proof/Machine/Commit.lean ====
section
/-! DEFINITION. Staging and commits (R29, R30, R60, R64, R66, R90, R93 to R95, R98 to R102, R237, R270, R314, R356, R402,
R420, R507, R522 to R526): staged writes, requests, the checks of every chapter, what a commit, a repair and a raise
apply. -/

namespace Sys2Proof.Machine

/-! ## ST registers and their copies -/

/-- The ST registers (Table 17.7). -/
def stRegs : List Reg := [R.tikPeriod, R.tikWindow, R.tikGuard, R.shfBudget, R.vccRetrain, R.stdEccCfg, R.rakRate, R.lnkCfg,
  R.d2dCfg, R.clkDom, R.rstWdt, R.thmPlace, R.pwrCap]

/-- The register and copy of a key. -/
def keyReg (k : Nat) : Option Reg := stRegs.find? (fun r => r.off == k / 65536 * 8)
def keyInst (k : Nat) : Nat := k % 65536

/-- The active and staged copies of a key of an ST register, and setting them. -/
def State.activeKey (s : State) (k : Nat) : Word := ((keyReg k).map (fun r => s.reg r (keyInst k))).getD 0
def State.stagedKey (s : State) (k : Nat) : Word := ((keyReg k).map (fun r => s.stagedReg r (keyInst k))).getD 0
def State.putActiveKey (s : State) (k : Nat) (v : Word) : State :=
  match keyReg k with
  | some r => s.setReg r (keyInst k) v
  | none => s
def State.putStagedKey (s : State) (k : Nat) (v : Word) : State :=
  match keyReg k with
  | some r => s.setStaged r (keyInst k) v
  | none => s

/-- The keys of ST register copies whose staged copy differs from the active one, ascending (TIK_STG.diff). -/
def State.stagedDiff (s : State) : List Nat :=
  sortBy id (((s.regs.map (fun e => e.1) ++ s.staged.map (fun e => e.1)).eraseDups).filter (fun k =>
    (keyReg k).isSome && s.activeKey k != s.stagedKey k))

/-- Keeps TIK_STG.dirty and diff. -/
def State.showDiff (s : State) : State :=
  let n := s.stagedDiff.length
  (s.putF F.tikStg_dirty 0 (bit (decide (0 < n)))).putF F.tikStg_diff 0 n

/-! ## Who may write what -/

/-- The mask of the ST fields of a register. -/
def stMask (r : Reg) : Word :=
  (allFields.filter (fun f => f.reg == r && f.acc == .st)).foldl (fun m f => m ||| (maskW f.width <<< f.lo)) 0

/-- The mask of the bits that a write of n bytes at an offset covers, and the value in its place (R509). -/
def writeMask (off n : Nat) : Word := maskW (8 * n) <<< (8 * (off % 8))
def writeValue (off : Nat) (v : Word) : Word := v <<< (8 * (off % 8))

/-- How many copies a register has, by what selects it (Table 0.7, Table 17.3). -/
def instances : Shown → Nat
  | .part => 1
  | .sheaf => 4096
  | .cell => 1024
  | .stream => 65536
  | .channel => 1024
  | .hub => 12
  | .rake => 4096
  | .port => 8
  | .link => 8
  | .queue => 64
  | .fn => 64
  | .chute => 32
  | .domain => 60
  | .sensor => 2640
  | .otp => 3
  | .selector => 3

/-- A naturally aligned access of 4 or 8 bytes (R509). -/
def accessOk (off n : Nat) : Bool := (n == 4 || n == 8) && off % n == 0

/-- A write through the staging port (R11, R29, R522). I3C never writes an ST register (R513). -/
def opStagedWrite (by_ : Requester) (off n : Nat) (v : Word) (s : State) : State :=
  match stRegs.find? (fun r => r.off == off / 8 * 8) with
  | none => s
  | some r =>
    let i := s.shownInst by_ r
    if by_ == .i3c || !accessOk off n || !s.reaches by_ off || decide (instances r.shown ≤ i) then s
    else
      let m := stMask r &&& writeMask off n
      let old := s.stagedReg r i
      let s := s.setStaged r i ((old &&& ~~~m) ||| (writeValue off v &&& m))
      let s := if s.commit.isSome then { s with stagedAfter := (regKey r i :: s.stagedAfter).eraseDups } else s
      (s.putF F.tikStg_last 0 (if by_ == .host then 1 else 2)).showDiff

/-- STAGED_WRITE. -/
def execStagedWrite (by_ : Requester) (offset : BitVec 26) (size : Nat) (value : Word) (s : State) :
    Host.Outcome State Fault Refusal := run (opStagedWrite by_ offset.toNat size value) s

/-- STAGING_REVERT: every staged copy equals its active copy at once; a commit in flight keeps what it captured (R524). -/
def opRevert (s : State) : State := (s.stagedDiff.foldl (fun s k => s.putStagedKey k (s.activeKey k)) s).showDiff
def execStagingRevert (s : State) : Host.Outcome State Fault Refusal :=
  run (fun s => if s.reaches .host R.tikStg.off then opRevert s else s) s

/-! ## Requests (R30, R98) -/

/-- The fields of TIK_CMT_STAT and TIK_CMT_WHERE for a commit that failed. -/
def State.recordFail (s : State) (steading : Bool) (code off inst : Nat) : State :=
  let s := (s.putF F.tikCmtStat_result 0 3).putF F.tikCmtStat_source 0 (bit steading)
  let s := ((s.putF F.tikCmtStat_check 0 code).putF F.tikCmtStat_edge 0 (s.getF F.tikCount_count % 2 ^ 32)).putF F.tikCmtStat_deferred 0 0
  (s.putF F.tikCmtWhere_offset 0 off).putF F.tikCmtWhere_instance 0 inst

/-- The result fields of a commit that applied: 0 host, 1 Steading, 2 repair, 3 raise. -/
def State.recordApplied (s : State) (source : Nat) (deferred : Bool) : State :=
  let s := ((s.putF F.tikCmtStat_result 0 2).putF F.tikCmtStat_source 0 source).putF F.tikCmtStat_deferred 0 (bit deferred)
  (s.putF F.tikCmtStat_check 0 0).putF F.tikCmtStat_edge 0 (s.getF F.tikCount_count % 2 ^ 32)

/-- A port of this part is up. -/
def State.onRing (s : State) : Bool := (List.range 8).any (fun p => s.getF F.lnkStat_state p == 3 || s.getF F.lnkStat_state p == 4)

/-- The value of a key that a commit would leave: captured, or active. -/
def State.wouldBe (s : State) (c : CommitSt) (r : Reg) (i : Nat) : Word :=
  ((c.captured.find? (fun e => e.1 == regKey r i)).map (fun e => e.2)).getD (s.reg r i)
def State.wouldBeF (s : State) (c : CommitSt) (f : Fld) (i : Nat := 0) : Nat := fieldGet (s.wouldBe c f.reg i) f.lo f.width

/-- The three values of a commit value word (R321). -/
def State.tickValues (s : State) (c : CommitSt) : Nat × Nat × Nat :=
  (s.wouldBeF c F.tikPeriod_us, s.wouldBeF c F.tikWindow_ns, s.wouldBeF c F.tikGuard_pct)
def State.tickNow (s : State) : Nat × Nat × Nat := (s.getF F.tikPeriod_us, s.getF F.tikWindow_ns, s.getF F.tikGuard_pct)

/-- The digest of a sheaf of parts descriptor (R60), and the sheafs of parts that a commit activates. -/
def descDigest (d : SheafDesc) : List Byte := shake256 d.raw 32
def State.partSheafs (s : State) (c : CommitSt) : List SheafDesc :=
  c.images.flatMap (fun j => (s.image j).sheafs.filter (fun d => d.mtype == 2))

/-- The word that carries a phase of a ring commit from this part. -/
def State.ringWord (s : State) (ph : RingPhase) (code target : Nat) (v : Option (Nat × Nat × Nat)) : CtlWord :=
  .commit { part := BitVec.ofNat 10 (s.getF F.lnkRing_own), phase := ph, code := BitVec.ofNat 16 code,
            target := BitVec.ofNat 28 target,
            value := v.map (fun x => (BitVec.ofNat 10 x.1, BitVec.ofNat 16 x.2.1, BitVec.ofNat 5 x.2.2, 0)) }

/-- The timekeeper opens a ring commit at the first request it receives: its target lies 64 ticks on (R100). -/
def State.openRingCommit (s : State) : State :=
  if s.ring.commit.isSome then s
  else
    let tgt := s.getF F.tikCount_count + 64
    let s := { s with ring := { s.ring with commit := some { target := tgt } } }
    s.tell (s.ringWord .announcement 0 tgt none)

/-- A request is accepted: the staged copies that differ are captured, with the staged images. -/
def State.accept (s : State) (steading align : Bool) (captured : List (Nat × Word)) (images : List Nat) : State :=
  let c : CommitSt := { steading := steading, align := align, captured := captured, images := images }
  let ringed := !align && s.onRing && s.tickValues c != s.tickNow
  let c := { c with ringed := ringed }
  let s := { s with commit := some c, stagedAfter := [] }
  let s := ((s.putF F.tikCmtStat_result 0 1).putF F.tikCmtStat_source 0 (bit steading)).putF F.tikCmtStat_deferred 0 0
  let s := (s.partSheafs c).foldl (fun s d => s.tell (.digest d.id (descDigest d))) s
  if !ringed then s
  else if s.onF F.lnkRing_is_keeper then s.openRingCommit
  else s.tell (s.ringWord .request 0 0 (some (s.tickValues c)))

/-- A commit request of the host or of Steading. -/
def opCommitRequest (steading : Bool) (now : Nat) (s : State) : State :=
  let s := s.at_ now
  if s.start.warmReset then s
  else if s.commit.isSome then s.recordFail steading 0x0301 0 0
  else s.accept steading false (s.stagedDiff.map (fun k => (k, s.stagedKey k)))
    ((List.range 8).filter (fun j => (s.prog j).state == .staged))

/-- COMMIT_REQUEST: a write of 1 to TIK_CMT.req by the physical function. -/
def execCommitRequest (now : Nat) (s : State) : Host.Outcome State Fault Refusal :=
  run (fun s => if s.reaches .host R.tikCmt.off then opCommitRequest false now s else s) s

/-- STEADING_COMMIT_REQUEST. -/
def execSteadingCommitRequest (now : Nat) (s : State) : Host.Outcome State Fault Refusal :=
  run (fun s => if s.reaches .steading R.tikCmt.off then opCommitRequest true now s else s) s

/-! ## The checks, in ascending order of code (R99) -/

/-- A failed check: its code, the direct offset ÷ 8 of the register it tests, its instance. -/
abbrev Failed := Option (Nat × Nat × Nat)

/-- A check that tests one register: it fails with a code when a condition holds. -/
def chk (bad : Bool) (code : Nat) (r : Reg) : Failed := if bad then some (code, r.off / 8, 0) else none

/-- The largest finish_ns among the stages of a sheaf, over programs. -/
def State.sheafFinish (s : State) (js : List Nat) (i : Nat) : Nat :=
  maxList (js.flatMap (fun j =>
    let g := s.image j
    match g.sheafOf i with
    | none => []
    | some d =>
      let cs := g.cellsUnder 4096 d
      (g.stages.filter (fun t => cs.contains t.cell)).map (fun t => t.finishNs)))

/-- The budget that a commit would leave a sheaf: the captured one, or that of the descriptor it activates, or the active one (R58). -/
def State.budgetAfter (s : State) (c : CommitSt) (i : Nat) : Nat :=
  if c.captured.any (fun e => e.1 == regKey R.shfBudget i) then s.wouldBeF c F.shfBudget_ns i
  else match (c.images.reverse.flatMap (fun j => (s.image j).sheafs)).find? (fun d => d.id == i) with
    | some d => d.budget
    | none => s.getF F.shfBudget_ns i

/-- The sheafs whose budget a commit would leave non-zero, ascending. -/
def State.budgets (s : State) (c : CommitSt) : List Nat :=
  let ids := ((s.regs.map (fun e => e.1) ++ c.captured.map (fun e => e.1)).filter (fun k => keyReg k == some R.shfBudget)).map keyInst ++
    c.images.flatMap (fun j => (s.image j).sheafs.map (fun d => d.id))
  (sortBy id (ids.filter (fun i => s.budgetAfter c i != 0))).eraseDups

/-- 0x0302 to 0x0306: the tick and the sheaf budgets (Table 3.4). -/
def State.chkTick (s : State) (c : CommitSt) : List Failed :=
  let (us, w, g) := s.tickValues c
  let runNs := us * 1000 - w
  [chk (decide (us < 25) || decide (1000 < us)) 0x0302 R.tikPeriod,
   chk (decide (w < 2000) || decide (us * 1000 < 4 * w)) 0x0303 R.tikWindow,
   chk (decide (25 < g)) 0x0304 R.tikGuard,
   (s.jobs.find? (fun j => decide (runNs < (s.image j).periodUs * 1000 - (s.image j).windowNs))).map (fun j =>
     (0x0305, R.tikPeriod.off / 8, j)),
   ((s.budgets c).find? (fun i =>
     let b := s.budgetAfter c i
     decide (b < s.sheafFinish (s.activeJobs ++ c.images) i) || decide (runNs < b))).map (fun i => (0x0306, R.shfBudget.off / 8, i))]

/-- 0x0308: a member's descriptor of a sheaf of parts differs from this part's. -/
def State.chkParts (s : State) (c : CommitSt) : Failed :=
  ((s.partSheafs c).find? (fun d => (s.sheaf d.id).digests.any (fun e => d.members.contains e.1 && e.2 != descDigest d))).map (fun d =>
    (0x0308, 0, d.id))

/-- A member of a sheaf of parts has not answered by the commit edge (R60). -/
def State.chkAnswers (s : State) (c : CommitSt) : Failed :=
  match s.chkParts c with
  | some f => some f
  | none => ((s.partSheafs c).find? (fun d => d.members.any (fun m => m != s.getF F.lnkRing_own &&
      !(s.sheaf d.id).digests.any (fun e => e.1 == m)))).map (fun d => (0x0308, 0, d.id))

/-- Whether a domain is fixed, and whether it may draw from the internal oscillator (Table 13.2). -/
def domFixed (d : Nat) : Bool :=
  !((decide (d < 48) && decide (d % 12 < 2)) || [48, 53, 54, 55, 56].contains d)
def domOsc (d : Nat) : Bool := [53, 54, 55, 56].contains d

/-- A value that check 0x1301 refuses for a domain. -/
def domBad (d : Nat) (v : Word) : Bool :=
  domFixed d || decide (fieldGet v 2 8 < 8) || decide (128 < fieldGet v 2 8) || decide (1 < fieldGet v 0 2) ||
  (fieldGet v 0 2 == 1 && !domOsc d)

/-- The domains that a commit changes, ascending, with their new words. -/
def CommitSt.domains (c : CommitSt) : List (Nat × Word) :=
  sortBy (fun e => e.1) ((c.captured.filter (fun e => keyReg e.1 == some R.clkDom)).map (fun e => (keyInst e.1, e.2)))

/-- The checks of the other chapters (Tables 8.10, 10.7, 11.13, 13.9, 16.9, 17.10). -/
def State.chkRest (s : State) (c : CommitSt) : List Failed :=
  let v := s.wouldBeF c
  let changes := fun (r : Reg) => s.wouldBe c r 0 != s.reg r 0
  let dom := R.clkDom.off / 8
  [chk (v F.vccRetrain_interval_ms == 0 || decide (10000 < v F.vccRetrain_interval_ms)) 0x0801 R.vccRetrain,
   chk (v F.vccRetrain_delta_c == 0 || decide (40 < v F.vccRetrain_delta_c)) 0x0802 R.vccRetrain,
   chk (v F.stdEccCfg_leak_ms == 0 || decide (60000 < v F.stdEccCfg_leak_ms)) 0x1001 R.stdEccCfg,
   chk (v F.stdEccCfg_thresh == 0) 0x1002 R.stdEccCfg,
   chk (decide (v F.rakRate_min < 60) || decide (43200 < v F.rakRate_min)) 0x1003 R.rakRate,
   chk (v F.lnkCfg_ser_limit == 0) 0x1101 R.lnkCfg,
   chk (v F.d2dCfg_lane_thresh == 0) 0x1102 R.d2dCfg,
   chk (v F.lnkCfg_prio != s.getF F.lnkCfg_prio && s.ring.electing) 0x1103 R.lnkCfg,
   (c.domains.find? (fun e => domBad e.1 e.2)).map (fun e => (0x1301, dom, e.1)),
   (c.domains.find? (fun e => ((decide (e.1 < 48) && decide (e.1 % 12 < 2)) || e.1 == 48) && !s.jobs.isEmpty)).map (fun e =>
     (0x1302, dom, e.1)),
   chk (decide (v F.rstWdt_ms < 10) || decide (10000 < v F.rstWdt_ms)) 0x1303 R.rstWdt,
   chk (v F.rstWdt_reach == 3) 0x1304 R.rstWdt,
   chk (decide (v F.pwrCap_w < 800) || decide (3600 < v F.pwrCap_w)) 0x1601 R.pwrCap,
   chk (decide (v F.thmPlace_stook_w < 16) || v F.thmPlace_span_w == 0) 0x1602 R.thmPlace,
   chk (changes R.pwrCap && s.getF F.pwrStat_state != 0) 0x1603 R.pwrCap,
   if s.ready then none else some (0x1701, 0, 0)]

/-- The first check that a commit fails. -/
def State.commitChecks (s : State) (c : CommitSt) : Failed :=
  ((s.chkTick c ++ [s.chkParts c] ++ s.chkRest c).filterMap id).head?

/-! ## The end of a commit -/

/-- Steading commits a ring winner's values as soon as no commit is in flight (R331). -/
def State.startAlign (s : State) : State :=
  match s.ring.alignValues with
  | none => s
  | some (us, w, g) =>
    if s.commit.isSome then s
    else
      let put := fun (f : Fld) (v : Nat) => (regKey f.reg 0, fieldPut (s.reg f.reg 0) f.lo f.width v)
      let cap := [put F.tikPeriod_us us, put F.tikWindow_ns w, put F.tikGuard_pct g].filter (fun e => s.activeKey e.1 != e.2)
      let s := { s with ring := { s.ring with alignValues := none } }
      if cap.isEmpty then s else s.accept true true cap []

/-- The part gives up the planes that face a winner whose values it cannot take: their bypasses close. On what is left it has lost its
timekeeper (R327, R331). -/
def State.mismatch (s : State) (us : Nat) : State :=
  let s := s.closePlanes (s.ring.facing.filter s.heldPlanes.contains)
  let s := { s with ring := { s.ring with facing := [] } }
  let s := (s.putF F.lnkRing_mismatch 0 1).raise 0x15 0 0 (BitVec.ofNat 64 us)
  if s.takePorts.isEmpty then s else s.enterElection

/-- A commit fails: both copies of everything stay as they were (R11). -/
def State.failCommit (s : State) (f : Nat × Nat × Nat) : State :=
  match s.commit with
  | none => s
  | some c =>
    let s := (s.partSheafs c).foldl (fun s d => s.setSheaf d.id { s.sheaf d.id with digests := [] }) s
    let s := { s with commit := none, ring := if c.ringed then { s.ring with commit := none } else s.ring }
    let s := (s.recordFail c.steading f.1 f.2.1 f.2.2).putF F.tikCmtStat_deferred 0 (bit c.deferred)
    let s := if c.align then s.mismatch (s.tickValues c).1 else s
    s.startAlign

/-- A sheaf's budget becomes that of its descriptor, in the staged copy too where nothing is staged there. -/
def State.takeBudget (s : State) (d : SheafDesc) : State :=
  let s := s.putF F.shfBudget_ns d.id d.budget
  if s.stagedAfter.contains (regKey R.shfBudget d.id) then s else s.putStagedF F.shfBudget_ns d.id d.budget

/-- An image becomes active: its sheafs take their epochs, their programs' members and their budgets (R58, R66, R237). The part, sheaf 0,
takes the budget of the image activated last: each image describes it, and the spec does not say which of several counts (DESIGN CHOICE,
log entry 54). -/
def State.activate (s : State) (j : Nat) : State :=
  if (s.prog j).state != .staged then s
  else
    let g := s.image j
    let s := s.modProg j (fun p => { p with state := .active })
    let s := ((s.prog j).stagesAt.map (fun e => e.1)).foldl (fun s c => s.putF F.celTick_idle c 1) s
    let s := if s.getF F.shfStatus_state 0 = 0 then s.putF F.shfStatus_state 0 1 else s
    let s := (g.sheafs.filter (fun d => d.id == 0)).foldl State.takeBudget s
    (g.sheafs.filter (fun d => d.id != 0)).foldl (fun s d =>
      let s := s.setSheaf d.id { inUse := true, job := j, desc := d, epoch := d.epoch, everUsed := true }
      let s := (s.setReg R.shfStatus d.id 0).takeBudget d
      ((s.putF F.shfStatus_state d.id 1).putF F.shfStatus_epoch d.id d.epoch).putF F.shfCap_degraded d.id 0) s

/-- A domain's divider and source start to ramp from what is in force (R402). -/
def State.startRamp (s : State) (d : Nat) : State :=
  let now : Ramp := tget {} s.ramps d
  let goalDiv := s.getF F.clkDom_div d
  let goalSrc := s.getF F.clkDom_src d
  let div := s.getF F.clkStat_div d
  let src := s.getF F.clkStat_src d
  let s := { s with ramps := tput {} s.ramps d { now with div := div, src := src, goalDiv := goalDiv, goalSrc := goalSrc } }
  s.putF F.clkStat_ramping d (bit (div != goalDiv || src != goalSrc))

/-- The credit that the Rake's channels have earned until now, in 10⁻⁹ rows: 786,432 rows in RAK_RATE.min minutes of wall time (R310). -/
def State.rakeGain (s : State) (now : Nat) : Nat := s.rakeDue + (now - s.rakeAt) * 786432 / (60 * max 1 (s.getF F.rakRate_min))

/-- What has been earned so far is kept: a new rate applies from here (R311). -/
def State.chargeRake (s : State) : State := { s with rakeDue := s.rakeGain s.now, rakeAt := s.now }

/-- Every change a commit carries applies at once (R30, R101, R524). -/
def State.applyCommit (s : State) (c : CommitSt) : State :=
  let after := s.stagedAfter
  let oldUs := s.getF F.tikPeriod_us
  let s := if c.captured.any (fun e => keyReg e.1 == some R.rakRate) then s.chargeRake else s
  let s := c.images.foldl State.activate s
  let s := c.captured.foldl (fun s e =>
    let s := s.putActiveKey e.1 e.2
    if after.contains e.1 then s else s.putStagedKey e.1 e.2) s
  let s := if s.getF F.tikPeriod_us = oldUs then s else s.putF F.tikRaise_ns 0 0
  let s := if c.captured.any (fun e => keyReg e.1 == some R.stdEccCfg) then s.rethresh else s
  let s := c.domains.foldl (fun s e => s.startRamp e.1) s
  let s := { s with commit := none, stagedAfter := [], ring := if c.ringed then { s.ring with commit := none } else s.ring }
  ((s.recordApplied (bit c.steading) c.deferred).showDiff).startAlign

/-! ## Checks done -/

/-- This part's submission to a ring commit: kept at the timekeeper, sent otherwise. -/
def State.submit (s : State) (c : CommitSt) (code : Nat) : State :=
  let own := s.getF F.lnkRing_own
  match s.ring.commit with
  | none => s
  | some r =>
    if s.onF F.lnkRing_is_keeper then
      { s with ring := { s.ring with commit := some { r with
        submitted := r.submitted.filter (fun x => x.part != own) ++ [{ part := own, code := code, value := s.tickValues c }] } } }
    else s.tell (s.ringWord .submission code r.target (some (s.tickValues c)))

/-- COMMIT_CHECKS_DONE: the checks end; a ring commit submits its outcome, any other commit waits for the next edge or
fails. -/
def opChecksDone (now : Nat) (s : State) : State :=
  let s := s.at_ now
  match s.commit with
  | none => s
  | some c =>
    if c.checked then s
    else match s.commitChecks c with
      | some f => if c.ringed then { s with commit := some { c with checked := true } }.submit c f.1 else s.failCommit f
      | none =>
        let s := { s with commit := some { c with checked := true } }
        if c.ringed then s.submit c 0 else s
def execCommitChecksDone (now : Nat) (s : State) : Host.Outcome State Fault Refusal := run (opChecksDone now) s

/-! ## Repairs and raises (R64, R93 to R95) -/

/-- A raise applies to the period in force, or is abandoned above 1,000 µs; the streams of the slow cell's program then
fail (R95). -/
def State.applyRaise (s : State) (cell : Option Nat) (us : Nat) (moved : Bool) : State :=
  let new := s.getF F.tikPeriod_us + us
  if 1000 < new then
    match cell.bind s.stageOf with
    | some (j, t) => (s.worsen t.sheaf 3).failProgram j 0x16
    | none => s
  else
    let s := (s.putF F.tikPeriod_us 0 new).putF F.tikRaise_ns 0 (s.getF F.tikRaise_ns + us * 1000)
    let s := if new < s.getStagedF F.tikPeriod_us then s
      else
        let s := s.putStagedF F.tikPeriod_us 0 new
        let s := if s.commit.isSome then { s with stagedAfter := (regKey R.tikPeriod 0 :: s.stagedAfter).eraseDups } else s
        s.putF F.tikStg_last 0 3
    (s.recordApplied 3 moved).showDiff

/-- How a program's tick ends: 0 valid, 1 invalidated for the first time, 2 a replay invalidated, 3 its streams fail. -/
def Program.verdict (p : Program) : Nat :=
  if p.failStreams.isSome then 3 else if !p.invalid then 0 else if p.replaying then 2 else 1

/-- A program replays at the coming edge: its tick was invalidated and it still has a stream to run. -/
def State.willReplay (s : State) (j : Nat) : Bool :=
  (s.prog j).state == .active && (s.prog j).replayNext && (s.streamsOf j).any (fun i => !(s.stream i).failed)

/-- A program whose outputs wait for other parts' reports will replay at the coming edge (R87, R88). -/
def State.heldReplays (s : State) (j : Nat) : Bool :=
  s.tick.heldJobs.contains j && (s.prog j).verdict == 1 && (s.streamsOf j).any (fun i => !(s.stream i).rows.isEmpty)

/-- A replay starts at the coming edge. -/
def State.replayDue (s : State) : Bool := (List.range 8).any (fun j => s.willReplay j || s.heldReplays j)

/-- Pending raises of an amount, with the edges left and whether a replay has moved them. -/
def AutoCommit.move (us edges : Nat) : AutoCommit → AutoCommit
  | .raise n c u m => if u = us then .raise edges c u true else .raise n c u m
  | .repair n c p m => .repair n c p m
  | .asked c u => .asked c u

/-- A raise of an amount that applies at the next edge. -/
def AutoCommit.raiseNext : AutoCommit → Option Nat
  | .raise n _ u _ => if n = 1 then some u else none
  | .repair _ _ _ _ => none
  | .asked _ _ => none

/-- The timekeeper moves the raise of an amount on from the next edge, for every part (R90, R94). -/
def State.moveRaise (s : State) (us : Nat) : State :=
  { s with autos := s.autos.map (AutoCommit.move us 2) }.tell (.edge { raise := some {
    part := BitVec.ofNat 10 s.own, us := BitVec.ofNat 10 us, target := some (BitVec.ofNat 64 (s.getF F.tikCount_count + 2)), moved := true } })

/-- A raise for the parts that share the tick, as the timekeeper announces it or as another part asks for it (R94): every part
makes it at the target edge, the one whose cell is slow for that cell. A part that replays there asks to have it moved, and the
timekeeper announces where to. -/
def State.heedRaise (s : State) (r : RaiseWord) : State :=
  match r.target with
  | none => if s.onF F.lnkRing_is_keeper then
      let n := s.getF F.tikCount_count + 1
      let s := { s with autos := s.autos ++ [AutoCommit.raise 1 none r.us.toNat false] }
      s.tell (.edge { raise := some { r with target := some (BitVec.ofNat 64 n) } })
    else s
  | some n =>
    let left := max 1 (n.toNat - s.getF F.tikCount_count)
    if r.moved then
      (if !s.onF F.lnkRing_is_keeper then { s with autos := s.autos.map (AutoCommit.move r.us.toNat left) }
       else if n.toNat = s.getF F.tikCount_count + 1 ∧ s.autos.any (fun a => a.raiseNext == some r.us.toNat) then s.moveRaise r.us.toNat else s)
    else
    let mine := if r.part.toNat = s.own then s.autos.find? (fun a => match a with
      | .asked _ u => u == r.us.toNat
      | _ => false) else none
    let cell := match mine with
      | some (.asked c _) => c
      | _ => none
    { s with autos := (match mine with
      | some a => s.autos.erase a
      | none => s.autos) ++ [AutoCommit.raise left cell r.us.toNat false] }

/-- The word by which this part announces a raise for an edge, or asks for one (log entry 52). -/
def State.raiseWord (s : State) (us : Nat) (target : Option Nat) : CtlWord :=
  .edge { raise := some { part := BitVec.ofNat 10 s.own, us := BitVec.ofNat 10 us, target := target.map (BitVec.ofNat 64) } }

/-- A raise is judged at its declaration: none above 1,000 µs (R95). The timekeeper announces it to every part that shares the tick;
another part asks the timekeeper for it (R94; log entry 52). -/
def State.declareRaise (s : State) (cell : Option Nat) (us : Nat) : State :=
  if 1000 < s.getF F.tikPeriod_us + us then s.applyRaise cell us false
  else
    if s.onF F.lnkRing_is_keeper then
      let n := 1 + bit s.replayDue
      { s with autos := s.autos ++ [AutoCommit.raise n cell us false] }.tell (s.raiseWord us (some (s.getF F.tikCount_count + n)))
    else { s with autos := s.autos ++ [AutoCommit.asked cell us] }.tell (s.raiseWord us none)

/-- A slow cell is to be replaced by a spare; where the policy or the cells allow none the period is raised by what it was late (R93,
R94). -/
def State.replaceSlow (s : State) (j c : Nat) (t : Stage) : State :=
  match s.spareOf j t c with
  | some p => { s with autos := s.autos ++ [AutoCommit.repair 2 c p false] }
  | none => s.declareRaise (some c) (max 1 (ceilDiv (s.cell c).slowBy 1000))

/-- A repair applies: the slow cell is demoted, the spare runs the stage. A spare that has gone meanwhile is sought anew. -/
def State.applyRepair (s : State) (c spare : Nat) (moved : Bool) : State :=
  match s.stageOf c with
  | none => s
  | some (j, t) =>
    if !s.usable spare || (s.cell spare).inReset then (if (s.cell c).retired then s.moveStage c else s.replaceSlow j c t)
    else
      let s := (s.modCell c (fun x => { x with demoted := true })).putF F.celTick_demoted c 1
      let s := if (s.cell c).retired then s else s.retireCell c 1
      let s := s.modProg j (fun p => { p with remap := p.remap.filter (fun e => e.1 != t.cell) ++ [(t.cell, spare)] })
      s.recordApplied 2 moved

/-- One edge of a repair or raise on its way; one that is asked for has no edge yet. -/
def AutoCommit.edges : AutoCommit → Nat
  | .repair n _ _ _ => n
  | .raise n _ _ _ => n
  | .asked _ _ => 1
def AutoCommit.tick : AutoCommit → AutoCommit
  | .repair n c p m => .repair (n - 1) c p m
  | .raise n c u m => .raise (n - 1) c u m
  | .asked c u => .asked c u
def AutoCommit.later : AutoCommit → AutoCommit
  | .repair _ c p _ => .repair 1 c p true
  | .raise _ c u _ => .raise 1 c u true
  | .asked c u => .asked c u
def State.applyAuto (s : State) (a : AutoCommit) : State :=
  match a with
  | .repair _ c p m => s.applyRepair c p m
  | .raise _ c u m => s.applyRaise c u m
  | .asked _ _ => s

/-! ## Replays and ring commits (R90, R100) -/

/-- This part's ring commit moves to a later edge. -/
def State.deferRinged (s : State) : State :=
  match s.commit with
  | some c => if c.ringed then { s with commit := some { c with deferred := true } }.putF F.tikCmtStat_deferred 0 1 else s
  | none => s

/-- The target edge of the ring commit moves on by one edge; the timekeeper announces it to every member. -/
def State.moveTarget (s : State) : State :=
  match s.ring.commit with
  | none => s
  | some r =>
    let s := { s with ring := { s.ring with commit := some { r with target := r.target + 1 } } }.deferRinged
    if s.onF F.lnkRing_is_keeper then s.tell (s.ringWord .announcement 0 (r.target + 1) none) else s

/-- The ring commit has passed and its target edge is n, which its words give by the low 28 bits. -/
def State.ringDueAt (s : State) (n : Nat) : Bool :=
  match s.ring.commit with
  | some r => r.result == some 0 && decide (r.target % 2 ^ 28 = n % 2 ^ 28)
  | none => false

/-- The raises that apply at the next edge, when this part replays there: the timekeeper moves them on every part, another part asks for it
(R90, R94; log entry 52). -/
def State.replayRaises (s : State) : State :=
  (s.autos.filterMap AutoCommit.raiseNext).eraseDups.foldl (fun s us =>
    if s.onF F.lnkRing_is_keeper then s.moveRaise us
    else s.tell (.edge { raise := some { part := BitVec.ofNat 10 s.own, us := BitVec.ofNat 10 us,
                                         target := some (BitVec.ofNat 64 (s.getF F.tikCount_count + 1)), moved := true } })) s

/-- A part that will replay at the target edge of the ring commit or of a raise has it deferred on every member: the timekeeper announces the
new target; another part tells it by a word that names the edge (R90; log entry 52). -/
def State.replayAhead (s : State) : State :=
  let next := s.getF F.tikCount_count + 1
  if !s.replayDue then s
  else
    let s := s.replayRaises
    if !s.ringDueAt next then s
    else if s.onF F.lnkRing_is_keeper then s.moveTarget
    else s.tell (s.ringWord .request 0 next none)

/-- The commits of one edge (step 2 of Load): repairs and raises whose edge has come, then a host or Steading commit, which
a repair, a raise or a replay at its edge defers (R90, R101, R102). -/
def State.commitsAtEdge (s : State) (replay : Bool) : State :=
  let autos := s.autos.map AutoCommit.tick
  let due := autos.filter (fun a => a.edges == 0)
  let s := { s with autos := if replay then autos.map (fun a => if a.edges == 0 then a.later else a) else autos.filter (fun a => a.edges != 0) }
  let s := if replay then s else due.foldl State.applyAuto s
  match s.commit with
  | none => s
  | some c =>
    if !c.checked then s
    else
      if c.ringed && !s.ringDueAt (s.getF F.tikCount_count) then s
      else if replay || !due.isEmpty then
        let s := { s with commit := some { c with deferred := true } }
        let s := if due.isEmpty || replay then s.putF F.tikCmtStat_deferred 0 1 else s
        let s := if c.ringed then s.moveTarget else s
        if replay then s
        else match s.commitChecks c with
          | some f => s.failCommit f
          | none => s
      else match s.chkAnswers c with
        | some f => s.failCommit f
        | none => s.applyCommit c

end Sys2Proof.Machine
end

