-- ==== Sys2Proof/Machine/Validate.lean ====
section
/-! DEFINITION. What a maintenance window does for streams: the validation point (R79, R85, R87 to R89, R214, R216, R219, R370,
R376 to R378, Table 8.8), copies on write (R218), prefix lookups and insertions (R226 to R231), and the rows of the coming
tick (R374, R375). -/

namespace Sys2Proof.Machine

/-! ## Pages of the tick -/

/-- Every page opened in an invalidated tick is released (R216, R219). -/
def State.dropNewPages (s : State) (j : Nat) : State :=
  (s.image j).lists.foldl (fun s l =>
    (s.streamsOf j).foldl (fun s i =>
      let t := s.stream i
      ((s.held l t).filter (fun h => (s.poolSlot (poolKey j l.cell l.entry (h.2.page % 2 ^ 24))).newInTick)).foldl (fun s h =>
        s.dropBlock j l t.slot h.1 s.nextEdge) s) s) s

/-- No page of some programs counts as opened in the tick any more. -/
def State.settlePools (s : State) (js : List Nat) : State :=
  let ks := (s.ctl.pools.filter (fun e => e.2.newInTick && js.contains (e.1 / poolKey 1 0 0 0))).map (fun e => e.1)
  { s with ctl := { s.ctl with pools := tmods {} s.ctl.pools ks (fun x => { x with newInTick := false }) } }

/-! ## Feeds -/

/-- Takes k tokens off a feed queue: what stays, and the feeds whose last token went. -/
def takeFed : Nat → List Feed → List Feed × List Feed
  | _, [] => ([], [])
  | k, f :: r =>
    let m := min k (f.count - f.consumed)
    let f := { f with consumed := f.consumed + m }
    let (rest, done) := takeFed (k - m) r
    if f.count ≤ f.consumed then (rest, f :: done) else (f :: rest, done)

/-- Fed tokens that wait in a stream's feed queue. -/
def Stream.fedLeft (t : Stream) : Nat := t.feeds.foldl (fun a f => a + (f.count - f.consumed)) 0

/-- Tokens of the queue of R549: the pending token, then fed tokens. -/
def Stream.queued (t : Stream) : Nat := bit t.pendingTok.isSome + t.fedLeft

/-- The first n tokens of the queue, read from the host buffers (R375). -/
def State.queueTokens (s : State) (t : Stream) (n : Nat) : List (BitVec 32) :=
  (t.pendingTok.toList ++ ((t.feeds.flatMap (fun f => (List.range (min n (f.count - f.consumed))).map (fun k =>
    f.addr + 4 * (f.consumed + k)))).map (fun a => BitVec.ofNat 32 (leNat (mread s.hostMem a 4))))).take n

/-- A feed to be completed, its stream, and the status. -/
abbrev FeedEnds := List (Nat × Feed × Nat)

/-- Completes feeds, each with the number of its tokens consumed (R376). -/
def State.endFeeds (s : State) (fs : FeedEnds) : State :=
  fs.foldl (fun s e => s.endFeed e.1 e.2.1 e.2.2) s

/-- A stream ends at a validation point; its feeds complete after the token entries (R370, R376). -/
def State.endInTick (s : State) (acc : FeedEnds) (i status : Nat) : State × FeedEnds :=
  let fs := (s.stream i).feeds
  ((s.endStream i status).modStream i (fun t => { t with feeds := [] }), acc ++ fs.map (fun f => (i, f, 9)))

/-! ## Block keys (R224, R227, R231) -/

/-- The parent key of a block of a stream. -/
def State.parentKey (s : State) (t : Stream) (b : Nat) : Word :=
  if b = 0 then rootKey (s.image t.job) else t.keys.getD (b - 1) 0

/-- Records the keys of blocks that a tick has completed; answers them, as stream and block. -/
def State.recordKeys (s : State) (i : Nat) : State × List (Nat × Nat) :=
  let t := s.stream i
  if t.kv.pfx = 0 then (s, [])
  else
    let first := t.keys.length
    let blocks := (List.range (t.length / 64)).filter (fun b => decide (first ≤ b))
    let s := blocks.foldl (fun s b =>
      let x := s.stream i
      let k := (blockKey (s.parentKey x b) ((x.tokens.drop (64 * b)).take 64)).1
      s.modStream i (fun x => { x with keys := x.keys ++ [k] })) s
    (s.putStreamRec i first, blocks.map (fun b => (i, b)))

/-! ## The validation point -/

/-- Forgets what a tick made for a stream. -/
def Stream.clearTick (t : Stream) : Stream :=
  { t with emit := [], accepted := 0, stopHit := false, noCand := none, overBudget := none, failStatus := none }

/-- What a validation holds while it goes through the streams: the state, the feeds to complete, the completed blocks, and the
streams outside the tick that fail with it. -/
structure Validated where
  s : State
  feeds : FeedEnds := []
  blocks : List (Nat × Nat) := []
  late : List (Nat × Nat) := []

/-- The outputs of a valid tick become valid for one of its streams (R79). A stream with no candidate for its token fails once
they are (R165). -/
def State.validStream (v : Validated) (i : Nat) : Validated :=
  let s := v.s
  let t := s.stream i
  let cut := fun (s : State) => s.leaveFrom i (ceilDiv t.length 64) s.nextEdge
  match t.overBudget with
  | some c =>
    let (s, fs) := (cut (s.bump F.kvpWin_fails c)).endInTick v.feeds i 0x12
    { v with s := s, feeds := fs }
  | none =>
    let own := t.rows.filter (fun r => r.kind != .draft)
    let acc := min t.accepted (t.kv.maxLen - t.length - own.length)
    let emit := if t.noCand.isSome then [] else t.emit.take (acc + 1)
    let len := t.length + own.length + (if emit.isEmpty then 0 else acc)
    let full := decide (t.kv.maxLen ≤ len)
    let stop := t.stopHit && emit.length == t.emit.length
    let (rest, done) := takeFed (own.filter (fun r => r.kind == .fed)).length t.feeds
    let s := s.modStream i (fun t => { t with
      length := len, tokens := t.tokens ++ own.map (fun r => r.token) ++ emit.take acc, pendingTok := emit.getLast?
      genEnd := if full then 2 else if stop then 1 else if own.any (fun r => r.kind == .fed) then 0 else t.genEnd
      feeds := if full then [] else rest, rows := [], stateSel := !t.stateSel })
    let s := s.leaveFrom i (ceilDiv len 64) s.nextEdge
    let (s, blocks) := s.recordKeys i
    let entry : Cqe := { s.streamCqe i with
      kind := 2, stop := stop, limit := full, count := emit.length, tokens := emit, sqHead := s.getF F.hstQstat_sq_head t.cq }
    let s := if !emit.isEmpty || (full && !t.sampled && t.noCand.isNone) then
        (s.streamEntry i entry).modStream i (fun t => { t with tokReserved := false })
      else s.dropTokenReservation i
    let fs := v.feeds ++ done.map (fun f => (i, f, 0)) ++ (if full then rest.map (fun f => (i, f, 9)) else [])
    let (s, fs) := match t.noCand with
      | some c => (s.bump F.celSamp_empty c).endInTick fs i 0x14
      | none => (s, fs)
    { v with s := s, blocks := v.blocks ++ blocks, feeds := fs }

/-- The validation point for one open stream, in ascending identifier. A stream that ends keeps no page beyond its length (R216). -/
def State.judgeStream (v : Validated) (i : Nat) : Validated :=
  let t := v.s.stream i
  let p := v.s.prog t.job
  let fail := fun (v : Validated) st => match v.s.endInTick v.feeds i st with
    | (s, fs) => { v with s := s, feeds := fs }
  let cut := { v with s := v.s.leaveFrom i (ceilDiv t.length 64) v.s.nextEdge }
  let out :=
    if t.ended then (if t.isOpen && p.verdict == 0 && v.s.ctl.pools.any (fun e => e.2.newInTick) then cut else v)
    else if !t.rows.isEmpty && p.verdict == 2 then fail v 0x11
    else match t.failStatus <|> p.failStreams with
      | some st => if t.rows.isEmpty then { v with late := v.late ++ [(i, st)] } else fail (if p.verdict = 0 then cut else v) st
      | none =>
        if t.rows.isEmpty || p.verdict != 0 then v else State.validStream v i
  { out with s := out.s.modStream i Stream.clearTick }

/-- The open streams of some programs, ascending. -/
def State.streamsIn (s : State) (js : List Nat) : List Nat := s.openStreams.filter (fun i => js.contains (s.stream i).job)

/-- The sheafs of parts of a program whose replay has failed, where a member has left the ring: no flit reaches it, and they fail
(R337). -/
def State.failAbsent (s : State) (j : Nat) : State :=
  if (s.prog j).verdict = 2 then
    ((s.image j).sheafs.filter (fun d => d.mtype == 2 && d.members.any s.absent)).foldl (fun s d => s.worsen d.id 3) s
  else s

/-- The validation point of some programs. Streams that were not in the tick fail last (R370 item 5). -/
def State.validate (s : State) (js : List Nat) : State × List (Nat × Nat) :=
  let s := js.foldl (fun s j =>
    let s := if (s.prog j).verdict = 0 then s.writeScores j else s
    if (s.prog j).verdict = 0 then s.switchSels j else s.dropNewPages j) s
  let v := (s.streamsIn js).foldl State.judgeStream { s := s }
  let s := js.foldl State.failAbsent v.s
  let s := js.foldl (fun s j => s.modProg j (fun p =>
    let again := p.verdict == 1
    { p with replayNext := again, badBefore := if again then p.badNow else [], badNow := [], failStreams := none })) s
  (v.late.foldl (fun s e => s.failStream e.1 e.2 true) ((s.settlePools js).endFeeds v.feeds), v.blocks)

/-- Cells whose SRAM word failed twice are retired and their stages move (R308). -/
def State.retireStuck (s : State) : State :=
  ((s.cells.filter (fun e => e.2.stuckSram)).map (fun e => e.1)).foldl (fun s c => (s.retireCell c 2).moveStage c) s

/-! ## Words of the prefix region (Table 10.3) -/

/-- Reads a range of the prefix region for a program: corrections are counted, uncorrectable words recorded; whether it fails. -/
def State.pfxTouch (s : State) (j o n : Nat) : State × Bool :=
  let p := s.pfxRegion
  let ws := (List.range (n / 8)).map (fun k => p.physOf (o + 8 * k) / 8)
  let (s, ok) := s.touchWords j ws ws
  (s, !ok)

/-! ## Copies on write (R218) -/

/-- Words that a copy needs: whether it may go on. One that cannot be corrected fails the stream, as a read or a write that does not reach
its words does (R304, R242). -/
def State.copyTouch (s : State) (i : Nat) (ws needs : List Nat) : State × Bool :=
  let j := (s.stream i).job
  match s.reachWords ws with
  | (s, false) => (s.failStream i 0x17 true, false)
  | (s, true) =>
    let s := (needs.filter (fun w => s.wordErr w == 1)).foldl (fun s w => s.softWord w) s
    match needs.filter (fun w => s.wordErr w == 2) with
    | [] => (s, true)
    | bad => ((bad.foldl (fun s w => s.ueRecord {
        reader := 7, outcome := 2 + (if s.isLost w then 0x80 else 0), unit := chanAt (8 * w), word := w, job := j }) s).failStream
          i 0x17 true, false)

/-- Writes bytes of a new page, but not over part of a word that cannot be corrected (R297). -/
def State.copyWrite (i : Nat) (acc : State × Bool) (a : Nat) (bs : List Byte) : State × Bool :=
  if !acc.2 then acc
  else match acc.1.copyTouch i (acc.1.wordsTouched a bs.length) (acc.1.partWords a bs.length) with
    | (s, true) => (s.writeDev a bs, true)
    | (s, false) => (s, false)

/-- Copies one page for a truncated stream: true when it is done. It waits for a held channel (R260) and for a free slot; a copy that meets
an uncorrectable word fails the stream. -/
def State.copyPage (s : State) (i : Nat) (k : CopyJob) : State × Bool :=
  let t := s.stream i
  match (s.image t.job).lists.find? (fun l => l.cell == k.cell && l.entry == k.entry && l.head == k.head) with
  | none => (s, true)
  | some l =>
    let at_ := l.e.tableAt t.slot l.head k.block
    match s.copyTouch i (s.wordsTouched at_ 16) (s.wordsTouched at_ 16) with
    | (s, false) => (s, false)
    | (s, true) =>
      let te := s.tableEntry l t.slot k.block
      let src := l.e.pageOf te.page
      let rb := recBytes t.kv.prec l.e.dh
      let parts := [(0, 64), (64, k.keep * rb), (64 + 64 * rb, k.keep * rb)]
      if te.page = noPage then (s, true)
      else if parts.any (fun p => s.heldInWay (src + p.1) p.2) then (s, false)
      else
        let ws := (parts.flatMap (fun p => s.wordsTouched (src + p.1) p.2)).eraseDups
        match s.copyTouch i ws ws with
        | (s, false) => (s, false)
        | (s, true) => match s.allocPage t.job l t.kv.prec with
          | (s, none) => (s, false)
          | (s, some page) =>
            let key := poolKey t.job l.cell l.entry (page % 2 ^ 24)
            let s := s.setPoolSlot key { s.poolSlot key with newInTick := false }
            let hd := s.readDev src 64
            let dst := l.e.pageOf page
            let head := pageHeader page l k.block t.kv.prec (fieldAt hd 0x10 2) (fieldAt hd 0x12 2) 1 i t.epoch
            let acc := (parts.drop 1).foldl (fun acc p => State.copyWrite i acc (dst + p.1) (acc.1.readDev (src + p.1) p.2))
              (State.copyWrite i (s, true) dst head)
            match State.copyWrite i acc at_ ({ te with page := page } : TableEntry).bytes with
            | (s, false) => (s.freeSlot t.job l page s.nextEdge, false)
            | (s, true) => ((s.dropRef t.job l te.page s.nextEdge).bump F.kvpDrop_copies (s.runnerOf t.job l.cell), true)

/-- The copies that a stream still waits for; when the last is made, the record of the source block has a holder fewer (R226,
R232). A stream that has failed keeps them as they are: its block leaves the set when it closes. -/
def State.copyPages (s : State) (i : Nat) : State :=
  match (s.stream i).copies with
  | [] => s
  | k :: _ =>
    let (s, es) := s.blockEntries i k.block
    let set := s.setOf i k.block es
    let s := (s.stream i).copies.foldl (fun s k =>
      if (s.stream i).ended then s
      else
        let (s, done) := s.copyPage i k
        if done then s.modStream i (fun t => { t with copies := t.copies.filter (fun x => x != k) }) else s) s
    match set with
    | some p => if (s.stream i).copies.isEmpty && s.ctl.pfx.contains p then s.putPfx { p with refs := p.refs - 1 } else s
    | none => s

/-! ## Prefix lookups (R228 to R230) -/

/-- A close command that the stream's function gave waits for the edge. -/
def State.closing (s : State) (i : Nat) : Bool :=
  let x := s.stream i
  s.ctl.waiting.any (fun w => match w with
    | .close _ fn k e => k == i && fn == x.fn && e == x.epoch
    | .closeSilent k => k == i
    | _ => false)

/-- A stream may be given rows: it has not ended, waits for no copy, closes at no edge yet, and holds no rows of a tick to
be replayed. -/
def State.mayRun (s : State) (i : Nat) : Bool :=
  let t := s.stream i
  t.isOpen && !t.failed && !t.ended && t.copies.isEmpty && t.rows.isEmpty && !s.closing i

/-- A stream is eligible for a lookup: its length is a whole number of blocks and its queue holds a block and one token more;
no attached block carries a length past max_len (R377), and none is looked up before a copy or a replay, nor for a stream that Keep has
restored before its pair is enabled (R442). -/
def State.eligible (s : State) (i : Nat) : Bool :=
  let t := s.stream i
  t.isOpen && !t.failed && !t.ended && !(t.waitsPair && !s.pairOn t.cq) && t.copies.isEmpty && t.rows.isEmpty && t.kv.pfx != 0 && !s.ctl.pfxLost && s.pfxMib != 0 &&
  t.genEnd != 2 && t.length % 64 == 0 && decide (65 ≤ t.queued) && decide (t.length + 64 ≤ t.kv.maxLen) && t.missAt != some t.length

/-- A hit: the block is attached. A length that reaches max_len ends generation with an entry of count 0 (R377). -/
def State.attach (s : State) (i : Nat) (p : PfxEntry) (toks : List (BitVec 32)) : State :=
  let t := s.stream i
  let b := t.length / 64
  let s := s.putPfx { p with refs := p.refs + 1, lastHit := s.getF F.tikCount_count % 2 ^ 32 }
  let s := ((s.image t.job).lists.zip p.pages).foldl (fun s x =>
    let s := s.setPageRefs t.job x.1.e x.2.toNat (p.refs + 1)
    let s := s.setTableEntry t.job x.1 t.slot b { page := x.2.toNat, sel := 0, live := 2 ^ 64 - 1 }
    s.setScores t.job x.1 t.slot 0 b (List.replicate 64 0)) s
  let (rest, done) := takeFed (64 - bit t.pendingTok.isSome) t.feeds
  let full := decide (t.kv.maxLen ≤ t.length + 64)
  let s := s.modStream i (fun t => { t with
    length := t.length + 64, tokens := t.tokens ++ toks, keys := t.keys ++ [p.key], pendingTok := none
    feeds := if full then [] else rest, missAt := none, genEnd := if full then 2 else 0 })
  let s := ((s.putStreamRec i b).bump F.pfxLook_hits 0)
  let s := if full then (s.reserve t.cq 1).streamEntry i { s.streamCqe i with
    kind := 2, limit := true, sqHead := s.getF F.hstQstat_sq_head t.cq } else s
  s.endFeeds (done.map (fun f => (i, f, 0)) ++ (if full then rest.map (fun f => (i, f, 9)) else []))

/-- One lookup: whether it is a hit. -/
def State.pfxLookup (s : State) (i : Nat) : State × Bool :=
  let t := s.stream i
  let toks := s.queueTokens t 64
  let (key, check) := blockKey (s.parentKey t (t.length / 64)) toks
  let s := s.bump F.pfxLook_lookups 0
  let (s, bad) := s.pfxTouch t.job (bucketOf key * 256) 256
  let miss := fun (s : State) (f : Fld) => ((s.bump f 0).modStream i (fun t => { t with missAt := some t.length }), false)
  match (if bad then none else s.ctl.pfx.find? (fun p => p.key == key)) with
  | none => miss s F.pfxMiss_absent
  | some p =>
    if p.check ≠ check then miss s F.pfxMiss_check
    else if p.job ≠ t.job ∨ p.jobEpoch ≠ t.jobEpoch ∨ p.prec ≠ t.kv.prec then miss s F.pfxMiss_prec
    else
      let (s, bad) := s.pfxTouch t.job (p.record * 64) (recordBytes p.pages.length)
      if bad then miss (s.dropPfx p s.nextEdge) F.pfxMiss_absent
      else if t.kv.pfx = 2 ∧ p.tokens ≠ toks then miss s F.pfxMiss_verify
      else if (s.image t.job).lists.any (fun l => decide (t.budgetOf ≤ (s.held l t).length)) ∨ 65535 ≤ p.refs then
        miss s F.pfxMiss_budget
      else (s.attach i p toks, true)

/-- The lookups of one stream, at most n: a hit makes it eligible again. -/
def State.lookups (i : Nat) : Nat → State → State × Nat
  | 0, s => (s, 0)
  | n + 1, s =>
    if s.eligible i then
      match s.pfxLookup i with
      | (s, true) => let (s, k) := State.lookups i n s
                     (s, k + 1)
      | (s, false) => (s, 1)
    else (s, 0)

/-- The lookups of a window for some programs: 64 for each stream and 256 in all. -/
def State.allLookups (s : State) (js : List Nat) : State :=
  ((s.streamsIn js).foldl (fun (a : State × Nat) i =>
    let (s, k) := State.lookups i (min 64 (256 - a.2)) a.1
    (s, a.2 + k)) (s, 0)).1

/-! ## Insertions (R231) -/

/-- Reclaims sets with refs 0, oldest last hit first, until n bytes fit; at most f of them. -/
def State.makeRoom (n : Nat) : Nat → State → State
  | 0, s => s
  | f + 1, s =>
    if (s.pfxFit n).isSome then s
    else match sortBy (fun p => p.lastHit) (s.ctl.pfx.filter (fun p => p.refs == 0)) with
      | [] => s
      | p :: _ => State.makeRoom n f ((s.dropPfx p s.nextEdge).bump F.pfxIns_reclaimed 0)

/-- Inserts the block that a stream has completed. -/
def State.pfxInsert (s : State) (e : Nat × Nat) : State :=
  let (i, b) := e
  let t := s.stream i
  let toks := (t.tokens.drop (64 * b)).take 64
  let (key, check) := blockKey (s.parentKey t b) toks
  if s.ctl.pfxLost || s.pfxMib == 0 || !t.isOpen then s
  else
    let skip := fun (s : State) => s.bump F.pfxIns_skipped 0
    let (s, es) := s.blockEntries i b
    let pages := es.filterMap (fun e => e.2)
    let (s, bad) := s.pfxTouch t.job (bucketOf key * 256) 256
    if bad || pages.length != es.length then skip s
    else if pages.contains noPage then s
    else if s.ctl.pfx.any (fun p => p.key == key) then s
    else
      let mine := s.ctl.pfx.filter (fun p => bucketOf p.key == bucketOf key)
      let old := (sortBy (fun p => p.lastHit) (mine.filter (fun p => p.refs == 0))).head?
      let (s, way) := match (List.range 8).find? (fun w => !mine.any (fun p => p.way == w)), old with
        | some w, _ => (s, some w)
        | none, some p => (s.dropPfx p s.nextEdge, some p.way)
        | none, none => (s, none)
      match way with
      | none => skip s
      | some w =>
        let n := recordBytes pages.length
        let s := State.makeRoom n s.ctl.pfx.length s
        match s.pfxFit n with
        | none => skip s
        | some o =>
          (s.putPfx {
            key := key, check := check, record := o / 64, way := w, job := t.job, jobEpoch := t.jobEpoch, prec := t.kv.prec,
            lastHit := s.getF F.tikCount_count % 2 ^ 32, block := b, refs := 1, tokens := toks,
            pages := pages.map (BitVec.ofNat 32) }).bump F.pfxIns_inserts 0

/-- PFX_CTL.flush: every entry with refs 0 is removed (R232). -/
def State.flushPfx (s : State) : State :=
  if s.onF F.pfxCtl_flush then
    ((s.ctl.pfx.filter (fun p => p.refs == 0)).foldl (fun s p => s.dropPfx p s.nextEdge) s).putF F.pfxCtl_flush 0 0
  else s

/-! ## Row assignment (R374, R375) -/

/-- The token rows of a program for a tick. -/
def Image.tokenRows (g : Image) : Nat :=
  match g.stages.map Stage.tMax with
  | [] => 0
  | x :: r => r.foldl min x

/-- Gives n rows to a stream: its pending token, fed tokens, and the places of its drafts. -/
def State.giveRows (s : State) (i n : Nat) : State :=
  let t := s.stream i
  let pend := bit t.pendingTok.isSome
  let gen := t.fedLeft == 0
  let toks := s.queueTokens t (if gen then 1 else n)
  let rows := (List.range n).map (fun k => ({
    pos := t.length + k, token := toks.getD k 0
    kind := if k < pend then .pending else if gen then .draft else .fed } : TokRow))
  (s.reserve t.cq 1).modStream i (fun t => { t with
    rows := rows, tokReserved := true, sampled := gen || decide (t.fedLeft + pend ≤ n) })

/-- Gives the program's rows to its streams for the coming tick: generating streams first, then feeding ones. A stream restored
after Keep gets none until its pair is enabled again (R442). -/
def State.assignRows (s : State) (j : Nat) : State :=
  let p := s.prog j
  if p.replayNext then s
  else
    let open_ := (s.streamsOf j).filter (fun i => s.mayRun i && !((s.stream i).waitsPair && !s.pairOn (s.stream i).cq))
    let order := match p.lastRow with
      | none => open_
      | some k => open_.filter (fun i => decide (k < i)) ++ open_.filter (fun i => decide (i ≤ k))
    let isGen := fun i => let t := s.stream i
                          t.pendingTok.isSome && t.fedLeft == 0 && t.genEnd == 0
    let isFed := fun i => let t := s.stream i
                          decide (0 < t.fedLeft) && t.genEnd != 2
    ((order.filter isGen ++ order.filter isFed).foldl (fun (a : State × Nat) i =>
      let (s, free) := a
      let t := s.stream i
      let n := if isGen i then (if free < 1 + t.samp.drafts then 0 else 1 + t.samp.drafts)
        else min (min t.queued (t.kv.maxLen - t.length)) free
      if n = 0 then a
      else if !s.cqRoom t.cq 1 then (s.bump F.hstQcnt_cq_stall t.cq, free)
      else ((s.giveRows i n).modProg j (fun p => { p with lastRow := some i }), free - n)) (s, p.img.tokenRows)).1

end Sys2Proof.Machine
end

