-- ==== Sys2Proof/Machine/Edge.lean ====
section
/-! DEFINITION. The next edge (R83 to R87): when it falls, deferral and stretch, overruns, the timekeeper's collection of
finish times, and what a part does with an announcement. -/

namespace Sys2Proof.Machine

/-- The longest tick (R74), and an instant from the edge rounded up to 100 ns. -/
def State.longest (s : State) : Nat := s.period + s.guardNs
def up100 (n : Nat) : Nat := ceilDiv n 100 * 100

/-- Whether this part is the timekeeper. -/
def State.isKeeper (s : State) : Bool := s.onF F.lnkRing_is_keeper

/-- TIK_LATE of a tick that overruns, as the edge that ends it will write it (R84, Table 16.7). -/
def State.overrunLate (s : State) : Word :=
  let w := fieldPut (s.reg R.tikLate 0) 0 32 s.guardNs
  fieldPut w 48 16 (min (fieldGet w 48 16 + 1) 65535)

/-- The lowest sheaf of a program that is not a sheaf of parts. -/
def Image.lowestSheaf (g : Image) : Nat :=
  match sortBy id ((g.sheafs.filter (fun d => d.id != 0 && d.mtype != 2)).map (fun d => d.id)) with
  | [] => 0
  | i :: _ => i

/-- An overrun invalidates the tick for a program (R87). -/
def State.overrunJob (s : State) (j : Nat) : State :=
  if s.tick.overrunJobs.contains j then s
  else
    let s := { s with tick := { s.tick with overrunJobs := s.tick.overrunJobs ++ [j] } }
    ((s.invalidate j).errsum (s.sheafsOfJob j) 4).raise 0x10 9 (s.image j).lowestSheaf s.overrunLate

/-- The active programs that have one of some sheafs of parts. -/
def State.jobsNamed (s : State) (ids : List Nat) : List Nat :=
  s.activeJobs.filter (fun j => (s.image j).sheafs.any (fun d => d.mtype == 2 && ids.contains d.id))

/-- An announcement takes hold on this part: a deferral, a new edge, an overrun, a pause or its end, a raise. -/
def State.heedEdge (s : State) (w : EdgeWord) : State :=
  let s := match w.raise with
    | some r => (s.heedRaise r).replayAhead
    | none => s
  let s := { s with ring := { s.ring with
    pauseNext := s.ring.pauseNext || w.pause, pauseEnds := s.ring.pauseEnds || w.pauseEnds } }
  if w.overrun then
    let ids := w.sheafs.map BitVec.toNat
    let s := { s with tick := { s.tick with deferred := true, newEdge := some s.longest, overrun := true, namedSheafs := ids } }
    ((s.jobsNamed ids).foldl State.overrunJob s).replayAhead
  else if w.newEdge = 0 then (if w.pause || w.pauseEnds || w.raise.isSome then s else { s with tick := { s.tick with deferred := true } })
  else { s with tick := { s.tick with deferred := true, newEdge := some (min (100 * w.newEdge.toNat) s.longest) } }

/-- The timekeeper announces, to every part and to itself. -/
def State.announce (s : State) (w : EdgeWord) : State := (s.tell (.edge w)).heedEdge w

/-- The late parts whose reports the timekeeper awaits: alone on the ring it waits for no other part (R71). -/
def State.lateOnes (s : State) : List Nat :=
  if s.takePorts.isEmpty then s.tick.lateParts.filter (fun p => p == s.own) else s.tick.lateParts

/-- Every late notice of this tick has reached the timekeeper: 900 ns after D, where other parts share the tick (R83). -/
def State.noticesIn (s : State) : Bool := s.takePorts.isEmpty || decide (s.tick.edgeAt + s.deadline + 900 ≤ s.now)

/-- The timekeeper holds a late notice of a part: it announces once that the edge is deferred. -/
def State.lateFrom (s : State) (part : Nat) : State :=
  let first := s.tick.lateParts.isEmpty
  let s := { s with tick := { s.tick with
    lateParts := if s.tick.lateParts.contains part then s.tick.lateParts else s.tick.lateParts ++ [part] } }
  if first then s.announce {} else s

/-- With every late notice in and a report from every late part, the timekeeper sets the new edge: the latest finish and a window, or the
longest tick after an overrun. -/
def State.settleEdge (s : State) : State :=
  let t := s.tick
  let ps := s.lateOnes
  if !s.isKeeper || !s.noticesIn || t.newEdge.isSome || ps.isEmpty ||
      !ps.all (fun p => t.reports.contains p || t.finishes.any (fun f => f.1 == p)) then s
  else if !t.reports.isEmpty then
    s.announce { newEdge := BitVec.ofNat 16 (ceilDiv s.longest 100), overrun := true, sheafs := t.namedSheafs.map (BitVec.ofNat 12) }
  else
    s.announce { newEdge := BitVec.ofNat 16 (ceilDiv (maxList (t.finishes.map (fun f => f.2)) + s.windowNs) 100) }

/-- A report reaches the timekeeper: a part's finish time from the edge, or its overrun with its sheafs of parts. -/
def State.reportFrom (s : State) (part ns : Nat) (overrun : Bool) (sheafs : List Nat) : State :=
  let t := s.tick
  let t := { t with lateParts := if t.lateParts.contains part then t.lateParts else t.lateParts ++ [part] }
  let t := if overrun then { t with reports := t.reports ++ [part], namedSheafs := (t.namedSheafs ++ sheafs).eraseDups }
    else { t with finishes := t.finishes.filter (fun f => f.1 != part) ++ [(part, ns)] }
  { s with tick := t }.settleEdge

/-- This part reports. -/
def State.sendReport (s : State) (ns : Nat) (overrun : Bool) (sheafs : List Nat) : State :=
  let s := { s with tick := { s.tick with lateSent := false } }
  if s.isKeeper then s.reportFrom (s.getF F.lnkRing_own) ns overrun sheafs else s.tell (.finish ns overrun sheafs)

/-! ## The rows -/

/-- RUN_DEADLINE: at D a part with an unfinished cell sends a late notice (R83). -/
def opRunDeadline (now : Nat) (s : State) : State :=
  let s := s.at_ now
  if !s.tick.running || s.tick.windowOpen || s.tick.lateSent || s.unfinished.isEmpty || decide (now < s.tick.edgeAt + s.deadline) then s
  else
    let s := { s with tick := { s.tick with lateSent := true } }
    if s.isKeeper then s.lateFrom (s.getF F.lnkRing_own) else s.tell (.late (BitVec.ofNat 32 (s.getF F.tikCount_count)))
def execRunDeadline (now : Nat) (s : State) : Host.Outcome State Fault Refusal := run (opRunDeadline now) s

/-- LATE_NOTICE: the timekeeper notes it, any other part carries it on. -/
def execLateNotice (port : BitVec 3) (part : BitVec 10) (tick : BitVec 32) (s : State) : Host.Outcome State Fault Refusal :=
  run (fun s => s.onWord port.toNat part.toNat (.late tick) (fun s =>
    if s.isKeeper && decide (tick.toNat = s.getF F.tikCount_count % 2 ^ 32) then s.lateFrom part.toNat else s)) s

end Sys2Proof.Machine
end

