-- ==== Sys2Proof/Machine/Window.lean ====
section
/-! DEFINITION. The maintenance window (R78, Table 8.7): the validation point, refreshes owed, bonds, retrains, margining,
the Rake (R309 to R312), die-to-die lanes, prefix work, the governor, and the rows of the coming tick. -/

namespace Sys2Proof.Machine

/-! ## Channels (Table 8.7) -/

/-- A flail operation runs in a bank. -/
def Chan.working (x : Chan) (b : Nat) : Bool := x.flails.any (fun f => f.running && f.banks.contains b)

/-- Owed refreshes are paid, but not into a running flail operation (R288). -/
def State.payRefresh (s : State) : State :=
  ((s.chans.filter (fun e => !e.2.owed.isEmpty && !e.2.selfRefresh)).map (fun e => e.1)).foldl (fun s c =>
    let left := (s.chan c).owed.filter (fun o => (s.chan c).working o.1)
    ((s.modChan c (fun x => { x with owed := left })).putF F.vccStat_owed c (left.foldl (fun m o => max m o.2) 0)).startFlails c) s

/-- The new spare bonds of every channel. -/
def State.assignBonds (s : State) : State :=
  ((s.chans.filter (fun e => !e.2.newBonds.isEmpty)).map (fun e => e.1)).foldl (fun s c =>
    let ws := (s.chan c).newBonds
    ws.foldl (fun s w => s.assignBond c w) (s.modChan c (fun x => { x with newBonds := [] }))) s

/-- Channels that have asked for a retrain and may have one. -/
def State.wantRetrain (s : State) : List Nat :=
  (s.chans.filter (fun e => e.2.want && e.2.retrainStart.isNone)).map (fun e => e.1) |>.filter (fun c =>
    !([vccRetired, vccInReset].contains (s.chanState c)))

/-- A retrain of a channel may start in a window with `left` ns: it is urgent, it fits, or it has waited 16 windows (R259). -/
def State.retrainFits (s : State) (left c : Nat) : Bool :=
  (s.chan c).wantUrgent || decide ((s.chan c).lastDur + 500 ≤ left) || decide (16 ≤ (s.chan c).waited)

/-- The retrain of one stack: at most one channel, the one that has waited longest, the lower number among equals. -/
def State.retrainStack (s : State) (want : List Nat) (left now k : Nat) : State :=
  let mine := want.filter (fun c => stackOf c == k)
  let busy := (chansOfStack k).any (fun c => (s.chan c).retrainStart.isSome)
  let able := if busy then [] else mine.filter (s.retrainFits left)
  let best := able.foldl (fun (b : Option Nat) c => match b with
    | none => some c
    | some d => if (s.chan d).waited < (s.chan c).waited then some c else some d) none
  let s := (mine.filter (fun c => some c != best)).foldl (fun s c => s.modChan c (fun x => { x with waited := x.waited + 1 })) s
  match best with
  | none => s
  | some c =>
    let s := s.modChan c (fun x => { x with want := false, wantUrgent := false, waited := 0, retrainStart := some now })
    (s.putF F.vccTrain_pending c 0).putF F.vccTrain_urgent c 0

/-- One margining step of every sweep on a channel that does not retrain and is not held. -/
def State.marginSteps (s : State) : State :=
  (allCells.filter (fun c => s.onF F.vccMargin_req c && (s.chan c).retrainStart.isNone && s.chanState c != vccHeld)).foldl
    State.marginStep s

/-! ## The Rake (R309 to R312, Table 10.4) -/

/-- The SCRUB of a row. -/
def scrubCmd (bank row : Nat) : FlailCmd :=
  { op := 5, bank := bank, banks := [bank], running := true,
    words := { w0 := BitVec.ofNat 64 (5 + bank % 16 * 2 ^ 4 + bank / 16 * 2 ^ 8 + row * 2 ^ 12) } }

/-- The row of a channel's pass by number, in ascending offset: bank in the channel and row. -/
def passRow (n : Nat) : Nat × Nat := (n / 65536 % 12 * 16 + n % 16, n / 16 % 4096)

/-- A row's copy to its spare row: words that can be corrected are, and the others enter the lost-word table (R306). A row whose lost
words have come to be more than the table has room for stays in place, listed for repair. -/
def State.copyRow (s : State) (c : Nat) (r : Nat × Nat × Nat) : State :=
  let ws := (List.range 256).map (fun i => rowAddr c r.1 r.2.1 / 8 + i)
  let s := (ws.filter (fun w => s.wordErr w == 1)).foldl (fun s w =>
    let b := s.errBit w
    { (s.corrected (.chan c)).rakeFixed w b with loftErr := tput 0 s.loftErr w 0 }) s
  let bad := ws.filter (fun w => s.wordErr w == 2 && !s.isLost w)
  let s := s.modChan c (fun x => { x with copyRows := x.copyRows.filter (fun q => q != r) })
  if 64 < (s.chan c).lostWords.length + bad.length then
    ((s.modChan c (fun x => { x with
      remaps := x.remaps.filter (fun q => q != r), remapped := x.remapped - 1, listed := x.listed ++ [(r.1, r.2.1)] })).raise
      0x24 2 c (BitVec.ofNat 64 (r.1 + r.2.1 * 256 + 2 ^ 20))).goOn
  else
    let s := bad.foldl (fun s w => { s.metWord .rake w with loftErr := tput 0 s.loftErr w 0 }) s
    (s.modChan c (fun x => { x with lostWords := x.lostWords ++ bad })).goOn

/-- A bank still has work that came before a SCRUB of the Rake: a flail command or an access in its queue (R287). -/
def State.bankBusy (s : State) (c b : Nat) : Bool :=
  s.flailAhead c b || s.accWait.any (fun a => (s.localRanges a.addr a.bytes).any (fun r => r.1 == c && rangeInBank r.2.1 r.2.2 b))

/-- One SCRUB by the Rake within a window; in a bank that has other work it joins the queue (R287). -/
def State.rakeRow (s : State) (c bank row : Nat) : State :=
  let f := scrubCmd bank row
  if !s.bankBusy c bank then (s.scrubRow c f).bump F.fllOps_scrub c
  else (s.enqueue c { f with running := false }).startFlails c

/-- A SCRUB of a row by the Rake is in the bank's queue already. -/
def State.scrubQueued (s : State) (c bank row : Nat) : Bool :=
  (s.chan c).flails.any (fun f => f.op == 5 && !f.port && f.words == (scrubCmd bank row).words)

/-- The credit of one row, in 10⁻⁹ rows. -/
def rakeUnit : Nat := 1000000000

/-- The pass rows that a channel's credit pays for, at most n. -/
def State.rakePass (c : Nat) : Nat → State → State
  | 0, s => s
  | n + 1, s =>
    let x := s.chan c
    let (bank, row) := passRow x.rakePos
    if x.rakeCredit < rakeUnit then s
    else State.rakePass c n ((s.modChan c (fun x => { x with rakeCredit := x.rakeCredit - rakeUnit, rakePos := x.rakePos + 1 })).rakeRow c bank row)

/-- The Rake's step of one channel in a window, with `gain` credit earned since the last and `left` ns. A channel that has not been
trained yet earns none (R309, R311). -/
def State.rakeChannel (s : State) (gain left c : Nat) : State :=
  let st := s.chanState c
  if st = vccRetired ∨ s.onF F.vccCtl_reset c then s.modChan c (fun x => { x with rakeCredit := 0, rakeBehind := false })
  else if st = 0 then s
  else
    let s := s.modChan c (fun x => { x with rakeCredit := x.rakeCredit + gain })
    let x := s.chan c
    let used := if x.retrainStart.isSome then x.lastDur else 0
    let room := (left - used) * 10 / 974
    let s := if st = vccHeld ∨ (s.stackSt (stackOf c)).hotHold ∨ s.chanErrs c then s
      else
        let s := ((x.copyRows.filter (fun r => !x.working r.1)).take room).foldl (fun s r => s.copyRow c r) s
        let room := room - x.copyRows.length
        let rows := (x.scrubQ.filter (fun e => !s.scrubQueued c e.1 e.2)).take room
        let s := rows.foldl (fun s e => s.rakeRow c e.1 e.2) s
        State.rakePass c (min (room - rows.length) ((s.chan c).rakeCredit / rakeUnit)) s
    let x := s.chan c
    if 4096 * rakeUnit < x.rakeCredit ∧ !x.rakeBehind then
      ((s.modChan c (fun x => { x with rakeBehind := true })).bump F.rakStat_behind 0).raise 0x22 2 c (BitVec.ofNat 64 (x.rakeCredit / rakeUnit))
    else if x.rakeCredit < rakeUnit then s.modChan c (fun x => { x with rakeBehind := false }) else s

/-- The Rake's step in a window: credit runs in wall time (R310). -/
def State.rakeStep (s : State) (left now : Nat) : State :=
  allCells.foldl (fun t c => t.rakeChannel (s.rakeGain now) left c) { s with rakeAt := now, rakeDue := 0 }

/-- The channels' work of a window, in the order of Table 8.7. -/
def State.channelWork (s : State) (now : Nat) : State :=
  let left := s.windowLeft now
  let want := s.wantRetrain
  let s := s.payRefresh.assignBonds
  let s := (List.range 32).foldl (fun s k => s.retrainStack want left now k) s
  s.marginSteps.rakeStep left now

/-! ## MAINTENANCE_WINDOW -/

/-- The stream work of a window for some programs: copies on write, insertions of the blocks their tick completed. -/
def State.streamWork (s : State) (js : List Nat) (blocks : List (Nat × Nat)) : State :=
  blocks.foldl State.pfxInsert ((s.streamsIn js).foldl State.copyPages s).flushPfx

/-- The lookups and the rows of the coming tick, for all programs in one, once every program has had its validation point (R228, R374). -/
def State.nextRows (s : State) : State :=
  if !s.tick.heldJobs.isEmpty then s
  else s.activeJobs.foldl State.assignRows (s.allLookups s.activeJobs)

/-- No overrun report can name a program of this part any more: the next edge is announced, or the tick is not deferred and an
announcement of that would have come (R83). -/
def State.noReports (s : State) : Bool :=
  s.tick.newEdge.isSome || (!s.tick.deferred && decide (s.tick.edgeAt + s.deadline + 1800 ≤ s.now))

/-- The programs whose outputs wait to become valid: those with sheafs of parts, while other parts may still report an overrun
that names them, which would keep their tokens from being written at all (R79, R87; log entry 28). -/
def State.mayBeNamed (s : State) : List Nat :=
  if s.onRing && !s.noReports then s.activeJobs.filter (fun j => (s.image j).sheafs.any (fun d => d.mtype == 2)) else []

/-- The programs that waited for the reports of other parts have their validation point: as soon as none can come, at the edge at the
latest. -/
def State.settleHeld (s : State) : State :=
  let js := s.tick.heldJobs
  if js.isEmpty then s
  else
    let (s, blocks) := s.validate js
    let s := { s with tick := { s.tick with heldJobs := [] } }.streamWork js blocks
    s.nextRows.replayAhead.signalWritten

/-- The held programs have their validation point if no report can come. -/
def State.settleIfClear (s : State) : State := if s.noReports then s.settleHeld else s

/-- The window opens when the part's last cell has finished, and not before D (R78, R79). -/
def opWindow (now : Nat) (gov : Option GovIn) (s : State) : State :=
  let s := s.at_ now
  if !s.tick.running || s.tick.windowOpen || !s.unfinished.isEmpty || decide (now < s.tick.edgeAt + s.deadline) then s
  else
    let held := s.mayBeNamed
    let js := s.activeJobs.filter (fun j => !held.contains j)
    let (s, blocks) := s.validate js
    let s := { s with tick := { s.tick with windowOpen := true, heldJobs := held } }
    let s := s.retireStuck.channelWork now
    let s := (List.range 8).foldl State.spareTheLanes s
    let s := s.streamWork js blocks
    let s := match gov with
      | some g => s.govern g
      | none => s
    let s := s.nextRows.replayAhead.signalWritten
    (if s.tick.lateSent then s.sendReport (now - s.tick.edgeAt) false [] else s).settleEdge.settleIfClear

/-- MAINTENANCE_WINDOW. -/
def execMaintenanceWindow (now : Nat) (gov : Option GovIn) (s : State) : Host.Outcome State Fault Refusal :=
  runIf ((gov.map GovInOk).getD true) (opWindow now gov) s

end Sys2Proof.Machine
end

