-- ==== Sys2Proof/Machine/Stages.lean ====
section
/-! DEFINITION. The ends of the stages of a start (R427): the targets of the firmware broadcast (R433, R434), what ends stages 3 and 5,
and how the part becomes ready (R443). -/

namespace Sys2Proof.Machine

/-! ## Targets of the broadcast -/

/-- The number of a target, and whether a broadcast's targets field names it (Table 14.8). -/
def targetNo : Target → Nat
  | .cell c => c.toNat
  | .controller c => 1024 + c.toNat
def targetNamed (t : Target) (targets : Byte) : Bool :=
  match t with
  | .cell c => targets.getLsbD (kindOf c.toNat)
  | .controller _ => targets.getLsbD 6

/-- A disabled M cell receives no segments (R434). -/
def State.targetOn (s : State) (t : Target) : Bool :=
  match t with
  | .cell c => !s.disabled c.toNat
  | .controller _ => true

/-- A target has been retired. -/
def State.targetGone (s : State) (t : Target) : Bool :=
  match t with
  | .cell c => (s.cell c.toNat).retired
  | .controller c => s.chanState c.toNat == vccRetired

def allTargets : List Target :=
  allCells.map (fun c => .cell (BitVec.ofNat 10 c)) ++ allCells.map (fun c => .controller (BitVec.ofNat 10 c))

/-- A frame of a segment has been sent, and its targets field. -/
def State.segSent (s : State) (k : Nat) : Option Byte :=
  let v := tget 0 s.start.sentSegs k
  if v = 0 then none else some (BitVec.ofNat 8 (v - 1))

/-- A target holds every segment that names it. -/
def State.targetHas (s : State) (t : Target) : Bool :=
  (List.range s.start.segCount).all (fun k => match s.segSent k with
    | some b => !targetNamed t b || (tget [] s.start.gotSegs (targetNo t)).contains k
    | none => false)

/-! ## The ends of stages 3 and 5 -/

/-- The work of stage 3 is done: the configuration applies, every die-to-die link has trained, failed or been isolated, every segment has
been broadcast, and every target in service holds those that name it. -/
def State.stage3Done (s : State) : Bool :=
  s.start.configured && (List.range 8).all (fun l => s.getF F.d2dStat_state l != 0) &&
  (List.range s.start.segCount).all (fun k => (s.segSent k).isSome) &&
  (s.start.segCount == 0 || allTargets.all (fun t => !s.targetOn t || s.targetGone t || s.targetHas t))

/-- The work of stage 5 is done: the ports of every ring that the link plan gives more than one socket have trained or failed, and no
election runs. -/
def State.stage5Done (s : State) : Bool :=
  !s.ring.electing && (List.range 8).all (fun p =>
    (if p < 4 then s.getF F.lnkRing_row_len else s.getF F.lnkRing_col_len) == 0 || decide (lnkFull ≤ s.lnk p))

/-- STD_BOOT.stage as it reads: stage 4 once the work of stage 3 is done, stage 6 once that of stage 5 is. -/
def State.stageShown (s : State) : Nat :=
  let n := s.getF F.stdBoot_stage
  if n = 3 ∧ s.stage3Done then 4 else if n = 5 ∧ s.stage5Done then 6 else n

/-! ## Ready (R443) -/

/-- SHF_CAP of sheaf 0: the usable cells of each kind but M (R443, Table 2.10). -/
def State.showCap (s : State) : State :=
  let n := fun (k : Nat) => (allCells.filter (fun c => kindOf c == k && s.usable c)).length
  ((((s.putF F.shfCap_a 0 (n kA)).putF F.shfCap_v 0 (n kV)).putF F.shfCap_g 0 (n kG)).putF F.shfCap_l 0 (n kL)).putF F.shfCap_s 0 (n kS)

/-- The part becomes ready once memory and cells are tested and the ring stage is over (R427, R443). -/
def State.becomeReady (s : State) : State :=
  if !s.start.memTested || !s.start.cellsTested || !s.stage5Done || s.getF F.stdBoot_stage != 5 then s
  else
    let s := s.showCap
    let s := (s.putF F.stdBoot_stage 0 7).putF F.stdBoot_minimal 0 0
    let s := s.putF F.stdBoot_elapsed_ms 0 (min ((s.now - s.start.loadAt) / 1000000) (2 ^ 32 - 1))
    s.raise 0x01 0 0 (s.reg R.stdBoot 0)

end Sys2Proof.Machine
end

