-- ==== Sys2Proof/Machine/Records.lean ====
section
/-! DEFINITION. The read-back mirror's records (Table 17.5) and the publication of a snapshot (R31, R514 to R519). -/

namespace Sys2Proof.Machine

/-- The registers of a record, in order (Table 17.5), by record class: 1 cell, 2 channel, 3 sheaf, 4 queue pair, 5 Chute
channel, 6 ring port, 7 die-to-die link, 8 clock domain, 9 hub store, 10 function, 11 sensor, 12 Rake log entry. -/
def recordRegs (cls : Nat) : List Reg :=
  match cls with
  | 1 => [R.celTick, R.celStat, R.celVec, R.celGat, R.celColl, R.celSamp, R.celMesh, R.celBkt, R.mxcStat, R.mxcPasses,
          R.mxcFlags, R.mxcBubble, R.mxcStall, R.thrStat, R.thrBlocks, R.thrEdge, R.thrPos, R.kvpStat, R.kvpQuant, R.kvpWin,
          R.kvpDrop, R.pwrDuty]
  | 2 => [R.vccStat, R.vccCtl, R.vccTrain, R.vccMargin, R.vccEye, R.vccErr, R.vccBkt, R.vccLost, R.fllStat, R.fllOps,
          R.fllHold, R.fllEcc, R.fllPort0, R.fllPort1, R.fllPort2, R.fllPaddr, R.fllPctl]
  | 3 => [R.shfStatus, R.shfBudget, R.shfErrsum, R.shfCap, R.shfAvail0, R.shfAvail1, R.shfAvail2, R.shfAvail3, R.shfAvail4,
          R.shfAvail5, R.shfAvail6, R.shfAvail7, R.shfAvail8, R.shfAvail9, R.shfAvail10, R.shfAvail11, R.shfAvail12,
          R.shfAvail13, R.shfAvail14, R.shfAvail15]
  | 4 => [R.hstQown, R.hstSqBase, R.hstCqBase, R.hstQcfg, R.hstQstat, R.hstQcnt]
  | 5 => [R.chuHead, R.chuCfg, R.chuCtl, R.chuStat, R.chuCrc, R.chuDesc0, R.chuDesc1, R.chuDesc2, R.chuDesc3, R.chuDesc4,
          R.chuDesc5, R.chuDesc6, R.chuDesc7]
  | 6 => [R.lnkStat, R.lnkErr, R.lnkFec, R.lnkTrain, R.lnkCtl]
  | 7 => [R.d2dStat, R.d2dErr, R.d2dCtl]
  | 8 => [R.clkDom, R.clkStat]
  | 9 => [R.stdBkt]
  | 10 => [R.hstFwin]
  | 11 => [R.thmSens]
  | 12 => [R.rakLog0, R.rakLog1]
  | _ => []

/-- The blocks in reset now, as (record class, number) (R519). -/
def State.inReset (s : State) : List (Nat × Nat) :=
  ((s.cells.filter (fun e => e.2.inReset)).map (fun e => (1, e.1))) ++
  ((allCells.filter (fun c => s.onF F.vccCtl_reset c)).map (fun c => (2, c))) ++
  (((List.range 8).filter s.planeReset).map (fun p => (6, p))) ++
  (((List.range 8).filter (fun l => s.onF F.d2dCtl_reset l)).map (fun l => (7, l)))

/-- A block's registers with the values of the last snapshot. -/
def keepOld (old new : Tbl Word) (b : Nat × Nat) : Tbl Word :=
  (recordRegs b.1).foldl (fun t r =>
    tput (regReset r b.2) t (regKey r b.2) (tget (regReset r b.2) old (regKey r b.2))) new

/-! ## Words that a register shows and no update writes -/

/-- The watchdog's timeout in ms and its reach: 1,000 ms and Steading until the default configuration is applied (R417). -/
def State.wdtMs (s : State) : Nat := if s.start.configured then s.getF F.rstWdt_ms else 1000
def State.wdtReach (s : State) : Nat := if s.start.configured then s.getF F.rstWdt_reach else 0

/-- The passes that the Rake has completed on every channel in service, and the progress of the next in 1/1,024 (Table 10.6). -/
def State.rakeShown (s : State) : Nat × Nat :=
  let pos := (allCells.filter (fun c => s.getF F.vccStat_state c != vccRetired)).map (fun c => (s.chan c).rakePos)
  match pos with
  | [] => (0, 0)
  | p :: r =>
    let least := r.foldl min p
    (least / 786432, least % 786432 / 768)

/-- The most pages held by one list of a stream, and the most that others hold too (Table 7.11). -/
def State.pagesShown (s : State) (i : Nat) : Nat × Nat :=
  let t := s.stream i
  let ls := (s.image t.job).lists.map (fun l => (l, s.held l t))
  (maxList (ls.map (fun x => x.2.length)),
    maxList (ls.map (fun x => (x.2.filter (fun y => decide (1 < s.pageRefs x.1.e y.2.page))).length)))

/-! ### Clocks (R403) -/

/-- The frequency in kHz of a domain's PLL (Table 13.2). -/
def pllKhz (d : Nat) : Nat :=
  if d < 48 then (if d % 12 = 0 ∨ (2 ≤ d % 12 ∧ d % 12 ≤ 9) then 1900000 else 2000000)
  else [2000000, 1750000, 1750000, 1000000, 2000000, 1200000, 1200000, 200000, 100000, 1000000, 48000, 2000000].getD (d - 48) 0

/-- The frequency in kHz of a code of CLK_MON.sel; 0 for a stopped source and for code 63. -/
def State.monKhz (s : State) (sel : Nat) : Nat :=
  if sel < 60 then
    if s.onF F.clkStat_running sel then
      (if s.getF F.clkStat_src sel = 1 then 48000 else pllKhz sel) * 8 / max 1 (s.getF F.clkStat_div sel)
    else 0
  else if sel = 60 then (if s.onF F.clkXtal_mhz50 then 50000 else 25000)
  else if sel = 61 then 48000 else if sel = 62 then 100000 else 0

/-- The result that CLK_MON selects is above 200 MHz: it is not put out. -/
def State.monOver (s : State) : Bool :=
  let div := s.getF F.clkMon_div
  decide (1 ≤ div) && decide (div ≤ 16) && decide (200000 * 2 ^ div < s.monKhz (s.getF F.clkMon_sel))

/-! ### Progress of work that other commands end (R427, R448) -/

/-- STD_RCV_STAT while an image is programmed: erasing, or programming with some of its 4 KiB units done; which is free (log entry 5). -/
def State.rcvShown (s : State) (w : Word) : Word :=
  match s.imgJob with
  | none => w
  | some img =>
    let x := s.freeWord.toNat
    if x % 2 = 0 then fieldPut (fieldPut w 0 3 2) 16 13 0 else fieldPut (fieldPut w 0 3 3) 16 13 (x / 2 % (img.length / 4096 + 1))

/-- The registers whose word is worked out when it is read, and held as it was at the edge in a snapshot. -/
def heldRegs : List Nat :=
  [R.stdBoot.off, R.rstWdt.off, R.thmCool.off, R.rakPass.off, R.vccLost.off, R.kvpSpages.off, R.clkMon.off, R.stdRcvStat.off]

/-- The word that one of them shows. -/
def State.workedOut (s : State) (r : Reg) (i : Nat) : Word :=
  let w := s.reg r i
  let ms := fun (t : Nat) => (s.now - t) / 1000000
  if r.off = R.stdBoot.off then
    (if s.ready then w else fieldPut (fieldPut w 0 4 s.stageShown) 32 32 (min (ms s.start.loadAt) (2 ^ 32 - 1)))
  else if r.off = R.rstWdt.off then
    (if s.start.loading then w else fieldPut w 32 16 ((s.start.wdtAt + s.wdtMs * 1000000 - s.now) / 1000000))
  else if r.off = R.thmCool.off then
    (match s.heat.coolWritten with
    | some t => fieldPut w 16 16 (min (ms t) 65535)
    | none => w)
  else if r.off = R.rakPass.off then
    (let (p, q) := s.rakeShown
    fieldPut (fieldPut w 0 32 (min p (2 ^ 32 - 1))) 32 10 q)
  else if r.off = R.clkMon.off then fieldPut w F.clkMon_over.lo 1 (bit s.monOver)
  else if r.off = R.stdRcvStat.off then s.rcvShown w
  else if r.off = R.vccLost.off then
    (let x := s.chan i
    fieldPut (fieldPut (fieldPut w 0 7 x.lostWords.length) 7 10 (min x.remapped 1023)) 17 10 (min x.listed.length 1023))
  else if r.off = R.kvpSpages.off then
    (if (s.stream i).isOpen then
      (let (h, k) := s.pagesShown i
      fieldPut (fieldPut (fieldPut w 0 24 h) 24 24 k) 48 14 (s.stream i).slot)
    else 0)
  else w

/-- The copies of those registers that hold something. -/
def State.workedOutAll (s : State) : List (Reg × Nat) :=
  [R.stdBoot, R.rstWdt, R.thmCool, R.rakPass, R.clkMon, R.stdRcvStat].map (fun r => (r, 0)) ++ s.chans.map (fun e => (R.vccLost, e.1)) ++
  s.openStreams.map (fun i => (R.kvpSpages, i))

/-- The snapshot of an edge is published at the end of Load (R516); a block in reset keeps its last record (R519). -/
def State.publish (s : State) : State :=
  let down := s.inReset
  let held := (s.workedOutAll.foldl (fun (t : State) e => t.setReg e.1 e.2 (s.workedOut e.1 e.2)) s).regs
  { s with snap := { valid := true, edge := s.getF F.tikCount_count, time := (s.now - s.start.loadAt) / 1000,
                     regs := down.foldl (keepOld s.snap.regs) held, staged := s.staged, ctl := s.ctl, sqTails := s.sqTails,
                     cqHeads := s.cqHeads, otp := s.otp, staleWords := [], stale := down } }

end Sys2Proof.Machine
end

