-- ==== Sys2Proof/Machine/Tick.lean ====
section
/-! DEFINITION. The tick edge and the stages of a tick (R73 to R95, R97, R101, R133, R334, R335, R416): the records of the
tick that ends, Load in its four steps, the start and the finish of a stage, the stretch limit, slow cells. -/

namespace Sys2Proof.Machine

/-! ## Margin and lateness (R77, R81, R91) -/

/-- A signed 32-bit field. -/
def int32 (v : Int) : Nat := (BitVec.ofInt 32 v).toNat

/-- The input wait of a cell (R77): what it waited for inputs, and what its memory accesses waited on held channels. -/
def State.inputWait (s : State) (c : Nat) : Nat := (s.cell c).waitNs + (s.cell c).memWaitNs

/-- Records a cell's margin and lateness for a finish at f ns from the edge, of which `wait` ns were input wait. -/
def State.recordLate (s : State) (c : Nat) (t : Stage) (f wait : Nat) : State :=
  let goal := t.finishNs + s.getF F.tikRaise_ns
  let own := f - goal - wait
  let late := decide (64 < own)
  let s := (s.putF F.celTick_margin_ns c (int32 ((goal : Int) - (f : Int)))).putF F.celTick_own_late_ns c (min own (2 ^ 24 - 1))
  let s := s.putF F.celTick_late_run c (if late then min 31 (s.getF F.celTick_late_run c + 1) else 0)
  (s.putF F.celTick_idle c 0).modCell c (fun x => { x with worstLate := if late then max x.worstLate own else 0 })

/-! ## The tick that ends (R80, R82, R84, Table 2.9) -/

/-- An idle cell of a loaded program: its stage did not start, and was not stopped at the stretch limit (R80, R416). -/
def State.recordIdle (s : State) (j c : Nat) (t : Stage) : State :=
  if (s.cell c).job = some j ∧ ((s.cell c).started.isSome ∨ (s.cell c).stopped) then s
  else ((s.putF F.celTick_margin_ns c (int32 t.finishNs)).putF F.celTick_own_late_ns c 0).putF F.celTick_idle c 1

/-- The stages of a sheaf's members, with the cell that runs each; of the whole program for a sheaf of parts. -/
def State.sheafStages (s : State) (i : Nat) : List (Nat × Stage) :=
  if i = 0 then s.activeJobs.flatMap (fun j => (s.prog j).stagesAt)
  else
    let all := (s.prog (s.sheaf i).job).stagesAt
    if (s.sheaf i).desc.mtype = 2 then all else all.filter (fun e => (s.cellsOfSheaf i).contains e.1)

/-- SHF_STATUS of one sheaf for the tick that ends. -/
def State.closeSheaf (s : State) (i : Nat) : State :=
  let st := s.sheafStages i
  let jobs := if i = 0 then s.activeJobs else [(s.sheaf i).job]
  let margins := st.map (fun e => (BitVec.ofNat 32 (s.getF F.celTick_margin_ns e.1)).toInt)
  let least := match margins with
    | [] => 0
    | m :: r => r.foldl min m
  let last := maxList (st.filterMap (fun e => (s.cell e.1).finished.map (fun f => f - s.tick.edgeAt)))
  let budget := if s.getF F.shfBudget_ns i = 0 then s.deadline else s.getF F.shfBudget_ns i
  let late := decide (least < 0) || decide (budget < last)
  let s := (s.putF F.shfStatus_late i (bit late)).putF F.shfStatus_margin_ns i (int32 least)
  let s := s.putF F.shfStatus_late_run i (if late then min 255 (s.getF F.shfStatus_late_run i + 1) else 0)
  let s := s.putF F.shfStatus_stretched i (bit (decide (s.period < s.tick.newEdge.getD s.period) &&
    [1, 2].contains (s.getF F.shfStatus_state i)))
  let s := s.putF F.shfStatus_overrun i (bit (jobs.any (fun j => s.tick.overrunJobs.contains j)))
  s.putF F.shfStatus_replayed i (bit (jobs.any (fun j => (s.prog j).replaying)))

/-- The L stages of the active programs with a collective over a ring, with the cell that runs each: span 1 is the row, 2 the
column, 3 both. -/
def State.ringStages (s : State) (r : Nat) : List (Nat × Stage) :=
  (s.activeJobs.flatMap (fun j => (s.prog j).stagesAt)).filter (fun e => e.2.kind == kL && (List.range e.2.opCount).any (fun i =>
    lSpan e.2 i == r + 1 || lSpan e.2 i == 3))

/-- By how much the collectives of a ring were late in the tick that ends: the cells' negative margins (R81, R340). -/
def State.ringLate (s : State) (r : Nat) : Nat :=
  maxList ((s.ringStages r).map (fun e => (-(BitVec.ofNat 32 (s.getF F.celTick_margin_ns e.1)).toInt).toNat))

/-- Keeps the lateness of the consecutive ticks in which a collective of each ring was late, at most 16 (R340). -/
def State.countLate (s : State) : State :=
  { s with ring := { s.ring with lateLog := (List.range 2).map (fun r =>
      if s.ringLate r = 0 then [] else (s.ringLate r :: s.ring.lateLog.getD r []).take 16) } }

/-- TIK_LATE, CEL_TICK of idle cells and SHF_STATUS, written at the edge that ends the tick. -/
def State.closeTick (s : State) : State :=
  let stretch := s.tick.newEdge.getD s.period - s.period
  let s := s.putF F.tikLate_stretch_ns 0 stretch
  let s := if s.tick.overrun then s.bump F.tikLate_overruns 0
    else if s.tick.newEdge.isSome then s.bump F.tikLate_stretched 0 else s
  let s := s.activeJobs.foldl (fun s j => (s.prog j).stagesAt.foldl (fun s e => s.recordIdle j e.1 e.2) s) s
  (0 :: s.sheafIds.filter (fun i => i != 0)).foldl State.closeSheaf s.countLate

/-! ## The new tick -/

/-- The edge of a release, kept as far back from a new count as it was from the old one (R236, R331). -/
def rebase (old new : Nat) (r : Option Nat) : Option Nat :=
  match r with
  | none => none
  | some r => if r + 2 ≤ old + 1 then none else some (new - (old + 1 - r))

/-- Every identifier in quarantine keeps the edges it still has to wait when the count changes. -/
def State.rebaseAll (s : State) (old new : Nat) : State :=
  let k := s.ctl
  { s with ctl := { k with
    progs := k.progs.map (fun e => (e.1, { e.2 with released := rebase old new e.2.released }))
    sheafs := k.sheafs.map (fun e => (e.1, { e.2 with released := rebase old new e.2.released }))
    streams := k.streams.map (fun e => (e.1, { e.2 with released := rebase old new e.2.released }))
    pools := k.pools.map (fun e => (e.1, { e.2 with released := rebase old new e.2.released })) } }

/-- TIK_COUNT goes up by one, or to the winner's count (R73, R331). -/
def State.nextCount (s : State) : State :=
  let old := s.getF F.tikCount_count
  match s.ring.realignTo with
  | none => s.putF F.tikCount_count 0 (old + 1)
  | some (_, n) =>
    let s := ((s.putF F.tikCount_count 0 n).rebaseAll old n).raise 0x14 0 0 (BitVec.ofNat 64 n)
    { s with ring := { s.ring with realignTo := none } }

/-- The state of a new tick; the timekeeper sends a tick marker on every port that holds take (R328). -/
def State.freshTick (s : State) (now : Nat) : State :=
  let t := s.tick
  let s := { s with
    tick := { running := t.running, edgeAt := now, updatesAgo := t.updatesAgo, govWrote := t.govWrote, limits := t.limits,
              fallbackNext := t.fallbackNext }
    ring := { s.ring with seen := [], missedMarkers := if s.isKeeper then 0 else s.ring.missedMarkers + 1 }
    chans := s.chans.map (fun e => (e.1, { e.2 with blameTick := [] })) }
  if s.isKeeper && !s.takePorts.isEmpty then s.tell (.marker (BitVec.ofNat 32 (s.getF F.tikCount_count)) 0) else s

/-! ## Step 3 of Load: waiting commands (R66, R88, R97) -/

/-- The job of the stream or program that a waiting stream command acts on. -/
def State.waitingJob (s : State) (w : Waiting) : Option Nat :=
  let of := fun i => if (s.stream i).isOpen then some (s.stream i).job else none
  match w with
  | .openS _ _ job _ _ => some job
  | .feed _ _ i _ _ _ => of i
  | .setP _ _ i _ _ _ => of i
  | .close _ _ i _ => of i
  | .closeSilent i => of i
  | _ => none

/-- A waiting command acts. -/
def State.act (s : State) (w : Waiting) : State :=
  match w with
  | .unload c j e => s.unloadNow c j e
  | .openS c fn j e b => s.openNow c fn j e b
  | .feed c fn i e a n => s.feedNow c fn i e a n
  | .setP c fn i e m b => s.setNow c fn i e m b
  | .close c fn i e => s.closeNow c fn i e
  | .closeSilent i => s.closeSilently i (s.getF F.tikCount_count)
  | .done c i e j je status count =>
    let known := s.live i e && [0, 2, 5, 9].contains status
    s.complete c status (if known then { s.streamCqe i with count := count }
      else { stream := i, epoch := e, job := j, jobEpoch := je, count := count })

/-- The stream that a waiting command changes. -/
def Waiting.streamNo : Waiting → Option Nat
  | .feed _ _ i _ _ _ => some i
  | .setP _ _ i _ _ _ => some i
  | .close _ _ i _ => some i
  | .closeSilent i => some i
  | _ => none

/-- A command of a program that replays waits for the end of the replay: a close, since the stream completes the tick (R97), new
parameters, since the replay has the same inputs (R88), and what is fed after one of these. -/
def State.waitsReplay (s : State) (held : List Nat) (w : Waiting) : Bool :=
  match s.waitingJob w with
  | none => false
  | some j => held.contains j && (match w with
    | .openS .. => false
    | .closeSilent _ => false
    | .feed .. => s.ctl.waiting.any (fun v => v.streamNo == w.streamNo)
    | _ => true)

/-- The commands accepted before the edge act, in order (R97; log entry 22). -/
def State.actAll (s : State) : State :=
  let ws := s.ctl.waiting
  let held := (List.range 8).filter s.willReplay
  ws.foldl (fun s w => if s.waitsReplay held w then s.wait w else s.act w) { s with ctl := { s.ctl with waiting := [] } }

/-! ## Channels and resets at an edge (R260, R264, R266, R416) -/

/-- A retrain unfinished at the edge that ends its window holds the channel; with no guard band the hold fails at once. -/
def State.holdChannel (s : State) (now c : Nat) : State :=
  match (s.chan c).retrainStart with
  | none => s
  | some t0 =>
    if !([vccInService, vccNarrowed].contains (s.chanState c)) then s
    else
      let s := (s.modChan c (fun x => { x with heldSince := some now })).putF F.vccStat_state c vccHeld
      let s := (s.bump F.vccErr_holds c).raise 0x32 2 c (BitVec.ofNat 64 (now - t0))
      if s.guardNs = 0 then s.failHold c else s

/-- What channels, stacks, die-to-die links and ring ports do at an edge. -/
def State.channelEdges (s : State) (now : Nat) : State :=
  let narrow := (s.chans.filter (fun e => e.2.narrowPending)).map (fun e => e.1)
  let retire := s.chans.filterMap (fun e => e.2.retirePending.map (fun r => (e.1, r)))
  let hold := (s.chans.filter (fun e => e.2.retrainStart.isSome)).map (fun e => e.1)
  let s := narrow.foldl (fun s c => if (s.chan c).retirePending.isSome then s else s.narrowChannel c) s
  let s := retire.foldl (fun s e => s.retireNow e.1 e.2) s
  let s := hold.foldl (fun s c => s.holdChannel now c) s
  let s := (List.range 32).foldl State.endHotHold s
  ((List.range 8).foldl State.linkEdge s).startRetrain

/-- The fields of a kind of reset target: its target, go, hold, active. -/
def resetTarget (kind : Nat) : Fld := if kind = 0 then F.rstCell_cell else if kind = 1 then F.rstStook_stook else F.rstShf_id
def resetGo (kind : Nat) : Fld := if kind = 0 then F.rstCell_go else if kind = 1 then F.rstStook_go else F.rstShf_go
def resetHold (kind : Nat) : Fld := if kind = 0 then F.rstCell_hold else if kind = 1 then F.rstStook_hold else F.rstShf_hold
def resetActive (kind : Nat) : Fld := if kind = 0 then F.rstCell_active else if kind = 1 then F.rstStook_active else F.rstShf_active

/-- Shows go and active of the target that each register names. -/
def State.showResets (s : State) : State :=
  [0, 1, 2].foldl (fun s k =>
    let mine := s.resets.find? (fun r => r.kind == k && r.target == s.getF (resetTarget k))
    (s.putF (resetGo k) 0 (bit ((mine.map (fun r => r.pulse)).getD false))).putF (resetActive k) 0 (bit mine.isSome)) s

/-- Reset targets whose time has come are released; a cell leaves reset when no target that includes it is in reset. -/
def State.releaseResets (s : State) (now : Nat) : State :=
  let out := s.resets.filter (fun r => !r.held && decide (r.releaseAfter ≤ now))
  let stay := s.resets.filter (fun r => r.held || decide (now < r.releaseAfter))
  let free := (out.flatMap (fun r => r.cells)).filter (fun c => !stay.any (fun r => r.cells.contains c))
  let s := { s with resets := stay }.showResets
  free.foldl (fun s c => s.modCell c (fun x => { x with inReset := false })) s

/-! ## Step 4 of Load: the cells (R76, R80, R88) -/

/-- A program's collective spans a broken ring (R336). -/
def State.brokenSpan (s : State) (t : Stage) : Bool :=
  t.kind == kL && (List.range t.opCount).any (fun i =>
    (s.onF F.lnkRing_row_broken && (lSpan t i == 1 || lSpan t i == 3)) ||
    (s.onF F.lnkRing_column_broken && (lSpan t i == 2 || lSpan t i == 3)))

/-- A cell takes its descriptor. -/
def State.releaseCell (s : State) (j : Nat) (run : Bool) (c : Nat) : State :=
  (s.modCell c (fun x => { x with
    job := if run && !x.inReset then some j else none, started := none, finished := none, stopped := false
    waitNs := 0, idleAt := s.tick.edgeAt, memWaitNs := 0, memHeld := none, flailSince := [], prepared := false, sent := [], rerouted := false, rowsIn := [], lost := [], rowsOut := [], doneOps := [], inTick := [], increments := []
    flits := [] })).putF F.celStat_rows_in c 0

/-- A program's tick starts: it runs when it has a stream to run, as a replay after an invalidated tick; a cell in reset or a
broken ring invalidates it. -/
def State.releaseProgram (s : State) (j : Nat) : State :=
  let p := s.prog j
  let run := s.ready && (s.streamsOf j).any (fun i => !(s.stream i).failed)
  let again := run && p.replayNext
  let cut := p.stagesAt.filter (fun e => s.brokenSpan e.2)
  let bad := p.stagesAt.any (fun e => (s.cell e.1).inReset) || !cut.isEmpty
  let s := p.stagesAt.foldl (fun s e => s.releaseCell j run e.1) s
  let s := if run then cut.foldl (fun s e => s.bump F.celColl_failed e.1) s else s
  s.modProg j (fun p => { p with
    invalid := run && bad, replaying := again, replayNext := false, badBefore := if again then p.badBefore else [] })

/-- Load: limit words, commits, streams and programs, cells; then the snapshot. -/
def State.load (s : State) (now : Nat) : State :=
  let s := s.applyLimits
  let s := s.commitsAtEdge ((List.range 8).any s.willReplay)
  let s := (s.actAll.channelEdges now).releaseResets now
  let s := s.activeJobs.foldl State.releaseProgram s
  let s := s.openStreams.foldl (fun s i => s.modStream i (fun t => { t with lenEdge := t.length })) s
  let s := { s with tick := { s.tick with replaying := s.activeJobs.any (fun j => (s.prog j).replaying) } }
  s.publish

/-! ## TICK_EDGE -/

/-- Compute stops for Keep: no Load runs, and Chute channels stop with no result (R496). -/
def State.keepComputeStop (s : State) : State :=
  let s := { s with tick := { s.tick with running := false, windowOpen := false } }
  ((List.range 32).filter s.chuteRuns).foldl (fun s ch =>
    (s.chuteStop ch (s.getF F.chuStat_status ch)).setChute ch { s.chute ch with owedResults := [] }) s

/-- An edge is taken: it ends the tick (R73). In an orderly stop or Keep entry compute stops there instead of a Load. While PERST_N is
low the timebase goes on and the control plane stays in reset (R408, R409). -/
def State.takeEdge (s : State) (now : Nat) : State :=
  let s := s.settleHeld.closeTick.sendRecords.nextCount
  if s.getF F.pwrStat_state = 1 then s.finishStop
  else if s.getF F.pwrStat_state = 3 then s.keepComputeStop
  else
    let s := s.freshTick now
    if s.start.warmReset && s.perstOn then
      s.channelEdges now
    else ({ s with start := { s.start with warmReset := false } }).load now

/-- The ring as it is outside a pause. -/
def Ring.noPause (r : Ring) : Ring := { r with pauseNext := false, pauseEnds := false, pauseWaits := [] }

/-- This part's ports of a plane hold take again: each is up, or has failed for good (R343; log entry 29). -/
def State.planeWhole (s : State) (k : Nat) : Bool :=
  [2 * k, 2 * k + 1].all (fun p => s.onF F.lnkStat_take p && (s.portUp p || decide (3 ≤ (s.port p).failedTrains)))

/-- Every port of the affected hops holds take again (R334, R335): the parts at their ends have told so (log entry 29). -/
def State.pauseWhole (s : State) : Bool := !s.ring.pauseWaits.isEmpty && s.ring.pauseWaits.all (fun w => w.again)

/-- The timekeeper ends a pause in force as soon as the ring is whole. -/
def State.checkPause (s : State) : State :=
  if s.tick.held && s.isKeeper && !s.ring.pauseEnds && s.pauseWhole then s.announce { pauseEnds := true } else s

/-- A pause starts where an edge would fall: the part's own releases take effect, and it holds its window unless it has left
the ring. Parts that have lost their timekeeper by it elect another (R327, R334). -/
def State.startPause (s : State) (now : Nat) : State :=
  let s := s.closePlanes s.ring.releasing
  if s.takePorts.isEmpty then { s with ring := s.ring.noPause }.takeEdge now
  else
    let s := { s with ring := { s.ring with pauseNext := false, pauseEnds := false }, tick := { s.tick with held := true } }
    let s := (s.putF F.lnkRing_pause 0 1).checkPause
    if s.absent (s.getF F.lnkRing_keeper) then s.enterElection else s

/-- A pause ends at the edge after it. -/
def State.endPause (s : State) : State :=
  { s with tick := { s.tick with held := false }, ring := s.ring.noPause }.putF F.lnkRing_pause 0 0

/-- When the next edge falls: the winner's edge for a part that aligns, else the edge due. -/
def State.edgeFalls (s : State) : Nat :=
  match s.ring.realignTo with
  | some (t, _) => t
  | none => s.edgeDue

/-- The edge is deferred and still to be announced: not by a part that is its own timekeeper and awaits no report (R71, R83). -/
def State.edgeUnknown (s : State) : Bool :=
  s.tick.deferred && s.tick.newEdge.isNone && !(s.isKeeper && s.lateOnes.isEmpty)

/-- TICK_EDGE: within 20 ns of the instant at which the edge falls (R71), with the window open and no edge still to be
announced. -/
def opTickEdge (now : Nat) (s : State) : State :=
  let s := s.at_ now
  if !s.tick.running then s
  else if s.tick.held then (if s.ring.pauseEnds then s.endPause.takeEdge now else s)
  else
    let s := s.settleEdge
    if !s.tick.windowOpen || s.edgeUnknown || decide (now + 20 < s.edgeFalls) then s
    else if s.ring.pauseNext then s.startPause now
    else s.takeEdge now
def execTickEdge (now : Nat) (s : State) : Host.Outcome State Fault Refusal := run (opTickEdge now) s

/-! ## STAGE_START, STAGE_FINISH -/

/-- A cell's first input is there: a row has come, or its first entry needs none (R77). -/
def State.hasInput (s : State) (j c : Nat) (t : Stage) : Bool := !(s.cell c).rowsIn.isEmpty || s.entryReady j c t 0

/-- When a cell's stage may start at the earliest (R76). -/
def State.startAt (s : State) (t : Stage) : Nat := s.tick.edgeAt + max t.startNs 256

/-- STAGE_START: not before start_ns nor before the first input. What the first input came late is input wait (R77). -/
def opStageStart (c now : Nat) (s : State) : State :=
  let s := s.at_ now
  match (s.cell c).job, s.stageOf c with
  | some j, some (_, t) =>
    let x := s.cell c
    if !s.tick.running || s.tick.windowOpen || x.started.isSome || x.stopped || x.inReset || !s.hasInput j c t ||
        decide (now < s.startAt t) then s
    else
      let s := s.modCell c (fun x => { x with started := some now, waitNs := x.idleAt - s.startAt t, idleAt := now })
      let s := s.putF F.celStat_busy c 1
      let s := (if t.kind = kA then (s.putF F.thrStat_busy c 1).putF F.thrStat_in_loft c (bit (aFlag t 1)) else s).showPass c
      s.runFrom c
  | _, _ => s
def execStageStart (cell : BitVec 10) (now : Nat) (s : State) : Host.Outcome State Fault Refusal :=
  run (opStageStart cell.toNat now) s

/-- A cell is no longer at work. -/
def State.idleCell (s : State) (c : Nat) : State :=
  ((s.putF F.celStat_busy c 0).putF F.mxcStat_busy c 0).putF F.thrStat_busy c 0

/-- What a cell has waited by an instant. One that has not started has waited from when it might have started to when its first input came,
or until then; one that has, for what its next entry or its memory still waits for too (R77). -/
def State.waitBy (s : State) (j c : Nat) (t : Stage) (limit : Nat) : Nat :=
  let x := s.cell c
  let n := x.doneOps.length
  match x.started, x.memHeld with
  | none, _ => (if s.hasInput j c t then x.idleAt else limit) - s.startAt t
  | some _, some m => s.inputWait c + (limit - m)
  | some _, none =>
    if x.flailSince.isEmpty ∧ x.prepared ∧ x.lost.isEmpty ∧ n < t.opCount ∧
        (!s.entryReady j c t n ∨ (t.kind = kL ∧ !s.lFed j c t n)) then s.inputWait c + (limit - s.waitsFrom j c t n)
    else s.inputWait c

/-- STAGE_FINISH: the last output is delivered, or the tick of the program is stopped (R302); a stage that an invalid tick never
let start counts no lateness (R91). -/
def opStageFinish (c now : Nat) (s : State) : State :=
  let s := s.at_ now
  match (s.cell c).job, s.stageOf c with
  | some j, some (_, t) =>
    let x := s.cell c
    if !s.tick.running || s.tick.windowOpen || x.finished.isSome || x.stopped || x.inReset ||
        ((x.started.isNone || x.doneOps.length != t.opCount) && !(s.prog j).invalid) ||
        decide (s.tick.edgeAt + s.stretchLimit < now) then s
    else
      let s := if x.started.isNone then s else s.recordLate c t (now - s.tick.edgeAt) (s.waitBy j c t now)
      (s.modCell c (fun x => { x with finished := some now })).idleCell c
  | _, _ => s
def execStageFinish (cell : BitVec 10) (now : Nat) (s : State) : Host.Outcome State Fault Refusal :=
  run (opStageFinish cell.toNat now) s

/-! ## EDGE_ANNOUNCEMENT -/

/-- The part an announcement comes from: the timekeeper, or the part that asks it for a raise or to move one. -/
def edgeSender (w : EdgeWord) (keeper : Nat) : Nat :=
  match w.raise with
  | some r => if r.target.isNone || r.moved then r.part.toNat else keeper
  | none => keeper

/-- EDGE_ANNOUNCEMENT (R83, R86, R94, R334, R335). -/
def execEdgeAnnouncement (port : BitVec 3) (w : EdgeWord) (s : State) : Host.Outcome State Fault Refusal :=
  run (fun s => s.onWord port.toNat (edgeSender w (s.getF F.lnkRing_keeper)) (.edge w) (fun s => (s.heedEdge w).settleIfClear)) s

/-- FINISH_REPORT (R83). -/
def execFinishReport (port : BitVec 3) (part : BitVec 10) (finishNs : Nat) (overrun : Bool) (sheafs : List (BitVec 12)) (s : State) :
    Host.Outcome State Fault Refusal :=
  run (fun s => s.onWord port.toNat part.toNat (.finish finishNs overrun (sheafs.map BitVec.toNat)) (fun s =>
    if s.isKeeper then (s.reportFrom part.toNat finishNs overrun (sheafs.map BitVec.toNat)).settleIfClear else s)) s

/-! ## STRETCH_LIMIT (R77, R86, R87, R91) -/

/-- A cell unfinished at S is judged by its own lateness there: none when it only waited for an input that never came (R77, R91). -/
def State.lateAtLimit (s : State) (c : Nat) : State :=
  match (s.cell c).job, s.stageOf c with
  | some j, some (_, t) => s.recordLate c t s.stretchLimit (s.waitBy j c t (s.tick.edgeAt + s.stretchLimit))
  | _, _ => s

/-- STRETCH_LIMIT. -/
def opStretchLimit (now : Nat) (s : State) : State :=
  let s := s.at_ now
  let cs := s.unfinished
  if !s.tick.running || s.tick.windowOpen || cs.isEmpty || decide (now < s.tick.edgeAt + s.stretchLimit) then s
  else
    let s := cs.foldl State.lateAtLimit s
    let jobs := (cs.filterMap s.jobOfCell).eraseDups
    let s := (s.stopStages (s.tick.edgeAt + s.stretchLimit))
    let s := jobs.foldl State.overrunJob s
    s.sendReport s.stretchLimit true (jobs.flatMap (fun j => ((s.image j).sheafs.filter (fun d => d.mtype == 2)).map (fun d => d.id)))
def execStretchLimit (now : Nat) (s : State) : Host.Outcome State Fault Refusal := run (opStretchLimit now) s

/-! ## CELL_SLOW (R91 to R95) -/

/-- CELL_SLOW: the declaration, and the repair or the raise it leads to. -/
def opCellSlow (c : Nat) (s : State) : State :=
  match s.stageOf c with
  | none => s
  | some (j, t) =>
    if s.getF F.celTick_late_run c < 16 then s
    else
      let worst := (s.cell c).worstLate
      let s := (s.putF F.celTick_slow c 1).raise 0x11 1 c (BitVec.ofNat 64 worst)
      let s := (s.putF F.celTick_late_run c 0).modCell c (fun x => { x with worstLate := 0, slowBy := worst })
      s.replaceSlow j c t
def execCellSlow (cell : BitVec 10) (s : State) : Host.Outcome State Fault Refusal := run (opCellSlow cell.toNat) s

end Sys2Proof.Machine
end

