-- ==== Sys2Proof/Machine/Ring.lean ====
section
/-! DEFINITION. Ring words, envelopes and ports (R71, R72, R100, R162, R319 to R343, R60): the tick path, elections, ring
commits, taking and releasing the ring, losses and retrains. -/

namespace Sys2Proof.Machine

/-- The number of a ring port's plane. -/
def ringOf (r : RingId) : Nat := match r with
  | .row => 0
  | .column => 1

/-- The ports of a ring. -/
def ringPorts (r : RingId) : List Nat := (List.range 4).map (fun k => 4 * ringOf r + k)

/-- A part is known to share the tick, on a plane that it has taken. -/
def State.addPart (s : State) (k plane : Nat) : State :=
  let r := { s.ring with gone := s.ring.gone.filter (fun e => e != (k, plane)) }
  { s with ring := if k = s.own ∨ r.parts.contains k then r else { r with parts := sortBy id (k :: r.parts) } }

/-- A part has released planes or is lost on them. One that has left both planes of a ring shares the tick no more; the sheafs of parts
that have it as a member fail by the replay that cannot reach it (R337). -/
def State.memberGone (s : State) (planes : List Nat) (k : Nat) : State :=
  let s := { s with ring := { s.ring with gone := (s.ring.gone ++ planes.map (fun p => (k, p))).eraseDups } }
  if s.absent k then { s with ring := { s.ring with parts := s.ring.parts.filter (fun x => x != k) } } else s

/-! ## The tick path (R328) -/

/-- TICK_MARKER: a marker new to this part goes on with the hop's delay and the part's own forwarding time, which the spec
bounds and does not state (R328: 23 ns); the timebase takes its edge from it. -/
def opTickMarker (port tick delay now : Nat) (s : State) : State :=
  let s := s.at_ now
  if s.ring.markerSeen = some tick ∨ s.isKeeper then s
  else
    let total := delay + (s.port port).hopNs
    let own := s.freeWord.toNat % 24
    let w : CtlWord := .marker (BitVec.ofNat 32 tick) (BitVec.ofNat 14 (total + own))
    let s := (s.takePorts.filter (fun p => p != port)).foldl (fun s p => s.send (.ctl p (s.getF F.lnkRing_keeper) w)) s.nextFree
    let s := { s with ring := { s.ring with markerSeen := some tick, missedMarkers := 0 } }
    if decide (tick = s.getF F.tikCount_count % 2 ^ 32) && s.tick.running then { s with tick := { s.tick with edgeAt := now - total } } else s
def execTickMarker (port : BitVec 3) (tick : BitVec 32) (delay : BitVec 14) (now : Nat) (s : State) :
    Host.Outcome State Fault Refusal := run (opTickMarker port.toNat tick.toNat delay.toNat now) s

/-! ## Elections (R327, R330, R331) -/

/-- A candidate as it is compared: priority, then row, then column. -/
def candNo (prio coords : Nat) : Nat := prio * 1024 + coords

/-- A new timekeeper takes over a pause that is outstanding: it announces one that is due, and ends one that is whole (R334, R335). -/
def State.takePause (s : State) : State :=
  if !s.isKeeper || s.ring.pauseWaits.isEmpty then s
  else if s.tick.held || s.ring.pauseNext then s.checkPause else s.announce { pause := true }

/-- The election settles on a timekeeper; a change raises TIMEKEEPER_CHANGED. The next election starts from nothing known. In a start it may
be what stage 5 still waited for (R427). -/
def State.settleElection (s : State) (k : Nat) : State :=
  let old := s.getF F.lnkRing_keeper
  let was := s.isKeeper
  let s := { s with ring := { s.ring with electing := false, best := none, missedMarkers := 0 } }
  let s := (s.putF F.lnkRing_keeper 0 k).putF F.lnkRing_is_keeper 0 (bit (decide (k = s.own)))
  (if old = k ∧ was = decide (k = s.own) then s else (s.raise 0x13 0 0 (BitVec.ofNat 64 k)).takePause).becomeReady

/-- MARKER_LOSS: after three edges without a marker the part starts an election and keeps its own edges (R330). -/
def opMarkerLoss (settled : Bool) (keeper : Nat) (s : State) : State :=
  if s.isKeeper ∨ s.ring.missedMarkers < 3 then s
  else
    let s := s.enterElection
    if settled then s.settleElection keeper else s
def execMarkerLoss (settled : Bool) (keeper : BitVec 10) (s : State) : Host.Outcome State Fault Refusal :=
  run (opMarkerLoss settled keeper.toNat) s

/-- The part joins the domain of a winning timekeeper: it aligns at the winner's next edge, its ring commit fails, and the
winner's values are committed where its own differ (R331). -/
def State.joinDomain (s : State) (count at_ : Nat) (v : Nat × Nat × Nat) : State :=
  let s := { s with ring := { s.ring with realignTo := some (at_, count), commit := none } }
  let s := match s.commit with
    | some c => if c.ringed then s.failCommit (0x0307, R.tikPeriod.off / 8, s.own) else s
    | none => s
  if v = s.tickNow then s else { s with ring := { s.ring with alignValues := some v } }.startAlign

/-- CANDIDATE: a better candidate is taken and spread, a worse one is answered with the best known. The planes of the ring on which a
winner's word comes face its domain (R331). -/
def opCandidate (port : Nat) (b : Nat × Nat) (settled : Bool) (winner : Option (BitVec 64 × Nat × (BitVec 10 × BitVec 16 × BitVec 5)))
    (s : State) : State :=
  let have_ := s.bestCand
  let s := { s with ring := { s.ring with electing := true } }
  let s :=
    if candNo b.1 b.2 < candNo have_.1 have_.2 then
      let s := { s with ring := { s.ring with best := some b } }
      (s.takePorts.filter (fun p => p != port)).foldl (fun s p =>
        s.send (.ctl p s.own (.candidate (BitVec.ofNat 4 b.1) (BitVec.ofNat 10 b.2)))) s
    else
      let s := { s with ring := { s.ring with best := some have_ } }
      if candNo have_.1 have_.2 < candNo b.1 b.2 then
        s.send (.ctl port s.own (.candidate (BitVec.ofNat 4 have_.1) (BitVec.ofNat 10 have_.2))) else s
  let s := if settled then s.settleElection s.bestCand.2 else s
  match winner with
  | some (n, t, (us, w, g)) =>
    { s with ring := { s.ring with facing := [2 * (port / 4), 2 * (port / 4) + 1] } }.joinDomain n.toNat t (us.toNat, w.toNat, g.toNat)
  | none => s
def execCandidate (port : BitVec 3) (prio : BitVec 4) (coords : BitVec 10) (settled : Bool)
    (winner : Option (BitVec 64 × Nat × (BitVec 10 × BitVec 16 × BitVec 5))) (s : State) : Host.Outcome State Fault Refusal :=
  run (opCandidate port.toNat (prio.toNat, coords.toNat) settled winner) s

/-! ## Ring commits (R100, R321) -/

/-- The register that a check code tests, where it tests a fixed one. -/
def codeReg (code : Nat) : Nat :=
  match code with
  | 0x0302 => R.tikPeriod.off / 8
  | 0x0303 => R.tikWindow.off / 8
  | 0x0304 => R.tikGuard.off / 8
  | 0x0305 => R.tikPeriod.off / 8
  | 0x0306 => R.shfBudget.off / 8
  | 0x0307 => R.tikPeriod.off / 8
  | 0x0801 => R.vccRetrain.off / 8
  | 0x0802 => R.vccRetrain.off / 8
  | 0x1001 => R.stdEccCfg.off / 8
  | 0x1002 => R.stdEccCfg.off / 8
  | 0x1003 => R.rakRate.off / 8
  | 0x1101 => R.lnkCfg.off / 8
  | 0x1102 => R.d2dCfg.off / 8
  | 0x1103 => R.lnkCfg.off / 8
  | 0x1301 => R.clkDom.off / 8
  | 0x1302 => R.clkDom.off / 8
  | 0x1303 => R.rstWdt.off / 8
  | 0x1304 => R.rstWdt.off / 8
  | 0x1601 => R.pwrCap.off / 8
  | 0x1602 => R.thmPlace.off / 8
  | 0x1603 => R.pwrCap.off / 8
  | _ => 0

/-- The members of a ring commit: every part that shares the tick. -/
def State.members (s : State) : List Nat := sortBy id (s.own :: s.ring.parts)

/-- The first member that did not submit or whose values differ from those of the first that did. -/
def State.oddMember (s : State) (r : RingCommit) : Option Nat :=
  let sub := fun m => r.submitted.find? (fun x => x.part == m)
  let v := (s.members.findSome? sub).map (fun x => x.value)
  s.members.find? (fun m => match sub m with
    | none => true
    | some x => some x.value != v)

/-- The outcome of a ring commit by its submissions: 0x0307, or the first failed code of any member, or 0. -/
def State.ringOutcome (s : State) (r : RingCommit) : Nat :=
  if (s.oddMember r).isSome then 0x0307
  else ((s.members.filterMap (fun m => (r.submitted.find? (fun x => x.part == m)).map (fun x => x.code))).filter (fun c => c != 0)).headD 0

/-- A result reaches this part: it applies at the target edge, or fails. -/
def State.takeResult (s : State) (code : Nat) : State :=
  match s.ring.commit with
  | none => s
  | some r =>
    if code = 0 then { s with ring := { s.ring with commit := some { r with result := some 0 } } }
    else
      let odd := (s.oddMember r).getD 0
      let s := { s with ring := { s.ring with commit := none } }
      match s.commit with
      | none => s
      | some c =>
        if !c.ringed then s
        else match s.commitChecks c with
          | some f => s.failCommit (if f.1 = code then f else (code, codeReg code, 0))
          | none => s.failCommit (code, codeReg code, if code = 0x0307 then odd else 0)

/-- The timekeeper decides. -/
def State.decideRing (s : State) : State :=
  match s.ring.commit with
  | none => s
  | some r =>
    if r.result.isSome then s
    else
      let code := s.ringOutcome r
      (s.tell (s.ringWord .result code r.target none)).takeResult code

/-- A submission is kept; the timekeeper decides when it has one of every member. -/
def State.takeSubmission (s : State) (part code : Nat) (v : Nat × Nat × Nat) : State :=
  match s.ring.commit with
  | none => s
  | some r =>
    let r := { r with submitted := r.submitted.filter (fun x => x.part != part) ++ [{ part := part, code := code, value := v }] }
    let s := { s with ring := { s.ring with commit := some r } }
    if s.isKeeper && s.members.all (fun m => r.submitted.any (fun x => x.part == m)) then s.decideRing else s

/-- The value word of a request or submission, when it is valid: no reserved bit set. -/
def ringValue (w : RingWord) : Option (Nat × Nat × Nat) :=
  match w.value with
  | some (us, wi, g, 0) => some (us.toNat, wi.toNat, g.toNat)
  | _ => none

/-- This part's submission, once its checks are done. -/
def State.submitOwn (s : State) : State :=
  match s.commit with
  | some c => if c.ringed && c.checked then s.submit c (((s.commitChecks c).map (fun f => f.1)).getD 0) else s
  | none => s

/-- RING_COMMIT. A request that names an edge tells the timekeeper that its sender replays there: where that is the target edge, the
target moves on for every member. An announcement that moves the target of a commit that has passed defers it here (R90; log entry
52). -/
def opRingCommit (w : RingWord) (s : State) : State :=
  match w.phase with
  | .request =>
    if !s.isKeeper then s
    else if w.target = 0 then s.openRingCommit.submitOwn
    else if s.ringDueAt w.target.toNat then s.moveTarget else s
  | .announcement =>
    let moved := match s.ring.commit with
      | some r => r.result.isSome && decide (r.target % 2 ^ 28 ≠ w.target.toNat)
      | none => false
    let s := { s with ring := { s.ring with commit := some { s.ring.commit.getD {} with target := w.target.toNat } } }
    if moved then s.deferRinged else s.submitOwn
  | .submission => match ringValue w with
    | some v => s.takeSubmission w.part.toNat w.code.toNat v
    | none => s
  | .result => s.takeResult w.code.toNat
def execRingCommit (port : BitVec 3) (w : RingWord) (s : State) : Host.Outcome State Fault Refusal :=
  run (fun s => s.onWord port.toNat w.part.toNat (.commit w) (opRingCommit w)) s

/-- The edges left to the target of a ring commit, from its low 28 bits; 0 once it has passed. -/
def State.edgesTo (s : State) (r : RingCommit) : Nat :=
  let d := (r.target + 2 ^ 28 - s.getF F.tikCount_count % 2 ^ 28) % 2 ^ 28
  if d < 2 ^ 27 then d else 0

/-- RING_COMMIT_DEADLINE: 4 ticks before the target edge the timekeeper decides on what it has. -/
def opRingDeadline (s : State) : State :=
  match s.ring.commit with
  | some r => if s.isKeeper && decide (s.edgesTo r ≤ 4) then s.decideRing else s
  | none => s
def execRingCommitDeadline (s : State) : Host.Outcome State Fault Refusal := run opRingDeadline s

/-! ## Acknowledgements, retries, credits (R320, R323) -/

/-- ACKNOWLEDGEMENT: everything up to a sequence number has arrived in order. -/
def opAck (p : Nat) (seq : BitVec 16) (now : Nat) (s : State) : State :=
  let s := s.at_ now
  let es := (s.port p).replay
  match findIdx? (fun e => e.1.seq == seq) es with
  | some k => (s.modPort p (fun x => { x with replay := es.drop (k + 1) })).flushPort p
  | none => s
def execAcknowledgement (port : BitVec 3) (seq : BitVec 16) (now : Nat) (s : State) : Host.Outcome State Fault Refusal :=
  run (opAck port.toNat seq now) s

/-- RETRY_REQUEST: the sender resends from an envelope onward; an envelope resent 8 times takes the port down. -/
def opRetry (p : Nat) (seq : BitVec 16) (s : State) : State :=
  let es := (s.port p).replay
  match findIdx? (fun e => e.1.seq == seq) es with
  | none => s
  | some k =>
    if !s.portCarries p then s
    else
      let again := (es.drop k).map (fun e => (e.1, e.2 + 1))
      let s := (s.modPort p (fun x => { x with replay := es.take k ++ again })).bump F.lnkErr_retries p again.length
      let s := again.foldl (fun s e => s.send (.env p e.1)) s
      if again.any (fun e => decide (8 ≤ e.2)) then s.portFalls p else s
def execRetryRequest (port : BitVec 3) (seq : BitVec 16) (s : State) : Host.Outcome State Fault Refusal :=
  run (opRetry port.toNat seq) s

/-- CREDIT: the free envelope buffers of the far side. -/
def opCredit (p n : Nat) (s : State) : State := (s.modPort p (fun x => { x with credits := n })).flushPort p
def execCredit (port : BitVec 3) (free : BitVec 10) (s : State) : Host.Outcome State Fault Refusal :=
  run (opCredit port.toNat free.toNat) s

/-! ## Data envelopes (R319, R322 to R324) -/

/-- A flit reaches its L cell, or the spare that runs its stage (R69): dropped and counted under a stale sheaf epoch, else kept under
the path it was sent on. -/
def State.deliver (s : State) (p : Nat) (e : Envelope) : State :=
  let x := s.sheaf e.sheaf.toNat
  let c := s.runnerOf x.job e.dstCell.toNat
  if !x.inUse || x.epoch != e.sheafEpoch.toNat then s.bump F.lnkErr_epoch p
  else if e.tick.toNat != s.getF F.tikCount_count % 65536 || s.tick.windowOpen || (s.cell c).job.isNone || (s.cell c).stopped ||
      (s.cell c).finished.isSome then s
  else
    let path := if envRerouted e then sibling p else p
    (s.modCell c (fun x => { x with
      flits := x.flits ++ [(2 * path + bit (e.flags.getLsbD 0), e.offset.toNat * 256, slice e.payload 0 256)] })).runFrom c

/-- An envelope accepted in sequence: acknowledged, with a credit word for the buffers that are free, whose number the spec does not
give (R320; log entry 52); delivered, or sent on by the opposite side of its plane. -/
def State.takeEnv (s : State) (p : Nat) (e : Envelope) : State :=
  let s := s.modPort p (fun x => { x with rxSeq := (x.rxSeq + 1) % 65536, retryAsked := false, outSeq := none })
  let s := s.send (.ctl p s.own (.ack e.seq))
  let s := (s.send (.ctl p s.own (.credit (s.freeWord.setWidth 10)))).nextFree
  if e.dstPart.toNat = s.own then s.deliver p e else s.sendEnv (opposite p) e

/-- How far an envelope's number lies past the one due next. -/
def Port.past (x : Port) (e : Envelope) : Nat := (e.seq.toNat + 65536 - x.rxSeq) % 65536

/-- A bad or missing envelope is the first of its run: no retry is asked for yet, or what was sent again has come to the same number or
an earlier one than the run before and is bad or missing too. -/
def Port.newRun (x : Port) (e : Envelope) : Bool := !x.retryAsked || decide (x.past e ≤ x.outSeq.getD 0)

/-- DATA_ENVELOPE: an envelope that arrives. One whose CRC is wrong has no kind that can be trusted: it stands for a control envelope as
well (R319, R320). `badWords` of its codewords were beyond the FEC's correction. A good envelope that has been accepted before is dropped;
the first of a run that is bad, or follows a missing one, is answered with a retry request (R323). -/
def opEnvelope (p : Nat) (e : Envelope) (badWords corrected : Nat) (s : State) : State :=
  let s := (s.bump F.lnkFec_corrected p corrected).bump F.lnkFec_uncorrectable p badWords
  let good := badWords == 0 && envOk e
  let s := if good then s else s.bump F.lnkErr_crc p
  let x := s.port p
  if good && x.past e == 0 then s.takeEnv p e
  else if good && decide (32768 ≤ x.past e) then s
  else
    let s := s.setPort p { x with retryAsked := true, outSeq := some (x.past e) }
    if x.newRun e then s.send (.ctl p s.own (.retry (BitVec.ofNat 16 x.rxSeq))) else s
def execDataEnvelope (port : BitVec 3) (e : Envelope) (badWords corrected : Nat) (s : State) :
    Host.Outcome State Fault Refusal := run (opEnvelope port.toNat e badWords corrected) s

/-! ## Pauses, takes and releases (R332 to R336) -/

/-- A part holds take on a plane again: it counts towards the end of a pause, where the hop has gone. -/
def State.sawTake (s : State) (part plane : Nat) : State :=
  let held := s.tick.held
  let ws := s.ring.pauseWaits.map (fun (w : PauseEnd) =>
    if w.part == part && w.plane == plane && (held || !w.atEdge) then { w with again := true } else w)
  { s with ring := { s.ring with pauseWaits := ws } }.checkPause

/-- TAKE. -/
def execTake (port : BitVec 3) (part : BitVec 10) (plane : BitVec 2) (s : State) : Host.Outcome State Fault Refusal :=
  run (fun s => s.onWord port.toNat part.toNat (.take plane) (fun s =>
    (s.addPart part.toNat plane.toNat).sawTake part.toNat plane.toNat)) s

/-- RELEASE: the timekeeper announces a pause from the next edge, which lasts until the neighbours hold take again. The word does not name
the planes that its sender gives up (log entry 29). -/
def opRelease (part : Nat) (planes : List Nat) (s : State) : State :=
  let s := (s.memberGone planes part).waitForRelease part planes
  if s.isKeeper then s.announce { pause := true } else s
def execRelease (port : BitVec 3) (part : BitVec 10) (word : ReleaseWord) (s : State) :
    Host.Outcome State Fault Refusal :=
  run (fun s => s.onWord port.toNat part.toNat (.release word.tick) (opRelease part.toNat (word.planes.map BitVec.toNat))) s

/-- The bypassed sockets between this part and a peer on a port, from their coordinates (R316, R338): 5 stands for more. -/
def State.bypassedTo (s : State) (p peer : Nat) : Nat :=
  let row := decide (p < 4)
  let n := (if row then s.getF F.lnkRing_row_len else s.getF F.lnkRing_col_len) + 1
  let at_ := fun k => if row then k % 32 else k / 32
  let d := if p % 2 = 0 then (at_ peer + n - at_ s.own % n) % n else (at_ s.own + n - at_ peer % n) % n
  min 5 ((if d = 0 then n else d) - 1)

/-- A port trains against its peer, in so many ns: at full rate over at most two bypassed sockets, else at 112 Gb/s; one that had to go down
to 112 Gb/s over one or two is degraded. Whether it came up. -/
def State.trained (s : State) (p : Nat) (out : TrainOutcome) (ns : Nat) : State × Bool :=
  let s := (s.putF F.lnkTrain_edge p (s.getF F.tikCount_count % 2 ^ 32)).putF F.lnkTrain_dur p (min (ns / 10000) 4095)
  let up := fun (s : State) (full : Bool) (peer : BitVec 10) (hop : BitVec 14) =>
    let b := s.bypassedTo p peer.toNat
    let s := (s.putF F.lnkStat_peer p peer.toNat).putF F.lnkStat_bypassed p b
    if 4 < b ∨ (!full ∧ b = 0) then (s.putF F.lnkStat_state p lnkDown, false)
    else
      let s := s.modPort p (fun x => { x with
        hopNs := hop.toNat, txSeq := 0, rxSeq := 0, retryAsked := false, outSeq := none, failedTrains := 0, retraining := false })
      let s := s.putF F.lnkStat_rerouted p 0
      if full && decide (b ≤ 2) then (s.putF F.lnkStat_state p lnkFull, true)
      else
        let s := s.putF F.lnkStat_state p lnkHalf
        (if b ≤ 2 then s.raise 0x40 6 p (BitVec.ofNat 64 b) else s, true)
  match out with
  | .full peer hop => up s true peer hop
  | .reduced peer hop => up s false peer hop
  | .failed => (s.putF F.lnkStat_state p lnkDown, false)

/-- The part tells that it holds take on a plane, once all its ports there are up or have failed for good (log entry 29). -/
def State.tellTake (s : State) (k : Nat) : State :=
  if s.planeWhole k && [2 * k, 2 * k + 1].any s.portUp then (s.tell (.take (BitVec.ofNat 2 k))).sawTake s.own k else s

/-- A port that has come up: its peer shares the tick, and the part tells that it holds take. -/
def State.nowTakes (s : State) (p : Nat) : State := (s.addPart (s.getF F.lnkStat_peer p) (portPlane p)).tellTake (portPlane p)

/-- A port has failed to train: it waits for another retrain, or after three failures in a row it stays down (R343). -/
def State.trainFails (s : State) (p : Nat) : State :=
  let n := (s.port p).failedTrains + 1
  let s := s.modPort p (fun x => { x with failedTrains := n })
  let s := if n < 3 then s.putF F.lnkTrain_pending p 1
    else if n = 3 then ((s.countInStart F.stdBootRet_ports).raise 0x41 6 p 0).tellTake (portPlane p) else s
  s.aloneKeeper

/-- The ring stage of bring-up has come: stage 5, or in a Keep-resume start stage 3 (R427). -/
def State.ringStage (s : State) : Bool :=
  let st := s.getF F.stdBoot_stage
  (decide (5 ≤ st) && decide (st ≤ 7)) || (s.getF F.stdBoot_start == 2 && s.start.configured && decide (3 ≤ st) && decide (st ≤ 4))

/-- Whether a part may take a plane now: from the ring stage on, where the link plan gives the ring more than one socket (R425), out
of reset, the first plane of a ring before the second (R333). -/
def State.mayTake (s : State) (k : Nat) : Bool :=
  s.ringStage && (if k < 2 then s.getF F.lnkRing_row_len else s.getF F.lnkRing_col_len) != 0 && !s.heldPlanes.contains k && !s.planeReset (2 * k) && s.getF F.pwrStat_state == 0 &&
  (k % 2 == 0 || (s.portUp (2 * (k - 1)) && s.portUp (2 * (k - 1) + 1)))

/-- RING_TAKE: the plane's ports have trained in loop-back, the bypass opens, the neighbours retrain against the part. A port that fails is
handled as one that fails a retrain (R429). -/
def opRingTake (k : Nat) (east west : TrainOutcome) (eastNs westNs : Nat) (s : State) : State :=
  if !s.mayTake k then s
  else
    let alone := s.takePorts.isEmpty
    let s := { s with ring := { s.ring with releasedPlanes := s.ring.releasedPlanes.filter (fun x => x != k) } }
    let s := (s.putF F.lnkStat_take (2 * k) 1).putF F.lnkStat_take (2 * k + 1) 1
    let (s, a) := s.trained (2 * k) east eastNs
    let (s, b) := s.trained (2 * k + 1) west westNs
    let s := if a then s.nowTakes (2 * k) else s.trainFails (2 * k)
    let s := if b then s.nowTakes (2 * k + 1) else s.trainFails (2 * k + 1)
    (if alone && (a || b) then s.enterElection else s).becomeReady
def execRingTake (plane : BitVec 2) (east west : Training) (s : State) : Host.Outcome State Fault Refusal :=
  run (opRingTake plane.toNat east.outcome west.outcome east.ns west.ns) s

/-- BYPASS_SWITCHED: the switches of a plane follow its take (R332). -/
def opBypass (k : Nat) (s : State) : State :=
  let on := s.heldPlanes.contains k
  { s with ring := { s.ring with bypassOpen := (List.range 4).map (fun i => if i = k then on else s.ring.bypassOpen.getD i false) } }
def execBypassSwitched (plane : BitVec 2) (s : State) : Host.Outcome State Fault Refusal := run (opBypass plane.toNat) s

/-- LINK_RESET: setting LNK_CTL.reset releases the port's plane in order and holds both its ports in reset; clearing it leaves
them untrained (R334). -/
def opLinkReset (p : Nat) (on : Bool) (s : State) : State :=
  let k := portPlane p
  let s := ((s.putF F.lnkCtl_reset p (bit on)).markStale 6 (2 * k)).markStale 6 (2 * k + 1)
  let both := fun (s : State) (v : Nat) => (s.putF F.lnkStat_state (2 * k) v).putF F.lnkStat_state (2 * k + 1) v
  if on then (if s.heldPlanes.contains k then s.releasePlanes [k] else both s lnkReset)
  else if s.planeReset p || s.heldPlanes.contains k then s else both s lnkUntrained
def execLinkReset (by_ : Requester) (set : Bool) (s : State) : Host.Outcome State Fault Refusal :=
  run (fun s => if s.writes by_ R.lnkCtl.off then opLinkReset (s.sel by_ F.lnkSel_port) set s else s) s

/-- RING_RELEASE_TIMEOUT: 1 ms into an orderly stop, or 1.60 ms into a Keep entry, the bypasses close regardless (R491, R496). -/
def opReleaseTimeout (now : Nat) (s : State) : State :=
  let s := s.at_ now
  let due := match s.getF F.pwrStat_state, s.keep.entryAt with
    | 0, _ => false
    | 3, some t0 => decide (t0 + 1600000 ≤ now)
    | 3, none => false
    | _, _ => decide (s.start.stopAt + 1000000 ≤ now)
  if due then s.closePlanes s.heldPlanes else s
def execRingReleaseTimeout (now : Nat) (s : State) : Host.Outcome State Fault Refusal := run (opReleaseTimeout now) s

/-! ## Losses (R162, R335 to R337, R343) -/

/-- PORT_DOWN: resends or acknowledgements ran out, or the far side has gone. -/
def execPortDown (port : BitVec 3) (s : State) : Host.Outcome State Fault Refusal := run (fun s => s.portFalls port.toNat) s

/-- This part is at the end of a lost hop: both its ports of one side are down. -/
def State.atLoss (s : State) (r : RingId) : Bool :=
  (ringPorts r).any (fun p => s.lnk p == lnkDown && s.lnk (sibling p) == lnkDown)

/-- SUDDEN_LOSS: both planes of a ring are down at one hop; programs whose collectives had envelopes on it lose their tick, and
the timekeeper announces a pause until the parts on either side have retrained. Where the timekeeper is lost another is elected (R327). -/
def opSuddenLoss (r : RingId) (jobs parts ends : List Nat) (now : Nat) (s : State) : State :=
  let s := s.at_ now
  let s := jobs.foldl (fun s j =>
    (((s.prog j).stagesAt.filter (fun e => (s.cell e.1).unfinished && s.ringLeft e.1 e.2 (ringOf r))).foldl
      (fun s e => s.bump F.celColl_failed e.1) s).invalidate j) s
  let planes := [2 * ringOf r, 2 * ringOf r + 1]
  let s := parts.foldl (fun s k => s.memberGone planes k) s
  let ends := ((if s.atLoss r then [s.own] else []) ++ ends.filter (fun k => !parts.contains k)).eraseDups
  let s := planes.foldl (fun s k => s.waitFor k false ends) s
  if s.isKeeper then s.announce { pause := true }
  else if s.absent (s.getF F.lnkRing_keeper) then s.enterElection else s
def execSuddenLoss (ring : RingId) (loss : LossReport) (now : Nat) (s : State) : Host.Outcome State Fault Refusal :=
  run (opSuddenLoss ring (loss.jobs.map BitVec.toNat) (loss.parts.map BitVec.toNat) (loss.ends.map BitVec.toNat) now) s

/-- RING_BROKEN: the ring stays broken, and the pause ends at the next edge. -/
def opRingBroken (r : RingId) (s : State) : State :=
  let s := s.putF (if r = .row then F.lnkRing_row_broken else F.lnkRing_column_broken) 0 1
  let s := s.raise 0x42 6 (4 * ringOf r) (BitVec.ofNat 64 (ringOf r))
  if !s.tick.held then s
  else if s.isKeeper then s.announce { pauseEnds := true } else { s with ring := { s.ring with pauseEnds := true } }
def execRingBroken (ring : RingId) (s : State) : Host.Outcome State Fault Refusal := run (opRingBroken ring) s

/-! ## Retrains (R338, R340 to R343) -/

/-- SER_LIMIT: symbol errors of one ms above LNK_CFG.ser_limit ask for a retrain. -/
def opSerLimit (p n : Nat) (s : State) : State :=
  if s.getF F.lnkCfg_ser_limit < n ∧ s.portUp p then s.putF F.lnkTrain_pending p 1 else s
def execSerLimit (port : BitVec 3) (errors : Nat) (s : State) : Host.Outcome State Fault Refusal := run (opSerLimit port.toNat errors) s

/-- LINK_RETRAIN_REQUEST: a write of 1 to LNK_CTL.retrain. -/
def opLinkRetrain (p : Nat) (s : State) : State :=
  let s := s.putF F.lnkCtl_retrain p 1
  if s.portUp p ∨ s.lnk p = lnkDown then s.putF F.lnkTrain_pending p 1 else s
def execLinkRetrainRequest (by_ : Requester) (s : State) : Host.Outcome State Fault Refusal :=
  run (fun s => if s.writes by_ R.lnkCtl.off then opLinkRetrain (s.sel by_ F.lnkSel_port) s else s) s

/-- PORT_RETRAIN_DONE: the port comes up, or has failed to train. On a port that this part has not begun to retrain
it is the retrain that the part on the far side asked for (R341; log entry 52), which R342 binds as it does an own one; a part whose only
port it is enters an election (R327). -/
def opPortRetrainDone (p : Nat) (out : TrainOutcome) (durNs : Nat) (s : State) : State :=
  if !(s.port p).retraining && !((s.portUp p || s.lnk p == lnkDown) && s.mayJoin p) then s
  else
    let s := if s.portUp p then (s.putF F.lnkStat_state p lnkTraining).movePort p else s
    let alone := s.takePorts.isEmpty
    let s := s.bump F.lnkTrain_count p
    let s := ((s.putF F.lnkCtl_retrain p 0).putF F.lnkTrain_pending p 0).modPort p (fun x => { x with retraining := false })
    match s.trained p out durNs with
    | (s, true) =>
      let s := s.nowTakes p
      (if alone then s.enterElection else s).becomeReady
    | (s, false) => (s.trainFails p).becomeReady
def execPortRetrainDone (port : BitVec 3) (out : TrainOutcome) (durNs : Nat) (s : State) : Host.Outcome State Fault Refusal :=
  run (opPortRetrainDone port.toNat out durNs) s

/-- A hop of a ring may run below full rate: one that this part sees, or, where more than two parts share the tick, one between others. -/
def State.slowHop (s : State) (r : RingId) : Bool :=
  (ringPorts r).any (fun p => s.lnk p == lnkHalf) || decide (1 < s.ring.parts.length)

/-- RING_SLOW_RAISE: the collectives of a ring with a slow hop have been late in 16 consecutive ticks; the timekeeper raises the period by
their largest lateness over these (R340, R94): by its own record where it has such a collective itself, and by `lateness` for those of
other parts, which it does not see. -/
def opSlowRaise (r : RingId) (lateness : Nat) (s : State) : State :=
  let k := ringOf r
  let log := s.ring.lateLog.getD k []
  let worst := max lateness (maxList log)
  if !s.isKeeper || !s.slowHop r || worst == 0 || (!(s.ringStages k).isEmpty && decide (log.length < 16)) then s
  else { s with ring := { s.ring with lateLog := s.ring.lateLog.set k [] } }.declareRaise none (max 1 (ceilDiv worst 1000))
def execRingSlowRaise (ring : RingId) (lateness : Nat) (s : State) : Host.Outcome State Fault Refusal :=
  run (opSlowRaise ring lateness) s

/-! ## Sheafs of parts (R60) -/

/-- SHEAF_DIGEST: a member's digest of its descriptor of a sheaf of parts. -/
def opSheafDigest (part i : Nat) (d : List Byte) (s : State) : State :=
  let x := s.sheaf i
  s.setSheaf i { x with digests := x.digests.filter (fun e => e.1 != part) ++ [(part, d)] }
def execSheafDigest (port : BitVec 3) (part : BitVec 10) (sheaf : BitVec 12) (digest : List Byte) (s : State) :
    Host.Outcome State Fault Refusal :=
  run (fun s => s.onWord port.toNat part.toNat (.digest sheaf.toNat digest) (opSheafDigest part.toNat sheaf.toNat digest)) s

end Sys2Proof.Machine
end

