-- ==== Sys2Proof/Machine/FlashLog.lean ====
section
/-! DEFINITION. The event log in the flash (R445, R446, R504). -/

namespace Sys2Proof.Machine

/-- Where the next record of a sector goes: after its header, the first record place that is erased. -/
def State.logEnd (s : State) (i : Nat) : Nat :=
  ((List.range 2046).find? (fun k => (fread s.flash (logSector i + 64 + 32 * k) 32).all (fun b => decide (b = 0xFF)))).getD 2046

/-- A sector header: magic, sequence, count of cold starts. -/
def logHeader (seq count : Nat) : List Byte := leBytes 4 0x474F4C45 ++ leBytes 4 seq ++ leBytes 4 count ++ leBytes 52 0

/-- Counts a cold start in the current sector; a log that has no sector yet begins in sector 0, under a sequence that the spec
leaves open (log entry 5). -/
def State.countStart (s : State) : State :=
  match s.logCur with
  | some i =>
    let n := leNat (fread s.flash (logSector i + 8) 4)
    { s with flash := fwrite s.flash (logSector i + 8) (leBytes 4 (n + 1)) }
  | none =>
    let h := logHeader (s.freeWord.toNat % 2 ^ 32) 1
    { s with flash := fwrite (ferase s.flash (logSector 0) 0x10000) (logSector 0) h }.nextFree

/-- The sector that takes n more records: the current one, or the other, which then becomes the current one. -/
def State.logRoom (s : State) (n : Nat) : State × Nat :=
  let i := s.logCur.getD 0
  if s.logEnd i + n ≤ 2046 then (s, i)
  else
    let k := 1 - i
    let h := logHeader ((s.logSeq i + 1) % 2 ^ 32) (leNat (fread s.flash (logSector i + 8) 4))
    ({ s with flash := fwrite (ferase s.flash (logSector k) 0x10000) (logSector k) h }, k)

/-- Writes one record, with its payload, to the log. The other sector is erased once the current one is seven-eighths full. -/
def State.writeLog (s : State) (e : Event) (now : Nat) : State :=
  let s := if s.logCur.isNone then s.countStart else s
  let (s, i) := s.logRoom e.records
  let at_ := s.logEnd i
  let f := fwrite s.flash (logSector i + 64 + 32 * at_) e.bytes
  let f := if 64 + 32 * at_ < 57344 ∧ 57344 ≤ 64 + 32 * (at_ + e.records) then ferase f (logSector (1 - i)) 0x10000 else f
  { s with flash := f, logTimes := s.logTimes ++ List.replicate e.records now }

/-- Steading writes the oldest record that waits, at most 64 records in any second. -/
def State.logNext (s : State) (now : Nat) : State :=
  match s.logPend with
  | [] => s
  | e :: r =>
    let recent := s.logTimes.filter (fun t => decide (now < t + 1000000000))
    let s := { s with logTimes := recent }
    if 64 < recent.length + e.records then s else { s with logPend := r }.writeLog e now

/-- FLASH_LOG_WRITE. -/
def opFlashLogWrite (now : Nat) (s : State) : State :=
  let s := s.at_ now
  if s.start.steadingDown then s else s.logNext now
def execFlashLogWrite (now : Nat) (s : State) : Host.Outcome State Fault Refusal := run (opFlashLogWrite now) s

/-- Everything that waits for the log is written, as far as a second takes it: a stop's last action (R418, R491, R499). -/
def State.flushLog (s : State) : State := iterate (fun s => s.logNext s.now) s.logPend.length s

end Sys2Proof.Machine
end

