-- ==== Sys2Proof/Machine/Resets.lean ====
section
/-! DEFINITION. Resets (R405 to R418, Tables 13.4 to 13.6): the cold, warm and Steading resets and their sources, the reset
bits of cells, stooks and sheafs, the watchdog, the reset storm, the thermal trip. -/

namespace Sys2Proof.Machine

/-! ## The cold reset (Table 13.5) -/

/-- The rails of the start set; in Keep only those that Keep requires (R407). -/
def State.startSet (s : State) : List Rail := if s.onF F.pwrKeep_keep_ok then [.vmem, .vstby] else [.vinCore, .vmem, .vio, .vstby]

/-- The part is held in cold reset: option loading waits for a pin, a rail, the end of a trip or of the storm. -/
def State.heldInReset (s : State) : Bool :=
  s.start.porstLow || s.start.tripHold || s.start.tripForever || s.start.storm || s.start.railsLow.any (fun r => s.startSet.contains r)

/-- A cold reset: everything returns to its reset value but the standby domain, the flash, the one-time-programmable store and
the host's memory; with KEEP_OK asserted the lofts and the Keep record are kept, and the return from Keep, or a PORST_N meanwhile, takes
the Keep-resume path (Table 16.5). A reset during option loading counts as a restart of it (R412, R413), but not one in the 1 ms before it
begins; in the hold of a trip the cooling goes on (R418). -/
def State.coldReset (s : State) (cause : Nat) : State :=
  let keep := s.onF F.pwrKeep_keep_ok
  let again := s.start.loading && !s.heldInReset && decide (s.start.loadAt ≤ s.now)
  let s := s.cutOtp.cutImage
  let x := s.start
  let r : State := { State.reset with
    pending := s.pending, now := s.now, fresh := s.fresh, out := s.out, hostMem := s.hostMem, flash := s.flash, otp := s.otp
    fuseCells := s.fuseCells, repairMark := s.repairMark
    heat := if x.tripHold then { sentinels := s.heat.sentinels, coolSince := s.heat.coolSince } else {}
    devMem := if keep then s.devMem else [], loftErr := if keep then s.loftErr else [], keep := if keep then s.keep else {}
    start := {
      loadAt := max s.now x.loadAt, restartTimes := if again then x.restartTimes ++ [s.now] else x.restartTimes
      storm := x.storm, tripTimes := x.tripTimes, tripHold := x.tripHold, tripForever := x.tripForever, therm := x.therm
      railsLow := x.railsLow, porstLow := x.porstLow, perstLow := x.perstLow, pwrfailLow := x.pwrfailLow } }
  let r := (r.setReg R.rstCause 0 (s.reg R.rstCause 0)).setReg R.pwrKeep 0 (s.reg R.pwrKeep 0)
  (r.putF F.rstCause_cold 0 (if keep && cause == 1 then 5 else cause)).putF F.rstCause_storm 0 0

/-- A cold reset whose cause the spec gives no code: one of the codes that stand for no return from Keep (log entry 5). -/
def State.coldResetFree (s : State) : State :=
  let v := s.freeWord.toNat % 3
  s.nextFree.coldReset v

/-- The loss of VSTBY clears the standby domain as well (R407). -/
def State.loseStandby (s : State) : State :=
  let s := s.cutOtp.cutImage
  let x := s.start
  { State.reset with
    pending := s.pending, now := s.now, fresh := s.fresh, out := s.out, hostMem := s.hostMem, flash := s.flash, otp := s.otp
    fuseCells := s.fuseCells, repairMark := s.repairMark
    start := { loadAt := s.now, railsLow := x.railsLow, porstLow := x.porstLow, perstLow := x.perstLow, pwrfailLow := x.pwrfailLow } }

/-- Keep is given up (R499): KEEP_OK falls and the lofts' contents go. The event's argument numbers no cause in the spec, so it
is free. -/
def State.giveUpKeep (s : State) : State :=
  let held := (s.now - s.keep.enteredAt) / 1000000000
  let s := { s with devMem := [], loftErr := [], keep := {} }
  let s := ((s.putF F.pwrKeep_keep_ok 0 0).putF F.pwrKeep_record 0 0).putF F.pwrKeep_last 0 2
  let s := s.putF F.pwrKeep_held_s 0 (min held (2 ^ 32 - 1))
  let s := (s.raise 0x06 0 0 s.freeWord).nextFree
  s.flushLog

/-- The operating range of a rail in mV (Table 18.4), and its number as an event source. -/
def railRange : Rail → Nat × Nat
  | .vinCore => (1520, 1680)
  | .vmem => (1140, 1260)
  | .vio => (855, 945)
  | .vstby => (1710, 1890)
def railNo : Rail → Nat
  | .vinCore => 0
  | .vmem => 1
  | .vio => 2
  | .vstby => 3

/-- POWER_ON_DETECTION: a rail is measured outside its range for 2 µs, or 10 mV inside it again (R534); option loading begins no earlier
than 1 ms after the last rail's return (R405, R535). -/
def opPowerOn (r : Rail) (mv now : Nat) (s : State) : State :=
  let s := s.at_ now
  let (lo, hi) := railRange r
  if mv < lo ∨ hi < mv then
    let s := if r = .vstby then s.loseStandby
      else if !s.startSet.contains r || s.start.storm then s
      else (if s.onF F.pwrKeep_keep_ok then s.giveUpKeep else s).coldReset 0
    { s with start := { s.start with railsLow := if s.start.railsLow.contains r then s.start.railsLow else s.start.railsLow ++ [r] } }
  else if lo + 10 ≤ mv ∧ mv + 10 ≤ hi ∧ s.start.railsLow.contains r then
    { s with start := { s.start with
        railsLow := s.start.railsLow.filter (fun x => x != r)
        loadAt := if s.start.loading then now + 1000000 else s.start.loadAt } }
  else s
def execPowerOnDetection (rail : Rail) (mv now : Nat) (s : State) : Host.Outcome State Fault Refusal := run (opPowerOn rail mv now) s

/-- PORST_N: low for 200 ns or longer. In the storm hold only STORM_EXIT ends it; after the third trip within an hour only 10 ms
do; in Keep the level is noted and the reset comes at the end of Keep (Table 16.5). -/
def opPorst (lowNs now : Nat) (s : State) : State :=
  let s := s.at_ now
  if decide (lowNs < 200) || s.start.storm || s.start.porstLow then s
  else if s.keep.inKeep then { s with start := { s.start with porstLow := true } }
  else
    let out := s.start.tripForever && decide (10000000 ≤ lowNs)
    let s := if out then { s with start := { s.start with tripForever := false, tripHold := false, therm := false } } else s
    let s := s.coldReset 1
    { s with start := { s.start with porstLow := true } }
def execPorstN (lowNs now : Nat) (s : State) : Host.Outcome State Fault Refusal := run (opPorst lowNs now) s

/-- PORST_N_RELEASE: the release is accepted once the pin has been high for 200 ns, and `now` is that instant (R406, log entry 42); option
loading starts. -/
def opPorstRelease (now : Nat) (s : State) : State :=
  let s := s.at_ now
  if s.start.porstLow then { s with start := { s.start with porstLow := false, loadAt := if s.keep.inKeep then s.start.loadAt else max s.start.loadAt now } }
  else s
def execPorstNRelease (now : Nat) (s : State) : Host.Outcome State Fault Refusal := run (opPorstRelease now) s

/-- The restarts of option loading within the second that ends now (R413). -/
def State.recentRestarts (s : State) (now : Nat) : Nat :=
  (s.start.restartTimes.filter (fun t => decide (now ≤ t + 1000000000))).length

/-- RESET_STORM: the eighth restart in a second puts the part in the hold. -/
def opStorm (now : Nat) (s : State) : State :=
  let s := s.at_ now
  if s.start.loading && decide (8 ≤ s.recentRestarts now) then { s with start := { s.start with storm := true } } else s
def execResetStorm (now : Nat) (s : State) : Host.Outcome State Fault Refusal := run (opStorm now) s

/-- STORM_EXIT: PORST_N low for 10 ms ends the hold; option loading starts at its release (R414). -/
def opStormExit (lowNs now : Nat) (s : State) : State :=
  let s := s.at_ now
  if s.start.storm && decide (10000000 ≤ lowNs) then
    let s := { s with start := { s.start with storm := false, restartTimes := [], porstLow := true } }
    (s.putF F.rstCause_cold 0 4).putF F.rstCause_storm 0 1
  else s
def execStormExit (lowNs now : Nat) (s : State) : Host.Outcome State Fault Refusal := run (opStormExit lowNs now) s

/-! ## The warm reset (R360, R408, R409) -/

/-- The registers of the host interface and of Chute return to their reset values, and every Chute channel stops with no result
(R360). -/
def State.hostReset (s : State) : State :=
  { s with
    regs := s.regs.filter (fun e => e.1 / 65536 / 512 != 0xD && e.1 / 65536 / 512 != 0xE)
    msix := [], sqTails := [], cqHeads := [], wroteCq := [], heldCq := [], chutes := []
    accWait := s.accWait.filter (fun a => a.result.isNone) }

/-- A request for a report is abandoned, and the attestation window reads zero (R470, R471). -/
def State.attAbandon (s : State) : State :=
  let s := if s.onF F.stdAttCtl_go then (s.putF F.stdAttCtl_go 0 0).putF F.stdAttCtl_status 0 3 else s
  { s with attBody := [], report := [], attZero := true }

/-- Every program is unloaded, and every stream, job and sheaf identifier in use goes into quarantine (R408 items 3 and 4), counted from the
edge that ends the tick in progress (R236). -/
def State.unloadAll (s : State) : State :=
  let edge := s.nextEdge
  let s := s.openStreams.foldl (fun s i => s.closeSilently i edge) s
  let s := s.jobs.foldl (fun s j => s.dropProgram j edge) s
  { s with ctl := { s.ctl with waiting := [], loads := [] } }

/-- Commits in flight are abandoned (R408 item 5). -/
def State.dropCommits (s : State) : State :=
  (if s.commit.isSome then { s with commit := none }.putF F.tikCmtStat_result 0 0 else s.putF F.tikCmtStat_result 0 0)

/-- Every go and hold is cleared (R416). -/
def State.clearResets (s : State) : State :=
  let s := [0, 1, 2].foldl (fun s k => s.putF (resetHold k) 0 0) { s with resets := [] }
  let s := (s.cells.filter (fun e => e.2.inReset)).foldl (fun s e => s.modCell e.1 (fun x => { x with inReset := false })) s
  s.showResets

/-- A flail command of a stage, not of the port nor of the Rake. -/
def FlailCmd.ofStage (f : FlailCmd) : Bool := !f.port && f.op != 5

/-- The flails of a channel in a warm reset: an operation in progress runs to its end and its results are discarded, a queued command of a
stage is dropped with what it would send, those of the Rake and of the port stay (Table 9.6). -/
def Chan.warmFlails (x : Chan) : Chan :=
  { x with
    flails := (x.flails.filter (fun f => f.running || !f.ofStage)).map (fun f => if f.running then { f with discard := true, left := 1 } else f)
    scored := [], burst := [], burstTags := [] }

/-- The flails and the accesses of the stages that a warm reset stops; what waited behind them goes on. -/
def State.dropStageFlails (s : State) : State :=
  let s := ((s.chans.filter (fun e => e.2.warmFlails != e.2)).map (fun e => e.1)).foldl (fun s c =>
    (s.modChan c Chan.warmFlails).showFlails c) s
  { s with accWait := s.accWait.filter (fun a => (readerCell a.reader).isNone) }.goOn

/-- The warm reset: every cell stops, the host interface resets, programs go. During a start it resets the host interface alone
(R432); in a Keep entry programs and streams are kept for the record (Table 16.5). -/
def State.warmReset (s : State) : State :=
  let s := s.bump F.rstCause_warm 0
  let st := s.getF F.pwrStat_state
  if s.getF F.stdBoot_stage != 7 then s.hostReset
  else
    let s := (s.stopStages s.now).dropStageFlails
    let s := if st = 3 then s.keepComputeStop else s.unloadAll
    let s := (s.hostReset.dropCommits.attAbandon).clearResets
    let s := opRevert { s with autos := [] }
    { s with start := { s.start with warmReset := s.tick.running } }

/-- PERST_N: low for 200 ns or longer. During option loading, in a hold, or in Keep it resets nothing (R412, Table 16.5), but the host
interface does not come up while the pin is low. -/
def opPerst (lowNs : Nat) (s : State) : State :=
  if decide (lowNs < 200) || s.start.perstLow then s
  else
    let s := if s.start.loading || s.heldInReset || s.keep.inKeep then s else s.warmReset
    { s with start := { s.start with perstLow := true } }
def execPerstN (lowNs : Nat) (s : State) : Host.Outcome State Fault Refusal := run (opPerst lowNs) s

/-- PERST_N_RELEASE, accepted at `now` after 200 ns of a high level (R406, log entry 42): the link trains; the control plane returns at the next edge, where ticks run (R409). -/
def opPerstRelease (now : Nat) (s : State) : State :=
  let s := s.at_ now
  { s with start := { s.start with perstLow := false, warmReset := s.start.warmReset && s.tick.running } }
def execPerstNRelease (now : Nat) (s : State) : Host.Outcome State Fault Refusal := run (opPerstRelease now) s

/-! ## Steading restarts and the watchdog (R415, R417, Table 13.5) -/

/-- Steading restarts: programming of a generation stops, a request for a report is abandoned, and a broadcast in progress
begins again (R463, R471, Table 14.11). -/
def State.restartSteading (s : State) (now : Nat) : State :=
  let s := s.cutOtp.attAbandon.steadingStops
  { s with start := { s.start with wdtAt := now, gotSegs := if s.getF F.stdBoot_stage = 3 then [] else s.start.gotSegs,
                                   asked := if s.getF F.stdBoot_stage = 3 then [] else s.start.asked,
                                   sentSegs := if s.getF F.stdBoot_stage = 3 then [] else s.start.sentSegs } }

/-- STEADING_RESTART: a write of 1 to RST_STD.restart. -/
def opSteadingRestart (by_ : Requester) (now : Nat) (s : State) : State :=
  let s := s.at_ now
  if by_ == .i3c || s.start.loading || !s.reaches by_ R.rstStd.off then s else (s.putF F.rstStd_restart 0 1).restartSteading now
def execSteadingRestart (by_ : Requester) (now : Nat) (s : State) : Host.Outcome State Fault Refusal :=
  run (opSteadingRestart by_ now) s

/-- WATCHDOG_RESTART: by the firmware. -/
def opWdtRestart (now : Nat) (s : State) : State :=
  let s := s.at_ now
  if s.start.loading || s.start.steadingDown then s else { s with start := { s.start with wdtAt := now } }
def execWatchdogRestart (now : Nat) (s : State) : Host.Outcome State Fault Refusal := run (opWdtRestart now) s

/-- WATCHDOG_EXPIRY: by reach. Keep is held, so in Keep only Steading restarts (Table 16.5). -/
def opWdtExpiry (now : Nat) (s : State) : State :=
  let s := s.at_ now
  if s.start.loading || decide (now < s.start.wdtAt + s.wdtMs * 1000000) then s
  else
    let s := s.bump F.rstCause_wdt 0
    let reach := s.wdtReach
    if reach = 2 ∧ !s.keep.inKeep then s.coldReset 2
    else
      let s := s.restartSteading now
      if reach = 1 ∧ !s.keep.inKeep then
        let s := s.warmReset
        { s with start := { s.start with perstUntil := now + 1000000 } }
      else s
def execWatchdogExpiry (now : Nat) (s : State) : Host.Outcome State Fault Refusal := run (opWdtExpiry now) s

/-! ## The thermal trip (R418, R533) -/

/-- THERMAL_TRIP: a sentinel at 115 °C stops every cell; what Steading can do within 1 ms of the orderly stop is done; then the
cold reset. The third trip within an hour holds the part until PORST_N. -/
def opTrip (k : Nat) (t : Int) (now : Nat) (s : State) : State :=
  let s := s.at_ now
  if decide (t < deg 115) || s.start.tripHold || s.start.storm then s
  else
    let s := (s.takeReadings [{ sensor := sentinelNo k, value := t }]).bump F.rstCause_thermal 0
    let times := s.start.tripTimes.filter (fun x => decide (now ≤ x + 3600000000000)) ++ [now]
    let s := (s.stopStages now).raise 0x66 0xD (sentinelNo k) (tempArg t)
    let s := s.activeJobs.foldl State.invalidate s
    let s := if s.start.steadingDown || s.start.loading || s.keep.inKeep then s
      else
        let s := if s.getF F.pwrStat_state = 2 then s else ((s.putF F.pwrStat_state 0 0).beginStop 2 true).closePlanes s.heldPlanes
        s.flushLog
    let s := if s.onF F.pwrKeep_keep_ok then s.giveUpKeep else s
    let s := s.coldReset 3
    { s with start := { s.start with tripHold := true, therm := true, tripTimes := times, tripForever := decide (3 ≤ times.length) } }
def execThermalTrip (sentinel : BitVec 6) (reading : Int) (now : Nat) (s : State) : Host.Outcome State Fault Refusal :=
  run (opTrip sentinel.toNat reading now) s

/-- TRIP_HOLD_END: every sentinel has read below 85 °C for 10 s; THERMTRIP_N is released and option loading starts. -/
def opTripEnd (now : Nat) (s : State) : State :=
  let s := s.at_ now
  match s.heat.coolSince with
  | some t =>
    if s.start.tripHold && !s.start.tripForever && decide (t + 10000000000 ≤ now) then
      { s with start := { s.start with tripHold := false, therm := false, loadAt := max s.start.loadAt now }, heat := { s.heat with coolSince := none } }
    else s
  | none => s
def execTripHoldEnd (now : Nat) (s : State) : Host.Outcome State Fault Refusal := run (opTripEnd now) s

/-! ## The reset bits of cells (R415, R416, R140) -/

/-- The enabled cells of a target: a cell, a stook, a sheaf with every sheaf below it. -/
def State.resetCells (s : State) (kind target : Nat) : List Nat :=
  (if kind = 0 then [target] else if kind = 1 then allCells.filter (fun c => stookOf c == target) else s.cellsOfSheaf target).filter
    (fun c => !s.disabled c)

/-- A cell enters reset: its stage stops, its pass in progress is discarded and its tables go, and its registers show that; its router marks
the producer lost. -/
def State.enterReset (s : State) (c : Nat) : State :=
  if (s.cell c).inReset then s
  else
    let x := s.cell c
    let s := match x.job, s.stageOf c with
      | some j, some (_, t) => t.dst.foldl (fun (s : State) k => s.send (.lostMark (s.runnerOf j k) c)) s
      | _, _ => s
    let s := (s.dropPass c).showIdle c
    (s.modCell c (fun x => ({ x with
      inReset := true, job := none, started := none, finished := none, stopped := false, memHeld := none, flailSince := [], prepared := false
      rowsIn := [], lost := [], rowsOut := []
      doneOps := [], inTick := [], increments := [], flits := [] } : Cell).dropTables)).markStale 1 c

/-- A target is put into reset. Before the validation point the tick is invalid for every program with a stage on one of its
cells. -/
def State.putInReset (s : State) (kind target : Nat) : State :=
  let cs := s.resetCells kind target
  let jobs := (cs.filterMap s.jobOfCell).eraseDups
  let s := if s.tick.running then jobs.foldl State.invalidate s else s
  cs.foldl State.enterReset s

/-- The record of a target, and setting it. -/
def State.resetHoldOf (s : State) (kind target : Nat) : ResetHold :=
  (s.resets.find? (fun r => r.kind == kind && r.target == target)).getD { kind := kind, target := target, cells := s.resetCells kind target }
def State.setResetHold (s : State) (r : ResetHold) : State :=
  { s with resets := s.resets.filter (fun (x : ResetHold) => !(x.kind == r.kind && x.target == r.target)) ++ [r] }.showResets

/-- A go pulse: released at the first edge at least 1 µs on. -/
def opResetGo (kind now : Nat) (s : State) : State :=
  let s := s.at_ now
  let t := s.getF (resetTarget kind)
  let s := s.putInReset kind t
  let r := s.resetHoldOf kind t
  s.setResetHold { r with pulse := true, releaseAfter := max r.releaseAfter (now + 1000) }

/-- A write of hold: it holds the target until it is cleared. -/
def opResetHold (kind : Nat) (on : Bool) (now : Nat) (s : State) : State :=
  let s := s.at_ now
  let t := s.getF (resetTarget kind)
  let was := s.onF (resetHold kind)
  let s := s.putF (resetHold kind) 0 (bit on)
  if was = on then s
  else if on then
    let s := s.putInReset kind t
    s.setResetHold { s.resetHoldOf kind t with held := true }
  else
    let r := s.resetHoldOf kind t
    s.setResetHold { r with held := false, releaseAfter := max r.releaseAfter (now + 1000) }

/-- Only the physical function and the firmware write the reset bits (R415). -/
def State.mayReset (s : State) (by_ : Requester) : Bool := by_ != .i3c && s.reaches by_ R.rstCell.off

def execCellResetGo (by_ : Requester) (now : Nat) (s : State) : Host.Outcome State Fault Refusal :=
  run (fun s => if s.mayReset by_ then opResetGo 0 now s else s) s
def execCellResetHold (by_ : Requester) (set : Bool) (now : Nat) (s : State) : Host.Outcome State Fault Refusal :=
  run (fun s => if s.mayReset by_ then opResetHold 0 set now s else s) s
def execStookResetGo (by_ : Requester) (now : Nat) (s : State) : Host.Outcome State Fault Refusal :=
  run (fun s => if s.mayReset by_ then opResetGo 1 now s else s) s
def execStookResetHold (by_ : Requester) (set : Bool) (now : Nat) (s : State) : Host.Outcome State Fault Refusal :=
  run (fun s => if s.mayReset by_ then opResetHold 1 set now s else s) s
def execSheafResetGo (by_ : Requester) (now : Nat) (s : State) : Host.Outcome State Fault Refusal :=
  run (fun s => if s.mayReset by_ then opResetGo 2 now s else s) s
def execSheafResetHold (by_ : Requester) (set : Bool) (now : Nat) (s : State) : Host.Outcome State Fault Refusal :=
  run (fun s => if s.mayReset by_ then opResetHold 2 set now s else s) s

end Sys2Proof.Machine
end

