-- ==== Sys2Proof/Machine/ImageCheck.lean ====
section
/-! DEFINITION. The flash image and its verification (R423 to R426, Tables 14.3 to 14.6), and the repair record (R439, R440). -/

namespace Sys2Proof.Machine

/-! ## The header (Tables 14.3 to 14.5) -/

/-- A segment of the image: type, offset, length, digest. -/
structure Segment where
  type : Nat := 0
  off : Nat := 0
  len : Nat := 0
  digest : List Byte := []
  deriving DecidableEq, Repr

def hdrLen (h : List Byte) : Nat := fieldAt h 8 4
def hdrSvn (h : List Byte) : Nat := fieldAt h 0xC 4
def hdrBuild (h : List Byte) : Nat := fieldAt h 0x10 8
def hdrKey (h : List Byte) : List Byte := slice h 0x340 1793
def hdrSig (h : List Byte) : List Byte := slice h 0xA80 1280
def hdrMsg (h : List Byte) : List Byte := shake256 (slice h 0 0xA80) 64
def hdrSeg (h : List Byte) (i : Nat) : Segment :=
  let e := slice h (0x40 + 48 * i) 48
  { type := fieldAt e 0 2, off := fieldAt e 4 4, len := fieldAt e 8 4, digest := slice e 0x10 32 }
def hdrSegs (h : List Byte) : List Segment := (List.range 5).map (hdrSeg h)
/-- The segment of a type. -/
def segOf (h : List Byte) (t : Nat) : Segment := ((hdrSegs h).find? (fun g => g.type == t)).getD {}

/-- A segment's length is within the limits of its type. -/
def segLenOk (g : Segment) : Bool :=
  if g.type = 1 then decide (4096 ≤ g.len) && decide (g.len ≤ 0x40000)
  else if g.type = 2 then decide (4096 ≤ g.len) && decide (g.len ≤ 0xC00000)
  else if g.type = 3 then decide (16 ≤ g.len) && decide (g.len ≤ 16384) && g.len % 16 == 0
  else if g.type = 4 then g.len == 240
  else g.type == 5 && g.len == 16

def segsApart (gs : List Segment) : Bool :=
  gs.all (fun a => gs.all (fun b => a.type == b.type || decide (a.off + a.len ≤ b.off) || decide (b.off + b.len ≤ a.off)))

/-- Check 0x02. -/
def headerOk (h : List Byte) : Bool :=
  let gs := hdrSegs h
  fieldAt h 0 4 == 0x4D495244 && fieldAt h 4 2 == 1 && fieldAt h 6 2 == 5 &&
  decide (8192 ≤ hdrLen h) && decide (hdrLen h ≤ 0x1000000) && hdrLen h % 4096 == 0 &&
  decide (12 ≤ fieldAt h 0x18 1) && decide (fieldAt h 0x18 1 ≤ 200) && decide (fieldAt h 0x19 1 ≤ 31) &&
  zeroAt h 0x1A 38 && zeroAt h (0x40 + 240) 528 && zeroAt h 0xA41 63 && zeroAt h 0xF80 128 &&
  [1, 2, 3, 4, 5].all (fun t => (gs.filter (fun g => g.type == t)).length == 1) &&
  (List.range 5).all (fun i => zeroAt h (0x40 + 48 * i + 2) 2 && zeroAt h (0x40 + 48 * i + 0xC) 4) &&
  gs.all (fun g => segLenOk g && g.off % 4096 == 0 && decide (4096 ≤ g.off) && decide (g.off + g.len ≤ hdrLen h)) && segsApart gs

/-! ## The configuration segments (R425) -/

/-- Entries of the default configuration: BAR0 offset and value. -/
def cfgEntries (b : List Byte) : List (Nat × Word) :=
  (chunksOf 16 1024 b).map (fun e => (fieldAt e 0 4, BitVec.ofNat 64 (fieldAt e 8 8)))

/-- The key and word that an entry gives an ST register; a selected one in its first copy. -/
def cfgSt (e : Nat × Word) : Option (Nat × Word) :=
  (stRegs.find? (fun r => r.off == e.1)).map (fun r => (regKey r 0, (regReset r 0 &&& ~~~stMask r) ||| (e.2 &&& stMask r)))

/-- The MiB of the prefix region: of the last entry that names PFX_CFG, else 0 (R223). -/
def cfgMib (b : List Byte) : Nat :=
  (((cfgEntries b).reverse.find? (fun e => e.1 == R.pfxCfg.off)).map (fun e => fieldGet e.2 0 7)).getD 0

/-- The CLK_DOM word of a domain in a clock plan. -/
def planWord (b : List Byte) (d : Nat) : Word := BitVec.ofNat 64 (fieldAt b (4 * d) 1 + 4 * fieldAt b (4 * d + 1) 1)

/-- What the default configuration and the clock plan set, the value that counts first: a register named twice takes its last
value, RST_WDT unless named 1,000 ms and Steading. -/
def cfgSets (cfg plan : List Byte) : List (Nat × Word) :=
  ((cfgEntries cfg).filterMap cfgSt).reverse ++ (List.range 60).map (fun d => (regKey R.clkDom d, planWord plan d)) ++
  [(regKey R.rstWdt 0, 1000)]

/-- Every commit check but readiness passes on a part at its reset values (R425). -/
def cfgChecks (cfg plan : List Byte) : Bool :=
  let c : CommitSt := { captured := (cfgSets cfg plan).filter (fun e => keyReg e.1 != some R.clkDom || !domFixed (keyInst e.1)) }
  let s := State.reset
  ((s.chkTick c ++ s.chkRest c).filterMap id).all (fun f => f.1 == 0x1701)

/-- Check 0x07. -/
def configOk (cfg plan link : List Byte) : Bool :=
  (cfgEntries cfg).all (fun e => (cfgSt e).isSome || (e.1 == R.pfxCfg.off && decide (fieldGet e.2 0 7 ≤ 64))) &&
  (List.range 60).all (fun d =>
    if domFixed d then fieldAt plan (4 * d) 1 == 0 && fieldAt plan (4 * d + 1) 1 == 8
    else decide (fieldAt plan (4 * d) 1 < 4) && !domBad d (planWord plan d)) &&
  cfgChecks cfg plan &&
  decide (1 ≤ fieldAt link 2 1) && decide (fieldAt link 2 1 ≤ 32) && decide (1 ≤ fieldAt link 3 1) && decide (fieldAt link 3 1 ≤ 32) &&
  decide (fieldAt link 4 1 ≤ 15)

/-! ## Verification (R426, R448) -/

/-- The bytes of a segment from where an image is read. -/
def segBytes (src : Nat → Nat → List Byte) (g : Segment) : List Byte := src g.off g.len

def segDigestOk (src : Nat → Nat → List Byte) (g : Segment) : Bool := shake256 (segBytes src g) 32 == g.digest

/-- The vendor key is the one whose digest the store holds (check 0x03). -/
def State.keyTrusted (s : State) (h : List Byte) : Bool := s.factoryOk && shake256 (hdrKey h) 64 == s.otpAt 0x40 64

/-- The code of the first of checks 2 to 7 that an image fails, 0 for none. `minSvn` gives the lowest svn accepted, none where no
generation is confirmed; `tables` says whether the cell sequencer tables are read now. -/
def State.verifyImage (s : State) (src : Nat → Nat → List Byte) (minSvn : Option Nat) (tables : Bool) : Nat :=
  let h := src 0 4096
  let gs := (hdrSegs h).filter (fun g => tables || g.type != 2)
  if !headerOk h then 2
  else if !s.keyTrusted h then 3
  else if !sigOk (hdrKey h) (hdrMsg h) (hdrSig h) then 4
  else if (match minSvn with
    | some m => decide (hdrSvn h < m)
    | none => true) then 5
  else if !gs.all (segDigestOk src) then 6
  else if !configOk (segBytes src (segOf h 3)) (segBytes src (segOf h 4)) (segBytes src (segOf h 5)) then 7
  else 0

/-- The image of the flash, and of the recovery buffer. -/
def State.flashSrc (s : State) (o n : Nat) : List Byte := fread s.flash o n
def State.bufSrc (s : State) (o n : Nat) : List Byte := mread s.rcvBuf o n

/-! ## The repair record (R439, R440, Table 14.10) -/

def recArea (i : Nat) : Nat := 0x1000000 + 0x400000 * i
def State.recNat (s : State) (i o n : Nat) : Nat := leNat (fread s.flash (recArea i + o) n)

/-- The record in an area is valid. -/
def State.recOk (s : State) (i : Nat) : Bool :=
  let n := s.recNat i 0x10 4
  let m := s.recNat i 0x14 4
  s.recNat i 0 4 == 0x44525052 && s.recNat i 8 8 == s.serial && decide (m ≤ 786432) && n == 0x10040 + 4 * m &&
  shake256 (fread s.flash (recArea i + 0x40) (n - 0x40)) 32 == fread s.flash (recArea i + 0x20) 32

/-- The area of the current record: of two valid ones the higher sequence, modulo 2³². -/
def State.recCur (s : State) : Option Nat :=
  if s.recOk 0 && s.recOk 1 then some (bit (decide ((s.recNat 1 4 4 + 2 ^ 32 - s.recNat 0 4 4) % 2 ^ 32 < 2 ^ 31)))
  else if s.recOk 1 then some 1 else if s.recOk 0 then some 0 else none

/-- A channel entry of the current record: its state byte, spare bonds, remaps. -/
structure ChanRec where
  state : Nat := 0
  bonds : List (Nat × Nat) := []
  remaps : List (Nat × Nat × Nat) := []
  deriving DecidableEq, Repr

def State.recChan (s : State) (i c : Nat) : ChanRec :=
  let o := 0x40 + 64 * c
  let first := s.recNat i (o + 4) 4
  { state := s.recNat i o 1
    bonds := ((List.range 16).map (fun b => (b, s.recNat i (o + 32 + 2 * b) 2))).filter (fun e => e.2 != 0xFFFF)
    remaps := (List.range (s.recNat i (o + 2) 2)).map (fun k =>
      let w := s.recNat i (0x10040 + 4 * (first + k)) 4
      (bitsOf w 0 8, bitsOf w 8 12, bitsOf w 20 2)) }

/-- The state byte of a channel now. -/
def State.recState (s : State) (c : Nat) : Nat :=
  if s.chanState c = vccRetired then 3 else if (s.chan c).narrowed then 1 + s.getF F.vccStat_half c else 0

/-- The 64 bytes of a channel entry, given the index of its first remap. -/
def State.chanEntry (s : State) (c first : Nat) : List Byte :=
  let x := s.chan c
  leBytes 1 (s.recState c) ++ [0] ++ leBytes 2 x.remaps.length ++ leBytes 4 first ++ leBytes 24 0 ++
  (List.range 16).flatMap (fun b => leBytes 2 (((x.bonds.find? (fun e => e.1 == b)).map (fun e => e.2)).getD 0xFFFF))

/-- A new record for the part's repairs as they stand. -/
def State.recordBytes (s : State) (seq : Nat) : List Byte :=
  let (es, n) := allCells.foldl (fun (a : List Byte × Nat) c => (a.1 ++ s.chanEntry c a.2, a.2 + (s.chan c).remaps.length)) ([], 0)
  let ms := allCells.flatMap (fun c => (s.chan c).remaps.flatMap (fun r => leBytes 4 (r.1 + r.2.1 * 2 ^ 8 + r.2.2 * 2 ^ 20)))
  let body := es ++ ms
  leBytes 4 0x44525052 ++ leBytes 4 seq ++ leBytes 8 s.serial ++ leBytes 4 (0x10040 + 4 * n) ++ leBytes 4 n ++ leBytes 8 0 ++
  shake256 body 32 ++ body

/-- The part writes a record into the area that does not hold the current one, which it has erased. The first record's sequence is
open (log entry 5). -/
def State.writeRecord (s : State) (now : Nat) : State :=
  let (area, seq) := match s.recCur with
    | some i => (1 - i, (s.recNat i 4 4 + 1) % 2 ^ 32)
    | none => (0, s.freeWord.toNat % 2 ^ 32)
  let s := if s.recCur.isNone then s.nextFree else s
  { s with flash := fwrite (ferase s.flash (recArea area) 0x400000) (recArea area) (s.recordBytes seq)
           repairMark := (s.coldStarts, now - s.start.loadAt) }

end Sys2Proof.Machine
end

