-- ==== Sys2Proof/Machine/Jtag.lean ====
section
/-! DEFINITION. The IEEE 1149.1 port (R472, R530): its reset by TRST_N, its identification code, what an instruction acts as while the debug
fuse is blown, and the pins that boundary scan covers. No row of the operation table acts on the port, so no command of the model
leaves its reset (log entry 53). -/

namespace Sys2Proof.Machine

/-! ## The pins (Table 18.2) -/

/-- A pin of the VSTBY bank, or the transmit pairs of a ring port or of PCI Express. -/
inductive Pin where
  | perstN | porstN | pwrfailN | keepOk | thermtripN | optsel | xtalIn | xtalOut | clkmon
  | flSck | flCsN | flDqs | flDq (i : Fin 8) | flResetN
  | i3cScl | i3cSda | tck | tms | tdi | trstN | tdo
  | ringTx (p : Fin 8) | peTx
  deriving DecidableEq, Repr

/-- Every pin of the VSTBY bank. -/
def standbyPins : List Pin :=
  [.perstN, .porstN, .pwrfailN, .keepOk, .thermtripN, .optsel, .xtalIn, .xtalOut, .clkmon, .flSck, .flCsN, .flDqs] ++
  (List.finRange 8).map Pin.flDq ++ [.flResetN, .i3cScl, .i3cSda, .tck, .tms, .tdi, .trstN, .tdo]

/-- The level that an internal pull of 50 kΩ gives an unconnected input: up, down, or none. -/
def Pin.pull : Pin → Option Bool
  | .porstN => some true
  | .perstN => some true
  | .pwrfailN => some true
  | .tms => some true
  | .tdi => some true
  | .trstN => some false
  | _ => none

/-- The pins that boundary scan covers. -/
def scanPins : List Pin := standbyPins.filter (fun p => !([.optsel, .xtalIn, .xtalOut] : List Pin).contains p)

/-! ## The port -/

/-- TRST_N is driven to a level, or left unconnected: the port is in reset while it is low. -/
def State.driveTrst (s : State) (level : Option Bool) : State := { s with jtagReset := level.or (Pin.pull .trstN) == some false }

/-- IDCODE by the revision of the hub die: bit 0 is 1, the maker is 0x5A3, the part number 0xD404, the hub revision in the upper four
bits. The spec names revisions A0 and B0. -/
def State.idcode (s : State) : Option (BitVec 32) :=
  let code := fun (rev : Nat) => some (BitVec.ofNat 32 (1 + 0x5A3 * 2 ^ 1 + 0xD404 * 2 ^ 12 + rev * 2 ^ 28))
  let hub := s.otpNat 0x038 1
  if hub = 0xA0 then code 0 else if hub = 0xB0 then code 1 else none

/-- An instruction of the port. -/
inductive JtagInstr where
  | bypass | samplePreload | extest | idcode | privateScan
  deriving DecidableEq, Repr

/-- The debug fuse counts as blown when any of the three cells that sense it reads 1: bit 0 of the lock word as a read shows it, and the two
cells beside it. -/
def State.debugFuse (s : State) : Bool := (mget s.otp 0x780).getLsbD 0 || s.fuseCells.any id

/-- What an instruction acts as: a private one as BYPASS while the fuse is blown (R472). -/
def State.jtagActs (s : State) (i : JtagInstr) : JtagInstr := if s.debugFuse ∧ i = .privateScan then .bypass else i

/-- What stands between TDI and TDO, by its length in bits, and what it captures, as IEEE 1149.1 has it for the boundary-scan instructions
(R472): BYPASS one bit that captures 0; IDCODE the 32-bit code; SAMPLE/PRELOAD and EXTEST the cells of the pins under boundary scan, which capture
their levels. None for a private instruction that acts, which the spec does not describe, and for IDCODE on a die without a code. -/
def State.jtagCapture (s : State) (levels : Pin → Bool) (i : JtagInstr) : Option (List Bool) :=
  match s.jtagActs i with
  | .bypass => some [false]
  | .idcode => s.idcode.map (fun c => (List.range 32).map c.getLsbD)
  | .samplePreload => some (scanPins.map levels)
  | .extest => some (scanPins.map levels)
  | .privateScan => none

/-- A pin's level comes from the boundary cells only under EXTEST; under every other instruction from the part (R472). -/
def State.jtagDrives (s : State) (i : JtagInstr) (p : Pin) : Bool := !s.jtagReset && s.jtagActs i == .extest && scanPins.contains p

end Sys2Proof.Machine
end

