-- ==== Sys2Proof/Machine/Clocks.lean ====
section
/-! DEFINITION. Clocks (R399 to R404): ramps, the clock monitor, the frequency counter, the option strap (R394, R395) and
option loading (R411). -/

namespace Sys2Proof.Machine

/-! ## Ramps (R401) -/

/-- One step of a ramp: the divider moves by 0.125; a new source is switched to at D = 16. -/
def Ramp.step (r : Ramp) : Ramp :=
  if r.src ≠ r.goalSrc then (if r.div < 128 then { r with div := r.div + 1 } else { r with src := r.goalSrc })
  else if r.div < r.goalDiv then { r with div := r.div + 1 }
  else if r.goalDiv < r.div then { r with div := r.div - 1 } else r

/-- CLOCK_RAMP_STEP: 256 output cycles have passed. -/
def opRampStep (d : Nat) (s : State) : State :=
  if !s.onF F.clkStat_ramping d then s
  else
    let r := (tget {} s.ramps d).step
    let s := (s.putF F.clkStat_div d r.div).putF F.clkStat_src d r.src
    let s := if r.src = 0 then s.putF F.clkStat_locked d 1 else s
    if r.div = r.goalDiv ∧ r.src = r.goalSrc then { s.putF F.clkStat_ramping d 0 with ramps := tput {} s.ramps d {} }
    else { s with ramps := tput {} s.ramps d r }
def execClockRampStep (domain : BitVec 6) (s : State) : Host.Outcome State Fault Refusal :=
  runIf (decide (domain.toNat < 60)) (opRampStep domain.toNat) s

/-! ## The monitor (R403) -/

/-- CLOCK_MONITOR_SELECT: a write of CLK_MON; its over bit is worked out when it is read (State.monOver). -/
def opClkMon (v : Word) (s : State) : State := (s.putF F.clkMon_sel 0 (fieldGet v 0 6)).putF F.clkMon_div 0 (fieldGet v 6 5)
def execClockMonitorSelect (by_ : Requester) (value : Word) (s : State) : Host.Outcome State Fault Refusal :=
  run (fun s => if by_ != .i3c && s.reaches by_ R.clkMon.off then opClkMon value s else s) s

/-! ## The frequency counter (R404) -/

/-- FREQUENCY_MEASUREMENT: a write of CLK_FMC. A go starts a count, unless one runs or Steading holds the counter. -/
def opFmc (v : Word) (s : State) : State :=
  let busy := s.onF F.clkFmc_go
  let s := ((s.putF F.clkFmc_target 0 (fieldGet v 0 6)).putF F.clkFmc_ref 0 (fieldGet v 6 1)).putF F.clkFmc_gate 0 (fieldGet v 7 24)
  if fieldGet v 31 1 = 0 ∨ busy ∨ s.onF F.clkFmc_owner then s
  else if fieldGet v 7 24 = 0 then (s.putF F.clkFmcRes_count 0 0).putF F.clkFmcRes_done 0 1
  else (s.putF F.clkFmc_go 0 1).putF F.clkFmcRes_done 0 0
def execFrequencyMeasurement (by_ : Requester) (value : Word) (s : State) : Host.Outcome State Fault Refusal :=
  run (fun s => if by_ != .i3c && s.reaches by_ R.clkFmc.off then opFmc value s else s) s

/-- FREQUENCY_MEASUREMENT_DONE. -/
def opFmcDone (n : Nat) (s : State) : State :=
  if s.onF F.clkFmc_go then ((s.putF F.clkFmc_go 0 0).putF F.clkFmcRes_count 0 n).putF F.clkFmcRes_done 0 1 else s
def execFrequencyMeasurementDone (count : BitVec 32) (s : State) : Host.Outcome State Fault Refusal := run (opFmcDone count.toNat) s

/-! ## Option loading (R394, R395, R411, R455, R458) -/

/-- The nominal readings of the strap codes in 0.1 mV (Table 13.1). -/
def strapNominal : List Nat := [200, 266, 356, 474, 632, 844, 1124, 1500, 2000, 2660, 3560, 4740, 6320, 8440, 11240, 15000]

/-- The code in whose window a reading in mV lies. -/
def strapCode (mv : Nat) : Option Nat :=
  findIdx? (fun n => decide (9 * n ≤ 100 * mv) && decide (100 * mv ≤ 11 * n)) strapNominal

/-- Every enabled cell is usable; a disabled M cell never is (R62, R455). -/
def State.loadAvail (s : State) : State :=
  let s := allCells.foldl (fun s c => s.setUsable c (!(s.disabled c) && !(s.cell c).retired)) s
  s.putF F.shfCap_m 0 (if s.factoryOk then s.mCount else 0)

/-- A domain's clock as it is before the clock plan applies (Table 13.2). -/
def State.bootClocks (s : State) : State :=
  let s := [53, 54, 55, 56, 58].foldl (fun s d =>
    ((s.putF F.clkStat_src d 1).putF F.clkStat_div d (clkBoot d / 4)).putF F.clkStat_running d 1) s
  [51, 52].foldl (fun s d => ((s.putF F.clkStat_div d 8).putF F.clkStat_locked d 1).putF F.clkStat_running d 1) s

/-- What the store says of itself (Table 15.9). -/
def State.showOtp (s : State) : State :=
  let s := (s.putF F.otpStat_factory 0 (bit s.factoryOk)).putF F.otpStat_trim 0 (bit s.trimOk)
  let s := s.putF F.otpStat_debug 0 (bit s.debugFuse)
  let s := (s.putF F.otpStat_candidates 0 (mapOf s.candidates)).putF F.otpStat_spent 0 (mapOf s.spentGens)
  s.putF F.otpStat_bad_repair 0 (min 4095 (s.repairWords.filter (fun w => !repairOk w)).length)

/-- D2D_STAT.rev_near of each link (Table 11.12): the revision of the hub die for links 0 to 3, and of the lower-numbered tower's base die
for the others, whose ends the spec does not tell apart (DEDUCED, log entry 53). -/
def State.showRevs (s : State) : State :=
  (List.range 8).foldl (fun s l =>
    s.putF F.d2dStat_rev_near l (s.otpNat (0x038 + (if l < 4 then 0 else 1 + (linkTowers l).headD 0)) 1)) s

/-- The trim is loaded and applied to the internal oscillator, which without one stays untrimmed (R393). -/
def State.loadTrim (s : State) : State :=
  { s with start := { s.start with trim := s.trimCode } }.putF F.rstOpt_untrimmed 0 (bit s.trimCode.isNone)

/-- The strap's outcome. -/
def State.showStrap (s : State) (mv : Nat) : State :=
  let s := s.putF F.rstOpt_reading 0 (min mv 2047)
  match strapCode mv with
  | some k =>
    ((s.putF F.rstOpt_code 0 k).putF F.clkXtal_mhz50 0 (k % 2)).putF F.clkXtal_delay 0 (k / 2 % 4)
  | none => (s.putF F.rstOpt_invalid 0 1).putF F.clkXtal_delay 0 3

/-- OPTION_LOADING: the four steps of R411 end, and Steading boot follows. It does not run while the part is held in reset, nor
when a storm is due. -/
def opOptionLoading (mv now : Nat) (s : State) : State :=
  let s := s.at_ now
  if !s.start.loading || s.heldInReset || decide (now < s.start.loadAt) || s.getF F.pwrStat_state != 0 || decide (8 ≤ s.recentRestarts now) then s
  else
    let s := (s.loadTrim.showStrap mv).showOtp.showRevs.loadAvail.bootClocks
    let s := s.putF F.rstCause_restarts 0 (min 255 s.start.restartTimes.length)
    let s := s.putF F.stdBoot_stage 0 2
    { s with start := { s.start with loading := false, restartTimes := [], wdtAt := now, header := s.flashSrc 0 4096 } }
def execOptionLoading (readingMv now : Nat) (s : State) : Host.Outcome State Fault Refusal := run (opOptionLoading readingMv now) s

/-- The least time in ns that a start delay takes: its cycles of the internal oscillator, which is at most 8 % fast (R393, R396). -/
def startDelayNs (k : Nat) : Nat := 96000 * 4 ^ k * 1000000 / 51840

/-- The start delay can have ended: the one that the strap chose, or the shortest before the strap is read. -/
def State.delayOver (s : State) (now : Nat) : Bool :=
  decide (s.start.loadAt + startDelayNs (if s.start.loading then 0 else s.getF F.clkXtal_delay) ≤ now)

/-- START_DELAY_END: crystal measurement begins (R396). -/
def opStartDelay (now : Nat) (s : State) : State :=
  let s := s.at_ now
  if s.heldInReset || !s.delayOver now then s else { s with start := { s.start with startDelayDone := true } }
def execStartDelayEnd (now : Nat) (s : State) : Host.Outcome State Fault Refusal := run (opStartDelay now) s

end Sys2Proof.Machine
end

