-- ==== Sys2Proof/Machine/Boot.lean ====
section
/-! DEFINITION. The start from the end of option loading to ready (R396 to R398, R426 to R444), and recovery mode (R447). -/

namespace Sys2Proof.Machine

/-! ## Events kept for Steading, recovery (R447) -/

/-- Steading runs: it takes the records that the event path has kept. -/
def State.steadingUp (s : State) : State :=
  let es := s.stdBuf
  let s := { s with start := { s.start with steadingDown := false }, stdBuf := [] }
  es.foldl State.steadingTakes (s.putF F.rstStd_restart 0 0)

/-- The part enters recovery mode with a code of Table 14.6: bypasses closed, cells, memories and links untrained. -/
def State.goRecovery (s : State) (code : Nat) : State :=
  let s := (s.closePlanes s.heldPlanes).stopStages s.now
  let s := { s with tick := { s.tick with running := false, windowOpen := false } }
  let s := (allCells.filter (fun c => s.chanState c != 0)).foldl (fun s c => s.putF F.vccStat_state c 0) s
  let s := (List.range 8).foldl (fun s l => ((s.putF F.d2dStat_state l 0).putF F.d2dStat_proto l 0).putF F.lnkStat_state l 0) s
  let s := ((s.putF F.stdBoot_stage 0 8).putF F.stdBoot_start 0 3).putF F.stdBoot_minimal 0 1
  let s := s.putF F.stdBoot_fail 0 code
  let s := { s with start := { s.start with bootDone := true } }.steadingUp
  if code = 16 then s.raise 0x03 0 0 (s.reg R.clkXtal 0) else s.raise 0x04 0 0 (BitVec.ofNat 64 code)

/-! ## Stage 3: the configuration applies (R425, R427) -/

/-- Sets both copies of an ST register. -/
def State.setBoth (s : State) (e : Nat × Word) : State := (s.putActiveKey e.1 e.2).putStagedKey e.1 e.2

/-- The clock of a domain as the plan has it: one that runs from the internal oscillator ramps to it (R401), any other starts there. -/
def State.planClock (s : State) (d : Nat) : State :=
  let src := s.getF F.clkDom_src d
  let s := if src = 0 then s.putF F.clkStat_locked d 1 else s
  if s.onF F.clkStat_running d && s.getF F.clkStat_src d == 1 then s.startRamp d
  else ((s.putF F.clkStat_src d src).putF F.clkStat_div d (s.getF F.clkDom_div d)).putF F.clkStat_running d 1

/-- The clock plan, the default configuration and the link plan of an image. -/
def State.applyConfig (s : State) (h : List Byte) : State :=
  let bytes := fun (t : Nat) => segBytes s.flashSrc (segOf h t)
  let link := bytes 5
  let s := ((cfgSets (bytes 3) (bytes 4)).reverse).foldl State.setBoth s
  let s := ((List.range 60).filter (fun d => d != 58)).foldl State.planClock s
  let s := s.putF F.pfxCfg_mib 0 (cfgMib (bytes 3))
  let own := fieldAt link 0 2 % 1024
  let s := ((s.putF F.lnkRing_own 0 own).putF F.lnkRing_row_len 0 (fieldAt link 2 1 - 1)).putF F.lnkRing_col_len 0 (fieldAt link 3 1 - 1)
  let s := (s.putF F.lnkRing_keeper 0 own).putF F.lnkRing_is_keeper 0 1
  let s := (s.putF F.lnkCfg_prio 0 (fieldAt link 4 1)).putStagedF F.lnkCfg_prio 0 (fieldAt link 4 1)
  s.showDiff

/-! ### Restoring the Keep record (R428, R497, R500) -/

/-- A stream comes back with its records, length and state; it gets no rows until its pair is enabled again (R442). -/
def State.restoreStream (s : State) (i : Nat) : State :=
  let t := s.stream i
  if !t.isOpen then s
  else
    let s := s.setStream i { t with rows := [], tokReserved := false, waitsPair := true }
    s.reserve t.cq (bit t.endReserved + t.feeds.length)

/-- What the record holds is put back, over the default configuration. -/
def State.restore (s : State) (k : KeepRec) : State :=
  let old : State := { State.reset with regs := k.regs, staged := k.staged, ctl := k.ctl, cells := k.cells, chans := k.chans }
  let keys := ((s.regs ++ k.regs ++ s.staged ++ k.staged).map (fun e => e.1)).eraseDups.filter (fun i => (keyReg i).isSome)
  let s := keys.foldl (fun s i => (s.putActiveKey i (old.activeKey i)).putStagedKey i (old.stagedKey i)) s
  let s := { s with ctl := { k.ctl with waiting := [], loads := [] } }
  let s := s.putF F.tikCount_count 0 (old.getF F.tikCount_count)
  let s := (0 :: s.sheafIds).foldl (fun s i =>
    ((s.putF F.shfStatus_state i (old.getF F.shfStatus_state i)).putF F.shfStatus_epoch i (old.getF F.shfStatus_epoch i)).putF
      F.shfCap_degraded i (old.getF F.shfCap_degraded i)) s
  let s := s.putF F.pfxCfg_lost 0 (old.getF F.pfxCfg_lost)
  let s := k.cells.foldl (fun s e =>
    (s.modCell e.1 (fun x => { x with retired := x.retired || e.2.retired, demoted := e.2.demoted, why := e.2.why })).putF
      F.celTick_demoted e.1 (bit e.2.demoted)) s
  let s := s.loadAvail
  let s := k.chans.foldl (fun s e => s.setChan e.1 {
    failedWires := e.2.failedWires, narrowed := e.2.narrowed, bonds := e.2.bonds, deadBonds := e.2.deadBonds
    lostWords := e.2.lostWords, remaps := e.2.remaps, remapped := e.2.remapped, listed := e.2.listed, goodSpares := e.2.goodSpares
    rakePos := e.2.rakePos, rakeCredit := e.2.rakeCredit, rakeBehind := e.2.rakeBehind
    selfRefresh := true, isolated := e.2.isolated }) s
  let s := (allCells.filter (fun c => old.chanState c == vccRetired)).foldl (fun s c => s.putF F.vccStat_state c vccRetired) s
  let s := k.chans.foldl (fun s e => (s.putF F.vccStat_half e.1 (old.getF F.vccStat_half e.1)).putF F.vccStat_spares e.1
    (old.getF F.vccStat_spares e.1)) s
  let s := (List.range 8).foldl (fun s j => s.modProg j (fun p => { p with invalid := false, replaying := false })) s
  let s := s.openStreams.foldl State.restoreStream s
  let s := ((List.range 60).filter (fun d => d != 58)).foldl State.startRamp s
  s.showDiff

/-- Stage 3 begins to work once Steading has booted and the crystal is stable: the configuration applies, the tick timebase
starts, the cell sequencer tables are read and checked (R426, R427); a Keep-resume start restores the record. -/
def State.configure (s : State) (now : Nat) : State :=
  if !s.start.bootDone || s.start.configured || s.getF F.stdBoot_stage != 3 || !s.onF F.clkXtal_stable || s.getF F.pwrStat_state != 0 then s
  else
    let h := s.start.header
    let s := s.applyConfig h
    let s := { s with
      start := { s.start with configured := true, wdtAt := now, segCount := ceilDiv (segOf h 2).len 4096 }, rakeAt := now
      tick := { s.tick with running := true, windowOpen := true, edgeAt := now } }
    let s := match s.getF F.stdBoot_start, s.keep.record with
      | 2, some k => s.restore k
      | _, _ => s
    if segDigestOk s.flashSrc (segOf h 2) then s else s.goRecovery 6

/-! ## The crystal (R396 to R398) -/

/-- Four counts judge the crystal against an expected count, in a tolerance in percent. -/
def judges (e pct : Nat) (l : List Nat) : Bool :=
  l.length == 4 && l.all (fun n => decide (100 * (max n e - min n e) ≤ pct * e) && decide (max n (l.headD 0) - min n (l.headD 0) ≤ e / 5000))

/-- CRYSTAL_MEASUREMENT: one gate ends. With an invalid strap both frequencies are tried. -/
def opCrystal (n now : Nat) (s : State) : State :=
  let s := s.at_ now
  if !s.start.startDelayDone || s.start.loading || s.onF F.clkXtal_stable || s.onF F.clkXtal_fail || decide (100 ≤ s.getF F.clkXtal_meas) then s
  else
    let l := (s.start.xtal ++ [n]).drop (s.start.xtal.length - 3)
    let s := (s.bump F.clkXtal_meas 0).putF F.clkXtal_count 0 n
    let s := { s with start := { s.start with xtal := l } }
    let pct := if s.onF F.rstOpt_untrimmed then 9 else 2
    let es := if s.onF F.rstOpt_invalid then [25000, 50000] else if s.onF F.clkXtal_mhz50 then [50000] else [25000]
    match es.find? (fun e => judges e pct l) with
    | none => s
    | some e =>
      let s := ((s.putF F.clkXtal_stable 0 1).putF F.clkXtal_mhz50 0 (bit (e == 50000))).putF F.clkXtal_auto 0 (s.getF F.rstOpt_invalid)
      (s.putF F.clkFmc_owner 0 0).configure now
def execCrystalMeasurement (count : BitVec 32) (now : Nat) (s : State) : Host.Outcome State Fault Refusal :=
  run (opCrystal count.toNat now) s

/-- CRYSTAL_FAIL: 100 measurements without a judgement. After Steading boot the part stays as in recovery mode. -/
def opCrystalFail (s : State) : State :=
  if s.getF F.clkXtal_meas < 100 ∨ s.onF F.clkXtal_stable ∨ s.onF F.clkXtal_fail then s
  else
    let s := (s.putF F.clkXtal_fail 0 1).putF F.clkFmc_owner 0 0
    if s.start.bootDone && s.getF F.stdBoot_stage != 8 then s.goRecovery 16 else s
def execCrystalFail (s : State) : Host.Outcome State Fault Refusal := run opCrystalFail s

/-! ## Stage 2: Steading boot (R426, R428, R459, R467) -/

/-- The key engine derives the identity key pair and accepts it or not (R467). -/
def State.checkIdentity (s : State) : State :=
  let seed := s.otpAt 0x200 64
  s.putF F.otpStat_identity 0 (bit (shake256 seed 32 == s.otpAt 0x240 32 && shake256 (Config.falconPublic seed) 64 == s.otpAt 0x80 64))

/-- A return from Keep that cannot resume: the lofts' contents and the record are given up, with an argument (R428, R500). -/
def State.dropKeep (s : State) : State :=
  let s := { s with devMem := [], loftErr := [], keep := {} }
  let s := ((s.putF F.pwrKeep_keep_ok 0 0).putF F.pwrKeep_record 0 0).putF F.pwrKeep_last 0 2
  s.raise 0x06 0 0 0xFF

/-- A return from Keep whose header is that of the record resumes. -/
def State.mayResume (s : State) : Bool :=
  s.getF F.rstCause_cold == 5 && (match s.keep.record with
    | some k => k.header == s.start.header
    | none => false)

/-- The kind of start (R428): 2 Keep resume, 1 verify, 0 full. What another start finds of Keep is given up. -/
def State.chooseStart (s : State) : State :=
  let other := bit s.recCur.isSome
  if !s.onF F.pwrKeep_keep_ok then s.putF F.stdBoot_start 0 other
  else if s.mayResume then s.putF F.stdBoot_start 0 2 else s.dropKeep.putF F.stdBoot_start 0 other

/-- The generation confirmed becomes active (R459 to R461). -/
def State.activateGen (s : State) (g : Nat) : State :=
  let b := s.genBlock g
  { s with minSvn := genMinSvn b, flagsActive := genFlags b, svn := hdrSvn s.start.header }.putF F.otpStat_active 0 g

/-- The first boot of a start. The key engine derives the identity pair at each (R467); a generation becomes active once check 4 has
passed (R459). -/
def State.firstBoot (s : State) (now : Nat) : State :=
  let h := s.flashSrc 0 4096
  let s := { s with start := { s.start with header := h } }
  let gen := if headerOk h && s.keyTrusted h then s.confirmed (hdrKey h) else none
  let code := s.verifyImage s.flashSrc (gen.map (fun g => genMinSvn (s.genBlock g))) false
  let s := s.countStart.checkIdentity
  let s := match gen with
    | some g => if code = 0 ∨ 5 ≤ code then s.activateGen g else s
    | none => s
  if code ≠ 0 then s.goRecovery code
  else
    let s := { s.steadingUp with start := { s.start with bootDone := true, steadingDown := false } }
    let s := s.chooseStart.putF F.stdBoot_stage 0 3
    let s := if s.onF F.rstOpt_invalid then s.raise 0x02 0 0 (BitVec.ofNat 64 (s.getF F.rstOpt_reading)) else s
    if s.onF F.clkXtal_fail then s.goRecovery 16 else s.configure now

/-- A later boot, after a Steading restart: the firmware is loaded and verified again, with the settings kept (Table 13.5). -/
def State.laterBoot (s : State) (now : Nat) : State :=
  if s.getF F.stdBoot_stage = 8 then s.steadingUp
  else
    let code := s.verifyImage s.flashSrc (some s.minSvn) false
    if code ≠ 0 then s.goRecovery code else s.steadingUp.configure now

/-- STEADING_BOOT. -/
def opSteadingBoot (answers : Bool) (now : Nat) (s : State) : State :=
  let s := s.at_ now
  if s.start.loading || s.heldInReset || !s.start.steadingDown then s
  else if !answers then s.goRecovery 1
  else if s.start.bootDone then s.laterBoot now else s.firstBoot now
def execSteadingBoot (flashAnswers : Bool) (now : Nat) (s : State) : Host.Outcome State Fault Refusal :=
  run (opSteadingBoot flashAnswers now) s

/-! ## Firmware broadcast (R433, R434) -/

/-- A segment of the cell sequencer tables, the last one padded with zeros (R433). -/
def State.tableSeg (s : State) (k : Nat) : List Byte :=
  let g := segOf s.start.header 2
  slice (s.flashSrc (g.off + 4096 * k) (min 4096 (g.len - 4096 * k))) 0 4096

/-- A frame that Steading sends: a segment of the tables under its number and digest, and under the targets that its first frame had. Which
targets a segment has the spec does not say, so the first frame tells (log entry 54). -/
def State.frameSent (s : State) (f : Frame) : Bool :=
  f.count.toNat == s.start.segCount && decide (f.seq.toNat < s.start.segCount) && !f.targets.getLsbD 7 &&
  (match s.segSent f.seq.toNat with
   | some b => b == f.targets
   | none => true) && slice f.digest 0 32 == shake256 (s.tableSeg f.seq.toNat) 32

/-- The frame of a segment has gone out. -/
def State.noteFrame (s : State) (f : Frame) : State :=
  { s with start := { s.start with sentSegs := tput 0 s.start.sentSegs f.seq.toNat (f.targets.toNat + 1) } }

/-- BROADCAST_FRAME: a frame of Steading comes to a target, which keeps a segment that names it and whose digest is right. -/
def opFrame (t : Target) (f : Frame) (s : State) : State :=
  let b := slice f.payload 0 4096
  if s.getF F.stdBoot_stage != 3 || !s.start.configured || !s.frameSent f then s
  else if !s.targetOn t || !targetNamed t f.targets || shake256 b 32 != slice f.digest 0 32 then s.noteFrame f
  else
    let n := targetNo t
    let s := s.noteFrame f
    { s with
      seqStores := tmod [] s.seqStores n (fun m => mblock m f.storeOff.toNat b)
      start := { s.start with gotSegs := tmod [] s.start.gotSegs n (fun l => if l.contains f.seq.toNat then l else l ++ [f.seq.toNat]) } }
def execBroadcastFrame (target : Target) (frame : Frame) (s : State) : Host.Outcome State Fault Refusal := run (opFrame target frame) s

/-- SEGMENT_REQUEST: Steading answers a target's request in each of three rounds; a target that still lacks a segment after them is
retired, a controller with its channel and cell. -/
def opSegments (t : Target) (missing : List Nat) (s : State) : State :=
  let n := targetNo t
  let lack := missing.filter (fun k => decide (k < s.start.segCount) && !(tget [] s.start.gotSegs n).contains k)
  if s.getF F.stdBoot_stage != 3 || !s.start.configured || !s.targetOn t || lack.isEmpty || s.start.steadingDown then s
  else if tget 0 s.start.asked n < 3 then
    let s := { s with start := { s.start with asked := tmod 0 s.start.asked n (fun k => k + 1) } }
    lack.foldl (fun s k => s.send (.frame t k)) s
  else
    match t with
    | .cell c => (s.retireCell c.toNat 4).moveStage c.toNat
    | .controller c => s.nextFree.retireNow c.toNat (s.freeWord.toNat % 3)
def execSegmentRequest (target : Target) (missing : List (BitVec 32)) (s : State) : Host.Outcome State Fault Refusal :=
  run (opSegments target (missing.map BitVec.toNat)) s

/-! ## Stage 4: memory training and test (R435 to R441) -/

/-- A row that failed goes to a good spare of its bank; a bank without one retires the channel with its cell (R437). -/
def State.repairRow (s : State) (c : Nat) (r : Nat × Nat) : State :=
  if s.chanState c = vccRetired then s
  else
    let x := s.chan c
    let used := (x.remaps.filter (fun m => m.1 == r.1 && m.2.1 != r.2)).map (fun m => m.2.2)
    match (List.range 4).find? (fun k => x.goodSpares.contains (r.1, k) && !used.contains k) with
    | some k => (s.setChan c { x with remapped := x.remapped + 1, remaps := x.remaps.filter (fun m => !(m.1 == r.1 && m.2.1 == r.2)) ++ [(r.1, r.2, k)] }).bump
        F.stdBootRet_remaps 0
    | none => s.nextFree.retireNow c (s.freeWord.toNat % 3)

/-- The factory's repairs of a channel (R456). -/
def State.factoryRepairs (s : State) (c : Nat) : List (Nat × Nat) × List (Nat × Nat × Nat) :=
  let ws := s.repairWords.filter (fun w => repairOk w && bitsOf w 0 10 == c)
  ((ws.filter (fun w => bitsOf w 10 2 == 1)).map (fun w => (bitsOf w 21 4, bitsOf w 12 9)),
   (ws.filter (fun w => bitsOf w 10 2 == 2)).map (fun w => (bitsOf w 25 8, bitsOf w 33 12, bitsOf w 45 2)))

/-- A channel is trained in a start: what its training found. It takes about 100 ms, or 50 ms in a Keep-resume start (R435, R441): more than
VCC_TRAIN.dur counts to; how much more is free (log entry 53). -/
def State.trainedNow (s : State) (c : Nat) (wires : List Nat) (now : Nat) : State :=
  let temps := s.loftTemps c
  let dur := 409500 + s.freeWord.toNat % 2 ^ 28
  let s := s.nextFree
  let s := (s.putF F.vccTrain_dur c 0xFFF).putF F.vccTrain_edge c (s.getF F.tikCount_count % 2 ^ 32)
  let s := (s.modChan c (fun x => { x with selfRefresh := false, lastTrainAt := now, lastTemps := temps, lastDur := dur })).putF
    F.vccStat_state c (s.servingState c)
  let s := wires.foldl (fun s w => s.failWire c w) s
  let s := s.wiresNow c
  let s := s.modChan c (fun x => { x with want := false, wantUrgent := false, waited := 0 })
  (((s.putF F.vccTrain_pending c 0).putF F.vccTrain_urgent c 0).showRefresh c)

/-- The test of one channel in a full or verify start: it starts from the factory's repairs, or from the record's entry. -/
def State.testChannel (s : State) (full : Bool) (now : Nat) (t : ChanTest) : State :=
  let c := t.channel.toNat
  if s.chanState c = vccRetired then s
  else
    let (bonds, remaps) := if full then s.factoryRepairs c
      else match s.recCur with
        | some i => ((s.recChan i c).bonds, (s.recChan i c).remaps)
        | none => ([], [])
    let s := s.modChan c (fun _ => { bonds := bonds, remaps := remaps, goodSpares := t.goodSpares })
    let s := s.putF F.vccStat_spares c bonds.length
    let s := s.trainedNow c t.wires now
    t.rows.foldl (fun s r => s.repairRow c r) s

/-- The stacks that take the full test in a verify start: a channel of theirs is narrowed or retired in the record, or the event
log since the record was written tells of a narrowing, a retirement, a spare bond assigned or a row listed (R438). -/
def State.logEvents (s : State) : List (List Byte) :=
  (List.range 2).flatMap (fun i => if s.logValid i then
    (List.range (s.logEnd i)).map (fun k => fread s.flash (logSector i + 64 + 32 * k) 32) else [])
def State.fullStacks (s : State) : List Nat :=
  let cut := (s.logEvents.filter (fun e =>
    let code := fieldAt e 0 2
    fieldAt e 2 1 == 2 && ([0x33, 0x34, 0x35].contains code || (code == 0x24 && bitOf (fieldAt e 0x18 8) 20)) &&
    (decide (s.repairMark.1 < fieldAt e 6 2) ||
      (s.repairMark.1 == fieldAt e 6 2 && decide (s.repairMark.2 < 1000 * fieldAt e 0x10 8))))).map (fun e => fieldAt e 4 2)
  let rec_ := match s.recCur with
    | some i => allCells.filter (fun c => s.recNat i (0x40 + 64 * c) 1 != 0)
    | none => []
  ((cut ++ rec_).map stackOf).eraseDups

/-- What is stored in error at a word in which another error has been found. -/
def mergeErr (old new : Nat) : Nat := if old = 0 ∨ new = old then new else if new < 2 then old else 2

/-- Words of a channel have decayed in Keep: each word with what is stored there in error now, as ErrTbl has it. -/
def State.decay (s : State) (c : Nat) (ws : List (Nat × Nat)) : State :=
  (ws.filter (fun e => chanAt (8 * e.1) == c && decide (2 ≤ e.2))).foldl (fun (s : State) e =>
    { s with loftErr := tput 0 s.loftErr e.1 (mergeErr (tget 0 s.loftErr e.1) e.2) }) s

/-- An uncorrectable word enters the lost-word table, or its row is listed for repair when the table is full (R441). -/
def State.loseWord (s : State) (c w : Nat) : State :=
  let x := s.chan c
  if x.lostWords.length < 64 then s.setChan c { x with lostWords := x.lostWords ++ [w] }
  else if x.listed.contains (bankInChan w, rowOf w) then s
  else (s.setChan c { x with listed := x.listed ++ [(bankInChan w, rowOf w)] }).raise 0x24 2 c
    (BitVec.ofNat 64 (bankInChan w + rowOf w * 256 + 2 ^ 20))

/-- A channel of a Keep resume: it retrains, or it is retired; then every row is read and every word that can be is corrected, and
an uncorrectable word is lost, or its row is listed (R441). -/
def State.resumeChannel (s : State) (now : Nat) (t : ChanTest) : State :=
  let c := t.channel.toNat
  if s.chanState c = vccRetired then s
  else if !t.trained then s.retireNow c 2
  else
    let s := ((s.trainedNow c t.wires now).bump F.vccTrain_count c).decay c t.decayed
    let ws := (s.loftErr.map (fun e => e.1)).filter (fun w => chanAt (8 * w) == c)
    let s := (ws.filter (fun w => s.wordErr w == 1)).foldl (fun (s : State) w =>
      { s.corrected (.chan c) with loftErr := tput 0 s.loftErr w 0 }) s
    (ws.filter (fun w => s.wordErr w == 2 && !s.isLost w)).foldl (fun s w => s.loseWord c w) s

/-- KEEP_RESUMED: the record is restored and the memory is back (R500). -/
def State.keepResumed (s : State) : State :=
  let held := s.getF F.pwrKeep_held_s
  let s := { s with keep := {} }
  (((s.putF F.pwrKeep_keep_ok 0 0).putF F.pwrKeep_record 0 0).putF F.pwrKeep_last 0 1).raise 0x6A 0 0 (BitVec.ofNat 64 held)

/-- A start may go on: it is configured, not stopped, and Steading runs. -/
def State.startGoes (s : State) : Bool :=
  s.start.configured && decide (3 ≤ s.getF F.stdBoot_stage) && decide (s.getF F.stdBoot_stage ≤ 6) && s.getF F.pwrStat_state == 0 &&
  !s.start.steadingDown && !s.keep.inKeep

/-- A fault in a mesh router, which the tests of stage 3 find, retires the router's cell (R429). -/
def State.routerTests (s : State) (ts : List ChanTest) : State :=
  (ts.filter (fun t => !t.routerOk)).foldl (fun s t => (s.retireCell t.channel.toNat 0).moveStage t.channel.toNat) s

/-- MEMORY_TEST: the whole of stage 4, by the kind of start, once the work of stage 3 is done. -/
def opMemoryTest (ts : List ChanTest) (now : Nat) (s : State) : State :=
  let s := s.at_ now
  if !s.startGoes || s.start.memTested || !s.stage3Done then s
  else
    let kind := s.getF F.stdBoot_start
    let s := s.routerTests ts
    let s := if kind = 2 then (ts.foldl (fun s t => s.resumeChannel now t) s).keepResumed
      else
        let whole := if kind = 1 then s.fullStacks else List.range 32
        let s := { s with devMem := [], loftErr := [] }
        let s := ts.foldl (fun s t => s.testChannel (whole.contains (stackOf t.channel.toNat)) now t) s
        if kind = 0 || !whole.isEmpty || ts.any (fun t => !t.rows.isEmpty || !t.wires.isEmpty) then s.writeRecord now else s
    let s := { s with start := { s.start with memTested := true } }
    (s.putF F.stdBoot_stage 0 5).becomeReady
def execMemoryTest (tests : List ChanTest) (now : Nat) (s : State) : Host.Outcome State Fault Refusal := run (opMemoryTest tests now) s

/-- HEATING_TIMEOUT: a heating point of the full test was not reached within 300 s. -/
def opHeating (k : Nat) (t : Int) (s : State) : State :=
  if !s.startGoes || s.start.memTested || !s.stage3Done || s.getF F.stdBoot_start == 2 then s
  else ((s.putF F.stdBoot_stage 0 4).putF F.stdBoot_cool 0 1).raise 0x05 3 k (tempArg t)
def execHeatingTimeout (stack : BitVec 5) (reached : Int) (s : State) : Host.Outcome State Fault Refusal :=
  run (opHeating stack.toNat reached) s

/-! ## Stage 6: the cells (R443) -/

/-- A cell that was demoted, or retired for a stuck SRAM word, and passes returns to service. -/
def State.returnCell (s : State) (c : Nat) : State :=
  let x := s.cell c
  if x.retired && (x.why == 1 || x.why == 2) then
    ((s.setCell c { x with retired := false, demoted := false, why := 0 }).setUsable c true).putF F.celTick_demoted c 0
  else s

/-- CELL_SELF_TEST: in a Keep-resume start beside stage 4, else after stage 5. -/
def opSelfTest (fails : List Nat) (now : Nat) (s : State) : State :=
  let s := s.at_ now
  if !s.startGoes || s.start.cellsTested || !(if s.getF F.stdBoot_start = 2 then s.stage3Done else s.start.memTested && s.stage5Done) then s
  else
    let on := allCells.filter (fun c => !s.disabled c)
    let s := on.foldl (fun s c => if fails.contains c then (s.retireCell c 0).moveStage c else s.returnCell c) s
    let s := { s with start := { s.start with cellsTested := true } }
    s.becomeReady
def execCellSelfTest (fails : List (BitVec 10)) (now : Nat) (s : State) : Host.Outcome State Fault Refusal :=
  run (opSelfTest (fails.map BitVec.toNat) now) s

end Sys2Proof.Machine
end

