-- ==== Sys2Proof/Machine/Trust.lean ====
section
/-! DEFINITION. Recovery commands (R448, R449, R461), programming of settings generations (R462, R463), attestation (R469 to
R471). -/

namespace Sys2Proof.Machine

/-! ## Recovery commands (R448, R449) -/

/-- A requester that may give recovery and programming commands: I3C as flags bit 2 of the active generation allows (R457). -/
def State.mayRecover (s : State) (by_ : Requester) (off : Nat) : Bool :=
  s.reaches by_ off && (by_ != .i3c || bitOf s.flagsActive 2)

/-- The commands are available in recovery mode and once the part is ready, with no command and no programming running. -/
def State.rcvFree (s : State) : Bool :=
  (s.getF F.stdBoot_stage == 7 || s.getF F.stdBoot_stage == 8) && s.getF F.stdRcvCtl_cmd == 0 && s.otpJob.isNone && s.imgJob.isNone

/-- The lowest svn accepted: of the active generation, if any. -/
def State.svnFloor (s : State) : Option Nat := if s.getF F.otpStat_active = 7 then none else some s.minSvn

/-- Checks 2 to 7 of the buffer; an image whose length is not STD_RCV_LEN's fails the second. -/
def State.verifyBuffer (s : State) : Nat :=
  let code := s.verifyImage s.bufSrc s.svnFloor true
  if hdrLen (s.bufSrc 0 4096) = s.getF F.stdRcvLen_len ∨ code = 2 then code else 2

/-- The outcome of a command. -/
def State.rcvEnds (s : State) (state fail : Nat) : State :=
  ((s.putF F.stdRcvCtl_cmd 0 0).putF F.stdRcvStat_state 0 state).putF F.stdRcvStat_fail 0 fail

/-- RECOVERY_VERIFY. -/
def opRcvVerify (s : State) : State :=
  if !s.rcvFree then s
  else
    let code := s.verifyBuffer
    s.rcvEnds (if code = 0 then 4 else 5) code
def execRecoveryVerify (by_ : Requester) (s : State) : Host.Outcome State Fault Refusal :=
  run (fun s => if s.mayRecover by_ R.stdRcvCtl.off then opRcvVerify s else s) s

/-- RECOVERY_PROGRAM: outside recovery mode only as flags bit 3 allows (R461). The image captured is erased and programmed until
IMAGE_PROGRAMMING_DONE. -/
def opRcvProgram (s : State) : State :=
  if !s.rcvFree then s
  else if s.getF F.stdBoot_stage = 7 ∧ !bitOf s.flagsActive 3 then s.rcvEnds 5 0
  else
    let code := s.verifyBuffer
    if code ≠ 0 then s.rcvEnds 5 code
    else
      let s := { s with imgJob := some (s.bufSrc 0 (s.getF F.stdRcvLen_len)) }
      (((s.putF F.stdRcvCtl_cmd 0 2).putF F.stdRcvStat_state 0 2).putF F.stdRcvStat_fail 0 0).putF F.stdRcvStat_progress 0 0
def execRecoveryProgram (by_ : Requester) (s : State) : Host.Outcome State Fault Refusal :=
  run (fun s => if s.mayRecover by_ R.stdRcvCtl.off then opRcvProgram s else s) s

/-- IMAGE_PROGRAMMING_DONE. -/
def opImageDone (s : State) : State :=
  match s.imgJob with
  | none => s
  | some img =>
    let s := { s with imgJob := none, flash := fwrite (ferase s.flash 0 0x1000000) 0 img }
    (s.rcvEnds 4 0).putF F.stdRcvStat_progress 0 (img.length / 4096)
def execImageProgrammingDone (s : State) : Host.Outcome State Fault Refusal := run opImageDone s

/-- RECOVERY_COLD_RESET. -/
def opRcvCold (s : State) : State := if s.rcvFree then s.coldResetFree else s
def execRecoveryColdReset (by_ : Requester) (s : State) : Host.Outcome State Fault Refusal :=
  run (fun s => if s.mayRecover by_ R.stdRcvCtl.off then opRcvCold s else s) s

/-! ## Programming a generation (R462, Table 15.5) -/

/-- The code of the first check that a block and its signature fail, 0 for none. The vendor key is the one of the image header
verified in this start (R462; Table 15.5). -/
def State.otpCheck (s : State) (b sig : List Byte) : Nat :=
  match s.targetSlot with
  | none => 1
  | some g =>
    if !genFormOk g b then 2
    else if !s.genBound b then 3
    else if !sigOk (hdrKey s.start.header) (shake256 b 64) sig then 4
    else if genMinSvn b < s.minSvn then 5
    else if !s.ready || s.getF F.stdRcvCtl_cmd != 0 || s.imgJob.isSome then 6 else 0

/-- The slot a programming command names: the lowest blank slot above every other. -/
def State.otpSlotShown (s : State) : State :=
  match s.targetSlot with
  | some g => s.putF F.otpProg_slot 0 g
  | none => s

/-- What a programming command leaves with the block and the signature captured: refused with its code, or running. -/
def otpCapture (b sig : List Byte) (s : State) : State :=
  let code := s.otpCheck b sig
  if code == 0 then
    let s := { s with otpJob := some (b ++ sig) }
    ((s.putF F.otpProg_cmd 0 1).putF F.otpProg_state 0 2).putF F.otpProg_fail 0 0
  else ((s.putF F.otpProg_cmd 0 0).putF F.otpProg_state 0 4).putF F.otpProg_fail 0 code

/-- OTP_PROGRAM_GENERATION: the block and its signature are captured from the buffer and checked; programming runs until
OTP_PROGRAMMING_DONE. A command while one runs is busy. -/
def opOtpProgram (s : State) : State :=
  if s.otpJob.isSome then s.putF F.otpProg_fail 0 6 else otpCapture (s.bufSrc 0 1024) (s.bufSrc 1024 1280) (s.otpSlotShown)
def execOtpProgramGeneration (by_ : Requester) (s : State) : Host.Outcome State Fault Refusal :=
  run (fun s => if s.mayRecover by_ R.otpProg.off then opOtpProgram s else s) s

/-- OTP_PROGRAMMING_DONE: a read-back that differs leaves the slot spent, with free bits among those programmed (log entry 43). -/
def opOtpDone (ok : Bool) (s : State) : State :=
  match s.otpJob with
  | none => s
  | some job =>
    let g := s.getF F.otpProg_slot
    let s := (s.burnJob (if ok then job else s.badJob g job)).putF F.otpProg_cmd 0 0
    if ok then (s.putF F.otpProg_state 0 3).putF F.otpProg_fail 0 0
    else ((s.putF F.otpProg_state 0 4).putF F.otpProg_fail 0 7).nextFree
def execOtpProgrammingDone (readBackOk : Bool) (s : State) : Host.Outcome State Fault Refusal := run (opOtpDone readBackOk) s

/-! ## Attestation (R469 to R471, Table 15.8) -/

/-- The report without its signature: 384 bytes. -/
def State.reportBody (s : State) : List Byte :=
  let nonce := [R.stdAttNonce0, R.stdAttNonce1, R.stdAttNonce2, R.stdAttNonce3].flatMap (fun r => leBytes 8 (s.reg r 0).toNat)
  let g := s.getF F.otpStat_active
  let avail := (List.range 16).flatMap (fun i => leBytes 8 (s.reg (availReg (64 * i)) 0).toNat)
  leBytes 4 0x54535441 ++ leBytes 2 1 ++ leBytes 2 (s.getF F.otpStat_debug + 2 * s.getF F.shfCap_degraded) ++ leBytes 8 s.serial ++ nonce ++
  leBytes 8 (s.getF F.tikCount_count) ++ leBytes 2 s.mCount ++ leBytes 1 g ++ leBytes 1 (s.getF F.stdBoot_start) ++ leBytes 4 s.svn ++
  leBytes 4 s.minSvn ++ leBytes 4 0 ++ leBytes 8 (hdrBuild s.start.header) ++ hdrMsg s.start.header ++ shake256 (s.genBlock g) 64 ++
  avail ++ leBytes 48 0

/-- ATTESTATION_REQUEST: the nonce and the rest are captured. Without an accepted identity the request ends at once. -/
def opAttest (s : State) : State :=
  if !s.ready || s.onF F.stdAttCtl_go then s
  else if !s.onF F.otpStat_identity then { s with report := [] }.putF F.stdAttCtl_status 0 4
  else ({ s with attBody := s.reportBody, report := [] }.putF F.stdAttCtl_go 0 1).putF F.stdAttCtl_status 0 1
def execAttestationRequest (by_ : Requester) (s : State) : Host.Outcome State Fault Refusal :=
  run (fun s => if s.reaches by_ R.stdAttCtl.off && (by_ != .i3c || bitOf s.flagsActive 1) then opAttest s else s) s

/-- ATTESTATION_READY: the report is signed, under a fresh Falcon nonce, and stands in the window. -/
def opAttReady (s : State) : State :=
  if !s.onF F.stdAttCtl_go then s
  else
    let nonce := (List.range 40).map (Config.freeByte s.fresh)
    let sig := 0x3A :: (nonce ++ slice (Config.falconSign (s.otpAt 0x200 64) (shake256 s.attBody 64) nonce) 0 1239)
    let s := { s with report := slice s.attBody 0 384 ++ sig, attBody := [], attZero := false }.nextFree
    (s.putF F.stdAttCtl_go 0 0).putF F.stdAttCtl_status 0 2
def execAttestationReady (s : State) : Host.Outcome State Fault Refusal := run opAttReady s

/-- The attestation window: report, identity public key, identity endorsement. -/
def State.attByte (s : State) (o : Nat) : Byte :=
  if s.attZero then 0
  else if o < 0x800 then s.report.getD o 0
  else if o < 0x1000 then (if s.onF F.otpStat_identity then (Config.falconPublic (s.otpAt 0x200 64)).getD (o - 0x800) 0 else 0)
  else if o < 0x1500 then mget s.otp (0x280 + (o - 0x1000)) else 0

end Sys2Proof.Machine
end

