-- ==== Sys2Proof/Machine/Power.lean ====
section
/-! DEFINITION. Power fail, Keep, and the ends of stops (R492, R494 to R501). -/

namespace Sys2Proof.Machine

/-! ## The end of a stop (Table 16.3) -/

/-- STOP_COOLDOWN: the cooling condition of causes 1, 3 and 4 has held for 10 s; the cold reset records the thermal cause. -/
def opCooldown (s : State) : State :=
  match s.heat.coolSince with
  | some t =>
    if s.getF F.pwrStat_state == 2 && [1, 3, 4].contains (s.getF F.pwrStat_cause) && decide (t + 10000000000 ≤ s.now) &&
        !s.start.steadingDown then s.coldReset 3 else s
  | none => s
def execStopCooldown (s : State) : Host.Outcome State Fault Refusal := run opCooldown s

/-- PWRFAIL_N_RELEASE: in a stop of cause 5 or 6, after every rail has been in range for 10 ms. -/
def opPwrfailRelease (okNs : Nat) (s : State) : State :=
  let s := { s with start := { s.start with pwrfailLow := false } }
  if s.getF F.pwrStat_state == 2 && [5, 6].contains (s.getF F.pwrStat_cause) && decide (10000000 ≤ okNs) then s.coldResetFree else s
def execPwrfailNRelease (railsOkNs : Nat) (s : State) : Host.Outcome State Fault Refusal := run (opPwrfailRelease railsOkNs) s

/-! ## Power fail (R494, R495) -/

/-- Keep is armed and may be entered: the part is ready, or resumes from Keep, and is in no stop. -/
def State.keepArmed (s : State) : Bool :=
  s.onF F.pwrCap_keep && s.getF F.pwrStat_state == 0 &&
  (s.ready || (s.start.configured && s.getF F.stdBoot_start == 2 && decide (s.getF F.stdBoot_stage ≤ 6)))

/-- Keep entry begins (R496, item 1): the cap drops in following mode, commits are abandoned, the ring is released. -/
def State.beginKeep (s : State) (now : Nat) : State :=
  let s := s.raise 0x68 0 0 1
  let s := (s.putF F.pwrStat_state 0 3).dropCommits
  let s := if s.onF F.pwrCap_mode then { s.putF F.pwrStat_cap 0 800 with tick := { s.tick with limits := none, fallbackNext := false } } else s
  let s := { s with autos := [], keep := { s.keep with entryAt := some now } }
  s.releasePlanes s.heldPlanes

/-- An accepted assertion of PWRFAIL_N. It cuts programming short (R463, Table 16.5). While a Keep-resume start still holds the
record, the part is in Keep again, its lofts in self-refresh (Table 14.11), with KEEP_OK asserted throughout. -/
def State.powerFails (s : State) (now : Nat) : State :=
  let s := s.cutOtp.cutImage
  let s := { s with start := { s.start with pwrfailLow := true } }
  if s.keep.inKeep then s
  else if s.onF F.pwrKeep_keep_ok then
    let s := allCells.foldl (fun s c => s.selfRefresh c true) (s.raise 0x68 0 0 1)
    let s := (s.closePlanes s.heldPlanes).raise 0x69 0 0 0
    { s with keep := { s.keep with inKeep := true, enteredAt := now }, tick := { s.tick with running := false, windowOpen := false } }
  else if s.keepArmed then s.beginKeep now
  else if s.getF F.pwrStat_state = 0 then (s.raise 0x68 0 0 0).beginStop 5 false
  else s

/-- PWRFAIL: low for 1 µs; no effect while PORST_N is low or a rail has already left its range (R535). -/
def opPwrfail (lowNs now : Nat) (s : State) : State :=
  let s := s.at_ now
  if decide (lowNs < 1000) || s.heldInReset || s.start.pwrfailLow then s else s.powerFails now
def execPwrfail (lowNs now : Nat) (s : State) : Host.Outcome State Fault Refusal := run (opPwrfail lowNs now) s

/-- RAIL_FAULT: VIN_CORE below its warning level for 100 µs with PWRFAIL_N deasserted (R494). -/
def opRailFault (mv now : Nat) (s : State) : State :=
  let s := s.at_ now
  if s.heldInReset || s.start.pwrfailLow || s.keep.inKeep || decide (1550 ≤ mv) then s
  else (s.raise 0x67 0xE 0 (BitVec.ofNat 64 mv)).powerFails now
def execRailFault (mv now : Nat) (s : State) : Host.Outcome State Fault Refusal := run (opRailFault mv now) s

/-! ## Keep entry (R496 to R498) -/

/-- KEEP_STAGE_STOP: 1.40 ms after t0 compute stops where no edge has ended the tick (R496). A tick whose deadline falls later is stopped
and its outputs discarded; it does not count as a replay, and runs again after the resume. A tick whose window is open keeps its outputs. -/
def opKeepStop (now : Nat) (s : State) : State :=
  let s := s.at_ now
  match s.keep.entryAt with
  | some t0 =>
    if s.getF F.pwrStat_state != 3 || !s.tick.running || decide (now < t0 + 1400000) then s
    else if s.tick.windowOpen then s.keepComputeStop
    else if s.tick.edgeAt + s.deadline ≤ t0 + 1400000 then s
    else
      let s := s.stopStages now
      let s := s.activeJobs.foldl (fun s j => s.modProg j (fun p => { p with invalid := false, replayNext := p.replaying })) s
      s.keepComputeStop
  | none => s
def execKeepStageStop (now : Nat) (s : State) : Host.Outcome State Fault Refusal := run (opKeepStop now) s

/-- The Keep record (R497); the prefix table lies in the prefix region. -/
def State.keepRecord (s : State) : KeepRec :=
  { ctl := s.ctl, regs := s.regs, staged := s.staged, cells := s.cells, chans := s.chans, header := s.start.header }

/-- KEEP_ENTERED: compute has stopped and the planes are released, by 1.60 ms regardless; the record is written, the lofts refresh
themselves, KEEP_OK is asserted. -/
def opKeepEntered (now : Nat) (s : State) : State :=
  let s := s.at_ now
  match s.keep.entryAt with
  | some t0 =>
    let s := if t0 + 1600000 ≤ now then s.closePlanes s.heldPlanes else s
    if s.getF F.pwrStat_state != 3 || s.tick.running || !s.heldPlanes.isEmpty || decide (t0 + 1800000 < now) || s.keep.inKeep then s
    else
      let k := s.keepRecord
      let s := allCells.foldl (fun s c => (s.abandonFlails c false).selfRefresh c true) s
      let s := { s with keep := { s.keep with inKeep := true, enteredAt := now, record := some k } }
      ((s.putF F.pwrKeep_keep_ok 0 1).putF F.pwrKeep_record 0 1).raise 0x69 0 0 (BitVec.ofNat 64 ((now - t0) / 1000))
  | none => s
def execKeepEntered (now : Nat) (s : State) : Host.Outcome State Fault Refusal := run (opKeepEntered now) s

/-- KEEP_ENTRY_ABANDONED: the entry is not complete by 1.80 ms; an orderly stop with cause 6 follows. The argument of the event numbers
no cause of R499, so it is free. -/
def opKeepGivesUp (now : Nat) (s : State) : State :=
  let s := s.at_ now
  match s.keep.entryAt with
  | some t0 =>
    if s.getF F.pwrStat_state != 3 || s.keep.inKeep || decide (now < t0 + 1800000) then s
    else
      let s := allCells.foldl (fun s c => s.selfRefresh c true) s
      let s := { s with keep := { s.keep with entryAt := none } }.putF F.pwrKeep_last 0 3
      let s := (s.raise 0x06 0 0 s.freeWord).nextFree
      (s.putF F.pwrStat_state 0 0).beginStop 6 true
  | none => s
def execKeepEntryAbandoned (now : Nat) (s : State) : Host.Outcome State Fault Refusal := run (opKeepGivesUp now) s

/-! ## Keep (R499 to R501) -/

/-- Keep is abandoned: the part stands in cold reset while a rail is out of range, else as after an abandoned entry (R405, R499). -/
def State.abandonKeep (s : State) : State :=
  let s := s.giveUpKeep
  if s.start.railsLow.isEmpty then (s.putF F.pwrStat_state 0 2).putF F.pwrStat_cause 0 6 else s.coldReset 0

/-- KEEP_CHECK: the conditions of Keep, every 10 ms. -/
def opKeepCheck (rs : List Reading) (low : List Rail) (bad : Bool) (now : Nat) (s : State) : State :=
  let s := s.at_ now
  if !s.keep.inKeep then s
  else
    let s := s.takeReadings rs
    let s := { s with start := { s.start with railsLow := (s.start.railsLow ++ low).eraseDups } }
    if low.contains .vstby then s.loseStandby
    else if low.contains .vmem || bad || rs.any (fun r => decide (deg 95 < r.value)) then s.abandonKeep else s
def execKeepCheck (readings : List Reading) (railsLow : List Rail) (recordBad : Bool) (now : Nat) (s : State) :
    Host.Outcome State Fault Refusal :=
  runIf (readings.all (fun r => decide (1024 ≤ r.sensor) && decide (r.sensor < 2576))) (opKeepCheck readings railsLow recordBad now) s

/-- KEEP_ABANDON_WRITE: a write of 1 to PWR_KEEP.abandon through I3C. -/
def opKeepAbandon (by_ : Requester) (s : State) : State := if by_ == .i3c && s.keep.inKeep then s.abandonKeep else s
def execKeepAbandonWrite (by_ : Requester) (s : State) : Host.Outcome State Fault Refusal := run (opKeepAbandon by_) s

/-- KEEP_END: the rails have returned; the return-from-Keep reset, and a Keep-resume start. -/
def opKeepEnd (now : Nat) (s : State) : State :=
  let s := s.at_ now
  if !s.keep.inKeep then s
  else
    let s := s.putF F.pwrKeep_held_s 0 (min ((now - s.keep.enteredAt) / 1000000000) (2 ^ 32 - 1))
    let s := { s with keep := { s.keep with inKeep := false, entryAt := none }, start := { s.start with railsLow := [], pwrfailLow := false } }
    s.coldReset 5
def execKeepEnd (now : Nat) (s : State) : Host.Outcome State Fault Refusal := run (opKeepEnd now) s

end Sys2Proof.Machine
end

