-- ==== Sys2Proof/Machine/Mirror.lean ====
section
/-! DEFINITION. What a read of a register shows (R7, R62, R131, R201, R238, R416, R452, R512) and the read-back mirror
(R10, R31, R514 to R521). -/

namespace Sys2Proof.Machine

/-! ## Words worked out at a read -/

/-- The SHF_AVAIL word that a register is, if it is one. -/
def availNo (r : Reg) : Option Nat :=
  if R.shfAvail0.off ≤ r.off ∧ r.off ≤ R.shfAvail15.off then some ((r.off - R.shfAvail0.off) / 8) else none

/-- The usable cells that a sheaf's availability map shows: the part's own for sheaf 0 and for a sheaf of parts (R62). -/
def State.availOf (s : State) (i : Nat) : List Nat :=
  if i = 0 then allCells.filter s.usable
  else if !(s.sheaf i).inUse then []
  else if (s.sheaf i).desc.mtype = 2 then allCells.filter s.usable
  else (s.cellsOfSheaf i).filter s.usable

/-- Word k of a sheaf's SHF_AVAIL. -/
def State.availWord (s : State) (i k : Nat) : Word :=
  if i = 0 then s.reg (availReg (64 * k)) 0
  else ((s.availOf i).filter (fun c => c / 64 == k)).foldl (fun w c => fieldPut w (c % 64) 1 1) 0

/-- The cells of a kind that SHF_CAP counts: its enabled M cells, its usable cells of another kind; of a sheaf of parts the smallest count
found on any member (Table 2.10, R62). -/
def State.capCount (s : State) (i k : Nat) : Nat :=
  let d := (s.sheaf i).desc
  let ok := fun c => kindOf c == k && (if k = kM then !s.disabled c else s.usable c)
  if d.mtype = 2 then
    let own := (allCells.filter ok).length
    match d.members.map (fun m => if m = s.own then own else Config.partCells m k (s.getF F.tikCount_count)) with
    | [] => own
    | n :: r => r.foldl min n
  else ((if i = 0 then allCells else s.cellsOfSheaf i).filter ok).length

/-- SHF_CAP of a sheaf: of sheaf 0 the M cells that the store enables; of an identifier not in use its reset value (Table 2.10). -/
def State.capWord (s : State) (i : Nat) : Word :=
  if i != 0 && !(s.sheaf i).inUse then regReset R.shfCap i
  else
    let n := s.capCount i
    let w := if i = 0 then s.reg R.shfCap 0 else fieldPut (s.reg R.shfCap i) 0 9 (n kM)
    let w := fieldPut (fieldPut w 9 8 (n kA)) 17 9 (n kV)
    let w := fieldPut (fieldPut (fieldPut w 26 8 (n kG)) 34 7 (n kL)) 41 7 (n kS)
    if (s.sheaf i).desc.mtype = 2 then fieldPut w 54 10 ((s.sheaf i).desc.members.length - 1) else w

/-- The phase of the tick at the latest instant: 0 Load, 1 Run, 2 Drain, 3 maintenance window (Table 3.3). -/
def State.phaseNow (s : State) : Nat :=
  if !s.tick.running then 0
  else if s.tick.windowOpen then 3
  else if s.now < s.tick.edgeAt + 256 then 0
  else if s.unfinished.isEmpty then 2 else 1

/-- TIK_PHASE (Table 3.1). -/
def State.phaseWord (s : State) : Word :=
  let w := fieldPut (fieldPut 0 0 2 s.phaseNow) 2 1 (bit (s.tick.deferred && s.tick.newEdge.all (fun e => decide (s.period < e))))
  let w := fieldPut w 3 1 (bit s.tick.replaying)
  if s.tick.running then fieldPut w 8 32 (min (s.now - s.tick.edgeAt) (2 ^ 32 - 1)) else w

/-- The lowest operator entry of a cell's stage that is not done; the last one when all are. -/
def State.entryNow (s : State) (c : Nat) : Nat :=
  match s.stageOf c with
  | some (_, t) => ((List.range t.opCount).find? (fun i => !(s.cell c).doneOps.contains i)).getD (t.opCount - 1)
  | none => 0

/-- THR_STAT of an A cell that is busy: it is at some KV head of its stage and at some block; it may be merging where the stage has position
shares (Table 6.10). Where it is within its pass is free (log entry 5). -/
def State.thrBusy (s : State) (c : Nat) (w : Word) : Word :=
  match s.stageOf c with
  | none => w
  | some (_, t) =>
    let x := s.freeWord.toNat
    let w := if 1 < t.f 0x32 1 ∧ t.f 0x33 1 = 0 then fieldPut w 2 1 (x % 2) else w
    fieldPut (fieldPut w 16 16 (t.f 0x2E 2 + x / 2 % max 1 (t.f 0x30 2))) 32 32 (x / 2 ^ 20 % 16384)

/-- A cell runs a KVAPPEND entry of an active program (R238). -/
def State.runsKv (s : State) (c : Nat) : Bool :=
  s.activeJobs.any (fun j => (s.image j).kvEntries.any (fun x => s.runnerOf j x.1 == c))

/-- A register word of a cell: zero in the fields of another kind (R131, R201, R238), status fields zero in reset (R416). Whether a pass is
in progress once rows have come, and what it is at, is a free value (log entry 5). -/
def State.cellWord (s : State) (r : Reg) (c : Nat) : Word :=
  let w := s.reg r c
  let down := (s.cell c).inReset
  let page := r.off / 4096
  if r.off = R.celTick.off then (if (s.stageOf c).isNone && s.getF F.tikCount_count != 0 then fieldPut w 63 1 1 else w)
  else if r.off = R.celStat.off then (if down then 0 else if fieldGet w 0 1 = 1 then fieldPut w 1 6 (s.entryNow c) else w)
  else if page = 4 then
    (if kindOf c ≠ kM ∨ s.disabled c then 0
    else if r.off ≠ R.mxcStat.off then w
    else if down then 0
    else if fieldGet w 0 1 = 1 then fieldPut (s.freeWord &&& ~~~(0xFFF0 : Word)) 1 2 (s.entryNow c) else w)
  else if page = 5 then
    (if kindOf c ≠ kA then 0
    else if r.off ≠ R.thrStat.off then w
    else if down then 0
    else if fieldGet w 0 1 = 1 then s.thrBusy c w else w)
  else if page = 6 then (if s.runsKv c then w else 0)
  else w

/-- A word of a stream: a free identifier reads zero in every field except epoch (R238). -/
def State.streamWord (s : State) (r : Reg) (i : Nat) : Word :=
  let t := s.stream i
  let e := fieldPut 0 8 8 t.epoch
  if r.off = R.kvpSinfo.off then
    (if !t.isOpen then e
    else
      let w := fieldPut (fieldPut (fieldPut e 0 2 t.kv.prec) 2 2 t.kv.pfx) 4 1 (bit t.kv.privileged)
      fieldPut (fieldPut (fieldPut (fieldPut w 5 1 (bit t.kv.winnow)) 6 1 (bit t.failed)) 7 1 1) 16 21 t.lenEdge)
  else if r.off = R.kvpSres.off then (if t.isOpen then fieldPut 0 0 32 t.budgetOf else 0)
  else s.workedOut r i

/-- What a read of a copy of a register returns. -/
def State.shows (s : State) (r : Reg) (i : Nat) : Word :=
  match availNo r with
  | some k => s.availWord i k
  | none =>
    if instances r.shown ≤ i then 0
    else if r.off = R.shfCap.off then s.capWord i
    else if r.off = R.tikPhase.off then s.phaseWord
    else if r.off = R.rakLog0.off then (tget (0, 0) s.logRing i).1
    else if r.off = R.rakLog1.off then (tget (0, 0) s.logRing i).2
    else if r.off = R.otpRdata.off then s.otpShown (s.getF F.otpRaddr_offset i / 8 * 8)
    else match r.shown with
      | .cell => s.cellWord r i
      | .stream => s.streamWord r i
      | _ => s.workedOut r i

/-- The copy of a register that a requester's reads show. -/
def State.readInst (s : State) (by_ : Requester) (r : Reg) : Nat :=
  match availNo r with
  | some _ => s.sel by_ F.shfSel_id
  | none => s.shownInst by_ r

/-! ## The mirror (R514 to R519) -/

/-- The mask of a register's fields of one access code. -/
def accMask (a : Access) (r : Reg) : Word :=
  (allFields.filter (fun f => f.reg == r && f.acc == a)).foldl (fun m f => m ||| (maskW f.width <<< f.lo)) 0

/-- The words that are live whole; of every other the RC fields (R517). -/
def liveRegs : List Nat := [R.tikPhase.off, R.clkStat.off, R.thmHot.off, R.thmRth.off, R.pwrStat.off]

/-- The state that the snapshot holds; no cell has done anything at its edge. -/
def State.atSnap (s : State) : State :=
  let k := s.snap
  { s with regs := k.regs, staged := k.staged, ctl := k.ctl, sqTails := k.sqTails, cqHeads := k.cqHeads, otp := k.otp, cells := [] }

/-- A word of the published snapshot; before the first publication free in the bits that hold something, which a mask gives, and zero in the
reserved ones (R12; log entry 5). -/
def State.snapWord (s : State) (m : Word) (f : State → Word) : Word := if s.snap.valid then f s.atSnap else s.freeWord &&& m

/-- The mask of a register's fields. -/
def fieldMask (r : Reg) : Word := (allFields.filter (fun f => f.reg == r)).foldl (fun m f => m ||| (maskW f.width <<< f.lo)) 0

/-- A snapshot of a register: what is worked out at a read is as it was at the edge. -/
def State.snapShows (s : State) (r : Reg) (i : Nat) : Word :=
  s.snapWord (fieldMask r) (fun v =>
    if heldRegs.contains r.off then v.reg r i
    else v.shows r i)

/-- A word of the control plane: a sheaf, queue pair, Chute, stream or program record, or a part-wide TIK_ or SHF_ word (R519). -/
def ofControl (cls : Nat) (r : Reg) : Bool :=
  [3, 4, 5, 13, 14].contains cls || (cls == 0 && [1, 2].contains (r.off / 4096))

/-- Whether the block of a word is in reset: that of its record, or the control plane in a warm reset (R519). -/
def State.blockDown (s : State) (cls : Nat) (r : Reg) (i : Nat) : Bool :=
  (s.start.warmReset && ofControl cls r) || (cls == 1 && (s.cell i).inReset) || (cls == 2 && s.onF F.vccCtl_reset i) || (cls == 6 && s.planeReset i) ||
  (cls == 7 && s.onF F.d2dCtl_reset i)

/-- The fields that the mirror reads live: RC fields (R517), and the levels of the leaky buckets (R31). -/
def liveMask (r : Reg) : Word := accMask .rc r ||| (if [R.vccBkt.off, R.celBkt.off].contains r.off then maskW 16 else 0)

/-- A register in the mirror: each field live or from the snapshot; of a block in reset the last snapshot (R31). -/
def State.mirrorShows (s : State) (cls : Nat) (r : Reg) (i : Nat) : Word :=
  if s.blockDown cls r i then s.snapShows r i
  else if [5, 9, 11, 12].contains cls || liveRegs.contains r.off then s.shows r i
  else
    let m := liveMask r
    (s.shows r i &&& m) ||| (s.snapShows r i &&& ~~~m)

/-- The words of a record: an ST register takes two, its active and its staged copy (R518). -/
def recordWords (cls i : Nat) : List (State → Word) :=
  (recordRegs cls).flatMap (fun r =>
    let w : State → Word := fun s => s.mirrorShows cls r i
    if stRegs.contains r then [w, fun s => s.snapWord (fieldMask r) (fun v => v.stagedReg r i)] else [w])

def State.recordWord (s : State) (cls i k : Nat) : Word :=
  match (recordWords cls i)[k]? with
  | some f => f s
  | none => 0

/-- The stale bits of a class, from unit lo on (Table 17.4). -/
def State.staleWord (s : State) (cls lo n : Nat) : Word :=
  ((s.snap.stale ++ s.inReset).filter (fun e => e.1 == cls && decide (lo ≤ e.2) && decide (e.2 < lo + n))).foldl
    (fun w e => fieldPut w (e.2 - lo) 1 1) 0

/-- The header (Table 17.4). -/
def State.headerWord (s : State) (o : Nat) : Word :=
  if o = 0 then BitVec.ofNat 64 s.snap.edge
  else if o = 8 then fieldPut (fieldPut 0 0 1 (bit s.snap.valid)) 1 1 (s.getF F.stdBoot_minimal)
  else if o = 0x10 then BitVec.ofNat 64 s.snap.time
  else if 0x40 ≤ o ∧ o < 0xC0 then s.staleWord 1 ((o - 0x40) * 8) 64
  else if 0xC0 ≤ o ∧ o < 0x140 then s.staleWord 2 ((o - 0xC0) * 8) 64
  else if o = 0x140 then
    let w := (s.staleWord 6 0 8) ||| (s.staleWord 7 0 8 <<< 8)
    let w := fieldPut (fieldPut w 16 1 (bit s.start.steadingDown)) 17 1 (bit s.perstOn)
    fieldPut (fieldPut w 18 1 (bit s.start.warmReset)) 19 1 (bit (!s.snap.staleWords.isEmpty))
  else 0

/-- The bytes of a stream's sampler record (Table 5.9) and KV record (Table 7.5), and its status word (Table 17.6). -/
def samplerBytes (x : Sampler) : List Byte :=
  leBytes 16 x.seed.toNat ++ leBytes 4 x.temp.toNat ++ leBytes 2 x.topK ++ leBytes 2 0 ++ leBytes 4 x.topP.toNat ++
  leBytes 4 x.rep.toNat ++ leBytes 4 x.pres.toNat ++ leBytes 4 x.freq.toNat ++ leBytes 2 x.window ++ leBytes 1 x.drafts ++
  leBytes 1 0 ++ ((List.range 4).flatMap (fun k => leBytes 4 (x.stop.getD k 0xFFFFFFFF).toNat)) ++ leBytes 4 0
def kvBytes (x : KvRec) : List Byte :=
  leBytes 1 x.prec ++ leBytes 1 x.pfx ++ leBytes 1 (bit x.privileged + 2 * bit x.winnow) ++ leBytes 1 0 ++ leBytes 4 x.maxLen ++
  leBytes 4 x.budget ++ leBytes 4 0xFFFFFFFF ++ leBytes 16 0
def State.statusWord (s : State) (i : Nat) : Word :=
  let t := s.stream i
  let q := fieldPut 0 25 1 (bit (!t.isOpen && s.inQuarantine t.released))
  if !t.isOpen then q
  else
    let w := fieldPut (fieldPut (fieldPut q 0 6 t.cq) 6 5 t.feeds.length) 11 3 t.job
    let w := fieldPut (fieldPut (fieldPut w 14 8 t.jobEpoch) 22 1 (bit (t.pendingTok.isSome && t.fedLeft == 0 && t.genEnd == 0))) 23 1 (bit t.ended)
    fieldPut (fieldPut w 24 1 (bit (!t.copies.isEmpty))) 26 13 t.rows.length

/-- The bits of a word of a stream record that hold something (Tables 5.9, 7.5, 17.6). -/
def streamMask (k : Nat) : Word :=
  [maskW 64, maskW 64, 0x0000FFFFFFFFFFFF, maskW 64, maskW 64, 0xFFFFFFFF00FFFFFF, maskW 64, 0x00000000FFFFFFFF,
   0xFFFFFFFF0003FFFF, maskW 64, 0, 0, maskW 39].getD (k - 3) 0

/-- A word of a stream record. -/
def State.streamRecord (s : State) (i k : Nat) : Word :=
  if k < 3 then s.mirrorShows 13 ([R.kvpSinfo, R.kvpSpages, R.kvpSres].getD k R.kvpSinfo) i
  else s.snapWord (streamMask k) (fun v =>
    let t := v.stream i
    let bytes := fun (l : List Byte) (j : Nat) => BitVec.ofNat 64 (fieldAt l (8 * j) 8)
    if k < 11 then (if t.isOpen then bytes (samplerBytes t.samp) (k - 3) else 0)
    else if k < 15 then (if t.isOpen then bytes (kvBytes t.kv) (k - 11) else 0)
    else if k = 15 then v.statusWord i else 0)

/-- A word of a program record (Table 17.6). -/
def State.progRecord (s : State) (j k : Nat) : Word :=
  s.snapWord (if k = 0 then maskW 40 else if k < 6 then maskW 64 else 0) (fun v =>
    let p := v.prog j
    let st := match p.state with
      | .free => 0
      | .staged => 1
      | .active => 2
      | .quarantine => if v.inQuarantine p.released then 3 else 0
    let held := p.state == .staged || p.state == .active
    let a := fun (n : Nat) => BitVec.ofNat 64 (if held then n else 0)
    if k = 0 then fieldPut (fieldPut (fieldPut (fieldPut 0 0 2 st) 2 8 p.epoch) 10 13 (if held then p.img.tokenRows else 0)) 23 17 (v.streamsOf j).length
    else if k = 1 then a p.jAddr
    else if k = 2 then a p.jLen
    else if k = 3 then a p.sAddr
    else if k = 4 then a p.sLen
    else if k = 5 then (if held then p.fmask else 0) else 0)

/-- A word of a queue pair record; its seventh holds the doorbells. -/
def State.queueRecord (s : State) (q k : Nat) : Word :=
  if k = 6 then s.snapWord (maskW 32) (fun v => fieldPut (fieldPut 0 0 16 (tget 0 v.sqTails q)) 16 16 (tget 0 v.cqHeads q))
  else s.recordWord 4 q k

/-- The part-wide region: registers that no selector chooses, and their staged copies; in minimal mode only some pages (R521). -/
def minimalPage (o : Nat) : Bool := [0, 0xF, 0x10, 0x11, 0x12, 0x13].contains (o / 4096)
def State.partWide (s : State) (o : Nat) (stagedCopy : Bool) : Word :=
  match regAt o with
  | none => 0
  | some r =>
    if r.shown != .part || (availNo r).isSome || (s.onF F.stdBoot_minimal && !minimalPage o) then 0
    else if !stagedCopy then s.mirrorShows 0 r 0
    else if stRegs.contains r then s.snapWord (fieldMask r) (fun v => v.stagedReg r 0) else 0

/-- Where records of a class lie: base, record size, count (Table 17.3). -/
def recordTable : List (Nat × Nat × Nat × Nat) :=
  [(1, 0x200000, 256, 1024), (2, 0x240000, 256, 1024), (3, 0x280000, 256, 4096), (4, 0x380000, 64, 64), (5, 0x381000, 128, 32),
   (6, 0x382000, 64, 8), (7, 0x382200, 32, 8), (8, 0x382400, 32, 60), (9, 0x383000, 8, 12), (10, 0x383100, 8, 64),
   (14, 0x383400, 64, 8), (11, 0x384000, 8, 2640), (12, 0x390000, 16, 4096), (13, 0x1000000, 256, 65536)]

/-- The word of the mirror at an offset, a multiple of 8. A word that has read as lost reads zero until the next publication. -/
def State.mirrorWord (s : State) (o : Nat) : Word :=
  let small := s.onF F.stdBoot_minimal
  if s.snap.staleWords.contains (o / 8) then 0
  else if o < 0x1000 then s.headerWord o
  else if 0x100000 ≤ o ∧ o < 0x114000 then s.partWide (o - 0x100000) false
  else if 0x180000 ≤ o ∧ o < 0x194000 then s.partWide (o - 0x180000) true
  else if 0x3A0000 ≤ o ∧ o < 0x3B0000 then s.snapWord (if 0x200 ≤ o - 0x3A0000 ∧ o - 0x3A0000 < 0x280 then 0 else maskW 64) (fun v => v.otpShown (o - 0x3A0000))
  else
    match recordTable.find? (fun e => decide (e.2.1 ≤ o) && decide (o < e.2.1 + e.2.2.1 * e.2.2.2)) with
    | none => 0
    | some (cls, base, size, _) =>
      let i := (o - base) / size
      let k := (o - base) % size / 8
      if small && cls != 11 then 0
      else if cls = 13 then s.streamRecord i k
      else if cls = 14 then s.progRecord i k
      else if cls = 4 then s.queueRecord i k
      else if cls = 3 ∧ 5 ≤ k ∧ k < 21 then s.snapWord (maskW 64) (fun v => v.availWord i (k - 5))
      else s.recordWord cls i k

end Sys2Proof.Machine
end

