-- ==== Sys2Proof/Machine/Registers.lean ====
section
/-! DEFINITION. Accesses to BAR0 and to the function pages of BAR2 (R7 to R13, R361, R362, R390, R508 to R513): RC_READ and
REGISTER_WRITE, and the rows of the prefix table's flush and of quarantine (R232, R236). -/

namespace Sys2Proof.Machine

/-! ## Windows of BAR0 (Table 17.1) -/

def attBase : Nat := 0x100000
def rcvBase : Nat := 0x1000000
def mirrorBase : Nat := 0x2000000
def inPages (o : Nat) : Bool := decide (o < 0x14000)
def inAtt (o : Nat) : Bool := decide (attBase ≤ o) && decide (o < attBase + 0x2000)
def inRcv (o : Nat) : Bool := decide (rcvBase ≤ o) && decide (o < rcvBase + 0x1000000)
def inMirror (o : Nat) : Bool := decide (mirrorBase ≤ o) && decide (o < mirrorBase + 0x2000000)

/-! ## Reading -/

/-- Whether a requester's read reaches an offset. BAR0 in minimal mode reaches only what R431 lists; I3C reads what the physical
function may read, but PERST_N does not stop it (R513, R520); the firmware reads while it runs. -/
def State.mayRead (s : State) (by_ : Requester) (o : Nat) : Bool :=
  let small := s.onF F.stdBoot_minimal
  let open_ := !small || minimalRegs.any (fun r => r.off == o / 8 * 8) || inRcv o || inMirror o
  match by_ with
  | .host => !s.perstOn && !s.start.loading && open_
  | .steading => !s.start.steadingDown
  | .i3c => s.start.bootDone && open_

/-- The 8 bytes of BAR0 at an offset, a multiple of 8, as a requester reads them. -/
def State.bar0Word (s : State) (by_ : Requester) (o : Nat) : Word :=
  if !s.mayRead by_ o then 0
  else if inPages o then (match regAt o with
    | some r => s.shows r (s.readInst by_ r)
    | none => 0)
  else if inAtt o then BitVec.ofNat 64 (leNat ((List.range 8).map (fun k => s.attByte (o - attBase + k))))
  else if inRcv o then BitVec.ofNat 64 (leNat (mread s.rcvBuf (o - rcvBase) 8))
  else if inMirror o then s.mirrorWord (o - mirrorBase) else 0

/-- A read clears the RC fields among the bits it returns (R7, R509). -/
def State.clearRc (s : State) (r : Reg) (i : Nat) (m : Word) : State :=
  s.setReg r i (s.reg r i &&& ~~~(accMask .rc r &&& m))

/-- A read of BAR0: the value goes out, and RC fields of a direct register are cleared. Any other size or alignment returns zero. -/
def opBar0Read (by_ : Requester) (o n : Nat) (s : State) : State :=
  if !accessOk o n then s.send (.regData 0)
  else
    let base := o / 8 * 8
    let w := (s.bar0Word by_ base >>> (8 * (o % 8))) &&& maskW (8 * n)
    let s := (s.send (.regData w)).nextFree
    if inPages o && s.mayRead by_ base then (match regAt base with
      | some r => if s.readInst by_ r < instances r.shown then s.clearRc r (s.readInst by_ r) (writeMask o n) else s
      | none => s)
    else s

/-! ## Function pages (Table 12.5) -/

/-- The queue registers of a function page, in order (R390). -/
def queueRegs : List Reg := [R.hstSqBase, R.hstCqBase, R.hstQcfg, R.hstQstat, R.hstQcnt]

/-- The queue register at an offset of a page's queue block. -/
def queueRegAt (o : Nat) : Option (Nat × Reg) :=
  if 0x10000 ≤ o ∧ o < 0x11000 then (queueRegs[(o - 0x10000) % 64 / 8]?).map (fun r => ((o - 0x10000) / 64, r)) else none

/-- The 16 bytes of an MSI-X table entry, and a function's pending bit array (R362, R381). -/
def msixBytes (m : MsixEntry) : List Byte := leBytes 8 m.addr.toNat ++ leBytes 4 m.data.toNat ++ leBytes 4 (bit m.masked)
def msixOf (l : List Byte) (pending : Bool) : MsixEntry :=
  { addr := BitVec.ofNat 64 (fieldAt l 0 8), data := BitVec.ofNat 32 (fieldAt l 8 4), masked := bitOf (fieldAt l 12 4) 0, pending := pending }
def State.msixAt (s : State) (p v : Nat) : MsixEntry := tget {} s.msix (p * 32 + v)
def State.pbaWord (s : State) (p : Nat) : Word :=
  ((List.range 32).filter (fun v => (s.msixAt p v).pending)).foldl (fun w v => fieldPut w v 1 1) 0

/-- Whether the host reaches a function page: in minimal mode only the MSI-X table of page 0 (R431). -/
def State.mayPage (s : State) (p o : Nat) : Bool :=
  !s.perstOn && !s.start.loading && (!s.onF F.stdBoot_minimal || (p == 0 && decide (0x20000 ≤ o)))

/-- The 8 bytes of a function page at an offset, a multiple of 8; what a doorbell reads as no rule says (log entry 5). -/
def State.bar2Word (s : State) (p o : Nat) : Word :=
  if !s.mayPage p o then 0
  else if o < 0x400 then s.freeWord
  else if 0x20000 ≤ o ∧ o < 0x20200 then
    BitVec.ofNat 64 (fieldAt (msixBytes (s.msixAt p ((o - 0x20000) / 16))) ((o - 0x20000) % 16) 8)
  else if o = 0x30000 then s.pbaWord p
  else match queueRegAt o with
    | some (q, r) => if p = 0 ∨ s.owner q = p then s.shows r q else 0
    | none => 0

def opBar2Read (p o n : Nat) (s : State) : State :=
  if !accessOk o n then s.send (.regData 0)
  else
    let base := o / 8 * 8
    let w := (s.bar2Word p base >>> (8 * (o % 8))) &&& maskW (8 * n)
    let s := (s.send (.regData w)).nextFree
    match queueRegAt base with
    | some (q, r) => if s.mayPage p o && (p == 0 || s.owner q == p) then s.clearRc r q (writeMask o n) else s
    | none => s

/-- RC_READ (R7, R9, R10): a read of a register or of a window. -/
def opRead (by_ : Requester) (a : RegAddr) (n now : Nat) (s : State) : State :=
  let s := s.at_ now
  match a with
  | .bar0 o => opBar0Read by_ o.toNat n s
  | .bar2 p o => if by_ == .host then opBar2Read p.toNat o.toNat n s else s
def execRcRead (by_ : Requester) (addr : RegAddr) (size now : Nat) (s : State) : Host.Outcome State Fault Refusal :=
  run (opRead by_ addr size now) s

/-! ## Writing -/

/-- The registers that flags bits of the active generation open to I3C, and those always open (R457, R513, R538). -/
def State.i3cOpen (s : State) (o : Nat) : Bool :=
  let at_ := fun (rs : List Reg) => rs.any (fun r => r.off == o)
  at_ [R.thmCool, R.pwrKeep] ||
  (bitOf s.flagsActive 2 && (at_ [R.stdRcvCtl, R.stdRcvLen, R.otpProg] || inRcv o)) ||
  (bitOf s.flagsActive 1 && at_ [R.stdAttCtl, R.stdAttNonce0, R.stdAttNonce1, R.stdAttNonce2, R.stdAttNonce3])

/-- Whether a requester's write reaches an offset. -/
def State.mayWrite (s : State) (by_ : Requester) (o : Nat) : Bool :=
  if by_ == .i3c then s.start.bootDone && s.i3cOpen (o / 8 * 8) else s.mayRead by_ o

/-- A write by access codes alone: RW bits are set, W1C bits cleared where a 1 is written (R7, R8, R12). -/
def State.plainWrite (s : State) (r : Reg) (i : Nat) (m v : Word) : State :=
  let old := s.reg r i
  let rw := accMask .rw r &&& m
  let w1 := accMask .w1c r &&& m
  s.setReg r i (((old &&& ~~~rw) ||| (v &&& rw)) &&& ~~~(v &&& w1))

/-- A register word as a write would leave it. -/
def State.wouldHold (s : State) (r : Reg) (i : Nat) (m v : Word) : Word := (s.reg r i &&& ~~~m) ||| (v &&& m)

/-- Whether a write covers a field, and writes a 1 to a one-bit field. -/
def covers (f : Fld) (m : Word) : Bool := fieldGet m f.lo 1 != 0
def writesOne (f : Fld) (m v : Word) : Bool := covers f m && fieldGet v f.lo 1 != 0

/-- A write of RST_CELL, RST_STOOK or RST_SHF: the target, which a held target keeps; then hold; then go (R416). -/
def opResetWrite (kind now : Nat) (m v : Word) (s : State) : State :=
  let t := resetTarget kind
  let s := if covers t m && !s.onF (resetHold kind) then (s.putF t 0 (fieldGet v t.lo t.width)).showResets else s
  let s := if covers (resetHold kind) m then opResetHold kind (fieldGet v (resetHold kind).lo 1 != 0) now s else s
  if writesOne (resetGo kind) m v then opResetGo kind now s else s

/-- A write of VCC_MARGIN: with req set it asks for a sweep; else it sets mode and bit. -/
def opMarginWrite (c : Nat) (m v : Word) (s : State) : State :=
  if writesOne F.vccMargin_req m v then opMargin c (fieldGet v 1 1 != 0) (fieldGet v 2 9) s
  else if covers F.vccMargin_req m then (s.putF F.vccMargin_mode c (fieldGet v 1 1)).putF F.vccMargin_bit c (fieldGet v 2 9) else s

/-- A write of STD_RCV_CTL (R448). -/
def opRcvWrite (v : Word) (s : State) : State :=
  let cmd := fieldGet v 0 4
  if cmd = 1 then opRcvVerify s else if cmd = 2 then opRcvProgram s else if cmd = 3 then opRcvCold s else s

/-- A write of CHU_CTL, CHU_HEAD and CHU_CFG (R386, R391). -/
def opChuteCtl (ch : Nat) (m v : Word) (s : State) : State :=
  let s := if writesOne F.chuCtl_abort m v then opChuteAbort ch s else s
  if writesOne F.chuCtl_go m v then opChuteGo ch s else s
def opChuteHead (ch : Nat) (m v : Word) (s : State) : State :=
  let s := s.plainWrite R.chuHead ch m v
  s.setChute ch { s.chute ch with first := (s.chute ch).first || !s.chuteRuns ch }
def opChuteCfg (ch : Nat) (m v : Word) (s : State) : State :=
  if !covers F.chuCfg_owner m then s
  else
    let s := if s.chuteRuns ch then s else s.putF F.chuCfg_owner ch (fieldGet v 0 6)
    s.putF F.chuCfg_vector ch (fieldGet v 6 5)

/-- A register of the tick, reset and boot pages, the governor and the trust block, whose write acts; none for any other. -/
def actSystem (by_ : Requester) (r : Reg) (now : Nat) (m v : Word) : Option (State → State) :=
  let low := fieldGet m 0 1 != 0
  if r == R.tikCmt then some (fun s => if writesOne F.tikCmt_req m v then opCommitRequest (by_ == .steading) now s else s)
  else if r == R.tikStg then some (fun s => if writesOne F.tikStg_revert m v then opRevert s else s)
  else if r == R.rstStd then some (fun s => if writesOne F.rstStd_restart m v then opSteadingRestart by_ now s else s)
  else if r == R.rstCell then some (opResetWrite 0 now m v)
  else if r == R.rstStook then some (opResetWrite 1 now m v)
  else if r == R.rstShf then some (opResetWrite 2 now m v)
  else if r == R.clkMon then some (fun s => if low then opClkMon v s else s)
  else if r == R.clkFmc then some (fun s => if low then opFmc v s else s)
  else if r == R.stdRcvCtl then some (fun s => if low then opRcvWrite v s else s)
  else if r == R.otpProg then some (fun s => if low ∧ fieldGet v 0 4 = 1 then opOtpProgram s else s)
  else if r == R.stdAttCtl then some (fun s => if writesOne F.stdAttCtl_go m v then opAttest s else s)
  else if r == R.thmCool then some (fun s => if low then opInletWrite (fieldGet v 0 16) now s else s)
  else if r == R.pwrKeep then some (fun s => if writesOne F.pwrKeep_abandon m v then opKeepAbandon by_ s else s)
  else if r == R.pfxCtl then some (fun s => if writesOne F.pfxCtl_flush m v then s.putF F.pfxCtl_flush 0 1 else s)
  else none

/-- A register of channels, links, queues or Chute, whose write acts; none for any other. -/
def actUnit (r : Reg) (i : Nat) (m v : Word) : Option (State → State) :=
  let low := fieldGet m 0 1 != 0
  if r == R.vccCtl then some (fun s =>
    let s := if covers F.vccCtl_reset m then opChannelReset i (fieldGet v 1 1 != 0) s else s
    if writesOne F.vccCtl_retrain m v then opChannelRetrain i s else s)
  else if r == R.vccMargin then some (opMarginWrite i m v)
  else if r == R.fllPctl then some (fun s => if writesOne F.fllPctl_go m v then opPortGo i s else s)
  else if r == R.lnkCtl then some (fun s =>
    let s := if covers F.lnkCtl_reset m then opLinkReset i (fieldGet v 1 1 != 0) s else s
    if writesOne F.lnkCtl_retrain m v then opLinkRetrain i s else s)
  else if r == R.d2dCtl then some (fun s =>
    if low then opD2dTest i (fieldGet v 1 1 != 0) (fieldGet v 2 1 != 0) (opD2dReset i (fieldGet v 0 1 != 0) s) else s)
  else if r == R.hstQown then some (fun s => if low then opQown i v s else s)
  else if r == R.hstQcfg then some (fun s => if low then opQcfg i v s else s)
  else if r == R.hstSqBase then some (fun s => opQbase F.hstSqBase_addr i (s.wouldHold r i m v) s)
  else if r == R.hstCqBase then some (fun s => opQbase F.hstCqBase_addr i (s.wouldHold r i m v) s)
  else if r == R.hstEvqCfg then some (fun s => if low then opEvqCfg v s else s)
  else if r == R.chuCtl then some (opChuteCtl i m v)
  else if r == R.chuHead then some (opChuteHead i m v)
  else if r == R.chuCfg then some (opChuteCfg i m v)
  else none

/-- A write of a register: staged, acting, or by its access codes alone. -/
def opRegWrite (by_ : Requester) (r : Reg) (i o n now : Nat) (value : Word) (s : State) : State :=
  let m := writeMask o n
  let v := writeValue o value &&& m
  if stRegs.contains r then opStagedWrite by_ o n value s
  else if instances r.shown ≤ i then s
  else match actSystem by_ r now m v with
    | some f => f s
    | none => match actUnit r i m v with
      | some f => f s
      | none => s.plainWrite r i m v

/-- A write of BAR0. The recovery buffer takes 1 to 8 bytes within an aligned word; the attestation window and the mirror take none
(R508, R509). -/
def opBar0Write (by_ : Requester) (o n now : Nat) (value : Word) (s : State) : State :=
  if !s.mayWrite by_ o then s
  else if inRcv o then
    (if 1 ≤ n ∧ o % 8 + n ≤ 8 then { s with rcvBuf := mblock s.rcvBuf (o - rcvBase) (leBytes n value.toNat) } else s)
  else if !accessOk o n then s
  else match regAt (o / 8 * 8) with
    | some r => opRegWrite by_ r (s.shownInst by_ r) o n now value s
    | none => s

/-- A write of an MSI-X table entry; an entry whose mask falls while it is pending signals. -/
def opMsixWrite (p o n : Nat) (value : Word) (s : State) : State :=
  let v := o / 16
  let old := s.msixAt p v
  let bytes := msixBytes old
  let k := o % 16
  let x := msixOf (bytes.take k ++ leBytes n value.toNat ++ bytes.drop (k + n)) old.pending
  if old.pending && !x.masked then { s with msix := tput {} s.msix (p * 32 + v) { x with pending := false } }.send (.msix p v x.addr x.data)
  else { s with msix := tput {} s.msix (p * 32 + v) x }

/-- A write of a function page by the host: doorbells, queue block, MSI-X table (R362, R369, R390). -/
def opBar2Write (p : BitVec 6) (o n : Nat) (value : Word) (s : State) : State :=
  let m := writeMask o n
  let v := writeValue o value &&& m
  if !accessOk o n || !s.mayPage p.toNat o then s
  else if o < 0x400 then
    (if n ≠ 8 then s
    else if o % 16 = 0 then opSqDoorbell p (BitVec.ofNat 6 (o / 16)) value s else opCqDoorbell p (BitVec.ofNat 6 (o / 16)) value s)
  else if o = 0x400 ∧ p = 0 then (if n = 8 then opEvqDoorbell value s else s)
  else if 0x20000 ≤ o ∧ o < 0x20200 then opMsixWrite p.toNat (o - 0x20000) n value s
  else match queueRegAt (o / 8 * 8) with
    | some (q, r) =>
      if p ≠ 0 ∧ s.owner q ≠ p.toNat then s
      else match actUnit r q m v with
        | some f => f s
        | none => s.plainWrite r q m v
    | none => s

/-- REGISTER_WRITE (R7, R508 to R513). -/
def opWrite (by_ : Requester) (a : RegAddr) (n : Nat) (value : Word) (now : Nat) (s : State) : State :=
  let s := s.at_ now
  match a with
  | .bar0 o => opBar0Write by_ o.toNat n now value s
  | .bar2 p o => if by_ == .host then opBar2Write p o.toNat n value s else s
def execRegisterWrite (by_ : Requester) (addr : RegAddr) (size : Nat) (value : Word) (now : Nat) (s : State) :
    Host.Outcome State Fault Refusal := run (opWrite by_ addr size value now) s

/-! ## The prefix table's flush and quarantine (R232, R236) -/

/-- PREFIX_FLUSH: the next window removes every entry with refs 0. -/
def execPrefixFlush (s : State) : Host.Outcome State Fault Refusal :=
  run (fun s => if s.mayWrite .host R.pfxCtl.off then s.putF F.pfxCtl_flush 0 1 else s) s

/-- QUARANTINE_END: an identifier is free to be assigned once two further edges have passed. -/
def opQuarantineEnd (id : IdSpace) (s : State) : State :=
  match id with
  | .stream i => if s.inQuarantine (s.stream i.toNat).released then s else s.modStream i.toNat (fun t => { t with released := none })
  | .sheaf i =>
    let x := s.sheaf i.toNat
    if s.inQuarantine x.released then s else s.setSheaf i.toNat { x with released := none }
  | .job j =>
    let p := s.prog j.toNat
    if s.inQuarantine p.released then s
    else s.setProg j.toNat { p with released := none, state := if p.state == .quarantine then .free else p.state }
  | .page j c e n =>
    let k := poolKey j.toNat c.toNat e.toNat n.toNat
    let x := s.poolSlot k
    if s.inQuarantine x.released then s else s.setPoolSlot k { x with released := none }
def execQuarantineEnd (id : IdSpace) (s : State) : Host.Outcome State Fault Refusal := run (opQuarantineEnd id) s

end Sys2Proof.Machine
end

