-- ==== Sys2Proof/Machine/I3c.lean ====
section
/-! DEFINITION. The I3C port (R513, R537 to R539): private writes and reads, addresses, GETSTATUS and in-band interrupts. -/

namespace Sys2Proof.Machine

/-- The port answers from the end of Steading boot (R537). -/
def State.i3cUp (s : State) : Bool := s.start.bootDone

/-- An ignored write sets the cause that GETSTATUS reports: 1 not open, 2 malformed (R538). -/
def State.i3cCause (s : State) (n : Nat) : State := { s with i3c := { s.i3c with cause := n } }

/-- The offset at the front of a private write: 4 bytes, with bits [2:0] zero. -/
def i3cOffset (bytes : List Byte) : Option Nat :=
  if bytes.length < 4 ∨ fieldAt bytes 0 4 % 8 ≠ 0 then none else some (fieldAt bytes 0 4)

/-- I3C_WRITE_REGISTER, opcode 0x01: one register as an 8-byte BAR0 write. -/
def opI3cWrite (bytes : List Byte) (now : Nat) (s : State) : State :=
  let s := s.at_ now
  if !s.i3cUp then s
  else match i3cOffset bytes with
    | none => s.i3cCause 2
    | some o =>
      if bytes.length ≠ 12 then s.i3cCause 2
      else if !s.mayWrite .i3c o then s.i3cCause 1
      else opBar0Write .i3c o 8 now (BitVec.ofNat 64 (fieldAt bytes 4 8)) s
def execI3cWriteRegister (bytes : List Byte) (now : Nat) (s : State) : Host.Outcome State Fault Refusal := run (opI3cWrite bytes now) s

/-- I3C_SET_READ_POINTER, opcode 0x02. -/
def opI3cPointer (bytes : List Byte) (s : State) : State :=
  if !s.i3cUp then s
  else match i3cOffset bytes with
    | none => s.i3cCause 2
    | some o => if bytes.length ≠ 4 then s.i3cCause 2 else { s with i3c := { s.i3c with pointer := o } }
def execI3cSetReadPointer (bytes : List Byte) (s : State) : Host.Outcome State Fault Refusal := run (opI3cPointer bytes) s

/-- I3C_WRITE_WORDS, opcode 0x03: 1 to 32 consecutive words of the recovery buffer window. -/
def opI3cWords (bytes : List Byte) (s : State) : State :=
  let n := (bytes.length - 4) / 8
  if !s.i3cUp then s
  else match i3cOffset bytes with
    | none => s.i3cCause 2
    | some o =>
      if bytes.length ≠ 4 + 8 * n ∨ n = 0 ∨ 32 < n then s.i3cCause 2
      else if !(inRcv o && inRcv (o + 8 * n - 8) && s.mayWrite .i3c o) then s.i3cCause 1
      else { s with rcvBuf := mblock s.rcvBuf (o - rcvBase) (bytes.drop 4) }
def execI3cWriteWords (bytes : List Byte) (s : State) : Host.Outcome State Fault Refusal := run (opI3cWords bytes) s

/-- I3C_PRIVATE_READ: words of 8 bytes from the read pointer, which advances by 8 after each. -/
def opI3cReadOne (s : State) : State :=
  let o := s.i3c.pointer
  let s := opBar0Read .i3c o 8 s
  { s with i3c := { s.i3c with pointer := (o + 8) % 2 ^ 32 } }
def opI3cRead (n now : Nat) (s : State) : State :=
  let s := s.at_ now
  if s.i3cUp then iterate opI3cReadOne n s else s
def execI3cPrivateRead (words now : Nat) (s : State) : Host.Outcome State Fault Refusal := run (opI3cRead words now) s

/-- I3C_SETDASA: answered at static address 0x4C. -/
def opSetdasa (static dynamic : Nat) (s : State) : State :=
  if s.i3cUp && static == 0x4C then { s with i3c := { s.i3c with dynAddr := some dynamic } } else s
def execI3cSetdasa (static dynamic : BitVec 7) (s : State) : Host.Outcome State Fault Refusal :=
  run (opSetdasa static.toNat dynamic.toNat) s

/-- I3C_ENTDAA: the port offers its provisioned ID, whose bits [31:0] are the low half of the factory serial, and takes the address;
bits [47:32] are free (log entry 5). A port that has an address takes no part. -/
def opEntdaa (dynamic : Nat) (s : State) : State :=
  if !s.i3cUp || s.i3c.dynAddr.isSome then s
  else
    let id := s.serial % 2 ^ 32 + s.freeWord.toNat % 65536 * 2 ^ 32
    ({ s with i3c := { s.i3c with dynAddr := some dynamic } }.send (.status id)).nextFree
def execI3cEntdaa (dynamic : BitVec 7) (s : State) : Host.Outcome State Fault Refusal := run (opEntdaa dynamic.toNat) s

/-- I3C_GETSTATUS: the vendor byte, bits [15:8], reports the cause of an ignored write and then clears; bits [7:0] are the
specification's (log entry 5). -/
def opGetstatus (s : State) : State :=
  if !s.i3cUp then s
  else ((s.send (.status (s.i3c.cause * 256 + s.freeWord.toNat % 256))).i3cCause 0).nextFree
def execI3cGetstatus (s : State) : Host.Outcome State Fault Refusal := run opGetstatus s

/-- I3C_IBI_TIMEOUT: an in-band interrupt that waits longer than 100 ms is dropped. -/
def opIbiTimeout (waitedNs : Nat) (s : State) : State :=
  if waitedNs < 100000000 then s else { s with i3c := { s.i3c with ibis := s.i3c.ibis.drop 1 } }
def execI3cIbiTimeout (waitedNs : Nat) (s : State) : Host.Outcome State Fault Refusal := run (opIbiTimeout waitedNs) s

end Sys2Proof.Machine
end

