-- ==== Sys2Proof/Machine/Stores.lean ====
section
/-! DEFINITION. The protected stores other than lofts (Table 10.1, R295, R298, R303, R308, R309, R312), and MEMORY_ACCESS. -/

namespace Sys2Proof.Machine

/-! ## Uncorrectable words of hub stores and routers -/

/-- A hub store's word is uncorrectable for the second time: one of its 16 spare words replaces it, and a store with no
spare left is faulty (R308). -/
def State.spareHubWord (s : State) (h w : Nat) : State :=
  let key := h * 2 ^ 32 + w
  let n := tget 0 s.hubErr key + 1
  if n < 2 then { s with hubErr := tput 0 s.hubErr key n }
  else
    let used := tget 0 s.hubSpares h
    let s := { s with hubErr := tput 0 s.hubErr key 0 }
    if 16 ≤ used then s
    else
      let s := ({ s with hubSpares := tput 0 s.hubSpares h (used + 1) }).putF F.stdBkt_spares h (used + 1)
      if used + 1 = 16 then (s.degrade [0]).raise 0x23 8 h 16 else s

/-- The programs whose tick and slot tables a word of hub 6 belongs to: that of the stage that reads it, else any active one (log entry
13). -/
def State.tableJobs (s : State) (r : Reader) : List Nat :=
  match readerCell r with
  | some c => (s.jobOfCell c).toList
  | none => s.activeJobs

/-- The stream whose completion entry a word of the host queue buffers holds: the words behind those of the waiting commands (log entry
13). -/
def State.bufferStream (s : State) (w : Nat) : Option Nat :=
  let n := s.ctl.waiting.length
  if w / 8 < n then none else (s.openStreams.drop (w / 8 - n)).head?

/-- What an uncorrectable word of a hub store causes, by store (Table 10.1; log entry 13 for the buffers of hub 2). -/
def State.hubUe (s : State) (r : Reader) (h w : Nat) : State :=
  let js := if h = 6 then s.tableJobs r else if h = 5 ∨ 8 ≤ h then ((readerCell r).bind s.jobOfCell).toList else []
  let lost := if h = 2 then s.bufferStream w else none
  let job := match js, lost with
    | [j], _ => j
    | [], some i => (s.stream i).job
    | _, _ => 0xFF
  let s := s.ueRecord { type := 3, reader := readerNo r, unit := h, word := w, consumer := readerUnit r, job := job
                        outcome := (if h = 0 then 0x40 else 0) + 2 * bit lost.isSome + bit (!js.isEmpty) }
  let js := if lost.isSome then [job] else js
  let s := js.foldl (fun s j => s.errsum (s.sheafsOfJob j) 0) s
  let s := s.spareHubWord h w
  if h = 0 then s.restartSteading s.now
  else if h = 2 then
    let k := w / 8
    let ws := s.ctl.waiting
    match lost, ws.drop k with
    | some i, _ => s.failStream i 0x1A true
    | none, x :: rest =>
      match x.cmd with
      | some c => { s with ctl := { s.ctl with waiting := ws.take k ++ [.done c 0 0 0 0 7 0] ++ rest } }
      | none => s
    | none, [] => s
  else if h = 3 then (match r with
    | .chute ch => if s.chuteRuns ch.toNat then s.chuteStop ch.toNat 4 else s
    | _ => s)
  else if h = 4 then s.linkFailure [0, 1]
  else if h = 6 then js.foldl State.invalidate s
  else if h = 7 then { s with snap := { s.snap with staleWords := if s.snap.staleWords.contains w then s.snap.staleWords else s.snap.staleWords ++ [w] } }
  else if h = 5 ∨ 8 ≤ h then s.failReader r 3
  else s

/-- A row is lost in a router buffer: its consumer discards its work as for a failed producer (Table 4.10). -/
def State.routerUe (s : State) (r : Reader) (c w : Nat) : State :=
  let k := (readerCell r).getD c
  let j := s.jobOfCell k
  let s := s.ueRecord { type := 2, reader := readerNo r, outcome := bit j.isSome, unit := c, word := w, consumer := readerUnit r,
                        job := j.getD 0xFF }
  match j with
  | none => s
  | some j => (((s.bump F.celMesh_lost k).discardWork k).modCell k (fun x => { x with lost := x.lost ++ [c] })).invalidate j

/-! ## Words whose check bits show an error -/

/-- The Rake logs a correction of its own (R312): in a controller's store as in its lofts, in the SRAM or the router of a cell, in a hub
store. -/
def State.rakeStore (s : State) (b : BucketId) (w bitNo : Nat) : State :=
  let entry := fun (unit : Nat) => (s.bump F.rakStat_corrected 0).rakeLog (unit + bitNo * 2 ^ 40)
    (s.getF F.tikCount_count % 2 ^ 32 + w * 2 ^ 32)
  match b with
  | .chan _ => s.rakeFixed w bitNo
  | .cell c => entry (c + 1 * 2 ^ 10)
  | .hub h => entry (h + 2 * 2 ^ 10)

/-- An access to a store other than a loft: what its words' check bits say. An error that they do not show changes bits that the model
does not hold; one that they take for a single error counts as corrected (R295; log entry 13). -/
def State.accessStore (s : State) (b : BucketId) (r : Reader) (ue : Nat → State → State) (found : List WordErr) : State :=
  found.foldl (fun s e =>
    let fixed := fun (k : BitVec 7) => if r = .rake then (s.corrected b).rakeStore b e.word k.toNat else s.corrected b
    match e.fault with
    | .single k => fixed k
    | .unseen _ (some k) => fixed k
    | .unseen _ none => s
    | .double => ue e.word s) s

/-! ## MEMORY_ACCESS -/

def opMemoryAccess (r : Reader) (t : MemTarget) (n : Nat) (wr : Option (List Byte)) (found : List WordErr) (now : Nat)
    (s : State) : State :=
  let s := s.at_ now
  match t with
  | .device a => s.accessDev { reader := r, addr := a.toNat, len := (wr.map List.length).getD n, write := wr, found := found, since := now }
  | .controller w => s.accessStore (.chan (chanAt (8 * w.toNat))) r (fun w s => (s.metWord r w).failReader r 2) found
  | .cellSram c _ => s.accessStore (.cell c.toNat) r (fun w s => s.sramUe (readerNo r, readerUnit r) c.toNat w) found
  | .router c _ => s.accessStore (.cell c.toNat) r (fun w s => s.routerUe r c.toNat w) found
  | .hubStore h _ => s.accessStore (.hub h.toNat) r (fun w s => s.hubUe r h.toNat w) found

/-- A store access names a store that exists; a word error names a word of what is accessed. -/
def memOk (t : MemTarget) : Bool :=
  match t with
  | .hubStore h _ => decide (h.toNat < 12)
  | _ => true

/-- MEMORY_ACCESS. -/
def execMemoryAccess (reader : Reader) (target : MemTarget) (len : Nat) (write : Option (List Byte)) (found : List WordErr)
    (now : Nat) (s : State) : Host.Outcome State Fault Refusal :=
  runIf (memOk target) (opMemoryAccess reader target len write found now) s

end Sys2Proof.Machine
end

