-- ==== Sys2Proof/Machine/Dispatch.lean ====
section
/-! DEFINITION. The meaning of every command: one arm for each constructor of Instr. -/

namespace Sys2Proof.Machine

def exec (i : Instr) (s : State) : Host.Outcome State Fault Refusal :=
  match i with
  | .loadProgram q e => Sys2Proof.Machine.execLoadProgram q e s
  | .unloadProgram q e => Sys2Proof.Machine.execUnloadProgram q e s
  | .openStream q e => Sys2Proof.Machine.execOpenStream q e s
  | .feedTokens q e => Sys2Proof.Machine.execFeedTokens q e s
  | .setStreamParameters q e => Sys2Proof.Machine.execSetStreamParameters q e s
  | .closeStream q e => Sys2Proof.Machine.execCloseStream q e s
  | .invalidOpcode q e => Sys2Proof.Machine.execInvalidOpcode q e s
  | .submissionTailDoorbell page q value => Sys2Proof.Machine.execSubmissionTailDoorbell page q value s
  | .completionHeadDoorbell page q value => Sys2Proof.Machine.execCompletionHeadDoorbell page q value s
  | .eventQueueHeadDoorbell value => Sys2Proof.Machine.execEventQueueHeadDoorbell value s
  | .queuePairEnable page q value => Sys2Proof.Machine.execQueuePairEnable page q value s
  | .queueOwnerWrite by_ value => Sys2Proof.Machine.execQueueOwnerWrite by_ value s
  | .eventQueueEnable value => Sys2Proof.Machine.execEventQueueEnable value s
  | .functionLevelReset fn => Sys2Proof.Machine.execFunctionLevelReset fn s
  | .bar4Read offset len found => Sys2Proof.Machine.execBar4Read offset len found s
  | .bar4Write offset data found => Sys2Proof.Machine.execBar4Write offset data found s
  | .hostMemoryError req cause => Sys2Proof.Machine.execHostMemoryError req cause s
  | .chuteGo by_ => Sys2Proof.Machine.execChuteGo by_ s
  | .chuteAbort by_ => Sys2Proof.Machine.execChuteAbort by_ s
  | .chuteDescriptorDone ch => Sys2Proof.Machine.execChuteDescriptorDone ch s
  | .chuteErrorClear => Sys2Proof.Machine.execChuteErrorClear s
  | .tickEdge now => Sys2Proof.Machine.execTickEdge now s
  | .stageStart cell now => Sys2Proof.Machine.execStageStart cell now s
  | .stageFinish cell now => Sys2Proof.Machine.execStageFinish cell now s
  | .runDeadline now => Sys2Proof.Machine.execRunDeadline now s
  | .lateNotice port part tick => Sys2Proof.Machine.execLateNotice port part tick s
  | .edgeAnnouncement port w => Sys2Proof.Machine.execEdgeAnnouncement port w s
  | .maintenanceWindow now gov => Sys2Proof.Machine.execMaintenanceWindow now gov s
  | .stretchLimit now => Sys2Proof.Machine.execStretchLimit now s
  | .cellSlow cell => Sys2Proof.Machine.execCellSlow cell s
  | .commitRequest now => Sys2Proof.Machine.execCommitRequest now s
  | .steadingCommitRequest now => Sys2Proof.Machine.execSteadingCommitRequest now s
  | .commitChecksDone now => Sys2Proof.Machine.execCommitChecksDone now s
  | .stagedWrite by_ offset size value => Sys2Proof.Machine.execStagedWrite by_ offset size value s
  | .stagingRevert => Sys2Proof.Machine.execStagingRevert s
  | .governorSilent => Sys2Proof.Machine.execGovernorSilent s
  | .limitWordWrite w => Sys2Proof.Machine.execLimitWordWrite w s
  | .tickMarker port tick delay now => Sys2Proof.Machine.execTickMarker port tick delay now s
  | .acknowledgement port seq now => Sys2Proof.Machine.execAcknowledgement port seq now s
  | .retryRequest port seq => Sys2Proof.Machine.execRetryRequest port seq s
  | .credit port free => Sys2Proof.Machine.execCredit port free s
  | .take port part plane => Sys2Proof.Machine.execTake port part plane s
  | .release port part word => Sys2Proof.Machine.execRelease port part word s
  | .candidate port prio coords settled winner => Sys2Proof.Machine.execCandidate port prio coords settled winner s
  | .ringCommit port w => Sys2Proof.Machine.execRingCommit port w s
  | .ringCommitDeadline => Sys2Proof.Machine.execRingCommitDeadline s
  | .dataEnvelope port e badWords corrected => Sys2Proof.Machine.execDataEnvelope port e badWords corrected s
  | .portDown port => Sys2Proof.Machine.execPortDown port s
  | .markerLoss settled keeper => Sys2Proof.Machine.execMarkerLoss settled keeper s
  | .ringTake plane east west => Sys2Proof.Machine.execRingTake plane east west s
  | .bypassSwitched plane => Sys2Proof.Machine.execBypassSwitched plane s
  | .linkReset by_ set => Sys2Proof.Machine.execLinkReset by_ set s
  | .suddenLoss ring jobs now => Sys2Proof.Machine.execSuddenLoss ring jobs now s
  | .ringBroken ring => Sys2Proof.Machine.execRingBroken ring s
  | .serLimit port errors => Sys2Proof.Machine.execSerLimit port errors s
  | .linkRetrainRequest by_ => Sys2Proof.Machine.execLinkRetrainRequest by_ s
  | .portRetrainDone port out durNs => Sys2Proof.Machine.execPortRetrainDone port out durNs s
  | .ringSlowRaise ring lateness => Sys2Proof.Machine.execRingSlowRaise ring lateness s
  | .d2dFlit link seq crc parity payload => Sys2Proof.Machine.execD2dFlit link seq crc parity payload s
  | .d2dResendLimit link seq consumer => Sys2Proof.Machine.execD2dResendLimit link seq consumer s
  | .d2dLaneFailed link lane => Sys2Proof.Machine.execD2dLaneFailed link lane s
  | .d2dReset by_ set => Sys2Proof.Machine.execD2dReset by_ set s
  | .d2dTest by_ test loop => Sys2Proof.Machine.execD2dTest by_ test loop s
  | .d2dCapabilityWord link near far => Sys2Proof.Machine.execD2dCapabilityWord link near far s
  | .meshRow consumer row => Sys2Proof.Machine.execMeshRow consumer row s
  | .producerLost consumer producer => Sys2Proof.Machine.execProducerLost consumer producer s
  | .memoryAccess reader target len write found now => Sys2Proof.Machine.execMemoryAccess reader target len write found now s
  | .bankRefresh channel bank busy => Sys2Proof.Machine.execBankRefresh channel bank busy s
  | .bucketLeak => Sys2Proof.Machine.execBucketLeak s
  | .housekeepingRound round now => Sys2Proof.Machine.execHousekeepingRound round now s
  | .sensorReturn sensor => Sys2Proof.Machine.execSensorReturn sensor s
  | .scheduledRetrain channel now => Sys2Proof.Machine.execScheduledRetrain channel now s
  | .channelRetrainRequest by_ => Sys2Proof.Machine.execChannelRetrainRequest by_ s
  | .channelRetrainDone channel deadWires now => Sys2Proof.Machine.execChannelRetrainDone channel deadWires now s
  | .channelHoldTimeout channel now => Sys2Proof.Machine.execChannelHoldTimeout channel now s
  | .marginRequest by_ mode wire => Sys2Proof.Machine.execMarginRequest by_ mode wire s
  | .wireFailed channel wire => Sys2Proof.Machine.execWireFailed channel wire s
  | .channelReset by_ set => Sys2Proof.Machine.execChannelReset by_ set s
  | .loadq channel w data stage => Sys2Proof.Machine.execLoadq channel w data stage s
  | .score channel w found stage => Sys2Proof.Machine.execScore channel w found stage s
  | .topk channel w found => Sys2Proof.Machine.execTopk channel w found s
  | .requant channel w found => Sys2Proof.Machine.execRequant channel w found s
  | .scrub channel w found byRake => Sys2Proof.Machine.execScrub channel w found byRake s
  | .frag channel w data => Sys2Proof.Machine.execFrag channel w data s
  | .flailOpComplete channel bank now => Sys2Proof.Machine.execFlailOpComplete channel bank now s
  | .prefixFlush => Sys2Proof.Machine.execPrefixFlush s
  | .quarantineEnd id => Sys2Proof.Machine.execQuarantineEnd id s
  | .powerOnDetection rail mv now => Sys2Proof.Machine.execPowerOnDetection rail mv now s
  | .porstN lowNs now => Sys2Proof.Machine.execPorstN lowNs now s
  | .porstNRelease now => Sys2Proof.Machine.execPorstNRelease now s
  | .perstN lowNs => Sys2Proof.Machine.execPerstN lowNs s
  | .perstNRelease now => Sys2Proof.Machine.execPerstNRelease now s
  | .optionLoading readingMv now => Sys2Proof.Machine.execOptionLoading readingMv now s
  | .resetStorm now => Sys2Proof.Machine.execResetStorm now s
  | .stormExit lowNs now => Sys2Proof.Machine.execStormExit lowNs now s
  | .startDelayEnd now => Sys2Proof.Machine.execStartDelayEnd now s
  | .crystalMeasurement count now => Sys2Proof.Machine.execCrystalMeasurement count now s
  | .crystalFail => Sys2Proof.Machine.execCrystalFail s
  | .watchdogRestart now => Sys2Proof.Machine.execWatchdogRestart now s
  | .watchdogExpiry now => Sys2Proof.Machine.execWatchdogExpiry now s
  | .thermalTrip sentinel reading now => Sys2Proof.Machine.execThermalTrip sentinel reading now s
  | .tripHoldEnd now => Sys2Proof.Machine.execTripHoldEnd now s
  | .cellResetGo by_ now => Sys2Proof.Machine.execCellResetGo by_ now s
  | .cellResetHold by_ set now => Sys2Proof.Machine.execCellResetHold by_ set now s
  | .stookResetGo by_ now => Sys2Proof.Machine.execStookResetGo by_ now s
  | .stookResetHold by_ set now => Sys2Proof.Machine.execStookResetHold by_ set now s
  | .sheafResetGo by_ now => Sys2Proof.Machine.execSheafResetGo by_ now s
  | .sheafResetHold by_ set now => Sys2Proof.Machine.execSheafResetHold by_ set now s
  | .steadingRestart by_ now => Sys2Proof.Machine.execSteadingRestart by_ now s
  | .clockRampStep domain => Sys2Proof.Machine.execClockRampStep domain s
  | .clockMonitorSelect by_ value => Sys2Proof.Machine.execClockMonitorSelect by_ value s
  | .frequencyMeasurement by_ value => Sys2Proof.Machine.execFrequencyMeasurement by_ value s
  | .frequencyMeasurementDone count => Sys2Proof.Machine.execFrequencyMeasurementDone count s
  | .railFault mv now => Sys2Proof.Machine.execRailFault mv now s
  | .steadingBoot flashAnswers now => Sys2Proof.Machine.execSteadingBoot flashAnswers now s
  | .broadcastFrame target frame => Sys2Proof.Machine.execBroadcastFrame target frame s
  | .segmentRequest target missing => Sys2Proof.Machine.execSegmentRequest target missing s
  | .memoryTest tests now => Sys2Proof.Machine.execMemoryTest tests now s
  | .heatingTimeout stack reached => Sys2Proof.Machine.execHeatingTimeout stack reached s
  | .cellSelfTest fails now => Sys2Proof.Machine.execCellSelfTest fails now s
  | .recoveryVerify by_ => Sys2Proof.Machine.execRecoveryVerify by_ s
  | .recoveryProgram by_ => Sys2Proof.Machine.execRecoveryProgram by_ s
  | .recoveryColdReset by_ => Sys2Proof.Machine.execRecoveryColdReset by_ s
  | .flashLogWrite now => Sys2Proof.Machine.execFlashLogWrite now s
  | .otpProgramGeneration by_ => Sys2Proof.Machine.execOtpProgramGeneration by_ s
  | .attestationRequest by_ => Sys2Proof.Machine.execAttestationRequest by_ s
  | .attestationReady => Sys2Proof.Machine.execAttestationReady s
  | .sentinelReading readings forecasts reach110Ns now => Sys2Proof.Machine.execSentinelReading readings forecasts reach110Ns now s
  | .coolantLoss now => Sys2Proof.Machine.execCoolantLoss now s
  | .stopCooldown => Sys2Proof.Machine.execStopCooldown s
  | .inletWrite by_ value now => Sys2Proof.Machine.execInletWrite by_ value now s
  | .inletStale now => Sys2Proof.Machine.execInletStale now s
  | .fastThrottle power => Sys2Proof.Machine.execFastThrottle power s
  | .fastThrottleStep excess belowUs => Sys2Proof.Machine.execFastThrottleStep excess belowUs s
  | .regionCycleSkip cell currentMa => Sys2Proof.Machine.execRegionCycleSkip cell currentMa s
  | .capRaiseStep => Sys2Proof.Machine.execCapRaiseStep s
  | .pwrfail lowNs now => Sys2Proof.Machine.execPwrfail lowNs now s
  | .keepStageStop now => Sys2Proof.Machine.execKeepStageStop now s
  | .keepEntered now => Sys2Proof.Machine.execKeepEntered now s
  | .keepEntryAbandoned now => Sys2Proof.Machine.execKeepEntryAbandoned now s
  | .keepCheck readings railsLow recordBad now => Sys2Proof.Machine.execKeepCheck readings railsLow recordBad now s
  | .keepAbandonWrite by_ => Sys2Proof.Machine.execKeepAbandonWrite by_ s
  | .keepEnd now => Sys2Proof.Machine.execKeepEnd now s
  | .i3cWriteRegister bytes now => Sys2Proof.Machine.execI3cWriteRegister bytes now s
  | .i3cSetReadPointer bytes => Sys2Proof.Machine.execI3cSetReadPointer bytes s
  | .i3cWriteWords bytes => Sys2Proof.Machine.execI3cWriteWords bytes s
  | .i3cPrivateRead words now => Sys2Proof.Machine.execI3cPrivateRead words now s
  | .i3cSetdasa static dynamic => Sys2Proof.Machine.execI3cSetdasa static dynamic s
  | .i3cEntdaa dynamic => Sys2Proof.Machine.execI3cEntdaa dynamic s
  | .i3cGetstatus => Sys2Proof.Machine.execI3cGetstatus s
  | .i3cIbiTimeout waitedNs => Sys2Proof.Machine.execI3cIbiTimeout waitedNs s
  | .rcRead by_ addr size now => Sys2Proof.Machine.execRcRead by_ addr size now s
  | .registerWrite by_ addr size value now => Sys2Proof.Machine.execRegisterWrite by_ addr size value now s
  | .finishReport port part finishNs overrun sheafs => Sys2Proof.Machine.execFinishReport port part finishNs overrun sheafs s
  | .sheafDigest port part sheaf digest => Sys2Proof.Machine.execSheafDigest port part sheaf digest s
  | .pwrfailNRelease railsOkNs => Sys2Proof.Machine.execPwrfailNRelease railsOkNs s
  | .ringReleaseTimeout now => Sys2Proof.Machine.execRingReleaseTimeout now s
  | .flailPortGo by_ => Sys2Proof.Machine.execFlailPortGo by_ s
  | .otpProgrammingDone readBackOk => Sys2Proof.Machine.execOtpProgrammingDone readBackOk s
  | .imageProgrammingDone => Sys2Proof.Machine.execImageProgrammingDone s
  | .completionTimeout ch fetch fn addr => Sys2Proof.Machine.execCompletionTimeout ch fetch fn addr s

end Sys2Proof.Machine
end

