-- ==== Sys2Proof/Machine/Control.lean ====
section
/-! DEFINITION. Control envelopes (R320, R321, Table 11.3): the bits of the control words that this part sends, and what the words of an
envelope that arrives say. -/

namespace Sys2Proof.Machine

/-! ## The words -/

/-- A control word by its kind, its originating part and its argument. -/
def ctlBits (kind part arg : Nat) : Word := BitVec.ofNat 64 (kind + part * 2 ^ 8 + arg * 2 ^ 18)
def ctlKind (w : Word) : Nat := fieldGet w 0 8
def ctlPart (w : Word) : Nat := fieldGet w 8 10
def ctlArg (w : Word) (lo n : Nat) : Nat := fieldGet w (18 + lo) n

/-- The two bits of a phase. -/
def phaseNo : RingPhase → Nat
  | .request => 0
  | .announcement => 1
  | .submission => 2
  | .result => 3
def phaseOf (n : Nat) : RingPhase :=
  if n = 0 then .request else if n = 1 then .announcement else if n = 2 then .submission else .result

/-- A request or a submission carries a value word. -/
def phaseValued (p : RingPhase) : Bool := p == .request || p == .submission

/-- The words of Table 11.3 that stand for a control word. None stands for a finish report, for a digest, or for a raise beside an
announcement: the spec gives these no word (log entry 52). -/
def CtlWord.bits (part : Nat) (w : CtlWord) : List Word :=
  match w with
  | .marker t d => [ctlBits 1 part (t.toNat + d.toNat * 2 ^ 32)]
  | .late t => [ctlBits 2 part t.toNat]
  | .edge e => if e.raise.isSome then []
      else [ctlBits 3 part (e.newEdge.toNat + bit e.overrun * 2 ^ 16 + bit e.pause * 2 ^ 17 + bit e.pauseEnds * 2 ^ 18)]
  | .ack q => [ctlBits 4 part q.toNat]
  | .retry q => [ctlBits 5 part q.toNat]
  | .credit n => [ctlBits 6 part n.toNat]
  | .take k => [ctlBits 7 part k.toNat]
  | .release t => [ctlBits 8 part t.toNat]
  | .candidate p c => [ctlBits 9 part (p.toNat + c.toNat * 2 ^ 4)]
  | .commit r => ctlBits 10 part (r.code.toNat + phaseNo r.phase * 2 ^ 16 + r.target.toNat * 2 ^ 18) ::
      (match r.value with
       | some (us, ns, pct, rest) =>
         [ctlBits 11 part (us.toNat + ns.toNat * 2 ^ 10 + pct.toNat * 2 ^ 26 + rest.toNat * 2 ^ 31)]
       | none => [])
  | .finish _ _ _ => []
  | .digest _ _ => []

/-- A control word of a part has a form in Table 11.3 that says all of it: an announcement without a raise or the sheafs of an overrun, a
ring commit word of the part itself whose value, if it has one, follows a request or a submission. -/
def CtlWord.worded (part : BitVec 10) (w : CtlWord) : Bool :=
  match w with
  | .edge e => e.raise.isNone && e.sheafs.isEmpty
  | .commit r => r.part == part && (phaseValued r.phase || r.value.isNone)
  | .finish _ _ _ => false
  | .digest _ _ => false
  | _ => true

/-- The value that directly follows a request or a submission (R321). -/
def valueAfter (p : RingPhase) (next : Option Word) : Option (BitVec 10 × BitVec 16 × BitVec 5 × BitVec 15) :=
  match next with
  | some v =>
    if phaseValued p && ctlKind v == 11 then
      some (BitVec.ofNat 10 (ctlArg v 0 10), BitVec.ofNat 16 (ctlArg v 10 16), BitVec.ofNat 5 (ctlArg v 26 5), BitVec.ofNat 15 (ctlArg v 31 15))
    else none
  | none => none

/-- What a word says, with the word that follows it: an empty word, a value word by itself and a reserved kind say nothing. -/
def readWord (w : Word) (next : Option Word) : Option CtlWord :=
  match ctlKind w with
  | 1 => some (.marker (BitVec.ofNat 32 (ctlArg w 0 32)) (BitVec.ofNat 14 (ctlArg w 32 14)))
  | 2 => some (.late (BitVec.ofNat 32 (ctlArg w 0 32)))
  | 3 => some (.edge { newEdge := BitVec.ofNat 16 (ctlArg w 0 16), overrun := w.getLsbD 34, pause := w.getLsbD 35, pauseEnds := w.getLsbD 36 })
  | 4 => some (.ack (BitVec.ofNat 16 (ctlArg w 0 16)))
  | 5 => some (.retry (BitVec.ofNat 16 (ctlArg w 0 16)))
  | 6 => some (.credit (BitVec.ofNat 10 (ctlArg w 0 10)))
  | 7 => some (.take (BitVec.ofNat 2 (ctlArg w 0 2)))
  | 8 => some (.release (BitVec.ofNat 32 (ctlArg w 0 32)))
  | 9 => some (.candidate (BitVec.ofNat 4 (ctlArg w 0 4)) (BitVec.ofNat 10 (ctlArg w 4 10)))
  | 10 =>
    let p := phaseOf (ctlArg w 16 2)
    some (.commit { part := BitVec.ofNat 10 (ctlPart w), phase := p, code := BitVec.ofNat 16 (ctlArg w 0 16),
                    target := BitVec.ofNat 28 (ctlArg w 18 28), value := valueAfter p next })
  | _ => none

/-- What the words of an envelope say, in order, each with its originating part. -/
def readWords : List Word → List (Nat × CtlWord)
  | [] => []
  | w :: rest =>
    match readWord w rest.head? with
    | some c => (ctlPart w, c) :: readWords rest
    | none => readWords rest

/-! ## The envelope -/

/-- The control envelope of at most 34 words; the rest of its words are empty. -/
def ctlEnvelope (ws : List Word) : List Byte :=
  let b := [0x02] ++ List.replicate 7 0 ++ (List.range 34).flatMap (fun i => leBytes 8 (ws.getD i 0).toNat) ++ List.replicate 4 0
  b ++ leBytes 4 (crc32 b).toNat

/-- The words of an envelope that arrives, if it is a control envelope and its CRC is right (R319). -/
def envelopeWords (b : List Byte) : Option (List Word) :=
  if fieldAt b 0 1 = 2 ∧ b.length = 288 ∧ fieldAt b 284 4 = (crc32 (b.take 284)).toNat then
    some ((List.range 34).map (fun i => BitVec.ofNat 64 (fieldAt b (8 + 8 * i) 8)))
  else none

/-- What a release and a candidate bring with them and no word says: the planes given up, how the election stands (log entry 52). -/
structure Beside where
  planes : List (BitVec 2) := []
  settled : Bool := false
  winner : Option (BitVec 64 × Nat × (BitVec 10 × BitVec 16 × BitVec 5)) := none
  deriving DecidableEq, Repr

/-- The command that a word of an envelope is on the port where it arrives. -/
def CtlWord.command (w : CtlWord) (port : BitVec 3) (part : BitVec 10) (now : Nat) (x : Beside) : Instr :=
  match w with
  | .marker t d => .tickMarker port t d now
  | .late t => .lateNotice port part t
  | .edge e => .edgeAnnouncement port e
  | .ack q => .acknowledgement port q now
  | .retry q => .retryRequest port q
  | .credit n => .credit port n
  | .take k => .take port part k
  | .commit r => .ringCommit port r
  | .finish ns o ids => .finishReport port part ns o (ids.map (BitVec.ofNat 12))
  | .digest i d => .sheafDigest port part (BitVec.ofNat 12 i) d
  | .release t => .release port part { tick := t, planes := x.planes }
  | .candidate p c => .candidate port p c x.settled x.winner

/-- The commands that a control envelope is, word by word, on the port where it arrives: none where its CRC is wrong (R320). -/
def ctlCommands (b : List Byte) (port : BitVec 3) (now : Nat) (x : Beside) : List Instr :=
  match envelopeWords b with
  | some ws => (readWords ws).map (fun e => e.2.command port (BitVec.ofNat 10 e.1) now x)
  | none => []

end Sys2Proof.Machine
end

