-- ==== Sys2Proof/Safety.lean ====
section
/-! DEFINITION. What counts as a sound state and as a safe run, and how a statement says what a command does: in which
next state it ends, and what it leaves as it was. -/

namespace Sys2Proof.Machine

/-! ## Sound states -/

/-- Every byte memory of the part, and the host memory it works on, is in its canonical form. -/
def State.memoriesOk (s : State) : Bool :=
  Memory.wf s.devMem && Memory.wf s.hostMem && Memory.wf s.flash && Memory.wf s.otp && Memory.wf s.rcvBuf

/-- The register words are listed by strictly rising key. -/
def State.registersOk (s : State) : Bool := keysRise s.regs && keysRise s.staged

/-- Every command that waits in the queue is one that the spec's units can send. -/
def State.queueOk (s : State) : Bool := s.pending.all Instr.wellFormed

/-! ## What a command does -/

/-- The command answers a next state, and P holds of it. -/
def completes (c : Instr) (s : State) (P : State → Prop) : Prop := ∃ t, exec c s = .next t ∧ P t

/-- The command has no effect: the next state differs in nothing but that nothing has gone out. -/
def idles (c : Instr) (s : State) : Prop := exec c s = .next { s with out := [] }

/-- The command has no effect but that its instant has come. -/
def idlesAt (c : Instr) (now : Nat) (s : State) : Prop := exec c s = .next { s with out := [], now := max s.now now }

/-- Every register word is as before, but for those with the keys ks. -/
def sameRegs (ks : List Nat) (s t : State) : Prop :=
  ∀ (d : Word) (k : Nat), k ∉ ks → tget d t.regs k = tget d s.regs k

/-- Nothing but the register words with the keys ks differs, and nothing has gone out. -/
def onlyRegs (ks : List Nat) (s t : State) : Prop := t = { s with regs := t.regs, out := [] } ∧ sameRegs ks s t

/-- The same, but for the instant of the step. -/
def onlyRegsAt (now : Nat) (ks : List Nat) (s t : State) : Prop :=
  t = { s with regs := t.regs, out := [], now := max s.now now } ∧ sameRegs ks s t

/-- Every byte of the part's memories and of the host's is as before. -/
def sameMemories (s t : State) : Prop :=
  t.devMem = s.devMem ∧ t.hostMem = s.hostMem ∧ t.flash = s.flash ∧ t.otp = s.otp ∧ t.rcvBuf = s.rcvBuf

/-! ## Commands taken from a submission queue (R368, R370) -/

/-- The identity of the command at a pair's submission head, once it is taken. -/
def nextId (q : Nat) (e : SubEntry) (s : State) : CmdId :=
  { q := q, cid := e.cid.toNat, sqHead := (s.getF F.hstQstat_sq_head q + 1) % s.sqSize q % 65536 }

/-- An entry has been taken from a pair: its head has moved on, one completion entry is reserved, the command is counted,
and no other register has changed. -/
def tookEntry (q : Nat) (s t : State) : Prop :=
  t.getF F.hstQstat_sq_head q = (s.getF F.hstQstat_sq_head q + 1) % s.sqSize q % 65536 ∧
  t.getF F.hstQstat_reserved_cq q = (s.getF F.hstQstat_reserved_cq q + 1) % 65536 ∧
  t.getF F.hstQcnt_commands q = min (s.getF F.hstQcnt_commands q + 1) (2 ^ 32 - 1) ∧
  tget 0 t.tick.acceptedCmds q = tget 0 s.tick.acceptedCmds q + 1 ∧
  (∀ k, k ≠ q → tget 0 t.tick.acceptedCmds k = tget 0 s.tick.acceptedCmds k) ∧
  sameRegs [regKey R.hstQstat q, regKey R.hstQcnt q] s t

/-- An entry has been taken, its command waits behind the others for the edge, and nothing else has changed. -/
def waitsAfter (q : Nat) (s t : State) (w : Waiting) : Prop :=
  tookEntry q s t ∧
  t = { s with
    regs := t.regs, out := [], tick := { s.tick with acceptedCmds := t.tick.acceptedCmds }
    ctl := { s.ctl with waiting := s.ctl.waiting ++ [w] } }

/-! ## Chute and the ring -/

/-- The register words of a Chute channel that the run of a descriptor writes. -/
def chuteKeys (ch : Nat) : List Nat :=
  [regKey R.chuStat ch, regKey R.chuCtl ch, regKey R.chuCrc ch, regKey R.chuDesc0 ch, regKey R.chuDesc1 ch, regKey R.chuDesc2 ch,
   regKey R.chuDesc3 ch, regKey R.chuDesc4 ch, regKey R.chuDesc5 ch, regKey R.chuDesc6 ch, regKey R.chuDesc7 ch]

/-- A control word of a part has left by every port that holds take, but for the one it came by, and is not carried on a
second time (R328). -/
def carries (port : Option Nat) (part : Nat) (w : CtlWord) (s t : State) : Prop :=
  (part, w) ∈ t.ring.seen ∧ ∀ p ∈ s.takePorts, some p ≠ port → Output.ctl p part w ∈ t.out

/-- This part has sent a control word of its own by every port that holds take. -/
def tells (w : CtlWord) (s t : State) : Prop := carries none (s.getF F.lnkRing_own) w s t

/-! ## What waits for memory (R260, R287) -/

/-- No stage and no load waits for memory. -/
def stagesGo (s : State) : Prop := s.ctl.loads = [] ∧ ∀ e ∈ s.cells, e.2.memHeld = none ∧ e.2.flailSince = []

/-- Nothing waits for memory: no access, no stage, no load, no flail command. -/
def nothingWaits (s : State) : Prop :=
  s.accWait = [] ∧ stagesGo s ∧ ∀ e ∈ s.chans, ∀ f ∈ e.2.flails, f.running = true

/-- No access waits at a channel, and no stage or load waits for memory. -/
def nothingWaitsAt (c : Nat) (s : State) : Prop :=
  (∀ a ∈ s.accWait, c ∉ s.chansTouched a.addr (max a.bytes 1)) ∧ stagesGo s

/-- A flit has come to a link: one sent again is counted, and nothing but the link's own state has changed. -/
def flitCame (l : Nat) (again : Bool) (now : Nat) (s t : State) : Prop :=
  t.getF F.d2dErr_retries l = (if again then min (s.getF F.d2dErr_retries l + 1) (2 ^ 32 - 1) else s.getF F.d2dErr_retries l) ∧
  (∀ k, k ≠ l → t.link k = s.link k) ∧ sameRegs [regKey R.d2dErr l] s t ∧
  t = { s with regs := t.regs, links := t.links, out := t.out, now := max s.now now }

/-! ## Events (R37, R38) -/

/-- Nothing but the register words with the keys ks differs, and what the event path holds: the host event queue, the
interrupts, the alerts, the records kept for Steading and the log. -/
def afterEvents (ks : List Nat) (s t : State) : Prop :=
  sameRegs (ks ++ [regKey R.hstEvqStat 0, regKey R.stdBootRet 0]) s t ∧
  t = { s with
    regs := t.regs, hostMem := t.hostMem, msix := t.msix, i3c := t.i3c, stdBuf := t.stdBuf, logPend := t.logPend, out := t.out }

end Sys2Proof.Machine
end

