-- ==== Sys2Proof/Certificates/Slice0/Obligations.lean ====
section
/-! DEFINITION. The statements for the provers. -/

open Sys2Proof Sys2Proof.Machine

/-! ## The queue of commands -/

/-- One step carries out the command at the front of the queue on the state with the queue's rest; on an empty queue the
block idles. The queue is the model's own (log entry 1). -/
def Obligations.AStepCarriesOutTheFrontCommand : Prop :=
  (∀ (c : Instr) (rest : List Instr) (s : State), s.pending = c :: rest → step s = exec c { s with pending := rest }) ∧
  (∀ s : State, s.pending = [] → step s = .next s)

/-- No command touches the queue of the commands that wait: the model's own queue (log entry 1). -/
def Obligations.NoCommandTouchesTheQueue : Prop :=
  ∀ (c : Instr) (s t : State), exec c s = .next t → t.pending = s.pending

/-- A command is refused exactly when its operands lie outside the ranges of the unit they name, under the name
illFormed, and no command ends in a fault (log entry 4). -/
def Obligations.OnlyIllFormedCommandsStop : Prop :=
  ∀ (c : Instr) (s : State),
    (c.wellFormed = true → ∃ t, exec c s = .next t) ∧ (c.wellFormed = false → exec c s = .refused .illFormed)

/-- A queue of well-formed commands is carried out to its end: from every state, whatever the commands and whatever they
do, as many steps as commands wait leave the queue empty, and no step stops. -/
def Obligations.AWellFormedQueueRunsOut : Prop :=
  ∀ s : State, s.queueOk = true → ∃ t, Host.Core.run Sys2Proof.core s.pending.length s = .next t ∧ t.pending = []

/-- Every step keeps the memories in their canonical form: device memory, host memory, flash, the one-time-programmable
store, the recovery buffer. -/
def Obligations.EveryStepKeepsMemoriesCanonical : Prop :=
  ∀ s t : State, s.memoriesOk = true → step s = .next t → t.memoriesOk = true

/-- The state after reset is sound, and no command waits. -/
def Obligations.ResetIsSound : Prop :=
  State.reset.memoriesOk = true ∧ State.reset.registersOk = true ∧ State.reset.pending = []

/-! ## Queue pairs and doorbells -/

/-- The doorbells (R369, R380): the submission tail; the completion head of a pair with no entry held back for it; the head of the
event queue. A value beyond the ring, or past the tail, is an error of the pair, or counted; a doorbell of a pair that the page may not
ring, or of an event queue that is not enabled, is counted. With the host interface down or in minimal mode doorbells do nothing. -/
def Obligations.DoorbellsMoveTheQueues : Prop :=
  (∀ (page q : BitVec 6) (value : Word) (s : State), s.doorbellsOpen = true →
    (s.rings page.toNat q.toNat = true → value.toNat % 65536 < s.sqSize q.toNat →
      completes (.submissionTailDoorbell page q value) s (fun t =>
        tget 0 t.sqTails q.toNat = value.toNat % 65536 ∧
        (∀ k, k ≠ q.toNat → tget 0 t.sqTails k = tget 0 s.sqTails k) ∧ t = { s with sqTails := t.sqTails, out := [] })) ∧
    (s.rings page.toNat q.toNat = true → s.sqSize q.toNat ≤ value.toNat % 65536 →
      completes (.submissionTailDoorbell page q value) s (fun t =>
        t.getF F.hstQstat_error q.toNat = 2 ∧ onlyRegs [regKey R.hstQstat q.toNat] s t)) ∧
    (s.rings page.toNat q.toNat = false →
      completes (.submissionTailDoorbell page q value) s (fun t =>
        t.getF F.hstErr_doorbell 0 = min (s.getF F.hstErr_doorbell 0 + 1) 65535 ∧ onlyRegs [regKey R.hstErr 0] s t))) ∧
  (∀ (page q : BitVec 6) (value : Word) (s : State), s.doorbellsOpen = false →
    idles (.submissionTailDoorbell page q value) s ∧ idles (.completionHeadDoorbell page q value) s ∧ idles (.eventQueueHeadDoorbell value) s) ∧
  (∀ (page q : BitVec 6) (value : Word) (s : State), s.doorbellsOpen = true → s.rings page.toNat q.toNat = false →
    completes (.completionHeadDoorbell page q value) s (fun t =>
      t.getF F.hstErr_doorbell 0 = min (s.getF F.hstErr_doorbell 0 + 1) 65535 ∧ onlyRegs [regKey R.hstErr 0] s t)) ∧
  ((∀ (page q : BitVec 6) (value : Word) (s : State), s.doorbellsOpen = true → s.rings page.toNat q.toNat = true →
    (value.toNat % 65536 < s.cqSize q.toNat →
      (value.toNat % 65536 + s.cqSize q.toNat - tget 0 s.cqHeads q.toNat) % s.cqSize q.toNat ≤ s.cqUsed q.toNat →
      (∀ e ∈ s.heldCq, e.1 ≠ q.toNat) →
      completes (.completionHeadDoorbell page q value) s (fun t =>
        tget 0 t.cqHeads q.toNat = value.toNat % 65536 ∧
        (∀ k, k ≠ q.toNat → tget 0 t.cqHeads k = tget 0 s.cqHeads k) ∧ t = { s with cqHeads := t.cqHeads, out := [] })) ∧
    (s.cqSize q.toNat ≤ value.toNat % 65536 ∨
        s.cqUsed q.toNat < (value.toNat % 65536 + s.cqSize q.toNat - tget 0 s.cqHeads q.toNat) % s.cqSize q.toNat →
      completes (.completionHeadDoorbell page q value) s (fun t =>
        t.getF F.hstQstat_error q.toNat = 2 ∧ onlyRegs [regKey R.hstQstat q.toNat] s t))) ∧
  (∀ (value : Word) (s : State), s.doorbellsOpen = true → s.onF F.hstEvqCfg_enable = false →
    completes (.eventQueueHeadDoorbell value) s (fun t =>
      t.getF F.hstErr_doorbell 0 = min (s.getF F.hstErr_doorbell 0 + 1) 65535 ∧ onlyRegs [regKey R.hstErr 0] s t)) ∧
  (∀ (value : Word) (s : State), s.doorbellsOpen = true → s.onF F.hstEvqCfg_enable = true →
    (value.toNat < 2 ^ s.getF F.hstEvqCfg_log →
      (value.toNat + 2 ^ s.getF F.hstEvqCfg_log - s.getF F.hstEvqStat_head) % 2 ^ s.getF F.hstEvqCfg_log ≤
        (s.getF F.hstEvqStat_tail + 2 ^ s.getF F.hstEvqCfg_log - s.getF F.hstEvqStat_head) % 2 ^ s.getF F.hstEvqCfg_log →
      completes (.eventQueueHeadDoorbell value) s (fun t =>
        t.getF F.hstEvqStat_head = value.toNat % 65536 ∧ onlyRegs [regKey R.hstEvqStat 0] s t)) ∧
    (2 ^ s.getF F.hstEvqCfg_log ≤ value.toNat ∨
        (s.getF F.hstEvqStat_tail + 2 ^ s.getF F.hstEvqCfg_log - s.getF F.hstEvqStat_head) % 2 ^ s.getF F.hstEvqCfg_log <
          (value.toNat + 2 ^ s.getF F.hstEvqCfg_log - s.getF F.hstEvqStat_head) % 2 ^ s.getF F.hstEvqCfg_log →
      completes (.eventQueueHeadDoorbell value) s (fun t =>
        t.getF F.hstErr_doorbell 0 = min (s.getF F.hstErr_doorbell 0 + 1) 65535 ∧
        t.getF F.hstEvqStat_head = s.getF F.hstEvqStat_head ∧ onlyRegs [regKey R.hstErr 0] s t))))


/-- Enabling and disabling a queue pair (R366), whose restored streams then wait for it no longer (R442), and enabling the event queue as a ring of 2 ^ log records, log from 4 to 16 (R380). -/
def Obligations.EnablingIsChecked : Prop :=
  (∀ (page : Option (BitVec 6)) (q : BitVec 6) (value : Word) (s : State), s.queueBlockOpen page q.toNat = true →
    (s.pairOn q.toNat = false → bitOf value.toNat 0 = true →
      1 ≤ bitsOf value.toNat 1 5 → bitsOf value.toNat 1 5 ≤ 16 → 1 ≤ bitsOf value.toNat 6 5 → bitsOf value.toNat 6 5 ≤ 16 →
      s.getF F.hstSqBase_addr q.toNat % 4096 = 0 → s.getF F.hstCqBase_addr q.toNat % 4096 = 0 →
      (∀ e ∈ s.heldCq, e.1 ≠ q.toNat) →
      completes (.queuePairEnable page q value) s (fun t =>
        t.pairOn q.toNat = true ∧ t.getF F.hstQstat_error q.toNat = 0 ∧
        t.sqSize q.toNat = 2 ^ bitsOf value.toNat 1 5 ∧ t.cqSize q.toNat = 2 ^ bitsOf value.toNat 6 5 ∧
        t.getF F.hstQcfg_vector q.toNat = bitsOf value.toNat 11 5 ∧ t.getF F.hstQstat_sq_head q.toNat = 0 ∧
        tget 0 t.sqTails q.toNat = 0 ∧ tget 0 t.cqHeads q.toNat = 0 ∧ t.getF F.hstQstat_cq_tail q.toNat = 0 ∧
        t.getF F.hstQstat_phase q.toNat = 1 ∧
        sameRegs [regKey R.hstQcfg q.toNat, regKey R.hstQstat q.toNat] s t ∧
        (∀ i, t.stream i = { s.stream i with waitsPair := (s.stream i).waitsPair && (s.stream i).cq != q.toNat }) ∧
        t = { s with
          regs := t.regs, sqTails := t.sqTails, cqHeads := t.cqHeads, ctl := { s.ctl with streams := t.ctl.streams }, out := [] })) ∧
    (s.pairOn q.toNat = false → bitOf value.toNat 0 = true →
      (bitsOf value.toNat 1 5 = 0 ∨ 16 < bitsOf value.toNat 1 5 ∨ bitsOf value.toNat 6 5 = 0 ∨ 16 < bitsOf value.toNat 6 5 ∨
        s.getF F.hstSqBase_addr q.toNat % 4096 ≠ 0 ∨ s.getF F.hstCqBase_addr q.toNat % 4096 ≠ 0) →
      completes (.queuePairEnable page q value) s (fun t =>
        t.pairOn q.toNat = false ∧ t.getF F.hstQstat_error q.toNat = 1 ∧
        onlyRegs [regKey R.hstQcfg q.toNat, regKey R.hstQstat q.toNat] s t)) ∧
    (s.pairOn q.toNat = true → bitOf value.toNat 0 = false →
      completes (.queuePairEnable page q value) s (fun t =>
        t.pairOn q.toNat = false ∧ t.sqSize q.toNat = s.sqSize q.toNat ∧ t.cqSize q.toNat = s.cqSize q.toNat ∧
        onlyRegs [regKey R.hstQcfg q.toNat] s t))) ∧
  (∀ (value : Word) (s : State), s.writes .host R.hstEvqCfg.off = true →
    (bitOf value.toNat 0 = true → 4 ≤ bitsOf value.toNat 1 5 → bitsOf value.toNat 1 5 ≤ 16 →
      completes (.eventQueueEnable value) s (fun t =>
        t.onF F.hstEvqCfg_enable = true ∧ t.getF F.hstEvqCfg_log = bitsOf value.toNat 1 5 ∧
        (s.onF F.hstEvqCfg_enable = false → t.getF F.hstEvqStat_tail = 0 ∧ t.getF F.hstEvqStat_head = 0) ∧
        onlyRegs [regKey R.hstEvqCfg 0, regKey R.hstEvqStat 0] s t)) ∧
    ((bitOf value.toNat 0 = false ∨ bitsOf value.toNat 1 5 < 4 ∨ 16 < bitsOf value.toNat 1 5) →
      completes (.eventQueueEnable value) s (fun t =>
        t.onF F.hstEvqCfg_enable = false ∧ onlyRegs [regKey R.hstEvqCfg 0] s t)))

/-- The owner of a pair changes only while the pair is disabled, and after a cold reset every pair belongs to function 0
(R365). -/
def Obligations.OwnersChangeWhileDisabled : Prop :=
  (∀ (by_ : Requester) (value : Word) (s : State), s.writes by_ R.hstQown.off = true →
    (s.pairOn (s.sel by_ F.hstQsel_queue) = false →
      completes (.queueOwnerWrite by_ value) s (fun t =>
        t.owner (s.sel by_ F.hstQsel_queue) = value.toNat % 64 ∧
        onlyRegs [regKey R.hstQown (s.sel by_ F.hstQsel_queue)] s t)) ∧
    (s.pairOn (s.sel by_ F.hstQsel_queue) = true → idles (.queueOwnerWrite by_ value) s)) ∧
  (∀ q : Nat, q < 64 → State.reset.owner q = 0)

/-! ## Host commands -/

/-- Unload program, open stream, set stream parameters, close stream and an entry with no defined opcode are taken from
their pair and wait for the edge at which they act (R97, R370, R371); while the pair gives no entry (R368) they have no effect. -/
def Obligations.CommandsWaitForTheEdge : Prop :=
  ∀ (q : BitVec 6) (e : SubEntry) (s : State),
   (s.takes q.toNat = false → ∀ c ∈ [Instr.unloadProgram q e, .openStream q e, .setStreamParameters q e, .closeStream q e, .invalidOpcode q e],
      idles c s) ∧
   (s.takes q.toNat = true →
    (s.owner q.toNat = 0 → completes (.unloadProgram q e) s (fun t =>
      waitsAfter q.toNat s t (.unload (nextId q.toNat e s) e.job.toNat e.jobEpoch.toNat))) ∧
    (s.owner q.toNat ≠ 0 → completes (.unloadProgram q e) s (fun t =>
      waitsAfter q.toNat s t (.done (nextId q.toNat e s) e.stream.toNat e.streamEpoch.toNat e.job.toNat e.jobEpoch.toNat 4 0))) ∧
    completes (.openStream q e) s (fun t => waitsAfter q.toNat s t (.openS (nextId q.toNat e s) (s.owner q.toNat) e.job.toNat
      e.jobEpoch.toNat (mread s.hostMem e.addr.toNat 128))) ∧
    completes (.setStreamParameters q e) s (fun t => waitsAfter q.toNat s t (.setP (nextId q.toNat e s) (s.owner q.toNat)
      e.stream.toNat e.streamEpoch.toNat e.arg0 (mread s.hostMem e.addr.toNat 128))) ∧
    completes (.closeStream q e) s (fun t => waitsAfter q.toNat s t (.close (nextId q.toNat e s) (s.owner q.toNat)
      e.stream.toNat e.streamEpoch.toNat)) ∧
    completes (.invalidOpcode q e) s (fun t => waitsAfter q.toNat s t (.done (nextId q.toNat e s) e.stream.toNat
      e.streamEpoch.toNat e.job.toNat e.jobEpoch.toNat 1 0)))

/-- A feed of a live stream of the issuing function joins the stream's feed queue, which holds at most 16 (R375); that it
joins at acceptance, where no command of the stream waits before it, is the model's reading (log entry 21): behind such a command it
waits for the edge with it. A feed that is refused, or of no token, joins nothing and waits for the edge as a completion. -/
def Obligations.AFeedJoinsItsStreamsQueue : Prop :=
  ∀ (q : BitVec 6) (e : SubEntry) (s : State),
   (s.takes q.toNat = false → idles (.feedTokens q e) s) ∧
   (s.takes q.toNat = true → s.ctl.waiting.any (Waiting.isFor e.stream.toNat (s.owner q.toNat)) = true →
    completes (.feedTokens q e) s (fun t => waitsAfter q.toNat s t (.feed (nextId q.toNat e s) (s.owner q.toNat) e.stream.toNat
      e.streamEpoch.toNat e.addr.toNat e.count.toNat))) ∧
   (∀ st : Nat, s.takes q.toNat = true → s.ctl.waiting.any (Waiting.isFor e.stream.toNat (s.owner q.toNat)) = false →
    st = s.feedStatus (s.owner q.toNat) e.stream.toNat e.streamEpoch.toNat e.count.toNat → st ≠ 0 ∨ e.count.toNat = 0 →
    completes (.feedTokens q e) s (fun t => waitsAfter q.toNat s t (.done (nextId q.toNat e s) e.stream.toNat
      e.streamEpoch.toNat e.job.toNat e.jobEpoch.toNat st 0))) ∧
   (s.takes q.toNat = true → s.ctl.waiting.any (Waiting.isFor e.stream.toNat (s.owner q.toNat)) = false →
    s.live e.stream.toNat e.streamEpoch.toNat = true → (s.stream e.stream.toNat).fn = s.owner q.toNat →
    (s.stream e.stream.toNat).ended = false → (s.stream e.stream.toNat).genEnd ≠ 2 →
    1 ≤ e.count.toNat → e.count.toNat ≤ 1048576 → (s.stream e.stream.toNat).feeds.length < 16 →
    completes (.feedTokens q e) s (fun t =>
      t.stream e.stream.toNat = { s.stream e.stream.toNat with
        feeds := (s.stream e.stream.toNat).feeds ++ [{ cmd := nextId q.toNat e s, addr := e.addr.toNat, count := e.count.toNat }] } ∧
      (∀ i, i ≠ e.stream.toNat → t.stream i = s.stream i) ∧ tookEntry q.toNat s t ∧
      t = { s with
        regs := t.regs, out := [], tick := { s.tick with acceptedCmds := t.tick.acceptedCmds }
        ctl := { s.ctl with streams := t.ctl.streams } }))

/-- Load program: where the physical function gives two image ranges that are not refused, that read whole and pass every
load check, the lowest free job identifier holds the program, staged, under its next epoch (R65, R66, R236, R372). A load by another
function, without a free identifier, of a refused range or of an image that fails a check leaves every program and device memory as
they are. A load whose images lie where a held channel, a row's copy or a flail keeps their reads waits for these (R260, R287). -/
def Obligations.ALoadedProgramIsStaged : Prop :=
  (∀ (q : BitVec 6) (e : SubEntry) (s : State), s.takesLoad q.toNat = false → idles (.loadProgram q e) s) ∧
  (∀ (q : BitVec 6) (e : SubEntry) (s u : State), s.takesLoad q.toNat = true → u = ({ s with out := [] } : State).take q.toNat →
    s.owner q.toNat ≠ 0 ∨ u.freeJob = none ∨ u.rangeBad e.arg0.toNat e.arg1.toNat = true ∨ u.rangeBad e.arg2.toNat e.arg3.toNat = true ∨
      (u.imageKept e.arg0.toNat e.arg1.toNat = false ∧ u.imageKept e.arg2.toNat e.arg3.toNat = false ∧
        u.readImage e.arg0.toNat e.arg1.toNat = (u, true) ∧ u.readImage e.arg2.toNat e.arg3.toNat = (u, true) ∧
        (loadChecks u (u.readDev e.arg0.toNat e.arg1.toNat) (u.readDev e.arg2.toNat e.arg3.toNat) e.arg1.toNat e.arg3.toNat).isSome = true) →
    completes (.loadProgram q e) s (fun t => t.ctl = s.ctl ∧ t.devMem = s.devMem ∧ t.flash = s.flash ∧ t.otp = s.otp ∧ t.rcvBuf = s.rcvBuf)) ∧
  ∀ (q : BitVec 6) (e : SubEntry) (s u : State) (j : Nat), s.takesLoad q.toNat = true → s.owner q.toNat = 0 →
    u = ({ s with out := [] } : State).take q.toNat → u.freeJob = some j →
    u.rangeBad e.arg0.toNat e.arg1.toNat = false → u.rangeBad e.arg2.toNat e.arg3.toNat = false →
    (u.imageKept e.arg0.toNat e.arg1.toNat = true ∨ u.imageKept e.arg2.toNat e.arg3.toNat = true →
      completes (.loadProgram q e) s (fun t =>
        t.ctl = { s.ctl with loads := s.ctl.loads ++ [(e, nextId q.toNat e s)] } ∧ tookEntry q.toNat s t ∧ sameMemories s t)) ∧
    (u.imageKept e.arg0.toNat e.arg1.toNat = false → u.imageKept e.arg2.toNat e.arg3.toNat = false →
    u.readImage e.arg0.toNat e.arg1.toNat = (u, true) → u.readImage e.arg2.toNat e.arg3.toNat = (u, true) →
    loadChecks u (u.readDev e.arg0.toNat e.arg1.toNat) (u.readDev e.arg2.toNat e.arg3.toNat) e.arg1.toNat e.arg3.toNat = none →
    completes (.loadProgram q e) s (fun t =>
      (t.prog j).state = .staged ∧ (t.prog j).epoch = ((s.prog j).epoch + 1) % 256 ∧
      (t.prog j).jAddr = e.arg0.toNat ∧ (t.prog j).jLen = e.arg1.toNat ∧
      (t.prog j).sAddr = e.arg2.toNat ∧ (t.prog j).sLen = e.arg3.toNat ∧
      (t.prog j).img = parseImage (s.readDev e.arg0.toNat e.arg1.toNat) (s.readDev e.arg2.toNat e.arg3.toNat) ∧
      (∀ k, k ≠ j → t.prog k = s.prog k) ∧ t.devMem = s.devMem ∧ t.flash = s.flash ∧ t.otp = s.otp ∧ t.rcvBuf = s.rcvBuf ∧
      t.ctl.streams = s.ctl.streams ∧ t.ctl.sheafs = s.ctl.sheafs ∧ t.ctl.waiting = s.ctl.waiting))

/-- The device memory window (R363, R364): an access that meets no error and that nothing keeps waiting (R260, R287) reads or writes
the bytes at HST_WIN.base plus its offset, and a write leaves every other byte of memory as it was. Where no bank it may touch
owes eight refreshes (R252) nothing else changes. In minimal mode a read is answered with Unsupported Request and a write dropped; with the
host interface down neither has an effect (R412, R431). -/
def Obligations.TheWindowReadsAndWritesDeviceMemory : Prop :=
  ∀ (off : BitVec 41) (s : State) (a : Nat),
   (s.windowShut = true →
    (∀ n : Nat, (s.perstOn || s.start.loading) = false → completes (.bar4Read off n []) s (fun t =>
      t = { s with out := [.readData 1 []] })) ∧
    (∀ n : Nat, (s.perstOn || s.start.loading) = true → idles (.bar4Read off n []) s) ∧
    (∀ bs : List Byte, idles (.bar4Write off bs []) s)) ∧
   (s.windowShut = false →
    (∀ n : Nat, s.winAddr off.toNat n = some a → s.addrError a n = false → s.errResponse a n = false →
      s.mustWait { s.windowAcc off.toNat n none with no := s.arrivals } = false →
      (∀ w ∈ s.wordsTouched a n, s.wordErr w = 0) →
      completes (.bar4Read off n []) s (fun t =>
        t.out = [.readData 0 (mread s.devMem (s.getF F.hstWin_base + off.toNat) n)] ∧ sameMemories s t ∧ t.ctl = s.ctl ∧ t.cells = s.cells ∧
        ((∀ e ∈ s.chans, ∀ o ∈ e.2.owed, o.2 < 8) → t = { s with out := t.out }))) ∧
    (∀ bs : List Byte, s.winAddr off.toNat bs.length = some a → s.addrError a bs.length = false →
      s.errResponse a bs.length = false → s.mustWait { s.windowAcc off.toNat bs.length (some bs) with no := s.arrivals } = false →
      (∀ w ∈ s.wordsTouched a bs.length, s.wordErr w = 0) →
      completes (.bar4Write off bs []) s (fun t =>
        (∀ (i : Nat) (h : i < bs.length), mget t.devMem (s.getF F.hstWin_base + off.toNat + i) = bs[i]) ∧
        (∀ b : Nat, b < s.getF F.hstWin_base + off.toNat ∨ s.getF F.hstWin_base + off.toNat + bs.length ≤ b →
          mget t.devMem b = mget s.devMem b) ∧
        t.out = [] ∧ t.hostMem = s.hostMem ∧ t.ctl = s.ctl ∧ t.cells = s.cells ∧
        ((∀ e ∈ s.chans, ∀ o ∈ e.2.owed, o.2 < 8) → t = { s with devMem := t.devMem, loftErr := t.loftErr, out := [] }))) ∧
    (∀ n : Nat, s.winAddr off.toNat n = some a → n ≠ 0 → s.mustWait { s.windowAcc off.toNat n none with no := s.arrivals } = true →
      completes (.bar4Read off n []) s (fun t =>
        (∃ w, t.accWait = s.accWait ++ [w] ∧ w.addr = a ∧ w.len = n ∧ w.write = none ∧ w.bar4 = some off.toNat ∧ w.no = s.arrivals) ∧
        t = { s with accWait := t.accWait, arrivals := s.arrivals + 1, out := [] })))

/-- A host memory error (R358, R369, R375): met at a submission entry or at a command's buffer it counts, and puts the pair in
error or completes the command; met at a feed's tokens it fails the stream. -/
def Obligations.HostMemoryErrorsAreCounted : Prop :=
  ∀ (cause : BitVec 3) (s : State),
    (∀ q : BitVec 6, s.pairOn q.toNat = true →
      completes (.hostMemoryError (.submissionEntry q) cause) s (fun t =>
        t.getF F.hstQstat_error q.toNat = 3 ∧ t.getF F.hstErr_host_mem = min (s.getF F.hstErr_host_mem + 1) 65535 ∧
        onlyRegs [regKey R.hstQstat q.toNat, regKey R.hstErr 0] s t)) ∧
    (∀ (q : BitVec 6) (e : SubEntry), s.takes q.toNat = true → e.opcode ≠ 1 →
      completes (.hostMemoryError (.commandBuffer q e) cause) s (fun t =>
        t.ctl.waiting = s.ctl.waiting ++ [.done (nextId q.toNat e s) e.stream.toNat e.streamEpoch.toNat e.job.toNat
          e.jobEpoch.toNat 7 0] ∧
        t.getF F.hstErr_host_mem = min (s.getF F.hstErr_host_mem + 1) 65535 ∧ sameMemories s t)) ∧
    (∀ i : BitVec 16, (s.stream i.toNat).isOpen = true → (s.stream i.toNat).ended = false →
      completes (.hostMemoryError (.feedTokens i) cause) s (fun t =>
        (t.stream i.toNat).failed = true ∧ (t.stream i.toNat).ended = true ∧ (t.stream i.toNat).feeds = [] ∧
        (t.stream i.toNat).rows = [] ∧ t.devMem = s.devMem))

/-- A function-level reset disables the function's pairs and clears its MSI-X table (R360); a virtual function's reset leaves
the others' tables as they were. -/
def Obligations.AFunctionLevelResetDisablesItsPairs : Prop :=
  ∀ (fn : BitVec 6) (s : State), s.start.loading = false → fn ≠ 0 →
    completes (.functionLevelReset fn) s (fun t =>
      (∀ q : Nat, q < 64 → s.owner q = fn.toNat → t.pairOn q = false) ∧
      (∀ v : Nat, v < 32 → t.msixAt fn.toNat v = {}) ∧
      (∀ f v : Nat, v < 32 → f ≠ fn.toNat → t.msixAt f v = s.msixAt f v) ∧ sameMemories s t)

/-! ## Chute -/

/-- Go starts a channel that does not run, at the descriptor in host memory that CHU_HEAD names, and abort stops one that does, with status
0x07 and CHU_HEAD at its current descriptor; a go is ignored while the channel runs or CHU_ERR.valid is set; a write of 1 clears CHU_ERR.valid (R386, R387). -/
def Obligations.AChuteChannelStartsAndStops : Prop :=
  (∀ (by_ : Requester) (ch : Nat) (s : State), s.writes by_ R.chuCtl.off = true → ch = s.sel by_ F.chuSel_channel →
    (s.chuteRuns ch = false → s.onF F.chuErr_valid = false → s.onF F.chuHead_dev ch = false →
      completes (.chuteGo by_) s (fun t =>
        t.chuteRuns ch = true ∧ t.onF F.chuCtl_go ch = true ∧ t.getF F.chuCrc_done ch = 0 ∧ t.getF F.chuStat_moved ch = 0 ∧
        t.chuteHolds ch = mread s.hostMem (s.getF F.chuHead_addr ch) 64 ∧
        t.getF F.chuCrc_crc ch = (if (s.chute ch).first then 0 else s.getF F.chuCrc_crc ch) ∧
        sameRegs (chuteKeys ch) s t ∧ t = { s with regs := t.regs, chutes := t.chutes, out := [] })) ∧
    (s.chuteRuns ch = true ∨ s.onF F.chuErr_valid = true → idles (.chuteGo by_) s) ∧
    (s.chuteRuns ch = true → completes (.chuteAbort by_) s (fun t =>
      t.chuteRuns ch = false ∧ t.onF F.chuCtl_go ch = false ∧ t.getF F.chuStat_status ch = 7 ∧
      t.getF F.chuHead_addr ch = (s.chute ch).cur.1 % 2 ^ 63 ∧ t.onF F.chuHead_dev ch = (s.chute ch).cur.2 ∧
      t.chute ch = { s.chute ch with fetchDue := false, first := false } ∧ (∀ c, c ≠ ch → t.chute c = s.chute c) ∧
      sameRegs [regKey R.chuStat ch, regKey R.chuCtl ch, regKey R.chuHead ch] s t ∧
      t = { s with regs := t.regs, chutes := t.chutes, out := [] })) ∧
    (s.chuteRuns ch = false → idles (.chuteAbort by_) s)) ∧
  (∀ s : State, s.writes .host R.chuErr.off = true → completes .chuteErrorClear s (fun t =>
    t.onF F.chuErr_valid = false ∧ onlyRegs [regKey R.chuErr 0] s t))

/-- The last descriptor of a chain (R382 to R386): a rejected one stops the channel with status 0x02 and moves nothing; one from
host memory to device memory, of at most 256 bytes, whose device bytes meet no error and wait for nothing, moves its bytes and stops
the channel with status 0x01; at either stop CHU_HEAD names the current descriptor, and CHU_CRC stays at its start. -/
def Obligations.AChuteDescriptorMovesItsBytes : Prop :=
  ∀ (ch : BitVec 5) (s : State) (d : Desc), d = Desc.parse (s.chuteHolds ch.toNat) → s.chuteRuns ch.toNat = true →
    s.chuteMayMove ch.toNat d = true → d.wb = 0 → d.irq = false → (s.chute ch.toNat).owedResults = [] →
    (s.rejects ch.toNat d = true → completes (.chuteDescriptorDone ch) s (fun t =>
      t.chuteRuns ch.toNat = false ∧ t.getF F.chuStat_status ch.toNat = 2 ∧ t.devMem = s.devMem ∧ t.hostMem = s.hostMem ∧
      t.getF F.chuHead_addr ch.toNat = (s.chute ch.toNat).cur.1 % 2 ^ 63 ∧ t.onF F.chuHead_dev ch.toNat = (s.chute ch.toNat).cur.2 ∧
      t.getF F.chuCrc_crc ch.toNat = s.getF F.chuCrc_crc ch.toNat ∧
      sameRegs [regKey R.chuStat ch.toNat, regKey R.chuCtl ch.toNat, regKey R.chuHead ch.toNat] s t)) ∧
    (s.rejects ch.toNat d = false → d.last = true → d.srcDev = false → d.dstDev = true → isPhys d.dst = true →
      1 ≤ d.len → d.len ≤ 256 → s.addrError d.dst d.len = false → s.errResponse d.dst d.len = false →
      (∀ w ∈ s.wordsTouched d.dst d.len, s.wordErr w = 0) →
      completes (.chuteDescriptorDone ch) s (fun t =>
        t.chuteRuns ch.toNat = false ∧ t.getF F.chuStat_status ch.toNat = 1 ∧ t.getF F.chuStat_moved ch.toNat = d.len ∧
        mread t.devMem d.dst d.len = mread s.hostMem d.src d.len ∧
        (∀ b : Nat, b < d.dst ∨ d.dst + d.len ≤ b → mget t.devMem b = mget s.devMem b) ∧ t.hostMem = s.hostMem ∧
        t.getF F.chuHead_addr ch.toNat = (s.chute ch.toNat).cur.1 % 2 ^ 63 ∧ t.onF F.chuHead_dev ch.toNat = (s.chute ch.toNat).cur.2 ∧
        t.getF F.chuCrc_crc ch.toNat = s.getF F.chuCrc_crc ch.toNat ∧
        ((∀ e ∈ s.chans, ∀ o ∈ e.2.owed, o.2 < 8) →
          sameRegs [regKey R.chuStat ch.toNat, regKey R.chuCtl ch.toNat, regKey R.chuCrc ch.toNat, regKey R.chuHead ch.toNat] s t)))

/-- A host bus error stops all 32 channels with status 0x05 and records in CHU_ERR what is known (R387); its cause is the host's
for an error completion, and 0b011 for a completion that never came (R358). -/
def Obligations.AHostBusErrorStopsEveryChannel : Prop :=
  ∀ (ch : Option (BitVec 5)) (fetch : Bool) (fn : BitVec 6) (addr : Word) (cause : BitVec 3) (s : State),
    completes (.completionTimeout ch fetch fn addr) s (fun t =>
      (∀ c : Nat, c < 32 → t.chuteRuns c = false) ∧ (∀ c : Nat, c < 32 → s.chuteRuns c = true → t.getF F.chuStat_status c = 5) ∧
      t.onF F.chuErr_valid = true ∧ t.onF F.chuErr_known = ch.isSome ∧ t.getF F.chuErr_channel = ((ch.map BitVec.toNat).getD 0) ∧
      t.onF F.chuErr_fetch = fetch ∧ t.getF F.chuErr_cause = 3 ∧ t.getF F.chuErr_function = fn.toNat ∧
      t.getF F.chuErrAddr_addr = addr.toNat ∧ t.devMem = s.devMem) ∧
    completes (.hostMemoryError (.chute ch fetch fn addr) cause) s (fun t =>
      (∀ c : Nat, c < 32 → t.chuteRuns c = false) ∧ t.onF F.chuErr_valid = true ∧ t.getF F.chuErr_cause = cause.toNat ∧
      t.devMem = s.devMem)

/-! ## The tick -/

/-- A tick edge (R73): with the window open and the edge announced, no pause, no stop and no count to take over from the ring,
TIK_COUNT goes up by one, the new tick starts at the edge with its window closed, and the snapshot of the mirror is that of
the edge (R515). -/
def Obligations.TheEdgeAdvancesTheCount : Prop :=
  ∀ (now : Nat) (s : State), s.tick.running = true → s.tick.held = false → s.tick.windowOpen = true →
    (s.tick.deferred = false ∧ s.tick.lateParts = [] ∨ s.tick.newEdge.isSome = true) → s.edgeFalls ≤ now + 20 → s.ring.pauseNext = false →
    s.ring.realignTo = none → s.getF F.pwrStat_state ≠ 1 → s.getF F.pwrStat_state ≠ 3 → s.start.warmReset = false →
    completes (.tickEdge now) s (fun t =>
      t.getF F.tikCount_count = (s.getF F.tikCount_count + 1) % 2 ^ 64 ∧ t.tick.edgeAt = now ∧ t.tick.windowOpen = false ∧
      t.snap.valid = true ∧ t.snap.edge = t.getF F.tikCount_count)

/-- D, the guard band, S and the longest tick follow from the period, the window and the guard percentage (R74). -/
def Obligations.TheDeadlinesFollowFromTheSettings : Prop :=
  ∀ s : State,
    s.deadline = s.getF F.tikPeriod_us * 1000 - s.getF F.tikWindow_ns ∧
    s.guardNs % 10 = 0 ∧ 100 * s.guardNs ≤ s.getF F.tikGuard_pct * (s.getF F.tikPeriod_us * 1000) ∧
    s.getF F.tikGuard_pct * (s.getF F.tikPeriod_us * 1000) < 100 * (s.guardNs + 10) ∧
    s.stretchLimit = s.deadline + s.guardNs ∧ s.longest = s.getF F.tikPeriod_us * 1000 + s.guardNs

/-- A stage that has not started starts with its first input, and not before its start time (R76, R77): its input wait is what its first
input came after that, and a pass may be in progress in an M cell (R131). Said of a stage whose first entry still waits for rows, so
that nothing runs yet, and that copies no table and evicts nothing at its start; whether it has done what comes first is the model's
own field. -/
def Obligations.AStageStartsWithItsFirstInput : Prop :=
  ∀ (cell : BitVec 10) (now j : Nat) (e : Nat × Stage) (s : State),
    (s.cell cell.toNat).job = some j → s.stageOf cell.toNat = some e → s.tick.running = true → s.tick.windowOpen = false →
    (s.cell cell.toNat).started = none → (s.cell cell.toNat).stopped = false → (s.cell cell.toNat).inReset = false →
    (now < s.startAt e.2 → completes (.stageStart cell now) s (fun t => t = { s with out := [], now := max s.now now })) ∧
    (s.startAt e.2 ≤ now → (s.cell cell.toNat).rowsIn ≠ [] → e.2.kind ≠ kA → e.2.kind ≠ kG → e.2.kind ≠ kL →
      (e.2.kind = kV → ∀ i, i < e.2.opCount → e.2.e i 0 1 ≠ 2) →
      s.entryReady e.1 cell.toNat e.2 0 = false → (s.cell cell.toNat).doneOps = [] →
      (s.cell cell.toNat).memHeld = none → (s.cell cell.toNat).flailSince = [] →
      completes (.stageStart cell now) s (fun t =>
        t.cell cell.toNat = { s.cell cell.toNat with
          started := some now, waitNs := (s.cell cell.toNat).idleAt - s.startAt e.2, idleAt := now
          prepared := (s.cell cell.toNat).prepared || ((s.cell cell.toNat).finished.isNone && (s.cell cell.toNat).lost.isEmpty) } ∧
        (∀ d, d ≠ cell.toNat → t.cell d = s.cell d) ∧ t.onF F.celStat_busy cell.toNat = true ∧
        (e.2.kind = kM → (s.cell cell.toNat).finished = none → 0 < e.2.opCount → (s.prog e.1).invalid = false → (∃ r ∈ (s.cell cell.toNat).rowsIn, r.hdr.empty = false) →
          t.onF F.mxcStat_busy cell.toNat = true) ∧
        sameRegs [regKey R.celStat cell.toNat, regKey R.mxcStat cell.toNat] s t ∧
        t = { s with regs := t.regs, cells := t.cells, out := [], now := max s.now now }))

/-- A stage that has not finished finishes when its last entry has run, and its margin is finish_ns plus the raises less its finish time (R77,
R81). -/
def Obligations.AStageFinishRecordsTheMargin : Prop :=
  ∀ (cell : BitVec 10) (now j : Nat) (e : Nat × Stage) (s : State),
    (s.cell cell.toNat).job = some j → s.stageOf cell.toNat = some e → s.tick.running = true → s.tick.windowOpen = false →
    (s.cell cell.toNat).finished = none → (s.cell cell.toNat).stopped = false → (s.cell cell.toNat).inReset = false →
    (s.cell cell.toNat).started.isSome = true → (s.cell cell.toNat).doneOps.length = e.2.opCount → s.tick.edgeAt ≤ now →
    now ≤ s.tick.edgeAt + s.stretchLimit →
    completes (.stageFinish cell now) s (fun t =>
      (t.cell cell.toNat).finished = some now ∧ (∀ d, d ≠ cell.toNat → t.cell d = s.cell d) ∧
      t.onF F.celStat_busy cell.toNat = false ∧ t.onF F.celTick_idle cell.toNat = false ∧
      t.getF F.celTick_margin_ns cell.toNat = (BitVec.ofInt 32
        ((e.2.finishNs : Int) + (s.getF F.tikRaise_ns : Int) - ((now - s.tick.edgeAt : Nat) : Int))).toNat ∧
      sameRegs [regKey R.celTick cell.toNat, regKey R.celStat cell.toNat, regKey R.mxcStat cell.toNat, regKey R.thrStat cell.toNat] s t ∧
      t = { s with regs := t.regs, cells := t.cells, out := [], now := max s.now now })

/-- The run deadline, the stretch limit and the window (R78, R79, R83, R86, R87): at D a part that is not the timekeeper and has an
unfinished cell sends a late notice, once in a tick; at S the stages of unfinished cells stop and the tick of their programs
overruns; the maintenance window opens when the part's last cell has finished, and not before D. -/
def Obligations.ALateTickIsToldAndEnded : Prop :=
  (∀ (now : Nat) (s : State), s.tick.running = true → s.tick.windowOpen = false → s.unfinished ≠ [] → s.isKeeper = false →
    (s.tick.lateSent = false → s.tick.edgeAt + s.deadline ≤ now →
      completes (.runDeadline now) s (fun t =>
        t.tick = { s.tick with lateSent := true } ∧ tells (.late (BitVec.ofNat 32 (s.getF F.tikCount_count))) s t ∧
        t = { s with tick := t.tick, ring := { s.ring with seen := t.ring.seen }, out := t.out, now := max s.now now })) ∧
    (s.tick.lateSent = true ∨ now < s.tick.edgeAt + s.deadline →
      completes (.runDeadline now) s (fun t => t = { s with out := [], now := max s.now now }))) ∧
  (∀ (now : Nat) (s : State), s.tick.running = true → s.tick.windowOpen = false → s.unfinished ≠ [] →
    s.tick.edgeAt + s.stretchLimit ≤ now →
    completes (.stretchLimit now) s (fun t =>
      (∀ c ∈ s.unfinished, (t.cell c).stopped = true ∧ (t.cell c).finished = some (s.tick.edgeAt + s.stretchLimit)) ∧
      (∀ c ∈ s.unfinished, ∀ j, s.jobOfCell c = some j → j ∈ t.tick.overrunJobs ∧
        (j ∉ s.tick.overrunJobs → (t.prog j).invalid = true)))) ∧
  (∀ (now : Nat) (gov : Option GovIn) (s : State), (Instr.maintenanceWindow now gov).wellFormed = true → s.tick.running = true → s.tick.windowOpen = false →
    (s.unfinished = [] → s.tick.edgeAt + s.deadline ≤ now → completes (.maintenanceWindow now gov) s (fun t =>
      t.tick.windowOpen = true ∧ t.now = max s.now now ∧ t.wroteCq = [])) ∧
    (s.unfinished ≠ [] ∨ now < s.tick.edgeAt + s.deadline → completes (.maintenanceWindow now gov) s (fun t =>
      t = { s with out := [], now := max s.now now })))

/-- What the parts tell each other of a late tick (R83, R86, R328, R334): a late notice and a finish report are carried on, and
kept by the timekeeper, which fixes the new edge once every late notice is in and every late part has reported; an announcement is heeded by
every part, and with a new edge the programs whose outputs waited for it have their validation point. That a raise of the period is announced
beside an edge is the model's choice of a word (R94; log entry 52). Said of a part that does not replay at a raise's edge. -/
def Obligations.AnnouncementsMoveTheEdge : Prop :=
 (∀ (port : BitVec 3) (w : EdgeWord) (s : State), (edgeSender w (s.getF F.lnkRing_keeper), CtlWord.edge w) ∉ s.ring.seen →
    w.overrun = false → w.newEdge ≠ 0 → w.raise = none →
    completes (.edgeAnnouncement port w) s (fun t => ∃ u : State, t = u.settleHeld ∧
      u.tick = { s.tick with deferred := true, newEdge := some (min (100 * w.newEdge.toNat) s.longest) } ∧
      u.ctl = s.ctl ∧ u.cells = s.cells ∧ u.regs = s.regs ∧ sameMemories s u)) ∧
 (∀ (port : BitVec 3) (part : BitVec 10) (s : State), s.tick.heldJobs = [] →
    (∀ tick : BitVec 32, (part.toNat, CtlWord.late tick) ∉ s.ring.seen →
      (s.isKeeper = false → completes (.lateNotice port part tick) s (fun t =>
        carries (some port.toNat) part.toNat (.late tick) s t ∧
        t = { s with ring := { s.ring with seen := t.ring.seen }, out := t.out })) ∧
      (s.isKeeper = true → tick.toNat = s.getF F.tikCount_count % 2 ^ 32 → s.tick.lateParts = [] →
        completes (.lateNotice port part tick) s (fun t =>
          t.tick = { s.tick with lateParts := [part.toNat], deferred := true } ∧ t.regs = s.regs ∧ sameMemories s t))) ∧
    (∀ (ns : Nat) (late : Bool) (ids : List (BitVec 12)), (part.toNat, CtlWord.finish ns late (ids.map BitVec.toNat)) ∉ s.ring.seen →
      (s.isKeeper = false → completes (.finishReport port part ns late ids) s (fun t =>
        carries (some port.toNat) part.toNat (.finish ns late (ids.map BitVec.toNat)) s t ∧
        t = { s with ring := { s.ring with seen := t.ring.seen }, out := t.out })) ∧
      (s.isKeeper = true → late = false → s.tick.newEdge = none → s.tick.reports = [] → s.tick.finishes = [] →
        s.tick.lateParts = [part.toNat] → ns + s.windowNs ≤ 6000000 → 1 ≤ ns + s.windowNs → s.takePorts ≠ [] →
        completes (.finishReport port part ns late ids) s (fun t =>
          t.tick.finishes = [(part.toNat, ns)] ∧
          t.tick.newEdge = (if s.tick.edgeAt + s.deadline + 900 ≤ s.now then some (min (up100 (ns + s.windowNs)) s.longest) else none) ∧
          t.regs = s.regs ∧ sameMemories s t)) ∧
      (s.isKeeper = true → late = true → s.tick.newEdge = none → s.tick.lateParts = [part.toNat] → s.takePorts ≠ [] →
        s.tick.edgeAt + s.deadline + 900 ≤ s.now →
        completes (.finishReport port part ns late ids) s (fun t =>
          t.tick.newEdge = some s.longest ∧ t.tick.overrun = true))) ∧
    (∀ w : EdgeWord, (edgeSender w (s.getF F.lnkRing_keeper), CtlWord.edge w) ∉ s.ring.seen → s.replayDue = false ∨ w.raise = none →
      (w.overrun = false → w.newEdge ≠ 0 → completes (.edgeAnnouncement port w) s (fun t =>
        carries (some port.toNat) (edgeSender w (s.getF F.lnkRing_keeper)) (.edge w) s t ∧
        t.tick = { s.tick with deferred := true, newEdge := some (min (100 * w.newEdge.toNat) s.longest) } ∧
        t.ring.pauseNext = (s.ring.pauseNext || w.pause) ∧ t.regs = s.regs ∧ sameMemories s t)) ∧
      (w.overrun = false → w.newEdge = 0 → w.pause = false → w.pauseEnds = false → w.raise = none →
        completes (.edgeAnnouncement port w) s (fun t => t.tick = { s.tick with deferred := true } ∧ t.regs = s.regs)) ∧
      (w.overrun = true → completes (.edgeAnnouncement port w) s (fun t =>
        t.tick.deferred = true ∧ t.tick.newEdge = some s.longest ∧ t.tick.overrun = true ∧
        (∀ j ∈ s.jobsNamed (w.sheafs.map BitVec.toNat), j ∈ t.tick.overrunJobs))) ∧
      (∀ (r : RaiseWord) (n : BitVec 64), w = { raise := some r } → r.target = some n → r.moved = false → r.part.toNat ≠ s.own →
        completes (.edgeAnnouncement port w) s (fun t =>
          t.autos = s.autos ++ [.raise (max 1 (n.toNat - s.getF F.tikCount_count)) none r.us.toNat false] ∧
          carries (some port.toNat) (edgeSender w (s.getF F.lnkRing_keeper)) (.edge w) s t ∧ t.tick = s.tick ∧ t.regs = s.regs))))

/-- A cell that has finished late by its own doing in 16 ticks in a row is declared slow (R91 to R95): its bit is set, and a
repair commit two edges on where an idle spare is in scope; else the timekeeper announces a raise for the next edge, or where it replays there
for the one after (R90), and any other part asks the timekeeper for one (by a word that the model chose, log entry 52). -/
def Obligations.ASlowCellIsRepairedOrRaises : Prop :=
  ∀ (cell : BitVec 10) (j : Nat) (g : Stage) (s : State), s.stageOf cell.toNat = some (j, g) →
    (s.getF F.celTick_late_run cell.toNat < 16 → idles (.cellSlow cell) s) ∧
    (∀ us n : Nat, us = max 1 (ceilDiv (s.cell cell.toNat).worstLate 1000) → n = 1 + bit s.replayDue → 16 ≤ s.getF F.celTick_late_run cell.toNat →
      s.spareOf j g cell.toNat = none → s.getF F.tikPeriod_us + us ≤ 1000 →
      completes (.cellSlow cell) s (fun t =>
        t.onF F.celTick_slow cell.toNat = true ∧ t.getF F.celTick_late_run cell.toNat = 0 ∧
        t.autos = s.autos ++ [if s.isKeeper then .raise n (some cell.toNat) us false else .asked (some cell.toNat) us] ∧
        tells (s.raiseWord us (if s.isKeeper then some (s.getF F.tikCount_count + n) else none)) s t ∧
        t.getF F.tikPeriod_us = s.getF F.tikPeriod_us)) ∧
    (∀ p : Nat, 16 ≤ s.getF F.celTick_late_run cell.toNat → s.spareOf j g cell.toNat = some p →
      completes (.cellSlow cell) s (fun t =>
        t.onF F.celTick_slow cell.toNat = true ∧ t.getF F.celTick_late_run cell.toNat = 0 ∧
        t.autos = s.autos ++ [.repair 2 cell.toNat p false] ∧ t.ctl.progs = s.ctl.progs))

/-! ## Commits and limit words -/

/-- A commit request captures the staged copies that differ and the staged images; while a host or Steading commit is in flight
it fails with check 0x0301 and leaves that commit as it was (R30, R98). -/
def Obligations.ACommitCapturesWhatDiffers : Prop :=
  ∀ (st : Bool) (c : Instr) (by_ : Requester) (now : Nat) (s : State),
    (st = false ∧ c = .commitRequest now ∧ by_ = .host ∨ st = true ∧ c = .steadingCommitRequest now ∧ by_ = .steading) →
    s.reaches by_ R.tikCmt.off = true → s.start.warmReset = false →
    (s.commit = none → completes c s (fun t =>
      t.commit.map (fun k => (k.steading, k.align, k.captured, k.images, k.checked, k.deferred)) =
        some (st, false, s.stagedDiff.map (fun k => (k, s.stagedKey k)),
          (List.range 8).filter (fun j => (s.prog j).state == .staged), false, false) ∧
      t.getF F.tikCmtStat_result = 1 ∧ t.getF F.tikCmtStat_source = (if st then 1 else 0) ∧ t.stagedAfter = [] ∧
      t.staged = s.staged ∧ sameRegs [regKey R.tikCmtStat 0] s t ∧ sameMemories s t)) ∧
    (s.commit.isSome = true → completes c s (fun t =>
      t.getF F.tikCmtStat_result = 3 ∧ t.getF F.tikCmtStat_check = 0x0301 ∧ t.getF F.tikCmtStat_source = (if st then 1 else 0) ∧
      sameRegs [regKey R.tikCmtStat 0, regKey R.tikCmtWhere 0] s t ∧ t = { s with regs := t.regs, out := [], now := max s.now now }))

/-- The checks of a commit (R11, R99): one that passes waits for the edge; one that fails sets result 0b11 and the check code, and
leaves every active and staged copy as it was; digests that the parts sent for it are given up (R60). Said of a commit that is no ring
commit. -/
def Obligations.AFailedCommitLeavesBothCopies : Prop :=
  ∀ (now : Nat) (c : CommitSt) (s : State), s.commit = some c → c.checked = false → c.ringed = false →
    ((s.at_ now).commitChecks c = none → completes (.commitChecksDone now) s (fun t =>
      t = { s with commit := some { c with checked := true }, out := [], now := max s.now now })) ∧
    (∀ f : Nat × Nat × Nat, (s.at_ now).commitChecks c = some f → c.align = false → s.ring.alignValues = none →
      completes (.commitChecksDone now) s (fun t =>
        t.commit = none ∧ t.getF F.tikCmtStat_result = 3 ∧ t.getF F.tikCmtStat_check = f.1 % 65536 ∧
        t.getF F.tikCmtWhere_offset = f.2.1 % 65536 ∧ t.getF F.tikCmtWhere_instance = f.2.2 % 65536 ∧ t.staged = s.staged ∧
        (∀ i, t.sheaf i = s.sheaf i ∨ t.sheaf i = { s.sheaf i with digests := [] }) ∧
        sameRegs [regKey R.tikCmtStat 0, regKey R.tikCmtWhere 0] s t ∧
        t = { s with regs := t.regs, ctl := { s.ctl with sheafs := t.ctl.sheafs }, commit := none, out := [], now := max s.now now }))

/-- Staging (R11, R522, R524): a write to an ST register sets the ST fields of the staged copy that the writer's selector chooses,
in the bits it covers, and no active copy; a revert makes every staged copy equal to its active copy and leaves a commit
in flight what it captured. -/
def Obligations.StagedCopiesAreWrittenAndReverted : Prop :=
  (∀ (by_ : Requester) (off : BitVec 26) (n : Nat) (v : Word) (r : Reg) (i : Nat) (s : State), r ∈ stRegs →
    off.toNat / 8 * 8 = r.off → i = s.shownInst by_ r → i < instances r.shown → by_ ≠ .i3c → accessOk off.toNat n = true →
    s.reaches by_ off.toNat = true →
    completes (.stagedWrite by_ off n v) s (fun t =>
      t.stagedReg r i = (s.stagedReg r i &&& ~~~(stMask r &&& writeMask off.toNat n)) |||
        (writeValue off.toNat v &&& (stMask r &&& writeMask off.toNat n)) ∧
      (∀ (d : Word) (k : Nat), k ≠ regKey r i → tget d t.staged k = tget d s.staged k) ∧
      t.getF F.tikStg_last = (if by_ = .host then 1 else 2) ∧ sameRegs [regKey R.tikStg 0] s t ∧
      t = { s with regs := t.regs, staged := t.staged, stagedAfter := t.stagedAfter, out := [] })) ∧
  (∀ s : State, s.reaches .host R.tikStg.off = true → completes .stagingRevert s (fun t =>
    (∀ k : Nat, t.stagedKey k = s.activeKey k) ∧ t.getF F.tikStg_diff = 0 ∧ t.commit = s.commit ∧ sameRegs [regKey R.tikStg 0] s t ∧
    t = { s with regs := t.regs, staged := t.staged, out := [] }))

/-- The governor's limit words (R32, R36, R483): a fall in the cap holds from the next edge, a rise comes in steps of at most
100 W; after 64 edges without an update the fallback cap of 800 W takes the place of what is under way, and is in force from
the next edge. -/
def Obligations.TheCapFollowsTheGovernor : Prop :=
  ∀ s : State,
    (∀ w : LimitWords, w.ok = true → s.start.steadingDown = false → completes (.limitWordWrite w) s (fun t =>
      t.capNext = min (if s.tick.fallbackNext then s.getF F.pwrStat_cap else s.capNext) w.cap ∧ t.heat.capTarget = w.cap ∧
      t.tick.govWrote = true ∧ t.regs = s.regs ∧
      t = { s with tick := { s.tick with limits := t.tick.limits, govWrote := true, fallbackNext := false }
                   heat := { s.heat with capTarget := w.cap }, out := [] })) ∧
    (s.onF F.pwrStat_fallback = false → s.tick.fallbackNext = false → s.capNext < s.heat.capTarget → completes .capRaiseStep s (fun t =>
      t.capNext = min s.heat.capTarget (s.capNext + 100) ∧
      t = { s with tick := { s.tick with limits := t.tick.limits }, out := [] })) ∧
    (s.heat.capTarget ≤ s.capNext → idles .capRaiseStep s) ∧
    (64 ≤ s.tick.updatesAgo → s.tick.govWrote = false → s.onF F.pwrStat_fallback = false → s.tick.fallbackNext = false → completes .governorSilent s (fun t =>
      t.capNext = 800 ∧ t.tick.fallbackNext = true ∧ afterEvents [] { s with
        tick := { s.tick with limits := some { cap := 800 }, fallbackNext := true }, heat := { s.heat with capTarget := 800 } } t)) ∧
    (s.tick.fallbackNext = true → s.tick.govWrote = false → s.tick.limits = some { cap := 800 } →
      s.applyLimits.getF F.pwrStat_cap = 800 ∧ s.applyLimits.onF F.pwrStat_fallback = true ∧
      s.applyLimits.tick.fallbackNext = false ∧ sameRegs [regKey R.pwrStat 0] s s.applyLimits) ∧
    (s.tick.updatesAgo < 64 ∨ s.tick.govWrote = true ∨ s.onF F.pwrStat_fallback = true ∨ s.tick.fallbackNext = true → idles .governorSilent s)

/-! ## The ring -/

/-- The tick path and the election of the timekeeper (R328, R330): a marker new to the part is carried on with its delay raised by
the hop's and the part's own, and gives the part its edge; after three edges without a marker, an election begins; a
better candidate is taken and spread, a worse one is answered with the best known. -/
def Obligations.MarkersAndCandidatesAreCarriedOn : Prop :=
  ∀ (port : BitVec 3) (s : State),
    (∀ (tick : BitVec 32) (delay : BitVec 14) (now : Nat), s.isKeeper = false → s.ring.markerSeen ≠ some tick.toNat →
      completes (.tickMarker port tick delay now) s (fun t =>
        t.ring = { s.ring with markerSeen := some tick.toNat, missedMarkers := 0 } ∧
        (∃ own : Nat, own < 24 ∧ ∀ p ∈ s.takePorts, p ≠ port.toNat →
          Output.ctl p (s.getF F.lnkRing_keeper) (.marker tick (BitVec.ofNat 14 (delay.toNat + (s.port port.toNat).hopNs + own))) ∈ t.out) ∧
        (tick.toNat = s.getF F.tikCount_count % 2 ^ 32 → s.tick.running = true →
          t.tick = { s.tick with edgeAt := now - (delay.toNat + (s.port port.toNat).hopNs) }) ∧
        (tick.toNat ≠ s.getF F.tikCount_count % 2 ^ 32 → t.tick = s.tick) ∧ t.regs = s.regs ∧ sameMemories s t)) ∧
    (∀ (settled : Bool) (k : BitVec 10), s.isKeeper = false → 3 ≤ s.ring.missedMarkers →
      (settled = false → s.ring.electing = false → completes (.markerLoss settled k) s (fun t =>
        t.ring.electing = true ∧ t.ring.best = some ({ s with ring := { s.ring with best := none } } : State).bestCand ∧
        t.regs = s.regs ∧ t.tick = s.tick)) ∧
      (settled = true → completes (.markerLoss settled k) s (fun t =>
        t.ring.electing = false ∧ t.getF F.lnkRing_keeper = k.toNat ∧ t.isKeeper = decide (k.toNat = s.own)))) ∧
    (∀ prio coords, candNo prio.toNat coords.toNat < candNo s.bestCand.1 s.bestCand.2 →
      completes (.candidate port prio coords false none) s (fun t =>
        t.ring = { s.ring with electing := true, best := some (prio.toNat, coords.toNat) } ∧
        (∀ p ∈ s.takePorts, p ≠ port.toNat → Output.ctl p s.own (.candidate prio coords) ∈ t.out) ∧ t.regs = s.regs)) ∧
    (∀ prio coords, candNo s.bestCand.1 s.bestCand.2 < candNo prio.toNat coords.toNat →
      completes (.candidate port prio coords false none) s (fun t =>
        t.ring = { s.ring with electing := true, best := some s.bestCand } ∧
        t.out = [.ctl port.toNat s.own (.candidate (BitVec.ofNat 4 s.bestCand.1) (BitVec.ofNat 10 s.bestCand.2))] ∧ t.regs = s.regs))

/-- Ring commits (R100, R321): announcements, submissions and results are carried on; the timekeeper opens a commit 64 ticks ahead at the first request, an
announcement sets the target edge, a submission is kept, a result decides; 4 ticks before the target edge the
timekeeper decides on what it has. Said of a part with no commit of its own in flight. That a request which names the target edge moves it
on by one is the model's word for a member's replay (R90; log entry 52). A member's digest of its descriptor
of a sheaf of parts is kept, one for each part, and carried on (R60). -/
def Obligations.RingCommitsAndDigestsAreCarriedOn : Prop :=
  (∀ (port : BitVec 3) (w : RingWord) (s : State), s.commit = none →
    ((w.part.toNat, CtlWord.commit w) ∉ s.ring.seen →
      (w.phase = .announcement → s.ring.commit = none → completes (.ringCommit port w) s (fun t =>
        t.ring.commit = some { target := w.target.toNat } ∧ carries (some port.toNat) w.part.toNat (.commit w) s t ∧ t.regs = s.regs)) ∧
      (∀ (r : RingCommit) (v : Nat × Nat × Nat), w.phase = .submission → s.isKeeper = false → s.ring.commit = some r → ringValue w = some v →
        completes (.ringCommit port w) s (fun t =>
          t.ring.commit = some { r with submitted := r.submitted.filter (fun x => x.part != w.part.toNat) ++
            [{ part := w.part.toNat, code := w.code.toNat, value := v }] } ∧
          carries (some port.toNat) w.part.toNat (.commit w) s t ∧ t.regs = s.regs)) ∧
      (∀ r : RingCommit, w.phase = .result → s.ring.commit = some r → completes (.ringCommit port w) s (fun t =>
        t.ring.commit = (if w.code = 0 then some { r with result := some 0 } else none) ∧
        carries (some port.toNat) w.part.toNat (.commit w) s t ∧ t.regs = s.regs)) ∧
      (w.phase = .request → w.target = 0 → s.isKeeper = true → s.ring.commit = none → completes (.ringCommit port w) s (fun t =>
        t.ring.commit = some { target := s.getF F.tikCount_count + 64 } ∧
        tells (s.ringWord .announcement 0 (s.getF F.tikCount_count + 64) none) s t ∧ t.regs = s.regs)) ∧
      (∀ r : RingCommit, w.phase = .request → w.target ≠ 0 → s.isKeeper = true → s.ring.commit = some r → r.result = some 0 →
        r.target % 2 ^ 28 = w.target.toNat → completes (.ringCommit port w) s (fun t =>
          t.ring.commit = some { r with target := r.target + 1 } ∧
          tells (s.ringWord .announcement 0 (r.target + 1) none) s t ∧ t.regs = s.regs))) ∧
    (∀ r : RingCommit, s.isKeeper = true → s.ring.commit = some r → r.result = none → s.edgesTo r ≤ 4 →
      completes .ringCommitDeadline s (fun t =>
        t.ring.commit = (if s.ringOutcome r = 0 then some { r with result := some 0 } else none) ∧
        tells (s.ringWord .result (s.ringOutcome r) r.target none) s t ∧ t.regs = s.regs))) ∧
  (∀ (port : BitVec 3) (part : BitVec 10) (i : BitVec 12) (d : List Byte) (s : State), (part.toNat, CtlWord.digest i.toNat d) ∉ s.ring.seen →
    completes (.sheafDigest port part i d) s (fun t =>
      (part.toNat, d) ∈ (t.sheaf i.toNat).digests ∧ (∀ e ∈ (t.sheaf i.toNat).digests, e.1 = part.toNat → e.2 = d) ∧
      (∀ k, k ≠ i.toNat → t.sheaf k = s.sheaf k) ∧ carries (some port.toNat) part.toNat (.digest i.toNat d) s t ∧
      t = { s with ctl := { s.ctl with sheafs := t.ctl.sheafs }, ring := { s.ring with seen := t.ring.seen }, out := t.out }))

/-- The hop protocol (R319, R320, R323): an acknowledgement frees the replay buffer up to its envelope, a retry request has every
envelope from the one named resent, a credit word sets the free buffers of the far side. -/
def Obligations.TheReplayBufferFollowsTheHop : Prop :=
  ∀ (port : BitVec 3) (s : State),
    (∀ (seq : BitVec 16) (now k : Nat), findIdx? (fun e => e.1.seq == seq) (s.port port.toNat).replay = some k →
      (s.port port.toNat).waiting = [] →
      completes (.acknowledgement port seq now) s (fun t =>
        t.port port.toNat = { s.port port.toNat with replay := (s.port port.toNat).replay.drop (k + 1) } ∧
        (∀ p, p ≠ port.toNat → t.port p = s.port p) ∧ t = { s with ports := t.ports, out := [], now := max s.now now })) ∧
    (∀ (seq : BitVec 16) (k : Nat), findIdx? (fun e => e.1.seq == seq) (s.port port.toNat).replay = some k →
      s.portCarries port.toNat = true → (∀ e ∈ (s.port port.toNat).replay.drop k, e.2 < 7) →
      completes (.retryRequest port seq) s (fun t =>
        t.out = ((s.port port.toNat).replay.drop k).map (fun e => Output.env port.toNat e.1) ∧
        (t.port port.toNat).replay = (s.port port.toNat).replay.take k ++ ((s.port port.toNat).replay.drop k).map (fun e => (e.1, e.2 + 1)) ∧
        t.getF F.lnkErr_retries port.toNat = min (s.getF F.lnkErr_retries port.toNat + ((s.port port.toNat).replay.length - k)) 65535 ∧
        sameRegs [regKey R.lnkErr port.toNat] s t ∧ t = { s with regs := t.regs, ports := t.ports, out := t.out })) ∧
    (∀ free : BitVec 10, (s.port port.toNat).waiting = [] → completes (.credit port free) s (fun t =>
      t.port port.toNat = { s.port port.toNat with credits := free.toNat } ∧ (∀ p, p ≠ port.toNat → t.port p = s.port p) ∧
      t = { s with ports := t.ports, out := [] }))

/-- Data envelopes (R319, R322 to R324): the codewords of one that are beyond correction are counted, and the first of a run with such a
codeword or a wrong CRC is counted and asked for again; one accepted before is dropped; one in sequence for another part is
acknowledged and carried on; one in sequence with a stale sheaf epoch is acknowledged, counted and dropped. With an acknowledgement goes
a credit word, whose number the spec leaves open (log entry 52). -/
def Obligations.AnEnvelopeIsAcknowledgedOrAskedForAgain : Prop :=
  ∀ (port : BitVec 3) (e : Envelope) (bad n : Nat) (s : State),
    (bad ≠ 0 ∨ envOk e = false → (s.port port.toNat).newRun e = true →
      completes (.dataEnvelope port e bad n) s (fun t =>
        t.getF F.lnkErr_crc port.toNat = min (s.getF F.lnkErr_crc port.toNat + 1) 65535 ∧
        t.getF F.lnkFec_corrected port.toNat = min (s.getF F.lnkFec_corrected port.toNat + n) (2 ^ 32 - 1) ∧
        t.getF F.lnkFec_uncorrectable port.toNat = min (s.getF F.lnkFec_uncorrectable port.toNat + bad) (2 ^ 32 - 1) ∧
        t.port port.toNat = { s.port port.toNat with retryAsked := true, outSeq := some ((s.port port.toNat).past e) } ∧
        (∀ p, p ≠ port.toNat → t.port p = s.port p) ∧
        t.out = [.ctl port.toNat s.own (.retry (BitVec.ofNat 16 (s.port port.toNat).rxSeq))] ∧
        sameRegs [regKey R.lnkErr port.toNat, regKey R.lnkFec port.toNat] s t ∧
        t = { s with regs := t.regs, ports := t.ports, out := t.out })) ∧
    (envOk e = true → 32768 ≤ (s.port port.toNat).past e → completes (.dataEnvelope port e 0 n) s (fun t =>
      onlyRegs [regKey R.lnkFec port.toNat] s t)) ∧
    (envOk e = true → (s.port port.toNat).past e = 0 →
      (e.dstPart.toNat = s.own → ((s.sheaf e.sheaf.toNat).inUse = false ∨ (s.sheaf e.sheaf.toNat).epoch ≠ e.sheafEpoch.toNat) →
        completes (.dataEnvelope port e 0 n) s (fun t =>
          t.getF F.lnkErr_epoch port.toNat = min (s.getF F.lnkErr_epoch port.toNat + 1) 65535 ∧
          (t.port port.toNat).rxSeq = ((s.port port.toNat).rxSeq + 1) % 65536 ∧ t.cells = s.cells ∧
          (∃ free : BitVec 10, t.out = [.ctl port.toNat s.own (.ack e.seq), .ctl port.toNat s.own (.credit free)]) ∧
          sameRegs [regKey R.lnkErr port.toNat, regKey R.lnkFec port.toNat] s t)) ∧
      (e.dstPart.toNat ≠ s.own → s.portCarries (opposite port.toNat) = true → 0 < (s.port (opposite port.toNat)).credits →
        (s.port (opposite port.toNat)).replay.length < 512 →
        completes (.dataEnvelope port e 0 n) s (fun t =>
          (t.port port.toNat).rxSeq = ((s.port port.toNat).rxSeq + 1) % 65536 ∧
          Output.ctl port.toNat s.own (.ack e.seq) ∈ t.out ∧
          (∃ f : Envelope, f.payload = e.payload ∧ f.dstPart = e.dstPart ∧ Output.env (opposite port.toNat) f ∈ t.out) ∧
          (t.port (opposite port.toNat)).txSeq = ((s.port (opposite port.toNat)).txSeq + 1) % 65536 ∧ t.cells = s.cells)))

/-- Taking and leaving the ring (R328, R332 to R334): take and release words are carried on and change the parts known; a plane
that may be taken is up on both its ports once they have trained; the switches follow; a pause waits for the neighbours of a part that
releases; a release times out 1 ms into an orderly stop, 1.60 ms into a Keep entry. A part that has left one plane of a ring still shares the tick; which planes a release is for no word says
(log entry 29). -/
def Obligations.PlanesAreTakenAndReleased : Prop :=
  ∀ s : State,
    (∀ (port : BitVec 3) (part : BitVec 10) (plane : BitVec 2), (part.toNat, CtlWord.take plane) ∉ s.ring.seen → s.tick.held = false →
      completes (.take port part plane) s (fun t =>
        (part.toNat ∈ t.ring.parts ∨ part.toNat = s.own) ∧ (∀ k ∈ s.ring.parts, k ∈ t.ring.parts) ∧
        carries (some port.toNat) part.toNat (.take plane) s t ∧ t.regs = s.regs)) ∧
    (∀ (port : BitVec 3) (part : BitVec 10) (tick : BitVec 32) (planes : List (BitVec 2)), (part.toNat, CtlWord.release tick) ∉ s.ring.seen →
      completes (.release port part ⟨tick, planes⟩) s (fun t =>
        (∀ k ∈ planes, (part.toNat, k.toNat) ∈ t.ring.gone ∧ (∀ e ∈ t.ring.pauseWaits, e.plane = k.toNat → e.part ≠ part.toNat) ∧
          ∀ y ∈ (s.memberGone (planes.map BitVec.toNat) part.toNat).neighbours part.toNat k.toNat,
            { part := y, plane := k.toNat, atEdge := true } ∈ t.ring.pauseWaits) ∧
        (part.toNat ∈ t.ring.parts → t.absent part.toNat = false) ∧
        (∀ k, k ≠ part.toNat → (k ∈ t.ring.parts ↔ k ∈ s.ring.parts)) ∧ (s.isKeeper = true → t.ring.pauseNext = true) ∧
        carries (some port.toNat) part.toNat (.release tick) s t)) ∧
    (∀ (plane : BitVec 2) (e w : BitVec 10) (he hw : BitVec 14) (en wn : Nat), s.mayTake plane.toNat = true →
      s.bypassedTo (2 * plane.toNat) e.toNat ≤ 2 → s.bypassedTo (2 * plane.toNat + 1) w.toNat ≤ 2 →
      completes (.ringTake plane ⟨.full e he, en⟩ ⟨.full w hw, wn⟩) s (fun t =>
        t.getF F.lnkTrain_dur (2 * plane.toNat) = min (en / 10000) 4095 ∧ t.getF F.lnkTrain_dur (2 * plane.toNat + 1) = min (wn / 10000) 4095 ∧
        t.lnk (2 * plane.toNat) = lnkFull ∧ t.lnk (2 * plane.toNat + 1) = lnkFull ∧
        t.onF F.lnkStat_take (2 * plane.toNat) = true ∧ t.onF F.lnkStat_take (2 * plane.toNat + 1) = true ∧
        t.getF F.lnkStat_peer (2 * plane.toNat) = e.toNat ∧ t.getF F.lnkStat_peer (2 * plane.toNat + 1) = w.toNat ∧
        plane.toNat ∈ t.heldPlanes)) ∧
    (∀ plane : BitVec 2, completes (.bypassSwitched plane) s (fun t =>
      (∀ i, i < 4 → t.ring.bypassOpen.getD i false =
        if i = plane.toNat then s.heldPlanes.contains i else s.ring.bypassOpen.getD i false) ∧
      t = { s with ring := { s.ring with bypassOpen := t.ring.bypassOpen }, out := [] })) ∧
    (∀ now : Nat, s.getF F.pwrStat_state = 1 ∨ s.getF F.pwrStat_state = 2 →
      (s.start.stopAt + 1000000 ≤ now → completes (.ringReleaseTimeout now) s (fun t =>
        t.heldPlanes = [] ∧ t.isKeeper = true ∧ t.getF F.lnkRing_keeper = s.own)) ∧
      (now < s.start.stopAt + 1000000 → idlesAt (.ringReleaseTimeout now) now s)) ∧
    (∀ now t0 : Nat, s.getF F.pwrStat_state = 3 → s.keep.entryAt = some t0 →
      (t0 + 1600000 ≤ now → completes (.ringReleaseTimeout now) s (fun t =>
        t.heldPlanes = [] ∧ t.isKeeper = true ∧ t.getF F.lnkRing_keeper = s.own)) ∧
      (now < t0 + 1600000 → idlesAt (.ringReleaseTimeout now) now s)) ∧
    (∀ now : Nat, s.getF F.pwrStat_state = 0 → idlesAt (.ringReleaseTimeout now) now s)

/-- The words of control envelopes (R320, R321, Table 11.3): what this part sends, in any order and number, is read back word for word with
its originating part, for every control word that has a form in Table 11.3. -/
def Obligations.ControlWordsAreReadBack : Prop :=
  ∀ ws : List (BitVec 10 × CtlWord), (∀ e ∈ ws, e.2.worded e.1 = true) →
    readWords (ws.flatMap (fun e => e.2.bits e.1.toNat)) = ws.map (fun e => (e.1.toNat, e.2))

/-- Resets, retrains and losses of ports (R323, R334 to R336, R340 to R343): a retrain that a port has asked for, or that its peer asks for,
ends with the port up or down, while no other port retrains and, outside a pause, its like on the sibling plane is not down; a ring whose collectives have been late for 16 ticks raises the period by the timekeeper. -/
def Obligations.PortsGoDownAndRetrain : Prop :=
  (∀ (by_ : Requester) (p : Nat) (s : State), s.writes by_ R.lnkCtl.off = true → p = s.sel by_ F.lnkSel_port →
    (s.heldPlanes.contains (portPlane p) = false → completes (.linkReset by_ true) s (fun t =>
      t.onF F.lnkCtl_reset p = true ∧ t.lnk (2 * portPlane p) = lnkReset ∧ t.lnk (2 * portPlane p + 1) = lnkReset ∧
      sameRegs [regKey R.lnkCtl p, regKey R.lnkStat (2 * portPlane p), regKey R.lnkStat (2 * portPlane p + 1)] s t)) ∧
    (s.heldPlanes.contains (portPlane p) = true → s.ring.releasing.contains (portPlane p) = false →
      completes (.linkReset by_ true) s (fun t =>
        t.onF F.lnkCtl_reset p = true ∧ portPlane p ∈ t.ring.releasing ∧ sameRegs [regKey R.lnkCtl p] s t)) ∧
    (s.heldPlanes.contains (portPlane p) = false → s.onF F.lnkCtl_reset (opposite p) = false → completes (.linkReset by_ false) s (fun t =>
      t.onF F.lnkCtl_reset p = false ∧ t.lnk (2 * portPlane p) = lnkUntrained ∧ t.lnk (2 * portPlane p + 1) = lnkUntrained)) ∧
    completes (.linkRetrainRequest by_) s (fun t =>
      t.onF F.lnkCtl_retrain p = true ∧ (s.portUp p = true ∨ s.lnk p = lnkDown → t.onF F.lnkTrain_pending p = true) ∧
      onlyRegs [regKey R.lnkCtl p, regKey R.lnkTrain p] s t)) ∧
  (∀ (port : BitVec 3) (s : State),
    (s.portUp port.toNat = true → completes (.portDown port) s (fun t =>
      t.lnk port.toNat = lnkDown ∧ t.getF F.lnkErr_down port.toNat = min (s.getF F.lnkErr_down port.toNat + 1) 65535 ∧
      t.onF F.lnkTrain_pending port.toNat = true ∧ (t.port port.toNat).replay = [] ∧ (t.port port.toNat).waiting = [])) ∧
    (s.portUp port.toNat = false → idles (.portDown port) s) ∧
    (∀ n : Nat, s.getF F.lnkCfg_ser_limit < n → s.portUp port.toNat = true → completes (.serLimit port n) s (fun t =>
      t.onF F.lnkTrain_pending port.toNat = true ∧ onlyRegs [regKey R.lnkTrain port.toNat] s t)) ∧
    (∀ n : Nat, n ≤ s.getF F.lnkCfg_ser_limit → idles (.serLimit port n) s) ∧
    (∀ (d : Nat) (o : TrainOutcome), (s.port port.toNat).retraining = false →
      (s.portUp port.toNat = false ∧ s.lnk port.toNat ≠ lnkDown) ∨ s.mayJoin port.toNat = false → idles (.portRetrainDone port o d) s) ∧
    (∀ d : Nat, (s.port port.toNat).retraining = true ∨
        (s.lnk port.toNat = lnkDown ∨ s.portUp port.toNat = true) ∧ s.mayJoin port.toNat = true →
      completes (.portRetrainDone port .failed d) s (fun t =>
        t.lnk port.toNat = lnkDown ∧ (t.port port.toNat).failedTrains = (s.port port.toNat).failedTrains + 1 ∧
        t.getF F.lnkTrain_dur port.toNat = min (d / 10000) 4095 ∧
        t.onF F.lnkTrain_pending port.toNat = decide ((s.port port.toNat).failedTrains < 2)) ∧
      ∀ (e : BitVec 10) (h : BitVec 14), s.bypassedTo port.toNat e.toNat ≤ 2 → completes (.portRetrainDone port (.full e h) d) s (fun t =>
        t.lnk port.toNat = lnkFull ∧ t.onF F.lnkStat_take port.toNat = s.onF F.lnkStat_take port.toNat ∧
        t.getF F.lnkStat_peer port.toNat = e.toNat ∧
        t.getF F.lnkTrain_dur port.toNat = min (d / 10000) 4095 ∧ (t.port port.toNat).failedTrains = 0))) ∧
  (∀ (ring : RingId) (s : State),
    (∀ (l : LossReport) (now : Nat), s.tick.windowOpen = false → completes (.suddenLoss ring l now) s (fun t =>
      (∀ j ∈ l.jobs, (s.prog j.toNat).state = .active → (t.prog j.toNat).invalid = true) ∧
      (∀ k ∈ l.parts, ∀ i, i < 2 → (k.toNat, 2 * ringOf ring + i) ∈ t.ring.gone) ∧
      (∀ k ∈ l.ends, k ∉ l.parts → ∀ i, i < 2 → { part := k.toNat, plane := 2 * ringOf ring + i } ∈ t.ring.pauseWaits) ∧
      (s.isKeeper = true → t.ring.pauseNext = true))) ∧
    (completes (.ringBroken ring) s (fun t =>
      t.onF (if ring = .row then F.lnkRing_row_broken else F.lnkRing_column_broken) = true ∧
      (s.tick.held = true → t.ring.pauseEnds = true) ∧ (s.tick.held = false → afterEvents [regKey R.lnkRing 0] s t))) ∧
    (∀ late worst us n : Nat, worst = max late (maxList (s.ring.lateLog.getD (ringOf ring) [])) → us = max 1 (ceilDiv worst 1000) →
      n = 1 + bit s.replayDue → s.isKeeper = true → s.slowHop ring = true → worst ≠ 0 →
      s.ringStages (ringOf ring) = [] ∨ 16 ≤ (s.ring.lateLog.getD (ringOf ring) []).length → s.getF F.tikPeriod_us + us ≤ 1000 →
      completes (.ringSlowRaise ring late) s (fun t =>
        t.autos = s.autos ++ [.raise n none us false] ∧
        tells (s.raiseWord us (some (s.getF F.tikCount_count + n))) s t ∧ t.regs = s.regs ∧ t.tick = s.tick)) ∧
    (∀ late : Nat, s.isKeeper = false ∨ s.slowHop ring = false ∨ max late (maxList (s.ring.lateLog.getD (ringOf ring) [])) = 0 ∨
        (s.ringStages (ringOf ring) ≠ [] ∧ (s.ring.lateLog.getD (ringOf ring) []).length < 16) →
      idles (.ringSlowRaise ring late) s))

/-! ## Die-to-die links -/

/-- In each direction of a link a flit in sequence whose CRC-32C over its 256 bytes is right is accepted, one accepted before within the retry
window is dropped, and the first of a run of bad or missing ones has the flit that is due asked for again; a flit that comes a second time
counts as a retry (R323, R345); a lane whose parity errors in a window exceed the limit takes a spare in the next window while
one is free (R346, R347); a flit asked for again 16 times ends its transfer with an error response (R345). -/
def Obligations.FlitsAndLanesOfALink : Prop :=
  ∀ (link : BitVec 3) (s : State),
    (∀ (seq : BitVec 16) (crc : BitVec 32) (p : ParityErrs) (payload : List Byte) (x : Link) (d : LinkDir) (next : Nat),
      s.getF F.d2dStat_state link.toNat = 1 →
      x = ((s.at_ p.now).countParity link.toNat p.lanes (max s.now p.now)).link link.toNat →
      d = (s.link link.toNat).dir p.back → next = (if d.seen seq.toNat then d.next else (seq.toNat + 1) % 65536) →
      (payload.length = 256 → crc = crc32c 0 payload → d.past seq.toNat = 0 →
        completes (.d2dFlit link seq crc p payload) s (fun t =>
          t.link link.toNat = x.put p.back { seq := (d.seq + 1) % 65536, next := next } ∧ t.out = [] ∧ flitCame link.toNat (d.seen seq.toNat) p.now s t)) ∧
      (payload.length = 256 → crc = crc32c 0 payload → d.past seq.toNat ≠ 0 → 65536 - s.flitWindow link.toNat ≤ d.past seq.toNat →
        completes (.d2dFlit link seq crc p payload) s (fun t =>
          t.link link.toNat = x ∧ t.out = [] ∧ flitCame link.toNat (d.seen seq.toNat) p.now s t)) ∧
      (payload.length ≠ 256 ∨ crc ≠ crc32c 0 payload ∨ (d.past seq.toNat ≠ 0 ∧ d.past seq.toNat < 65536 - s.flitWindow link.toNat) →
        completes (.d2dFlit link seq crc p payload) s (fun t =>
          t.link link.toNat = x.put p.back { d with
            next := next, retryAsked := true, outSeq := some (d.past seq.toNat), resends := d.resends + bit (d.newRun seq.toNat) } ∧
          t.out = (if d.newRun seq.toNat then [.d2dRetry link.toNat p.back (d.seq % 65536)] else []) ∧
          flitCame link.toNat (d.seen seq.toNat) p.now s t))) ∧
    (∀ (seq : BitVec 16) (r : Reader),
      (∀ b : Bool, (s.link link.toNat).spent seq.toNat = some b → completes (.d2dResendLimit link seq r) s (fun t =>
        (t.link link.toNat).dir b = { seq := (seq.toNat + 1) % 65536, next := ((s.link link.toNat).dir b).next } ∧
        (t.link link.toNat).dir (!b) = (s.link link.toNat).dir (!b) ∧ t.out = [.memResp r 3 []] ∧
        ∀ c : BitVec 10, r = .cell c → s.tick.windowOpen = false → ∀ e, s.stageOf c.toNat = some e → (t.prog e.1).invalid = true)) ∧
      ((s.link link.toNat).spent seq.toNat = none → idles (.d2dResendLimit link seq r) s)) ∧
    (∀ lane : Nat, lane < dataLanes link.toNat → s.ready = true →
      (lane ∉ (s.link link.toNat).toSpare → lane ∉ (s.link link.toNat).failed →
        s.laneLimit link.toNat < tget 0 (s.link link.toNat).parity lane →
        s.getF F.d2dStat_spares link.toNat + (s.link link.toNat).toSpare.length < spareLanes link.toNat →
        completes (.d2dLaneFailed link lane) s (fun t =>
          t.link link.toNat = { s.link link.toNat with toSpare := (s.link link.toNat).toSpare ++ [lane] } ∧
          t.getF F.d2dErr_lanes link.toNat = min (s.getF F.d2dErr_lanes link.toNat + 1) 65535 ∧
          sameRegs [regKey R.d2dErr link.toNat] s t ∧ t = { s with regs := t.regs, links := t.links, out := [] })) ∧
      (tget 0 (s.link link.toNat).parity lane ≤ s.laneLimit link.toNat → idles (.d2dLaneFailed link lane) s))

/-- A link in reset is untrained, its wrapper answers, and nothing waits across it any more (R350); test mode takes effect where no loaded program uses a tower of the
link (R352); two capability words that share a protocol version train the link at the highest they share (R351), but in recovery none trains
(R447). -/
def Obligations.LinksTrainAndReset : Prop :=
  (∀ (by_ : Requester) (l : Nat) (s : State), s.writes by_ R.d2dCtl.off = true → l = s.sel by_ F.d2dSel_link →
    (∀ on : Bool, s.onF F.d2dCtl_reset l = !on → s.getF F.d2dStat_state l ≠ 2 → completes (.d2dReset by_ on) s (fun t =>
      t.onF F.d2dCtl_reset l = on ∧ t.getF F.d2dStat_state l = 0 ∧ t.getF F.d2dStat_proto l = 0 ∧ t.onF F.d2dStat_wrapper l = true ∧
      (t.link l).forth = {} ∧ (t.link l).back = {} ∧ (∀ a ∈ t.accWait, l ∉ s.linksTo ((readerCell a.reader).map cellTower) a.addr a.bytes) ∧
      ((∀ a ∈ s.accWait, l ∉ s.linksTo ((readerCell a.reader).map cellTower) a.addr a.bytes) → s.rowsAcross l = [] →
        sameRegs [regKey R.d2dCtl l, regKey R.d2dStat l] s t))) ∧
    (∀ test loop : Bool, completes (.d2dTest by_ test loop) s (fun t =>
      t.onF F.d2dCtl_test l = test ∧ t.onF F.d2dCtl_loop l = loop ∧
      t.onF F.d2dStat_test l = (if test && s.linkBusy l then s.onF F.d2dStat_test l else test) ∧
      onlyRegs [regKey R.d2dCtl l, regKey R.d2dStat l] s t))) ∧
  (∀ (link : BitVec 3) (near far : Word) (s : State), s.getF F.d2dStat_state link.toNat ≠ 2 → s.onF F.d2dCtl_reset link.toNat = false →
    (s.getF F.stdBoot_stage = 8 → idles (.d2dCapabilityWord link near far) s) ∧
    (s.getF F.stdBoot_stage ≠ 8 → max (fieldGet near 16 4) (fieldGet far 16 4) ≤ min (fieldGet near 20 4) (fieldGet far 20 4) →
    completes (.d2dCapabilityWord link near far) s (fun t =>
      t.getF F.d2dStat_state link.toNat = 1 ∧ t.getF F.d2dStat_proto link.toNat = min (fieldGet near 20 4) (fieldGet far 20 4) ∧
      t.onF F.d2dStat_wrapper link.toNat = false ∧ t.getF F.d2dStat_rev_near link.toNat = s.getF F.d2dStat_rev_near link.toNat ∧
      t.getF F.d2dStat_rev_far link.toNat = fieldGet far 8 8 ∧ (t.link link.toNat).forth = {} ∧ (t.link link.toNat).back = {} ∧
      sameRegs [regKey R.d2dStat link.toNat] s t)))

/-! ## Rows on the mesh -/

/-- A row that reaches a stage which cannot run yet is kept and counted; one whose stream is not live is dropped and counted; a lost
producer, or one whose row meets an isolation wrapper on its way (R350), ends its consumer's work and invalidates the tick (R135, R137, R143,
R235, Table 4.10); every producer-lost mark is counted (R169). -/
def Obligations.RowsAreKeptDroppedOrLost : Prop :=
  ∀ (c : BitVec 10) (j : Nat) (g : Stage) (s : State), s.stageOf c.toNat = some (j, g) → s.tick.windowOpen = false →
    (∀ (r : MeshRow) (now : Nat), (s.cell c.toNat).inReset = false → s.rowBlocked c.toNat r = none →
      (s.staleRow r = false → (s.cell c.toNat).stopped = false → (s.cell c.toNat).finished = none →
        (∀ d ∈ c.toNat :: s.served c.toNat, s.works d = false) → completes (.meshRow c ⟨r, now⟩) s (fun t =>
          t.cell c.toNat = { s.cell c.toNat with
            rowsIn := (s.cell c.toNat).rowsIn ++ [r]
            idleAt := if (s.cell c.toNat).started.isNone && (s.cell c.toNat).rowsIn.isEmpty then max s.now now else (s.cell c.toNat).idleAt } ∧
          (∀ d, d ≠ c.toNat → t.cell d = s.cell d) ∧
          t.getF F.celStat_rows_in c.toNat = min (s.getF F.celStat_rows_in c.toNat + 1) 65535 ∧
          sameRegs [regKey R.celStat c.toNat, regKey R.mxcStat c.toNat] s t ∧
          t = { s with regs := t.regs, cells := t.cells, out := [], now := max s.now now })) ∧
      (s.staleRow r = true → completes (.meshRow c ⟨r, now⟩) s (fun t =>
        t.getF F.celMesh_epoch_drop c.toNat = min (s.getF F.celMesh_epoch_drop c.toNat + 1) (2 ^ 32 - 1) ∧ t.cells = s.cells ∧
        t = { s with regs := t.regs, out := [], now := max s.now now }))) ∧
    (∀ (r : MeshRow) (now l : Nat), s.rowBlocked c.toNat r = some l → (s.cell c.toNat).job.isSome = true →
      completes (.meshRow c ⟨r, now⟩) s (fun t =>
        (t.prog j).invalid = true ∧ (t.cell c.toNat).rowsIn = [] ∧ r.hdr.src.toNat ∈ (t.cell c.toNat).lost ∧
        t.getF F.d2dErr_wrapper l = min (s.getF F.d2dErr_wrapper l + 1) 65535 ∧ sameMemories s t)) ∧
    (∀ p : BitVec 10, (s.cell c.toNat).job = none → completes (.producerLost c p) s (fun t =>
      t.getF F.celMesh_lost c.toNat = min (s.getF F.celMesh_lost c.toNat + 1) (2 ^ 32 - 1) ∧ onlyRegs [regKey R.celMesh c.toNat] s t)) ∧
    (∀ p : BitVec 10, (s.cell c.toNat).job.isSome = true → completes (.producerLost c p) s (fun t =>
      (t.prog j).invalid = true ∧ (t.cell c.toNat).rowsIn = [] ∧ (t.cell c.toNat).rowsOut = [] ∧ p.toNat ∈ (t.cell c.toNat).lost ∧
      (∀ d, d ≠ c.toNat → t.cell d = s.cell d) ∧
      t.getF F.celMesh_lost c.toNat = min (s.getF F.celMesh_lost c.toNat + 1) (2 ^ 32 - 1) ∧ sameMemories s t))

/-! ## Memory -/

/-- An access that meets no error and waits for nothing reads or writes the bytes at its device address and is answered with status
0 (R239, R242, R247, R295); with no error met in its check bits, an access to a cell's SRAM changes nothing, and
one corrected bit in a cell's SRAM is counted (R298). -/
def Obligations.AccessesReadAndWriteDeviceMemory : Prop :=
  ∀ (r : Reader) (now : Nat) (s : State),
    (∀ a : BitVec 48, isPhys a.toNat = true →
      (∀ n : Nat, s.mustWait { reader := r, addr := a.toNat, len := n, since := now, no := s.arrivals } = false → s.addrError a.toNat n = false →
        s.accessErr { reader := r, addr := a.toNat } n = false → (∀ w ∈ s.wordsTouched a.toNat n, s.wordErr w = 0) →
        completes (.memoryAccess r (.device a) n none [] now) s (fun t =>
          t.out = [.memResp r 0 (mread s.devMem a.toNat n)] ∧ sameMemories s t ∧ t.ctl = s.ctl ∧ t.cells = s.cells)) ∧
      (∀ (bs : List Byte) (n : Nat), s.mustWait { reader := r, addr := a.toNat, len := bs.length, write := some bs, since := now, no := s.arrivals } = false →
        s.addrError a.toNat bs.length = false → s.accessErr { reader := r, addr := a.toNat } bs.length = false →
        (∀ w ∈ s.wordsTouched a.toNat bs.length, s.wordErr w = 0) →
        completes (.memoryAccess r (.device a) n (some bs) [] now) s (fun t =>
          t.out = [.memResp r 0 []] ∧ (∀ (i : Nat) (h : i < bs.length), mget t.devMem (a.toNat + i) = bs[i]) ∧
          (∀ b : Nat, b < a.toNat ∨ a.toNat + bs.length ≤ b → mget t.devMem b = mget s.devMem b) ∧
          t.hostMem = s.hostMem ∧ t.ctl = s.ctl ∧ t.cells = s.cells))) ∧
    (∀ (c : BitVec 10) (w n : Nat) (wr : Option (List Byte)), completes (.memoryAccess r (.cellSram c w) n wr [] now) s (fun t =>
      t = { s with out := [], now := max s.now now })) ∧
    (∀ (c : BitVec 10) (w n : Nat) (b : BitVec 7), s.getF F.celBkt_level c.toNat + 1 < s.thresh →
      completes (.memoryAccess r (.cellSram c w) n none [{ word := w, fault := .single b }] now) s (fun t =>
        t.getF F.celBkt_level c.toNat = s.getF F.celBkt_level c.toNat + 1 ∧
        t.getF F.celBkt_corrected c.toNat = min (s.getF F.celBkt_corrected c.toNat + 1) (2 ^ 32 - 1) ∧
        onlyRegsAt now [regKey R.celBkt c.toNat] s t))

/-- Refreshes fall due, are owed by a busy bank, and a ninth is forced, but never while a flail operation runs in the bank (R252, R288); a leak lowers every bucket's level by one (R298). -/
def Obligations.RefreshesAreOwedAndBucketsLeak : Prop :=
  ∀ s : State,
    (∀ (ch : BitVec 10) (b : Nat), b < 192 → (s.chan ch.toNat).selfRefresh = false → (s.stackSt (stackOf ch.toNat)).stopped = false →
      (tget 0 (s.chan ch.toNat).owed b < 8 → completes (.bankRefresh ch b true) s (fun t =>
        t.chan ch.toNat = { s.chan ch.toNat with owed := (t.chan ch.toNat).owed } ∧
        (∀ k, tget 0 (t.chan ch.toNat).owed k = if k = b then tget 0 (s.chan ch.toNat).owed b + 1 else tget 0 (s.chan ch.toNat).owed k) ∧
        (∀ d, d ≠ ch.toNat → t.chan d = s.chan d) ∧ sameRegs [regKey R.vccStat ch.toNat] s t ∧
        t = { s with regs := t.regs, chans := t.chans, out := [] })) ∧
      (8 ≤ tget 0 (s.chan ch.toNat).owed b → (∀ f ∈ (s.chan ch.toNat).flails, f.running = true → b ∉ f.banks) →
        completes (.bankRefresh ch b true) s (fun t =>
          t.getF F.vccErr_forced ch.toNat = min (s.getF F.vccErr_forced ch.toNat + 1) 65535 ∧ onlyRegs [regKey R.vccErr ch.toNat] s t)) ∧
      ((∃ f ∈ (s.chan ch.toNat).flails, f.running = true ∧ b ∈ f.banks) → ∀ busy : Bool, completes (.bankRefresh ch b busy) s (fun t =>
        tget 0 (t.chan ch.toNat).owed b = min 15 (tget 0 (s.chan ch.toNat).owed b + 1) ∧ (∀ d, d ≠ ch.toNat → t.chan d = s.chan d) ∧
        sameRegs [regKey R.vccStat ch.toNat] s t)) ∧
      (s.flailAhead ch.toNat b = false → (∀ f ∈ (s.chan ch.toNat).flails, f.running = true → b ∉ f.banks) →
        idles (.bankRefresh ch b false) s)) ∧
    completes .bucketLeak s (fun t =>
      (∀ k ∈ allBuckets, t.getF k.level k.index = s.getF k.level k.index - 1) ∧
      (∀ k ∈ t.fullBuckets, k ∈ s.fullBuckets) ∧ t = { s with regs := t.regs, fullBuckets := t.fullBuckets, out := [] })

/-- Training and holds (R257 to R260): a retrain is asked for once by the interval or a change of temperature, and urgently by software;
its end shows how long it took, and returns a held channel to service; a hold that lasts the guard amount leaves the
channel to be retired. -/
def Obligations.ChannelsRetrain : Prop :=
  (∀ (ch : BitVec 10) (s : State), s.chanState ch.toNat ≠ vccRetired →
    (∀ now : Nat, (s.chan ch.toNat).want = false →
      (s.chan ch.toNat).lastTrainAt + s.getF F.vccRetrain_interval_ms * 1000000 ≤ now ∨
        (∃ e ∈ (s.loftTemps ch.toNat).zip (s.chan ch.toNat).lastTemps, 16 * s.getF F.vccRetrain_delta_c ≤ (e.1 - e.2).natAbs) →
      completes (.scheduledRetrain ch now) s (fun t =>
        t.chan ch.toNat = { s.chan ch.toNat with want := true } ∧ t.onF F.vccTrain_pending ch.toNat = true ∧
        (∀ d, d ≠ ch.toNat → t.chan d = s.chan d) ∧ sameRegs [regKey R.vccTrain ch.toNat] s t ∧
        t = { s with regs := t.regs, chans := t.chans, out := [], now := max s.now now })) ∧
    (∀ now : Nat, (s.chan ch.toNat).want = true ∨ s.retrainDue ch.toNat now = false → idlesAt (.scheduledRetrain ch now) now s) ∧
    (∀ (now t0 : Nat), (s.chan ch.toNat).retrainStart = some t0 →
      (s.chanState ch.toNat ≠ vccHeld ∨ nothingWaits s) →
      completes (.channelRetrainDone ch [] now) s (fun t =>
        (t.chan ch.toNat).retrainStart = none ∧ (t.chan ch.toNat).heldSince = none ∧
        t.getF F.vccTrain_dur ch.toNat = min ((now - t0) / 100) 4095 ∧
        t.getF F.vccTrain_edge ch.toNat = s.getF F.tikCount_count % 2 ^ 32 ∧
        t.getF F.vccTrain_count ch.toNat = min (s.getF F.vccTrain_count ch.toNat + 1) 65535 ∧
        (s.chanState ch.toNat = vccHeld → t.chanState ch.toNat = s.servingState ch.toNat) ∧
        (s.chanState ch.toNat ≠ vccHeld → t.chanState ch.toNat = s.chanState ch.toNat) ∧
        sameRegs [regKey R.vccTrain ch.toNat, regKey R.vccCtl ch.toNat, regKey R.vccStat ch.toNat] s t ∧ sameMemories s t)) ∧
    (∀ now t0 : Nat, (s.chan ch.toNat).heldSince = some t0 →
      (s.chanState ch.toNat = vccHeld → t0 + s.guardNs ≤ now → nothingWaitsAt ch.toNat s →
        completes (.channelHoldTimeout ch now) s (fun t =>
          t.chan ch.toNat = { s.chan ch.toNat with retrainStart := none, heldSince := none, retirePending := some 2 } ∧
          (∀ d, d ≠ ch.toNat → t.chan d = s.chan d) ∧ t = { s with chans := t.chans, out := [], now := max s.now now })) ∧
      (s.chanState ch.toNat ≠ vccHeld ∨ now < t0 + s.guardNs → idlesAt (.channelHoldTimeout ch now) now s))) ∧
  (∀ (by_ : Requester) (c : Nat) (s : State), s.writes by_ R.vccCtl.off = true → c = s.sel by_ F.vccSel_channel →
    (s.chanState c ≠ vccRetired → completes (.channelRetrainRequest by_) s (fun t =>
      t.onF F.vccCtl_retrain c = true ∧ t.onF F.vccTrain_pending c = true ∧ t.onF F.vccTrain_urgent c = true ∧
      t.chan c = { s.chan c with want := true, wantUrgent := true } ∧ sameRegs [regKey R.vccCtl c, regKey R.vccTrain c] s t)) ∧
    (s.chanState c = vccRetired → idles (.channelRetrainRequest by_) s))

/-- A controller reset ends what its channel does and leaves it in reset; cleared, the channel serves again and trains (R268); a
failed wire takes a spare bond while one is left (R263); a margin sweep starts on a channel in service and is refused on one
that is held, narrowed or retired (R261). -/
def Obligations.ChannelsFailAndReset : Prop :=
  (∀ (by_ : Requester) (c : Nat) (s : State), s.writes by_ R.vccCtl.off = true → c = s.sel by_ F.vccSel_channel →
    s.chanState c ≠ vccRetired →
    (s.onF F.vccCtl_reset c = false → completes (.channelReset by_ true) s (fun t =>
      t.onF F.vccCtl_reset c = true ∧ t.chanState c = vccInReset ∧ (t.chan c).flails = [] ∧
      (t.chan c).retrainStart = none ∧ (t.chan c).selfRefresh = true ∧ (nothingWaitsAt c s → t.accWait = s.accWait ∧ t.hostMem = s.hostMem))) ∧
    (s.onF F.vccCtl_reset c = true → completes (.channelReset by_ false) s (fun t =>
      t.onF F.vccCtl_reset c = false ∧ t.chanState c = s.servingState c ∧
      t.chan c = { s.chan c with selfRefresh := false, retrainStart := some s.now, want := false, wantUrgent := false, waited := 0 } ∧
      t.onF F.vccTrain_pending c = false ∧ t.onF F.vccTrain_urgent c = false ∧ sameMemories s t))) ∧
  (∀ (by_ : Requester) (c : Nat) (m : Bool) (w : BitVec 9) (s : State), s.writes by_ R.vccMargin.off = true →
    c = s.sel by_ F.vccSel_channel →
    (s.onF F.vccMargin_req c = false → s.chanState c = vccInService → completes (.marginRequest by_ m w) s (fun t =>
      t.onF F.vccMargin_req c = true ∧ t.getF F.vccMargin_status c = 1 ∧ t.onF F.vccMargin_mode c = m ∧
      t.getF F.vccMargin_bit c = w.toNat ∧ (t.chan c).marginStep = 0 ∧ sameRegs [regKey R.vccMargin c] s t)) ∧
    (s.onF F.vccMargin_req c = true ∨ s.chanState c = vccHeld ∨ s.chanState c = vccNarrowed ∨ s.chanState c = vccRetired →
      completes (.marginRequest by_ m w) s (fun t => t.getF F.vccMargin_status c = 3 ∧ onlyRegs [regKey R.vccMargin c] s t))) ∧
  (∀ (ch : BitVec 10) (w : BitVec 9) (s : State), w.toNat < 288 ∨ (304 ≤ w.toNat ∧ w.toNat < 344) → s.chanState ch.toNat ≠ vccRetired →
    0 < (s.chan ch.toNat).sparesLeft → s.ready = true → completes (.wireFailed ch w) s (fun t =>
      (t.chan ch.toNat).newBonds = (s.chan ch.toNat).newBonds ++ [w.toNat] ∧
      t.getF F.vccErr_wires ch.toNat = min (s.getF F.vccErr_wires ch.toNat + 1) 65535 ∧
      (∀ d, d ≠ ch.toNat → t.chan d = s.chan d) ∧ sameRegs [regKey R.vccErr ch.toNat] s t ∧
      t = { s with regs := t.regs, chans := t.chans, out := [] }))

/-! ## Sensors and throttles -/

/-- Readings are shown as they come, and the rails' voltages of a round kept (R474, R475); a suspect sensor that has agreed with the model for 100 rounds returns to use, and no
sooner (R477). -/
def Obligations.ReadingsAreShown : Prop :=
  ∀ (rs : List Reading) (now : Nat) (s : State), (rs.map (fun r => r.sensor)).Nodup →
    (∀ rails : List (Rail × Nat), (∀ r ∈ rs, r.sensor < 2640) → completes (.housekeepingRound ⟨rs, rails⟩ now) s (fun t =>
      (∀ r ∈ rs, t.getF F.thmSens_reading r.sensor = (BitVec.ofInt 16 r.value).toNat) ∧
      t.heat.railMv = rails ++ s.heat.railMv.filter (fun e => !rails.any (fun x => x.1 == e.1)))) ∧
    ((∀ r ∈ rs, 2576 ≤ r.sensor ∧ r.sensor < 2640) → ∀ reach : Nat, completes (.sentinelReading rs none reach now) s (fun t =>
      (∀ r ∈ rs, t.getF F.thmSens_reading r.sensor = (BitVec.ofInt 16 r.value).toNat) ∧
      sameRegs (rs.map (fun r => regKey R.thmSens r.sensor)) s t ∧ sameMemories s t)) ∧
    (∀ i : Nat, i < 2640 → s.onF F.thmSens_suspect i = true →
      (100 ≤ (tget {} s.sensors i).agree → completes (.sensorReturn i) s (fun t =>
        t.onF F.thmSens_suspect i = false ∧ t.getF F.thmSens_reading i = s.getF F.thmSens_reading i ∧
        sameRegs [regKey R.thmSens i] s t ∧ t = { s with regs := t.regs, sensors := t.sensors, out := [] })) ∧
      ((tget {} s.sensors i).agree < 100 → idles (.sensorReturn i) s))

/-! ## Flails -/

/-- A flail command finds its bank free and runs (R275, R286, R287); a stage's SCORE of a record that begins in the row before waits for
the FRAG of its first part (R277); a command on the port takes the words of the port registers, in a maintenance window whose rest can
hold it and once nothing keeps its banks or its data (R286 to R288, R292). -/
def Obligations.FlailCommandsReachTheirBank : Prop :=
  ∀ (ch : BitVec 10) (w : FlailWords) (op : Nat) (s : State), w.ok (BitVec.ofNat 4 op) = true → s.flailsWork ch.toNat = true →
    (∀ a ∈ s.accWait, ∀ r ∈ s.localRanges a.addr a.bytes, r.1 ≠ ch.toNat) →
    (∀ b ∈ flailBanks ch.toNat op w, tget 0 (s.chan ch.toNat).owed b < 8) →
    (∀ g ∈ (s.chan ch.toNat).flails, g.running = true ∧
      FlailCmd.after { op := op, bank := fwBankNo w, words := w, banks := flailBanks ch.toNat op w } g = false) →
    (s.stackSt (stackOf ch.toNat)).hotHold = false →
    (∀ (c : Instr) (data : List Byte),
      (c = .loadq ch w data true ∧ op = 1 ∨ c = .score ch w [] true ∧ op = 2 ∧ data = [] ∨ c = .scrub ch w [] true ∧ op = 5 ∧ data = [] ∨
        c = .frag ch w data ∧ op = 6) →
      (op ≠ 2 ∨ splitPart ch.toNat w = none ∨ tget [] (s.chan ch.toNat).frags (fwBankNo w) ≠ [] → completes c s (fun t =>
        (∃ f ∈ (t.chan ch.toNat).flails, f.op = op ∧ f.bank = fwBankNo w ∧ f.words = w ∧ f.data = data ∧ f.port = false ∧ f.running = true) ∧
        (t.chan ch.toNat).flails.length = (s.chan ch.toNat).flails.length + 1 ∧ (∀ d, d ≠ ch.toNat → t.chan d = s.chan d) ∧
        sameRegs [regKey R.fllStat ch.toNat] s t ∧ sameMemories s t)) ∧
      (∀ p, op = 2 → splitPart ch.toNat w = some p → (s.chan ch.toNat).hasFrag (fwBankNo w) = false → completes c s (fun t =>
        (∃ f ∈ (t.chan ch.toNat).flails, f.op = 6 ∧ f.bank = fwBankNo w ∧ f.src = some p) ∧
        (∃ f ∈ (t.chan ch.toNat).flails, f.op = 2 ∧ f.bank = fwBankNo w ∧ f.words = w ∧ f.running = false) ∧
        (t.chan ch.toNat).flails.length = (s.chan ch.toNat).flails.length + 2 ∧ (∀ d, d ≠ ch.toNat → t.chan d = s.chan d) ∧
        sameRegs [regKey R.fllStat ch.toNat] s t ∧ sameMemories s t))) ∧
    (∀ c : Instr, (c = .loadq ch w [] false ∧ op = 1 ∨ c = .score ch w [] false ∧ op = 2 ∨ c = .topk ch w [] ∧ op = 3 ∨
        c = .requant ch w [] ∧ op = 4 ∨ c = .scrub ch w [] false ∧ op = 5) →
      (s.getF F.fllPctl_status ch.toNat = 1 → s.portWords ch.toNat = w → s.portMayStart ch.toNat op w = true →
        op ≠ 2 ∨ splitPart ch.toNat w = none ∨ tget [] (s.chan ch.toNat).frags (fwBankNo w) ≠ [] → completes c s (fun t =>
          (∃ f ∈ (t.chan ch.toNat).flails, f.op = op ∧ f.bank = fwBankNo w ∧ f.words = w ∧ f.port = true ∧ f.running = true) ∧
          t.getF F.fllPctl_status ch.toNat = 2 ∧ sameRegs [regKey R.fllStat ch.toNat, regKey R.fllPctl ch.toNat] s t ∧ sameMemories s t)) ∧
      (s.getF F.fllPctl_status ch.toNat ≠ 1 ∨ s.portWords ch.toNat ≠ w ∨ s.portMayStart ch.toNat op w = false → idles c s)) ∧
    (s.portMayStart ch.toNat op w = true →
      s.tick.windowOpen = true ∧ flailTime ch.toNat op w ≤ 10000 * s.windowLeft s.now ∧ (s.chan ch.toNat).retrainStart = none)

/-- A flail operation ends (R273, R277, R278, R282): a LOADQ fills the query buffer and clears the maxima, a FRAG fills its bank's fragment
buffer, a SCRUB rewrites the words of its row that can be corrected, and of the operations that a SCORE is split into one counts and
the next may start. Go on the command port starts a command that is not refused (R292). -/
def Obligations.FlailOperationsComplete : Prop :=
  (∀ (ch : BitVec 10) (b now : Nat) (f : FlailCmd) (s : State), b < 192 →
    (s.chan ch.toNat).flails.find? (fun f => f.running && f.bank == b) = some f → f.port = false →
    (f.left ≤ 1 → s.accWait = [] → stagesGo s →
      (f.op = 1 → completes (.flailOpComplete ch b now) s (fun t =>
        (t.chan ch.toNat).qbuf = some (slice f.data 0 (up64 ((fwCount f.words + 1) * fwDh f.words) + 128)) ∧
        (t.chan ch.toNat).qhead = fwCount f.words + 1 ∧ (t.chan ch.toNat).qdh = fwDh f.words ∧ (t.chan ch.toNat).maxima = [] ∧
        t.onF F.fllStat_qvalid ch.toNat = true ∧ (t.chan ch.toNat).flails.length + 1 = (s.chan ch.toNat).flails.length ∧ sameMemories s t)) ∧
      (f.op = 6 → f.src = none → completes (.flailOpComplete ch b now) s (fun t =>
        tget [] (t.chan ch.toNat).frags f.bank = slice f.data 0 (min 512 (ceilDiv f.data.length 256 * 256)) ∧
        (t.chan ch.toNat).flails.length + 1 = (s.chan ch.toNat).flails.length ∧ sameMemories s t)) ∧
      (f.op = 5 → completes (.flailOpComplete ch b now) s (fun t =>
        (∀ i, i < 256 → s.wordErr (fwRowAt f.words ch.toNat / 8 + i) = 1 → tget 0 t.loftErr (fwRowAt f.words ch.toNat / 8 + i) = 0) ∧
        (∀ w, w < fwRowAt f.words ch.toNat / 8 ∨ fwRowAt f.words ch.toNat / 8 + 256 ≤ w → tget 0 t.loftErr w = tget 0 s.loftErr w) ∧
        t.devMem = s.devMem))) ∧
    (1 < f.left → completes (.flailOpComplete ch b now) s (fun t =>
      t.getF F.fllOps_score ch.toNat = min (s.getF F.fllOps_score ch.toNat + 1) (2 ^ 32 - 1) ∧
      (t.chan ch.toNat).flails.length = (s.chan ch.toNat).flails.length ∧ t.out = [] ∧ sameMemories s t))) ∧
  (∀ (by_ : Requester) (c : Nat) (s : State), s.writes by_ R.fllPctl.off = true → c = s.sel by_ F.vccSel_channel →
    (s.onF F.fllPctl_go c = true → idles (.flailPortGo by_) s) ∧
    (s.onF F.fllPctl_go c = false → s.portRefuses c (s.portWords c) = false → completes (.flailPortGo by_) s (fun t =>
      t.onF F.fllPctl_go c = true ∧ t.getF F.fllPctl_status c = 1 ∧ onlyRegs [regKey R.fllPctl c] s t)) ∧
    (s.onF F.fllPctl_go c = false → s.portRefuses c (s.portWords c) = true → completes (.flailPortGo by_) s (fun t =>
      t.onF F.fllPctl_go c = false ∧ t.getF F.fllPctl_status c = 4 ∧ onlyRegs [regKey R.fllPctl c] s t)))

/-! ## Resets -/

/-- The cold reset (R405, R407, R410 to R414, Table 13.5): PORST_N low for 200 ns and a rail out of its range reset everything
but the flash, the one-time-programmable store, the host's memory and the standby domain, and with KEEP_OK asserted not
the lofts; the eighth restart in a second holds the part until PORST_N has
been low for 10 ms. -/
def Obligations.AColdResetKeepsTheStandbyDomain : Prop :=
  (∀ (lowNs now : Nat) (s : State),
    (lowNs < 200 ∨ s.start.storm = true ∨ s.start.porstLow = true → idlesAt (.porstN lowNs now) now s) ∧
    (200 ≤ lowNs → s.start.storm = false → s.start.porstLow = false →
      (s.keep.inKeep = true → completes (.porstN lowNs now) s (fun t =>
        t = { s with start := { s.start with porstLow := true }, out := [], now := max s.now now })) ∧
      (s.keep.inKeep = false → s.otpJob = none → s.imgJob = none → completes (.porstN lowNs now) s (fun t =>
        t.start.porstLow = true ∧ t.start.loading = true ∧
        t.start.tripForever = (s.start.tripForever && decide (lowNs < 10000000)) ∧
        t.getF F.rstCause_cold = (if s.onF F.pwrKeep_keep_ok then 5 else 1) ∧ t.getF F.rstCause_warm = s.getF F.rstCause_warm ∧
        t.reg R.pwrKeep 0 = s.reg R.pwrKeep 0 ∧ sameRegs [regKey R.rstCause 0, regKey R.pwrKeep 0] State.reset t ∧
        t.ctl = {} ∧ t.tick = {} ∧ t.commit = none ∧ t.cells = [] ∧ t.hostMem = s.hostMem ∧ t.flash = s.flash ∧ t.otp = s.otp ∧
        t.rcvBuf = [] ∧ t.devMem = (if s.onF F.pwrKeep_keep_ok then s.devMem else []))))) ∧
  (∀ (now : Nat) (s : State),
    (s.start.porstLow = true → completes (.porstNRelease now) s (fun t =>
      t = { s with
        start := { s.start with porstLow := false, loadAt := if s.keep.inKeep then s.start.loadAt else max s.start.loadAt now }
        out := [], now := max s.now now })) ∧
    (s.start.porstLow = false → idlesAt (.porstNRelease now) now s) ∧
    (s.start.loading = true → 8 ≤ s.recentRestarts now → completes (.resetStorm now) s (fun t =>
      t = { s with start := { s.start with storm := true }, out := [], now := max s.now now })) ∧
    (s.start.loading = false ∨ s.recentRestarts now < 8 → idlesAt (.resetStorm now) now s)) ∧
  (∀ (lowNs now : Nat) (s : State),
    (s.start.storm = true → 10000000 ≤ lowNs → completes (.stormExit lowNs now) s (fun t =>
      t.start = { s.start with storm := false, restartTimes := [], porstLow := true } ∧ t.getF F.rstCause_cold = 4 ∧
      t.onF F.rstCause_storm = true ∧ sameRegs [regKey R.rstCause 0] s t ∧
      t = { s with regs := t.regs, start := t.start, out := [], now := max s.now now })) ∧
    (s.start.storm = false ∨ lowNs < 10000000 → idlesAt (.stormExit lowNs now) now s)) ∧
  (∀ (rail : Rail) (mv now : Nat) (s : State),
    (rail ≠ .vstby → mv < (railRange rail).1 ∨ (railRange rail).2 < mv → s.start.storm = false →
      s.onF F.pwrKeep_keep_ok = false → s.otpJob = none → s.imgJob = none → completes (.powerOnDetection rail mv now) s (fun t =>
        rail ∈ t.start.railsLow ∧ t.start.loading = true ∧ t.getF F.rstCause_cold = 0 ∧ t.devMem = [] ∧ t.flash = s.flash ∧
        t.otp = s.otp ∧ t.ctl = {} ∧ sameRegs [regKey R.rstCause 0, regKey R.pwrKeep 0] State.reset t)) ∧
    (rail = .vstby → mv < (railRange rail).1 ∨ (railRange rail).2 < mv → s.otpJob = none → s.imgJob = none →
      completes (.powerOnDetection rail mv now) s (fun t =>
        t.regs = [] ∧ t.keep = {} ∧ t.devMem = [] ∧ rail ∈ t.start.railsLow ∧ t.flash = s.flash ∧ t.otp = s.otp)) ∧
    ((railRange rail).1 + 10 ≤ mv → mv + 10 ≤ (railRange rail).2 → s.start.railsLow.contains rail = true →
      completes (.powerOnDetection rail mv now) s (fun t =>
        t = { s with
          start := { s.start with
            railsLow := s.start.railsLow.filter (fun r => r != rail)
            loadAt := if s.start.loading then now + 1000000 else s.start.loadAt }
          out := [], now := max s.now now })) ∧
    ((railRange rail).1 ≤ mv → mv ≤ (railRange rail).2 →
      s.start.railsLow.contains rail = false ∨ mv < (railRange rail).1 + 10 ∨ (railRange rail).2 < mv + 10 →
      idlesAt (.powerOnDetection rail mv now) now s))

/-- The warm reset (R360, R408, R409): PERST_N low for 200 ns counts, resets the host interface and Chute, and on a ready part unloads
every program and closes every stream; during option loading, in a hold and in Keep it resets nothing, and the pin's level is noted (R412). -/
def Obligations.AWarmResetUnloadsThePrograms : Prop :=
  ∀ s : State,
    (∀ lowNs : Nat, 200 ≤ lowNs → s.start.loading = false → s.heldInReset = false → s.keep.inKeep = false → s.start.perstLow = false →
      completes (.perstN lowNs) s (fun t =>
        t.start.perstLow = true ∧ t.getF F.rstCause_warm = min (s.getF F.rstCause_warm + 1) 65535 ∧
        (∀ q : Nat, q < 64 → t.pairOn q = false) ∧ t.msix = [] ∧ t.chutes = [] ∧ t.sqTails = [] ∧ t.cqHeads = [] ∧
        (s.ready = true → s.getF F.pwrStat_state ≠ 3 →
          t.jobs = [] ∧ (∀ i : Nat, (t.stream i).isOpen = false) ∧ t.ctl.waiting = [] ∧ t.commit = none ∧ t.resets = [] ∧ t.autos = []))) ∧
    (∀ lowNs : Nat, lowNs < 200 ∨ s.start.perstLow = true → idles (.perstN lowNs) s) ∧
    (∀ lowNs : Nat, 200 ≤ lowNs → s.start.perstLow = false → s.start.loading = true ∨ s.heldInReset = true ∨ s.keep.inKeep = true →
      completes (.perstN lowNs) s (fun t => t = { s with start := { s.start with perstLow := true }, out := [] })) ∧
    (∀ now : Nat, completes (.perstNRelease now) s (fun t =>
      t = { s with
        start := { s.start with perstLow := false, warmReset := s.start.warmReset && s.tick.running }
        out := [], now := max s.now now }))

/-- The reset bits of cells, stooks and sheafs (R415, R416): go puts every enabled cell of the target into reset for 1 µs at least;
hold keeps it there until it is cleared, and 1 µs longer. -/
def Obligations.ResetBitsHoldTheirCells : Prop :=
  ∀ (k : Nat) (by_ : Requester) (now : Nat) (s : State) (go : Instr) (hold : Bool → Instr),
    (k = 0 ∧ go = .cellResetGo by_ now ∧ hold = (fun on => .cellResetHold by_ on now) ∨
      k = 1 ∧ go = .stookResetGo by_ now ∧ hold = (fun on => .stookResetHold by_ on now) ∨
      k = 2 ∧ go = .sheafResetGo by_ now ∧ hold = (fun on => .sheafResetHold by_ on now)) →
    (s.mayReset by_ = false → idles go s ∧ ∀ on : Bool, idles (hold on) s) ∧
    (s.mayReset by_ = true →
      completes go s (fun t =>
        (∀ c ∈ s.resetCells k (s.getF (resetTarget k)), (t.cell c).inReset = true ∧ ((s.cell c).inReset = false → (t.cell c).job = none)) ∧
        t.onF (resetGo k) = true ∧ t.onF (resetActive k) = true ∧ t.devMem = s.devMem ∧
        ∃ r ∈ t.resets, r.kind = k ∧ r.target = s.getF (resetTarget k) ∧ r.pulse = true ∧ now + 1000 ≤ r.releaseAfter) ∧
      (s.onF (resetHold k) = false → completes (hold true) s (fun t =>
        (∀ c ∈ s.resetCells k (s.getF (resetTarget k)), (t.cell c).inReset = true ∧ ((s.cell c).inReset = false → (t.cell c).job = none)) ∧
        t.onF (resetHold k) = true ∧ t.onF (resetActive k) = true ∧ t.devMem = s.devMem ∧
        ∃ r ∈ t.resets, r.kind = k ∧ r.target = s.getF (resetTarget k) ∧ r.held = true)) ∧
      (s.onF (resetHold k) = true → completes (hold false) s (fun t =>
        t.cells = s.cells ∧ t.onF (resetHold k) = false ∧ t.onF (resetActive k) = true ∧ t.devMem = s.devMem ∧
        ∃ r ∈ t.resets, r.kind = k ∧ r.target = s.getF (resetTarget k) ∧ r.held = false ∧ now + 1000 ≤ r.releaseAfter)) ∧
      (∀ on : Bool, s.onF (resetHold k) = on → completes (hold on) s (fun t =>
        t.onF (resetHold k) = on ∧ onlyRegsAt now [regKey (resetHold k).reg 0] s t)))

/-! ## The start -/

/-- The start goes by its stages (R411, R426 to R428, R433, R434, R441, R443, R447, R459, R467): option loading, Steading boot, broadcast, memory
test, the cells' self-test, each once the work of the stages before is done; the identity pair is derived at each first boot.
A first boot verifies the image of the flash: one that passes makes its header and the generation it is
confirmed by the part's and the start goes on to stage 3; one that fails, or a flash that does not answer, leads into recovery, and after
check 5, 6 or 7 the generation is active all the same. Which frames are Steading's own is by their number, count and digest, and by the targets
of the first with that number (log entry 54). Said of a
crystal that is not yet stable, so that the configuration does not apply in the same step. A later boot verifies again and keeps the
settings. -/
def Obligations.TheStartGoesByItsStages : Prop :=
  ∀ (now : Nat) (s : State),
    (∀ mv : Nat,
      (s.start.loading = true → s.heldInReset = false → s.start.loadAt ≤ now → s.getF F.pwrStat_state = 0 → s.recentRestarts now < 8 →
        completes (.optionLoading mv now) s (fun t =>
          t.start.loading = false ∧ t.start.wdtAt = now ∧ t.getF F.stdBoot_stage = 2 ∧ t.getF F.rstOpt_reading = min mv 2047 ∧
          (∀ k : Nat, strapCode mv = some k → t.getF F.rstOpt_code = k) ∧
          (strapCode mv = none → t.onF F.rstOpt_invalid = true) ∧ sameMemories s t ∧ t.ctl = s.ctl)) ∧
      (s.start.loading = false ∨ s.heldInReset = true ∨ now < s.start.loadAt ∨ s.getF F.pwrStat_state ≠ 0 ∨ 8 ≤ s.recentRestarts now →
        idlesAt (.optionLoading mv now) now s)) ∧
    (s.heldInReset = false → s.delayOver now = true → completes (.startDelayEnd now) s (fun t =>
      t = { s with start := { s.start with startDelayDone := true }, out := [], now := max s.now now })) ∧
    (s.heldInReset = true ∨ s.delayOver now = false → idlesAt (.startDelayEnd now) now s) ∧
    (s.start.loading = false → s.heldInReset = false → s.start.steadingDown = true →
      completes (.steadingBoot false now) s (fun t =>
        t.getF F.stdBoot_stage = 8 ∧ t.getF F.stdBoot_start = 3 ∧ t.onF F.stdBoot_minimal = true ∧ t.getF F.stdBoot_fail = 1 ∧
        t.start.steadingDown = false ∧ t.start.bootDone = true ∧ t.tick.running = false ∧ t.devMem = s.devMem ∧ t.otp = s.otp) ∧
      (∀ (g : Option Nat) (code : Nat), s.start.bootDone = false → s.onF F.clkXtal_stable = false → s.onF F.clkXtal_fail = false →
        g = (if headerOk (s.flashSrc 0 4096) && s.keyTrusted (s.flashSrc 0 4096) then s.confirmed (hdrKey (s.flashSrc 0 4096)) else none) →
        code = s.verifyImage s.flashSrc (g.map (fun k => genMinSvn (s.genBlock k))) false →
        completes (.steadingBoot true now) s (fun t =>
          t.start.bootDone = true ∧ t.start.steadingDown = false ∧ t.start.header = s.flashSrc 0 4096 ∧ t.otp = s.otp ∧
          t.onF F.otpStat_identity = (shake256 (s.otpAt 0x200 64) 32 == s.otpAt 0x240 32 &&
            shake256 (Config.falconPublic (s.otpAt 0x200 64)) 64 == s.otpAt 0x80 64) ∧
          (∀ k, 5 ≤ code → g = some k → t.minSvn = genMinSvn (s.genBlock k) ∧ t.getF F.otpStat_active = k % 8) ∧
          (code = 0 → t.getF F.stdBoot_stage = 3 ∧ t.minSvn = genMinSvn (s.genBlock (g.getD 0)) ∧
            t.flagsActive = genFlags (s.genBlock (g.getD 0)) ∧ t.svn = hdrSvn (s.flashSrc 0 4096) ∧
            t.getF F.otpStat_active = g.getD 0 % 8 ∧ t.onF F.rstStd_restart = false ∧ t.tick = s.tick) ∧
          (code ≠ 0 → t.getF F.stdBoot_stage = 8 ∧ t.getF F.stdBoot_start = 3 ∧ t.onF F.stdBoot_minimal = true ∧
            t.getF F.stdBoot_fail = code ∧ t.tick.running = false))) ∧
      (∀ code : Nat, s.start.bootDone = true → s.start.configured = true → s.getF F.stdBoot_stage ≠ 8 →
        code = s.verifyImage s.flashSrc (some s.minSvn) false → completes (.steadingBoot true now) s (fun t =>
          t.start.steadingDown = false ∧ t.stdBuf = [] ∧ t.onF F.rstStd_restart = false ∧ t.minSvn = s.minSvn ∧ t.otp = s.otp ∧
          (code = 0 → t.getF F.stdBoot_stage = s.getF F.stdBoot_stage ∧ t.start = { s.start with steadingDown := false } ∧
            t.tick = s.tick ∧ t.ctl = s.ctl ∧ sameMemories s t) ∧
          (code ≠ 0 → t.getF F.stdBoot_stage = 8 ∧ t.getF F.stdBoot_fail = code ∧ t.tick.running = false))) ∧
      (s.start.bootDone = true → s.getF F.stdBoot_stage = 8 → completes (.steadingBoot true now) s (fun t =>
        t.start = { s.start with steadingDown := false } ∧ t.stdBuf = [] ∧ t.onF F.rstStd_restart = false ∧
        t.getF F.stdBoot_stage = 8 ∧ t.ctl = s.ctl ∧ sameMemories s t))) ∧
    (∀ answers : Bool, s.start.loading = true ∨ s.heldInReset = true ∨ s.start.steadingDown = false →
      idlesAt (.steadingBoot answers now) now s) ∧
    (∀ (tg : Target) (f : Frame),
      (s.getF F.stdBoot_stage = 3 → s.start.configured = true → s.frameSent f = true → s.targetOn tg = true → targetNamed tg f.targets = true →
        shake256 (slice f.payload 0 4096) 32 = slice f.digest 0 32 → completes (.broadcastFrame tg f) s (fun t =>
          t.segSent f.seq.toNat = some f.targets ∧ f.seq.toNat ∈ tget [] t.start.gotSegs (targetNo tg) ∧
          mread (tget [] t.seqStores (targetNo tg)) f.storeOff.toNat 4096 = slice f.payload 0 4096 ∧
          (∀ n, n ≠ targetNo tg → tget [] t.seqStores n = tget [] s.seqStores n ∧ tget [] t.start.gotSegs n = tget [] s.start.gotSegs n) ∧
          t = { s with seqStores := t.seqStores, start := { s.start with gotSegs := t.start.gotSegs, sentSegs := t.start.sentSegs }, out := [] })) ∧
      (s.getF F.stdBoot_stage = 3 → s.start.configured = true → s.frameSent f = true →
        s.targetOn tg = false ∨ targetNamed tg f.targets = false ∨ shake256 (slice f.payload 0 4096) 32 ≠ slice f.digest 0 32 →
        completes (.broadcastFrame tg f) s (fun t => t.segSent f.seq.toNat = some f.targets ∧
          t = { s with start := { s.start with sentSegs := t.start.sentSegs }, out := [] })) ∧
      (s.getF F.stdBoot_stage ≠ 3 ∨ s.start.configured = false ∨ s.frameSent f = false → idles (.broadcastFrame tg f) s)) ∧
    (∀ (tg : Target) (missing : List (BitVec 32)) (lack : List Nat),
      lack = (missing.map BitVec.toNat).filter (fun k => decide (k < s.start.segCount) && !(tget [] s.start.gotSegs (targetNo tg)).contains k) →
      (s.getF F.stdBoot_stage = 3 → s.start.configured = true → s.targetOn tg = true → lack ≠ [] → s.start.steadingDown = false →
        tget 0 s.start.asked (targetNo tg) < 3 → completes (.segmentRequest tg missing) s (fun t =>
          tget 0 t.start.asked (targetNo tg) = tget 0 s.start.asked (targetNo tg) + 1 ∧ t.out = lack.map (Output.frame tg) ∧
          t = { s with start := { s.start with asked := t.start.asked }, out := t.out })) ∧
      (s.getF F.stdBoot_stage ≠ 3 ∨ s.start.configured = false ∨ s.targetOn tg = false ∨ lack = [] ∨ s.start.steadingDown = true →
        idles (.segmentRequest tg missing) s)) ∧
    (∀ ts : List ChanTest,
      (s.startGoes = true → s.start.memTested = false → s.stage3Done = true → completes (.memoryTest ts now) s (fun t =>
        t.start.memTested = true ∧ (s.start.cellsTested = false ∨ t.stage5Done = false → t.getF F.stdBoot_stage = 5) ∧
        (s.start.cellsTested = true → t.stage5Done = true → t.getF F.stdBoot_stage = 7 ∧ t.onF F.stdBoot_minimal = false) ∧ t.otp = s.otp)) ∧
      (s.startGoes = false ∨ s.start.memTested = true ∨ s.stage3Done = false → idlesAt (.memoryTest ts now) now s)) ∧
    (∀ (stack : BitVec 5) (reached : Int),
      (s.startGoes = true → s.start.memTested = false → s.stage3Done = true → s.getF F.stdBoot_start ≠ 2 → completes (.heatingTimeout stack reached) s (fun t =>
        t.getF F.stdBoot_stage = 4 ∧ t.onF F.stdBoot_cool = true ∧ afterEvents [regKey R.stdBoot 0] s t)) ∧
      (s.startGoes = false ∨ s.start.memTested = true ∨ s.stage3Done = false ∨ s.getF F.stdBoot_start = 2 → idles (.heatingTimeout stack reached) s)) ∧
    (∀ fails : List (BitVec 10),
      (s.startGoes = true → s.start.cellsTested = false →
        (if s.getF F.stdBoot_start = 2 then s.stage3Done = true else s.start.memTested = true ∧ s.stage5Done = true) →
        completes (.cellSelfTest fails now) s (fun t =>
          t.start.cellsTested = true ∧
          (s.start.memTested = true → s.stage5Done = true → s.getF F.stdBoot_stage = 5 →
            t.getF F.stdBoot_stage = 7 ∧ t.onF F.stdBoot_minimal = false) ∧
          (s.start.memTested = false ∨ s.stage5Done = false → t.getF F.stdBoot_stage = s.getF F.stdBoot_stage) ∧
          (∀ c ∈ fails, s.disabled c.toNat = false → (t.cell c.toNat).retired = true) ∧ t.devMem = s.devMem)) ∧
      (s.startGoes = false ∨ s.start.cellsTested = true ∨ s.getF F.stdBoot_start = 2 ∧ s.stage3Done = false ∨
          s.getF F.stdBoot_start ≠ 2 ∧ (s.start.memTested = false ∨ s.stage5Done = false) →
        idlesAt (.cellSelfTest fails now) now s))

/-- Recovery commands and the log (R445, R447 to R449): the buffer is verified, programmed into the image area, and a cold reset is asked
for, by who may and while nothing else runs; Steading writes the oldest record that waits for the log. -/
def Obligations.RecoveryCommandsVerifyAndProgram : Prop :=
  ∀ s : State,
    (∀ (by_ : Requester) (c : Instr), c = .recoveryVerify by_ ∨ c = .recoveryProgram by_ ∨ c = .recoveryColdReset by_ →
      s.mayRecover by_ R.stdRcvCtl.off = false ∨ s.rcvFree = false → idles c s) ∧
    (∀ by_ : Requester, s.mayRecover by_ R.stdRcvCtl.off = true → s.rcvFree = true →
      completes (.recoveryVerify by_) s (fun t =>
        t.getF F.stdRcvStat_state = (if s.verifyBuffer = 0 then 4 else 5) ∧ t.getF F.stdRcvStat_fail = s.verifyBuffer ∧
        t.getF F.stdRcvCtl_cmd = 0 ∧ onlyRegs [regKey R.stdRcvCtl 0, regKey R.stdRcvStat 0] s t) ∧
      (s.getF F.stdBoot_stage = 8 → completes (.recoveryProgram by_) s (fun t =>
        t.imgJob = (if s.verifyBuffer = 0 then some (s.bufSrc 0 (s.getF F.stdRcvLen_len)) else none) ∧
        t.getF F.stdRcvStat_state = (if s.verifyBuffer = 0 then 2 else 5) ∧ t.getF F.stdRcvStat_fail = s.verifyBuffer ∧
        sameRegs [regKey R.stdRcvCtl 0, regKey R.stdRcvStat 0] s t ∧ t = { s with regs := t.regs, imgJob := t.imgJob, out := [] })) ∧
      (s.getF F.stdBoot_stage = 7 → bitOf s.flagsActive 3 = false → completes (.recoveryProgram by_) s (fun t =>
        t.getF F.stdRcvStat_state = 5 ∧ t.getF F.stdRcvStat_fail = 0 ∧ onlyRegs [regKey R.stdRcvCtl 0, regKey R.stdRcvStat 0] s t)) ∧
      (s.onF F.pwrKeep_keep_ok = false → completes (.recoveryColdReset by_) s (fun t =>
        t.start.loading = true ∧ t.getF F.rstCause_cold ≤ 2 ∧ t.ctl = {} ∧ t.tick = {} ∧ t.devMem = [] ∧ t.flash = s.flash ∧ t.otp = s.otp))) ∧
    (∀ img : List Byte, s.imgJob = some img → completes .imageProgrammingDone s (fun t =>
      t.imgJob = none ∧ fread t.flash 0 img.length = img ∧
      (∀ b : Nat, 0x1000000 ≤ b → img.length ≤ b → mget t.flash b = mget s.flash b) ∧ t.getF F.stdRcvStat_state = 4 ∧
      t.getF F.stdRcvStat_fail = 0 ∧ t.getF F.stdRcvCtl_cmd = 0 ∧ sameRegs [regKey R.stdRcvCtl 0, regKey R.stdRcvStat 0] s t ∧
      t = { s with regs := t.regs, flash := t.flash, imgJob := none, out := [] })) ∧
    (s.imgJob = none → idles .imageProgrammingDone s) ∧
    (∀ (now i : Nat) (e : Event) (r : List Event), s.logPend = e :: r → s.start.steadingDown = false → s.logCur = some i →
      s.logEnd i + e.records ≤ 2046 → (s.logTimes.filter (fun x => decide (now < x + 1000000000))).length + e.records ≤ 64 →
      completes (.flashLogWrite now) s (fun t =>
        t.logPend = r ∧ fread t.flash (logSector i + 64 + 32 * s.logEnd i) e.bytes.length = e.bytes ∧
        t = { s with flash := t.flash, logPend := r, logTimes := t.logTimes, out := [], now := max s.now now })) ∧
    (∀ now : Nat, s.logPend = [] ∨ s.start.steadingDown = true → idlesAt (.flashLogWrite now) now s)

/-- Programming of settings generations, and reports (R451, R462, R463, R469 to R471): a command captures its block and is refused
with the first check that fails; no programmed bit is lost; a report is captured at its request, and signed later. -/
def Obligations.GenerationsAndReportsAreCaptured : Prop :=
  ∀ s : State,
    (∀ by_ : Requester,
      (s.mayRecover by_ R.otpProg.off = false → idles (.otpProgramGeneration by_) s) ∧
      (s.mayRecover by_ R.otpProg.off = true →
        (s.otpJob.isSome = true → completes (.otpProgramGeneration by_) s (fun t =>
          t.getF F.otpProg_fail = 6 ∧ onlyRegs [regKey R.otpProg 0] s t)) ∧
        (s.otpJob = none → completes (.otpProgramGeneration by_) s (fun t =>
          t.getF F.otpProg_fail = s.otpCheck (s.bufSrc 0 1024) (s.bufSrc 1024 1280) ∧
          t.otpJob = (if s.otpCheck (s.bufSrc 0 1024) (s.bufSrc 1024 1280) = 0 then some (s.bufSrc 0 1024 ++ s.bufSrc 1024 1280) else none) ∧
          t.getF F.otpProg_state = (if s.otpCheck (s.bufSrc 0 1024) (s.bufSrc 1024 1280) = 0 then 2 else 4) ∧
          sameRegs [regKey R.otpProg 0] s t ∧ t = { s with regs := t.regs, otpJob := t.otpJob, out := [] })))) ∧
    (∀ ok : Bool,
      (s.otpJob.isSome = true → completes (.otpProgrammingDone ok) s (fun t =>
        t.otpJob = none ∧ (∀ b i : Nat, (mget s.otp b).getLsbD i = true → (mget t.otp b).getLsbD i = true) ∧
        t.getF F.otpProg_cmd = 0 ∧ t.getF F.otpProg_state = (if ok then 3 else 4) ∧ t.getF F.otpProg_fail = (if ok then 0 else 7) ∧
        sameRegs [regKey R.otpProg 0] s t ∧ t.devMem = s.devMem ∧ t.flash = s.flash)) ∧
      (s.otpJob = none → idles (.otpProgrammingDone ok) s)) ∧
    (∀ by_ : Requester,
      (s.reaches by_ R.stdAttCtl.off = false ∨ by_ = .i3c ∧ bitOf s.flagsActive 1 = false ∨ s.ready = false ∨
        s.onF F.stdAttCtl_go = true → idles (.attestationRequest by_) s) ∧
      (s.reaches by_ R.stdAttCtl.off = true → (by_ = .i3c → bitOf s.flagsActive 1 = true) → s.ready = true → s.onF F.stdAttCtl_go = false →
        (s.onF F.otpStat_identity = false → completes (.attestationRequest by_) s (fun t =>
          t.getF F.stdAttCtl_status = 4 ∧ t.onF F.stdAttCtl_go = false ∧ t.report = [] ∧ sameRegs [regKey R.stdAttCtl 0] s t ∧
          t = { s with regs := t.regs, report := [], out := [] })) ∧
        (s.onF F.otpStat_identity = true → completes (.attestationRequest by_) s (fun t =>
          t.getF F.stdAttCtl_status = 1 ∧ t.onF F.stdAttCtl_go = true ∧ t.attBody = s.reportBody ∧ sameRegs [regKey R.stdAttCtl 0] s t ∧
          t = { s with regs := t.regs, attBody := s.reportBody, report := [], out := [] })))) ∧
    (s.onF F.stdAttCtl_go = true → completes .attestationReady s (fun t =>
      t.getF F.stdAttCtl_status = 2 ∧ t.onF F.stdAttCtl_go = false ∧ t.report.take 384 = slice s.attBody 0 384 ∧ t.report.length = 1664 ∧
      t.attZero = false ∧ sameRegs [regKey R.stdAttCtl 0] s t ∧ sameMemories s t)) ∧
    (s.onF F.stdAttCtl_go = false → idles .attestationReady s)

/-! ## Clocks -/

/-- Clocks (R396 to R398, R401, R403, R404): a ramp goes step by step, the monitor shows that what is asked of it is above 200 MHz, the counter counts one
gate, the crystal is judged by its last four counts and fails after 100. -/
def Obligations.ClocksRampAndAreCounted : Prop :=
  ∀ s : State,
    (∀ d : BitVec 6, d.toNat < 60 →
      (s.onF F.clkStat_ramping d.toNat = true → completes (.clockRampStep d) s (fun t =>
        t.getF F.clkStat_div d.toNat = (tget {} s.ramps d.toNat).step.div % 256 ∧
        t.getF F.clkStat_src d.toNat = (tget {} s.ramps d.toNat).step.src % 4 ∧
        t.onF F.clkStat_ramping d.toNat = !decide ((tget {} s.ramps d.toNat).step.div = (tget {} s.ramps d.toNat).step.goalDiv ∧
          (tget {} s.ramps d.toNat).step.src = (tget {} s.ramps d.toNat).step.goalSrc) ∧
        sameRegs [regKey R.clkStat d.toNat] s t ∧ t = { s with regs := t.regs, ramps := t.ramps, out := [] })) ∧
      (s.onF F.clkStat_ramping d.toNat = false → idles (.clockRampStep d) s)) ∧
    (∀ (by_ : Requester) (v : Word),
      (s.writes by_ R.clkMon.off = false → idles (.clockMonitorSelect by_ v) s) ∧
      (s.writes by_ R.clkMon.off = true → completes (.clockMonitorSelect by_ v) s (fun t =>
        t.getF F.clkMon_sel = fieldGet v 0 6 ∧ t.getF F.clkMon_div = fieldGet v 6 5 ∧
        t.monOver = (decide (1 ≤ fieldGet v 6 5) && decide (fieldGet v 6 5 ≤ 16) &&
          decide (200000 * 2 ^ fieldGet v 6 5 < s.monKhz (fieldGet v 0 6))) ∧
        fieldGet (t.shows R.clkMon 0) F.clkMon_over.lo 1 = bit t.monOver ∧
        onlyRegs [regKey R.clkMon 0] s t)) ∧
      (s.writes by_ R.clkFmc.off = false → idles (.frequencyMeasurement by_ v) s) ∧
      (s.writes by_ R.clkFmc.off = true → completes (.frequencyMeasurement by_ v) s (fun t =>
        t.getF F.clkFmc_target = fieldGet v 0 6 ∧ t.getF F.clkFmc_ref = fieldGet v 6 1 ∧ t.getF F.clkFmc_gate = fieldGet v 7 24 ∧
        (fieldGet v 31 1 = 0 ∨ s.onF F.clkFmc_go = true ∨ s.onF F.clkFmc_owner = true →
          t.onF F.clkFmc_go = s.onF F.clkFmc_go ∧ onlyRegs [regKey R.clkFmc 0] s t) ∧
        (fieldGet v 31 1 = 1 → s.onF F.clkFmc_go = false → s.onF F.clkFmc_owner = false →
          (fieldGet v 7 24 = 0 → t.onF F.clkFmc_go = false ∧ t.getF F.clkFmcRes_count = 0 ∧ t.onF F.clkFmcRes_done = true) ∧
          (fieldGet v 7 24 ≠ 0 → t.onF F.clkFmc_go = true ∧ t.onF F.clkFmcRes_done = false)) ∧
        onlyRegs [regKey R.clkFmc 0, regKey R.clkFmcRes 0] s t))) ∧
    (∀ n : BitVec 32,
      (s.onF F.clkFmc_go = true → completes (.frequencyMeasurementDone n) s (fun t =>
        t.onF F.clkFmc_go = false ∧ t.getF F.clkFmcRes_count = n.toNat ∧ t.onF F.clkFmcRes_done = true ∧
        onlyRegs [regKey R.clkFmc 0, regKey R.clkFmcRes 0] s t)) ∧
      (s.onF F.clkFmc_go = false → idles (.frequencyMeasurementDone n) s)) ∧
    (∀ (n : BitVec 32) (now : Nat),
      (s.start.startDelayDone = false ∨ s.start.loading = true ∨ s.onF F.clkXtal_stable = true ∨ s.onF F.clkXtal_fail = true ∨
        100 ≤ s.getF F.clkXtal_meas → idlesAt (.crystalMeasurement n now) now s) ∧
      (s.start.startDelayDone = true → s.start.loading = false → s.onF F.clkXtal_stable = false → s.onF F.clkXtal_fail = false →
        s.getF F.clkXtal_meas < 100 →
        (s.start.xtal.length < 3 → completes (.crystalMeasurement n now) s (fun t =>
          t.getF F.clkXtal_meas = s.getF F.clkXtal_meas + 1 ∧ t.getF F.clkXtal_count = n.toNat ∧ t.start.xtal = s.start.xtal ++ [n.toNat] ∧
          t.onF F.clkXtal_stable = false ∧ sameRegs [regKey R.clkXtal 0] s t ∧
          t = { s with regs := t.regs, start := { s.start with xtal := t.start.xtal }, out := [], now := max s.now now })) ∧
        (s.start.xtal.length = 3 → s.start.bootDone = false → s.onF F.rstOpt_invalid = false →
          judges (if s.onF F.clkXtal_mhz50 then 50000 else 25000) (if s.onF F.rstOpt_untrimmed then 9 else 2) (s.start.xtal ++ [n.toNat]) = true →
          completes (.crystalMeasurement n now) s (fun t =>
            t.onF F.clkXtal_stable = true ∧ t.onF F.clkXtal_mhz50 = s.onF F.clkXtal_mhz50 ∧ t.onF F.clkXtal_auto = false ∧
            t.onF F.clkFmc_owner = false ∧ sameRegs [regKey R.clkXtal 0, regKey R.clkFmc 0] s t)))) ∧
    (s.getF F.clkXtal_meas < 100 ∨ s.onF F.clkXtal_stable = true ∨ s.onF F.clkXtal_fail = true → idles .crystalFail s) ∧
    (100 ≤ s.getF F.clkXtal_meas → s.onF F.clkXtal_stable = false → s.onF F.clkXtal_fail = false →
      (s.start.bootDone = false ∨ s.getF F.stdBoot_stage = 8 → completes .crystalFail s (fun t =>
        t.onF F.clkXtal_fail = true ∧ t.onF F.clkFmc_owner = false ∧ onlyRegs [regKey R.clkXtal 0, regKey R.clkFmc 0] s t)) ∧
      (s.start.bootDone = true → s.getF F.stdBoot_stage ≠ 8 → completes .crystalFail s (fun t =>
        t.onF F.clkXtal_fail = true ∧ t.getF F.stdBoot_stage = 8 ∧ t.getF F.stdBoot_fail = 16)))

/-! ## Restarts, trips and stops -/

/-- Steading restarts, the watchdog, the thermal trip and the end of a stop (R415, R417, R418, R491, R492, R533). -/
def Obligations.RestartsTripsAndStopsEnd : Prop :=
  ∀ (now : Nat) (s : State),
    (∀ by_ : Requester,
      (by_ = .i3c ∨ s.start.loading = true ∨ (s.at_ now).reaches by_ R.rstStd.off = false → idlesAt (.steadingRestart by_ now) now s) ∧
      (by_ ≠ .i3c → s.start.loading = false → (s.at_ now).reaches by_ R.rstStd.off = true → completes (.steadingRestart by_ now) s (fun t =>
        t.onF F.rstStd_restart = true ∧ t.start.steadingDown = true ∧ t.start.wdtAt = now ∧ t.otpJob = none ∧ t.attBody = [] ∧ t.attZero = true ∧
        (∀ k : CommitSt, s.commit = some k → t.commit = if k.steading then none else some k) ∧
        t.devMem = s.devMem ∧ t.flash = s.flash ∧ t.ctl = s.ctl ∧ t.tick = s.tick))) ∧
    (s.start.loading = true ∨ s.start.steadingDown = true → idlesAt (.watchdogRestart now) now s) ∧
    (s.start.loading = false → s.start.steadingDown = false → completes (.watchdogRestart now) s (fun t =>
      t = { s with start := { s.start with wdtAt := now }, out := [], now := max s.now now })) ∧
    (s.start.loading = true ∨ now < s.start.wdtAt + s.wdtMs * 1000000 → idlesAt (.watchdogExpiry now) now s) ∧
    (s.start.loading = false → s.start.wdtAt + s.wdtMs * 1000000 ≤ now →
      (s.wdtReach = 2 → s.keep.inKeep = false → s.onF F.pwrKeep_keep_ok = false → s.otpJob = none → s.imgJob = none →
        completes (.watchdogExpiry now) s (fun t =>
          t.getF F.rstCause_cold = 2 ∧ t.getF F.rstCause_wdt = min (s.getF F.rstCause_wdt + 1) 65535 ∧ t.start.loading = true ∧ t.ctl = {} ∧
          t.devMem = [] ∧ t.flash = s.flash ∧ t.otp = s.otp)) ∧
      (s.wdtReach = 1 → s.keep.inKeep = false → completes (.watchdogExpiry now) s (fun t =>
        t.getF F.rstCause_wdt = min (s.getF F.rstCause_wdt + 1) 65535 ∧ t.getF F.rstCause_warm = min (s.getF F.rstCause_warm + 1) 65535 ∧
        t.start.steadingDown = true ∧ t.start.perstUntil = now + 1000000 ∧ (∀ q : Nat, q < 64 → t.pairOn q = false))) ∧
      (s.wdtReach ≠ 1 ∧ s.wdtReach ≠ 2 ∨ s.keep.inKeep = true → completes (.watchdogExpiry now) s (fun t =>
        t.getF F.rstCause_wdt = min (s.getF F.rstCause_wdt + 1) 65535 ∧ t.start.steadingDown = true ∧ t.start.wdtAt = now ∧
        t.ctl = s.ctl ∧ t.tick = s.tick ∧ t.devMem = s.devMem ∧ t.flash = s.flash))) ∧
    (∀ (k : BitVec 6) (v : Int),
      (v < deg 115 ∨ s.start.tripHold = true ∨ s.start.storm = true → idlesAt (.thermalTrip k v now) now s) ∧
      (deg 115 ≤ v → s.start.tripHold = false → s.start.storm = false → s.onF F.pwrKeep_keep_ok = false → s.otpJob = none → s.imgJob = none →
        completes (.thermalTrip k v now) s (fun t =>
          t.start.tripHold = true ∧ t.start.therm = true ∧ t.start.loading = true ∧ t.getF F.rstCause_cold = 3 ∧
          t.getF F.rstCause_thermal = min (s.getF F.rstCause_thermal + 1) 255 ∧
          t.start.tripForever = decide (2 ≤ (s.start.tripTimes.filter (fun x => decide (now ≤ x + 3600000000000))).length) ∧
          t.ctl = {} ∧ t.tick = {} ∧ t.devMem = [] ∧ t.otp = s.otp))) ∧
    (∀ x : Nat, s.heat.coolSince = some x → s.start.tripHold = true → s.start.tripForever = false → x + 10000000000 ≤ now →
      completes (.tripHoldEnd now) s (fun t =>
        t = { s with
          start := { s.start with tripHold := false, therm := false, loadAt := max s.start.loadAt now }, heat := { s.heat with coolSince := none }
          out := [], now := max s.now now })) ∧
    (s.heat.coolSince = none ∨ s.start.tripHold = false ∨ s.start.tripForever = true → idlesAt (.tripHoldEnd now) now s) ∧
    (∀ x : Nat, s.heat.coolSince = some x → s.getF F.pwrStat_state = 2 → s.getF F.pwrStat_cause ∈ [1, 3, 4] → x + 10000000000 ≤ s.now →
      s.start.steadingDown = false → s.onF F.pwrKeep_keep_ok = false → s.otpJob = none → s.imgJob = none →
      completes .stopCooldown s (fun t =>
        t.getF F.rstCause_cold = 3 ∧ t.start.loading = true ∧ t.getF F.pwrStat_state = 0 ∧ t.ctl = {} ∧ t.devMem = [] ∧ t.flash = s.flash)) ∧
    (s.heat.coolSince = none ∨ s.getF F.pwrStat_state ≠ 2 ∨ s.start.steadingDown = true ∨ s.getF F.pwrStat_cause ∉ [1, 3, 4] →
      idles .stopCooldown s)

/-! ## Heat, power and Keep -/

/-- The inlet, the throttles, the loss of coolant and the failure of power (R482, R485, R486, R489, R490, R494, R495). -/
def Obligations.PowerAndCoolantAreWatched : Prop :=
  ∀ (now : Nat) (s : State),
    (∀ (by_ : Requester) (v : BitVec 16),
      (s.reaches by_ R.thmCool.off = true → completes (.inletWrite by_ v now) s (fun t =>
        t.getF F.thmCool_t_in = v.toNat ∧ t.getF F.thmCool_age_ms = 0 ∧ sameRegs [regKey R.thmCool 0] s t ∧
        t = { s with
          regs := t.regs, heat := { s.heat with coolWritten := some now, inletStale := false }, out := [], now := max s.now now })) ∧
      (s.reaches by_ R.thmCool.off = false → idlesAt (.inletWrite by_ v now) now s)) ∧
    (∀ x : Nat, s.heat.coolWritten = some x →
      (s.heat.inletStale = false → x + 5000000000 < now → completes (.inletStale now) s (fun t =>
        t.heat = { s.heat with inletStale := true } ∧ sameRegs [regKey R.hstEvqStat 0, regKey R.stdBootRet 0] s t ∧ t.ctl = s.ctl ∧
        t.devMem = s.devMem)) ∧
      (s.heat.inletStale = true ∨ now ≤ x + 5000000000 → idlesAt (.inletStale now) now s)) ∧
    (s.heat.coolWritten = none → idlesAt (.inletStale now) now s) ∧
    (∀ p : Nat,
      (105 * s.getF F.pwrStat_cap < 100 * p → s.getF F.pwrStat_skip = 0 → completes (.fastThrottle p) s (fun t =>
        t.getF F.pwrStat_skip = 2 ∧ onlyRegs [regKey R.pwrStat 0] s t)) ∧
      (100 * p ≤ 105 * s.getF F.pwrStat_cap ∨ s.getF F.pwrStat_skip ≠ 0 → idles (.fastThrottle p) s)) ∧
    (∀ (excess : Bool) (us : Nat),
      (s.getF F.pwrStat_skip ≠ 0 → excess = true ∨ 100 ≤ us → completes (.fastThrottleStep excess us) s (fun t =>
        t.getF F.pwrStat_skip = (if excess then min 15 (s.getF F.pwrStat_skip + 1) else s.getF F.pwrStat_skip - 1) ∧
        onlyRegs [regKey R.pwrStat 0] s t)) ∧
      (s.getF F.pwrStat_skip = 0 ∨ excess = false ∧ us < 100 → idles (.fastThrottleStep excess us) s)) ∧
    (∀ (c : BitVec 10) (ma : Nat), completes (.regionCycleSkip c ma) s (fun t =>
      tget 0 t.heat.skips c.toNat = (if tget 0 s.heat.skips c.toNat = 0 then (if 3500 ≤ ma then 2 else 0)
        else if ma < 3200 then 0 else min 15 (tget 0 s.heat.skips c.toNat + 1)) ∧
      (∀ k, k ≠ c.toNat → tget 0 t.heat.skips k = tget 0 s.heat.skips k) ∧
      t = { s with heat := { s.heat with skips := t.heat.skips }, out := [] })) ∧
    (∀ x : Nat, s.heat.lowSince = some x → s.onF F.pwrCap_mode = true → x + 1000000000 ≤ now → s.getF F.pwrStat_state = 0 →
      s.tick.running = true → completes (.coolantLoss now) s (fun t =>
        t.getF F.pwrStat_state = 1 ∧ t.getF F.pwrStat_cause = 4 ∧ t.tick = s.tick ∧ t.devMem = s.devMem)) ∧
    (s.heat.lowSince = none ∨ s.onF F.pwrCap_mode = false ∨ s.getF F.pwrStat_state = 1 ∨ s.getF F.pwrStat_state = 2 →
      idlesAt (.coolantLoss now) now s) ∧
    (∀ (c : Instr), (∃ lowNs, c = .pwrfail lowNs now ∧ 1000 ≤ lowNs) ∨ (∃ mv, c = .railFault mv now ∧ mv < 1550 ∧ s.keep.inKeep = false) →
      s.heldInReset = false → s.start.pwrfailLow = false → s.keep.inKeep = false → s.onF F.pwrKeep_keep_ok = false → s.tick.running = true →
      (s.keepArmed = true → completes c s (fun t =>
        t.getF F.pwrStat_state = 3 ∧ t.keep.entryAt = some now ∧ t.commit = none ∧ t.autos = [] ∧ t.start.pwrfailLow = true ∧
        t.otpJob = none ∧ t.imgJob = none ∧ t.devMem = s.devMem)) ∧
      (s.keepArmed = false → s.getF F.pwrStat_state = 0 → completes c s (fun t =>
        t.getF F.pwrStat_state = 1 ∧ t.getF F.pwrStat_cause = 5 ∧ t.start.pwrfailLow = true ∧ t.otpJob = none ∧ t.imgJob = none ∧
        t.devMem = s.devMem))) ∧
    (∀ n : Nat, n < 1000 ∨ s.heldInReset = true ∨ s.start.pwrfailLow = true → idlesAt (.pwrfail n now) now s) ∧
    (∀ mv : Nat, 1550 ≤ mv ∨ s.heldInReset = true ∨ s.start.pwrfailLow = true ∨ s.keep.inKeep = true → idlesAt (.railFault mv now) now s) ∧
    (∀ okNs : Nat,
      (s.getF F.pwrStat_state = 2 → s.getF F.pwrStat_cause = 5 ∨ s.getF F.pwrStat_cause = 6 → 10000000 ≤ okNs →
        s.onF F.pwrKeep_keep_ok = false → s.otpJob = none → s.imgJob = none → completes (.pwrfailNRelease okNs) s (fun t =>
          t.start.loading = true ∧ t.start.pwrfailLow = false ∧ t.getF F.rstCause_cold ≤ 2 ∧ t.getF F.pwrStat_state = 0 ∧ t.devMem = [])) ∧
      (s.getF F.pwrStat_state ≠ 2 ∨ s.getF F.pwrStat_cause ≠ 5 ∧ s.getF F.pwrStat_cause ≠ 6 ∨ okNs < 10000000 →
        completes (.pwrfailNRelease okNs) s (fun t => t = { s with start := { s.start with pwrfailLow := false }, out := [] })))

/-- Keep (R496 to R501): a tick that would end too late stops, and one whose window is open keeps its outputs and has no edge; once compute has stopped and the ring is released, the record is written
and the lofts refresh themselves; an entry not complete by 1.80 ms is abandoned; Keep is given up for a bad record or
through I3C; its end is a cold reset that keeps the lofts and the record. -/
def Obligations.KeepIsEnteredAndLeft : Prop :=
  ∀ (now : Nat) (s : State),
    (∀ t0 : Nat, s.keep.entryAt = some t0 → s.getF F.pwrStat_state = 3 →
      (s.tick.running = true → s.tick.windowOpen = false → t0 + 1400000 ≤ now → t0 + 1400000 < s.tick.edgeAt + s.deadline →
        completes (.keepStageStop now) s (fun t =>
          t.tick.running = false ∧ (∀ c ∈ s.unfinished, (t.cell c).stopped = true) ∧
          (∀ j ∈ s.activeJobs, (t.prog j).invalid = false ∧ (t.prog j).replayNext = (s.prog j).replaying))) ∧
      (s.tick.running = true → s.tick.windowOpen = true → t0 + 1400000 ≤ now → completes (.keepStageStop now) s (fun t =>
        t.tick = { s.tick with running := false, windowOpen := false } ∧ t.ctl = s.ctl ∧ t.cells = s.cells ∧ sameMemories s t)) ∧
      (s.tick.running = false ∨ now < t0 + 1400000 ∨ s.tick.windowOpen = false ∧ s.tick.edgeAt + s.deadline ≤ t0 + 1400000 →
        idlesAt (.keepStageStop now) now s) ∧
      (s.tick.running = false → s.heldPlanes = [] → now ≤ t0 + 1800000 → s.keep.inKeep = false → completes (.keepEntered now) s (fun t =>
        t.keep.inKeep = true ∧ t.keep.enteredAt = now ∧ t.keep.record.map KeepRec.ctl = some s.ctl ∧ t.onF F.pwrKeep_keep_ok = true ∧
        t.onF F.pwrKeep_record = true ∧ (∀ c ∈ allCells, (t.chan c).selfRefresh = true))) ∧
      (s.keep.inKeep = false → t0 + 1800000 ≤ now → completes (.keepEntryAbandoned now) s (fun t =>
        t.keep.entryAt = none ∧ t.getF F.pwrKeep_last = 3 ∧ t.getF F.pwrStat_state = 2 ∧ t.getF F.pwrStat_cause = 6 ∧
        (∀ c ∈ allCells, (t.chan c).selfRefresh = true)))) ∧
    (s.keep.entryAt = none → idlesAt (.keepStageStop now) now s ∧ idlesAt (.keepEntered now) now s ∧
      idlesAt (.keepEntryAbandoned now) now s) ∧
    (∀ (rs : List Reading) (bad : Bool), (Instr.keepCheck rs [] bad now).wellFormed = true →
      (s.keep.inKeep = false → idlesAt (.keepCheck rs [] bad now) now s) ∧
      (s.keep.inKeep = true → bad = false → (∀ r ∈ rs, r.value ≤ deg 95) → completes (.keepCheck rs [] bad now) s (fun t =>
        t.keep = s.keep ∧ t.ctl = s.ctl ∧ sameMemories s t ∧ t.reg R.pwrKeep 0 = s.reg R.pwrKeep 0)) ∧
      (s.keep.inKeep = true → bad = true → s.start.railsLow = [] → completes (.keepCheck rs [] bad now) s (fun t =>
        t.keep = {} ∧ t.devMem = [] ∧ t.onF F.pwrKeep_keep_ok = false ∧ t.getF F.pwrKeep_last = 2 ∧ t.getF F.pwrStat_state = 2 ∧
        t.getF F.pwrStat_cause = 6))) ∧
    (∀ by_ : Requester,
      (by_ ≠ .i3c ∨ s.keep.inKeep = false → idles (.keepAbandonWrite by_) s) ∧
      (by_ = .i3c → s.keep.inKeep = true → s.start.railsLow = [] → completes (.keepAbandonWrite by_) s (fun t =>
        t.keep = {} ∧ t.devMem = [] ∧ t.onF F.pwrKeep_keep_ok = false ∧ t.getF F.pwrKeep_last = 2 ∧ t.getF F.pwrStat_state = 2 ∧
        t.getF F.pwrStat_cause = 6))) ∧
    (s.keep.inKeep = false → idlesAt (.keepEnd now) now s) ∧
    (s.keep.inKeep = true → s.onF F.pwrKeep_keep_ok = true → s.otpJob = none → s.imgJob = none → completes (.keepEnd now) s (fun t =>
      t.keep.inKeep = false ∧ t.keep.record = s.keep.record ∧ t.devMem = s.devMem ∧ t.start.loading = true ∧ t.start.railsLow = [] ∧
      t.getF F.rstCause_cold = 5 ∧ t.onF F.pwrKeep_keep_ok = true ∧
      t.getF F.pwrKeep_held_s = min ((now - s.keep.enteredAt) / 1000000000) (2 ^ 32 - 1)))

/-! ## The I3C port -/

/-- The I3C port (R513, R537 to R539): it answers from the end of Steading boot; a malformed write sets cause 2, one of a register that is
not open cause 1; private reads go on from the read pointer. -/
def Obligations.TheI3cPortAnswers : Prop :=
  ∀ (now : Nat) (s : State),
    (s.start.bootDone = false →
      (∀ bytes, idlesAt (.i3cWriteRegister bytes now) now s ∧ idles (.i3cSetReadPointer bytes) s ∧ idles (.i3cWriteWords bytes) s) ∧
      (∀ n, idlesAt (.i3cPrivateRead n now) now s) ∧ (∀ a b, idles (.i3cSetdasa a b) s) ∧ (∀ a, idles (.i3cEntdaa a) s) ∧
      idles .i3cGetstatus s) ∧
    (s.start.bootDone = true →
      (∀ bytes : List Byte,
        (i3cOffset bytes = none ∨ bytes.length ≠ 12 → completes (.i3cWriteRegister bytes now) s (fun t =>
          t = { s with i3c := { s.i3c with cause := 2 }, out := [], now := max s.now now })) ∧
        (∀ o : Nat, i3cOffset bytes = some o → bytes.length = 12 →
          ((s.at_ now).mayWrite .i3c o = false → completes (.i3cWriteRegister bytes now) s (fun t =>
            t = { s with i3c := { s.i3c with cause := 1 }, out := [], now := max s.now now })) ∧
          (o = R.thmCool.off → completes (.i3cWriteRegister bytes now) s (fun t =>
            t.getF F.thmCool_t_in = fieldAt bytes 4 2 ∧ t.heat.coolWritten = some now ∧ sameRegs [regKey R.thmCool 0] s t ∧
            t = { s with regs := t.regs, heat := t.heat, out := [], now := max s.now now }))) ∧
        (i3cOffset bytes = none ∨ bytes.length ≠ 4 → completes (.i3cSetReadPointer bytes) s (fun t =>
          t = { s with i3c := { s.i3c with cause := 2 }, out := [] })) ∧
        (∀ o : Nat, i3cOffset bytes = some o → bytes.length = 4 → completes (.i3cSetReadPointer bytes) s (fun t =>
          t = { s with i3c := { s.i3c with pointer := o }, out := [] })) ∧
        (i3cOffset bytes = none ∨ bytes.length % 8 ≠ 4 ∨ bytes.length < 12 ∨ 260 < bytes.length →
          completes (.i3cWriteWords bytes) s (fun t => t = { s with i3c := { s.i3c with cause := 2 }, out := [] })) ∧
        (∀ o n : Nat, i3cOffset bytes = some o → bytes.length = 4 + 8 * n → 1 ≤ n → n ≤ 32 →
          (rcvBase ≤ o ∧ o + 8 * n ≤ rcvBase + 0x1000000 ∧ bitOf s.flagsActive 2 = true → completes (.i3cWriteWords bytes) s (fun t =>
            mread t.rcvBuf (o - rcvBase) (8 * n) = bytes.drop 4 ∧
            (∀ b : Nat, b < o - rcvBase ∨ o - rcvBase + 8 * n ≤ b → mget t.rcvBuf b = mget s.rcvBuf b) ∧
            t = { s with rcvBuf := t.rcvBuf, out := [] })) ∧
          (o < rcvBase ∨ rcvBase + 0x1000000 < o + 8 * n → completes (.i3cWriteWords bytes) s (fun t =>
            t = { s with i3c := { s.i3c with cause := 1 }, out := [] })))) ∧
      (∀ n : Nat, 1 ≤ n → completes (.i3cPrivateRead n now) s (fun t =>
        t.i3c = { s.i3c with pointer := (s.i3c.pointer + 8 * n) % 2 ^ 32 } ∧ t.out.length = n ∧ sameMemories s t ∧ t.ctl = s.ctl)) ∧
      (s.i3c.pointer % 8 = 0 → completes (.i3cPrivateRead 1 now) s (fun t =>
        t.out = [.regData (({ s with out := [], now := max s.now now } : State).bar0Word .i3c s.i3c.pointer)])) ∧
      (∀ a b : BitVec 7,
        (a = 0x4C → completes (.i3cSetdasa a b) s (fun t => t = { s with i3c := { s.i3c with dynAddr := some b.toNat }, out := [] })) ∧
        (a ≠ 0x4C → idles (.i3cSetdasa a b) s) ∧
        (s.i3c.dynAddr = none → completes (.i3cEntdaa b) s (fun t =>
          t.i3c = { s.i3c with dynAddr := some b.toNat } ∧
          (∃ high, high < 65536 ∧ t.out = [.status (s.serial % 2 ^ 32 + high * 2 ^ 32)]) ∧ t.regs = s.regs ∧ sameMemories s t)) ∧
        (s.i3c.dynAddr.isSome = true → idles (.i3cEntdaa b) s)) ∧
      completes .i3cGetstatus s (fun t =>
        (∃ low, low < 256 ∧ t.out = [.status (s.i3c.cause * 256 + low)]) ∧ t.i3c = { s.i3c with cause := 0 } ∧ t.regs = s.regs ∧
        sameMemories s t)) ∧
    (∀ ns : Nat,
      (ns < 100000000 → idles (.i3cIbiTimeout ns) s) ∧
      (100000000 ≤ ns → completes (.i3cIbiTimeout ns) s (fun t => t = { s with i3c := { s.i3c with ibis := s.i3c.ibis.drop 1 }, out := [] })))

/-! ## Registers -/

/-- Offsets of BAR0 that hold no register (R13): a read answers zero, a write changes nothing, and neither leaves anything else. -/
def Obligations.OffsetsWithoutRegisterReadZero : Prop :=
  ∀ (by_ : Requester) (o : BitVec 26) (n now : Nat) (v : Word) (s : State), regAt (o.toNat / 8 * 8) = none →
    inAtt o.toNat = false → inRcv o.toNat = false → inMirror o.toNat = false →
    completes (.rcRead by_ (.bar0 o) n now) s (fun t =>
      t = { s with out := [.regData 0], fresh := t.fresh, now := max s.now now }) ∧
    idlesAt (.registerWrite by_ (.bar0 o) n v now) now s

/-- Registers behave by their access codes (R7, R9, R12, R509): a read answers the register and clears the RC fields it covers; a write
of a register that does nothing else sets its RW fields, clears its W1C fields where a 1 is written, and changes no other
bit; an access of another size or alignment reads zero and writes nothing. -/
def Obligations.RegistersGoByTheirAccessCodes : Prop :=
  ∀ (by_ : Requester) (o : BitVec 26) (r : Reg) (i now : Nat) (s : State),
    (regAt (o.toNat / 8 * 8) = some r → inPages o.toNat = true → (s.at_ now).mayRead by_ (o.toNat / 8 * 8) = true → i = s.readInst by_ r →
      i < instances r.shown → o.toNat % 8 = 0 → completes (.rcRead by_ (.bar0 o) 8 now) s (fun t =>
        t.out = [.regData (({ s with out := [], now := max s.now now } : State).shows r i)] ∧
        t.reg r i = s.reg r i &&& ~~~accMask .rc r ∧ sameRegs [regKey r i] s t ∧
        t = { s with regs := t.regs, out := t.out, fresh := t.fresh, now := max s.now now })) ∧
    (∀ (n : Nat) (v : Word), regAt (o.toNat / 8 * 8) = some r → inRcv o.toNat = false → (s.at_ now).mayWrite by_ o.toNat = true →
      i = s.shownInst by_ r → i < instances r.shown → accessOk o.toNat n = true → stRegs.contains r = false →
      actSystem by_ r now (writeMask o.toNat n) (writeValue o.toNat v &&& writeMask o.toNat n) = none →
      actUnit r i (writeMask o.toNat n) (writeValue o.toNat v &&& writeMask o.toNat n) = none →
      completes (.registerWrite by_ (.bar0 o) n v now) s (fun t =>
        t.reg r i = ((s.reg r i &&& ~~~(accMask .rw r &&& writeMask o.toNat n)) ||| (writeValue o.toNat v &&& (accMask .rw r &&& writeMask o.toNat n))) &&&
          ~~~(writeValue o.toNat v &&& (accMask .w1c r &&& writeMask o.toNat n)) ∧
        onlyRegsAt now [regKey r i] s t)) ∧
    (∀ (n : Nat) (v : Word), accessOk o.toNat n = false →
      completes (.rcRead by_ (.bar0 o) n now) s (fun t => t = { s with out := [.regData 0], now := max s.now now }) ∧
      (inRcv o.toNat = false → idlesAt (.registerWrite by_ (.bar0 o) n v now) now s))

/-- The prefix table's flush waits for the window, and an identifier leaves quarantine once two further edges have passed (R232, R236). -/
def Obligations.IdentifiersLeaveQuarantine : Prop :=
  ∀ s : State,
    (s.mayWrite .host R.pfxCtl.off = true → completes .prefixFlush s (fun t =>
      t.onF F.pfxCtl_flush = true ∧ onlyRegs [regKey R.pfxCtl 0] s t)) ∧
    (s.mayWrite .host R.pfxCtl.off = false → idles .prefixFlush s) ∧
    (∀ i : BitVec 16,
      (s.inQuarantine (s.stream i.toNat).released = true → idles (.quarantineEnd (.stream i)) s) ∧
      (s.inQuarantine (s.stream i.toNat).released = false → completes (.quarantineEnd (.stream i)) s (fun t =>
        t.stream i.toNat = { s.stream i.toNat with released := none } ∧ (∀ k, k ≠ i.toNat → t.stream k = s.stream k) ∧
        t = { s with ctl := { s.ctl with streams := t.ctl.streams }, out := [] }))) ∧
    (∀ i : BitVec 12,
      (s.inQuarantine (s.sheaf i.toNat).released = true → idles (.quarantineEnd (.sheaf i)) s) ∧
      (s.inQuarantine (s.sheaf i.toNat).released = false → completes (.quarantineEnd (.sheaf i)) s (fun t =>
        t.sheaf i.toNat = { s.sheaf i.toNat with released := none } ∧ (∀ k, k ≠ i.toNat → t.sheaf k = s.sheaf k) ∧
        t = { s with ctl := { s.ctl with sheafs := t.ctl.sheafs }, out := [] }))) ∧
    (∀ j : BitVec 3,
      (s.inQuarantine (s.prog j.toNat).released = true → idles (.quarantineEnd (.job j)) s) ∧
      (s.inQuarantine (s.prog j.toNat).released = false → completes (.quarantineEnd (.job j)) s (fun t =>
        t.prog j.toNat = { s.prog j.toNat with
          released := none, state := if (s.prog j.toNat).state = .quarantine then .free else (s.prog j.toNat).state } ∧
        (∀ k, k ≠ j.toNat → t.prog k = s.prog k) ∧ t = { s with ctl := { s.ctl with progs := t.ctl.progs }, out := [] }))) ∧
    (∀ (j : BitVec 3) (c : BitVec 10) (e : BitVec 2) (n : BitVec 24) (k : Nat), k = poolKey j.toNat c.toNat e.toNat n.toNat →
      (s.inQuarantine (s.poolSlot k).released = true → idles (.quarantineEnd (.page j c e n)) s) ∧
      (s.inQuarantine (s.poolSlot k).released = false → completes (.quarantineEnd (.page j c e n)) s (fun t =>
        t.poolSlot k = { s.poolSlot k with released := none } ∧ (∀ i, i ≠ k → t.poolSlot i = s.poolSlot i) ∧
        t = { s with ctl := { s.ctl with pools := t.ctl.pools }, out := [] })))
end

