-- ==== Sys2Proof/Laws/Digests.lean ====
section
/-! SUPPORT. The lengths of byte strings and digests. -/

namespace Sys2Proof.Machine

set_option Elab.async false

/-- A number takes as many bytes as asked for. -/
@[simp] theorem leBytes_length (n v : Nat) : (leBytes n v).length = n := by
  induction n generalizing v with
  | zero => rfl
  | succ n ih => simp [leBytes, ih]

/-- A round of Keccak-f keeps 25 lanes. -/
theorem keccakRound_length (a : List Word) (rc : Word) : (keccakRound a rc).length = 25 := by
  simp [keccakRound, stepChi, planeMap]

/-- A fold over a step that keeps a length keeps it. -/
theorem foldl_length {α β : Type} (f : List α → β → List α) (n : Nat) (hf : ∀ a b, a.length = n → (f a b).length = n) (l : List β) (a : List α)
    (ha : a.length = n) : (l.foldl f a).length = n := by
  induction l generalizing a with
  | nil => exact ha
  | cons b l ih => exact ih _ (hf a b ha)

/-- A digest has the length asked for. -/
theorem shake256_length (msg : List Byte) (n : Nat) (h : n ≤ 200) : (shake256 msg n).length = n := by
  have key : ∀ l : List (List Byte), ((l.foldl absorb (List.replicate 25 0)).flatMap (fun w => leBytes 8 w.toNat)).length = 200 := by
    intro l
    have h25 := foldl_length absorb 25 (fun a b _ => by
      simp only [absorb, keccakF]
      exact foldl_length keccakRound 25 (fun _ _ _ => keccakRound_length _ _) _ _ (by simp)) l (List.replicate 25 0) (by simp)
    have h8 : ∀ a : List Word, (a.flatMap (fun w => leBytes 8 w.toNat)).length = 8 * a.length := by
      intro a; induction a with
      | nil => rfl
      | cons w r ih => simp [leBytes_length] at ih ⊢; omega
    rw [h8, h25]
  simp only [shake256, List.length_take, key]
  omega

end Sys2Proof.Machine
end

