-- ==== Sys2Proof/Laws/State.lean ====
section
/-! SUPPORT. One lemma per field for each update of the state (Ops.lean): the fields it leaves, and what the named
views of the state then read. All hold by computation; no later proof has to unfold a record update. -/

namespace Sys2Proof.Machine

variable (s : State)

/-! ### setReg changes regs -/

@[simp] theorem State.setReg_pending (r : Reg) (i : Nat) (w : Word) : (s.setReg r i w).pending = s.pending := rfl
@[simp] theorem State.setReg_staged (r : Reg) (i : Nat) (w : Word) : (s.setReg r i w).staged = s.staged := rfl
@[simp] theorem State.setReg_now (r : Reg) (i : Nat) (w : Word) : (s.setReg r i w).now = s.now := rfl
@[simp] theorem State.setReg_fresh (r : Reg) (i : Nat) (w : Word) : (s.setReg r i w).fresh = s.fresh := rfl
@[simp] theorem State.setReg_out (r : Reg) (i : Nat) (w : Word) : (s.setReg r i w).out = s.out := rfl
@[simp] theorem State.setReg_devMem (r : Reg) (i : Nat) (w : Word) : (s.setReg r i w).devMem = s.devMem := rfl
@[simp] theorem State.setReg_hostMem (r : Reg) (i : Nat) (w : Word) : (s.setReg r i w).hostMem = s.hostMem := rfl
@[simp] theorem State.setReg_flash (r : Reg) (i : Nat) (w : Word) : (s.setReg r i w).flash = s.flash := rfl
@[simp] theorem State.setReg_otp (r : Reg) (i : Nat) (w : Word) : (s.setReg r i w).otp = s.otp := rfl
@[simp] theorem State.setReg_fuseCells (r : Reg) (i : Nat) (w : Word) : (s.setReg r i w).fuseCells = s.fuseCells := rfl
@[simp] theorem State.setReg_rcvBuf (r : Reg) (i : Nat) (w : Word) : (s.setReg r i w).rcvBuf = s.rcvBuf := rfl
@[simp] theorem State.setReg_loftErr (r : Reg) (i : Nat) (w : Word) : (s.setReg r i w).loftErr = s.loftErr := rfl
@[simp] theorem State.setReg_ueTick (r : Reg) (i : Nat) (w : Word) : (s.setReg r i w).ueTick = s.ueTick := rfl
@[simp] theorem State.setReg_ctl (r : Reg) (i : Nat) (w : Word) : (s.setReg r i w).ctl = s.ctl := rfl
@[simp] theorem State.setReg_tick (r : Reg) (i : Nat) (w : Word) : (s.setReg r i w).tick = s.tick := rfl
@[simp] theorem State.setReg_commit (r : Reg) (i : Nat) (w : Word) : (s.setReg r i w).commit = s.commit := rfl
@[simp] theorem State.setReg_autos (r : Reg) (i : Nat) (w : Word) : (s.setReg r i w).autos = s.autos := rfl
@[simp] theorem State.setReg_stagedAfter (r : Reg) (i : Nat) (w : Word) : (s.setReg r i w).stagedAfter = s.stagedAfter := rfl
@[simp] theorem State.setReg_cells (r : Reg) (i : Nat) (w : Word) : (s.setReg r i w).cells = s.cells := rfl
@[simp] theorem State.setReg_resets (r : Reg) (i : Nat) (w : Word) : (s.setReg r i w).resets = s.resets := rfl
@[simp] theorem State.setReg_chans (r : Reg) (i : Nat) (w : Word) : (s.setReg r i w).chans = s.chans := rfl
@[simp] theorem State.setReg_stackTbl (r : Reg) (i : Nat) (w : Word) : (s.setReg r i w).stackTbl = s.stackTbl := rfl
@[simp] theorem State.setReg_hubErr (r : Reg) (i : Nat) (w : Word) : (s.setReg r i w).hubErr = s.hubErr := rfl
@[simp] theorem State.setReg_hubSpares (r : Reg) (i : Nat) (w : Word) : (s.setReg r i w).hubSpares = s.hubSpares := rfl
@[simp] theorem State.setReg_fullBuckets (r : Reg) (i : Nat) (w : Word) : (s.setReg r i w).fullBuckets = s.fullBuckets := rfl
@[simp] theorem State.setReg_halfAsked (r : Reg) (i : Nat) (w : Word) : (s.setReg r i w).halfAsked = s.halfAsked := rfl
@[simp] theorem State.setReg_accWait (r : Reg) (i : Nat) (w : Word) : (s.setReg r i w).accWait = s.accWait := rfl
@[simp] theorem State.setReg_arrivals (r : Reg) (i : Nat) (w : Word) : (s.setReg r i w).arrivals = s.arrivals := rfl
@[simp] theorem State.setReg_ports (r : Reg) (i : Nat) (w : Word) : (s.setReg r i w).ports = s.ports := rfl
@[simp] theorem State.setReg_links (r : Reg) (i : Nat) (w : Word) : (s.setReg r i w).links = s.links := rfl
@[simp] theorem State.setReg_ring (r : Reg) (i : Nat) (w : Word) : (s.setReg r i w).ring = s.ring := rfl
@[simp] theorem State.setReg_sqTails (r : Reg) (i : Nat) (w : Word) : (s.setReg r i w).sqTails = s.sqTails := rfl
@[simp] theorem State.setReg_cqHeads (r : Reg) (i : Nat) (w : Word) : (s.setReg r i w).cqHeads = s.cqHeads := rfl
@[simp] theorem State.setReg_msix (r : Reg) (i : Nat) (w : Word) : (s.setReg r i w).msix = s.msix := rfl
@[simp] theorem State.setReg_wroteCq (r : Reg) (i : Nat) (w : Word) : (s.setReg r i w).wroteCq = s.wroteCq := rfl
@[simp] theorem State.setReg_heldCq (r : Reg) (i : Nat) (w : Word) : (s.setReg r i w).heldCq = s.heldCq := rfl
@[simp] theorem State.setReg_chutes (r : Reg) (i : Nat) (w : Word) : (s.setReg r i w).chutes = s.chutes := rfl
@[simp] theorem State.setReg_ramps (r : Reg) (i : Nat) (w : Word) : (s.setReg r i w).ramps = s.ramps := rfl
@[simp] theorem State.setReg_start (r : Reg) (i : Nat) (w : Word) : (s.setReg r i w).start = s.start := rfl
@[simp] theorem State.setReg_logRing (r : Reg) (i : Nat) (w : Word) : (s.setReg r i w).logRing = s.logRing := rfl
@[simp] theorem State.setReg_stdBuf (r : Reg) (i : Nat) (w : Word) : (s.setReg r i w).stdBuf = s.stdBuf := rfl
@[simp] theorem State.setReg_logPend (r : Reg) (i : Nat) (w : Word) : (s.setReg r i w).logPend = s.logPend := rfl
@[simp] theorem State.setReg_logTimes (r : Reg) (i : Nat) (w : Word) : (s.setReg r i w).logTimes = s.logTimes := rfl
@[simp] theorem State.setReg_rakeAt (r : Reg) (i : Nat) (w : Word) : (s.setReg r i w).rakeAt = s.rakeAt := rfl
@[simp] theorem State.setReg_rakeDue (r : Reg) (i : Nat) (w : Word) : (s.setReg r i w).rakeDue = s.rakeDue := rfl
@[simp] theorem State.setReg_sensors (r : Reg) (i : Nat) (w : Word) : (s.setReg r i w).sensors = s.sensors := rfl
@[simp] theorem State.setReg_heat (r : Reg) (i : Nat) (w : Word) : (s.setReg r i w).heat = s.heat := rfl
@[simp] theorem State.setReg_keep (r : Reg) (i : Nat) (w : Word) : (s.setReg r i w).keep = s.keep := rfl
@[simp] theorem State.setReg_i3c (r : Reg) (i : Nat) (w : Word) : (s.setReg r i w).i3c = s.i3c := rfl
@[simp] theorem State.setReg_seqStores (r : Reg) (i : Nat) (w : Word) : (s.setReg r i w).seqStores = s.seqStores := rfl
@[simp] theorem State.setReg_repairMark (r : Reg) (i : Nat) (w : Word) : (s.setReg r i w).repairMark = s.repairMark := rfl
@[simp] theorem State.setReg_otpJob (r : Reg) (i : Nat) (w : Word) : (s.setReg r i w).otpJob = s.otpJob := rfl
@[simp] theorem State.setReg_imgJob (r : Reg) (i : Nat) (w : Word) : (s.setReg r i w).imgJob = s.imgJob := rfl
@[simp] theorem State.setReg_attBody (r : Reg) (i : Nat) (w : Word) : (s.setReg r i w).attBody = s.attBody := rfl
@[simp] theorem State.setReg_report (r : Reg) (i : Nat) (w : Word) : (s.setReg r i w).report = s.report := rfl
@[simp] theorem State.setReg_attZero (r : Reg) (i : Nat) (w : Word) : (s.setReg r i w).attZero = s.attZero := rfl
@[simp] theorem State.setReg_jtagReset (r : Reg) (i : Nat) (w : Word) : (s.setReg r i w).jtagReset = s.jtagReset := rfl
@[simp] theorem State.setReg_minSvn (r : Reg) (i : Nat) (w : Word) : (s.setReg r i w).minSvn = s.minSvn := rfl
@[simp] theorem State.setReg_flagsActive (r : Reg) (i : Nat) (w : Word) : (s.setReg r i w).flagsActive = s.flagsActive := rfl
@[simp] theorem State.setReg_svn (r : Reg) (i : Nat) (w : Word) : (s.setReg r i w).svn = s.svn := rfl
@[simp] theorem State.setReg_snap (r : Reg) (i : Nat) (w : Word) : (s.setReg r i w).snap = s.snap := rfl
@[simp] theorem State.setReg_stagedReg (r : Reg) (i : Nat) (w : Word) (q : Reg) (m : Nat) : (s.setReg r i w).stagedReg q m = s.stagedReg q m := rfl
@[simp] theorem State.setReg_cell (r : Reg) (i : Nat) (w : Word) (m : Nat) : (s.setReg r i w).cell m = s.cell m := rfl
@[simp] theorem State.setReg_chan (r : Reg) (i : Nat) (w : Word) (m : Nat) : (s.setReg r i w).chan m = s.chan m := rfl
@[simp] theorem State.setReg_port (r : Reg) (i : Nat) (w : Word) (m : Nat) : (s.setReg r i w).port m = s.port m := rfl
@[simp] theorem State.setReg_link (r : Reg) (i : Nat) (w : Word) (m : Nat) : (s.setReg r i w).link m = s.link m := rfl
@[simp] theorem State.setReg_prog (r : Reg) (i : Nat) (w : Word) (m : Nat) : (s.setReg r i w).prog m = s.prog m := rfl
@[simp] theorem State.setReg_sheaf (r : Reg) (i : Nat) (w : Word) (m : Nat) : (s.setReg r i w).sheaf m = s.sheaf m := rfl
@[simp] theorem State.setReg_stream (r : Reg) (i : Nat) (w : Word) (m : Nat) : (s.setReg r i w).stream m = s.stream m := rfl

/-! ### setStaged changes staged -/

@[simp] theorem State.setStaged_pending (r : Reg) (i : Nat) (w : Word) : (s.setStaged r i w).pending = s.pending := rfl
@[simp] theorem State.setStaged_regs (r : Reg) (i : Nat) (w : Word) : (s.setStaged r i w).regs = s.regs := rfl
@[simp] theorem State.setStaged_now (r : Reg) (i : Nat) (w : Word) : (s.setStaged r i w).now = s.now := rfl
@[simp] theorem State.setStaged_fresh (r : Reg) (i : Nat) (w : Word) : (s.setStaged r i w).fresh = s.fresh := rfl
@[simp] theorem State.setStaged_out (r : Reg) (i : Nat) (w : Word) : (s.setStaged r i w).out = s.out := rfl
@[simp] theorem State.setStaged_devMem (r : Reg) (i : Nat) (w : Word) : (s.setStaged r i w).devMem = s.devMem := rfl
@[simp] theorem State.setStaged_hostMem (r : Reg) (i : Nat) (w : Word) : (s.setStaged r i w).hostMem = s.hostMem := rfl
@[simp] theorem State.setStaged_flash (r : Reg) (i : Nat) (w : Word) : (s.setStaged r i w).flash = s.flash := rfl
@[simp] theorem State.setStaged_otp (r : Reg) (i : Nat) (w : Word) : (s.setStaged r i w).otp = s.otp := rfl
@[simp] theorem State.setStaged_fuseCells (r : Reg) (i : Nat) (w : Word) : (s.setStaged r i w).fuseCells = s.fuseCells := rfl
@[simp] theorem State.setStaged_rcvBuf (r : Reg) (i : Nat) (w : Word) : (s.setStaged r i w).rcvBuf = s.rcvBuf := rfl
@[simp] theorem State.setStaged_loftErr (r : Reg) (i : Nat) (w : Word) : (s.setStaged r i w).loftErr = s.loftErr := rfl
@[simp] theorem State.setStaged_ueTick (r : Reg) (i : Nat) (w : Word) : (s.setStaged r i w).ueTick = s.ueTick := rfl
@[simp] theorem State.setStaged_ctl (r : Reg) (i : Nat) (w : Word) : (s.setStaged r i w).ctl = s.ctl := rfl
@[simp] theorem State.setStaged_tick (r : Reg) (i : Nat) (w : Word) : (s.setStaged r i w).tick = s.tick := rfl
@[simp] theorem State.setStaged_commit (r : Reg) (i : Nat) (w : Word) : (s.setStaged r i w).commit = s.commit := rfl
@[simp] theorem State.setStaged_autos (r : Reg) (i : Nat) (w : Word) : (s.setStaged r i w).autos = s.autos := rfl
@[simp] theorem State.setStaged_stagedAfter (r : Reg) (i : Nat) (w : Word) : (s.setStaged r i w).stagedAfter = s.stagedAfter := rfl
@[simp] theorem State.setStaged_cells (r : Reg) (i : Nat) (w : Word) : (s.setStaged r i w).cells = s.cells := rfl
@[simp] theorem State.setStaged_resets (r : Reg) (i : Nat) (w : Word) : (s.setStaged r i w).resets = s.resets := rfl
@[simp] theorem State.setStaged_chans (r : Reg) (i : Nat) (w : Word) : (s.setStaged r i w).chans = s.chans := rfl
@[simp] theorem State.setStaged_stackTbl (r : Reg) (i : Nat) (w : Word) : (s.setStaged r i w).stackTbl = s.stackTbl := rfl
@[simp] theorem State.setStaged_hubErr (r : Reg) (i : Nat) (w : Word) : (s.setStaged r i w).hubErr = s.hubErr := rfl
@[simp] theorem State.setStaged_hubSpares (r : Reg) (i : Nat) (w : Word) : (s.setStaged r i w).hubSpares = s.hubSpares := rfl
@[simp] theorem State.setStaged_fullBuckets (r : Reg) (i : Nat) (w : Word) : (s.setStaged r i w).fullBuckets = s.fullBuckets := rfl
@[simp] theorem State.setStaged_halfAsked (r : Reg) (i : Nat) (w : Word) : (s.setStaged r i w).halfAsked = s.halfAsked := rfl
@[simp] theorem State.setStaged_accWait (r : Reg) (i : Nat) (w : Word) : (s.setStaged r i w).accWait = s.accWait := rfl
@[simp] theorem State.setStaged_arrivals (r : Reg) (i : Nat) (w : Word) : (s.setStaged r i w).arrivals = s.arrivals := rfl
@[simp] theorem State.setStaged_ports (r : Reg) (i : Nat) (w : Word) : (s.setStaged r i w).ports = s.ports := rfl
@[simp] theorem State.setStaged_links (r : Reg) (i : Nat) (w : Word) : (s.setStaged r i w).links = s.links := rfl
@[simp] theorem State.setStaged_ring (r : Reg) (i : Nat) (w : Word) : (s.setStaged r i w).ring = s.ring := rfl
@[simp] theorem State.setStaged_sqTails (r : Reg) (i : Nat) (w : Word) : (s.setStaged r i w).sqTails = s.sqTails := rfl
@[simp] theorem State.setStaged_cqHeads (r : Reg) (i : Nat) (w : Word) : (s.setStaged r i w).cqHeads = s.cqHeads := rfl
@[simp] theorem State.setStaged_msix (r : Reg) (i : Nat) (w : Word) : (s.setStaged r i w).msix = s.msix := rfl
@[simp] theorem State.setStaged_wroteCq (r : Reg) (i : Nat) (w : Word) : (s.setStaged r i w).wroteCq = s.wroteCq := rfl
@[simp] theorem State.setStaged_heldCq (r : Reg) (i : Nat) (w : Word) : (s.setStaged r i w).heldCq = s.heldCq := rfl
@[simp] theorem State.setStaged_chutes (r : Reg) (i : Nat) (w : Word) : (s.setStaged r i w).chutes = s.chutes := rfl
@[simp] theorem State.setStaged_ramps (r : Reg) (i : Nat) (w : Word) : (s.setStaged r i w).ramps = s.ramps := rfl
@[simp] theorem State.setStaged_start (r : Reg) (i : Nat) (w : Word) : (s.setStaged r i w).start = s.start := rfl
@[simp] theorem State.setStaged_logRing (r : Reg) (i : Nat) (w : Word) : (s.setStaged r i w).logRing = s.logRing := rfl
@[simp] theorem State.setStaged_stdBuf (r : Reg) (i : Nat) (w : Word) : (s.setStaged r i w).stdBuf = s.stdBuf := rfl
@[simp] theorem State.setStaged_logPend (r : Reg) (i : Nat) (w : Word) : (s.setStaged r i w).logPend = s.logPend := rfl
@[simp] theorem State.setStaged_logTimes (r : Reg) (i : Nat) (w : Word) : (s.setStaged r i w).logTimes = s.logTimes := rfl
@[simp] theorem State.setStaged_rakeAt (r : Reg) (i : Nat) (w : Word) : (s.setStaged r i w).rakeAt = s.rakeAt := rfl
@[simp] theorem State.setStaged_rakeDue (r : Reg) (i : Nat) (w : Word) : (s.setStaged r i w).rakeDue = s.rakeDue := rfl
@[simp] theorem State.setStaged_sensors (r : Reg) (i : Nat) (w : Word) : (s.setStaged r i w).sensors = s.sensors := rfl
@[simp] theorem State.setStaged_heat (r : Reg) (i : Nat) (w : Word) : (s.setStaged r i w).heat = s.heat := rfl
@[simp] theorem State.setStaged_keep (r : Reg) (i : Nat) (w : Word) : (s.setStaged r i w).keep = s.keep := rfl
@[simp] theorem State.setStaged_i3c (r : Reg) (i : Nat) (w : Word) : (s.setStaged r i w).i3c = s.i3c := rfl
@[simp] theorem State.setStaged_seqStores (r : Reg) (i : Nat) (w : Word) : (s.setStaged r i w).seqStores = s.seqStores := rfl
@[simp] theorem State.setStaged_repairMark (r : Reg) (i : Nat) (w : Word) : (s.setStaged r i w).repairMark = s.repairMark := rfl
@[simp] theorem State.setStaged_otpJob (r : Reg) (i : Nat) (w : Word) : (s.setStaged r i w).otpJob = s.otpJob := rfl
@[simp] theorem State.setStaged_imgJob (r : Reg) (i : Nat) (w : Word) : (s.setStaged r i w).imgJob = s.imgJob := rfl
@[simp] theorem State.setStaged_attBody (r : Reg) (i : Nat) (w : Word) : (s.setStaged r i w).attBody = s.attBody := rfl
@[simp] theorem State.setStaged_report (r : Reg) (i : Nat) (w : Word) : (s.setStaged r i w).report = s.report := rfl
@[simp] theorem State.setStaged_attZero (r : Reg) (i : Nat) (w : Word) : (s.setStaged r i w).attZero = s.attZero := rfl
@[simp] theorem State.setStaged_jtagReset (r : Reg) (i : Nat) (w : Word) : (s.setStaged r i w).jtagReset = s.jtagReset := rfl
@[simp] theorem State.setStaged_minSvn (r : Reg) (i : Nat) (w : Word) : (s.setStaged r i w).minSvn = s.minSvn := rfl
@[simp] theorem State.setStaged_flagsActive (r : Reg) (i : Nat) (w : Word) : (s.setStaged r i w).flagsActive = s.flagsActive := rfl
@[simp] theorem State.setStaged_svn (r : Reg) (i : Nat) (w : Word) : (s.setStaged r i w).svn = s.svn := rfl
@[simp] theorem State.setStaged_snap (r : Reg) (i : Nat) (w : Word) : (s.setStaged r i w).snap = s.snap := rfl
@[simp] theorem State.setStaged_reg (r : Reg) (i : Nat) (w : Word) (q : Reg) (m : Nat) : (s.setStaged r i w).reg q m = s.reg q m := rfl
@[simp] theorem State.setStaged_getF (r : Reg) (i : Nat) (w : Word) (g : Fld) (m : Nat) : (s.setStaged r i w).getF g m = s.getF g m := rfl
@[simp] theorem State.setStaged_onF (r : Reg) (i : Nat) (w : Word) (g : Fld) (m : Nat) : (s.setStaged r i w).onF g m = s.onF g m := rfl
@[simp] theorem State.setStaged_cell (r : Reg) (i : Nat) (w : Word) (m : Nat) : (s.setStaged r i w).cell m = s.cell m := rfl
@[simp] theorem State.setStaged_chan (r : Reg) (i : Nat) (w : Word) (m : Nat) : (s.setStaged r i w).chan m = s.chan m := rfl
@[simp] theorem State.setStaged_port (r : Reg) (i : Nat) (w : Word) (m : Nat) : (s.setStaged r i w).port m = s.port m := rfl
@[simp] theorem State.setStaged_link (r : Reg) (i : Nat) (w : Word) (m : Nat) : (s.setStaged r i w).link m = s.link m := rfl
@[simp] theorem State.setStaged_prog (r : Reg) (i : Nat) (w : Word) (m : Nat) : (s.setStaged r i w).prog m = s.prog m := rfl
@[simp] theorem State.setStaged_sheaf (r : Reg) (i : Nat) (w : Word) (m : Nat) : (s.setStaged r i w).sheaf m = s.sheaf m := rfl
@[simp] theorem State.setStaged_stream (r : Reg) (i : Nat) (w : Word) (m : Nat) : (s.setStaged r i w).stream m = s.stream m := rfl

/-! ### putF changes regs -/

@[simp] theorem State.putF_pending (f : Fld) (i v : Nat) : (s.putF f i v).pending = s.pending := rfl
@[simp] theorem State.putF_staged (f : Fld) (i v : Nat) : (s.putF f i v).staged = s.staged := rfl
@[simp] theorem State.putF_now (f : Fld) (i v : Nat) : (s.putF f i v).now = s.now := rfl
@[simp] theorem State.putF_fresh (f : Fld) (i v : Nat) : (s.putF f i v).fresh = s.fresh := rfl
@[simp] theorem State.putF_out (f : Fld) (i v : Nat) : (s.putF f i v).out = s.out := rfl
@[simp] theorem State.putF_devMem (f : Fld) (i v : Nat) : (s.putF f i v).devMem = s.devMem := rfl
@[simp] theorem State.putF_hostMem (f : Fld) (i v : Nat) : (s.putF f i v).hostMem = s.hostMem := rfl
@[simp] theorem State.putF_flash (f : Fld) (i v : Nat) : (s.putF f i v).flash = s.flash := rfl
@[simp] theorem State.putF_otp (f : Fld) (i v : Nat) : (s.putF f i v).otp = s.otp := rfl
@[simp] theorem State.putF_fuseCells (f : Fld) (i v : Nat) : (s.putF f i v).fuseCells = s.fuseCells := rfl
@[simp] theorem State.putF_rcvBuf (f : Fld) (i v : Nat) : (s.putF f i v).rcvBuf = s.rcvBuf := rfl
@[simp] theorem State.putF_loftErr (f : Fld) (i v : Nat) : (s.putF f i v).loftErr = s.loftErr := rfl
@[simp] theorem State.putF_ueTick (f : Fld) (i v : Nat) : (s.putF f i v).ueTick = s.ueTick := rfl
@[simp] theorem State.putF_ctl (f : Fld) (i v : Nat) : (s.putF f i v).ctl = s.ctl := rfl
@[simp] theorem State.putF_tick (f : Fld) (i v : Nat) : (s.putF f i v).tick = s.tick := rfl
@[simp] theorem State.putF_commit (f : Fld) (i v : Nat) : (s.putF f i v).commit = s.commit := rfl
@[simp] theorem State.putF_autos (f : Fld) (i v : Nat) : (s.putF f i v).autos = s.autos := rfl
@[simp] theorem State.putF_stagedAfter (f : Fld) (i v : Nat) : (s.putF f i v).stagedAfter = s.stagedAfter := rfl
@[simp] theorem State.putF_cells (f : Fld) (i v : Nat) : (s.putF f i v).cells = s.cells := rfl
@[simp] theorem State.putF_resets (f : Fld) (i v : Nat) : (s.putF f i v).resets = s.resets := rfl
@[simp] theorem State.putF_chans (f : Fld) (i v : Nat) : (s.putF f i v).chans = s.chans := rfl
@[simp] theorem State.putF_stackTbl (f : Fld) (i v : Nat) : (s.putF f i v).stackTbl = s.stackTbl := rfl
@[simp] theorem State.putF_hubErr (f : Fld) (i v : Nat) : (s.putF f i v).hubErr = s.hubErr := rfl
@[simp] theorem State.putF_hubSpares (f : Fld) (i v : Nat) : (s.putF f i v).hubSpares = s.hubSpares := rfl
@[simp] theorem State.putF_fullBuckets (f : Fld) (i v : Nat) : (s.putF f i v).fullBuckets = s.fullBuckets := rfl
@[simp] theorem State.putF_halfAsked (f : Fld) (i v : Nat) : (s.putF f i v).halfAsked = s.halfAsked := rfl
@[simp] theorem State.putF_accWait (f : Fld) (i v : Nat) : (s.putF f i v).accWait = s.accWait := rfl
@[simp] theorem State.putF_arrivals (f : Fld) (i v : Nat) : (s.putF f i v).arrivals = s.arrivals := rfl
@[simp] theorem State.putF_ports (f : Fld) (i v : Nat) : (s.putF f i v).ports = s.ports := rfl
@[simp] theorem State.putF_links (f : Fld) (i v : Nat) : (s.putF f i v).links = s.links := rfl
@[simp] theorem State.putF_ring (f : Fld) (i v : Nat) : (s.putF f i v).ring = s.ring := rfl
@[simp] theorem State.putF_sqTails (f : Fld) (i v : Nat) : (s.putF f i v).sqTails = s.sqTails := rfl
@[simp] theorem State.putF_cqHeads (f : Fld) (i v : Nat) : (s.putF f i v).cqHeads = s.cqHeads := rfl
@[simp] theorem State.putF_msix (f : Fld) (i v : Nat) : (s.putF f i v).msix = s.msix := rfl
@[simp] theorem State.putF_wroteCq (f : Fld) (i v : Nat) : (s.putF f i v).wroteCq = s.wroteCq := rfl
@[simp] theorem State.putF_heldCq (f : Fld) (i v : Nat) : (s.putF f i v).heldCq = s.heldCq := rfl
@[simp] theorem State.putF_chutes (f : Fld) (i v : Nat) : (s.putF f i v).chutes = s.chutes := rfl
@[simp] theorem State.putF_ramps (f : Fld) (i v : Nat) : (s.putF f i v).ramps = s.ramps := rfl
@[simp] theorem State.putF_start (f : Fld) (i v : Nat) : (s.putF f i v).start = s.start := rfl
@[simp] theorem State.putF_logRing (f : Fld) (i v : Nat) : (s.putF f i v).logRing = s.logRing := rfl
@[simp] theorem State.putF_stdBuf (f : Fld) (i v : Nat) : (s.putF f i v).stdBuf = s.stdBuf := rfl
@[simp] theorem State.putF_logPend (f : Fld) (i v : Nat) : (s.putF f i v).logPend = s.logPend := rfl
@[simp] theorem State.putF_logTimes (f : Fld) (i v : Nat) : (s.putF f i v).logTimes = s.logTimes := rfl
@[simp] theorem State.putF_rakeAt (f : Fld) (i v : Nat) : (s.putF f i v).rakeAt = s.rakeAt := rfl
@[simp] theorem State.putF_rakeDue (f : Fld) (i v : Nat) : (s.putF f i v).rakeDue = s.rakeDue := rfl
@[simp] theorem State.putF_sensors (f : Fld) (i v : Nat) : (s.putF f i v).sensors = s.sensors := rfl
@[simp] theorem State.putF_heat (f : Fld) (i v : Nat) : (s.putF f i v).heat = s.heat := rfl
@[simp] theorem State.putF_keep (f : Fld) (i v : Nat) : (s.putF f i v).keep = s.keep := rfl
@[simp] theorem State.putF_i3c (f : Fld) (i v : Nat) : (s.putF f i v).i3c = s.i3c := rfl
@[simp] theorem State.putF_seqStores (f : Fld) (i v : Nat) : (s.putF f i v).seqStores = s.seqStores := rfl
@[simp] theorem State.putF_repairMark (f : Fld) (i v : Nat) : (s.putF f i v).repairMark = s.repairMark := rfl
@[simp] theorem State.putF_otpJob (f : Fld) (i v : Nat) : (s.putF f i v).otpJob = s.otpJob := rfl
@[simp] theorem State.putF_imgJob (f : Fld) (i v : Nat) : (s.putF f i v).imgJob = s.imgJob := rfl
@[simp] theorem State.putF_attBody (f : Fld) (i v : Nat) : (s.putF f i v).attBody = s.attBody := rfl
@[simp] theorem State.putF_report (f : Fld) (i v : Nat) : (s.putF f i v).report = s.report := rfl
@[simp] theorem State.putF_attZero (f : Fld) (i v : Nat) : (s.putF f i v).attZero = s.attZero := rfl
@[simp] theorem State.putF_jtagReset (f : Fld) (i v : Nat) : (s.putF f i v).jtagReset = s.jtagReset := rfl
@[simp] theorem State.putF_minSvn (f : Fld) (i v : Nat) : (s.putF f i v).minSvn = s.minSvn := rfl
@[simp] theorem State.putF_flagsActive (f : Fld) (i v : Nat) : (s.putF f i v).flagsActive = s.flagsActive := rfl
@[simp] theorem State.putF_svn (f : Fld) (i v : Nat) : (s.putF f i v).svn = s.svn := rfl
@[simp] theorem State.putF_snap (f : Fld) (i v : Nat) : (s.putF f i v).snap = s.snap := rfl
@[simp] theorem State.putF_stagedReg (f : Fld) (i v : Nat) (q : Reg) (m : Nat) : (s.putF f i v).stagedReg q m = s.stagedReg q m := rfl
@[simp] theorem State.putF_cell (f : Fld) (i v : Nat) (m : Nat) : (s.putF f i v).cell m = s.cell m := rfl
@[simp] theorem State.putF_chan (f : Fld) (i v : Nat) (m : Nat) : (s.putF f i v).chan m = s.chan m := rfl
@[simp] theorem State.putF_port (f : Fld) (i v : Nat) (m : Nat) : (s.putF f i v).port m = s.port m := rfl
@[simp] theorem State.putF_link (f : Fld) (i v : Nat) (m : Nat) : (s.putF f i v).link m = s.link m := rfl
@[simp] theorem State.putF_prog (f : Fld) (i v : Nat) (m : Nat) : (s.putF f i v).prog m = s.prog m := rfl
@[simp] theorem State.putF_sheaf (f : Fld) (i v : Nat) (m : Nat) : (s.putF f i v).sheaf m = s.sheaf m := rfl
@[simp] theorem State.putF_stream (f : Fld) (i v : Nat) (m : Nat) : (s.putF f i v).stream m = s.stream m := rfl

/-! ### bump changes regs -/

@[simp] theorem State.bump_pending (f : Fld) (i n : Nat) : (s.bump f i n).pending = s.pending := rfl
@[simp] theorem State.bump_staged (f : Fld) (i n : Nat) : (s.bump f i n).staged = s.staged := rfl
@[simp] theorem State.bump_now (f : Fld) (i n : Nat) : (s.bump f i n).now = s.now := rfl
@[simp] theorem State.bump_fresh (f : Fld) (i n : Nat) : (s.bump f i n).fresh = s.fresh := rfl
@[simp] theorem State.bump_out (f : Fld) (i n : Nat) : (s.bump f i n).out = s.out := rfl
@[simp] theorem State.bump_devMem (f : Fld) (i n : Nat) : (s.bump f i n).devMem = s.devMem := rfl
@[simp] theorem State.bump_hostMem (f : Fld) (i n : Nat) : (s.bump f i n).hostMem = s.hostMem := rfl
@[simp] theorem State.bump_flash (f : Fld) (i n : Nat) : (s.bump f i n).flash = s.flash := rfl
@[simp] theorem State.bump_otp (f : Fld) (i n : Nat) : (s.bump f i n).otp = s.otp := rfl
@[simp] theorem State.bump_fuseCells (f : Fld) (i n : Nat) : (s.bump f i n).fuseCells = s.fuseCells := rfl
@[simp] theorem State.bump_rcvBuf (f : Fld) (i n : Nat) : (s.bump f i n).rcvBuf = s.rcvBuf := rfl
@[simp] theorem State.bump_loftErr (f : Fld) (i n : Nat) : (s.bump f i n).loftErr = s.loftErr := rfl
@[simp] theorem State.bump_ueTick (f : Fld) (i n : Nat) : (s.bump f i n).ueTick = s.ueTick := rfl
@[simp] theorem State.bump_ctl (f : Fld) (i n : Nat) : (s.bump f i n).ctl = s.ctl := rfl
@[simp] theorem State.bump_tick (f : Fld) (i n : Nat) : (s.bump f i n).tick = s.tick := rfl
@[simp] theorem State.bump_commit (f : Fld) (i n : Nat) : (s.bump f i n).commit = s.commit := rfl
@[simp] theorem State.bump_autos (f : Fld) (i n : Nat) : (s.bump f i n).autos = s.autos := rfl
@[simp] theorem State.bump_stagedAfter (f : Fld) (i n : Nat) : (s.bump f i n).stagedAfter = s.stagedAfter := rfl
@[simp] theorem State.bump_cells (f : Fld) (i n : Nat) : (s.bump f i n).cells = s.cells := rfl
@[simp] theorem State.bump_resets (f : Fld) (i n : Nat) : (s.bump f i n).resets = s.resets := rfl
@[simp] theorem State.bump_chans (f : Fld) (i n : Nat) : (s.bump f i n).chans = s.chans := rfl
@[simp] theorem State.bump_stackTbl (f : Fld) (i n : Nat) : (s.bump f i n).stackTbl = s.stackTbl := rfl
@[simp] theorem State.bump_hubErr (f : Fld) (i n : Nat) : (s.bump f i n).hubErr = s.hubErr := rfl
@[simp] theorem State.bump_hubSpares (f : Fld) (i n : Nat) : (s.bump f i n).hubSpares = s.hubSpares := rfl
@[simp] theorem State.bump_fullBuckets (f : Fld) (i n : Nat) : (s.bump f i n).fullBuckets = s.fullBuckets := rfl
@[simp] theorem State.bump_halfAsked (f : Fld) (i n : Nat) : (s.bump f i n).halfAsked = s.halfAsked := rfl
@[simp] theorem State.bump_accWait (f : Fld) (i n : Nat) : (s.bump f i n).accWait = s.accWait := rfl
@[simp] theorem State.bump_arrivals (f : Fld) (i n : Nat) : (s.bump f i n).arrivals = s.arrivals := rfl
@[simp] theorem State.bump_ports (f : Fld) (i n : Nat) : (s.bump f i n).ports = s.ports := rfl
@[simp] theorem State.bump_links (f : Fld) (i n : Nat) : (s.bump f i n).links = s.links := rfl
@[simp] theorem State.bump_ring (f : Fld) (i n : Nat) : (s.bump f i n).ring = s.ring := rfl
@[simp] theorem State.bump_sqTails (f : Fld) (i n : Nat) : (s.bump f i n).sqTails = s.sqTails := rfl
@[simp] theorem State.bump_cqHeads (f : Fld) (i n : Nat) : (s.bump f i n).cqHeads = s.cqHeads := rfl
@[simp] theorem State.bump_msix (f : Fld) (i n : Nat) : (s.bump f i n).msix = s.msix := rfl
@[simp] theorem State.bump_wroteCq (f : Fld) (i n : Nat) : (s.bump f i n).wroteCq = s.wroteCq := rfl
@[simp] theorem State.bump_heldCq (f : Fld) (i n : Nat) : (s.bump f i n).heldCq = s.heldCq := rfl
@[simp] theorem State.bump_chutes (f : Fld) (i n : Nat) : (s.bump f i n).chutes = s.chutes := rfl
@[simp] theorem State.bump_ramps (f : Fld) (i n : Nat) : (s.bump f i n).ramps = s.ramps := rfl
@[simp] theorem State.bump_start (f : Fld) (i n : Nat) : (s.bump f i n).start = s.start := rfl
@[simp] theorem State.bump_logRing (f : Fld) (i n : Nat) : (s.bump f i n).logRing = s.logRing := rfl
@[simp] theorem State.bump_stdBuf (f : Fld) (i n : Nat) : (s.bump f i n).stdBuf = s.stdBuf := rfl
@[simp] theorem State.bump_logPend (f : Fld) (i n : Nat) : (s.bump f i n).logPend = s.logPend := rfl
@[simp] theorem State.bump_logTimes (f : Fld) (i n : Nat) : (s.bump f i n).logTimes = s.logTimes := rfl
@[simp] theorem State.bump_rakeAt (f : Fld) (i n : Nat) : (s.bump f i n).rakeAt = s.rakeAt := rfl
@[simp] theorem State.bump_rakeDue (f : Fld) (i n : Nat) : (s.bump f i n).rakeDue = s.rakeDue := rfl
@[simp] theorem State.bump_sensors (f : Fld) (i n : Nat) : (s.bump f i n).sensors = s.sensors := rfl
@[simp] theorem State.bump_heat (f : Fld) (i n : Nat) : (s.bump f i n).heat = s.heat := rfl
@[simp] theorem State.bump_keep (f : Fld) (i n : Nat) : (s.bump f i n).keep = s.keep := rfl
@[simp] theorem State.bump_i3c (f : Fld) (i n : Nat) : (s.bump f i n).i3c = s.i3c := rfl
@[simp] theorem State.bump_seqStores (f : Fld) (i n : Nat) : (s.bump f i n).seqStores = s.seqStores := rfl
@[simp] theorem State.bump_repairMark (f : Fld) (i n : Nat) : (s.bump f i n).repairMark = s.repairMark := rfl
@[simp] theorem State.bump_otpJob (f : Fld) (i n : Nat) : (s.bump f i n).otpJob = s.otpJob := rfl
@[simp] theorem State.bump_imgJob (f : Fld) (i n : Nat) : (s.bump f i n).imgJob = s.imgJob := rfl
@[simp] theorem State.bump_attBody (f : Fld) (i n : Nat) : (s.bump f i n).attBody = s.attBody := rfl
@[simp] theorem State.bump_report (f : Fld) (i n : Nat) : (s.bump f i n).report = s.report := rfl
@[simp] theorem State.bump_attZero (f : Fld) (i n : Nat) : (s.bump f i n).attZero = s.attZero := rfl
@[simp] theorem State.bump_jtagReset (f : Fld) (i n : Nat) : (s.bump f i n).jtagReset = s.jtagReset := rfl
@[simp] theorem State.bump_minSvn (f : Fld) (i n : Nat) : (s.bump f i n).minSvn = s.minSvn := rfl
@[simp] theorem State.bump_flagsActive (f : Fld) (i n : Nat) : (s.bump f i n).flagsActive = s.flagsActive := rfl
@[simp] theorem State.bump_svn (f : Fld) (i n : Nat) : (s.bump f i n).svn = s.svn := rfl
@[simp] theorem State.bump_snap (f : Fld) (i n : Nat) : (s.bump f i n).snap = s.snap := rfl
@[simp] theorem State.bump_stagedReg (f : Fld) (i n : Nat) (q : Reg) (m : Nat) : (s.bump f i n).stagedReg q m = s.stagedReg q m := rfl
@[simp] theorem State.bump_cell (f : Fld) (i n : Nat) (m : Nat) : (s.bump f i n).cell m = s.cell m := rfl
@[simp] theorem State.bump_chan (f : Fld) (i n : Nat) (m : Nat) : (s.bump f i n).chan m = s.chan m := rfl
@[simp] theorem State.bump_port (f : Fld) (i n : Nat) (m : Nat) : (s.bump f i n).port m = s.port m := rfl
@[simp] theorem State.bump_link (f : Fld) (i n : Nat) (m : Nat) : (s.bump f i n).link m = s.link m := rfl
@[simp] theorem State.bump_prog (f : Fld) (i n : Nat) (m : Nat) : (s.bump f i n).prog m = s.prog m := rfl
@[simp] theorem State.bump_sheaf (f : Fld) (i n : Nat) (m : Nat) : (s.bump f i n).sheaf m = s.sheaf m := rfl
@[simp] theorem State.bump_stream (f : Fld) (i n : Nat) (m : Nat) : (s.bump f i n).stream m = s.stream m := rfl

/-! ### setCell changes cells -/

@[simp] theorem State.setCell_pending (c : Nat) (x : Cell) : (s.setCell c x).pending = s.pending := rfl
@[simp] theorem State.setCell_regs (c : Nat) (x : Cell) : (s.setCell c x).regs = s.regs := rfl
@[simp] theorem State.setCell_staged (c : Nat) (x : Cell) : (s.setCell c x).staged = s.staged := rfl
@[simp] theorem State.setCell_now (c : Nat) (x : Cell) : (s.setCell c x).now = s.now := rfl
@[simp] theorem State.setCell_fresh (c : Nat) (x : Cell) : (s.setCell c x).fresh = s.fresh := rfl
@[simp] theorem State.setCell_out (c : Nat) (x : Cell) : (s.setCell c x).out = s.out := rfl
@[simp] theorem State.setCell_devMem (c : Nat) (x : Cell) : (s.setCell c x).devMem = s.devMem := rfl
@[simp] theorem State.setCell_hostMem (c : Nat) (x : Cell) : (s.setCell c x).hostMem = s.hostMem := rfl
@[simp] theorem State.setCell_flash (c : Nat) (x : Cell) : (s.setCell c x).flash = s.flash := rfl
@[simp] theorem State.setCell_otp (c : Nat) (x : Cell) : (s.setCell c x).otp = s.otp := rfl
@[simp] theorem State.setCell_fuseCells (c : Nat) (x : Cell) : (s.setCell c x).fuseCells = s.fuseCells := rfl
@[simp] theorem State.setCell_rcvBuf (c : Nat) (x : Cell) : (s.setCell c x).rcvBuf = s.rcvBuf := rfl
@[simp] theorem State.setCell_loftErr (c : Nat) (x : Cell) : (s.setCell c x).loftErr = s.loftErr := rfl
@[simp] theorem State.setCell_ueTick (c : Nat) (x : Cell) : (s.setCell c x).ueTick = s.ueTick := rfl
@[simp] theorem State.setCell_ctl (c : Nat) (x : Cell) : (s.setCell c x).ctl = s.ctl := rfl
@[simp] theorem State.setCell_tick (c : Nat) (x : Cell) : (s.setCell c x).tick = s.tick := rfl
@[simp] theorem State.setCell_commit (c : Nat) (x : Cell) : (s.setCell c x).commit = s.commit := rfl
@[simp] theorem State.setCell_autos (c : Nat) (x : Cell) : (s.setCell c x).autos = s.autos := rfl
@[simp] theorem State.setCell_stagedAfter (c : Nat) (x : Cell) : (s.setCell c x).stagedAfter = s.stagedAfter := rfl
@[simp] theorem State.setCell_resets (c : Nat) (x : Cell) : (s.setCell c x).resets = s.resets := rfl
@[simp] theorem State.setCell_chans (c : Nat) (x : Cell) : (s.setCell c x).chans = s.chans := rfl
@[simp] theorem State.setCell_stackTbl (c : Nat) (x : Cell) : (s.setCell c x).stackTbl = s.stackTbl := rfl
@[simp] theorem State.setCell_hubErr (c : Nat) (x : Cell) : (s.setCell c x).hubErr = s.hubErr := rfl
@[simp] theorem State.setCell_hubSpares (c : Nat) (x : Cell) : (s.setCell c x).hubSpares = s.hubSpares := rfl
@[simp] theorem State.setCell_fullBuckets (c : Nat) (x : Cell) : (s.setCell c x).fullBuckets = s.fullBuckets := rfl
@[simp] theorem State.setCell_halfAsked (c : Nat) (x : Cell) : (s.setCell c x).halfAsked = s.halfAsked := rfl
@[simp] theorem State.setCell_accWait (c : Nat) (x : Cell) : (s.setCell c x).accWait = s.accWait := rfl
@[simp] theorem State.setCell_arrivals (c : Nat) (x : Cell) : (s.setCell c x).arrivals = s.arrivals := rfl
@[simp] theorem State.setCell_ports (c : Nat) (x : Cell) : (s.setCell c x).ports = s.ports := rfl
@[simp] theorem State.setCell_links (c : Nat) (x : Cell) : (s.setCell c x).links = s.links := rfl
@[simp] theorem State.setCell_ring (c : Nat) (x : Cell) : (s.setCell c x).ring = s.ring := rfl
@[simp] theorem State.setCell_sqTails (c : Nat) (x : Cell) : (s.setCell c x).sqTails = s.sqTails := rfl
@[simp] theorem State.setCell_cqHeads (c : Nat) (x : Cell) : (s.setCell c x).cqHeads = s.cqHeads := rfl
@[simp] theorem State.setCell_msix (c : Nat) (x : Cell) : (s.setCell c x).msix = s.msix := rfl
@[simp] theorem State.setCell_wroteCq (c : Nat) (x : Cell) : (s.setCell c x).wroteCq = s.wroteCq := rfl
@[simp] theorem State.setCell_heldCq (c : Nat) (x : Cell) : (s.setCell c x).heldCq = s.heldCq := rfl
@[simp] theorem State.setCell_chutes (c : Nat) (x : Cell) : (s.setCell c x).chutes = s.chutes := rfl
@[simp] theorem State.setCell_ramps (c : Nat) (x : Cell) : (s.setCell c x).ramps = s.ramps := rfl
@[simp] theorem State.setCell_start (c : Nat) (x : Cell) : (s.setCell c x).start = s.start := rfl
@[simp] theorem State.setCell_logRing (c : Nat) (x : Cell) : (s.setCell c x).logRing = s.logRing := rfl
@[simp] theorem State.setCell_stdBuf (c : Nat) (x : Cell) : (s.setCell c x).stdBuf = s.stdBuf := rfl
@[simp] theorem State.setCell_logPend (c : Nat) (x : Cell) : (s.setCell c x).logPend = s.logPend := rfl
@[simp] theorem State.setCell_logTimes (c : Nat) (x : Cell) : (s.setCell c x).logTimes = s.logTimes := rfl
@[simp] theorem State.setCell_rakeAt (c : Nat) (x : Cell) : (s.setCell c x).rakeAt = s.rakeAt := rfl
@[simp] theorem State.setCell_rakeDue (c : Nat) (x : Cell) : (s.setCell c x).rakeDue = s.rakeDue := rfl
@[simp] theorem State.setCell_sensors (c : Nat) (x : Cell) : (s.setCell c x).sensors = s.sensors := rfl
@[simp] theorem State.setCell_heat (c : Nat) (x : Cell) : (s.setCell c x).heat = s.heat := rfl
@[simp] theorem State.setCell_keep (c : Nat) (x : Cell) : (s.setCell c x).keep = s.keep := rfl
@[simp] theorem State.setCell_i3c (c : Nat) (x : Cell) : (s.setCell c x).i3c = s.i3c := rfl
@[simp] theorem State.setCell_seqStores (c : Nat) (x : Cell) : (s.setCell c x).seqStores = s.seqStores := rfl
@[simp] theorem State.setCell_repairMark (c : Nat) (x : Cell) : (s.setCell c x).repairMark = s.repairMark := rfl
@[simp] theorem State.setCell_otpJob (c : Nat) (x : Cell) : (s.setCell c x).otpJob = s.otpJob := rfl
@[simp] theorem State.setCell_imgJob (c : Nat) (x : Cell) : (s.setCell c x).imgJob = s.imgJob := rfl
@[simp] theorem State.setCell_attBody (c : Nat) (x : Cell) : (s.setCell c x).attBody = s.attBody := rfl
@[simp] theorem State.setCell_report (c : Nat) (x : Cell) : (s.setCell c x).report = s.report := rfl
@[simp] theorem State.setCell_attZero (c : Nat) (x : Cell) : (s.setCell c x).attZero = s.attZero := rfl
@[simp] theorem State.setCell_jtagReset (c : Nat) (x : Cell) : (s.setCell c x).jtagReset = s.jtagReset := rfl
@[simp] theorem State.setCell_minSvn (c : Nat) (x : Cell) : (s.setCell c x).minSvn = s.minSvn := rfl
@[simp] theorem State.setCell_flagsActive (c : Nat) (x : Cell) : (s.setCell c x).flagsActive = s.flagsActive := rfl
@[simp] theorem State.setCell_svn (c : Nat) (x : Cell) : (s.setCell c x).svn = s.svn := rfl
@[simp] theorem State.setCell_snap (c : Nat) (x : Cell) : (s.setCell c x).snap = s.snap := rfl
@[simp] theorem State.setCell_reg (c : Nat) (x : Cell) (q : Reg) (m : Nat) : (s.setCell c x).reg q m = s.reg q m := rfl
@[simp] theorem State.setCell_getF (c : Nat) (x : Cell) (g : Fld) (m : Nat) : (s.setCell c x).getF g m = s.getF g m := rfl
@[simp] theorem State.setCell_onF (c : Nat) (x : Cell) (g : Fld) (m : Nat) : (s.setCell c x).onF g m = s.onF g m := rfl
@[simp] theorem State.setCell_stagedReg (c : Nat) (x : Cell) (q : Reg) (m : Nat) : (s.setCell c x).stagedReg q m = s.stagedReg q m := rfl
@[simp] theorem State.setCell_chan (c : Nat) (x : Cell) (m : Nat) : (s.setCell c x).chan m = s.chan m := rfl
@[simp] theorem State.setCell_port (c : Nat) (x : Cell) (m : Nat) : (s.setCell c x).port m = s.port m := rfl
@[simp] theorem State.setCell_link (c : Nat) (x : Cell) (m : Nat) : (s.setCell c x).link m = s.link m := rfl
@[simp] theorem State.setCell_prog (c : Nat) (x : Cell) (m : Nat) : (s.setCell c x).prog m = s.prog m := rfl
@[simp] theorem State.setCell_sheaf (c : Nat) (x : Cell) (m : Nat) : (s.setCell c x).sheaf m = s.sheaf m := rfl
@[simp] theorem State.setCell_stream (c : Nat) (x : Cell) (m : Nat) : (s.setCell c x).stream m = s.stream m := rfl

/-! ### setChan changes chans -/

@[simp] theorem State.setChan_pending (c : Nat) (x : Chan) : (s.setChan c x).pending = s.pending := rfl
@[simp] theorem State.setChan_regs (c : Nat) (x : Chan) : (s.setChan c x).regs = s.regs := rfl
@[simp] theorem State.setChan_staged (c : Nat) (x : Chan) : (s.setChan c x).staged = s.staged := rfl
@[simp] theorem State.setChan_now (c : Nat) (x : Chan) : (s.setChan c x).now = s.now := rfl
@[simp] theorem State.setChan_fresh (c : Nat) (x : Chan) : (s.setChan c x).fresh = s.fresh := rfl
@[simp] theorem State.setChan_out (c : Nat) (x : Chan) : (s.setChan c x).out = s.out := rfl
@[simp] theorem State.setChan_devMem (c : Nat) (x : Chan) : (s.setChan c x).devMem = s.devMem := rfl
@[simp] theorem State.setChan_hostMem (c : Nat) (x : Chan) : (s.setChan c x).hostMem = s.hostMem := rfl
@[simp] theorem State.setChan_flash (c : Nat) (x : Chan) : (s.setChan c x).flash = s.flash := rfl
@[simp] theorem State.setChan_otp (c : Nat) (x : Chan) : (s.setChan c x).otp = s.otp := rfl
@[simp] theorem State.setChan_fuseCells (c : Nat) (x : Chan) : (s.setChan c x).fuseCells = s.fuseCells := rfl
@[simp] theorem State.setChan_rcvBuf (c : Nat) (x : Chan) : (s.setChan c x).rcvBuf = s.rcvBuf := rfl
@[simp] theorem State.setChan_loftErr (c : Nat) (x : Chan) : (s.setChan c x).loftErr = s.loftErr := rfl
@[simp] theorem State.setChan_ueTick (c : Nat) (x : Chan) : (s.setChan c x).ueTick = s.ueTick := rfl
@[simp] theorem State.setChan_ctl (c : Nat) (x : Chan) : (s.setChan c x).ctl = s.ctl := rfl
@[simp] theorem State.setChan_tick (c : Nat) (x : Chan) : (s.setChan c x).tick = s.tick := rfl
@[simp] theorem State.setChan_commit (c : Nat) (x : Chan) : (s.setChan c x).commit = s.commit := rfl
@[simp] theorem State.setChan_autos (c : Nat) (x : Chan) : (s.setChan c x).autos = s.autos := rfl
@[simp] theorem State.setChan_stagedAfter (c : Nat) (x : Chan) : (s.setChan c x).stagedAfter = s.stagedAfter := rfl
@[simp] theorem State.setChan_cells (c : Nat) (x : Chan) : (s.setChan c x).cells = s.cells := rfl
@[simp] theorem State.setChan_resets (c : Nat) (x : Chan) : (s.setChan c x).resets = s.resets := rfl
@[simp] theorem State.setChan_stackTbl (c : Nat) (x : Chan) : (s.setChan c x).stackTbl = s.stackTbl := rfl
@[simp] theorem State.setChan_hubErr (c : Nat) (x : Chan) : (s.setChan c x).hubErr = s.hubErr := rfl
@[simp] theorem State.setChan_hubSpares (c : Nat) (x : Chan) : (s.setChan c x).hubSpares = s.hubSpares := rfl
@[simp] theorem State.setChan_fullBuckets (c : Nat) (x : Chan) : (s.setChan c x).fullBuckets = s.fullBuckets := rfl
@[simp] theorem State.setChan_halfAsked (c : Nat) (x : Chan) : (s.setChan c x).halfAsked = s.halfAsked := rfl
@[simp] theorem State.setChan_accWait (c : Nat) (x : Chan) : (s.setChan c x).accWait = s.accWait := rfl
@[simp] theorem State.setChan_arrivals (c : Nat) (x : Chan) : (s.setChan c x).arrivals = s.arrivals := rfl
@[simp] theorem State.setChan_ports (c : Nat) (x : Chan) : (s.setChan c x).ports = s.ports := rfl
@[simp] theorem State.setChan_links (c : Nat) (x : Chan) : (s.setChan c x).links = s.links := rfl
@[simp] theorem State.setChan_ring (c : Nat) (x : Chan) : (s.setChan c x).ring = s.ring := rfl
@[simp] theorem State.setChan_sqTails (c : Nat) (x : Chan) : (s.setChan c x).sqTails = s.sqTails := rfl
@[simp] theorem State.setChan_cqHeads (c : Nat) (x : Chan) : (s.setChan c x).cqHeads = s.cqHeads := rfl
@[simp] theorem State.setChan_msix (c : Nat) (x : Chan) : (s.setChan c x).msix = s.msix := rfl
@[simp] theorem State.setChan_wroteCq (c : Nat) (x : Chan) : (s.setChan c x).wroteCq = s.wroteCq := rfl
@[simp] theorem State.setChan_heldCq (c : Nat) (x : Chan) : (s.setChan c x).heldCq = s.heldCq := rfl
@[simp] theorem State.setChan_chutes (c : Nat) (x : Chan) : (s.setChan c x).chutes = s.chutes := rfl
@[simp] theorem State.setChan_ramps (c : Nat) (x : Chan) : (s.setChan c x).ramps = s.ramps := rfl
@[simp] theorem State.setChan_start (c : Nat) (x : Chan) : (s.setChan c x).start = s.start := rfl
@[simp] theorem State.setChan_logRing (c : Nat) (x : Chan) : (s.setChan c x).logRing = s.logRing := rfl
@[simp] theorem State.setChan_stdBuf (c : Nat) (x : Chan) : (s.setChan c x).stdBuf = s.stdBuf := rfl
@[simp] theorem State.setChan_logPend (c : Nat) (x : Chan) : (s.setChan c x).logPend = s.logPend := rfl
@[simp] theorem State.setChan_logTimes (c : Nat) (x : Chan) : (s.setChan c x).logTimes = s.logTimes := rfl
@[simp] theorem State.setChan_rakeAt (c : Nat) (x : Chan) : (s.setChan c x).rakeAt = s.rakeAt := rfl
@[simp] theorem State.setChan_rakeDue (c : Nat) (x : Chan) : (s.setChan c x).rakeDue = s.rakeDue := rfl
@[simp] theorem State.setChan_sensors (c : Nat) (x : Chan) : (s.setChan c x).sensors = s.sensors := rfl
@[simp] theorem State.setChan_heat (c : Nat) (x : Chan) : (s.setChan c x).heat = s.heat := rfl
@[simp] theorem State.setChan_keep (c : Nat) (x : Chan) : (s.setChan c x).keep = s.keep := rfl
@[simp] theorem State.setChan_i3c (c : Nat) (x : Chan) : (s.setChan c x).i3c = s.i3c := rfl
@[simp] theorem State.setChan_seqStores (c : Nat) (x : Chan) : (s.setChan c x).seqStores = s.seqStores := rfl
@[simp] theorem State.setChan_repairMark (c : Nat) (x : Chan) : (s.setChan c x).repairMark = s.repairMark := rfl
@[simp] theorem State.setChan_otpJob (c : Nat) (x : Chan) : (s.setChan c x).otpJob = s.otpJob := rfl
@[simp] theorem State.setChan_imgJob (c : Nat) (x : Chan) : (s.setChan c x).imgJob = s.imgJob := rfl
@[simp] theorem State.setChan_attBody (c : Nat) (x : Chan) : (s.setChan c x).attBody = s.attBody := rfl
@[simp] theorem State.setChan_report (c : Nat) (x : Chan) : (s.setChan c x).report = s.report := rfl
@[simp] theorem State.setChan_attZero (c : Nat) (x : Chan) : (s.setChan c x).attZero = s.attZero := rfl
@[simp] theorem State.setChan_jtagReset (c : Nat) (x : Chan) : (s.setChan c x).jtagReset = s.jtagReset := rfl
@[simp] theorem State.setChan_minSvn (c : Nat) (x : Chan) : (s.setChan c x).minSvn = s.minSvn := rfl
@[simp] theorem State.setChan_flagsActive (c : Nat) (x : Chan) : (s.setChan c x).flagsActive = s.flagsActive := rfl
@[simp] theorem State.setChan_svn (c : Nat) (x : Chan) : (s.setChan c x).svn = s.svn := rfl
@[simp] theorem State.setChan_snap (c : Nat) (x : Chan) : (s.setChan c x).snap = s.snap := rfl
@[simp] theorem State.setChan_reg (c : Nat) (x : Chan) (q : Reg) (m : Nat) : (s.setChan c x).reg q m = s.reg q m := rfl
@[simp] theorem State.setChan_getF (c : Nat) (x : Chan) (g : Fld) (m : Nat) : (s.setChan c x).getF g m = s.getF g m := rfl
@[simp] theorem State.setChan_onF (c : Nat) (x : Chan) (g : Fld) (m : Nat) : (s.setChan c x).onF g m = s.onF g m := rfl
@[simp] theorem State.setChan_stagedReg (c : Nat) (x : Chan) (q : Reg) (m : Nat) : (s.setChan c x).stagedReg q m = s.stagedReg q m := rfl
@[simp] theorem State.setChan_cell (c : Nat) (x : Chan) (m : Nat) : (s.setChan c x).cell m = s.cell m := rfl
@[simp] theorem State.setChan_port (c : Nat) (x : Chan) (m : Nat) : (s.setChan c x).port m = s.port m := rfl
@[simp] theorem State.setChan_link (c : Nat) (x : Chan) (m : Nat) : (s.setChan c x).link m = s.link m := rfl
@[simp] theorem State.setChan_prog (c : Nat) (x : Chan) (m : Nat) : (s.setChan c x).prog m = s.prog m := rfl
@[simp] theorem State.setChan_sheaf (c : Nat) (x : Chan) (m : Nat) : (s.setChan c x).sheaf m = s.sheaf m := rfl
@[simp] theorem State.setChan_stream (c : Nat) (x : Chan) (m : Nat) : (s.setChan c x).stream m = s.stream m := rfl

/-! ### setProg changes ctl -/

@[simp] theorem State.setProg_pending (j : Nat) (p : Program) : (s.setProg j p).pending = s.pending := rfl
@[simp] theorem State.setProg_regs (j : Nat) (p : Program) : (s.setProg j p).regs = s.regs := rfl
@[simp] theorem State.setProg_staged (j : Nat) (p : Program) : (s.setProg j p).staged = s.staged := rfl
@[simp] theorem State.setProg_now (j : Nat) (p : Program) : (s.setProg j p).now = s.now := rfl
@[simp] theorem State.setProg_fresh (j : Nat) (p : Program) : (s.setProg j p).fresh = s.fresh := rfl
@[simp] theorem State.setProg_out (j : Nat) (p : Program) : (s.setProg j p).out = s.out := rfl
@[simp] theorem State.setProg_devMem (j : Nat) (p : Program) : (s.setProg j p).devMem = s.devMem := rfl
@[simp] theorem State.setProg_hostMem (j : Nat) (p : Program) : (s.setProg j p).hostMem = s.hostMem := rfl
@[simp] theorem State.setProg_flash (j : Nat) (p : Program) : (s.setProg j p).flash = s.flash := rfl
@[simp] theorem State.setProg_otp (j : Nat) (p : Program) : (s.setProg j p).otp = s.otp := rfl
@[simp] theorem State.setProg_fuseCells (j : Nat) (p : Program) : (s.setProg j p).fuseCells = s.fuseCells := rfl
@[simp] theorem State.setProg_rcvBuf (j : Nat) (p : Program) : (s.setProg j p).rcvBuf = s.rcvBuf := rfl
@[simp] theorem State.setProg_loftErr (j : Nat) (p : Program) : (s.setProg j p).loftErr = s.loftErr := rfl
@[simp] theorem State.setProg_ueTick (j : Nat) (p : Program) : (s.setProg j p).ueTick = s.ueTick := rfl
@[simp] theorem State.setProg_tick (j : Nat) (p : Program) : (s.setProg j p).tick = s.tick := rfl
@[simp] theorem State.setProg_commit (j : Nat) (p : Program) : (s.setProg j p).commit = s.commit := rfl
@[simp] theorem State.setProg_autos (j : Nat) (p : Program) : (s.setProg j p).autos = s.autos := rfl
@[simp] theorem State.setProg_stagedAfter (j : Nat) (p : Program) : (s.setProg j p).stagedAfter = s.stagedAfter := rfl
@[simp] theorem State.setProg_cells (j : Nat) (p : Program) : (s.setProg j p).cells = s.cells := rfl
@[simp] theorem State.setProg_resets (j : Nat) (p : Program) : (s.setProg j p).resets = s.resets := rfl
@[simp] theorem State.setProg_chans (j : Nat) (p : Program) : (s.setProg j p).chans = s.chans := rfl
@[simp] theorem State.setProg_stackTbl (j : Nat) (p : Program) : (s.setProg j p).stackTbl = s.stackTbl := rfl
@[simp] theorem State.setProg_hubErr (j : Nat) (p : Program) : (s.setProg j p).hubErr = s.hubErr := rfl
@[simp] theorem State.setProg_hubSpares (j : Nat) (p : Program) : (s.setProg j p).hubSpares = s.hubSpares := rfl
@[simp] theorem State.setProg_fullBuckets (j : Nat) (p : Program) : (s.setProg j p).fullBuckets = s.fullBuckets := rfl
@[simp] theorem State.setProg_halfAsked (j : Nat) (p : Program) : (s.setProg j p).halfAsked = s.halfAsked := rfl
@[simp] theorem State.setProg_accWait (j : Nat) (p : Program) : (s.setProg j p).accWait = s.accWait := rfl
@[simp] theorem State.setProg_arrivals (j : Nat) (p : Program) : (s.setProg j p).arrivals = s.arrivals := rfl
@[simp] theorem State.setProg_ports (j : Nat) (p : Program) : (s.setProg j p).ports = s.ports := rfl
@[simp] theorem State.setProg_links (j : Nat) (p : Program) : (s.setProg j p).links = s.links := rfl
@[simp] theorem State.setProg_ring (j : Nat) (p : Program) : (s.setProg j p).ring = s.ring := rfl
@[simp] theorem State.setProg_sqTails (j : Nat) (p : Program) : (s.setProg j p).sqTails = s.sqTails := rfl
@[simp] theorem State.setProg_cqHeads (j : Nat) (p : Program) : (s.setProg j p).cqHeads = s.cqHeads := rfl
@[simp] theorem State.setProg_msix (j : Nat) (p : Program) : (s.setProg j p).msix = s.msix := rfl
@[simp] theorem State.setProg_wroteCq (j : Nat) (p : Program) : (s.setProg j p).wroteCq = s.wroteCq := rfl
@[simp] theorem State.setProg_heldCq (j : Nat) (p : Program) : (s.setProg j p).heldCq = s.heldCq := rfl
@[simp] theorem State.setProg_chutes (j : Nat) (p : Program) : (s.setProg j p).chutes = s.chutes := rfl
@[simp] theorem State.setProg_ramps (j : Nat) (p : Program) : (s.setProg j p).ramps = s.ramps := rfl
@[simp] theorem State.setProg_start (j : Nat) (p : Program) : (s.setProg j p).start = s.start := rfl
@[simp] theorem State.setProg_logRing (j : Nat) (p : Program) : (s.setProg j p).logRing = s.logRing := rfl
@[simp] theorem State.setProg_stdBuf (j : Nat) (p : Program) : (s.setProg j p).stdBuf = s.stdBuf := rfl
@[simp] theorem State.setProg_logPend (j : Nat) (p : Program) : (s.setProg j p).logPend = s.logPend := rfl
@[simp] theorem State.setProg_logTimes (j : Nat) (p : Program) : (s.setProg j p).logTimes = s.logTimes := rfl
@[simp] theorem State.setProg_rakeAt (j : Nat) (p : Program) : (s.setProg j p).rakeAt = s.rakeAt := rfl
@[simp] theorem State.setProg_rakeDue (j : Nat) (p : Program) : (s.setProg j p).rakeDue = s.rakeDue := rfl
@[simp] theorem State.setProg_sensors (j : Nat) (p : Program) : (s.setProg j p).sensors = s.sensors := rfl
@[simp] theorem State.setProg_heat (j : Nat) (p : Program) : (s.setProg j p).heat = s.heat := rfl
@[simp] theorem State.setProg_keep (j : Nat) (p : Program) : (s.setProg j p).keep = s.keep := rfl
@[simp] theorem State.setProg_i3c (j : Nat) (p : Program) : (s.setProg j p).i3c = s.i3c := rfl
@[simp] theorem State.setProg_seqStores (j : Nat) (p : Program) : (s.setProg j p).seqStores = s.seqStores := rfl
@[simp] theorem State.setProg_repairMark (j : Nat) (p : Program) : (s.setProg j p).repairMark = s.repairMark := rfl
@[simp] theorem State.setProg_otpJob (j : Nat) (p : Program) : (s.setProg j p).otpJob = s.otpJob := rfl
@[simp] theorem State.setProg_imgJob (j : Nat) (p : Program) : (s.setProg j p).imgJob = s.imgJob := rfl
@[simp] theorem State.setProg_attBody (j : Nat) (p : Program) : (s.setProg j p).attBody = s.attBody := rfl
@[simp] theorem State.setProg_report (j : Nat) (p : Program) : (s.setProg j p).report = s.report := rfl
@[simp] theorem State.setProg_attZero (j : Nat) (p : Program) : (s.setProg j p).attZero = s.attZero := rfl
@[simp] theorem State.setProg_jtagReset (j : Nat) (p : Program) : (s.setProg j p).jtagReset = s.jtagReset := rfl
@[simp] theorem State.setProg_minSvn (j : Nat) (p : Program) : (s.setProg j p).minSvn = s.minSvn := rfl
@[simp] theorem State.setProg_flagsActive (j : Nat) (p : Program) : (s.setProg j p).flagsActive = s.flagsActive := rfl
@[simp] theorem State.setProg_svn (j : Nat) (p : Program) : (s.setProg j p).svn = s.svn := rfl
@[simp] theorem State.setProg_snap (j : Nat) (p : Program) : (s.setProg j p).snap = s.snap := rfl
@[simp] theorem State.setProg_reg (j : Nat) (p : Program) (q : Reg) (m : Nat) : (s.setProg j p).reg q m = s.reg q m := rfl
@[simp] theorem State.setProg_getF (j : Nat) (p : Program) (g : Fld) (m : Nat) : (s.setProg j p).getF g m = s.getF g m := rfl
@[simp] theorem State.setProg_onF (j : Nat) (p : Program) (g : Fld) (m : Nat) : (s.setProg j p).onF g m = s.onF g m := rfl
@[simp] theorem State.setProg_stagedReg (j : Nat) (p : Program) (q : Reg) (m : Nat) : (s.setProg j p).stagedReg q m = s.stagedReg q m := rfl
@[simp] theorem State.setProg_cell (j : Nat) (p : Program) (m : Nat) : (s.setProg j p).cell m = s.cell m := rfl
@[simp] theorem State.setProg_chan (j : Nat) (p : Program) (m : Nat) : (s.setProg j p).chan m = s.chan m := rfl
@[simp] theorem State.setProg_port (j : Nat) (p : Program) (m : Nat) : (s.setProg j p).port m = s.port m := rfl
@[simp] theorem State.setProg_link (j : Nat) (p : Program) (m : Nat) : (s.setProg j p).link m = s.link m := rfl

/-! ### setSheaf changes ctl -/

@[simp] theorem State.setSheaf_pending (i : Nat) (x : SheafSt) : (s.setSheaf i x).pending = s.pending := rfl
@[simp] theorem State.setSheaf_regs (i : Nat) (x : SheafSt) : (s.setSheaf i x).regs = s.regs := rfl
@[simp] theorem State.setSheaf_staged (i : Nat) (x : SheafSt) : (s.setSheaf i x).staged = s.staged := rfl
@[simp] theorem State.setSheaf_now (i : Nat) (x : SheafSt) : (s.setSheaf i x).now = s.now := rfl
@[simp] theorem State.setSheaf_fresh (i : Nat) (x : SheafSt) : (s.setSheaf i x).fresh = s.fresh := rfl
@[simp] theorem State.setSheaf_out (i : Nat) (x : SheafSt) : (s.setSheaf i x).out = s.out := rfl
@[simp] theorem State.setSheaf_devMem (i : Nat) (x : SheafSt) : (s.setSheaf i x).devMem = s.devMem := rfl
@[simp] theorem State.setSheaf_hostMem (i : Nat) (x : SheafSt) : (s.setSheaf i x).hostMem = s.hostMem := rfl
@[simp] theorem State.setSheaf_flash (i : Nat) (x : SheafSt) : (s.setSheaf i x).flash = s.flash := rfl
@[simp] theorem State.setSheaf_otp (i : Nat) (x : SheafSt) : (s.setSheaf i x).otp = s.otp := rfl
@[simp] theorem State.setSheaf_fuseCells (i : Nat) (x : SheafSt) : (s.setSheaf i x).fuseCells = s.fuseCells := rfl
@[simp] theorem State.setSheaf_rcvBuf (i : Nat) (x : SheafSt) : (s.setSheaf i x).rcvBuf = s.rcvBuf := rfl
@[simp] theorem State.setSheaf_loftErr (i : Nat) (x : SheafSt) : (s.setSheaf i x).loftErr = s.loftErr := rfl
@[simp] theorem State.setSheaf_ueTick (i : Nat) (x : SheafSt) : (s.setSheaf i x).ueTick = s.ueTick := rfl
@[simp] theorem State.setSheaf_tick (i : Nat) (x : SheafSt) : (s.setSheaf i x).tick = s.tick := rfl
@[simp] theorem State.setSheaf_commit (i : Nat) (x : SheafSt) : (s.setSheaf i x).commit = s.commit := rfl
@[simp] theorem State.setSheaf_autos (i : Nat) (x : SheafSt) : (s.setSheaf i x).autos = s.autos := rfl
@[simp] theorem State.setSheaf_stagedAfter (i : Nat) (x : SheafSt) : (s.setSheaf i x).stagedAfter = s.stagedAfter := rfl
@[simp] theorem State.setSheaf_cells (i : Nat) (x : SheafSt) : (s.setSheaf i x).cells = s.cells := rfl
@[simp] theorem State.setSheaf_resets (i : Nat) (x : SheafSt) : (s.setSheaf i x).resets = s.resets := rfl
@[simp] theorem State.setSheaf_chans (i : Nat) (x : SheafSt) : (s.setSheaf i x).chans = s.chans := rfl
@[simp] theorem State.setSheaf_stackTbl (i : Nat) (x : SheafSt) : (s.setSheaf i x).stackTbl = s.stackTbl := rfl
@[simp] theorem State.setSheaf_hubErr (i : Nat) (x : SheafSt) : (s.setSheaf i x).hubErr = s.hubErr := rfl
@[simp] theorem State.setSheaf_hubSpares (i : Nat) (x : SheafSt) : (s.setSheaf i x).hubSpares = s.hubSpares := rfl
@[simp] theorem State.setSheaf_fullBuckets (i : Nat) (x : SheafSt) : (s.setSheaf i x).fullBuckets = s.fullBuckets := rfl
@[simp] theorem State.setSheaf_halfAsked (i : Nat) (x : SheafSt) : (s.setSheaf i x).halfAsked = s.halfAsked := rfl
@[simp] theorem State.setSheaf_accWait (i : Nat) (x : SheafSt) : (s.setSheaf i x).accWait = s.accWait := rfl
@[simp] theorem State.setSheaf_arrivals (i : Nat) (x : SheafSt) : (s.setSheaf i x).arrivals = s.arrivals := rfl
@[simp] theorem State.setSheaf_ports (i : Nat) (x : SheafSt) : (s.setSheaf i x).ports = s.ports := rfl
@[simp] theorem State.setSheaf_links (i : Nat) (x : SheafSt) : (s.setSheaf i x).links = s.links := rfl
@[simp] theorem State.setSheaf_ring (i : Nat) (x : SheafSt) : (s.setSheaf i x).ring = s.ring := rfl
@[simp] theorem State.setSheaf_sqTails (i : Nat) (x : SheafSt) : (s.setSheaf i x).sqTails = s.sqTails := rfl
@[simp] theorem State.setSheaf_cqHeads (i : Nat) (x : SheafSt) : (s.setSheaf i x).cqHeads = s.cqHeads := rfl
@[simp] theorem State.setSheaf_msix (i : Nat) (x : SheafSt) : (s.setSheaf i x).msix = s.msix := rfl
@[simp] theorem State.setSheaf_wroteCq (i : Nat) (x : SheafSt) : (s.setSheaf i x).wroteCq = s.wroteCq := rfl
@[simp] theorem State.setSheaf_heldCq (i : Nat) (x : SheafSt) : (s.setSheaf i x).heldCq = s.heldCq := rfl
@[simp] theorem State.setSheaf_chutes (i : Nat) (x : SheafSt) : (s.setSheaf i x).chutes = s.chutes := rfl
@[simp] theorem State.setSheaf_ramps (i : Nat) (x : SheafSt) : (s.setSheaf i x).ramps = s.ramps := rfl
@[simp] theorem State.setSheaf_start (i : Nat) (x : SheafSt) : (s.setSheaf i x).start = s.start := rfl
@[simp] theorem State.setSheaf_logRing (i : Nat) (x : SheafSt) : (s.setSheaf i x).logRing = s.logRing := rfl
@[simp] theorem State.setSheaf_stdBuf (i : Nat) (x : SheafSt) : (s.setSheaf i x).stdBuf = s.stdBuf := rfl
@[simp] theorem State.setSheaf_logPend (i : Nat) (x : SheafSt) : (s.setSheaf i x).logPend = s.logPend := rfl
@[simp] theorem State.setSheaf_logTimes (i : Nat) (x : SheafSt) : (s.setSheaf i x).logTimes = s.logTimes := rfl
@[simp] theorem State.setSheaf_rakeAt (i : Nat) (x : SheafSt) : (s.setSheaf i x).rakeAt = s.rakeAt := rfl
@[simp] theorem State.setSheaf_rakeDue (i : Nat) (x : SheafSt) : (s.setSheaf i x).rakeDue = s.rakeDue := rfl
@[simp] theorem State.setSheaf_sensors (i : Nat) (x : SheafSt) : (s.setSheaf i x).sensors = s.sensors := rfl
@[simp] theorem State.setSheaf_heat (i : Nat) (x : SheafSt) : (s.setSheaf i x).heat = s.heat := rfl
@[simp] theorem State.setSheaf_keep (i : Nat) (x : SheafSt) : (s.setSheaf i x).keep = s.keep := rfl
@[simp] theorem State.setSheaf_i3c (i : Nat) (x : SheafSt) : (s.setSheaf i x).i3c = s.i3c := rfl
@[simp] theorem State.setSheaf_seqStores (i : Nat) (x : SheafSt) : (s.setSheaf i x).seqStores = s.seqStores := rfl
@[simp] theorem State.setSheaf_repairMark (i : Nat) (x : SheafSt) : (s.setSheaf i x).repairMark = s.repairMark := rfl
@[simp] theorem State.setSheaf_otpJob (i : Nat) (x : SheafSt) : (s.setSheaf i x).otpJob = s.otpJob := rfl
@[simp] theorem State.setSheaf_imgJob (i : Nat) (x : SheafSt) : (s.setSheaf i x).imgJob = s.imgJob := rfl
@[simp] theorem State.setSheaf_attBody (i : Nat) (x : SheafSt) : (s.setSheaf i x).attBody = s.attBody := rfl
@[simp] theorem State.setSheaf_report (i : Nat) (x : SheafSt) : (s.setSheaf i x).report = s.report := rfl
@[simp] theorem State.setSheaf_attZero (i : Nat) (x : SheafSt) : (s.setSheaf i x).attZero = s.attZero := rfl
@[simp] theorem State.setSheaf_jtagReset (i : Nat) (x : SheafSt) : (s.setSheaf i x).jtagReset = s.jtagReset := rfl
@[simp] theorem State.setSheaf_minSvn (i : Nat) (x : SheafSt) : (s.setSheaf i x).minSvn = s.minSvn := rfl
@[simp] theorem State.setSheaf_flagsActive (i : Nat) (x : SheafSt) : (s.setSheaf i x).flagsActive = s.flagsActive := rfl
@[simp] theorem State.setSheaf_svn (i : Nat) (x : SheafSt) : (s.setSheaf i x).svn = s.svn := rfl
@[simp] theorem State.setSheaf_snap (i : Nat) (x : SheafSt) : (s.setSheaf i x).snap = s.snap := rfl
@[simp] theorem State.setSheaf_reg (i : Nat) (x : SheafSt) (q : Reg) (m : Nat) : (s.setSheaf i x).reg q m = s.reg q m := rfl
@[simp] theorem State.setSheaf_getF (i : Nat) (x : SheafSt) (g : Fld) (m : Nat) : (s.setSheaf i x).getF g m = s.getF g m := rfl
@[simp] theorem State.setSheaf_onF (i : Nat) (x : SheafSt) (g : Fld) (m : Nat) : (s.setSheaf i x).onF g m = s.onF g m := rfl
@[simp] theorem State.setSheaf_stagedReg (i : Nat) (x : SheafSt) (q : Reg) (m : Nat) : (s.setSheaf i x).stagedReg q m = s.stagedReg q m := rfl
@[simp] theorem State.setSheaf_cell (i : Nat) (x : SheafSt) (m : Nat) : (s.setSheaf i x).cell m = s.cell m := rfl
@[simp] theorem State.setSheaf_chan (i : Nat) (x : SheafSt) (m : Nat) : (s.setSheaf i x).chan m = s.chan m := rfl
@[simp] theorem State.setSheaf_port (i : Nat) (x : SheafSt) (m : Nat) : (s.setSheaf i x).port m = s.port m := rfl
@[simp] theorem State.setSheaf_link (i : Nat) (x : SheafSt) (m : Nat) : (s.setSheaf i x).link m = s.link m := rfl

/-! ### setStream changes ctl -/

@[simp] theorem State.setStream_pending (i : Nat) (x : Stream) : (s.setStream i x).pending = s.pending := rfl
@[simp] theorem State.setStream_regs (i : Nat) (x : Stream) : (s.setStream i x).regs = s.regs := rfl
@[simp] theorem State.setStream_staged (i : Nat) (x : Stream) : (s.setStream i x).staged = s.staged := rfl
@[simp] theorem State.setStream_now (i : Nat) (x : Stream) : (s.setStream i x).now = s.now := rfl
@[simp] theorem State.setStream_fresh (i : Nat) (x : Stream) : (s.setStream i x).fresh = s.fresh := rfl
@[simp] theorem State.setStream_out (i : Nat) (x : Stream) : (s.setStream i x).out = s.out := rfl
@[simp] theorem State.setStream_devMem (i : Nat) (x : Stream) : (s.setStream i x).devMem = s.devMem := rfl
@[simp] theorem State.setStream_hostMem (i : Nat) (x : Stream) : (s.setStream i x).hostMem = s.hostMem := rfl
@[simp] theorem State.setStream_flash (i : Nat) (x : Stream) : (s.setStream i x).flash = s.flash := rfl
@[simp] theorem State.setStream_otp (i : Nat) (x : Stream) : (s.setStream i x).otp = s.otp := rfl
@[simp] theorem State.setStream_fuseCells (i : Nat) (x : Stream) : (s.setStream i x).fuseCells = s.fuseCells := rfl
@[simp] theorem State.setStream_rcvBuf (i : Nat) (x : Stream) : (s.setStream i x).rcvBuf = s.rcvBuf := rfl
@[simp] theorem State.setStream_loftErr (i : Nat) (x : Stream) : (s.setStream i x).loftErr = s.loftErr := rfl
@[simp] theorem State.setStream_ueTick (i : Nat) (x : Stream) : (s.setStream i x).ueTick = s.ueTick := rfl
@[simp] theorem State.setStream_tick (i : Nat) (x : Stream) : (s.setStream i x).tick = s.tick := rfl
@[simp] theorem State.setStream_commit (i : Nat) (x : Stream) : (s.setStream i x).commit = s.commit := rfl
@[simp] theorem State.setStream_autos (i : Nat) (x : Stream) : (s.setStream i x).autos = s.autos := rfl
@[simp] theorem State.setStream_stagedAfter (i : Nat) (x : Stream) : (s.setStream i x).stagedAfter = s.stagedAfter := rfl
@[simp] theorem State.setStream_cells (i : Nat) (x : Stream) : (s.setStream i x).cells = s.cells := rfl
@[simp] theorem State.setStream_resets (i : Nat) (x : Stream) : (s.setStream i x).resets = s.resets := rfl
@[simp] theorem State.setStream_chans (i : Nat) (x : Stream) : (s.setStream i x).chans = s.chans := rfl
@[simp] theorem State.setStream_stackTbl (i : Nat) (x : Stream) : (s.setStream i x).stackTbl = s.stackTbl := rfl
@[simp] theorem State.setStream_hubErr (i : Nat) (x : Stream) : (s.setStream i x).hubErr = s.hubErr := rfl
@[simp] theorem State.setStream_hubSpares (i : Nat) (x : Stream) : (s.setStream i x).hubSpares = s.hubSpares := rfl
@[simp] theorem State.setStream_fullBuckets (i : Nat) (x : Stream) : (s.setStream i x).fullBuckets = s.fullBuckets := rfl
@[simp] theorem State.setStream_halfAsked (i : Nat) (x : Stream) : (s.setStream i x).halfAsked = s.halfAsked := rfl
@[simp] theorem State.setStream_accWait (i : Nat) (x : Stream) : (s.setStream i x).accWait = s.accWait := rfl
@[simp] theorem State.setStream_arrivals (i : Nat) (x : Stream) : (s.setStream i x).arrivals = s.arrivals := rfl
@[simp] theorem State.setStream_ports (i : Nat) (x : Stream) : (s.setStream i x).ports = s.ports := rfl
@[simp] theorem State.setStream_links (i : Nat) (x : Stream) : (s.setStream i x).links = s.links := rfl
@[simp] theorem State.setStream_ring (i : Nat) (x : Stream) : (s.setStream i x).ring = s.ring := rfl
@[simp] theorem State.setStream_sqTails (i : Nat) (x : Stream) : (s.setStream i x).sqTails = s.sqTails := rfl
@[simp] theorem State.setStream_cqHeads (i : Nat) (x : Stream) : (s.setStream i x).cqHeads = s.cqHeads := rfl
@[simp] theorem State.setStream_msix (i : Nat) (x : Stream) : (s.setStream i x).msix = s.msix := rfl
@[simp] theorem State.setStream_wroteCq (i : Nat) (x : Stream) : (s.setStream i x).wroteCq = s.wroteCq := rfl
@[simp] theorem State.setStream_heldCq (i : Nat) (x : Stream) : (s.setStream i x).heldCq = s.heldCq := rfl
@[simp] theorem State.setStream_chutes (i : Nat) (x : Stream) : (s.setStream i x).chutes = s.chutes := rfl
@[simp] theorem State.setStream_ramps (i : Nat) (x : Stream) : (s.setStream i x).ramps = s.ramps := rfl
@[simp] theorem State.setStream_start (i : Nat) (x : Stream) : (s.setStream i x).start = s.start := rfl
@[simp] theorem State.setStream_logRing (i : Nat) (x : Stream) : (s.setStream i x).logRing = s.logRing := rfl
@[simp] theorem State.setStream_stdBuf (i : Nat) (x : Stream) : (s.setStream i x).stdBuf = s.stdBuf := rfl
@[simp] theorem State.setStream_logPend (i : Nat) (x : Stream) : (s.setStream i x).logPend = s.logPend := rfl
@[simp] theorem State.setStream_logTimes (i : Nat) (x : Stream) : (s.setStream i x).logTimes = s.logTimes := rfl
@[simp] theorem State.setStream_rakeAt (i : Nat) (x : Stream) : (s.setStream i x).rakeAt = s.rakeAt := rfl
@[simp] theorem State.setStream_rakeDue (i : Nat) (x : Stream) : (s.setStream i x).rakeDue = s.rakeDue := rfl
@[simp] theorem State.setStream_sensors (i : Nat) (x : Stream) : (s.setStream i x).sensors = s.sensors := rfl
@[simp] theorem State.setStream_heat (i : Nat) (x : Stream) : (s.setStream i x).heat = s.heat := rfl
@[simp] theorem State.setStream_keep (i : Nat) (x : Stream) : (s.setStream i x).keep = s.keep := rfl
@[simp] theorem State.setStream_i3c (i : Nat) (x : Stream) : (s.setStream i x).i3c = s.i3c := rfl
@[simp] theorem State.setStream_seqStores (i : Nat) (x : Stream) : (s.setStream i x).seqStores = s.seqStores := rfl
@[simp] theorem State.setStream_repairMark (i : Nat) (x : Stream) : (s.setStream i x).repairMark = s.repairMark := rfl
@[simp] theorem State.setStream_otpJob (i : Nat) (x : Stream) : (s.setStream i x).otpJob = s.otpJob := rfl
@[simp] theorem State.setStream_imgJob (i : Nat) (x : Stream) : (s.setStream i x).imgJob = s.imgJob := rfl
@[simp] theorem State.setStream_attBody (i : Nat) (x : Stream) : (s.setStream i x).attBody = s.attBody := rfl
@[simp] theorem State.setStream_report (i : Nat) (x : Stream) : (s.setStream i x).report = s.report := rfl
@[simp] theorem State.setStream_attZero (i : Nat) (x : Stream) : (s.setStream i x).attZero = s.attZero := rfl
@[simp] theorem State.setStream_jtagReset (i : Nat) (x : Stream) : (s.setStream i x).jtagReset = s.jtagReset := rfl
@[simp] theorem State.setStream_minSvn (i : Nat) (x : Stream) : (s.setStream i x).minSvn = s.minSvn := rfl
@[simp] theorem State.setStream_flagsActive (i : Nat) (x : Stream) : (s.setStream i x).flagsActive = s.flagsActive := rfl
@[simp] theorem State.setStream_svn (i : Nat) (x : Stream) : (s.setStream i x).svn = s.svn := rfl
@[simp] theorem State.setStream_snap (i : Nat) (x : Stream) : (s.setStream i x).snap = s.snap := rfl
@[simp] theorem State.setStream_reg (i : Nat) (x : Stream) (q : Reg) (m : Nat) : (s.setStream i x).reg q m = s.reg q m := rfl
@[simp] theorem State.setStream_getF (i : Nat) (x : Stream) (g : Fld) (m : Nat) : (s.setStream i x).getF g m = s.getF g m := rfl
@[simp] theorem State.setStream_onF (i : Nat) (x : Stream) (g : Fld) (m : Nat) : (s.setStream i x).onF g m = s.onF g m := rfl
@[simp] theorem State.setStream_stagedReg (i : Nat) (x : Stream) (q : Reg) (m : Nat) : (s.setStream i x).stagedReg q m = s.stagedReg q m := rfl
@[simp] theorem State.setStream_cell (i : Nat) (x : Stream) (m : Nat) : (s.setStream i x).cell m = s.cell m := rfl
@[simp] theorem State.setStream_chan (i : Nat) (x : Stream) (m : Nat) : (s.setStream i x).chan m = s.chan m := rfl
@[simp] theorem State.setStream_port (i : Nat) (x : Stream) (m : Nat) : (s.setStream i x).port m = s.port m := rfl
@[simp] theorem State.setStream_link (i : Nat) (x : Stream) (m : Nat) : (s.setStream i x).link m = s.link m := rfl

/-! ### setPort changes ports -/

@[simp] theorem State.setPort_pending (p : Nat) (x : Port) : (s.setPort p x).pending = s.pending := rfl
@[simp] theorem State.setPort_regs (p : Nat) (x : Port) : (s.setPort p x).regs = s.regs := rfl
@[simp] theorem State.setPort_staged (p : Nat) (x : Port) : (s.setPort p x).staged = s.staged := rfl
@[simp] theorem State.setPort_now (p : Nat) (x : Port) : (s.setPort p x).now = s.now := rfl
@[simp] theorem State.setPort_fresh (p : Nat) (x : Port) : (s.setPort p x).fresh = s.fresh := rfl
@[simp] theorem State.setPort_out (p : Nat) (x : Port) : (s.setPort p x).out = s.out := rfl
@[simp] theorem State.setPort_devMem (p : Nat) (x : Port) : (s.setPort p x).devMem = s.devMem := rfl
@[simp] theorem State.setPort_hostMem (p : Nat) (x : Port) : (s.setPort p x).hostMem = s.hostMem := rfl
@[simp] theorem State.setPort_flash (p : Nat) (x : Port) : (s.setPort p x).flash = s.flash := rfl
@[simp] theorem State.setPort_otp (p : Nat) (x : Port) : (s.setPort p x).otp = s.otp := rfl
@[simp] theorem State.setPort_fuseCells (p : Nat) (x : Port) : (s.setPort p x).fuseCells = s.fuseCells := rfl
@[simp] theorem State.setPort_rcvBuf (p : Nat) (x : Port) : (s.setPort p x).rcvBuf = s.rcvBuf := rfl
@[simp] theorem State.setPort_loftErr (p : Nat) (x : Port) : (s.setPort p x).loftErr = s.loftErr := rfl
@[simp] theorem State.setPort_ueTick (p : Nat) (x : Port) : (s.setPort p x).ueTick = s.ueTick := rfl
@[simp] theorem State.setPort_ctl (p : Nat) (x : Port) : (s.setPort p x).ctl = s.ctl := rfl
@[simp] theorem State.setPort_tick (p : Nat) (x : Port) : (s.setPort p x).tick = s.tick := rfl
@[simp] theorem State.setPort_commit (p : Nat) (x : Port) : (s.setPort p x).commit = s.commit := rfl
@[simp] theorem State.setPort_autos (p : Nat) (x : Port) : (s.setPort p x).autos = s.autos := rfl
@[simp] theorem State.setPort_stagedAfter (p : Nat) (x : Port) : (s.setPort p x).stagedAfter = s.stagedAfter := rfl
@[simp] theorem State.setPort_cells (p : Nat) (x : Port) : (s.setPort p x).cells = s.cells := rfl
@[simp] theorem State.setPort_resets (p : Nat) (x : Port) : (s.setPort p x).resets = s.resets := rfl
@[simp] theorem State.setPort_chans (p : Nat) (x : Port) : (s.setPort p x).chans = s.chans := rfl
@[simp] theorem State.setPort_stackTbl (p : Nat) (x : Port) : (s.setPort p x).stackTbl = s.stackTbl := rfl
@[simp] theorem State.setPort_hubErr (p : Nat) (x : Port) : (s.setPort p x).hubErr = s.hubErr := rfl
@[simp] theorem State.setPort_hubSpares (p : Nat) (x : Port) : (s.setPort p x).hubSpares = s.hubSpares := rfl
@[simp] theorem State.setPort_fullBuckets (p : Nat) (x : Port) : (s.setPort p x).fullBuckets = s.fullBuckets := rfl
@[simp] theorem State.setPort_halfAsked (p : Nat) (x : Port) : (s.setPort p x).halfAsked = s.halfAsked := rfl
@[simp] theorem State.setPort_accWait (p : Nat) (x : Port) : (s.setPort p x).accWait = s.accWait := rfl
@[simp] theorem State.setPort_arrivals (p : Nat) (x : Port) : (s.setPort p x).arrivals = s.arrivals := rfl
@[simp] theorem State.setPort_links (p : Nat) (x : Port) : (s.setPort p x).links = s.links := rfl
@[simp] theorem State.setPort_ring (p : Nat) (x : Port) : (s.setPort p x).ring = s.ring := rfl
@[simp] theorem State.setPort_sqTails (p : Nat) (x : Port) : (s.setPort p x).sqTails = s.sqTails := rfl
@[simp] theorem State.setPort_cqHeads (p : Nat) (x : Port) : (s.setPort p x).cqHeads = s.cqHeads := rfl
@[simp] theorem State.setPort_msix (p : Nat) (x : Port) : (s.setPort p x).msix = s.msix := rfl
@[simp] theorem State.setPort_wroteCq (p : Nat) (x : Port) : (s.setPort p x).wroteCq = s.wroteCq := rfl
@[simp] theorem State.setPort_heldCq (p : Nat) (x : Port) : (s.setPort p x).heldCq = s.heldCq := rfl
@[simp] theorem State.setPort_chutes (p : Nat) (x : Port) : (s.setPort p x).chutes = s.chutes := rfl
@[simp] theorem State.setPort_ramps (p : Nat) (x : Port) : (s.setPort p x).ramps = s.ramps := rfl
@[simp] theorem State.setPort_start (p : Nat) (x : Port) : (s.setPort p x).start = s.start := rfl
@[simp] theorem State.setPort_logRing (p : Nat) (x : Port) : (s.setPort p x).logRing = s.logRing := rfl
@[simp] theorem State.setPort_stdBuf (p : Nat) (x : Port) : (s.setPort p x).stdBuf = s.stdBuf := rfl
@[simp] theorem State.setPort_logPend (p : Nat) (x : Port) : (s.setPort p x).logPend = s.logPend := rfl
@[simp] theorem State.setPort_logTimes (p : Nat) (x : Port) : (s.setPort p x).logTimes = s.logTimes := rfl
@[simp] theorem State.setPort_rakeAt (p : Nat) (x : Port) : (s.setPort p x).rakeAt = s.rakeAt := rfl
@[simp] theorem State.setPort_rakeDue (p : Nat) (x : Port) : (s.setPort p x).rakeDue = s.rakeDue := rfl
@[simp] theorem State.setPort_sensors (p : Nat) (x : Port) : (s.setPort p x).sensors = s.sensors := rfl
@[simp] theorem State.setPort_heat (p : Nat) (x : Port) : (s.setPort p x).heat = s.heat := rfl
@[simp] theorem State.setPort_keep (p : Nat) (x : Port) : (s.setPort p x).keep = s.keep := rfl
@[simp] theorem State.setPort_i3c (p : Nat) (x : Port) : (s.setPort p x).i3c = s.i3c := rfl
@[simp] theorem State.setPort_seqStores (p : Nat) (x : Port) : (s.setPort p x).seqStores = s.seqStores := rfl
@[simp] theorem State.setPort_repairMark (p : Nat) (x : Port) : (s.setPort p x).repairMark = s.repairMark := rfl
@[simp] theorem State.setPort_otpJob (p : Nat) (x : Port) : (s.setPort p x).otpJob = s.otpJob := rfl
@[simp] theorem State.setPort_imgJob (p : Nat) (x : Port) : (s.setPort p x).imgJob = s.imgJob := rfl
@[simp] theorem State.setPort_attBody (p : Nat) (x : Port) : (s.setPort p x).attBody = s.attBody := rfl
@[simp] theorem State.setPort_report (p : Nat) (x : Port) : (s.setPort p x).report = s.report := rfl
@[simp] theorem State.setPort_attZero (p : Nat) (x : Port) : (s.setPort p x).attZero = s.attZero := rfl
@[simp] theorem State.setPort_jtagReset (p : Nat) (x : Port) : (s.setPort p x).jtagReset = s.jtagReset := rfl
@[simp] theorem State.setPort_minSvn (p : Nat) (x : Port) : (s.setPort p x).minSvn = s.minSvn := rfl
@[simp] theorem State.setPort_flagsActive (p : Nat) (x : Port) : (s.setPort p x).flagsActive = s.flagsActive := rfl
@[simp] theorem State.setPort_svn (p : Nat) (x : Port) : (s.setPort p x).svn = s.svn := rfl
@[simp] theorem State.setPort_snap (p : Nat) (x : Port) : (s.setPort p x).snap = s.snap := rfl
@[simp] theorem State.setPort_reg (p : Nat) (x : Port) (q : Reg) (m : Nat) : (s.setPort p x).reg q m = s.reg q m := rfl
@[simp] theorem State.setPort_getF (p : Nat) (x : Port) (g : Fld) (m : Nat) : (s.setPort p x).getF g m = s.getF g m := rfl
@[simp] theorem State.setPort_onF (p : Nat) (x : Port) (g : Fld) (m : Nat) : (s.setPort p x).onF g m = s.onF g m := rfl
@[simp] theorem State.setPort_stagedReg (p : Nat) (x : Port) (q : Reg) (m : Nat) : (s.setPort p x).stagedReg q m = s.stagedReg q m := rfl
@[simp] theorem State.setPort_cell (p : Nat) (x : Port) (m : Nat) : (s.setPort p x).cell m = s.cell m := rfl
@[simp] theorem State.setPort_chan (p : Nat) (x : Port) (m : Nat) : (s.setPort p x).chan m = s.chan m := rfl
@[simp] theorem State.setPort_link (p : Nat) (x : Port) (m : Nat) : (s.setPort p x).link m = s.link m := rfl
@[simp] theorem State.setPort_prog (p : Nat) (x : Port) (m : Nat) : (s.setPort p x).prog m = s.prog m := rfl
@[simp] theorem State.setPort_sheaf (p : Nat) (x : Port) (m : Nat) : (s.setPort p x).sheaf m = s.sheaf m := rfl
@[simp] theorem State.setPort_stream (p : Nat) (x : Port) (m : Nat) : (s.setPort p x).stream m = s.stream m := rfl

/-! ### setLink changes links -/

@[simp] theorem State.setLink_pending (l : Nat) (x : Link) : (s.setLink l x).pending = s.pending := rfl
@[simp] theorem State.setLink_regs (l : Nat) (x : Link) : (s.setLink l x).regs = s.regs := rfl
@[simp] theorem State.setLink_staged (l : Nat) (x : Link) : (s.setLink l x).staged = s.staged := rfl
@[simp] theorem State.setLink_now (l : Nat) (x : Link) : (s.setLink l x).now = s.now := rfl
@[simp] theorem State.setLink_fresh (l : Nat) (x : Link) : (s.setLink l x).fresh = s.fresh := rfl
@[simp] theorem State.setLink_out (l : Nat) (x : Link) : (s.setLink l x).out = s.out := rfl
@[simp] theorem State.setLink_devMem (l : Nat) (x : Link) : (s.setLink l x).devMem = s.devMem := rfl
@[simp] theorem State.setLink_hostMem (l : Nat) (x : Link) : (s.setLink l x).hostMem = s.hostMem := rfl
@[simp] theorem State.setLink_flash (l : Nat) (x : Link) : (s.setLink l x).flash = s.flash := rfl
@[simp] theorem State.setLink_otp (l : Nat) (x : Link) : (s.setLink l x).otp = s.otp := rfl
@[simp] theorem State.setLink_fuseCells (l : Nat) (x : Link) : (s.setLink l x).fuseCells = s.fuseCells := rfl
@[simp] theorem State.setLink_rcvBuf (l : Nat) (x : Link) : (s.setLink l x).rcvBuf = s.rcvBuf := rfl
@[simp] theorem State.setLink_loftErr (l : Nat) (x : Link) : (s.setLink l x).loftErr = s.loftErr := rfl
@[simp] theorem State.setLink_ueTick (l : Nat) (x : Link) : (s.setLink l x).ueTick = s.ueTick := rfl
@[simp] theorem State.setLink_ctl (l : Nat) (x : Link) : (s.setLink l x).ctl = s.ctl := rfl
@[simp] theorem State.setLink_tick (l : Nat) (x : Link) : (s.setLink l x).tick = s.tick := rfl
@[simp] theorem State.setLink_commit (l : Nat) (x : Link) : (s.setLink l x).commit = s.commit := rfl
@[simp] theorem State.setLink_autos (l : Nat) (x : Link) : (s.setLink l x).autos = s.autos := rfl
@[simp] theorem State.setLink_stagedAfter (l : Nat) (x : Link) : (s.setLink l x).stagedAfter = s.stagedAfter := rfl
@[simp] theorem State.setLink_cells (l : Nat) (x : Link) : (s.setLink l x).cells = s.cells := rfl
@[simp] theorem State.setLink_resets (l : Nat) (x : Link) : (s.setLink l x).resets = s.resets := rfl
@[simp] theorem State.setLink_chans (l : Nat) (x : Link) : (s.setLink l x).chans = s.chans := rfl
@[simp] theorem State.setLink_stackTbl (l : Nat) (x : Link) : (s.setLink l x).stackTbl = s.stackTbl := rfl
@[simp] theorem State.setLink_hubErr (l : Nat) (x : Link) : (s.setLink l x).hubErr = s.hubErr := rfl
@[simp] theorem State.setLink_hubSpares (l : Nat) (x : Link) : (s.setLink l x).hubSpares = s.hubSpares := rfl
@[simp] theorem State.setLink_fullBuckets (l : Nat) (x : Link) : (s.setLink l x).fullBuckets = s.fullBuckets := rfl
@[simp] theorem State.setLink_halfAsked (l : Nat) (x : Link) : (s.setLink l x).halfAsked = s.halfAsked := rfl
@[simp] theorem State.setLink_accWait (l : Nat) (x : Link) : (s.setLink l x).accWait = s.accWait := rfl
@[simp] theorem State.setLink_arrivals (l : Nat) (x : Link) : (s.setLink l x).arrivals = s.arrivals := rfl
@[simp] theorem State.setLink_ports (l : Nat) (x : Link) : (s.setLink l x).ports = s.ports := rfl
@[simp] theorem State.setLink_ring (l : Nat) (x : Link) : (s.setLink l x).ring = s.ring := rfl
@[simp] theorem State.setLink_sqTails (l : Nat) (x : Link) : (s.setLink l x).sqTails = s.sqTails := rfl
@[simp] theorem State.setLink_cqHeads (l : Nat) (x : Link) : (s.setLink l x).cqHeads = s.cqHeads := rfl
@[simp] theorem State.setLink_msix (l : Nat) (x : Link) : (s.setLink l x).msix = s.msix := rfl
@[simp] theorem State.setLink_wroteCq (l : Nat) (x : Link) : (s.setLink l x).wroteCq = s.wroteCq := rfl
@[simp] theorem State.setLink_heldCq (l : Nat) (x : Link) : (s.setLink l x).heldCq = s.heldCq := rfl
@[simp] theorem State.setLink_chutes (l : Nat) (x : Link) : (s.setLink l x).chutes = s.chutes := rfl
@[simp] theorem State.setLink_ramps (l : Nat) (x : Link) : (s.setLink l x).ramps = s.ramps := rfl
@[simp] theorem State.setLink_start (l : Nat) (x : Link) : (s.setLink l x).start = s.start := rfl
@[simp] theorem State.setLink_logRing (l : Nat) (x : Link) : (s.setLink l x).logRing = s.logRing := rfl
@[simp] theorem State.setLink_stdBuf (l : Nat) (x : Link) : (s.setLink l x).stdBuf = s.stdBuf := rfl
@[simp] theorem State.setLink_logPend (l : Nat) (x : Link) : (s.setLink l x).logPend = s.logPend := rfl
@[simp] theorem State.setLink_logTimes (l : Nat) (x : Link) : (s.setLink l x).logTimes = s.logTimes := rfl
@[simp] theorem State.setLink_rakeAt (l : Nat) (x : Link) : (s.setLink l x).rakeAt = s.rakeAt := rfl
@[simp] theorem State.setLink_rakeDue (l : Nat) (x : Link) : (s.setLink l x).rakeDue = s.rakeDue := rfl
@[simp] theorem State.setLink_sensors (l : Nat) (x : Link) : (s.setLink l x).sensors = s.sensors := rfl
@[simp] theorem State.setLink_heat (l : Nat) (x : Link) : (s.setLink l x).heat = s.heat := rfl
@[simp] theorem State.setLink_keep (l : Nat) (x : Link) : (s.setLink l x).keep = s.keep := rfl
@[simp] theorem State.setLink_i3c (l : Nat) (x : Link) : (s.setLink l x).i3c = s.i3c := rfl
@[simp] theorem State.setLink_seqStores (l : Nat) (x : Link) : (s.setLink l x).seqStores = s.seqStores := rfl
@[simp] theorem State.setLink_repairMark (l : Nat) (x : Link) : (s.setLink l x).repairMark = s.repairMark := rfl
@[simp] theorem State.setLink_otpJob (l : Nat) (x : Link) : (s.setLink l x).otpJob = s.otpJob := rfl
@[simp] theorem State.setLink_imgJob (l : Nat) (x : Link) : (s.setLink l x).imgJob = s.imgJob := rfl
@[simp] theorem State.setLink_attBody (l : Nat) (x : Link) : (s.setLink l x).attBody = s.attBody := rfl
@[simp] theorem State.setLink_report (l : Nat) (x : Link) : (s.setLink l x).report = s.report := rfl
@[simp] theorem State.setLink_attZero (l : Nat) (x : Link) : (s.setLink l x).attZero = s.attZero := rfl
@[simp] theorem State.setLink_jtagReset (l : Nat) (x : Link) : (s.setLink l x).jtagReset = s.jtagReset := rfl
@[simp] theorem State.setLink_minSvn (l : Nat) (x : Link) : (s.setLink l x).minSvn = s.minSvn := rfl
@[simp] theorem State.setLink_flagsActive (l : Nat) (x : Link) : (s.setLink l x).flagsActive = s.flagsActive := rfl
@[simp] theorem State.setLink_svn (l : Nat) (x : Link) : (s.setLink l x).svn = s.svn := rfl
@[simp] theorem State.setLink_snap (l : Nat) (x : Link) : (s.setLink l x).snap = s.snap := rfl
@[simp] theorem State.setLink_reg (l : Nat) (x : Link) (q : Reg) (m : Nat) : (s.setLink l x).reg q m = s.reg q m := rfl
@[simp] theorem State.setLink_getF (l : Nat) (x : Link) (g : Fld) (m : Nat) : (s.setLink l x).getF g m = s.getF g m := rfl
@[simp] theorem State.setLink_onF (l : Nat) (x : Link) (g : Fld) (m : Nat) : (s.setLink l x).onF g m = s.onF g m := rfl
@[simp] theorem State.setLink_stagedReg (l : Nat) (x : Link) (q : Reg) (m : Nat) : (s.setLink l x).stagedReg q m = s.stagedReg q m := rfl
@[simp] theorem State.setLink_cell (l : Nat) (x : Link) (m : Nat) : (s.setLink l x).cell m = s.cell m := rfl
@[simp] theorem State.setLink_chan (l : Nat) (x : Link) (m : Nat) : (s.setLink l x).chan m = s.chan m := rfl
@[simp] theorem State.setLink_port (l : Nat) (x : Link) (m : Nat) : (s.setLink l x).port m = s.port m := rfl
@[simp] theorem State.setLink_prog (l : Nat) (x : Link) (m : Nat) : (s.setLink l x).prog m = s.prog m := rfl
@[simp] theorem State.setLink_sheaf (l : Nat) (x : Link) (m : Nat) : (s.setLink l x).sheaf m = s.sheaf m := rfl
@[simp] theorem State.setLink_stream (l : Nat) (x : Link) (m : Nat) : (s.setLink l x).stream m = s.stream m := rfl

/-! ### setStack changes stackTbl -/

@[simp] theorem State.setStack_pending (k : Nat) (x : Stack) : (s.setStack k x).pending = s.pending := rfl
@[simp] theorem State.setStack_regs (k : Nat) (x : Stack) : (s.setStack k x).regs = s.regs := rfl
@[simp] theorem State.setStack_staged (k : Nat) (x : Stack) : (s.setStack k x).staged = s.staged := rfl
@[simp] theorem State.setStack_now (k : Nat) (x : Stack) : (s.setStack k x).now = s.now := rfl
@[simp] theorem State.setStack_fresh (k : Nat) (x : Stack) : (s.setStack k x).fresh = s.fresh := rfl
@[simp] theorem State.setStack_out (k : Nat) (x : Stack) : (s.setStack k x).out = s.out := rfl
@[simp] theorem State.setStack_devMem (k : Nat) (x : Stack) : (s.setStack k x).devMem = s.devMem := rfl
@[simp] theorem State.setStack_hostMem (k : Nat) (x : Stack) : (s.setStack k x).hostMem = s.hostMem := rfl
@[simp] theorem State.setStack_flash (k : Nat) (x : Stack) : (s.setStack k x).flash = s.flash := rfl
@[simp] theorem State.setStack_otp (k : Nat) (x : Stack) : (s.setStack k x).otp = s.otp := rfl
@[simp] theorem State.setStack_fuseCells (k : Nat) (x : Stack) : (s.setStack k x).fuseCells = s.fuseCells := rfl
@[simp] theorem State.setStack_rcvBuf (k : Nat) (x : Stack) : (s.setStack k x).rcvBuf = s.rcvBuf := rfl
@[simp] theorem State.setStack_loftErr (k : Nat) (x : Stack) : (s.setStack k x).loftErr = s.loftErr := rfl
@[simp] theorem State.setStack_ueTick (k : Nat) (x : Stack) : (s.setStack k x).ueTick = s.ueTick := rfl
@[simp] theorem State.setStack_ctl (k : Nat) (x : Stack) : (s.setStack k x).ctl = s.ctl := rfl
@[simp] theorem State.setStack_tick (k : Nat) (x : Stack) : (s.setStack k x).tick = s.tick := rfl
@[simp] theorem State.setStack_commit (k : Nat) (x : Stack) : (s.setStack k x).commit = s.commit := rfl
@[simp] theorem State.setStack_autos (k : Nat) (x : Stack) : (s.setStack k x).autos = s.autos := rfl
@[simp] theorem State.setStack_stagedAfter (k : Nat) (x : Stack) : (s.setStack k x).stagedAfter = s.stagedAfter := rfl
@[simp] theorem State.setStack_cells (k : Nat) (x : Stack) : (s.setStack k x).cells = s.cells := rfl
@[simp] theorem State.setStack_resets (k : Nat) (x : Stack) : (s.setStack k x).resets = s.resets := rfl
@[simp] theorem State.setStack_chans (k : Nat) (x : Stack) : (s.setStack k x).chans = s.chans := rfl
@[simp] theorem State.setStack_hubErr (k : Nat) (x : Stack) : (s.setStack k x).hubErr = s.hubErr := rfl
@[simp] theorem State.setStack_hubSpares (k : Nat) (x : Stack) : (s.setStack k x).hubSpares = s.hubSpares := rfl
@[simp] theorem State.setStack_fullBuckets (k : Nat) (x : Stack) : (s.setStack k x).fullBuckets = s.fullBuckets := rfl
@[simp] theorem State.setStack_halfAsked (k : Nat) (x : Stack) : (s.setStack k x).halfAsked = s.halfAsked := rfl
@[simp] theorem State.setStack_accWait (k : Nat) (x : Stack) : (s.setStack k x).accWait = s.accWait := rfl
@[simp] theorem State.setStack_arrivals (k : Nat) (x : Stack) : (s.setStack k x).arrivals = s.arrivals := rfl
@[simp] theorem State.setStack_ports (k : Nat) (x : Stack) : (s.setStack k x).ports = s.ports := rfl
@[simp] theorem State.setStack_links (k : Nat) (x : Stack) : (s.setStack k x).links = s.links := rfl
@[simp] theorem State.setStack_ring (k : Nat) (x : Stack) : (s.setStack k x).ring = s.ring := rfl
@[simp] theorem State.setStack_sqTails (k : Nat) (x : Stack) : (s.setStack k x).sqTails = s.sqTails := rfl
@[simp] theorem State.setStack_cqHeads (k : Nat) (x : Stack) : (s.setStack k x).cqHeads = s.cqHeads := rfl
@[simp] theorem State.setStack_msix (k : Nat) (x : Stack) : (s.setStack k x).msix = s.msix := rfl
@[simp] theorem State.setStack_wroteCq (k : Nat) (x : Stack) : (s.setStack k x).wroteCq = s.wroteCq := rfl
@[simp] theorem State.setStack_heldCq (k : Nat) (x : Stack) : (s.setStack k x).heldCq = s.heldCq := rfl
@[simp] theorem State.setStack_chutes (k : Nat) (x : Stack) : (s.setStack k x).chutes = s.chutes := rfl
@[simp] theorem State.setStack_ramps (k : Nat) (x : Stack) : (s.setStack k x).ramps = s.ramps := rfl
@[simp] theorem State.setStack_start (k : Nat) (x : Stack) : (s.setStack k x).start = s.start := rfl
@[simp] theorem State.setStack_logRing (k : Nat) (x : Stack) : (s.setStack k x).logRing = s.logRing := rfl
@[simp] theorem State.setStack_stdBuf (k : Nat) (x : Stack) : (s.setStack k x).stdBuf = s.stdBuf := rfl
@[simp] theorem State.setStack_logPend (k : Nat) (x : Stack) : (s.setStack k x).logPend = s.logPend := rfl
@[simp] theorem State.setStack_logTimes (k : Nat) (x : Stack) : (s.setStack k x).logTimes = s.logTimes := rfl
@[simp] theorem State.setStack_rakeAt (k : Nat) (x : Stack) : (s.setStack k x).rakeAt = s.rakeAt := rfl
@[simp] theorem State.setStack_rakeDue (k : Nat) (x : Stack) : (s.setStack k x).rakeDue = s.rakeDue := rfl
@[simp] theorem State.setStack_sensors (k : Nat) (x : Stack) : (s.setStack k x).sensors = s.sensors := rfl
@[simp] theorem State.setStack_heat (k : Nat) (x : Stack) : (s.setStack k x).heat = s.heat := rfl
@[simp] theorem State.setStack_keep (k : Nat) (x : Stack) : (s.setStack k x).keep = s.keep := rfl
@[simp] theorem State.setStack_i3c (k : Nat) (x : Stack) : (s.setStack k x).i3c = s.i3c := rfl
@[simp] theorem State.setStack_seqStores (k : Nat) (x : Stack) : (s.setStack k x).seqStores = s.seqStores := rfl
@[simp] theorem State.setStack_repairMark (k : Nat) (x : Stack) : (s.setStack k x).repairMark = s.repairMark := rfl
@[simp] theorem State.setStack_otpJob (k : Nat) (x : Stack) : (s.setStack k x).otpJob = s.otpJob := rfl
@[simp] theorem State.setStack_imgJob (k : Nat) (x : Stack) : (s.setStack k x).imgJob = s.imgJob := rfl
@[simp] theorem State.setStack_attBody (k : Nat) (x : Stack) : (s.setStack k x).attBody = s.attBody := rfl
@[simp] theorem State.setStack_report (k : Nat) (x : Stack) : (s.setStack k x).report = s.report := rfl
@[simp] theorem State.setStack_attZero (k : Nat) (x : Stack) : (s.setStack k x).attZero = s.attZero := rfl
@[simp] theorem State.setStack_jtagReset (k : Nat) (x : Stack) : (s.setStack k x).jtagReset = s.jtagReset := rfl
@[simp] theorem State.setStack_minSvn (k : Nat) (x : Stack) : (s.setStack k x).minSvn = s.minSvn := rfl
@[simp] theorem State.setStack_flagsActive (k : Nat) (x : Stack) : (s.setStack k x).flagsActive = s.flagsActive := rfl
@[simp] theorem State.setStack_svn (k : Nat) (x : Stack) : (s.setStack k x).svn = s.svn := rfl
@[simp] theorem State.setStack_snap (k : Nat) (x : Stack) : (s.setStack k x).snap = s.snap := rfl
@[simp] theorem State.setStack_reg (k : Nat) (x : Stack) (q : Reg) (m : Nat) : (s.setStack k x).reg q m = s.reg q m := rfl
@[simp] theorem State.setStack_getF (k : Nat) (x : Stack) (g : Fld) (m : Nat) : (s.setStack k x).getF g m = s.getF g m := rfl
@[simp] theorem State.setStack_onF (k : Nat) (x : Stack) (g : Fld) (m : Nat) : (s.setStack k x).onF g m = s.onF g m := rfl
@[simp] theorem State.setStack_stagedReg (k : Nat) (x : Stack) (q : Reg) (m : Nat) : (s.setStack k x).stagedReg q m = s.stagedReg q m := rfl
@[simp] theorem State.setStack_cell (k : Nat) (x : Stack) (m : Nat) : (s.setStack k x).cell m = s.cell m := rfl
@[simp] theorem State.setStack_chan (k : Nat) (x : Stack) (m : Nat) : (s.setStack k x).chan m = s.chan m := rfl
@[simp] theorem State.setStack_port (k : Nat) (x : Stack) (m : Nat) : (s.setStack k x).port m = s.port m := rfl
@[simp] theorem State.setStack_link (k : Nat) (x : Stack) (m : Nat) : (s.setStack k x).link m = s.link m := rfl
@[simp] theorem State.setStack_prog (k : Nat) (x : Stack) (m : Nat) : (s.setStack k x).prog m = s.prog m := rfl
@[simp] theorem State.setStack_sheaf (k : Nat) (x : Stack) (m : Nat) : (s.setStack k x).sheaf m = s.sheaf m := rfl
@[simp] theorem State.setStack_stream (k : Nat) (x : Stack) (m : Nat) : (s.setStack k x).stream m = s.stream m := rfl

/-! ### begin changes out -/

@[simp] theorem State.begin_pending : s.begin.pending = s.pending := rfl
@[simp] theorem State.begin_regs : s.begin.regs = s.regs := rfl
@[simp] theorem State.begin_staged : s.begin.staged = s.staged := rfl
@[simp] theorem State.begin_now : s.begin.now = s.now := rfl
@[simp] theorem State.begin_fresh : s.begin.fresh = s.fresh := rfl
@[simp] theorem State.begin_devMem : s.begin.devMem = s.devMem := rfl
@[simp] theorem State.begin_hostMem : s.begin.hostMem = s.hostMem := rfl
@[simp] theorem State.begin_flash : s.begin.flash = s.flash := rfl
@[simp] theorem State.begin_otp : s.begin.otp = s.otp := rfl
@[simp] theorem State.begin_fuseCells : s.begin.fuseCells = s.fuseCells := rfl
@[simp] theorem State.begin_rcvBuf : s.begin.rcvBuf = s.rcvBuf := rfl
@[simp] theorem State.begin_loftErr : s.begin.loftErr = s.loftErr := rfl
@[simp] theorem State.begin_ueTick : s.begin.ueTick = s.ueTick := rfl
@[simp] theorem State.begin_ctl : s.begin.ctl = s.ctl := rfl
@[simp] theorem State.begin_tick : s.begin.tick = s.tick := rfl
@[simp] theorem State.begin_commit : s.begin.commit = s.commit := rfl
@[simp] theorem State.begin_autos : s.begin.autos = s.autos := rfl
@[simp] theorem State.begin_stagedAfter : s.begin.stagedAfter = s.stagedAfter := rfl
@[simp] theorem State.begin_cells : s.begin.cells = s.cells := rfl
@[simp] theorem State.begin_resets : s.begin.resets = s.resets := rfl
@[simp] theorem State.begin_chans : s.begin.chans = s.chans := rfl
@[simp] theorem State.begin_stackTbl : s.begin.stackTbl = s.stackTbl := rfl
@[simp] theorem State.begin_hubErr : s.begin.hubErr = s.hubErr := rfl
@[simp] theorem State.begin_hubSpares : s.begin.hubSpares = s.hubSpares := rfl
@[simp] theorem State.begin_fullBuckets : s.begin.fullBuckets = s.fullBuckets := rfl
@[simp] theorem State.begin_halfAsked : s.begin.halfAsked = s.halfAsked := rfl
@[simp] theorem State.begin_accWait : s.begin.accWait = s.accWait := rfl
@[simp] theorem State.begin_arrivals : s.begin.arrivals = s.arrivals := rfl
@[simp] theorem State.begin_ports : s.begin.ports = s.ports := rfl
@[simp] theorem State.begin_links : s.begin.links = s.links := rfl
@[simp] theorem State.begin_ring : s.begin.ring = s.ring := rfl
@[simp] theorem State.begin_sqTails : s.begin.sqTails = s.sqTails := rfl
@[simp] theorem State.begin_cqHeads : s.begin.cqHeads = s.cqHeads := rfl
@[simp] theorem State.begin_msix : s.begin.msix = s.msix := rfl
@[simp] theorem State.begin_wroteCq : s.begin.wroteCq = s.wroteCq := rfl
@[simp] theorem State.begin_heldCq : s.begin.heldCq = s.heldCq := rfl
@[simp] theorem State.begin_chutes : s.begin.chutes = s.chutes := rfl
@[simp] theorem State.begin_ramps : s.begin.ramps = s.ramps := rfl
@[simp] theorem State.begin_start : s.begin.start = s.start := rfl
@[simp] theorem State.begin_logRing : s.begin.logRing = s.logRing := rfl
@[simp] theorem State.begin_stdBuf : s.begin.stdBuf = s.stdBuf := rfl
@[simp] theorem State.begin_logPend : s.begin.logPend = s.logPend := rfl
@[simp] theorem State.begin_logTimes : s.begin.logTimes = s.logTimes := rfl
@[simp] theorem State.begin_rakeAt : s.begin.rakeAt = s.rakeAt := rfl
@[simp] theorem State.begin_rakeDue : s.begin.rakeDue = s.rakeDue := rfl
@[simp] theorem State.begin_sensors : s.begin.sensors = s.sensors := rfl
@[simp] theorem State.begin_heat : s.begin.heat = s.heat := rfl
@[simp] theorem State.begin_keep : s.begin.keep = s.keep := rfl
@[simp] theorem State.begin_i3c : s.begin.i3c = s.i3c := rfl
@[simp] theorem State.begin_seqStores : s.begin.seqStores = s.seqStores := rfl
@[simp] theorem State.begin_repairMark : s.begin.repairMark = s.repairMark := rfl
@[simp] theorem State.begin_otpJob : s.begin.otpJob = s.otpJob := rfl
@[simp] theorem State.begin_imgJob : s.begin.imgJob = s.imgJob := rfl
@[simp] theorem State.begin_attBody : s.begin.attBody = s.attBody := rfl
@[simp] theorem State.begin_report : s.begin.report = s.report := rfl
@[simp] theorem State.begin_attZero : s.begin.attZero = s.attZero := rfl
@[simp] theorem State.begin_jtagReset : s.begin.jtagReset = s.jtagReset := rfl
@[simp] theorem State.begin_minSvn : s.begin.minSvn = s.minSvn := rfl
@[simp] theorem State.begin_flagsActive : s.begin.flagsActive = s.flagsActive := rfl
@[simp] theorem State.begin_svn : s.begin.svn = s.svn := rfl
@[simp] theorem State.begin_snap : s.begin.snap = s.snap := rfl
@[simp] theorem State.begin_reg (q : Reg) (m : Nat) : s.begin.reg q m = s.reg q m := rfl
@[simp] theorem State.begin_getF (g : Fld) (m : Nat) : s.begin.getF g m = s.getF g m := rfl
@[simp] theorem State.begin_onF (g : Fld) (m : Nat) : s.begin.onF g m = s.onF g m := rfl
@[simp] theorem State.begin_stagedReg (q : Reg) (m : Nat) : s.begin.stagedReg q m = s.stagedReg q m := rfl
@[simp] theorem State.begin_cell (m : Nat) : s.begin.cell m = s.cell m := rfl
@[simp] theorem State.begin_chan (m : Nat) : s.begin.chan m = s.chan m := rfl
@[simp] theorem State.begin_port (m : Nat) : s.begin.port m = s.port m := rfl
@[simp] theorem State.begin_link (m : Nat) : s.begin.link m = s.link m := rfl
@[simp] theorem State.begin_prog (m : Nat) : s.begin.prog m = s.prog m := rfl
@[simp] theorem State.begin_sheaf (m : Nat) : s.begin.sheaf m = s.sheaf m := rfl
@[simp] theorem State.begin_stream (m : Nat) : s.begin.stream m = s.stream m := rfl

/-! ### send changes out -/

@[simp] theorem State.send_pending (o : Output) : (s.send o).pending = s.pending := rfl
@[simp] theorem State.send_regs (o : Output) : (s.send o).regs = s.regs := rfl
@[simp] theorem State.send_staged (o : Output) : (s.send o).staged = s.staged := rfl
@[simp] theorem State.send_now (o : Output) : (s.send o).now = s.now := rfl
@[simp] theorem State.send_fresh (o : Output) : (s.send o).fresh = s.fresh := rfl
@[simp] theorem State.send_devMem (o : Output) : (s.send o).devMem = s.devMem := rfl
@[simp] theorem State.send_hostMem (o : Output) : (s.send o).hostMem = s.hostMem := rfl
@[simp] theorem State.send_flash (o : Output) : (s.send o).flash = s.flash := rfl
@[simp] theorem State.send_otp (o : Output) : (s.send o).otp = s.otp := rfl
@[simp] theorem State.send_fuseCells (o : Output) : (s.send o).fuseCells = s.fuseCells := rfl
@[simp] theorem State.send_rcvBuf (o : Output) : (s.send o).rcvBuf = s.rcvBuf := rfl
@[simp] theorem State.send_loftErr (o : Output) : (s.send o).loftErr = s.loftErr := rfl
@[simp] theorem State.send_ueTick (o : Output) : (s.send o).ueTick = s.ueTick := rfl
@[simp] theorem State.send_ctl (o : Output) : (s.send o).ctl = s.ctl := rfl
@[simp] theorem State.send_tick (o : Output) : (s.send o).tick = s.tick := rfl
@[simp] theorem State.send_commit (o : Output) : (s.send o).commit = s.commit := rfl
@[simp] theorem State.send_autos (o : Output) : (s.send o).autos = s.autos := rfl
@[simp] theorem State.send_stagedAfter (o : Output) : (s.send o).stagedAfter = s.stagedAfter := rfl
@[simp] theorem State.send_cells (o : Output) : (s.send o).cells = s.cells := rfl
@[simp] theorem State.send_resets (o : Output) : (s.send o).resets = s.resets := rfl
@[simp] theorem State.send_chans (o : Output) : (s.send o).chans = s.chans := rfl
@[simp] theorem State.send_stackTbl (o : Output) : (s.send o).stackTbl = s.stackTbl := rfl
@[simp] theorem State.send_hubErr (o : Output) : (s.send o).hubErr = s.hubErr := rfl
@[simp] theorem State.send_hubSpares (o : Output) : (s.send o).hubSpares = s.hubSpares := rfl
@[simp] theorem State.send_fullBuckets (o : Output) : (s.send o).fullBuckets = s.fullBuckets := rfl
@[simp] theorem State.send_halfAsked (o : Output) : (s.send o).halfAsked = s.halfAsked := rfl
@[simp] theorem State.send_accWait (o : Output) : (s.send o).accWait = s.accWait := rfl
@[simp] theorem State.send_arrivals (o : Output) : (s.send o).arrivals = s.arrivals := rfl
@[simp] theorem State.send_ports (o : Output) : (s.send o).ports = s.ports := rfl
@[simp] theorem State.send_links (o : Output) : (s.send o).links = s.links := rfl
@[simp] theorem State.send_ring (o : Output) : (s.send o).ring = s.ring := rfl
@[simp] theorem State.send_sqTails (o : Output) : (s.send o).sqTails = s.sqTails := rfl
@[simp] theorem State.send_cqHeads (o : Output) : (s.send o).cqHeads = s.cqHeads := rfl
@[simp] theorem State.send_msix (o : Output) : (s.send o).msix = s.msix := rfl
@[simp] theorem State.send_wroteCq (o : Output) : (s.send o).wroteCq = s.wroteCq := rfl
@[simp] theorem State.send_heldCq (o : Output) : (s.send o).heldCq = s.heldCq := rfl
@[simp] theorem State.send_chutes (o : Output) : (s.send o).chutes = s.chutes := rfl
@[simp] theorem State.send_ramps (o : Output) : (s.send o).ramps = s.ramps := rfl
@[simp] theorem State.send_start (o : Output) : (s.send o).start = s.start := rfl
@[simp] theorem State.send_logRing (o : Output) : (s.send o).logRing = s.logRing := rfl
@[simp] theorem State.send_stdBuf (o : Output) : (s.send o).stdBuf = s.stdBuf := rfl
@[simp] theorem State.send_logPend (o : Output) : (s.send o).logPend = s.logPend := rfl
@[simp] theorem State.send_logTimes (o : Output) : (s.send o).logTimes = s.logTimes := rfl
@[simp] theorem State.send_rakeAt (o : Output) : (s.send o).rakeAt = s.rakeAt := rfl
@[simp] theorem State.send_rakeDue (o : Output) : (s.send o).rakeDue = s.rakeDue := rfl
@[simp] theorem State.send_sensors (o : Output) : (s.send o).sensors = s.sensors := rfl
@[simp] theorem State.send_heat (o : Output) : (s.send o).heat = s.heat := rfl
@[simp] theorem State.send_keep (o : Output) : (s.send o).keep = s.keep := rfl
@[simp] theorem State.send_i3c (o : Output) : (s.send o).i3c = s.i3c := rfl
@[simp] theorem State.send_seqStores (o : Output) : (s.send o).seqStores = s.seqStores := rfl
@[simp] theorem State.send_repairMark (o : Output) : (s.send o).repairMark = s.repairMark := rfl
@[simp] theorem State.send_otpJob (o : Output) : (s.send o).otpJob = s.otpJob := rfl
@[simp] theorem State.send_imgJob (o : Output) : (s.send o).imgJob = s.imgJob := rfl
@[simp] theorem State.send_attBody (o : Output) : (s.send o).attBody = s.attBody := rfl
@[simp] theorem State.send_report (o : Output) : (s.send o).report = s.report := rfl
@[simp] theorem State.send_attZero (o : Output) : (s.send o).attZero = s.attZero := rfl
@[simp] theorem State.send_jtagReset (o : Output) : (s.send o).jtagReset = s.jtagReset := rfl
@[simp] theorem State.send_minSvn (o : Output) : (s.send o).minSvn = s.minSvn := rfl
@[simp] theorem State.send_flagsActive (o : Output) : (s.send o).flagsActive = s.flagsActive := rfl
@[simp] theorem State.send_svn (o : Output) : (s.send o).svn = s.svn := rfl
@[simp] theorem State.send_snap (o : Output) : (s.send o).snap = s.snap := rfl
@[simp] theorem State.send_reg (o : Output) (q : Reg) (m : Nat) : (s.send o).reg q m = s.reg q m := rfl
@[simp] theorem State.send_getF (o : Output) (g : Fld) (m : Nat) : (s.send o).getF g m = s.getF g m := rfl
@[simp] theorem State.send_onF (o : Output) (g : Fld) (m : Nat) : (s.send o).onF g m = s.onF g m := rfl
@[simp] theorem State.send_stagedReg (o : Output) (q : Reg) (m : Nat) : (s.send o).stagedReg q m = s.stagedReg q m := rfl
@[simp] theorem State.send_cell (o : Output) (m : Nat) : (s.send o).cell m = s.cell m := rfl
@[simp] theorem State.send_chan (o : Output) (m : Nat) : (s.send o).chan m = s.chan m := rfl
@[simp] theorem State.send_port (o : Output) (m : Nat) : (s.send o).port m = s.port m := rfl
@[simp] theorem State.send_link (o : Output) (m : Nat) : (s.send o).link m = s.link m := rfl
@[simp] theorem State.send_prog (o : Output) (m : Nat) : (s.send o).prog m = s.prog m := rfl
@[simp] theorem State.send_sheaf (o : Output) (m : Nat) : (s.send o).sheaf m = s.sheaf m := rfl
@[simp] theorem State.send_stream (o : Output) (m : Nat) : (s.send o).stream m = s.stream m := rfl

/-! ### at_ changes now -/

@[simp] theorem State.at_pending (n : Nat) : (s.at_ n).pending = s.pending := rfl
@[simp] theorem State.at_regs (n : Nat) : (s.at_ n).regs = s.regs := rfl
@[simp] theorem State.at_staged (n : Nat) : (s.at_ n).staged = s.staged := rfl
@[simp] theorem State.at_fresh (n : Nat) : (s.at_ n).fresh = s.fresh := rfl
@[simp] theorem State.at_out (n : Nat) : (s.at_ n).out = s.out := rfl
@[simp] theorem State.at_devMem (n : Nat) : (s.at_ n).devMem = s.devMem := rfl
@[simp] theorem State.at_hostMem (n : Nat) : (s.at_ n).hostMem = s.hostMem := rfl
@[simp] theorem State.at_flash (n : Nat) : (s.at_ n).flash = s.flash := rfl
@[simp] theorem State.at_otp (n : Nat) : (s.at_ n).otp = s.otp := rfl
@[simp] theorem State.at_fuseCells (n : Nat) : (s.at_ n).fuseCells = s.fuseCells := rfl
@[simp] theorem State.at_rcvBuf (n : Nat) : (s.at_ n).rcvBuf = s.rcvBuf := rfl
@[simp] theorem State.at_loftErr (n : Nat) : (s.at_ n).loftErr = s.loftErr := rfl
@[simp] theorem State.at_ueTick (n : Nat) : (s.at_ n).ueTick = s.ueTick := rfl
@[simp] theorem State.at_ctl (n : Nat) : (s.at_ n).ctl = s.ctl := rfl
@[simp] theorem State.at_tick (n : Nat) : (s.at_ n).tick = s.tick := rfl
@[simp] theorem State.at_commit (n : Nat) : (s.at_ n).commit = s.commit := rfl
@[simp] theorem State.at_autos (n : Nat) : (s.at_ n).autos = s.autos := rfl
@[simp] theorem State.at_stagedAfter (n : Nat) : (s.at_ n).stagedAfter = s.stagedAfter := rfl
@[simp] theorem State.at_cells (n : Nat) : (s.at_ n).cells = s.cells := rfl
@[simp] theorem State.at_resets (n : Nat) : (s.at_ n).resets = s.resets := rfl
@[simp] theorem State.at_chans (n : Nat) : (s.at_ n).chans = s.chans := rfl
@[simp] theorem State.at_stackTbl (n : Nat) : (s.at_ n).stackTbl = s.stackTbl := rfl
@[simp] theorem State.at_hubErr (n : Nat) : (s.at_ n).hubErr = s.hubErr := rfl
@[simp] theorem State.at_hubSpares (n : Nat) : (s.at_ n).hubSpares = s.hubSpares := rfl
@[simp] theorem State.at_fullBuckets (n : Nat) : (s.at_ n).fullBuckets = s.fullBuckets := rfl
@[simp] theorem State.at_halfAsked (n : Nat) : (s.at_ n).halfAsked = s.halfAsked := rfl
@[simp] theorem State.at_accWait (n : Nat) : (s.at_ n).accWait = s.accWait := rfl
@[simp] theorem State.at_arrivals (n : Nat) : (s.at_ n).arrivals = s.arrivals := rfl
@[simp] theorem State.at_ports (n : Nat) : (s.at_ n).ports = s.ports := rfl
@[simp] theorem State.at_links (n : Nat) : (s.at_ n).links = s.links := rfl
@[simp] theorem State.at_ring (n : Nat) : (s.at_ n).ring = s.ring := rfl
@[simp] theorem State.at_sqTails (n : Nat) : (s.at_ n).sqTails = s.sqTails := rfl
@[simp] theorem State.at_cqHeads (n : Nat) : (s.at_ n).cqHeads = s.cqHeads := rfl
@[simp] theorem State.at_msix (n : Nat) : (s.at_ n).msix = s.msix := rfl
@[simp] theorem State.at_wroteCq (n : Nat) : (s.at_ n).wroteCq = s.wroteCq := rfl
@[simp] theorem State.at_heldCq (n : Nat) : (s.at_ n).heldCq = s.heldCq := rfl
@[simp] theorem State.at_chutes (n : Nat) : (s.at_ n).chutes = s.chutes := rfl
@[simp] theorem State.at_ramps (n : Nat) : (s.at_ n).ramps = s.ramps := rfl
@[simp] theorem State.at_start (n : Nat) : (s.at_ n).start = s.start := rfl
@[simp] theorem State.at_logRing (n : Nat) : (s.at_ n).logRing = s.logRing := rfl
@[simp] theorem State.at_stdBuf (n : Nat) : (s.at_ n).stdBuf = s.stdBuf := rfl
@[simp] theorem State.at_logPend (n : Nat) : (s.at_ n).logPend = s.logPend := rfl
@[simp] theorem State.at_logTimes (n : Nat) : (s.at_ n).logTimes = s.logTimes := rfl
@[simp] theorem State.at_rakeAt (n : Nat) : (s.at_ n).rakeAt = s.rakeAt := rfl
@[simp] theorem State.at_rakeDue (n : Nat) : (s.at_ n).rakeDue = s.rakeDue := rfl
@[simp] theorem State.at_sensors (n : Nat) : (s.at_ n).sensors = s.sensors := rfl
@[simp] theorem State.at_heat (n : Nat) : (s.at_ n).heat = s.heat := rfl
@[simp] theorem State.at_keep (n : Nat) : (s.at_ n).keep = s.keep := rfl
@[simp] theorem State.at_i3c (n : Nat) : (s.at_ n).i3c = s.i3c := rfl
@[simp] theorem State.at_seqStores (n : Nat) : (s.at_ n).seqStores = s.seqStores := rfl
@[simp] theorem State.at_repairMark (n : Nat) : (s.at_ n).repairMark = s.repairMark := rfl
@[simp] theorem State.at_otpJob (n : Nat) : (s.at_ n).otpJob = s.otpJob := rfl
@[simp] theorem State.at_imgJob (n : Nat) : (s.at_ n).imgJob = s.imgJob := rfl
@[simp] theorem State.at_attBody (n : Nat) : (s.at_ n).attBody = s.attBody := rfl
@[simp] theorem State.at_report (n : Nat) : (s.at_ n).report = s.report := rfl
@[simp] theorem State.at_attZero (n : Nat) : (s.at_ n).attZero = s.attZero := rfl
@[simp] theorem State.at_jtagReset (n : Nat) : (s.at_ n).jtagReset = s.jtagReset := rfl
@[simp] theorem State.at_minSvn (n : Nat) : (s.at_ n).minSvn = s.minSvn := rfl
@[simp] theorem State.at_flagsActive (n : Nat) : (s.at_ n).flagsActive = s.flagsActive := rfl
@[simp] theorem State.at_svn (n : Nat) : (s.at_ n).svn = s.svn := rfl
@[simp] theorem State.at_snap (n : Nat) : (s.at_ n).snap = s.snap := rfl
@[simp] theorem State.at_reg (n : Nat) (q : Reg) (m : Nat) : (s.at_ n).reg q m = s.reg q m := rfl
@[simp] theorem State.at_getF (n : Nat) (g : Fld) (m : Nat) : (s.at_ n).getF g m = s.getF g m := rfl
@[simp] theorem State.at_onF (n : Nat) (g : Fld) (m : Nat) : (s.at_ n).onF g m = s.onF g m := rfl
@[simp] theorem State.at_stagedReg (n : Nat) (q : Reg) (m : Nat) : (s.at_ n).stagedReg q m = s.stagedReg q m := rfl
@[simp] theorem State.at_cell (n : Nat) (m : Nat) : (s.at_ n).cell m = s.cell m := rfl
@[simp] theorem State.at_chan (n : Nat) (m : Nat) : (s.at_ n).chan m = s.chan m := rfl
@[simp] theorem State.at_port (n : Nat) (m : Nat) : (s.at_ n).port m = s.port m := rfl
@[simp] theorem State.at_link (n : Nat) (m : Nat) : (s.at_ n).link m = s.link m := rfl
@[simp] theorem State.at_prog (n : Nat) (m : Nat) : (s.at_ n).prog m = s.prog m := rfl
@[simp] theorem State.at_sheaf (n : Nat) (m : Nat) : (s.at_ n).sheaf m = s.sheaf m := rfl
@[simp] theorem State.at_stream (n : Nat) (m : Nat) : (s.at_ n).stream m = s.stream m := rfl

/-! ### nextFree changes fresh -/

@[simp] theorem State.nextFree_pending : s.nextFree.pending = s.pending := rfl
@[simp] theorem State.nextFree_regs : s.nextFree.regs = s.regs := rfl
@[simp] theorem State.nextFree_staged : s.nextFree.staged = s.staged := rfl
@[simp] theorem State.nextFree_now : s.nextFree.now = s.now := rfl
@[simp] theorem State.nextFree_out : s.nextFree.out = s.out := rfl
@[simp] theorem State.nextFree_devMem : s.nextFree.devMem = s.devMem := rfl
@[simp] theorem State.nextFree_hostMem : s.nextFree.hostMem = s.hostMem := rfl
@[simp] theorem State.nextFree_flash : s.nextFree.flash = s.flash := rfl
@[simp] theorem State.nextFree_otp : s.nextFree.otp = s.otp := rfl
@[simp] theorem State.nextFree_fuseCells : s.nextFree.fuseCells = s.fuseCells := rfl
@[simp] theorem State.nextFree_rcvBuf : s.nextFree.rcvBuf = s.rcvBuf := rfl
@[simp] theorem State.nextFree_loftErr : s.nextFree.loftErr = s.loftErr := rfl
@[simp] theorem State.nextFree_ueTick : s.nextFree.ueTick = s.ueTick := rfl
@[simp] theorem State.nextFree_ctl : s.nextFree.ctl = s.ctl := rfl
@[simp] theorem State.nextFree_tick : s.nextFree.tick = s.tick := rfl
@[simp] theorem State.nextFree_commit : s.nextFree.commit = s.commit := rfl
@[simp] theorem State.nextFree_autos : s.nextFree.autos = s.autos := rfl
@[simp] theorem State.nextFree_stagedAfter : s.nextFree.stagedAfter = s.stagedAfter := rfl
@[simp] theorem State.nextFree_cells : s.nextFree.cells = s.cells := rfl
@[simp] theorem State.nextFree_resets : s.nextFree.resets = s.resets := rfl
@[simp] theorem State.nextFree_chans : s.nextFree.chans = s.chans := rfl
@[simp] theorem State.nextFree_stackTbl : s.nextFree.stackTbl = s.stackTbl := rfl
@[simp] theorem State.nextFree_hubErr : s.nextFree.hubErr = s.hubErr := rfl
@[simp] theorem State.nextFree_hubSpares : s.nextFree.hubSpares = s.hubSpares := rfl
@[simp] theorem State.nextFree_fullBuckets : s.nextFree.fullBuckets = s.fullBuckets := rfl
@[simp] theorem State.nextFree_halfAsked : s.nextFree.halfAsked = s.halfAsked := rfl
@[simp] theorem State.nextFree_accWait : s.nextFree.accWait = s.accWait := rfl
@[simp] theorem State.nextFree_arrivals : s.nextFree.arrivals = s.arrivals := rfl
@[simp] theorem State.nextFree_ports : s.nextFree.ports = s.ports := rfl
@[simp] theorem State.nextFree_links : s.nextFree.links = s.links := rfl
@[simp] theorem State.nextFree_ring : s.nextFree.ring = s.ring := rfl
@[simp] theorem State.nextFree_sqTails : s.nextFree.sqTails = s.sqTails := rfl
@[simp] theorem State.nextFree_cqHeads : s.nextFree.cqHeads = s.cqHeads := rfl
@[simp] theorem State.nextFree_msix : s.nextFree.msix = s.msix := rfl
@[simp] theorem State.nextFree_wroteCq : s.nextFree.wroteCq = s.wroteCq := rfl
@[simp] theorem State.nextFree_heldCq : s.nextFree.heldCq = s.heldCq := rfl
@[simp] theorem State.nextFree_chutes : s.nextFree.chutes = s.chutes := rfl
@[simp] theorem State.nextFree_ramps : s.nextFree.ramps = s.ramps := rfl
@[simp] theorem State.nextFree_start : s.nextFree.start = s.start := rfl
@[simp] theorem State.nextFree_logRing : s.nextFree.logRing = s.logRing := rfl
@[simp] theorem State.nextFree_stdBuf : s.nextFree.stdBuf = s.stdBuf := rfl
@[simp] theorem State.nextFree_logPend : s.nextFree.logPend = s.logPend := rfl
@[simp] theorem State.nextFree_logTimes : s.nextFree.logTimes = s.logTimes := rfl
@[simp] theorem State.nextFree_rakeAt : s.nextFree.rakeAt = s.rakeAt := rfl
@[simp] theorem State.nextFree_rakeDue : s.nextFree.rakeDue = s.rakeDue := rfl
@[simp] theorem State.nextFree_sensors : s.nextFree.sensors = s.sensors := rfl
@[simp] theorem State.nextFree_heat : s.nextFree.heat = s.heat := rfl
@[simp] theorem State.nextFree_keep : s.nextFree.keep = s.keep := rfl
@[simp] theorem State.nextFree_i3c : s.nextFree.i3c = s.i3c := rfl
@[simp] theorem State.nextFree_seqStores : s.nextFree.seqStores = s.seqStores := rfl
@[simp] theorem State.nextFree_repairMark : s.nextFree.repairMark = s.repairMark := rfl
@[simp] theorem State.nextFree_otpJob : s.nextFree.otpJob = s.otpJob := rfl
@[simp] theorem State.nextFree_imgJob : s.nextFree.imgJob = s.imgJob := rfl
@[simp] theorem State.nextFree_attBody : s.nextFree.attBody = s.attBody := rfl
@[simp] theorem State.nextFree_report : s.nextFree.report = s.report := rfl
@[simp] theorem State.nextFree_attZero : s.nextFree.attZero = s.attZero := rfl
@[simp] theorem State.nextFree_jtagReset : s.nextFree.jtagReset = s.jtagReset := rfl
@[simp] theorem State.nextFree_minSvn : s.nextFree.minSvn = s.minSvn := rfl
@[simp] theorem State.nextFree_flagsActive : s.nextFree.flagsActive = s.flagsActive := rfl
@[simp] theorem State.nextFree_svn : s.nextFree.svn = s.svn := rfl
@[simp] theorem State.nextFree_snap : s.nextFree.snap = s.snap := rfl
@[simp] theorem State.nextFree_reg (q : Reg) (m : Nat) : s.nextFree.reg q m = s.reg q m := rfl
@[simp] theorem State.nextFree_getF (g : Fld) (m : Nat) : s.nextFree.getF g m = s.getF g m := rfl
@[simp] theorem State.nextFree_onF (g : Fld) (m : Nat) : s.nextFree.onF g m = s.onF g m := rfl
@[simp] theorem State.nextFree_stagedReg (q : Reg) (m : Nat) : s.nextFree.stagedReg q m = s.stagedReg q m := rfl
@[simp] theorem State.nextFree_cell (m : Nat) : s.nextFree.cell m = s.cell m := rfl
@[simp] theorem State.nextFree_chan (m : Nat) : s.nextFree.chan m = s.chan m := rfl
@[simp] theorem State.nextFree_port (m : Nat) : s.nextFree.port m = s.port m := rfl
@[simp] theorem State.nextFree_link (m : Nat) : s.nextFree.link m = s.link m := rfl
@[simp] theorem State.nextFree_prog (m : Nat) : s.nextFree.prog m = s.prog m := rfl
@[simp] theorem State.nextFree_sheaf (m : Nat) : s.nextFree.sheaf m = s.sheaf m := rfl
@[simp] theorem State.nextFree_stream (m : Nat) : s.nextFree.stream m = s.stream m := rfl

/-! ### markStale changes snap -/

@[simp] theorem State.markStale_pending (a b : Nat) : (s.markStale a b).pending = s.pending := rfl
@[simp] theorem State.markStale_regs (a b : Nat) : (s.markStale a b).regs = s.regs := rfl
@[simp] theorem State.markStale_staged (a b : Nat) : (s.markStale a b).staged = s.staged := rfl
@[simp] theorem State.markStale_now (a b : Nat) : (s.markStale a b).now = s.now := rfl
@[simp] theorem State.markStale_fresh (a b : Nat) : (s.markStale a b).fresh = s.fresh := rfl
@[simp] theorem State.markStale_out (a b : Nat) : (s.markStale a b).out = s.out := rfl
@[simp] theorem State.markStale_devMem (a b : Nat) : (s.markStale a b).devMem = s.devMem := rfl
@[simp] theorem State.markStale_hostMem (a b : Nat) : (s.markStale a b).hostMem = s.hostMem := rfl
@[simp] theorem State.markStale_flash (a b : Nat) : (s.markStale a b).flash = s.flash := rfl
@[simp] theorem State.markStale_otp (a b : Nat) : (s.markStale a b).otp = s.otp := rfl
@[simp] theorem State.markStale_fuseCells (a b : Nat) : (s.markStale a b).fuseCells = s.fuseCells := rfl
@[simp] theorem State.markStale_rcvBuf (a b : Nat) : (s.markStale a b).rcvBuf = s.rcvBuf := rfl
@[simp] theorem State.markStale_loftErr (a b : Nat) : (s.markStale a b).loftErr = s.loftErr := rfl
@[simp] theorem State.markStale_ueTick (a b : Nat) : (s.markStale a b).ueTick = s.ueTick := rfl
@[simp] theorem State.markStale_ctl (a b : Nat) : (s.markStale a b).ctl = s.ctl := rfl
@[simp] theorem State.markStale_tick (a b : Nat) : (s.markStale a b).tick = s.tick := rfl
@[simp] theorem State.markStale_commit (a b : Nat) : (s.markStale a b).commit = s.commit := rfl
@[simp] theorem State.markStale_autos (a b : Nat) : (s.markStale a b).autos = s.autos := rfl
@[simp] theorem State.markStale_stagedAfter (a b : Nat) : (s.markStale a b).stagedAfter = s.stagedAfter := rfl
@[simp] theorem State.markStale_cells (a b : Nat) : (s.markStale a b).cells = s.cells := rfl
@[simp] theorem State.markStale_resets (a b : Nat) : (s.markStale a b).resets = s.resets := rfl
@[simp] theorem State.markStale_chans (a b : Nat) : (s.markStale a b).chans = s.chans := rfl
@[simp] theorem State.markStale_stackTbl (a b : Nat) : (s.markStale a b).stackTbl = s.stackTbl := rfl
@[simp] theorem State.markStale_hubErr (a b : Nat) : (s.markStale a b).hubErr = s.hubErr := rfl
@[simp] theorem State.markStale_hubSpares (a b : Nat) : (s.markStale a b).hubSpares = s.hubSpares := rfl
@[simp] theorem State.markStale_fullBuckets (a b : Nat) : (s.markStale a b).fullBuckets = s.fullBuckets := rfl
@[simp] theorem State.markStale_halfAsked (a b : Nat) : (s.markStale a b).halfAsked = s.halfAsked := rfl
@[simp] theorem State.markStale_accWait (a b : Nat) : (s.markStale a b).accWait = s.accWait := rfl
@[simp] theorem State.markStale_arrivals (a b : Nat) : (s.markStale a b).arrivals = s.arrivals := rfl
@[simp] theorem State.markStale_ports (a b : Nat) : (s.markStale a b).ports = s.ports := rfl
@[simp] theorem State.markStale_links (a b : Nat) : (s.markStale a b).links = s.links := rfl
@[simp] theorem State.markStale_ring (a b : Nat) : (s.markStale a b).ring = s.ring := rfl
@[simp] theorem State.markStale_sqTails (a b : Nat) : (s.markStale a b).sqTails = s.sqTails := rfl
@[simp] theorem State.markStale_cqHeads (a b : Nat) : (s.markStale a b).cqHeads = s.cqHeads := rfl
@[simp] theorem State.markStale_msix (a b : Nat) : (s.markStale a b).msix = s.msix := rfl
@[simp] theorem State.markStale_wroteCq (a b : Nat) : (s.markStale a b).wroteCq = s.wroteCq := rfl
@[simp] theorem State.markStale_heldCq (a b : Nat) : (s.markStale a b).heldCq = s.heldCq := rfl
@[simp] theorem State.markStale_chutes (a b : Nat) : (s.markStale a b).chutes = s.chutes := rfl
@[simp] theorem State.markStale_ramps (a b : Nat) : (s.markStale a b).ramps = s.ramps := rfl
@[simp] theorem State.markStale_start (a b : Nat) : (s.markStale a b).start = s.start := rfl
@[simp] theorem State.markStale_logRing (a b : Nat) : (s.markStale a b).logRing = s.logRing := rfl
@[simp] theorem State.markStale_stdBuf (a b : Nat) : (s.markStale a b).stdBuf = s.stdBuf := rfl
@[simp] theorem State.markStale_logPend (a b : Nat) : (s.markStale a b).logPend = s.logPend := rfl
@[simp] theorem State.markStale_logTimes (a b : Nat) : (s.markStale a b).logTimes = s.logTimes := rfl
@[simp] theorem State.markStale_rakeAt (a b : Nat) : (s.markStale a b).rakeAt = s.rakeAt := rfl
@[simp] theorem State.markStale_rakeDue (a b : Nat) : (s.markStale a b).rakeDue = s.rakeDue := rfl
@[simp] theorem State.markStale_sensors (a b : Nat) : (s.markStale a b).sensors = s.sensors := rfl
@[simp] theorem State.markStale_heat (a b : Nat) : (s.markStale a b).heat = s.heat := rfl
@[simp] theorem State.markStale_keep (a b : Nat) : (s.markStale a b).keep = s.keep := rfl
@[simp] theorem State.markStale_i3c (a b : Nat) : (s.markStale a b).i3c = s.i3c := rfl
@[simp] theorem State.markStale_seqStores (a b : Nat) : (s.markStale a b).seqStores = s.seqStores := rfl
@[simp] theorem State.markStale_repairMark (a b : Nat) : (s.markStale a b).repairMark = s.repairMark := rfl
@[simp] theorem State.markStale_otpJob (a b : Nat) : (s.markStale a b).otpJob = s.otpJob := rfl
@[simp] theorem State.markStale_imgJob (a b : Nat) : (s.markStale a b).imgJob = s.imgJob := rfl
@[simp] theorem State.markStale_attBody (a b : Nat) : (s.markStale a b).attBody = s.attBody := rfl
@[simp] theorem State.markStale_report (a b : Nat) : (s.markStale a b).report = s.report := rfl
@[simp] theorem State.markStale_attZero (a b : Nat) : (s.markStale a b).attZero = s.attZero := rfl
@[simp] theorem State.markStale_jtagReset (a b : Nat) : (s.markStale a b).jtagReset = s.jtagReset := rfl
@[simp] theorem State.markStale_minSvn (a b : Nat) : (s.markStale a b).minSvn = s.minSvn := rfl
@[simp] theorem State.markStale_flagsActive (a b : Nat) : (s.markStale a b).flagsActive = s.flagsActive := rfl
@[simp] theorem State.markStale_svn (a b : Nat) : (s.markStale a b).svn = s.svn := rfl
@[simp] theorem State.markStale_reg (a b : Nat) (q : Reg) (m : Nat) : (s.markStale a b).reg q m = s.reg q m := rfl
@[simp] theorem State.markStale_getF (a b : Nat) (g : Fld) (m : Nat) : (s.markStale a b).getF g m = s.getF g m := rfl
@[simp] theorem State.markStale_onF (a b : Nat) (g : Fld) (m : Nat) : (s.markStale a b).onF g m = s.onF g m := rfl
@[simp] theorem State.markStale_stagedReg (a b : Nat) (q : Reg) (m : Nat) : (s.markStale a b).stagedReg q m = s.stagedReg q m := rfl
@[simp] theorem State.markStale_cell (a b : Nat) (m : Nat) : (s.markStale a b).cell m = s.cell m := rfl
@[simp] theorem State.markStale_chan (a b : Nat) (m : Nat) : (s.markStale a b).chan m = s.chan m := rfl
@[simp] theorem State.markStale_port (a b : Nat) (m : Nat) : (s.markStale a b).port m = s.port m := rfl
@[simp] theorem State.markStale_link (a b : Nat) (m : Nat) : (s.markStale a b).link m = s.link m := rfl
@[simp] theorem State.markStale_prog (a b : Nat) (m : Nat) : (s.markStale a b).prog m = s.prog m := rfl
@[simp] theorem State.markStale_sheaf (a b : Nat) (m : Nat) : (s.markStale a b).sheaf m = s.sheaf m := rfl
@[simp] theorem State.markStale_stream (a b : Nat) (m : Nat) : (s.markStale a b).stream m = s.stream m := rfl

/-! ### What an update sets -/

@[simp] theorem State.begin_out : s.begin.out = [] := rfl
@[simp] theorem State.send_out (o : Output) : (s.send o).out = s.out ++ [o] := rfl
@[simp] theorem State.at_now_eq (n : Nat) : (s.at_ n).now = max s.now n := rfl
@[simp] theorem State.nextFree_fresh : s.nextFree.fresh = s.fresh + 1 := rfl

end Sys2Proof.Machine
end

