-- ==== Sys2Proof/Laws/Tables.lean ====
section
/-! SUPPORT. What the operations over sparse tables and byte memories do: a read after a write, and that every write
keeps the canonical form. -/

namespace Sys2Proof.Machine

set_option Elab.async false

variable {α : Type}

/-! ## Reading after writing -/

@[simp] theorem tget_nil (d : α) (i : Nat) : tget d [] i = d := rfl

theorem tget_cons (d v : α) (k i : Nat) (t : Tbl α) : tget d ((k, v) :: t) i = if k = i then v else tget d t i := rfl

theorem tget_tput [DecidableEq α] (d v : α) (t : Tbl α) (i j : Nat) :
    tget d (tput d t i v) j = if i = j then v else tget d t j := by
  induction t with
  | nil =>
    by_cases hv : v = d
    · subst hv; simp [tput]
    · simp [tput, hv, tget_cons]
  | cons e r ih =>
    obtain ⟨k, w⟩ := e
    simp only [tput]
    split
    · next hv =>
      subst hv
      split
      · next h => subst h; rw [ih, tget_cons]; split <;> rfl
      · next h =>
        rw [tget_cons, ih, tget_cons]
        split
        · next h2 => subst h2; simp [h]
        · rfl
    · split
      · rw [tget_cons]
      · split
        · next h => subst h; rw [tget_cons, tget_cons]; split <;> rfl
        · next h =>
          rw [tget_cons, ih, tget_cons]
          split
          · next h2 => subst h2; simp [h]
          · rfl

/-- A key reads as what was put there, whatever the table's form and whatever default the reader takes for others. -/
@[simp] theorem tget_tput_same [DecidableEq α] (d v : α) (t : Tbl α) (i : Nat) : tget d (tput d t i v) i = v := by
  simp [tget_tput]

/-- Any other key reads as before. -/
theorem tget_tput_ne [DecidableEq α] (d d' v : α) (t : Tbl α) {i j : Nat} (h : i ≠ j) :
    tget d' (tput d t i v) j = tget d' t j := by
  induction t with
  | nil =>
    by_cases hv : v = d
    · simp [tput, hv]
    · simp [tput, hv, tget_cons, h]
  | cons e r ih =>
    obtain ⟨k, w⟩ := e
    simp only [tput]
    split
    · split
      · next h2 => subst h2; rw [ih, tget_cons, if_neg h]
      · rw [tget_cons, ih, tget_cons]
    · split
      · rw [tget_cons, if_neg h]
      · split
        · next h2 => subst h2; rw [tget_cons, tget_cons, if_neg h, if_neg h]
        · rw [tget_cons, ih, tget_cons]

theorem mget_mput (m : Memory) (a b : Nat) (x : Byte) : mget (mput m a x) b = if a = b then x else mget m b :=
  tget_tput emptyByte x m a b

/-- A write of bytes changes no byte outside them. -/
theorem mget_mwrite_outside (bs : List Byte) (m : Memory) (a b : Nat) (h : b < a ∨ a + bs.length ≤ b) :
    mget (mwrite m a bs) b = mget m b := by
  induction bs generalizing m a with
  | nil => rfl
  | cons x r ih =>
    simp only [List.length_cons] at h
    rw [mwrite, ih _ _ (by omega), mget_mput, if_neg (by omega)]

/-- A written byte reads as it was written. -/
theorem mget_mwrite_inside (bs : List Byte) (m : Memory) (a k : Nat) (h : k < bs.length) :
    mget (mwrite m a bs) (a + k) = bs[k] := by
  induction bs generalizing m a k with
  | nil => simp at h
  | cons x r ih =>
    cases k with
    | zero => rw [mwrite, mget_mwrite_outside _ _ _ _ (by omega), mget_mput]; simp
    | succ k =>
      simp only [List.length_cons] at h
      have := ih (mput m a x) (a + 1) k (by omega)
      rw [mwrite, show a + (k + 1) = a + 1 + k by omega, this]; simp

/-! ## The canonical form -/

theorem keysAbove_mono {m n : Nat} (h : m ≤ n) : ∀ {t : Tbl α}, keysAbove n t = true → keysAbove m t = true
  | [], _ => rfl
  | (k, _) :: r, ht => by
    simp only [keysAbove, Bool.and_eq_true, decide_eq_true_eq] at ht ⊢
    exact ⟨by omega, ht.2⟩

theorem keysRise_of_above {n : Nat} : ∀ {t : Tbl α}, keysAbove n t = true → keysRise t = true
  | [], _ => rfl
  | (_, _) :: _, ht => by
    simp only [keysAbove, Bool.and_eq_true] at ht
    exact ht.2

/-- Putting the default at a key below every listed key changes nothing. -/
theorem tput_default_of_above [DecidableEq α] (d : α) (i : Nat) :
    ∀ (t : Tbl α) {m : Nat}, i ≤ m → keysAbove m t = true → tput d t i d = t
  | [], _, _, _ => by simp [tput]
  | (k, w) :: r, m, hm, ht => by
    simp only [keysAbove, Bool.and_eq_true, decide_eq_true_eq] at ht
    simp only [tput, if_true, if_neg (by omega : ¬ i = k)]
    rw [tput_default_of_above d i r (m := k) (by omega) ht.2]

theorem keysAbove_tput [DecidableEq α] (d v : α) {n i : Nat} (hi : n < i) :
    ∀ (t : Tbl α), keysAbove n t = true → keysAbove n (tput d t i v) = true
  | [], _ => by simp only [tput]; split <;> simp [keysAbove, hi]
  | (k, w) :: r, ht => by
    simp only [keysAbove, Bool.and_eq_true, decide_eq_true_eq] at ht
    simp only [tput]
    split
    · next hv =>
      subst hv
      split
      · exact keysAbove_tput v v hi r (keysAbove_mono (by omega) ht.2)
      · simp only [keysAbove, Bool.and_eq_true, decide_eq_true_eq]
        refine ⟨ht.1, ?_⟩
        by_cases hk : k < i
        · exact keysAbove_tput v v hk r ht.2
        · rw [tput_default_of_above v i r (m := k) (by omega) ht.2]; exact ht.2
    · split
      · next h => simp [keysAbove, hi, h, ht.2]
      · split
        · next h => subst h; simp [keysAbove, ht.1, ht.2]
        · simp only [keysAbove, Bool.and_eq_true, decide_eq_true_eq]
          exact ⟨ht.1, keysAbove_tput d v (by omega) r ht.2⟩

theorem keysRise_tput [DecidableEq α] (d v : α) (i : Nat) :
    ∀ (t : Tbl α), keysRise t = true → keysRise (tput d t i v) = true
  | [], _ => by simp only [tput]; split <;> simp [keysRise, keysAbove]
  | (k, w) :: r, h => by
    simp only [keysRise] at h
    simp only [tput]
    split
    · next hv =>
      subst hv
      split
      · next hk => subst hk; rw [tput_default_of_above v i r (Nat.le_refl _) h]; exact keysRise_of_above h
      · simp only [keysRise]
        by_cases hlt : k < i
        · exact keysAbove_tput v v hlt r h
        · rw [tput_default_of_above v i r (m := k) (by omega) h]; exact h
    · split
      · next hk => simp [keysRise, keysAbove, hk, h]
      · split
        · next hk => subst hk; simpa [keysRise] using h
        · simp only [keysRise]; exact keysAbove_tput d v (by omega) r h

/-- No listed value is the default. -/
def valuesListed [DecidableEq α] (d : α) (t : Tbl α) : Bool := t.all (fun e => decide (e.2 ≠ d))

theorem valuesListed_tput [DecidableEq α] (d v : α) (i : Nat) :
    ∀ (t : Tbl α), valuesListed d t = true → valuesListed d (tput d t i v) = true
  | [], _ => by simp only [tput]; split <;> simp [valuesListed, *]
  | (k, w) :: r, h => by
    simp only [valuesListed, List.all_cons, Bool.and_eq_true] at h
    have ih := valuesListed_tput d v i r (by simpa [valuesListed] using h.2)
    simp only [tput]
    split
    · split
      · exact ih
      · simp only [valuesListed, List.all_cons, Bool.and_eq_true]; exact ⟨h.1, by simpa [valuesListed] using ih⟩
    · next hv =>
      split
      · simp only [valuesListed, List.all_cons, Bool.and_eq_true]; exact ⟨by simpa using hv, h⟩
      · split
        · simp only [valuesListed, List.all_cons, Bool.and_eq_true]; exact ⟨by simpa using hv, h.2⟩
        · simp only [valuesListed, List.all_cons, Bool.and_eq_true]; exact ⟨h.1, by simpa [valuesListed] using ih⟩

/-- A put keeps the canonical form. -/
theorem tblWf_tput [DecidableEq α] (d v : α) (t : Tbl α) (i : Nat) (h : tblWf d t = true) : tblWf d (tput d t i v) = true := by
  simp only [tblWf, Bool.and_eq_true] at h ⊢
  exact ⟨keysRise_tput d v i t h.1, valuesListed_tput d v i t h.2⟩

theorem keysAbove_filter (p : Nat × α → Bool) {n : Nat} :
    ∀ (t : Tbl α), keysAbove n t = true → keysAbove n (t.filter p) = true
  | [], _ => rfl
  | (k, w) :: r, h => by
    simp only [keysAbove, Bool.and_eq_true, decide_eq_true_eq] at h
    rw [List.filter_cons]
    split
    · simp only [keysAbove, Bool.and_eq_true, decide_eq_true_eq]; exact ⟨h.1, keysAbove_filter p r h.2⟩
    · exact keysAbove_filter p r (keysAbove_mono (by omega) h.2)

theorem keysRise_filter (p : Nat × α → Bool) : ∀ (t : Tbl α), keysRise t = true → keysRise (t.filter p) = true
  | [], _ => rfl
  | (k, w) :: r, h => by
    rw [List.filter_cons]
    split
    · exact keysAbove_filter p r h
    · exact keysRise_of_above (keysAbove_filter p r h)

/-- Leaving entries out keeps the canonical form. -/
theorem tblWf_filter [DecidableEq α] (d : α) (p : Nat × α → Bool) (t : Tbl α) (h : tblWf d t = true) :
    tblWf d (t.filter p) = true := by
  simp only [tblWf, Bool.and_eq_true] at h ⊢
  refine ⟨keysRise_filter p t h.1, ?_⟩
  rw [List.all_eq_true] at h ⊢
  exact fun e he => h.2 e (List.mem_of_mem_filter he)

/-- An empty memory is in its canonical form. -/
@[simp] theorem Memory.wf_nil : Memory.wf [] = true := by decide

theorem Memory.wf_mput {m : Memory} (a : Nat) (b : Byte) (h : Memory.wf m = true) : Memory.wf (mput m a b) = true :=
  tblWf_tput emptyByte b m a h

theorem Memory.wf_mwrite (bs : List Byte) : ∀ {m : Memory} (a : Nat), Memory.wf m = true → Memory.wf (mwrite m a bs) = true := by
  induction bs with
  | nil => exact fun _ h => h
  | cons x r ih => exact fun a h => ih (a + 1) (Memory.wf_mput a x h)

theorem Memory.wf_ferase {m : Memory} (a n : Nat) (h : Memory.wf m = true) : Memory.wf (ferase m a n) = true :=
  tblWf_filter emptyByte _ m h

/-- Every key of a table lies below a bound. -/
def keysBelow (n : Nat) (t : Tbl α) : Prop := ∀ e ∈ t, e.1 < n

theorem keysAbove_append {n b : Nat} : ∀ {t u : Tbl α}, keysAbove n t = true → keysBelow b t → n < b → keysAbove (b - 1) u = true →
    keysAbove n (t ++ u) = true
  | [], u, _, _, hb, hu => keysAbove_mono (by omega) hu
  | (k, w) :: r, u, ht, hl, hb, hu => by
    simp only [keysAbove, Bool.and_eq_true, decide_eq_true_eq, List.cons_append] at ht ⊢
    exact ⟨ht.1, keysAbove_append ht.2 (fun e he => hl e (List.mem_cons_of_mem _ he)) (hl (k, w) (List.mem_cons_self ..)) hu⟩

theorem keysRise_append {b : Nat} {t u : Tbl α} (ht : keysRise t = true) (hl : keysBelow b t)
    (hu : keysRise u = true) (hub : ∀ e ∈ u, b ≤ e.1) : keysRise (t ++ u) = true := by
  cases t with
  | nil => exact hu
  | cons e r =>
    obtain ⟨k, w⟩ := e
    simp only [keysRise, List.cons_append] at ht ⊢
    have hk : k < b := hl (k, w) (List.mem_cons_self ..)
    refine keysAbove_append ht (fun e he => hl e (List.mem_cons_of_mem _ he)) hk ?_
    cases u with
    | nil => rfl
    | cons f r' =>
      obtain ⟨k', w'⟩ := f
      have := hub (k', w') (List.mem_cons_self ..)
      simp only [keysAbove, Bool.and_eq_true, decide_eq_true_eq]
      exact ⟨by omega, hu⟩

theorem listed_keys (bs : List Byte) : ∀ (a : Nat), ∀ e ∈ listed a bs, a ≤ e.1 ∧ e.1 < a + bs.length := by
  induction bs with
  | nil => intro a e he; simp [listed] at he
  | cons x r ih =>
    intro a e he
    simp only [listed, List.mem_append] at he
    rcases he with he | he
    · split at he
      · simp at he
      · simp only [List.mem_singleton] at he; subst he; simp
    · have := ih (a + 1) e he; simp only [List.length_cons]; omega

theorem listed_above (bs : List Byte) : ∀ (a n : Nat), n < a → keysAbove n (listed a bs) = true := by
  induction bs with
  | nil => intro a n _; rfl
  | cons x r ih =>
    intro a n h
    simp only [listed]
    split
    · exact ih (a + 1) n (by omega)
    · simp only [List.cons_append, List.nil_append, keysAbove, Bool.and_eq_true, decide_eq_true_eq]
      exact ⟨h, ih (a + 1) a (by omega)⟩

theorem listed_rise (bs : List Byte) (a : Nat) : keysRise (listed a bs) = true := by
  cases bs with
  | nil => rfl
  | cons x r =>
    simp only [listed]
    split
    · exact keysRise_of_above (listed_above r (a + 1) a (by omega))
    · exact listed_above r (a + 1) a (by omega)

theorem listed_listed (bs : List Byte) : ∀ (a : Nat), ∀ e ∈ listed a bs, e.2 ≠ emptyByte := by
  induction bs with
  | nil => intro a e he; simp [listed] at he
  | cons x r ih =>
    intro a e he
    simp only [listed, List.mem_append] at he
    rcases he with he | he
    · split at he
      · simp at he
      · simp only [List.mem_singleton] at he; subst he; assumption
    · exact ih (a + 1) e he

/-- Writing a block keeps the canonical form. -/
theorem Memory.wf_mblock {m : Memory} (a : Nat) (bs : List Byte) (h : Memory.wf m = true) : Memory.wf (mblock m a bs) = true := by
  simp only [Memory.wf, tblWf, Bool.and_eq_true, List.all_eq_true, decide_eq_true_eq] at h ⊢
  refine ⟨?_, ?_⟩
  · have h1 := keysRise_filter (fun e => decide (e.1 < a)) m h.1
    have h3 := keysRise_filter (fun e => decide (a + bs.length ≤ e.1)) m h.1
    have h12 : keysRise (m.filter (fun e => decide (e.1 < a)) ++ listed a bs) = true :=
      keysRise_append (b := a) h1 (fun e he => by simpa using (List.mem_filter.mp he).2) (listed_rise bs a)
        (fun e he => (listed_keys bs a e he).1)
    refine keysRise_append (b := a + bs.length) h12 (fun e he => ?_) h3 (fun e he => by simpa using (List.mem_filter.mp he).2)
    rcases List.mem_append.mp he with he | he
    · have : e.1 < a := by simpa using (List.mem_filter.mp he).2
      omega
    · exact (listed_keys bs a e he).2
  · intro e he
    rcases List.mem_append.mp he with he | he
    · rcases List.mem_append.mp he with he | he
      · exact h.2 e (List.mem_of_mem_filter he)
      · exact listed_listed bs a e he
    · exact h.2 e (List.mem_of_mem_filter he)

/-! ## Reading after a block -/

theorem tget_append_left (d : α) (i : Nat) : ∀ (t u : Tbl α), (∀ e ∈ t, e.1 ≠ i) → tget d (t ++ u) i = tget d u i
  | [], _, _ => rfl
  | (k, w) :: r, u, h => by
    rw [List.cons_append, tget_cons, if_neg (h (k, w) (List.mem_cons_self ..))]
    exact tget_append_left d i r u (fun e he => h e (List.mem_cons_of_mem _ he))

theorem tget_of_no_key (d : α) (i : Nat) (t : Tbl α) (h : ∀ e ∈ t, e.1 ≠ i) : tget d t i = d := by
  have := tget_append_left d i t [] h
  simpa using this

theorem tget_append_right (d : α) (i : Nat) : ∀ (t u : Tbl α), (∀ e ∈ u, e.1 ≠ i) → tget d (t ++ u) i = tget d t i
  | [], u, h => tget_of_no_key d i u h
  | (k, w) :: r, u, h => by
    rw [List.cons_append, tget_cons, tget_cons, tget_append_right d i r u h]

theorem tget_filter_key (d : α) (p : Nat → Bool) (i : Nat) (hp : p i = true) :
    ∀ (t : Tbl α), tget d (t.filter (fun e => p e.1)) i = tget d t i
  | [] => rfl
  | (k, w) :: r => by
    rw [List.filter_cons, tget_cons]
    split
    · rw [tget_cons, tget_filter_key d p i hp r]
    · next h =>
      rw [tget_filter_key d p i hp r, if_neg]
      intro hk
      subst hk
      simp [hp] at h

theorem tget_listed (bs : List Byte) : ∀ (a k : Nat) (h : k < bs.length), tget emptyByte (listed a bs) (a + k) = bs[k] := by
  induction bs with
  | nil => intro a k h; simp at h
  | cons x r ih =>
    intro a k h
    simp only [listed]
    cases k with
    | zero =>
      split
      · next hx =>
        rw [List.nil_append, tget_of_no_key]
        · simp [hx]
        · intro e he
          have := (listed_keys r (a + 1) e he).1
          omega
      · simp [tget_cons]
    | succ k =>
      have hk := ih (a + 1) k (by simpa using h)
      rw [show a + 1 + k = a + (k + 1) by omega] at hk
      rw [tget_append_left]
      · rw [hk]; simp
      · intro e he
        split at he
        · simp at he
        · simp only [List.mem_singleton] at he; subst he; simp

/-- A block write changes no byte outside it. -/
theorem mget_mblock_outside (m : Memory) (a b : Nat) (bs : List Byte) (h : b < a ∨ a + bs.length ≤ b) :
    mget (mblock m a bs) b = mget m b := by
  simp only [mget, mblock]
  rcases h with h | h
  · rw [tget_append_right, tget_append_right]
    · exact tget_filter_key emptyByte (fun k => decide (k < a)) b (by simpa using h) m
    · intro e he; have := (listed_keys bs a e he).1; omega
    · intro e he
      have : a + bs.length ≤ e.1 := by simpa using (List.mem_filter.mp he).2
      omega
  · rw [tget_append_left]
    · exact tget_filter_key emptyByte (fun k => decide (a + bs.length ≤ k)) b (by simpa using h) m
    · intro e he
      rcases List.mem_append.mp he with he | he
      · have : e.1 < a := by simpa using (List.mem_filter.mp he).2
        omega
      · have := (listed_keys bs a e he).2; omega

/-- A byte written by a block reads as it was written. -/
theorem mget_mblock_inside (m : Memory) (a k : Nat) (bs : List Byte) (h : k < bs.length) :
    mget (mblock m a bs) (a + k) = bs[k] := by
  simp only [mget, mblock]
  rw [tget_append_right, tget_append_left]
  · exact tget_listed bs a k h
  · intro e he
    have : e.1 < a := by simpa using (List.mem_filter.mp he).2
    omega
  · intro e he
    have : a + bs.length ≤ e.1 := by simpa using (List.mem_filter.mp he).2
    omega

theorem Memory.wf_fwrite {m : Memory} (a : Nat) (bs : List Byte) (h : Memory.wf m = true) : Memory.wf (fwrite m a bs) = true :=
  Memory.wf_mblock a _ h

/-- A byte string that has been written reads back. -/
theorem mread_mblock (m : Memory) (a : Nat) (bs : List Byte) : mread (mblock m a bs) a bs.length = bs := by
  apply List.ext_getElem
  · simp [mread]
  · intro i _ h2
    simp only [mread, List.getElem_map, List.getElem_range]
    exact mget_mblock_inside m a i bs h2

theorem mread_mwrite (m : Memory) (a : Nat) (bs : List Byte) : mread (mwrite m a bs) a bs.length = bs := by
  apply List.ext_getElem
  · simp [mread]
  · intro i _ h2
    simp only [mread, List.getElem_map, List.getElem_range]
    exact mget_mwrite_inside bs m a i h2

/-- A read outside a written byte string gives what it gave before. -/
theorem mread_mblock_outside (m : Memory) (a b n : Nat) (bs : List Byte) (h : b + n ≤ a ∨ a + bs.length ≤ b) :
    mread (mblock m a bs) b n = mread m b n := by
  simp only [mread]
  apply List.map_congr_left
  intro i hi
  have := List.mem_range.1 hi
  exact mget_mblock_outside m a (b + i) bs (by omega)

end Sys2Proof.Machine
end

