-- ==== Sys2Proof/Laws/Registers.lean ====
section
/-! SUPPORT. Register words, fields and counters: what a read gives after a write (Ops.lean). A field's condition
lo + width ≤ 64 and the inequality of two register keys are closed numeric facts for every field of the part. -/

namespace Sys2Proof.Machine

set_option Elab.async false

/-! ## Words -/

@[simp] theorem reg_setReg_same (s : State) (r : Reg) (i : Nat) (w : Word) : (s.setReg r i w).reg r i = w := by
  simp [State.reg, State.setReg]

theorem reg_setReg_ne (s : State) (r q : Reg) (i j : Nat) (w : Word) (h : regKey r i ≠ regKey q j) :
    (s.setReg r i w).reg q j = s.reg q j := by
  simp only [State.reg, State.setReg]
  exact tget_tput_ne _ _ _ _ h

@[simp] theorem stagedReg_setStaged_same (s : State) (r : Reg) (i : Nat) (w : Word) :
    (s.setStaged r i w).stagedReg r i = w := by
  simp [State.stagedReg, State.setStaged]

theorem stagedReg_setStaged_ne (s : State) (r q : Reg) (i j : Nat) (w : Word) (h : regKey r i ≠ regKey q j) :
    (s.setStaged r i w).stagedReg q j = s.stagedReg q j := by
  simp only [State.stagedReg, State.setStaged]
  exact tget_tput_ne _ _ _ _ h

/-! ## Bit fields of a word -/

theorem fieldGet_fieldPut (w : Word) (lo n v : Nat) (h : lo + n ≤ 64) : fieldGet (fieldPut w lo n v) lo n = v % 2 ^ n := by
  unfold fieldGet fieldPut maskW
  rw [← BitVec.toNat_ofNat]
  congr 1
  apply BitVec.eq_of_getLsbD_eq
  intro i hi
  rw [BitVec.getLsbD_extractLsb']
  simp only [hi, decide_true, Bool.true_and, BitVec.getLsbD_or, BitVec.getLsbD_and, BitVec.getLsbD_not,
    BitVec.getLsbD_shiftLeft, BitVec.getLsbD_setWidth, BitVec.getLsbD_allOnes]
  have h1 : lo + i < 64 := by omega
  have h2 : lo + i - lo = i := by omega
  have h3 : i < 64 := by omega
  simp [h1, h2, h3, hi]

/-- Another field of the word keeps its value. -/
theorem fieldGet_fieldPut_apart (w : Word) (lo n v a k : Nat) (h : a + k ≤ lo ∨ lo + n ≤ a) :
    fieldGet (fieldPut w lo n v) a k = fieldGet w a k := by
  unfold fieldGet fieldPut maskW
  congr 1
  apply BitVec.eq_of_getLsbD_eq
  intro i hi
  rw [BitVec.getLsbD_extractLsb', BitVec.getLsbD_extractLsb']
  simp only [hi, decide_true, Bool.true_and, BitVec.getLsbD_or, BitVec.getLsbD_and, BitVec.getLsbD_not,
    BitVec.getLsbD_shiftLeft, BitVec.getLsbD_setWidth, BitVec.getLsbD_allOnes]
  by_cases h64 : a + i < 64
  · rcases h with h | h
    · have : a + i < lo := by omega
      simp [h64, this]
    · have h1 : ¬ a + i < lo := by omega
      have h2 : ¬ a + i - lo < n := by omega
      have h3 : (BitVec.ofNat n v).getLsbD (a + i - lo) = false := BitVec.getLsbD_of_ge _ _ (by omega)
      simp [h64, h1, h2, h3]
  · have := BitVec.getLsbD_of_ge w (a + i) (by omega)
    simp [h64, this]

/-! ## Fields of the part -/

theorem getF_putF_same (s : State) (f : Fld) (i v : Nat) (h : f.lo + f.width ≤ 64) :
    (s.putF f i v).getF f i = v % 2 ^ f.width := by
  simp [State.getF, State.putF, fieldGet_fieldPut _ _ _ _ h]

/-- Writing a field leaves every other register word as it was. -/
theorem reg_putF_ne (s : State) (f : Fld) (r : Reg) (i j v : Nat) (h : regKey f.reg i ≠ regKey r j) :
    (s.putF f i v).reg r j = s.reg r j := reg_setReg_ne s _ _ _ _ _ h

theorem getF_putF_ne (s : State) (f g : Fld) (i j v : Nat) (h : regKey f.reg i ≠ regKey g.reg j) :
    (s.putF f i v).getF g j = s.getF g j := by
  simp only [State.getF]
  rw [reg_putF_ne s f g.reg i j v h]

/-- Writing a field leaves the register's other fields as they were. -/
theorem getF_putF_apart (s : State) (f g : Fld) (i v : Nat) (hr : f.reg = g.reg) (h : g.lo + g.width ≤ f.lo ∨ f.lo + f.width ≤ g.lo) :
    (s.putF f i v).getF g i = s.getF g i := by
  simp only [State.getF, State.putF, hr, reg_setReg_same]
  exact fieldGet_fieldPut_apart _ _ _ _ _ _ h

/-! ## Registers by offset

The conditions of these are closed facts about two named fields, so `decide` proves them. -/

theorem regKey_ne_of_off (r q : Reg) (i j : Nat) (h : r.off / 8 ≠ q.off / 8) : regKey r i ≠ regKey q j := by
  simp only [regKey]; omega

theorem regKey_ne_of_inst (r : Reg) (i j : Nat) (h : i ≠ j) (hi : i < 65536) (hj : j < 65536) : regKey r i ≠ regKey r j := by
  simp only [regKey]; omega

/-- A field of another register, whichever copy. -/
theorem getF_putF_off (s : State) (f g : Fld) (i j v : Nat) (h : f.reg.off / 8 ≠ g.reg.off / 8) :
    (s.putF f i v).getF g j = s.getF g j := getF_putF_ne s f g i j v (regKey_ne_of_off _ _ i j h)

theorem reg_putF_off (s : State) (f : Fld) (r : Reg) (i j v : Nat) (h : f.reg.off / 8 ≠ r.off / 8) :
    (s.putF f i v).reg r j = s.reg r j := reg_putF_ne s f r i j v (regKey_ne_of_off _ _ i j h)

/-- The same field of another copy. -/
theorem getF_putF_inst (s : State) (f : Fld) (i j v : Nat) (h : i ≠ j) (hi : i < 65536) (hj : j < 65536) :
    (s.putF f i v).getF f j = s.getF f j := getF_putF_ne s f f i j v (regKey_ne_of_inst _ i j h hi hj)

/-! ## Records of units -/

@[simp] theorem cell_setCell_same (s : State) (c : Nat) (x : Cell) : (s.setCell c x).cell c = x := by simp [State.cell, State.setCell]
theorem cell_setCell_ne (s : State) {c k : Nat} (x : Cell) (h : c ≠ k) : (s.setCell c x).cell k = s.cell k :=
  tget_tput_ne _ _ _ _ h
@[simp] theorem chan_setChan_same (s : State) (c : Nat) (x : Chan) : (s.setChan c x).chan c = x := by simp [State.chan, State.setChan]
theorem chan_setChan_ne (s : State) {c k : Nat} (x : Chan) (h : c ≠ k) : (s.setChan c x).chan k = s.chan k :=
  tget_tput_ne _ _ _ _ h
@[simp] theorem port_setPort_same (s : State) (p : Nat) (x : Port) : (s.setPort p x).port p = x := by simp [State.port, State.setPort]
theorem port_setPort_ne (s : State) {p k : Nat} (x : Port) (h : p ≠ k) : (s.setPort p x).port k = s.port k :=
  tget_tput_ne _ _ _ _ h
@[simp] theorem link_setLink_same (s : State) (l : Nat) (x : Link) : (s.setLink l x).link l = x := by simp [State.link, State.setLink]
theorem link_setLink_ne (s : State) {l k : Nat} (x : Link) (h : l ≠ k) : (s.setLink l x).link k = s.link k :=
  tget_tput_ne _ _ _ _ h
@[simp] theorem prog_setProg_same (s : State) (j : Nat) (x : Program) : (s.setProg j x).prog j = x := by simp [State.prog, State.setProg]
theorem prog_setProg_ne (s : State) {j k : Nat} (x : Program) (h : j ≠ k) : (s.setProg j x).prog k = s.prog k :=
  tget_tput_ne _ _ _ _ h
@[simp] theorem sheaf_setSheaf_same (s : State) (i : Nat) (x : SheafSt) : (s.setSheaf i x).sheaf i = x := by
  simp [State.sheaf, State.setSheaf]
theorem sheaf_setSheaf_ne (s : State) {i k : Nat} (x : SheafSt) (h : i ≠ k) : (s.setSheaf i x).sheaf k = s.sheaf k :=
  tget_tput_ne _ _ _ _ h
@[simp] theorem stream_setStream_same (s : State) (i : Nat) (x : Stream) : (s.setStream i x).stream i = x := by
  simp [State.stream, State.setStream]
theorem stream_setStream_ne (s : State) {i k : Nat} (x : Stream) (h : i ≠ k) : (s.setStream i x).stream k = s.stream k :=
  tget_tput_ne _ _ _ _ h

/-! ## Counters -/

/-- A counter saturates at its largest value. -/
theorem getF_bump (s : State) (f : Fld) (i n : Nat) (h : f.lo + f.width ≤ 64) :
    (s.bump f i n).getF f i = min (s.getF f i + n) (2 ^ f.width - 1) := by
  rw [State.bump, getF_putF_same s f i _ h]
  apply Nat.mod_eq_of_lt
  have := Nat.two_pow_pos f.width
  omega

end Sys2Proof.Machine
end

