-- ==== Sys2Proof/Laws/Frames.lean ====
section
/-! SUPPORT. How a command's wrapper and the updates of registers meet the words of Safety.lean. -/

namespace Sys2Proof.Machine

set_option Elab.async false

/-- A command that always runs answers the next state that its operation gives, with the queue as it was. -/
theorem run_eq (f : State → State) (s : State) : run f s = .next { f s.begin with pending := s.pending } := rfl

theorem runIf_true (f : State → State) (s : State) : runIf true f s = run f s := rfl
theorem runIf_false (f : State → State) (s : State) : runIf false f s = .refused .illFormed := rfl

theorem runIf_next {ok : Bool} {f : State → State} {s t : State} (h : runIf ok f s = .next t) :
    ok = true ∧ t = { f s.begin with pending := s.pending } := by
  cases ok with
  | false => simp [runIf] at h
  | true => simp only [runIf, run, if_true, Host.Outcome.next.injEq] at h; exact ⟨rfl, h.symm⟩

/-- A command that runs completes with what holds of its operation's state. -/
theorem completes_of_run {c : Instr} {s : State} {P : State → Prop} {f : State → State} (h : exec c s = run f s)
    (hp : P { f s.begin with pending := s.pending }) : completes c s P := ⟨_, h, hp⟩

theorem idles_of_run {c : Instr} {s : State} {f : State → State} (h : exec c s = run f s) (hf : f s.begin = s.begin) :
    idles c s := by
  rw [idles, h, run_eq, hf]; rfl

@[simp] theorem sameRegs_refl (ks : List Nat) (s : State) : sameRegs ks s s := fun _ _ _ => rfl

theorem sameRegs_of_regs {ks : List Nat} {s t u : State} (h : sameRegs ks s t) (hu : u.regs = t.regs) : sameRegs ks s u :=
  fun d k hk => by rw [hu]; exact h d k hk

theorem sameRegs_setReg {ks : List Nat} {s t : State} (r : Reg) (i : Nat) (w : Word) (h : sameRegs ks s t) (hk : regKey r i ∈ ks) :
    sameRegs ks s (t.setReg r i w) := by
  intro d k hn
  have : regKey r i ≠ k := fun e => hn (e ▸ hk)
  rw [State.setReg, tget_tput_ne _ _ _ _ this]
  exact h d k hn

theorem sameRegs_putF {ks : List Nat} {s t : State} (f : Fld) (i v : Nat) (h : sameRegs ks s t) (hk : regKey f.reg i ∈ ks) :
    sameRegs ks s (t.putF f i v) := sameRegs_setReg f.reg i _ h hk

theorem sameRegs_bump {ks : List Nat} {s t : State} (f : Fld) (i n : Nat) (h : sameRegs ks s t) (hk : regKey f.reg i ∈ ks) :
    sameRegs ks s (t.bump f i n) := sameRegs_putF f i _ h hk

end Sys2Proof.Machine
end

