-- ==== Sys2Proof/Laws/Exec.lean ====
section
/-! SUPPORT. The shape of every meaning: a change of the state, carried out exactly where the command is well formed. -/

namespace Sys2Proof.Machine

set_option Elab.async false

/-- Every command carries out one change of the state where it is well formed, and is refused otherwise. -/
theorem exec_shape : ∀ c : Instr, ∃ f : State → State, ∀ s : State, exec c s = runIf c.wellFormed f s
  | .loadProgram q e => ⟨(fun s => if s.takesLoad q.toNat then (let s := s.take q.toNat; opLoad e (s.cmdId q.toNat e) s) else s), fun _ => rfl⟩
  | .unloadProgram q e => ⟨(onTake q e (opUnload e)), fun _ => rfl⟩
  | .openStream q e => ⟨(onTake q e (opOpen e)), fun _ => rfl⟩
  | .feedTokens q e => ⟨(onTake q e (opFeed e)), fun _ => rfl⟩
  | .setStreamParameters q e => ⟨(onTake q e (opSet e)), fun _ => rfl⟩
  | .closeStream q e => ⟨(onTake q e (opClose e)), fun _ => rfl⟩
  | .invalidOpcode q e => ⟨(onTake q e (fun c s => s.waitDone c e 1)), fun _ => rfl⟩
  | .submissionTailDoorbell page q value => ⟨(fun s => if s.doorbellsOpen then opSqDoorbell page q value s else s), fun _ => rfl⟩
  | .completionHeadDoorbell page q value => ⟨(fun s => if s.doorbellsOpen then opCqDoorbell page q value s else s), fun _ => rfl⟩
  | .eventQueueHeadDoorbell value => ⟨(fun s => if s.doorbellsOpen then opEvqDoorbell value s else s), fun _ => rfl⟩
  | .queuePairEnable page q value => ⟨(fun s => if s.queueBlockOpen page q.toNat then opQcfg q.toNat value s else s), fun _ => rfl⟩
  | .queueOwnerWrite by_ value => ⟨(fun s => if s.writes by_ R.hstQown.off then opQown (s.sel by_ F.hstQsel_queue) value s else s), fun _ => rfl⟩
  | .eventQueueEnable value => ⟨(fun s => if s.writes .host R.hstEvqCfg.off then opEvqCfg value s else s), fun _ => rfl⟩
  | .functionLevelReset fn => ⟨(fun s => if s.start.loading then s else opFlr fn.toNat s), fun _ => rfl⟩
  | .bar4Read offset len found => ⟨(opBar4Read offset.toNat len found), fun _ => rfl⟩
  | .bar4Write offset data found => ⟨(opBar4Write offset.toNat data found), fun _ => rfl⟩
  | .hostMemoryError req cause => ⟨(opHostMemoryError req cause), fun _ => rfl⟩
  | .chuteGo by_ => ⟨(fun s => if s.writes by_ R.chuCtl.off then opChuteGo (s.sel by_ F.chuSel_channel) s else s), fun _ => rfl⟩
  | .chuteAbort by_ => ⟨(fun s => if s.writes by_ R.chuCtl.off then opChuteAbort (s.sel by_ F.chuSel_channel) s else s), fun _ => rfl⟩
  | .chuteDescriptorDone ch => ⟨(opDescriptorDone ch.toNat), fun _ => rfl⟩
  | .chuteErrorClear => ⟨(fun s => if s.writes .host R.chuErr.off then s.putF F.chuErr_valid 0 0 else s), fun _ => rfl⟩
  | .tickEdge now => ⟨(opTickEdge now), fun _ => rfl⟩
  | .stageStart cell now => ⟨(opStageStart cell.toNat now), fun _ => rfl⟩
  | .stageFinish cell now => ⟨(opStageFinish cell.toNat now), fun _ => rfl⟩
  | .runDeadline now => ⟨(opRunDeadline now), fun _ => rfl⟩
  | .lateNotice port part tick => ⟨(fun s => s.onWord port.toNat part.toNat (.late tick) (fun s => if s.isKeeper && decide (tick.toNat = s.getF F.tikCount_count % 2 ^ 32) then s.lateFrom part.toNat else s)), fun _ => rfl⟩
  | .edgeAnnouncement port w => ⟨(fun s => s.onWord port.toNat (edgeSender w (s.getF F.lnkRing_keeper)) (.edge w) (fun s => (s.heedEdge w).settleIfClear)), fun _ => rfl⟩
  | .maintenanceWindow now gov => ⟨(opWindow now gov), fun _ => rfl⟩
  | .stretchLimit now => ⟨(opStretchLimit now), fun _ => rfl⟩
  | .cellSlow cell => ⟨(opCellSlow cell.toNat), fun _ => rfl⟩
  | .commitRequest now => ⟨(fun s => if s.reaches .host R.tikCmt.off then opCommitRequest false now s else s), fun _ => rfl⟩
  | .steadingCommitRequest now => ⟨(fun s => if s.reaches .steading R.tikCmt.off then opCommitRequest true now s else s), fun _ => rfl⟩
  | .commitChecksDone now => ⟨(opChecksDone now), fun _ => rfl⟩
  | .stagedWrite by_ offset size value => ⟨(opStagedWrite by_ offset.toNat size value), fun _ => rfl⟩
  | .stagingRevert => ⟨(fun s => if s.reaches .host R.tikStg.off then opRevert s else s), fun _ => rfl⟩
  | .governorSilent => ⟨opGovernorSilent, fun _ => rfl⟩
  | .limitWordWrite w => ⟨(opLimitWordWrite w), fun _ => rfl⟩
  | .tickMarker port tick delay now => ⟨(opTickMarker port.toNat tick.toNat delay.toNat now), fun _ => rfl⟩
  | .acknowledgement port seq now => ⟨(opAck port.toNat seq now), fun _ => rfl⟩
  | .retryRequest port seq => ⟨(opRetry port.toNat seq), fun _ => rfl⟩
  | .credit port free => ⟨(opCredit port.toNat free.toNat), fun _ => rfl⟩
  | .take port part plane => ⟨(fun s => s.onWord port.toNat part.toNat (.take plane) (fun s => (s.addPart part.toNat plane.toNat).sawTake part.toNat plane.toNat)), fun _ => rfl⟩
  | .release port part word =>
    ⟨(fun s => s.onWord port.toNat part.toNat (.release word.tick) (opRelease part.toNat (word.planes.map BitVec.toNat))), fun _ => rfl⟩
  | .candidate port prio coords settled winner => ⟨(opCandidate port.toNat (prio.toNat, coords.toNat) settled winner), fun _ => rfl⟩
  | .ringCommit port w => ⟨(fun s => s.onWord port.toNat w.part.toNat (.commit w) (opRingCommit w)), fun _ => rfl⟩
  | .ringCommitDeadline => ⟨opRingDeadline, fun _ => rfl⟩
  | .dataEnvelope port e badWords corrected => ⟨(opEnvelope port.toNat e badWords corrected), fun _ => rfl⟩
  | .portDown port => ⟨(fun s => s.portFalls port.toNat), fun _ => rfl⟩
  | .markerLoss settled keeper => ⟨(opMarkerLoss settled keeper.toNat), fun _ => rfl⟩
  | .ringTake plane east west => ⟨(opRingTake plane.toNat east.outcome west.outcome east.ns west.ns), fun _ => rfl⟩
  | .bypassSwitched plane => ⟨(opBypass plane.toNat), fun _ => rfl⟩
  | .linkReset by_ set => ⟨(fun s => if s.writes by_ R.lnkCtl.off then opLinkReset (s.sel by_ F.lnkSel_port) set s else s), fun _ => rfl⟩
  | .suddenLoss ring jobs now => ⟨(opSuddenLoss ring (jobs.jobs.map BitVec.toNat) (jobs.parts.map BitVec.toNat) (jobs.ends.map BitVec.toNat) now), fun _ => rfl⟩
  | .ringBroken ring => ⟨(opRingBroken ring), fun _ => rfl⟩
  | .serLimit port errors => ⟨(opSerLimit port.toNat errors), fun _ => rfl⟩
  | .linkRetrainRequest by_ => ⟨(fun s => if s.writes by_ R.lnkCtl.off then opLinkRetrain (s.sel by_ F.lnkSel_port) s else s), fun _ => rfl⟩
  | .portRetrainDone port out durNs => ⟨(opPortRetrainDone port.toNat out durNs), fun _ => rfl⟩
  | .ringSlowRaise ring lateness => ⟨(opSlowRaise ring lateness), fun _ => rfl⟩
  | .d2dFlit link seq crc parity payload => ⟨(opFlit link.toNat seq crc parity payload), fun _ => rfl⟩
  | .d2dResendLimit link seq consumer => ⟨(opResendLimit link.toNat seq consumer), fun _ => rfl⟩
  | .d2dLaneFailed link lane => ⟨(opLane link.toNat lane), fun _ => rfl⟩
  | .d2dReset by_ set => ⟨(fun s => if s.writes by_ R.d2dCtl.off then opD2dReset (s.sel by_ F.d2dSel_link) set s else s), fun _ => rfl⟩
  | .d2dTest by_ test loop => ⟨(fun s => if s.writes by_ R.d2dCtl.off then opD2dTest (s.sel by_ F.d2dSel_link) test loop s else s), fun _ => rfl⟩
  | .d2dCapabilityWord link near far => ⟨(opCapability link.toNat near far), fun _ => rfl⟩
  | .meshRow consumer row => ⟨(opMeshRow consumer.toNat row.row row.now), fun _ => rfl⟩
  | .producerLost consumer producer => ⟨(opProducerLost consumer.toNat producer.toNat), fun _ => rfl⟩
  | .memoryAccess reader target len write found now => ⟨(opMemoryAccess reader target len write found now), fun _ => by cases target <;> rfl⟩
  | .bankRefresh channel bank busy => ⟨(opBankRefresh channel.toNat bank busy), fun _ => rfl⟩
  | .bucketLeak => ⟨(fun s => allBuckets.foldl State.leak s), fun _ => rfl⟩
  | .housekeepingRound round now => ⟨(opHousekeeping round now), fun _ => rfl⟩
  | .sensorReturn sensor => ⟨(opSensorReturn sensor), fun _ => rfl⟩
  | .scheduledRetrain channel now => ⟨(opScheduledRetrain channel.toNat now), fun _ => rfl⟩
  | .channelRetrainRequest by_ => ⟨(fun s => if s.writes by_ R.vccCtl.off then opChannelRetrain (s.sel by_ F.vccSel_channel) s else s), fun _ => rfl⟩
  | .channelRetrainDone channel deadWires now => ⟨(opRetrainDone channel.toNat deadWires now), fun _ => rfl⟩
  | .channelHoldTimeout channel now => ⟨(opHoldTimeout channel.toNat now), fun _ => rfl⟩
  | .marginRequest by_ mode wire => ⟨(fun s => if s.writes by_ R.vccMargin.off then opMargin (s.sel by_ F.vccSel_channel) mode wire.toNat s else s), fun _ => rfl⟩
  | .wireFailed channel wire => ⟨(opWireFailed channel.toNat wire.toNat), fun _ => rfl⟩
  | .channelReset by_ set => ⟨(fun s => if s.writes by_ R.vccCtl.off then opChannelReset (s.sel by_ F.vccSel_channel) set s else s), fun _ => rfl⟩
  | .loadq channel w data stage => ⟨(fun s => if stage then s.flailCmd channel.toNat 1 w data false else s.portStart channel.toNat 1 w), fun _ => rfl⟩
  | .score channel w found stage => ⟨(fun s =>
    let s := s.findErrs found
    if stage then s.flailCmd channel.toNat 2 w [] false else s.portStart channel.toNat 2 w), fun _ => rfl⟩
  | .topk channel w found => ⟨(fun s => (s.findErrs found).portStart channel.toNat 3 w), fun _ => rfl⟩
  | .requant channel w found => ⟨(fun s => (s.findErrs found).portStart channel.toNat 4 w), fun _ => rfl⟩
  | .scrub channel w found byRake => ⟨(fun s =>
    let s := s.findErrs found
    if byRake then s.flailCmd channel.toNat 5 w [] false else s.portStart channel.toNat 5 w), fun _ => rfl⟩
  | .frag channel w data => ⟨(fun s => s.flailCmd channel.toNat 6 w data false), fun _ => rfl⟩
  | .flailOpComplete channel bank now => ⟨(opFlailComplete channel.toNat bank now), fun _ => rfl⟩
  | .prefixFlush => ⟨(fun s => if s.mayWrite .host R.pfxCtl.off then s.putF F.pfxCtl_flush 0 1 else s), fun _ => rfl⟩
  | .quarantineEnd id => ⟨(opQuarantineEnd id), fun _ => rfl⟩
  | .powerOnDetection rail mv now => ⟨(opPowerOn rail mv now), fun _ => rfl⟩
  | .porstN lowNs now => ⟨(opPorst lowNs now), fun _ => rfl⟩
  | .porstNRelease now => ⟨(opPorstRelease now), fun _ => rfl⟩
  | .perstN lowNs => ⟨(opPerst lowNs), fun _ => rfl⟩
  | .perstNRelease now => ⟨(opPerstRelease now), fun _ => rfl⟩
  | .optionLoading readingMv now => ⟨(opOptionLoading readingMv now), fun _ => rfl⟩
  | .resetStorm now => ⟨(opStorm now), fun _ => rfl⟩
  | .stormExit lowNs now => ⟨(opStormExit lowNs now), fun _ => rfl⟩
  | .startDelayEnd now => ⟨(opStartDelay now), fun _ => rfl⟩
  | .crystalMeasurement count now => ⟨(opCrystal count.toNat now), fun _ => rfl⟩
  | .crystalFail => ⟨opCrystalFail, fun _ => rfl⟩
  | .watchdogRestart now => ⟨(opWdtRestart now), fun _ => rfl⟩
  | .watchdogExpiry now => ⟨(opWdtExpiry now), fun _ => rfl⟩
  | .thermalTrip sentinel reading now => ⟨(opTrip sentinel.toNat reading now), fun _ => rfl⟩
  | .tripHoldEnd now => ⟨(opTripEnd now), fun _ => rfl⟩
  | .cellResetGo by_ now => ⟨(fun s => if s.mayReset by_ then opResetGo 0 now s else s), fun _ => rfl⟩
  | .cellResetHold by_ set now => ⟨(fun s => if s.mayReset by_ then opResetHold 0 set now s else s), fun _ => rfl⟩
  | .stookResetGo by_ now => ⟨(fun s => if s.mayReset by_ then opResetGo 1 now s else s), fun _ => rfl⟩
  | .stookResetHold by_ set now => ⟨(fun s => if s.mayReset by_ then opResetHold 1 set now s else s), fun _ => rfl⟩
  | .sheafResetGo by_ now => ⟨(fun s => if s.mayReset by_ then opResetGo 2 now s else s), fun _ => rfl⟩
  | .sheafResetHold by_ set now => ⟨(fun s => if s.mayReset by_ then opResetHold 2 set now s else s), fun _ => rfl⟩
  | .steadingRestart by_ now => ⟨(opSteadingRestart by_ now), fun _ => rfl⟩
  | .clockRampStep domain => ⟨(opRampStep domain.toNat), fun _ => rfl⟩
  | .clockMonitorSelect by_ value => ⟨(fun s => if by_ != .i3c && s.reaches by_ R.clkMon.off then opClkMon value s else s), fun _ => rfl⟩
  | .frequencyMeasurement by_ value => ⟨(fun s => if by_ != .i3c && s.reaches by_ R.clkFmc.off then opFmc value s else s), fun _ => rfl⟩
  | .frequencyMeasurementDone count => ⟨(opFmcDone count.toNat), fun _ => rfl⟩
  | .railFault mv now => ⟨(opRailFault mv now), fun _ => rfl⟩
  | .steadingBoot flashAnswers now => ⟨(opSteadingBoot flashAnswers now), fun _ => rfl⟩
  | .broadcastFrame target frame => ⟨(opFrame target frame), fun _ => rfl⟩
  | .segmentRequest target missing => ⟨(opSegments target (missing.map BitVec.toNat)), fun _ => rfl⟩
  | .memoryTest tests now => ⟨(opMemoryTest tests now), fun _ => rfl⟩
  | .heatingTimeout stack reached => ⟨(opHeating stack.toNat reached), fun _ => rfl⟩
  | .cellSelfTest fails now => ⟨(opSelfTest (fails.map BitVec.toNat) now), fun _ => rfl⟩
  | .recoveryVerify by_ => ⟨(fun s => if s.mayRecover by_ R.stdRcvCtl.off then opRcvVerify s else s), fun _ => rfl⟩
  | .recoveryProgram by_ => ⟨(fun s => if s.mayRecover by_ R.stdRcvCtl.off then opRcvProgram s else s), fun _ => rfl⟩
  | .recoveryColdReset by_ => ⟨(fun s => if s.mayRecover by_ R.stdRcvCtl.off then opRcvCold s else s), fun _ => rfl⟩
  | .flashLogWrite now => ⟨(opFlashLogWrite now), fun _ => rfl⟩
  | .otpProgramGeneration by_ => ⟨(fun s => if s.mayRecover by_ R.otpProg.off then opOtpProgram s else s), fun _ => rfl⟩
  | .attestationRequest by_ => ⟨(fun s => if s.reaches by_ R.stdAttCtl.off && (by_ != .i3c || bitOf s.flagsActive 1) then opAttest s else s), fun _ => rfl⟩
  | .attestationReady => ⟨opAttReady, fun _ => rfl⟩
  | .sentinelReading readings forecasts reach110Ns now => ⟨(opSentinel readings forecasts reach110Ns now), fun _ => rfl⟩
  | .coolantLoss now => ⟨(opCoolantLoss now), fun _ => rfl⟩
  | .stopCooldown => ⟨opCooldown, fun _ => rfl⟩
  | .inletWrite by_ value now => ⟨(fun s => if s.reaches by_ R.thmCool.off then opInletWrite value.toNat now s else s.at_ now), fun _ => rfl⟩
  | .inletStale now => ⟨(opInletStale now), fun _ => rfl⟩
  | .fastThrottle power => ⟨(opFastThrottle power), fun _ => rfl⟩
  | .fastThrottleStep excess belowUs => ⟨(opThrottleStep excess belowUs), fun _ => rfl⟩
  | .regionCycleSkip cell currentMa => ⟨(opRegionSkip cell.toNat currentMa), fun _ => rfl⟩
  | .capRaiseStep => ⟨opCapRaiseStep, fun _ => rfl⟩
  | .pwrfail lowNs now => ⟨(opPwrfail lowNs now), fun _ => rfl⟩
  | .keepStageStop now => ⟨(opKeepStop now), fun _ => rfl⟩
  | .keepEntered now => ⟨(opKeepEntered now), fun _ => rfl⟩
  | .keepEntryAbandoned now => ⟨(opKeepGivesUp now), fun _ => rfl⟩
  | .keepCheck readings railsLow recordBad now => ⟨(opKeepCheck readings railsLow recordBad now), fun _ => rfl⟩
  | .keepAbandonWrite by_ => ⟨(opKeepAbandon by_), fun _ => rfl⟩
  | .keepEnd now => ⟨(opKeepEnd now), fun _ => rfl⟩
  | .i3cWriteRegister bytes now => ⟨(opI3cWrite bytes now), fun _ => rfl⟩
  | .i3cSetReadPointer bytes => ⟨(opI3cPointer bytes), fun _ => rfl⟩
  | .i3cWriteWords bytes => ⟨(opI3cWords bytes), fun _ => rfl⟩
  | .i3cPrivateRead words now => ⟨(opI3cRead words now), fun _ => rfl⟩
  | .i3cSetdasa static dynamic => ⟨(opSetdasa static.toNat dynamic.toNat), fun _ => rfl⟩
  | .i3cEntdaa dynamic => ⟨(opEntdaa dynamic.toNat), fun _ => rfl⟩
  | .i3cGetstatus => ⟨opGetstatus, fun _ => rfl⟩
  | .i3cIbiTimeout waitedNs => ⟨(opIbiTimeout waitedNs), fun _ => rfl⟩
  | .rcRead by_ addr size now => ⟨(opRead by_ addr size now), fun _ => rfl⟩
  | .registerWrite by_ addr size value now => ⟨(opWrite by_ addr size value now), fun _ => rfl⟩
  | .finishReport port part finishNs overrun sheafs => ⟨(fun s => s.onWord port.toNat part.toNat (.finish finishNs overrun (sheafs.map BitVec.toNat)) (fun s => if s.isKeeper then (s.reportFrom part.toNat finishNs overrun (sheafs.map BitVec.toNat)).settleIfClear else s)), fun _ => rfl⟩
  | .sheafDigest port part sheaf digest => ⟨(fun s => s.onWord port.toNat part.toNat (.digest sheaf.toNat digest) (opSheafDigest part.toNat sheaf.toNat digest)), fun _ => rfl⟩
  | .pwrfailNRelease railsOkNs => ⟨(opPwrfailRelease railsOkNs), fun _ => rfl⟩
  | .ringReleaseTimeout now => ⟨(opReleaseTimeout now), fun _ => rfl⟩
  | .flailPortGo by_ => ⟨(fun s => if s.writes by_ R.fllPctl.off then opPortGo (s.sel by_ F.vccSel_channel) s else s), fun _ => rfl⟩
  | .otpProgrammingDone readBackOk => ⟨(opOtpDone readBackOk), fun _ => rfl⟩
  | .imageProgrammingDone => ⟨opImageDone, fun _ => rfl⟩
  | .completionTimeout ch fetch fn addr => ⟨(fun s => s.chuteBusError (ch.map BitVec.toNat) fetch 3 fn.toNat addr.toNat), fun _ => rfl⟩

end Sys2Proof.Machine
end

