-- ==== Sys2Proof/Laws/Memory.lean ====
section
/-! SUPPORT. The operations over the part's memories that are not in Laws/Tables.lean, and that each keeps the canonical
form: bytes at mapped addresses, a device write, the programming of one-time-programmable bytes. -/

namespace Sys2Proof.Machine

set_option Elab.async false

theorem Memory.wf_mwriteAt (f : Nat → Nat) (bs : List Byte) :
    ∀ {m : Memory} (i : Nat), Memory.wf m = true → Memory.wf (mwriteAt m f i bs) = true := by
  induction bs with
  | nil => intro m i h; exact h
  | cons b r ih => intro m i h; exact ih (i + 1) (Memory.wf_mput (f i) b h)

theorem Memory.wf_burn (bs : List Byte) : ∀ {m : Memory} (a : Nat), Memory.wf m = true → Memory.wf (burn m a bs) = true := by
  induction bs with
  | nil => intro m a h; exact h
  | cons b r ih => intro m a h; exact ih (a + 1) (Memory.wf_mput a _ h)

/-- A programmed bit stays 1 (R451). -/
theorem burn_keeps_ones (bs : List Byte) : ∀ (m : Memory) (a b i : Nat), (mget m b).getLsbD i = true → (mget (burn m a bs) b).getLsbD i = true := by
  induction bs with
  | nil => intro m a b i h; exact h
  | cons x r ih =>
    intro m a b i h
    refine ih _ (a + 1) b i ?_
    rw [mget_mput]
    split
    · next hab => subst hab; simp [h]
    · exact h

/-- A fold of steps that leave device memory alone leaves it alone. -/
theorem foldl_devMem {α : Type} (f : State → α → State) (hf : ∀ s a, (f s a).devMem = s.devMem) (l : List α) (s : State) :
    (l.foldl f s).devMem = s.devMem := by
  induction l generalizing s with
  | nil => rfl
  | cons a r ih => rw [List.foldl_cons, ih, hf]

/-- What a device write leaves in device memory. -/
theorem State.writeDev_devMem (s : State) (a : Nat) (bs : List Byte) : (s.writeDev a bs).devMem =
    if isPhys a then mblock s.devMem a bs else mwriteAt s.devMem (fun i => s.phys (a + i)) 0 bs := by
  unfold State.writeDev
  refine foldl_devMem _ ?_ _ _
  intro _ _; rfl

theorem Memory.wf_writeDev (s : State) (a : Nat) (bs : List Byte) (h : Memory.wf s.devMem = true) :
    Memory.wf (s.writeDev a bs).devMem = true := by
  rw [State.writeDev_devMem]
  split
  · exact Memory.wf_mblock a bs h
  · exact Memory.wf_mwriteAt _ bs 0 h

end Sys2Proof.Machine
end

