-- ==== Sys2Proof/Laws/PerInstr.lean ====
section
/-! SUPPORT. What well-formed means, command by command: the ranges that a command's operands lie in, as propositions. -/

namespace Sys2Proof.Laws

set_option Elab.async false

/-- The ranges of a command's operands, as the rules of their units give them. -/
def Ranges.inRange : Instr → Prop
  | .loadProgram _ _ => True
  | .unloadProgram _ _ => True
  | .openStream _ _ => True
  | .feedTokens _ _ => True
  | .setStreamParameters _ _ => True
  | .closeStream _ _ => True
  | .invalidOpcode _ _ => True
  | .submissionTailDoorbell _ _ _ => True
  | .completionHeadDoorbell _ _ _ => True
  | .eventQueueHeadDoorbell _ => True
  | .queuePairEnable _ _ _ => True
  | .queueOwnerWrite _ _ => True
  | .eventQueueEnable _ => True
  | .functionLevelReset _ => True
  | .bar4Read _ _ _ => True
  | .bar4Write _ _ _ => True
  | .hostMemoryError _ _ => True
  | .chuteGo _ => True
  | .chuteAbort _ => True
  | .chuteDescriptorDone _ => True
  | .chuteErrorClear => True
  | .tickEdge _ => True
  | .stageStart _ _ => True
  | .stageFinish _ _ => True
  | .runDeadline _ => True
  | .lateNotice _ _ _ => True
  | .edgeAnnouncement _ _ => True
  | .maintenanceWindow _ gov => ∀ g, gov = some g → (∀ r ∈ g.models, r.sensor < 2640) ∧ (∀ e ∈ g.duty, 1 ≤ e.2 ∧ e.2 ≤ 16)
  | .stretchLimit _ => True
  | .cellSlow _ => True
  | .commitRequest _ => True
  | .steadingCommitRequest _ => True
  | .commitChecksDone _ => True
  | .stagedWrite _ _ _ _ => True
  | .stagingRevert => True
  | .governorSilent => True
  | .limitWordWrite w => 800 ≤ w.cap ∧ w.cap ≤ 3600 ∧ (∀ e ∈ w.duty, 1 ≤ e.2 ∧ e.2 ≤ 16) ∧ (∀ e ∈ w.flail, e.2 ≤ 8)
  | .tickMarker _ _ _ _ => True
  | .acknowledgement _ _ _ => True
  | .retryRequest _ _ => True
  | .credit _ _ => True
  | .take _ _ _ => True
  | .release _ _ _ => True
  | .candidate _ _ _ _ _ => True
  | .ringCommit _ _ => True
  | .ringCommitDeadline => True
  | .dataEnvelope _ _ _ _ => True
  | .portDown _ => True
  | .markerLoss _ _ => True
  | .ringTake _ _ _ => True
  | .bypassSwitched _ => True
  | .linkReset _ _ => True
  | .suddenLoss _ _ _ => True
  | .ringBroken _ => True
  | .serLimit _ _ => True
  | .linkRetrainRequest _ => True
  | .portRetrainDone _ _ _ => True
  | .ringSlowRaise _ _ => True
  | .d2dFlit _ _ _ _ _ => True
  | .d2dResendLimit _ _ _ => True
  | .d2dLaneFailed link lane => lane < if link.toNat < 4 then 1024 else 512
  | .d2dReset _ _ => True
  | .d2dTest _ _ _ => True
  | .d2dCapabilityWord _ _ _ => True
  | .meshRow _ _ => True
  | .producerLost _ _ => True
  | .memoryAccess _ target _ _ _ _ => ∀ h w, target = .hubStore h w → h.toNat < 12
  | .bankRefresh _ bank _ => bank < 192
  | .bucketLeak => True
  | .housekeepingRound round _ => ∀ r ∈ round.temps, r.sensor < 2640
  | .sensorReturn sensor => sensor < 2640
  | .scheduledRetrain _ _ => True
  | .channelRetrainRequest _ => True
  | .channelRetrainDone _ wires _ => ∀ w ∈ wires, w < 304
  | .channelHoldTimeout _ _ => True
  | .marginRequest _ _ _ => True
  | .wireFailed _ wire => wire.toNat < 344
  | .channelReset _ _ => True
  | .loadq _ w _ _ => w.w0.extractLsb' 0 4 = 1 ∧ (w.w0.extractLsb' 8 4).toNat < 12
  | .score _ w _ _ => w.w0.extractLsb' 0 4 = 2 ∧ (w.w0.extractLsb' 8 4).toNat < 12
  | .topk _ w _ => w.w0.extractLsb' 0 4 = 3 ∧ (w.w0.extractLsb' 8 4).toNat < 12
  | .requant _ w _ => w.w0.extractLsb' 0 4 = 4 ∧ (w.w0.extractLsb' 8 4).toNat < 12
  | .scrub _ w _ _ => w.w0.extractLsb' 0 4 = 5 ∧ (w.w0.extractLsb' 8 4).toNat < 12
  | .frag _ w _ => w.w0.extractLsb' 0 4 = 6 ∧ (w.w0.extractLsb' 8 4).toNat < 12
  | .flailOpComplete _ bank _ => bank < 192
  | .prefixFlush => True
  | .quarantineEnd _ => True
  | .powerOnDetection _ _ _ => True
  | .porstN _ _ => True
  | .porstNRelease _ => True
  | .perstN _ => True
  | .perstNRelease _ => True
  | .optionLoading _ _ => True
  | .resetStorm _ => True
  | .stormExit _ _ => True
  | .startDelayEnd _ => True
  | .crystalMeasurement _ _ => True
  | .crystalFail => True
  | .watchdogRestart _ => True
  | .watchdogExpiry _ => True
  | .thermalTrip _ _ _ => True
  | .tripHoldEnd _ => True
  | .cellResetGo _ _ => True
  | .cellResetHold _ _ _ => True
  | .stookResetGo _ _ => True
  | .stookResetHold _ _ _ => True
  | .sheafResetGo _ _ => True
  | .sheafResetHold _ _ _ => True
  | .steadingRestart _ _ => True
  | .clockRampStep domain => domain.toNat < 60
  | .clockMonitorSelect _ _ => True
  | .frequencyMeasurement _ _ => True
  | .frequencyMeasurementDone _ => True
  | .railFault _ _ => True
  | .steadingBoot _ _ => True
  | .broadcastFrame _ _ => True
  | .segmentRequest _ _ => True
  | .memoryTest _ _ => True
  | .heatingTimeout _ _ => True
  | .cellSelfTest _ _ => True
  | .recoveryVerify _ => True
  | .recoveryProgram _ => True
  | .recoveryColdReset _ => True
  | .flashLogWrite _ => True
  | .otpProgramGeneration _ => True
  | .attestationRequest _ => True
  | .attestationReady => True
  | .sentinelReading readings _ _ _ => ∀ r ∈ readings, 2576 ≤ r.sensor ∧ r.sensor < 2640
  | .coolantLoss _ => True
  | .stopCooldown => True
  | .inletWrite _ _ _ => True
  | .inletStale _ => True
  | .fastThrottle _ => True
  | .fastThrottleStep _ _ => True
  | .regionCycleSkip _ _ => True
  | .capRaiseStep => True
  | .pwrfail _ _ => True
  | .keepStageStop _ => True
  | .keepEntered _ => True
  | .keepEntryAbandoned _ => True
  | .keepCheck readings _ _ _ => ∀ r ∈ readings, 1024 ≤ r.sensor ∧ r.sensor < 2576
  | .keepAbandonWrite _ => True
  | .keepEnd _ => True
  | .i3cWriteRegister _ _ => True
  | .i3cSetReadPointer _ => True
  | .i3cWriteWords _ => True
  | .i3cPrivateRead _ _ => True
  | .i3cSetdasa _ _ => True
  | .i3cEntdaa _ => True
  | .i3cGetstatus => True
  | .i3cIbiTimeout _ => True
  | .rcRead _ _ _ _ => True
  | .registerWrite _ _ _ _ _ => True
  | .finishReport _ _ _ _ _ => True
  | .sheafDigest _ _ _ _ => True
  | .pwrfailNRelease _ => True
  | .ringReleaseTimeout _ => True
  | .flailPortGo _ => True
  | .otpProgrammingDone _ => True
  | .imageProgrammingDone => True
  | .completionTimeout _ _ _ _ => True

/-- A command is well-formed exactly when its operands are in range. -/
def Ranges.Statement (i : Instr) : Prop := i.wellFormed = true ↔ Ranges.inRange i

theorem Ranges.loadProgram : ∀ a0 a1, Ranges.Statement (.loadProgram a0 a1) := fun _ _ => ⟨fun _ => trivial, fun _ => rfl⟩
theorem Ranges.unloadProgram : ∀ a0 a1, Ranges.Statement (.unloadProgram a0 a1) := fun _ _ => ⟨fun _ => trivial, fun _ => rfl⟩
theorem Ranges.openStream : ∀ a0 a1, Ranges.Statement (.openStream a0 a1) := fun _ _ => ⟨fun _ => trivial, fun _ => rfl⟩
theorem Ranges.feedTokens : ∀ a0 a1, Ranges.Statement (.feedTokens a0 a1) := fun _ _ => ⟨fun _ => trivial, fun _ => rfl⟩
theorem Ranges.setStreamParameters : ∀ a0 a1, Ranges.Statement (.setStreamParameters a0 a1) := fun _ _ => ⟨fun _ => trivial, fun _ => rfl⟩
theorem Ranges.closeStream : ∀ a0 a1, Ranges.Statement (.closeStream a0 a1) := fun _ _ => ⟨fun _ => trivial, fun _ => rfl⟩
theorem Ranges.invalidOpcode : ∀ a0 a1, Ranges.Statement (.invalidOpcode a0 a1) := fun _ _ => ⟨fun _ => trivial, fun _ => rfl⟩
theorem Ranges.submissionTailDoorbell : ∀ a0 a1 a2, Ranges.Statement (.submissionTailDoorbell a0 a1 a2) := fun _ _ _ => ⟨fun _ => trivial, fun _ => rfl⟩
theorem Ranges.completionHeadDoorbell : ∀ a0 a1 a2, Ranges.Statement (.completionHeadDoorbell a0 a1 a2) := fun _ _ _ => ⟨fun _ => trivial, fun _ => rfl⟩
theorem Ranges.eventQueueHeadDoorbell : ∀ a0, Ranges.Statement (.eventQueueHeadDoorbell a0) := fun _ => ⟨fun _ => trivial, fun _ => rfl⟩
theorem Ranges.queuePairEnable : ∀ a0 a1 a2, Ranges.Statement (.queuePairEnable a0 a1 a2) := fun _ _ _ => ⟨fun _ => trivial, fun _ => rfl⟩
theorem Ranges.queueOwnerWrite : ∀ a0 a1, Ranges.Statement (.queueOwnerWrite a0 a1) := fun _ _ => ⟨fun _ => trivial, fun _ => rfl⟩
theorem Ranges.eventQueueEnable : ∀ a0, Ranges.Statement (.eventQueueEnable a0) := fun _ => ⟨fun _ => trivial, fun _ => rfl⟩
theorem Ranges.functionLevelReset : ∀ a0, Ranges.Statement (.functionLevelReset a0) := fun _ => ⟨fun _ => trivial, fun _ => rfl⟩
theorem Ranges.bar4Read : ∀ a0 a1 a2, Ranges.Statement (.bar4Read a0 a1 a2) := fun _ _ _ => ⟨fun _ => trivial, fun _ => rfl⟩
theorem Ranges.bar4Write : ∀ a0 a1 a2, Ranges.Statement (.bar4Write a0 a1 a2) := fun _ _ _ => ⟨fun _ => trivial, fun _ => rfl⟩
theorem Ranges.hostMemoryError : ∀ a0 a1, Ranges.Statement (.hostMemoryError a0 a1) := fun _ _ => ⟨fun _ => trivial, fun _ => rfl⟩
theorem Ranges.chuteGo : ∀ a0, Ranges.Statement (.chuteGo a0) := fun _ => ⟨fun _ => trivial, fun _ => rfl⟩
theorem Ranges.chuteAbort : ∀ a0, Ranges.Statement (.chuteAbort a0) := fun _ => ⟨fun _ => trivial, fun _ => rfl⟩
theorem Ranges.chuteDescriptorDone : ∀ a0, Ranges.Statement (.chuteDescriptorDone a0) := fun _ => ⟨fun _ => trivial, fun _ => rfl⟩
theorem Ranges.chuteErrorClear : Ranges.Statement (.chuteErrorClear) := ⟨fun _ => trivial, fun _ => rfl⟩
theorem Ranges.tickEdge : ∀ a0, Ranges.Statement (.tickEdge a0) := fun _ => ⟨fun _ => trivial, fun _ => rfl⟩
theorem Ranges.stageStart : ∀ a0 a1, Ranges.Statement (.stageStart a0 a1) := fun _ _ => ⟨fun _ => trivial, fun _ => rfl⟩
theorem Ranges.stageFinish : ∀ a0 a1, Ranges.Statement (.stageFinish a0 a1) := fun _ _ => ⟨fun _ => trivial, fun _ => rfl⟩
theorem Ranges.runDeadline : ∀ a0, Ranges.Statement (.runDeadline a0) := fun _ => ⟨fun _ => trivial, fun _ => rfl⟩
theorem Ranges.lateNotice : ∀ a0 a1 a2, Ranges.Statement (.lateNotice a0 a1 a2) := fun _ _ _ => ⟨fun _ => trivial, fun _ => rfl⟩
theorem Ranges.edgeAnnouncement : ∀ a0 a1, Ranges.Statement (.edgeAnnouncement a0 a1) := fun _ _ => ⟨fun _ => trivial, fun _ => rfl⟩
theorem Ranges.maintenanceWindow : ∀ a0 a1, Ranges.Statement (.maintenanceWindow a0 a1) := by
  intro _ gov
  cases gov <;> simp [Ranges.Statement, Ranges.inRange, Instr.wellFormed, GovIn.ok]
theorem Ranges.stretchLimit : ∀ a0, Ranges.Statement (.stretchLimit a0) := fun _ => ⟨fun _ => trivial, fun _ => rfl⟩
theorem Ranges.cellSlow : ∀ a0, Ranges.Statement (.cellSlow a0) := fun _ => ⟨fun _ => trivial, fun _ => rfl⟩
theorem Ranges.commitRequest : ∀ a0, Ranges.Statement (.commitRequest a0) := fun _ => ⟨fun _ => trivial, fun _ => rfl⟩
theorem Ranges.steadingCommitRequest : ∀ a0, Ranges.Statement (.steadingCommitRequest a0) := fun _ => ⟨fun _ => trivial, fun _ => rfl⟩
theorem Ranges.commitChecksDone : ∀ a0, Ranges.Statement (.commitChecksDone a0) := fun _ => ⟨fun _ => trivial, fun _ => rfl⟩
theorem Ranges.stagedWrite : ∀ a0 a1 a2 a3, Ranges.Statement (.stagedWrite a0 a1 a2 a3) := fun _ _ _ _ => ⟨fun _ => trivial, fun _ => rfl⟩
theorem Ranges.stagingRevert : Ranges.Statement (.stagingRevert) := ⟨fun _ => trivial, fun _ => rfl⟩
theorem Ranges.governorSilent : Ranges.Statement (.governorSilent) := ⟨fun _ => trivial, fun _ => rfl⟩
theorem Ranges.limitWordWrite : ∀ a0, Ranges.Statement (.limitWordWrite a0) := by
  intro _; simp [Ranges.Statement, Ranges.inRange, Instr.wellFormed, LimitWords.ok, and_assoc]
theorem Ranges.tickMarker : ∀ a0 a1 a2 a3, Ranges.Statement (.tickMarker a0 a1 a2 a3) := fun _ _ _ _ => ⟨fun _ => trivial, fun _ => rfl⟩
theorem Ranges.acknowledgement : ∀ a0 a1 a2, Ranges.Statement (.acknowledgement a0 a1 a2) := fun _ _ _ => ⟨fun _ => trivial, fun _ => rfl⟩
theorem Ranges.retryRequest : ∀ a0 a1, Ranges.Statement (.retryRequest a0 a1) := fun _ _ => ⟨fun _ => trivial, fun _ => rfl⟩
theorem Ranges.credit : ∀ a0 a1, Ranges.Statement (.credit a0 a1) := fun _ _ => ⟨fun _ => trivial, fun _ => rfl⟩
theorem Ranges.take : ∀ a0 a1 a2, Ranges.Statement (.take a0 a1 a2) := fun _ _ _ => ⟨fun _ => trivial, fun _ => rfl⟩
theorem Ranges.release : ∀ a0 a1 a2, Ranges.Statement (.release a0 a1 a2) := fun _ _ _ => ⟨fun _ => trivial, fun _ => rfl⟩
theorem Ranges.candidate : ∀ a0 a1 a2 a3 a4, Ranges.Statement (.candidate a0 a1 a2 a3 a4) := fun _ _ _ _ _ => ⟨fun _ => trivial, fun _ => rfl⟩
theorem Ranges.ringCommit : ∀ a0 a1, Ranges.Statement (.ringCommit a0 a1) := fun _ _ => ⟨fun _ => trivial, fun _ => rfl⟩
theorem Ranges.ringCommitDeadline : Ranges.Statement (.ringCommitDeadline) := ⟨fun _ => trivial, fun _ => rfl⟩
theorem Ranges.dataEnvelope : ∀ a0 a1 a2 a3, Ranges.Statement (.dataEnvelope a0 a1 a2 a3) := fun _ _ _ _ => ⟨fun _ => trivial, fun _ => rfl⟩
theorem Ranges.portDown : ∀ a0, Ranges.Statement (.portDown a0) := fun _ => ⟨fun _ => trivial, fun _ => rfl⟩
theorem Ranges.markerLoss : ∀ a0 a1, Ranges.Statement (.markerLoss a0 a1) := fun _ _ => ⟨fun _ => trivial, fun _ => rfl⟩
theorem Ranges.ringTake : ∀ a0 a1 a2, Ranges.Statement (.ringTake a0 a1 a2) := fun _ _ _ => ⟨fun _ => trivial, fun _ => rfl⟩
theorem Ranges.bypassSwitched : ∀ a0, Ranges.Statement (.bypassSwitched a0) := fun _ => ⟨fun _ => trivial, fun _ => rfl⟩
theorem Ranges.linkReset : ∀ a0 a1, Ranges.Statement (.linkReset a0 a1) := fun _ _ => ⟨fun _ => trivial, fun _ => rfl⟩
theorem Ranges.suddenLoss : ∀ a0 a1 a2, Ranges.Statement (.suddenLoss a0 a1 a2) := fun _ _ _ => ⟨fun _ => trivial, fun _ => rfl⟩
theorem Ranges.ringBroken : ∀ a0, Ranges.Statement (.ringBroken a0) := fun _ => ⟨fun _ => trivial, fun _ => rfl⟩
theorem Ranges.serLimit : ∀ a0 a1, Ranges.Statement (.serLimit a0 a1) := fun _ _ => ⟨fun _ => trivial, fun _ => rfl⟩
theorem Ranges.linkRetrainRequest : ∀ a0, Ranges.Statement (.linkRetrainRequest a0) := fun _ => ⟨fun _ => trivial, fun _ => rfl⟩
theorem Ranges.portRetrainDone : ∀ a0 a1 a2, Ranges.Statement (.portRetrainDone a0 a1 a2) := fun _ _ _ => ⟨fun _ => trivial, fun _ => rfl⟩
theorem Ranges.ringSlowRaise : ∀ a0 a1, Ranges.Statement (.ringSlowRaise a0 a1) := fun _ _ => ⟨fun _ => trivial, fun _ => rfl⟩
theorem Ranges.d2dFlit : ∀ a0 a1 a2 a3 a4, Ranges.Statement (.d2dFlit a0 a1 a2 a3 a4) :=
  fun _ _ _ _ _ => ⟨fun _ => trivial, fun _ => rfl⟩
theorem Ranges.d2dResendLimit : ∀ a0 a1 a2, Ranges.Statement (.d2dResendLimit a0 a1 a2) := fun _ _ _ => ⟨fun _ => trivial, fun _ => rfl⟩
theorem Ranges.d2dLaneFailed : ∀ a0 a1, Ranges.Statement (.d2dLaneFailed a0 a1) := by
  intros; simp [Ranges.Statement, Ranges.inRange, Instr.wellFormed]
theorem Ranges.d2dReset : ∀ a0 a1, Ranges.Statement (.d2dReset a0 a1) := fun _ _ => ⟨fun _ => trivial, fun _ => rfl⟩
theorem Ranges.d2dTest : ∀ a0 a1 a2, Ranges.Statement (.d2dTest a0 a1 a2) := fun _ _ _ => ⟨fun _ => trivial, fun _ => rfl⟩
theorem Ranges.d2dCapabilityWord : ∀ a0 a1 a2, Ranges.Statement (.d2dCapabilityWord a0 a1 a2) := fun _ _ _ => ⟨fun _ => trivial, fun _ => rfl⟩
theorem Ranges.meshRow : ∀ a0 a1, Ranges.Statement (.meshRow a0 a1) := fun _ _ => ⟨fun _ => trivial, fun _ => rfl⟩
theorem Ranges.producerLost : ∀ a0 a1, Ranges.Statement (.producerLost a0 a1) := fun _ _ => ⟨fun _ => trivial, fun _ => rfl⟩
theorem Ranges.memoryAccess : ∀ a0 a1 a2 a3 a4 a5, Ranges.Statement (.memoryAccess a0 a1 a2 a3 a4 a5) := by
  intro _ target _ _ _ _; cases target <;> simp [Ranges.Statement, Ranges.inRange, Instr.wellFormed, MemTarget.ok]
theorem Ranges.bankRefresh : ∀ a0 a1 a2, Ranges.Statement (.bankRefresh a0 a1 a2) := by
  intros; simp [Ranges.Statement, Ranges.inRange, Instr.wellFormed]
theorem Ranges.bucketLeak : Ranges.Statement (.bucketLeak) := ⟨fun _ => trivial, fun _ => rfl⟩
theorem Ranges.housekeepingRound : ∀ a0 a1, Ranges.Statement (.housekeepingRound a0 a1) := by
  intros; simp [Ranges.Statement, Ranges.inRange, Instr.wellFormed]
theorem Ranges.sensorReturn : ∀ a0, Ranges.Statement (.sensorReturn a0) := by
  intros; simp [Ranges.Statement, Ranges.inRange, Instr.wellFormed]
theorem Ranges.scheduledRetrain : ∀ a0 a1, Ranges.Statement (.scheduledRetrain a0 a1) := fun _ _ => ⟨fun _ => trivial, fun _ => rfl⟩
theorem Ranges.channelRetrainRequest : ∀ a0, Ranges.Statement (.channelRetrainRequest a0) := fun _ => ⟨fun _ => trivial, fun _ => rfl⟩
theorem Ranges.channelRetrainDone : ∀ a0 a1 a2, Ranges.Statement (.channelRetrainDone a0 a1 a2) := by
  intros; simp [Ranges.Statement, Ranges.inRange, Instr.wellFormed]
theorem Ranges.channelHoldTimeout : ∀ a0 a1, Ranges.Statement (.channelHoldTimeout a0 a1) := fun _ _ => ⟨fun _ => trivial, fun _ => rfl⟩
theorem Ranges.marginRequest : ∀ a0 a1 a2, Ranges.Statement (.marginRequest a0 a1 a2) := fun _ _ _ => ⟨fun _ => trivial, fun _ => rfl⟩
theorem Ranges.wireFailed : ∀ a0 a1, Ranges.Statement (.wireFailed a0 a1) := by
  intros; simp [Ranges.Statement, Ranges.inRange, Instr.wellFormed]
theorem Ranges.channelReset : ∀ a0 a1, Ranges.Statement (.channelReset a0 a1) := fun _ _ => ⟨fun _ => trivial, fun _ => rfl⟩
theorem Ranges.loadq : ∀ a0 a1 a2 a3, Ranges.Statement (.loadq a0 a1 a2 a3) := by
  intros; simp [Ranges.Statement, Ranges.inRange, Instr.wellFormed, FlailWords.ok, FlailWords.loftOk]
theorem Ranges.score : ∀ a0 a1 a2 a3, Ranges.Statement (.score a0 a1 a2 a3) := by
  intros; simp [Ranges.Statement, Ranges.inRange, Instr.wellFormed, FlailWords.ok, FlailWords.loftOk]
theorem Ranges.topk : ∀ a0 a1 a2, Ranges.Statement (.topk a0 a1 a2) := by
  intros; simp [Ranges.Statement, Ranges.inRange, Instr.wellFormed, FlailWords.ok, FlailWords.loftOk]
theorem Ranges.requant : ∀ a0 a1 a2, Ranges.Statement (.requant a0 a1 a2) := by
  intros; simp [Ranges.Statement, Ranges.inRange, Instr.wellFormed, FlailWords.ok, FlailWords.loftOk]
theorem Ranges.scrub : ∀ a0 a1 a2 a3, Ranges.Statement (.scrub a0 a1 a2 a3) := by
  intros; simp [Ranges.Statement, Ranges.inRange, Instr.wellFormed, FlailWords.ok, FlailWords.loftOk]
theorem Ranges.frag : ∀ a0 a1 a2, Ranges.Statement (.frag a0 a1 a2) := by
  intros; simp [Ranges.Statement, Ranges.inRange, Instr.wellFormed, FlailWords.ok, FlailWords.loftOk]
theorem Ranges.flailOpComplete : ∀ a0 a1 a2, Ranges.Statement (.flailOpComplete a0 a1 a2) := by
  intros; simp [Ranges.Statement, Ranges.inRange, Instr.wellFormed]
theorem Ranges.prefixFlush : Ranges.Statement (.prefixFlush) := ⟨fun _ => trivial, fun _ => rfl⟩
theorem Ranges.quarantineEnd : ∀ a0, Ranges.Statement (.quarantineEnd a0) := fun _ => ⟨fun _ => trivial, fun _ => rfl⟩
theorem Ranges.powerOnDetection : ∀ a0 a1 a2, Ranges.Statement (.powerOnDetection a0 a1 a2) := fun _ _ _ => ⟨fun _ => trivial, fun _ => rfl⟩
theorem Ranges.porstN : ∀ a0 a1, Ranges.Statement (.porstN a0 a1) := fun _ _ => ⟨fun _ => trivial, fun _ => rfl⟩
theorem Ranges.porstNRelease : ∀ a0, Ranges.Statement (.porstNRelease a0) := fun _ => ⟨fun _ => trivial, fun _ => rfl⟩
theorem Ranges.perstN : ∀ a0, Ranges.Statement (.perstN a0) := fun _ => ⟨fun _ => trivial, fun _ => rfl⟩
theorem Ranges.perstNRelease : ∀ a0, Ranges.Statement (.perstNRelease a0) := fun _ => ⟨fun _ => trivial, fun _ => rfl⟩
theorem Ranges.optionLoading : ∀ a0 a1, Ranges.Statement (.optionLoading a0 a1) := fun _ _ => ⟨fun _ => trivial, fun _ => rfl⟩
theorem Ranges.resetStorm : ∀ a0, Ranges.Statement (.resetStorm a0) := fun _ => ⟨fun _ => trivial, fun _ => rfl⟩
theorem Ranges.stormExit : ∀ a0 a1, Ranges.Statement (.stormExit a0 a1) := fun _ _ => ⟨fun _ => trivial, fun _ => rfl⟩
theorem Ranges.startDelayEnd : ∀ a0, Ranges.Statement (.startDelayEnd a0) := fun _ => ⟨fun _ => trivial, fun _ => rfl⟩
theorem Ranges.crystalMeasurement : ∀ a0 a1, Ranges.Statement (.crystalMeasurement a0 a1) := fun _ _ => ⟨fun _ => trivial, fun _ => rfl⟩
theorem Ranges.crystalFail : Ranges.Statement (.crystalFail) := ⟨fun _ => trivial, fun _ => rfl⟩
theorem Ranges.watchdogRestart : ∀ a0, Ranges.Statement (.watchdogRestart a0) := fun _ => ⟨fun _ => trivial, fun _ => rfl⟩
theorem Ranges.watchdogExpiry : ∀ a0, Ranges.Statement (.watchdogExpiry a0) := fun _ => ⟨fun _ => trivial, fun _ => rfl⟩
theorem Ranges.thermalTrip : ∀ a0 a1 a2, Ranges.Statement (.thermalTrip a0 a1 a2) := fun _ _ _ => ⟨fun _ => trivial, fun _ => rfl⟩
theorem Ranges.tripHoldEnd : ∀ a0, Ranges.Statement (.tripHoldEnd a0) := fun _ => ⟨fun _ => trivial, fun _ => rfl⟩
theorem Ranges.cellResetGo : ∀ a0 a1, Ranges.Statement (.cellResetGo a0 a1) := fun _ _ => ⟨fun _ => trivial, fun _ => rfl⟩
theorem Ranges.cellResetHold : ∀ a0 a1 a2, Ranges.Statement (.cellResetHold a0 a1 a2) := fun _ _ _ => ⟨fun _ => trivial, fun _ => rfl⟩
theorem Ranges.stookResetGo : ∀ a0 a1, Ranges.Statement (.stookResetGo a0 a1) := fun _ _ => ⟨fun _ => trivial, fun _ => rfl⟩
theorem Ranges.stookResetHold : ∀ a0 a1 a2, Ranges.Statement (.stookResetHold a0 a1 a2) := fun _ _ _ => ⟨fun _ => trivial, fun _ => rfl⟩
theorem Ranges.sheafResetGo : ∀ a0 a1, Ranges.Statement (.sheafResetGo a0 a1) := fun _ _ => ⟨fun _ => trivial, fun _ => rfl⟩
theorem Ranges.sheafResetHold : ∀ a0 a1 a2, Ranges.Statement (.sheafResetHold a0 a1 a2) := fun _ _ _ => ⟨fun _ => trivial, fun _ => rfl⟩
theorem Ranges.steadingRestart : ∀ a0 a1, Ranges.Statement (.steadingRestart a0 a1) := fun _ _ => ⟨fun _ => trivial, fun _ => rfl⟩
theorem Ranges.clockRampStep : ∀ a0, Ranges.Statement (.clockRampStep a0) := by
  intros; simp [Ranges.Statement, Ranges.inRange, Instr.wellFormed]
theorem Ranges.clockMonitorSelect : ∀ a0 a1, Ranges.Statement (.clockMonitorSelect a0 a1) := fun _ _ => ⟨fun _ => trivial, fun _ => rfl⟩
theorem Ranges.frequencyMeasurement : ∀ a0 a1, Ranges.Statement (.frequencyMeasurement a0 a1) := fun _ _ => ⟨fun _ => trivial, fun _ => rfl⟩
theorem Ranges.frequencyMeasurementDone : ∀ a0, Ranges.Statement (.frequencyMeasurementDone a0) := fun _ => ⟨fun _ => trivial, fun _ => rfl⟩
theorem Ranges.railFault : ∀ a0 a1, Ranges.Statement (.railFault a0 a1) := fun _ _ => ⟨fun _ => trivial, fun _ => rfl⟩
theorem Ranges.steadingBoot : ∀ a0 a1, Ranges.Statement (.steadingBoot a0 a1) := fun _ _ => ⟨fun _ => trivial, fun _ => rfl⟩
theorem Ranges.broadcastFrame : ∀ a0 a1, Ranges.Statement (.broadcastFrame a0 a1) := fun _ _ => ⟨fun _ => trivial, fun _ => rfl⟩
theorem Ranges.segmentRequest : ∀ a0 a1, Ranges.Statement (.segmentRequest a0 a1) := fun _ _ => ⟨fun _ => trivial, fun _ => rfl⟩
theorem Ranges.memoryTest : ∀ a0 a1, Ranges.Statement (.memoryTest a0 a1) := fun _ _ => ⟨fun _ => trivial, fun _ => rfl⟩
theorem Ranges.heatingTimeout : ∀ a0 a1, Ranges.Statement (.heatingTimeout a0 a1) := fun _ _ => ⟨fun _ => trivial, fun _ => rfl⟩
theorem Ranges.cellSelfTest : ∀ a0 a1, Ranges.Statement (.cellSelfTest a0 a1) := fun _ _ => ⟨fun _ => trivial, fun _ => rfl⟩
theorem Ranges.recoveryVerify : ∀ a0, Ranges.Statement (.recoveryVerify a0) := fun _ => ⟨fun _ => trivial, fun _ => rfl⟩
theorem Ranges.recoveryProgram : ∀ a0, Ranges.Statement (.recoveryProgram a0) := fun _ => ⟨fun _ => trivial, fun _ => rfl⟩
theorem Ranges.recoveryColdReset : ∀ a0, Ranges.Statement (.recoveryColdReset a0) := fun _ => ⟨fun _ => trivial, fun _ => rfl⟩
theorem Ranges.flashLogWrite : ∀ a0, Ranges.Statement (.flashLogWrite a0) := fun _ => ⟨fun _ => trivial, fun _ => rfl⟩
theorem Ranges.otpProgramGeneration : ∀ a0, Ranges.Statement (.otpProgramGeneration a0) := fun _ => ⟨fun _ => trivial, fun _ => rfl⟩
theorem Ranges.attestationRequest : ∀ a0, Ranges.Statement (.attestationRequest a0) := fun _ => ⟨fun _ => trivial, fun _ => rfl⟩
theorem Ranges.attestationReady : Ranges.Statement (.attestationReady) := ⟨fun _ => trivial, fun _ => rfl⟩
theorem Ranges.sentinelReading : ∀ a0 a1 a2 a3, Ranges.Statement (.sentinelReading a0 a1 a2 a3) := by
  intros; simp [Ranges.Statement, Ranges.inRange, Instr.wellFormed]
theorem Ranges.coolantLoss : ∀ a0, Ranges.Statement (.coolantLoss a0) := fun _ => ⟨fun _ => trivial, fun _ => rfl⟩
theorem Ranges.stopCooldown : Ranges.Statement (.stopCooldown) := ⟨fun _ => trivial, fun _ => rfl⟩
theorem Ranges.inletWrite : ∀ a0 a1 a2, Ranges.Statement (.inletWrite a0 a1 a2) := fun _ _ _ => ⟨fun _ => trivial, fun _ => rfl⟩
theorem Ranges.inletStale : ∀ a0, Ranges.Statement (.inletStale a0) := fun _ => ⟨fun _ => trivial, fun _ => rfl⟩
theorem Ranges.fastThrottle : ∀ a0, Ranges.Statement (.fastThrottle a0) := fun _ => ⟨fun _ => trivial, fun _ => rfl⟩
theorem Ranges.fastThrottleStep : ∀ a0 a1, Ranges.Statement (.fastThrottleStep a0 a1) := fun _ _ => ⟨fun _ => trivial, fun _ => rfl⟩
theorem Ranges.regionCycleSkip : ∀ a0 a1, Ranges.Statement (.regionCycleSkip a0 a1) := fun _ _ => ⟨fun _ => trivial, fun _ => rfl⟩
theorem Ranges.capRaiseStep : Ranges.Statement (.capRaiseStep) := ⟨fun _ => trivial, fun _ => rfl⟩
theorem Ranges.pwrfail : ∀ a0 a1, Ranges.Statement (.pwrfail a0 a1) := fun _ _ => ⟨fun _ => trivial, fun _ => rfl⟩
theorem Ranges.keepStageStop : ∀ a0, Ranges.Statement (.keepStageStop a0) := fun _ => ⟨fun _ => trivial, fun _ => rfl⟩
theorem Ranges.keepEntered : ∀ a0, Ranges.Statement (.keepEntered a0) := fun _ => ⟨fun _ => trivial, fun _ => rfl⟩
theorem Ranges.keepEntryAbandoned : ∀ a0, Ranges.Statement (.keepEntryAbandoned a0) := fun _ => ⟨fun _ => trivial, fun _ => rfl⟩
theorem Ranges.keepCheck : ∀ a0 a1 a2 a3, Ranges.Statement (.keepCheck a0 a1 a2 a3) := by
  intros; simp [Ranges.Statement, Ranges.inRange, Instr.wellFormed]
theorem Ranges.keepAbandonWrite : ∀ a0, Ranges.Statement (.keepAbandonWrite a0) := fun _ => ⟨fun _ => trivial, fun _ => rfl⟩
theorem Ranges.keepEnd : ∀ a0, Ranges.Statement (.keepEnd a0) := fun _ => ⟨fun _ => trivial, fun _ => rfl⟩
theorem Ranges.i3cWriteRegister : ∀ a0 a1, Ranges.Statement (.i3cWriteRegister a0 a1) := fun _ _ => ⟨fun _ => trivial, fun _ => rfl⟩
theorem Ranges.i3cSetReadPointer : ∀ a0, Ranges.Statement (.i3cSetReadPointer a0) := fun _ => ⟨fun _ => trivial, fun _ => rfl⟩
theorem Ranges.i3cWriteWords : ∀ a0, Ranges.Statement (.i3cWriteWords a0) := fun _ => ⟨fun _ => trivial, fun _ => rfl⟩
theorem Ranges.i3cPrivateRead : ∀ a0 a1, Ranges.Statement (.i3cPrivateRead a0 a1) := fun _ _ => ⟨fun _ => trivial, fun _ => rfl⟩
theorem Ranges.i3cSetdasa : ∀ a0 a1, Ranges.Statement (.i3cSetdasa a0 a1) := fun _ _ => ⟨fun _ => trivial, fun _ => rfl⟩
theorem Ranges.i3cEntdaa : ∀ a0, Ranges.Statement (.i3cEntdaa a0) := fun _ => ⟨fun _ => trivial, fun _ => rfl⟩
theorem Ranges.i3cGetstatus : Ranges.Statement (.i3cGetstatus) := ⟨fun _ => trivial, fun _ => rfl⟩
theorem Ranges.i3cIbiTimeout : ∀ a0, Ranges.Statement (.i3cIbiTimeout a0) := fun _ => ⟨fun _ => trivial, fun _ => rfl⟩
theorem Ranges.rcRead : ∀ a0 a1 a2 a3, Ranges.Statement (.rcRead a0 a1 a2 a3) := fun _ _ _ _ => ⟨fun _ => trivial, fun _ => rfl⟩
theorem Ranges.registerWrite : ∀ a0 a1 a2 a3 a4, Ranges.Statement (.registerWrite a0 a1 a2 a3 a4) := fun _ _ _ _ _ => ⟨fun _ => trivial, fun _ => rfl⟩
theorem Ranges.finishReport : ∀ a0 a1 a2 a3 a4, Ranges.Statement (.finishReport a0 a1 a2 a3 a4) := fun _ _ _ _ _ => ⟨fun _ => trivial, fun _ => rfl⟩
theorem Ranges.sheafDigest : ∀ a0 a1 a2 a3, Ranges.Statement (.sheafDigest a0 a1 a2 a3) := fun _ _ _ _ => ⟨fun _ => trivial, fun _ => rfl⟩
theorem Ranges.pwrfailNRelease : ∀ a0, Ranges.Statement (.pwrfailNRelease a0) := fun _ => ⟨fun _ => trivial, fun _ => rfl⟩
theorem Ranges.ringReleaseTimeout : ∀ a0, Ranges.Statement (.ringReleaseTimeout a0) := fun _ => ⟨fun _ => trivial, fun _ => rfl⟩
theorem Ranges.flailPortGo : ∀ a0, Ranges.Statement (.flailPortGo a0) := fun _ => ⟨fun _ => trivial, fun _ => rfl⟩
theorem Ranges.otpProgrammingDone : ∀ a0, Ranges.Statement (.otpProgrammingDone a0) := fun _ => ⟨fun _ => trivial, fun _ => rfl⟩
theorem Ranges.imageProgrammingDone : Ranges.Statement (.imageProgrammingDone) := ⟨fun _ => trivial, fun _ => rfl⟩
theorem Ranges.completionTimeout : ∀ a0 a1 a2 a3, Ranges.Statement (.completionTimeout a0 a1 a2 a3) := fun _ _ _ _ => ⟨fun _ => trivial, fun _ => rfl⟩

end Sys2Proof.Laws
end

