-- ==== Sys2Proof/Machine/Pins.lean ====
section
/-! DEFINITION. The levels of the output pins (R403, R410, R529, R533): through a cold reset, option loading and the reset-storm hold each takes
its cold-reset state. -/

namespace Sys2Proof.Machine

/-- What an output pin does: a level, high impedance (an open drain released), electrical idle, or a clock of a frequency in Hz. -/
inductive PinState where
  | low | high | highZ | idle
  | clock (hz : Nat)
  deriving DecidableEq, Repr

/-- The cold-reset state of an output (Table 18.2); none for an input. -/
def Pin.coldState : Pin → Option PinState
  | .keepOk => some .low
  | .thermtripN => some .highZ
  | .clkmon => some .low
  | .flSck => some .low
  | .flCsN => some .high
  | .flDq _ => some .highZ
  | .flResetN => some .low
  | .i3cSda => some .highZ
  | .tdo => some .highZ
  | .ringTx _ => some .idle
  | .peTx => some .idle
  | _ => none

/-- The outputs that the firmware drives, by the interfaces it runs (DEDUCED, log entry 54), each with a number. -/
def Pin.firmNo : Pin → Option Nat
  | .flSck => some 0
  | .flCsN => some 1
  | .flResetN => some 2
  | .i3cSda => some 3
  | .flDq i => some (4 + i.val)
  | _ => none

/-- The level of an output that the firmware drives: free at each instant, and held while Steading is down (R410; log entry 5). -/
def State.firmLevel (s : State) (n : Nat) : PinState :=
  if (Config.freeByte (if s.start.steadingDown then s.start.pinsAt else s.now) n).getLsbD 0 then .high else .low

/-- CLKMON: low until Steading boot ends, for a divider or code that gives no output, for a stopped source, and for a result above 200 MHz;
else the clock that CLK_MON.sel names, divided by 2^div (R403). -/
def State.clkmon (s : State) : PinState :=
  let div := s.getF F.clkMon_div
  let khz := s.monKhz (s.getF F.clkMon_sel)
  if !s.start.bootDone || div = 0 || decide (16 < div) || khz = 0 || decide (200000 * 2 ^ div < khz) then .low
  else .clock (1000 * khz / 2 ^ div)

/-- What an output pin does now; none for an input, and for an output whose signal no rule of the spec gives (a link that sends, TDO).
KEEP_OK and THERMTRIP_N follow rules of their own (R496 to R500, R533). A warm reset changes no level of the standby bank (R410). -/
def State.pinState (s : State) (p : Pin) : Option PinState :=
  if p = .keepOk then some (if s.onF F.pwrKeep_keep_ok then .high else .low)
  else if p = .thermtripN then some (if s.start.therm then .low else .highZ)
  else if p = .clkmon then some (if s.start.loading then .low else s.clkmon)
  else if p = .tdo ∧ s.jtagReset then some .highZ
  else if p = .flResetN ∧ s.start.loading ∧ !s.heldInReset then some .high
  else if s.start.loading then p.coldState else p.firmNo.map s.firmLevel

/-- PRESENT_N is tied to VSS in the package: a high level marks an empty socket (R543). -/
def presentN : PinState := .low

end Sys2Proof.Machine
end

