-- ==== Sys2Proof/Tests/Slice0.lean ====
section
/-! SUPPORT. Tests: the WellFormed smoke, a witness for the hypotheses of each statement, and small tests of commands against
values worked out from the spec. -/

open Sys2Proof Sys2Proof.Machine

namespace Sys2Proof.Tests

set_option Elab.async false

/-! ## States for the tests -/

/-- A state with fields set. -/
def fs (l : List (Fld × Nat × Nat)) (s : State) : State := l.foldl (fun s e => s.putF e.1 e.2.1 e.2.2) s

/-- A part that is ready. -/
def base : State := fs [(F.stdBoot_stage, 0, 7), (F.stdBoot_minimal, 0, 0)]
  { start := { loading := false, steadingDown := false, bootDone := true, configured := true } }

/-- A ready part whose queue pair 3, of 16 entries, has one entry to take. -/
def pair : State := { fs [(F.hstQcfg_enable, 3, 1), (F.hstQcfg_sq_log, 3, 4), (F.hstQcfg_cq_log, 3, 4)] base with sqTails := [(3, 1)] }

/-- A V stage on cell 1. -/
def vStage : Stage := { cell := 1, kind := kV, opCount := 1, startNs := 300, finishNs := 1000, raw := List.replicate 256 0 }

/-- A part in the run of a tick, whose program 0 has the one stage on cell 1. -/
def work : State := { base with
  ctl := { progs := [(0, { state := .active, img := { stages := [vStage] } })] }
  cells := [(1, { job := some 0 })]
  tick := { running := true } }

/-- The stage has started. -/
def begun : State := { work with cells := [(1, { job := some 0, started := some 300, doneOps := [0] })] }

/-- A part that shares the ring: ports 0 and 1 hold take, and another part is the timekeeper. -/
def ringed : State := fs [(F.lnkStat_state, 0, 3), (F.lnkStat_state, 1, 3), (F.lnkStat_take, 0, 1), (F.lnkStat_take, 1, 1),
  (F.lnkRing_row_len, 0, 3), (F.lnkRing_keeper, 0, 1), (F.lnkRing_is_keeper, 0, 0)] work

/-! ## WellFormed: one ill-formed command for each check, and exec refuses it -/

def illFormed : List Instr := [
  .clockRampStep 60, .d2dLaneFailed 0 1024, .d2dLaneFailed 4 512, .flailOpComplete 0 192 0, .loadq 0 { w0 := 0xC01 } [] true,
  .score 0 { w0 := 0xC02 } [] true, .loadq 0 { w0 := 2 } [] true, .topk 0 { w0 := 0xC03 } [], .requant 0 { w0 := 0xC04 } [], .scrub 0 { w0 := 0xC05 } [] true,
  .frag 0 { w0 := 0xC06 } [], .limitWordWrite { cap := 799 }, .limitWordWrite { cap := 800, duty := [(0, 17)] },
  .limitWordWrite { cap := 800, flail := [(0, 9)] }, .sentinelReading [⟨2575, 0⟩] none 0 0,
  .memoryAccess .rake (.hubStore 12 0) 8 none [] 0, .bankRefresh 0 192 true, .channelRetrainDone 0 [304] 0, .wireFailed 0 344,
  .keepCheck [⟨1023, 0⟩] [] false 0, .keepCheck [⟨2576, 0⟩] [] false 0, .housekeepingRound { temps := [⟨2640, 0⟩] } 0, .sensorReturn 2640,
  .maintenanceWindow 0 (some { power := 0, duty := [(0, 0)] })]

theorem test_ill_formed : illFormed.all (fun c => !c.wellFormed) = true := by decide +kernel
/-- The outcome is the refusal of an ill-formed command. -/
def isRefused : Host.Outcome State Fault Refusal → Bool
  | .refused .illFormed => true
  | _ => false
theorem test_ill_formed_refused : illFormed.all (fun c => isRefused (exec c State.reset)) = true := by decide +kernel

/-! ## Witnesses: states that meet the hypotheses of the statements -/

theorem witness_AStepCarriesOutTheFrontCommand :
    ({ State.reset with pending := [.bucketLeak] } : State).pending = .bucketLeak :: [] ∧ State.reset.pending = [] := ⟨rfl, rfl⟩
theorem witness_NoCommandTouchesTheQueue : ∃ t, exec .bucketLeak State.reset = .next t := ⟨_, rfl⟩
theorem witness_OnlyIllFormedCommandsStop : Instr.bucketLeak.wellFormed = true ∧ (Instr.sensorReturn 2640).wellFormed = false := by decide +kernel
theorem witness_AWellFormedQueueRunsOut : ({ State.reset with pending := [.bucketLeak, .sensorReturn 2639] } : State).queueOk = true := by
  decide +kernel
theorem witness_EveryStepKeepsMemoriesCanonical :
    State.reset.memoriesOk = true ∧ ∃ t, step { State.reset with pending := [.bucketLeak] } = .next t := ⟨by decide +kernel, _, rfl⟩

theorem witness_DoorbellsMoveTheQueues :
    (pair.doorbellsOpen = true ∧ pair.rings 0 3 = true ∧ (15 : Nat) % 65536 < pair.sqSize 3 ∧ pair.sqSize 3 ≤ 16 % 65536 ∧ pair.rings 1 3 = false ∧
      State.reset.doorbellsOpen = false ∧ pair.onF F.hstEvqCfg_enable = false ∧
      pair.cqUsed 3 < (1 % 65536 + pair.cqSize 3 - tget 0 pair.cqHeads 3) % pair.cqSize 3) ∧
    (let s := fs [(F.hstQstat_cq_tail, 3, 2)] pair;
      s.rings 0 3 = true ∧ 2 % 65536 < s.cqSize 3 ∧ (2 + s.cqSize 3 - tget 0 s.cqHeads 3) % s.cqSize 3 ≤ s.cqUsed 3 ∧
      (∀ e ∈ s.heldCq, e.1 ≠ 3) ∧ s.cqSize 3 ≤ 16 % 65536) ∧
    (let s := fs [(F.hstEvqCfg_enable, 0, 1), (F.hstEvqCfg_log, 0, 4), (F.hstEvqStat_tail, 0, 1)] base;
      s.doorbellsOpen = true ∧ s.onF F.hstEvqCfg_enable = true ∧ 1 < 2 ^ s.getF F.hstEvqCfg_log ∧
      (1 + 2 ^ s.getF F.hstEvqCfg_log - s.getF F.hstEvqStat_head) % 2 ^ s.getF F.hstEvqCfg_log ≤
        (s.getF F.hstEvqStat_tail + 2 ^ s.getF F.hstEvqCfg_log - s.getF F.hstEvqStat_head) % 2 ^ s.getF F.hstEvqCfg_log ∧
      2 ^ s.getF F.hstEvqCfg_log ≤ 16 ∧
      (s.getF F.hstEvqStat_tail + 2 ^ s.getF F.hstEvqCfg_log - s.getF F.hstEvqStat_head) % 2 ^ s.getF F.hstEvqCfg_log <
        (2 + 2 ^ s.getF F.hstEvqCfg_log - s.getF F.hstEvqStat_head) % 2 ^ s.getF F.hstEvqCfg_log) := by decide +kernel

theorem witness_EnablingIsChecked :
    (base.queueBlockOpen (some 0) 3 = true ∧ base.pairOn 3 = false ∧ bitOf 0x43 0 = true ∧ 1 ≤ bitsOf 0x43 1 5 ∧ bitsOf 0x43 1 5 ≤ 16 ∧
      1 ≤ bitsOf 0x43 6 5 ∧ bitsOf 0x43 6 5 ≤ 16 ∧ base.getF F.hstSqBase_addr 3 % 4096 = 0 ∧ base.getF F.hstCqBase_addr 3 % 4096 = 0 ∧
      (∀ e ∈ base.heldCq, e.1 ≠ 3)) ∧
    (bitOf 0x41 0 = true ∧ bitsOf 0x41 1 5 = 0 ∧ bitOf 0x63 0 = true ∧ 16 < bitsOf 0x63 1 5) ∧
    (pair.queueBlockOpen (some 0) 3 = true ∧ pair.pairOn 3 = true ∧ bitOf 0x42 0 = false) ∧
    (base.writes .host R.hstEvqCfg.off = true ∧ bitOf 9 0 = true ∧ 4 ≤ bitsOf 9 1 5 ∧ bitsOf 9 1 5 ≤ 16 ∧ bitsOf 7 1 5 < 4 ∧
      16 < bitsOf 35 1 5) := by decide +kernel

theorem witness_OwnersChangeWhileDisabled :
    (base.writes .host R.hstQown.off = true ∧ base.pairOn (base.sel .host F.hstQsel_queue) = false) ∧
    (let s := fs [(F.hstQsel_queue, 0, 3)] pair;
      s.writes .host R.hstQown.off = true ∧ s.pairOn (s.sel .host F.hstQsel_queue) = true) := by decide +kernel

theorem witness_CommandsWaitForTheEdge :
    (pair.takes 3 = true ∧ pair.owner 3 = 0 ∧ base.takes 3 = false) ∧
    (let s := fs [(F.hstQown_function, 3, 1)] pair;
      s.takes 3 = true ∧ s.owner 3 ≠ 0) := by decide +kernel

theorem witness_AFeedJoinsItsStreamsQueue :
    let s := { pair with ctl := { streams := [(7, { isOpen := true, epoch := 1 })] } };
    s.takes 3 = true ∧ s.ctl.waiting.any (Waiting.isFor 7 (s.owner 3)) = false ∧ s.live 7 1 = true ∧ (s.stream 7).fn = s.owner 3 ∧
    (s.stream 7).ended = false ∧ (s.stream 7).genEnd ≠ 2 ∧ (s.stream 7).feeds.length < 16 ∧
    s.feedStatus (s.owner 3) 7 1 1048577 ≠ 0 ∧ s.feedStatus (s.owner 3) 7 1 0 = 0 ∧ base.takes 3 = false ∧
    (let u := { s with ctl := { s.ctl with waiting := [.close { q := 3, cid := 0, sqHead := 0 } 0 7 1] } };
      u.takes 3 = true ∧ u.ctl.waiting.any (Waiting.isFor 7 (u.owner 3)) = true) := by decide +kernel

theorem witness_TheWindowReadsAndWritesDeviceMemory :
    (let s := fs [(F.stdBoot_minimal, 0, 1)] base;
      s.windowShut = true ∧ (s.perstOn || s.start.loading) = false) ∧
    (State.reset.windowShut = true ∧ (State.reset.perstOn || State.reset.start.loading) = true) ∧
    (base.windowShut = false ∧ base.winAddr 64 4 = some 64 ∧ base.addrError 64 4 = false ∧ base.errResponse 64 4 = false ∧
      base.mustWait { base.windowAcc 64 4 none with no := base.arrivals } = false ∧
      base.mustWait { base.windowAcc 64 4 (some (leBytes 4 5)) with no := base.arrivals } = false ∧
      (∀ w ∈ base.wordsTouched 64 4, base.wordErr w = 0) ∧ ∀ e ∈ base.chans, ∀ o ∈ e.2.owed, o.2 < 8) ∧
    (let s := fs [(F.vccStat_state, 0, 2)] base;
      s.windowShut = false ∧ s.winAddr 64 4 = some 64 ∧ s.mustWait { s.windowAcc 64 4 none with no := s.arrivals } = true) := by
  decide +kernel

theorem witness_HostMemoryErrorsAreCounted :
    pair.pairOn 3 = true ∧ pair.takes 3 = true ∧ (2 : Nat) ≠ 1 ∧
    (let s := { pair with ctl := { streams := [(7, { isOpen := true })] } };
      (s.stream 7).isOpen = true ∧ (s.stream 7).ended = false) := by decide +kernel

theorem witness_AFunctionLevelResetDisablesItsPairs : base.start.loading = false ∧ (1 : BitVec 6) ≠ 0 := by decide +kernel

theorem witness_AChuteChannelStartsAndStops :
    (base.writes .host R.chuCtl.off = true ∧ base.chuteRuns (base.sel .host F.chuSel_channel) = false ∧ base.onF F.chuErr_valid = false ∧
      base.onF F.chuHead_dev (base.sel .host F.chuSel_channel) = false) ∧
    (let s := fs [(F.chuStat_running, 0, 1)] base;
      s.writes .host R.chuCtl.off = true ∧ s.chuteRuns (s.sel .host F.chuSel_channel) = true) ∧
    base.writes .host R.chuErr.off = true := by decide +kernel

/-- Chute channel 2 holds the last descriptor of a chain, of the given length, from host address 0x100 to device address dst. -/
def chuteHas (dst len : Nat) : State := fs [(F.chuStat_running, 2, 1), (F.chuDesc1_word, 2, 0x100), (F.chuDesc2_word, 2, dst),
  (F.chuDesc3_word, 2, len + 10 * 2 ^ 32)] base

theorem witness_AChuteDescriptorMovesItsBytes :
    (let s := fs [(F.chuDesc3_word, 2, 8)] (chuteHas 0x200 8);
      let d := Desc.parse (s.chuteHolds 2);
      s.chuteRuns 2 = true ∧ s.chuteMayMove 2 d = true ∧ d.wb = 0 ∧ d.irq = false ∧ (s.chute 2).owedResults = [] ∧ s.rejects 2 d = true) ∧
    (let s := chuteHas (1023 * 2 ^ 31 + 0x60000000 - 256) 256;
      let d := Desc.parse (s.chuteHolds 2);
      s.chuteRuns 2 = true ∧ s.chuteMayMove 2 d = true ∧ d.wb = 0 ∧ d.irq = false ∧ (s.chute 2).owedResults = [] ∧ s.rejects 2 d = false ∧
      d.last = true ∧ d.srcDev = false ∧ d.dstDev = true ∧ isPhys d.dst = true ∧ 1 ≤ d.len ∧ d.len = 256 ∧
      s.addrError d.dst d.len = false ∧ s.errResponse d.dst d.len = false ∧ (∀ w ∈ s.wordsTouched d.dst d.len, s.wordErr w = 0)) := by
  decide +kernel

theorem witness_TheEdgeAdvancesTheCount :
    let s : State := { work with tick := { running := true, windowOpen := true } };
    s.tick.running = true ∧ s.tick.held = false ∧ s.tick.windowOpen = true ∧ s.tick.deferred = false ∧ s.tick.lateParts = [] ∧
    ({ s.tick with deferred := true, newEdge := some 0 } : TickSt).newEdge.isSome = true ∧
    s.edgeFalls ≤ 99980 + 20 ∧ s.ring.pauseNext = false ∧ s.ring.realignTo = none ∧ s.getF F.pwrStat_state ≠ 1 ∧
    s.getF F.pwrStat_state ≠ 3 ∧ s.start.warmReset = false := by decide +kernel

theorem witness_AStageStartsWithItsFirstInput :
    (let s := { work with cells := [(1, { job := some 0, rowsIn := [{}] })] };
      (s.cell 1).job = some 0 ∧ s.stageOf 1 = some (0, vStage) ∧ s.tick.running = true ∧ s.tick.windowOpen = false ∧
      (s.cell 1).started = none ∧ (s.cell 1).stopped = false ∧ (s.cell 1).inReset = false ∧ 299 < s.startAt vStage ∧ s.startAt vStage ≤ 300 ∧
      (s.cell 1).rowsIn ≠ [] ∧ vStage.kind ≠ kA ∧ vStage.kind ≠ kG ∧ vStage.kind ≠ kL ∧
      (∀ i, i < vStage.opCount → vStage.e i 0 1 ≠ 2) ∧ s.entryReady 0 1 vStage 0 = false ∧
      (s.cell 1).doneOps = [] ∧ (s.cell 1).memHeld = none ∧ (s.cell 1).flailSince = []) ∧
    (let g : Stage := { vStage with kind := kM, opCount := 2 };
      let s : State := { work with
        ctl := { progs := [(0, { state := .active, img := { stages := [g] } })] }, cells := [(1, { job := some 0, rowsIn := [{}] })] };
      (s.cell 1).job = some 0 ∧ s.stageOf 1 = some (0, g) ∧ s.startAt g ≤ 300 ∧ g.kind ≠ kV ∧ s.entryReady 0 1 g 0 = false ∧
      (s.cell 1).finished = none ∧ 0 < g.opCount ∧ (s.prog 0).invalid = false ∧ ∃ r ∈ (s.cell 1).rowsIn, r.hdr.empty = false) := by decide +kernel

theorem witness_AStageFinishRecordsTheMargin :
    (begun.cell 1).job = some 0 ∧ begun.stageOf 1 = some (0, vStage) ∧ begun.tick.running = true ∧ begun.tick.windowOpen = false ∧
    (begun.cell 1).finished = none ∧ (begun.cell 1).stopped = false ∧ (begun.cell 1).inReset = false ∧
    (begun.cell 1).started.isSome = true ∧ (begun.cell 1).doneOps.length = vStage.opCount ∧ begun.tick.edgeAt ≤ begun.stretchLimit ∧
    begun.stretchLimit ≤ begun.tick.edgeAt + begun.stretchLimit := by decide +kernel

theorem witness_ALateTickIsToldAndEnded :
    (let s := fs [(F.lnkRing_is_keeper, 0, 0)] work;
      s.tick.running = true ∧ s.tick.windowOpen = false ∧ s.unfinished ≠ [] ∧ s.isKeeper = false ∧ s.tick.lateSent = false ∧
      s.tick.edgeAt + s.deadline ≤ s.deadline ∧ s.deadline - 1 < s.tick.edgeAt + s.deadline ∧ s.tick.edgeAt + s.stretchLimit ≤ s.stretchLimit) ∧
    (let s : State := { work with cells := [] };
      (Instr.maintenanceWindow 980000 none).wellFormed = true ∧ s.tick.running = true ∧ s.tick.windowOpen = false ∧ s.unfinished = [] ∧
      s.tick.edgeAt + s.deadline ≤ s.deadline) := by decide +kernel

theorem witness_AnnouncementsMoveTheEdge :
    (ringed.tick.heldJobs = [] ∧ (2, CtlWord.late 0) ∉ ringed.ring.seen ∧ ringed.isKeeper = false ∧
      (2, CtlWord.finish 980000 false [] ) ∉ ringed.ring.seen) ∧
    (let s := fs [(F.lnkRing_is_keeper, 0, 1)] ringed;
      (2, CtlWord.late 0) ∉ s.ring.seen ∧ s.isKeeper = true ∧ (0 : BitVec 32).toNat = s.getF F.tikCount_count % 2 ^ 32 ∧ s.tick.lateParts = []) ∧
    (let s : State := fs [(F.lnkRing_is_keeper, 0, 1)] { ringed with tick := { running := true, lateParts := [2], deferred := true } };
      s.tick.heldJobs = [] ∧ s.isKeeper = true ∧ s.tick.newEdge = none ∧ s.tick.reports = [] ∧ s.tick.finishes = [] ∧
      s.tick.lateParts = [2] ∧ 985000 + s.windowNs ≤ 6000000 ∧ 1 ≤ 985000 + s.windowNs ∧ s.takePorts ≠ [] ∧
      s.now < s.tick.edgeAt + s.deadline + 900 ∧ s.tick.edgeAt + s.deadline + 900 ≤ ({ s with now := 1000000 } : State).now) ∧
    (let w : EdgeWord := { newEdge := 10100 };
      (edgeSender w (ringed.getF F.lnkRing_keeper), CtlWord.edge w) ∉ ringed.ring.seen ∧ w.overrun = false ∧ w.newEdge ≠ 0 ∧
      ringed.replayDue = false ∧ w.raise = none) ∧
    (({} : EdgeWord).overrun = false ∧ ({} : EdgeWord).newEdge = 0 ∧ ({} : EdgeWord).pause = false ∧ ({} : EdgeWord).pauseEnds = false ∧
      ({} : EdgeWord).raise = none) ∧
    ({ overrun := true } : EdgeWord).overrun = true ∧
    (let r : RaiseWord := { part := 2, us := 3, target := some 9 };
      (edgeSender { raise := some r } (ringed.getF F.lnkRing_keeper), CtlWord.edge { raise := some r }) ∉ ringed.ring.seen ∧
      r.target = some 9 ∧ r.moved = false ∧ r.part.toNat ≠ ringed.own) := by decide +kernel

/-- A part with cell 1 in a program whose sheaf 1 holds cells 1 and 3, and lets cell 3 stand in. -/
def spared : State := (fs [(F.celTick_late_run, 1, 16)] { work with
  ctl := { progs := [(0, { state := .active, img := { stages := [{ vStage with sheaf := 1 }]
                                                      sheafs := [{ id := 1, policy := 0x700000 + 0xFFF, members := [1, 3] }] } })] } }).setUsable 3 true
theorem witness_ASlowCellIsRepairedOrRaises :
    (work.stageOf 1 = some (0, vStage) ∧ work.getF F.celTick_late_run 1 < 16) ∧
    (let s := fs [(F.celTick_late_run, 1, 16)] work;
      16 ≤ s.getF F.celTick_late_run 1 ∧ s.spareOf 0 vStage 1 = none ∧
      s.getF F.tikPeriod_us + max 1 (ceilDiv (s.cell 1).worstLate 1000) ≤ 1000) ∧
    16 ≤ spared.getF F.celTick_late_run 1 ∧ spared.spareOf 0 { vStage with sheaf := 1 } 1 = some 3 ∧
    spared.stageOf 1 = some (0, { vStage with sheaf := 1 }) := by decide +kernel

theorem witness_ACommitCapturesWhatDiffers :
    (base.reaches .host R.tikCmt.off = true ∧ base.reaches .steading R.tikCmt.off = true ∧ base.start.warmReset = false ∧ base.commit = none) ∧
    ({ base with commit := some {} } : State).commit.isSome = true := by decide +kernel

/-- A ready part whose configuration passes every check of a commit. -/
def good : State := fs [(F.rstWdt_ms, 0, 1000), (F.pwrCap_w, 0, 3600), (F.thmPlace_stook_w, 0, 100), (F.thmPlace_span_w, 0, 1000)] base
theorem witness_AFailedCommitLeavesBothCopies :
    (let s : State := { good with commit := some {} };
      s.commit = some {} ∧ (s.at_ 0).commitChecks {} = none) ∧
    (let c : CommitSt := { captured := [(regKey R.tikPeriod 0, 0)] };
      ({ good with commit := some c } : State).commit = some c ∧ (({ good with commit := some c } : State).at_ 0).commitChecks c ≠ none ∧
      c.align = false ∧ good.ring.alignValues = none) := by decide +kernel

theorem witness_StagedCopiesAreWrittenAndReverted :
    (R.tikPeriod ∈ stRegs ∧ R.tikPeriod.off / 8 * 8 = R.tikPeriod.off ∧ 0 = base.shownInst .host R.tikPeriod ∧ 0 < instances R.tikPeriod.shown ∧
      Requester.host ≠ .i3c ∧ accessOk R.tikPeriod.off 8 = true ∧ base.reaches .host R.tikPeriod.off = true) ∧
    base.reaches .host R.tikStg.off = true := by decide +kernel

theorem witness_TheCapFollowsTheGovernor :
    (({ cap := 3600 } : LimitWords).ok = true ∧ ({ cap := 800 } : LimitWords).ok = true ∧ base.start.steadingDown = false) ∧
    (let s : State := { base with heat := { base.heat with capTarget := base.capNext + 1 } };
      s.onF F.pwrStat_fallback = false ∧ s.tick.fallbackNext = false ∧ s.capNext < s.heat.capTarget) ∧
    (let s : State := { base with tick := { updatesAgo := 64 } };
      64 ≤ s.tick.updatesAgo ∧ s.tick.govWrote = false ∧ ({ s.tick with govWrote := true } : TickSt).govWrote = true ∧ s.onF F.pwrStat_fallback = false ∧ s.tick.fallbackNext = false) ∧
    (let s := opGovernorSilent { base with tick := { updatesAgo := 64 } };
      s.tick.fallbackNext = true ∧ s.tick.govWrote = false ∧ s.tick.limits = some { cap := 800 }) ∧
    base.tick.updatesAgo < 64 ∧ base.heat.capTarget ≤ base.capNext := by decide +kernel

theorem witness_MarkersAndCandidatesAreCarriedOn :
    (ringed.isKeeper = false ∧ ringed.ring.markerSeen ≠ some 0 ∧ (0 : BitVec 32).toNat = ringed.getF F.tikCount_count % 2 ^ 32 ∧
      (1 : BitVec 32).toNat ≠ ringed.getF F.tikCount_count % 2 ^ 32 ∧ ringed.tick.running = true) ∧
    (let s : State := { ringed with ring := { missedMarkers := 3 } };
      s.isKeeper = false ∧ s.ring.electing = false) ∧
    (let s := fs [(F.lnkCfg_prio, 0, 2)] ringed;
      candNo 1 1023 < candNo s.bestCand.1 s.bestCand.2 ∧ candNo s.bestCand.1 s.bestCand.2 < candNo 2 1) := by decide +kernel

/-- The timekeeper's part, with a ring commit under way. -/
def keeping : State := fs [(F.lnkRing_is_keeper, 0, 1)] { ringed with ring := { commit := some { target := 4 } } }
theorem witness_RingCommitsAndDigestsAreCarriedOn :
    (ringed.commit = none ∧ (2, CtlWord.commit { part := 2, phase := .announcement }) ∉ ringed.ring.seen ∧ ringed.ring.commit = none ∧
      ringed.isKeeper = false ∧ ringValue { part := 2, phase := .submission, value := some (100, 20, 10, 0) } = some (100, 20, 10)) ∧
    ({ ringed with ring := { commit := some {} } } : State).ring.commit = some {} ∧
    (fs [(F.lnkRing_is_keeper, 0, 1)] ringed).isKeeper = true ∧
    (keeping.isKeeper = true ∧ keeping.ring.commit = some { target := 4 } ∧ keeping.edgesTo { target := 4 } ≤ 4) ∧
    (let r : RingCommit := { target := 2 ^ 28 + 4, result := some 0 };
      let w : RingWord := { part := 2, phase := .request, target := 4 };
      let s : State := { keeping with ring := { commit := some r } };
      s.isKeeper = true ∧ s.commit = none ∧ s.ring.commit = some r ∧ r.result = some 0 ∧ w.target ≠ 0 ∧ r.target % 2 ^ 28 = w.target.toNat) ∧
    (2, CtlWord.digest 9 []) ∉ ringed.ring.seen := by decide +kernel

/-- Port 0 has sent two envelopes that nobody has acknowledged. -/
def sentTwo : State := { ringed with ports := [(0, { replay := [({ seq := 5 }, 6), ({ seq := 6 }, 0)], credits := 1 }), (1, { credits := 1 })] }
theorem witness_TheReplayBufferFollowsTheHop :
    findIdx? (fun e => e.1.seq == (5 : BitVec 16)) (sentTwo.port 0).replay = some 0 ∧
    findIdx? (fun e => e.1.seq == (6 : BitVec 16)) (sentTwo.port 0).replay = some 1 ∧ (sentTwo.port 0).waiting = [] ∧
    sentTwo.portCarries 0 = true ∧ (∀ e ∈ (sentTwo.port 0).replay.drop 0, e.2 < 7) := by decide +kernel

/-- An envelope with its right CRC, for part 1. -/
def sealed (e : Envelope) : Envelope := { e with crc := crc32 (envBytes e) }
theorem sealed_ok (e : Envelope) : envOk (sealed e) = true := by simp [envOk, sealed, envBytes]
def envelope : Envelope := sealed { dstPart := 1, sheaf := 9 }
theorem witness_AnEnvelopeIsAcknowledgedOrAskedForAgain :
    ((1 ≠ 0 ∨ envOk envelope = false) ∧ (sentTwo.port 0).newRun envelope = true) ∧
    (32768 ≤ (sentTwo.port 0).past { envelope with seq := 0xFFFF }) ∧
    ((sentTwo.port 0).past envelope = 0 ∧ envelope.dstPart.toNat ≠ sentTwo.own ∧
      sentTwo.portCarries (opposite 0) = true ∧ 0 < (sentTwo.port (opposite 0)).credits ∧ (sentTwo.port (opposite 0)).replay.length < 512) ∧
    (envelope.dstPart.toNat = (fs [(F.lnkRing_own, 0, 1)] sentTwo).own ∧ (sentTwo.sheaf 9).inUse = false) := by decide +kernel

theorem witness_PlanesAreTakenAndReleased :
    ((2, CtlWord.take 0) ∉ ringed.ring.seen ∧ ringed.tick.held = false ∧ (2, CtlWord.release 0) ∉ ringed.ring.seen) ∧
    (let s := fs [(F.lnkRing_row_len, 0, 3), (F.lnkRing_col_len, 0, 3)] base;
      s.mayTake 0 = true ∧ s.bypassedTo 0 1 ≤ 2 ∧ s.bypassedTo 0 3 = 2 ∧ s.bypassedTo 1 3 ≤ 2) ∧
    (let s := fs [(F.pwrStat_state, 0, 1)] base;
      s.getF F.pwrStat_state = 1 ∧ s.start.stopAt + 1000000 ≤ 1000000 ∧ 999999 < s.start.stopAt + 1000000) ∧
    (let s : State := { fs [(F.pwrStat_state, 0, 3)] base with keep := { entryAt := some 7 } };
      s.getF F.pwrStat_state = 3 ∧ s.keep.entryAt = some 7) ∧
    base.getF F.pwrStat_state = 0 ∧
    (let s : State := { ringed with ring := { parts := [1, 2], pauseWaits := [{ part := 2, plane := 0 }] } };
      2 ∈ s.ring.parts ∧ (2, CtlWord.release 0) ∉ s.ring.seen ∧ (s.memberGone [0] 2).neighbours 2 0 ≠ []) := by decide +kernel

theorem witness_PortsGoDownAndRetrain :
    (base.writes .host R.lnkCtl.off = true ∧ 0 = base.sel .host F.lnkSel_port ∧ base.heldPlanes.contains (portPlane 0) = false ∧
      base.onF F.lnkCtl_reset (opposite 0) = false) ∧
    (ringed.writes .host R.lnkCtl.off = true ∧ ringed.heldPlanes.contains (portPlane 0) = true ∧ ringed.ring.releasing.contains (portPlane 0) = false) ∧
    (ringed.portUp 0 = true ∧ ringed.portUp 2 = false ∧ ringed.getF F.lnkCfg_ser_limit < 4097) ∧
    (let s := fs [(F.lnkStat_state, 0, 5), (F.lnkRing_row_len, 0, 3)] base;
      s.lnk 0 = lnkDown ∧ s.bypassedTo 0 1 ≤ 2 ∧ s.mayJoin 0 = true ∧ (s.port 0).retraining = false) ∧
    (ringed.portUp 0 = true ∧ ringed.mayJoin 0 = true ∧
      ({ ringed with ports := [(4, { retraining := true })] } : State).mayJoin 0 = false ∧
      (({ ringed with ports := [(0, { retraining := true })] } : State).port 0).retraining = true) ∧
    (ringed.tick.windowOpen = false ∧ ringed.isKeeper = false ∧ ringed.slowHop .row = false ∧ (work.prog 0).state = .active) ∧
    (let s : State := fs [(F.lnkRing_is_keeper, 0, 1), (F.lnkStat_state, 0, 4)] ringed;
      s.isKeeper = true ∧ s.slowHop .row = true ∧ max 1000 (maxList (s.ring.lateLog.getD (ringOf .row) [])) = 1000 ∧
      max 0 (maxList (s.ring.lateLog.getD (ringOf .row) [])) = 0 ∧ s.ringStages (ringOf .row) = [] ∧
      s.getF F.tikPeriod_us + max 1 (ceilDiv 1000 1000) ≤ 1000) := by
  decide +kernel

theorem witness_FlitsAndLanesOfALink :
    (let s := fs [(F.d2dStat_state, 4, 1)] base;
      let d := (s.link 4).dir false;
      s.getF F.d2dStat_state 4 = 1 ∧ (List.replicate 256 (0 : Byte)).length = 256 ∧ d.past 0 = 0 ∧ d.past 0xFFFF ≠ 0 ∧
      65536 - s.flitWindow 4 ≤ d.past 0xFFFF ∧ d.past 1 ≠ 0 ∧ d.past 1 < 65536 - s.flitWindow 4) ∧
    ((({ base with links := [(4, { forth := { resends := 16 } })] } : State).link 4).spent 0 = some false ∧
      (({ base with links := [(4, { back := { resends := 16, seq := 5 } })] } : State).link 4).spent 5 = some true ∧
      (base.link 4).spent 0 = none) ∧
    (let s : State := { base with links := [(4, { parity := [(511, 17)] })] };
      511 < dataLanes 4 ∧ 511 ∉ (s.link 4).toSpare ∧ 511 ∉ (s.link 4).failed ∧ s.laneLimit 4 < tget 0 (s.link 4).parity 511 ∧
      tget 0 (s.link 4).parity 510 ≤ s.laneLimit 4 ∧
      s.getF F.d2dStat_spares 4 + (s.link 4).toSpare.length < spareLanes 4 ∧ s.ready = true) ∧
    (work.tick.windowOpen = false ∧ work.stageOf 1 = some (0, vStage)) := by decide +kernel

theorem witness_LinksTrainAndReset :
    (base.writes .host R.d2dCtl.off = true ∧ 0 = base.sel .host F.d2dSel_link ∧ base.onF F.d2dCtl_reset 0 = false ∧
      base.getF F.d2dStat_state 0 ≠ 2 ∧ base.accWait = [] ∧ base.rowsAcross 0 = []) ∧
    (let s := fs [(F.d2dCtl_reset, 0, 1)] base;
      s.onF F.d2dCtl_reset 0 = true ∧ s.getF F.d2dStat_state 0 ≠ 2) ∧
    (base.getF F.stdBoot_stage ≠ 8 ∧ (fs [(F.stdBoot_stage, 0, 8)] base).getF F.stdBoot_stage = 8) ∧
    max (fieldGet 0x310000 16 4) (fieldGet 0x330000 16 4) ≤ min (fieldGet 0x310000 20 4) (fieldGet 0x330000 20 4) := by decide +kernel

theorem witness_RowsAreKeptDroppedOrLost :
    (work.stageOf 1 = some (0, vStage) ∧ work.tick.windowOpen = false ∧ (work.cell 1).inReset = false ∧ (work.cell 1).stopped = false ∧
      (work.cell 1).finished = none ∧ work.staleRow { hdr := { empty := true } } = false ∧ (∀ d ∈ 1 :: work.served 1, work.works d = false) ∧
      (work.cell 1).job.isSome = true ∧ work.rowBlocked 1 { hdr := { empty := true } } = none) ∧
    (let s := fs [(F.d2dStat_wrapper, 4, 1)] work;
      s.rowBlocked 1 { hdr := { src := 256 } } = some 4 ∧ s.stageOf 1 = some (0, vStage) ∧ (s.cell 1).job.isSome = true) ∧
    (({ work with cells := [] } : State).cell 1).job = none ∧
    work.staleRow { hdr := { stream := 7, epoch := 1 } } = true := by decide +kernel

theorem witness_AccessesReadAndWriteDeviceMemory :
    (let a := 1023 * 2 ^ 31 + 0x60000000 - 8;
      isPhys a = true ∧ base.mustWait { reader := .cell 1, addr := a, len := 8, since := 0 } = false ∧ base.addrError a 8 = false ∧
      base.accessErr { reader := .cell 1, addr := a } 8 = false ∧ (∀ w ∈ base.wordsTouched a 8, base.wordErr w = 0) ∧
      base.mustWait { reader := .cell 1, addr := a, len := 8, write := some (leBytes 8 5), since := 0 } = false) ∧
    (let s := fs [(F.stdEccCfg_thresh, 0, 2)] base;
      s.getF F.celBkt_level 1 + 1 < s.thresh) := by decide +kernel

theorem witness_RefreshesAreOwedAndBucketsLeak :
    ((base.chan 5).selfRefresh = false ∧ (base.stackSt (stackOf 5)).stopped = false ∧ tget 0 (base.chan 5).owed 191 < 8 ∧
      base.flailAhead 5 191 = false ∧ (base.chan 5).flails = []) ∧
    (∃ f ∈ (({ base with chans := [(5, { flails := [{ banks := [191], running := true }] })] } : State).chan 5).flails,
      f.running = true ∧ 191 ∈ f.banks) ∧
    8 ≤ tget 0 (({ base with chans := [(5, { owed := [(191, 8)] })] } : State).chan 5).owed 191 := by decide +kernel

/-- Channel 5 is in service, and its training settings are set. -/
def serving : State := fs [(F.vccStat_state, 5, 1), (F.vccRetrain_interval_ms, 0, 1000), (F.vccRetrain_delta_c, 0, 10)] base
theorem witness_ChannelsRetrain :
    (serving.chanState 5 ≠ vccRetired ∧ (serving.chan 5).want = false ∧
      (serving.chan 5).lastTrainAt + serving.getF F.vccRetrain_interval_ms * 1000000 ≤ 1000000000 ∧ serving.retrainDue 5 999999999 = false) ∧
    (let s : State := { serving with chans := [(5, { want := true, retrainStart := some 0 })] };
      (s.chan 5).want = true ∧ (s.chan 5).retrainStart = some 0 ∧ s.chanState 5 ≠ vccHeld ∧
      s.accWait = [] ∧ s.ctl.loads = [] ∧ (∀ e ∈ s.cells, e.2.memHeld = none ∧ e.2.flailSince = []) ∧
      ∀ e ∈ s.chans, ∀ f ∈ e.2.flails, f.running = true) ∧
    (let s : State := { fs [(F.vccStat_state, 5, 2)] base with chans := [(5, { heldSince := some 7, retrainStart := some 0 })] };
      s.chanState 5 = vccHeld ∧ (s.chan 5).heldSince = some 7 ∧ 7 + s.guardNs ≤ 7 + s.guardNs ∧ s.accWait = [] ∧
      s.ctl.loads = [] ∧ (∀ e ∈ s.cells, e.2.memHeld = none ∧ e.2.flailSince = []) ∧ 6 < 7 + s.guardNs) ∧
    (serving.writes .host R.vccCtl.off = true ∧ 0 = serving.sel .host F.vccSel_channel ∧ serving.chanState 0 ≠ vccRetired ∧
      (fs [(F.vccStat_state, 0, 4)] base).chanState 0 = vccRetired) := by decide +kernel

theorem witness_ChannelsFailAndReset :
    (base.writes .host R.vccCtl.off = true ∧ 0 = base.sel .host F.vccSel_channel ∧ base.chanState 0 ≠ vccRetired ∧
      base.onF F.vccCtl_reset 0 = false ∧ (fs [(F.vccCtl_reset, 0, 1)] base).onF F.vccCtl_reset 0 = true) ∧
    (base.writes .host R.vccMargin.off = true ∧ base.onF F.vccMargin_req 0 = false ∧ (fs [(F.vccStat_state, 0, 1)] base).chanState 0 = vccInService ∧
      (fs [(F.vccStat_state, 0, 3)] base).chanState 0 = vccNarrowed) ∧
    ((287 : BitVec 9).toNat < 288 ∧ (304 ≤ (343 : BitVec 9).toNat ∧ (343 : BitVec 9).toNat < 344) ∧ serving.chanState 5 ≠ vccRetired ∧
      0 < (serving.chan 5).sparesLeft ∧ serving.ready = true) := by decide +kernel

theorem witness_ReadingsAreShown :
    (([⟨2576, 0⟩, ⟨2639, -1⟩] : List Reading).map (fun r => r.sensor)).Nodup ∧
    (∀ r ∈ ([⟨2576, 0⟩, ⟨2639, -1⟩] : List Reading), 2576 ≤ r.sensor ∧ r.sensor < 2640) ∧
    (let s : State := { fs [(F.thmSens_suspect, 2639, 1)] base with sensors := [(2639, { agree := 100 })] };
      s.onF F.thmSens_suspect 2639 = true ∧ 100 ≤ (tget {} s.sensors 2639).agree) ∧
    ((fs [(F.thmSens_suspect, 0, 1)] base).onF F.thmSens_suspect 0 = true ∧ (tget {} base.sensors 0).agree < 100) := by decide +kernel

/-- A SCORE of one record of 96 bytes, form 3, that begins 48 bytes before its row: its page 112 bytes before. -/
def splitScore : FlailWords := { w0 := 0x7fe417c03000002, w1 := 1 }
theorem witness_FlailCommandsReachTheirBank :
    (let s : State := { serving with chans := [(5, { flails := [{ op := 2, bank := 9, banks := [9], running := true }] })] };
      s.flailsWork 5 = true ∧ s.accWait = [] ∧ (s.stackSt (stackOf 5)).hotHold = false ∧
      ∀ op ∈ [2, 3, 4, 5, 6],
        let w : FlailWords := { w0 := BitVec.ofNat 64 op };
        w.ok (BitVec.ofNat 4 op) = true ∧ (∀ b ∈ flailBanks 5 op w, tget 0 (s.chan 5).owed b < 8) ∧
        ∀ g ∈ (s.chan 5).flails, g.running = true ∧
          FlailCmd.after { op := op, bank := fwBankNo w, words := w, banks := flailBanks 5 op w } g = false) ∧
    (({ w0 := 1 } : FlailWords).ok 1 = true ∧ (serving.chan 5).flails = []) ∧
    (splitPart 5 { w0 := 2 } = none ∧ (splitPart 5 splitScore).isSome = true ∧ splitScore.ok 2 = true ∧
      (serving.chan 5).hasFrag (fwBankNo splitScore) = false ∧
      tget [] (({ serving with chans := [(5, { frags := [(fwBankNo splitScore, [0])] })] } : State).chan 5).frags (fwBankNo splitScore) ≠ []) ∧
    (∀ op ∈ [1, 2, 3, 4, 5],
      let w : FlailWords := { w0 := BitVec.ofNat 64 op };
      let s : State := { (fs [(F.fllPctl_status, 5, 1)] serving).setReg R.fllPort0 5 w.w0 with tick := { windowOpen := true } };
      s.flailsWork 5 = true ∧ s.getF F.fllPctl_status 5 = 1 ∧ s.tick.windowOpen = true ∧ s.portWords 5 = w ∧
      s.portMayStart 5 op w = true ∧ ({ s with tick := {} } : State).portMayStart 5 op w = false) ∧
    serving.getF F.fllPctl_status 5 ≠ 1 := by decide +kernel

/-- A list of every word that Table 11.3 gives a form, a value at its ends, between them a request whose value follows it. -/
def someWords : List (BitVec 10 × CtlWord) := [
  (1, .marker 7 9), (1023, .marker 0xFFFFFFFF 0x3FFF), (2, .late 0xFFFFFFFF), (3, .edge { newEdge := 0xFFFF, overrun := true, pauseEnds := true }),
  (3, .edge { newEdge := 1, pause := true }), (0, .ack 0xFFFF), (0, .retry 0), (5, .credit 3), (4, .take 3), (4, .release 0),
  (6, .candidate 15 1023), (7, .commit { part := 7, phase := .request, target := 0xFFFFFFF, value := some (1000, 0xFFFF, 31, 0x7FFF) }),
  (7, .commit { part := 7, phase := .announcement, target := 64 }), (7, .commit { part := 7, phase := .submission, code := 0x0301 }),
  (7, .commit { part := 7, phase := .result, code := 0xFFFF })]
theorem witness_ControlWordsAreReadBack : ∀ e ∈ someWords, e.2.worded e.1 = true := by decide +kernel
/-- Two words laid out by hand from R320 and Table 11.3: kind in bits 7 to 0, part in bits 17 to 8, argument above. -/
theorem test_control_words :
    (CtlWord.credit 3).bits 5 = [0xC0506] ∧ (CtlWord.marker 7 9).bits 1 = [0x240000001C0101] ∧
    readWords [0, 0xC0506, 0x240000001C0101] = [(5, .credit 3), (1, .marker 7 9)] := by decide +kernel

/-- IDCODE of both revisions (R530), and the pins left out of boundary scan. -/
theorem test_idcode :
    ({ base with otp := [(0x038, 0xA0)] } : State).idcode = some 0x0D404B47 ∧ ({ base with otp := [(0x038, 0xB0)] } : State).idcode = some 0x1D404B47 ∧
    scanPins.length + 3 = standbyPins.length := by decide +kernel

/-- A flail of channel 5 runs an operation on bank 191. -/
def flailing (op left : Nat) : State :=
  { serving with chans := [(5, { flails := [{ op := op, bank := 191, running := true, left := left }] })], loftErr := [(0, 3)] }
theorem witness_FlailOperationsComplete :
    (∀ op, op < 7 → ∀ left, 1 ≤ left → left < 3 → (flailing op left).accWait = [] ∧ (flailing op left).ctl.loads = [] ∧
      (∀ e ∈ (flailing op left).cells, e.2.memHeld = none ∧ e.2.flailSince = []) ∧
      ((flailing op left).chan 5).flails.find? (fun f => f.running && f.bank == 191) =
        some { op := op, bank := 191, running := true, left := left }) ∧
    (base.writes .host R.fllPctl.off = true ∧ 0 = base.sel .host F.vccSel_channel ∧ base.onF F.fllPctl_go 0 = false ∧
      (fs [(F.fllPctl_go, 0, 1)] base).onF F.fllPctl_go 0 = true) ∧
    (serving.portRefuses 0 (serving.portWords 0) = true ∧
      (let s := (fs [(F.vccStat_state, 0, 1)] base).setReg R.fllPort0 0 5; s.portRefuses 0 (s.portWords 0) = false)) := by decide +kernel

/-! The smallest program that the load checks pass, laid out by hand from the tables of chapters 2 to 7: one V stage, the
residual-free function on cell 1, with its two images in device memory. -/

/-- The bytes of words in ascending address. -/
def bytesOf (ws : List Nat) : List Byte := ws.flatMap (leBytes 8)
/-- The Jofort image. -/
def jImage : List Byte := bytesOf
  ([0x154464F4A, 0x200000040, 0x100000001, 0xD0, 0x40,
    0x80, 0xC0, 0xD0, 0x10200000000, 0x2000000001,
    0, 1, 0x10200000000, 0x2000000001, 0,
    1, 0x101000000000007, 0xFFFFFFFFFFFF0000, 0xFFFFFFFFFFFFFFFF, 0xFFFFFFFFFFFF0001] ++
   [0, 0, 0, 0, 0x1000000000000,
    0])
/-- The schedule image. -/
def sImage : List Byte := bytesOf
  ([0x144484353, 0x260, 0xF3ECD9FD3E42EDE3, 0x1F9375F541C69BCB, 0x35907F3C7BAD55C3,
    0xBD0EF35D44BC884F, 0x100080FA00064, 0x10001, 0x80, 0xC0,
    0x1C0, 0x1D8, 0x1E0, 0x1D8, 1,
    0, 0xFFFF000100000000, 0, 0, 0] ++
   [0, 0, 0, 0, 0x1020001,
    0x100000000, 0x3E800000100, 0, 0x100000000, 0x4000000000,
    0x4000000040, 0xFFFFFFFFFFFF0007, 0x2000010105, 0, 0,
    0, 0, 0, 0, 0] ++
   [0, 0, 0, 0, 0,
    0, 0, 0, 0, 0,
    0, 0, 0, 0, 0,
    0, 1, 0x70001, 0, 1] ++
   [0x3E8, 0x100000000, 0, 0, 0,
    0, 0, 0, 0xDEB9D7C8395231CD, 0xE1E7A0AE6BA0C7F4,
    0x59FD3996B1F552BD, 0x70DEBEB5830EED66, 0, 0, 0,
    0])

/-- The part with the images in device memory, and the entry that loads them. -/
def loadable : State := (({ pair with
  devMem := mblock (mblock [] 0x1000 jImage) 0x2000 sImage, sqTails := [(3, 1)] } : State)).setUsable 1 true
def loadEntry : SubEntry := { opcode := 1, arg0 := 0x1000, arg1 := 208, arg2 := 0x2000, arg3 := 608 }
/-- The state once the entry is taken. -/
def loading : State := ({ loadable with out := [] } : State).take 3

theorem loading_reads_j : loading.readDev 0x1000 208 = jImage := by
  have h1 := mread_mblock_outside (mblock [] 0x1000 jImage) 0x2000 0x1000 208 sImage (by decide)
  have h2 := mread_mblock [] 0x1000 jImage
  rw [show loading.readDev 0x1000 208 = mread (mblock (mblock [] 0x1000 jImage) 0x2000 sImage) 0x1000 208 from rfl, h1]
  exact h2
theorem loading_reads_s : loading.readDev 0x2000 608 = sImage := by
  have h := mread_mblock (mblock [] 0x1000 jImage) 0x2000 sImage
  rw [show sImage.length = 608 by decide +kernel] at h
  exact h
theorem loading_reads (a n : Nat) (h : loading.addrError a n = false ∧ loading.errResponse a n = false ∧ loading.softWords a n = [] ∧
    loading.badWords a n = [] ∧ loading.forceRefreshes a n = loading) : loading.readImage a n = (loading, true) := by
  simp [State.readImage, h.1, h.2.1, h.2.2.1, h.2.2.2.1, h.2.2.2.2]

theorem loading_checks : loadChecks loading jImage sImage 208 608 = none := by decide +kernel
/-- Loads that leave the programs as they are: none taken, a range outside device memory, another function's. -/
theorem witness_ARefusedLoad :
    base.takesLoad 3 = false ∧ loading.rangeBad (2 ^ 50) 208 = true ∧
    ((fs [(F.hstQown_function, 3, 1)] pair).takesLoad 3 = true ∧ (fs [(F.hstQown_function, 3, 1)] pair).owner 3 ≠ 0) := by decide +kernel

theorem witness_ALoadedProgramIsStaged :
    loadable.takesLoad 3 = true ∧ loadable.owner 3 = 0 ∧ loading.imageKept 0x1000 208 = false ∧ loading.imageKept 0x2000 608 = false ∧
    (fs [(F.vccStat_state, 0, 2)] loading).imageKept 0x1000 208 = true ∧ loading.freeJob = some 0 ∧ loading.rangeBad 0x1000 208 = false ∧
    loading.rangeBad 0x2000 608 = false ∧ loading.readImage 0x1000 208 = (loading, true) ∧ loading.readImage 0x2000 608 = (loading, true) ∧
    loadChecks loading (loading.readDev 0x1000 208) (loading.readDev 0x2000 608) 208 608 = none := by
  rw [loading_reads_j, loading_reads_s]
  exact ⟨by decide +kernel, by decide +kernel, by decide +kernel, by decide +kernel, by decide +kernel, by decide +kernel,
    by decide +kernel, by decide +kernel, loading_reads _ _ (by decide +kernel), loading_reads _ _ (by decide +kernel), loading_checks⟩

/-! ## Resets, the start, trust -/

/-- A part in option loading, out of every reset. -/
def starting : State := State.reset
/-- A part whose links have trained and whose memories are being tested. -/
def testing : State := { fs ([(F.stdBoot_stage, 0, 3), (F.stdBoot_minimal, 0, 1)] ++ (List.range 8).map (fun l => (F.d2dStat_state, l, 1))) base with
  start := { loading := false, steadingDown := false, bootDone := true, configured := true } }

theorem witness_AColdResetKeepsTheStandbyDomain :
    (base.start.storm = false ∧ base.start.porstLow = false ∧ base.keep.inKeep = false ∧ base.otpJob = none ∧ base.imgJob = none ∧
      ({ base with keep := { inKeep := true } } : State).keep.inKeep = true ∧ base.onF F.pwrKeep_keep_ok = false ∧
      (fs [(F.pwrKeep_keep_ok, 0, 1)] base).onF F.pwrKeep_keep_ok = true) ∧
    (({ base with start := { porstLow := true } } : State).start.porstLow = true) ∧
    (let s : State := { starting with start := { restartTimes := List.replicate 8 0 } };
      s.start.loading = true ∧ s.recentRestarts 1000000000 = 8 ∧ s.recentRestarts 1000000001 < 8) ∧
    ({ base with start := { storm := true } } : State).start.storm = true ∧
    (Rail.vmem ≠ .vstby ∧ 1139 < (railRange .vmem).1 ∧ (railRange .vstby).2 < 1891 ∧ (railRange .vmem).1 + 10 ≤ 1150 ∧
      1150 + 10 ≤ (railRange .vmem).2 ∧ ({ base with start := { railsLow := [.vmem] } } : State).start.railsLow.contains .vmem = true ∧
      base.start.railsLow.contains .vmem = false) := by decide +kernel

/-- Table 18.2's cold-reset levels, and KEEP_OK low after reset (R533). -/
theorem test_pins_at_reset :
    State.reset.pinState .keepOk = some .low ∧ State.reset.pinState .clkmon = some .low ∧ State.reset.pinState .thermtripN = some .highZ ∧
      Pin.coldState .flCsN = some .high ∧ Pin.coldState .tdo = some .highZ ∧ presentN = .low := by decide +kernel

theorem witness_AWarmResetUnloadsThePrograms :
    work.start.loading = false ∧ work.heldInReset = false ∧ work.keep.inKeep = false ∧ work.start.perstLow = false ∧ work.ready = true ∧
    work.getF F.pwrStat_state ≠ 3 ∧ starting.start.loading = true ∧ starting.start.perstLow = false := by decide +kernel

theorem witness_ResetBitsHoldTheirCells :
    (work.mayReset .host = true ∧ work.mayReset .i3c = false ∧ work.onF (resetHold 0) = false ∧ 0 ∈ work.resetCells 0 (work.getF (resetTarget 0)) ∧
      work.resetCells 1 (work.getF (resetTarget 1)) ≠ []) ∧
    (fs [(F.rstShf_hold, 0, 1)] work).onF (resetHold 2) = true := by decide +kernel

/-- A part that broadcasts one segment. -/
def broadcasting : State := { testing with start := { testing.start with segCount := 1 } }
/-- The frame of the segment, for the V cells. -/
def frameOf (p : List Byte) : Frame := { targets := BitVec.ofNat 8 (2 ^ kV), payload := p, digest := shake256 p 32 }
theorem slice_self (l : List Byte) (n : Nat) (h : l.length = n) : slice l 0 n = l := by simp [slice, ← h]
theorem slice_length (l : List Byte) (o n : Nat) : (slice l o n).length = n := by simp [slice]
/-- The frame is one that the part sends, and its digest is right. -/
theorem witness_frame_sent :
    broadcasting.frameSent (frameOf (broadcasting.tableSeg 0)) = true ∧
    shake256 (slice (frameOf (broadcasting.tableSeg 0)).payload 0 4096) 32 = slice (frameOf (broadcasting.tableSeg 0)).digest 0 32 := by
  have h : slice (shake256 (broadcasting.tableSeg 0) 32) 0 32 = shake256 (broadcasting.tableSeg 0) 32 :=
    slice_self _ _ (shake256_length _ _ (by decide))
  have h2 : slice (broadcasting.tableSeg 0) 0 4096 = broadcasting.tableSeg 0 := slice_self _ _ (slice_length _ _ _)
  have h3 : broadcasting.segSent 0 = none := by decide +kernel
  refine ⟨?_, ?_⟩
  · simp only [State.frameSent, frameOf, show ((0 : BitVec 32).toNat) = 0 from rfl, h, h3]
    simp
    decide +kernel
  · simp only [frameOf, h, h2]

theorem witness_TheStartGoesByItsStages :
    (starting.start.loading = true ∧ starting.heldInReset = false ∧ starting.getF F.pwrStat_state = 0 ∧ starting.recentRestarts 0 < 8 ∧
      starting.start.loadAt ≤ 0 ∧ ({ starting with start := { starting.start with loadAt := 1 } } : State).start.loadAt > 0 ∧
      starting.delayOver 1000000000 = true ∧ starting.delayOver 0 = false) ∧
    (let s : State := { starting with start := { loading := false } };
      s.start.loading = false ∧ s.heldInReset = false ∧ s.start.steadingDown = true ∧ s.start.bootDone = false ∧
      s.onF F.clkXtal_stable = false ∧ s.onF F.clkXtal_fail = false) ∧
    (let s : State := { base with start := { loading := false, steadingDown := true, bootDone := true, configured := true } };
      s.start.loading = false ∧ s.heldInReset = false ∧ s.start.steadingDown = true ∧ s.start.bootDone = true ∧
      s.start.configured = true ∧ s.getF F.stdBoot_stage ≠ 8) ∧
    (let s : State := { fs [(F.stdBoot_stage, 0, 8)] base with start := { loading := false, steadingDown := true, bootDone := true } };
      s.start.bootDone = true ∧ s.getF F.stdBoot_stage = 8) ∧
    (let s := broadcasting;
      s.getF F.stdBoot_stage = 3 ∧ s.start.configured = true ∧ s.targetOn (.cell 1) = true ∧ targetNamed (.cell 1) (frameOf []).targets = true ∧
      (([0] : List (BitVec 32)).map BitVec.toNat).filter (fun k => decide (k < s.start.segCount) &&
        !(tget [] s.start.gotSegs (targetNo (.cell 1))).contains k) ≠ [] ∧
      s.start.steadingDown = false ∧ tget 0 s.start.asked (targetNo (.cell 1)) < 3 ∧ targetNamed (.cell 1) 0 = false ∧
      s.frameSent { frameOf [] with count := 2 } = false ∧ s.stage3Done = false) ∧
    (testing.startGoes = true ∧ testing.start.memTested = false ∧ testing.start.cellsTested = false ∧ testing.getF F.stdBoot_start ≠ 2 ∧
      testing.stage3Done = true ∧ base.startGoes = false ∧
      (let s := fs [(F.stdBoot_stage, 0, 5)] { testing with start := { testing.start with memTested := true } };
        s.startGoes = true ∧ s.stage5Done = true ∧ s.getF F.stdBoot_stage = 5 ∧ s.start.memTested = true ∧ s.start.cellsTested = false) ∧
      (let s := fs [(F.stdBoot_start, 0, 2)] testing;
        s.startGoes = true ∧ s.getF F.stdBoot_start = 2 ∧ s.stage3Done = true ∧ s.start.cellsTested = false) ∧ ({ testing with start := { testing.start with cellsTested := true } } : State).startGoes = true ∧
      ({ testing with start := { testing.start with memTested := true } } : State).startGoes = true ∧
      testing.disabled (1 : BitVec 10).toNat = false) ∧
    strapCode 500 = strapCode 500 ∧ strapCode 0 = none := by decide +kernel

theorem witness_RecoveryCommandsVerifyAndProgram :
    (base.mayRecover .host R.stdRcvCtl.off = true ∧ base.rcvFree = true ∧ base.onF F.pwrKeep_keep_ok = false ∧ base.getF F.stdBoot_stage = 7 ∧
      bitOf base.flagsActive 3 = false ∧ testing.rcvFree = false) ∧
    (let s := fs [(F.stdBoot_stage, 0, 8)] base;
      s.mayRecover .host R.stdRcvCtl.off = true ∧ s.rcvFree = true ∧ s.getF F.stdBoot_stage = 8) ∧
    ({ base with imgJob := some [1, 2, 3] } : State).imgJob = some [1, 2, 3] ∧
    (let s : State := { base with flash := fwrite [] (logSector 0) (leBytes 4 0x474F4C45 ++ leBytes 60 0), logPend := [{}] };
      s.logPend = {} :: [] ∧ s.start.steadingDown = false ∧ s.logCur = some 0 ∧ s.logEnd 0 + ({} : Event).records ≤ 2046 ∧
      (s.logTimes.filter (fun x => decide (0 < x + 1000000000))).length + ({} : Event).records ≤ 64) := by decide +kernel

theorem witness_GenerationsAndReportsAreCaptured :
    (base.mayRecover .host R.otpProg.off = true ∧ base.mayRecover .i3c R.otpProg.off = false ∧ base.otpJob = none ∧
      ({ base with otpJob := some [1] } : State).otpJob.isSome = true) ∧
    (base.reaches .host R.stdAttCtl.off = true ∧ base.ready = true ∧ base.onF F.stdAttCtl_go = false ∧ base.onF F.otpStat_identity = false ∧
      (fs [(F.otpStat_identity, 0, 1)] base).onF F.otpStat_identity = true ∧ (fs [(F.stdAttCtl_go, 0, 1)] base).onF F.stdAttCtl_go = true) := by
  decide +kernel

theorem witness_ClocksRampAndAreCounted :
    ((59 : BitVec 6).toNat < 60 ∧ (fs [(F.clkStat_ramping, 59, 1)] base).onF F.clkStat_ramping 59 = true) ∧
    (base.writes .host R.clkMon.off = true ∧ base.writes .host R.clkFmc.off = true ∧ base.onF F.clkFmc_go = false ∧ (fs [(F.clkFmc_owner, 0, 0)] base).onF F.clkFmc_owner = false ∧
      fieldGet 0x80000080 31 1 = 1 ∧ fieldGet 0x80000080 7 24 ≠ 0 ∧ fieldGet 0x80000000 7 24 = 0 ∧ base.writes .i3c R.clkMon.off = false) ∧
    (fs [(F.clkFmc_go, 0, 1)] base).onF F.clkFmc_go = true ∧
    (let s : State := { fs [(F.clkXtal_meas, 0, 99)] base with start := { loading := false, startDelayDone := true, xtal := [25000, 25000, 25000] } };
      s.start.startDelayDone = true ∧ s.start.loading = false ∧ s.onF F.clkXtal_stable = false ∧ s.onF F.clkXtal_fail = false ∧
      s.getF F.clkXtal_meas < 100 ∧ s.start.xtal.length = 3 ∧ s.start.bootDone = false ∧ s.onF F.rstOpt_invalid = false ∧
      judges (if s.onF F.clkXtal_mhz50 then 50000 else 25000) (if s.onF F.rstOpt_untrimmed then 9 else 2) (s.start.xtal ++ [25005]) = true) ∧
    (let s := fs [(F.clkXtal_meas, 0, 100)] base;
      100 ≤ s.getF F.clkXtal_meas ∧ s.onF F.clkXtal_stable = false ∧ s.onF F.clkXtal_fail = false ∧ s.start.bootDone = true ∧
      s.getF F.stdBoot_stage ≠ 8) := by decide +kernel

theorem witness_RestartsTripsAndStopsEnd :
    ((base.at_ 0).reaches .host R.rstStd.off = true ∧ Requester.host ≠ .i3c ∧ base.start.loading = false ∧ base.start.steadingDown = false ∧
      base.start.wdtAt + base.wdtMs * 1000000 ≤ 10000000000 ∧ base.wdtReach ≠ 1 ∧ base.wdtReach ≠ 2 ∧ base.keep.inKeep = false) ∧
    ((fs [(F.rstWdt_reach, 0, 1)] base).wdtReach = 1 ∧ (fs [(F.rstWdt_reach, 0, 2)] base).wdtReach = 2) ∧
    (deg 115 ≤ deg 115 ∧ deg 114 < deg 115 ∧ base.start.tripHold = false ∧ base.start.storm = false ∧ base.onF F.pwrKeep_keep_ok = false ∧
      base.otpJob = none ∧ base.imgJob = none) ∧
    (let s : State := { base with start := { tripHold := true }, heat := { coolSince := some 0 } };
      s.heat.coolSince = some 0 ∧ s.start.tripHold = true ∧ s.start.tripForever = false) ∧
    (let s : State := { fs [(F.pwrStat_state, 0, 2), (F.pwrStat_cause, 0, 4)] base with heat := { coolSince := some 0 }, now := 10000000000 };
      s.heat.coolSince = some 0 ∧ s.getF F.pwrStat_state = 2 ∧ s.getF F.pwrStat_cause ∈ [1, 3, 4] ∧ 0 + 10000000000 ≤ s.now ∧
      s.start.steadingDown = false) := by decide +kernel

/-- A part that has been armed for Keep and runs a tick. -/
def armed : State := fs [(F.pwrCap_keep, 0, 1)] work
theorem witness_PowerAndCoolantAreWatched :
    (base.reaches .host R.thmCool.off = true ∧ starting.reaches .host R.thmCool.off = false ∧
      ({ base with heat := { coolWritten := some 0 } } : State).heat.inletStale = false ∧ base.heat.coolWritten = none) ∧
    (105 * base.getF F.pwrStat_cap < 100 * 4000 ∧ base.getF F.pwrStat_skip = 0 ∧ (fs [(F.pwrStat_skip, 0, 15)] base).getF F.pwrStat_skip ≠ 0) ∧
    (let s : State := { fs [(F.pwrCap_mode, 0, 1)] work with heat := { lowSince := some 0 } };
      s.heat.lowSince = some 0 ∧ s.onF F.pwrCap_mode = true ∧ s.getF F.pwrStat_state = 0 ∧ s.tick.running = true) ∧
    (armed.heldInReset = false ∧ armed.start.pwrfailLow = false ∧ armed.keep.inKeep = false ∧ armed.onF F.pwrKeep_keep_ok = false ∧
      armed.tick.running = true ∧ armed.keepArmed = true ∧ work.keepArmed = false ∧ work.getF F.pwrStat_state = 0) ∧
    (let s := fs [(F.pwrStat_state, 0, 2), (F.pwrStat_cause, 0, 6)] base;
      s.getF F.pwrStat_state = 2 ∧ s.getF F.pwrStat_cause = 6 ∧ s.onF F.pwrKeep_keep_ok = false ∧ s.otpJob = none ∧ s.imgJob = none) := by
  decide +kernel

theorem witness_KeepIsEnteredAndLeft :
    (let s : State := { fs [(F.pwrStat_state, 0, 3), (F.tikPeriod_us, 0, 1000), (F.tikWindow_ns, 0, 2000)] begun with
        keep := { entryAt := some 0 }, tick := { running := true, edgeAt := 1300000 } };
      s.keep.entryAt = some 0 ∧ s.getF F.pwrStat_state = 3 ∧ s.tick.running = true ∧ s.tick.windowOpen = false ∧
      0 + 1400000 < s.tick.edgeAt + s.deadline ∧ s.unfinished ≠ [] ∧ ({ s.tick with windowOpen := true } : TickSt).windowOpen = true ∧
      ({ s.tick with edgeAt := 0 } : TickSt).edgeAt + s.deadline ≤ 0 + 1400000) ∧
    (let s : State := { fs [(F.pwrStat_state, 0, 3)] base with keep := { entryAt := some 0 } };
      s.tick.running = false ∧ s.heldPlanes = [] ∧ s.keep.inKeep = false ∧ s.keep.entryAt = some 0) ∧
    ((Instr.keepCheck [⟨1024, deg 95⟩, ⟨2575, 0⟩] [] false 0).wellFormed = true ∧ (Instr.keepCheck [] [] true 0).wellFormed = true ∧
      (∀ r ∈ ([⟨1024, deg 95⟩, ⟨2575, 0⟩] : List Reading), r.value ≤ deg 95)) ∧
    (let s : State := { fs [(F.pwrKeep_keep_ok, 0, 1)] base with keep := { inKeep := true } };
      s.keep.inKeep = true ∧ s.start.railsLow = [] ∧ s.onF F.pwrKeep_keep_ok = true ∧ s.otpJob = none ∧ s.imgJob = none) ∧
    base.keep.entryAt = none := by decide +kernel

theorem witness_TheI3cPortAnswers :
    (starting.start.bootDone = false ∧ base.start.bootDone = true) ∧
    (i3cOffset [1, 0, 0] = none ∧ i3cOffset [1, 0, 0, 0] = none ∧ i3cOffset (leBytes 4 R.thmCool.off ++ leBytes 8 400) = some R.thmCool.off ∧
      (leBytes 4 R.thmCool.off ++ leBytes 8 400).length = 12 ∧ (base.at_ 0).mayWrite .i3c R.tikCmt.off = false ∧
      i3cOffset (leBytes 4 R.tikCmt.off ++ leBytes 8 1) = some R.tikCmt.off) ∧
    (let s : State := { base with flagsActive := 4 };
      let bs := leBytes 4 (rcvBase + 0xFFFFF8) ++ leBytes 8 7;
      i3cOffset bs = some (rcvBase + 0xFFFFF8) ∧ bs.length = 4 + 8 * 1 ∧ rcvBase ≤ rcvBase + 0xFFFFF8 ∧
      rcvBase + 0xFFFFF8 + 8 * 1 ≤ rcvBase + 0x1000000 ∧ bitOf s.flagsActive 2 = true) ∧
    (i3cOffset (leBytes 4 (rcvBase + 0xFFFFF8) ++ leBytes 16 7) = some (rcvBase + 0xFFFFF8) ∧
      rcvBase + 0x1000000 < rcvBase + 0xFFFFF8 + 8 * 2) ∧
    (base.i3c.pointer % 8 = 0 ∧ base.i3c.dynAddr = none ∧ ({ base with i3c := { dynAddr := some 8 } } : State).i3c.dynAddr.isSome = true) := by
  decide +kernel

theorem witness_OffsetsWithoutRegisterReadZero :
    (let o : BitVec 26 := 0x13FF8;
      regAt (o.toNat / 8 * 8) = none ∧ inAtt o.toNat = false ∧ inRcv o.toNat = false ∧ inMirror o.toNat = false) ∧
    (let o : BitVec 26 := 0x3FFFFFF;
      regAt (o.toNat / 8 * 8) = none ∧ inAtt o.toNat = false ∧ inRcv o.toNat = false ∧ inMirror o.toNat = inMirror o.toNat) := by decide +kernel

theorem witness_RegistersGoByTheirAccessCodes :
    (let r := R.hstErr;
      regAt (r.off / 8 * 8) = some r ∧ inPages r.off = true ∧ (base.at_ 0).mayRead .host (r.off / 8 * 8) = true ∧
      base.readInst .host r = 0 ∧ 0 < instances r.shown ∧ r.off % 8 = 0) ∧
    (let r := R.hstWin;
      regAt (r.off / 8 * 8) = some r ∧ inRcv r.off = false ∧ (base.at_ 0).mayWrite .host r.off = true ∧ base.shownInst .host r = 0 ∧
      0 < instances r.shown ∧ accessOk r.off 8 = true ∧ accessOk r.off 3 = false ∧ stRegs.contains r = false ∧
      (actSystem .host r 0 (writeMask r.off 8) (writeValue r.off 0x100000 &&& writeMask r.off 8)).isNone = true ∧
      (actUnit r 0 (writeMask r.off 8) (writeValue r.off 0x100000 &&& writeMask r.off 8)).isNone = true) := by decide +kernel

theorem witness_IdentifiersLeaveQuarantine :
    (base.mayWrite .host R.pfxCtl.off = true ∧ starting.mayWrite .host R.pfxCtl.off = false) ∧
    (let s := fs [(F.tikCount_count, 0, 7)] base;
      s.inQuarantine (some 6) = true ∧ s.inQuarantine (some 5) = false ∧ s.inQuarantine none = false) := by decide +kernel

end Sys2Proof.Tests
end

section
/-! SUPPORT. Offsets of BAR0 that no row of Table 17.1 covers (R13, R508): what a read answers there and what a write does. -/

namespace Sys2Proof.Machine

/-! ## The windows of Table 17.1 consist of whole 8-byte words -/

/-- A window of whole words holds an offset exactly where it holds the start of the offset's word. -/
theorem window_wordStart (base size o : Nat) (hbase : base % 8 = 0) (hsize : size % 8 = 0) :
    (decide (base ≤ o / 8 * 8) && decide (o / 8 * 8 < base + size)) = (decide (base ≤ o) && decide (o < base + size)) := by
  rw [Bool.eq_iff_iff]
  simp only [Bool.and_eq_true, decide_eq_true_eq]
  omega

theorem inAtt_wordStart (o : Nat) : inAtt (o / 8 * 8) = inAtt o := window_wordStart attBase 0x2000 o rfl rfl

theorem inRcv_wordStart (o : Nat) : inRcv (o / 8 * 8) = inRcv o := window_wordStart rcvBase 0x1000000 o rfl rfl

theorem inMirror_wordStart (o : Nat) : inMirror (o / 8 * 8) = inMirror o := window_wordStart mirrorBase 0x2000000 o rfl rfl

/-! ## The operations at an offset without register -/

/-- Whoever reads, and whether or not the read reaches BAR0, the word there is zero. -/
theorem State.bar0Word_of_noRegister (s : State) (by_ : Requester) {o : Nat} (hreg : regAt (o / 8 * 8) = none)
    (hatt : inAtt o = false) (hrcv : inRcv o = false) (hmir : inMirror o = false) : s.bar0Word by_ (o / 8 * 8) = 0 := by
  simp only [State.bar0Word, hreg, inAtt_wordStart, hatt, inRcv_wordStart, hrcv, inMirror_wordStart, hmir, Bool.false_eq_true,
    if_false, ite_self]

/-- A read sends zero; beside that it takes at most a number from the counter of free words. -/
theorem opBar0Read_of_noRegister (by_ : Requester) (n : Nat) (s : State) {o : Nat} (hreg : regAt (o / 8 * 8) = none)
    (hatt : inAtt o = false) (hrcv : inRcv o = false) (hmir : inMirror o = false) :
    opBar0Read by_ o n s = if accessOk o n then (s.send (.regData 0)).nextFree else s.send (.regData 0) := by
  have hword := s.bar0Word_of_noRegister by_ hreg hatt hrcv hmir
  cases hok : accessOk o n with
  | false => simp [opBar0Read, hok]
  | true => simp [opBar0Read, hok, hreg, hword]

/-- A write outside the recovery buffer finds no register to act on. -/
theorem opBar0Write_of_noRegister (by_ : Requester) (n now : Nat) (v : Word) (s : State) {o : Nat} (hreg : regAt (o / 8 * 8) = none)
    (hrcv : inRcv o = false) : opBar0Write by_ o n now v s = s := by
  simp only [opBar0Write, hreg, hrcv, Bool.false_eq_true, if_false, ite_self]

/-! ## The statement -/

/-- Settles O57: the read's word is zero in every case of alignment and reach, and the write meets no register. -/
theorem offsetsWithoutRegisterReadZero : Obligations.OffsetsWithoutRegisterReadZero := by
  intro by_ o n now v s hreg hatt hrcv hmir
  constructor
  · apply completes_of_run (f := opRead by_ (.bar0 o) n now) rfl
    have hread : opRead by_ (.bar0 o) n now s.begin = opBar0Read by_ o.toNat n (s.begin.at_ now) := rfl
    rw [hread, opBar0Read_of_noRegister by_ n _ hreg hatt hrcv hmir]
    cases accessOk o.toNat n <;> rfl
  · have hexec : exec (.registerWrite by_ (.bar0 o) n v now) s = run (opBar0Write by_ o.toNat n now v ∘ (State.at_ · now)) s := rfl
    rw [idlesAt, hexec, run_eq, Function.comp_apply, opBar0Write_of_noRegister by_ n now v _ hreg hrcv]
    rfl

end Sys2Proof.Machine
end

section
/-! SUPPORT. The guard amount of R74: a share of the period in hundredths, rounded down to 10 ns. -/

namespace Sys2Proof.Machine

/-! ## The guard amount -/

/-- Dividing by 100 and rounding down to a multiple of 10 rounds the undivided product down to a multiple of 1000. -/
theorem State.hundred_mul_guardNs (s : State) : 100 * s.guardNs = s.getF F.tikGuard_pct * s.period / 1000 * 1000 := by
  rw [State.guardNs, Nat.div_div_eq_div_mul]
  omega

@[simp] theorem State.guardNs_mod_ten (s : State) : s.guardNs % 10 = 0 := Nat.mul_mod_left _ _

theorem State.hundred_mul_guardNs_le (s : State) : 100 * s.guardNs ≤ s.getF F.tikGuard_pct * s.period :=
  s.hundred_mul_guardNs ▸ Nat.div_mul_le_self _ _

theorem State.lt_hundred_mul_guardNs_add_ten (s : State) : s.getF F.tikGuard_pct * s.period < 100 * (s.guardNs + 10) := by
  rw [Nat.mul_add, s.hundred_mul_guardNs]
  exact Nat.lt_div_mul_add (by decide)

/-! ## The statement -/

/-- Settles O20: D, S and the longest tick are the model's definitions in terms of the settings; the guard amount is a
multiple of 10 ns, at most the percentage of the period and less than 10 ns below it. -/
theorem theDeadlinesFollowFromTheSettings : Obligations.TheDeadlinesFollowFromTheSettings := fun s =>
  have deadline_eq : s.deadline = s.getF F.tikPeriod_us * 1000 - s.getF F.tikWindow_ns := rfl
  have stretchLimit_eq : s.stretchLimit = s.deadline + s.guardNs := rfl
  have longest_eq : s.longest = s.getF F.tikPeriod_us * 1000 + s.guardNs := rfl
  ⟨deadline_eq, s.guardNs_mod_ten, s.hundred_mul_guardNs_le, s.lt_hundred_mul_guardNs_add_ten, stretchLimit_eq, longest_eq⟩

end Sys2Proof.Machine
end

section
/-! SUPPORT. The owner of a queue pair (R365): what a write of HST_QOWN does by the pair's enable bit. -/

namespace Sys2Proof.Machine

/-! ## Writes of HST_QOWN -/

/-- A register field written by a whole command: the frame holds but for that one register word. -/
theorem onlyRegs_begin_putF (s : State) (f : Fld) (i v : Nat) :
    onlyRegs [regKey f.reg i] s { s.begin.putF f i v with pending := s.pending } := by
  have hput : sameRegs [regKey f.reg i] s (s.begin.putF f i v) :=
    sameRegs_putF f i v (sameRegs_of_regs (sameRegs_refl _ s) s.begin_regs) (List.mem_singleton_self _)
  exact ⟨rfl, sameRegs_of_regs hput rfl⟩

theorem opQown_of_enabled {q : Nat} {s : State} (value : Word) (hon : s.pairOn q = true) : opQown q value s = s :=
  if_pos hon

theorem opQown_of_disabled {q : Nat} {s : State} (value : Word) (hoff : s.pairOn q = false) :
    opQown q value s = s.putF F.hstQown_function q (value.toNat % 64) :=
  if_neg (ne_true_of_eq_false hoff)

/-- A requester whose write of HST_QOWN is let through writes the owner of the pair it has selected. -/
theorem exec_queueOwnerWrite_of_writes {by_ : Requester} {s : State} (value : Word) (hw : s.writes by_ R.hstQown.off = true) :
    exec (.queueOwnerWrite by_ value) s = run (opQown (s.sel by_ F.hstQsel_queue) value) s := by
  have hbegin : s.begin.writes by_ R.hstQown.off = true := hw
  have hexec : exec (.queueOwnerWrite by_ value) s =
      run (fun u => if u.writes by_ R.hstQown.off then opQown (u.sel by_ F.hstQsel_queue) value u else u) s := rfl
  rw [hexec, run_eq, if_pos hbegin]
  rfl

/-! ## The owner of a pair -/

theorem State.owner_putF_function (s : State) (q v : Nat) : (s.putF F.hstQown_function q v).owner q = v % 64 :=
  getF_putF_same s F.hstQown_function q v (by decide)

/-- The reset word of HST_QOWN is 0 in every copy. -/
theorem State.owner_reset (q : Nat) : State.reset.owner q = 0 := rfl

/-! ## The statement -/

/-- Settles O9: by the enable bit of the selected pair, the write puts the owner field of that one pair or is ignored, and
the owner field of every pair resets to 0. -/
theorem ownersChangeWhileDisabled : Obligations.OwnersChangeWhileDisabled := by
  refine ⟨fun by_ value s hw => ⟨fun hoff => ?_, fun hon => ?_⟩, fun q _ => State.owner_reset q⟩
  · apply completes_of_run (exec_queueOwnerWrite_of_writes value hw)
    rw [opQown_of_disabled (s := s.begin) value hoff]
    have howner := s.begin.owner_putF_function (s.sel by_ F.hstQsel_queue) (value.toNat % 64)
    exact ⟨howner.trans (Nat.mod_mod _ 64), onlyRegs_begin_putF s F.hstQown_function _ _⟩
  · exact idles_of_run (exec_queueOwnerWrite_of_writes value hw) (opQown_of_enabled (s := s.begin) value hon)

end Sys2Proof.Machine
end

section
/-! SUPPORT. The queue of commands (log entries 1 and 4): what a step does with it, which commands stop, and that a queue of
well-formed commands runs out. -/

namespace Sys2Proof.Machine

/-! ## What a command leaves of the queue -/

/-- A command that answers a next state is well formed, and the state is what its one change of the state gives, with the
queue as it was. -/
theorem exec_next {c : Instr} {s t : State} (h : exec c s = .next t) : c.wellFormed = true ∧ t.pending = s.pending := by
  obtain ⟨f, hf⟩ := exec_shape c
  obtain ⟨hok, rfl⟩ := runIf_next (hf s ▸ h)
  exact ⟨hok, rfl⟩

theorem exec_of_wellFormed {c : Instr} (s : State) (hok : c.wellFormed = true) : ∃ t, exec c s = .next t := by
  obtain ⟨f, hf⟩ := exec_shape c
  exact ⟨_, by rw [hf s, hok, runIf_true]; rfl⟩

theorem exec_of_illFormed {c : Instr} (s : State) (hbad : c.wellFormed = false) : exec c s = .refused .illFormed := by
  obtain ⟨f, hf⟩ := exec_shape c
  rw [hf s, hbad, runIf_false]

/-! ## One step -/

theorem step_of_cons {c : Instr} {rest : List Instr} {s : State} (h : s.pending = c :: rest) :
    step s = exec c { s with pending := rest } := by
  rw [step, h]

theorem step_of_nil {s : State} (h : s.pending = []) : step s = .next s := by
  rw [step, h]

/-- A step whose front command is well formed answers a next state and leaves the rest of the queue. -/
theorem step_of_wellFormed {c : Instr} {rest : List Instr} {s : State} (h : s.pending = c :: rest) (hok : c.wellFormed = true) :
    ∃ t, step s = .next t ∧ t.pending = rest := by
  obtain ⟨t, ht⟩ := exec_of_wellFormed { s with pending := rest } hok
  exact ⟨t, (step_of_cons h).trans ht, (exec_next ht).2⟩

/-- A run begins with what its first step answers. -/
theorem run_succ_of_step {s u : State} (n : Nat) (h : step s = .next u) :
    Host.Core.run Sys2Proof.core (n + 1) s = Host.Core.run Sys2Proof.core n u := by
  have hcore : Sys2Proof.core.step s = .next u := h
  simp only [Host.Core.run, hcore]

/-! ## The statements -/

/-- Settles O1: the two cases of the queue. -/
theorem aStepCarriesOutTheFrontCommand : Obligations.AStepCarriesOutTheFrontCommand :=
  ⟨fun _ _ _ h => step_of_cons h, fun _ h => step_of_nil h⟩

/-- Settles O2: a command's change of the state is put under the queue as it was. -/
theorem noCommandTouchesTheQueue : Obligations.NoCommandTouchesTheQueue :=
  fun _ _ _ h => (exec_next h).2

/-- Settles O3: each command is one change of the state, carried out where it is well formed and refused elsewhere. -/
theorem onlyIllFormedCommandsStop : Obligations.OnlyIllFormedCommandsStop :=
  fun _ s => ⟨exec_of_wellFormed s, exec_of_illFormed s⟩

/-- Settles O4, by induction on the queue. -/
theorem aWellFormedQueueRunsOut : Obligations.AWellFormedQueueRunsOut := by
  intro s hok
  generalize hq : s.pending = cmds
  induction cmds generalizing s with
  | nil => exact ⟨s, rfl, hq⟩
  | cons c rest ih =>
    rw [State.queueOk, hq, List.all_cons, Bool.and_eq_true] at hok
    obtain ⟨u, hstep, hrest⟩ := step_of_wellFormed hq hok.1
    obtain ⟨t, hrun, hempty⟩ := ih u (by rw [State.queueOk, hrest]; exact hok.2) hrest
    exact ⟨t, (run_succ_of_step _ hstep).trans hrun, hempty⟩

/-- Settles O6: every memory and register table of the reset state is empty. -/
theorem resetIsSound : Obligations.ResetIsSound := by
  refine ⟨?_, rfl, rfl⟩
  simp only [State.memoriesOk, State.reset, Memory.wf_nil, Bool.and_self]

end Sys2Proof.Machine
end

section
/-! SUPPORT. The words of control envelopes (R321, Table 11.3): the fields of a control word, and that the words a part sends are
read back. -/

namespace Sys2Proof.Machine

/-! ## The fields of a control word -/

/-- A field of a number that fits a register word. -/
theorem fieldGet_ofNat (x lo n : Nat) (h : lo + n ≤ 64) : fieldGet (BitVec.ofNat 64 x) lo n = x / 2 ^ lo % 2 ^ n := by
  have hpow : (2 : Nat) ^ 64 = 2 ^ lo * 2 ^ (64 - lo) := by rw [← Nat.pow_add]; congr 1; omega
  rw [fieldGet, BitVec.extractLsb'_toNat, BitVec.toNat_ofNat, Nat.shiftRight_eq_div_pow, hpow, Nat.mod_mul_right_div_self,
    Nat.mod_mod_of_dvd _ (Nat.pow_dvd_pow 2 (by omega))]

variable (kind arg : Nat) (part : BitVec 10)

theorem ctlKind_ctlBits (hkind : kind < 256) : ctlKind (ctlBits kind part.toNat arg) = kind := by
  rw [ctlKind, ctlBits, fieldGet_ofNat _ _ _ (by decide)]
  omega

theorem ctlPart_ctlBits (hkind : kind < 256) : ctlPart (ctlBits kind part.toNat arg) = part.toNat := by
  rw [ctlPart, ctlBits, fieldGet_ofNat _ _ _ (by decide)]
  omega

/-- Kind and originating part fill the 18 low bits. -/
theorem ctlArg_ctlBits (lo n : Nat) (hkind : kind < 256) (h : lo + n ≤ 46) :
    ctlArg (ctlBits kind part.toNat arg) lo n = arg / 2 ^ lo % 2 ^ n := by
  have hlow : (kind + part.toNat * 2 ^ 8 + arg * 2 ^ 18) / 2 ^ 18 = arg := by omega
  rw [ctlArg, ctlBits, fieldGet_ofNat _ _ _ (by omega), Nat.pow_add, ← Nat.div_div_eq_div_mul, hlow]

theorem getLsbD_ctlBits (i : Nat) (hkind : kind < 256) (hi : i < 46) :
    (ctlBits kind part.toNat arg).getLsbD (18 + i) = arg.testBit i := by
  have hlow : (kind + part.toNat * 2 ^ 8 + arg * 2 ^ 18) / 2 ^ 18 = arg := by omega
  rw [ctlBits, BitVec.getLsbD_ofNat, Nat.add_comm 18 i, Nat.testBit_add, hlow]
  simp [show i + 18 < 64 by omega]

/-! ## The arguments -/

@[simp] theorem phaseOf_phaseNo (p : RingPhase) : phaseOf (phaseNo p) = p := by cases p <;> rfl

theorem phaseNo_lt (p : RingPhase) : phaseNo p < 4 := by cases p <;> decide

theorem bit_le (b : Bool) : bit b ≤ 1 := by cases b <;> decide

/-! ## Reading words back -/

/-- A word that stands for a control word is no value word. -/
def headsOther (ws : List Word) : Prop := ∀ v ∈ ws.head?, ctlKind v ≠ 11

theorem headsOther_bits {part : BitVec 10} {w : CtlWord} (h : w.worded part = true) (rest : List Word) :
    headsOther (w.bits part.toNat ++ rest) := by
  intro v hv
  cases w with
  | edge e =>
    have hraise : e.raise = none := by
      rw [CtlWord.worded, Bool.and_eq_true] at h
      exact Option.isNone_iff_eq_none.1 h.1
    simp only [CtlWord.bits, hraise, Option.isSome_none, Bool.false_eq_true, if_false, List.cons_append, List.head?_cons,
      Option.mem_some_iff] at hv
    subst hv
    rw [ctlKind_ctlBits _ _ _ (by decide)]
    decide
  | finish _ _ _ => simp [CtlWord.worded] at h
  | digest _ _ => simp [CtlWord.worded] at h
  | _ =>
    simp only [CtlWord.bits, List.cons_append, List.head?_cons, Option.mem_some_iff] at hv
    subst hv
    rw [ctlKind_ctlBits _ _ _ (by decide)]
    decide

theorem headsOther_flatMap {ws : List (BitVec 10 × CtlWord)} (h : ∀ e ∈ ws, e.2.worded e.1 = true) :
    headsOther (ws.flatMap (fun e => e.2.bits e.1.toNat)) := by
  cases ws with
  | nil => intro v hv; simp at hv
  | cons e r => exact headsOther_bits (h e (List.mem_cons_self ..)) _

/-- The word after a control word without a value gives it none. -/
theorem valueAfter_of_headsOther (p : RingPhase) {rest : List Word} (h : headsOther rest) : valueAfter p rest.head? = none := by
  cases hr : rest.head? with
  | none => rfl
  | some v => simp [valueAfter, h v hr]

/-- A value word that follows a request or a submission is its value. -/
theorem valueAfter_value {p : RingPhase} (hp : phaseValued p = true) (part us : BitVec 10) (ns : BitVec 16) (pct : BitVec 5)
    (rest : BitVec 15) :
    valueAfter p (some (ctlBits 11 part.toNat (us.toNat + ns.toNat * 2 ^ 10 + pct.toNat * 2 ^ 26 + rest.toNat * 2 ^ 31))) =
      some (us, ns, pct, rest) := by
  have hus : (us.toNat + ns.toNat * 2 ^ 10 + pct.toNat * 2 ^ 26 + rest.toNat * 2 ^ 31) / 2 ^ 0 % 2 ^ 10 = us.toNat := by omega
  have hns : (us.toNat + ns.toNat * 2 ^ 10 + pct.toNat * 2 ^ 26 + rest.toNat * 2 ^ 31) / 2 ^ 10 % 2 ^ 16 = ns.toNat := by omega
  have hpct : (us.toNat + ns.toNat * 2 ^ 10 + pct.toNat * 2 ^ 26 + rest.toNat * 2 ^ 31) / 2 ^ 26 % 2 ^ 5 = pct.toNat := by omega
  have hrest : (us.toNat + ns.toNat * 2 ^ 10 + pct.toNat * 2 ^ 26 + rest.toNat * 2 ^ 31) / 2 ^ 31 % 2 ^ 15 = rest.toNat := by omega
  simp only [valueAfter, hp, Bool.true_and, beq_iff_eq]
  rw [ctlKind_ctlBits _ _ _ (by decide), if_pos rfl]
  rw [ctlArg_ctlBits _ _ _ _ _ (by decide) (by decide), ctlArg_ctlBits _ _ _ _ _ (by decide) (by decide),
    ctlArg_ctlBits _ _ _ _ _ (by decide) (by decide), ctlArg_ctlBits _ _ _ _ _ (by decide) (by decide), hus, hns, hpct, hrest]
  simp only [BitVec.ofNat_toNat, BitVec.setWidth_eq]

/-- A value word says nothing by itself. -/
theorem readWord_value (part : BitVec 10) (arg : Nat) (next : Option Word) : readWord (ctlBits 11 part.toNat arg) next = none := by
  simp only [readWord, ctlKind_ctlBits 11 arg part (by decide)]

theorem readWords_of_some {w : Word} {rest : List Word} {c : CtlWord} (h : readWord w rest.head? = some c) :
    readWords (w :: rest) = (ctlPart w, c) :: readWords rest := by
  rw [readWords, h]

theorem readWords_of_none {w : Word} {rest : List Word} (h : readWord w rest.head? = none) : readWords (w :: rest) = readWords rest := by
  rw [readWords, h]

/-- The word of a ring commit, with whatever value follows it. -/
theorem readWord_commit (part : BitVec 10) (r : RingWord) (hpart : r.part = part) (next : Option Word) :
    readWord (ctlBits 10 part.toNat (r.code.toNat + phaseNo r.phase * 2 ^ 16 + r.target.toNat * 2 ^ 18)) next =
      some (.commit { r with value := valueAfter r.phase next }) := by
  subst hpart
  have hphase := phaseNo_lt r.phase
  generalize harg : r.code.toNat + phaseNo r.phase * 2 ^ 16 + r.target.toNat * 2 ^ 18 = arg
  have hcode : arg / 2 ^ 0 % 2 ^ 16 = r.code.toNat := by omega
  have hp : arg / 2 ^ 16 % 2 ^ 2 = phaseNo r.phase := by omega
  have htarget : arg / 2 ^ 18 % 2 ^ 28 = r.target.toNat := by omega
  simp only [readWord, ctlKind_ctlBits 10 arg r.part (by decide), ctlPart_ctlBits 10 arg r.part (by decide),
    ctlArg_ctlBits 10 arg r.part 0 16 (by decide) (by decide), ctlArg_ctlBits 10 arg r.part 16 2 (by decide) (by decide),
    ctlArg_ctlBits 10 arg r.part 18 28 (by decide) (by decide), hcode, hp, htarget, phaseOf_phaseNo, BitVec.ofNat_toNat, BitVec.setWidth_eq]

theorem testBit_of_bit (x y i : Nat) (b : Bool) (hx : x < 2 ^ i) : (x + bit b * 2 ^ i + y * 2 ^ (i + 1)).testBit i = b := by
  have hb := bit_le b
  have hdiv : (x + bit b * 2 ^ i + y * 2 ^ (i + 1)) / 2 ^ i = bit b + y * 2 := by
    rw [Nat.pow_succ, Nat.add_assoc, show bit b * 2 ^ i + y * (2 ^ i * 2) = 2 ^ i * (bit b + y * 2) by ring,
      Nat.add_mul_div_left _ _ (Nat.two_pow_pos i), Nat.div_eq_of_lt hx, Nat.zero_add]
  rw [Nat.testBit_eq_decide_div_mod_eq, hdiv]
  cases b <;> simp [bit]

/-- The word of an announcement of an edge. -/
theorem readWord_edge (part : BitVec 10) (e : EdgeWord) (hraise : e.raise = none) (hsheafs : e.sheafs = []) (next : Option Word) :
    readWord (ctlBits 3 part.toNat (e.newEdge.toNat + bit e.overrun * 2 ^ 16 + bit e.pause * 2 ^ 17 + bit e.pauseEnds * 2 ^ 18)) next =
      some (.edge e) := by
  obtain ⟨raise, newEdge, overrun, pause, pauseEnds, sheafs⟩ := e
  obtain rfl : raise = none := hraise
  obtain rfl : sheafs = [] := hsheafs
  dsimp only
  have ho := bit_le overrun
  have hp := bit_le pause
  have hoBit := testBit_of_bit newEdge.toNat (bit pause + bit pauseEnds * 2) 16 overrun newEdge.isLt
  have hpBit := testBit_of_bit (newEdge.toNat + bit overrun * 2 ^ 16) (bit pauseEnds) 17 pause (by omega)
  have heBit := testBit_of_bit (newEdge.toNat + bit overrun * 2 ^ 16 + bit pause * 2 ^ 17) 0 18 pauseEnds (by omega)
  rw [show newEdge.toNat + bit overrun * 2 ^ 16 + (bit pause + bit pauseEnds * 2) * 2 ^ (16 + 1) =
    newEdge.toNat + bit overrun * 2 ^ 16 + bit pause * 2 ^ 17 + bit pauseEnds * 2 ^ 18 by omega] at hoBit
  rw [Nat.zero_mul, Nat.add_zero] at heBit
  have hedge : (newEdge.toNat + bit overrun * 2 ^ 16 + bit pause * 2 ^ 17 + bit pauseEnds * 2 ^ 18) / 2 ^ 0 % 2 ^ 16 = newEdge.toNat := by omega
  generalize newEdge.toNat + bit overrun * 2 ^ 16 + bit pause * 2 ^ 17 + bit pauseEnds * 2 ^ 18 = arg at *
  simp only [readWord, ctlKind_ctlBits 3 arg part (by decide), ctlArg_ctlBits 3 arg part 0 16 (by decide) (by decide), hedge,
    getLsbD_ctlBits 3 arg part 16 (by decide) (by decide), getLsbD_ctlBits 3 arg part 17 (by decide) (by decide),
    getLsbD_ctlBits 3 arg part 18 (by decide) (by decide), hoBit, hpBit, heBit, BitVec.ofNat_toNat, BitVec.setWidth_eq]

/-- A word whose argument is one field, or two. -/
theorem ctlArg_ofNat {n : Nat} (x : BitVec n) (hkind : kind < 256) (h : n ≤ 46) :
    BitVec.ofNat n (ctlArg (ctlBits kind part.toNat x.toNat) 0 n) = x := by
  rw [ctlArg_ctlBits kind _ part 0 n hkind (by omega), Nat.pow_zero, Nat.div_one, Nat.mod_eq_of_lt x.isLt, BitVec.ofNat_toNat,
    BitVec.setWidth_eq]

theorem ctlArg_ofNat_pair {m n : Nat} (x : BitVec m) (y : BitVec n) (hkind : kind < 256) (h : m + n ≤ 46) :
    BitVec.ofNat m (ctlArg (ctlBits kind part.toNat (x.toNat + y.toNat * 2 ^ m)) 0 m) = x ∧
    BitVec.ofNat n (ctlArg (ctlBits kind part.toNat (x.toNat + y.toNat * 2 ^ m)) m n) = y := by
  constructor
  · rw [ctlArg_ctlBits kind _ part 0 m hkind (by omega), Nat.pow_zero, Nat.div_one, Nat.add_mul_mod_self_right,
      Nat.mod_eq_of_lt x.isLt, BitVec.ofNat_toNat, BitVec.setWidth_eq]
  · rw [ctlArg_ctlBits kind _ part m n hkind (by omega), Nat.add_mul_div_right _ _ (Nat.two_pow_pos m), Nat.div_eq_of_lt x.isLt,
      Nat.zero_add, Nat.mod_eq_of_lt y.isLt, BitVec.ofNat_toNat, BitVec.setWidth_eq]

/-- The words that stand for a control word, in front of words that begin with no value, are read as it and then the rest. -/
theorem readWords_bits_append {part : BitVec 10} {w : CtlWord} (h : w.worded part = true) {rest : List Word} (hrest : headsOther rest) :
    readWords (w.bits part.toNat ++ rest) = (part.toNat, w) :: readWords rest := by
  have one : ∀ kind arg, kind < 256 → readWord (ctlBits kind part.toNat arg) rest.head? = some w →
      readWords (ctlBits kind part.toNat arg :: rest) = (part.toNat, w) :: readWords rest := fun kind arg hk hr => by
    rw [readWords_of_some hr, ctlPart_ctlBits kind arg part hk]
  cases w with
  | marker t d =>
    obtain ⟨ht, hd⟩ := ctlArg_ofNat_pair 1 part t d (by decide) (by decide)
    exact one 1 _ (by decide) (by simp only [readWord, ctlKind_ctlBits 1 _ part (by decide), ht, hd])
  | late t => exact one 2 _ (by decide) (by simp only [readWord, ctlKind_ctlBits 2 _ part (by decide), ctlArg_ofNat 2 part t (by decide) (by decide)])
  | edge e =>
    rw [CtlWord.worded, Bool.and_eq_true, Option.isNone_iff_eq_none, List.isEmpty_iff] at h
    simp only [CtlWord.bits, h.1, Option.isSome_none, Bool.false_eq_true, if_false]
    exact one 3 _ (by decide) (readWord_edge part e h.1 h.2 _)
  | ack q => exact one 4 _ (by decide) (by simp only [readWord, ctlKind_ctlBits 4 _ part (by decide), ctlArg_ofNat 4 part q (by decide) (by decide)])
  | retry q => exact one 5 _ (by decide) (by simp only [readWord, ctlKind_ctlBits 5 _ part (by decide), ctlArg_ofNat 5 part q (by decide) (by decide)])
  | credit n => exact one 6 _ (by decide) (by simp only [readWord, ctlKind_ctlBits 6 _ part (by decide), ctlArg_ofNat 6 part n (by decide) (by decide)])
  | take k => exact one 7 _ (by decide) (by simp only [readWord, ctlKind_ctlBits 7 _ part (by decide), ctlArg_ofNat 7 part k (by decide) (by decide)])
  | release t => exact one 8 _ (by decide) (by simp only [readWord, ctlKind_ctlBits 8 _ part (by decide), ctlArg_ofNat 8 part t (by decide) (by decide)])
  | candidate p c =>
    obtain ⟨hp, hc⟩ := ctlArg_ofNat_pair 9 part p c (by decide) (by decide)
    exact one 9 _ (by decide) (by simp only [readWord, ctlKind_ctlBits 9 _ part (by decide), hp, hc])
  | commit r =>
    obtain ⟨rpart, phase, code, target, value⟩ := r
    simp only [CtlWord.worded, Bool.and_eq_true, Bool.or_eq_true, beq_iff_eq, Option.isNone_iff_eq_none] at h
    obtain ⟨rfl, hvalue⟩ := h
    cases value with
    | none =>
      refine one 10 _ (by decide) ?_
      rw [readWord_commit rpart _ rfl, valueAfter_of_headsOther phase hrest]
    | some v =>
      obtain ⟨us, ns, pct, reserved⟩ := v
      have hphase : phaseValued phase = true := hvalue.resolve_right (by simp)
      simp only [CtlWord.bits, List.cons_append, List.nil_append]
      rw [readWords_of_some (readWord_commit rpart ⟨rpart, phase, code, target, none⟩ rfl _), ctlPart_ctlBits 10 _ rpart (by decide), List.head?_cons,
        valueAfter_value hphase, readWords_of_none (readWord_value rpart _ _)]
  | finish _ _ _ => simp [CtlWord.worded] at h
  | digest _ _ => simp [CtlWord.worded] at h

/-! ## The statement -/

/-- Settles O60, by induction on the words sent: behind each stands one that begins with no value word. -/
theorem controlWordsAreReadBack : Obligations.ControlWordsAreReadBack := by
  intro ws h
  induction ws with
  | nil => rfl
  | cons e r ih =>
    have hr : ∀ x ∈ r, x.2.worded x.1 = true := fun x hx => h x (List.mem_cons_of_mem _ hx)
    rw [List.flatMap_cons, readWords_bits_append (h e (List.mem_cons_self ..)) (headsOther_flatMap hr), ih hr, List.map_cons]

end Sys2Proof.Machine
end

section
/-! SUPPORT. The memories' canonical form as an invariant of the step (R238, R356, R441, R459): MemOk of a state, and for each change of
the state that the model names the lemma MemOk.<its name>, that the change keeps it. The lemmas stand in the order in which one change
uses another, and each follows the branches of its definition: a change of registers or tables alone leaves the five memories as they
were (upd), and a change that writes one of them cites the law of that write (Memory.wf_mwrite and its like). -/

namespace Sys2Proof.Machine

set_option Elab.async false

/-- The memories of a state are in their canonical form. -/
def MemOk (s : State) : Prop := s.memoriesOk = true

theorem memOk_iff (s : State) : MemOk s ↔ Memory.wf s.devMem = true ∧ Memory.wf s.hostMem = true ∧ Memory.wf s.flash = true ∧
    Memory.wf s.otp = true ∧ Memory.wf s.rcvBuf = true := by
  simp only [MemOk, State.memoriesOk, Bool.and_eq_true, and_assoc]

section
variable {s : State} (hs : MemOk s)
include hs

theorem MemOk.devMem_wf : Memory.wf s.devMem = true := ((memOk_iff s).1 hs).1
theorem MemOk.hostMem_wf : Memory.wf s.hostMem = true := ((memOk_iff s).1 hs).2.1
theorem MemOk.flash_wf : Memory.wf s.flash = true := ((memOk_iff s).1 hs).2.2.1
theorem MemOk.otp_wf : Memory.wf s.otp = true := ((memOk_iff s).1 hs).2.2.2.1
theorem MemOk.rcvBuf_wf : Memory.wf s.rcvBuf = true := ((memOk_iff s).1 hs).2.2.2.2

/-! ### Another memory in the place of one -/

theorem MemOk.putDevMem {m : Memory} (hm : Memory.wf m = true) : MemOk { s with devMem := m } :=
  (memOk_iff _).2 ⟨hm, hs.hostMem_wf, hs.flash_wf, hs.otp_wf, hs.rcvBuf_wf⟩
theorem MemOk.putHostMem {m : Memory} (hm : Memory.wf m = true) : MemOk { s with hostMem := m } :=
  (memOk_iff _).2 ⟨hs.devMem_wf, hm, hs.flash_wf, hs.otp_wf, hs.rcvBuf_wf⟩
theorem MemOk.putFlash {m : Memory} (hm : Memory.wf m = true) : MemOk { s with flash := m } :=
  (memOk_iff _).2 ⟨hs.devMem_wf, hs.hostMem_wf, hm, hs.otp_wf, hs.rcvBuf_wf⟩
theorem MemOk.putOtp {m : Memory} (hm : Memory.wf m = true) : MemOk { s with otp := m } :=
  (memOk_iff _).2 ⟨hs.devMem_wf, hs.hostMem_wf, hs.flash_wf, hm, hs.rcvBuf_wf⟩
theorem MemOk.putRcvBuf {m : Memory} (hm : Memory.wf m = true) : MemOk { s with rcvBuf := m } :=
  (memOk_iff _).2 ⟨hs.devMem_wf, hs.hostMem_wf, hs.flash_wf, hs.otp_wf, hm⟩
end

/-- Another state with the same memories, whatever its other fields. -/
theorem MemOk.upd {s : State} (hs : MemOk s)
    {pending} {regs} {staged} {now} {fresh} {out} {fuseCells} {loftErr} {ueTick} {ctl} {tick} {commit} {autos} {stagedAfter}
    {cells} {resets} {chans} {stackTbl} {hubErr} {hubSpares} {fullBuckets} {halfAsked} {accWait} {arrivals} {ports} {links}
    {ring} {sqTails} {cqHeads} {msix} {wroteCq} {heldCq} {chutes} {ramps} {start} {logRing} {stdBuf} {logPend} {logTimes}
    {rakeAt} {rakeDue} {sensors} {heat} {keep} {i3c} {seqStores} {repairMark} {otpJob} {imgJob} {attBody} {report} {attZero}
    {jtagReset} {minSvn} {flagsActive} {svn} {snap} :
    MemOk {
      pending, regs, staged, now, fresh, out, fuseCells, loftErr, ueTick, ctl, tick, commit, autos, stagedAfter, cells,
      resets, chans, stackTbl, hubErr, hubSpares, fullBuckets, halfAsked, accWait, arrivals, ports, links, ring, sqTails,
      cqHeads, msix, wroteCq, heldCq, chutes, ramps, start, logRing, stdBuf, logPend, logTimes, rakeAt, rakeDue, sensors,
      heat, keep, i3c, seqStores, repairMark, otpJob, imgJob, attBody, report, attZero, jtagReset, minSvn, flagsActive, svn,
      snap, devMem := s.devMem, hostMem := s.hostMem, flash := s.flash, otp := s.otp, rcvBuf := s.rcvBuf } :=
  hs

/-! ### Ways to combine changes -/

theorem MemOk.ite {c : Prop} [Decidable c] {s t : State} (hs : MemOk s) (ht : MemOk t) : MemOk (if c then s else t) := by
  split
  · exact hs
  · exact ht

theorem MemOk.ite_fst {α : Type} {c : Prop} [Decidable c] {p q : State × α} (hp : MemOk p.1) (hq : MemOk q.1) :
    MemOk (if c then p else q).1 := by
  split
  · exact hp
  · exact hq

theorem MemOk.of_eq {α : Type} {p : State × α} {s : State} {x : α} (h : p = (s, x)) (hp : MemOk p.1) : MemOk s := by
  rw [h] at hp
  exact hp

theorem MemOk.of_mk_eq {α : Type} {s t : State} {x y : α} (h : (s, x) = (t, y)) (hs : MemOk s) : MemOk t :=
  (Prod.mk.inj h).1 ▸ hs

theorem MemOk.foldl {α : Type} {f : State → α → State} {l : List α} {s : State} (hf : ∀ s a, MemOk s → MemOk (f s a)) (hs : MemOk s) :
    MemOk (l.foldl f s) := by
  induction l generalizing s with
  | nil => exact hs
  | cons a r ih => exact ih (hf s a hs)

theorem MemOk.foldl_fst {α β : Type} {f : State × β → α → State × β} {l : List α} {p : State × β}
    (hf : ∀ p a, MemOk p.1 → MemOk (f p a).1) (hp : MemOk p.1) : MemOk (l.foldl f p).1 := by
  induction l generalizing p with
  | nil => exact hp
  | cons a r ih => exact ih (hf p a hp)

theorem MemOk.iterate {f : State → State} (n : Nat) {s : State} (hf : ∀ s, MemOk s → MemOk (f s)) (hs : MemOk s) :
    MemOk (iterate f n s) := by
  induction n generalizing s with
  | zero => exact hs
  | succ n ih => exact ih (hf s hs)

/-- A change that keeps the memories canonical. -/
def KeepsMem (f : State → State) : Prop := ∀ s, MemOk s → MemOk (f s)

/-- One register of a list of registers with an act. -/
theorem KeepsMem.act {c : Prop} [Decidable c] {g : State → State} {rest : Option (State → State)} (hg : KeepsMem g)
    (hr : ∀ {f}, rest = some f → KeepsMem f) : ∀ {f}, (if c then some g else rest) = some f → KeepsMem f := by
  intro f h
  split at h
  · cases h
    exact hg
  · exact hr h

theorem MemOk.reset : MemOk State.reset :=
  (memOk_iff _).2 ⟨Memory.wf_nil, Memory.wf_nil, Memory.wf_nil, Memory.wf_nil, Memory.wf_nil⟩

/-! ### The changes -/

theorem MemOk.begin {s : State} (hs : MemOk s) : MemOk s.begin := by
  unfold State.begin
  exact .upd hs

theorem MemOk.setReg {s : State} (hs : MemOk s) {r : Reg} {inst : Nat} {w : Word} : MemOk (s.setReg r inst w) := by
  unfold State.setReg
  exact .upd hs

theorem MemOk.putF {s : State} (hs : MemOk s) {f : Fld} {inst v : Nat} : MemOk (s.putF f inst v) := by
  unfold State.putF
  exact .setReg hs

theorem MemOk.bump {s : State} (hs : MemOk s) {f : Fld} {inst n : Nat} : MemOk (s.bump f inst n) := by
  unfold State.bump
  exact .putF hs

theorem MemOk.reserve {s : State} (hs : MemOk s) {q n : Nat} : MemOk (s.reserve q n) := by
  unfold State.reserve
  exact .putF hs

theorem MemOk.take {s : State} (hs : MemOk s) {q : Nat} : MemOk (s.take q) := by
  unfold State.take
  extract_lets -merge +onlyGivenNames s1 s2
  have h1 : MemOk s1 := .putF hs
  have h2 : MemOk s2 := .bump (.reserve h1)
  exact .upd h2

theorem MemOk.send {s : State} (hs : MemOk s) {o : Output} : MemOk (s.send o) := by
  unfold State.send
  exact .upd hs

theorem MemOk.signal {s : State} (hs : MemOk s) {fn vec : Nat} : MemOk (s.signal fn vec) := by
  unfold State.signal
  exact .ite (.upd hs) (.send hs)

theorem MemOk.signalCq {s : State} (hs : MemOk s) {q : Nat} : MemOk (s.signalCq q) := by
  unfold State.signalCq
  exact .signal (.upd hs)

theorem MemOk.unreserve {s : State} (hs : MemOk s) {q n : Nat} : MemOk (s.unreserve q n) := by
  unfold State.unreserve
  exact .putF hs

theorem MemOk.putCq {s : State} (hs : MemOk s) {q : Nat} {b : List Byte} : MemOk (s.putCq q b) := by
  unfold State.putCq
  extract_lets -merge +onlyGivenNames s1 t ph b s2 t' s3
  have h1 : MemOk s1 := .unreserve hs
  have hm : MemOk { s1 with hostMem := mwrite s1.hostMem (s1.getF F.hstCqBase_addr q + 64 * t) b } := h1.putHostMem
    (Memory.wf_mwrite _ _ h1.hostMem_wf)
  have h2 : MemOk s2 := hm
  have h3 : MemOk s3 := .putF h2
  exact .ite (.putF h3) h3

theorem MemOk.writeCq {s : State} (hs : MemOk s) {q : Nat} {e : Cqe} : MemOk (s.writeCq q e) := by
  unfold State.writeCq
  exact .ite (.upd hs) (.ite (.putCq hs) (.unreserve hs))

theorem MemOk.complete {s : State} (hs : MemOk s) {c : CmdId} {status : Nat} {e : Cqe} : MemOk (s.complete c status e) := by
  unfold State.complete
  exact .writeCq hs

theorem MemOk.countAddr {s : State} (hs : MemOk s) {a n : Nat} : MemOk (s.countAddr a n) := by
  unfold State.countAddr
  refine .ite ?_ ?_
  · exact .ite (.bump hs) hs
  · split
    · exact .bump hs
    · exact hs

theorem MemOk.countWrapped {s : State} (hs : MemOk s) {tower : Option Nat} {a n : Nat} : MemOk (s.countWrapped tower a n) := by
  unfold State.countWrapped
  exact .foldl (fun _ _ h1 => .bump h1) hs

theorem MemOk.setChan {s : State} (hs : MemOk s) {c : Nat} {x : Chan} : MemOk (s.setChan c x) := by
  unfold State.setChan
  exact .upd hs

theorem MemOk.modChan {s : State} (hs : MemOk s) {c : Nat} {f : Chan → Chan} : MemOk (s.modChan c f) := by
  unfold State.modChan
  exact .setChan hs

theorem MemOk.queueScrub {s : State} (hs : MemOk s) {c bank row : Nat} : MemOk (s.queueScrub c bank row) := by
  unfold State.queueScrub
  exact .ite hs (.ite (.bump hs) (.modChan hs))

theorem MemOk.urgentRetrain {s : State} (hs : MemOk s) {c : Nat} : MemOk (s.urgentRetrain c) := by
  unfold State.urgentRetrain
  exact .putF (.putF (.modChan hs))

theorem MemOk.halfReached {s : State} (hs : MemOk s) {c lv : Nat} : MemOk (s.halfReached c lv) := by
  unfold State.halfReached
  exact .ite (.urgentRetrain (.upd hs)) hs

theorem MemOk.errsum {s : State} (hs : MemOk s) {sheafs : List Nat} {b : Nat} : MemOk (s.errsum sheafs b) := by
  unfold State.errsum
  exact .foldl (fun _ _ h1 => .putF h1) hs

theorem MemOk.toHostQueue {s : State} (hs : MemOk s) {e : Event} : MemOk (s.toHostQueue e) := by
  unfold State.toHostQueue
  exact .ite hs (.ite (.bump hs) (.foldl (fun _ _ h1 => .putF (h1.putHostMem (Memory.wf_mwrite _ _ h1.hostMem_wf))) hs))

theorem MemOk.alert {s : State} (hs : MemOk s) {cls : Nat} {bytes : List Byte} : MemOk (s.alert cls bytes) := by
  unfold State.alert
  exact .send (.upd hs)

theorem MemOk.steadingTakes {s : State} (hs : MemOk s) {e : Event} : MemOk (s.steadingTakes e) := by
  unfold State.steadingTakes
  split
  · extract_lets -merge +onlyGivenNames s1 s2
    have h1 : MemOk s1 := .ite (.signal hs) hs
    have h2 : MemOk s2 := .ite (.foldl (fun _ _ h1 => .alert h1) h1) h1
    exact .ite (.ite (.bump h2) (.upd h2)) h2

theorem MemOk.raise {s : State} (hs : MemOk s) {code cls idx : Nat} {arg : Word} {payload : (List Byte)} : MemOk (s.raise code cls
    idx arg payload) := by
  unfold State.raise
  extract_lets -merge +onlyGivenNames _ s1
  have h1 : MemOk s1 := .toHostQueue hs
  exact .ite (.upd h1) (.steadingTakes h1)

theorem MemOk.corrected {s : State} (hs : MemOk s) {b : BucketId} : MemOk (s.corrected b) := by
  unfold State.corrected
  extract_lets -merge +onlyGivenNames _ _ s1 _
  have h1 : MemOk s1 := .bump hs
  refine .ite ?_ ?_
  · exact h1
  · extract_lets -merge +onlyGivenNames s2 s3
    have h2 : MemOk s2 := .putF h1
    have h3 : MemOk s3 := (by
      dsimp only [s3]
      split
      · exact .halfReached h2
      · exact h2)
    refine .ite ?_ ?_
    · extract_lets -merge +onlyGivenNames s4 s5 s6
      have h4 : MemOk s4 := .upd h3
      have h5 : MemOk s5 := .bump h4
      have h6 : MemOk s6 := (by
        dsimp only [s6]
        split
        · exact h5
        · exact .errsum h5)
      exact .raise h6
    · exact h3

theorem MemOk.softWord {s : State} (hs : MemOk s) {w : Nat} : MemOk (s.softWord w) := by
  unfold State.softWord
  exact .queueScrub (.corrected hs)

theorem MemOk.setOwed {s : State} (hs : MemOk s) {c b n : Nat} : MemOk (s.setOwed c b n) := by
  unfold State.setOwed
  exact .putF (.modChan hs)

theorem MemOk.forceRefresh {s : State} (hs : MemOk s) {c b : Nat} : MemOk (s.forceRefresh c b) := by
  unfold State.forceRefresh
  exact .ite hs (.bump (.setOwed hs))

theorem MemOk.forceRefreshes {s : State} (hs : MemOk s) {a n : Nat} : MemOk (s.forceRefreshes a n) := by
  unfold State.forceRefreshes
  exact .ite (.foldl (fun _ _ h1 => .forceRefresh h1) hs) hs

theorem MemOk.showUe {s : State} (hs : MemOk s) {b : List Byte} : MemOk (s.showUe b) := by
  unfold State.showUe
  exact .putF (.putF (.putF (.putF hs)))

theorem MemOk.sendRecord {s : State} (hs : MemOk s) {r : UeRec} : MemOk (s.sendRecord r) := by
  unfold State.sendRecord
  exact .raise hs

theorem MemOk.ueRecord {s : State} (hs : MemOk s) {r : UeRec} : MemOk (s.ueRecord r) := by
  unfold State.ueRecord
  extract_lets -merge +onlyGivenNames _ s1
  have h1 : MemOk s1 := .ite (.errsum hs) hs
  refine .ite ?_ ?_
  · extract_lets -merge +onlyGivenNames _ s2
    have h2 : MemOk s2 := .upd h1
    split
    · exact .ite (.showUe h2) h2
    · exact h2
  · extract_lets -merge +onlyGivenNames s2 s3
    have h2 : MemOk s2 := .showUe (.bump h1)
    have h3 : MemOk s3 := .ite (.bump h2) h2
    exact .ite (.upd h3) (.sendRecord h3)

theorem MemOk.readImage {s : State} (hs : MemOk s) {a n : Nat} : MemOk (s.readImage a n).1 := by
  unfold State.readImage
  exact .ite_fst hs (.ite_fst (.countAddr hs) (.ite_fst (.countWrapped hs) (.foldl (fun _ _ h1 => .ueRecord h1) (.foldl (fun _ _ h1
    => .softWord h1) (.forceRefreshes hs)))))

theorem MemOk.setProg {s : State} (hs : MemOk s) {j : Nat} {p : Program} : MemOk (s.setProg j p) := by
  unfold State.setProg
  exact .upd hs

theorem MemOk.setLink {s : State} (hs : MemOk s) {l : Nat} {x : Link} : MemOk (s.setLink l x) := by
  unfold State.setLink
  exact .upd hs

theorem MemOk.modLink {s : State} (hs : MemOk s) {l : Nat} {f : Link → Link} : MemOk (s.modLink l f) := by
  unfold State.modLink
  exact .setLink hs

theorem MemOk.checkNarrowed {s : State} (hs : MemOk s) : MemOk s.checkNarrowed := by
  unfold State.checkNarrowed
  exact .foldl (fun _ _ h1 => .ite (.modLink h1) h1) hs

theorem MemOk.loadNow {s : State} (hs : MemOk s) {e : SubEntry} {c : CmdId} {wait : Bool} : MemOk (s.loadNow e c wait) := by
  unfold State.loadNow
  extract_lets -merge +onlyGivenNames ja jn sa sn finish
  have hfin : ∀ {t st q}, MemOk t → MemOk (finish t st q) := fun h => .signalCq (.complete h)
  refine .ite (hfin hs) ?_
  split
  · exact hfin hs
  · refine .ite (hfin hs) (.ite (.upd hs) ?_)
    have h2 : MemOk (s.readImage ja jn).1 := .readImage hs
    generalize s.readImage ja jn = p2 at h2 ⊢
    obtain ⟨s2, ok⟩ := p2
    dsimp only at h2 ⊢
    have h3 : MemOk (s2.readImage sa sn).1 := .readImage h2
    generalize s2.readImage sa sn = p3 at h3 ⊢
    obtain ⟨s3, ok2⟩ := p3
    refine .ite (hfin h3) ?_
    extract_lets -merge +onlyGivenNames jb sb
    split
    · exact hfin h3
    · exact hfin (.checkNarrowed (.setProg h3))

theorem MemOk.opLoad {e : SubEntry} {c : CmdId} {s : State} (hs : MemOk s) : MemOk (opLoad e c s) := by
  unfold Machine.opLoad
  exact .loadNow hs

theorem MemOk.onTake {q : BitVec 6} {e : SubEntry} {f : CmdId → State → State} (hf : ∀ c s, MemOk s → MemOk (f c s)) {s : State} (hs
    : MemOk s) : MemOk (onTake q e f s) := by
  unfold Machine.onTake
  exact .ite (hf _ _ (.take hs)) hs

theorem MemOk.wait {s : State} (hs : MemOk s) {w : Waiting} : MemOk (s.wait w) := by
  unfold State.wait
  exact .upd hs

theorem MemOk.waitDone {s : State} (hs : MemOk s) {c : CmdId} {e : SubEntry} {status : Nat} : MemOk (s.waitDone c e status) := by
  unfold State.waitDone
  exact .wait hs

theorem MemOk.opUnload {e : SubEntry} {c : CmdId} {s : State} (hs : MemOk s) : MemOk (opUnload e c s) := by
  unfold Machine.opUnload
  exact .ite (.waitDone hs) (.wait hs)

theorem MemOk.opOpen {e : SubEntry} {c : CmdId} {s : State} (hs : MemOk s) : MemOk (opOpen e c s) := by
  unfold Machine.opOpen
  exact .wait hs

theorem MemOk.setStream {s : State} (hs : MemOk s) {i : Nat} {x : Stream} : MemOk (s.setStream i x) := by
  unfold State.setStream
  exact .upd hs

theorem MemOk.modStream {s : State} (hs : MemOk s) {i : Nat} {f : Stream → Stream} : MemOk (s.modStream i f) := by
  unfold State.modStream
  exact .setStream hs

theorem MemOk.feedNow {s : State} (hs : MemOk s) {c : CmdId} {fn i : Nat} {epoch addr count : Nat} : MemOk (s.feedNow c fn i epoch
    addr count) := by
  unfold State.feedNow
  exact .ite (.modStream hs) (.complete hs)

theorem MemOk.opFeed {e : SubEntry} {c : CmdId} {s : State} (hs : MemOk s) : MemOk (opFeed e c s) := by
  unfold Machine.opFeed
  exact .ite (.wait hs) (.ite (.feedNow hs) (.waitDone hs))

theorem MemOk.opSet {e : SubEntry} {c : CmdId} {s : State} (hs : MemOk s) : MemOk (opSet e c s) := by
  unfold Machine.opSet
  exact .wait hs

theorem MemOk.opClose {e : SubEntry} {c : CmdId} {s : State} (hs : MemOk s) : MemOk (opClose e c s) := by
  unfold Machine.opClose
  exact .wait hs

theorem MemOk.pairFail {s : State} (hs : MemOk s) {q code : Nat} : MemOk (s.pairFail q code) := by
  unfold State.pairFail
  exact .putF hs

theorem MemOk.opSqDoorbell {page q : BitVec 6} {value : Word} {s : State} (hs : MemOk s) : MemOk (opSqDoorbell page q value s) := by
  unfold Machine.opSqDoorbell
  exact .ite (.bump hs) (.ite (.pairFail hs) (.upd hs))

theorem MemOk.putHeld {s : State} (hs : MemOk s) {q : Nat} : MemOk (s.putHeld q) := by
  unfold State.putHeld
  exact .foldl (fun _ _ h1 => .ite (.putCq h1) (.upd h1)) (.upd hs)

theorem MemOk.opCqDoorbell {page q : BitVec 6} {value : Word} {s : State} (hs : MemOk s) : MemOk (opCqDoorbell page q value s) := by
  unfold Machine.opCqDoorbell
  exact .ite (.bump hs) (.ite (.pairFail hs) (.putHeld (.upd hs)))

theorem MemOk.opEvqDoorbell {value : Word} {s : State} (hs : MemOk s) : MemOk (opEvqDoorbell value s) := by
  unfold Machine.opEvqDoorbell
  exact .ite (.bump hs) (.putF hs)

theorem MemOk.endPairWait {s : State} (hs : MemOk s) {q : Nat} : MemOk (s.endPairWait q) := by
  unfold State.endPairWait
  exact .foldl (fun _ _ h1 => .modStream h1) hs

theorem MemOk.opQcfg {q : Nat} {value : Word} {s : State} (hs : MemOk s) : MemOk (opQcfg q value s) := by
  unfold Machine.opQcfg
  extract_lets -merge +onlyGivenNames _
  refine .ite ?_ ?_
  · exact .ite (.putF hs) (.putF (.putF hs))
  · extract_lets -merge +onlyGivenNames s1
    have h1 : MemOk s1 := .putF (.putF (.putF hs))
    exact .ite h1 (.ite (.pairFail h1) (.endPairWait (.putHeld (.putF (.pairFail (.putF (.putF (.putF (.upd h1)))))))))

theorem MemOk.opQown {q : Nat} {value : Word} {s : State} (hs : MemOk s) : MemOk (opQown q value s) := by
  unfold Machine.opQown
  exact .ite hs (.putF hs)

theorem MemOk.opEvqCfg {value : Word} {s : State} (hs : MemOk s) : MemOk (opEvqCfg value s) := by
  unfold Machine.opEvqCfg
  exact .ite (.ite (.putF (.putF hs)) (.putF (.putF (.putF (.putF hs))))) (.putF (.putF hs))

theorem MemOk.putHead {s : State} (hs : MemOk s) {ch : Nat} {at_ : Nat × Bool} : MemOk (s.putHead ch at_) := by
  unfold State.putHead
  exact .putF (.putF hs)

theorem MemOk.setChute {s : State} (hs : MemOk s) {ch : Nat} {x : ChuteSt} : MemOk (s.setChute ch x) := by
  unfold State.setChute
  exact .upd hs

theorem MemOk.chuteStop {s : State} (hs : MemOk s) {ch status : Nat} : MemOk (s.chuteStop ch status) := by
  unfold State.chuteStop
  exact .putF (.putF (.putF (.setChute (.putHead hs))))

theorem MemOk.resetFn {s : State} (hs : MemOk s) {f : Nat} : MemOk (s.resetFn f) := by
  unfold State.resetFn
  extract_lets -merge +onlyGivenNames _ s1 s2 s3 s4 s5 _ s6 s7 s8
  have h1 : MemOk s1 := .foldl (fun _ _ h1 => .ite (.putF h1) h1) hs
  have h2 : MemOk s2 := .foldl (fun _ _ h1 => (by
    split
    · exact .unreserve h1
    · exact h1)) h1
  have h3 : MemOk s3 := .foldl (fun _ _ h1 => .unreserve h1) h2
  have h4 : MemOk s4 := .ite (.putF h3) h3
  have h5 : MemOk s5 := .foldl (fun _ _ h1 => .unreserve h1) h4
  have h6 : MemOk s6 := .upd h5
  have h7 : MemOk s7 := .foldl (fun _ _ h1 => .wait (.modStream h1)) h6
  have h8 : MemOk s8 := .foldl (fun _ _ h1 => .ite (.setChute (.chuteStop h1)) h1) h7
  exact .upd h8

theorem MemOk.opFlr {f : Nat} {s : State} (hs : MemOk s) : MemOk (opFlr f s) := by
  unfold Machine.opFlr
  exact .ite (.foldl (fun _ _ h1 => .resetFn h1) hs) (.resetFn hs)

theorem MemOk.flipWord {s : State} (hs : MemOk s) {w : Nat} {flips : BitVec 64} : MemOk (s.flipWord w flips) := by
  unfold State.flipWord
  exact hs.putDevMem (Memory.wf_mwrite _ _ hs.devMem_wf)

theorem MemOk.findErrs {s : State} (hs : MemOk s) {found : List WordErr} : MemOk (s.findErrs found) := by
  unfold State.findErrs
  refine .foldl (fun s e h1 => ?_) hs
  extract_lets -merge +onlyGivenNames s2
  have h2 : MemOk s2 := by
    unfold s2
    split
    · exact .flipWord h1
    · exact h1
  exact .upd h2

theorem MemOk.chuteSignal {s : State} (hs : MemOk s) {ch : Nat} {irq : Bool} : MemOk (s.chuteSignal ch irq) := by
  unfold State.chuteSignal
  exact .ite (.signal hs) hs

theorem MemOk.chuteResulted {s : State} (hs : MemOk s) {a : WaitAcc} : MemOk (s.chuteResulted a) := by
  unfold State.chuteResulted
  split
  · exact .chuteSignal hs
  · exact hs

theorem MemOk.respond {s : State} (hs : MemOk s) {r : Reader} {status : Nat} {bs : List Byte} : MemOk (s.respond r status bs) := by
  unfold State.respond
  exact .send hs

theorem MemOk.modProg {s : State} (hs : MemOk s) {j : Nat} {f : Program → Program} : MemOk (s.modProg j f) := by
  unfold State.modProg
  exact .setProg hs

theorem MemOk.invalidate {s : State} (hs : MemOk s) {j : Nat} : MemOk (s.invalidate j) := by
  unfold State.invalidate
  exact .ite hs (.modProg hs)

theorem MemOk.invalidateCell {s : State} (hs : MemOk s) {c : Nat} : MemOk (s.invalidateCell c) := by
  unfold State.invalidateCell
  split
  · exact hs
  · exact .invalidate hs

theorem MemOk.dropPass {s : State} (hs : MemOk s) {c : Nat} : MemOk (s.dropPass c) := by
  unfold State.dropPass
  exact .ite (.putF (.bump hs)) hs

theorem MemOk.portEnd {s : State} (hs : MemOk s) {c status : Nat} : MemOk (s.portEnd c status) := by
  unfold State.portEnd
  exact .putF (.putF hs)

theorem MemOk.failReader {s : State} (hs : MemOk s) {r : Reader} {status : Nat} : MemOk (s.failReader r status) := by
  unfold State.failReader
  extract_lets -merge +onlyGivenNames s1
  have h1 : MemOk s1 := .respond hs
  split
  · exact .invalidateCell (.dropPass h1)
  · exact .invalidateCell h1
  · exact .ite (.chuteStop h1) h1
  · split
    · exact .portEnd h1
    · exact h1
  · exact h1

theorem MemOk.failAcc {s : State} (hs : MemOk s) {a : WaitAcc} {status : Nat} : MemOk (s.failAcc a status) := by
  unfold State.failAcc
  split
  · exact .ite (.chuteResulted hs) (.failReader hs)
  · exact .portEnd hs
  · exact .ite (.raise (.bump hs)) (.send (.bump hs))

theorem MemOk.wireLost {s : State} (hs : MemOk s) {c w : Nat} : MemOk (s.wireLost c w) := by
  unfold State.wireLost
  exact .ite (.setChan hs) (.ite (.setChan hs) (.ite (.setChan hs) (.ite (.setChan hs) (.setChan hs))))

theorem MemOk.failWire {s : State} (hs : MemOk s) {c w : Nat} : MemOk (s.failWire c w) := by
  unfold State.failWire
  exact .ite hs (.ite (.foldl (fun _ _ h1 => .wireLost h1) (.setChan (.modChan (.bump hs)))) (.wireLost (.modChan (.bump hs))))

theorem MemOk.blameWire {s : State} (hs : MemOk s) {c w : Nat} : MemOk (s.blameWire c w) := by
  unfold State.blameWire
  exact .ite hs (.ite (.failWire (.setChan hs)) (.setChan hs))

theorem MemOk.meetErrs {s : State} (hs : MemOk s) {found : List WordErr} : MemOk (s.meetErrs found) := by
  unfold State.meetErrs
  exact .foldl (fun _ _ h1 => (by
    split
    · exact .blameWire (.softWord h1)
    · exact .findErrs h1)) hs

theorem MemOk.answerAcc {s : State} (hs : MemOk s) {a : WaitAcc} {bs : List Byte} : MemOk (s.answerAcc a bs) := by
  unfold State.answerAcc
  split
  · exact .ite (.chuteResulted hs) (.respond hs)
  · exact .portEnd hs
  · exact .ite hs (.send hs)

theorem MemOk.writeDev {s : State} (hs : MemOk s) {a : Nat} {bs : List Byte} : MemOk (s.writeDev a bs) := by
  unfold State.writeDev
  extract_lets -merge +onlyGivenNames parts whole part mem s1 s2
  have hm : Memory.wf mem = true := by
    unfold mem
    split
    · exact Memory.wf_mblock _ _ hs.devMem_wf
    · exact Memory.wf_mwriteAt _ _ _ hs.devMem_wf
  have h1 : MemOk s1 := hs.putDevMem hm
  have h2 : MemOk s2 := .upd h1
  exact .foldl (fun _ _ h1 => .modChan h1) h2

theorem MemOk.badPlace {s : State} (hs : MemOk s) {j : Nat} {b : BadPlace} : MemOk (s.badPlace j b).1 := by
  unfold State.badPlace
  exact .invalidate (.setProg hs)

theorem MemOk.setPoolSlot {s : State} (hs : MemOk s) {k : Nat} {x : PageSlot} : MemOk (s.setPoolSlot k x) := by
  unfold State.setPoolSlot
  exact .upd hs

theorem MemOk.reachWords {s : State} (hs : MemOk s) {ws : List Nat} : MemOk (s.reachWords ws).1 := by
  unfold State.reachWords
  extract_lets -merge +onlyGivenNames _
  split
  · exact .bump hs
  · exact .ite_fst hs (.ite_fst (.foldl (fun _ _ h1 => .bump h1) hs) (.foldl (fun _ _ h1 => .forceRefresh h1) hs))

theorem MemOk.checkWords {s : State} (hs : MemOk s) {j : Nat} {ws : List Nat} : MemOk (s.checkWords j ws).1 := by
  unfold State.checkWords
  exact .foldl (fun _ _ h1 => .ueRecord h1) (.foldl (fun _ _ h1 => .softWord h1) hs)

theorem MemOk.touchWords {s : State} (hs : MemOk s) {j : Nat} {ws needs : List Nat} : MemOk (s.touchWords j ws needs).1 := by
  unfold State.touchWords
  split
  · rename_i s1 heq
    have h1 : MemOk s1 := .of_eq heq (.reachWords hs)
    exact h1
  · rename_i s1 heq
    have h1 : MemOk s1 := .of_eq heq (.reachWords hs)
    exact .checkWords h1

theorem MemOk.pfxWrite {s : State} (hs : MemOk s) {j o : Nat} {bs : List Byte} : MemOk (s.pfxWrite j o bs) := by
  unfold State.pfxWrite
  extract_lets -merge +onlyGivenNames p at_ parts whole
  have h1 : MemOk (s.touchWords j at_.eraseDups parts).1 := .touchWords hs
  generalize s.touchWords j at_.eraseDups parts = q at h1 ⊢
  obtain ⟨s1, ok⟩ := q
  refine .ite h1 (.foldl (fun _ _ h1 => .modChan h1) ?_)
  exact .upd (h1.putDevMem (Memory.wf_mwriteAt (fun i => p.physOf (o + i)) bs 0 h1.devMem_wf))

theorem MemOk.touchRead {s : State} (hs : MemOk s) {j a n : Nat} : MemOk (s.touchRead j a n).1 := by
  unfold State.touchRead
  exact .touchWords hs

theorem MemOk.readRefs {s : State} (hs : MemOk s) {j : Nat} {e : KvEntry} {page : Nat} : MemOk (s.readRefs j e page).1 := by
  unfold State.readRefs
  split
  · rename_i s1 _ heq
    have h1 : MemOk s1 := .of_eq heq (.touchRead hs)
    exact h1

theorem MemOk.freeSlot {s : State} (hs : MemOk s) {j : Nat} {l : ListId} {page re : Nat} : MemOk (s.freeSlot j l page re) := by
  unfold State.freeSlot
  exact .ite (.bump (.setPoolSlot hs)) hs

theorem MemOk.dropPfx {s : State} (hs : MemOk s) {p : PfxEntry} {re : Nat} : MemOk (s.dropPfx p re) := by
  unfold State.dropPfx
  extract_lets -merge +onlyGivenNames _ s1 s2 s3
  have h1 : MemOk s1 := (by exact hs)
  have h2 : MemOk s2 := .pfxWrite h1
  have h3 : MemOk s3 := .putF h2
  refine .foldl (fun _ _ h1 => ?_) h3
  split
  · exact .freeSlot (.of_eq ‹_› (.readRefs h1))
  · exact .of_eq ‹_› (.readRefs h1)

theorem MemOk.retireSlots {s : State} (hs : MemOk s) {row : Nat} : MemOk (s.retireSlots row).1 := by
  unfold State.retireSlots
  exact .foldl_fst (fun _ _ h1 => .foldl_fst (fun _ _ h2 => .foldl_fst (fun _ _ h3 => .ite_fst (.setPoolSlot h3) (.foldl (fun _ _ h4
    => (by
    split
    · exact .dropPfx h4
    · exact h4)) (.foldl (fun _ _ h4 => .ite (.modStream h4) h4) (.setPoolSlot h3)))) h2) h1) hs

theorem MemOk.retireRow {s : State} (hs : MemOk s) {c bank row : Nat} : MemOk (s.retireRow c bank row).1 := by
  unfold State.retireRow
  split
  · rename_i s1 _ heq
    have h1 : MemOk s1 := .of_eq heq (.retireSlots hs)
    extract_lets -merge +onlyGivenNames _ _ _ _ _ _
    split
    · rename_i s2 _ heq
      have h2 : MemOk s2 := .of_eq heq (.ite_fst h1 (.ite_fst (.raise (.modChan h1)) (.raise (.modChan h1))))
      exact h2

theorem MemOk.stageUe {s : State} (hs : MemOk s) {reader c w : Nat} : MemOk (s.stageUe reader c w) := by
  unfold State.stageUe
  extract_lets -merge +onlyGivenNames _ _
  split
  · exact .ueRecord hs
  · split
    · rename_i s1 _ heq
      have h1 : MemOk s1 := .of_eq heq (.badPlace hs)
      split
      · rename_i s2 _ heq
        have h2 : MemOk s2 := .of_eq heq (.ite_fst (.retireRow h1) h1)
        exact .ueRecord h2

theorem MemOk.metWord {s : State} (hs : MemOk s) {r : Reader} {w : Nat} : MemOk (s.metWord r w) := by
  unfold State.metWord
  split
  · exact .stageUe hs
  · exact .ueRecord hs

theorem MemOk.serve {s : State} (hs : MemOk s) {a : WaitAcc} : MemOk (s.serve a) := by
  unfold State.serve
  extract_lets -merge +onlyGivenNames _
  refine .ite ?_ ?_
  · exact .failAcc (.countAddr hs)
  · refine .ite ?_ ?_
    · exact .failAcc (.countWrapped hs)
    · extract_lets -merge +onlyGivenNames s1 _ s2
      have h1 : MemOk s1 := .forceRefreshes (.meetErrs hs)
      have h2 : MemOk s2 := .foldl (fun _ _ h1 => .softWord h1) h1
      split
      · exact .answerAcc (.writeDev h2)
      · exact .answerAcc h2
      · exact .failAcc (.foldl (fun _ _ h1 => .metWord h1) h2)

theorem MemOk.accessDev {s : State} (hs : MemOk s) {a : WaitAcc} : MemOk (s.accessDev a) := by
  unfold State.accessDev
  exact .ite (.upd hs) (.serve hs)

theorem MemOk.opBar4Read {off n : Nat} {found : List WordErr} {s : State} (hs : MemOk s) : MemOk (opBar4Read off n found s) := by
  unfold Machine.opBar4Read
  exact .ite (.ite hs (.send hs)) (.ite (.send (.findErrs hs)) (.accessDev (.findErrs hs)))

theorem MemOk.opBar4Write {off : Nat} {bs : List Byte} {found : List WordErr} {s : State} (hs : MemOk s) : MemOk (opBar4Write off bs
    found s) := by
  unfold Machine.opBar4Write
  exact .ite hs (.ite (.findErrs hs) (.accessDev (.findErrs hs)))

theorem MemOk.endFeed {s : State} (hs : MemOk s) {i : Nat} {f : Feed} {status : Nat} : MemOk (s.endFeed i f status) := by
  unfold State.endFeed
  exact .ite (.unreserve hs) (.complete hs)

theorem MemOk.dropFeeds {s : State} (hs : MemOk s) {i : Nat} : MemOk (s.dropFeeds i) := by
  unfold State.dropFeeds
  exact .modStream (.foldl (fun _ _ h1 => .endFeed h1) hs)

theorem MemOk.dropTokenReservation {s : State} (hs : MemOk s) {i : Nat} : MemOk (s.dropTokenReservation i) := by
  unfold State.dropTokenReservation
  exact .ite (.modStream (.unreserve hs)) hs

theorem MemOk.streamEntry {s : State} (hs : MemOk s) {i : Nat} {e : Cqe} : MemOk (s.streamEntry i e) := by
  unfold State.streamEntry
  exact .ite (.unreserve hs) (.writeCq hs)

theorem MemOk.endStream {s : State} (hs : MemOk s) {i status : Nat} : MemOk (s.endStream i status) := by
  unfold State.endStream
  exact .ite hs (.modStream (.ite (.streamEntry (.dropTokenReservation hs)) (.dropTokenReservation hs)))

theorem MemOk.failStream {s : State} (hs : MemOk s) {i status : Nat} {signalNow : Bool} : MemOk (s.failStream i status signalNow) := by
  unfold State.failStream
  exact .ite hs (.ite (.signalCq (.dropFeeds (.endStream hs))) (.dropFeeds (.endStream hs)))

theorem MemOk.chuteBusError {s : State} (hs : MemOk s) {ch : Option Nat} {fetch : Bool} {cause fn addr : Nat} : MemOk
    (s.chuteBusError ch fetch cause fn addr) := by
  unfold State.chuteBusError
  exact .raise (.putF (.putF (.putF (.putF (.putF (.putF (.putF (.foldl (fun _ _ h1 => .ite (.chuteStop h1) h1) hs))))))))

theorem MemOk.opHostMemoryError {req : HostReq} {cause : BitVec 3} {s : State} (hs : MemOk s) : MemOk (opHostMemoryError req cause
    s) := by
  unfold Machine.opHostMemoryError
  extract_lets -merge +onlyGivenNames s1
  have h1 : MemOk s1 := .bump hs
  split
  · exact .ite (.pairFail h1) h1
  · exact .ite (.ite (.signalCq (.complete (.take h1))) h1) (.onTake (fun _ _ h1 => .waitDone h1) h1)
  · exact .failStream h1
  · exact .chuteBusError h1

theorem MemOk.chuteWords {s : State} (hs : MemOk s) {ch a n : Nat} {write : Bool} : MemOk (s.chuteWords ch a n write) := by
  unfold State.chuteWords
  exact .foldl (fun _ _ h1 => .ueRecord h1) (.foldl (fun _ _ h1 => .softWord h1) hs)

theorem MemOk.chuteMet {s : State} (hs : MemOk s) {ch a n : Nat} {write : Bool} {st : Nat} : MemOk (s.chuteMet ch a n write st) := by
  unfold State.chuteMet
  exact .ite (.countAddr hs) (.ite (.countWrapped hs) (.chuteWords (.forceRefreshes hs)))

theorem MemOk.chuteFetch {s : State} (hs : MemOk s) {ch : Nat} : MemOk (s.chuteFetch ch).1 := by
  unfold State.chuteFetch
  exact .ite_fst (.ite (.chuteMet hs) hs) (.foldl (fun _ _ h1 => .putF h1) (.ite (.chuteMet hs) hs))

theorem MemOk.putResult {s : State} (hs : MemOk s) {ch : Nat} {at_ : Nat × Bool} {status : Nat} {crc : BitVec 32} : MemOk
    (s.putResult ch at_ status crc).1 := by
  unfold State.putResult
  exact .ite_fst (.ite (.writeDev (.chuteMet hs)) (.chuteMet hs)) (hs.putHostMem (Memory.wf_mwrite _ _ hs.hostMem_wf))

theorem MemOk.putOwedOne {s : State} (hs : MemOk s) {ch : Nat} {e : (Nat × Bool) × Bool} {status : Nat} {crc : BitVec 32} : MemOk
    (s.putOwedOne ch e status crc) := by
  unfold State.putOwedOne
  exact .ite (.upd hs) (.chuteSignal (.putResult hs))

theorem MemOk.putOwed {s : State} (hs : MemOk s) {ch : Nat} {owed : List ((Nat × Bool) × Bool)} {status : Nat} {crc : BitVec 32} :
    MemOk (s.putOwed ch owed status crc) := by
  unfold State.putOwed
  exact .foldl (fun _ _ h1 => .putOwedOne h1) hs

theorem MemOk.chuteFetchOrStop {s : State} (hs : MemOk s) {ch : Nat} : MemOk (s.chuteFetchOrStop ch) := by
  unfold State.chuteFetchOrStop
  split
  · refine .ite ?_ ?_
    · exact .setChute hs
    · split
      · rename_i s1 _ heq
        have h1 : MemOk s1 := .of_eq heq (.chuteFetch hs)
        exact .ite (.setChute h1) (.chuteStop (.putOwed (.setChute h1)))

theorem MemOk.opChuteGo {ch : Nat} {s : State} (hs : MemOk s) : MemOk (opChuteGo ch s) := by
  unfold Machine.opChuteGo
  exact .ite hs (.chuteFetchOrStop (.putF (.putF (.putF (.putF (.setChute (.ite (.putF hs) hs)))))))

theorem MemOk.opChuteAbort {ch : Nat} {s : State} (hs : MemOk s) : MemOk (opChuteAbort ch s) := by
  unfold Machine.opChuteAbort
  exact .ite (.chuteStop hs) hs

theorem MemOk.chuteEnd {s : State} (hs : MemOk s) {ch : Nat} {d : Desc} {status : Nat} {crc : BitVec 32} : MemOk (s.chuteEnd ch d
    status crc) := by
  unfold State.chuteEnd
  extract_lets -merge +onlyGivenNames _ _
  split
  · rename_i s1 _ heq
    have h1 : MemOk s1 := .of_eq heq (.ite_fst (.putResult hs) hs)
    exact .chuteStop (.setChute (.putOwed (.ite h1 (.chuteSignal h1))))

theorem MemOk.chuteMove {d : Desc} {ch f o : Nat} {crc : BitVec 32} {s : State} (hs : MemOk s) : MemOk (State.chuteMove d ch f o crc
    s).1 := by
  induction f generalizing o crc s with
  | zero => exact hs
  | succ f ih =>
    unfold State.chuteMove
    refine .ite_fst hs ?_
    extract_lets -merge +onlyGivenNames _ _ s1
    have h1 : MemOk s1 := .ite (.chuteMet hs) hs
    refine .ite_fst h1 ?_
    extract_lets -merge +onlyGivenNames _ _ s2
    have h2 : MemOk s2 := .ite (.chuteMet h1) h1
    refine .ite_fst h2 ?_
    extract_lets -merge +onlyGivenNames s3 s4
    have h3 : MemOk s3 := .ite (.writeDev h2) (h2.putHostMem (Memory.wf_mwrite _ _ h2.hostMem_wf))
    have h4 : MemOk s4 := .putF h3
    exact ih h4

theorem MemOk.chuteNext {s : State} (hs : MemOk s) {ch : Nat} {d : Desc} {crc : BitVec 32} : MemOk (s.chuteNext ch d crc) := by
  unfold State.chuteNext
  extract_lets -merge +onlyGivenNames _
  split
  · rename_i s1 _ heq
    have h1 : MemOk s1 := .of_eq heq (.ite_fst (.putResult hs) hs)
    exact .ite (.chuteEnd h1) (.chuteFetchOrStop (.putF (.putF (.putHead (.setChute (.ite h1 (.chuteSignal h1)))))))

theorem MemOk.opDescriptorDone {ch : Nat} {s : State} (hs : MemOk s) : MemOk (opDescriptorDone ch s) := by
  unfold Machine.opDescriptorDone
  extract_lets -merge +onlyGivenNames s1 d
  have h1 : MemOk s1 := .ite (.chuteFetchOrStop hs) hs
  refine .ite h1 ?_
  extract_lets -merge +onlyGivenNames c0
  refine .ite (.chuteEnd h1) ?_
  extract_lets -merge +onlyGivenNames start badSrc badDst
  refine .ite (.chuteEnd (.countAddr h1)) ?_
  refine .ite (.chuteEnd (.countAddr h1)) ?_
  have h2 : MemOk (State.chuteMove d ch (d.len / 256 + 1) 0 start s1).1 := .chuteMove h1
  generalize State.chuteMove d ch (d.len / 256 + 1) 0 start s1 = p at h2 ⊢
  obtain ⟨s2, st, crc⟩ := p
  exact .ite (.chuteEnd h2) (.ite (.chuteEnd (.bump h2)) (.chuteNext (.bump h2)))

theorem MemOk.at_ {s : State} (hs : MemOk s) {now : Nat} : MemOk (s.at_ now) := by
  unfold State.at_
  exact .upd hs

theorem MemOk.rebaseAll {s : State} (hs : MemOk s) {old new : Nat} : MemOk (s.rebaseAll old new) := by
  unfold State.rebaseAll
  exact .upd hs

theorem MemOk.nextCount {s : State} (hs : MemOk s) : MemOk s.nextCount := by
  unfold State.nextCount
  extract_lets -merge +onlyGivenNames _
  split
  · exact .putF hs
  · extract_lets -merge +onlyGivenNames s1
    have h1 : MemOk s1 := .raise (.rebaseAll (.putF hs))
    exact .upd h1

theorem MemOk.sendRecords {s : State} (hs : MemOk s) : MemOk s.sendRecords := by
  unfold State.sendRecords
  exact .foldl (fun _ _ h1 => .sendRecord h1) (.upd hs)

theorem MemOk.recordIdle {s : State} (hs : MemOk s) {j c : Nat} {t : Stage} : MemOk (s.recordIdle j c t) := by
  unfold State.recordIdle
  exact .ite hs (.putF (.putF (.putF hs)))

theorem MemOk.closeSheaf {s : State} (hs : MemOk s) {i : Nat} : MemOk (s.closeSheaf i) := by
  unfold State.closeSheaf
  exact .putF (.putF (.putF (.putF (.putF (.putF hs)))))

theorem MemOk.countLate {s : State} (hs : MemOk s) : MemOk s.countLate := by
  unfold State.countLate
  exact .upd hs

theorem MemOk.closeTick {s : State} (hs : MemOk s) : MemOk s.closeTick := by
  unfold State.closeTick
  exact .foldl (fun _ _ h1 => .closeSheaf h1) (.countLate (.foldl (fun _ _ h1 => .foldl (fun _ _ h2 => .recordIdle h2) h1) (.ite
    (.bump (.putF hs)) (.ite (.bump (.putF hs)) (.putF hs)))))

theorem MemOk.stageRead {s : State} (hs : MemOk s) {c a n : Nat} : MemOk (s.stageRead c a n).1 := by
  unfold State.stageRead
  refine .ite_fst ?_ ?_
  · exact hs
  · refine .ite_fst ?_ ?_
    · exact .invalidateCell (.countAddr hs)
    · refine .ite_fst ?_ ?_
      · exact .invalidateCell (.countWrapped hs)
      · extract_lets -merge +onlyGivenNames s1
        have h1 : MemOk s1 := .foldl (fun _ _ h1 => .softWord h1) (.forceRefreshes hs)
        split
        · exact h1
        · exact .foldl (fun _ _ h1 => .stageUe h1) h1

theorem MemOk.walkEntry {s : State} (hs : MemOk s) {c : Nat} {l : ListId} {slot block : Nat} : MemOk (s.walkEntry c l slot block).1
    := by
  unfold State.walkEntry
  split
  · rename_i s1 heq
    have h1 : MemOk s1 := .of_eq heq (.stageRead hs)
    exact h1
  · rename_i s1 _ heq
    have h1 : MemOk s1 := .of_eq heq (.stageRead hs)
    exact h1

theorem MemOk.walkScores {s : State} (hs : MemOk s) {c : Nat} {l : ListId} {slot copy block : Nat} : MemOk (s.walkScores c l slot
    copy block).1 := by
  unfold State.walkScores
  split
  · rename_i s1 _ heq
    have h1 : MemOk s1 := .of_eq heq (.stageRead hs)
    exact h1

theorem MemOk.stageWrite {s : State} (hs : MemOk s) {c a : Nat} {bs : List Byte} : MemOk (s.stageWrite c a bs) := by
  unfold State.stageWrite
  refine .ite ?_ ?_
  · exact hs
  · refine .ite ?_ ?_
    · exact .invalidateCell (.countAddr hs)
    · refine .ite ?_ ?_
      · exact .invalidateCell (.countWrapped hs)
      · extract_lets -merge +onlyGivenNames _ s1 s2
        have h1 : MemOk s1 := .forceRefreshes hs
        have h2 : MemOk s2 := .foldl (fun _ _ h1 => .softWord h1) h1
        split
        · exact .writeDev h2
        · exact .foldl (fun _ _ h1 => .stageUe h1) h2

theorem MemOk.addIncs {s : State} (hs : MemOk s) {j : Nat} {l : ListId} {x : Nat × Nat × List WinInc} : MemOk (s.addIncs j l x) := by
  unfold State.addIncs
  split
  · extract_lets -merge +onlyGivenNames _ _
    split
    · rename_i s1 heq
      have h1 : MemOk s1 := .of_eq heq (.walkEntry hs)
      exact h1
    · rename_i s1 _ heq
      have h1 : MemOk s1 := .of_eq heq (.walkEntry hs)
      refine .ite ?_ ?_
      · exact h1
      · split
        · rename_i s2 heq
          have h2 : MemOk s2 := .of_eq heq (.walkScores h1)
          exact h2
        · rename_i s2 _ heq
          have h2 : MemOk s2 := .of_eq heq (.walkScores h1)
          exact .stageWrite h2

theorem MemOk.writeScores {s : State} (hs : MemOk s) {j : Nat} : MemOk (s.writeScores j) := by
  unfold State.writeScores
  exact .foldl (fun _ _ h1 => .foldl (fun _ _ h2 => .addIncs h2) h1) hs

theorem MemOk.readEntry {s : State} (hs : MemOk s) {j : Nat} {l : ListId} {slot block : Nat} : MemOk (s.readEntry j l slot block).1
    := by
  unfold State.readEntry
  split
  · rename_i s1 _ heq
    have h1 : MemOk s1 := .of_eq heq (.touchRead hs)
    exact h1

theorem MemOk.touchWrite {s : State} (hs : MemOk s) {j a : Nat} {bs : List Byte} : MemOk (s.touchWrite j a bs) := by
  unfold State.touchWrite
  split
  · rename_i s1 heq
    have h1 : MemOk s1 := .of_eq heq (.touchWords hs)
    exact .writeDev h1
  · rename_i s1 heq
    have h1 : MemOk s1 := .of_eq heq (.touchWords hs)
    exact h1

theorem MemOk.setTableEntry {s : State} (hs : MemOk s) {j : Nat} {l : ListId} {slot block : Nat} {t : TableEntry} : MemOk
    (s.setTableEntry j l slot block t) := by
  unfold State.setTableEntry
  exact .touchWrite hs

theorem MemOk.switchSels {s : State} (hs : MemOk s) {j : Nat} : MemOk (s.switchSels j) := by
  unfold State.switchSels
  exact .foldl (fun _ _ h1 => .foldl (fun _ _ h2 => (by
    dsimp only
    split
    · rename_i s1 _ heq
      have h1 : MemOk s1 := .of_eq heq (.readEntry h2)
      exact .ite h1 (.setTableEntry h1)
    · rename_i s1 heq
      have h1 : MemOk s1 := .of_eq heq (.readEntry h2)
      exact h1)) h1) hs

theorem MemOk.setPageRefs {s : State} (hs : MemOk s) {j : Nat} {e : KvEntry} {page n : Nat} : MemOk (s.setPageRefs j e page n) := by
  unfold State.setPageRefs
  exact .touchWrite hs

theorem MemOk.dropRef {s : State} (hs : MemOk s) {j : Nat} {l : ListId} {page re : Nat} : MemOk (s.dropRef j l page re) := by
  unfold State.dropRef
  split
  · rename_i s1 heq
    have h1 : MemOk s1 := .of_eq heq (.readRefs hs)
    exact h1
  · rename_i s1 _ heq
    have h1 : MemOk s1 := .of_eq heq (.readRefs hs)
    exact .ite (.freeSlot (.setPageRefs h1)) (.setPageRefs h1)

theorem MemOk.dropPage {s : State} (hs : MemOk s) {j : Nat} {l : ListId} {slot block : Nat} {page re : Nat} : MemOk (s.dropPage j l
    slot block page re) := by
  unfold State.dropPage
  exact .ite hs (.dropRef (.setTableEntry hs))

theorem MemOk.dropBlock {s : State} (hs : MemOk s) {j : Nat} {l : ListId} {slot block re : Nat} : MemOk (s.dropBlock j l slot block
    re) := by
  unfold State.dropBlock
  split
  · rename_i s1 heq
    have h1 : MemOk s1 := .of_eq heq (.readEntry hs)
    exact h1
  · rename_i s1 _ heq
    have h1 : MemOk s1 := .of_eq heq (.readEntry hs)
    exact .dropPage h1

theorem MemOk.dropNewPages {s : State} (hs : MemOk s) {j : Nat} : MemOk (s.dropNewPages j) := by
  unfold State.dropNewPages
  exact .foldl (fun _ _ h1 => .foldl (fun _ _ h2 => .foldl (fun _ _ h3 => .dropBlock h3) h2) h1) hs

theorem MemOk.endInTick {s : State} (hs : MemOk s) {acc : FeedEnds} {i status : Nat} : MemOk (s.endInTick acc i status).1 := by
  unfold State.endInTick
  exact .modStream (.endStream hs)

theorem MemOk.blockEntries {s : State} (hs : MemOk s) {i block : Nat} : MemOk (s.blockEntries i block).1 := by
  unfold State.blockEntries
  extract_lets -merge +onlyGivenNames _
  exact .foldl_fst (fun _ _ h1 => (by
    split
    · rename_i s1 _ heq
      have h1 : MemOk s1 := .of_eq heq (.readEntry h1)
      exact h1)) hs

theorem MemOk.putPfx {s : State} (hs : MemOk s) {p : PfxEntry} : MemOk (s.putPfx p) := by
  unfold State.putPfx
  exact .putF (.pfxWrite (.pfxWrite (.upd hs)))

theorem MemOk.leaveBlock {s : State} (hs : MemOk s) {i block re : Nat} : MemOk (s.leaveBlock i block re) := by
  unfold State.leaveBlock
  extract_lets -merge +onlyGivenNames _
  split
  · rename_i s1 _ heq
    have h1 : MemOk s1 := .of_eq heq (.blockEntries hs)
    extract_lets -merge +onlyGivenNames s2
    have h2 : MemOk s2 := (by
      dsimp only [s2]
      split
      · exact .putPfx h1
      · exact h1)
    exact .foldl (fun _ _ h1 => (by
      split
      · exact .dropPage h1
      · exact h1)) h2

theorem MemOk.leaveFrom {s : State} (hs : MemOk s) {i first re : Nat} : MemOk (s.leaveFrom i first re) := by
  unfold State.leaveFrom
  exact .foldl (fun _ _ h1 => .leaveBlock h1) hs

theorem MemOk.putStreamRec {s : State} (hs : MemOk s) {i first : Nat} : MemOk (s.putStreamRec i first) := by
  unfold State.putStreamRec
  extract_lets -merge +onlyGivenNames _
  split
  · exact hs
  · exact .pfxWrite (.pfxWrite hs)

theorem MemOk.recordKeys {s : State} (hs : MemOk s) {i : Nat} : MemOk (s.recordKeys i).1 := by
  unfold State.recordKeys
  exact .ite_fst hs (.putStreamRec (.foldl (fun _ _ h1 => .modStream h1) hs))

theorem MemOk.validStream {v : Validated} (hv : MemOk v.s) {i : Nat} : MemOk (State.validStream v i).s := by
  unfold State.validStream
  extract_lets -merge +onlyGivenNames s t cut
  have hs : MemOk s := hv
  have hcut : ∀ {s}, MemOk s → MemOk (cut s) := fun h => .leaveFrom h
  split
  · rename_i c _
    have h1 : MemOk ((cut (s.bump F.kvpWin_fails c)).endInTick v.feeds i 0x12).1 := .endInTick (hcut (.bump hs))
    exact h1
  · extract_lets -merge +onlyGivenNames own acc emit len full stop
    generalize takeFed (own.filter (fun r => r.kind == .fed)).length t.feeds = td
    obtain ⟨rest, done⟩ := td
    dsimp -zeta only
    extract_lets -merge +onlyGivenNames s1 s2
    have h1 : MemOk s1 := .modStream hs
    have h2 : MemOk s2 := .leaveFrom h1
    have h3 : MemOk (s2.recordKeys i).1 := .recordKeys h2
    generalize s2.recordKeys i = p at h3 ⊢
    obtain ⟨s3, blocks⟩ := p
    dsimp -zeta only at h3 ⊢
    extract_lets -merge +onlyGivenNames _ entry s4 fs
    have h4 : MemOk s4 := .ite (.modStream (.streamEntry h3)) (.dropTokenReservation h3)
    cases t.noCand with
    | none => exact h4
    | some c =>
      have h5 : MemOk ((s4.bump F.celSamp_empty c).endInTick fs i 0x14).1 := .endInTick (.bump h4)
      exact h5

theorem MemOk.judgeStream {v : Validated} (hv : MemOk v.s) {i : Nat} : MemOk (State.judgeStream v i).s := by
  unfold State.judgeStream
  extract_lets -merge +onlyGivenNames t p fail cut out
  have hfail : ∀ {v st}, MemOk v.s → MemOk (fail v st).s := fun {v st} h => by
    have h1 : MemOk (v.s.endInTick v.feeds i st).1 := .endInTick h
    exact h1
  have hcut : MemOk cut.s := .leaveFrom hv
  have hout : MemOk out.s := by
    unfold out
    split
    · split
      · exact hcut
      · exact hv
    · split
      · exact hfail hv
      · split
        · split
          · exact hv
          · split
            · exact hfail hcut
            · exact hfail hv
        · split
          · exact hv
          · exact .validStream hv
  exact .modStream hout

theorem judgeStreams_memOk {v : Validated} (hv : MemOk v.s) {l : List Nat} : MemOk (l.foldl State.judgeStream v).s := by
  induction l generalizing v with
  | nil => exact hv
  | cons i r ih => exact ih (.judgeStream hv)

theorem MemOk.worsen {s : State} (hs : MemOk s) {i v : Nat} : MemOk (s.worsen i v) := by
  unfold State.worsen
  exact .putF hs

theorem MemOk.failAbsent {s : State} (hs : MemOk s) {j : Nat} : MemOk (s.failAbsent j) := by
  unfold State.failAbsent
  exact .ite (.foldl (fun _ _ h1 => .worsen h1) hs) hs

theorem MemOk.endFeeds {s : State} (hs : MemOk s) {fs : FeedEnds} : MemOk (s.endFeeds fs) := by
  unfold State.endFeeds
  exact .foldl (fun _ _ h1 => .endFeed h1) hs

theorem MemOk.settlePools {s : State} (hs : MemOk s) {js : List Nat} : MemOk (s.settlePools js) := by
  unfold State.settlePools
  exact .upd hs

theorem MemOk.validate {s : State} (hs : MemOk s) {js : List Nat} : MemOk (s.validate js).1 := by
  unfold State.validate
  extract_lets -merge +onlyGivenNames s1 v s2 s3
  have h1 : MemOk s1 := .foldl (fun _ _ h1 => .ite (.switchSels (.ite (.writeScores h1) h1)) (.dropNewPages (.ite (.writeScores h1)
    h1))) hs
  have hv : MemOk v.s := judgeStreams_memOk h1
  have h2 : MemOk s2 := .foldl (fun _ _ h1 => .failAbsent h1) hv
  have h3 : MemOk s3 := .foldl (fun _ _ h1 => .modProg h1) h2
  exact .foldl (fun _ _ h1 => .failStream h1) (.endFeeds (.settlePools h3))

theorem MemOk.pfxTouch {s : State} (hs : MemOk s) {j o n : Nat} : MemOk (s.pfxTouch j o n).1 := by
  unfold State.pfxTouch
  extract_lets -merge +onlyGivenNames _ _
  split
  · rename_i s1 _ heq
    have h1 : MemOk s1 := .of_eq heq (.touchWords hs)
    exact h1

theorem MemOk.makeRoom {n f : Nat} {s : State} (hs : MemOk s) : MemOk (State.makeRoom n f s) := by
  induction f generalizing s with
  | zero => exact hs
  | succ f ih =>
    unfold State.makeRoom
    refine .ite hs ?_
    split
    · exact hs
    · exact ih (.bump (.dropPfx hs))

theorem MemOk.pfxInsert {s : State} (hs : MemOk s) {e : Nat × Nat} : MemOk (s.pfxInsert e) := by
  have hbe : ∀ {s i b}, MemOk s → MemOk (State.blockEntries s i b).1 := fun h => .blockEntries h
  have hpt : ∀ {s j o n}, MemOk s → MemOk (State.pfxTouch s j o n).1 := fun h => .pfxTouch h
  rw [show @State.pfxInsert = _ from by delta State.pfxInsert; exact rfl]
  -- as for the lookup: the functions stand for any, so that no step of the check evaluates them
  revert hbe hpt
  generalize blockKey = hash
  generalize State.pfxTouch = touch
  generalize State.blockEntries = entries
  revert hash touch entries
  refine id ?_
  intro hash touch entries hbe hpt
  split
  rename_i i b
  extract_lets -merge +onlyGivenNames t toks
  split
  rename_i key check _
  refine .ite hs ?_
  extract_lets -merge +onlyGivenNames skip
  split
  rename_i s2 es heq
  have h2 : MemOk s2 := .of_eq heq (hbe hs)
  extract_lets -merge +onlyGivenNames pages
  split
  rename_i s3 bad heq
  have h3 : MemOk s3 := .of_eq heq (hpt h2)
  refine .ite (.bump h3) (.ite h3 (.ite h3 ?_))
  extract_lets -merge +onlyGivenNames mine old
  split
  rename_i s4 way heq
  have h4 : MemOk s4 := by
    split at heq
    · exact .of_mk_eq heq h3
    · exact .of_mk_eq heq (.dropPfx h3)
    · exact .of_mk_eq heq h3
  split
  · exact .bump h4
  · extract_lets -merge +onlyGivenNames n s5
    have h5 : MemOk s5 := .makeRoom h4
    split
    · exact .bump h5
    · exact .bump (.putPfx h5)

theorem MemOk.flushPfx {s : State} (hs : MemOk s) : MemOk s.flushPfx := by
  unfold State.flushPfx
  exact .ite (.putF (.foldl (fun _ _ h1 => .dropPfx h1) hs)) hs

theorem MemOk.copyTouch {s : State} (hs : MemOk s) {i : Nat} {ws needs : List Nat} : MemOk (s.copyTouch i ws needs).1 := by
  unfold State.copyTouch
  extract_lets -merge +onlyGivenNames _
  split
  · rename_i s1 heq
    have h1 : MemOk s1 := .of_eq heq (.reachWords hs)
    exact .failStream h1
  · rename_i s1 heq
    have h1 : MemOk s1 := .of_eq heq (.reachWords hs)
    extract_lets -merge +onlyGivenNames s2
    have h2 : MemOk s2 := .foldl (fun _ _ h1 => .softWord h1) h1
    split
    · exact h2
    · exact .failStream (.foldl (fun _ _ h1 => .ueRecord h1) h2)

theorem MemOk.reclaim {j : Nat} {l : ListId} {prec f : Nat} {s : State} (hs : MemOk s) : MemOk (State.reclaim j l prec f s) := by
  induction f generalizing s with
  | zero => exact hs
  | succ f ih =>
    unfold State.reclaim
    refine .ite hs ?_
    split
    · exact hs
    · exact ih (.bump (.dropPfx hs))

theorem MemOk.allocPage {s : State} (hs : MemOk s) {j : Nat} {l : ListId} {prec : Nat} : MemOk (s.allocPage j l prec).1 := by
  unfold State.allocPage
  extract_lets -merge +onlyGivenNames s1
  have h1 : MemOk s1 := .ite hs (.reclaim hs)
  split
  · exact .setPoolSlot h1
  · exact h1

theorem MemOk.copyWrite {i : Nat} {acc : State × Bool} (h_acc : MemOk acc.1) {a : Nat} {bs : List Byte} : MemOk (State.copyWrite i
    acc a bs).1 := by
  unfold State.copyWrite
  refine .ite_fst ?_ ?_
  · exact h_acc
  · split
    · rename_i s1 heq
      have h1 : MemOk s1 := .of_eq heq (.copyTouch h_acc)
      exact .writeDev h1
    · rename_i s1 heq
      have h1 : MemOk s1 := .of_eq heq (.copyTouch h_acc)
      exact h1

theorem MemOk.copyPage {s : State} (hs : MemOk s) {i : Nat} {k : CopyJob} : MemOk (s.copyPage i k).1 := by
  unfold State.copyPage
  extract_lets -merge +onlyGivenNames _
  split
  · exact hs
  · extract_lets -merge +onlyGivenNames _
    split
    · rename_i s1 heq
      have h1 : MemOk s1 := .of_eq heq (.copyTouch hs)
      exact h1
    · rename_i s1 heq
      have h1 : MemOk s1 := .of_eq heq (.copyTouch hs)
      extract_lets -merge +onlyGivenNames _ _ _ _
      refine .ite_fst ?_ ?_
      · exact h1
      · refine .ite_fst ?_ ?_
        · exact h1
        · extract_lets -merge +onlyGivenNames _
          split
          · rename_i s2 heq
            have h2 : MemOk s2 := .of_eq heq (.copyTouch h1)
            exact h2
          · rename_i s2 heq
            have h2 : MemOk s2 := .of_eq heq (.copyTouch h1)
            split
            · rename_i s3 heq
              have h3 : MemOk s3 := .of_eq heq (.allocPage h2)
              exact h3
            · rename_i s3 _ heq
              have h3 : MemOk s3 := .of_eq heq (.allocPage h2)
              extract_lets -merge +onlyGivenNames _ _ s4 _ _ _ p5
              have h4 : MemOk s4 := .setPoolSlot h3
              have h5 : MemOk p5.1 := .foldl_fst (fun _ _ h1 => .copyWrite h1) (.copyWrite h4)
              split
              · rename_i s6 heq
                have h6 : MemOk s6 := .of_eq heq (.copyWrite h5)
                exact .freeSlot h6
              · rename_i s6 heq
                have h6 : MemOk s6 := .of_eq heq (.copyWrite h5)
                exact .bump (.dropRef h6)

theorem MemOk.copyPages {s : State} (hs : MemOk s) {i : Nat} : MemOk (s.copyPages i) := by
  unfold State.copyPages
  split
  · exact hs
  · rename_i k _ _
    have h1 : MemOk (s.blockEntries i k.block).1 := .blockEntries hs
    generalize s.blockEntries i k.block = p at h1 ⊢
    obtain ⟨s1, es⟩ := p
    dsimp -zeta only at h1 ⊢
    extract_lets -merge +onlyGivenNames set s2
    have h2 : MemOk s2 := .foldl (fun _ _ h1 => .ite h1 (.ite (.modStream (.copyPage h1)) (.copyPage h1))) h1
    clear_value set s2
    cases set with
    | none => exact h2
    | some p => exact .ite (.putPfx h2) h2

theorem MemOk.streamWork {s : State} (hs : MemOk s) {js : List Nat} {blocks : List (Nat × Nat)} : MemOk (s.streamWork js blocks) := by
  unfold State.streamWork
  exact .foldl (fun _ _ h1 => .pfxInsert h1) (.flushPfx (.foldl (fun _ _ h1 => .copyPages h1) hs))

theorem MemOk.signalWritten {s : State} (hs : MemOk s) : MemOk s.signalWritten := by
  unfold State.signalWritten
  exact .foldl (fun _ _ h1 => .signalCq h1) (.upd hs)

theorem MemOk.relay {s : State} (hs : MemOk s) {port : Option Nat} {part : Nat} {w : CtlWord} : MemOk (s.relay port part w) := by
  unfold State.relay
  exact .foldl (fun _ _ h1 => .send h1) (.upd hs)

theorem MemOk.tell {s : State} (hs : MemOk s) {w : CtlWord} : MemOk (s.tell w) := by
  unfold State.tell
  exact .relay hs

theorem MemOk.moveRaise {s : State} (hs : MemOk s) {us : Nat} : MemOk (s.moveRaise us) := by
  unfold State.moveRaise
  exact .tell (.upd hs)

theorem MemOk.replayRaises {s : State} (hs : MemOk s) : MemOk s.replayRaises := by
  unfold State.replayRaises
  exact .foldl (fun _ _ h1 => .ite (.moveRaise h1) (.tell h1)) hs

theorem MemOk.deferRinged {s : State} (hs : MemOk s) : MemOk s.deferRinged := by
  unfold State.deferRinged
  split
  · exact .ite (.putF (.upd hs)) hs
  · exact hs

theorem MemOk.moveTarget {s : State} (hs : MemOk s) : MemOk s.moveTarget := by
  unfold State.moveTarget
  split
  · exact hs
  · exact .ite (.tell (.deferRinged (.upd hs))) (.deferRinged (.upd hs))

theorem MemOk.replayAhead {s : State} (hs : MemOk s) : MemOk s.replayAhead := by
  unfold State.replayAhead
  exact .ite hs (.ite (.replayRaises hs) (.ite (.moveTarget (.replayRaises hs)) (.tell (.replayRaises hs))))

theorem MemOk.giveRows {s : State} (hs : MemOk s) {i n : Nat} : MemOk (s.giveRows i n) := by
  unfold State.giveRows
  exact .modStream (.reserve hs)

theorem MemOk.assignRows {s : State} (hs : MemOk s) {j : Nat} : MemOk (s.assignRows j) := by
  unfold State.assignRows
  exact .ite hs (.foldl_fst (fun _ _ h1 => .ite_fst h1 (.ite_fst (.bump h1) (.modProg (.giveRows h1)))) hs)

theorem MemOk.setScores {s : State} (hs : MemOk s) {j : Nat} {l : ListId} {slot c block : Nat} {vs : List Nat} : MemOk (s.setScores
    j l slot c block vs) := by
  unfold State.setScores
  exact .ite (.touchWrite hs) hs

theorem MemOk.attach {s : State} (hs : MemOk s) {i : Nat} {p : PfxEntry} {toks : List (BitVec 32)} : MemOk (s.attach i p toks) := by
  unfold State.attach
  extract_lets -merge +onlyGivenNames _ _ s1 s2
  have h1 : MemOk s1 := .putPfx hs
  have h2 : MemOk s2 := .foldl (fun _ _ h1 => .setScores (.setTableEntry (.setPageRefs h1))) h1
  exact .endFeeds (.ite (.streamEntry (.reserve (.bump (.putStreamRec (.modStream h2))))) (.bump (.putStreamRec (.modStream h2))))

theorem MemOk.pfxLookup {s : State} (hs : MemOk s) {i : Nat} : MemOk (s.pfxLookup i).1 := by
  have hpt : ∀ {s j o n}, MemOk s → MemOk (State.pfxTouch s j o n).1 := fun h => .pfxTouch h
  rw [show @State.pfxLookup = _ from by delta State.pfxLookup; exact rfl]
  -- the hash and the reads of the region for prefixes stand for any functions, so that no step of the check evaluates them
  revert hpt
  generalize blockKey = hash
  generalize State.pfxTouch = touch
  revert hash touch
  refine id ?_
  intro hash touch hpt
  extract_lets -merge +onlyGivenNames t toks
  split
  rename_i key check _
  extract_lets -merge +onlyGivenNames s1
  have h1 : MemOk s1 := .bump hs
  split
  rename_i s2 bad heq
  have h2 : MemOk s2 := .of_eq heq (hpt h1)
  extract_lets -merge +onlyGivenNames miss
  have hmiss : ∀ {s f}, MemOk s → MemOk (miss s f).1 := fun h => MemOk.modStream (.bump h)
  split
  · exact hmiss h2
  · refine .ite_fst (hmiss h2) (.ite_fst (hmiss h2) ?_)
    split
    rename_i s3 bad heq
    have h3 : MemOk s3 := .of_eq heq (hpt h2)
    exact .ite_fst (hmiss (.dropPfx h3)) (.ite_fst (hmiss h3) (.ite_fst (hmiss h3) (.attach h3)))

theorem MemOk.lookups {i n : Nat} {s : State} (hs : MemOk s) : MemOk (State.lookups i n s).1 := by
  have hl : ∀ {s}, MemOk s → MemOk (State.pfxLookup s i).1 := fun h => .pfxLookup h
  rw [show @State.lookups = _ from by delta State.lookups State.lookups._f; exact rfl]
  revert hl
  generalize State.pfxLookup = look
  revert look
  refine id ?_
  intro look hl
  induction n generalizing s with
  | zero => exact hs
  | succ n ih =>
    refine .ite_fst (c := s.eligible i = true) ?_ hs
    have h1 := hl hs
    generalize look s i = p at h1 ⊢
    obtain ⟨s1, more⟩ := p
    cases more with
    | true => exact ih h1
    | false => exact h1

theorem MemOk.allLookups {s : State} (hs : MemOk s) {js : List Nat} : MemOk (s.allLookups js) := by
  unfold State.allLookups
  exact .foldl_fst (fun _ _ h1 => (by
    split
    · rename_i s1 _ heq
      have h1 : MemOk s1 := .of_eq heq (.lookups h1)
      exact h1)) hs

theorem MemOk.nextRows {s : State} (hs : MemOk s) : MemOk s.nextRows := by
  unfold State.nextRows
  exact .ite hs (.foldl (fun _ _ h1 => .assignRows h1) (.allLookups hs))

theorem MemOk.settleHeld {s : State} (hs : MemOk s) : MemOk s.settleHeld := by
  unfold State.settleHeld
  extract_lets -merge +onlyGivenNames _
  refine .ite ?_ ?_
  · exact hs
  · split
    · rename_i s1 _ heq
      have h1 : MemOk s1 := .of_eq heq (.validate hs)
      exact .signalWritten (.replayAhead (.nextRows (.streamWork (.upd h1))))

theorem MemOk.resumeLoads {s : State} (hs : MemOk s) {wait : Bool} : MemOk (s.resumeLoads wait) := by
  unfold State.resumeLoads
  exact .foldl (fun _ _ h1 => .loadNow h1) (.upd hs)

theorem MemOk.showRefresh {s : State} (hs : MemOk s) {c : Nat} : MemOk (s.showRefresh c) := by
  unfold State.showRefresh
  exact .putF hs

theorem MemOk.selfRefresh {s : State} (hs : MemOk s) {c : Nat} {on : Bool} : MemOk (s.selfRefresh c on) := by
  unfold State.selfRefresh
  exact .showRefresh (.modChan hs)

theorem MemOk.dropFlail {s : State} (hs : MemOk s) {c : Nat} {f : FlailCmd} : MemOk (s.dropFlail c f) := by
  unfold State.dropFlail
  exact .ite (.portEnd hs) (.ite (.send hs) hs)

theorem MemOk.showFlails {s : State} (hs : MemOk s) {c : Nat} : MemOk (s.showFlails c) := by
  unfold State.showFlails
  exact .putF (.putF (.putF hs))

theorem MemOk.dropQueued {s : State} (hs : MemOk s) {c : Nat} : MemOk (s.dropQueued c) := by
  unfold State.dropQueued
  exact .showFlails (.modChan (.foldl (fun _ _ h1 => .dropFlail h1) hs))

theorem MemOk.finishStop {s : State} (hs : MemOk s) : MemOk s.finishStop := by
  unfold State.finishStop
  extract_lets -merge +onlyGivenNames cause s1 s2 s3 s4 _ s5
  have h1 : MemOk s1 := .foldl (fun _ _ h1 => .failStream h1) hs
  have h1' : MemOk { s1 with accWait := [] } := .upd h1
  have h2 : MemOk s2 := .resumeLoads (.foldl (fun _ _ h1 => .serve h1) h1')
  have h3 : MemOk s3 := .foldl (fun _ _ h1 => .selfRefresh (.dropQueued h1)) h2
  have h4 : MemOk s4 := .putF h3
  have h5 : MemOk s5 := .sendRecords (.upd h4)
  exact .raise h5

theorem MemOk.keepComputeStop {s : State} (hs : MemOk s) : MemOk s.keepComputeStop := by
  unfold State.keepComputeStop
  exact .foldl (fun _ _ h1 => .setChute (.chuteStop h1)) (.upd hs)

theorem MemOk.freshTick {s : State} (hs : MemOk s) {now : Nat} : MemOk (s.freshTick now) := by
  unfold State.freshTick
  exact .ite (.tell (.upd hs)) (.upd hs)

theorem MemOk.countInStart {s : State} (hs : MemOk s) {f : Fld} : MemOk (s.countInStart f) := by
  unfold State.countInStart
  exact .ite (.putF (.bump hs)) hs

theorem MemOk.narrowChannel {s : State} (hs : MemOk s) {c : Nat} : MemOk (s.narrowChannel c) := by
  unfold State.narrowChannel
  exact .worsen (.raise (.countInStart (.ite (.putF (.putF (.modChan hs))) (.putF (.modChan hs)))))

theorem MemOk.failLater {s : State} (hs : MemOk s) {j status : Nat} : MemOk (s.failLater j status) := by
  unfold State.failLater
  exact .modProg hs

theorem MemOk.setUsable {s : State} (hs : MemOk s) {c : Nat} {b : Bool} : MemOk (s.setUsable c b) := by
  unfold State.setUsable
  exact .setReg hs

theorem MemOk.setCell {s : State} (hs : MemOk s) {c : Nat} {x : Cell} : MemOk (s.setCell c x) := by
  unfold State.setCell
  exact .upd hs

theorem MemOk.modCell {s : State} (hs : MemOk s) {c : Nat} {f : Cell → Cell} : MemOk (s.modCell c f) := by
  unfold State.modCell
  exact .setCell hs

theorem MemOk.degrade {s : State} (hs : MemOk s) {sheafs : List Nat} : MemOk (s.degrade sheafs) := by
  unfold State.degrade
  exact .foldl (fun _ _ h1 => .putF h1) hs

theorem MemOk.retireCell {s : State} (hs : MemOk s) {c reason : Nat} : MemOk (s.retireCell c reason) := by
  unfold State.retireCell
  exact .ite hs (.ite (.raise (.countInStart (.errsum (.degrade (.setUsable (.modCell hs)))))) (.errsum (.degrade (.setUsable
    (.modCell hs)))))

theorem MemOk.failProgram {s : State} (hs : MemOk s) {j status : Nat} : MemOk (s.failProgram j status) := by
  unfold State.failProgram
  exact .foldl (fun _ _ h1 => .failStream h1) hs

theorem MemOk.moveStage {s : State} (hs : MemOk s) {c : Nat} : MemOk (s.moveStage c) := by
  unfold State.moveStage
  split
  · exact hs
  · split
    · exact .upd hs
    · exact .failProgram (.worsen hs)

theorem MemOk.losePrefix {s : State} (hs : MemOk s) {c : Nat} : MemOk (s.losePrefix c) := by
  unfold State.losePrefix
  refine .ite ?_ ?_
  · extract_lets -merge +onlyGivenNames s1 _ s2
    have h1 : MemOk s1 := .foldl (fun _ _ h1 => .dropPfx h1) hs
    have h2 : MemOk s2 := .upd h1
    exact .raise (.putF h2)
  · exact hs

theorem MemOk.retireChannel {s : State} (hs : MemOk s) {c reason : Nat} : MemOk (s.retireChannel c reason) := by
  unfold State.retireChannel
  refine .ite ?_ ?_
  · exact hs
  · extract_lets -merge +onlyGivenNames s1 s2 s3 _ s4 s5 s6 s7
    have h1 : MemOk s1 := .modChan hs
    have h2 : MemOk s2 := .putF (.putF (.putF (.putF (.dropQueued h1))))
    have h3 : MemOk s3 := .raise (.countInStart h2)
    have h4 : MemOk s4 := .foldl (fun _ _ h1 => .ite (.foldl (fun _ _ h2 => .failStream h2) (.modProg h1)) h1) h3
    have h5 : MemOk s5 := .foldl (fun _ _ h1 => .failLater h1) h4
    have h6 : MemOk s6 := .retireCell h5
    have h7 : MemOk s7 := (by
      dsimp only [s7]
      split
      · exact .ite h6 (.moveStage h6)
      · exact h6)
    exact .losePrefix h7

theorem MemOk.countFlailWait {s : State} (hs : MemOk s) {c ns : Nat} : MemOk (s.countFlailWait c ns) := by
  unfold State.countFlailWait
  exact .putF (.bump hs)

theorem MemOk.keepStage {s : State} (hs : MemOk s) {c : Nat} {held : Bool} {flails : List Nat} : MemOk (s.keepStage c held flails) := by
  unfold State.keepStage
  exact .modCell (.foldl (fun _ _ h1 => .countFlailWait h1) hs)

theorem MemOk.endKeep {s : State} (hs : MemOk s) {c : Nat} : MemOk (s.endKeep c) := by
  unfold State.endKeep
  exact .ite (.foldl (fun _ _ h1 => .countFlailWait h1) hs) (.modCell (.foldl (fun _ _ h1 => .countFlailWait h1) hs))

theorem MemOk.walkRefs {s : State} (hs : MemOk s) {c : Nat} {e : KvEntry} {page : Nat} : MemOk (s.walkRefs c e page).1 := by
  unfold State.walkRefs
  split
  · rename_i s1 _ heq
    have h1 : MemOk s1 := .of_eq heq (.stageRead hs)
    exact h1

theorem MemOk.walkList {s : State} (hs : MemOk s) {c : Nat} {l : ListId} {t : Stream} : MemOk (s.walkList c l t).1 := by
  unfold State.walkList
  exact .foldl_fst (fun _ _ h1 => (by
    split
    · exact h1
    · split
      · rename_i s1 heq
        have h1 : MemOk s1 := .of_eq heq (.walkEntry h1)
        exact h1
      · rename_i s1 _ heq
        have h1 : MemOk s1 := .of_eq heq (.walkEntry h1)
        refine .ite_fst ?_ ?_
        · exact h1
        · split
          · rename_i s2 heq
            have h2 : MemOk s2 := .of_eq heq (.walkRefs h1)
            exact h2
          · rename_i s2 _ heq
            have h2 : MemOk s2 := .of_eq heq (.walkRefs h1)
            split
            · rename_i s3 heq
              have h3 : MemOk s3 := .of_eq heq (.walkScores h2)
              exact h3
            · rename_i s3 _ heq
              have h3 : MemOk s3 := .of_eq heq (.walkScores h2)
              exact h3)) hs

theorem MemOk.winnowRelease {s : State} (hs : MemOk s) {j : Nat} {l : ListId} {slot block re : Nat} : MemOk (s.winnowRelease j l
    slot block re) := by
  unfold State.winnowRelease
  extract_lets -merge +onlyGivenNames _ s1
  have h1 : MemOk s1 := (by
    dsimp only [s1]
    split
    · exact .dropPfx hs
    · exact hs)
  exact .dropBlock h1

theorem MemOk.winnowList {s : State} (hs : MemOk s) {j c : Nat} {t : Stage} {l : ListId} {i : Nat} : MemOk (s.winnowList j c t l i)
    := by
  unfold State.winnowList
  extract_lets -merge +onlyGivenNames _ _
  refine .ite hs ?_
  have h1 : MemOk (s.walkList c l (s.stream i)).1 := .walkList hs
  split
  · exact hs
  · exact .of_eq ‹_› h1
  · refine .foldl (fun _ _ h1 => .ite h1 (.ite (.bump (.winnowRelease (.bump (.stageWrite h1)))) (.bump (.stageWrite h1)))) (.of_eq
      ‹_› h1)

theorem MemOk.winnowStage {s : State} (hs : MemOk s) {j c : Nat} {t : Stage} : MemOk (s.winnowStage j c t) := by
  unfold State.winnowStage
  exact .foldl (fun _ _ h1 => .foldl (fun _ _ h2 => .foldl (fun _ _ h3 => .winnowList h3) h2) h1) hs

theorem MemOk.aTables {s : State} (hs : MemOk s) {j c : Nat} {t : Stage} : MemOk (s.aTables j c t) := by
  unfold State.aTables
  extract_lets -merge +onlyGivenNames _ s1
  have h1 : MemOk s1 := .ite hs ((by
    split
    · rename_i s1 heq
      have h1 : MemOk s1 := .of_eq heq (.stageRead hs)
      exact h1
    · rename_i s1 _ heq
      have h1 : MemOk s1 := .of_eq heq (.stageRead hs)
      split
      · rename_i s2 heq
        have h2 : MemOk s2 := .of_eq heq (.stageRead h1)
        exact h2
      · rename_i s2 _ heq
        have h2 : MemOk s2 := .of_eq heq (.stageRead h1)
        exact .putF (.bump (.modCell h2))))
  split
  · exact h1
  · exact .ite h1 (.modCell h1)

theorem MemOk.heldTable {s : State} (hs : MemOk s) {c : Nat} {t : Stage} {i : Nat} : MemOk (s.heldTable c t i).1 := by
  unfold State.heldTable
  extract_lets -merge +onlyGivenNames _
  split
  · exact hs
  · split
    · rename_i s1 _ heq
      have h1 : MemOk s1 := .of_eq heq (.stageRead hs)
      exact .putF (.modCell h1)
    · rename_i s1 heq
      have h1 : MemOk s1 := .of_eq heq (.stageRead hs)
      exact h1

theorem MemOk.vTables {s : State} (hs : MemOk s) {c : Nat} {t : Stage} : MemOk (s.vTables c t) := by
  unfold State.vTables
  exact .foldl (fun _ _ h1 => .heldTable h1) hs

theorem MemOk.prepare {s : State} (hs : MemOk s) {j c : Nat} {t : Stage} : MemOk (s.prepare j c t) := by
  unfold State.prepare
  extract_lets -merge +onlyGivenNames _ _ _
  refine .ite ?_ ?_
  · exact .keepStage hs
  · exact .ite (.modCell (.endKeep hs)) (.ite (.winnowStage (.modCell (.endKeep hs))) (.ite (.aTables (.modCell (.endKeep hs)))
      (.ite (.vTables (.modCell (.endKeep hs))) (.modCell (.endKeep hs)))))

theorem MemOk.readAll {s : State} (hs : MemOk s) {c : Nat} {rs : List (Nat × Nat)} : MemOk (s.readAll c rs).1 := by
  unfold State.readAll
  exact .foldl_fst (fun _ _ h1 => .ite_fst ((by
    split
    · rename_i s1 _ heq
      have h1 : MemOk s1 := .of_eq heq (.stageRead h1)
      exact h1)) h1) hs

theorem MemOk.mPass {s : State} (hs : MemOk s) {c : Nat} {t : Stage} {i code : Nat} {scale n0 : Nat} {n k0 kn : Nat} : MemOk
    (s.mPass c t i code scale n0 n k0 kn).1 := by
  unfold State.mPass
  extract_lets -merge +onlyGivenNames _ _
  split
  · rename_i s1 _ heq
    have h1 : MemOk s1 := .of_eq heq (.readAll hs)
    exact .ite_fst (.bump h1) (.dropPass h1)

theorem MemOk.countDrain {s : State} (hs : MemOk s) {c f : Nat} {outs : MOut} : MemOk (s.countDrain c f outs) := by
  unfold State.countDrain
  exact .bump (.bump (.bump (.bump hs)))

theorem MemOk.mRows {s : State} (hs : MemOk s) {j c : Nat} {t : Stage} {i code : Nat} {scale n0 n : Nat} {rows : List (RowHdr × List
    MeshRow)} : MemOk (s.mRows j c t i code scale n0 n rows).1 := by
  have hp : ∀ {s c t i code scale n0 n k0 k}, MemOk s → MemOk (State.mPass s c t i code scale n0 n k0 k).1 := fun h => .mPass h
  rw [show @State.mRows = _ from by delta State.mRows; exact rfl]
  revert hp
  generalize State.mPass = pass
  revert pass
  refine id ?_
  intro pass hp
  extract_lets -merge +onlyGivenNames _ _
  split
  rename_i s1 _ heq
  have h1 : MemOk s1 := .of_eq heq (.foldl_fst (fun _ _ h1 => .ite_fst (hp h1) h1) hs)
  exact .ite_fst h1 (.foldl (fun _ _ h1 => .countDrain h1) h1)

theorem MemOk.mColumns {s : State} (hs : MemOk s) {j c : Nat} {t : Stage} {i code : Nat} {scale n0 n : Nat} {rows : List (RowHdr ×
    List MeshRow)} : MemOk (s.mColumns j c t i code scale n0 n rows).1 := by
  have hr : ∀ {s j c t i code scale n0 n rows}, MemOk s → MemOk (State.mRows s j c t i code scale n0 n rows).1 := fun h => .mRows h
  rw [show @State.mColumns = _ from by delta State.mColumns; exact rfl]
  revert hr
  generalize State.mRows = mr
  revert mr
  refine id ?_
  intro mr hr
  refine .foldl_fst (fun _ _ h1 => ?_) hs
  split
  · exact h1
  · exact hr h1

theorem MemOk.emitTo {s : State} (hs : MemOk s) {c : Nat} {ds : List Nat} {rows : List MeshRow} : MemOk (s.emitTo c ds rows) := by
  unfold State.emitTo
  exact .modCell hs

theorem MemOk.nextFree {s : State} (hs : MemOk s) : MemOk s.nextFree := by
  unfold State.nextFree
  exact .upd hs

theorem MemOk.bubbles {s : State} (hs : MemOk s) {c : Nat} : MemOk (s.bubbles c) := by
  unfold State.bubbles
  exact .nextFree (.nextFree (.ite (.bump (.bump (.bump (.bump hs)))) (.bump (.bump (.bump hs)))))

theorem MemOk.mGroup {s : State} (hs : MemOk s) {j c : Nat} {t : Stage} {i ex : Nat} {rows : List (RowHdr × List MeshRow)} : MemOk
    (s.mGroup j c t i ex rows).1 := by
  unfold State.mGroup
  extract_lets -merge +onlyGivenNames _ _
  split
  · rename_i s1 _ heq
    have h1 : MemOk s1 := .of_eq heq (.foldl_fst (fun _ _ h1 => (by
      split
      · exact h1
      · split
        · rename_i s1 _ heq
          have h1 : MemOk s1 := .of_eq heq (.mColumns h1)
          exact h1)) hs)
    split
    · exact h1
    · exact .bubbles (.foldl (fun _ _ h1 => .emitTo h1) h1)

theorem MemOk.entryDone {s : State} (hs : MemOk s) {c i : Nat} : MemOk (s.entryDone c i) := by
  unfold State.entryDone
  exact .modCell hs

theorem MemOk.mEntry {s : State} (hs : MemOk s) {j c : Nat} {t : Stage} {i : Nat} : MemOk (s.mEntry j c t i) := by
  unfold State.mEntry
  extract_lets -merge +onlyGivenNames _ _ _
  split
  · rename_i s1 _ heq
    have h1 : MemOk s1 := .of_eq heq (.foldl_fst (fun _ _ h1 => .ite_fst (.mGroup h1) h1) hs)
    exact .ite h1 (.ite (.entryDone h1) (.putF (.entryDone h1)))

theorem MemOk.pageEntry {s : State} (hs : MemOk s) {k : Nat} {l : ListId} {t : Stream} {kvh block : Nat} : MemOk (s.pageEntry k l t
    kvh block).1 := by
  unfold State.pageEntry
  split
  · rename_i s1 heq
    have h1 : MemOk s1 := .of_eq heq (.walkEntry hs)
    exact h1
  · rename_i s1 _ heq
    have h1 : MemOk s1 := .of_eq heq (.walkEntry hs)
    exact h1

theorem MemOk.loftRead {s : State} (hs : MemOk s) {c a n : Nat} : MemOk (s.loftRead c a n).1 := by
  unfold State.loftRead
  refine .ite_fst ?_ ?_
  · exact .invalidateCell (.countAddr hs)
  · refine .ite_fst ?_ ?_
    · exact .invalidateCell (.countWrapped hs)
    · extract_lets -merge +onlyGivenNames s1
      have h1 : MemOk s1 := .foldl (fun _ _ h1 => .softWord h1) (.forceRefreshes hs)
      split
      · exact h1
      · exact .foldl (fun _ _ h1 => .stageUe h1) h1

theorem MemOk.readPage {s : State} (hs : MemOk s) {j c : Nat} {t : Stage} {l : ListId} {te : PageEntry} {js : List Nat} : MemOk
    (s.readPage j c t l te js).1 := by
  unfold State.readPage
  extract_lets -merge +onlyGivenNames _ _ _ _ _
  split
  · rename_i s1 heq
    have h1 : MemOk s1 := .of_eq heq (.stageRead hs)
    exact h1
  · rename_i s1 _ heq
    have h1 : MemOk s1 := .of_eq heq (.stageRead hs)
    refine .ite_fst ?_ ?_
    · exact .invalidate (.bump h1)
    · exact .foldl_fst (fun _ _ h1 => (by
        split
        · exact h1
        · extract_lets -merge +onlyGivenNames _
          split
          · rename_i s2 _ heq
            have h2 : MemOk s2 := .of_eq heq (.ite_fst (.loftRead h1) (.stageRead h1))
            split
            · rename_i s3 _ heq
              have h3 : MemOk s3 := .of_eq heq (.stageRead h2)
              split
              · exact h3
              · exact h3)) h1

theorem MemOk.aPages {s : State} (hs : MemOk s) {j c : Nat} {t : Stage} : MemOk (s.aPages j c t).1 := by
  unfold State.aPages
  exact .foldl_fst (fun _ _ h1 => (by
    split
    · exact h1
    · split
      · rename_i s1 heq
        have h1 : MemOk s1 := .of_eq heq (.pageEntry h1)
        exact h1
      · rename_i s1 _ heq
        have h1 : MemOk s1 := .of_eq heq (.pageEntry h1)
        extract_lets -merge +onlyGivenNames _
        refine .ite_fst ?_ ?_
        · exact h1
        · refine .ite_fst ?_ ?_
          · exact h1
          · extract_lets -merge +onlyGivenNames s2
            have h2 : MemOk s2 := .ite (.bump h1) h1
            split
            · rename_i s3 heq
              have h3 : MemOk s3 := .of_eq heq (.readPage h2)
              exact h3
            · rename_i s3 _ heq
              have h3 : MemOk s3 := .of_eq heq (.readPage h2)
              exact h3)) hs

theorem MemOk.admitted {s : State} (hs : MemOk s) {j c : Nat} {t : Stage} {pages : List APage} {st kvh p : Nat} : MemOk (s.admitted
    j c t pages st kvh p).1 := by
  unfold State.admitted
  split
  · exact hs
  · exact .foldl_fst (fun _ _ h1 => .bump h1) hs

theorem MemOk.countHead {s : State} (hs : MemOk s) {c : Nat} {h : HeadOut} : MemOk (s.countHead c h) := by
  unfold State.countHead
  exact .bump (.bump (.bump (.bump (.bump hs))))

theorem MemOk.aHeads {s : State} (hs : MemOk s) {j c : Nat} {t : Stage} {pages : List APage} {h : RowHdr} {q : List Piece} : MemOk
    (s.aHeads j c t pages h q).1 := by
  unfold State.aHeads
  extract_lets -merge +onlyGivenNames _ _ _ _
  refine .foldl_fst (fun p k h1 => ?_) hs
  have h2 : MemOk (if aSilent t then (p.1, []) else p.1.admitted j c t pages h.stream.toNat (t.f 0x2E 2 + k) h.pos.toNat).1 :=
    .ite_fst h1 (.admitted h1)
  exact .modCell (.foldl (fun _ _ h2 => .countHead h2) (.bump h2))

theorem MemOk.settleLam {s : State} (hs : MemOk s) {cells : List Nat} {st row qhead : Nat} {h : HeadOut} : MemOk (s.settleLam cells
    st row qhead h) := by
  unfold State.settleLam
  exact .foldl (fun _ _ h1 => .modCell h1) hs

theorem MemOk.aEntry {s : State} (hs : MemOk s) {j c : Nat} {t : Stage} : MemOk (s.aEntry j c t) := by
  unfold State.aEntry
  extract_lets -merge +onlyGivenNames _ _ _ _ _
  split
  · rename_i s1 heq
    have h1 : MemOk s1 := .of_eq heq (.aPages hs)
    exact h1
  · rename_i s1 _ heq
    have h1 : MemOk s1 := .of_eq heq (.aPages hs)
    extract_lets -merge +onlyGivenNames s2
    have h2 : MemOk s2 := .foldl (fun _ _ h1 => (by
      split
      · rename_i s2 _ heq
        have h2 : MemOk s2 := .of_eq heq (.aHeads h1)
        exact .emitTo (.bump (.ite h2 (.foldl (fun _ _ h2 => .settleLam h2) h2))))) h1
    exact .entryDone h2

theorem MemOk.vParams {s : State} (hs : MemOk s) {c : Nat} {t : Stage} {i dh : Nat} : MemOk (s.vParams c t i dh).1 := by
  unfold State.vParams
  exact .ite_fst (.heldTable hs) (.stageRead hs)

theorem MemOk.vEmit {s : State} (hs : MemOk s) {j c : Nat} {t : Stage} {i : Nat} {h : RowHdr} {fl : Flags} {vs : List Num} : MemOk
    (s.vEmit j c t i h fl vs) := by
  unfold State.vEmit
  exact .emitTo (.bump (.bump hs))

theorem MemOk.scanStream {s : State} (hs : MemOk s) {j c : Nat} {t : Stage} {i : Nat} {d : List Num} {place : Place} {z : Nat} {rows
    : List (RowHdr × List MeshRow)} {stream : Nat} : MemOk (s.scanStream j c t i d place z rows stream) := by
  unfold State.scanStream
  extract_lets -merge +onlyGivenNames _ _ _ _ _
  split
  · rename_i s1 heq
    have h1 : MemOk s1 := .of_eq heq (.stageRead hs)
    exact h1
  · rename_i s1 _ heq
    have h1 : MemOk s1 := .of_eq heq (.stageRead hs)
    extract_lets -merge +onlyGivenNames _ _
    split
    · rename_i s2 _ heq
      have h2 : MemOk s2 := .of_eq heq (.foldl_fst (fun _ _ h1 => .vEmit h1) h1)
      exact .stageWrite h2

theorem MemOk.vEntry {s : State} (hs : MemOk s) {j c : Nat} {t : Stage} {i : Nat} : MemOk (s.vEntry j c t i) := by
  unfold State.vEntry
  extract_lets -merge +onlyGivenNames g p fn n opt dh rows others src1
  have h1 : MemOk (if rows.isEmpty then (s, some []) else s.vParams c t i dh).1 := .ite_fst hs (.vParams hs)
  generalize (if rows.isEmpty then (s, some []) else s.vParams c t i dh) = q at h1 ⊢
  obtain ⟨s1, params⟩ := q
  cases params with
  | none => exact h1
  | some pb =>
    refine .ite ?_ (.entryDone ?_) <;>
    · refine .ite ?_ (.ite (.foldl (fun _ _ h1 => .vEmit h1) h1) (.ite (.foldl (fun _ _ h1 => ?_) h1)
        (.ite (.foldl (fun _ _ h1 => .vEmit h1) h1) (.foldl (fun _ _ h1 => .vEmit h1) h1))))
      · split
        · exact h1
        · exact .foldl (fun _ _ h1 => .scanStream h1) h1
      · dsimp only
        split
        · exact .vEmit h1
        · exact .vEmit h1
        · exact .vEmit h1
        · exact h1

theorem MemOk.scatterEntry {s : State} (hs : MemOk s) {j c : Nat} {t : Stage} {i : Nat} {p : Oper} : MemOk (s.scatterEntry j c t i
    p) := by
  unfold State.scatterEntry
  extract_lets -merge +onlyGivenNames _ _ _ _ _
  split
  · rename_i s1 _ heq
    have h1 : MemOk s1 := .of_eq heq (.foldl_fst (fun _ _ h1 => (by
      dsimp only
      split
      · exact h1
      · exact .ite_fst (.bump h1) (.stageWrite (.ite (.bump h1) h1)))) hs)
    exact .entryDone h1

theorem MemOk.routeEntry {s : State} (hs : MemOk s) {j c : Nat} {t : Stage} {i : Nat} {p : Oper} : MemOk (s.routeEntry j c t i p) := by
  unfold State.routeEntry
  exact .entryDone (.modCell (.emitTo (.bump hs)))

theorem MemOk.openPage {s : State} (hs : MemOk s) {j c : Nat} {l : ListId} {i pos : Nat} {ks vs : List Num} : MemOk (s.openPage j c
    l i pos ks vs).1 := by
  unfold State.openPage
  extract_lets -merge +onlyGivenNames t fail
  have hfail : ∀ {s}, MemOk s → MemOk (fail s).1 := fun h => .modStream h
  refine .ite_fst (hfail hs) ?_
  split
  · exact hfail (.of_eq ‹_› (.allocPage hs))
  · rename_i s1 _ heq
    have h1 : MemOk s1 := .of_eq heq (.allocPage hs)
    exact .bump (.stageWrite (.ite (.stageWrite (.stageWrite h1)) (.stageWrite h1)))

theorem MemOk.appendOne {s : State} (hs : MemOk s) {j c : Nat} {l : ListId} {i pos : Nat} {ks vs : List Num} : MemOk (s.appendOne j
    c l i pos ks vs) := by
  unfold State.appendOne
  extract_lets -merge +onlyGivenNames _ _
  split
  · rename_i s1 _ heq
    have h1 : MemOk s1 := .of_eq heq (.ite_fst hs (.walkEntry hs))
    split
    · rename_i s2 _ heq
      have h2 : MemOk s2 := .of_eq heq ((by
        split
        · exact h1
        · refine .ite_fst ?_ ?_
          · exact h1
          · split
            · rename_i s2 _ heq
              have h2 : MemOk s2 := .of_eq heq (.openPage h1)
              exact h2))
      split
      · exact h2
      · extract_lets -merge +onlyGivenNames _
        split
        · rename_i s3 heq
          have h3 : MemOk s3 := .of_eq heq (.stageRead h2)
          exact h3
        · rename_i s3 _ heq
          have h3 : MemOk s3 := .of_eq heq (.stageRead h2)
          exact .modCell (.bump (.bump (.ite (.stageWrite (.stageWrite (.stageWrite (.stageWrite h3)))) (.stageWrite (.stageWrite
            (.stageWrite h3))))))

theorem MemOk.appendEntry {s : State} (hs : MemOk s) {j c : Nat} {t : Stage} {i : Nat} {p : Oper} : MemOk (s.appendEntry j c t i p)
    := by
  unfold State.appendEntry
  extract_lets -merge +onlyGivenNames _ _ _ _ _ _ _ _ s1
  have h1 : MemOk s1 := .foldl (fun _ _ h1 => .ite (.bump (.foldl (fun _ _ h2 => .ite h2 (.appendOne h2)) h1)) (.foldl (fun _ _ h2
    => .ite h2 (.appendOne h2)) h1)) hs
  exact .ite h1 (.entryDone h1)

theorem MemOk.tableRow {s : State} (hs : MemOk s) {c : Nat} {t : Stage} {i idx : Nat} : MemOk (s.tableRow c t i idx).1 := by
  unfold State.tableRow
  exact .ite_fst (.bump hs) (.stageRead hs)

theorem MemOk.tableRows {s : State} (hs : MemOk s) {c : Nat} {t : Stage} {i : Nat} {ids : List (RowHdr × Nat)} : MemOk (s.tableRows
    c t i ids).1 := by
  unfold State.tableRows
  exact .foldl_fst (fun _ _ h1 => .ite_fst ((by
    split
    · rename_i s1 _ heq
      have h1 : MemOk s1 := .of_eq heq (.tableRow h1)
      exact h1
    · rename_i s1 heq
      have h1 : MemOk s1 := .of_eq heq (.tableRow h1)
      exact h1)) h1) hs

theorem MemOk.gatherEntry {s : State} (hs : MemOk s) {j c : Nat} {t : Stage} {i : Nat} {p : Oper} : MemOk (s.gatherEntry j c t i p)
    := by
  unfold State.gatherEntry
  extract_lets -merge +onlyGivenNames _
  split
  · rename_i s1 _ _ heq
    have h1 : MemOk s1 := .of_eq heq (.tableRows hs)
    exact .ite h1 (.entryDone (.emitTo h1))

theorem MemOk.gEntry {s : State} (hs : MemOk s) {j c : Nat} {t : Stage} {i : Nat} : MemOk (s.gEntry j c t i) := by
  unfold State.gEntry
  exact .ite (.scatterEntry hs) (.ite (.routeEntry hs) (.ite (.appendEntry hs) (.gatherEntry hs)))

theorem MemOk.lSend {s : State} (hs : MemOk s) {j c : Nat} {t : Stage} {i me n : Nat} {result : List Byte} : MemOk (s.lSend j c t i
    me n result) := by
  unfold State.lSend
  exact .entryDone (.bump (.emitTo hs))

theorem MemOk.setPort {s : State} (hs : MemOk s) {p : Nat} {x : Port} : MemOk (s.setPort p x) := by
  unfold State.setPort
  exact .upd hs

theorem MemOk.transmit {s : State} (hs : MemOk s) {p : Nat} {e : Envelope} : MemOk (s.transmit p e) := by
  unfold State.transmit
  exact .ite (.setPort hs) (.send (.setPort hs))

theorem MemOk.linkFailure {s : State} (hs : MemOk s) {rs : List Nat} : MemOk (s.linkFailure rs) := by
  unfold State.linkFailure
  exact .foldl (fun _ _ h1 => (by
    split
    · exact .ite (.errsum (.invalidate (.bump h1))) h1
    · exact h1)) hs

theorem MemOk.sendEnv {s : State} (hs : MemOk s) {p : Nat} {e : Envelope} : MemOk (s.sendEnv p e) := by
  unfold State.sendEnv
  exact .ite (.transmit hs) (.ite (.transmit (.ite (.modCell hs) hs)) (.linkFailure hs))

theorem MemOk.sendFlits {s : State} (hs : MemOk s) {c : Nat} {t : Stage} {i : Nat} {slots : List SlotEntry} {n k : Nat} {replay :
    Bool} {buf : List Byte} : MemOk (s.sendFlits c t i slots n k replay buf) := by
  unfold State.sendFlits
  exact .foldl (fun _ _ h1 => .sendEnv h1) (.nextFree hs)

theorem MemOk.lSendDue {s : State} (hs : MemOk s) {j c : Nat} {t : Stage} {i n : Nat} {start : List Byte} : MemOk (s.lSendDue j c t
    i n start) := by
  unfold State.lSendDue
  exact .foldl (fun _ _ h1 => .modCell (.sendFlits h1)) hs

theorem MemOk.lEntry {s : State} (hs : MemOk s) {j c : Nat} {t : Stage} {i : Nat} : MemOk (s.lEntry j c t i) := by
  unfold State.lEntry
  extract_lets -merge +onlyGivenNames _ _ _ _
  refine .ite ?_ ?_
  · exact .ite hs (.lSend hs)
  · extract_lets -merge +onlyGivenNames _ _ _ _
    refine .ite ?_ ?_
    · exact .lSend hs
    · extract_lets -merge +onlyGivenNames _ s1
      have h1 : MemOk s1 := .lSendDue hs
      split
      · exact h1
      · exact .lSend (.modCell (.ite (.bump h1) h1))

theorem MemOk.sampleStream {s : State} (hs : MemOk s) {j c : Nat} {t : Stage} {st : Nat} {rows : List (RowHdr × List MeshRow)}
    {drafts : List Nat} : MemOk (s.sampleStream j c t st rows drafts) := by
  unfold State.sampleStream
  extract_lets -merge +onlyGivenNames _ _
  split
  · exact hs
  · exact .ite hs (.ite (.modStream hs) (.emitTo (.bump (.bump (.modStream hs)))))

theorem MemOk.sEntry {s : State} (hs : MemOk s) {j c : Nat} {t : Stage} : MemOk (s.sEntry j c t) := by
  unfold State.sEntry
  extract_lets -merge +onlyGivenNames _ _ _ _ _ _ _ s1
  have h1 : MemOk s1 := .ite (.foldl (fun _ _ h1 => (by
    dsimp only
    split
    · exact h1
    · exact .emitTo (.bump h1))) hs) (.foldl (fun _ _ h1 => .sampleStream h1) hs)
  exact .entryDone h1

theorem MemOk.runEntry {s : State} (hs : MemOk s) {j c : Nat} {t : Stage} {i : Nat} : MemOk (s.runEntry j c t i) := by
  unfold State.runEntry
  exact .ite (.mEntry hs) (.ite (.aEntry hs) (.ite (.vEntry hs) (.ite (.gEntry hs) (.ite (.lEntry hs) (.sEntry hs)))))

theorem MemOk.noteWait {s : State} (hs : MemOk s) {j c : Nat} {t : Stage} {i : Nat} : MemOk (s.noteWait j c t i) := by
  unfold State.noteWait
  exact .ite hs (.modCell hs)

theorem MemOk.lSkip {s : State} (hs : MemOk s) {j c : Nat} {t : Stage} {i : Nat} : MemOk (s.lSkip j c t i) := by
  unfold State.lSkip
  exact .ite hs (.modCell hs)

theorem MemOk.turn {s : State} (hs : MemOk s) {j c : Nat} {t : Stage} {i : Nat} : MemOk (s.turn j c t i) := by
  unfold State.turn
  extract_lets -merge +onlyGivenNames _
  refine .ite ?_ ?_
  · exact hs
  · refine .ite ?_ ?_
    · exact .ite hs (.runEntry hs)
    · extract_lets -merge +onlyGivenNames _ _ _
      refine .ite ?_ ?_
      · exact .keepStage (.noteWait hs)
      · extract_lets -merge +onlyGivenNames s1 s2
        have h1 : MemOk s1 := .endKeep (.noteWait hs)
        have h2 : MemOk s2 := .ite (.ite (.lSkip h1) h1) (.runEntry h1)
        exact .ite (.entryDone h2) h2

theorem MemOk.closeStage {s : State} (hs : MemOk s) {j c : Nat} {t : Stage} : MemOk (s.closeStage j c t) := by
  unfold State.closeStage
  exact .foldl (fun _ _ h1 => .modCell h1) hs

theorem MemOk.runStage {s : State} (hs : MemOk s) {c : Nat} : MemOk (s.runStage c) := by
  unfold State.runStage
  split
  · exact hs
  · exact .ite (.closeStage (.foldl (fun _ _ h1 => .ite (.turn h1) h1) (.ite (.prepare hs) hs))) (.foldl (fun _ _ h1 => .ite (.turn
      h1) h1) (.ite (.prepare hs) hs))

theorem MemOk.runFrom {s : State} (hs : MemOk s) {c : Nat} : MemOk (s.runFrom c) := by
  unfold State.runFrom
  exact .foldl (fun _ _ h1 => .runStage h1) (.runStage hs)

theorem MemOk.resumeCells {s : State} (hs : MemOk s) : MemOk s.resumeCells := by
  unfold State.resumeCells
  exact .foldl (fun _ _ h1 => .runFrom h1) (.resumeLoads hs)

theorem MemOk.errAll {s : State} (hs : MemOk s) {c : Nat} : MemOk (s.errAll c) := by
  unfold State.errAll
  exact .resumeCells (.foldl (fun _ _ h1 => .failAcc h1) (.upd hs))

theorem MemOk.retireNow {s : State} (hs : MemOk s) {c reason : Nat} : MemOk (s.retireNow c reason) := by
  unfold State.retireNow
  exact .retireChannel (.errAll hs)

theorem MemOk.failHold {s : State} (hs : MemOk s) {c : Nat} : MemOk (s.failHold c) := by
  unfold State.failHold
  exact .errAll (.modChan hs)

theorem MemOk.holdChannel {s : State} (hs : MemOk s) {now c : Nat} : MemOk (s.holdChannel now c) := by
  unfold State.holdChannel
  split
  · exact hs
  · exact .ite hs (.ite (.failHold (.raise (.bump (.putF (.modChan hs))))) (.raise (.bump (.putF (.modChan hs)))))

theorem MemOk.showStack {s : State} (hs : MemOk s) {k : Nat} : MemOk (s.showStack k) := by
  unfold State.showStack
  exact .foldl (fun _ _ h1 => .showFlails (.putF (.showRefresh h1))) hs

theorem MemOk.setStack {s : State} (hs : MemOk s) {k : Nat} {x : Stack} : MemOk (s.setStack k x) := by
  unfold State.setStack
  exact .upd hs

theorem MemOk.startFlails {s : State} (hs : MemOk s) {c : Nat} : MemOk (s.startFlails c) := by
  unfold State.startFlails
  exact .showFlails (.modChan hs)

theorem MemOk.endHotHold {s : State} (hs : MemOk s) {k : Nat} : MemOk (s.endHotHold k) := by
  unfold State.endHotHold
  exact .ite (.foldl (fun _ _ h1 => .startFlails h1) (.showStack (.setStack hs))) hs

theorem MemOk.modPort {s : State} (hs : MemOk s) {p : Nat} {f : Port → Port} : MemOk (s.modPort p f) := by
  unfold State.modPort
  exact .setPort hs

theorem MemOk.movePort {s : State} (hs : MemOk s) {p : Nat} : MemOk (s.movePort p) := by
  unfold State.movePort
  exact .foldl (fun _ _ h1 => .sendEnv h1) (.ite (.putF (.setPort hs)) (.setPort hs))

theorem MemOk.aloneKeeper {s : State} (hs : MemOk s) : MemOk s.aloneKeeper := by
  unfold State.aloneKeeper
  exact .ite hs (.ite (.putF (.putF hs)) (.raise (.putF (.putF hs))))

theorem MemOk.startRetrain {s : State} (hs : MemOk s) : MemOk s.startRetrain := by
  unfold State.startRetrain
  split
  · exact hs
  · exact .aloneKeeper (.putF (.putF (.movePort (.modPort hs))))

theorem MemOk.discardWork {s : State} (hs : MemOk s) {c : Nat} : MemOk (s.discardWork c) := by
  unfold State.discardWork
  exact .modCell (.dropPass hs)

theorem MemOk.notePending {s : State} (hs : MemOk s) {j c : Nat} {t : Stage} : MemOk (s.notePending j c t) := by
  unfold State.notePending
  exact .ite (.endKeep (.noteWait hs)) hs

theorem MemOk.opProducerLost {c p : Nat} {s : State} (hs : MemOk s) : MemOk (opProducerLost c p s) := by
  unfold Machine.opProducerLost
  extract_lets -merge +onlyGivenNames s1
  have h1 : MemOk s1 := .bump hs
  split
  · exact h1
  · exact .ite h1 (.invalidate (.modCell (.discardWork (.notePending h1))))

theorem MemOk.errAcross {s : State} (hs : MemOk s) {l : Nat} : MemOk (s.errAcross l) := by
  unfold State.errAcross
  exact .foldl (fun _ _ h1 => .opProducerLost (.bump h1)) (.foldl (fun _ _ h1 => .failAcc (.bump h1)) (.upd hs))

theorem MemOk.isolateTower {s : State} (hs : MemOk s) {l : Nat} : MemOk (s.isolateTower l) := by
  unfold State.isolateTower
  extract_lets -merge +onlyGivenNames _ _ s1
  have h1 : MemOk s1 := .modLink hs
  refine .ite ?_ ?_
  · exact h1
  · extract_lets -merge +onlyGivenNames s2 s3 s4 s5
    have h2 : MemOk s2 := .raise (.countInStart h1)
    have h3 : MemOk s3 := .foldl (fun _ _ h1 => .putF (.ite (.errAcross h1) (.putF (.errAcross h1)))) h2
    have h4 : MemOk s4 := .foldl (fun _ _ h1 => .modChan (.errAll h1)) h3
    have h5 : MemOk s5 := .foldl (fun _ _ h1 => .retireNow h1) h4
    exact .errsum (.degrade h5)

theorem MemOk.linkEdge {s : State} (hs : MemOk s) {l : Nat} : MemOk (s.linkEdge l) := by
  unfold State.linkEdge
  exact .ite (.isolateTower hs) (.ite (.checkNarrowed (.raise (.putF (.ite (.putF (.setLink hs)) (.setLink hs))))) hs)

theorem MemOk.channelEdges {s : State} (hs : MemOk s) {now : Nat} : MemOk (s.channelEdges now) := by
  unfold State.channelEdges
  extract_lets -merge +onlyGivenNames _ _ _ s1 s2 s3 s4
  have h1 : MemOk s1 := .foldl (fun _ _ h1 => .ite h1 (.narrowChannel h1)) hs
  have h2 : MemOk s2 := .foldl (fun _ _ h1 => .retireNow h1) h1
  have h3 : MemOk s3 := .foldl (fun _ _ h1 => .holdChannel h1) h2
  have h4 : MemOk s4 := .foldl (fun _ _ h1 => .endHotHold h1) h3
  exact .startRetrain (.foldl (fun _ _ h1 => .linkEdge h1) h4)

theorem MemOk.applyLimits {s : State} (hs : MemOk s) : MemOk s.applyLimits := by
  unfold State.applyLimits
  split
  · extract_lets -merge +onlyGivenNames s1 s2 s3 s4
    have h1 : MemOk s1 := .putF hs
    have h2 : MemOk s2 := .foldl (fun _ _ h1 => .putF h1) h1
    have h3 : MemOk s3 := .foldl (fun _ _ h1 => .putF h1) h2
    have h4 : MemOk s4 := .ite (.putF h3) (.ite (.putF h3) h3)
    exact .upd h4
  · exact .upd hs

theorem MemOk.setStaged {s : State} (hs : MemOk s) {r : Reg} {inst : Nat} {w : Word} : MemOk (s.setStaged r inst w) := by
  unfold State.setStaged
  exact .upd hs

theorem MemOk.putStagedF {s : State} (hs : MemOk s) {f : Fld} {inst v : Nat} : MemOk (s.putStagedF f inst v) := by
  unfold State.putStagedF
  exact .setStaged hs

theorem MemOk.showDiff {s : State} (hs : MemOk s) : MemOk s.showDiff := by
  unfold State.showDiff
  exact .putF (.putF hs)

theorem MemOk.recordApplied {s : State} (hs : MemOk s) {source : Nat} {deferred : Bool} : MemOk (s.recordApplied source deferred) := by
  unfold State.recordApplied
  exact .putF (.putF (.putF (.putF (.putF hs))))

theorem MemOk.applyRaise {s : State} (hs : MemOk s) {cell : Option Nat} {us : Nat} {moved : Bool} : MemOk (s.applyRaise cell us
    moved) := by
  unfold State.applyRaise
  extract_lets -merge +onlyGivenNames _
  refine .ite ?_ ?_
  · split
    · exact .failProgram (.worsen hs)
    · exact hs
  · extract_lets -merge +onlyGivenNames s1 s2 s3 s4
    have h1 : MemOk s1 := .putF (.putF hs)
    have h2 : MemOk s2 := .putStagedF h1
    have h3 : MemOk s3 := .ite (.upd h2) h2
    have h4 : MemOk s4 := .ite h1 (.putF h3)
    exact .showDiff (.recordApplied h4)

theorem MemOk.declareRaise {s : State} (hs : MemOk s) {cell : Option Nat} {us : Nat} : MemOk (s.declareRaise cell us) := by
  unfold State.declareRaise
  exact .ite (.applyRaise hs) (.ite (.tell (.upd hs)) (.tell (.upd hs)))

theorem MemOk.replaceSlow {s : State} (hs : MemOk s) {j c : Nat} {t : Stage} : MemOk (s.replaceSlow j c t) := by
  unfold State.replaceSlow
  split
  · exact .upd hs
  · exact .declareRaise hs

theorem MemOk.applyRepair {s : State} (hs : MemOk s) {c spare : Nat} {moved : Bool} : MemOk (s.applyRepair c spare moved) := by
  unfold State.applyRepair
  split
  · exact hs
  · exact .ite (.ite (.moveStage hs) (.replaceSlow hs)) (.recordApplied (.modProg (.ite (.putF (.modCell hs)) (.retireCell (.putF
      (.modCell hs))))))

theorem MemOk.applyAuto {s : State} (hs : MemOk s) {a : AutoCommit} : MemOk (s.applyAuto a) := by
  unfold State.applyAuto
  split
  · exact .applyRepair hs
  · exact .applyRaise hs
  · exact hs

theorem MemOk.setSheaf {s : State} (hs : MemOk s) {i : Nat} {x : SheafSt} : MemOk (s.setSheaf i x) := by
  unfold State.setSheaf
  exact .upd hs

theorem MemOk.recordFail {s : State} (hs : MemOk s) {steading : Bool} {code off inst : Nat} : MemOk (s.recordFail steading code off
    inst) := by
  unfold State.recordFail
  exact .putF (.putF (.putF (.putF (.putF (.putF (.putF hs))))))

theorem MemOk.closePlanes {s : State} (hs : MemOk s) {ks : List Nat} : MemOk (s.closePlanes ks) := by
  unfold State.closePlanes
  extract_lets -merge +onlyGivenNames s1
  have h1 : MemOk s1 := .foldl (fun _ _ h1 => .putF (.putF h1)) hs
  exact .aloneKeeper (.upd h1)

theorem MemOk.spread {s : State} (hs : MemOk s) {b : Nat × Nat} : MemOk (s.spread b) := by
  unfold State.spread
  exact .tell (.upd hs)

theorem MemOk.enterElection {s : State} (hs : MemOk s) : MemOk s.enterElection := by
  unfold State.enterElection
  exact .ite hs (.spread (.upd hs))

theorem MemOk.mismatch {s : State} (hs : MemOk s) {us : Nat} : MemOk (s.mismatch us) := by
  unfold State.mismatch
  extract_lets -merge +onlyGivenNames s1 _ s2 s3
  have h1 : MemOk s1 := .closePlanes hs
  have h2 : MemOk s2 := .upd h1
  have h3 : MemOk s3 := .raise (.putF h2)
  exact .ite h3 (.enterElection h3)

theorem MemOk.openRingCommit {s : State} (hs : MemOk s) : MemOk s.openRingCommit := by
  unfold State.openRingCommit
  exact .ite hs (.tell (.upd hs))

theorem MemOk.accept {s : State} (hs : MemOk s) {steading align : Bool} {captured : List (Nat × Word)} {images : List Nat} : MemOk
    (s.accept steading align captured images) := by
  unfold State.accept
  extract_lets -merge +onlyGivenNames _ _ _ s1 s2 s3
  have h1 : MemOk s1 := .upd hs
  have h2 : MemOk s2 := .putF (.putF (.putF h1))
  have h3 : MemOk s3 := .foldl (fun _ _ h1 => .tell h1) h2
  exact .ite h3 (.ite (.openRingCommit h3) (.tell h3))

theorem MemOk.startAlign {s : State} (hs : MemOk s) : MemOk s.startAlign := by
  unfold State.startAlign
  split
  · exact hs
  · exact .ite hs (.ite (.upd hs) (.accept (.upd hs)))

theorem MemOk.failCommit {s : State} (hs : MemOk s) {f : Nat × Nat × Nat} : MemOk (s.failCommit f) := by
  unfold State.failCommit
  split
  · exact hs
  · extract_lets -merge +onlyGivenNames s1 _ s2 s3 s4
    have h1 : MemOk s1 := .foldl (fun _ _ h1 => .setSheaf h1) hs
    have h2 : MemOk s2 := .upd h1
    have h3 : MemOk s3 := .putF (.recordFail h2)
    have h4 : MemOk s4 := .ite (.mismatch h3) h3
    exact .startAlign h4

theorem MemOk.chargeRake {s : State} (hs : MemOk s) : MemOk s.chargeRake := by
  unfold State.chargeRake
  exact .upd hs

theorem MemOk.takeBudget {s : State} (hs : MemOk s) {d : SheafDesc} : MemOk (s.takeBudget d) := by
  unfold State.takeBudget
  exact .ite (.putF hs) (.putStagedF (.putF hs))

theorem MemOk.activate {s : State} (hs : MemOk s) {j : Nat} : MemOk (s.activate j) := by
  unfold State.activate
  refine .ite ?_ ?_
  · exact hs
  · extract_lets -merge +onlyGivenNames _ s1 s2 s3 s4
    have h1 : MemOk s1 := .modProg hs
    have h2 : MemOk s2 := .foldl (fun _ _ h1 => .putF h1) h1
    have h3 : MemOk s3 := .ite (.putF h2) h2
    have h4 : MemOk s4 := .foldl (fun _ _ h1 => .takeBudget h1) h3
    exact .foldl (fun _ _ h1 => .putF (.putF (.putF (.takeBudget (.setReg (.setSheaf h1)))))) h4

theorem MemOk.putActiveKey {s : State} (hs : MemOk s) {k : Nat} {v : Word} : MemOk (s.putActiveKey k v) := by
  unfold State.putActiveKey
  split
  · exact .setReg hs
  · exact hs

theorem MemOk.putStagedKey {s : State} (hs : MemOk s) {k : Nat} {v : Word} : MemOk (s.putStagedKey k v) := by
  unfold State.putStagedKey
  split
  · exact .setStaged hs
  · exact hs

theorem MemOk.rethresh {s : State} (hs : MemOk s) : MemOk s.rethresh := by
  unfold State.rethresh
  exact .foldl (fun _ _ h1 => .ite (.putF (.upd h1)) h1) hs

theorem MemOk.startRamp {s : State} (hs : MemOk s) {d : Nat} : MemOk (s.startRamp d) := by
  unfold State.startRamp
  exact .putF (.upd hs)

theorem MemOk.applyCommit {s : State} (hs : MemOk s) {c : CommitSt} : MemOk (s.applyCommit c) := by
  unfold State.applyCommit
  extract_lets -merge +onlyGivenNames _ _ s1 s2 s3 s4 s5 s6 _ s7
  have h1 : MemOk s1 := .ite (.chargeRake hs) hs
  have h2 : MemOk s2 := .foldl (fun _ _ h1 => .activate h1) h1
  have h3 : MemOk s3 := .foldl (fun _ _ h1 => .ite (.putActiveKey h1) (.putStagedKey (.putActiveKey h1))) h2
  have h4 : MemOk s4 := .ite h3 (.putF h3)
  have h5 : MemOk s5 := .ite (.rethresh h4) h4
  have h6 : MemOk s6 := .foldl (fun _ _ h1 => .startRamp h1) h5
  have h7 : MemOk s7 := .upd h6
  exact .startAlign (.showDiff (.recordApplied h7))

theorem MemOk.commitsAtEdge {s : State} (hs : MemOk s) {replay : Bool} : MemOk (s.commitsAtEdge replay) := by
  unfold State.commitsAtEdge
  extract_lets -merge +onlyGivenNames _ _ s1 s2
  have h1 : MemOk s1 := .upd hs
  have h2 : MemOk s2 := .ite h1 (.foldl (fun _ _ h1 => .applyAuto h1) h1)
  split
  · exact h2
  · refine .ite ?_ ?_
    · exact h2
    · refine .ite ?_ ?_
      · exact h2
      · refine .ite ?_ ?_
        · extract_lets -merge +onlyGivenNames s3 s4 s5
          have h3 : MemOk s3 := .upd h2
          have h4 : MemOk s4 := .ite (.putF h3) h3
          have h5 : MemOk s5 := .ite (.moveTarget h4) h4
          refine .ite ?_ ?_
          · exact h5
          · split
            · exact .failCommit h5
            · exact h5
        · split
          · exact .failCommit h2
          · exact .applyCommit h2

theorem MemOk.showResets {s : State} (hs : MemOk s) : MemOk s.showResets := by
  unfold State.showResets
  exact .foldl (fun _ _ h1 => .putF (.putF h1)) hs

theorem MemOk.releaseResets {s : State} (hs : MemOk s) {now : Nat} : MemOk (s.releaseResets now) := by
  unfold State.releaseResets
  exact .foldl (fun _ _ h1 => .modCell h1) (.showResets (.upd hs))

theorem MemOk.showIdle {s : State} (hs : MemOk s) {c : Nat} : MemOk (s.showIdle c) := by
  unfold State.showIdle
  exact .putF (.putF (.putF (.putF (.setReg hs))))

theorem MemOk.dropProgram {s : State} (hs : MemOk s) {j edge : Nat} : MemOk (s.dropProgram j edge) := by
  unfold State.dropProgram
  exact .setProg (.foldl (fun _ _ h1 => .modCell (.showIdle h1)) (.foldl (fun _ _ h1 => .putF (.setSheaf h1)) (.foldl (fun _ _ h1 =>
    .dropPfx h1) hs)))

theorem MemOk.unloadNow {s : State} (hs : MemOk s) {c : CmdId} {j epoch : Nat} : MemOk (s.unloadNow c j epoch) := by
  unfold State.unloadNow
  exact .ite (.complete hs) (.ite (.complete hs) (.complete (.dropProgram hs)))

theorem MemOk.clearRegion {s : State} (hs : MemOk s) {j slot : Nat} : MemOk (s.clearRegion j slot) := by
  unfold State.clearRegion
  extract_lets -merge +onlyGivenNames _ s1
  have h1 : MemOk s1 := .foldl (fun _ _ h1 => .touchWrite h1) hs
  exact .foldl (fun _ _ h1 => (by
    split
    · exact .touchWrite h1
    · exact h1)) h1

theorem MemOk.openNow {s : State} (hs : MemOk s) {c : CmdId} {fn job epoch : Nat} {b : List Byte} : MemOk (s.openNow c fn job epoch
    b) := by
  unfold State.openNow
  extract_lets -merge +onlyGivenNames _
  split
  · exact .complete (.clearRegion (.reserve (.setStream hs)))
  · exact .complete hs

theorem MemOk.withdraw {s : State} (hs : MemOk s) {i : Nat} : MemOk (s.withdraw i) := by
  unfold State.withdraw
  exact .modStream (.dropTokenReservation hs)

theorem MemOk.cutBlock {s : State} (hs : MemOk s) {j : Nat} {l : ListId} {slot b keep : Nat} : MemOk (s.cutBlock j l slot b keep).1
    := by
  unfold State.cutBlock
  split
  · rename_i s1 heq
    have h1 : MemOk s1 := .of_eq heq (.readEntry hs)
    exact h1
  · rename_i s1 _ heq
    have h1 : MemOk s1 := .of_eq heq (.readEntry hs)
    refine .ite_fst ?_ ?_
    · exact h1
    · split
      · rename_i s2 heq
        have h2 : MemOk s2 := .of_eq heq (.readRefs (.setTableEntry h1))
        exact h2
      · rename_i s2 _ heq
        have h2 : MemOk s2 := .of_eq heq (.readRefs (.setTableEntry h1))
        exact h2

theorem MemOk.truncateTo {s : State} (hs : MemOk s) {i len : Nat} : MemOk (s.truncateTo i len) := by
  unfold State.truncateTo
  extract_lets -merge +onlyGivenNames s1 _ _ s2 _ _
  have h1 : MemOk s1 := .withdraw hs
  have h2 : MemOk s2 := .leaveFrom h1
  split
  · rename_i s3 _ heq
    have h3 : MemOk s3 := .of_eq heq (.ite_fst h2 (.foldl_fst (fun _ _ h1 => (by
      split
      · rename_i s3 _ heq
        have h3 : MemOk s3 := .of_eq heq (.cutBlock h1)
        exact h3)) h2))
    exact .putStreamRec (.modStream h3)

theorem MemOk.setNow {s : State} (hs : MemOk s) {c : CmdId} {fn i epoch : Nat} {mask : Word} {b : List Byte} : MemOk (s.setNow c fn
    i epoch mask b) := by
  unfold State.setNow
  exact .ite (.complete hs) (.complete (.ite (.truncateTo (.modStream hs)) (.modStream hs)))

theorem MemOk.releaseStream {s : State} (hs : MemOk s) {i edge : Nat} : MemOk (s.releaseStream i edge) := by
  unfold State.releaseStream
  exact .setStream (.ite (.unreserve (.leaveFrom (.dropTokenReservation hs))) (.leaveFrom (.dropTokenReservation hs)))

theorem MemOk.closeNow {s : State} (hs : MemOk s) {c : CmdId} {fn i epoch : Nat} : MemOk (s.closeNow c fn i epoch) := by
  unfold State.closeNow
  exact .ite (.complete hs) (.ite (.complete hs) (.complete (.releaseStream (.dropFeeds hs))))

theorem MemOk.closeSilently {s : State} (hs : MemOk s) {i edge : Nat} : MemOk (s.closeSilently i edge) := by
  unfold State.closeSilently
  exact .ite (.releaseStream (.modStream (.foldl (fun _ _ h1 => .unreserve h1) hs))) hs

theorem MemOk.act {s : State} (hs : MemOk s) {w : Waiting} : MemOk (s.act w) := by
  unfold State.act
  split
  · exact .unloadNow hs
  · exact .openNow hs
  · exact .feedNow hs
  · exact .setNow hs
  · exact .closeNow hs
  · exact .closeSilently hs
  · exact .complete hs

theorem MemOk.actAll {s : State} (hs : MemOk s) : MemOk s.actAll := by
  unfold State.actAll
  exact .foldl (fun _ _ h1 => .ite (.wait h1) (.act h1)) (.upd hs)

theorem MemOk.releaseCell {s : State} (hs : MemOk s) {j : Nat} {run : Bool} {c : Nat} : MemOk (s.releaseCell j run c) := by
  unfold State.releaseCell
  exact .putF (.modCell hs)

theorem MemOk.releaseProgram {s : State} (hs : MemOk s) {j : Nat} : MemOk (s.releaseProgram j) := by
  unfold State.releaseProgram
  exact .modProg (.ite (.foldl (fun _ _ h1 => .bump h1) (.foldl (fun _ _ h1 => .releaseCell h1) hs)) (.foldl (fun _ _ h1 =>
    .releaseCell h1) hs))

theorem MemOk.publish {s : State} (hs : MemOk s) : MemOk s.publish := by
  unfold State.publish
  exact .upd hs

theorem MemOk.load {s : State} (hs : MemOk s) {now : Nat} : MemOk (s.load now) := by
  unfold State.load
  extract_lets -merge +onlyGivenNames s1 s2 s3 s4 s5 _ s6
  have h1 : MemOk s1 := .applyLimits hs
  have h2 : MemOk s2 := .commitsAtEdge h1
  have h3 : MemOk s3 := .releaseResets (.channelEdges (.actAll h2))
  have h4 : MemOk s4 := .foldl (fun _ _ h1 => .releaseProgram h1) h3
  have h5 : MemOk s5 := .foldl (fun _ _ h1 => .modStream h1) h4
  have h6 : MemOk s6 := .upd h5
  exact .publish h6

theorem MemOk.takeEdge {s : State} (hs : MemOk s) {now : Nat} : MemOk (s.takeEdge now) := by
  unfold State.takeEdge
  extract_lets -merge +onlyGivenNames s1
  have h1 : MemOk s1 := .nextCount (.sendRecords (.closeTick (.settleHeld hs)))
  refine .ite ?_ ?_
  · exact .finishStop h1
  · refine .ite ?_ ?_
    · exact .keepComputeStop h1
    · extract_lets -merge +onlyGivenNames s2
      have h2 : MemOk s2 := .freshTick h1
      exact .ite (.channelEdges h2) (.load (.upd h2))

theorem MemOk.endPause {s : State} (hs : MemOk s) : MemOk s.endPause := by
  unfold State.endPause
  exact .putF (.upd hs)

theorem MemOk.heedRaise {s : State} (hs : MemOk s) {r : RaiseWord} : MemOk (s.heedRaise r) := by
  unfold State.heedRaise
  split
  · exact .ite (.tell (.upd hs)) hs
  · exact .ite (.ite (.upd hs) (.ite (.moveRaise hs) hs)) (.upd hs)

theorem MemOk.overrunJob {s : State} (hs : MemOk s) {j : Nat} : MemOk (s.overrunJob j) := by
  unfold State.overrunJob
  exact .ite hs (.raise (.errsum (.invalidate (.upd hs))))

theorem MemOk.heedEdge {s : State} (hs : MemOk s) {w : EdgeWord} : MemOk (s.heedEdge w) := by
  unfold State.heedEdge
  extract_lets -merge +onlyGivenNames s1 _ s2
  have h1 : MemOk s1 := (by
    dsimp only [s1]
    split
    · exact .replayAhead (.heedRaise hs)
    · exact hs)
  have h2 : MemOk s2 := .upd h1
  exact .ite (.replayAhead (.foldl (fun _ _ h1 => .overrunJob h1) (.upd h2))) (.ite (.ite h2 (.upd h2)) (.upd h2))

theorem MemOk.announce {s : State} (hs : MemOk s) {w : EdgeWord} : MemOk (s.announce w) := by
  unfold State.announce
  exact .heedEdge (.tell hs)

theorem MemOk.settleEdge {s : State} (hs : MemOk s) : MemOk s.settleEdge := by
  unfold State.settleEdge
  exact .ite hs (.ite (.announce hs) (.announce hs))

theorem MemOk.checkPause {s : State} (hs : MemOk s) : MemOk s.checkPause := by
  unfold State.checkPause
  exact .ite (.announce hs) hs

theorem MemOk.startPause {s : State} (hs : MemOk s) {now : Nat} : MemOk (s.startPause now) := by
  unfold State.startPause
  extract_lets -merge +onlyGivenNames s1
  have h1 : MemOk s1 := .closePlanes hs
  exact .ite (.takeEdge (.upd h1)) (.ite (.enterElection (.checkPause (.putF (.upd h1)))) (.checkPause (.putF (.upd h1))))

theorem MemOk.opTickEdge {now : Nat} {s : State} (hs : MemOk s) : MemOk (opTickEdge now s) := by
  unfold Machine.opTickEdge
  exact .ite (.at_ hs) (.ite (.ite (.takeEdge (.endPause (.at_ hs))) (.at_ hs)) (.ite (.settleEdge (.at_ hs)) (.ite (.startPause
    (.settleEdge (.at_ hs))) (.takeEdge (.settleEdge (.at_ hs))))))

theorem MemOk.showPass {s : State} (hs : MemOk s) {c : Nat} : MemOk (s.showPass c) := by
  unfold State.showPass
  extract_lets -merge +onlyGivenNames _
  split
  · exact .ite (.putF hs) hs
  · exact hs

theorem MemOk.opStageStart {c now : Nat} {s : State} (hs : MemOk s) : MemOk (opStageStart c now s) := by
  unfold Machine.opStageStart
  extract_lets -merge +onlyGivenNames s1
  have h1 : MemOk s1 := .at_ hs
  split
  · exact .ite h1 (.runFrom (.showPass (.ite (.putF (.putF (.putF (.modCell h1)))) (.putF (.modCell h1)))))
  · exact h1

theorem MemOk.recordLate {s : State} (hs : MemOk s) {c : Nat} {t : Stage} {f wait : Nat} : MemOk (s.recordLate c t f wait) := by
  unfold State.recordLate
  exact .modCell (.putF (.putF (.putF (.putF hs))))

theorem MemOk.idleCell {s : State} (hs : MemOk s) {c : Nat} : MemOk (s.idleCell c) := by
  unfold State.idleCell
  exact .putF (.putF (.putF hs))

theorem MemOk.opStageFinish {c now : Nat} {s : State} (hs : MemOk s) : MemOk (opStageFinish c now s) := by
  unfold Machine.opStageFinish
  extract_lets -merge +onlyGivenNames s1
  have h1 : MemOk s1 := .at_ hs
  split
  · exact .ite h1 (.idleCell (.modCell (.ite h1 (.recordLate h1))))
  · exact h1

theorem MemOk.lateFrom {s : State} (hs : MemOk s) {part : Nat} : MemOk (s.lateFrom part) := by
  unfold State.lateFrom
  exact .ite (.announce (.upd hs)) (.upd hs)

theorem MemOk.opRunDeadline {now : Nat} {s : State} (hs : MemOk s) : MemOk (opRunDeadline now s) := by
  unfold Machine.opRunDeadline
  extract_lets -merge +onlyGivenNames s1
  have h1 : MemOk s1 := .at_ hs
  exact .ite h1 (.ite (.lateFrom (.upd h1)) (.tell (.upd h1)))

theorem MemOk.onWord {s : State} (hs : MemOk s) {port part : Nat} {w : CtlWord} {f : State → State} (hf : ∀ s, MemOk s → MemOk (f
    s)) : MemOk (s.onWord port part w f) := by
  unfold State.onWord
  exact .ite hs (hf _ (.relay hs))

theorem MemOk.settleIfClear {s : State} (hs : MemOk s) : MemOk s.settleIfClear := by
  unfold State.settleIfClear
  exact .ite (.settleHeld hs) hs

theorem MemOk.assignBond {s : State} (hs : MemOk s) {c w : Nat} : MemOk (s.assignBond c w) := by
  unfold State.assignBond
  split
  · exact .wireLost hs
  · exact .urgentRetrain (.raise (.bump (.modChan hs)))

theorem MemOk.assignBonds {s : State} (hs : MemOk s) : MemOk s.assignBonds := by
  unfold State.assignBonds
  exact .foldl (fun _ _ h1 => .foldl (fun _ _ h2 => .assignBond h2) (.modChan h1)) hs

theorem MemOk.payRefresh {s : State} (hs : MemOk s) : MemOk s.payRefresh := by
  unfold State.payRefresh
  exact .foldl (fun _ _ h1 => .startFlails (.putF (.modChan h1))) hs

theorem MemOk.retrainStack {s : State} (hs : MemOk s) {want : List Nat} {left now k : Nat} : MemOk (s.retrainStack want left now k)
    := by
  unfold State.retrainStack
  extract_lets -merge +onlyGivenNames mine busy able best s1
  have h1 : MemOk s1 := .foldl (fun _ _ h1 => .modChan h1) hs
  clear_value s1 best
  cases best with
  | none => exact h1
  | some c => exact .putF (.putF (.modChan h1))

theorem MemOk.rakeLog {s : State} (hs : MemOk s) {w0 w1 : Nat} : MemOk (s.rakeLog w0 w1) := by
  unfold State.rakeLog
  extract_lets -merge +onlyGivenNames _ s1 s2
  have h1 : MemOk s1 := .ite (.bump hs) hs
  have h2 : MemOk s2 := .upd h1
  exact .foldl (fun _ _ h1 => .putF h1) h2

theorem MemOk.rakeFixed {s : State} (hs : MemOk s) {w bitNo : Nat} : MemOk (s.rakeFixed w bitNo) := by
  unfold State.rakeFixed
  exact .rakeLog (.bump hs)

theorem MemOk.startAll {s : State} (hs : MemOk s) : MemOk s.startAll := by
  unfold State.startAll
  exact .foldl (fun _ _ h1 => .startFlails h1) hs

theorem MemOk.countWait {s : State} (hs : MemOk s) {a : WaitAcc} : MemOk (s.countWait a) := by
  unfold State.countWait
  extract_lets -merge +onlyGivenNames _ s1
  have h1 : MemOk s1 := (by
    dsimp only [s1]
    split
    · exact .ite hs (.modCell hs)
    · exact hs)
  exact .foldl (fun _ _ h1 => .countFlailWait h1) h1

theorem MemOk.goOn {s : State} (hs : MemOk s) : MemOk s.goOn := by
  unfold State.goOn
  exact .startAll (.resumeCells (.foldl (fun _ _ h1 => .ite (.upd h1) (.serve (.countWait h1))) (.upd hs)))

theorem MemOk.copyRow {s : State} (hs : MemOk s) {c : Nat} {r : Nat × Nat × Nat} : MemOk (s.copyRow c r) := by
  unfold State.copyRow
  extract_lets -merge +onlyGivenNames _ s1 _ s2
  have h1 : MemOk s1 := .foldl (fun s w h1 => .upd (MemOk.rakeFixed (MemOk.corrected h1 (b := .chan c)) (w := w) (bitNo := s.errBit
    w))) hs
  have h2 : MemOk s2 := .modChan h1
  refine .ite ?_ ?_
  · exact .goOn (.raise (.modChan h2))
  · extract_lets -merge +onlyGivenNames s3
    have h3 : MemOk s3 := .foldl (fun s w h1 => .upd (MemOk.metWord h1 (r := .rake) (w := w))) h2
    exact .goOn (.modChan h3)

theorem MemOk.flailMet {s : State} (hs : MemOk s) {c : Nat} {f : FlailCmd} {bad : List Nat} : MemOk (s.flailMet c f bad) := by
  unfold State.flailMet
  exact .foldl (fun _ _ h1 => .ite (.metWord h1) (.ite (.metWord h1) ((by
    split
    · exact .metWord h1
    · exact .ueRecord h1)))) hs

theorem MemOk.flailBad {s : State} (hs : MemOk s) {c : Nat} {f : FlailCmd} {bad : List Nat} : MemOk (s.flailBad c f bad) := by
  unfold State.flailBad
  exact .bump (.flailMet hs)

theorem MemOk.scrubRow {s : State} (hs : MemOk s) {c : Nat} {f : FlailCmd} : MemOk (s.scrubRow c f) := by
  unfold State.scrubRow
  extract_lets -merge +onlyGivenNames _ _ _ s1 s2
  have h1 : MemOk s1 := by
    refine .foldl (fun s w h1 => ?_) hs
    extract_lets -merge +onlyGivenNames b s2 s3
    have h3 : MemOk s3 := .ite (.bump (.corrected h1)) (.rakeFixed (.bump (.corrected h1)))
    exact .upd h3
  have h2 : MemOk s2 := .modChan h1
  exact .flailBad h2

theorem MemOk.enqueue {s : State} (hs : MemOk s) {c : Nat} {f : FlailCmd} : MemOk (s.enqueue c f) := by
  unfold State.enqueue
  extract_lets -merge +onlyGivenNames s1
  have h1 : MemOk s1 := .modChan hs
  exact .upd h1

theorem MemOk.rakeRow {s : State} (hs : MemOk s) {c bank row : Nat} : MemOk (s.rakeRow c bank row) := by
  unfold State.rakeRow
  exact .ite (.bump (.scrubRow hs)) (.startFlails (.enqueue hs))

theorem MemOk.rakePass {c n : Nat} {s : State} (hs : MemOk s) : MemOk (State.rakePass c n s) := by
  induction n generalizing s with
  | zero => exact hs
  | succ n ih =>
    unfold State.rakePass
    exact .ite hs (ih (.rakeRow (.modChan hs)))

theorem MemOk.rakeChannel {s : State} (hs : MemOk s) {gain left c : Nat} : MemOk (s.rakeChannel gain left c) := by
  unfold State.rakeChannel
  extract_lets -merge +onlyGivenNames _
  refine .ite ?_ ?_
  · exact .modChan hs
  · refine .ite ?_ ?_
    · exact hs
    · extract_lets -merge +onlyGivenNames s1 _ _ _ _ _ _ _ s2 _
      have h1 : MemOk s1 := .modChan hs
      have h2 : MemOk s2 := .ite h1 (.rakePass (.foldl (fun _ _ h1 => .rakeRow h1) (.foldl (fun _ _ h1 => .copyRow h1) h1)))
      exact .ite (.raise (.bump (.modChan h2))) (.ite (.modChan h2) h2)

theorem MemOk.rakeStep {s : State} (hs : MemOk s) {left now : Nat} : MemOk (s.rakeStep left now) := by
  unfold State.rakeStep
  exact .foldl (fun _ _ h1 => .rakeChannel h1) (.upd hs)

theorem MemOk.marginStep {s : State} (hs : MemOk s) {c : Nat} : MemOk (s.marginStep c) := by
  unfold State.marginStep
  exact .ite hs (.ite (.modChan hs) (.nextFree (.modChan (.putF (.putF (.putF (.ite (.putF (.putF (.modChan hs))) (.putF (.putF
    (.modChan hs))))))))))

theorem MemOk.marginSteps {s : State} (hs : MemOk s) : MemOk s.marginSteps := by
  unfold State.marginSteps
  exact .foldl (fun _ _ h1 => .marginStep h1) hs

theorem MemOk.channelWork {s : State} (hs : MemOk s) {now : Nat} : MemOk (s.channelWork now) := by
  unfold State.channelWork
  exact .rakeStep (.marginSteps (.foldl (fun _ _ h1 => .retrainStack h1) (.assignBonds (.payRefresh hs))))

theorem MemOk.retireStuck {s : State} (hs : MemOk s) : MemOk s.retireStuck := by
  unfold State.retireStuck
  exact .foldl (fun _ _ h1 => .moveStage (.retireCell h1)) hs

theorem MemOk.spareTheLanes {s : State} (hs : MemOk s) {l : Nat} : MemOk (s.spareTheLanes l) := by
  unfold State.spareTheLanes
  exact .foldl (fun _ _ h1 => .raise (.bump h1)) (.setLink hs)

theorem MemOk.writeLimits {s : State} (hs : MemOk s) {w : LimitWords} : MemOk (s.writeLimits w) := by
  unfold State.writeLimits
  exact .upd hs

theorem MemOk.watchCap {s : State} (hs : MemOk s) {cap : Nat} : MemOk (s.watchCap cap) := by
  unfold State.watchCap
  exact .ite hs (.ite (.raise (.upd hs)) (.ite (.upd hs) hs))

theorem MemOk.waitFor {s : State} (hs : MemOk s) {k : Nat} {atEdge : Bool} {ys : List Nat} : MemOk (s.waitFor k atEdge ys) := by
  unfold State.waitFor
  exact .upd hs

theorem MemOk.waitForRelease {s : State} (hs : MemOk s) {x : Nat} {ks : List Nat} : MemOk (s.waitForRelease x ks) := by
  unfold State.waitForRelease
  exact .foldl (fun _ _ h1 => .waitFor (.upd h1)) hs

theorem MemOk.releasePlanes {s : State} (hs : MemOk s) {ps : List Nat} : MemOk (s.releasePlanes ps) := by
  unfold State.releasePlanes
  extract_lets -merge +onlyGivenNames _
  refine .ite ?_ ?_
  · exact hs
  · extract_lets -merge +onlyGivenNames s1 _ s2
    have h1 : MemOk s1 := .tell hs
    have h2 : MemOk s2 := .waitForRelease (.upd h1)
    exact .ite (.tell (.upd h2)) h2

theorem MemOk.stopCell {s : State} (hs : MemOk s) {c at_ : Nat} : MemOk (s.stopCell c at_) := by
  unfold State.stopCell
  exact .invalidateCell (.modCell (.putF (.putF (.putF (.dropPass hs)))))

theorem MemOk.stopStages {s : State} (hs : MemOk s) {at_ : Nat} : MemOk (s.stopStages at_) := by
  unfold State.stopStages
  exact .foldl (fun _ _ h1 => .stopCell h1) hs

theorem MemOk.beginStop {s : State} (hs : MemOk s) {cause : Nat} {atOnce : Bool} : MemOk (s.beginStop cause atOnce) := by
  unfold State.beginStop
  refine .ite ?_ ?_
  · exact hs
  · extract_lets -merge +onlyGivenNames s1 _ s2 s3
    have h1 : MemOk s1 := .putF (.putF hs)
    have h2 : MemOk s2 := .upd h1
    have h3 : MemOk s3 := .releasePlanes h2
    exact .ite (.finishStop (.stopStages h3)) (.ite (.finishStop h3) h3)

theorem MemOk.coolantLost {s : State} (hs : MemOk s) {sudden atOnce : Bool} : MemOk (s.coolantLost sudden atOnce) := by
  unfold State.coolantLost
  exact .ite hs (.beginStop (.raise (.errsum hs)))

theorem MemOk.govern {s : State} (hs : MemOk s) {g : GovIn} : MemOk (s.govern g) := by
  unfold State.govern
  refine .ite ?_ ?_
  · exact hs
  · extract_lets -merge +onlyGivenNames s1 s2 s3 s4 _ _ s5 s6 _ s7 s8 s9
    have h1 : MemOk s1 := .foldl (fun _ _ h1 => .putF h1) hs
    have h2 : MemOk s2 := .putF (.putF h1)
    have h3 : MemOk s3 := .putF h2
    have h4 : MemOk s4 := .ite (.putF h3) h3
    have h5 : MemOk s5 := .putF h4
    have h6 : MemOk s6 := .ite (.nextFree h5) h5
    have h7 : MemOk s7 := .upd h6
    have h8 : MemOk s8 := .writeLimits h7
    have h9 : MemOk s9 := .watchCap h8
    exact .ite (.coolantLost h9) h9

theorem MemOk.reportFrom {s : State} (hs : MemOk s) {part ns : Nat} {overrun : Bool} {sheafs : List Nat} : MemOk (s.reportFrom part
    ns overrun sheafs) := by
  unfold State.reportFrom
  exact .settleEdge (.upd hs)

theorem MemOk.sendReport {s : State} (hs : MemOk s) {ns : Nat} {overrun : Bool} {sheafs : List Nat} : MemOk (s.sendReport ns overrun
    sheafs) := by
  unfold State.sendReport
  exact .ite (.reportFrom (.upd hs)) (.tell (.upd hs))

theorem MemOk.opWindow {now : Nat} {gov : Option GovIn} {s : State} (hs : MemOk s) : MemOk (opWindow now gov s) := by
  unfold Machine.opWindow
  extract_lets -merge +onlyGivenNames s1
  have h1 : MemOk s1 := .at_ hs
  refine .ite ?_ ?_
  · exact h1
  · extract_lets -merge +onlyGivenNames _ _
    split
    · rename_i s2 _ heq
      have h2 : MemOk s2 := .of_eq heq (.validate h1)
      extract_lets -merge +onlyGivenNames _ s3 s4 s5 s6 s7 s8
      have h3 : MemOk s3 := .upd h2
      have h4 : MemOk s4 := .channelWork (.retireStuck h3)
      have h5 : MemOk s5 := .foldl (fun _ _ h1 => .spareTheLanes h1) h4
      have h6 : MemOk s6 := .streamWork h5
      have h7 : MemOk s7 := (by
        dsimp only [s7]
        split
        · exact .govern h6
        · exact h6)
      have h8 : MemOk s8 := .signalWritten (.replayAhead (.nextRows h7))
      exact .settleIfClear (.settleEdge (.ite (.sendReport h8) h8))

theorem MemOk.lateAtLimit {s : State} (hs : MemOk s) {c : Nat} : MemOk (s.lateAtLimit c) := by
  unfold State.lateAtLimit
  split
  · exact .recordLate hs
  · exact hs

theorem MemOk.opStretchLimit {now : Nat} {s : State} (hs : MemOk s) : MemOk (opStretchLimit now s) := by
  unfold Machine.opStretchLimit
  exact .ite (.at_ hs) (.sendReport (.foldl (fun _ _ h1 => .overrunJob h1) (.stopStages (.foldl (fun _ _ h1 => .lateAtLimit h1)
    (.at_ hs)))))

theorem MemOk.opCellSlow {c : Nat} {s : State} (hs : MemOk s) : MemOk (opCellSlow c s) := by
  unfold Machine.opCellSlow
  split
  · exact hs
  · exact .ite hs (.replaceSlow (.modCell (.putF (.raise (.putF hs)))))

theorem MemOk.opCommitRequest {steading : Bool} {now : Nat} {s : State} (hs : MemOk s) : MemOk (opCommitRequest steading now s) := by
  unfold Machine.opCommitRequest
  exact .ite (.at_ hs) (.ite (.recordFail (.at_ hs)) (.accept (.at_ hs)))

theorem MemOk.submit {s : State} (hs : MemOk s) {c : CommitSt} {code : Nat} : MemOk (s.submit c code) := by
  unfold State.submit
  extract_lets -merge +onlyGivenNames _
  split
  · exact hs
  · exact .ite (.upd hs) (.tell hs)

theorem MemOk.opChecksDone {now : Nat} {s : State} (hs : MemOk s) : MemOk (opChecksDone now s) := by
  unfold Machine.opChecksDone
  extract_lets -merge +onlyGivenNames s1
  have h1 : MemOk s1 := .at_ hs
  split
  · exact h1
  · refine .ite ?_ ?_
    · exact h1
    · split
      · exact .ite (.submit (.upd h1)) (.failCommit h1)
      · exact .ite (.submit (.upd h1)) (.upd h1)

theorem MemOk.opStagedWrite {by_ : Requester} {off n : Nat} {v : Word} {s : State} (hs : MemOk s) : MemOk (opStagedWrite by_ off n v
    s) := by
  unfold Machine.opStagedWrite
  split
  · exact hs
  · extract_lets -merge +onlyGivenNames _
    refine .ite ?_ ?_
    · exact hs
    · extract_lets -merge +onlyGivenNames _ _ s1 s2
      have h1 : MemOk s1 := .setStaged hs
      have h2 : MemOk s2 := .ite (.upd h1) h1
      exact .showDiff (.putF h2)

theorem MemOk.opRevert {s : State} (hs : MemOk s) : MemOk (opRevert s) := by
  unfold Machine.opRevert
  exact .showDiff (.foldl (fun _ _ h1 => .putStagedKey h1) hs)

theorem MemOk.opGovernorSilent {s : State} (hs : MemOk s) : MemOk (opGovernorSilent s) := by
  unfold Machine.opGovernorSilent
  exact .ite hs (.raise (.upd hs))

theorem MemOk.opLimitWordWrite {w : LimitWords} {s : State} (hs : MemOk s) : MemOk (opLimitWordWrite w s) := by
  unfold Machine.opLimitWordWrite
  exact .ite hs (.writeLimits hs)

theorem MemOk.opTickMarker {port tick : Nat} {delay now : Nat} {s : State} (hs : MemOk s) : MemOk (opTickMarker port tick delay now
    s) := by
  unfold Machine.opTickMarker
  extract_lets -merge +onlyGivenNames s1
  have h1 : MemOk s1 := .at_ hs
  refine .ite ?_ ?_
  · exact h1
  · extract_lets -merge +onlyGivenNames _ _ _ s2 _ s3
    have h2 : MemOk s2 := .foldl (fun _ _ h1 => .send h1) (.nextFree h1)
    have h3 : MemOk s3 := .upd h2
    exact .ite (.upd h3) h3

theorem MemOk.flushPort {s : State} (hs : MemOk s) {p : Nat} : MemOk (s.flushPort p) := by
  unfold State.flushPort
  exact .foldl (fun _ _ h1 => .transmit h1) (.modPort hs)

theorem MemOk.opAck {p : Nat} {seq : BitVec 16} {now : Nat} {s : State} (hs : MemOk s) : MemOk (opAck p seq now s) := by
  unfold Machine.opAck
  extract_lets -merge +onlyGivenNames s1 _
  have h1 : MemOk s1 := .at_ hs
  split
  · exact .flushPort (.modPort h1)
  · exact h1

theorem MemOk.portFalls {s : State} (hs : MemOk s) {p : Nat} : MemOk (s.portFalls p) := by
  unfold State.portFalls
  exact .ite hs (.aloneKeeper (.movePort (.putF (.bump (.putF hs)))))

theorem MemOk.opRetry {p : Nat} {seq : BitVec 16} {s : State} (hs : MemOk s) : MemOk (opRetry p seq s) := by
  unfold Machine.opRetry
  extract_lets -merge +onlyGivenNames _
  split
  · exact hs
  · exact .ite hs (.ite (.portFalls (.foldl (fun _ _ h1 => .send h1) (.bump (.modPort hs)))) (.foldl (fun _ _ h1 => .send h1) (.bump
      (.modPort hs))))

theorem MemOk.opCredit {p n : Nat} {s : State} (hs : MemOk s) : MemOk (opCredit p n s) := by
  unfold Machine.opCredit
  exact .flushPort (.modPort hs)

theorem MemOk.sawTake {s : State} (hs : MemOk s) {part plane : Nat} : MemOk (s.sawTake part plane) := by
  unfold State.sawTake
  exact .checkPause (.upd hs)

theorem MemOk.addPart {s : State} (hs : MemOk s) {k plane : Nat} : MemOk (s.addPart k plane) := by
  unfold State.addPart
  exact .upd hs

theorem MemOk.memberGone {s : State} (hs : MemOk s) {planes : List Nat} {k : Nat} : MemOk (s.memberGone planes k) := by
  unfold State.memberGone
  extract_lets -merge +onlyGivenNames _ s1
  have h1 : MemOk s1 := .upd hs
  exact .ite (.upd h1) h1

theorem MemOk.opRelease {part : Nat} {planes : List Nat} {s : State} (hs : MemOk s) : MemOk (opRelease part planes s) := by
  unfold Machine.opRelease
  exact .ite (.announce (.waitForRelease (.memberGone hs))) (.waitForRelease (.memberGone hs))

theorem MemOk.showCap {s : State} (hs : MemOk s) : MemOk s.showCap := by
  unfold State.showCap
  exact .putF (.putF (.putF (.putF (.putF hs))))

theorem MemOk.becomeReady {s : State} (hs : MemOk s) : MemOk s.becomeReady := by
  unfold State.becomeReady
  exact .ite hs (.raise (.putF (.putF (.putF (.showCap hs)))))

theorem MemOk.takePause {s : State} (hs : MemOk s) : MemOk s.takePause := by
  unfold State.takePause
  exact .ite hs (.ite (.checkPause hs) (.announce hs))

theorem MemOk.settleElection {s : State} (hs : MemOk s) {k : Nat} : MemOk (s.settleElection k) := by
  unfold State.settleElection
  exact .becomeReady (.ite (.putF (.putF (.upd hs))) (.takePause (.raise (.putF (.putF (.upd hs))))))

theorem MemOk.joinDomain {s : State} (hs : MemOk s) {count at_ : Nat} {v : Nat × Nat × Nat} : MemOk (s.joinDomain count at_ v) := by
  unfold State.joinDomain
  extract_lets -merge +onlyGivenNames _ s1 s2
  have h1 : MemOk s1 := .upd hs
  have h2 : MemOk s2 := (by
    dsimp only [s2]
    split
    · exact .ite (.failCommit h1) h1
    · exact h1)
  exact .ite h2 (.startAlign (.upd h2))

theorem MemOk.opCandidate {port : Nat} {b : Nat × Nat} {settled : Bool} {winner : Option (BitVec 64 × Nat × BitVec 10 × BitVec 16 ×
    BitVec 5)} {s : State} (hs : MemOk s) : MemOk (opCandidate port b settled winner s) := by
  unfold Machine.opCandidate
  extract_lets -merge +onlyGivenNames _ _ s1 _ _ _ _ s2 s3
  have h1 : MemOk s1 := .upd hs
  have h2 : MemOk s2 := .ite (.foldl (fun _ _ h1 => .send h1) (.upd h1)) (.ite (.send (.upd h1)) (.upd h1))
  have h3 : MemOk s3 := .ite (.settleElection h2) h2
  split
  · exact .joinDomain (.upd h3)
  · exact h3

theorem MemOk.submitOwn {s : State} (hs : MemOk s) : MemOk s.submitOwn := by
  unfold State.submitOwn
  split
  · exact .ite (.submit hs) hs
  · exact hs

theorem MemOk.takeResult {s : State} (hs : MemOk s) {code : Nat} : MemOk (s.takeResult code) := by
  unfold State.takeResult
  split
  · exact hs
  · refine .ite ?_ ?_
    · exact .upd hs
    · extract_lets -merge +onlyGivenNames _ _ s1
      have h1 : MemOk s1 := .upd hs
      split
      · exact h1
      · refine .ite ?_ ?_
        · exact h1
        · split
          · exact .failCommit h1
          · exact .failCommit h1

theorem MemOk.decideRing {s : State} (hs : MemOk s) : MemOk s.decideRing := by
  unfold State.decideRing
  split
  · exact hs
  · exact .ite hs (.takeResult (.tell hs))

theorem MemOk.takeSubmission {s : State} (hs : MemOk s) {part code : Nat} {v : Nat × Nat × Nat} : MemOk (s.takeSubmission part code
    v) := by
  unfold State.takeSubmission
  split
  · exact hs
  · exact .ite (.decideRing (.upd hs)) (.upd hs)

theorem MemOk.opRingCommit {w : RingWord} {s : State} (hs : MemOk s) : MemOk (opRingCommit w s) := by
  unfold Machine.opRingCommit
  split
  · exact .ite hs (.ite (.submitOwn (.openRingCommit hs)) (.ite (.moveTarget hs) hs))
  · exact .ite (.deferRinged (.upd hs)) (.submitOwn (.upd hs))
  · split
    · exact .takeSubmission hs
    · exact hs
  · exact .takeResult hs

theorem MemOk.opRingDeadline {s : State} (hs : MemOk s) : MemOk (opRingDeadline s) := by
  unfold Machine.opRingDeadline
  split
  · exact .ite (.decideRing hs) hs
  · exact hs

theorem MemOk.deliver {s : State} (hs : MemOk s) {p : Nat} {e : Envelope} : MemOk (s.deliver p e) := by
  unfold State.deliver
  exact .ite (.bump hs) (.ite hs (.runFrom (.modCell hs)))

theorem MemOk.takeEnv {s : State} (hs : MemOk s) {p : Nat} {e : Envelope} : MemOk (s.takeEnv p e) := by
  unfold State.takeEnv
  exact .ite (.deliver (.nextFree (.send (.send (.modPort hs))))) (.sendEnv (.nextFree (.send (.send (.modPort hs)))))

theorem MemOk.opEnvelope {p : Nat} {e : Envelope} {badWords corrected : Nat} {s : State} (hs : MemOk s) : MemOk (opEnvelope p e
    badWords corrected s) := by
  unfold Machine.opEnvelope
  extract_lets -merge +onlyGivenNames s1 _ s2 _
  have h1 : MemOk s1 := .bump (.bump hs)
  have h2 : MemOk s2 := .ite h1 (.bump h1)
  exact .ite (.takeEnv h2) (.ite h2 (.ite (.send (.setPort h2)) (.setPort h2)))

theorem MemOk.opMarkerLoss {settled : Bool} {keeper : Nat} {s : State} (hs : MemOk s) : MemOk (opMarkerLoss settled keeper s) := by
  unfold Machine.opMarkerLoss
  exact .ite hs (.ite (.settleElection (.enterElection hs)) (.enterElection hs))

theorem MemOk.trained {s : State} (hs : MemOk s) {p : Nat} {out : TrainOutcome} {ns : Nat} : MemOk (s.trained p out ns).1 := by
  unfold State.trained
  extract_lets -merge +onlyGivenNames s1 up
  have h1 : MemOk s1 := .putF (.putF hs)
  have hup : ∀ {s full peer hop}, MemOk s → MemOk (up s full peer hop).1 := fun h =>
    .ite_fst (.putF (.putF (.putF h))) (.ite_fst (.putF (.putF (.modPort (.putF (.putF h)))))
      (.ite (.raise (.putF (.putF (.modPort (.putF (.putF h)))))) (.putF (.putF (.modPort (.putF (.putF h)))))))
  split
  · exact hup h1
  · exact hup h1
  · exact .putF h1

theorem MemOk.tellTake {s : State} (hs : MemOk s) {k : Nat} : MemOk (s.tellTake k) := by
  unfold State.tellTake
  exact .ite (.sawTake (.tell hs)) hs

theorem MemOk.nowTakes {s : State} (hs : MemOk s) {p : Nat} : MemOk (s.nowTakes p) := by
  unfold State.nowTakes
  exact .tellTake (.addPart hs)

theorem MemOk.trainFails {s : State} (hs : MemOk s) {p : Nat} : MemOk (s.trainFails p) := by
  unfold State.trainFails
  exact .aloneKeeper (.ite (.putF (.modPort hs)) (.ite (.tellTake (.raise (.countInStart (.modPort hs)))) (.modPort hs)))

theorem MemOk.opRingTake {k : Nat} {east west : TrainOutcome} {eastNs westNs : Nat} {s : State} (hs : MemOk s) : MemOk (opRingTake k
    east west eastNs westNs s) := by
  unfold Machine.opRingTake
  refine .ite ?_ ?_
  · exact hs
  · extract_lets -merge +onlyGivenNames _ _ s1 s2
    have h1 : MemOk s1 := .upd hs
    have h2 : MemOk s2 := .putF (.putF h1)
    split
    · rename_i s3 _ heq
      have h3 : MemOk s3 := .of_eq heq (.trained h2)
      split
      · rename_i s4 _ heq
        have h4 : MemOk s4 := .of_eq heq (.trained h3)
        extract_lets -merge +onlyGivenNames s5 s6
        have h5 : MemOk s5 := .ite (.nowTakes h4) (.trainFails h4)
        have h6 : MemOk s6 := .ite (.nowTakes h5) (.trainFails h5)
        exact .becomeReady (.ite (.enterElection h6) h6)

theorem MemOk.opBypass {k : Nat} {s : State} (hs : MemOk s) : MemOk (opBypass k s) := by
  unfold Machine.opBypass
  exact .upd hs

theorem MemOk.markStale {s : State} (hs : MemOk s) {cls n : Nat} : MemOk (s.markStale cls n) := by
  unfold State.markStale
  exact .upd hs

theorem MemOk.opLinkReset {p : Nat} {on : Bool} {s : State} (hs : MemOk s) : MemOk (opLinkReset p on s) := by
  unfold Machine.opLinkReset
  extract_lets -merge +onlyGivenNames k s1 both
  have h1 : MemOk s1 := .markStale (.markStale (.putF hs))
  exact .ite (.ite (.releasePlanes h1) (.putF (.putF h1))) (.ite h1 (.putF (.putF h1)))

theorem MemOk.opSuddenLoss {r : RingId} {jobs parts ends : List Nat} {now : Nat} {s : State} (hs : MemOk s) : MemOk (opSuddenLoss r
    jobs parts ends now s) := by
  unfold Machine.opSuddenLoss
  extract_lets -merge +onlyGivenNames s1 s2 _ s3 _ s4
  have h1 : MemOk s1 := .at_ hs
  have h2 : MemOk s2 := .foldl (fun _ _ h1 => .invalidate (.foldl (fun _ _ h2 => .bump h2) h1)) h1
  have h3 : MemOk s3 := .foldl (fun _ _ h1 => .memberGone h1) h2
  have h4 : MemOk s4 := .foldl (fun _ _ h1 => .waitFor h1) h3
  exact .ite (.announce h4) (.ite (.enterElection h4) h4)

theorem MemOk.opRingBroken {r : RingId} {s : State} (hs : MemOk s) : MemOk (opRingBroken r s) := by
  unfold Machine.opRingBroken
  extract_lets -merge +onlyGivenNames s1 s2
  have h1 : MemOk s1 := .putF hs
  have h2 : MemOk s2 := .raise h1
  exact .ite h2 (.ite (.announce h2) (.upd h2))

theorem MemOk.opSerLimit {p n : Nat} {s : State} (hs : MemOk s) : MemOk (opSerLimit p n s) := by
  unfold Machine.opSerLimit
  exact .ite (.putF hs) hs

theorem MemOk.opLinkRetrain {p : Nat} {s : State} (hs : MemOk s) : MemOk (opLinkRetrain p s) := by
  unfold Machine.opLinkRetrain
  exact .ite (.putF (.putF hs)) (.putF hs)

theorem MemOk.opPortRetrainDone {p : Nat} {out : TrainOutcome} {durNs : Nat} {s : State} (hs : MemOk s) : MemOk (opPortRetrainDone p
    out durNs s) := by
  unfold Machine.opPortRetrainDone
  refine .ite ?_ ?_
  · exact hs
  · extract_lets -merge +onlyGivenNames s1 _ s2 s3
    have h1 : MemOk s1 := .ite (.movePort (.putF hs)) hs
    have h2 : MemOk s2 := .bump h1
    have h3 : MemOk s3 := .modPort (.putF (.putF h2))
    split
    · rename_i s4 heq
      have h4 : MemOk s4 := .of_eq heq (.trained h3)
      exact .becomeReady (.ite (.enterElection (.nowTakes h4)) (.nowTakes h4))
    · rename_i s4 heq
      have h4 : MemOk s4 := .of_eq heq (.trained h3)
      exact .becomeReady (.trainFails h4)

theorem MemOk.opSlowRaise {r : RingId} {lateness : Nat} {s : State} (hs : MemOk s) : MemOk (opSlowRaise r lateness s) := by
  unfold Machine.opSlowRaise
  exact .ite hs (.declareRaise (.upd hs))

theorem MemOk.countParity {s : State} (hs : MemOk s) {l : Nat} {lanes : List Nat} {now : Nat} : MemOk (s.countParity l lanes now) := by
  unfold State.countParity
  exact .ite hs (.modLink hs)

theorem MemOk.setDir {s : State} (hs : MemOk s) {l : Nat} {back : Bool} {d : LinkDir} : MemOk (s.setDir l back d) := by
  unfold State.setDir
  exact .modLink hs

theorem MemOk.opFlit {l : Nat} {seq : BitVec 16} {crc : BitVec 32} {parity : ParityErrs} {payload : List Byte} {s : State} (hs :
    MemOk s) : MemOk (opFlit l seq crc parity payload s) := by
  unfold Machine.opFlit
  extract_lets -merge +onlyGivenNames s1
  have h1 : MemOk s1 := .at_ hs
  refine .ite ?_ ?_
  · exact h1
  · extract_lets -merge +onlyGivenNames s2 _ _ _ s3 _
    have h2 : MemOk s2 := .countParity h1
    have h3 : MemOk s3 := .ite (.bump h2) h2
    exact .ite (.setDir h3) (.ite h3 (.ite (.send (.setDir h3)) (.setDir h3)))

theorem MemOk.opResendLimit {l : Nat} {seq : BitVec 16} {consumer : Reader} {s : State} (hs : MemOk s) : MemOk (opResendLimit l seq
    consumer s) := by
  unfold Machine.opResendLimit
  split
  · exact hs
  · exact .failReader (.setDir hs)

theorem MemOk.opLaneFailed {l lane : Nat} {s : State} (hs : MemOk s) : MemOk (opLaneFailed l lane s) := by
  unfold Machine.opLaneFailed
  extract_lets -merge +onlyGivenNames _
  refine .ite ?_ ?_
  · exact hs
  · extract_lets -merge +onlyGivenNames s1
    have h1 : MemOk s1 := .bump hs
    refine .ite ?_ ?_
    · exact .setLink h1
    · extract_lets -merge +onlyGivenNames _ _ _
      split
      · exact .setLink h1
      · exact .ite (.setLink h1) (.setLink h1)

theorem MemOk.opLane {l lane : Nat} {s : State} (hs : MemOk s) : MemOk (opLane l lane s) := by
  unfold Machine.opLane
  exact .ite (.linkEdge (.spareTheLanes (.opLaneFailed hs))) (.ite (.opLaneFailed hs) hs)

theorem MemOk.opD2dReset {l : Nat} {on : Bool} {s : State} (hs : MemOk s) : MemOk (opD2dReset l on s) := by
  unfold Machine.opD2dReset
  exact .ite (.markStale (.putF hs)) (.putF (.putF (.putF (.errAcross (.modLink (.markStale (.putF hs)))))))

theorem MemOk.opD2dTest {l : Nat} {test loop : Bool} {s : State} (hs : MemOk s) : MemOk (opD2dTest l test loop s) := by
  unfold Machine.opD2dTest
  exact .ite (.putF (.putF hs)) (.putF (.putF (.putF hs)))

theorem MemOk.opCapability {l : Nat} {near far : Word} {s : State} (hs : MemOk s) : MemOk (opCapability l near far s) := by
  unfold Machine.opCapability
  refine .ite ?_ ?_
  · exact hs
  · extract_lets -merge +onlyGivenNames s1 s2
    have h1 : MemOk s1 := .modLink hs
    have h2 : MemOk s2 := .putF h1
    split
    · exact .putF (.putF (.putF h2))
    · extract_lets -merge +onlyGivenNames s3 s4 s5
      have h3 : MemOk s3 := .putF (.putF (.putF h2))
      have h4 : MemOk s4 := .ite (.putF h3) h3
      have h5 : MemOk s5 := .raise h4
      exact .ite (.ite (.modLink h5) (.isolateTower h5)) h5

theorem MemOk.opMeshRow {c : Nat} {r : MeshRow} {now : Nat} {s : State} (hs : MemOk s) : MemOk (opMeshRow c r now s) := by
  unfold Machine.opMeshRow
  extract_lets -merge +onlyGivenNames s1
  have h1 : MemOk s1 := .at_ hs
  split
  · exact h1
  · exact .opProducerLost (.bump h1)
  · exact .ite h1 (.ite (.errsum (.bump h1)) (.ite h1 (.runFrom (.showPass (.bump (.modCell h1))))))

theorem MemOk.rakeStore {s : State} (hs : MemOk s) {b : BucketId} {w bitNo : Nat} : MemOk (s.rakeStore b w bitNo) := by
  unfold State.rakeStore
  split
  · exact .rakeFixed hs
  · exact .rakeLog (.bump hs)
  · exact .rakeLog (.bump hs)

theorem MemOk.accessStore {s : State} (hs : MemOk s) {b : BucketId} {r : Reader} {ue : Nat → State → State} (hue : ∀ w s, MemOk s →
    MemOk (ue w s)) {found : List WordErr} : MemOk (s.accessStore b r ue found) := by
  unfold State.accessStore
  refine .foldl (fun _ _ h1 => ?_) hs
  dsimp only
  split
  · exact .ite (.rakeStore (.corrected h1)) (.corrected h1)
  · exact .ite (.rakeStore (.corrected h1)) (.corrected h1)
  · exact h1
  · exact hue _ _ h1

theorem MemOk.sramUe {s : State} (hs : MemOk s) {reader : Nat × Nat} {c w : Nat} : MemOk (s.sramUe reader c w) := by
  unfold State.sramUe
  extract_lets -merge +onlyGivenNames s1 s2 s3
  have h1 : MemOk s1 := .modCell hs
  have h2 : MemOk s2 := .putF h1
  have h3 : MemOk s3 := .putF h2
  split
  · exact .ueRecord h3
  · split
    · rename_i s4 _ heq
      have h4 : MemOk s4 := .of_eq heq (.badPlace h3)
      exact .ueRecord (.ite (.modCell (.ite (.dropPass h4) h4)) (.ite (.dropPass h4) h4))

theorem MemOk.routerUe {s : State} (hs : MemOk s) {r : Reader} {c w : Nat} : MemOk (s.routerUe r c w) := by
  unfold State.routerUe
  extract_lets -merge +onlyGivenNames k j s1
  have h1 : MemOk s1 := .ueRecord hs
  clear_value s1 j
  cases j with
  | none => exact h1
  | some j => exact .invalidate (.modCell (.discardWork (.bump h1)))

theorem MemOk.spareHubWord {s : State} (hs : MemOk s) {h w : Nat} : MemOk (s.spareHubWord h w) := by
  unfold State.spareHubWord
  extract_lets -merge +onlyGivenNames _ _
  refine .ite ?_ ?_
  · exact .upd hs
  · extract_lets -merge +onlyGivenNames _ s1
    have h1 : MemOk s1 := .upd hs
    exact .ite h1 (.ite (.raise (.degrade (.putF (.upd h1)))) (.putF (.upd h1)))

theorem MemOk.steadingStops {s : State} (hs : MemOk s) : MemOk s.steadingStops := by
  unfold State.steadingStops
  extract_lets -merge +onlyGivenNames s1
  have h1 : MemOk s1 := (by
    dsimp only [s1]
    split
    · exact .ite (.putF (.upd hs)) hs
    · exact hs)
  exact .upd h1

theorem MemOk.attAbandon {s : State} (hs : MemOk s) : MemOk s.attAbandon := by
  unfold State.attAbandon
  extract_lets -merge +onlyGivenNames s1
  have h1 : MemOk s1 := .ite (.putF (.putF hs)) hs
  exact .upd h1

theorem MemOk.burnJob {s : State} (hs : MemOk s) {bytes : List Byte} : MemOk (s.burnJob bytes) := by
  unfold State.burnJob
  exact .upd (hs.putOtp (Memory.wf_burn (bytes.drop 1024) (slotAt (s.getF F.otpProg_slot)) (Memory.wf_burn (bytes.take 1024) (genAt
    (s.getF F.otpProg_slot)) hs.otp_wf)))

theorem MemOk.cutOtp {s : State} (hs : MemOk s) : MemOk s.cutOtp := by
  unfold State.cutOtp
  split
  · exact hs
  · exact .nextFree (.putF (.putF (.putF (.burnJob hs))))

theorem MemOk.restartSteading {s : State} (hs : MemOk s) {now : Nat} : MemOk (s.restartSteading now) := by
  unfold State.restartSteading
  extract_lets -merge +onlyGivenNames s1
  have h1 : MemOk s1 := .steadingStops (.attAbandon (.cutOtp hs))
  exact .upd h1

theorem MemOk.hubUe {s : State} (hs : MemOk s) {r : Reader} {h w : Nat} : MemOk (s.hubUe r h w) := by
  unfold State.hubUe
  extract_lets -merge +onlyGivenNames _ _ _ s1 _ s2 s3
  have h1 : MemOk s1 := .ueRecord hs
  have h2 : MemOk s2 := .foldl (fun _ _ h1 => .errsum h1) h1
  have h3 : MemOk s3 := .spareHubWord h2
  refine .ite ?_ ?_
  · exact .restartSteading h3
  · refine .ite ?_ ?_
    · extract_lets -merge +onlyGivenNames _ _
      split
      · exact .failStream h3
      · split
        · exact .upd h3
        · exact h3
      · exact h3
    · refine .ite ?_ ?_
      · split
        · exact .ite (.chuteStop h3) h3
        · exact h3
      · exact .ite (.linkFailure h3) (.ite (.foldl (fun _ _ h1 => .invalidate h1) h3) (.ite (.upd h3) (.ite (.failReader h3) h3)))

theorem MemOk.opMemoryAccess {r : Reader} {t : MemTarget} {n : Nat} {wr : Option (List Byte)} {found : List WordErr} {now : Nat} {s
    : State} (hs : MemOk s) : MemOk (opMemoryAccess r t n wr found now s) := by
  unfold Machine.opMemoryAccess
  extract_lets -merge +onlyGivenNames s1
  have h1 : MemOk s1 := .at_ hs
  split
  · exact .accessDev h1
  · exact .accessStore h1 (fun _ _ h1 => .failReader (.metWord h1))
  · exact .accessStore h1 (fun _ _ h1 => .sramUe h1)
  · exact .accessStore h1 (fun _ _ h1 => .routerUe h1)
  · exact .accessStore h1 (fun _ _ h1 => .hubUe h1)

theorem MemOk.opBankRefresh {c b : Nat} {busy : Bool} {s : State} (hs : MemOk s) : MemOk (opBankRefresh c b busy s) := by
  unfold Machine.opBankRefresh
  exact .ite hs (.ite (.setOwed hs) (.ite hs (.ite (.setOwed hs) (.bump hs))))

theorem MemOk.leak {s : State} (hs : MemOk s) {b : BucketId} : MemOk (s.leak b) := by
  unfold State.leak
  extract_lets -merge +onlyGivenNames _
  refine .ite ?_ ?_
  · exact hs
  · extract_lets -merge +onlyGivenNames s1 s2
    have h1 : MemOk s1 := .putF hs
    have h2 : MemOk s2 := (by
      dsimp only [s2]
      split
      · exact .ite (.upd h1) h1
      · exact h1)
    exact .ite (.upd h2) h2

theorem MemOk.takeReadings {s : State} (hs : MemOk s) {rs : List Reading} : MemOk (s.takeReadings rs) := by
  unfold State.takeReadings
  exact .foldl (fun _ _ h1 => .putF h1) hs

theorem MemOk.thermalError {s : State} (hs : MemOk s) {k : Nat} : MemOk (s.thermalError k) := by
  unfold State.thermalError
  exact .errsum hs

theorem MemOk.enterHotHold {s : State} (hs : MemOk s) {k : Nat} {t : ℤ} : MemOk (s.enterHotHold k t) := by
  unfold State.enterHotHold
  exact .ite hs (.goOn (.raise (.thermalError (.showStack (.setStack hs)))))

theorem MemOk.scramble {s : State} (hs : MemOk s) {a n : Nat} : MemOk (s.scramble a n) := by
  unfold State.scramble
  exact .nextFree (.writeDev hs)

theorem MemOk.abandonOp {s : State} (hs : MemOk s) {c : Nat} {f : FlailCmd} : MemOk (s.abandonOp c f) := by
  unfold State.abandonOp
  extract_lets -merge +onlyGivenNames s1 s2
  have h1 : MemOk s1 := .bump hs
  have h2 : MemOk s2 := .ite (.portEnd h1) h1
  exact .ite (.scramble h2) (.ite (.nextFree (.upd h2)) h2)

theorem MemOk.abandonFlails {s : State} (hs : MemOk s) {c : Nat} {err : Bool} : MemOk (s.abandonFlails c err) := by
  unfold State.abandonFlails
  extract_lets -merge +onlyGivenNames _ s1 s2 s3 s4
  have h1 : MemOk s1 := .foldl (fun _ _ h1 => .abandonOp h1) hs
  have h2 : MemOk s2 := .ite (.dropQueued h1) h1
  have h3 : MemOk s3 := .ite (.portEnd h2) h2
  have h4 : MemOk s4 := .modChan h3
  exact .putF (.showFlails h4)

theorem MemOk.stopStack {s : State} (hs : MemOk s) {k : Nat} {t : ℤ} : MemOk (s.stopStack k t) := by
  unfold State.stopStack
  exact .ite hs (.beginStop (.raise (.thermalError (.foldl (fun _ _ h1 => .showRefresh (.abandonFlails (.errAll h1))) (.setStack hs)))))

theorem MemOk.warmLoft {s : State} (hs : MemOk s) {k l : Nat} {t : ℤ} : MemOk (s.warmLoft k l t) := by
  unfold State.warmLoft
  extract_lets -merge +onlyGivenNames _ s1 s2
  have h1 : MemOk s1 := .ite (.showStack (.setStack hs)) hs
  have h2 : MemOk s2 := .ite (.enterHotHold h1) h1
  exact .ite (.stopStack h2) h2

theorem MemOk.checkGroup {s : State} (hs : MemOk s) {now : Nat} {g : List Nat} : MemOk (s.checkGroup now g) := by
  unfold State.checkGroup
  extract_lets -merge +onlyGivenNames _ _ _ _ s1
  have h1 : MemOk s1 := .foldl (fun _ _ h1 => .putF h1) hs
  refine .ite h1 ?_
  extract_lets -merge +onlyGivenNames odd
  refine .ite ?_ ?_
  · extract_lets -merge +onlyGivenNames s2 _ _ _
    have h2 : MemOk s2 := .foldl (fun _ _ h1 => .putF h1) h1
    exact .ite (.raise (.upd h2)) h2
  · exact .foldl (fun s i h1 => .raise (.upd (MemOk.putF h1 (f := F.thmSens_suspect) (inst := i) (v := 1)))) h1

theorem MemOk.countAgree {s : State} (hs : MemOk s) {i : Nat} : MemOk (s.countAgree i) := by
  unfold State.countAgree
  exact .ite (.upd hs) hs

theorem MemOk.coolLoft {s : State} (hs : MemOk s) {k l : Nat} {t : ℤ} : MemOk (s.coolLoft k l t) := by
  unfold State.coolLoft
  exact .ite (.showStack (.setStack hs)) (.setStack hs)

theorem MemOk.trackCool {s : State} (hs : MemOk s) {now : Nat} : MemOk (s.trackCool now) := by
  unfold State.trackCool
  exact .ite (.upd hs) hs

theorem MemOk.opHousekeeping {r : Round} {now : Nat} {s : State} (hs : MemOk s) : MemOk (opHousekeeping r now s) := by
  unfold Machine.opHousekeeping
  extract_lets -merge +onlyGivenNames s1 _ s2 _ s3 s4 s5 s6 _ s7
  have h1 : MemOk s1 := .takeReadings (.at_ hs)
  have h2 : MemOk s2 := .upd h1
  have h3 : MemOk s3 := .foldl (fun _ _ h1 => .warmLoft h1) h2
  have h4 : MemOk s4 := .foldl (fun _ _ h1 => .checkGroup h1) h3
  have h5 : MemOk s5 := .foldl (fun _ _ h1 => .countAgree h1) h4
  have h6 : MemOk s6 := .foldl (fun _ _ h1 => .coolLoft h1) h5
  have h7 : MemOk s7 := .putF (.putF h6)
  exact .trackCool h7

theorem MemOk.opSensorReturn {i : Nat} {s : State} (hs : MemOk s) : MemOk (opSensorReturn i s) := by
  unfold Machine.opSensorReturn
  exact .ite (.putF (.upd hs)) hs

theorem MemOk.opScheduledRetrain {c now : Nat} {s : State} (hs : MemOk s) : MemOk (opScheduledRetrain c now s) := by
  unfold Machine.opScheduledRetrain
  exact .ite (.at_ hs) (.putF (.modChan (.at_ hs)))

theorem MemOk.opChannelRetrain {c : Nat} {s : State} (hs : MemOk s) : MemOk (opChannelRetrain c s) := by
  unfold Machine.opChannelRetrain
  exact .ite hs (.urgentRetrain (.putF hs))

theorem MemOk.opRetrainDone {c : Nat} {dead : List Nat} {now : Nat} {s : State} (hs : MemOk s) : MemOk (opRetrainDone c dead now s)
    := by
  unfold Machine.opRetrainDone
  extract_lets -merge +onlyGivenNames s1
  have h1 : MemOk s1 := .at_ hs
  split
  · exact h1
  · extract_lets -merge +onlyGivenNames s2 s3 _ _ s4 s5
    have h2 : MemOk s2 := .bump (.putF (.putF h1))
    have h3 : MemOk s3 := .ite h2 (.putF h2)
    have h4 : MemOk s4 := .modChan h3
    have h5 : MemOk s5 := .foldl (fun _ _ h1 => .failWire h1) h4
    exact .ite (.goOn (.putF h5)) h5

theorem MemOk.opHoldTimeout {c now : Nat} {s : State} (hs : MemOk s) : MemOk (opHoldTimeout c now s) := by
  unfold Machine.opHoldTimeout
  extract_lets -merge +onlyGivenNames s1
  have h1 : MemOk s1 := .at_ hs
  split
  · exact .ite h1 (.failHold h1)
  · exact h1

theorem MemOk.opMargin {c : Nat} {mode : Bool} {wire : Nat} {s : State} (hs : MemOk s) : MemOk (opMargin c mode wire s) := by
  unfold Machine.opMargin
  exact .ite (.putF hs) (.ite (.putF (.putF (.putF hs))) (.modChan (.putF (.putF (.putF (.putF hs))))))

theorem MemOk.wiresNow {s : State} (hs : MemOk s) {c : Nat} : MemOk (s.wiresNow c) := by
  unfold State.wiresNow
  extract_lets -merge +onlyGivenNames _ s1
  have h1 : MemOk s1 := .foldl (fun _ _ h1 => .assignBond h1) (.modChan hs)
  split
  · exact .retireNow h1
  · exact .ite (.narrowChannel h1) h1

theorem MemOk.opWireFailed {c w : Nat} {s : State} (hs : MemOk s) : MemOk (opWireFailed c w s) := by
  unfold Machine.opWireFailed
  exact .ite (.wiresNow (.failWire hs)) (.failWire hs)

theorem MemOk.opChannelReset {c : Nat} {on : Bool} {s : State} (hs : MemOk s) : MemOk (opChannelReset c on s) := by
  unfold Machine.opChannelReset
  extract_lets -merge +onlyGivenNames _ s1
  have h1 : MemOk s1 := .markStale (.putF hs)
  exact .ite h1 (.ite (.selfRefresh (.abandonFlails (.errAll (.putF (.modChan h1))))) (.modChan (.putF (.putF (.selfRefresh (.putF
    h1))))))

theorem MemOk.flailCmd {s : State} (hs : MemOk s) {c op : Nat} {w : FlailWords} {data : List Byte} {port : Bool} : MemOk (s.flailCmd
    c op w data port) := by
  unfold State.flailCmd
  refine .ite ?_ ?_
  · exact .ite (.send hs) hs
  · extract_lets -merge +onlyGivenNames _ s1
    have h1 : MemOk s1 := (by
      dsimp only [s1]
      split
      · exact .ite (.enqueue hs) hs
      · exact hs)
    exact .startFlails (.enqueue h1)

theorem MemOk.portStart {s : State} (hs : MemOk s) {c op : Nat} {w : FlailWords} : MemOk (s.portStart c op w) := by
  unfold State.portStart
  exact .ite hs (.ite (.portEnd hs) (.ite (.flailCmd (.putF hs)) hs))

theorem MemOk.portRead {s : State} (hs : MemOk s) {c n : Nat} : MemOk (s.portRead c n).1 := by
  unfold State.portRead
  extract_lets -merge +onlyGivenNames _
  refine .ite_fst ?_ ?_
  · exact .countAddr hs
  · refine .ite_fst ?_ ?_
    · exact .countWrapped hs
    · extract_lets -merge +onlyGivenNames s1
      have h1 : MemOk s1 := .foldl (fun _ _ h1 => .softWord h1) (.forceRefreshes hs)
      split
      · exact h1
      · exact .foldl (fun _ _ h1 => .metWord h1) h1

theorem MemOk.loadqEnds {s : State} (hs : MemOk s) {c : Nat} {f : FlailCmd} : MemOk (s.loadqEnds c f) := by
  unfold State.loadqEnds
  extract_lets -merge +onlyGivenNames _
  split
  · rename_i s1 _ heq
    have h1 : MemOk s1 := .of_eq heq (.ite_fst (.portRead hs) hs)
    extract_lets -merge +onlyGivenNames s2
    have h2 : MemOk s2 := .bump h1
    split
    · exact .portEnd h2
    · exact .ite (.portEnd (.putF (.modChan h2))) (.putF (.modChan h2))

theorem MemOk.flailRead {s : State} (hs : MemOk s) {c : Nat} {ws : List Nat} : MemOk (s.flailRead c ws).1 := by
  unfold State.flailRead
  exact .foldl (fun _ _ h1 => .bump (.softWord h1)) hs

theorem MemOk.flushBurst {s : State} (hs : MemOk s) {c : Nat} : MemOk (s.flushBurst c) := by
  unfold State.flushBurst
  exact .ite hs (.modChan (.send hs))

theorem MemOk.sendScores {s : State} (hs : MemOk s) {c : Nat} : MemOk (s.sendScores c) := by
  unfold State.sendScores
  extract_lets -merge +onlyGivenNames _ _ _ s1
  have h1 : MemOk s1 := .modChan hs
  exact .foldl (fun _ _ h1 => .ite (.flushBurst ((by
    split
    · exact .send h1
    · exact .modChan (.foldl (fun _ _ h2 => .send h2) h1)))) ((by
    split
    · exact .send h1
    · exact .modChan (.foldl (fun _ _ h2 => .send h2) h1)))) h1

theorem MemOk.putScores {s : State} (hs : MemOk s) {c : Nat} {f : FlailCmd} {bytes : Option (List Byte)} : MemOk (s.putScores c f
    bytes) := by
  unfold State.putScores
  exact .ite (.sendScores hs) (.sendScores (.modChan hs))

theorem MemOk.portWrite {s : State} (hs : MemOk s) {c : Nat} {bs : List Byte} : MemOk (s.portWrite c bs) := by
  unfold State.portWrite
  exact .accessDev hs

theorem MemOk.scoreEnds {s : State} (hs : MemOk s) {c : Nat} {f : FlailCmd} : MemOk (s.scoreEnds c f) := by
  unfold State.scoreEnds
  extract_lets -merge +onlyGivenNames w x rb row recs lacks
  have h1 : MemOk (s.flailRead c (rangeWords (recs.map (fun i =>
    let a := max row (fwRegionAt w c + i * rb)
    (a, fwRegionAt w c + (i + 1) * rb - a))))).1 := .flailRead hs
  generalize s.flailRead c _ = p at h1 ⊢
  obtain ⟨s1, bad⟩ := p
  dsimp -zeta only at h1 ⊢
  extract_lets -merge +onlyGivenNames heads s2 used
  have h2 : MemOk s2 := .bump h1
  have hused : ∀ {s}, MemOk s → MemOk (used s) := fun h => .modChan h
  refine .ite ?_ ?_
  · exact .ite (.portEnd (hused (.flailBad h2))) (.putScores (hused (.flailBad h2)))
  · exact .ite (.putScores (.modChan (hused h2))) (.ite (.portEnd (.modChan (hused h2))) (.portWrite (.modChan (hused h2))))

theorem MemOk.topkEnds {s : State} (hs : MemOk s) {c : Nat} {f : FlailCmd} : MemOk (s.topkEnds c f) := by
  unfold State.topkEnds
  extract_lets -merge +onlyGivenNames _ _ _ _
  split
  · rename_i s1 _ heq
    have h1 : MemOk s1 := .of_eq heq (.flailRead hs)
    exact .ite (.portEnd (.flailBad (.bump h1))) (.ite (.portEnd (.ite (.bump h1) (.nextFree (.bump h1)))) (.portWrite (.ite (.bump
      h1) (.nextFree (.bump h1)))))

theorem MemOk.fragParts {s : State} (hs : MemOk s) {c : Nat} {ps : List (Nat × Nat)} : MemOk (s.fragParts c ps).1 := by
  unfold State.fragParts
  exact .foldl (fun _ _ h1 => .softWord h1) (.bump hs)

theorem MemOk.putRecord {s : State} (hs : MemOk s) {a : Nat} {bs : List Byte} : MemOk (s.putRecord a bs) := by
  unfold State.putRecord
  exact .ite (.writeDev hs) (.writeDev (.writeDev hs))

theorem MemOk.requantEnds {s : State} (hs : MemOk s) {c : Nat} {f : FlailCmd} : MemOk (s.requantEnds c f) := by
  unfold State.requantEnds
  extract_lets -merge +onlyGivenNames _ _ _ _ _ _ _ _ _
  split
  · rename_i s1 _ heq
    have h1 : MemOk s1 := .of_eq heq (.flailRead hs)
    split
    · rename_i s2 _ heq
      have h2 : MemOk s2 := .of_eq heq (.fragParts h1)
      exact .ite (.portEnd (.flailMet (.flailBad (.bump h2)))) (.portEnd (.writeDev (.foldl (fun _ _ h1 => .putRecord h1) (.bump h2))))

theorem MemOk.scrubEnds {s : State} (hs : MemOk s) {c : Nat} {f : FlailCmd} : MemOk (s.scrubEnds c f) := by
  unfold State.scrubEnds
  exact .ite (.portEnd (.bump (.scrubRow hs))) (.bump (.scrubRow hs))

theorem MemOk.fragEnds {s : State} (hs : MemOk s) {c : Nat} {f : FlailCmd} : MemOk (s.fragEnds c f) := by
  unfold State.fragEnds
  split
  · rename_i s1 _ heq
    have h1 : MemOk s1 := .of_eq heq ((by
      split
      · exact hs
      · extract_lets -merge +onlyGivenNames _ s1
        have h1 : MemOk s1 := .foldl (fun _ _ h1 => .softWord h1) (.forceRefreshes hs)
        split
        · exact h1
        · exact .flailMet h1))
    exact .bump (.modChan h1)

theorem MemOk.opEnds {s : State} (hs : MemOk s) {c : Nat} {f : FlailCmd} : MemOk (s.opEnds c f) := by
  unfold State.opEnds
  exact .ite (.loadqEnds hs) (.ite (.scoreEnds hs) (.ite (.topkEnds hs) (.ite (.requantEnds hs) (.ite (.scrubEnds hs) (.fragEnds hs)))))

theorem MemOk.opFlailComplete {c b now : Nat} {s : State} (hs : MemOk s) : MemOk (opFlailComplete c b now s) := by
  unfold Machine.opFlailComplete
  extract_lets -merge +onlyGivenNames s1
  have h1 : MemOk s1 := .at_ hs
  split
  · exact h1
  · exact .ite (.startFlails (.modChan (.bump h1))) (.goOn (.showFlails (.opEnds (.modChan h1))))

theorem MemOk.opQuarantineEnd {id : IdSpace} {s : State} (hs : MemOk s) : MemOk (opQuarantineEnd id s) := by
  unfold Machine.opQuarantineEnd
  split
  · exact .ite hs (.modStream hs)
  · exact .ite hs (.setSheaf hs)
  · exact .ite hs (.setProg hs)
  · exact .ite hs (.setPoolSlot hs)

theorem MemOk.cutImage {s : State} (hs : MemOk s) : MemOk s.cutImage := by
  unfold State.cutImage
  split
  · exact hs
  · extract_lets -merge +onlyGivenNames n s1
    have h1 : MemOk s1 := .upd (hs.putFlash (Memory.wf_fwrite 0 _ (Memory.wf_ferase 0 0x1000000 hs.flash_wf)))
    exact .nextFree (.putF (.putF h1))

theorem MemOk.loseStandby {s : State} (hs : MemOk s) : MemOk s.loseStandby := by
  have h1 : MemOk s.cutOtp.cutImage := .cutImage (.cutOtp hs)
  exact (memOk_iff _).2 ⟨Memory.wf_nil, h1.hostMem_wf, h1.flash_wf, h1.otp_wf, Memory.wf_nil⟩

theorem MemOk.coldReset {s : State} (hs : MemOk s) {cause : Nat} : MemOk (s.coldReset cause) := by
  unfold State.coldReset
  extract_lets -merge +onlyGivenNames keep again s1 x src r r2
  have h1 : MemOk s1 := .cutImage (.cutOtp hs)
  have hd : Memory.wf (if keep then s1.devMem else []) = true := by
    split
    · exact h1.devMem_wf
    · exact Memory.wf_nil
  have hr : MemOk r := (memOk_iff _).2 ⟨hd, h1.hostMem_wf, h1.flash_wf, h1.otp_wf, Memory.wf_nil⟩
  exact .putF (.putF (.setReg (.setReg hr)))

theorem MemOk.countStart {s : State} (hs : MemOk s) : MemOk s.countStart := by
  unfold State.countStart
  split
  · exact hs.putFlash (Memory.wf_fwrite _ _ hs.flash_wf)
  · exact .nextFree (hs.putFlash (Memory.wf_fwrite _ _ (Memory.wf_ferase _ _ hs.flash_wf)))

theorem MemOk.logRoom {s : State} (hs : MemOk s) {n : Nat} : MemOk (s.logRoom n).1 := by
  unfold State.logRoom
  exact .ite_fst hs (hs.putFlash (Memory.wf_fwrite _ _ (Memory.wf_ferase _ _ hs.flash_wf)))

theorem MemOk.writeLog {s : State} (hs : MemOk s) {e : Event} {now : Nat} : MemOk (s.writeLog e now) := by
  unfold State.writeLog
  extract_lets -merge +onlyGivenNames s1
  have h1 : MemOk s1 := .ite (.countStart hs) hs
  have h2 : MemOk (s1.logRoom e.records).1 := .logRoom h1
  generalize s1.logRoom e.records = p at h2 ⊢
  obtain ⟨s2, i⟩ := p
  dsimp -zeta only at h2 ⊢
  extract_lets -merge +onlyGivenNames at_ f f2
  have hf : Memory.wf f = true := Memory.wf_fwrite _ _ h2.flash_wf
  have hf2 : Memory.wf f2 = true := by
    unfold f2
    split
    · exact Memory.wf_ferase _ _ hf
    · exact hf
  clear_value f2
  have h3 : MemOk { s2 with flash := f2 } := h2.putFlash hf2
  exact .upd h3

theorem MemOk.logNext {s : State} (hs : MemOk s) {now : Nat} : MemOk (s.logNext now) := by
  unfold State.logNext
  split
  · exact hs
  · extract_lets -merge +onlyGivenNames _ s1
    have h1 : MemOk s1 := .upd hs
    exact .ite h1 (.writeLog (.upd h1))

theorem MemOk.flushLog {s : State} (hs : MemOk s) : MemOk s.flushLog := by
  unfold State.flushLog
  exact .iterate _ (fun _ h => .logNext h) hs

theorem MemOk.giveUpKeep {s : State} (hs : MemOk s) : MemOk s.giveUpKeep := by
  unfold State.giveUpKeep
  exact .flushLog (.nextFree (.raise (.putF (.putF (.putF (.putF (.upd (hs.putDevMem Memory.wf_nil))))))))

theorem MemOk.opPowerOn {r : Rail} {mv now : Nat} {s : State} (hs : MemOk s) : MemOk (opPowerOn r mv now s) := by
  unfold Machine.opPowerOn
  extract_lets -merge +onlyGivenNames s1
  have h1 : MemOk s1 := .at_ hs
  split
  · refine .ite ?_ ?_
    · extract_lets -merge +onlyGivenNames s2
      have h2 : MemOk s2 := .ite (.loseStandby h1) (.ite h1 (.coldReset (.ite (.giveUpKeep h1) h1)))
      exact .upd h2
    · exact .ite (.upd h1) h1

theorem MemOk.opPorst {lowNs now : Nat} {s : State} (hs : MemOk s) : MemOk (opPorst lowNs now s) := by
  unfold Machine.opPorst
  extract_lets -merge +onlyGivenNames s1
  have h1 : MemOk s1 := .at_ hs
  refine .ite ?_ ?_
  · exact h1
  · refine .ite ?_ ?_
    · exact .upd h1
    · extract_lets -merge +onlyGivenNames _ _ s2 s3
      have h2 : MemOk s2 := .ite (.upd h1) h1
      have h3 : MemOk s3 := .coldReset h2
      exact .upd h3

theorem MemOk.opPorstRelease {now : Nat} {s : State} (hs : MemOk s) : MemOk (opPorstRelease now s) := by
  unfold Machine.opPorstRelease
  extract_lets -merge +onlyGivenNames s1
  have h1 : MemOk s1 := .at_ hs
  exact .ite (.upd h1) h1

theorem MemOk.hostReset {s : State} (hs : MemOk s) : MemOk s.hostReset := by
  unfold State.hostReset
  exact .upd hs

theorem MemOk.dropStageFlails {s : State} (hs : MemOk s) : MemOk s.dropStageFlails := by
  unfold State.dropStageFlails
  extract_lets -merge +onlyGivenNames s1
  have h1 : MemOk s1 := .foldl (fun _ _ h1 => .showFlails (.modChan h1)) hs
  exact .goOn (.upd h1)

theorem MemOk.unloadAll {s : State} (hs : MemOk s) : MemOk s.unloadAll := by
  unfold State.unloadAll
  extract_lets -merge +onlyGivenNames _ s1 s2
  have h1 : MemOk s1 := .foldl (fun _ _ h1 => .closeSilently h1) hs
  have h2 : MemOk s2 := .foldl (fun _ _ h1 => .dropProgram h1) h1
  exact .upd h2

theorem MemOk.clearResets {s : State} (hs : MemOk s) : MemOk s.clearResets := by
  unfold State.clearResets
  exact .showResets (.foldl (fun _ _ h1 => .modCell h1) (.foldl (fun _ _ h1 => .putF h1) (.upd hs)))

theorem MemOk.dropCommits {s : State} (hs : MemOk s) : MemOk s.dropCommits := by
  unfold State.dropCommits
  exact .ite (.putF (.upd hs)) (.putF hs)

theorem MemOk.warmReset {s : State} (hs : MemOk s) : MemOk s.warmReset := by
  unfold State.warmReset
  extract_lets -merge +onlyGivenNames s1 _
  have h1 : MemOk s1 := .bump hs
  refine .ite ?_ ?_
  · exact .hostReset h1
  · extract_lets -merge +onlyGivenNames s2 s3 s4 s5
    have h2 : MemOk s2 := .dropStageFlails (.stopStages h1)
    have h3 : MemOk s3 := .ite (.keepComputeStop h2) (.unloadAll h2)
    have h4 : MemOk s4 := .clearResets (.attAbandon (.dropCommits (.hostReset h3)))
    have h5 : MemOk s5 := .opRevert (.upd h4)
    exact .upd h5

theorem MemOk.opPerst {lowNs : Nat} {s : State} (hs : MemOk s) : MemOk (opPerst lowNs s) := by
  unfold Machine.opPerst
  refine .ite ?_ ?_
  · exact hs
  · extract_lets -merge +onlyGivenNames s1
    have h1 : MemOk s1 := .ite hs (.warmReset hs)
    exact .upd h1

theorem MemOk.opPerstRelease {now : Nat} {s : State} (hs : MemOk s) : MemOk (opPerstRelease now s) := by
  unfold Machine.opPerstRelease
  extract_lets -merge +onlyGivenNames s1
  have h1 : MemOk s1 := .at_ hs
  exact .upd h1

theorem MemOk.bootClocks {s : State} (hs : MemOk s) : MemOk s.bootClocks := by
  unfold State.bootClocks
  exact .foldl (fun _ _ h1 => .putF (.putF (.putF h1))) (.foldl (fun _ _ h1 => .putF (.putF (.putF h1))) hs)

theorem MemOk.loadAvail {s : State} (hs : MemOk s) : MemOk s.loadAvail := by
  unfold State.loadAvail
  exact .putF (.foldl (fun _ _ h1 => .setUsable h1) hs)

theorem MemOk.showRevs {s : State} (hs : MemOk s) : MemOk s.showRevs := by
  unfold State.showRevs
  exact .foldl (fun _ _ h1 => .putF h1) hs

theorem MemOk.showOtp {s : State} (hs : MemOk s) : MemOk s.showOtp := by
  unfold State.showOtp
  exact .putF (.putF (.putF (.putF (.putF (.putF hs)))))

theorem MemOk.showStrap {s : State} (hs : MemOk s) {mv : Nat} : MemOk (s.showStrap mv) := by
  unfold State.showStrap
  extract_lets -merge +onlyGivenNames s1
  have h1 : MemOk s1 := .putF hs
  split
  · exact .putF (.putF (.putF h1))
  · exact .putF (.putF h1)

theorem MemOk.loadTrim {s : State} (hs : MemOk s) : MemOk s.loadTrim := by
  unfold State.loadTrim
  exact .putF (.upd hs)

theorem MemOk.opOptionLoading {mv now : Nat} {s : State} (hs : MemOk s) : MemOk (opOptionLoading mv now s) := by
  unfold Machine.opOptionLoading
  extract_lets -merge +onlyGivenNames s1
  have h1 : MemOk s1 := .at_ hs
  refine .ite ?_ ?_
  · exact h1
  · extract_lets -merge +onlyGivenNames s2 s3 s4
    have h2 : MemOk s2 := .bootClocks (.loadAvail (.showRevs (.showOtp (.showStrap (.loadTrim h1)))))
    have h3 : MemOk s3 := .putF h2
    have h4 : MemOk s4 := .putF h3
    exact .upd h4

theorem MemOk.opStorm {now : Nat} {s : State} (hs : MemOk s) : MemOk (opStorm now s) := by
  unfold Machine.opStorm
  extract_lets -merge +onlyGivenNames s1
  have h1 : MemOk s1 := .at_ hs
  exact .ite (.upd h1) h1

theorem MemOk.opStormExit {lowNs now : Nat} {s : State} (hs : MemOk s) : MemOk (opStormExit lowNs now s) := by
  unfold Machine.opStormExit
  extract_lets -merge +onlyGivenNames s1
  have h1 : MemOk s1 := .at_ hs
  exact .ite (.putF (.putF (.upd h1))) h1

theorem MemOk.opStartDelay {now : Nat} {s : State} (hs : MemOk s) : MemOk (opStartDelay now s) := by
  unfold Machine.opStartDelay
  extract_lets -merge +onlyGivenNames s1
  have h1 : MemOk s1 := .at_ hs
  exact .ite h1 (.upd h1)

theorem MemOk.setBoth {s : State} (hs : MemOk s) {e : Nat × Word} : MemOk (s.setBoth e) := by
  unfold State.setBoth
  exact .putStagedKey (.putActiveKey hs)

theorem MemOk.planClock {s : State} (hs : MemOk s) {d : Nat} : MemOk (s.planClock d) := by
  unfold State.planClock
  exact .ite (.startRamp (.ite (.putF hs) hs)) (.putF (.putF (.putF (.ite (.putF hs) hs))))

theorem MemOk.applyConfig {s : State} (hs : MemOk s) {h : List Byte} : MemOk (s.applyConfig h) := by
  unfold State.applyConfig
  exact .showDiff (.putStagedF (.putF (.putF (.putF (.putF (.putF (.putF (.putF (.foldl (fun _ _ h1 => .planClock h1) (.foldl (fun _
    _ h1 => .setBoth h1) hs))))))))))

theorem MemOk.restoreStream {s : State} (hs : MemOk s) {i : Nat} : MemOk (s.restoreStream i) := by
  unfold State.restoreStream
  exact .ite hs (.reserve (.setStream hs))

theorem MemOk.restore {s : State} (hs : MemOk s) {k : KeepRec} : MemOk (s.restore k) := by
  unfold State.restore
  extract_lets -merge +onlyGivenNames _ s1 _ s2 _ s3 s4 s5 s6 s7 s8 s9 s10 s11 s12 s13 s14
  have h2 : MemOk s2 := .foldl (fun _ _ h1 => .putStagedKey (.putActiveKey h1)) hs
  have h3 : MemOk s3 := .upd h2
  have h4 : MemOk s4 := .putF h3
  have h5 : MemOk s5 := .foldl (fun _ _ h1 => .putF (.putF (.putF h1))) h4
  have h6 : MemOk s6 := .putF h5
  have h7 : MemOk s7 := .foldl (fun _ _ h1 => .putF (.modCell h1)) h6
  have h8 : MemOk s8 := .loadAvail h7
  have h9 : MemOk s9 := .foldl (fun _ _ h1 => .setChan h1) h8
  have h10 : MemOk s10 := .foldl (fun _ _ h1 => .putF h1) h9
  have h11 : MemOk s11 := .foldl (fun _ _ h1 => .putF (.putF h1)) h10
  have h12 : MemOk s12 := .foldl (fun _ _ h1 => .modProg h1) h11
  have h13 : MemOk s13 := .foldl (fun _ _ h1 => .restoreStream h1) h12
  have h14 : MemOk s14 := .foldl (fun _ _ h1 => .startRamp h1) h13
  exact .showDiff h14

theorem MemOk.steadingUp {s : State} (hs : MemOk s) : MemOk s.steadingUp := by
  unfold State.steadingUp
  exact .foldl (fun _ _ h1 => .steadingTakes h1) (.putF (.upd hs))

theorem MemOk.goRecovery {s : State} (hs : MemOk s) {code : Nat} : MemOk (s.goRecovery code) := by
  unfold State.goRecovery
  extract_lets -merge +onlyGivenNames s1 _ s2 s3 s4 s5 s6 _ s7
  have h1 : MemOk s1 := .stopStages (.closePlanes hs)
  have h2 : MemOk s2 := .upd h1
  have h3 : MemOk s3 := .foldl (fun _ _ h1 => .putF h1) h2
  have h4 : MemOk s4 := .foldl (fun _ _ h1 => .putF (.putF (.putF h1))) h3
  have h5 : MemOk s5 := .putF (.putF (.putF h4))
  have h6 : MemOk s6 := .putF h5
  have h7 : MemOk s7 := .steadingUp (.upd h6)
  exact .ite (.raise h7) (.raise h7)

theorem MemOk.configure {s : State} (hs : MemOk s) {now : Nat} : MemOk (s.configure now) := by
  unfold State.configure
  refine .ite hs ?_
  extract_lets -merge +onlyGivenNames _ s1 _ _ s2 s3
  have h1 : MemOk s1 := .applyConfig hs
  have h2 : MemOk s2 := .upd h1
  have h3 : MemOk s3 := by
    unfold s3
    split
    · exact .restore h2
    · exact h2
  exact .ite h3 (.goRecovery h3)

theorem MemOk.opCrystal {n now : Nat} {s : State} (hs : MemOk s) : MemOk (opCrystal n now s) := by
  unfold Machine.opCrystal
  extract_lets -merge +onlyGivenNames s1
  have h1 : MemOk s1 := .at_ hs
  refine .ite ?_ ?_
  · exact h1
  · extract_lets -merge +onlyGivenNames _ s2 _ s3 _ _
    have h2 : MemOk s2 := .putF (.bump h1)
    have h3 : MemOk s3 := .upd h2
    split
    · exact h3
    · exact .configure (.putF (.putF (.putF (.putF h3))))

theorem MemOk.opCrystalFail {s : State} (hs : MemOk s) : MemOk (opCrystalFail s) := by
  unfold Machine.opCrystalFail
  exact .ite hs (.ite (.goRecovery (.putF (.putF hs))) (.putF (.putF hs)))

theorem MemOk.opWdtRestart {now : Nat} {s : State} (hs : MemOk s) : MemOk (opWdtRestart now s) := by
  unfold Machine.opWdtRestart
  extract_lets -merge +onlyGivenNames s1
  have h1 : MemOk s1 := .at_ hs
  exact .ite h1 (.upd h1)

theorem MemOk.opWdtExpiry {now : Nat} {s : State} (hs : MemOk s) : MemOk (opWdtExpiry now s) := by
  unfold Machine.opWdtExpiry
  extract_lets -merge +onlyGivenNames s1
  have h1 : MemOk s1 := .at_ hs
  refine .ite ?_ ?_
  · exact h1
  · extract_lets -merge +onlyGivenNames s2 _
    have h2 : MemOk s2 := .bump h1
    refine .ite ?_ ?_
    · exact .coldReset h2
    · extract_lets -merge +onlyGivenNames s3
      have h3 : MemOk s3 := .restartSteading h2
      refine .ite ?_ ?_
      · extract_lets -merge +onlyGivenNames s4
        have h4 : MemOk s4 := .warmReset h3
        exact .upd h4
      · exact h3

theorem MemOk.opTrip {k : Nat} {t : ℤ} {now : Nat} {s : State} (hs : MemOk s) : MemOk (opTrip k t now s) := by
  unfold Machine.opTrip
  extract_lets -merge +onlyGivenNames s1
  have h1 : MemOk s1 := .at_ hs
  refine .ite ?_ ?_
  · exact h1
  · extract_lets -merge +onlyGivenNames s2 _ s3 s4 _ s5 s6 s7
    have h2 : MemOk s2 := .bump (.takeReadings h1)
    have h3 : MemOk s3 := .raise (.stopStages h2)
    have h4 : MemOk s4 := .foldl (fun _ _ h1 => .invalidate h1) h3
    have h5 : MemOk s5 := .ite h4 (.flushLog (.ite h4 (.closePlanes (.beginStop (.putF h4)))))
    have h6 : MemOk s6 := .ite (.giveUpKeep h5) h5
    have h7 : MemOk s7 := .coldReset h6
    exact .upd h7

theorem MemOk.opTripEnd {now : Nat} {s : State} (hs : MemOk s) : MemOk (opTripEnd now s) := by
  unfold Machine.opTripEnd
  extract_lets -merge +onlyGivenNames s1
  have h1 : MemOk s1 := .at_ hs
  split
  · exact .ite (.upd h1) h1
  · exact h1

theorem MemOk.enterReset {s : State} (hs : MemOk s) {c : Nat} : MemOk (s.enterReset c) := by
  unfold State.enterReset
  refine .ite ?_ ?_
  · exact hs
  · extract_lets -merge +onlyGivenNames _ s1 s2
    have h1 : MemOk s1 := (by
      dsimp only [s1]
      split
      · exact .foldl (fun _ _ h1 => .send h1) hs
      · exact hs)
    have h2 : MemOk s2 := .showIdle (.dropPass h1)
    exact .markStale (.modCell h2)

theorem MemOk.putInReset {s : State} (hs : MemOk s) {kind target : Nat} : MemOk (s.putInReset kind target) := by
  unfold State.putInReset
  exact .foldl (fun _ _ h1 => .enterReset h1) (.ite (.foldl (fun _ _ h1 => .invalidate h1) hs) hs)

theorem MemOk.setResetHold {s : State} (hs : MemOk s) {r : ResetHold} : MemOk (s.setResetHold r) := by
  unfold State.setResetHold
  exact .showResets (.upd hs)

theorem MemOk.opResetGo {kind now : Nat} {s : State} (hs : MemOk s) : MemOk (opResetGo kind now s) := by
  unfold Machine.opResetGo
  exact .setResetHold (.putInReset (.at_ hs))

theorem MemOk.opResetHold {kind : Nat} {on : Bool} {now : Nat} {s : State} (hs : MemOk s) : MemOk (opResetHold kind on now s) := by
  unfold Machine.opResetHold
  exact .ite (.putF (.at_ hs)) (.ite (.setResetHold (.putInReset (.putF (.at_ hs)))) (.setResetHold (.putF (.at_ hs))))

theorem MemOk.opSteadingRestart {by_ : Requester} {now : Nat} {s : State} (hs : MemOk s) : MemOk (opSteadingRestart by_ now s) := by
  unfold Machine.opSteadingRestart
  exact .ite (.at_ hs) (.restartSteading (.putF (.at_ hs)))

theorem MemOk.opRampStep {d : Nat} {s : State} (hs : MemOk s) : MemOk (opRampStep d s) := by
  unfold Machine.opRampStep
  refine .ite ?_ ?_
  · exact hs
  · extract_lets -merge +onlyGivenNames _ s1 s2
    have h1 : MemOk s1 := .putF (.putF hs)
    have h2 : MemOk s2 := .ite (.putF h1) h1
    refine .ite ?_ ?_
    · extract_lets -merge +onlyGivenNames s3
      have h3 : MemOk s3 := .putF h2
      exact .upd h3
    · exact .upd h2

theorem MemOk.opClkMon {v : Word} {s : State} (hs : MemOk s) : MemOk (opClkMon v s) := by
  unfold Machine.opClkMon
  exact .putF (.putF hs)

theorem MemOk.opFmc {v : Word} {s : State} (hs : MemOk s) : MemOk (opFmc v s) := by
  unfold Machine.opFmc
  exact .ite (.putF (.putF (.putF hs))) (.ite (.putF (.putF (.putF (.putF (.putF hs))))) (.putF (.putF (.putF (.putF (.putF hs))))))

theorem MemOk.opFmcDone {n : Nat} {s : State} (hs : MemOk s) : MemOk (opFmcDone n s) := by
  unfold Machine.opFmcDone
  exact .ite (.putF (.putF (.putF hs))) hs

theorem MemOk.beginKeep {s : State} (hs : MemOk s) {now : Nat} : MemOk (s.beginKeep now) := by
  unfold State.beginKeep
  extract_lets -merge +onlyGivenNames s1 s2 _ _ s3 _ s4
  have h1 : MemOk s1 := .raise hs
  have h2 : MemOk s2 := .dropCommits (.putF h1)
  have h3 : MemOk s3 := .ite (.upd (MemOk.putF h2 (f := F.pwrStat_cap) (inst := 0) (v := 800))) h2
  have h4 : MemOk s4 := .upd h3
  exact .releasePlanes h4

theorem MemOk.powerFails {s : State} (hs : MemOk s) {now : Nat} : MemOk (s.powerFails now) := by
  unfold State.powerFails
  extract_lets -merge +onlyGivenNames s1 _ s2
  have h1 : MemOk s1 := .cutImage (.cutOtp hs)
  have h2 : MemOk s2 := .upd h1
  refine .ite ?_ ?_
  · exact h2
  · refine .ite ?_ ?_
    · extract_lets -merge +onlyGivenNames s3 s4
      have h3 : MemOk s3 := .foldl (fun _ _ h1 => .selfRefresh h1) (.raise h2)
      have h4 : MemOk s4 := .raise (.closePlanes h3)
      exact .upd h4
    · exact .ite (.beginKeep h2) (.ite (.beginStop (.raise h2)) h2)

theorem MemOk.opRailFault {mv now : Nat} {s : State} (hs : MemOk s) : MemOk (opRailFault mv now s) := by
  unfold Machine.opRailFault
  exact .ite (.at_ hs) (.powerFails (.raise (.at_ hs)))

theorem MemOk.laterBoot {s : State} (hs : MemOk s) {now : Nat} : MemOk (s.laterBoot now) := by
  unfold State.laterBoot
  exact .ite (.steadingUp hs) (.ite (.goRecovery hs) (.configure (.steadingUp hs)))

theorem MemOk.checkIdentity {s : State} (hs : MemOk s) : MemOk s.checkIdentity := by
  unfold State.checkIdentity
  exact .putF hs

theorem MemOk.activateGen {s : State} (hs : MemOk s) {g : Nat} : MemOk (s.activateGen g) := by
  unfold State.activateGen
  exact .putF (.upd hs)

theorem MemOk.dropKeep {s : State} (hs : MemOk s) : MemOk s.dropKeep := by
  unfold State.dropKeep
  exact .raise (.putF (.putF (.putF (.upd (hs.putDevMem Memory.wf_nil)))))

theorem MemOk.chooseStart {s : State} (hs : MemOk s) : MemOk s.chooseStart := by
  unfold State.chooseStart
  exact .ite (.putF hs) (.ite (.putF hs) (.putF (.dropKeep hs)))

theorem MemOk.firstBoot {s : State} (hs : MemOk s) {now : Nat} : MemOk (s.firstBoot now) := by
  rw [show @State.firstBoot = _ from by delta State.firstBoot; exact rfl]
  -- the checks of the image stand for any functions, so that no step of the check evaluates them
  generalize headerOk = ok
  generalize State.verifyImage = verify
  revert ok verify
  refine id ?_
  intro ok verify
  extract_lets -merge +onlyGivenNames h _ s1 gen code s2 s3
  have h1 : MemOk s1 := .upd hs
  have h2 : MemOk s2 := .checkIdentity (.countStart h1)
  have hgen : ∀ {o : Option Nat} {c : Nat}, MemOk (match o with
      | some g => if c = 0 ∨ 5 ≤ c then s2.activateGen g else s2
      | none => s2) := by
    intro o c
    split
    · exact .ite (.activateGen h2) h2
    · exact h2
  have h3 : MemOk s3 := hgen (o := gen) (c := code)
  refine .ite (.goRecovery h3) ?_
  have hup : MemOk s3.steadingUp := .steadingUp h3
  extract_lets -merge +onlyGivenNames src _ s4 s5 s6
  have hsrc : MemOk src := hup
  have h4 : MemOk s4 := .upd hsrc
  have h5 : MemOk s5 := .putF (.chooseStart h4)
  have h6 : MemOk s6 := .ite (.raise h5) h5
  exact .ite (.goRecovery h6) (.configure h6)

theorem MemOk.opSteadingBoot {answers : Bool} {now : Nat} {s : State} (hs : MemOk s) : MemOk (opSteadingBoot answers now s) := by
  unfold Machine.opSteadingBoot
  exact .ite (.at_ hs) (.ite (.goRecovery (.at_ hs)) (.ite (.laterBoot (.at_ hs)) (.firstBoot (.at_ hs))))

theorem MemOk.noteFrame {s : State} (hs : MemOk s) {f : Frame} : MemOk (s.noteFrame f) := by
  unfold State.noteFrame
  exact .upd hs

theorem MemOk.opFrame {t : Target} {f : Frame} {s : State} (hs : MemOk s) : MemOk (opFrame t f s) := by
  unfold Machine.opFrame
  extract_lets -merge +onlyGivenNames _
  refine .ite ?_ ?_
  · exact hs
  · refine .ite ?_ ?_
    · exact .noteFrame hs
    · extract_lets -merge +onlyGivenNames _ s1
      have h1 : MemOk s1 := .noteFrame hs
      exact .upd h1

theorem MemOk.opSegments {t : Target} {missing : List Nat} {s : State} (hs : MemOk s) : MemOk (opSegments t missing s) := by
  unfold Machine.opSegments
  extract_lets -merge +onlyGivenNames _ _
  refine .ite ?_ ?_
  · exact hs
  · refine .ite ?_ ?_
    · exact .foldl (fun _ _ h1 => .send h1) (.upd hs)
    · split
      · exact .moveStage (.retireCell hs)
      · exact .retireNow (.nextFree hs)

theorem MemOk.routerTests {s : State} (hs : MemOk s) {ts : List ChanTest} : MemOk (s.routerTests ts) := by
  unfold State.routerTests
  exact .foldl (fun _ _ h1 => .moveStage (.retireCell h1)) hs

theorem MemOk.keepResumed {s : State} (hs : MemOk s) : MemOk s.keepResumed := by
  unfold State.keepResumed
  exact .raise (.putF (.putF (.putF (.upd hs))))

theorem MemOk.decay {s : State} (hs : MemOk s) {c : Nat} {ws : List (Nat × Nat)} : MemOk (s.decay c ws) := by
  unfold State.decay
  exact .foldl (fun _ _ h1 => .upd h1) hs

theorem MemOk.trainedNow {s : State} (hs : MemOk s) {c : Nat} {wires : List Nat} {now : Nat} : MemOk (s.trainedNow c wires now) := by
  unfold State.trainedNow
  exact .showRefresh (.putF (.putF (.modChan (.wiresNow (.foldl (fun _ _ h1 => .failWire h1) (.putF (.modChan (.putF (.putF
    (.nextFree hs))))))))))

theorem MemOk.loseWord {s : State} (hs : MemOk s) {c w : Nat} : MemOk (s.loseWord c w) := by
  unfold State.loseWord
  exact .ite (.setChan hs) (.ite hs (.raise (.setChan hs)))

theorem MemOk.resumeChannel {s : State} (hs : MemOk s) {now : Nat} {t : ChanTest} : MemOk (s.resumeChannel now t) := by
  unfold State.resumeChannel
  extract_lets -merge +onlyGivenNames c
  refine .ite hs (.ite (.retireNow hs) ?_)
  extract_lets -merge +onlyGivenNames s1 _ s2
  have h1 : MemOk s1 := .decay (.bump (.trainedNow hs))
  have h2 : MemOk s2 := .foldl (fun _ _ h1 => .upd (MemOk.corrected h1 (b := .chan c))) h1
  exact .foldl (fun _ _ h1 => .loseWord h1) h2

theorem MemOk.repairRow {s : State} (hs : MemOk s) {c : Nat} {r : Nat × Nat} : MemOk (s.repairRow c r) := by
  unfold State.repairRow
  refine .ite ?_ ?_
  · exact hs
  · extract_lets -merge +onlyGivenNames _ _
    split
    · exact .bump (.setChan hs)
    · exact .retireNow (.nextFree hs)

theorem MemOk.testChannel {s : State} (hs : MemOk s) {full : Bool} {now : Nat} {t : ChanTest} : MemOk (s.testChannel full now t) := by
  unfold State.testChannel
  exact .ite hs (.foldl (fun _ _ h1 => .repairRow h1) (.trainedNow (.putF (.modChan hs))))

theorem MemOk.writeRecord {s : State} (hs : MemOk s) {now : Nat} : MemOk (s.writeRecord now) := by
  unfold State.writeRecord
  split
  rename_i area seq _
  extract_lets -merge +onlyGivenNames s1
  have h1 : MemOk s1 := .ite (.nextFree hs) hs
  have h2 : MemOk { s1 with flash := fwrite (ferase s1.flash (recArea area) 0x400000) (recArea area) (s1.recordBytes seq) } :=
    h1.putFlash (Memory.wf_fwrite _ _ (Memory.wf_ferase _ _ h1.flash_wf))
  exact .upd h2

theorem MemOk.opMemoryTest {ts : List ChanTest} {now : Nat} {s : State} (hs : MemOk s) : MemOk (opMemoryTest ts now s) := by
  unfold Machine.opMemoryTest
  extract_lets -merge +onlyGivenNames s1
  have h1 : MemOk s1 := .at_ hs
  refine .ite h1 ?_
  extract_lets -merge +onlyGivenNames kind s2 whole s3 s4 s5 _ s6
  have h2 : MemOk s2 := .routerTests h1
  have h3 : MemOk s3 := .upd (h2.putDevMem Memory.wf_nil)
  have h4 : MemOk s4 := .foldl (fun _ _ h1 => .testChannel h1) h3
  have h5 : MemOk s5 := .ite (.keepResumed (.foldl (fun _ _ h1 => .resumeChannel h1) h2)) (.ite (.writeRecord h4) h4)
  have h6 : MemOk s6 := .upd h5
  exact .becomeReady (.putF h6)

theorem MemOk.opHeating {k : Nat} {t : ℤ} {s : State} (hs : MemOk s) : MemOk (opHeating k t s) := by
  unfold Machine.opHeating
  exact .ite hs (.raise (.putF (.putF hs)))

theorem MemOk.returnCell {s : State} (hs : MemOk s) {c : Nat} : MemOk (s.returnCell c) := by
  unfold State.returnCell
  exact .ite (.putF (.setUsable (.setCell hs))) hs

theorem MemOk.opSelfTest {fails : List Nat} {now : Nat} {s : State} (hs : MemOk s) : MemOk (opSelfTest fails now s) := by
  unfold Machine.opSelfTest
  extract_lets -merge +onlyGivenNames s1
  have h1 : MemOk s1 := .at_ hs
  refine .ite ?_ ?_
  · exact h1
  · extract_lets -merge +onlyGivenNames _ s2 _ s3
    have h2 : MemOk s2 := .foldl (fun _ _ h1 => .ite (.moveStage (.retireCell h1)) (.returnCell h1)) h1
    have h3 : MemOk s3 := .upd h2
    exact .becomeReady h3

theorem MemOk.rcvEnds {s : State} (hs : MemOk s) {state fail : Nat} : MemOk (s.rcvEnds state fail) := by
  unfold State.rcvEnds
  exact .putF (.putF (.putF hs))

theorem MemOk.opRcvVerify {s : State} (hs : MemOk s) : MemOk (opRcvVerify s) := by
  unfold Machine.opRcvVerify
  exact .ite hs (.rcvEnds hs)

theorem MemOk.opRcvProgram {s : State} (hs : MemOk s) : MemOk (opRcvProgram s) := by
  unfold Machine.opRcvProgram
  exact .ite hs (.ite (.rcvEnds hs) (.ite (.rcvEnds hs) (.putF (.putF (.putF (.putF (.upd hs)))))))

theorem MemOk.coldResetFree {s : State} (hs : MemOk s) : MemOk s.coldResetFree := by
  unfold State.coldResetFree
  exact .coldReset (.nextFree hs)

theorem MemOk.opRcvCold {s : State} (hs : MemOk s) : MemOk (opRcvCold s) := by
  unfold Machine.opRcvCold
  exact .ite (.coldResetFree hs) hs

theorem MemOk.opFlashLogWrite {now : Nat} {s : State} (hs : MemOk s) : MemOk (opFlashLogWrite now s) := by
  unfold Machine.opFlashLogWrite
  exact .ite (.at_ hs) (.logNext (.at_ hs))

theorem MemOk.otpCapture {b sig : List Byte} {s : State} (hs : MemOk s) : MemOk (otpCapture b sig s) := by
  unfold Machine.otpCapture
  exact .ite (.putF (.putF (.putF (.upd hs)))) (.putF (.putF (.putF hs)))

theorem MemOk.otpSlotShown {s : State} (hs : MemOk s) : MemOk s.otpSlotShown := by
  unfold State.otpSlotShown
  split
  · exact .putF hs
  · exact hs

theorem MemOk.opOtpProgram {s : State} (hs : MemOk s) : MemOk (opOtpProgram s) := by
  unfold Machine.opOtpProgram
  exact .ite (.putF hs) (.otpCapture (.otpSlotShown hs))

theorem MemOk.opAttest {s : State} (hs : MemOk s) : MemOk (opAttest s) := by
  unfold Machine.opAttest
  exact .ite hs (.ite (.putF (.upd hs)) (.putF (.putF (.upd hs))))

theorem MemOk.opAttReady {s : State} (hs : MemOk s) : MemOk (opAttReady s) := by
  unfold Machine.opAttReady
  exact .ite hs (.putF (.putF (.nextFree (.upd hs))))

theorem MemOk.opSentinel {rs : List Reading} {f : Option Forecast} {reach now : Nat} {s : State} (hs : MemOk s) : MemOk (opSentinel
    rs f reach now s) := by
  unfold Machine.opSentinel
  extract_lets -merge +onlyGivenNames s1 s2 s3
  have h1 : MemOk s1 := .takeReadings (.at_ hs)
  have h2 : MemOk s2 := .foldl (fun _ _ h1 => .upd h1) h1
  have h3 : MemOk s3 := .trackCool h2
  split
  · exact .ite h3 (.ite (.putF (.putF h3)) (.coolantLost (.putF (.putF h3))))
  · exact h3

theorem MemOk.opCoolantLoss {now : Nat} {s : State} (hs : MemOk s) : MemOk (opCoolantLoss now s) := by
  unfold Machine.opCoolantLoss
  extract_lets -merge +onlyGivenNames s1
  have h1 : MemOk s1 := .at_ hs
  split
  · exact .ite (.coolantLost h1) h1
  · exact h1

theorem MemOk.opCooldown {s : State} (hs : MemOk s) : MemOk (opCooldown s) := by
  unfold Machine.opCooldown
  split
  · exact .ite (.coldReset hs) hs
  · exact hs

theorem MemOk.opInletWrite {v now : Nat} {s : State} (hs : MemOk s) : MemOk (opInletWrite v now s) := by
  unfold Machine.opInletWrite
  extract_lets -merge +onlyGivenNames s1
  have h1 : MemOk s1 := .putF (.putF (.at_ hs))
  exact .upd h1

theorem MemOk.opInletStale {now : Nat} {s : State} (hs : MemOk s) : MemOk (opInletStale now s) := by
  unfold Machine.opInletStale
  extract_lets -merge +onlyGivenNames s1
  have h1 : MemOk s1 := .at_ hs
  split
  · exact .ite h1 (.raise (.upd h1))
  · exact h1

theorem MemOk.opFastThrottle {p : Nat} {s : State} (hs : MemOk s) : MemOk (opFastThrottle p s) := by
  unfold Machine.opFastThrottle
  exact .ite (.putF hs) hs

theorem MemOk.opThrottleStep {excess : Bool} {belowUs : Nat} {s : State} (hs : MemOk s) : MemOk (opThrottleStep excess belowUs s) := by
  unfold Machine.opThrottleStep
  exact .ite hs (.ite (.putF hs) (.ite (.putF hs) hs))

theorem MemOk.opRegionSkip {c ma : Nat} {s : State} (hs : MemOk s) : MemOk (opRegionSkip c ma s) := by
  unfold Machine.opRegionSkip
  exact .upd hs

theorem MemOk.opCapRaiseStep {s : State} (hs : MemOk s) : MemOk (opCapRaiseStep s) := by
  unfold Machine.opCapRaiseStep
  exact .ite hs (.upd hs)

theorem MemOk.opPwrfail {lowNs now : Nat} {s : State} (hs : MemOk s) : MemOk (opPwrfail lowNs now s) := by
  unfold Machine.opPwrfail
  exact .ite (.at_ hs) (.powerFails (.at_ hs))

theorem MemOk.opKeepStop {now : Nat} {s : State} (hs : MemOk s) : MemOk (opKeepStop now s) := by
  unfold Machine.opKeepStop
  extract_lets -merge +onlyGivenNames s1
  have h1 : MemOk s1 := .at_ hs
  split
  · exact .ite h1 (.ite (.keepComputeStop h1) (.ite h1 (.keepComputeStop (.foldl (fun _ _ h1 => .modProg h1) (.stopStages h1)))))
  · exact h1

theorem MemOk.opKeepEntered {now : Nat} {s : State} (hs : MemOk s) : MemOk (opKeepEntered now s) := by
  unfold Machine.opKeepEntered
  extract_lets -merge +onlyGivenNames s1
  have h1 : MemOk s1 := .at_ hs
  split
  · extract_lets -merge +onlyGivenNames s2
    have h2 : MemOk s2 := .ite (.closePlanes h1) h1
    refine .ite ?_ ?_
    · exact h2
    · extract_lets -merge +onlyGivenNames _ s3 _ s4
      have h3 : MemOk s3 := .foldl (fun _ _ h1 => .selfRefresh (.abandonFlails h1)) h2
      have h4 : MemOk s4 := .upd h3
      exact .raise (.putF (.putF h4))
  · exact h1

theorem MemOk.opKeepGivesUp {now : Nat} {s : State} (hs : MemOk s) : MemOk (opKeepGivesUp now s) := by
  unfold Machine.opKeepGivesUp
  extract_lets -merge +onlyGivenNames s1
  have h1 : MemOk s1 := .at_ hs
  split
  · refine .ite ?_ ?_
    · exact h1
    · extract_lets -merge +onlyGivenNames s2 _ s3 s4
      have h2 : MemOk s2 := .foldl (fun _ _ h1 => .selfRefresh h1) h1
      have h3 : MemOk s3 := .putF (.upd h2)
      have h4 : MemOk s4 := .nextFree (.raise h3)
      exact .beginStop (.putF h4)
  · exact h1

theorem MemOk.abandonKeep {s : State} (hs : MemOk s) : MemOk s.abandonKeep := by
  unfold State.abandonKeep
  exact .ite (.putF (.putF (.giveUpKeep hs))) (.coldReset (.giveUpKeep hs))

theorem MemOk.opKeepCheck {rs : List Reading} {low : List Rail} {bad : Bool} {now : Nat} {s : State} (hs : MemOk s) : MemOk
    (opKeepCheck rs low bad now s) := by
  unfold Machine.opKeepCheck
  extract_lets -merge +onlyGivenNames s1
  have h1 : MemOk s1 := .at_ hs
  refine .ite ?_ ?_
  · exact h1
  · extract_lets -merge +onlyGivenNames s2 _ s3
    have h2 : MemOk s2 := .takeReadings h1
    have h3 : MemOk s3 := .upd h2
    exact .ite (.loseStandby h3) (.ite (.abandonKeep h3) h3)

theorem MemOk.opKeepAbandon {by_ : Requester} {s : State} (hs : MemOk s) : MemOk (opKeepAbandon by_ s) := by
  unfold Machine.opKeepAbandon
  exact .ite (.abandonKeep hs) hs

theorem MemOk.opKeepEnd {now : Nat} {s : State} (hs : MemOk s) : MemOk (opKeepEnd now s) := by
  unfold Machine.opKeepEnd
  extract_lets -merge +onlyGivenNames s1
  have h1 : MemOk s1 := .at_ hs
  refine .ite ?_ ?_
  · exact h1
  · extract_lets -merge +onlyGivenNames s2 _ _ s3
    have h2 : MemOk s2 := .putF h1
    have h3 : MemOk s3 := .upd h2
    exact .coldReset h3

theorem MemOk.i3cCause {s : State} (hs : MemOk s) {n : Nat} : MemOk (s.i3cCause n) := by
  unfold State.i3cCause
  exact .upd hs

theorem MemOk.opResetWrite {kind now : Nat} {m v : Word} {s : State} (hs : MemOk s) : MemOk (opResetWrite kind now m v s) := by
  unfold Machine.opResetWrite
  extract_lets -merge +onlyGivenNames _ s1 s2
  have h1 : MemOk s1 := .ite (.showResets (.putF hs)) hs
  have h2 : MemOk s2 := .ite (.opResetHold h1) h1
  exact .ite (.opResetGo h2) h2

theorem MemOk.opRcvWrite {v : Word} {s : State} (hs : MemOk s) : MemOk (opRcvWrite v s) := by
  unfold Machine.opRcvWrite
  exact .ite (.opRcvVerify hs) (.ite (.opRcvProgram hs) (.ite (.opRcvCold hs) hs))

/-- The act of a register that `actSystem` names keeps the memories canonical. -/
theorem actSystem_keeps {by_ : Requester} {r : Reg} {now : Nat} {m v : Word} {f : State → State} (hf : actSystem by_ r now m v =
    some f) : KeepsMem f := by
  revert f
  unfold actSystem
  refine .act (fun _ hs => .ite (.opCommitRequest hs) hs) (.act (fun _ hs => .ite (.opRevert hs) hs)
    (.act (fun _ hs => .ite (.opSteadingRestart hs) hs) (.act (fun _ hs => .opResetWrite hs) (.act (fun _ hs => .opResetWrite hs)
    (.act (fun _ hs => .opResetWrite hs) (.act (fun _ hs => .ite (.opClkMon hs) hs) (.act (fun _ hs => .ite (.opFmc hs) hs)
    (.act (fun _ hs => .ite (.opRcvWrite hs) hs) (.act (fun _ hs => .ite (.opOtpProgram hs) hs) (.act (fun _ hs => .ite (.opAttest
      hs) hs)
    (.act (fun _ hs => .ite (.opInletWrite hs) hs) (.act (fun _ hs => .ite (.opKeepAbandon hs) hs) (.act (fun _ hs => .ite (.putF
      hs) hs) ?_)))))))))))))
  exact fun h => nomatch h

theorem MemOk.opMarginWrite {c : Nat} {m v : Word} {s : State} (hs : MemOk s) : MemOk (opMarginWrite c m v s) := by
  unfold Machine.opMarginWrite
  exact .ite (.opMargin hs) (.ite (.putF (.putF hs)) hs)

theorem MemOk.opPortGo {c : Nat} {s : State} (hs : MemOk s) : MemOk (opPortGo c s) := by
  unfold Machine.opPortGo
  exact .ite hs (.ite (.putF hs) (.putF (.putF hs)))

theorem MemOk.opQbase {f : Fld} {q : Nat} {value : Word} {s : State} (hs : MemOk s) : MemOk (opQbase f q value s) := by
  unfold Machine.opQbase
  exact .ite hs (.putF hs)

theorem MemOk.opChuteCtl {ch : Nat} {m v : Word} {s : State} (hs : MemOk s) : MemOk (opChuteCtl ch m v s) := by
  unfold Machine.opChuteCtl
  exact .ite (.opChuteGo (.ite (.opChuteAbort hs) hs)) (.ite (.opChuteAbort hs) hs)

theorem MemOk.plainWrite {s : State} (hs : MemOk s) {r : Reg} {i : Nat} {m v : Word} : MemOk (s.plainWrite r i m v) := by
  unfold State.plainWrite
  exact .setReg hs

theorem MemOk.opChuteHead {ch : Nat} {m v : Word} {s : State} (hs : MemOk s) : MemOk (opChuteHead ch m v s) := by
  unfold Machine.opChuteHead
  exact .setChute (.plainWrite hs)

theorem MemOk.opChuteCfg {ch : Nat} {m v : Word} {s : State} (hs : MemOk s) : MemOk (opChuteCfg ch m v s) := by
  unfold Machine.opChuteCfg
  exact .ite hs (.putF (.ite hs (.putF hs)))

/-- The act of a register that `actUnit` names keeps the memories canonical. -/
theorem actUnit_keeps {r : Reg} {i : Nat} {m v : Word} {f : State → State} (hf : actUnit r i m v = some f) : KeepsMem f := by
  revert f
  unfold actUnit
  refine .act (fun _ hs => .ite (.opChannelRetrain (.ite (.opChannelReset hs) hs)) (.ite (.opChannelReset hs) hs))
    (.act (fun _ hs => .opMarginWrite hs) (.act (fun _ hs => .ite (.opPortGo hs) hs)
    (.act (fun _ hs => .ite (.opLinkRetrain (.ite (.opLinkReset hs) hs)) (.ite (.opLinkReset hs) hs))
    (.act (fun _ hs => .ite (.opD2dTest (.opD2dReset hs)) hs) (.act (fun _ hs => .ite (.opQown hs) hs) (.act (fun _ hs => .ite
      (.opQcfg hs) hs)
    (.act (fun _ hs => .opQbase hs) (.act (fun _ hs => .opQbase hs) (.act (fun _ hs => .ite (.opEvqCfg hs) hs)
    (.act (fun _ hs => .opChuteCtl hs) (.act (fun _ hs => .opChuteHead hs) (.act (fun _ hs => .opChuteCfg hs) ?_))))))))))))
  exact fun h => nomatch h

theorem MemOk.opRegWrite {by_ : Requester} {r : Reg} {i o : Nat} {n now : Nat} {value : Word} {s : State} (hs : MemOk s) : MemOk
    (opRegWrite by_ r i o n now value s) := by
  unfold Machine.opRegWrite
  extract_lets -merge +onlyGivenNames m v
  refine .ite (.opStagedWrite hs) (.ite hs ?_)
  split
  · exact actSystem_keeps ‹_› _ hs
  · split
    · exact actUnit_keeps ‹_› _ hs
    · exact .plainWrite hs

theorem MemOk.opBar0Write {by_ : Requester} {o n now : Nat} {value : Word} {s : State} (hs : MemOk s) : MemOk (opBar0Write by_ o n
    now value s) := by
  unfold Machine.opBar0Write
  refine .ite hs (.ite (.ite (hs.putRcvBuf (Memory.wf_mblock _ _ hs.rcvBuf_wf)) hs) (.ite hs ?_))
  split
  · exact .opRegWrite hs
  · exact hs

theorem MemOk.opI3cWrite {bytes : List Byte} {now : Nat} {s : State} (hs : MemOk s) : MemOk (opI3cWrite bytes now s) := by
  unfold Machine.opI3cWrite
  extract_lets -merge +onlyGivenNames s1
  have h1 : MemOk s1 := .at_ hs
  refine .ite ?_ ?_
  · exact h1
  · split
    · exact .i3cCause h1
    · exact .ite (.i3cCause h1) (.ite (.i3cCause h1) (.opBar0Write h1))

theorem MemOk.opI3cPointer {bytes : List Byte} {s : State} (hs : MemOk s) : MemOk (opI3cPointer bytes s) := by
  unfold Machine.opI3cPointer
  refine .ite ?_ ?_
  · exact hs
  · split
    · exact .i3cCause hs
    · exact .ite (.i3cCause hs) (.upd hs)

theorem MemOk.opI3cWords {bytes : List Byte} {s : State} (hs : MemOk s) : MemOk (opI3cWords bytes s) := by
  unfold Machine.opI3cWords
  refine .ite hs ?_
  split
  · exact .i3cCause hs
  · exact .ite (.i3cCause hs) (.ite (.i3cCause hs) (hs.putRcvBuf (Memory.wf_mblock _ _ hs.rcvBuf_wf)))

theorem MemOk.clearRc {s : State} (hs : MemOk s) {r : Reg} {i : Nat} {m : Word} : MemOk (s.clearRc r i m) := by
  unfold State.clearRc
  exact .setReg hs

theorem MemOk.opBar0Read {by_ : Requester} {o n : Nat} {s : State} (hs : MemOk s) : MemOk (opBar0Read by_ o n s) := by
  unfold Machine.opBar0Read
  refine .ite ?_ ?_
  · exact .send hs
  · extract_lets -merge +onlyGivenNames _ _ s1
    have h1 : MemOk s1 := .nextFree (.send hs)
    refine .ite ?_ ?_
    · split
      · exact .ite (.clearRc h1) h1
      · exact h1
    · exact h1

theorem MemOk.opI3cReadOne {s : State} (hs : MemOk s) : MemOk (opI3cReadOne s) := by
  unfold Machine.opI3cReadOne
  extract_lets -merge +onlyGivenNames _ s1
  have h1 : MemOk s1 := .opBar0Read hs
  exact .upd h1

theorem MemOk.opI3cRead {n now : Nat} {s : State} (hs : MemOk s) : MemOk (opI3cRead n now s) := by
  unfold Machine.opI3cRead
  exact .ite (.iterate _ (fun _ h => .opI3cReadOne h) (.at_ hs)) (.at_ hs)

theorem MemOk.opSetdasa {static dynamic : Nat} {s : State} (hs : MemOk s) : MemOk (opSetdasa static dynamic s) := by
  unfold Machine.opSetdasa
  exact .ite (.upd hs) hs

theorem MemOk.opEntdaa {dynamic : Nat} {s : State} (hs : MemOk s) : MemOk (opEntdaa dynamic s) := by
  unfold Machine.opEntdaa
  exact .ite hs (.nextFree (.send (.upd hs)))

theorem MemOk.opGetstatus {s : State} (hs : MemOk s) : MemOk (opGetstatus s) := by
  unfold Machine.opGetstatus
  exact .ite hs (.nextFree (.i3cCause (.send hs)))

theorem MemOk.opIbiTimeout {waitedNs : Nat} {s : State} (hs : MemOk s) : MemOk (opIbiTimeout waitedNs s) := by
  unfold Machine.opIbiTimeout
  exact .ite hs (.upd hs)

theorem MemOk.opBar2Read {p o n : Nat} {s : State} (hs : MemOk s) : MemOk (opBar2Read p o n s) := by
  unfold Machine.opBar2Read
  refine .ite ?_ ?_
  · exact .send hs
  · extract_lets -merge +onlyGivenNames _ _ s1
    have h1 : MemOk s1 := .nextFree (.send hs)
    split
    · exact .ite (.clearRc h1) h1
    · exact h1

theorem MemOk.opRead {by_ : Requester} {a : RegAddr} {n now : Nat} {s : State} (hs : MemOk s) : MemOk (opRead by_ a n now s) := by
  unfold Machine.opRead
  extract_lets -merge +onlyGivenNames s1
  have h1 : MemOk s1 := .at_ hs
  split
  · exact .opBar0Read h1
  · exact .ite (.opBar2Read h1) h1

theorem MemOk.opMsixWrite {p o n : Nat} {value : Word} {s : State} (hs : MemOk s) : MemOk (opMsixWrite p o n value s) := by
  unfold Machine.opMsixWrite
  exact .ite (.send (.upd hs)) (.upd hs)

theorem MemOk.opBar2Write {p : BitVec 6} {o n : Nat} {value : Word} {s : State} (hs : MemOk s) : MemOk (opBar2Write p o n value s) := by
  unfold Machine.opBar2Write
  extract_lets -merge +onlyGivenNames m v
  refine .ite hs (.ite (.ite hs (.ite (.opSqDoorbell hs) (.opCqDoorbell hs))) (.ite (.ite (.opEvqDoorbell hs) hs) (.ite
    (.opMsixWrite hs) ?_)))
  split
  · refine .ite hs ?_
    split
    · exact actUnit_keeps ‹_› _ hs
    · exact .plainWrite hs
  · exact hs

theorem MemOk.opWrite {by_ : Requester} {a : RegAddr} {n : Nat} {value : Word} {now : Nat} {s : State} (hs : MemOk s) : MemOk
    (opWrite by_ a n value now s) := by
  unfold Machine.opWrite
  extract_lets -merge +onlyGivenNames s1
  have h1 : MemOk s1 := .at_ hs
  split
  · exact .opBar0Write h1
  · exact .ite (.opBar2Write h1) h1

theorem MemOk.opSheafDigest {part i : Nat} {d : List Byte} {s : State} (hs : MemOk s) : MemOk (opSheafDigest part i d s) := by
  unfold Machine.opSheafDigest
  exact .setSheaf hs

theorem MemOk.opPwrfailRelease {okNs : Nat} {s : State} (hs : MemOk s) : MemOk (opPwrfailRelease okNs s) := by
  unfold Machine.opPwrfailRelease
  exact .ite (.coldResetFree (.upd hs)) (.upd hs)

theorem MemOk.opReleaseTimeout {now : Nat} {s : State} (hs : MemOk s) : MemOk (opReleaseTimeout now s) := by
  unfold Machine.opReleaseTimeout
  exact .ite (.closePlanes (.at_ hs)) (.at_ hs)

theorem MemOk.opOtpDone {ok : Bool} {s : State} (hs : MemOk s) : MemOk (opOtpDone ok s) := by
  unfold Machine.opOtpDone
  split
  · exact hs
  · exact .ite (.putF (.putF (.putF (.burnJob hs)))) (.nextFree (.putF (.putF (.putF (.burnJob hs)))))

theorem MemOk.opImageDone {s : State} (hs : MemOk s) : MemOk (opImageDone s) := by
  unfold Machine.opImageDone
  split
  · exact hs
  · exact .putF (.rcvEnds (.upd (hs.putFlash (Memory.wf_fwrite _ _ (Memory.wf_ferase _ _ hs.flash_wf)))))


/-! ### The commands -/

theorem MemOk.of_run {f : State → State} {s t : State} (hs : MemOk s) (h : run f s = .next t) (hf : KeepsMem f) : MemOk t := by
  rw [run_eq, Host.Outcome.next.injEq] at h
  subst h
  exact .upd (hf _ (.begin hs))

theorem MemOk.of_runIf {ok : Bool} {f : State → State} {s t : State} (hs : MemOk s) (h : runIf ok f s = .next t) (hf : KeepsMem f) :
    MemOk t := by
  obtain ⟨-, rfl⟩ := runIf_next h
  exact .upd (hf _ (.begin hs))

/-- Every command keeps the memories canonical: each changes the state by the operation that it names. -/
theorem exec_memOk {s t : State} (hs : MemOk s) : ∀ {c : Instr}, exec c s = .next t → MemOk t
  | .loadProgram _ _, h => .of_run hs (show execLoadProgram _ _ s = .next t from h) (fun _ h1 => .ite (.opLoad (.take h1)) h1)
  | .unloadProgram _ _, h => .of_run hs h (fun _ h1 => .onTake (fun _ _ h2 => .opUnload h2) h1)
  | .openStream _ _, h => .of_run hs h (fun _ h1 => .onTake (fun _ _ h2 => .opOpen h2) h1)
  | .feedTokens _ _, h => .of_run hs h (fun _ h1 => .onTake (fun _ _ h2 => .opFeed h2) h1)
  | .setStreamParameters _ _, h => .of_run hs h (fun _ h1 => .onTake (fun _ _ h2 => .opSet h2) h1)
  | .closeStream _ _, h => .of_run hs h (fun _ h1 => .onTake (fun _ _ h2 => .opClose h2) h1)
  | .invalidOpcode _ _, h => .of_run hs h (fun _ h1 => .onTake (fun _ _ h2 => .waitDone h2) h1)
  | .submissionTailDoorbell _ _ _, h => .of_run hs (show execSubmissionTailDoorbell _ _ _ s = .next t from h) (fun _ h1 => .ite
    (.opSqDoorbell h1) h1)
  | .completionHeadDoorbell _ _ _, h => .of_run hs (show execCompletionHeadDoorbell _ _ _ s = .next t from h) (fun _ h1 => .ite
    (.opCqDoorbell h1) h1)
  | .eventQueueHeadDoorbell _, h => .of_run hs (show execEventQueueHeadDoorbell _ s = .next t from h) (fun _ h1 => .ite
    (.opEvqDoorbell h1) h1)
  | .queuePairEnable _ _ _, h => .of_run hs (show execQueuePairEnable _ _ _ s = .next t from h) (fun _ h1 => .ite (.opQcfg h1) h1)
  | .queueOwnerWrite _ _, h => .of_run hs (show execQueueOwnerWrite _ _ s = .next t from h) (fun _ h1 => .ite (.opQown h1) h1)
  | .eventQueueEnable _, h => .of_run hs (show execEventQueueEnable _ s = .next t from h) (fun _ h1 => .ite (.opEvqCfg h1) h1)
  | .functionLevelReset _, h => .of_run hs (show execFunctionLevelReset _ s = .next t from h) (fun _ h1 => .ite h1 (.opFlr h1))
  | .bar4Read _ _ _, h => .of_run hs h (fun _ h1 => .opBar4Read h1)
  | .bar4Write _ _ _, h => .of_run hs h (fun _ h1 => .opBar4Write h1)
  | .hostMemoryError _ _, h => .of_run hs h (fun _ h1 => .opHostMemoryError h1)
  | .chuteGo _, h => .of_run hs (show execChuteGo _ s = .next t from h) (fun _ h1 => .ite (.opChuteGo h1) h1)
  | .chuteAbort _, h => .of_run hs (show execChuteAbort _ s = .next t from h) (fun _ h1 => .ite (.opChuteAbort h1) h1)
  | .chuteDescriptorDone _, h => .of_run hs h (fun _ h1 => .opDescriptorDone h1)
  | .chuteErrorClear, h => .of_run hs (show execChuteErrorClear s = .next t from h) (fun _ h1 => .ite (.putF h1) h1)
  | .tickEdge _, h => .of_run hs h (fun _ h1 => .opTickEdge h1)
  | .stageStart _ _, h => .of_run hs h (fun _ h1 => .opStageStart h1)
  | .stageFinish _ _, h => .of_run hs h (fun _ h1 => .opStageFinish h1)
  | .runDeadline _, h => .of_run hs h (fun _ h1 => .opRunDeadline h1)
  | .lateNotice _ _ _, h => .of_run hs (show execLateNotice _ _ _ s = .next t from h) (fun _ h1 => .onWord h1 (fun _ h2 => .ite
    (.lateFrom h2) h2))
  | .edgeAnnouncement _ _, h => .of_run hs (show execEdgeAnnouncement _ _ s = .next t from h) (fun _ h1 => .onWord h1 (fun _ h2 =>
    .settleIfClear (.heedEdge h2)))
  | .maintenanceWindow _ _, h => .of_runIf hs h (fun _ h1 => .opWindow h1)
  | .stretchLimit _, h => .of_run hs h (fun _ h1 => .opStretchLimit h1)
  | .cellSlow _, h => .of_run hs h (fun _ h1 => .opCellSlow h1)
  | .commitRequest _, h => .of_run hs (show execCommitRequest _ s = .next t from h) (fun _ h1 => .ite (.opCommitRequest h1) h1)
  | .steadingCommitRequest _, h => .of_run hs (show execSteadingCommitRequest _ s = .next t from h) (fun _ h1 => .ite
    (.opCommitRequest h1) h1)
  | .commitChecksDone _, h => .of_run hs h (fun _ h1 => .opChecksDone h1)
  | .stagedWrite _ _ _ _, h => .of_run hs h (fun _ h1 => .opStagedWrite h1)
  | .stagingRevert, h => .of_run hs (show execStagingRevert s = .next t from h) (fun _ h1 => .ite (.opRevert h1) h1)
  | .governorSilent, h => .of_run hs h (fun _ h1 => .opGovernorSilent h1)
  | .limitWordWrite _, h => .of_runIf hs h (fun _ h1 => .opLimitWordWrite h1)
  | .tickMarker _ _ _ _, h => .of_run hs h (fun _ h1 => .opTickMarker h1)
  | .acknowledgement _ _ _, h => .of_run hs h (fun _ h1 => .opAck h1)
  | .retryRequest _ _, h => .of_run hs h (fun _ h1 => .opRetry h1)
  | .credit _ _, h => .of_run hs h (fun _ h1 => .opCredit h1)
  | .take _ _ _, h => .of_run hs (show execTake _ _ _ s = .next t from h) (fun _ h1 => .onWord h1 (fun _ h2 => .sawTake (.addPart h2)))
  | .release _ _ _, h => .of_run hs (show execRelease _ _ _ s = .next t from h) (fun _ h1 => .onWord h1 (fun _ h2 => .opRelease h2))
  | .candidate _ _ _ _ _, h => .of_run hs h (fun _ h1 => .opCandidate h1)
  | .ringCommit _ _, h => .of_run hs (show execRingCommit _ _ s = .next t from h) (fun _ h1 => .onWord h1 (fun _ h2 => .opRingCommit
    h2))
  | .ringCommitDeadline, h => .of_run hs h (fun _ h1 => .opRingDeadline h1)
  | .dataEnvelope _ _ _ _, h => .of_run hs h (fun _ h1 => .opEnvelope h1)
  | .portDown _, h => .of_run hs (show execPortDown _ s = .next t from h) (fun _ h1 => .portFalls h1)
  | .markerLoss _ _, h => .of_run hs h (fun _ h1 => .opMarkerLoss h1)
  | .ringTake _ _ _, h => .of_run hs h (fun _ h1 => .opRingTake h1)
  | .bypassSwitched _, h => .of_run hs h (fun _ h1 => .opBypass h1)
  | .linkReset _ _, h => .of_run hs (show execLinkReset _ _ s = .next t from h) (fun _ h1 => .ite (.opLinkReset h1) h1)
  | .suddenLoss _ _ _, h => .of_run hs h (fun _ h1 => .opSuddenLoss h1)
  | .ringBroken _, h => .of_run hs h (fun _ h1 => .opRingBroken h1)
  | .serLimit _ _, h => .of_run hs h (fun _ h1 => .opSerLimit h1)
  | .linkRetrainRequest _, h => .of_run hs (show execLinkRetrainRequest _ s = .next t from h) (fun _ h1 => .ite (.opLinkRetrain h1) h1)
  | .portRetrainDone _ _ _, h => .of_run hs h (fun _ h1 => .opPortRetrainDone h1)
  | .ringSlowRaise _ _, h => .of_run hs h (fun _ h1 => .opSlowRaise h1)
  | .d2dFlit _ _ _ _ _, h => .of_run hs h (fun _ h1 => .opFlit h1)
  | .d2dResendLimit _ _ _, h => .of_run hs h (fun _ h1 => .opResendLimit h1)
  | .d2dLaneFailed _ _, h => .of_runIf hs h (fun _ h1 => .opLane h1)
  | .d2dReset _ _, h => .of_run hs (show execD2dReset _ _ s = .next t from h) (fun _ h1 => .ite (.opD2dReset h1) h1)
  | .d2dTest _ _ _, h => .of_run hs (show execD2dTest _ _ _ s = .next t from h) (fun _ h1 => .ite (.opD2dTest h1) h1)
  | .d2dCapabilityWord _ _ _, h => .of_run hs h (fun _ h1 => .opCapability h1)
  | .meshRow _ _, h => .of_run hs h (fun _ h1 => .opMeshRow h1)
  | .producerLost _ _, h => .of_run hs h (fun _ h1 => .opProducerLost h1)
  | .memoryAccess _ _ _ _ _ _, h => .of_runIf hs h (fun _ h1 => .opMemoryAccess h1)
  | .bankRefresh _ _ _, h => .of_runIf hs h (fun _ h1 => .opBankRefresh h1)
  | .bucketLeak, h => .of_run hs (show execBucketLeak s = .next t from h) (fun _ h1 => .foldl (fun _ _ h2 => .leak h2) h1)
  | .housekeepingRound _ _, h => .of_runIf hs h (fun _ h1 => .opHousekeeping h1)
  | .sensorReturn _, h => .of_runIf hs h (fun _ h1 => .opSensorReturn h1)
  | .scheduledRetrain _ _, h => .of_run hs h (fun _ h1 => .opScheduledRetrain h1)
  | .channelRetrainRequest _, h => .of_run hs (show execChannelRetrainRequest _ s = .next t from h) (fun _ h1 => .ite
    (.opChannelRetrain h1) h1)
  | .channelRetrainDone _ _ _, h => .of_runIf hs h (fun _ h1 => .opRetrainDone h1)
  | .channelHoldTimeout _ _, h => .of_run hs h (fun _ h1 => .opHoldTimeout h1)
  | .marginRequest _ _ _, h => .of_run hs (show execMarginRequest _ _ _ s = .next t from h) (fun _ h1 => .ite (.opMargin h1) h1)
  | .wireFailed _ _, h => .of_runIf hs h (fun _ h1 => .opWireFailed h1)
  | .channelReset _ _, h => .of_run hs (show execChannelReset _ _ s = .next t from h) (fun _ h1 => .ite (.opChannelReset h1) h1)
  | .loadq _ _ _ _, h => .of_runIf hs h (fun _ h1 => .ite (.flailCmd h1) (.portStart h1))
  | .score _ _ _ _, h => .of_runIf hs h (fun _ h1 => .ite (.flailCmd (.findErrs h1)) (.portStart (.findErrs h1)))
  | .topk _ _ _, h => .of_runIf hs h (fun _ h1 => .portStart (.findErrs h1))
  | .requant _ _ _, h => .of_runIf hs h (fun _ h1 => .portStart (.findErrs h1))
  | .scrub _ _ _ _, h => .of_runIf hs h (fun _ h1 => .ite (.flailCmd (.findErrs h1)) (.portStart (.findErrs h1)))
  | .frag _ _ _, h => .of_runIf hs h (fun _ h1 => .flailCmd h1)
  | .flailOpComplete _ _ _, h => .of_runIf hs h (fun _ h1 => .opFlailComplete h1)
  | .prefixFlush, h => .of_run hs (show execPrefixFlush s = .next t from h) (fun _ h1 => .ite (.putF h1) h1)
  | .quarantineEnd _, h => .of_run hs h (fun _ h1 => .opQuarantineEnd h1)
  | .powerOnDetection _ _ _, h => .of_run hs h (fun _ h1 => .opPowerOn h1)
  | .porstN _ _, h => .of_run hs h (fun _ h1 => .opPorst h1)
  | .porstNRelease _, h => .of_run hs h (fun _ h1 => .opPorstRelease h1)
  | .perstN _, h => .of_run hs h (fun _ h1 => .opPerst h1)
  | .perstNRelease _, h => .of_run hs h (fun _ h1 => .opPerstRelease h1)
  | .optionLoading _ _, h => .of_run hs h (fun _ h1 => .opOptionLoading h1)
  | .resetStorm _, h => .of_run hs h (fun _ h1 => .opStorm h1)
  | .stormExit _ _, h => .of_run hs h (fun _ h1 => .opStormExit h1)
  | .startDelayEnd _, h => .of_run hs h (fun _ h1 => .opStartDelay h1)
  | .crystalMeasurement _ _, h => .of_run hs h (fun _ h1 => .opCrystal h1)
  | .crystalFail, h => .of_run hs h (fun _ h1 => .opCrystalFail h1)
  | .watchdogRestart _, h => .of_run hs h (fun _ h1 => .opWdtRestart h1)
  | .watchdogExpiry _, h => .of_run hs h (fun _ h1 => .opWdtExpiry h1)
  | .thermalTrip _ _ _, h => .of_run hs h (fun _ h1 => .opTrip h1)
  | .tripHoldEnd _, h => .of_run hs h (fun _ h1 => .opTripEnd h1)
  | .cellResetGo _ _, h => .of_run hs (show execCellResetGo _ _ s = .next t from h) (fun _ h1 => .ite (.opResetGo h1) h1)
  | .cellResetHold _ _ _, h => .of_run hs (show execCellResetHold _ _ _ s = .next t from h) (fun _ h1 => .ite (.opResetHold h1) h1)
  | .stookResetGo _ _, h => .of_run hs (show execStookResetGo _ _ s = .next t from h) (fun _ h1 => .ite (.opResetGo h1) h1)
  | .stookResetHold _ _ _, h => .of_run hs (show execStookResetHold _ _ _ s = .next t from h) (fun _ h1 => .ite (.opResetHold h1) h1)
  | .sheafResetGo _ _, h => .of_run hs (show execSheafResetGo _ _ s = .next t from h) (fun _ h1 => .ite (.opResetGo h1) h1)
  | .sheafResetHold _ _ _, h => .of_run hs (show execSheafResetHold _ _ _ s = .next t from h) (fun _ h1 => .ite (.opResetHold h1) h1)
  | .steadingRestart _ _, h => .of_run hs h (fun _ h1 => .opSteadingRestart h1)
  | .clockRampStep _, h => .of_runIf hs h (fun _ h1 => .opRampStep h1)
  | .clockMonitorSelect _ _, h => .of_run hs (show execClockMonitorSelect _ _ s = .next t from h) (fun _ h1 => .ite (.opClkMon h1) h1)
  | .frequencyMeasurement _ _, h => .of_run hs (show execFrequencyMeasurement _ _ s = .next t from h) (fun _ h1 => .ite (.opFmc h1) h1)
  | .frequencyMeasurementDone _, h => .of_run hs h (fun _ h1 => .opFmcDone h1)
  | .railFault _ _, h => .of_run hs h (fun _ h1 => .opRailFault h1)
  | .steadingBoot _ _, h => .of_run hs h (fun _ h1 => .opSteadingBoot h1)
  | .broadcastFrame _ _, h => .of_run hs h (fun _ h1 => .opFrame h1)
  | .segmentRequest _ _, h => .of_run hs h (fun _ h1 => .opSegments h1)
  | .memoryTest _ _, h => .of_run hs h (fun _ h1 => .opMemoryTest h1)
  | .heatingTimeout _ _, h => .of_run hs h (fun _ h1 => .opHeating h1)
  | .cellSelfTest _ _, h => .of_run hs h (fun _ h1 => .opSelfTest h1)
  | .recoveryVerify _, h => .of_run hs (show execRecoveryVerify _ s = .next t from h) (fun _ h1 => .ite (.opRcvVerify h1) h1)
  | .recoveryProgram _, h => .of_run hs (show execRecoveryProgram _ s = .next t from h) (fun _ h1 => .ite (.opRcvProgram h1) h1)
  | .recoveryColdReset _, h => .of_run hs (show execRecoveryColdReset _ s = .next t from h) (fun _ h1 => .ite (.opRcvCold h1) h1)
  | .flashLogWrite _, h => .of_run hs h (fun _ h1 => .opFlashLogWrite h1)
  | .otpProgramGeneration _, h => .of_run hs (show execOtpProgramGeneration _ s = .next t from h) (fun _ h1 => .ite (.opOtpProgram
    h1) h1)
  | .attestationRequest _, h => .of_run hs (show execAttestationRequest _ s = .next t from h) (fun _ h1 => .ite (.opAttest h1) h1)
  | .attestationReady, h => .of_run hs h (fun _ h1 => .opAttReady h1)
  | .sentinelReading _ _ _ _, h => .of_runIf hs h (fun _ h1 => .opSentinel h1)
  | .coolantLoss _, h => .of_run hs h (fun _ h1 => .opCoolantLoss h1)
  | .stopCooldown, h => .of_run hs h (fun _ h1 => .opCooldown h1)
  | .inletWrite _ _ _, h => .of_run hs (show execInletWrite _ _ _ s = .next t from h) (fun _ h1 => .ite (.opInletWrite h1) (.at_ h1))
  | .inletStale _, h => .of_run hs h (fun _ h1 => .opInletStale h1)
  | .fastThrottle _, h => .of_run hs h (fun _ h1 => .opFastThrottle h1)
  | .fastThrottleStep _ _, h => .of_run hs h (fun _ h1 => .opThrottleStep h1)
  | .regionCycleSkip _ _, h => .of_run hs h (fun _ h1 => .opRegionSkip h1)
  | .capRaiseStep, h => .of_run hs h (fun _ h1 => .opCapRaiseStep h1)
  | .pwrfail _ _, h => .of_run hs h (fun _ h1 => .opPwrfail h1)
  | .keepStageStop _, h => .of_run hs h (fun _ h1 => .opKeepStop h1)
  | .keepEntered _, h => .of_run hs h (fun _ h1 => .opKeepEntered h1)
  | .keepEntryAbandoned _, h => .of_run hs h (fun _ h1 => .opKeepGivesUp h1)
  | .keepCheck _ _ _ _, h => .of_runIf hs h (fun _ h1 => .opKeepCheck h1)
  | .keepAbandonWrite _, h => .of_run hs h (fun _ h1 => .opKeepAbandon h1)
  | .keepEnd _, h => .of_run hs h (fun _ h1 => .opKeepEnd h1)
  | .i3cWriteRegister _ _, h => .of_run hs h (fun _ h1 => .opI3cWrite h1)
  | .i3cSetReadPointer _, h => .of_run hs h (fun _ h1 => .opI3cPointer h1)
  | .i3cWriteWords _, h => .of_run hs h (fun _ h1 => .opI3cWords h1)
  | .i3cPrivateRead _ _, h => .of_run hs h (fun _ h1 => .opI3cRead h1)
  | .i3cSetdasa _ _, h => .of_run hs h (fun _ h1 => .opSetdasa h1)
  | .i3cEntdaa _, h => .of_run hs h (fun _ h1 => .opEntdaa h1)
  | .i3cGetstatus, h => .of_run hs h (fun _ h1 => .opGetstatus h1)
  | .i3cIbiTimeout _, h => .of_run hs h (fun _ h1 => .opIbiTimeout h1)
  | .rcRead _ _ _ _, h => .of_run hs h (fun _ h1 => .opRead h1)
  | .registerWrite _ _ _ _ _, h => .of_run hs h (fun _ h1 => .opWrite h1)
  | .finishReport _ _ _ _ _, h => .of_run hs (show execFinishReport _ _ _ _ _ s = .next t from h) (fun _ h1 => .onWord h1 (fun _ h2
    => .ite (.settleIfClear (.reportFrom h2)) h2))
  | .sheafDigest _ _ _ _, h => .of_run hs (show execSheafDigest _ _ _ _ s = .next t from h) (fun _ h1 => .onWord h1 (fun _ h2 =>
    .opSheafDigest h2))
  | .pwrfailNRelease _, h => .of_run hs h (fun _ h1 => .opPwrfailRelease h1)
  | .ringReleaseTimeout _, h => .of_run hs h (fun _ h1 => .opReleaseTimeout h1)
  | .flailPortGo _, h => .of_run hs (show execFlailPortGo _ s = .next t from h) (fun _ h1 => .ite (.opPortGo h1) h1)
  | .otpProgrammingDone _, h => .of_run hs h (fun _ h1 => .opOtpDone h1)
  | .imageProgrammingDone, h => .of_run hs h (fun _ h1 => .opImageDone h1)
  | .completionTimeout _ _ _ _, h => .of_run hs (show execCompletionTimeout _ _ _ _ s = .next t from h) (fun _ h1 => .chuteBusError h1)

/-- Settles O5: the front command's change of the state keeps the memories canonical, and on an empty queue nothing changes. -/
theorem everyStepKeepsMemoriesCanonical : Obligations.EveryStepKeepsMemoriesCanonical := by
  intro s t hs h
  cases hp : s.pending with
  | nil =>
    rw [step, hp, Host.Outcome.next.injEq] at h
    exact h ▸ hs
  | cons c rest =>
    rw [step, hp] at h
    exact exec_memOk (s := { s with pending := rest }) hs h

end Sys2Proof.Machine
end

section
/-! SUPPORT. Commands whose operation changes register words only: how their frames are built from the writes of fields, and how a
command's answer is read off its operation. -/

namespace Sys2Proof.Machine

/-! ## Operations that write registers only -/

/-- u is s but for the register words with the keys ks. -/
def putsRegs (ks : List Nat) (s u : State) : Prop := u = { s with regs := u.regs } ∧ sameRegs ks s u

theorem putsRegs_refl (ks : List Nat) (s : State) : putsRegs ks s s := ⟨rfl, sameRegs_refl ks s⟩

section
variable {ks : List Nat} {s u : State} (h : putsRegs ks s u)
include h

theorem putsRegs.setReg (r : Reg) (i : Nat) (w : Word) (hk : regKey r i ∈ ks) : putsRegs ks s (u.setReg r i w) := by
  obtain ⟨hu, hr⟩ := h
  exact ⟨by rw [hu]; rfl, sameRegs_setReg r i w hr hk⟩

theorem putsRegs.putF (f : Fld) (i v : Nat) (hk : regKey f.reg i ∈ ks) : putsRegs ks s (u.putF f i v) := h.setReg f.reg i _ hk

theorem putsRegs.bump (f : Fld) (i n : Nat) (hk : regKey f.reg i ∈ ks) : putsRegs ks s (u.bump f i n) := h.putF f i _ hk

theorem putsRegs.mono {ls : List Nat} (hsub : ∀ k ∈ ks, k ∈ ls) : putsRegs ls s u :=
  ⟨h.1, fun d k hk => h.2 d k (fun hm => hk (hsub k hm))⟩

theorem putsRegs.ite {v : State} (hv : putsRegs ks s v) {c : Prop} [Decidable c] : putsRegs ks s (if c then u else v) := by
  split
  · exact h
  · exact hv
end

theorem onlyRegs_of_putsRegs {ks : List Nat} {s u : State} (h : putsRegs ks s.begin u) :
    onlyRegs ks s { u with pending := s.pending } := by
  obtain ⟨hu, hr⟩ := h
  refine ⟨?_, sameRegs_of_regs (t := u) hr rfl⟩
  rw [hu]
  rfl

theorem onlyRegsAt_of_putsRegs {now : Nat} {ks : List Nat} {s u : State} (h : putsRegs ks (s.begin.at_ now) u) :
    onlyRegsAt now ks s { u with pending := s.pending } := by
  obtain ⟨hu, hr⟩ := h
  refine ⟨?_, sameRegs_of_regs (t := u) hr rfl⟩
  rw [hu]
  rfl

/-! ## What a command answers -/

/-- A command completes with what holds of the state that its operation is equal to. -/
theorem completes_of_eq {c : Instr} {s u : State} {P : State → Prop} {f : State → State} (h : exec c s = run f s)
    (hf : f s.begin = u) (hp : P { u with pending := s.pending }) : completes c s P :=
  completes_of_run h (hf ▸ hp)

/-! ## Fields that stand in another register word, or apart in the same one -/

theorem getF_bump_off (s : State) (f g : Fld) (i j n : Nat) (h : f.reg.off / 8 ≠ g.reg.off / 8) :
    (s.bump f i n).getF g j = s.getF g j := getF_putF_off s f g i j _ h

theorem getF_bump_apart (s : State) (f g : Fld) (i n : Nat) (hr : f.reg = g.reg) (h : g.lo + g.width ≤ f.lo ∨ f.lo + f.width ≤ g.lo) :
    (s.bump f i n).getF g i = s.getF g i := getF_putF_apart s f g i _ hr h

/-- A read of a field sees the register words only. -/
theorem getF_of_regs {s t : State} (h : t.regs = s.regs) (f : Fld) (i : Nat) : t.getF f i = s.getF f i := by
  simp only [State.getF, State.reg, h]

/-- A field of bits of a number holds them. -/
theorem bitsOf_mod (v lo n : Nat) : bitsOf v lo n % 2 ^ n = bitsOf v lo n := Nat.mod_mod _ _

end Sys2Proof.Machine
end

section
/-! SUPPORT. The doorbells of the queue pairs and of the event queue (R369, R380): one equation per outcome. -/

namespace Sys2Proof.Machine

/-! ## Doorbells of a part whose host interface serves -/

section
variable {page q : BitVec 6} {value : Word} {s : State}

theorem exec_submissionTailDoorbell (hopen : s.doorbellsOpen = true) :
    exec (.submissionTailDoorbell page q value) s = run (opSqDoorbell page q value) s := by
  have h : s.begin.doorbellsOpen = true := hopen
  have hexec : exec (.submissionTailDoorbell page q value) s =
      run (fun u => if u.doorbellsOpen then opSqDoorbell page q value u else u) s := rfl
  rw [hexec, run_eq, if_pos h, run_eq]

theorem exec_completionHeadDoorbell (hopen : s.doorbellsOpen = true) :
    exec (.completionHeadDoorbell page q value) s = run (opCqDoorbell page q value) s := by
  have h : s.begin.doorbellsOpen = true := hopen
  have hexec : exec (.completionHeadDoorbell page q value) s =
      run (fun u => if u.doorbellsOpen then opCqDoorbell page q value u else u) s := rfl
  rw [hexec, run_eq, if_pos h, run_eq]

theorem exec_eventQueueHeadDoorbell (hopen : s.doorbellsOpen = true) :
    exec (.eventQueueHeadDoorbell value) s = run (opEvqDoorbell value) s := by
  have h : s.begin.doorbellsOpen = true := hopen
  have hexec : exec (.eventQueueHeadDoorbell value) s = run (fun u => if u.doorbellsOpen then opEvqDoorbell value u else u) s := rfl
  rw [hexec, run_eq, if_pos h, run_eq]

/-! ## The operations -/

theorem opSqDoorbell_moves (hr : s.rings page.toNat q.toNat = true) (hv : value.toNat % 65536 < s.sqSize q.toNat) :
    opSqDoorbell page q value s = { s with sqTails := tput 0 s.sqTails q.toNat (value.toNat % 65536) } := by
  simp only [opSqDoorbell, hr, Bool.not_true, Bool.false_eq_true, if_false, if_neg (Nat.not_le.2 hv)]

theorem opSqDoorbell_beyond (hr : s.rings page.toNat q.toNat = true) (hv : s.sqSize q.toNat ≤ value.toNat % 65536) :
    opSqDoorbell page q value s = s.pairFail q.toNat 2 := by
  simp only [opSqDoorbell, hr, Bool.not_true, Bool.false_eq_true, if_false, if_pos hv]

theorem opSqDoorbell_counts (hr : s.rings page.toNat q.toNat = false) : opSqDoorbell page q value s = s.bump F.hstErr_doorbell 0 := by
  simp only [opSqDoorbell, hr, Bool.not_false, if_true]

theorem opCqDoorbell_counts (hr : s.rings page.toNat q.toNat = false) : opCqDoorbell page q value s = s.bump F.hstErr_doorbell 0 := by
  simp only [opCqDoorbell, hr, Bool.not_false, if_true]

/-- A completion head is within the ring and not past the tail, or it is an error of the pair. -/
theorem opCqDoorbell_of_rings (hr : s.rings page.toNat q.toNat = true) :
    opCqDoorbell page q value s =
      if s.cqSize q.toNat ≤ value.toNat % 65536 ∨
        s.cqUsed q.toNat < (value.toNat % 65536 + s.cqSize q.toNat - tget 0 s.cqHeads q.toNat) % s.cqSize q.toNat then s.pairFail q.toNat 2
      else { s with cqHeads := tput 0 s.cqHeads q.toNat (value.toNat % 65536) }.putHeld q.toNat := by
  simp only [opCqDoorbell, hr, Bool.not_true, Bool.false_eq_true, if_false, Bool.or_eq_true, decide_eq_true_eq]

theorem opEvqDoorbell_of_disabled (hoff : s.onF F.hstEvqCfg_enable = false) : opEvqDoorbell value s = s.bump F.hstErr_doorbell 0 := by
  simp only [opEvqDoorbell, hoff, Bool.not_false, Bool.true_or, if_true]

/-- The head of an enabled event queue moves within the ring and not past the tail; else the doorbell is counted. -/
theorem opEvqDoorbell_of_enabled (hon : s.onF F.hstEvqCfg_enable = true) :
    opEvqDoorbell value s =
      if 2 ^ s.getF F.hstEvqCfg_log ≤ value.toNat ∨
        (s.getF F.hstEvqStat_tail + 2 ^ s.getF F.hstEvqCfg_log - s.getF F.hstEvqStat_head) % 2 ^ s.getF F.hstEvqCfg_log <
          (value.toNat + 2 ^ s.getF F.hstEvqCfg_log - s.getF F.hstEvqStat_head) % 2 ^ s.getF F.hstEvqCfg_log then s.bump F.hstErr_doorbell 0
      else s.putF F.hstEvqStat_head 0 value.toNat := by
  simp only [opEvqDoorbell, hon, Bool.not_true, Bool.false_or, Bool.or_eq_true, decide_eq_true_eq]
end

/-! ## Entries held back for a pair -/

/-- A pair for which no completion entry is held back has none written. -/
theorem putHeld_of_none {q : Nat} {s : State} (h : ∀ e ∈ s.heldCq, e.1 ≠ q) : s.putHeld q = s := by
  have key : ∀ (l done : List (Nat × List Byte)), (∀ e ∈ l, e.1 ≠ q) →
      l.foldl (fun u e => if e.1 == q && u.pairOn q && !u.pairErr q && u.cqFree q then u.putCq q e.2
        else { u with heldCq := u.heldCq ++ [e] }) { s with heldCq := done } = { s with heldCq := done ++ l } := by
    intro l
    induction l with
    | nil => intro done _; rw [List.append_nil]; rfl
    | cons e l ih =>
      intro done hl
      have he : (e.1 == q) = false := beq_eq_false_iff_ne.2 (hl e List.mem_cons_self)
      have hstep := ih (done ++ [e]) (fun x hx => hl x (List.mem_cons_of_mem e hx))
      simp only [List.foldl_cons, he, Bool.false_and, Bool.false_eq_true, if_false]
      rw [hstep, List.append_assoc]
      rfl
  exact key s.heldCq [] h

/-! ## Counted and failed doorbells -/

theorem doorbell_counted (s : State) :
    ({ s.begin.bump F.hstErr_doorbell 0 with pending := s.pending } : State).getF F.hstErr_doorbell 0 =
        min (s.getF F.hstErr_doorbell 0 + 1) 65535 ∧
      onlyRegs [regKey R.hstErr 0] s { s.begin.bump F.hstErr_doorbell 0 with pending := s.pending } :=
  ⟨getF_bump s.begin F.hstErr_doorbell 0 1 (by decide),
    onlyRegs_of_putsRegs ((putsRegs_refl _ _).bump F.hstErr_doorbell 0 1 List.mem_cons_self)⟩

theorem doorbell_fails (s : State) (q : Nat) :
    ({ s.begin.pairFail q 2 with pending := s.pending } : State).getF F.hstQstat_error q = 2 ∧
      onlyRegs [regKey R.hstQstat q] s { s.begin.pairFail q 2 with pending := s.pending } :=
  ⟨getF_putF_same s.begin F.hstQstat_error q 2 (by decide),
    onlyRegs_of_putsRegs ((putsRegs_refl _ _).putF F.hstQstat_error q 2 List.mem_cons_self)⟩

/-- With the host interface down or in minimal mode the three doorbells find nothing to act on. -/
theorem doorbells_idle (page q : BitVec 6) (value : Word) {s : State} (hshut : s.doorbellsOpen = false) :
    idles (.submissionTailDoorbell page q value) s ∧ idles (.completionHeadDoorbell page q value) s ∧
      idles (.eventQueueHeadDoorbell value) s := by
  have h : ¬ s.begin.doorbellsOpen = true := ne_true_of_eq_false hshut
  exact ⟨idles_of_run (f := fun u => if u.doorbellsOpen then opSqDoorbell page q value u else u) rfl (if_neg h),
    idles_of_run (f := fun u => if u.doorbellsOpen then opCqDoorbell page q value u else u) rfl (if_neg h),
    idles_of_run (f := fun u => if u.doorbellsOpen then opEvqDoorbell value u else u) rfl (if_neg h)⟩

/-! ## The statement -/

/-- Settles O7: each doorbell's outcome is one of the operation's branches. -/
theorem doorbellsMoveTheQueues : Obligations.DoorbellsMoveTheQueues := by
  refine ⟨fun page q value s hopen => ⟨fun hr hv => ?_, fun hr hv => ?_, fun hr => ?_⟩,
    fun page q value s hshut => doorbells_idle page q value hshut, fun page q value s hopen hr => ?_,
    fun page q value s hopen hr => ⟨fun hsize hused hheld => ?_, fun hbad => ?_⟩, fun value s hopen hoff => ?_,
    fun value s hopen hon => ⟨fun hsize hused => ?_, fun hbad => ?_⟩⟩
  · exact completes_of_eq (exec_submissionTailDoorbell hopen) (opSqDoorbell_moves (s := s.begin) hr hv)
      ⟨tget_tput_same _ _ _ _, fun k hk => tget_tput_ne _ _ _ _ hk.symm, rfl⟩
  · exact completes_of_eq (exec_submissionTailDoorbell hopen) (opSqDoorbell_beyond (s := s.begin) hr hv) (doorbell_fails s q.toNat)
  · exact completes_of_eq (exec_submissionTailDoorbell hopen) (opSqDoorbell_counts (s := s.begin) hr) (doorbell_counted s)
  · exact completes_of_eq (exec_completionHeadDoorbell hopen) (opCqDoorbell_counts (s := s.begin) hr) (doorbell_counted s)
  · have hgood : ¬ (s.begin.cqSize q.toNat ≤ value.toNat % 65536 ∨ s.begin.cqUsed q.toNat <
        (value.toNat % 65536 + s.begin.cqSize q.toNat - tget 0 s.begin.cqHeads q.toNat) % s.begin.cqSize q.toNat) :=
      fun h => h.elim (Nat.not_le.2 hsize) (Nat.not_lt.2 hused)
    exact completes_of_eq (exec_completionHeadDoorbell hopen)
      (((opCqDoorbell_of_rings (s := s.begin) hr).trans (if_neg hgood)).trans (putHeld_of_none (by exact hheld)))
      ⟨tget_tput_same _ _ _ _, fun k hk => tget_tput_ne _ _ _ _ hk.symm, rfl⟩
  · exact completes_of_eq (exec_completionHeadDoorbell hopen) ((opCqDoorbell_of_rings (s := s.begin) hr).trans (if_pos hbad))
      (doorbell_fails s q.toNat)
  · exact completes_of_eq (exec_eventQueueHeadDoorbell hopen) (opEvqDoorbell_of_disabled (s := s.begin) hoff) (doorbell_counted s)
  · have hgood := not_or.2 ⟨Nat.not_le.2 hsize, Nat.not_lt.2 hused⟩
    exact completes_of_eq (exec_eventQueueHeadDoorbell hopen) ((opEvqDoorbell_of_enabled (s := s.begin) hon).trans (if_neg hgood))
      ⟨getF_putF_same s.begin F.hstEvqStat_head 0 value.toNat (by decide),
        onlyRegs_of_putsRegs ((putsRegs_refl _ _).putF F.hstEvqStat_head 0 _ List.mem_cons_self)⟩
  · have hhead : (s.begin.bump F.hstErr_doorbell 0).getF F.hstEvqStat_head = s.getF F.hstEvqStat_head :=
      getF_bump_off s.begin F.hstErr_doorbell F.hstEvqStat_head 0 0 1 (by decide)
    exact completes_of_eq (exec_eventQueueHeadDoorbell hopen) ((opEvqDoorbell_of_enabled (s := s.begin) hon).trans (if_pos hbad))
      ⟨(doorbell_counted s).1, hhead, (doorbell_counted s).2⟩

end Sys2Proof.Machine
end

section
/-! SUPPORT. Enabling and disabling of queue pairs (R366, R442) and of the event queue (R380). -/

namespace Sys2Proof.Machine

/-! ## Streams that wait for their pair -/

/-- A key whose entry has a property that the default lacks is among the keys of the entries with it. -/
theorem mem_keys_of_tget {α : Type} {p : α → Bool} {d : α} {t : Tbl α} {i : Nat} (h : p (tget d t i) = true) (hd : p d = false) :
    i ∈ (t.filter (fun e => p e.2)).map (fun e => e.1) := by
  induction t with
  | nil => exact absurd (hd.symm.trans h) Bool.false_ne_true
  | cons e t ih =>
    obtain ⟨k, v⟩ := e
    rw [tget_cons] at h
    by_cases hk : k = i
    · rw [if_pos hk] at h
      simp [h, hk]
    · rw [if_neg hk] at h
      have := ih h
      simp only [List.filter_cons]
      split
      · exact List.mem_cons_of_mem _ this
      · exact this

/-- The same change, which is not told from itself twice, made to some streams. -/
theorem foldl_modStream_stream {f : Stream → Stream} (hf : ∀ t, f (f t) = f t) (l : List Nat) (s : State) (k : Nat) :
    (l.foldl (fun u i => u.modStream i f) s).stream k = if k ∈ l then f (s.stream k) else s.stream k := by
  induction l generalizing s with
  | nil => rfl
  | cons i l ih =>
    rw [List.foldl_cons, ih]
    by_cases hki : i = k
    · subst hki
      simp [State.modStream, hf]
    · have hne : (s.modStream i f).stream k = s.stream k := stream_setStream_ne s _ hki
      have hmem : k ∈ i :: l ↔ k ∈ l := by simp [Ne.symm hki]
      simp only [hne, hmem]

theorem foldl_modStream_frame (f : Stream → Stream) (l : List Nat) (s : State) :
    l.foldl (fun u i => u.modStream i f) s =
      { s with ctl := { s.ctl with streams := (l.foldl (fun u i => u.modStream i f) s).ctl.streams } } := by
  induction l generalizing s with
  | nil => rfl
  | cons i l ih =>
    rw [List.foldl_cons, ih]
    rfl

/-- What the end of the wait makes of a stream. -/
def pairWaitEnded (q : Nat) (t : Stream) : Stream := { t with waitsPair := t.waitsPair && t.cq != q }

theorem pairWaitEnded_idem (q : Nat) (t : Stream) : pairWaitEnded q (pairWaitEnded q t) = pairWaitEnded q t := by
  simp [pairWaitEnded, Bool.and_assoc]

theorem pairWaitEnded_of_apart {q : Nat} {t : Stream} (h : (t.waitsPair && t.cq == q) = false) : pairWaitEnded q t = t := by
  have hw : (t.waitsPair && t.cq != q) = t.waitsPair := by
    cases hwait : t.waitsPair with
    | false => rfl
    | true =>
      rw [hwait, Bool.true_and] at h
      rw [Bool.true_and, bne, h, Bool.not_false]
  rw [pairWaitEnded, hw]

theorem endPairWait_stream (s : State) (q i : Nat) : (s.endPairWait q).stream i = pairWaitEnded q (s.stream i) := by
  have hfold : (s.endPairWait q).stream i = _ := foldl_modStream_stream (pairWaitEnded_idem q) _ s i
  rw [hfold]
  split
  · rfl
  · next hnot =>
    cases h : ((s.stream i).waitsPair && (s.stream i).cq == q) with
    | true => exact absurd (mem_keys_of_tget (p := fun t : Stream => t.waitsPair && t.cq == q) h rfl) hnot
    | false => exact (pairWaitEnded_of_apart h).symm

theorem endPairWait_frame (s : State) (q : Nat) :
    s.endPairWait q = { s with ctl := { s.ctl with streams := (s.endPairWait q).ctl.streams } } :=
  foldl_modStream_frame (pairWaitEnded q) _ s

theorem endPairWait_regs (s : State) (q : Nat) : (s.endPairWait q).regs = s.regs := by
  rw [endPairWait_frame]

theorem endPairWait_sqTails (s : State) (q : Nat) : (s.endPairWait q).sqTails = s.sqTails := by
  rw [endPairWait_frame]

theorem endPairWait_cqHeads (s : State) (q : Nat) : (s.endPairWait q).cqHeads = s.cqHeads := by
  rw [endPairWait_frame]

/-- A command that writes registers and the ends of the rings, and lets the streams of a pair wait no longer. -/
theorem endPairWait_leaves {s u : State} (q : Nat)
    (hu : u = { s with regs := u.regs, sqTails := u.sqTails, cqHeads := u.cqHeads, out := [] }) :
    ({ u.endPairWait q with pending := s.pending } : State) = { s with
      regs := (u.endPairWait q).regs, sqTails := (u.endPairWait q).sqTails, cqHeads := (u.endPairWait q).cqHeads
      ctl := { s.ctl with streams := (u.endPairWait q).ctl.streams }, out := [] } := by
  rw [endPairWait_regs, endPairWait_sqTails, endPairWait_cqHeads, endPairWait_frame]
  generalize (u.endPairWait q).ctl.streams = streams
  rw [hu]

/-! ## The registers of a pair -/

/-- The sizes and the vector of a pair, written while it is disabled. -/
def State.sizePair (s : State) (q v : Nat) : State :=
  ((s.putF F.hstQcfg_sq_log q (bitsOf v 1 5)).putF F.hstQcfg_cq_log q (bitsOf v 6 5)).putF F.hstQcfg_vector q (bitsOf v 11 5)

/-- The registers of a pair that starts at the beginning of both its rings. -/
def State.startPair (s : State) (q : Nat) : State :=
  ((((s.putF F.hstQstat_sq_head q 0).putF F.hstQstat_cq_tail q 0).putF F.hstQstat_phase q 1).pairFail q 0).putF F.hstQcfg_enable q 1

section
variable (s : State) (q v : Nat)

theorem sizePair_putsRegs : putsRegs [regKey R.hstQcfg q, regKey R.hstQstat q] s (s.sizePair q v) :=
  (((putsRegs_refl _ s).putF F.hstQcfg_sq_log q _ List.mem_cons_self).putF F.hstQcfg_cq_log q _ List.mem_cons_self).putF
    F.hstQcfg_vector q _ List.mem_cons_self

theorem startPair_putsRegs {u : State} (h : putsRegs [regKey R.hstQcfg q, regKey R.hstQstat q] s u) :
    putsRegs [regKey R.hstQcfg q, regKey R.hstQstat q] s (u.startPair q) := by
  have hstat : regKey R.hstQstat q ∈ [regKey R.hstQcfg q, regKey R.hstQstat q] := List.mem_cons_of_mem _ List.mem_cons_self
  exact ((((h.putF F.hstQstat_sq_head q 0 hstat).putF F.hstQstat_cq_tail q 0 hstat).putF F.hstQstat_phase q 1 hstat).putF
    F.hstQstat_error q 0 hstat).putF F.hstQcfg_enable q 1 List.mem_cons_self

theorem sizePair_pairOn : (s.sizePair q v).pairOn q = s.pairOn q := by
  simp (disch := decide) only [State.pairOn, State.onF, State.sizePair, getF_putF_apart]

theorem sizePair_base : (s.sizePair q v).getF F.hstSqBase_addr q = s.getF F.hstSqBase_addr q ∧
    (s.sizePair q v).getF F.hstCqBase_addr q = s.getF F.hstCqBase_addr q := by
  simp (disch := decide) only [State.sizePair, getF_putF_off, and_self]

theorem startPair_sizePair_config :
    ((s.sizePair q v).startPair q).pairOn q = true ∧ ((s.sizePair q v).startPair q).sqSize q = 2 ^ bitsOf v 1 5 ∧
      ((s.sizePair q v).startPair q).cqSize q = 2 ^ bitsOf v 6 5 ∧
      ((s.sizePair q v).startPair q).getF F.hstQcfg_vector q = bitsOf v 11 5 := by
  have hsq : bitsOf v 1 5 % 2 ^ F.hstQcfg_sq_log.width = bitsOf v 1 5 := bitsOf_mod v 1 5
  have hcq : bitsOf v 6 5 % 2 ^ F.hstQcfg_cq_log.width = bitsOf v 6 5 := bitsOf_mod v 6 5
  have hvec : bitsOf v 11 5 % 2 ^ F.hstQcfg_vector.width = bitsOf v 11 5 := bitsOf_mod v 11 5
  refine ⟨?_, ?_, ?_, ?_⟩
  · simp (disch := decide) only [State.pairOn, State.onF, State.startPair, getF_putF_same]
    rfl
  · simp (disch := decide) only [State.sqSize, State.startPair, State.sizePair, State.pairFail, getF_putF_off, getF_putF_apart,
      getF_putF_same, hsq]
  · simp (disch := decide) only [State.cqSize, State.startPair, State.sizePair, State.pairFail, getF_putF_off, getF_putF_apart,
      getF_putF_same, hcq]
  · simp (disch := decide) only [State.startPair, State.sizePair, State.pairFail, getF_putF_off, getF_putF_apart, getF_putF_same, hvec]

theorem startPair_status : (s.startPair q).getF F.hstQstat_error q = 0 ∧ (s.startPair q).getF F.hstQstat_sq_head q = 0 ∧
    (s.startPair q).getF F.hstQstat_cq_tail q = 0 ∧ (s.startPair q).getF F.hstQstat_phase q = 1 := by
  refine ⟨?_, ?_, ?_, ?_⟩ <;>
  · simp (disch := decide) only [State.startPair, State.pairFail, getF_putF_off, getF_putF_apart, getF_putF_same]
    rfl
end

/-! ## The operations -/

/-- The settings of a pair that is to be enabled are not ones that R366 gives. -/
def badPair (s : State) (q v : Nat) : Prop :=
  bitsOf v 1 5 = 0 ∨ 16 < bitsOf v 1 5 ∨ bitsOf v 6 5 = 0 ∨ 16 < bitsOf v 6 5 ∨
    s.getF F.hstSqBase_addr q % 4096 ≠ 0 ∨ s.getF F.hstCqBase_addr q % 4096 ≠ 0

section
variable {q : Nat} {value : Word} {s : State}

/-- Both rings of a pair with the sizes written, at their beginning. -/
def State.clearPair (s : State) (q v : Nat) : State :=
  { s.sizePair q v with sqTails := tput 0 s.sqTails q 0, cqHeads := tput 0 s.cqHeads q 0 }

theorem opQcfg_of_disabled (hoff : s.pairOn q = false) (hbit : bitOf value.toNat 0 = true) :
    opQcfg q value s = if (bitsOf value.toNat 1 5 == 0 || 16 < bitsOf value.toNat 1 5 || bitsOf value.toNat 6 5 == 0 ||
        16 < bitsOf value.toNat 6 5 || s.getF F.hstSqBase_addr q % 4096 != 0 || s.getF F.hstCqBase_addr q % 4096 != 0) = true
      then (s.sizePair q value.toNat).pairFail q 1
      else (((s.clearPair q value.toNat).startPair q).putHeld q).endPairWait q := by
  obtain ⟨hsq, hcq⟩ := sizePair_base s q value.toNat
  have hoff' : ¬ s.pairOn q = true := ne_true_of_eq_false hoff
  have hsize : opQcfg q value s = if (bitsOf value.toNat 1 5 == 0 || 16 < bitsOf value.toNat 1 5 || bitsOf value.toNat 6 5 == 0 ||
      16 < bitsOf value.toNat 6 5 || (s.sizePair q value.toNat).getF F.hstSqBase_addr q % 4096 != 0 ||
      (s.sizePair q value.toNat).getF F.hstCqBase_addr q % 4096 != 0) = true then (s.sizePair q value.toNat).pairFail q 1
      else (((s.clearPair q value.toNat).startPair q).putHeld q).endPairWait q := by
    rw [opQcfg, if_neg hoff']
    simp only [hbit, Bool.not_true, Bool.false_eq_true, if_false]
    rfl
  rw [hsize, hsq, hcq]

theorem opQcfg_starts (hoff : s.pairOn q = false) (hbit : bitOf value.toNat 0 = true) (hgood : ¬ badPair s q value.toNat)
    (hheld : ∀ e ∈ s.heldCq, e.1 ≠ q) :
    opQcfg q value s = ((s.clearPair q value.toNat).startPair q).endPairWait q := by
  rw [opQcfg_of_disabled hoff hbit, if_neg]
  · rw [putHeld_of_none (by exact hheld)]
  · simpa [badPair, not_or, and_assoc] using hgood

theorem opQcfg_fails (hoff : s.pairOn q = false) (hbit : bitOf value.toNat 0 = true) (hbad : badPair s q value.toNat) :
    opQcfg q value s = (s.sizePair q value.toNat).pairFail q 1 := by
  rw [opQcfg_of_disabled hoff hbit, if_pos]
  simpa [badPair, or_assoc] using hbad

theorem opQcfg_disables (hon : s.pairOn q = true) (hbit : bitOf value.toNat 0 = false) :
    opQcfg q value s = (s.putF F.hstQcfg_vector q (bitsOf value.toNat 11 5)).putF F.hstQcfg_enable q 0 := by
  rw [opQcfg, if_pos hon]
  simp only [hbit, Bool.false_eq_true, if_false]

theorem opEvqCfg_enables (hbit : bitOf value.toNat 0 = true) (hlo : 4 ≤ bitsOf value.toNat 1 5) (hhi : bitsOf value.toNat 1 5 ≤ 16) :
    opEvqCfg value s = if s.onF F.hstEvqCfg_enable then
        (s.putF F.hstEvqCfg_log 0 (bitsOf value.toNat 1 5)).putF F.hstEvqCfg_enable 0 1
      else ((((s.putF F.hstEvqCfg_log 0 (bitsOf value.toNat 1 5)).putF F.hstEvqCfg_enable 0 1).putF F.hstEvqStat_tail 0 0).putF
        F.hstEvqStat_head 0 0) := by
  simp only [opEvqCfg, hbit, hlo, hhi, decide_true, Bool.and_self, if_true]

theorem opEvqCfg_disables (h : bitOf value.toNat 0 = false ∨ bitsOf value.toNat 1 5 < 4 ∨ 16 < bitsOf value.toNat 1 5) :
    opEvqCfg value s = (s.putF F.hstEvqCfg_log 0 (bitsOf value.toNat 1 5)).putF F.hstEvqCfg_enable 0 0 := by
  have hbad : ¬ (bitOf value.toNat 0 && decide (4 ≤ bitsOf value.toNat 1 5) && decide (bitsOf value.toNat 1 5 ≤ 16)) = true := by
    simp only [Bool.and_eq_true, decide_eq_true_eq, not_and]
    rintro ⟨hb, hlo⟩ hhi
    rcases h with h | h | h
    · exact Bool.false_ne_true (h.symm.trans hb)
    · omega
    · omega
  rw [opEvqCfg, if_neg hbad]
end

/-! ## The commands -/

theorem exec_queuePairEnable {page : Option (BitVec 6)} {q : BitVec 6} (value : Word) {s : State}
    (hopen : s.queueBlockOpen page q.toNat = true) : exec (.queuePairEnable page q value) s = run (opQcfg q.toNat value) s := by
  have h : s.begin.queueBlockOpen page q.toNat = true := hopen
  have hexec : exec (.queuePairEnable page q value) s =
      run (fun u => if u.queueBlockOpen page q.toNat then opQcfg q.toNat value u else u) s := rfl
  rw [hexec, run_eq, if_pos h, run_eq]

theorem exec_eventQueueEnable (value : Word) {s : State} (hw : s.writes .host R.hstEvqCfg.off = true) :
    exec (.eventQueueEnable value) s = run (opEvqCfg value) s := by
  have h : s.begin.writes .host R.hstEvqCfg.off = true := hw
  have hexec : exec (.eventQueueEnable value) s =
      run (fun u => if u.writes .host R.hstEvqCfg.off then opEvqCfg value u else u) s := rfl
  rw [hexec, run_eq, if_pos h, run_eq]

/-! ## The statement -/

theorem clearPair_startPair_frame (s : State) (q v : Nat) :
    (s.begin.clearPair q v).startPair q = { s with
      regs := ((s.begin.clearPair q v).startPair q).regs, sqTails := ((s.begin.clearPair q v).startPair q).sqTails
      cqHeads := ((s.begin.clearPair q v).startPair q).cqHeads, out := [] } := by
  have hclear : s.begin.clearPair q v = { s with
      regs := (s.begin.clearPair q v).regs, sqTails := (s.begin.clearPair q v).sqTails, cqHeads := (s.begin.clearPair q v).cqHeads
      out := [] } := rfl
  obtain ⟨hstart, -⟩ := startPair_putsRegs (s.begin.clearPair q v) q (putsRegs_refl _ _)
  generalize (s.begin.clearPair q v).startPair q = u at hstart ⊢
  generalize s.begin.clearPair q v = w at hclear hstart
  rw [hstart, hclear]

/-- A pair that starts, and what else its enabling leaves. -/
theorem startedPair_stands (s : State) (q v : Nat) :
    let t : State := { ((s.begin.clearPair q v).startPair q).endPairWait q with pending := s.pending }
    t.pairOn q = true ∧ t.getF F.hstQstat_error q = 0 ∧ t.sqSize q = 2 ^ bitsOf v 1 5 ∧ t.cqSize q = 2 ^ bitsOf v 6 5 ∧
      t.getF F.hstQcfg_vector q = bitsOf v 11 5 ∧ t.getF F.hstQstat_sq_head q = 0 ∧ tget 0 t.sqTails q = 0 ∧ tget 0 t.cqHeads q = 0 ∧
      t.getF F.hstQstat_cq_tail q = 0 ∧ t.getF F.hstQstat_phase q = 1 ∧ sameRegs [regKey R.hstQcfg q, regKey R.hstQstat q] s t ∧
      (∀ i, t.stream i = { s.stream i with waitsPair := (s.stream i).waitsPair && (s.stream i).cq != q }) ∧
      t = { s with regs := t.regs, sqTails := t.sqTails, cqHeads := t.cqHeads, ctl := { s.ctl with streams := t.ctl.streams }, out := [] } := by
  intro t
  have hregs : t.regs = ((s.begin.sizePair q v).startPair q).regs := endPairWait_regs _ q
  have htails : t.sqTails = tput 0 s.sqTails q 0 := endPairWait_sqTails _ q
  have hheads : t.cqHeads = tput 0 s.cqHeads q 0 := endPairWait_cqHeads _ q
  have hget : ∀ f i, t.getF f i = ((s.begin.sizePair q v).startPair q).getF f i := getF_of_regs hregs
  obtain ⟨hon, hsq, hcq, hvec⟩ := startPair_sizePair_config s.begin q v
  obtain ⟨herr, hhead, htail, hphase⟩ := startPair_status (s.begin.sizePair q v) q
  have hputs := startPair_putsRegs s.begin q (sizePair_putsRegs s.begin q v)
  refine ⟨?_, (hget _ _).trans herr, ?_, ?_, (hget _ _).trans hvec, (hget _ _).trans hhead, ?_, ?_, (hget _ _).trans htail,
    (hget _ _).trans hphase, sameRegs_of_regs hputs.2 hregs, fun i => endPairWait_stream _ q i, endPairWait_leaves q (clearPair_startPair_frame s q v)⟩
  · rw [State.pairOn, State.onF, hget]
    exact hon
  · rw [State.sqSize, hget]
    exact hsq
  · rw [State.cqSize, hget]
    exact hcq
  · rw [htails, tget_tput_same]
  · rw [hheads, tget_tput_same]

/-- Settles O8: a pair that is off starts, fails or stays off by the bits written, a pair that is on goes off, and so with the event
queue. -/
theorem enablingIsChecked : Obligations.EnablingIsChecked := by
  refine ⟨fun page q value s hopen => ⟨fun hoff hbit h1 h2 h3 h4 h5 h6 hheld => ?_, fun hoff hbit hbad => ?_, fun hon hbit => ?_⟩,
    fun value s hw => ⟨fun hbit hlo hhi => ?_, fun hbad => ?_⟩⟩
  · have hgood : ¬ badPair s.begin q.toNat value.toNat := by
      have hsq : ¬ s.begin.getF F.hstSqBase_addr q.toNat % 4096 ≠ 0 := not_not_intro h5
      have hcq : ¬ s.begin.getF F.hstCqBase_addr q.toNat % 4096 ≠ 0 := not_not_intro h6
      simp only [badPair, hsq, hcq, or_false]
      omega
    exact completes_of_eq (exec_queuePairEnable value hopen) (opQcfg_starts (s := s.begin) hoff hbit hgood hheld)
      (startedPair_stands s q.toNat value.toNat)
  · have hfield := sizePair_pairOn s.begin q.toNat value.toNat
    have hon : ((s.begin.sizePair q.toNat value.toNat).pairFail q.toNat 1).pairOn q.toNat = false := by
      rw [State.pairOn, State.onF, State.pairFail, getF_putF_off _ _ _ _ _ _ (by decide)]
      exact hfield.trans hoff
    exact completes_of_eq (exec_queuePairEnable value hopen) (opQcfg_fails (s := s.begin) hoff hbit hbad)
      ⟨hon, getF_putF_same _ F.hstQstat_error q.toNat 1 (by decide), onlyRegs_of_putsRegs
        ((sizePair_putsRegs s.begin q.toNat value.toNat).putF F.hstQstat_error q.toNat 1 (List.mem_cons_of_mem _ List.mem_cons_self))⟩
  · refine completes_of_eq (exec_queuePairEnable value hopen) (opQcfg_disables (s := s.begin) hon hbit) ⟨?_, ?_, ?_, ?_⟩
    · have h0 := getF_putF_same (s.begin.putF F.hstQcfg_vector q.toNat (bitsOf value.toNat 11 5)) F.hstQcfg_enable q.toNat 0 (by decide)
      exact congrArg (· != 0) h0
    · have h : ((s.begin.putF F.hstQcfg_vector q.toNat (bitsOf value.toNat 11 5)).putF F.hstQcfg_enable q.toNat 0).sqSize q.toNat =
          s.begin.sqSize q.toNat := by
        simp (disch := decide) only [State.sqSize, getF_putF_apart]
      exact h
    · have h : ((s.begin.putF F.hstQcfg_vector q.toNat (bitsOf value.toNat 11 5)).putF F.hstQcfg_enable q.toNat 0).cqSize q.toNat =
          s.begin.cqSize q.toNat := by
        simp (disch := decide) only [State.cqSize, getF_putF_apart]
      exact h
    · exact onlyRegs_of_putsRegs (((putsRegs_refl _ _).putF F.hstQcfg_vector q.toNat _ List.mem_cons_self).putF F.hstQcfg_enable q.toNat 0
        List.mem_cons_self)
  · have hcfg : regKey R.hstEvqCfg 0 ∈ [regKey R.hstEvqCfg 0, regKey R.hstEvqStat 0] := List.mem_cons_self
    have hstat : regKey R.hstEvqStat 0 ∈ [regKey R.hstEvqCfg 0, regKey R.hstEvqStat 0] := List.mem_cons_of_mem _ List.mem_cons_self
    have hputs := ((putsRegs_refl _ s.begin).putF F.hstEvqCfg_log 0 (bitsOf value.toNat 1 5) hcfg).putF F.hstEvqCfg_enable 0 1 hcfg
    have hlog : bitsOf value.toNat 1 5 % 2 ^ F.hstEvqCfg_log.width = bitsOf value.toNat 1 5 := bitsOf_mod _ 1 5
    have hop := opEvqCfg_enables (s := s.begin) hbit hlo hhi
    cases hwas : s.begin.onF F.hstEvqCfg_enable with
    | true =>
      rw [hwas, if_pos rfl] at hop
      refine completes_of_eq (exec_eventQueueEnable value hw) hop ⟨?_, ?_, fun hfalse => ?_, onlyRegs_of_putsRegs hputs⟩
      · exact congrArg (· != 0) (getF_putF_same _ F.hstEvqCfg_enable 0 1 (by decide))
      · refine Eq.trans ?_ hlog
        exact (getF_putF_apart _ F.hstEvqCfg_enable F.hstEvqCfg_log 0 1 rfl (by decide)).trans
          (getF_putF_same _ F.hstEvqCfg_log 0 _ (by decide))
      · exact absurd (hwas.symm.trans hfalse) (by decide)
    | false =>
      rw [hwas, if_neg Bool.false_ne_true] at hop
      refine completes_of_eq (exec_eventQueueEnable value hw) hop ⟨?_, ?_, fun _ => ⟨?_, ?_⟩,
        onlyRegs_of_putsRegs ((hputs.putF F.hstEvqStat_tail 0 0 hstat).putF F.hstEvqStat_head 0 0 hstat)⟩
      · have h : ((((s.begin.putF F.hstEvqCfg_log 0 (bitsOf value.toNat 1 5)).putF F.hstEvqCfg_enable 0 1).putF F.hstEvqStat_tail 0 0).putF
            F.hstEvqStat_head 0 0).getF F.hstEvqCfg_enable = 1 := by
          simp (disch := decide) only [getF_putF_off, getF_putF_same]
          rfl
        exact congrArg (· != 0) h
      · have h : ((((s.begin.putF F.hstEvqCfg_log 0 (bitsOf value.toNat 1 5)).putF F.hstEvqCfg_enable 0 1).putF F.hstEvqStat_tail 0 0).putF
            F.hstEvqStat_head 0 0).getF F.hstEvqCfg_log = bitsOf value.toNat 1 5 := by
          simp (disch := decide) only [getF_putF_off, getF_putF_apart, getF_putF_same, hlog]
        exact h
      · exact (getF_putF_apart _ F.hstEvqStat_head F.hstEvqStat_tail 0 0 rfl (by decide)).trans
          (getF_putF_same _ F.hstEvqStat_tail 0 0 (by decide))
      · exact getF_putF_same _ F.hstEvqStat_head 0 0 (by decide)
  · refine completes_of_eq (exec_eventQueueEnable value hw) (opEvqCfg_disables (s := s.begin) hbad) ⟨?_, ?_⟩
    · exact congrArg (· != 0) (getF_putF_same _ F.hstEvqCfg_enable 0 0 (by decide))
    · exact onlyRegs_of_putsRegs (((putsRegs_refl _ _).putF F.hstEvqCfg_log 0 _ List.mem_cons_self).putF F.hstEvqCfg_enable 0 0
        List.mem_cons_self)

end Sys2Proof.Machine
end

section
/-! SUPPORT. Identifiers in quarantine (R236) and the flush of the prefix table (R232). -/

namespace Sys2Proof.Machine

/-! ## The end of quarantine -/

theorem opQuarantineEnd_stream {i : BitVec 16} {s : State} (h : s.inQuarantine (s.stream i.toNat).released = false) :
    opQuarantineEnd (.stream i) s = s.setStream i.toNat { s.stream i.toNat with released := none } :=
  if_neg (ne_true_of_eq_false h)

theorem opQuarantineEnd_sheaf {i : BitVec 12} {s : State} (h : s.inQuarantine (s.sheaf i.toNat).released = false) :
    opQuarantineEnd (.sheaf i) s = s.setSheaf i.toNat { s.sheaf i.toNat with released := none } :=
  if_neg (ne_true_of_eq_false h)

theorem opQuarantineEnd_job {j : BitVec 3} {s : State} (h : s.inQuarantine (s.prog j.toNat).released = false) :
    opQuarantineEnd (.job j) s = s.setProg j.toNat { s.prog j.toNat with
      released := none, state := if (s.prog j.toNat).state = .quarantine then .free else (s.prog j.toNat).state } := by
  rw [opQuarantineEnd, if_neg (ne_true_of_eq_false h)]
  simp only [beq_iff_eq]

theorem opQuarantineEnd_page {j : BitVec 3} {c : BitVec 10} {e : BitVec 2} {n : BitVec 24} {k : Nat} {s : State}
    (hk : k = poolKey j.toNat c.toNat e.toNat n.toNat) (h : s.inQuarantine (s.poolSlot k).released = false) :
    opQuarantineEnd (.page j c e n) s = s.setPoolSlot k { s.poolSlot k with released := none } := by
  subst hk
  exact if_neg (ne_true_of_eq_false h)

@[simp] theorem poolSlot_setPoolSlot_same (s : State) (k : Nat) (x : PageSlot) : (s.setPoolSlot k x).poolSlot k = x := by
  simp [State.poolSlot, State.setPoolSlot]

theorem poolSlot_setPoolSlot_ne (s : State) {k i : Nat} (x : PageSlot) (h : k ≠ i) : (s.setPoolSlot k x).poolSlot i = s.poolSlot i :=
  tget_tput_ne _ _ _ _ h

/-- A command of an identifier still in quarantine finds nothing to end. -/
theorem idles_quarantineEnd {id : IdSpace} {s : State} (h : opQuarantineEnd id s.begin = s.begin) : idles (.quarantineEnd id) s :=
  idles_of_run (f := opQuarantineEnd id) rfl h

theorem completes_quarantineEnd {id : IdSpace} {s u : State} {P : State → Prop} (h : opQuarantineEnd id s.begin = u)
    (hp : P { u with pending := s.pending }) : completes (.quarantineEnd id) s P :=
  completes_of_run (f := opQuarantineEnd id) rfl (h ▸ hp)

/-! ## The statement -/

/-- Settles O59: the flush bit is put where the host may write it; in each space of identifiers the release mark goes where no
quarantine is left. -/
theorem identifiersLeaveQuarantine : Obligations.IdentifiersLeaveQuarantine := by
  intro s
  have hflush : exec .prefixFlush s = run (fun u => if u.mayWrite .host R.pfxCtl.off then u.putF F.pfxCtl_flush 0 1 else u) s := rfl
  refine ⟨fun hw => ?_, fun hw => ?_, fun i => ⟨fun h => ?_, fun h => ?_⟩, fun i => ⟨fun h => ?_, fun h => ?_⟩,
    fun j => ⟨fun h => ?_, fun h => ?_⟩, fun j c e n k hk => ⟨fun h => ?_, fun h => ?_⟩⟩
  · have hput : (if s.begin.mayWrite .host R.pfxCtl.off then s.begin.putF F.pfxCtl_flush 0 1 else s.begin) =
        s.begin.putF F.pfxCtl_flush 0 1 := if_pos hw
    refine completes_of_run hflush ?_
    rw [hput]
    have hon : (s.begin.putF F.pfxCtl_flush 0 1).onF F.pfxCtl_flush = true := by
      rw [State.onF, getF_putF_same s.begin F.pfxCtl_flush 0 1 (by decide)]
      rfl
    exact ⟨hon, onlyRegs_begin_putF s F.pfxCtl_flush 0 1⟩
  · exact idles_of_run hflush (if_neg (ne_true_of_eq_false hw))
  · exact idles_quarantineEnd (if_pos h)
  · exact completes_quarantineEnd (opQuarantineEnd_stream (s := s.begin) h)
      ⟨stream_setStream_same s.begin _ _, fun k hk => stream_setStream_ne s.begin _ hk.symm, rfl⟩
  · exact idles_quarantineEnd (if_pos h)
  · exact completes_quarantineEnd (opQuarantineEnd_sheaf (s := s.begin) h)
      ⟨sheaf_setSheaf_same s.begin _ _, fun k hk => sheaf_setSheaf_ne s.begin _ hk.symm, rfl⟩
  · exact idles_quarantineEnd (if_pos h)
  · exact completes_quarantineEnd (opQuarantineEnd_job (s := s.begin) h)
      ⟨prog_setProg_same s.begin _ _, fun k hk => prog_setProg_ne s.begin _ hk.symm, rfl⟩
  · subst hk
    exact idles_quarantineEnd (if_pos h)
  · exact completes_quarantineEnd (opQuarantineEnd_page (s := s.begin) hk h)
      ⟨poolSlot_setPoolSlot_same s.begin _ _, fun i hi => poolSlot_setPoolSlot_ne s.begin _ hi.symm, rfl⟩

end Sys2Proof.Machine
end

section
/-! SUPPORT. An entry taken from a submission queue, and O10, O11: the commands that wait for the edge, and a feed that joins its
stream's queue. -/

namespace Sys2Proof.Machine

/-! ## An entry taken from its pair (R368, R370) -/

/-- The writes of registers by which an entry is taken. -/
def State.takeRegs (s : State) (q : Nat) : State :=
  ((s.putF F.hstQstat_sq_head q ((s.getF F.hstQstat_sq_head q + 1) % s.sqSize q)).reserve q 1).bump F.hstQcnt_commands q

/-- Taking an entry writes two register words and counts the command, and changes nothing else. -/
theorem take_eq (s : State) (q : Nat) :
    s.take q = { s.takeRegs q with tick := { s.tick with acceptedCmds := tmod 0 s.tick.acceptedCmds q (fun n => n + 1) } } := rfl

theorem take_getF (s : State) (q : Nat) (f : Fld) (i : Nat) : (s.take q).getF f i = (s.takeRegs q).getF f i := rfl

theorem take_sq_head (s : State) (q : Nat) :
    (s.take q).getF F.hstQstat_sq_head q = (s.getF F.hstQstat_sq_head q + 1) % s.sqSize q % 65536 := by
  simp (disch := decide) only [take_getF, State.takeRegs, State.reserve, getF_bump_off, getF_putF_apart, getF_putF_same]
  rfl

theorem take_reserved (s : State) (q : Nat) :
    (s.take q).getF F.hstQstat_reserved_cq q = (s.getF F.hstQstat_reserved_cq q + 1) % 65536 := by
  simp (disch := decide) only [take_getF, State.takeRegs, State.reserve, getF_bump_off, getF_putF_apart, getF_putF_same]
  rfl

theorem take_commands (s : State) (q : Nat) :
    (s.take q).getF F.hstQcnt_commands q = min (s.getF F.hstQcnt_commands q + 1) (2 ^ 32 - 1) := by
  simp (disch := decide) only [take_getF, State.takeRegs, State.reserve, getF_bump, getF_putF_off]
  rfl

theorem take_sameRegs (s : State) (q : Nat) : sameRegs [regKey R.hstQstat q, regKey R.hstQcnt q] s (s.take q) := by
  have h := ((putsRegs_refl [regKey R.hstQstat q, regKey R.hstQcnt q] s).putF F.hstQstat_sq_head q
    ((s.getF F.hstQstat_sq_head q + 1) % s.sqSize q) (by simp [F.hstQstat_sq_head])).putF F.hstQstat_reserved_cq q
    ((s.putF F.hstQstat_sq_head q ((s.getF F.hstQstat_sq_head q + 1) % s.sqSize q)).getF F.hstQstat_reserved_cq q + 1)
      (by simp [F.hstQstat_reserved_cq])
  exact sameRegs_of_regs (h.bump F.hstQcnt_commands q 1 (by simp [F.hstQcnt_commands])).2 rfl

/-- The owner of a pair stands in another register word than those that taking an entry writes. -/
theorem take_owner (s : State) (q : Nat) : (s.take q).owner q = s.owner q := by
  simp (disch := decide) only [State.owner, take_getF, State.takeRegs, State.reserve, getF_bump_off, getF_putF_off]

theorem take_cmdId (s : State) (q : Nat) (e : SubEntry) : (s.take q).cmdId q e = nextId q e s := by
  rw [State.cmdId, take_sq_head]
  rfl

/-- What holds of a state that shows the registers and the count of commands of one from which an entry has been taken. -/
theorem tookEntry_of_take {q : Nat} {s t : State} (hr : t.regs = (s.take q).regs)
    (ha : t.tick.acceptedCmds = (s.take q).tick.acceptedCmds) : tookEntry q s t := by
  refine ⟨?_, ?_, ?_, ?_, fun k hk => ?_, sameRegs_of_regs (take_sameRegs s q) hr⟩
  · rw [getF_of_regs hr, take_sq_head]
  · rw [getF_of_regs hr, take_reserved]
  · rw [getF_of_regs hr, take_commands]
  · rw [ha, take_eq]
    exact tget_tput_same ..
  · rw [ha, take_eq]
    exact tget_tput_ne (h := Ne.symm hk) ..

/-- A command that waits behind the others, once its entry has been taken. -/
theorem waitsAfter_take_wait {q : Nat} {s : State} {w : Waiting} {u : State} (hu : u = (s.begin.take q).wait w) :
    waitsAfter q s { u with pending := s.pending } w := by
  subst hu
  exact ⟨tookEntry_of_take (s := s.begin) rfl rfl, rfl⟩

/-! ## A command on its pair -/

/-- A command is carried out by what it does once its entry is taken. -/
def takenBy (c : Instr) (q : BitVec 6) (e : SubEntry) (op : CmdId → State → State) : Prop := ∀ s, exec c s = run (onTake q e op) s

theorem onTake_of_takes {q : BitVec 6} {e : SubEntry} {op : CmdId → State → State} {s : State} (h : s.takes q.toNat = true) :
    onTake q e op s.begin = op (nextId q.toNat e s) (s.begin.take q.toNat) := by
  have hb : s.begin.takes q.toNat = true := h
  simp only [onTake, hb, if_true, take_cmdId]
  rfl

section
variable {c : Instr} {q : BitVec 6} {e : SubEntry} {op : CmdId → State → State} {s : State} (hc : takenBy c q e op)
include hc

/-- While its pair gives no entry, a command has no effect. -/
theorem idles_of_not_takes (h : s.takes q.toNat = false) : idles c s := by
  have hb : s.begin.takes q.toNat = false := h
  refine idles_of_run (f := onTake q e op) (hc s) ?_
  simp only [onTake, hb, Bool.false_eq_true, if_false]

/-- A command whose operation is that it waits, waits. -/
theorem completes_waits {w : Waiting} (h : s.takes q.toNat = true)
    (hop : op (nextId q.toNat e s) (s.begin.take q.toNat) = (s.begin.take q.toNat).wait w) :
    completes c s (fun t => waitsAfter q.toNat s t w) :=
  completes_of_eq (hc s) (onTake_of_takes h) (waitsAfter_take_wait hop)
end

theorem take_owner_begin (q : Nat) (e : SubEntry) (s : State) : (s.begin.take q).owner (nextId q e s).q = s.owner q := take_owner s.begin q

theorem opUnload_of_owner {q : Nat} {e : SubEntry} {s : State} (h : s.owner q = 0) :
    opUnload e (nextId q e s) (s.begin.take q) = (s.begin.take q).wait (.unload (nextId q e s) e.job.toNat e.jobEpoch.toNat) := by
  simp [opUnload, take_owner_begin, h]

theorem opUnload_of_other {q : Nat} {e : SubEntry} {s : State} (h : s.owner q ≠ 0) :
    opUnload e (nextId q e s) (s.begin.take q) = (s.begin.take q).waitDone (nextId q e s) e 4 := by
  simp [opUnload, take_owner_begin, h]

/-- Settles O10: the operation of each of these commands is one wait on the state from which the entry has been taken. -/
theorem commandsWaitForTheEdge : Obligations.CommandsWaitForTheEdge := by
  intro q e s
  refine ⟨fun h => ?_, fun h => ⟨fun ho => ?_, fun ho => ?_, ?_, ?_, ?_, ?_⟩⟩
  · simp only [List.mem_cons, List.not_mem_nil, or_false, forall_eq_or_imp, forall_eq]
    exact ⟨idles_of_not_takes (op := opUnload e) (fun _ => rfl) h, idles_of_not_takes (op := opOpen e) (fun _ => rfl) h,
      idles_of_not_takes (op := opSet e) (fun _ => rfl) h, idles_of_not_takes (op := opClose e) (fun _ => rfl) h,
      idles_of_not_takes (op := fun c s => s.waitDone c e 1) (fun _ => rfl) h⟩
  · exact completes_waits (op := opUnload e) (fun _ => rfl) h (opUnload_of_owner ho)
  · exact completes_waits (op := opUnload e) (fun _ => rfl) h (opUnload_of_other ho)
  · refine completes_waits (op := opOpen e) (fun _ => rfl) h ?_
    rw [opOpen, take_owner_begin]
    rfl
  · refine completes_waits (op := opSet e) (fun _ => rfl) h ?_
    rw [opSet, take_owner_begin]
    rfl
  · refine completes_waits (op := opClose e) (fun _ => rfl) h ?_
    rw [opClose, take_owner_begin]
  · exact completes_waits (op := fun c s => s.waitDone c e 1) (fun _ => rfl) h rfl

/-! ## A feed of a stream (R375) -/

theorem take_ctl (s : State) (q : Nat) : (s.take q).ctl = s.ctl := rfl

/-- What a feed would be answered does not depend on the pair's entry. -/
theorem take_feedStatus (s : State) (q fn i epoch count : Nat) :
    (s.begin.take q).feedStatus fn i epoch count = s.feedStatus fn i epoch count := rfl

theorem opFeed_of_behind {q : Nat} {e : SubEntry} {s : State} (h : s.ctl.waiting.any (Waiting.isFor e.stream.toNat (s.owner q)) = true) :
    opFeed e (nextId q e s) (s.begin.take q) = (s.begin.take q).wait
      (.feed (nextId q e s) (s.owner q) e.stream.toNat e.streamEpoch.toNat e.addr.toNat e.count.toNat) := by
  have hw : (s.begin.take q).ctl.waiting.any (Waiting.isFor e.stream.toNat (s.owner q)) = true := h
  simp only [opFeed, take_owner_begin, hw, if_true]

theorem opFeed_of_first {q : Nat} {e : SubEntry} {s : State} (h : s.ctl.waiting.any (Waiting.isFor e.stream.toNat (s.owner q)) = false) :
    opFeed e (nextId q e s) (s.begin.take q) =
      if s.feedStatus (s.owner q) e.stream.toNat e.streamEpoch.toNat e.count.toNat = 0 ∧ e.count ≠ 0 then
        (s.begin.take q).feedNow (nextId q e s) (s.owner q) e.stream.toNat e.streamEpoch.toNat e.addr.toNat e.count.toNat
      else (s.begin.take q).waitDone (nextId q e s) e (s.feedStatus (s.owner q) e.stream.toNat e.streamEpoch.toNat e.count.toNat) := by
  have hw : (s.begin.take q).ctl.waiting.any (Waiting.isFor e.stream.toNat (s.owner q)) = false := h
  simp only [opFeed, take_owner_begin, hw, Bool.false_eq_true, if_false, take_feedStatus]

/-- A feed of a live stream of its own function, with room in the queue, is not refused. -/
theorem feedStatus_of_live {s : State} {fn i epoch count : Nat} (hl : s.live i epoch = true) (hf : (s.stream i).fn = fn)
    (he : (s.stream i).ended = false) (hg : (s.stream i).genEnd ≠ 2) (hc : count ≤ 1048576) (hr : (s.stream i).feeds.length < 16) :
    s.feedStatus fn i epoch count = 0 := by
  have h1 : ¬ 1048576 < count := by omega
  have h2 : ¬ 16 ≤ (s.stream i).feeds.length := by omega
  simp [State.feedStatus, hl, hf, he, hg, h1, h2]

theorem feedNow_of_status {s : State} {c : CmdId} {fn i epoch addr count : Nat} (h : s.feedStatus fn i epoch count = 0) (hc : count ≠ 0) :
    s.feedNow c fn i epoch addr count =
      s.modStream i (fun t => { t with feeds := t.feeds ++ [{ cmd := c, addr := addr, count := count }] }) := by
  simp only [State.feedNow, h, hc, ne_eq, not_false_eq_true, and_self, if_true]

/-- Settles O11: a feed waits behind a command of its stream, or completes at the edge where its status or count says so, or joins the
stream's queue. -/
theorem aFeedJoinsItsStreamsQueue : Obligations.AFeedJoinsItsStreamsQueue := by
  intro q e s
  have hc : takenBy (.feedTokens q e) q e (opFeed e) := fun _ => rfl
  refine ⟨idles_of_not_takes hc, fun h hw => completes_waits hc h (opFeed_of_behind hw), ?_, ?_⟩
  · rintro st h hw rfl hst
    refine completes_waits hc h ((opFeed_of_first hw).trans (if_neg ?_))
    rintro ⟨h0, hn⟩
    rcases hst with hst | hst
    · exact hst h0
    · exact hn (BitVec.eq_of_toNat_eq hst)
  · intro h hw hl hf he hg hc1 hc2 hr
    have hst := feedStatus_of_live hl hf he hg hc2 hr
    have hn : e.count.toNat ≠ 0 := by omega
    have hne : e.count ≠ 0 := fun h0 => hn (congrArg BitVec.toNat h0)
    have hop := (opFeed_of_first hw).trans (if_pos ⟨hst, hne⟩)
    rw [feedNow_of_status (by exact hst) hn] at hop
    refine completes_of_eq (hc s) ((onTake_of_takes h).trans hop) ⟨?_, fun i hi => ?_, tookEntry_of_take (s := s.begin) rfl rfl, rfl⟩
    · exact stream_setStream_same ..
    · exact stream_setStream_ne (h := Ne.symm hi) ..

end Sys2Proof.Machine
end

section
/-! SUPPORT. What completing a command changes, and O12: a loaded program is staged. -/

namespace Sys2Proof.Machine

/-! ## A fold keeps what each of its steps keeps -/

theorem foldl_keeps {α β : Type} {f : State → α → State} (p : State → β) (hf : ∀ s a, p (f s a) = p s) (l : List α) (s : State) :
    p (l.foldl f s) = p s := by
  induction l generalizing s with
  | nil => rfl
  | cons a l ih => rw [List.foldl_cons, ih, hf]

theorem foldl_rel {α : Type} {f : State → α → State} {r : State → State → Prop} (hrefl : ∀ s, r s s)
    (htrans : ∀ s t u, r s t → r t u → r s u) (hf : ∀ s a, r s (f s a)) (l : List α) (s : State) : r s (l.foldl f s) := by
  induction l generalizing s with
  | nil => exact hrefl s
  | cons a l ih => exact htrans _ _ _ (hf s a) (ih (f s a))

/-! ## The completion path: registers, the completion queues in the host's memory, interrupts (R367, R381) -/

/-- t differs from s at most in what the writing and the signalling of completion entries changes. -/
def cqPath (s t : State) : Prop :=
  ∃ regs hostMem heldCq wroteCq msix out, t = { s with
    regs := regs, hostMem := hostMem, heldCq := heldCq, wroteCq := wroteCq, msix := msix, out := out }

theorem cqPath_refl (s : State) : cqPath s s := ⟨_, _, _, _, _, _, rfl⟩

theorem cqPath_trans (s t u : State) (h : cqPath s t) (h' : cqPath t u) : cqPath s u := by
  obtain ⟨r, m, hc, w, x, o, rfl⟩ := h
  obtain ⟨r', m', hc', w', x', o', rfl⟩ := h'
  exact ⟨r', m', hc', w', x', o', rfl⟩

section
variable {s t : State} (h : cqPath s t)
include h

theorem cqPath.ctl : t.ctl = s.ctl := by obtain ⟨_, _, _, _, _, _, rfl⟩ := h; rfl
theorem cqPath.prog (k : Nat) : t.prog k = s.prog k := by obtain ⟨_, _, _, _, _, _, rfl⟩ := h; rfl
theorem cqPath.tick : t.tick = s.tick := by obtain ⟨_, _, _, _, _, _, rfl⟩ := h; rfl
theorem cqPath.devMem : t.devMem = s.devMem := by obtain ⟨_, _, _, _, _, _, rfl⟩ := h; rfl
theorem cqPath.flash : t.flash = s.flash := by obtain ⟨_, _, _, _, _, _, rfl⟩ := h; rfl
theorem cqPath.otp : t.otp = s.otp := by obtain ⟨_, _, _, _, _, _, rfl⟩ := h; rfl
theorem cqPath.rcvBuf : t.rcvBuf = s.rcvBuf := by obtain ⟨_, _, _, _, _, _, rfl⟩ := h; rfl

/-- What a command leaves is the state but for the queue. -/
theorem cqPath.pending : cqPath s { t with pending := s.pending } := by
  obtain ⟨r, m, hc, w, x, o, rfl⟩ := h
  exact ⟨r, m, hc, w, x, o, rfl⟩
end

theorem cqPath_setReg (s : State) (r : Reg) (i : Nat) (w : Word) : cqPath s (s.setReg r i w) := ⟨_, _, _, _, _, _, rfl⟩

theorem cqPath_putF (s : State) (f : Fld) (i v : Nat) : cqPath s (s.putF f i v) := cqPath_setReg s f.reg i _

theorem cqPath_unreserve (s : State) (q n : Nat) : cqPath s (s.unreserve q n) := cqPath_putF ..

theorem cqPath_ite {s t u : State} {c : Prop} [Decidable c] (h : cqPath s t) (h' : cqPath s u) : cqPath s (if c then t else u) := by
  split
  · exact h
  · exact h'

theorem cqPath_store (s : State) (m : Memory) (w : List Nat) : cqPath s { s with hostMem := m, wroteCq := w } := ⟨_, _, _, _, _, _, rfl⟩

theorem cqPath_putCq (s : State) (q : Nat) (b : List Byte) : cqPath s (s.putCq q b) := by
  have h : ∀ m w v, cqPath s (({ s.unreserve q 1 with hostMem := m, wroteCq := w } : State).putF F.hstQstat_cq_tail q v) := fun m w v =>
    cqPath_trans _ _ _ (cqPath_trans _ _ _ (cqPath_unreserve s q 1) (cqPath_store _ m w)) (cqPath_putF ..)
  exact cqPath_ite (cqPath_trans _ _ _ (h _ _ _) (cqPath_putF ..)) (h _ _ _)

theorem cqPath_writeCq (s : State) (q : Nat) (e : Cqe) : cqPath s (s.writeCq q e) := by
  simp only [State.writeCq]
  split
  · exact ⟨_, _, _, _, _, _, rfl⟩
  · split
    · exact cqPath_putCq ..
    · exact cqPath_unreserve ..

theorem cqPath_complete (s : State) (c : CmdId) (st : Nat) (e : Cqe) : cqPath s (s.complete c st e) := cqPath_writeCq ..

theorem cqPath_signal (s : State) (fn vec : Nat) : cqPath s (s.signal fn vec) := by
  simp only [State.signal]
  split
  · exact ⟨_, _, _, _, _, _, rfl⟩
  · exact ⟨_, _, _, _, _, _, rfl⟩

theorem cqPath_signalCq (s : State) (q : Nat) : cqPath s (s.signalCq q) :=
  cqPath_trans _ _ _ ⟨_, _, _, _, _, _, rfl⟩ (cqPath_signal _ _ _)

/-- A load ends with its completion entry, signalled at once. -/
theorem cqPath_finish (s : State) (c : CmdId) (st : Nat) (e : Cqe) (q : Nat) : cqPath s ((s.complete c st e).signalCq q) :=
  cqPath_trans _ _ _ (cqPath_complete ..) (cqPath_signalCq ..)

/-! ## The branches of a load (R65, R66, R236, R372) -/

/-- What a load command does on a state from which its entry has been taken. -/
theorem execLoad_taken {q : BitVec 6} {e : SubEntry} {s u : State} (h : s.takesLoad q.toNat = true)
    (hu : u = s.begin.take q.toNat) : exec (.loadProgram q e) s = .next { u.loadNow e (nextId q.toNat e s) true with pending := s.pending } := by
  have hexec : exec (.loadProgram q e) s =
      run (fun s => if s.takesLoad q.toNat then (let s := s.take q.toNat; opLoad e (s.cmdId q.toNat e) s) else s) s := rfl
  have hb : s.begin.takesLoad q.toNat = true := h
  rw [hexec, run_eq, if_pos hb, hu]
  simp only [opLoad, take_cmdId]
  rfl

/-- What a load meets that is refused or fails a check. -/
def State.loadFails (u : State) (e : SubEntry) : Prop :=
  u.freeJob = none ∨ u.rangeBad e.arg0.toNat e.arg1.toNat = true ∨ u.rangeBad e.arg2.toNat e.arg3.toNat = true ∨
  (u.imageKept e.arg0.toNat e.arg1.toNat = false ∧ u.imageKept e.arg2.toNat e.arg3.toNat = false ∧
    u.readImage e.arg0.toNat e.arg1.toNat = (u, true) ∧ u.readImage e.arg2.toNat e.arg3.toNat = (u, true) ∧
    (loadChecks u (u.readDev e.arg0.toNat e.arg1.toNat) (u.readDev e.arg2.toNat e.arg3.toNat) e.arg1.toNat e.arg3.toNat).isSome = true)

/-- A load that is refused or fails a check ends with a completion entry and nothing else. -/
theorem loadNow_of_fails {u : State} {e : SubEntry} {c : CmdId} (h : u.owner c.q ≠ 0 ∨ u.loadFails e) : cqPath u (u.loadNow e c true) := by
  unfold State.loadNow
  by_cases ho : u.owner c.q = 0
  · simp only [ho, bne_self_eq_false, Bool.false_eq_true, if_false]
    rcases h with h | h
    · exact absurd ho h
    cases hj : u.freeJob with
    | none => exact cqPath_finish ..
    | some j =>
      simp only []
      rcases h with h | h | h | ⟨k1, k2, r1, r2, hl⟩
      · rw [hj] at h; cases h
      · simp only [h, Bool.true_or, if_true]
        exact cqPath_finish ..
      · simp only [h, Bool.or_true, if_true]
        exact cqPath_finish ..
      · obtain ⟨⟨code, off⟩, hl⟩ := Option.isSome_iff_exists.1 hl
        simp only [k1, k2, r1, r2, hl, Bool.or_self, Bool.and_false, Bool.and_self, Bool.not_true, Bool.false_eq_true, if_false]
        split <;> exact cqPath_finish ..
  · simp only [bne_iff_ne.2 ho, if_true]
    exact cqPath_finish ..

section
variable {u : State} {e : SubEntry} {c : CmdId} {j : Nat} (ho : u.owner c.q = 0) (hj : u.freeJob = some j)
  (b1 : u.rangeBad e.arg0.toNat e.arg1.toNat = false) (b2 : u.rangeBad e.arg2.toNat e.arg3.toNat = false)
include ho hj b1 b2

/-- A load whose images are kept from being read waits. -/
theorem loadNow_of_kept (h : u.imageKept e.arg0.toNat e.arg1.toNat = true ∨ u.imageKept e.arg2.toNat e.arg3.toNat = true) :
    u.loadNow e c true = { u with ctl := { u.ctl with loads := u.ctl.loads ++ [(e, c)] } } := by
  have hk : (u.imageKept e.arg0.toNat e.arg1.toNat || u.imageKept e.arg2.toNat e.arg3.toNat) = true := by simpa only [Bool.or_eq_true] using h
  simp only [State.loadNow, ho, hj, b1, b2, hk, bne_self_eq_false, Bool.false_eq_true, Bool.or_self, Bool.true_and, if_false, if_true]

/-- The program that a load stages. -/
def State.stagedProgram (u : State) (e : SubEntry) (j : Nat) : Program where
  state := .staged
  epoch := ((u.prog j).epoch + 1) % 256
  jAddr := e.arg0.toNat
  jLen := e.arg1.toNat
  sAddr := e.arg2.toNat
  sLen := e.arg3.toNat
  fmask := BitVec.ofNat 64 (leNat (u.block e 8))
  img := parseImage (u.readDev e.arg0.toNat e.arg1.toNat) (u.readDev e.arg2.toNat e.arg3.toNat)

/-- A load that passes stages its program, looks at the narrowed links, and completes. -/
theorem loadNow_of_passes (k1 : u.imageKept e.arg0.toNat e.arg1.toNat = false) (k2 : u.imageKept e.arg2.toNat e.arg3.toNat = false)
    (r1 : u.readImage e.arg0.toNat e.arg1.toNat = (u, true)) (r2 : u.readImage e.arg2.toNat e.arg3.toNat = (u, true))
    (hl : loadChecks u (u.readDev e.arg0.toNat e.arg1.toNat) (u.readDev e.arg2.toNat e.arg3.toNat) e.arg1.toNat e.arg3.toNat = none) :
    cqPath (u.setProg j (u.stagedProgram e j)).checkNarrowed (u.loadNow e c true) := by
  unfold State.loadNow
  simp only [ho, hj, b1, b2, k1, k2, r1, r2, hl, bne_self_eq_false, Bool.or_self, Bool.and_false, Bool.and_self, Bool.not_true,
    Bool.false_eq_true, if_false]
  exact cqPath_finish ..
end

theorem checkNarrowed_frame (s : State) : ∃ links, s.checkNarrowed = { s with links := links } := by
  refine foldl_rel (r := fun s t => ∃ links, t = { s with links := links }) (fun s => ⟨s.links, rfl⟩) ?_ ?_ _ s
  · rintro s t u ⟨l, rfl⟩ ⟨l', rfl⟩
    exact ⟨l', rfl⟩
  · intro s a
    split
    · exact ⟨_, rfl⟩
    · exact ⟨s.links, rfl⟩

/-- Settles O12, branch by branch of the load. -/
theorem aLoadedProgramIsStaged : Obligations.ALoadedProgramIsStaged := by
  refine ⟨fun q e s h => ?_, ?_, ?_⟩
  · have hb : s.begin.takesLoad q.toNat = false := h
    refine idles_of_run
      (f := fun s => if s.takesLoad q.toNat then (let s := s.take q.toNat; opLoad e (s.cmdId q.toNat e) s) else s) rfl ?_
    simp only [hb, Bool.false_eq_true, if_false]
  · intro q e s u ht hu hw
    have hc : cqPath u (u.loadNow e (nextId q.toNat e s) true) := by
      refine loadNow_of_fails (hw.imp_left (fun ho => ?_))
      rw [hu]
      exact (take_owner_begin q.toNat e s).trans_ne ho
    refine ⟨_, execLoad_taken ht hu, hc.ctl.trans ?_, hc.devMem.trans ?_, hc.flash.trans ?_, hc.otp.trans ?_, hc.rcvBuf.trans ?_⟩ <;>
      · rw [hu]
        rfl
  · intro q e s u j ht ho hu hj b1 b2
    have huo : u.owner (nextId q.toNat e s).q = 0 := by rw [hu]; exact (take_owner_begin q.toNat e s).trans ho
    refine ⟨fun hk => ?_, fun k1 k2 r1 r2 hl => ?_⟩
    · refine ⟨_, execLoad_taken ht hu, ?_⟩
      rw [loadNow_of_kept huo hj b1 b2 hk, hu]
      exact ⟨rfl, tookEntry_of_take (s := s.begin) rfl rfl, rfl, rfl, rfl, rfl, rfl⟩
    · have hc := loadNow_of_passes (c := nextId q.toNat e s) huo hj b1 b2 k1 k2 r1 r2 hl
      obtain ⟨links, hn⟩ := checkNarrowed_frame (u.setProg j (u.stagedProgram e j))
      rw [hn] at hc
      have hp : ∀ k, ({ u.loadNow e (nextId q.toNat e s) true with pending := s.pending } : State).prog k =
          (u.setProg j (u.stagedProgram e j)).prog k := hc.prog
      refine ⟨_, execLoad_taken ht hu, ?_⟩
      simp only [hp, prog_setProg_same]
      refine ⟨rfl, ?_, rfl, rfl, rfl, rfl, ?_, fun k hk => ?_, hc.devMem.trans ?_, hc.flash.trans ?_, hc.otp.trans ?_,
        hc.rcvBuf.trans ?_, (congrArg Ctl.streams hc.ctl).trans ?_, (congrArg Ctl.sheafs hc.ctl).trans ?_,
        (congrArg Ctl.waiting hc.ctl).trans ?_⟩
      case refine_3 => rw [prog_setProg_ne (h := Ne.symm hk), hu]; rfl
      all_goals rw [hu]; rfl

end Sys2Proof.Machine
end

section
/-! SUPPORT. The end of a stream, and O14: host memory errors are counted. -/

namespace Sys2Proof.Machine

/-! ## A stream that fails (R89, R376, R379) -/

theorem cqPath.stream {s t : State} (h : cqPath s t) (i : Nat) : t.stream i = s.stream i := by obtain ⟨_, _, _, _, _, _, rfl⟩ := h; rfl

theorem cqPath_streamEntry (s : State) (i : Nat) (e : Cqe) : cqPath s (s.streamEntry i e) := by
  simp only [State.streamEntry]
  split
  · exact cqPath_unreserve ..
  · exact cqPath_writeCq ..

theorem cqPath_endFeed (s : State) (i : Nat) (f : Feed) (st : Nat) : cqPath s (s.endFeed i f st) := by
  simp only [State.endFeed]
  split
  · exact cqPath_unreserve ..
  · exact cqPath_complete ..

theorem dropFeeds_stream (s : State) (i : Nat) : (s.dropFeeds i).stream i = { s.stream i with feeds := [] } := by
  have h := foldl_rel cqPath_refl cqPath_trans (fun s f => cqPath_endFeed s i f 9) (s.stream i).feeds s
  exact (stream_setStream_same ..).trans (congrArg (fun t : Stream => { t with feeds := [] }) (h.stream i))

theorem dropFeeds_devMem (s : State) (i : Nat) : (s.dropFeeds i).devMem = s.devMem :=
  (foldl_rel cqPath_refl cqPath_trans (fun s f => cqPath_endFeed s i f 9) (s.stream i).feeds s).devMem

section
variable {s : State} {i st : Nat} (ho : (s.stream i).isOpen = true) (he : (s.stream i).ended = false)
include ho he

/-- The end of a stream: its entry on the completion path, from the state with the token reservation given back. -/
theorem endStream_of_open : ∃ u, cqPath (s.dropTokenReservation i) u ∧
    s.endStream i st = u.modStream i (fun t => { t with failed := true, ended := true, endReserved := false, rows := [], emit := [] }) := by
  refine ⟨if (s.stream i).endReserved then
      (s.dropTokenReservation i).streamEntry i { (s.dropTokenReservation i).streamCqe i with
        kind := 3, status := st, sqHead := (s.dropTokenReservation i).getF F.hstQstat_sq_head (s.stream i).cq }
    else s.dropTokenReservation i, cqPath_ite (cqPath_streamEntry ..) (cqPath_refl _), ?_⟩
  simp only [State.endStream, ho, he, Bool.not_true, Bool.or_self, Bool.false_eq_true, if_false]

theorem endStream_stream : ((s.endStream i st).stream i).failed = true ∧ ((s.endStream i st).stream i).ended = true ∧
    ((s.endStream i st).stream i).rows = [] := by
  obtain ⟨u, -, hu⟩ := endStream_of_open (st := st) ho he
  rw [hu, State.modStream, stream_setStream_same]
  exact ⟨rfl, rfl, rfl⟩

theorem endStream_devMem : (s.endStream i st).devMem = s.devMem := by
  obtain ⟨u, hc, hu⟩ := endStream_of_open (st := st) ho he
  rw [hu]
  refine hc.devMem.trans ?_
  simp only [State.dropTokenReservation]
  split <;> rfl

theorem failStream_signalled : s.failStream i st true = ((s.endStream i st).dropFeeds i).signalCq (s.stream i).cq := by
  simp only [State.failStream, ho, he, Bool.not_true, Bool.or_self, Bool.false_eq_true, if_false, if_true]

theorem failStream_stream : ((s.failStream i st true).stream i).failed = true ∧ ((s.failStream i st true).stream i).ended = true ∧
    ((s.failStream i st true).stream i).feeds = [] ∧ ((s.failStream i st true).stream i).rows = [] := by
  obtain ⟨h1, h2, h3⟩ := endStream_stream (st := st) ho he
  rw [failStream_signalled ho he, (cqPath_signalCq _ _).stream, dropFeeds_stream]
  exact ⟨h1, h2, rfl, h3⟩

theorem failStream_devMem : (s.failStream i st true).devMem = s.devMem := by
  rw [failStream_signalled ho he, (cqPath_signalCq _ _).devMem, dropFeeds_devMem, endStream_devMem ho he]
end

/-! ## A command whose buffer meets an error -/

/-- The count of host memory errors is not one of the registers by which a pair gives entries. -/
theorem takes_bump_host_mem (s : State) (q : Nat) : (s.bump F.hstErr_host_mem 0).takes q = s.takes q := by
  have hf : ∀ (f : Fld) (i : Nat), F.hstErr_host_mem.reg.off / 8 ≠ f.reg.off / 8 → (s.bump F.hstErr_host_mem 0).getF f i = s.getF f i :=
    fun f i h => getF_bump_off s _ f 0 i 1 h
  simp (disch := decide) only [State.takes, State.takesLoad, State.pairOn, State.pairErr, State.cqRoom, State.cqUsed, State.cqSize,
    State.ready, State.onF, hf]
  rfl

theorem nextId_bump_host_mem (s : State) (q : Nat) (e : SubEntry) : nextId q e (s.bump F.hstErr_host_mem 0) = nextId q e s := by
  simp (disch := decide) only [nextId, State.sqSize, getF_bump_off]

theorem take_getF_host_mem (s : State) (q : Nat) : (s.take q).getF F.hstErr_host_mem = s.getF F.hstErr_host_mem := by
  simp (disch := decide) only [take_getF, State.takeRegs, State.reserve, getF_bump_off, getF_putF_off]

theorem opHostMemoryError_commandBuffer {q : BitVec 6} {e : SubEntry} {cause : BitVec 3} {s : State} (ht : s.takes q.toNat = true)
    (he : e.opcode ≠ 1) : opHostMemoryError (.commandBuffer q e) cause s.begin =
      ((s.begin.bump F.hstErr_host_mem 0).take q.toNat).waitDone (nextId q.toNat e s) e 7 := by
  have hb : (s.begin.bump F.hstErr_host_mem 0).takes q.toNat = true := (takes_bump_host_mem s.begin _).trans ht
  simp only [opHostMemoryError, he, if_false, onTake, hb, if_true, take_cmdId, nextId_bump_host_mem]
  rfl

/-- Settles O14, one clause for each place that meets the error. -/
theorem hostMemoryErrorsAreCounted : Obligations.HostMemoryErrorsAreCounted := by
  intro cause s
  refine ⟨fun q hq => ?_, fun q e ht he => ?_, fun i ho he => ?_⟩
  · have hb : (s.begin.bump F.hstErr_host_mem 0).pairOn q.toNat = true := by
      rw [State.pairOn, State.onF, getF_bump_off _ _ _ _ _ _ (by decide)]
      exact hq
    have hop : opHostMemoryError (.submissionEntry q) cause s.begin =
        (s.begin.bump F.hstErr_host_mem 0).putF F.hstQstat_error q.toNat 3 := by
      simp only [opHostMemoryError, hb, if_true]
      rfl
    refine completes_of_eq (f := opHostMemoryError (.submissionEntry q) cause) rfl hop ⟨?_, ?_, onlyRegs_of_putsRegs ?_⟩
    · exact getF_putF_same _ _ _ _ (by decide)
    · exact (getF_putF_off _ _ _ _ _ _ (by decide)).trans (getF_bump _ _ _ _ (by decide))
    · exact ((putsRegs_refl _ _).bump F.hstErr_host_mem 0 1 (by simp [F.hstErr_host_mem])).putF _ _ _ (by simp [F.hstQstat_error])
  · refine completes_of_eq (f := opHostMemoryError (.commandBuffer q e) cause) rfl (opHostMemoryError_commandBuffer ht he)
      ⟨rfl, ?_, rfl, rfl, rfl, rfl, rfl⟩
    exact (take_getF_host_mem _ _).trans (getF_bump _ _ _ _ (by decide))
  · obtain ⟨h1, h2, h3, h4⟩ := failStream_stream (s := s.begin.bump F.hstErr_host_mem 0) (st := 0x1A) ho he
    refine completes_of_eq (f := opHostMemoryError (.feedTokens i) cause) rfl rfl ⟨h1, h2, h3, h4, ?_⟩
    exact failStream_devMem (s := s.begin.bump F.hstErr_host_mem 0) (st := 0x1A) ho he

end Sys2Proof.Machine
end

section
/-! SUPPORT. What raising an event changes, the stop of a Chute channel, and O18: a host bus error stops every channel. -/

namespace Sys2Proof.Machine

/-! ## Fields that a change of other register words leaves -/

theorem getF_of_sameRegs {ks : List Nat} {s t : State} (h : sameRegs ks s t) {f : Fld} {i : Nat} (hk : regKey f.reg i ∉ ks) :
    t.getF f i = s.getF f i := by
  simp only [State.getF, State.reg, h _ _ hk]

theorem onF_of_getF {s t : State} {f : Fld} {i : Nat} (h : t.getF f i = s.getF f i) : t.onF f i = s.onF f i := by
  simp only [State.onF, h]

/-! ## The event path (R37, R38) -/

/-- u is s but for the register words with the keys ks and what the event path holds. -/
def eventPath (ks : List Nat) (s u : State) : Prop :=
  (∃ regs hostMem msix i3c stdBuf logPend out, u = { s with
    regs := regs, hostMem := hostMem, msix := msix, i3c := i3c, stdBuf := stdBuf, logPend := logPend, out := out }) ∧ sameRegs ks s u

theorem eventPath_refl (ks : List Nat) (s : State) : eventPath ks s s := ⟨⟨_, _, _, _, _, _, _, rfl⟩, sameRegs_refl ks s⟩

theorem eventPath_trans {ks : List Nat} (s t u : State) (h : eventPath ks s t) (h' : eventPath ks t u) : eventPath ks s u := by
  obtain ⟨⟨r, m, x, i, b, l, o, rfl⟩, hr⟩ := h
  obtain ⟨⟨r', m', x', i', b', l', o', rfl⟩, hr'⟩ := h'
  exact ⟨⟨r', m', x', i', b', l', o', rfl⟩, fun d k hk => (hr' d k hk).trans (hr d k hk)⟩

section
variable {ks : List Nat} {s u : State}

/-- A change of what the event path holds besides registers. -/
theorem eventPath_of_regs (h : ∃ hostMem msix i3c stdBuf logPend out, u = { s with
    hostMem := hostMem, msix := msix, i3c := i3c, stdBuf := stdBuf, logPend := logPend, out := out }) : eventPath ks s u := by
  obtain ⟨m, x, i, b, l, o, rfl⟩ := h
  exact ⟨⟨s.regs, m, x, i, b, l, o, rfl⟩, fun _ _ _ => rfl⟩

theorem eventPath_putF (f : Fld) (i v : Nat) (hk : regKey f.reg i ∈ ks) : eventPath ks s (s.putF f i v) :=
  ⟨⟨_, _, _, _, _, _, _, rfl⟩, sameRegs_putF f i v (sameRegs_refl ks s) hk⟩

theorem eventPath_of_putsRegs (h : putsRegs ks s u) : eventPath ks s u :=
  ⟨⟨_, _, _, _, _, _, _, h.1⟩, h.2⟩

theorem eventPath_ite {v : State} {c : Prop} [Decidable c] (h : eventPath ks s u) (h' : eventPath ks s v) :
    eventPath ks s (if c then u else v) := by
  split
  · exact h
  · exact h'

theorem eventPath_signal (fn vec : Nat) : eventPath ks s (s.signal fn vec) := by
  simp only [State.signal]
  split
  · exact eventPath_of_regs ⟨_, _, _, _, _, _, rfl⟩
  · exact eventPath_of_regs ⟨_, _, _, _, _, _, rfl⟩

theorem eventPath_alert (cls : Nat) (b : List Byte) : eventPath ks s (s.alert cls b) := eventPath_of_regs ⟨_, _, _, _, _, _, rfl⟩

theorem eventPath_toHostQueue (e : Event) (hq : regKey R.hstEvqStat 0 ∈ ks) : eventPath ks s (s.toHostQueue e) := by
  refine eventPath_ite (eventPath_refl ks s) (eventPath_ite (eventPath_putF _ _ _ hq) ?_)
  refine foldl_rel (eventPath_refl ks) eventPath_trans (fun s r => ?_) _ s
  exact eventPath_trans _ _ _ (eventPath_of_regs (u := { s with
    hostMem := mwrite s.hostMem (s.getF F.hstEvqBase_addr + 32 * s.getF F.hstEvqStat_tail) r }) ⟨_, _, _, _, _, _, rfl⟩)
    (eventPath_putF _ _ _ hq)

theorem eventPath_steadingTakes (e : Event) (hb : regKey R.stdBootRet 0 ∈ ks) : eventPath ks s (s.steadingTakes e) := by
  have h1 : ∀ c : EvClass, eventPath ks s (if bitOf (s.getF F.stdEvtCfg_msix) (evBit c) then s.signal 0 0 else s) := fun c =>
    eventPath_ite (eventPath_signal ..) (eventPath_refl ks s)
  have h2 : ∀ (c : EvClass) (s : State), eventPath ks s (if bitOf (s.getF F.stdEvtCfg_i3c) (evBit c) then
      (chunksOf 32 2 e.bytes).foldl (fun s r => s.alert (2 ^ evBit c) r) s else s) := fun c s =>
    eventPath_ite (foldl_rel (eventPath_refl ks) eventPath_trans (fun s r => eventPath_alert _ r) _ s) (eventPath_refl ks s)
  have h3 : ∀ (s : State), eventPath ks s
      (if 512 < (s.logPend.foldl (fun n x => n + x.records) 0) + e.records then s.bump F.stdBootRet_log_lost 0 e.records
      else { s with logPend := s.logPend ++ [e] }) := fun s =>
    eventPath_ite (eventPath_putF _ _ _ hb) (eventPath_of_regs ⟨_, _, _, _, _, _, rfl⟩)
  have h12 := eventPath_trans _ _ _ (h1 (evClass e.code).1) (h2 (evClass e.code).1 _)
  exact eventPath_ite (eventPath_trans _ _ _ h12 (h3 _)) h12

/-- Raising an event writes the tail and the losses of the event queue and the losses of the log, and no other register. -/
theorem eventPath_raise (code cls idx : Nat) (arg : Word) (payload : List Byte)
    (hq : regKey R.hstEvqStat 0 ∈ ks) (hb : regKey R.stdBootRet 0 ∈ ks) : eventPath ks s (s.raise code cls idx arg payload) :=
  eventPath_ite (eventPath_trans _ _ _ (eventPath_toHostQueue _ hq) (eventPath_of_regs ⟨_, _, _, _, _, _, rfl⟩))
    (eventPath_trans _ _ _ (eventPath_toHostQueue _ hq) (eventPath_steadingTakes _ hb))

/-- What a command leaves whose operation changes registers and raises events. -/
theorem afterEvents_of_eventPath (h : eventPath (ks ++ [regKey R.hstEvqStat 0, regKey R.stdBootRet 0]) s.begin u) :
    afterEvents ks s { u with pending := s.pending } := by
  obtain ⟨⟨r, m, x, i, b, l, o, rfl⟩, hr⟩ := h
  exact ⟨sameRegs_of_regs hr rfl, rfl⟩
end

/-- A field of neither register of the event path reads the same after an event. -/
theorem getF_raise (s : State) (code cls idx : Nat) (arg : Word) (payload : List Byte) (f : Fld) (i : Nat)
    (hq : f.reg.off / 8 ≠ R.hstEvqStat.off / 8) (hb : f.reg.off / 8 ≠ R.stdBootRet.off / 8) :
    (s.raise code cls idx arg payload).getF f i = s.getF f i := by
  have h := eventPath_raise (ks := [regKey R.hstEvqStat 0, regKey R.stdBootRet 0]) (s := s) code cls idx arg payload (by simp) (by simp)
  refine getF_of_sameRegs h.2 ?_
  simp [regKey_ne_of_off _ _ i 0 hq, regKey_ne_of_off _ _ i 0 hb]

theorem raise_devMem (s : State) (code cls idx : Nat) (arg : Word) (payload : List Byte) :
    (s.raise code cls idx arg payload).devMem = s.devMem := by
  obtain ⟨⟨r, m, x, i, b, l, o, h⟩, -⟩ := eventPath_raise (ks := [regKey R.hstEvqStat 0, regKey R.stdBootRet 0]) (s := s)
    code cls idx arg payload (by simp) (by simp)
  rw [h]

/-! ## The stop of a Chute channel (R386) -/

/-- The registers that a stop writes. -/
def stopKeys (ch : Nat) : List Nat := [regKey R.chuStat ch, regKey R.chuCtl ch, regKey R.chuHead ch]

/-- A stop writes its channel's registers and the channel's record, and nothing else. -/
theorem chuteStop_frame (s : State) (ch st : Nat) :
    s.chuteStop ch st = { s with
      regs := (s.chuteStop ch st).regs
      chutes := tput {} s.chutes ch { s.chute ch with fetchDue := false, first := false } } := rfl

theorem chuteStop_sameRegs (s : State) (ch st : Nat) : sameRegs (stopKeys ch) s (s.chuteStop ch st) := by
  have h : putsRegs (stopKeys ch) s (s.putHead ch (s.chuteAt ch)) :=
    ((putsRegs_refl _ s).putF F.chuHead_addr ch _ (by simp [F.chuHead_addr, stopKeys])).putF F.chuHead_dev ch _
      (by simp [F.chuHead_dev, stopKeys])
  have h' := sameRegs_of_regs (u := (s.putHead ch (s.chuteAt ch)).setChute ch { s.chute ch with fetchDue := false, first := false }) h.2 rfl
  exact sameRegs_putF F.chuCtl_go ch 0 (sameRegs_putF F.chuStat_status ch st (sameRegs_putF F.chuStat_running ch 0 h'
    (by simp [F.chuStat_running, stopKeys])) (by simp [F.chuStat_status, stopKeys])) (by simp [F.chuCtl_go, stopKeys])

/-- A field of another register than the three that a stop writes. -/
theorem getF_chuteStop_off (s : State) (ch st : Nat) (f : Fld) (i : Nat) (h1 : f.reg.off / 8 ≠ R.chuStat.off / 8)
    (h2 : f.reg.off / 8 ≠ R.chuCtl.off / 8) (h3 : f.reg.off / 8 ≠ R.chuHead.off / 8) : (s.chuteStop ch st).getF f i = s.getF f i := by
  refine getF_of_sameRegs (chuteStop_sameRegs s ch st) ?_
  simp [stopKeys, regKey_ne_of_off _ _ i ch h1, regKey_ne_of_off _ _ i ch h2, regKey_ne_of_off _ _ i ch h3]

/-- A field of another channel. -/
theorem getF_chuteStop_ne (s : State) {ch c : Nat} (st : Nat) (f : Fld) (hc : c ≠ ch) (h : c < 65536) (h' : ch < 65536)
    (hf : f.reg ∈ [R.chuStat, R.chuCtl, R.chuHead]) : (s.chuteStop ch st).getF f c = s.getF f c := by
  refine getF_of_sameRegs (chuteStop_sameRegs s ch st) ?_
  have hk : ∀ r ∈ [R.chuStat, R.chuCtl, R.chuHead], ∀ q ∈ [R.chuStat, R.chuCtl, R.chuHead], regKey r c ≠ regKey q ch := by
    intro r hr q hq
    by_cases hrq : r = q
    · exact hrq ▸ regKey_ne_of_inst r c ch hc h h'
    · refine regKey_ne_of_off _ _ _ _ ?_
      revert hrq
      revert r q
      decide
  simp only [stopKeys, List.mem_cons, List.not_mem_nil, or_false, not_or]
  exact ⟨hk _ hf _ (by simp), hk _ hf _ (by simp), hk _ hf _ (by simp)⟩

theorem chuteStop_status (s : State) (ch st : Nat) : (s.chuteStop ch st).getF F.chuStat_status ch = st % 256 := by
  refine (getF_putF_off _ _ _ _ _ _ (by decide)).trans (getF_putF_same _ _ _ _ (by decide))

theorem chuteStop_running (s : State) (ch st : Nat) : (s.chuteStop ch st).chuteRuns ch = false := by
  have h : (s.chuteStop ch st).getF F.chuStat_running ch = 0 :=
    (getF_putF_off _ _ _ _ _ _ (by decide)).trans ((getF_putF_apart _ _ _ _ _ (by decide) (by decide)).trans
      (getF_putF_same _ _ _ _ (by decide)))
  simp [State.chuteRuns, State.onF, h]

theorem chuteStop_go (s : State) (ch st : Nat) : (s.chuteStop ch st).onF F.chuCtl_go ch = false := by
  have h : (s.chuteStop ch st).getF F.chuCtl_go ch = 0 := getF_putF_same _ _ _ _ (by decide)
  simp [State.onF, h]

theorem chuteStop_head_addr (s : State) (ch st : Nat) : (s.chuteStop ch st).getF F.chuHead_addr ch = (s.chute ch).cur.1 % 2 ^ 63 := by
  have h : (s.chuteStop ch st).getF F.chuHead_addr ch = (s.putHead ch (s.chuteAt ch)).getF F.chuHead_addr ch :=
    (getF_putF_off _ _ _ _ _ _ (by decide)).trans ((getF_putF_off _ _ _ _ _ _ (by decide)).trans (getF_putF_off _ _ _ _ _ _ (by decide)))
  exact h.trans ((getF_putF_apart _ _ _ _ _ (by decide) (by decide)).trans (getF_putF_same _ _ _ _ (by decide)))

theorem chuteStop_head_dev (s : State) (ch st : Nat) : (s.chuteStop ch st).onF F.chuHead_dev ch = (s.chute ch).cur.2 := by
  have h : (s.chuteStop ch st).getF F.chuHead_dev ch = (s.putHead ch (s.chuteAt ch)).getF F.chuHead_dev ch :=
    (getF_putF_off _ _ _ _ _ _ (by decide)).trans ((getF_putF_off _ _ _ _ _ _ (by decide)).trans (getF_putF_off _ _ _ _ _ _ (by decide)))
  have h' : (s.putHead ch (s.chuteAt ch)).getF F.chuHead_dev ch = bit (s.chuteAt ch).2 % 2 ^ 1 := getF_putF_same _ _ _ _ (by decide)
  rw [State.onF, h, h', State.chuteAt]
  cases (s.chute ch).cur.2 <;> rfl

/-! ## Every running channel stops (R387) -/

/-- A bus error's stop of one channel. -/
def State.stopIfRuns (s : State) (c : Nat) : State := if s.chuteRuns c then s.chuteStop c 5 else s

theorem stopIfRuns_devMem (s : State) (c : Nat) : (s.stopIfRuns c).devMem = s.devMem := by
  unfold State.stopIfRuns
  split <;> rfl

/-- A stop leaves the fields of another channel's status. -/
theorem stopIfRuns_ne (s : State) {a c : Nat} (f : Fld) (hf : f.reg = R.chuStat) (hc : c ≠ a) (h : c < 65536) (h' : a < 65536) :
    (s.stopIfRuns a).getF f c = s.getF f c := by
  unfold State.stopIfRuns
  split
  · exact getF_chuteStop_ne s 5 f hc h h' (by simp [hf])
  · rfl

/-- A channel that does not run keeps its status field. -/
theorem stopIfRuns_of_stopped (s : State) {c : Nat} (h : s.chuteRuns c = false) : s.stopIfRuns c = s := by simp [State.stopIfRuns, h]

theorem stopIfRuns_runs (s : State) (c : Nat) : (s.stopIfRuns c).chuteRuns c = false := by
  unfold State.stopIfRuns
  split
  · exact chuteStop_running ..
  · next h => exact Bool.eq_false_iff.2 h

theorem stopIfRuns_stopped {s : State} {a c : Nat} (hs : s.chuteRuns c = false) (hc : c < 65536) (ha : a < 65536) :
    (s.stopIfRuns a).chuteRuns c = false := by
  by_cases h : c = a
  · exact h ▸ stopIfRuns_runs s c
  · exact (onF_of_getF (stopIfRuns_ne s F.chuStat_running rfl h hc ha)).trans hs

/-- Once its channel has stopped, no other stop changes a status field. -/
theorem stopIfRuns_getF {s : State} {a c : Nat} (f : Fld) (hf : f.reg = R.chuStat) (hs : s.chuteRuns c = false) (hc : c < 65536) (ha : a < 65536) :
    (s.stopIfRuns a).getF f c = s.getF f c := by
  by_cases h : c = a
  · rw [← h, stopIfRuns_of_stopped s hs]
  · exact stopIfRuns_ne s f hf h hc ha

theorem stopAll_stopped {l : List Nat} (hl : ∀ a ∈ l, a < 65536) {s : State} {c : Nat} (hc : c < 65536) (hs : s.chuteRuns c = false) :
    (l.foldl State.stopIfRuns s).chuteRuns c = false ∧
    (l.foldl State.stopIfRuns s).getF F.chuStat_status c = s.getF F.chuStat_status c := by
  induction l generalizing s with
  | nil => exact ⟨hs, rfl⟩
  | cons a l ih =>
    have ha := hl a (by simp)
    obtain ⟨h1, h2⟩ := ih (fun b hb => hl b (List.mem_cons_of_mem _ hb)) (stopIfRuns_stopped hs hc ha)
    exact ⟨h1, h2.trans (stopIfRuns_getF _ rfl hs hc ha)⟩

/-- After the stops no channel named runs, and each that ran has status 5. -/
theorem stopAll_stops {l : List Nat} (hl : ∀ a ∈ l, a < 65536) {s : State} {c : Nat} (hc : c ∈ l) :
    (l.foldl State.stopIfRuns s).chuteRuns c = false ∧
    (s.chuteRuns c = true → (l.foldl State.stopIfRuns s).getF F.chuStat_status c = 5) := by
  induction l generalizing s with
  | nil => cases hc
  | cons a l ih =>
    have hl' : ∀ b ∈ l, b < 65536 := fun b hb => hl b (List.mem_cons_of_mem _ hb)
    by_cases h : c = a
    · subst h
      obtain ⟨h1, h2⟩ := stopAll_stopped hl' (hl c (by simp)) (stopIfRuns_runs s c)
      refine ⟨h1, fun hr => h2.trans ?_⟩
      simp only [State.stopIfRuns, hr, if_true]
      exact chuteStop_status s c 5
    · have hm : c ∈ l := (List.mem_cons.1 hc).resolve_left h
      obtain ⟨h1, h2⟩ := ih hl' (s := s.stopIfRuns a) hm
      refine ⟨h1, fun hr => h2 ?_⟩
      exact (onF_of_getF (stopIfRuns_ne s F.chuStat_running rfl h (hl' c hm) (hl a (by simp)))).trans hr

/-! ## The record of a bus error (R387) -/

/-- The writes of CHU_ERR and CHU_ERR_ADDR. -/
def State.recordBusError (s : State) (ch : Option Nat) (fetch : Bool) (cause fn addr : Nat) : State :=
  ((((((s.putF F.chuErr_valid 0 1).putF F.chuErr_known 0 (bit ch.isSome)).putF F.chuErr_channel 0
    (ch.getD 0)).putF F.chuErr_fetch 0 (bit fetch)).putF F.chuErr_cause 0 cause).putF F.chuErr_function 0 fn).putF F.chuErrAddr_addr 0 addr

section
variable (s : State) (ch : Option Nat) (fetch : Bool) (cause fn addr : Nat)

theorem chuteBusError_eq : ∃ w, s.chuteBusError ch fetch cause fn addr =
    (((List.range 32).foldl State.stopIfRuns s).recordBusError ch fetch cause fn addr).raise 0x51 0xB (ch.getD 0) w := ⟨_, rfl⟩

theorem recordBusError_chuStat (f : Fld) (hf : f.reg = R.chuStat) (c : Nat) :
    (s.recordBusError ch fetch cause fn addr).getF f c = s.getF f c := by
  have h : R.chuErr.off / 8 ≠ f.reg.off / 8 := by rw [hf]; decide
  have h' : R.chuErrAddr.off / 8 ≠ f.reg.off / 8 := by rw [hf]; decide
  exact (getF_putF_off _ _ _ _ _ _ h').trans ((getF_putF_off _ _ _ _ _ _ h).trans ((getF_putF_off _ _ _ _ _ _ h).trans
    ((getF_putF_off _ _ _ _ _ _ h).trans ((getF_putF_off _ _ _ _ _ _ h).trans ((getF_putF_off _ _ _ _ _ _ h).trans
    (getF_putF_off _ _ _ _ _ _ h))))))

theorem recordBusError_fields :
    (s.recordBusError ch fetch cause fn addr).getF F.chuErr_valid 0 = 1 ∧
    (s.recordBusError ch fetch cause fn addr).getF F.chuErr_known 0 = bit ch.isSome % 2 ∧
    (s.recordBusError ch fetch cause fn addr).getF F.chuErr_channel 0 = ch.getD 0 % 32 ∧
    (s.recordBusError ch fetch cause fn addr).getF F.chuErr_fetch 0 = bit fetch % 2 ∧
    (s.recordBusError ch fetch cause fn addr).getF F.chuErr_cause 0 = cause % 8 ∧
    (s.recordBusError ch fetch cause fn addr).getF F.chuErr_function 0 = fn % 64 ∧
    (s.recordBusError ch fetch cause fn addr).getF F.chuErrAddr_addr 0 = addr % 2 ^ 64 := by
  simp (disch := decide) only [State.recordBusError, getF_putF_same, getF_putF_apart, getF_putF_off]
  exact ⟨rfl, rfl, rfl, rfl, rfl, rfl, rfl⟩

/-- What a bus error leaves: every channel stopped, and the error's record. -/
theorem chuteBusError_spec :
    (∀ c : Nat, c < 32 → (s.chuteBusError ch fetch cause fn addr).chuteRuns c = false) ∧
    (∀ c : Nat, c < 32 → s.chuteRuns c = true → (s.chuteBusError ch fetch cause fn addr).getF F.chuStat_status c = 5) ∧
    (∀ f : Fld, f.reg = R.chuErr ∨ f.reg = R.chuErrAddr → (s.chuteBusError ch fetch cause fn addr).getF f 0 =
      (((List.range 32).foldl State.stopIfRuns s).recordBusError ch fetch cause fn addr).getF f 0) ∧
    (s.chuteBusError ch fetch cause fn addr).devMem = s.devMem := by
  obtain ⟨w, hw⟩ := chuteBusError_eq s ch fetch cause fn addr
  rw [hw]
  have hl : ∀ a ∈ List.range 32, a < 65536 := fun a ha => by have := List.mem_range.1 ha; omega
  have hst : ∀ (f : Fld) (c : Nat), f.reg = R.chuStat →
      ((((List.range 32).foldl State.stopIfRuns s).recordBusError ch fetch cause fn addr).raise 0x51 0xB (ch.getD 0) w).getF f c =
        ((List.range 32).foldl State.stopIfRuns s).getF f c := fun f c hf =>
    (getF_raise _ _ _ _ _ _ f c (by rw [hf]; decide) (by rw [hf]; decide)).trans (recordBusError_chuStat _ _ _ _ _ _ f hf c)
  refine ⟨fun c hc => ?_, fun c hc hr => ?_, fun f hf => getF_raise _ _ _ _ _ _ f 0 ?_ ?_, ?_⟩
  · exact (onF_of_getF (hst F.chuStat_running c rfl)).trans (stopAll_stops hl (List.mem_range.2 hc)).1
  · exact (hst F.chuStat_status c rfl).trans ((stopAll_stops hl (List.mem_range.2 hc)).2 hr)
  · rcases hf with hf | hf <;> rw [hf] <;> decide
  · rcases hf with hf | hf <;> rw [hf] <;> decide
  · exact (raise_devMem ..).trans (foldl_keeps State.devMem stopIfRuns_devMem _ s)
end

theorem onF_of_bit {s : State} {f : Fld} {i : Nat} {b : Bool} (h : s.getF f i = bit b % 2) : s.onF f i = b := by
  rw [State.onF, h]
  cases b <;> rfl

/-- Settles O18: the stops of the 32 channels, the record of CHU_ERR, and the event that leaves both. -/
theorem aHostBusErrorStopsEveryChannel : Obligations.AHostBusErrorStopsEveryChannel := by
  intro ch fetch fn addr cause s
  have hch : (ch.map BitVec.toNat).getD 0 < 32 := by cases ch <;> simp; omega
  refine ⟨?_, ?_⟩
  · obtain ⟨hr, hst, hf, hm⟩ := chuteBusError_spec s.begin (ch.map BitVec.toNat) fetch 3 fn.toNat addr.toNat
    obtain ⟨h1, h2, h3, h4, h5, h6, h7⟩ := recordBusError_fields ((List.range 32).foldl State.stopIfRuns s.begin)
      (ch.map BitVec.toNat) fetch 3 fn.toNat addr.toNat
    rw [← hf _ (.inl rfl)] at h1 h2 h3 h4 h5 h6
    rw [← hf _ (.inr rfl)] at h7
    rw [Option.isSome_map] at h2
    clear hf
    obtain ⟨u, hu⟩ : ∃ u, s.begin.chuteBusError (ch.map BitVec.toNat) fetch 3 fn.toNat addr.toNat = u := ⟨_, rfl⟩
    rw [hu] at hr hst h1 h2 h3 h4 h5 h6 h7 hm
    exact completes_of_eq (f := fun s => s.chuteBusError (ch.map BitVec.toNat) fetch 3 fn.toNat addr.toNat) rfl hu
      ⟨hr, hst, onF_of_bit (b := true) h1, onF_of_bit h2, h3.trans (Nat.mod_eq_of_lt hch), onF_of_bit h4, h5,
        h6.trans (Nat.mod_eq_of_lt fn.isLt), h7.trans (Nat.mod_eq_of_lt addr.isLt), hm⟩
  · obtain ⟨hr, -, hf, hm⟩ := chuteBusError_spec (s.begin.bump F.hstErr_host_mem 0) (ch.map BitVec.toNat) fetch cause.toNat fn.toNat addr.toNat
    obtain ⟨h1, -, -, -, h5, -, -⟩ := recordBusError_fields ((List.range 32).foldl State.stopIfRuns (s.begin.bump F.hstErr_host_mem 0))
      (ch.map BitVec.toNat) fetch cause.toNat fn.toNat addr.toNat
    rw [← hf _ (.inl rfl)] at h1 h5
    clear hf
    obtain ⟨u, hu⟩ : ∃ u, (s.begin.bump F.hstErr_host_mem 0).chuteBusError (ch.map BitVec.toNat) fetch cause.toNat fn.toNat addr.toNat = u :=
      ⟨_, rfl⟩
    rw [hu] at hr h1 h5 hm
    exact completes_of_eq (f := opHostMemoryError (.chute ch fetch fn addr) cause) rfl hu
      ⟨hr, onF_of_bit (b := true) h1, h5.trans (Nat.mod_eq_of_lt cause.isLt), hm⟩

end Sys2Proof.Machine
end

section
/-! SUPPORT. The reset of one function, and O15: a function-level reset disables its pairs. -/

namespace Sys2Proof.Machine

/-! ## Tables with keys taken out -/

theorem tget_filter_of_pos {α : Type} {d : α} {t : Tbl α} {p : Nat × α → Bool} {k : Nat} (h : ∀ v, p (k, v) = true) :
    tget d (t.filter p) k = tget d t k := by
  induction t with
  | nil => rfl
  | cons e t ih =>
    obtain ⟨i, v⟩ := e
    by_cases hi : i = k
    · subst hi
      simp only [List.filter_cons, h, if_true, tget_cons]
    · cases hp : p (i, v)
      · simp only [List.filter_cons, hp, Bool.false_eq_true, if_false, tget_cons, hi, ih]
      · simp only [List.filter_cons, hp, if_true, tget_cons, hi, if_false, ih]

theorem tget_filter_of_neg {α : Type} {d : α} {t : Tbl α} {p : Nat × α → Bool} {k : Nat} (h : ∀ v, p (k, v) = false) :
    tget d (t.filter p) k = d := by
  induction t with
  | nil => rfl
  | cons e t ih =>
    obtain ⟨i, v⟩ := e
    by_cases hi : i = k
    · subst hi
      simp only [List.filter_cons, h, Bool.false_eq_true, if_false, ih]
    · cases hp : p (i, v)
      · simp only [List.filter_cons, hp, Bool.false_eq_true, if_false, ih]
      · simp only [List.filter_cons, hp, if_true, tget_cons, hi, if_false, ih]

/-! ## What the reset of a function leaves as it is (R360) -/

/-- t has the memories, the MSI-X table and the enables of the pairs of s. -/
def keepsPairs (s t : State) : Prop := sameMemories s t ∧ t.msix = s.msix ∧ ∀ q, t.pairOn q = s.pairOn q

theorem keepsPairs_refl (s : State) : keepsPairs s s := ⟨⟨rfl, rfl, rfl, rfl, rfl⟩, rfl, fun _ => rfl⟩

theorem keepsPairs_trans (s t u : State) (h : keepsPairs s t) (h' : keepsPairs t u) : keepsPairs s u := by
  obtain ⟨⟨h1, h2, h3, h4, h5⟩, hm, hp⟩ := h
  obtain ⟨⟨g1, g2, g3, g4, g5⟩, gm, gp⟩ := h'
  exact ⟨⟨g1.trans h1, g2.trans h2, g3.trans h3, g4.trans h4, g5.trans h5⟩, gm.trans hm, fun q => (gp q).trans (hp q)⟩

theorem keepsPairs_putF (s : State) (f : Fld) (i v : Nat) (hf : f.reg.off / 8 ≠ R.hstQcfg.off / 8) : keepsPairs s (s.putF f i v) :=
  ⟨⟨rfl, rfl, rfl, rfl, rfl⟩, rfl, fun _ => onF_of_getF (getF_putF_off _ _ _ _ _ _ hf)⟩

theorem keepsPairs_unreserve (s : State) (q n : Nat) : keepsPairs s (s.unreserve q n) := keepsPairs_putF _ _ _ _ (by decide)

theorem keepsPairs_chuteStop (s : State) (c st : Nat) : keepsPairs s (s.chuteStop c st) :=
  ⟨⟨rfl, rfl, rfl, rfl, rfl⟩, rfl, fun q => onF_of_getF (getF_chuteStop_off s c st _ q (by decide) (by decide) (by decide))⟩

theorem keepsPairs_ite {s t u : State} {c : Prop} [Decidable c] (h : keepsPairs s t) (h' : keepsPairs s u) :
    keepsPairs s (if c then t else u) := by
  split
  · exact h
  · exact h'

theorem keepsPairs_foldl {α : Type} {f : State → α → State} (hf : ∀ s a, keepsPairs s (f s a)) (l : List α) (s : State) :
    keepsPairs s (l.foldl f s) := foldl_rel keepsPairs_refl keepsPairs_trans hf l s

/-! ## The pairs of a function -/

/-- One pair of a function is disabled. -/
def State.disableOwned (f : Nat) (s : State) (q : Nat) : State :=
  if s.owner q == f && s.pairOn q then s.putF F.hstQcfg_enable q 0 else s

theorem disableOwned_owner (f : Nat) (s : State) (q k : Nat) : (s.disableOwned f q).owner k = s.owner k := by
  unfold State.disableOwned
  split
  · exact getF_putF_off _ _ _ _ _ _ (by decide)
  · rfl

theorem disableOwned_off {f : Nat} {s : State} {k : Nat} (q : Nat) (h : s.pairOn k = false) (hq : q < 65536) (hk : k < 65536) :
    (s.disableOwned f q).pairOn k = false := by
  unfold State.disableOwned
  split
  · by_cases hqk : q = k
    · subst hqk
      simp [State.pairOn, State.onF, getF_putF_same s F.hstQcfg_enable q 0 (by decide)]
    · exact (onF_of_getF (getF_putF_inst s F.hstQcfg_enable q k 0 hqk hq hk)).trans h
  · exact h

theorem disableOwned_same {f : Nat} {s : State} {q : Nat} (h : s.owner q = f) : (s.disableOwned f q).pairOn q = false := by
  unfold State.disableOwned
  split
  · simp [State.pairOn, State.onF, getF_putF_same s F.hstQcfg_enable q 0 (by decide)]
  · next hn =>
    rw [h, beq_self_eq_true, Bool.true_and] at hn
    exact Bool.eq_false_iff.2 hn

/-- A pair that is disabled stays so. -/
theorem disableAll_off {f : Nat} {l : List Nat} (hl : ∀ a ∈ l, a < 65536) {s : State} {k : Nat} (hk : k < 65536) (h : s.pairOn k = false) :
    (l.foldl (State.disableOwned f) s).pairOn k = false := by
  induction l generalizing s with
  | nil => exact h
  | cons a l ih => exact ih (fun b hb => hl b (List.mem_cons_of_mem _ hb)) (disableOwned_off a h (hl a (by simp)) hk)

theorem disableAll_owned {f : Nat} {l : List Nat} (hl : ∀ a ∈ l, a < 65536) {s : State} {q : Nat} (hq : q ∈ l) (ho : s.owner q = f) :
    (l.foldl (State.disableOwned f) s).pairOn q = false := by
  induction l generalizing s with
  | nil => cases hq
  | cons a l ih =>
    have hl' : ∀ b ∈ l, b < 65536 := fun b hb => hl b (List.mem_cons_of_mem _ hb)
    rcases List.mem_cons.1 hq with h | h
    · subst h
      exact disableAll_off hl' (hl q (by simp)) (disableOwned_same ho)
    · exact ih hl' h ((disableOwned_owner f s a q).trans ho)

theorem disableAll_frame (f : Nat) (l : List Nat) (s : State) :
    sameMemories s (l.foldl (State.disableOwned f) s) ∧ (l.foldl (State.disableOwned f) s).msix = s.msix := by
  refine foldl_rel (r := fun s t => sameMemories s t ∧ t.msix = s.msix) (fun s => ⟨⟨rfl, rfl, rfl, rfl, rfl⟩, rfl⟩) ?_ ?_ l s
  · rintro s t u ⟨⟨h1, h2, h3, h4, h5⟩, hm⟩ ⟨⟨g1, g2, g3, g4, g5⟩, gm⟩
    exact ⟨⟨g1.trans h1, g2.trans h2, g3.trans h3, g4.trans h4, g5.trans h5⟩, gm.trans hm⟩
  · intro s a
    unfold State.disableOwned
    split <;> exact ⟨⟨rfl, rfl, rfl, rfl, rfl⟩, rfl⟩

/-! ## The reset of one function -/

/-- Before its tables of pairs and vectors are cleared, the reset of a function has disabled its pairs and kept the rest. -/
theorem resetFn_eq (s : State) (f : Nat) : ∃ u : State, keepsPairs ((List.range 64).foldl (State.disableOwned f) s) u ∧
    ∃ sqTails cqHeads heldCq accWait, s.resetFn f = { u with
      msix := u.msix.filter (fun e => e.1 / 32 != f), sqTails := sqTails, cqHeads := cqHeads, heldCq := heldCq, accWait := accWait } := by
  have hwait : ∀ (s : State) (w : Waiting), keepsPairs s (match w.cmd with | some c => s.unreserve c.q 1 | none => s) := by
    intro s w
    cases w.cmd with
    | none => exact keepsPairs_refl s
    | some c => exact keepsPairs_unreserve ..
  have hevq : ∀ s : State, keepsPairs s (if f = 0 then s.putF F.hstEvqStat_head 0 0 else s) := fun s =>
    keepsPairs_ite (keepsPairs_putF _ _ _ _ (by decide)) (keepsPairs_refl s)
  have hchute : ∀ (s : State) (c : Nat), keepsPairs s (if s.chuteRuns c && s.chuteOwner c == f then
      (s.chuteStop c 6).setChute c { (s.chuteStop c 6).chute c with owedResults := [] } else s) := fun s c =>
    keepsPairs_ite (keepsPairs_trans _ _ _ (keepsPairs_chuteStop s c 6) ⟨⟨rfl, rfl, rfl, rfl, rfl⟩, rfl, fun _ => rfl⟩) (keepsPairs_refl s)
  have hsilent : ∀ (s : State) (i : Nat), keepsPairs s ((s.modStream i (fun t => { t with silent := true })).wait (.closeSilent i)) :=
    fun _ _ => ⟨⟨rfl, rfl, rfl, rfl, rfl⟩, rfl, fun _ => rfl⟩
  refine ⟨_, ?_, _, _, _, _, rfl⟩
  refine keepsPairs_trans _ _ _ ?_ (keepsPairs_foldl hchute _ _)
  refine keepsPairs_trans _ _ _ ?_ (keepsPairs_foldl hsilent _ _)
  refine keepsPairs_trans _ _ _ ?_ ⟨⟨rfl, rfl, rfl, rfl, rfl⟩, rfl, fun _ => rfl⟩
  refine keepsPairs_trans _ _ _ ?_ (keepsPairs_foldl (fun s _ => keepsPairs_unreserve s _ 1) _ _)
  refine keepsPairs_trans _ _ _ ?_ (hevq _)
  refine keepsPairs_trans _ _ _ ?_ (keepsPairs_foldl (fun s _ => keepsPairs_unreserve s _ 1) _ _)
  exact keepsPairs_foldl hwait _ _

theorem resetFn_spec (s : State) (f : Nat) :
    (∀ q : Nat, q < 64 → s.owner q = f → (s.resetFn f).pairOn q = false) ∧
    (∀ v : Nat, v < 32 → (s.resetFn f).msixAt f v = {}) ∧
    (∀ g v : Nat, v < 32 → g ≠ f → (s.resetFn f).msixAt g v = s.msixAt g v) ∧ sameMemories s (s.resetFn f) := by
  obtain ⟨u, ⟨hmem, hmsix, hon⟩, _, _, _, _, h⟩ := resetFn_eq s f
  obtain ⟨gmem, gmsix⟩ := disableAll_frame f (List.range 64) s
  have hkey : ∀ g v : Nat, v < 32 → (g * 32 + v) / 32 = g := fun g v hv => by omega
  rw [h]
  refine ⟨fun q hq ho => ?_, fun v hv => ?_, fun g v hv hg => ?_, ?_⟩
  · refine (hon q).trans (disableAll_owned (fun a ha => ?_) (List.mem_range.2 hq) ho)
    have := List.mem_range.1 ha
    omega
  · exact tget_filter_of_neg (fun w => by simp [hkey f v hv])
  · refine (tget_filter_of_pos (fun w => by simp [hkey g v hv, hg])).trans ?_
    rw [hmsix, gmsix]
    rfl
  · obtain ⟨h1, h2, h3, h4, h5⟩ := hmem
    obtain ⟨g1, g2, g3, g4, g5⟩ := gmem
    exact ⟨h1.trans g1, h2.trans g2, h3.trans g3, h4.trans g4, h5.trans g5⟩

/-- Settles O15: a virtual function's reset is the reset of that function alone. -/
theorem aFunctionLevelResetDisablesItsPairs : Obligations.AFunctionLevelResetDisablesItsPairs := by
  intro fn s hl hfn
  have hb : s.begin.start.loading = false := hl
  have hne : fn.toNat ≠ 0 := fun h => hfn (BitVec.eq_of_toNat_eq h)
  obtain ⟨h1, h2, h3, h4⟩ := resetFn_spec s.begin fn.toNat
  obtain ⟨u, hu⟩ : ∃ u, s.begin.resetFn fn.toNat = u := ⟨_, rfl⟩
  rw [hu] at h1 h2 h3 h4
  refine completes_of_eq (f := fun s => if s.start.loading then s else opFlr fn.toNat s) rfl (u := u) ?_ ⟨h1, h2, h3, h4⟩
  simp only [hb, Bool.false_eq_true, if_false, opFlr, hne, hu]

end Sys2Proof.Machine
end

section
/-! SUPPORT. The fetch of a descriptor from the host's memory, and O16: a Chute channel starts and stops. -/

namespace Sys2Proof.Machine

/-! ## Bytes and their little-endian numbers (R6) -/

theorem leBytes_leNat (l : List Byte) : leBytes l.length (leNat l) = l := by
  induction l with
  | nil => rfl
  | cons b l ih =>
    have h : BitVec.ofNat 8 (b.toNat + 256 * leNat l) = b := by
      apply BitVec.eq_of_toNat_eq
      have := b.isLt
      simp only [BitVec.toNat_ofNat]
      omega
    have h' : (b.toNat + 256 * leNat l) / 256 = leNat l := by have := b.isLt; omega
    simp only [List.length_cons, leNat, leBytes, h, h', ih]

theorem leNat_lt (l : List Byte) : leNat l < 256 ^ l.length := by
  induction l with
  | nil => exact Nat.one_pos
  | cons b l ih =>
    have := b.isLt
    simp only [leNat, List.length_cons, pow_succ]
    omega

theorem length_slice (l : List Byte) (o n : Nat) : (slice l o n).length = n := by simp [slice]

theorem leBytes_fieldAt (l : List Byte) (o n : Nat) : leBytes n (fieldAt l o n) = slice l o n := by
  conv_lhs => rw [← length_slice l o n]
  rw [fieldAt, length_slice]
  have h := leBytes_leNat (slice l o n)
  rwa [length_slice] at h

theorem fieldAt_lt (l : List Byte) (o n : Nat) : fieldAt l o n < 256 ^ n := by
  have h := leNat_lt (slice l o n)
  rwa [length_slice] at h

theorem slice_inside (l : List Byte) (o n : Nat) (h : o + n ≤ l.length) : slice l o n = (l.drop o).take n := by
  have h1 : ((l.drop o).take n).length = n := by rw [List.length_take, List.length_drop]; omega
  simp [slice, h1]

/-- The slices of n bytes of a string, one after the other. -/
theorem flatMap_slices (l : List Byte) (n k : Nat) (h : n * k ≤ l.length) :
    (List.range k).flatMap (fun i => slice l (n * i) n) = l.take (n * k) := by
  induction k with
  | zero => simp
  | succ k ih =>
    rw [Nat.mul_succ] at h ⊢
    rw [List.range_succ, List.flatMap_append, ih (by omega), List.flatMap_singleton, slice_inside _ _ _ h, List.take_add]

/-! ## The descriptor's registers (R385) -/

/-- The registers of a descriptor, with the bytes fetched. -/
def State.putDesc (s : State) (ch : Nat) (b : List Byte) : State :=
  [(F.chuDesc0_word, 0), (F.chuDesc1_word, 1), (F.chuDesc2_word, 2), (F.chuDesc3_word, 3), (F.chuDesc4_word, 4), (F.chuDesc5_word, 5),
    (F.chuDesc6_word, 6), (F.chuDesc7_word, 7)].foldl (fun s e => s.putF e.1 ch (fieldAt b (8 * e.2) 8)) s

theorem putsRegs_putDesc {ks : List Nat} {s u : State} (h : putsRegs ks s u) (ch : Nat) (b : List Byte)
    (hk : ∀ k ∈ chuteKeys ch, k ∈ ks) : putsRegs ks s (u.putDesc ch b) := by
  refine (((((((h.putF F.chuDesc0_word ch _ (hk _ ?_)).putF F.chuDesc1_word ch _ (hk _ ?_)).putF F.chuDesc2_word ch _ (hk _ ?_)).putF
    F.chuDesc3_word ch _ (hk _ ?_)).putF F.chuDesc4_word ch _ (hk _ ?_)).putF F.chuDesc5_word ch _ (hk _ ?_)).putF
    F.chuDesc6_word ch _ (hk _ ?_)).putF F.chuDesc7_word ch _ (hk _ ?_)
  all_goals simp [chuteKeys, F.chuDesc0_word, F.chuDesc1_word, F.chuDesc2_word, F.chuDesc3_word, F.chuDesc4_word, F.chuDesc5_word,
    F.chuDesc6_word, F.chuDesc7_word]

/-- Fields of other registers than the descriptor's read as before. -/
theorem getF_putDesc (s : State) (ch : Nat) (b : List Byte) (f : Fld) (i : Nat)
    (h : ∀ r ∈ [R.chuDesc0, R.chuDesc1, R.chuDesc2, R.chuDesc3, R.chuDesc4, R.chuDesc5, R.chuDesc6, R.chuDesc7], r.off / 8 ≠ f.reg.off / 8) :
    (s.putDesc ch b).getF f i = s.getF f i := by
  simp only [List.mem_cons, List.not_mem_nil, or_false, forall_eq_or_imp, forall_eq] at h
  obtain ⟨h0, h1, h2, h3, h4, h5, h6, h7⟩ := h
  simp only [State.putDesc, List.foldl]
  rw [getF_putF_off _ _ _ _ _ _ h7, getF_putF_off _ _ _ _ _ _ h6, getF_putF_off _ _ _ _ _ _ h5, getF_putF_off _ _ _ _ _ _ h4,
    getF_putF_off _ _ _ _ _ _ h3, getF_putF_off _ _ _ _ _ _ h2, getF_putF_off _ _ _ _ _ _ h1, getF_putF_off _ _ _ _ _ _ h0]

/-- A channel holds the bytes that it has fetched. -/
theorem chuteHolds_putDesc (s : State) (ch : Nat) (b : List Byte) (hb : b.length = 64) : (s.putDesc ch b).chuteHolds ch = b := by
  have h : (s.putDesc ch b).chuteHolds ch = (List.range 8).flatMap (fun i => leBytes 8 (fieldAt b (8 * i) 8 % 2 ^ 64)) := by
    simp (disch := decide) only [State.chuteHolds, List.flatMap_cons, List.flatMap_nil, State.putDesc, List.foldl, getF_putF_off,
      getF_putF_same]
    rfl
  have hm : ∀ i, leBytes 8 (fieldAt b (8 * i) 8 % 2 ^ 64) = slice b (8 * i) 8 := fun i => by
    rw [Nat.mod_eq_of_lt (lt_of_lt_of_eq (fieldAt_lt b (8 * i) 8) (by norm_num)), leBytes_fieldAt]
  simp only [h, hm]
  rw [flatMap_slices b 8 8 (by omega)]
  exact List.take_of_length_le (by omega)

/-- A channel whose descriptor lies in the host's memory fetches it. -/
theorem chuteFetchOrStop_of_host {s : State} {ch a : Nat} (h : s.chuteAt ch = (a, false)) :
    s.chuteFetchOrStop ch = (s.putDesc ch (mread s.hostMem a 64)).setChute ch { s.chute ch with fetchDue := false } := by
  simp only [State.chuteFetchOrStop, h, Bool.false_and, Bool.false_eq_true, if_false, State.chuteFetch, bne_self_eq_false, if_true]
  rfl

/-! ## Go (R386) -/

/-- A channel with its chain started, before it fetches. -/
def State.goneOn (s : State) (ch : Nat) : State :=
  ((((if (s.chute ch).first then s.putF F.chuCrc_crc ch 0 else s).putF F.chuStat_running ch 1).putF F.chuCtl_go ch 1).putF
    F.chuCrc_done ch 0).putF F.chuStat_moved ch 0

theorem putsRegs_goneOn (s : State) (ch : Nat) : putsRegs (chuteKeys ch) s (s.goneOn ch) := by
  have h : putsRegs (chuteKeys ch) s (if (s.chute ch).first then s.putF F.chuCrc_crc ch 0 else s) :=
    ((putsRegs_refl _ s).putF F.chuCrc_crc ch 0 (by simp [chuteKeys, F.chuCrc_crc])).ite (putsRegs_refl _ s)
  refine (((h.putF F.chuStat_running ch 1 ?_).putF F.chuCtl_go ch 1 ?_).putF F.chuCrc_done ch 0 ?_).putF F.chuStat_moved ch 0 ?_ <;>
    simp [chuteKeys, F.chuStat_running, F.chuCtl_go, F.chuCrc_done, F.chuStat_moved]

theorem goneOn_fields (s : State) (ch : Nat) :
    (s.goneOn ch).getF F.chuStat_running ch = 1 ∧ (s.goneOn ch).getF F.chuCtl_go ch = 1 ∧ (s.goneOn ch).getF F.chuCrc_done ch = 0 ∧
    (s.goneOn ch).getF F.chuStat_moved ch = 0 ∧
    (s.goneOn ch).getF F.chuCrc_crc ch = if (s.chute ch).first then 0 else s.getF F.chuCrc_crc ch := by
  have hc : ∀ v, (if (s.chute ch).first then s.putF F.chuCrc_crc ch v else s).getF F.chuCrc_crc ch =
      if (s.chute ch).first then v % 2 ^ 32 else s.getF F.chuCrc_crc ch := fun v => by
    split
    · exact getF_putF_same _ _ _ _ (by decide)
    · rfl
  simp (disch := decide) only [State.goneOn, getF_putF_off, getF_putF_apart, getF_putF_same, hc]
  exact ⟨rfl, rfl, rfl, rfl, rfl⟩

/-- Where the chain starts: CHU_HEAD. -/
theorem opChuteGo_of_stopped {s : State} {ch : Nat} (hr : s.chuteRuns ch = false) (hv : s.onF F.chuErr_valid = false)
    (hd : s.onF F.chuHead_dev ch = false) : ∃ x, opChuteGo ch s =
      { (s.goneOn ch).putDesc ch (mread s.hostMem (s.getF F.chuHead_addr ch) 64) with chutes := x } := by
  obtain ⟨u, hu⟩ : ∃ u, u = if (s.chute ch).first then s.putF F.chuCrc_crc ch 0 else s := ⟨_, rfl⟩
  have haddr : u.getF F.chuHead_addr ch = s.getF F.chuHead_addr ch := by
    rw [hu]
    split
    · exact getF_putF_off _ _ _ _ _ _ (by decide)
    · rfl
  have hdev : u.onF F.chuHead_dev ch = false := by
    rw [hu]
    split
    · exact (onF_of_getF (getF_putF_off _ _ _ _ _ _ (by decide))).trans hd
    · exact hd
  have hmem : u.hostMem = s.hostMem := by rw [hu]; split <;> rfl
  have hop : ∃ x : ChuteSt, x.cur = (s.getF F.chuHead_addr ch, false) ∧ opChuteGo ch s =
      (((((u.setChute ch x).putF F.chuStat_running ch 1).putF F.chuCtl_go ch 1).putF F.chuCrc_done ch 0).putF
        F.chuStat_moved ch 0).chuteFetchOrStop ch := by
    simp only [opChuteGo, hr, hv, Bool.or_self, Bool.false_eq_true, if_false, ← hu, haddr, hdev]
    exact ⟨_, rfl, rfl⟩
  obtain ⟨x, hx, hop⟩ := hop
  have hat : (((((u.setChute ch x).putF F.chuStat_running ch 1).putF F.chuCtl_go ch 1).putF F.chuCrc_done ch 0).putF
      F.chuStat_moved ch 0).chuteAt ch = (s.getF F.chuHead_addr ch, false) := by
    rw [← hx]
    exact congrArg ChuteSt.cur (tget_tput_same ..)
  rw [hop, chuteFetchOrStop_of_host hat, State.goneOn, ← hu, ← hmem]
  exact ⟨_, rfl⟩

/-- What a write of go leaves. -/
theorem opChuteGo_spec {s t : State} {ch : Nat} (hr : s.chuteRuns ch = false) (hv : s.onF F.chuErr_valid = false)
    (hd : s.onF F.chuHead_dev ch = false) (ht : opChuteGo ch s = t) :
    t.chuteRuns ch = true ∧ t.onF F.chuCtl_go ch = true ∧ t.getF F.chuCrc_done ch = 0 ∧ t.getF F.chuStat_moved ch = 0 ∧
    t.chuteHolds ch = mread s.hostMem (s.getF F.chuHead_addr ch) 64 ∧
    t.getF F.chuCrc_crc ch = (if (s.chute ch).first then 0 else s.getF F.chuCrc_crc ch) ∧
    sameRegs (chuteKeys ch) s t ∧ t = { s with regs := t.regs, chutes := t.chutes } := by
  obtain ⟨x, hop⟩ := opChuteGo_of_stopped hr hv hd
  obtain ⟨b, hb⟩ : ∃ b, b = mread s.hostMem (s.getF F.chuHead_addr ch) 64 := ⟨_, rfl⟩
  have hlen : b.length = 64 := by simp [hb, mread]
  rw [ht, ← hb] at hop
  rw [← hb]
  have hp := putsRegs_putDesc (putsRegs_goneOn s ch) ch b (fun _ h => h)
  have hf : ∀ f : Fld, f.reg ∈ [R.chuStat, R.chuCtl, R.chuCrc] → ((s.goneOn ch).putDesc ch b).getF f ch = (s.goneOn ch).getF f ch := by
    intro f hm
    refine getF_putDesc _ _ _ f ch ?_
    revert hm
    generalize f.reg = r
    revert r
    decide
  have hhold := chuteHolds_putDesc (s.goneOn ch) ch b hlen
  obtain ⟨h1, h2, h3, h4, h5⟩ := goneOn_fields s ch
  rw [← hf _ (by simp [F.chuStat_running])] at h1
  rw [← hf _ (by simp [F.chuCtl_go])] at h2
  rw [← hf _ (by simp [F.chuCrc_done])] at h3
  rw [← hf _ (by simp [F.chuStat_moved])] at h4
  rw [← hf _ (by simp [F.chuCrc_crc])] at h5
  clear hf
  generalize (s.goneOn ch).putDesc ch b = u at *
  obtain ⟨hu, hsame⟩ := hp
  subst hop
  refine ⟨onF_of_bit (b := true) h1, onF_of_bit (b := true) h2, h3, h4, hhold, h5, sameRegs_of_regs hsame rfl, ?_⟩
  generalize u.regs = r at hu
  rw [hu]

/-- Settles O16: go on a channel that may start, abort on one that runs, and the write that clears the error. -/
theorem aChuteChannelStartsAndStops : Obligations.AChuteChannelStartsAndStops := by
  refine ⟨fun by_ ch s hw hch => ?_, fun s hw => ?_⟩
  · have hb : s.begin.writes by_ R.chuCtl.off = true := hw
    have hsel : s.begin.sel by_ F.chuSel_channel = ch := hch.symm
    have hgo : exec (.chuteGo by_) s = run (fun s => if s.writes by_ R.chuCtl.off then opChuteGo (s.sel by_ F.chuSel_channel) s else s) s :=
      rfl
    have habort : exec (.chuteAbort by_) s =
        run (fun s => if s.writes by_ R.chuCtl.off then opChuteAbort (s.sel by_ F.chuSel_channel) s else s) s := rfl
    refine ⟨fun hr hv hd => ?_, fun h => idles_of_run hgo ?_, fun hr => ?_, fun hr => idles_of_run habort ?_⟩
    · obtain ⟨u, hu⟩ : ∃ u, opChuteGo ch s.begin = u := ⟨_, rfl⟩
      obtain ⟨h1, h2, h3, h4, h5, h6, h7, h8⟩ := opChuteGo_spec (s := s.begin) hr hv hd hu
      refine completes_of_eq hgo (u := u) (by rw [if_pos hb, hsel, hu]) ⟨h1, h2, h3, h4, h5, h6, h7, ?_⟩
      generalize u.regs = r, u.chutes = c at h8
      rw [h8]
      rfl
    · have hor : (s.begin.chuteRuns ch || s.begin.onF F.chuErr_valid) = true := (Bool.or_eq_true _ _).mpr h
      rw [if_pos hb, hsel, opChuteGo, if_pos hor]
    · have hr' : s.begin.chuteRuns ch = true := hr
      have hop : (if s.begin.writes by_ R.chuCtl.off = true then opChuteAbort (s.begin.sel by_ F.chuSel_channel) s.begin else s.begin) =
          s.begin.chuteStop ch 7 := by rw [if_pos hb, hsel, opChuteAbort, if_pos hr']
      refine completes_of_eq habort hop ⟨chuteStop_running .., chuteStop_go .., chuteStop_status .., chuteStop_head_addr ..,
        chuteStop_head_dev .., ?_, fun c hc => ?_, sameRegs_of_regs (chuteStop_sameRegs s.begin ch 7) rfl, rfl⟩
      · exact tget_tput_same ..
      · exact tget_tput_ne (h := Ne.symm hc) ..
    · have hr' : s.begin.chuteRuns ch ≠ true := by rw [show s.begin.chuteRuns ch = false from hr]; decide
      rw [if_pos hb, hsel, opChuteAbort, if_neg hr']
  · have hb : s.begin.writes .host R.chuErr.off = true := hw
    refine completes_of_eq (f := fun s => if s.writes .host R.chuErr.off then s.putF F.chuErr_valid 0 0 else s) rfl (if_pos hb)
      ⟨?_, onlyRegs_of_putsRegs ((putsRegs_refl _ _).putF _ _ _ (by simp [F.chuErr_valid]))⟩
    exact onF_of_bit (b := false) (getF_putF_same _ _ _ _ (by decide))

end Sys2Proof.Machine
end

section
/-! SUPPORT. O29: the governor's limit words. -/

namespace Sys2Proof.Machine

/-- The event of a silent governor changes what the event path holds and nothing else. -/
theorem raise_afterEvents (s : State) (code cls idx : Nat) (arg : Word) (payload : List Byte) (ks : List Nat) :
    eventPath (ks ++ [regKey R.hstEvqStat 0, regKey R.stdBootRet 0]) s (s.raise code cls idx arg payload) :=
  eventPath_raise code cls idx arg payload (by simp) (by simp)

theorem eventPath.tick {ks : List Nat} {s u : State} (h : eventPath ks s u) : u.tick = s.tick := by
  obtain ⟨⟨_, _, _, _, _, _, _, rfl⟩, -⟩ := h
  rfl

/-- The fallback words apply at the edge: the cap, the fallback's bit, and nothing else of the registers. -/
theorem applyLimits_fallback {s : State} (hf : s.tick.fallbackNext = true) (hg : s.tick.govWrote = false)
    (hl : s.tick.limits = some { cap := 800 }) : s.applyLimits = { (s.putF F.pwrStat_cap 0 800).putF F.pwrStat_fallback 0 1 with
      tick := { s.tick with limits := none, updatesAgo := s.tick.updatesAgo + 1, govWrote := false, fallbackNext := false } } := by
  have hf' : (s.putF F.pwrStat_cap 0 800).tick.fallbackNext = true := hf
  have hg' : (s.putF F.pwrStat_cap 0 800).tick.govWrote = false := hg
  simp only [State.applyLimits, hl, List.foldl, hf', hg', Bool.false_eq_true, if_false, if_true]
  have hg2 : ((s.putF F.pwrStat_cap 0 800).putF F.pwrStat_fallback 0 1).tick.govWrote = false := hg
  simp only [hg2, Bool.false_eq_true, if_false]
  rfl

/-- The fallback is to apply at the next edge. -/
def State.fallsBack (s : State) : State :=
  { s with tick := { s.tick with limits := some { cap := 800 }, fallbackNext := true }, heat := { s.heat with capTarget := 800 } }

theorem opGovernorSilent_of_silent {s : State} (h64 : 64 ≤ s.tick.updatesAgo) (hg : s.tick.govWrote = false)
    (hfb : s.onF F.pwrStat_fallback = false) (hfn : s.tick.fallbackNext = false) :
    opGovernorSilent s = s.fallsBack.raise 0x12 0 0 (BitVec.ofNat 64 s.tick.updatesAgo) := by
  have hc : ¬ (decide (s.tick.updatesAgo < 64) || s.tick.govWrote || s.onF F.pwrStat_fallback || s.tick.fallbackNext) = true := by
    rw [hfb, hfn, hg, decide_eq_false (Nat.not_lt.2 h64)]
    decide
  exact if_neg hc

/-- Settles O29, clause by clause: the write of limit words, a step of a raise, the silent governor, and the edge that applies its
fallback. -/
theorem theCapFollowsTheGovernor : Obligations.TheCapFollowsTheGovernor := by
  intro s
  refine ⟨fun w hw hd => ?_, fun hfb hfn hlt => ?_, fun hle => ?_, fun h64 hg hfb hfn => ?_, fun hf hg hl => ?_, fun h => ?_⟩
  · have hok : LimitWordsOk w = true := hw
    have hd' : s.begin.start.steadingDown ≠ true := by rw [show s.begin.start.steadingDown = false from hd]; decide
    have hexec : exec (.limitWordWrite w) s = run (opLimitWordWrite w) s :=
      (show exec (.limitWordWrite w) s = runIf (LimitWordsOk w) (opLimitWordWrite w) s from rfl).trans (if_pos hok)
    exact completes_of_eq hexec (if_neg hd') ⟨rfl, rfl, rfl, rfl, rfl⟩
  · have hc : ¬ (s.begin.onF F.pwrStat_fallback || s.begin.tick.fallbackNext || decide (s.begin.heat.capTarget ≤ s.begin.capNext)) = true := by
      rw [show s.begin.onF F.pwrStat_fallback = false from hfb, show s.begin.tick.fallbackNext = false from hfn,
        decide_eq_false (show ¬ s.begin.heat.capTarget ≤ s.begin.capNext from Nat.not_le.2 hlt)]
      decide
    exact completes_of_eq (f := opCapRaiseStep) rfl (if_neg hc) ⟨rfl, rfl⟩
  · have hc : (s.begin.onF F.pwrStat_fallback || s.begin.tick.fallbackNext || decide (s.begin.heat.capTarget ≤ s.begin.capNext)) = true := by
      rw [decide_eq_true (show s.begin.heat.capTarget ≤ s.begin.capNext from hle), Bool.or_true]
    exact idles_of_run (f := opCapRaiseStep) rfl (if_pos hc)
  · have hev := raise_afterEvents s.begin.fallsBack 0x12 0 0 (BitVec.ofNat 64 s.tick.updatesAgo) [] []
    have hop := opGovernorSilent_of_silent (s := s.begin) h64 hg hfb hfn
    generalize hu : s.begin.fallsBack.raise 0x12 0 0 (BitVec.ofNat 64 s.tick.updatesAgo) = u at hev
    have ht := hev.tick
    refine completes_of_eq (f := opGovernorSilent) rfl (hop.trans hu) ⟨?_, ?_, afterEvents_of_eventPath (s := s.fallsBack) hev⟩
    · simp only [State.capNext, ht]
      rfl
    · exact congrArg TickSt.fallbackNext ht
  · rw [applyLimits_fallback hf hg hl]
    refine ⟨?_, ?_, rfl, ?_⟩
    · exact (getF_putF_apart _ _ _ _ _ (by decide) (by decide)).trans (getF_putF_same _ _ _ _ (by decide))
    · exact onF_of_bit (b := true) (getF_putF_same _ _ _ _ (by decide))
    · exact sameRegs_of_regs (((putsRegs_refl [regKey R.pwrStat 0] s).putF F.pwrStat_cap 0 800 (by simp [F.pwrStat_cap])).putF
        F.pwrStat_fallback 0 1 (by simp [F.pwrStat_fallback])).2 rfl
  · have hc : (decide (s.begin.tick.updatesAgo < 64) || s.begin.tick.govWrote || s.begin.onF F.pwrStat_fallback ||
        s.begin.tick.fallbackNext) = true := by
      simp only [Bool.or_eq_true, decide_eq_true_eq, or_assoc]
      exact h
    exact idles_of_run (f := opGovernorSilent) rfl (if_pos hc)

end Sys2Proof.Machine
end

section
/-! SUPPORT. Staged copies, and O28: they are written and reverted. -/

namespace Sys2Proof.Machine

/-! ## Keys of ST registers (R11) -/

theorem mem_of_keyReg {k : Nat} {r : Reg} (h : keyReg k = some r) : r ∈ stRegs := List.mem_of_find?_eq_some h

theorem regKey_of_keyReg {k : Nat} {r : Reg} (h : keyReg k = some r) : regKey r (keyInst k) = k := by
  have ho : r.off = k / 65536 * 8 := by simpa using List.find?_some h
  simp only [regKey, keyInst, ho]
  omega

/-- No two ST registers stand at one offset. -/
theorem stRegs_off_inj : ∀ r ∈ stRegs, ∀ q ∈ stRegs, q.off = r.off → q = r := by decide

theorem find_stReg {r : Reg} (h : r ∈ stRegs) {o : Nat} (ho : o = r.off) : stRegs.find? (fun q => q.off == o) = some r := by
  have hs : (stRegs.find? (fun q => q.off == o)).isSome = true := List.find?_isSome.2 ⟨r, h, by simp [ho]⟩
  obtain ⟨q, hq⟩ := Option.isSome_iff_exists.1 hs
  have hqo : q.off = r.off := by simpa [ho] using List.find?_some hq
  rw [hq, stRegs_off_inj r h q (List.mem_of_find?_eq_some hq) hqo]

/-- A word of a staged copy is that of its key. -/
theorem stagedKey_of_keyReg {s : State} {k : Nat} {r : Reg} (h : keyReg k = some r) : s.stagedKey k = tget (regReset r (keyInst k)) s.staged k := by
  simp only [State.stagedKey, h, Option.map_some, Option.getD_some, State.stagedReg, regKey_of_keyReg h]

theorem activeKey_of_keyReg {s : State} {k : Nat} {r : Reg} (h : keyReg k = some r) : s.activeKey k = tget (regReset r (keyInst k)) s.regs k := by
  simp only [State.activeKey, h, Option.map_some, Option.getD_some, State.reg, regKey_of_keyReg h]

theorem putStagedKey_frame (s : State) (k : Nat) (v : Word) : s.putStagedKey k v = { s with staged := (s.putStagedKey k v).staged } := by
  unfold State.putStagedKey
  split <;> rfl

theorem stagedKey_putStagedKey (s : State) (k j : Nat) (v : Word) (hv : keyReg k = none → v = 0) :
    (s.putStagedKey k v).stagedKey j = if k = j then v else s.stagedKey j := by
  by_cases hkj : k = j
  · subst hkj
    rw [if_pos rfl]
    cases h : keyReg k with
    | none => simp only [State.stagedKey, h, Option.map_none, Option.getD_none, hv h]
    | some r =>
      rw [stagedKey_of_keyReg h]
      simp only [State.putStagedKey, h, State.setStaged, regKey_of_keyReg h]
      exact tget_tput_same ..
  · rw [if_neg hkj]
    cases hj : keyReg j with
    | none => simp only [State.stagedKey, hj, Option.map_none]
    | some q =>
      rw [stagedKey_of_keyReg hj, stagedKey_of_keyReg hj]
      cases h : keyReg k with
      | none => simp only [State.putStagedKey, h]
      | some r =>
        simp only [State.putStagedKey, h, State.setStaged, regKey_of_keyReg h]
        exact tget_tput_ne (h := hkj) ..

/-! ## A revert (R524) -/

/-- The staged copies of some keys are made equal to the active ones. -/
def State.revertKeys (s : State) (l : List Nat) : State := l.foldl (fun s k => s.putStagedKey k (s.activeKey k)) s

theorem revertKeys_frame (s : State) (l : List Nat) : ∃ st, s.revertKeys l = { s with staged := st } := by
  refine foldl_rel (r := fun s t => ∃ st, t = { s with staged := st }) (fun s => ⟨s.staged, rfl⟩) ?_ ?_ l s
  · rintro s t u ⟨a, rfl⟩ ⟨b, rfl⟩
    exact ⟨b, rfl⟩
  · exact fun s k => ⟨_, putStagedKey_frame s k _⟩

theorem activeKey_putStagedKey (s : State) (k j : Nat) (v : Word) : (s.putStagedKey k v).activeKey j = s.activeKey j := by
  rw [putStagedKey_frame]
  rfl

theorem activeKey_of_none {s : State} {k : Nat} (h : keyReg k = none) : s.activeKey k = 0 := by simp [State.activeKey, h]

theorem revertKeys_stagedKey (l : List Nat) (s : State) (k : Nat) :
    (s.revertKeys l).stagedKey k = if k ∈ l then s.activeKey k else s.stagedKey k := by
  induction l generalizing s with
  | nil => simp [State.revertKeys]
  | cons a l ih =>
    have h := ih (s.putStagedKey a (s.activeKey a))
    rw [activeKey_putStagedKey, stagedKey_putStagedKey _ _ _ _ (fun h => activeKey_of_none h)] at h
    refine h.trans ?_
    by_cases hk : k ∈ l
    · simp [hk]
    · by_cases ha : a = k
      · subst ha; simp [hk]
      · simp [hk, ha, Ne.symm ha]

theorem mem_insertBy {α : Type} (f : α → Nat) (x y : α) (l : List α) : y ∈ insertBy f x l ↔ y = x ∨ y ∈ l := by
  induction l with
  | nil => simp [insertBy]
  | cons a l ih =>
    simp only [insertBy]
    split
    · simp
    · simp only [List.mem_cons, ih]
      tauto

theorem mem_sortBy {α : Type} (f : α → Nat) (y : α) (l : List α) : y ∈ sortBy f l ↔ y ∈ l := by
  have h : ∀ acc : List α, y ∈ l.foldl (fun acc x => insertBy f x acc) acc ↔ y ∈ acc ∨ y ∈ l := by
    induction l with
    | nil => simp
    | cons a l ih =>
      intro acc
      rw [List.foldl_cons, ih, mem_insertBy, List.mem_cons]
      tauto
  simpa [sortBy] using h []

theorem tget_of_not_mem {α : Type} (d : α) (t : Tbl α) (k : Nat) (h : k ∉ t.map (fun e => e.1)) : tget d t k = d := by
  induction t with
  | nil => rfl
  | cons e t ih =>
    rw [List.map_cons, List.mem_cons, not_or] at h
    rw [tget_cons, if_neg (Ne.symm h.1), ih h.2]

/-- A key that TIK_STG.diff does not count has equal copies. -/
theorem stagedKey_of_not_diff {s : State} {k : Nat} (h : k ∉ s.stagedDiff) : s.stagedKey k = s.activeKey k := by
  by_contra hne
  cases hr : keyReg k with
  | none => exact hne (by simp [State.stagedKey, State.activeKey, hr])
  | some r =>
    have hb : (s.activeKey k != s.stagedKey k) = true := bne_iff_ne.2 (Ne.symm hne)
    have hm : k ∉ s.regs.map (fun e => e.1) ++ s.staged.map (fun e => e.1) := by
      intro hm
      refine h ((mem_sortBy ..).2 (List.mem_filter.2 ⟨List.mem_eraseDups.2 hm, ?_⟩))
      rw [hr, hb]
      rfl
    rw [List.mem_append, not_or] at hm
    rw [stagedKey_of_keyReg hr, activeKey_of_keyReg hr, tget_of_not_mem _ _ _ hm.1, tget_of_not_mem _ _ _ hm.2] at hne
    exact hne rfl

/-- After the revert of every key that differs no copy differs. -/
theorem revert_stagedKey (s : State) (k : Nat) : (s.revertKeys s.stagedDiff).stagedKey k = s.activeKey k := by
  rw [revertKeys_stagedKey]
  split
  · rfl
  · next h => exact stagedKey_of_not_diff h

theorem stagedDiff_of_equal {s : State} (h : ∀ k, s.stagedKey k = s.activeKey k) : s.stagedDiff = [] := by
  refine List.eq_nil_iff_forall_not_mem.2 (fun k hk => ?_)
  have h' := (List.mem_filter.1 ((mem_sortBy ..).1 hk)).2
  rw [h k, bne_self_eq_false, Bool.and_false] at h'
  exact Bool.false_ne_true h'

/-! ## TIK_STG -/

theorem putsRegs_showDiff {ks : List Nat} {s u : State} (h : putsRegs ks s u) (hk : regKey R.tikStg 0 ∈ ks) : putsRegs ks s u.showDiff :=
  (h.putF F.tikStg_dirty 0 _ hk).putF F.tikStg_diff 0 _ hk

theorem showDiff_frame (s : State) : s.showDiff = { s with regs := s.showDiff.regs } := rfl

theorem showDiff_diff (s : State) : s.showDiff.getF F.tikStg_diff = s.stagedDiff.length % 2 ^ F.tikStg_diff.width :=
  getF_putF_same (s.putF F.tikStg_dirty 0 (bit (decide (0 < s.stagedDiff.length)))) F.tikStg_diff 0 s.stagedDiff.length (by decide)

theorem showDiff_last (s : State) : s.showDiff.getF F.tikStg_last = s.getF F.tikStg_last :=
  (getF_putF_apart _ _ _ _ _ (by decide) (by decide)).trans (getF_putF_apart _ _ _ _ _ (by decide) (by decide))

theorem showDiff_sameRegs (s : State) : sameRegs [regKey R.tikStg 0] s s.showDiff := (putsRegs_showDiff (putsRegs_refl _ s) (by simp)).2

/-! ## A write to a staged copy (R11, R522) -/

/-- The state with a staged copy written, before TIK_STG tells of it. -/
def State.stagesWord (s : State) (r : Reg) (i off n : Nat) (v : Word) : State :=
  s.setStaged r i ((s.stagedReg r i &&& ~~~(stMask r &&& writeMask off n)) ||| (writeValue off v &&& (stMask r &&& writeMask off n)))

theorem opStagedWrite_of_reached {by_ : Requester} {off n : Nat} {v : Word} {r : Reg} {s : State} (hr : r ∈ stRegs) (ho : off / 8 * 8 = r.off)
    (hi : s.shownInst by_ r < instances r.shown) (hb : by_ ≠ .i3c) (ha : accessOk off n = true) (hs : s.reaches by_ off = true) :
    ∃ after, opStagedWrite by_ off n v s =
      (({ s.stagesWord r (s.shownInst by_ r) off n v with stagedAfter := after } : State).putF F.tikStg_last 0
        (if by_ == .host then 1 else 2)).showDiff := by
  have hc : ¬ (by_ == .i3c || !accessOk off n || !s.reaches by_ off || decide (instances r.shown ≤ s.shownInst by_ r)) = true := by
    rw [beq_eq_false_iff_ne.2 hb, ha, hs, decide_eq_false (Nat.not_le.2 hi)]
    decide
  simp only [opStagedWrite, find_stReg hr ho, if_neg hc]
  split
  · exact ⟨_, rfl⟩
  · exact ⟨_, rfl⟩

/-- Settles O28: a write to a staged copy, and a revert. -/
theorem stagedCopiesAreWrittenAndReverted : Obligations.StagedCopiesAreWrittenAndReverted := by
  refine ⟨?_, fun s hs => ?_⟩
  · rintro by_ off n v r i s hr ho rfl hi hb ha hs
    obtain ⟨after, hop⟩ := opStagedWrite_of_reached (n := n) (v := v) (s := s.begin) hr ho hi hb ha hs
    refine completes_of_eq (f := opStagedWrite by_ off.toNat n v) rfl hop ⟨?_, fun d k hk => ?_, ?_, ?_, ?_⟩
    · exact stagedReg_setStaged_same s.begin r _ _
    · exact tget_tput_ne (h := Ne.symm hk) ..
    · refine (showDiff_last _).trans ((getF_putF_same _ _ _ _ (by decide)).trans ?_)
      cases by_ <;> rfl
    · have h := putsRegs_showDiff (((putsRegs_refl [regKey R.tikStg 0]
        { s.begin.stagesWord r (s.begin.shownInst by_ r) off.toNat n v with stagedAfter := after }).putF F.tikStg_last 0
          (if by_ == .host then 1 else 2) (by simp [F.tikStg_last]))) (by simp)
      exact h.2
    · rfl
  · have hb : s.begin.reaches .host R.tikStg.off = true := hs
    obtain ⟨st, hst⟩ := revertKeys_frame s.begin s.begin.stagedDiff
    have heq : ∀ k, (s.begin.revertKeys s.begin.stagedDiff).stagedKey k = s.activeKey k := revert_stagedKey s.begin
    have hact : ∀ k, (s.begin.revertKeys s.begin.stagedDiff).activeKey k = s.activeKey k := fun k => by rw [hst]; rfl
    have hdiff := stagedDiff_of_equal (s := s.begin.revertKeys s.begin.stagedDiff) (fun k => (heq k).trans (hact k).symm)
    have hop : (if s.begin.reaches .host R.tikStg.off then opRevert s.begin else s.begin) =
        (s.begin.revertKeys s.begin.stagedDiff).showDiff := if_pos hb
    generalize s.begin.revertKeys s.begin.stagedDiff = u at hst heq hdiff hop
    refine completes_of_eq (f := fun s => if s.reaches .host R.tikStg.off then opRevert s else s) rfl hop ⟨heq, ?_, ?_, ?_, ?_⟩
    · exact (showDiff_diff u).trans (by rw [hdiff]; rfl)
    · rw [showDiff_frame, hst]
      rfl
    · exact fun d k hk => (showDiff_sameRegs u d k hk).trans (by rw [hst]; rfl)
    · rw [showDiff_frame, hst]
      rfl

end Sys2Proof.Machine
end

section
/-! SUPPORT. The words a part tells the ring, and O26, O27: commit requests and failed commits. -/

namespace Sys2Proof.Machine

/-! ## Control words carried on (R328) -/

theorem foldl_send {α : Type} (f : α → Output) (l : List α) (s : State) :
    l.foldl (fun s a => s.send (f a)) s = { s with out := s.out ++ l.map f } := by
  induction l generalizing s with
  | nil => simp
  | cons a l ih =>
    rw [List.foldl_cons, ih]
    simp [State.send]

/-- A word leaves by every port that holds take but the one it came by, and is remembered. -/
theorem relay_eq (s : State) (port : Option Nat) (part : Nat) (w : CtlWord) :
    s.relay port part w = { s with
      ring := { s.ring with seen := s.ring.seen ++ [(part, w)] }
      out := s.out ++ (s.takePorts.filter (fun p => some p != port)).map (fun p => .ctl p part w) } := foldl_send ..

/-- Sending words of the ring changes what has been seen and what has gone out. -/
def ringPath (s t : State) : Prop := ∃ ring out, t = { s with ring := ring, out := out }

theorem ringPath_refl (s : State) : ringPath s s := ⟨_, _, rfl⟩

theorem ringPath_trans (s t u : State) (h : ringPath s t) (h' : ringPath t u) : ringPath s u := by
  obtain ⟨r, o, rfl⟩ := h
  obtain ⟨r', o', rfl⟩ := h'
  exact ⟨r', o', rfl⟩

theorem ringPath_ite {s t u : State} {c : Prop} [Decidable c] (h : ringPath s t) (h' : ringPath s u) : ringPath s (if c then t else u) := by
  split
  · exact h
  · exact h'

theorem ringPath_tell (s : State) (w : CtlWord) : ringPath s (s.tell w) := ⟨_, _, relay_eq ..⟩

theorem ringPath_openRingCommit (s : State) : ringPath s s.openRingCommit :=
  ringPath_ite (ringPath_refl s) (ringPath_trans _ _ _ ⟨_, _, rfl⟩ (ringPath_tell ..))

/-! ## An accepted request (R30, R98) -/

/-- The fields of TIK_CMT_STAT for a commit in flight. -/
def State.showPending (s : State) (steading : Bool) : State :=
  ((s.putF F.tikCmtStat_result 0 1).putF F.tikCmtStat_source 0 (bit steading)).putF F.tikCmtStat_deferred 0 0

/-- A request that is accepted is in flight with what it captured; beyond that only words of the ring are sent. -/
theorem accept_eq (s : State) (steading align : Bool) (captured : List (Nat × Word)) (images : List Nat) : ∃ ringed : Bool,
    ringPath (({ s with
      commit := some { steading := steading, align := align, captured := captured, images := images, ringed := ringed }, stagedAfter := [] } :
        State).showPending steading) (s.accept steading align captured images) := by
  refine ⟨!align && s.onRing && s.tickValues { steading := steading, align := align, captured := captured, images := images } != s.tickNow, ?_⟩
  have htell : ∀ (c : CommitSt) (s : State), ringPath s ((s.partSheafs c).foldl (fun s d => s.tell (.digest d.id (descDigest d))) s) :=
    fun c s => foldl_rel ringPath_refl ringPath_trans (fun s d => ringPath_tell ..) _ s
  exact ringPath_ite (htell _ _) (ringPath_ite (ringPath_trans _ _ _ (htell _ _) (ringPath_openRingCommit _))
    (ringPath_trans _ _ _ (htell _ _) (ringPath_tell ..)))

section
variable (s : State) (steading : Bool)

theorem putsRegs_showPending : putsRegs [regKey R.tikCmtStat 0] s (s.showPending steading) :=
  (((putsRegs_refl _ s).putF F.tikCmtStat_result 0 1 (by simp [F.tikCmtStat_result])).putF F.tikCmtStat_source 0 _
    (by simp [F.tikCmtStat_source])).putF F.tikCmtStat_deferred 0 0 (by simp [F.tikCmtStat_deferred])

theorem showPending_frame : s.showPending steading = { s with regs := (s.showPending steading).regs } := rfl

theorem showPending_fields : (s.showPending steading).getF F.tikCmtStat_result = 1 ∧
    (s.showPending steading).getF F.tikCmtStat_source = if steading then 1 else 0 := by
  simp (disch := decide) only [State.showPending, getF_putF_apart, getF_putF_same]
  cases steading <;> exact ⟨rfl, rfl⟩
end

/-! ## A refused request, and a failed commit -/

/-- The record of a failure writes two registers. -/
theorem putsRegs_recordFail (s : State) (steading : Bool) (code off inst : Nat) :
    putsRegs [regKey R.tikCmtStat 0, regKey R.tikCmtWhere 0] s (s.recordFail steading code off inst) :=
  (((((((putsRegs_refl _ s).putF F.tikCmtStat_result 0 3 (by simp [F.tikCmtStat_result])).putF F.tikCmtStat_source 0 _
    (by simp [F.tikCmtStat_source])).putF F.tikCmtStat_check 0 _ (by simp [F.tikCmtStat_check])).putF F.tikCmtStat_edge 0 _
    (by simp [F.tikCmtStat_edge])).putF F.tikCmtStat_deferred 0 0 (by simp [F.tikCmtStat_deferred])).putF F.tikCmtWhere_offset 0 off
    (by simp [F.tikCmtWhere_offset])).putF F.tikCmtWhere_instance 0 inst (by simp [F.tikCmtWhere_instance])

theorem recordFail_fields (s : State) (steading : Bool) (code off inst : Nat) :
    (s.recordFail steading code off inst).getF F.tikCmtStat_result = 3 ∧
    (s.recordFail steading code off inst).getF F.tikCmtStat_source = (if steading then 1 else 0) ∧
    (s.recordFail steading code off inst).getF F.tikCmtStat_check = code % 65536 ∧
    (s.recordFail steading code off inst).getF F.tikCmtWhere_offset = off % 65536 ∧
    (s.recordFail steading code off inst).getF F.tikCmtWhere_instance = inst % 65536 := by
  simp (disch := decide) only [State.recordFail, getF_putF_apart, getF_putF_off, getF_putF_same]
  cases steading <;> exact ⟨rfl, rfl, rfl, rfl, rfl⟩

section
variable {st : Bool} {now : Nat} {s : State} (hw : s.start.warmReset = false)
include hw

theorem opCommitRequest_of_none (hc : s.commit = none) : opCommitRequest st now s =
    (s.at_ now).accept st false ((s.at_ now).stagedDiff.map (fun k => (k, (s.at_ now).stagedKey k)))
      ((List.range 8).filter (fun j => ((s.at_ now).prog j).state == .staged)) := by
  have hw' : (s.at_ now).start.warmReset = false := hw
  have hc' : (s.at_ now).commit = none := hc
  simp only [opCommitRequest, hw', hc', Bool.false_eq_true, if_false, Option.isSome_none]

theorem opCommitRequest_of_some (hc : s.commit.isSome = true) : opCommitRequest st now s = (s.at_ now).recordFail st 0x0301 0 0 := by
  have hw' : (s.at_ now).start.warmReset = false := hw
  have hc' : (s.at_ now).commit.isSome = true := hc
  simp only [opCommitRequest, hw', hc', Bool.false_eq_true, if_false, if_true]
end

/-- Settles O26: the requests of both requesters are one operation. -/
theorem aCommitCapturesWhatDiffers : Obligations.ACommitCapturesWhatDiffers := by
  intro st c by_ now s hcase hreach hwarm
  have hb : s.begin.start.warmReset = false := hwarm
  have hexec : exec c s = run (opCommitRequest st now) s := by
    rcases hcase with ⟨rfl, rfl, rfl⟩ | ⟨rfl, rfl, rfl⟩
    · have hr : s.begin.reaches .host R.tikCmt.off = true := hreach
      exact (show exec (.commitRequest now) s = run (fun s => if s.reaches .host R.tikCmt.off then opCommitRequest false now s else s) s
        from rfl).trans (by rw [run_eq, if_pos hr, run_eq])
    · have hr : s.begin.reaches .steading R.tikCmt.off = true := hreach
      exact (show exec (.steadingCommitRequest now) s = run (fun s => if s.reaches .steading R.tikCmt.off then opCommitRequest true now s else s) s
        from rfl).trans (by rw [run_eq, if_pos hr, run_eq])
  refine ⟨fun hc => ?_, fun hc => ?_⟩
  · have hop := opCommitRequest_of_none (st := st) (now := now) hb hc
    obtain ⟨ringed, ring, out, hacc⟩ := accept_eq (s.begin.at_ now) st false
      ((s.begin.at_ now).stagedDiff.map (fun k => (k, (s.begin.at_ now).stagedKey k)))
      ((List.range 8).filter (fun j => ((s.begin.at_ now).prog j).state == .staged))
    rw [hacc] at hop
    obtain ⟨h1, h2⟩ := showPending_fields ({ s.begin.at_ now with
      commit := some { steading := st, align := false, captured := (s.begin.at_ now).stagedDiff.map (fun k => (k, (s.begin.at_ now).stagedKey k))
                       images := (List.range 8).filter (fun j => ((s.begin.at_ now).prog j).state == .staged), ringed := ringed }
      stagedAfter := [] } : State) st
    exact completes_of_eq hexec hop ⟨rfl, h1, h2, rfl, rfl, (putsRegs_showPending ..).2, rfl, rfl, rfl, rfl, rfl⟩
  · obtain ⟨h1, h2, h3, -, -⟩ := recordFail_fields (s.begin.at_ now) st 0x0301 0 0
    have hp := putsRegs_recordFail (s.begin.at_ now) st 0x0301 0 0
    have hop := opCommitRequest_of_some (st := st) (now := now) hb hc
    generalize (s.begin.at_ now).recordFail st 0x0301 0 0 = u at h1 h2 h3 hp hop
    obtain ⟨heq, hsame⟩ := onlyRegsAt_of_putsRegs hp
    exact completes_of_eq hexec hop ⟨h1, h3, h2, hsame, heq⟩

/-! ## The end of a commit's checks (R11, R99) -/

/-- The digests of some sheafs are given up. -/
theorem dropDigests_frame (ds : List SheafDesc) (s : State) : ∃ sheafs,
    ds.foldl (fun s d => s.setSheaf d.id { s.sheaf d.id with digests := [] }) s = { s with ctl := { s.ctl with sheafs := sheafs } } := by
  refine foldl_rel (r := fun s t => ∃ sheafs, t = { s with ctl := { s.ctl with sheafs := sheafs } }) (fun s => ⟨s.ctl.sheafs, rfl⟩) ?_
    (fun s d => ⟨_, rfl⟩) ds s
  rintro s t u ⟨a, rfl⟩ ⟨b, rfl⟩
  exact ⟨b, rfl⟩

theorem dropDigests_sheaf (ds : List SheafDesc) (s : State) (i : Nat) :
    (ds.foldl (fun s d => s.setSheaf d.id { s.sheaf d.id with digests := [] }) s).sheaf i = s.sheaf i ∨
    (ds.foldl (fun s d => s.setSheaf d.id { s.sheaf d.id with digests := [] }) s).sheaf i = { s.sheaf i with digests := [] } := by
  refine foldl_rel (r := fun s t => t.sheaf i = s.sheaf i ∨ t.sheaf i = { s.sheaf i with digests := [] }) (fun s => .inl rfl) ?_ ?_ ds s
  · rintro s t u (h | h) (h' | h')
    · exact .inl (h'.trans h)
    · exact .inr (h'.trans (by rw [h]))
    · exact .inr (h'.trans h)
    · exact .inr (h'.trans (by rw [h]))
  · intro s d
    by_cases h : d.id = i
    · subst h
      exact .inr (sheaf_setSheaf_same ..)
    · exact .inl (sheaf_setSheaf_ne (h := h) ..)

/-- The fields of a failed commit that was no ring commit and no alignment. -/
def State.showFailed (s : State) (c : CommitSt) (f : Nat × Nat × Nat) : State :=
  (s.recordFail c.steading f.1 f.2.1 f.2.2).putF F.tikCmtStat_deferred 0 (bit c.deferred)

theorem putsRegs_showFailed (s : State) (c : CommitSt) (f : Nat × Nat × Nat) :
    putsRegs [regKey R.tikCmtStat 0, regKey R.tikCmtWhere 0] s (s.showFailed c f) :=
  (putsRegs_recordFail ..).putF F.tikCmtStat_deferred 0 _ (by simp [F.tikCmtStat_deferred])

theorem showFailed_fields (s : State) (c : CommitSt) (f : Nat × Nat × Nat) :
    (s.showFailed c f).getF F.tikCmtStat_result = 3 ∧ (s.showFailed c f).getF F.tikCmtStat_check = f.1 % 65536 ∧
    (s.showFailed c f).getF F.tikCmtWhere_offset = f.2.1 % 65536 ∧ (s.showFailed c f).getF F.tikCmtWhere_instance = f.2.2 % 65536 := by
  obtain ⟨h1, -, h3, h4, h5⟩ := recordFail_fields s c.steading f.1 f.2.1 f.2.2
  exact ⟨(getF_putF_apart _ _ _ _ _ (by decide) (by decide)).trans h1, (getF_putF_apart _ _ _ _ _ (by decide) (by decide)).trans h3,
    (getF_putF_off _ _ _ _ _ _ (by decide)).trans h4, (getF_putF_off _ _ _ _ _ _ (by decide)).trans h5⟩

theorem startAlign_of_none {s : State} (h : s.ring.alignValues = none) : s.startAlign = s := by simp only [State.startAlign, h]

theorem failCommit_eq {s : State} {c : CommitSt} (f : Nat × Nat × Nat) (hc : s.commit = some c) (hr : c.ringed = false)
    (ha : c.align = false) (hv : s.ring.alignValues = none) : ∃ sheafs, s.failCommit f =
      ({ s with commit := none, ctl := { s.ctl with sheafs := sheafs } } : State).showFailed c f ∧
      ∀ i, tget {} sheafs i = s.sheaf i ∨ tget {} sheafs i = { s.sheaf i with digests := [] } := by
  obtain ⟨sheafs, hd⟩ := dropDigests_frame (s.partSheafs c) s
  have hi := dropDigests_sheaf (s.partSheafs c) s
  rw [hd] at hi
  refine ⟨sheafs, ?_, hi⟩
  simp only [State.failCommit, hc, ha, hr, Bool.false_eq_true, if_false, hd]
  exact startAlign_of_none hv

/-- Settles O27: checks that pass, and the first that fails. -/
theorem aFailedCommitLeavesBothCopies : Obligations.AFailedCommitLeavesBothCopies := by
  intro now c s hc hk hr
  have hc' : (s.begin.at_ now).commit = some c := hc
  refine ⟨fun hp => ?_, fun f hf ha hv => ?_⟩
  · have hp' : (s.begin.at_ now).commitChecks c = none := hp
    refine completes_of_eq (f := opChecksDone now) (u := { s.begin.at_ now with commit := some { c with checked := true } }) rfl ?_ rfl
    simp only [opChecksDone, hc', hk, hp', hr, Bool.false_eq_true, if_false]
  · have hf' : (s.begin.at_ now).commitChecks c = some f := hf
    obtain ⟨sheafs, hfail, hi⟩ := failCommit_eq (s := s.begin.at_ now) f hc' hr ha hv
    have hop : opChecksDone now s.begin = (s.begin.at_ now).failCommit f := by
      simp only [opChecksDone, hc', hk, hf', hr, Bool.false_eq_true, if_false]
    rw [hfail] at hop
    obtain ⟨v, hv⟩ : ∃ v : State, v = { s.begin.at_ now with commit := none, ctl := { (s.begin.at_ now).ctl with sheafs := sheafs } } :=
      ⟨_, rfl⟩
    rw [← hv] at hop
    obtain ⟨h1, h2, h3, h4⟩ := showFailed_fields v c f
    obtain ⟨hreg, hsame⟩ := putsRegs_showFailed v c f
    generalize v.showFailed c f = u at hop h1 h2 h3 h4 hreg hsame
    generalize u.regs = regs at hreg
    subst hreg hv
    exact completes_of_eq (f := opChecksDone now) rfl hop ⟨rfl, h1, h2, h3, h4, rfl, hi, sameRegs_of_regs hsame rfl, rfl⟩

end Sys2Proof.Machine
end

section
/-! SUPPORT. O22: a stage's finish and its margin. -/

namespace Sys2Proof.Machine

/-- The registers that the lateness of a stage is recorded in. -/
def State.showLate (s : State) (c : Nat) (t : Stage) (f wait : Nat) : State :=
  let goal := t.finishNs + s.getF F.tikRaise_ns
  let own := f - goal - wait
  let s := (s.putF F.celTick_margin_ns c (int32 ((goal : Int) - (f : Int)))).putF F.celTick_own_late_ns c (min own (2 ^ 24 - 1))
  (s.putF F.celTick_late_run c (if decide (64 < own) then min 31 (s.getF F.celTick_late_run c + 1) else 0)).putF F.celTick_idle c 0

section
variable (s : State) (c : Nat) (t : Stage) (f wait : Nat)

/-- The record of a finish writes CEL_TICK and the cell's worst lateness. -/
theorem recordLate_eq : ∃ worst, s.recordLate c t f wait = (s.showLate c t f wait).modCell c (fun x => { x with worstLate := worst }) :=
  ⟨_, rfl⟩

theorem putsRegs_showLate : putsRegs [regKey R.celTick c] s (s.showLate c t f wait) :=
  ((((putsRegs_refl _ s).putF F.celTick_margin_ns c _ (by simp [F.celTick_margin_ns])).putF F.celTick_own_late_ns c _
    (by simp [F.celTick_own_late_ns])).putF F.celTick_late_run c _ (by simp [F.celTick_late_run])).putF F.celTick_idle c 0
    (by simp [F.celTick_idle])

theorem showLate_margin : (s.showLate c t f wait).getF F.celTick_margin_ns c =
    int32 (((t.finishNs + s.getF F.tikRaise_ns : Nat) : Int) - (f : Int)) % 2 ^ 32 := by
  simp (disch := decide) only [State.showLate, getF_putF_apart, getF_putF_same]
  rfl

theorem showLate_idle : (s.showLate c t f wait).getF F.celTick_idle c = 0 := getF_putF_same _ _ _ _ (by decide)

theorem putsRegs_idleCell : putsRegs [regKey R.celStat c, regKey R.mxcStat c, regKey R.thrStat c] s (s.idleCell c) :=
  (((putsRegs_refl _ s).putF F.celStat_busy c 0 (by simp [F.celStat_busy])).putF F.mxcStat_busy c 0 (by simp [F.mxcStat_busy])).putF
    F.thrStat_busy c 0 (by simp [F.thrStat_busy])

theorem idleCell_busy : (s.idleCell c).getF F.celStat_busy c = 0 :=
  (getF_putF_off _ _ _ _ _ _ (by decide)).trans ((getF_putF_off _ _ _ _ _ _ (by decide)).trans (getF_putF_same _ _ _ _ (by decide)))

theorem getF_idleCell_celTick (g : Fld) (hg : g.reg = R.celTick) : (s.idleCell c).getF g c = s.getF g c := by
  have h : ∀ r ∈ [R.celStat, R.mxcStat, R.thrStat], r.off / 8 ≠ g.reg.off / 8 := by rw [hg]; decide
  exact (getF_putF_off _ _ _ _ _ _ (h _ (by simp [F.thrStat_busy]))).trans ((getF_putF_off _ _ _ _ _ _ (h _ (by simp [F.mxcStat_busy]))).trans
    (getF_putF_off _ _ _ _ _ _ (h _ (by simp [F.celStat_busy]))))
end

theorem int32_mod (z : Int) : int32 z % 2 ^ 32 = int32 z := Nat.mod_eq_of_lt (BitVec.isLt _)

/-- A stage that finishes in time: its margin is recorded, the cell is no longer at work, and its finish is noted. -/
theorem opStageFinish_of_done {c now j : Nat} {e : Nat × Stage} {s : State} (hj : (s.cell c).job = some j) (he : s.stageOf c = some e)
    (hr : s.tick.running = true) (hw : s.tick.windowOpen = false) (hf : (s.cell c).finished = none) (hst : (s.cell c).stopped = false)
    (hre : (s.cell c).inReset = false) (hs : (s.cell c).started.isSome = true) (hd : (s.cell c).doneOps.length = e.2.opCount)
    (hl : now ≤ s.tick.edgeAt + s.stretchLimit) : ∃ wait,
      opStageFinish c now s = (((s.at_ now).recordLate c e.2 (now - s.tick.edgeAt) wait).modCell c
        (fun x => { x with finished := some now })).idleCell c := by
  obtain ⟨i, t⟩ := e
  have hj' : ((s.at_ now).cell c).job = some j := hj
  have he' : (s.at_ now).stageOf c = some (i, t) := he
  have hns : ((s.at_ now).cell c).started.isNone = false := by
    rw [show (s.at_ now).cell c = s.cell c from rfl]
    cases h : (s.cell c).started with
    | none => rw [h] at hs; cases hs
    | some _ => rfl
  have hc : ¬ (!(s.at_ now).tick.running || (s.at_ now).tick.windowOpen || ((s.at_ now).cell c).finished.isSome ||
      ((s.at_ now).cell c).stopped || ((s.at_ now).cell c).inReset ||
      ((((s.at_ now).cell c).started.isNone || ((s.at_ now).cell c).doneOps.length != t.opCount) && !((s.at_ now).prog j).invalid) ||
      decide ((s.at_ now).tick.edgeAt + (s.at_ now).stretchLimit < now)) = true := by
    rw [hns, show (s.at_ now).tick.running = true from hr, show (s.at_ now).tick.windowOpen = false from hw,
      show ((s.at_ now).cell c).finished = none from hf, show ((s.at_ now).cell c).stopped = false from hst,
      show ((s.at_ now).cell c).inReset = false from hre, show ((s.at_ now).cell c).doneOps.length = t.opCount from hd,
      decide_eq_false (show ¬ (s.at_ now).tick.edgeAt + (s.at_ now).stretchLimit < now from Nat.not_lt.2 hl)]
    simp
  refine ⟨(s.at_ now).waitBy j c t now, ?_⟩
  simp only [opStageFinish, hj', he']
  rw [if_neg hc, hns]
  rfl

/-- The changes of a finish, by the place where each is held. -/
theorem finished_spec (s : State) (c now : Nat) (t : Stage) (f wait : Nat) :
    ∃ cells, ((s.recordLate c t f wait).modCell c (fun x => { x with finished := some now })).idleCell c =
      ({ s.showLate c t f wait with cells := cells } : State).idleCell c ∧ (tget {} cells c).finished = some now ∧
      ∀ d, d ≠ c → tget {} cells d = s.cell d := by
  obtain ⟨worst, hrec⟩ := recordLate_eq s c t f wait
  rw [hrec]
  refine ⟨(((s.showLate c t f wait).modCell c (fun x => { x with worstLate := worst })).modCell c
    (fun x => { x with finished := some now })).cells, rfl, ?_, fun d hd => ?_⟩
  · exact congrArg Cell.finished (tget_tput_same ..)
  · exact (tget_tput_ne (h := Ne.symm hd) ..).trans (tget_tput_ne (h := Ne.symm hd) ..)

/-- Settles O22: the finish records the lateness of the cell and ends its work. -/
theorem aStageFinishRecordsTheMargin : Obligations.AStageFinishRecordsTheMargin := by
  intro cell now j e s hj he hr hw hf hst hre hs hd hle hl
  obtain ⟨wait, hop⟩ := opStageFinish_of_done (s := s.begin) (now := now) hj he hr hw hf hst hre hs hd hl
  obtain ⟨cells, hfin, hself, hother⟩ := finished_spec (s.begin.at_ now) cell.toNat now e.2 (now - s.begin.tick.edgeAt) wait
  rw [hfin] at hop
  obtain ⟨hvu, hvs⟩ := putsRegs_showLate (s.begin.at_ now) cell.toNat e.2 (now - s.begin.tick.edgeAt) wait
  have hmargin := showLate_margin (s.begin.at_ now) cell.toNat e.2 (now - s.begin.tick.edgeAt) wait
  have hidle := showLate_idle (s.begin.at_ now) cell.toNat e.2 (now - s.begin.tick.edgeAt) wait
  generalize (s.begin.at_ now).showLate cell.toNat e.2 (now - s.begin.tick.edgeAt) wait = v at hop hvu hvs hmargin hidle
  obtain ⟨htu, hts⟩ := putsRegs_idleCell { v with cells := cells } cell.toNat
  have hbusy := idleCell_busy { v with cells := cells } cell.toNat
  have hm := getF_idleCell_celTick { v with cells := cells } cell.toNat F.celTick_margin_ns rfl
  have hi := getF_idleCell_celTick { v with cells := cells } cell.toNat F.celTick_idle rfl
  generalize ({ v with cells := cells } : State).idleCell cell.toNat = u at hop htu hts hbusy hm hi
  have hsame : sameRegs [regKey R.celTick cell.toNat, regKey R.celStat cell.toNat, regKey R.mxcStat cell.toNat, regKey R.thrStat cell.toNat]
      s u := fun d k hk => (hts d k (fun h => hk (List.mem_cons_of_mem _ h))).trans
    (hvs d k (fun h => hk (by rw [List.mem_singleton.1 h]; exact List.mem_cons_self)))
  generalize v.regs = r at hvu
  subst hvu
  generalize u.regs = r' at htu
  subst htu
  refine completes_of_eq (f := opStageFinish cell.toNat now) rfl hop ⟨hself, hother, ?_, ?_, ?_, hsame, rfl⟩
  · exact onF_of_bit (b := false) hbusy
  · exact onF_of_bit (b := false) (hi.trans hidle)
  · refine (hm.trans hmargin).trans ((int32_mod _).trans ?_)
    rw [int32, Nat.cast_add]
    rfl

end Sys2Proof.Machine
end

section
/-! SUPPORT. O21: a stage starts with its first input. -/

namespace Sys2Proof.Machine

/-! ## A stage whose first entry waits for rows -/

theorem cell_modCell_same (s : State) (c : Nat) (f : Cell → Cell) : (s.modCell c f).cell c = f (s.cell c) := cell_setCell_same ..

theorem cell_modCell_ne (s : State) {c d : Nat} (f : Cell → Cell) (h : c ≠ d) : (s.modCell c f).cell d = s.cell d := cell_setCell_ne (h := h) ..

/-- What an entry of a stage that is no A, G or L stage needs: its rows and entries done. -/
theorem entryReady_congr {s u : State} {j c : Nat} {t : Stage} {i : Nat} (hA : t.kind ≠ kA) (hG : t.kind ≠ kG)
    (hctl : u.ctl = s.ctl) (hrows : (u.cell c).rowsIn = (s.cell c).rowsIn) (hdone : (u.cell c).doneOps = (s.cell c).doneOps) :
    u.entryReady j c t i = s.entryReady j c t i := by
  have himg : u.image j = s.image j := by simp only [State.image, State.prog, hctl]
  have hprog : u.prog j = s.prog j := by simp only [State.prog, hctl]
  have hin : ∀ x k, u.inputDone j c t i x k = s.inputDone j c t i x k := fun x k => by
    simp only [State.inputDone, himg, hprog, hrows, hdone]
  have hsrc : ∀ o, u.srcDone j c t o = s.srcDone j c t o := fun o => by
    have hrun : u.runnerOf j (t.f o 2) = s.runnerOf j (t.f o 2) := by simp only [State.runnerOf, hprog]
    simp only [State.srcDone, hrows, hrun]
  simp only [State.entryReady, if_neg hA, if_neg hG, himg, hin, hsrc]

/-- An entry in its turn that is not ready leaves the stage as it is. -/
theorem turn_of_not_ready {s : State} {j c : Nat} {t : Stage} {i : Nat} (h : s.entryReady j c t i = false) : s.turn j c t i = s := by
  simp only [State.turn, h, Bool.not_false, if_true]

/-- A stage with no entry done, whose first entry is not ready, has nothing to run. -/
theorem turns_of_first_not_ready {s : State} {j c : Nat} {t : Stage} (hd : (s.cell c).doneOps = [])
    (h : s.entryReady j c t 0 = false) (l : List Nat) :
    l.foldl (fun s i => if s.works c && (s.cell c).prepared && !(s.cell c).doneOps.contains i && decide ((s.cell c).doneOps.length = i)
      then s.turn j c t i else s) s = s := by
  induction l with
  | nil => rfl
  | cons i l ih =>
    rw [List.foldl_cons]
    have hstep : (if s.works c && (s.cell c).prepared && !(s.cell c).doneOps.contains i && decide ((s.cell c).doneOps.length = i)
        then s.turn j c t i else s) = s := by
      split
      · next hc =>
        simp only [Bool.and_eq_true, decide_eq_true_eq] at hc
        have hi : i = 0 := by rw [← hc.2, hd]; rfl
        exact turn_of_not_ready (hi ▸ h)
      · rfl
    rw [hstep]
    exact ih

theorem endKeep_of_none {s : State} {c : Nat} (hm : (s.cell c).memHeld = none) (hf : (s.cell c).flailSince = []) : s.endKeep c = s := by
  simp only [State.endKeep, hf, hm, List.foldl_nil, Option.isNone_none, List.isEmpty_nil, Bool.and_self, if_true]

section
variable {s : State} {j c : Nat} {t : Stage} (hA : t.kind ≠ kA) (hG : t.kind ≠ kG) (hV : t.kind = kV → ∀ i, i < t.opCount → t.e i 0 1 ≠ 2)
include hA hG hV

/-- A stage that copies no table and evicts nothing reads nothing at its start. -/
theorem startRanges_of_plain : s.startRanges j c t = [] := by
  unfold State.startRanges
  simp only [if_neg hA, if_neg hG]
  split
  · next hk =>
    rw [List.map_eq_nil_iff, List.filter_eq_nil_iff]
    intro i hi
    simp [hV hk i (List.mem_range.1 hi)]
  · rfl

/-- What comes first in such a stage is nothing. -/
theorem prepare_of_plain (hm : (s.cell c).memHeld = none) (hf : (s.cell c).flailSince = []) :
    s.prepare j c t = s.modCell c (fun x => { x with prepared := true }) := by
  have hrs : (if s.mayKeep then s.waitable c (s.startRanges j c t) else []) = [] := by
    rw [startRanges_of_plain hA hG hV]
    split <;> rfl
  have hv : ∀ u : State, t.kind = kV → u.vTables c t = u := fun u hk => by
    have : (List.range t.opCount).filter (fun i => t.e i 0 1 == 2) = [] := by
      rw [List.filter_eq_nil_iff]
      intro i hi
      simp [hV hk i (List.mem_range.1 hi)]
    rw [State.vTables, this]
    rfl
  simp only [State.prepare, hrs, State.rangesHeld, State.rangesFlails, List.any_nil, List.flatMap_nil, List.eraseDups_nil, List.isEmpty_nil,
    Bool.not_true, Bool.or_self, Bool.false_eq_true, if_false, if_neg hA, if_neg hG, endKeep_of_none hm hf]
  split
  · rfl
  · split
    · next hk => exact hv _ hk
    · rfl

/-- Such a stage, with its first entry not ready, does what comes first and no more. -/
theorem runStage_of_waiting (he : s.stageOf c = some (j, t)) (hr : s.entryReady j c t 0 = false) (hd : (s.cell c).doneOps = [])
    (hm : (s.cell c).memHeld = none) (hf : (s.cell c).flailSince = []) :
    s.runStage c = if s.works c && !(s.cell c).prepared then s.modCell c (fun x => { x with prepared := true }) else s := by
  have hp := prepare_of_plain (s := s) (j := j) hA hG hV hm hf
  obtain ⟨u, hu⟩ : ∃ u, u = if s.works c && !(s.cell c).prepared then s.modCell c (fun x => { x with prepared := true }) else s := ⟨_, rfl⟩
  have hud : (u.cell c).doneOps = [] := by
    rw [hu]
    split
    · exact (by rw [cell_modCell_same]; exact hd)
    · exact hd
  have hur : u.entryReady j c t 0 = false := by
    rw [hu]
    split
    · exact (entryReady_congr (s := s) (u := s.modCell c (fun x => { x with prepared := true })) hA hG rfl
        (by rw [cell_modCell_same]) (by rw [cell_modCell_same])).trans hr
    · exact hr
  simp only [State.runStage, he, hp, ← hu, turns_of_first_not_ready hud hur, hud, hd, List.length_nil]
  have hn : ¬ (0 < t.opCount ∧ 0 = t.opCount ∧ !(u.prog j).invalid) := fun h => absurd h.1 (by omega)
  rw [if_neg hn]
end

/-! ## A start (R76, R77) -/

/-- A cell as its stage starts. -/
def Cell.starts (x : Cell) (now startAt : Nat) : Cell := { x with started := some now, waitNs := x.idleAt - startAt, idleAt := now }

/-- The state as a stage starts, before anything runs. -/
def State.stageStarts (s : State) (c now : Nat) (t : Stage) : State :=
  ((s.modCell c (fun x => x.starts now (s.startAt t))).putF F.celStat_busy c 1).showPass c

/-- A pass in progress shows in the register of an M cell and nowhere else. -/
theorem putsRegs_showPass {ks : List Nat} {s u : State} (c : Nat) (h : putsRegs ks s u) (hk : regKey R.mxcStat c ∈ ks) :
    putsRegs ks s (u.showPass c) := by
  unfold State.showPass
  split
  · dsimp only
    split
    · exact h.putF F.mxcStat_busy c 1 hk
    · exact h
  · exact h

theorem getF_showPass (s : State) (c : Nat) (f : Fld) (i : Nat) (hf : R.mxcStat.off / 8 ≠ f.reg.off / 8) :
    (s.showPass c).getF f i = s.getF f i := by
  unfold State.showPass
  split
  · dsimp only
    split
    · exact getF_putF_off _ _ _ _ _ _ hf
    · rfl
  · rfl

theorem stageStarts_frame (s : State) (c now : Nat) (t : Stage) :
    putsRegs [regKey R.celStat c, regKey R.mxcStat c] (s.modCell c (fun x => x.starts now (s.startAt t))) (s.stageStarts c now t) :=
  putsRegs_showPass c ((putsRegs_refl _ _).putF F.celStat_busy c 1 (by simp [F.celStat_busy])) (by simp)

theorem stageStarts_busy (s : State) (c now : Nat) (t : Stage) : (s.stageStarts c now t).getF F.celStat_busy c = 1 :=
  (getF_showPass _ _ _ _ (by decide)).trans (getF_putF_same _ _ _ _ (by decide))

theorem stageStarts_pass {s : State} {c now j : Nat} {t : Stage} (he : s.stageOf c = some (j, t)) (hk : t.kind = kM)
    (hf : (s.cell c).finished = none) (hd : (s.cell c).doneOps = []) (hn : 0 < t.opCount) (hi : (s.prog j).invalid = false)
    (hr : ∃ r ∈ (s.cell c).rowsIn, r.hdr.empty = false) : (s.stageStarts c now t).getF F.mxcStat_busy c = 1 := by
  have he' : ((s.modCell c (fun x => x.starts now (s.startAt t))).putF F.celStat_busy c 1).stageOf c = some (j, t) := he
  have hx : ((s.modCell c (fun x => x.starts now (s.startAt t))).putF F.celStat_busy c 1).cell c = (s.cell c).starts now (s.startAt t) :=
    cell_modCell_same s c (fun x => x.starts now (s.startAt t))
  have hi' : (((s.modCell c (fun x => x.starts now (s.startAt t))).putF F.celStat_busy c 1).prog j).invalid = false := hi
  have hc : t.kind = kM ∧ ((s.cell c).starts now (s.startAt t)).started.isSome ∧ ((s.cell c).starts now (s.startAt t)).finished.isNone ∧
      ((s.cell c).starts now (s.startAt t)).doneOps.length < t.opCount ∧ !false ∧
      ((s.cell c).starts now (s.startAt t)).rowsIn.any (fun r => !r.hdr.empty) := by
    refine ⟨hk, rfl, ?_, ?_, rfl, ?_⟩
    · simp [Cell.starts, hf]
    · simpa [Cell.starts, hd] using hn
    · simpa [Cell.starts] using hr
  unfold State.stageStarts State.showPass
  simp only [he', hx, hi']
  rw [if_pos hc]
  exact getF_putF_same _ _ _ _ (by decide)

section
variable {s : State} {c now i j : Nat} {t : Stage} (hj : (s.cell c).job = some i) (he : s.stageOf c = some (j, t))
include hj he

/-- A stage does not start before its start time. -/
theorem opStageStart_of_early (h : now < s.startAt t) : opStageStart c now s = s.at_ now := by
  have hj' : ((s.at_ now).cell c).job = some i := hj
  have he' : (s.at_ now).stageOf c = some (j, t) := he
  have hlt : now < (s.at_ now).startAt t := h
  simp only [opStageStart, hj', he', decide_eq_true hlt, Bool.or_true, if_true]

theorem opStageStart_of_input (hr : s.tick.running = true) (hw : s.tick.windowOpen = false) (hs : (s.cell c).started = none)
    (hst : (s.cell c).stopped = false) (hre : (s.cell c).inReset = false) (hle : s.startAt t ≤ now) (hin : (s.cell c).rowsIn ≠ [])
    (hA : t.kind ≠ kA) : opStageStart c now s = ((s.at_ now).stageStarts c now t).runFrom c := by
  have hj' : ((s.at_ now).cell c).job = some i := hj
  have he' : (s.at_ now).stageOf c = some (j, t) := he
  have hinput : (s.at_ now).hasInput i c t = true := by
    rw [State.hasInput, show ((s.at_ now).cell c).rowsIn = (s.cell c).rowsIn from rfl]
    cases h : (s.cell c).rowsIn with
    | nil => exact absurd h hin
    | cons _ _ => rfl
  have hc : ¬ (!(s.at_ now).tick.running || (s.at_ now).tick.windowOpen || ((s.at_ now).cell c).started.isSome ||
      ((s.at_ now).cell c).stopped || ((s.at_ now).cell c).inReset || !(s.at_ now).hasInput i c t ||
      decide (now < (s.at_ now).startAt t)) = true := by
    rw [hinput, show (s.at_ now).tick.running = true from hr, show (s.at_ now).tick.windowOpen = false from hw,
      show ((s.at_ now).cell c).started = none from hs, show ((s.at_ now).cell c).stopped = false from hst,
      show ((s.at_ now).cell c).inReset = false from hre, decide_eq_false (show ¬ now < (s.at_ now).startAt t from Nat.not_lt.2 hle)]
    decide
  simp only [opStageStart, hj', he']
  rw [if_neg hc, if_neg hA]
  rfl
end

/-- A stage of a kind that serves no other cell runs alone. -/
theorem runFrom_of_alone {s : State} {c j : Nat} {t : Stage} (he : s.stageOf c = some (j, t)) (hG : t.kind ≠ kG) (hL : t.kind ≠ kL) :
    s.runFrom c = s.runStage c := by
  have hs : s.served c = [] := by
    simp only [State.served, he, beq_eq_false_iff_ne.2 hG, beq_eq_false_iff_ne.2 hL, Bool.false_and, Bool.or_self]
    simp
  simp only [State.runFrom, hs, List.foldl_nil]

/-- Whether a cell that has just started works. -/
theorem works_of_started {s : State} {c : Nat} (hs : (s.cell c).started.isSome = true) (hst : (s.cell c).stopped = false)
    (hre : (s.cell c).inReset = false) (hw : s.tick.windowOpen = false) (he : (s.stageOf c).isSome = true) :
    s.works c = ((s.cell c).finished.isNone && (s.cell c).lost.isEmpty) := by
  simp [State.works, hs, hst, hre, hw, he]

/-- Settles O21: before its time nothing; at its time the start, after which nothing is ready to run. -/
theorem aStageStartsWithItsFirstInput : Obligations.AStageStartsWithItsFirstInput := by
  rintro cell now i ⟨j, t⟩ s hj he hr hw hs hst hre
  refine ⟨fun hlt => ?_, fun hle hin hA hG hL hV hready hd hm hf => ?_⟩
  · exact completes_of_eq (f := opStageStart cell.toNat now) rfl (opStageStart_of_early (s := s.begin) hj he hlt) rfl
  · have hop := opStageStart_of_input (s := s.begin) hj he hr hw hs hst hre hle hin hA
    have hframe := stageStarts_frame (s.begin.at_ now) cell.toNat now t
    have hbusy := stageStarts_busy (s.begin.at_ now) cell.toNat now t
    have hpass := fun hk hfin hn hinv => stageStarts_pass (s := s.begin.at_ now) (c := cell.toNat) (now := now) he hk hfin hd hn hinv
    obtain ⟨v, hv⟩ : ∃ v, v = (s.begin.at_ now).stageStarts cell.toNat now t := ⟨_, rfl⟩
    rw [← hv] at hop hframe hbusy hpass
    obtain ⟨hvu, hvs⟩ := hframe
    have hcell : v.cell cell.toNat = (s.cell cell.toNat).starts now (s.startAt t) := by
      rw [hvu]
      exact cell_modCell_same (s.begin.at_ now) cell.toNat (fun x => x.starts now (s.startAt t))
    have hother : ∀ d, d ≠ cell.toNat → v.cell d = s.cell d := fun d hne => by
      rw [hvu]
      exact cell_modCell_ne (s.begin.at_ now) (fun x => x.starts now (s.startAt t)) (Ne.symm hne)
    have hve : v.stageOf cell.toNat = some (j, t) := by rw [hvu]; exact he
    have hvr : v.entryReady j cell.toNat t 0 = false :=
      (entryReady_congr (s := s) hA hG (by rw [hvu]; rfl) (by rw [hcell]; rfl) (by rw [hcell]; rfl)).trans hready
    rw [runFrom_of_alone hve hG hL, runStage_of_waiting hA hG hV hve hvr (by rw [hcell]; exact hd) (by rw [hcell]; exact hm)
      (by rw [hcell]; exact hf), works_of_started (by rw [hcell]; rfl) (by rw [hcell]; exact hst) (by rw [hcell]; exact hre)
      (by rw [hvu]; exact hw) (by rw [hve]; rfl), hcell] at hop
    obtain ⟨u, hu⟩ : ∃ u, u = opStageStart cell.toNat now s.begin := ⟨_, rfl⟩
    have hucell : u.cell cell.toNat = { (s.cell cell.toNat).starts now (s.startAt t) with
        prepared := (s.cell cell.toNat).prepared || ((s.cell cell.toNat).finished.isNone && (s.cell cell.toNat).lost.isEmpty) } := by
      rw [hu, hop]
      split
      · next hc =>
        obtain ⟨hwork, hp⟩ := (Bool.and_eq_true _ _).mp hc
        rw [cell_modCell_same, hcell]
        rw [show ((s.cell cell.toNat).finished.isNone && (s.cell cell.toNat).lost.isEmpty) = true from hwork, Bool.or_true]
      · next hc =>
        rw [hcell]
        rw [Bool.and_eq_true, not_and_or, Bool.not_eq_true, Bool.not_eq_true, Bool.not_eq_false'] at hc
        rcases hc with hc | hc
        · rw [show ((s.cell cell.toNat).finished.isNone && (s.cell cell.toNat).lost.isEmpty) = false from hc, Bool.or_false]
          rfl
        · rw [show (s.cell cell.toNat).prepared = true from hc, Bool.true_or]
          show (s.cell cell.toNat).starts now (s.startAt t) = { (s.cell cell.toNat).starts now (s.startAt t) with prepared := true }
          conv_lhs => rw [show (s.cell cell.toNat).starts now (s.startAt t) = { (s.cell cell.toNat).starts now (s.startAt t) with
            prepared := (s.cell cell.toNat).prepared } from rfl, show (s.cell cell.toNat).prepared = true from hc]
    have hframe : ∃ cells, u = { v with cells := cells } ∧ ∀ d, d ≠ cell.toNat → tget {} cells d = v.cell d := by
      rw [hu, hop]
      split
      · exact ⟨_, rfl, fun d hne => tget_tput_ne (h := Ne.symm hne) ..⟩
      · exact ⟨v.cells, rfl, fun d _ => rfl⟩
    obtain ⟨cells, hucells, huother⟩ := hframe
    generalize v.regs = r at hvu
    subst hvu
    subst hucells
    refine completes_of_eq (f := opStageStart cell.toNat now) rfl hu.symm ⟨hucell, fun d hne => (huother d hne).trans (hother d hne), ?_, ?_, ?_, rfl⟩
    · exact onF_of_bit (b := true) hbusy
    · exact fun hk hfin hn hinv hrow => onF_of_bit (b := true) (hpass hk hfin hn hinv hrow)
    · exact sameRegs_of_regs hvs rfl

end Sys2Proof.Machine
end

section
/-! SUPPORT. O25: a slow cell is repaired or raises the period. -/

namespace Sys2Proof.Machine

/-! ## What a word of this part goes by -/

theorem takePorts_congr {s u : State} (h : ∀ f i, f.reg = R.lnkStat → u.getF f i = s.getF f i) : u.takePorts = s.takePorts := by
  have hp : ∀ p, (u.onF F.lnkStat_take p && u.portUp p) = (s.onF F.lnkStat_take p && s.portUp p) := fun p => by
    simp only [State.portUp, State.lnk, State.onF, h F.lnkStat_take p rfl, h F.lnkStat_state p rfl]
  simp only [State.takePorts, hp]

/-- A word that is carried on leaves by every port that holds take but the one it came by. -/
theorem carries_relay {s u t : State} {port : Option Nat} {part : Nat} {w : CtlWord} (hp : u.takePorts = s.takePorts)
    (hr : t.ring.seen = (u.relay port part w).ring.seen) (ho : t.out = (u.relay port part w).out) : carries port part w s t := by
  rw [relay_eq] at hr ho
  refine ⟨by rw [hr]; exact List.mem_append_right _ List.mem_cons_self, fun p hm hne => ?_⟩
  rw [ho, hp]
  exact List.mem_append_right _ (List.mem_map.2 ⟨p, List.mem_filter.2 ⟨hm, bne_iff_ne.2 hne⟩, rfl⟩)

/-! ## Whether a spare is there (R93) -/

theorem spareOf_congr {s u : State} {j c : Nat} {t : Stage} (hctl : u.ctl = s.ctl) (hautos : u.autos = s.autos)
    (hreg : ∀ k, u.reg (availReg k) 0 = s.reg (availReg k) 0) (hreset : ∀ k, (u.cell k).inReset = (s.cell k).inReset) :
    u.spareOf j t c = s.spareOf j t c := by
  have huse : ∀ k, u.usable k = s.usable k := fun k => by simp only [State.usable, hreg]
  have himg : ∀ j, u.image j = s.image j := fun j => by simp only [State.image, State.prog, hctl]
  have hprog : ∀ j, u.prog j = s.prog j := fun j => by simp only [State.prog, hctl]
  have hjobs : u.jobs = s.jobs := by simp only [State.jobs, hprog]
  have htaken : u.takenSpares = s.takenSpares := by simp only [State.takenSpares, hautos]
  simp only [State.spareOf, himg, hprog, hjobs, htaken, huse, hreset]

/-! ## A cell declared slow (R91, R92) -/

/-- The state once a cell has been declared slow, before it is decided what to do about it. -/
def State.declaredSlow (s : State) (c : Nat) : State :=
  (((s.putF F.celTick_slow c 1).raise 0x11 1 c (BitVec.ofNat 64 (s.cell c).worstLate)).putF F.celTick_late_run c 0).modCell c
    (fun x => { x with worstLate := 0, slowBy := (s.cell c).worstLate })

/-- The registers that the declaration changes. -/
def slowKeys (c : Nat) : List Nat := [regKey R.celTick c, regKey R.hstEvqStat 0, regKey R.stdBootRet 0]

theorem declaredSlow_frame (s : State) (c : Nat) : ∃ v, eventPath (slowKeys c) s v ∧ s.declaredSlow c =
    v.modCell c (fun x => { x with worstLate := 0, slowBy := (s.cell c).worstLate }) := by
  refine ⟨_, ?_, rfl⟩
  exact eventPath_trans _ _ _ (eventPath_trans _ _ _ (eventPath_putF _ _ _ (by simp [slowKeys, F.celTick_slow]))
    (eventPath_raise _ _ _ _ _ (by simp [slowKeys]) (by simp [slowKeys]))) (eventPath_putF _ _ _ (by simp [slowKeys, F.celTick_late_run]))

section
variable (s : State) (c : Nat)

theorem declaredSlow_reg (r : Reg) (i : Nat) (h : r.off / 8 ≠ R.celTick.off / 8) (hq : r.off / 8 ≠ R.hstEvqStat.off / 8)
    (hb : r.off / 8 ≠ R.stdBootRet.off / 8) : (s.declaredSlow c).reg r i = s.reg r i := by
  obtain ⟨v, ⟨-, hs⟩, hv⟩ := declaredSlow_frame s c
  rw [hv]
  refine hs _ _ ?_
  simp [slowKeys, regKey_ne_of_off _ _ i c h, regKey_ne_of_off _ _ i 0 hq, regKey_ne_of_off _ _ i 0 hb]

theorem declaredSlow_getF (f : Fld) (i : Nat) (h : f.reg.off / 8 ≠ R.celTick.off / 8) (hq : f.reg.off / 8 ≠ R.hstEvqStat.off / 8)
    (hb : f.reg.off / 8 ≠ R.stdBootRet.off / 8) : (s.declaredSlow c).getF f i = s.getF f i := by
  rw [State.getF, declaredSlow_reg s c _ _ h hq hb, State.getF]

theorem declaredSlow_shown : (s.declaredSlow c).getF F.celTick_slow c = 1 ∧ (s.declaredSlow c).getF F.celTick_late_run c = 0 := by
  refine ⟨?_, ?_⟩
  · exact (getF_putF_apart _ _ _ _ _ (by decide) (by decide)).trans ((getF_raise _ _ _ _ _ _ _ _ (by decide) (by decide)).trans
      (getF_putF_same _ _ _ _ (by decide)))
  · exact getF_putF_same _ _ _ _ (by decide)

theorem declaredSlow_cell (k : Nat) : (s.declaredSlow c).cell k =
    if k = c then { s.cell c with worstLate := 0, slowBy := (s.cell c).worstLate } else s.cell k := by
  obtain ⟨v, ⟨⟨_, _, _, _, _, _, _, rfl⟩, -⟩, hv⟩ := declaredSlow_frame s c
  rw [hv]
  split
  · next h =>
    subst h
    exact cell_modCell_same ..
  · next h => exact cell_modCell_ne _ _ (Ne.symm h)

theorem declaredSlow_other : (s.declaredSlow c).ctl = s.ctl ∧ (s.declaredSlow c).autos = s.autos ∧ (s.declaredSlow c).tick = s.tick ∧
    (s.declaredSlow c).ring = s.ring := by
  obtain ⟨v, ⟨⟨_, _, _, _, _, _, _, rfl⟩, -⟩, hv⟩ := declaredSlow_frame s c
  rw [hv]
  exact ⟨rfl, rfl, rfl, rfl⟩

theorem declaredSlow_takePorts : (s.declaredSlow c).takePorts = s.takePorts :=
  takePorts_congr (fun f i hf => declaredSlow_getF s c f i (by rw [hf]; decide) (by rw [hf]; decide) (by rw [hf]; decide))

/-- The registers of the cells that may be used. -/
def availRegs : List Reg := [R.shfAvail0, R.shfAvail1, R.shfAvail2, R.shfAvail3, R.shfAvail4, R.shfAvail5, R.shfAvail6, R.shfAvail7,
  R.shfAvail8, R.shfAvail9, R.shfAvail10, R.shfAvail11, R.shfAvail12, R.shfAvail13, R.shfAvail14, R.shfAvail15]

theorem availReg_mem (k : Nat) : availReg k ∈ availRegs := by
  show availRegs.getD (k / 64) R.shfAvail0 ∈ availRegs
  by_cases h : k / 64 < availRegs.length
  · rw [List.getD_eq_getElem _ _ h]
    exact List.getElem_mem h
  · rw [List.getD_eq_default _ _ (Nat.not_lt.1 h)]
    simp [availRegs]

/-- The registers that tell which cells may be used stand apart from those of the declaration. -/
theorem declaredSlow_availReg (k : Nat) : (s.declaredSlow c).reg (availReg k) 0 = s.reg (availReg k) 0 := by
  have h : ∀ k : Nat, (availReg k).off / 8 ≠ R.celTick.off / 8 ∧ (availReg k).off / 8 ≠ R.hstEvqStat.off / 8 ∧
      (availReg k).off / 8 ≠ R.stdBootRet.off / 8 := by
    intro k
    have hm := availReg_mem k
    revert hm
    generalize availReg k = r
    revert r
    decide
  exact declaredSlow_reg s c _ 0 (h k).1 (h k).2.1 (h k).2.2

theorem declaredSlow_spareOf (j : Nat) (t : Stage) : (s.declaredSlow c).spareOf j t c = s.spareOf j t c := by
  obtain ⟨hctl, hautos, -, -⟩ := declaredSlow_other s c
  refine spareOf_congr hctl hautos (declaredSlow_availReg s c) (fun k => ?_)
  rw [declaredSlow_cell]
  split
  · next h => rw [h]
  · rfl
end

section
variable {s : State} {c j : Nat} {t : Stage} (he : s.stageOf c = some (j, t))
include he

theorem opCellSlow_of_few (h : s.getF F.celTick_late_run c < 16) : opCellSlow c s = s := by
  simp only [opCellSlow, he, h, if_true]

theorem opCellSlow_of_many (h : 16 ≤ s.getF F.celTick_late_run c) : opCellSlow c s = (s.declaredSlow c).replaceSlow j c t := by
  have hn : ¬ s.getF F.celTick_late_run c < 16 := Nat.not_lt.2 h
  simp only [opCellSlow, he, hn, if_false]
  rfl
end

/-! ## The raise that is announced or asked for (R94) -/

/-- The automatic commit of a raise for a slow cell, as the timekeeper and as another part keep it. -/
def State.raiseAuto (s : State) (cell us n : Nat) : AutoCommit :=
  if s.isKeeper then .raise n (some cell) us false else .asked (some cell) us

theorem declareRaise_eq {s : State} {cell us n : Nat} (hn : n = 1 + bit s.replayDue) (h : s.getF F.tikPeriod_us + us ≤ 1000) :
    s.declareRaise (some cell) us = ({ s with autos := s.autos ++ [s.raiseAuto cell us n] } : State).tell
      (s.raiseWord us (if s.isKeeper then some (s.getF F.tikCount_count + n) else none)) := by
  have hc : ¬ 1000 < s.getF F.tikPeriod_us + us := Nat.not_lt.2 h
  cases hk : s.onF F.lnkRing_is_keeper
  · simp only [State.declareRaise, if_neg hc, hk, State.raiseAuto, State.isKeeper, Bool.false_eq_true, if_false]
  · simp only [State.declareRaise, if_neg hc, hk, State.raiseAuto, State.isKeeper, if_true, hn]

/-- Settles O25: the declaration, then the spare or the raise. -/
theorem aSlowCellIsRepairedOrRaises : Obligations.ASlowCellIsRepairedOrRaises := by
  intro cell j g s he
  have heb : s.begin.stageOf cell.toNat = some (j, g) := he
  obtain ⟨hslow, hrun⟩ := declaredSlow_shown s.begin cell.toNat
  obtain ⟨hctl, hautos, htick, hring⟩ := declaredSlow_other s.begin cell.toNat
  have hspare : (s.begin.declaredSlow cell.toNat).spareOf j g cell.toNat = s.spareOf j g cell.toNat := declaredSlow_spareOf s.begin cell.toNat j g
  refine ⟨fun h => idles_of_run (f := opCellSlow cell.toNat) rfl (opCellSlow_of_few heb h), ?_, fun p h hp => ?_⟩
  · rintro us n hus hn h hsp hper
    have hget : ∀ (f : Fld) (i : Nat), f.reg.off / 8 ≠ R.celTick.off / 8 → f.reg.off / 8 ≠ R.hstEvqStat.off / 8 →
        f.reg.off / 8 ≠ R.stdBootRet.off / 8 → (s.begin.declaredSlow cell.toNat).getF f i = s.getF f i := declaredSlow_getF s.begin cell.toNat
    have hcell := declaredSlow_cell s.begin cell.toNat cell.toNat
    rw [if_pos rfl] at hcell
    have hports : (s.begin.declaredSlow cell.toNat).takePorts = s.takePorts := declaredSlow_takePorts s.begin cell.toNat
    have hop := opCellSlow_of_many heb h
    generalize s.begin.declaredSlow cell.toNat = u at *
    have hkeep : u.isKeeper = s.isKeeper := onF_of_getF (hget _ _ (by decide) (by decide) (by decide))
    have hcount := hget F.tikCount_count 0 (by decide) (by decide) (by decide)
    have hown : u.own = s.own := hget F.lnkRing_own 0 (by decide) (by decide) (by decide)
    have hdue : u.replayDue = s.replayDue := by
      simp only [State.replayDue, State.willReplay, State.heldReplays, State.streamsOf, State.openStreams, State.prog, State.stream, hctl, htick]
      rfl
    have hword : ∀ tgt, u.raiseWord us tgt = s.raiseWord us tgt := fun tgt => by simp only [State.raiseWord, hown]
    have hslowBy : max 1 (ceilDiv (u.cell cell.toNat).slowBy 1000) = us := by rw [hcell, hus]; rfl
    rw [State.replaceSlow, hspare.trans hsp] at hop
    simp only [hslowBy] at hop
    rw [declareRaise_eq (hn.trans (by rw [hdue])) (by rw [hget _ _ (by decide) (by decide) (by decide)]; exact hper), hword, hkeep, hcount] at hop
    rw [State.tell, show ({ u with autos := u.autos ++ [u.raiseAuto cell.toNat us n] } : State).getF F.lnkRing_own = s.getF F.lnkRing_own from hown] at hop
    have htells := carries_relay (s := s) (u := { u with autos := u.autos ++ [u.raiseAuto cell.toNat us n] }) (port := none)
      (part := s.getF F.lnkRing_own) (w := s.raiseWord us (if s.isKeeper then some (s.getF F.tikCount_count + n) else none)) hports rfl rfl
    refine completes_of_eq (f := opCellSlow cell.toNat) rfl hop ?_
    rw [relay_eq] at htells ⊢
    refine ⟨onF_of_bit (b := true) hslow, hrun, ?_, htells, hget _ _ (by decide) (by decide) (by decide)⟩
    show u.autos ++ [u.raiseAuto cell.toNat us n] = _
    rw [hautos, State.raiseAuto, hkeep]
    rfl
  · have hop := opCellSlow_of_many heb h
    generalize s.begin.declaredSlow cell.toNat = u at *
    rw [State.replaceSlow, hspare.trans hp] at hop
    refine completes_of_eq (f := opCellSlow cell.toNat) rfl hop ⟨onF_of_bit (b := true) hslow, hrun, ?_, congrArg Ctl.progs hctl⟩
    show u.autos ++ [AutoCommit.repair 2 cell.toNat p false] = _
    rw [hautos]
    rfl

end Sys2Proof.Machine
end

section
/-! SUPPORT. O30: markers and candidates are carried on. -/

namespace Sys2Proof.Machine

/-! ## Words sent by several ports -/

/-- Sends of words that do not depend on what has gone out. -/
theorem foldl_send_of {α : Type} (f : State → α → Output) (hf : ∀ s o, f { s with out := o } = f s) (l : List α) (s : State) :
    l.foldl (fun s a => s.send (f s a)) s = { s with out := s.out ++ l.map (f s) } := by
  induction l generalizing s with
  | nil => simp
  | cons a l ih =>
    have h : f (s.send (f s a)) = f s := hf s (s.out ++ [f s a])
    rw [List.foldl_cons, ih, h]
    simp only [State.send, List.map_cons, List.append_assoc, List.singleton_append]

/-- The ports but one that a word leaves by. -/
theorem mem_otherPorts {l : List Nat} {p q : Nat} (h : p ∈ l) (hne : p ≠ q) : p ∈ l.filter (fun p => p != q) :=
  List.mem_filter.2 ⟨h, bne_iff_ne.2 hne⟩

/-! ## Markers (R328) -/

/-- What a marker new to a part that is not the timekeeper does. -/
theorem opTickMarker_of_new {port tick delay now : Nat} {s : State} (hk : s.isKeeper = false) (hn : s.ring.markerSeen ≠ some tick) :
    opTickMarker port tick delay now s =
      let u : State := { s.at_ now with
        fresh := s.fresh + 1, ring := { s.ring with markerSeen := some tick, missedMarkers := 0 }
        out := s.out ++ (s.takePorts.filter (fun p => p != port)).map (fun p => .ctl p (s.getF F.lnkRing_keeper)
          (.marker (BitVec.ofNat 32 tick) (BitVec.ofNat 14 (delay + (s.port port).hopNs + s.freeWord.toNat % 24)))) }
      if decide (tick = s.getF F.tikCount_count % 2 ^ 32) && s.tick.running then
        { u with tick := { s.tick with edgeAt := now - (delay + (s.port port).hopNs) } } else u := by
  have hc : ¬ ((s.at_ now).ring.markerSeen = some tick ∨ (s.at_ now).isKeeper = true) := by
    rintro (h | h)
    · exact hn h
    · exact Bool.false_ne_true (hk.symm.trans h)
  simp only [opTickMarker]
  rw [if_neg hc, foldl_send_of (fun s p => .ctl p (s.getF F.lnkRing_keeper) _) (fun _ _ => rfl)]
  rfl

/-! ## Elections (R330) -/

/-- A part that enters an election spreads its own candidate and changes nothing but the ring's state. -/
theorem enterElection_of_none {s : State} (h : s.ring.electing = false) : ∃ seen out, s.enterElection = { s with
    ring := { s.ring with electing := true, best := some ({ s with ring := { s.ring with best := none } } : State).bestCand, seen := seen }
    out := out } := by
  simp only [State.enterElection, h, Bool.false_eq_true, if_false, State.spread, State.tell, relay_eq]
  exact ⟨_, _, rfl⟩

theorem ringPath_enterElection (s : State) : ringPath s s.enterElection :=
  ringPath_ite (ringPath_refl s) (ringPath_trans _ _ _ ⟨_, _, rfl⟩ (ringPath_trans _ _ _ ⟨_, _, rfl⟩ (ringPath_tell ..)))

/-! ## The election settles (R330, R427) -/

/-- t has the timekeeper of s, and is in an election as s is. -/
def sameKeeper (s t : State) : Prop := t.ring.electing = s.ring.electing ∧ ∀ f : Fld, f.reg = R.lnkRing → t.getF f 0 = s.getF f 0

theorem sameKeeper_refl (s : State) : sameKeeper s s := ⟨rfl, fun _ _ => rfl⟩

theorem sameKeeper_trans (s t u : State) (h : sameKeeper s t) (h' : sameKeeper t u) : sameKeeper s u :=
  ⟨h'.1.trans h.1, fun f hf => (h'.2 f hf).trans (h.2 f hf)⟩

theorem sameKeeper_ite {s t u : State} {c : Prop} [Decidable c] (h : sameKeeper s t) (h' : sameKeeper s u) :
    sameKeeper s (if c then t else u) := by
  split
  · exact h
  · exact h'

theorem sameKeeper_putF (s : State) (f : Fld) (i v : Nat) (hf : f.reg.off / 8 ≠ R.lnkRing.off / 8) : sameKeeper s (s.putF f i v) :=
  ⟨rfl, fun g hg => getF_putF_off _ _ _ _ _ _ (by rw [hg]; exact hf)⟩

theorem sameKeeper_raise (s : State) (code cls idx : Nat) (arg : Word) (payload : List Byte) :
    sameKeeper s (s.raise code cls idx arg payload) := by
  obtain ⟨⟨_, _, _, _, _, _, _, h⟩, -⟩ := eventPath_raise (ks := [regKey R.hstEvqStat 0, regKey R.stdBootRet 0]) (s := s)
    code cls idx arg payload (by simp) (by simp)
  exact ⟨by rw [h], fun g hg => getF_raise _ _ _ _ _ _ _ _ (by rw [hg]; decide) (by rw [hg]; decide)⟩

theorem sameKeeper_tell (s : State) (w : CtlWord) : sameKeeper s (s.tell w) := by
  rw [State.tell, relay_eq]
  exact sameKeeper_refl s

/-- A pause that is announced, or ended, concerns no election. -/
theorem sameKeeper_announce (s : State) (w : EdgeWord) (hr : w.raise = none) (ho : w.overrun = false) (hn : w.newEdge = 0) :
    sameKeeper s (s.announce w) := by
  refine sameKeeper_trans _ _ _ (sameKeeper_tell s (.edge w)) ?_
  show sameKeeper _ ((s.tell (.edge w)).heedEdge w)
  simp only [State.heedEdge, hr, ho, hn, Bool.false_eq_true, if_false, if_true]
  exact sameKeeper_ite ⟨rfl, fun _ _ => rfl⟩ ⟨rfl, fun _ _ => rfl⟩

theorem sameKeeper_takePause (s : State) : sameKeeper s s.takePause := by
  unfold State.takePause
  refine sameKeeper_ite (sameKeeper_refl s) (sameKeeper_ite ?_ (sameKeeper_announce s _ rfl rfl rfl))
  exact sameKeeper_ite (sameKeeper_announce s _ rfl rfl rfl) (sameKeeper_refl s)

theorem sameKeeper_becomeReady (s : State) : sameKeeper s s.becomeReady := by
  unfold State.becomeReady
  refine sameKeeper_ite (sameKeeper_refl s) ?_
  refine sameKeeper_trans _ _ _ ?_ (sameKeeper_raise ..)
  refine sameKeeper_trans _ _ _ ?_ (sameKeeper_putF _ _ _ _ (by decide))
  refine sameKeeper_trans _ _ _ ?_ (sameKeeper_putF _ _ _ _ (by decide))
  refine sameKeeper_trans _ _ _ ?_ (sameKeeper_putF _ _ _ _ (by decide))
  refine sameKeeper_trans _ _ _ ?_ (sameKeeper_putF _ _ _ _ (by decide))
  refine sameKeeper_trans _ _ _ ?_ (sameKeeper_putF _ _ _ _ (by decide))
  refine sameKeeper_trans _ _ _ ?_ (sameKeeper_putF _ _ _ _ (by decide))
  exact sameKeeper_trans _ _ _ (sameKeeper_putF _ _ _ _ (by decide)) (sameKeeper_putF _ _ _ _ (by decide))

/-- The timekeeper that an election settles on, and that it is over. -/
theorem settleElection_spec (s : State) (k : Nat) : (s.settleElection k).ring.electing = false ∧
    (s.settleElection k).getF F.lnkRing_keeper = k % 1024 ∧ (s.settleElection k).getF F.lnkRing_is_keeper = bit (decide (k = s.own)) % 2 := by
  obtain ⟨u, hu⟩ : ∃ u : State, u = (({ s with ring := { s.ring with electing := false, best := none, missedMarkers := 0 } } : State).putF
      F.lnkRing_keeper 0 k).putF F.lnkRing_is_keeper 0 (bit (decide (k = s.own))) := ⟨_, rfl⟩
  have hsame : sameKeeper u (s.settleElection k) := by
    rw [hu]
    refine sameKeeper_trans _ _ _ (sameKeeper_ite ?_ ?_) (sameKeeper_becomeReady _)
    · exact sameKeeper_refl _
    · exact sameKeeper_trans _ _ _ (sameKeeper_raise ..) (sameKeeper_takePause _)
  refine ⟨hsame.1.trans (by rw [hu]; rfl), (hsame.2 _ rfl).trans ?_, (hsame.2 _ rfl).trans ?_⟩
  · rw [hu]
    exact (getF_putF_apart _ _ _ _ _ (by decide) (by decide)).trans (getF_putF_same _ _ _ _ (by decide))
  · rw [hu]
    exact getF_putF_same _ _ _ _ (by decide)

theorem opMarkerLoss_of_lost {settled : Bool} {k : Nat} {s : State} (hk : s.isKeeper = false) (h : 3 ≤ s.ring.missedMarkers) :
    opMarkerLoss settled k s = if settled then s.enterElection.settleElection k else s.enterElection := by
  have hc : ¬ (s.isKeeper = true ∨ s.ring.missedMarkers < 3) := by
    rintro (h' | h')
    · exact Bool.false_ne_true (hk.symm.trans h')
    · omega
  simp only [opMarkerLoss]
  rw [if_neg hc]

/-! ## Candidates -/

section
variable {port : Nat} {b : Nat × Nat} {s : State}

/-- A better candidate is taken and spread. -/
theorem opCandidate_of_better (h : candNo b.1 b.2 < candNo s.bestCand.1 s.bestCand.2) :
    opCandidate port b false none s = { s with
      ring := { s.ring with electing := true, best := some b }
      out := s.out ++ (s.takePorts.filter (fun p => p != port)).map (fun p =>
        .ctl p s.own (.candidate (BitVec.ofNat 4 b.1) (BitVec.ofNat 10 b.2))) } := by
  simp only [opCandidate]
  rw [if_pos h, foldl_send_of (fun s p => .ctl p s.own _) (fun _ _ => rfl)]
  rfl

/-- A worse one is answered. -/
theorem opCandidate_of_worse (h : candNo s.bestCand.1 s.bestCand.2 < candNo b.1 b.2) :
    opCandidate port b false none s = { s with
      ring := { s.ring with electing := true, best := some s.bestCand }
      out := s.out ++ [.ctl port s.own (.candidate (BitVec.ofNat 4 s.bestCand.1) (BitVec.ofNat 10 s.bestCand.2))] } := by
  have hn : ¬ candNo b.1 b.2 < candNo s.bestCand.1 s.bestCand.2 := by omega
  simp only [opCandidate]
  rw [if_neg hn, if_pos h]
  rfl
end

/-- Settles O30: the marker, the loss of markers, and the two kinds of candidates. -/
theorem markersAndCandidatesAreCarriedOn : Obligations.MarkersAndCandidatesAreCarriedOn := by
  intro port s
  refine ⟨fun tick delay now hk hn => ?_, fun settled k hk h3 => ⟨?_, ?_⟩, fun prio coords h => ?_, fun prio coords h => ?_⟩
  · have hop := opTickMarker_of_new (port := port.toNat) (delay := delay.toNat) (now := now) (s := s.begin) hk hn
    have hout : ∀ p ∈ s.takePorts, p ≠ port.toNat → Output.ctl p (s.getF F.lnkRing_keeper)
        (.marker tick (BitVec.ofNat 14 (delay.toNat + (s.port port.toNat).hopNs + s.freeWord.toNat % 24))) ∈
        [] ++ (s.takePorts.filter (fun p => p != port.toNat)).map (fun p => Output.ctl p (s.getF F.lnkRing_keeper)
          (.marker (BitVec.ofNat 32 tick.toNat) (BitVec.ofNat 14 (delay.toNat + (s.port port.toNat).hopNs + s.freeWord.toNat % 24)))) := by
      intro p hp hne
      rw [BitVec.ofNat_toNat, BitVec.setWidth_eq]
      exact List.mem_append_right _ (List.mem_map.2 ⟨p, mem_otherPorts hp hne, rfl⟩)
    have hown : s.freeWord.toNat % 24 < 24 := Nat.mod_lt _ (by decide)
    by_cases ht : (decide (tick.toNat = s.begin.getF F.tikCount_count % 2 ^ 32) && s.begin.tick.running) = true
    · rw [if_pos ht] at hop
      obtain ⟨h1, -⟩ := (Bool.and_eq_true _ _).mp ht
      exact completes_of_eq (f := opTickMarker port.toNat tick.toNat delay.toNat now) rfl hop
        ⟨rfl, ⟨_, hown, hout⟩, fun _ _ => rfl, fun hne => absurd (of_decide_eq_true h1) hne, rfl, rfl, rfl, rfl, rfl, rfl⟩
    · rw [if_neg ht] at hop
      have ht' : ¬ (tick.toNat = s.getF F.tikCount_count % 2 ^ 32 ∧ s.tick.running = true) := fun h =>
        ht ((Bool.and_eq_true _ _).mpr ⟨decide_eq_true h.1, h.2⟩)
      exact completes_of_eq (f := opTickMarker port.toNat tick.toNat delay.toNat now) rfl hop
        ⟨rfl, ⟨_, hown, hout⟩, fun h1 h2 => absurd ⟨h1, h2⟩ ht', fun _ => rfl, rfl, rfl, rfl, rfl, rfl, rfl⟩
  · rintro rfl he
    obtain ⟨seen, out, henter⟩ := enterElection_of_none (s := s.begin) he
    exact completes_of_eq (f := opMarkerLoss false k.toNat) rfl ((opMarkerLoss_of_lost (s := s.begin) hk h3).trans henter) ⟨rfl, rfl, rfl, rfl⟩
  · rintro rfl
    obtain ⟨h1, h2, h3'⟩ := settleElection_spec s.begin.enterElection k.toNat
    have hown : s.begin.enterElection.own = s.own := by
      obtain ⟨r, o, h⟩ := ringPath_enterElection s.begin
      rw [h]
      rfl
    rw [hown] at h3'
    have hop := opMarkerLoss_of_lost (settled := true) (k := k.toNat) (s := s.begin) hk h3
    rw [if_pos rfl] at hop
    generalize s.begin.enterElection.settleElection k.toNat = u at h1 h2 h3' hop
    exact completes_of_eq (f := opMarkerLoss true k.toNat) rfl hop ⟨h1, h2.trans (Nat.mod_eq_of_lt k.isLt), onF_of_bit h3'⟩
  · have hop := opCandidate_of_better (port := port.toNat) (b := (prio.toNat, coords.toNat)) (s := s.begin) h
    refine completes_of_eq (f := opCandidate port.toNat (prio.toNat, coords.toNat) false none) rfl hop ⟨rfl, fun p hp hne => ?_, rfl⟩
    refine List.mem_append_right _ (List.mem_map.2 ⟨p, mem_otherPorts hp hne, ?_⟩)
    simp only [BitVec.ofNat_toNat, BitVec.setWidth_eq]
    rfl
  · exact completes_of_eq (f := opCandidate port.toNat (prio.toNat, coords.toNat) false none) rfl
      (opCandidate_of_worse (port := port.toNat) (b := (prio.toNat, coords.toNat)) (s := s.begin) h) ⟨rfl, rfl, rfl⟩

end Sys2Proof.Machine
end

section
/-! SUPPORT. O31: ring commits and digests are carried on. -/

namespace Sys2Proof.Machine

/-! ## A word that arrives (R328) -/

/-- A word that has not been seen is carried on and acted on. -/
theorem onWord_of_new {s : State} {port part : Nat} {w : CtlWord} (f : State → State) (h : (part, w) ∉ s.ring.seen) :
    s.onWord port part w f = f (s.relay (some port) part w) := by
  have hc : s.ring.seen.contains (part, w) = false := by
    rw [← Bool.not_eq_true, List.contains_iff_mem]
    exact h
  simp only [State.onWord, hc, Bool.false_eq_true, if_false]

/-- What a word does whose command is to heed it where it is new. -/
theorem completes_onWord {c : Instr} {s : State} {port part : Nat} {w : CtlWord} {f : State → State} {P : State → Prop}
    (hc : exec c s = run (fun s => s.onWord port part w f) s) (h : (part, w) ∉ s.ring.seen)
    (hp : P { f (s.begin.relay (some port) part w) with pending := s.pending }) : completes c s P :=
  completes_of_eq hc (onWord_of_new (s := s.begin) f h) hp

/-- The state in which a word has been carried on, as far as a ring commit sees it. -/
theorem relay_begin (s : State) (port : Option Nat) (part : Nat) (w : CtlWord) : s.begin.relay port part w = { s with
    ring := { s.ring with seen := s.ring.seen ++ [(part, w)] }
    out := (s.takePorts.filter (fun p => some p != port)).map (fun p => .ctl p part w) } := relay_eq ..

theorem carries_begin {s t : State} {port : Option Nat} {part : Nat} {w : CtlWord}
    (hr : t.ring.seen = (s.begin.relay port part w).ring.seen) (ho : t.out = (s.begin.relay port part w).out) :
    carries port part w s t := carries_relay (u := s.begin) rfl hr ho

/-- This part has told a word after whatever else. -/
theorem tells_of_tell {s u t : State} {w : CtlWord} (hp : u.takePorts = s.takePorts) (ho : u.getF F.lnkRing_own = s.getF F.lnkRing_own)
    (hr : t.ring.seen = (u.tell w).ring.seen) (hout : t.out = (u.tell w).out) : tells w s t := by
  rw [State.tell, ho] at hr hout
  exact carries_relay hp hr hout

/-! ## The phases of a ring commit (R100, R321), on a part with no commit of its own -/

section
variable {w : RingWord} {u : State} (hc : u.commit = none)

include hc in
theorem submitOwn_of_none : u.submitOwn = u := by simp only [State.submitOwn, hc]

include hc in
theorem deferRinged_of_none : u.deferRinged = u := by simp only [State.deferRinged, hc]

include hc in
theorem opRingCommit_announcement (hp : w.phase = .announcement) (hr : u.ring.commit = none) :
    opRingCommit w u = { u with ring := { u.ring with commit := some { target := w.target.toNat } } } := by
  have h := submitOwn_of_none (u := { u with ring := { u.ring with commit := some { target := w.target.toNat } } }) hc
  simp only [opRingCommit, hp, hr, Bool.false_eq_true, if_false, Option.getD_none]
  exact h

theorem opRingCommit_submission {r : RingCommit} {v : Nat × Nat × Nat} (hp : w.phase = .submission) (hk : u.isKeeper = false)
    (hr : u.ring.commit = some r) (hv : ringValue w = some v) :
    opRingCommit w u = { u with ring := { u.ring with commit := some { r with
      submitted := r.submitted.filter (fun x => x.part != w.part.toNat) ++ [{ part := w.part.toNat, code := w.code.toNat, value := v }] } } } := by
  simp only [opRingCommit, hp, hv, State.takeSubmission, hr]
  refine if_neg (fun h => ?_)
  exact Bool.false_ne_true (hk.symm.trans ((Bool.and_eq_true _ _).mp h).1)

include hc in
theorem takeResult_of_none {r : RingCommit} (code : Nat) (hr : u.ring.commit = some r) :
    u.takeResult code = { u with ring := { u.ring with commit := if code = 0 then some { r with result := some 0 } else none } } := by
  simp only [State.takeResult, hr]
  split
  · next h => simp only [h, if_true]
  · next h => simp only [h, if_false, hc]

theorem openRingCommit_of_none (hr : u.ring.commit = none) : u.openRingCommit =
    ({ u with ring := { u.ring with commit := some { target := u.getF F.tikCount_count + 64 } } } : State).tell
      (u.ringWord .announcement 0 (u.getF F.tikCount_count + 64) none) := by
  simp only [State.openRingCommit, hr, Option.isSome_none, Bool.false_eq_true, if_false]
  rfl

include hc in
theorem moveTarget_of_keeper {r : RingCommit} (hk : u.isKeeper = true) (hr : u.ring.commit = some r) : u.moveTarget =
    ({ u with ring := { u.ring with commit := some { r with target := r.target + 1 } } } : State).tell
      (u.ringWord .announcement 0 (r.target + 1) none) := by
  have h := deferRinged_of_none (u := { u with ring := { u.ring with commit := some { r with target := r.target + 1 } } }) hc
  simp only [State.moveTarget, hr, h]
  exact if_pos hk

theorem decideRing_of_open {r : RingCommit} (hr : u.ring.commit = some r) (hn : r.result = none) :
    u.decideRing = (u.tell (u.ringWord .result (u.ringOutcome r) r.target none)).takeResult (u.ringOutcome r) := by
  simp only [State.decideRing, hr, hn, Option.isSome_none, Bool.false_eq_true, if_false]
end

/-! ## Digests of sheafs of parts (R60) -/

/-- The digest of a part is kept in the place of any other that it sent. -/
theorem opSheafDigest_spec (s : State) (part i : Nat) (d : List Byte) :
    (part, d) ∈ ((opSheafDigest part i d s).sheaf i).digests ∧
    (∀ e ∈ ((opSheafDigest part i d s).sheaf i).digests, e.1 = part → e.2 = d) ∧
    (∀ k, k ≠ i → (opSheafDigest part i d s).sheaf k = s.sheaf k) ∧
    opSheafDigest part i d s = { s with ctl := { s.ctl with sheafs := (opSheafDigest part i d s).ctl.sheafs } } := by
  have h : ((opSheafDigest part i d s).sheaf i).digests = (s.sheaf i).digests.filter (fun e => e.1 != part) ++ [(part, d)] := by
    rw [opSheafDigest, sheaf_setSheaf_same]
  rw [h]
  refine ⟨List.mem_append_right _ List.mem_cons_self, fun e he hp => ?_, fun k hk => sheaf_setSheaf_ne (h := Ne.symm hk) .., rfl⟩
  rcases List.mem_append.1 he with he | he
  · exact absurd hp (bne_iff_ne.1 (List.mem_filter.1 he).2)
  · rw [List.mem_singleton.1 he]

/-- Settles O31, phase by phase. -/
theorem ringCommitsAndDigestsAreCarriedOn : Obligations.RingCommitsAndDigestsAreCarriedOn := by
  refine ⟨fun port w s hc => ⟨fun hseen => ?_, fun r hk hr hn hd => ?_⟩, fun port part i d s hseen => ?_⟩
  · have hexec : exec (.ringCommit port w) s = run (fun s => s.onWord port.toNat w.part.toNat (.commit w) (opRingCommit w)) s := rfl
    have hu := relay_begin s (some port.toNat) w.part.toNat (.commit w)
    have hcarry : ∀ t : State, t.ring.seen = (s.begin.relay (some port.toNat) w.part.toNat (.commit w)).ring.seen →
        t.out = (s.begin.relay (some port.toNat) w.part.toNat (.commit w)).out →
        carries (some port.toNat) w.part.toNat (.commit w) s t := fun t => carries_begin
    obtain ⟨u, hue⟩ : ∃ u, u = s.begin.relay (some port.toNat) w.part.toNat (.commit w) := ⟨_, rfl⟩
    have huc : u.commit = none := by rw [hue, hu]; exact hc
    have huring : u.ring.commit = s.ring.commit := by rw [hue, hu]
    have huregs : u.regs = s.regs := by rw [hue, hu]
    have hkeep : u.isKeeper = s.isKeeper := onF_of_getF (getF_of_regs huregs _ _)
    have hcount : u.getF F.tikCount_count = s.getF F.tikCount_count := getF_of_regs huregs _ _
    have hown : u.getF F.lnkRing_own = s.getF F.lnkRing_own := getF_of_regs huregs _ _
    have hports : u.takePorts = s.takePorts := takePorts_congr (fun f i _ => getF_of_regs huregs f i)
    have hword : ∀ ph code tgt v, u.ringWord ph code tgt v = s.ringWord ph code tgt v := fun ph code tgt v => by
      simp only [State.ringWord, hown]
    rw [← hue] at hcarry
    have hgo : ∀ {P : State → Prop}, P { opRingCommit w u with pending := s.pending } → completes (.ringCommit port w) s P := fun h =>
      completes_onWord hexec hseen (by rw [← hue]; exact h)
    refine ⟨fun hp hr => hgo ?_, fun r v hp hk hr hv => hgo ?_, fun r hp hr => hgo ?_, fun hp h0 hk hr => hgo ?_,
      fun r hp h0 hk hr hres htgt => hgo ?_⟩
    · rw [opRingCommit_announcement huc hp (huring.trans hr)]
      exact ⟨rfl, hcarry _ rfl rfl, huregs⟩
    · rw [opRingCommit_submission hp (hkeep.trans hk) (huring.trans hr) hv]
      exact ⟨rfl, hcarry _ rfl rfl, huregs⟩
    · have hop : opRingCommit w u = u.takeResult w.code.toNat := by simp only [opRingCommit, hp]
      rw [hop, takeResult_of_none huc _ (huring.trans hr)]
      refine ⟨?_, hcarry _ rfl rfl, huregs⟩
      have hcode : w.code.toNat = 0 ↔ w.code = 0 := ⟨fun h => BitVec.eq_of_toNat_eq h, fun h => by rw [h]; rfl⟩
      simp only [hcode]
    · have hop : opRingCommit w u = u.openRingCommit.submitOwn := by
        simp only [opRingCommit, hp, hkeep.trans hk, h0, Bool.not_true, Bool.false_eq_true, if_false, if_true]
      rw [hop, openRingCommit_of_none (huring.trans hr), hcount, hword]
      obtain ⟨v, hv⟩ : ∃ v : State, v = { u with ring := { u.ring with commit := some { target := s.getF F.tikCount_count + 64 } } } := ⟨_, rfl⟩
      rw [← hv]
      have htell := relay_eq v none (v.getF F.lnkRing_own) (s.ringWord .announcement 0 (s.getF F.tikCount_count + 64) none)
      rw [submitOwn_of_none (by rw [State.tell, htell, hv]; exact huc)]
      refine ⟨?_, tells_of_tell (u := v) (by rw [hv]; exact hports) (by rw [hv]; exact hown) rfl rfl, ?_⟩
      · rw [State.tell, htell, hv]
      · rw [State.tell, htell, hv]
        exact huregs
    · have hop : opRingCommit w u = u.moveTarget := by
        have hdue : u.ringDueAt w.target.toNat = true := by
          simp only [State.ringDueAt, huring.trans hr, hres, beq_self_eq_true, Bool.true_and, Nat.mod_eq_of_lt w.target.isLt]
          exact decide_eq_true htgt
        simp only [opRingCommit, hp, hkeep.trans hk, h0, hdue, Bool.not_true, Bool.false_eq_true, if_false, if_true]
      rw [hop, moveTarget_of_keeper huc (hkeep.trans hk) (huring.trans hr), hword]
      obtain ⟨v, hv⟩ : ∃ v : State, v = { u with ring := { u.ring with commit := some { r with target := r.target + 1 } } } := ⟨_, rfl⟩
      rw [← hv]
      have htell := relay_eq v none (v.getF F.lnkRing_own) (s.ringWord .announcement 0 (r.target + 1) none)
      refine ⟨?_, tells_of_tell (u := v) (by rw [hv]; exact hports) (by rw [hv]; exact hown) rfl rfl, ?_⟩
      · rw [State.tell, htell, hv]
      · rw [State.tell, htell, hv]
        exact huregs
  · have hr' : s.begin.ring.commit = some r := hr
    have hcond : (s.begin.isKeeper && decide (s.begin.edgesTo r ≤ 4)) = true := (Bool.and_eq_true _ _).mpr ⟨hk, decide_eq_true hd⟩
    have hop : opRingDeadline s.begin = (s.begin.tell (s.ringWord .result (s.ringOutcome r) r.target none)).takeResult (s.ringOutcome r) := by
      have h := decideRing_of_open hr' hn
      simp only [opRingDeadline, hr', hcond, if_true, h]
      rfl
    have htell := relay_begin s none (s.getF F.lnkRing_own) (s.ringWord .result (s.ringOutcome r) r.target none)
    have hcom : (s.begin.tell (s.ringWord .result (s.ringOutcome r) r.target none)).commit = none := by
      rw [State.tell, show s.begin.getF F.lnkRing_own = s.getF F.lnkRing_own from rfl, htell]
      exact hc
    have hrc : (s.begin.tell (s.ringWord .result (s.ringOutcome r) r.target none)).ring.commit = some r := by
      rw [State.tell, show s.begin.getF F.lnkRing_own = s.getF F.lnkRing_own from rfl, htell]
      exact hr
    rw [takeResult_of_none hcom _ hrc] at hop
    exact completes_of_eq (f := opRingDeadline) rfl hop ⟨rfl, tells_of_tell (u := s.begin) rfl rfl rfl rfl, by
      rw [State.tell, show s.begin.getF F.lnkRing_own = s.getF F.lnkRing_own from rfl, htell]⟩
  · refine completes_onWord (f := opSheafDigest part.toNat i.toNat d) rfl hseen ?_
    have hcarry := fun t : State => carries_begin (s := s) (t := t) (port := some port.toNat) (part := part.toNat) (w := .digest i.toNat d)
    rw [relay_begin] at hcarry ⊢
    obtain ⟨hin, honly, hself, hother⟩ := opSheafDigest_spec { s with
      ring := { s.ring with seen := s.ring.seen ++ [(part.toNat, CtlWord.digest i.toNat d)] }
      out := (s.takePorts.filter (fun p => some p != some port.toNat)).map (fun p => .ctl p part.toNat (.digest i.toNat d)) } part.toNat i.toNat d
    exact ⟨hin, honly, fun k hk => hself k hk, hcarry _ rfl rfl, by rw [hother]⟩

end Sys2Proof.Machine
end

section
/-! SUPPORT. O32, O33: the replay buffer, and envelopes that are acknowledged or asked for again. -/

namespace Sys2Proof.Machine

/-! ## The ports' records -/

theorem port_modPort_same (s : State) (p : Nat) (f : Port → Port) : (s.modPort p f).port p = f (s.port p) := port_setPort_same ..

theorem port_modPort_ne (s : State) {p q : Nat} (f : Port → Port) (h : p ≠ q) : (s.modPort p f).port q = s.port q := port_setPort_ne (h := h) ..

/-- A port with no envelope that waits has none to send now. -/
theorem flushPort_of_none {s : State} {p : Nat} (h : (s.port p).waiting = []) :
    ∃ ports, s.flushPort p = { s with ports := ports } ∧ tget {} ports p = s.port p ∧ ∀ q, q ≠ p → tget {} ports q = s.port q := by
  refine ⟨(s.modPort p (fun x => { x with waiting := [] })).ports, ?_, ?_, fun q hq => port_modPort_ne s (fun x => { x with waiting := [] }) hq.symm⟩
  · rw [State.flushPort, h]
    rfl
  · refine (port_modPort_same s p (fun x => { x with waiting := [] })).trans ?_
    show { s.port p with waiting := [] } = s.port p
    rw [← h]

/-- A change of a port's record that leaves no envelope waiting, and the flush after it. -/
theorem flush_modPort {s : State} {p : Nat} (f : Port → Port) (h : (f (s.port p)).waiting = []) :
    ∃ ports, (s.modPort p f).flushPort p = { s with ports := ports } ∧ tget {} ports p = f (s.port p) ∧
      ∀ q, q ≠ p → tget {} ports q = s.port q := by
  have hw : ((s.modPort p f).port p).waiting = [] := by rw [port_modPort_same]; exact h
  obtain ⟨ports, h1, h2, h3⟩ := flushPort_of_none hw
  exact ⟨ports, h1, h2.trans (port_modPort_same ..), fun q hq => (h3 q hq).trans (port_modPort_ne s f hq.symm)⟩

/-! ## A retry request (R323) -/

/-- The envelopes from the k-th on, each sent once more. -/
def resent (es : List (Envelope × Nat)) (k : Nat) : List (Envelope × Nat) := (es.drop k).map (fun e => (e.1, e.2 + 1))

theorem opRetry_of_found {s : State} {p k : Nat} {seq : BitVec 16} (hk : findIdx? (fun e => e.1.seq == seq) (s.port p).replay = some k)
    (hc : s.portCarries p = true) (hl : ∀ e ∈ (s.port p).replay.drop k, e.2 < 7) :
    opRetry p seq s = { (s.modPort p (fun x => { x with replay := (s.port p).replay.take k ++ resent (s.port p).replay k })).bump
        F.lnkErr_retries p (resent (s.port p).replay k).length with
      out := s.out ++ (resent (s.port p).replay k).map (fun e => .env p e.1) } := by
  have hany : (resent (s.port p).replay k).any (fun e => decide (8 ≤ e.2)) = false := by
    rw [List.any_eq_false]
    intro e he
    obtain ⟨d, hd, rfl⟩ := List.mem_map.1 he
    have := hl d hd
    simp only [decide_eq_true_eq]
    omega
  unfold resent at hany ⊢
  simp only [opRetry, hk, hc, Bool.not_true, Bool.false_eq_true, if_false, hany, foldl_send]
  rfl

/-- Settles O32: the three words of the hop protocol. -/
theorem theReplayBufferFollowsTheHop : Obligations.TheReplayBufferFollowsTheHop := by
  intro port s
  refine ⟨fun seq now k hk hw => ?_, fun seq k hk hc hl => ?_, fun free hw => ?_⟩
  · obtain ⟨ports, h1, h2, h3⟩ := flush_modPort (s := s.begin.at_ now) (p := port.toNat)
      (fun x => { x with replay := (s.port port.toNat).replay.drop (k + 1) }) hw
    have hk' : findIdx? (fun e => e.1.seq == seq) ((s.begin.at_ now).port port.toNat).replay = some k := hk
    have hop : opAck port.toNat seq now s.begin = { s.begin.at_ now with ports := ports } := by
      simp only [opAck, hk']
      exact h1
    exact completes_of_eq (f := opAck port.toNat seq now) rfl hop ⟨h2, h3, rfl⟩
  · have hop := opRetry_of_found (s := s.begin) hk hc hl
    have hlen : (resent (s.port port.toNat).replay k).length = (s.port port.toNat).replay.length - k := by simp [resent]
    refine completes_of_eq (f := opRetry port.toNat seq) rfl hop ⟨?_, ?_, ?_, ?_, rfl⟩
    · exact (List.nil_append _).trans (by rw [resent, List.map_map]; rfl)
    · exact congrArg Port.replay (port_modPort_same s.begin port.toNat (fun x => { x with
        replay := (s.port port.toNat).replay.take k ++ resent (s.port port.toNat).replay k }))
    · refine (getF_bump _ _ _ _ (by decide)).trans ?_
      rw [show (s.begin.port port.toNat) = s.port port.toNat from rfl, hlen]
      rfl
    · exact sameRegs_of_regs (sameRegs_bump F.lnkErr_retries port.toNat _ (sameRegs_refl _ (s.begin.modPort port.toNat (fun x => { x with
        replay := (s.port port.toNat).replay.take k ++ resent (s.port port.toNat).replay k }))) (by simp [F.lnkErr_retries])) rfl
  · obtain ⟨ports, h1, h2, h3⟩ := flush_modPort (s := s.begin) (p := port.toNat) (fun x => { x with credits := free.toNat }) hw
    exact completes_of_eq (f := opCredit port.toNat free.toNat) rfl h1 ⟨h2, h3, rfl⟩

/-! ## Data envelopes (R319, R322 to R324) -/

/-- The codewords of an envelope are counted, and whether its CRC was wrong. -/
def State.countFec (s : State) (p corrected bad : Nat) : State := (s.bump F.lnkFec_corrected p corrected).bump F.lnkFec_uncorrectable p bad

section
variable (s : State) (p corrected bad : Nat)

theorem putsRegs_countFec : putsRegs [regKey R.lnkFec p] s (s.countFec p corrected bad) :=
  ((putsRegs_refl _ s).bump F.lnkFec_corrected p corrected (by simp [F.lnkFec_corrected])).bump F.lnkFec_uncorrectable p bad
    (by simp [F.lnkFec_uncorrectable])

theorem countFec_fields :
    (s.countFec p corrected bad).getF F.lnkFec_corrected p = min (s.getF F.lnkFec_corrected p + corrected) (2 ^ 32 - 1) ∧
    (s.countFec p corrected bad).getF F.lnkFec_uncorrectable p = min (s.getF F.lnkFec_uncorrectable p + bad) (2 ^ 32 - 1) := by
  simp (disch := decide) only [State.countFec, getF_bump_apart, getF_bump]
  exact ⟨rfl, rfl⟩

/-- Fields of other registers than LNK_FEC. -/
theorem getF_countFec (f : Fld) (i : Nat) (hf : R.lnkFec.off / 8 ≠ f.reg.off / 8) : (s.countFec p corrected bad).getF f i = s.getF f i :=
  (getF_bump_off _ _ _ _ _ _ hf).trans (getF_bump_off _ _ _ _ _ _ hf)

theorem countFec_frame : s.countFec p corrected bad = { s with regs := (s.countFec p corrected bad).regs } := rfl
end

section
variable {s : State} {p n : Nat} {e : Envelope}

/-- The first of a run of envelopes that are bad. -/
theorem opEnvelope_of_bad {bad : Nat} (hb : bad ≠ 0 ∨ envOk e = false) (hr : (s.port p).newRun e = true) :
    opEnvelope p e bad n s = (((s.countFec p n bad).bump F.lnkErr_crc p).setPort p
      { s.port p with retryAsked := true, outSeq := some ((s.port p).past e) }).send
        (.ctl p s.own (.retry (BitVec.ofNat 16 (s.port p).rxSeq))) := by
  have hgood : (bad == 0 && envOk e) = false := by
    rw [Bool.and_eq_false_iff]
    exact hb.imp_left beq_eq_false_iff_ne.2
  have hown : ((s.countFec p n bad).bump F.lnkErr_crc p).own = s.own :=
    (getF_bump_off _ _ _ _ _ _ (by decide)).trans (getF_countFec _ _ _ _ _ _ (by decide))
  have hport : ((s.countFec p n bad).bump F.lnkErr_crc p).port p = s.port p := rfl
  obtain ⟨u, hu⟩ : ∃ u, u = (s.countFec p n bad).bump F.lnkErr_crc p := ⟨_, rfl⟩
  rw [← hu] at hown hport
  have hop : opEnvelope p e bad n s = if (u.port p).newRun e then (u.setPort p { u.port p with
      retryAsked := true, outSeq := some ((u.port p).past e) }).send (.ctl p u.own (.retry (BitVec.ofNat 16 (u.port p).rxSeq)))
      else u.setPort p { u.port p with retryAsked := true, outSeq := some ((u.port p).past e) } := by
    simp only [opEnvelope, hgood, Bool.false_eq_true, if_false, Bool.false_and]
    rw [hu]
    rfl
  rw [hop, hport, if_pos hr, hown, hu]

section
variable (hok : envOk e = true)
include hok

/-- One accepted before is dropped. -/
theorem opEnvelope_of_past (h : 32768 ≤ (s.port p).past e) : opEnvelope p e 0 n s = s.countFec p n 0 := by
  have h0 : ((s.port p).past e == 0) = false := beq_eq_false_iff_ne.2 (by omega)
  have hd : decide (32768 ≤ (s.port p).past e) = true := decide_eq_true h
  have hport : (s.countFec p n 0).port p = s.port p := rfl
  obtain ⟨u, hu⟩ : ∃ u, u = s.countFec p n 0 := ⟨_, rfl⟩
  rw [← hu] at hport ⊢
  have hop : opEnvelope p e 0 n s = if (u.port p).past e == 0 then u.takeEnv p e else if decide (32768 ≤ (u.port p).past e) then u
      else if (u.port p).newRun e then (u.setPort p { u.port p with retryAsked := true, outSeq := some ((u.port p).past e) }).send
        (.ctl p u.own (.retry (BitVec.ofNat 16 (u.port p).rxSeq)))
      else u.setPort p { u.port p with retryAsked := true, outSeq := some ((u.port p).past e) } := by
    simp only [opEnvelope, hok, beq_self_eq_true, Bool.true_and, Bool.and_true, if_true]
    rw [hu]
    rfl
  rw [hop, hport, h0, hd]
  rfl

/-- One in sequence is accepted. -/
theorem opEnvelope_of_next (h : (s.port p).past e = 0) : opEnvelope p e 0 n s = (s.countFec p n 0).takeEnv p e := by
  have hport : (s.countFec p n 0).port p = s.port p := rfl
  simp only [opEnvelope, hok, beq_self_eq_true, Bool.true_and, Bool.and_true, if_true]
  exact if_pos (by rw [show ((s.bump F.lnkFec_corrected p n).bump F.lnkFec_uncorrectable p 0).port p = s.port p from rfl, h]; rfl)
end
end

/-- A port's record once it has accepted an envelope. -/
def Port.accepts (x : Port) : Port := { x with rxSeq := (x.rxSeq + 1) % 65536, retryAsked := false, outSeq := none }

/-- The acknowledgement and the credit word that go with an accepted envelope. -/
def State.acknowledges (s : State) (p : Nat) (e : Envelope) : State :=
  { s.modPort p Port.accepts with
    out := s.out ++ [.ctl p s.own (.ack e.seq), .ctl p s.own (.credit (s.freeWord.setWidth 10))], fresh := s.fresh + 1 }

theorem takeEnv_eq (s : State) (p : Nat) (e : Envelope) : s.takeEnv p e =
    if e.dstPart.toNat = s.own then (s.acknowledges p e).deliver p e else (s.acknowledges p e).sendEnv (opposite p) e := by
  simp only [State.takeEnv, State.acknowledges, State.send, List.append_assoc]
  rfl

theorem opposite_ne (p : Nat) : opposite p ≠ p := by
  unfold opposite
  intro h
  have h1 : p ^^^ 1 = p ^^^ 0 := by rw [Nat.xor_zero]; exact h
  exact absurd (Nat.xor_right_injective h1) (by decide)

/-- A port that carries, has credits and room sends an envelope at once. -/
theorem sendEnv_of_ready {s : State} {p : Nat} {e : Envelope} (hc : s.portCarries p = true) (hcr : 0 < (s.port p).credits)
    (hl : (s.port p).replay.length < 512) : ∃ (f : Envelope) (x : Port), f.payload = e.payload ∧ f.dstPart = e.dstPart ∧
      x.txSeq = ((s.port p).txSeq + 1) % 65536 ∧ s.sendEnv p e = (s.setPort p x).send (.env p f) := by
  have hn : ¬ ((s.port p).credits = 0 ∨ 512 ≤ (s.port p).replay.length) := by omega
  simp only [State.sendEnv, hc, if_true, State.transmit, if_neg hn]
  refine ⟨_, _, ?_, ?_, ?_, rfl⟩ <;> rfl

/-- Settles O33: a bad envelope, one from the past, and one in sequence for this part or another. -/
theorem anEnvelopeIsAcknowledgedOrAskedForAgain : Obligations.AnEnvelopeIsAcknowledgedOrAskedForAgain := by
  intro port e bad n s
  refine ⟨fun hb hr => ?_, fun hok hp => ?_, fun hok hp => ⟨fun hd hst => ?_, fun hd hc hcr hl => ?_⟩⟩
  · obtain ⟨h1, h2⟩ := countFec_fields s.begin port.toNat n bad
    have hregs := ((putsRegs_countFec s.begin port.toNat n bad).mono (ls := [regKey R.lnkErr port.toNat, regKey R.lnkFec port.toNat])
      (by simp)).bump F.lnkErr_crc port.toNat 1 (by simp [F.lnkErr_crc])
    refine completes_of_eq (f := opEnvelope port.toNat e bad n) rfl (opEnvelope_of_bad (s := s.begin) hb hr)
      ⟨?_, ?_, ?_, port_setPort_same .., fun q hq => port_setPort_ne (h := hq.symm) .., rfl, sameRegs_of_regs hregs.2 rfl, rfl⟩
    · exact (getF_bump _ _ _ _ (by decide)).trans (by rw [getF_countFec _ _ _ _ _ _ (by decide)]; rfl)
    · exact (getF_bump_off _ _ _ _ _ _ (by decide)).trans h1
    · exact (getF_bump_off _ _ _ _ _ _ (by decide)).trans h2
  · exact completes_of_eq (f := opEnvelope port.toNat e 0 n) rfl (opEnvelope_of_past (s := s.begin) hok hp)
      (onlyRegs_of_putsRegs (putsRegs_countFec ..))
  · have hown : (s.begin.countFec port.toNat n 0).own = s.own := getF_countFec _ _ _ _ _ _ (by decide)
    have hep : ∀ (f : Fld) (i : Nat), R.lnkFec.off / 8 ≠ f.reg.off / 8 → (s.begin.countFec port.toNat n 0).getF f i = s.getF f i :=
      fun f i hf => getF_countFec s.begin _ _ _ f i hf
    have hregs := putsRegs_countFec s.begin port.toNat n 0
    have hop := opEnvelope_of_next (n := n) (s := s.begin) hok hp
    rw [takeEnv_eq, if_pos (hd.trans hown.symm)] at hop
    generalize s.begin.countFec port.toNat n 0 = u at *
    obtain ⟨hu, hsame⟩ := hregs
    have hstale : (!((u.acknowledges port.toNat e).sheaf e.sheaf.toNat).inUse ||
        ((u.acknowledges port.toNat e).sheaf e.sheaf.toNat).epoch != e.sheafEpoch.toNat) = true := by
      rw [show (u.acknowledges port.toNat e).sheaf e.sheaf.toNat = s.sheaf e.sheaf.toNat by rw [State.acknowledges, hu]; rfl]
      rcases hst with h | h
      · rw [h]; rfl
      · rw [bne_iff_ne.2 h, Bool.or_true]
    have hdel : (u.acknowledges port.toNat e).deliver port.toNat e = (u.acknowledges port.toNat e).bump F.lnkErr_epoch port.toNat :=
      if_pos hstale
    rw [hdel] at hop
    refine completes_of_eq (f := opEnvelope port.toNat e 0 n) rfl hop ⟨?_, ?_, ?_, ⟨u.freeWord.setWidth 10, ?_⟩, ?_⟩
    · refine (getF_bump _ _ _ _ (by decide)).trans ?_
      rw [show (u.acknowledges port.toNat e).getF F.lnkErr_epoch port.toNat = s.getF F.lnkErr_epoch port.toNat from hep _ _ (by decide)]
      rfl
    · refine (congrArg Port.rxSeq (port_modPort_same u port.toNat Port.accepts)).trans ?_
      rw [hu]
      rfl
    · show u.cells = s.cells
      rw [hu]
      rfl
    · show u.out ++ [.ctl port.toNat u.own (.ack e.seq), .ctl port.toNat u.own (.credit (u.freeWord.setWidth 10))] = _
      rw [hown, hu]
      rfl
    · refine sameRegs_of_regs (sameRegs_bump (t := u) F.lnkErr_epoch port.toNat 1 (fun d k hk => hsame d k (fun h => hk ?_)) ?_) rfl
      · exact List.mem_cons_of_mem _ h
      · simp [F.lnkErr_epoch]
  · have hown : (s.begin.countFec port.toNat n 0).own = s.own := getF_countFec _ _ _ _ _ _ (by decide)
    have hst : (s.begin.countFec port.toNat n 0).getF F.lnkStat_state (opposite port.toNat) = s.getF F.lnkStat_state (opposite port.toNat) :=
      getF_countFec _ _ _ _ _ _ (by decide)
    have hregs := putsRegs_countFec s.begin port.toNat n 0
    have hop := opEnvelope_of_next (n := n) (s := s.begin) hok hp
    rw [takeEnv_eq, if_neg (fun h => hd (h.trans hown))] at hop
    generalize s.begin.countFec port.toNat n 0 = u at *
    obtain ⟨hu, -⟩ := hregs
    have hopp : (u.acknowledges port.toNat e).port (opposite port.toNat) = s.port (opposite port.toNat) :=
      (port_modPort_ne u Port.accepts (opposite_ne _).symm).trans (by rw [hu]; rfl)
    have hcar : (u.acknowledges port.toNat e).portCarries (opposite port.toNat) = true := by
      rw [← hc, State.portCarries, State.portCarries, hopp, State.portUp, State.portUp, State.lnk, State.lnk,
        show (u.acknowledges port.toNat e).getF F.lnkStat_state (opposite port.toNat) = s.getF F.lnkStat_state (opposite port.toNat) from hst]
    obtain ⟨f, x, hf1, hf2, hx, hsend⟩ := sendEnv_of_ready (e := e) hcar (by rw [hopp]; exact hcr) (by rw [hopp]; exact hl)
    rw [hsend] at hop
    refine completes_of_eq (f := opEnvelope port.toNat e 0 n) rfl hop ⟨?_, ?_, ⟨f, hf1, hf2, ?_⟩, ?_, ?_⟩
    · refine (congrArg Port.rxSeq ((port_setPort_ne (h := opposite_ne port.toNat) ..).trans (port_modPort_same u port.toNat Port.accepts))).trans ?_
      rw [hu]
      rfl
    · show Output.ctl port.toNat s.own (.ack e.seq) ∈ (u.out ++ [.ctl port.toNat u.own (.ack e.seq), _]) ++ [_]
      rw [hown]
      simp
    · show Output.env (opposite port.toNat) f ∈ (u.out ++ [_, _]) ++ [Output.env (opposite port.toNat) f]
      simp
    · refine (congrArg Port.txSeq (port_setPort_same ..)).trans (hx.trans ?_)
      rw [hopp]
    · show u.cells = s.cells
      rw [hu]
      rfl

end Sys2Proof.Machine
end


section
/-! SUPPORT. Reads and writes of registers by their access codes (R7, R9, R12, R509). -/

namespace Sys2Proof.Machine

/-! ## What a whole word covers -/

theorem writeMask_whole {o : Nat} (ho : o % 8 = 0) : writeMask o 8 = BitVec.allOnes 64 := by
  rw [writeMask, ho]
  decide

theorem readWord_whole (w : Word) {o : Nat} (ho : o % 8 = 0) : (w >>> (8 * (o % 8))) &&& maskW (8 * 8) = w := by
  rw [ho]
  show (w >>> 0) &&& maskW 64 = w
  rw [show maskW 64 = BitVec.allOnes 64 by decide, BitVec.and_allOnes, BitVec.ushiftRight_zero]

/-- Masking the value first makes no difference under a mask that lies inside the first. -/
theorem maskedValue_and (v a m : Word) : (v &&& m) &&& (a &&& m) = v &&& (a &&& m) := by
  ext i
  simp only [BitVec.getElem_and]
  cases m[i] <;> simp

/-! ## The operations -/

/-- An access that is no aligned 4 or 8 bytes answers zero. -/
theorem opBar0Read_of_misaligned (by_ : Requester) {o n : Nat} (s : State) (h : accessOk o n = false) :
    opBar0Read by_ o n s = s.send (.regData 0) := by
  simp [opBar0Read, h]

theorem opBar0Write_of_misaligned (by_ : Requester) {o n : Nat} (now : Nat) (v : Word) (s : State) (h : accessOk o n = false)
    (hrcv : inRcv o = false) : opBar0Write by_ o n now v s = s := by
  simp [opBar0Write, h, hrcv]

/-- A whole word of a register that the requester may read: the word goes out and its RC fields are cleared. -/
theorem opBar0Read_of_register (by_ : Requester) {o i : Nat} {r : Reg} (s : State) (hr : regAt (o / 8 * 8) = some r)
    (hpage : inPages o = true) (hmay : s.mayRead by_ (o / 8 * 8) = true) (hi : i = s.readInst by_ r) (hlt : i < instances r.shown)
    (ho : o % 8 = 0) :
    opBar0Read by_ o 8 s = ((s.send (.regData (s.shows r i))).nextFree).setReg r i (s.reg r i &&& ~~~accMask .rc r) := by
  subst hi
  have hword : o / 8 * 8 = o := by omega
  have hok : accessOk o 8 = true := by simp [accessOk, ho]
  have hshown : s.bar0Word by_ (o / 8 * 8) = s.shows r (s.readInst by_ r) := by
    simp [State.bar0Word, hmay, hr, hword ▸ hpage]
  have hmay' : ((s.send (.regData (s.shows r (s.readInst by_ r)))).nextFree).mayRead by_ (o / 8 * 8) = true := hmay
  have hinst : ((s.send (.regData (s.shows r (s.readInst by_ r)))).nextFree).readInst by_ r = s.readInst by_ r := rfl
  rw [opBar0Read, hok, if_neg (by decide)]
  dsimp only
  rw [hshown, readWord_whole _ ho]
  rw [hpage, hmay', hr, if_pos (by decide)]
  dsimp only
  rw [hinst, if_pos hlt, State.clearRc, writeMask_whole ho, BitVec.and_allOnes]
  rfl

/-- A write of a register outside the staged set that does nothing else goes by its access codes. -/
theorem opBar0Write_of_plain (by_ : Requester) {o i n : Nat} {r : Reg} (now : Nat) (v : Word) (s : State)
    (hr : regAt (o / 8 * 8) = some r) (hrcv : inRcv o = false) (hmay : s.mayWrite by_ o = true) (hi : i = s.shownInst by_ r)
    (hlt : i < instances r.shown) (hok : accessOk o n = true) (hst : stRegs.contains r = false)
    (hsys : actSystem by_ r now (writeMask o n) (writeValue o v &&& writeMask o n) = none)
    (hunit : actUnit r i (writeMask o n) (writeValue o v &&& writeMask o n) = none) :
    opBar0Write by_ o n now v s = s.plainWrite r i (writeMask o n) (writeValue o v &&& writeMask o n) := by
  rw [opBar0Write, hmay, hrcv, hok, hr]
  show opRegWrite by_ r (s.shownInst by_ r) o n now v s = _
  rw [← hi]
  rw [opRegWrite, hst, if_neg (by decide), if_neg (by omega), hsys, hunit]

/-! ## The statement -/

/-- Settles O58: the three operations above, the read's word shown on the state with no output. -/
theorem registersGoByTheirAccessCodes : Obligations.RegistersGoByTheirAccessCodes := by
  intro by_ o r i now s
  refine ⟨?_, ?_, ?_⟩
  · intro hr hpage hmay hi hlt ho
    apply completes_of_run (f := opRead by_ (.bar0 o) 8 now) rfl
    have hread : opRead by_ (.bar0 o) 8 now s.begin = opBar0Read by_ o.toNat 8 (s.begin.at_ now) := rfl
    rw [hread, opBar0Read_of_register by_ (s.begin.at_ now) hr hpage hmay hi hlt ho]
    exact ⟨rfl, reg_setReg_same _ _ _ _, sameRegs_setReg _ _ _ (sameRegs_refl _ _) (List.mem_singleton.2 rfl), rfl⟩
  · intro n v hr hrcv hmay hi hlt hok hst hsys hunit
    apply completes_of_run (f := fun s => opBar0Write by_ o.toNat n now v (s.at_ now)) rfl
    rw [opBar0Write_of_plain by_ now v (s.begin.at_ now) hr hrcv hmay hi hlt hok hst hsys hunit, State.plainWrite]
    dsimp only
    rw [maskedValue_and, maskedValue_and]
    exact ⟨reg_setReg_same _ _ _ _, rfl, sameRegs_setReg _ _ _ (sameRegs_refl _ _) (List.mem_singleton.2 rfl)⟩
  · intro n v hbad
    constructor
    · apply completes_of_run (f := opRead by_ (.bar0 o) n now) rfl
      have hread : opRead by_ (.bar0 o) n now s.begin = opBar0Read by_ o.toNat n (s.begin.at_ now) := rfl
      rw [hread, opBar0Read_of_misaligned by_ _ hbad]
      rfl
    · intro hrcv
      have hexec : exec (.registerWrite by_ (.bar0 o) n v now) s = run (opBar0Write by_ o.toNat n now v ∘ (State.at_ · now)) s := rfl
      rw [idlesAt, hexec, run_eq, Function.comp_apply, opBar0Write_of_misaligned by_ now v _ hbad hrcv]
      rfl

end Sys2Proof.Machine
end


section
/-! SUPPORT. The I3C port (R513, R537 to R539). -/

namespace Sys2Proof.Machine

/-- A command whose operation leaves everything but the instant. -/
theorem idlesAt_of_run {c : Instr} {now : Nat} {s : State} {f : State → State} (h : exec c s = run f s)
    (hf : f s.begin = s.begin.at_ now) : idlesAt c now s := by
  rw [idlesAt, h, run_eq, hf]
  rfl

/-! ## Bytes at the front of a string -/

theorem leNat_append (a b : List Byte) : leNat (a ++ b) = leNat a + 256 ^ a.length * leNat b := by
  induction a with
  | nil => simp [leNat]
  | cons x a ih =>
    simp only [List.cons_append, leNat, ih, List.length_cons, pow_succ]
    ring

/-- The low bytes of a field are the shorter field. -/
theorem fieldAt_mod (l : List Byte) (o : Nat) {n k : Nat} (h : o + (n + k) ≤ l.length) :
    fieldAt l o (n + k) % 256 ^ n = fieldAt l o n := by
  have hlen : ((l.drop o).take n).length = n := by rw [List.length_take, List.length_drop]; omega
  rw [fieldAt, fieldAt, slice_inside _ _ _ h, slice_inside _ _ _ (by omega), List.take_add, leNat_append, hlen, Nat.add_mul_mod_self_left]
  refine Nat.mod_eq_of_lt ?_
  have := leNat_lt ((l.drop o).take n)
  rwa [hlen] at this

theorem i3cOffset_some {bytes : List Byte} {o : Nat} (h : i3cOffset bytes = some o) :
    o % 8 = 0 ∧ 4 ≤ bytes.length ∧ o = fieldAt bytes 0 4 := by
  rw [i3cOffset] at h
  split at h
  next => cases h
  next hn =>
    cases h
    omega

/-! ## A port that does not answer yet -/

section
variable {now : Nat} {s : State} (hup : s.i3cUp = false)
include hup

theorem opI3cWrite_of_down (bytes : List Byte) : opI3cWrite bytes now s = s.at_ now := by
  have h : (s.at_ now).i3cUp = false := hup
  simp [opI3cWrite, h]

theorem opI3cPointer_of_down (bytes : List Byte) : opI3cPointer bytes s = s := by simp [opI3cPointer, hup]

theorem opI3cWords_of_down (bytes : List Byte) : opI3cWords bytes s = s := by simp [opI3cWords, hup]

theorem opI3cRead_of_down (n : Nat) : opI3cRead n now s = s.at_ now := by
  have h : (s.at_ now).i3cUp = false := hup
  simp [opI3cRead, h]

theorem opSetdasa_of_down (a b : Nat) : opSetdasa a b s = s := by simp [opSetdasa, hup]

theorem opEntdaa_of_down (a : Nat) : opEntdaa a s = s := by simp [opEntdaa, hup]

theorem opGetstatus_of_down : opGetstatus s = s := by simp [opGetstatus, hup]

end

/-! ## I3C writes -/

section
variable {now : Nat} {s : State} {bytes : List Byte} (hup : s.i3cUp = true)
include hup

theorem opI3cWrite_of_malformed (h : i3cOffset bytes = none ∨ bytes.length ≠ 12) :
    opI3cWrite bytes now s = (s.at_ now).i3cCause 2 := by
  have h' : (s.at_ now).i3cUp = true := hup
  rw [opI3cWrite, h']
  cases ho : i3cOffset bytes with
  | none => rfl
  | some o =>
    have hlen : bytes.length ≠ 12 := h.resolve_left (by simp [ho])
    simp [hlen]

theorem opI3cWrite_of_offset {o : Nat} (ho : i3cOffset bytes = some o) (hlen : bytes.length = 12) :
    opI3cWrite bytes now s = if (s.at_ now).mayWrite .i3c o = false then (s.at_ now).i3cCause 1
      else opBar0Write .i3c o 8 now (BitVec.ofNat 64 (fieldAt bytes 4 8)) (s.at_ now) := by
  have h' : (s.at_ now).i3cUp = true := hup
  rw [opI3cWrite, h', ho]
  cases hmay : (s.at_ now).mayWrite .i3c o <;> simp [hlen, hmay]

theorem opI3cPointer_of_malformed (h : i3cOffset bytes = none ∨ bytes.length ≠ 4) : opI3cPointer bytes s = s.i3cCause 2 := by
  rw [opI3cPointer, hup]
  cases ho : i3cOffset bytes with
  | none => rfl
  | some o =>
    have hlen : bytes.length ≠ 4 := h.resolve_left (by simp [ho])
    simp [hlen]

theorem opI3cPointer_of_offset {o : Nat} (ho : i3cOffset bytes = some o) (hlen : bytes.length = 4) :
    opI3cPointer bytes s = { s with i3c := { s.i3c with pointer := o } } := by
  simp [opI3cPointer, hup, ho, hlen]

theorem opI3cWords_of_malformed (h : i3cOffset bytes = none ∨ bytes.length % 8 ≠ 4 ∨ bytes.length < 12 ∨ 260 < bytes.length) :
    opI3cWords bytes s = s.i3cCause 2 := by
  rw [opI3cWords, hup]
  cases ho : i3cOffset bytes with
  | none => rfl
  | some o =>
    have hbad : bytes.length ≠ 4 + 8 * ((bytes.length - 4) / 8) ∨ (bytes.length - 4) / 8 = 0 ∨ 32 < (bytes.length - 4) / 8 := by
      have := h.resolve_left (by simp [ho])
      omega
    exact if_pos hbad

theorem opI3cWords_of_offset {o n : Nat} (ho : i3cOffset bytes = some o) (hlen : bytes.length = 4 + 8 * n) (h1 : 1 ≤ n) (h32 : n ≤ 32) :
    opI3cWords bytes s = if !(inRcv o && inRcv (o + 8 * n - 8) && s.mayWrite .i3c o) then s.i3cCause 1
      else { s with rcvBuf := mblock s.rcvBuf (o - rcvBase) (bytes.drop 4) } := by
  have hn : (bytes.length - 4) / 8 = n := by omega
  have hok : ¬ (bytes.length ≠ 4 + 8 * n ∨ n = 0 ∨ 32 < n) := by omega
  rw [opI3cWords, hup, ho, hn]
  exact if_neg hok

/-- THM_COOL is open to the port always (R513). -/
theorem mayWrite_thmCool : (s.at_ now).mayWrite .i3c R.thmCool.off = true := by
  have h' : s.start.bootDone = true := hup
  have hoff : R.thmCool.off / 8 * 8 = R.thmCool.off := by decide
  rw [State.mayWrite, hoff, State.i3cOpen]
  simp [State.at_, h']

/-- The recovery buffer is open to the port where flags bit 2 says so (R513). -/
theorem mayWrite_rcv {o : Nat} (hrcv : inRcv o = true) (hflag : bitOf s.flagsActive 2 = true) : s.mayWrite .i3c o = true := by
  have h' : s.start.bootDone = true := hup
  rw [State.mayWrite, State.i3cOpen, inRcv_wordStart]
  simp [h', hrcv, hflag]

end

theorem opInletWrite_at (v now : Nat) (s : State) : opInletWrite v now (s.at_ now) = opInletWrite v now s := by
  have h : (s.at_ now).at_ now = s.at_ now := by simp [State.at_]
  rw [opInletWrite, opInletWrite, h]

/-- A write of THM_COOL is a write of the inlet temperature. -/
theorem opBar0Write_thmCool (by_ : Requester) (now : Nat) (v : Word) (s : State) (hmay : s.mayWrite by_ R.thmCool.off = true) :
    opBar0Write by_ R.thmCool.off 8 now v s = opInletWrite (fieldGet v 0 16) now s := by
  have hv : writeValue R.thmCool.off v &&& writeMask R.thmCool.off 8 = v := by
    rw [show writeMask R.thmCool.off 8 = BitVec.allOnes 64 by decide, BitVec.and_allOnes, writeValue]
    exact BitVec.shiftLeft_zero v
  have hreg : regAt (R.thmCool.off / 8 * 8) = some R.thmCool := by decide +kernel
  have hst : stRegs.contains R.thmCool = false := by decide +kernel
  rw [opBar0Write, hmay, show inRcv R.thmCool.off = false by decide, show accessOk R.thmCool.off 8 = true by decide, hreg]
  show opRegWrite by_ R.thmCool 0 R.thmCool.off 8 now v s = _
  rw [opRegWrite, hst, if_neg (by decide), if_neg (by decide), hv]
  rfl

/-! ## I3C reads -/

theorem opI3cReadOne_spec (s : State) : ∃ w, opI3cReadOne s =
    { s with
      out := s.out ++ [.regData w], regs := (opI3cReadOne s).regs, fresh := (opI3cReadOne s).fresh
      i3c := { s.i3c with pointer := (s.i3c.pointer + 8) % 2 ^ 32 } } := by
  rw [opI3cReadOne]
  dsimp only
  rw [opBar0Read]
  split
  next => exact ⟨0, rfl⟩
  next =>
    dsimp only
    generalize s.bar0Word .i3c (s.i3c.pointer / 8 * 8) >>> (8 * (s.i3c.pointer % 8)) &&& maskW (8 * 8) = w
    refine ⟨w, ?_⟩
    split
    next =>
      split
      next => split <;> rfl
      next => rfl
    next => rfl

/-- Reads from the pointer on: one word each, and the pointer goes on by 8. -/
theorem iterate_opI3cReadOne (n : Nat) (s : State) : ∃ ws : List Word, ws.length = n ∧ iterate opI3cReadOne n s =
    { s with
      out := s.out ++ ws.map Output.regData, regs := (iterate opI3cReadOne n s).regs, fresh := (iterate opI3cReadOne n s).fresh
      i3c := { s.i3c with pointer := if n = 0 then s.i3c.pointer else (s.i3c.pointer + 8 * n) % 2 ^ 32 } } := by
  induction n generalizing s with
  | zero => exact ⟨[], rfl, by simp [iterate]⟩
  | succ n ih =>
    obtain ⟨w, hone⟩ := opI3cReadOne_spec s
    obtain ⟨ws, hlen, hrest⟩ := ih (opI3cReadOne s)
    have hpointer : (if n = 0 then (s.i3c.pointer + 8) % 2 ^ 32 else ((s.i3c.pointer + 8) % 2 ^ 32 + 8 * n) % 2 ^ 32) =
        (s.i3c.pointer + 8 * (n + 1)) % 2 ^ 32 := by
      split <;> omega
    refine ⟨w :: ws, by simp [hlen], ?_⟩
    rw [iterate]
    generalize iterate opI3cReadOne n (opI3cReadOne s) = u at hrest ⊢
    generalize opI3cReadOne s = v at hone hrest
    rw [hrest]
    generalize u.regs = r
    generalize u.fresh = k
    rw [hone]
    dsimp only
    rw [hpointer, if_neg (Nat.succ_ne_zero n), List.append_assoc]
    rfl

theorem opI3cRead_of_up {n now : Nat} {s : State} (hup : s.i3cUp = true) : opI3cRead n now s = iterate opI3cReadOne n (s.at_ now) := by
  have h' : (s.at_ now).i3cUp = true := hup
  simp [opI3cRead, h']

/-- A read at a word's start answers the word. -/
theorem out_opI3cReadOne (s : State) (h : s.i3c.pointer % 8 = 0) :
    (opI3cReadOne s).out = s.out ++ [.regData (s.bar0Word .i3c s.i3c.pointer)] := by
  have hword : s.i3c.pointer / 8 * 8 = s.i3c.pointer := by omega
  rw [opI3cReadOne]
  dsimp only
  rw [opBar0Read, show accessOk s.i3c.pointer 8 = true by simp [accessOk, h], if_neg (by decide)]
  dsimp only
  rw [readWord_whole _ h, hword]
  split
  next =>
    split
    next => split <;> rfl
    next => rfl
  next => rfl

/-! ## Addresses and status -/

theorem opSetdasa_of_up {s : State} (hup : s.i3cUp = true) (a b : Nat) :
    opSetdasa a b s = if a = 0x4C then { s with i3c := { s.i3c with dynAddr := some b } } else s := by
  simp [opSetdasa, hup]

theorem opEntdaa_of_addressed {s : State} (h : s.i3c.dynAddr.isSome = true) (a : Nat) : opEntdaa a s = s := by
  simp [opEntdaa, h]

theorem opEntdaa_of_up {s : State} (hup : s.i3cUp = true) (h : s.i3c.dynAddr = none) (a : Nat) :
    opEntdaa a s = ({ s with i3c := { s.i3c with dynAddr := some a } }.send
      (.status (s.serial % 2 ^ 32 + s.freeWord.toNat % 65536 * 2 ^ 32))).nextFree := by
  simp [opEntdaa, hup, h]

theorem opGetstatus_of_up {s : State} (hup : s.i3cUp = true) :
    opGetstatus s = ((s.send (.status (s.i3c.cause * 256 + s.freeWord.toNat % 256))).i3cCause 0).nextFree := by
  simp [opGetstatus, hup]

/-! ## The statement -/

/-- The port before the end of Steading boot. -/
theorem i3cPort_silent (now : Nat) (s : State) (hup : s.start.bootDone = false) :
    (∀ bytes, idlesAt (.i3cWriteRegister bytes now) now s ∧ idles (.i3cSetReadPointer bytes) s ∧ idles (.i3cWriteWords bytes) s) ∧
    (∀ n, idlesAt (.i3cPrivateRead n now) now s) ∧ (∀ a b, idles (.i3cSetdasa a b) s) ∧ (∀ a, idles (.i3cEntdaa a) s) ∧
    idles .i3cGetstatus s := by
  have hb : s.begin.i3cUp = false := hup
  refine ⟨fun bytes => ⟨?_, ?_, ?_⟩, fun n => ?_, fun a b => ?_, fun a => ?_, ?_⟩
  · exact idlesAt_of_run (f := opI3cWrite bytes now) rfl (opI3cWrite_of_down hb bytes)
  · exact idles_of_run (f := opI3cPointer bytes) rfl (opI3cPointer_of_down hb bytes)
  · exact idles_of_run (f := opI3cWords bytes) rfl (opI3cWords_of_down hb bytes)
  · exact idlesAt_of_run (f := opI3cRead n now) rfl (opI3cRead_of_down hb n)
  · exact idles_of_run (f := opSetdasa a.toNat b.toNat) rfl (opSetdasa_of_down hb _ _)
  · exact idles_of_run (f := opEntdaa a.toNat) rfl (opEntdaa_of_down hb _)
  · exact idles_of_run (f := opGetstatus) rfl (opGetstatus_of_down hb)

/-- A write of one register that the port may not write, and one of THM_COOL. -/
theorem i3cPort_writeRegister (now : Nat) (s : State) (hup : s.start.bootDone = true) (bytes : List Byte) (o : Nat)
    (ho : i3cOffset bytes = some o) (hlen : bytes.length = 12) :
    ((s.at_ now).mayWrite .i3c o = false → completes (.i3cWriteRegister bytes now) s (fun t =>
      t = { s with i3c := { s.i3c with cause := 1 }, out := [], now := max s.now now })) ∧
    (o = R.thmCool.off → completes (.i3cWriteRegister bytes now) s (fun t =>
      t.getF F.thmCool_t_in = fieldAt bytes 4 2 ∧ t.heat.coolWritten = some now ∧ sameRegs [regKey R.thmCool 0] s t ∧
      t = { s with regs := t.regs, heat := t.heat, out := [], now := max s.now now })) := by
  have hb : s.begin.i3cUp = true := hup
  have heq := opI3cWrite_of_offset (now := now) hb ho hlen
  constructor
  · intro hmay
    have hmay' : (s.begin.at_ now).mayWrite .i3c o = false := hmay
    rw [if_pos hmay'] at heq
    exact completes_of_eq (f := opI3cWrite bytes now) rfl heq rfl
  · rintro rfl
    have hmay : (s.begin.at_ now).mayWrite .i3c R.thmCool.off = true := mayWrite_thmCool hb
    rw [if_neg (by rw [hmay]; decide), opBar0Write_thmCool _ _ _ _ hmay, fieldGet_ofNat _ _ _ (by decide), pow_zero, Nat.div_one,
      show 2 ^ 16 = 256 ^ 2 by decide, fieldAt_mod (n := 2) (k := 6) bytes 4 (by omega), opInletWrite_at] at heq
    have hlt : fieldAt bytes 4 2 < 2 ^ F.thmCool_t_in.width := fieldAt_lt bytes 4 2
    refine completes_of_eq (f := opI3cWrite bytes now) rfl heq ⟨?_, rfl, ?_, rfl⟩
    · refine (getF_putF_apart _ F.thmCool_age_ms F.thmCool_t_in 0 0 rfl (by decide)).trans ?_
      rw [getF_putF_same _ F.thmCool_t_in 0 _ (by decide), Nat.mod_eq_of_lt hlt]
    · exact sameRegs_putF F.thmCool_age_ms 0 0 (sameRegs_putF F.thmCool_t_in 0 _ (sameRegs_refl _ _) (List.mem_singleton.2 rfl))
        (List.mem_singleton.2 rfl)

/-- Words written into the recovery buffer, and beyond its window. -/
theorem i3cPort_writeWords (s : State) (hup : s.start.bootDone = true) (bytes : List Byte) (o n : Nat)
    (ho : i3cOffset bytes = some o) (hlen : bytes.length = 4 + 8 * n) (h1 : 1 ≤ n) (h32 : n ≤ 32) :
    (rcvBase ≤ o ∧ o + 8 * n ≤ rcvBase + 0x1000000 ∧ bitOf s.flagsActive 2 = true → completes (.i3cWriteWords bytes) s (fun t =>
      mread t.rcvBuf (o - rcvBase) (8 * n) = bytes.drop 4 ∧
      (∀ b : Nat, b < o - rcvBase ∨ o - rcvBase + 8 * n ≤ b → mget t.rcvBuf b = mget s.rcvBuf b) ∧
      t = { s with rcvBuf := t.rcvBuf, out := [] })) ∧
    (o < rcvBase ∨ rcvBase + 0x1000000 < o + 8 * n → completes (.i3cWriteWords bytes) s (fun t =>
      t = { s with i3c := { s.i3c with cause := 1 }, out := [] })) := by
  have hb : s.begin.i3cUp = true := hup
  obtain ⟨hmod, -, -⟩ := i3cOffset_some ho
  have heq := opI3cWords_of_offset hb ho hlen h1 h32
  have hdrop : (bytes.drop 4).length = 8 * n := by rw [List.length_drop]; omega
  constructor
  · rintro ⟨hlo, hhi, hflag⟩
    have hin : inRcv o = true := by simp [inRcv]; omega
    have hend : inRcv (o + 8 * n - 8) = true := by simp [inRcv]; omega
    rw [hin, hend, mayWrite_rcv hb hin hflag] at heq
    refine completes_of_eq (f := opI3cWords bytes) rfl heq ⟨?_, fun b h => ?_, rfl⟩
    · have := mread_mblock s.rcvBuf (o - rcvBase) (bytes.drop 4)
      rwa [hdrop] at this
    · exact mget_mblock_outside s.rcvBuf _ b _ (by rwa [hdrop])
  · intro hout
    have hmod' : rcvBase % 8 = 0 := rfl
    have hno : (inRcv o && inRcv (o + 8 * n - 8)) = false := by
      rw [Bool.and_eq_false_iff]
      rcases hout with h | h
      · left; simp [inRcv]; omega
      · right; simp [inRcv]; omega
    rw [hno] at heq
    exact completes_of_eq (f := opI3cWords bytes) rfl heq rfl

/-- The port reads from its pointer on. -/
theorem i3cPort_reads (now : Nat) (s : State) (hup : s.start.bootDone = true) :
    (∀ n : Nat, 1 ≤ n → completes (.i3cPrivateRead n now) s (fun t =>
      t.i3c = { s.i3c with pointer := (s.i3c.pointer + 8 * n) % 2 ^ 32 } ∧ t.out.length = n ∧ sameMemories s t ∧ t.ctl = s.ctl)) ∧
    (s.i3c.pointer % 8 = 0 → completes (.i3cPrivateRead 1 now) s (fun t =>
      t.out = [.regData (({ s with out := [], now := max s.now now } : State).bar0Word .i3c s.i3c.pointer)])) := by
  have hb : s.begin.i3cUp = true := hup
  constructor
  · intro n hn
    obtain ⟨ws, hlen, hu⟩ := iterate_opI3cReadOne n (s.begin.at_ now)
    generalize hgen : iterate opI3cReadOne n (s.begin.at_ now) = u at hu
    rw [if_neg (by omega)] at hu
    refine completes_of_eq (f := opI3cRead n now) rfl ((opI3cRead_of_up hb).trans hgen) ?_
    rw [hu]
    exact ⟨rfl, by simp [State.begin, State.at_, hlen], ⟨rfl, rfl, rfl, rfl, rfl⟩, rfl⟩
  · intro h
    exact completes_of_eq (f := opI3cRead 1 now) rfl (opI3cRead_of_up hb) (out_opI3cReadOne (s.begin.at_ now) h)

/-- The port's addresses. -/
theorem i3cPort_addresses (s : State) (hup : s.start.bootDone = true) (a b : BitVec 7) :
    (a = 0x4C → completes (.i3cSetdasa a b) s (fun t => t = { s with i3c := { s.i3c with dynAddr := some b.toNat }, out := [] })) ∧
    (a ≠ 0x4C → idles (.i3cSetdasa a b) s) ∧
    (s.i3c.dynAddr = none → completes (.i3cEntdaa b) s (fun t =>
      t.i3c = { s.i3c with dynAddr := some b.toNat } ∧
      (∃ high, high < 65536 ∧ t.out = [.status (s.serial % 2 ^ 32 + high * 2 ^ 32)]) ∧ t.regs = s.regs ∧ sameMemories s t)) ∧
    (s.i3c.dynAddr.isSome = true → idles (.i3cEntdaa b) s) := by
  have hb : s.begin.i3cUp = true := hup
  refine ⟨?_, fun ha => ?_, fun hnone => ?_, fun hsome => ?_⟩
  · rintro rfl
    exact completes_of_eq (f := opSetdasa (0x4C : BitVec 7).toNat b.toNat) rfl (opSetdasa_of_up hb _ _) rfl
  · have hne : a.toNat ≠ 0x4C := fun h => ha (BitVec.eq_of_toNat_eq h)
    refine idles_of_run (f := opSetdasa a.toNat b.toNat) rfl ?_
    rw [opSetdasa_of_up hb, if_neg hne]
  · have hnone' : s.begin.i3c.dynAddr = none := hnone
    exact completes_of_eq (f := opEntdaa b.toNat) rfl (opEntdaa_of_up hb hnone' _)
      ⟨rfl, ⟨_, Nat.mod_lt _ (by decide), rfl⟩, rfl, ⟨rfl, rfl, rfl, rfl, rfl⟩⟩
  · exact idles_of_run (f := opEntdaa b.toNat) rfl (opEntdaa_of_addressed (s := s.begin) hsome _)

/-- Settles O56: silence before the boot's end; then the writes, the reads, the addresses and the status, each by its operation. -/
theorem theI3cPortAnswers : Obligations.TheI3cPortAnswers := by
  intro now s
  refine ⟨i3cPort_silent now s, fun hup => ?_, fun ns => ⟨fun h => ?_, fun h => ?_⟩⟩
  · have hb : s.begin.i3cUp = true := hup
    refine ⟨fun bytes => ⟨fun h => ?_, fun o ho hlen => i3cPort_writeRegister now s hup bytes o ho hlen, fun h => ?_, fun o ho hlen => ?_,
      fun h => ?_, fun o n ho hlen h1 h32 => i3cPort_writeWords s hup bytes o n ho hlen h1 h32⟩, (i3cPort_reads now s hup).1,
      (i3cPort_reads now s hup).2, i3cPort_addresses s hup, ?_⟩
    · exact completes_of_eq (f := opI3cWrite bytes now) rfl (opI3cWrite_of_malformed hb h) rfl
    · exact completes_of_eq (f := opI3cPointer bytes) rfl (opI3cPointer_of_malformed hb h) rfl
    · exact completes_of_eq (f := opI3cPointer bytes) rfl (opI3cPointer_of_offset hb ho hlen) rfl
    · exact completes_of_eq (f := opI3cWords bytes) rfl (opI3cWords_of_malformed hb h) rfl
    · exact completes_of_eq (f := opGetstatus) rfl (opGetstatus_of_up hb)
        ⟨⟨_, Nat.mod_lt _ (by decide), rfl⟩, rfl, rfl, ⟨rfl, rfl, rfl, rfl, rfl⟩⟩
  · exact idles_of_run (f := opIbiTimeout ns) rfl (if_pos h)
  · exact completes_of_eq (f := opIbiTimeout ns) rfl (if_neg (by omega)) rfl

end Sys2Proof.Machine
end


section
/-! SUPPORT. Registers an operation may write, and the entry of recovery mode (R447). -/

namespace Sys2Proof.Machine

/-! ## Every register word but those of the registers D -/

/-- u has the register words of s, but for those of the registers D, whichever copy. -/
def regsIn (D : List Reg) (s u : State) : Prop :=
  ∀ (d : Word) (k : Nat), (∀ r ∈ D, k / 65536 ≠ r.off / 8) → tget d u.regs k = tget d s.regs k

theorem regKey_div (r : Reg) (i : Nat) : regKey r i / 65536 = r.off / 8 := by
  rw [regKey]; omega

theorem regsIn_refl (D : List Reg) (s : State) : regsIn D s s := fun _ _ _ => rfl

theorem regsIn_of_regs {D : List Reg} {s u : State} (h : u.regs = s.regs) : regsIn D s u := fun _ _ _ => by rw [h]

theorem regsIn_trans {D : List Reg} {s t u : State} (h : regsIn D s t) (h' : regsIn D t u) : regsIn D s u :=
  fun d k hk => (h' d k hk).trans (h d k hk)

theorem regsIn_setReg {D : List Reg} (s : State) (r : Reg) (i : Nat) (w : Word) (hr : r ∈ D) : regsIn D s (s.setReg r i w) :=
  fun d k hk => sameRegs_setReg (ks := [regKey r i]) r i w (sameRegs_refl _ s) (List.mem_singleton.2 rfl) d k
    (fun h => hk r hr (List.mem_singleton.1 h ▸ regKey_div r i))

theorem regsIn_putF {D : List Reg} (s : State) (f : Fld) (i v : Nat) (hr : f.reg ∈ D) : regsIn D s (s.putF f i v) :=
  regsIn_setReg s f.reg i _ hr

theorem regsIn_of_sameRegs {D : List Reg} {ks : List Nat} {s u : State} (h : sameRegs ks s u)
    (hk : ∀ k ∈ ks, ∃ r ∈ D, k / 65536 = r.off / 8) : regsIn D s u :=
  fun d k hd => h d k (fun hmem => let ⟨r, hr, he⟩ := hk k hmem; hd r hr he)

theorem reg_of_regsIn {D : List Reg} {s u : State} (h : regsIn D s u) {r : Reg} (hr : ∀ q ∈ D, r.off / 8 ≠ q.off / 8) (i : Nat) :
    u.reg r i = s.reg r i := h _ _ (fun q hq => by rw [regKey_div]; exact hr q hq)

theorem getF_of_regsIn {D : List Reg} {s u : State} (h : regsIn D s u) {f : Fld} (hf : ∀ q ∈ D, f.reg.off / 8 ≠ q.off / 8) (i : Nat) :
    u.getF f i = s.getF f i := by rw [State.getF, reg_of_regsIn h hf, State.getF]

/-! ## What stops the work of the part -/

/-- u is s but for the registers D, the tables of programs and cells, the ring, the tick, the start and what the event path holds. -/
def recoveryPath (D : List Reg) (s u : State) : Prop :=
  (∃ regs hostMem msix i3c stdBuf logPend out cells ctl ring tick start, u = { s with
    regs := regs, hostMem := hostMem, msix := msix, i3c := i3c, stdBuf := stdBuf, logPend := logPend, out := out, cells := cells
    ctl := ctl, ring := ring, tick := tick, start := start }) ∧ u.start = s.start ∧ regsIn D s u

section
variable {D : List Reg}

theorem recoveryPath_refl (s : State) : recoveryPath D s s := ⟨⟨_, _, _, _, _, _, _, _, _, _, _, _, rfl⟩, rfl, regsIn_refl D s⟩

theorem recoveryPath_trans (s t u : State) (h : recoveryPath D s t) (h' : recoveryPath D t u) : recoveryPath D s u := by
  obtain ⟨⟨_, _, _, _, _, _, _, _, _, _, _, _, rfl⟩, hs, hr⟩ := h
  obtain ⟨⟨_, _, _, _, _, _, _, _, _, _, _, _, rfl⟩, hs', hr'⟩ := h'
  exact ⟨⟨_, _, _, _, _, _, _, _, _, _, _, _, rfl⟩, hs'.trans hs, regsIn_trans hr hr'⟩

theorem recoveryPath_ite {s t u : State} {c : Prop} [Decidable c] (h : recoveryPath D s t) (h' : recoveryPath D s u) :
    recoveryPath D s (if c then t else u) := by
  split
  · exact h
  · exact h'

theorem recoveryPath_putF (s : State) (f : Fld) (i v : Nat) (hf : f.reg ∈ D) : recoveryPath D s (s.putF f i v) :=
  ⟨⟨_, _, _, _, _, _, _, _, _, _, _, _, rfl⟩, rfl, regsIn_putF s f i v hf⟩

theorem recoveryPath_raise (s : State) (code cls idx : Nat) (arg : Word) (payload : List Byte)
    (hq : R.hstEvqStat ∈ D) (hb : R.stdBootRet ∈ D) : recoveryPath D s (s.raise code cls idx arg payload) := by
  obtain ⟨⟨r, m, x, i, b, l, o, h⟩, hr⟩ := eventPath_raise (ks := [regKey R.hstEvqStat 0, regKey R.stdBootRet 0]) (s := s)
    code cls idx arg payload (by simp) (by simp)
  refine ⟨⟨r, m, x, i, b, l, o, _, _, _, _, _, h⟩, by rw [h], regsIn_of_sameRegs hr ?_⟩
  intro k hk
  rcases List.mem_cons.1 hk with rfl | hk
  · exact ⟨_, hq, regKey_div _ _⟩
  · exact ⟨_, hb, List.mem_singleton.1 hk ▸ regKey_div _ _⟩

theorem recoveryPath_modCell (s : State) (c : Nat) (f : Cell → Cell) : recoveryPath D s (s.modCell c f) :=
  ⟨⟨_, _, _, _, _, _, _, _, _, _, _, _, rfl⟩, rfl, regsIn_of_regs rfl⟩

theorem recoveryPath_invalidateCell (s : State) (c : Nat) : recoveryPath D s (s.invalidateCell c) := by
  rw [State.invalidateCell]
  split
  · exact recoveryPath_refl s
  · exact recoveryPath_ite (recoveryPath_refl s) ⟨⟨_, _, _, _, _, _, _, _, _, _, _, _, rfl⟩, rfl, regsIn_of_regs rfl⟩

end

/-- The registers that the entry of recovery writes before it shows the stage. -/
def stoppingRegs : List Reg := [R.lnkStat, R.lnkRing, R.hstEvqStat, R.stdBootRet, R.mxcPasses, R.mxcStat, R.celStat, R.thrStat, R.vccStat,
  R.d2dStat]

theorem recoveryPath_stopCell (s : State) (c at_ : Nat) : recoveryPath stoppingRegs s (s.stopCell c at_) := by
  have hdrop : recoveryPath stoppingRegs s (s.dropPass c) := recoveryPath_ite
    (recoveryPath_trans _ _ _ (recoveryPath_putF _ F.mxcPasses_discarded _ _ (by decide)) (recoveryPath_putF _ F.mxcStat_busy _ _ (by decide)))
    (recoveryPath_refl s)
  refine recoveryPath_trans _ _ _ hdrop (recoveryPath_trans _ _ _ (recoveryPath_putF _ F.celStat_busy _ _ (by decide))
    (recoveryPath_trans _ _ _ (recoveryPath_putF _ F.mxcStat_busy _ _ (by decide))
      (recoveryPath_trans _ _ _ (recoveryPath_putF _ F.thrStat_busy _ _ (by decide))
        (recoveryPath_trans _ _ _ (recoveryPath_modCell _ _ _) (recoveryPath_invalidateCell _ c)))))

theorem recoveryPath_stopStages (s : State) (at_ : Nat) : recoveryPath stoppingRegs s (s.stopStages at_) :=
  foldl_rel recoveryPath_refl recoveryPath_trans (fun s c => recoveryPath_stopCell s c at_) _ s

theorem recoveryPath_aloneKeeper (s : State) : recoveryPath stoppingRegs s s.aloneKeeper := by
  have hkeeper : recoveryPath stoppingRegs s ((s.putF F.lnkRing_is_keeper 0 1).putF F.lnkRing_keeper 0 s.own) :=
    recoveryPath_trans _ _ _ (recoveryPath_putF _ F.lnkRing_is_keeper _ _ (by decide)) (recoveryPath_putF _ F.lnkRing_keeper _ _ (by decide))
  exact recoveryPath_ite (recoveryPath_refl s) (recoveryPath_ite hkeeper
    (recoveryPath_trans _ _ _ hkeeper (recoveryPath_raise _ _ _ _ _ _ (by decide) (by decide))))

theorem recoveryPath_closePlanes (s : State) (ks : List Nat) : recoveryPath stoppingRegs s (s.closePlanes ks) := by
  have hports : ∀ l : List Nat, recoveryPath stoppingRegs s (l.foldl (fun s p =>
      (s.putF F.lnkStat_take p 0).putF F.lnkStat_state p (if s.planeReset p then lnkReset else lnkLoop)) s) := fun l =>
    foldl_rel recoveryPath_refl recoveryPath_trans (fun s p => recoveryPath_trans _ _ _
      (recoveryPath_putF s F.lnkStat_take p 0 (by decide)) (recoveryPath_putF _ F.lnkStat_state p _ (by decide))) l s
  exact recoveryPath_trans _ _ _ (hports _) (recoveryPath_trans _ _ _
    ⟨⟨_, _, _, _, _, _, _, _, _, _, _, _, rfl⟩, rfl, regsIn_of_regs rfl⟩ (recoveryPath_aloneKeeper _))

/-! ## The entry of recovery -/

/-- No tick runs and no window is open. -/
def State.stopTick (s : State) : State := { s with tick := { s.tick with running := false, windowOpen := false } }

/-- No channel serves. -/
def State.channelsDown (s : State) : State :=
  (allCells.filter (fun c => s.chanState c != 0)).foldl (fun s c => s.putF F.vccStat_state c 0) s

/-- No link is trained and no port is up. -/
def State.linksDown (s : State) : State :=
  (List.range 8).foldl (fun s l => ((s.putF F.d2dStat_state l 0).putF F.d2dStat_proto l 0).putF F.lnkStat_state l 0) s

/-- What recovery stops: the planes, the stages, the tick, the channels and the links. -/
def State.recoveryStops (s : State) : State :=
  ((s.closePlanes s.heldPlanes).stopStages s.now).stopTick.channelsDown.linksDown

/-- What recovery shows in STD_BOOT. -/
def State.recoveryShows (s : State) (code : Nat) : State :=
  (((s.putF F.stdBoot_stage 0 8).putF F.stdBoot_start 0 3).putF F.stdBoot_minimal 0 1).putF F.stdBoot_fail 0 code

/-- Steading boot has ended. -/
def State.booted (s : State) : State := { s with start := { s.start with bootDone := true } }

theorem goRecovery_eq (s : State) (code : Nat) : ∃ k arg,
    s.goRecovery code = (s.recoveryStops.recoveryShows code).booted.steadingUp.raise k 0 0 arg := by
  simp only [State.goRecovery, State.recoveryStops, State.linksDown, State.channelsDown, State.stopTick, State.recoveryShows, State.booted]
  split
  · exact ⟨_, _, rfl⟩
  · exact ⟨_, _, rfl⟩

theorem recoveryPath_stopTick (s : State) : recoveryPath stoppingRegs s s.stopTick :=
  ⟨⟨_, _, _, _, _, _, _, _, _, _, _, _, rfl⟩, rfl, regsIn_of_regs rfl⟩

theorem recoveryPath_channelsDown (s : State) : recoveryPath stoppingRegs s s.channelsDown :=
  foldl_rel recoveryPath_refl recoveryPath_trans (fun s c => recoveryPath_putF s F.vccStat_state c 0 (by decide)) _ s

theorem recoveryPath_linksDown (s : State) : recoveryPath stoppingRegs s s.linksDown :=
  foldl_rel recoveryPath_refl recoveryPath_trans (fun s l => recoveryPath_trans _ _ _ (recoveryPath_putF s F.d2dStat_state l 0 (by decide))
    (recoveryPath_trans _ _ _ (recoveryPath_putF _ F.d2dStat_proto l 0 (by decide)) (recoveryPath_putF _ F.lnkStat_state l 0 (by decide)))) _ s

theorem recoveryPath_recoveryStops (s : State) : recoveryPath stoppingRegs s s.recoveryStops :=
  recoveryPath_trans _ _ _ (recoveryPath_closePlanes s s.heldPlanes) (recoveryPath_trans _ _ _ (recoveryPath_stopStages _ s.now)
    (recoveryPath_trans _ _ _ (recoveryPath_stopTick _) (recoveryPath_trans _ _ _ (recoveryPath_channelsDown _) (recoveryPath_linksDown _))))

theorem recoveryStops_tick (s : State) : s.recoveryStops.tick.running = false := by
  have hlinks : ∀ u : State, u.linksDown.tick = u.tick := fun u => by
    rw [State.linksDown]
    refine foldl_keeps State.tick ?_ _ u
    exact fun _ _ => rfl
  have hchannels : ∀ u : State, u.channelsDown.tick = u.tick := fun u => by
    rw [State.channelsDown]
    refine foldl_keeps State.tick ?_ _ u
    exact fun _ _ => rfl
  rw [State.recoveryStops, hlinks, hchannels]
  rfl

theorem recoveryShows_fields (s : State) (code : Nat) :
    (s.recoveryShows code).getF F.stdBoot_stage = 8 ∧ (s.recoveryShows code).getF F.stdBoot_start = 3 ∧
    (s.recoveryShows code).getF F.stdBoot_minimal = 1 ∧ (s.recoveryShows code).getF F.stdBoot_fail = code % 2 ^ F.stdBoot_fail.width := by
  refine ⟨?_, ?_, ?_, getF_putF_same _ F.stdBoot_fail 0 code (by decide)⟩
  · rw [State.recoveryShows, getF_putF_apart _ F.stdBoot_fail F.stdBoot_stage _ _ rfl (by decide),
      getF_putF_apart _ F.stdBoot_minimal F.stdBoot_stage _ _ rfl (by decide),
      getF_putF_apart _ F.stdBoot_start F.stdBoot_stage _ _ rfl (by decide), getF_putF_same _ F.stdBoot_stage 0 8 (by decide)]
    rfl
  · rw [State.recoveryShows, getF_putF_apart _ F.stdBoot_fail F.stdBoot_start _ _ rfl (by decide),
      getF_putF_apart _ F.stdBoot_minimal F.stdBoot_start _ _ rfl (by decide), getF_putF_same _ F.stdBoot_start 0 3 (by decide)]
    rfl
  · rw [State.recoveryShows, getF_putF_apart _ F.stdBoot_fail F.stdBoot_minimal _ _ rfl (by decide),
      getF_putF_same _ F.stdBoot_minimal 0 1 (by decide)]
    rfl

/-! ## Steading that has come up -/

theorem keeps_ite {β : Type} (p : State → β) {t u : State} {x : β} {c : Prop} [Decidable c] (h : p t = x) (h' : p u = x) :
    p (if c then t else u) = x := by
  split
  · exact h
  · exact h'

theorem signal_stdBuf (s : State) (fn vec : Nat) : (s.signal fn vec).stdBuf = s.stdBuf := keeps_ite State.stdBuf rfl rfl

theorem steadingTakes_stdBuf (s : State) (e : Event) : (s.steadingTakes e).stdBuf = s.stdBuf := by
  have halert : ∀ (s : State) (n : Nat), ((chunksOf 32 2 e.bytes).foldl (fun s r => s.alert n r) s).stdBuf = s.stdBuf := fun s n => by
    refine foldl_keeps State.stdBuf ?_ _ s
    exact fun _ _ => rfl
  have htold : ∀ (c d : Prop) [Decidable c] [Decidable d] (n : Nat), (if c then (chunksOf 32 2 e.bytes).foldl (fun s r => s.alert n r)
      (if d then s.signal 0 0 else s) else (if d then s.signal 0 0 else s)).stdBuf = s.stdBuf := fun c d _ _ n =>
    have hd := keeps_ite State.stdBuf (c := d) (signal_stdBuf s 0 0) rfl
    keeps_ite State.stdBuf ((halert _ n).trans hd) hd
  exact keeps_ite State.stdBuf (keeps_ite State.stdBuf (htold ..) (htold ..)) (htold ..)

theorem toHostQueue_stdBuf (s : State) (e : Event) : (s.toHostQueue e).stdBuf = s.stdBuf := by
  refine keeps_ite State.stdBuf rfl (keeps_ite State.stdBuf rfl ?_)
  refine foldl_keeps State.stdBuf ?_ _ s
  exact fun _ _ => rfl

/-- While Steading runs no event waits for it. -/
theorem raise_stdBuf {s : State} (hup : s.start.steadingDown = false) (code cls idx : Nat) (arg : Word) (payload : List Byte) :
    (s.raise code cls idx arg payload).stdBuf = s.stdBuf := by
  have hdown : ∀ e : Event, (s.toHostQueue e).start.steadingDown = false := fun e => by
    obtain ⟨⟨r, m, x, i, b, l, o, h⟩, -⟩ := eventPath_toHostQueue (ks := [regKey R.hstEvqStat 0]) (s := s) e (by simp)
    rw [h]
    exact hup
  rw [State.raise, hdown, if_neg (by decide), steadingTakes_stdBuf, toHostQueue_stdBuf]

/-- Steading runs, and the events that waited for it are taken. -/
theorem steadingUp_spec (s : State) :
    eventPath [regKey R.rstStd 0, regKey R.stdBootRet 0] { s with start := { s.start with steadingDown := false } } s.steadingUp ∧
    s.steadingUp.stdBuf = [] ∧ s.steadingUp.onF F.rstStd_restart = false := by
  have hv := eventPath_trans _ _ _ (eventPath_of_regs (ks := [regKey R.rstStd 0, regKey R.stdBootRet 0])
    (s := { s with start := { s.start with steadingDown := false } })
    (u := { s with start := { s.start with steadingDown := false }, stdBuf := [] }) ⟨_, _, _, _, _, _, rfl⟩)
    (eventPath_putF F.rstStd_restart 0 0 (List.mem_cons_self))
  have hshown : (({ s with start := { s.start with steadingDown := false }, stdBuf := [] } : State).putF F.rstStd_restart 0 0).getF F.rstStd_restart = 0 :=
    getF_putF_same _ F.rstStd_restart 0 0 (by decide)
  have hbuf : (({ s with start := { s.start with steadingDown := false }, stdBuf := [] } : State).putF F.rstStd_restart 0 0).stdBuf = [] := rfl
  rw [State.steadingUp]
  generalize ({ s with start := { s.start with steadingDown := false }, stdBuf := [] } : State).putF F.rstStd_restart 0 0 = v at hv hshown hbuf ⊢
  have hes := foldl_rel (f := State.steadingTakes) (r := eventPath [regKey R.stdBootRet 0]) (eventPath_refl _) eventPath_trans
    (fun s e => eventPath_steadingTakes e (by simp)) s.stdBuf v
  refine ⟨eventPath_trans _ _ _ hv ⟨hes.1, ?_⟩, ?_, ?_⟩
  · exact fun d k hk => hes.2 d k (fun h => hk (List.mem_cons_of_mem _ h))
  · exact (foldl_keeps State.stdBuf steadingTakes_stdBuf _ v).trans hbuf
  · rw [onF_of_getF (getF_of_sameRegs hes.2 (by decide)), State.onF, hshown]
    rfl

/-- The registers that the entry of recovery writes. -/
def recoveryRegs : List Reg := R.stdBoot :: R.rstStd :: stoppingRegs

/-- The entry of recovery: the work of the part stops, STD_BOOT shows it, and Steading runs. -/
theorem goRecovery_spec (s : State) (code : Nat) :
    (∃ regs hostMem msix i3c logPend out cells ctl ring tick, s.goRecovery code = { s with
      regs := regs, hostMem := hostMem, msix := msix, i3c := i3c, logPend := logPend, out := out, cells := cells
      ctl := ctl, ring := ring, tick := tick, stdBuf := [], start := { s.start with bootDone := true, steadingDown := false } }) ∧
    (s.goRecovery code).tick.running = false ∧ regsIn recoveryRegs s (s.goRecovery code) ∧
    (s.goRecovery code).onF F.rstStd_restart = false ∧
    (s.goRecovery code).getF F.stdBoot_stage = 8 ∧ (s.goRecovery code).getF F.stdBoot_start = 3 ∧
    (s.goRecovery code).getF F.stdBoot_minimal = 1 ∧ (s.goRecovery code).getF F.stdBoot_fail = code % 2 ^ F.stdBoot_fail.width := by
  obtain ⟨k, arg, heq⟩ := goRecovery_eq s code
  obtain ⟨⟨_, _, _, _, _, _, _, cells, ctl, ring, tick, start, hstops⟩, hstart, hregs⟩ := recoveryPath_recoveryStops s
  have htick := recoveryStops_tick s
  obtain ⟨hstage, hst, hmin, hfail⟩ := recoveryShows_fields s.recoveryStops code
  have hkey : regKey R.stdBoot 0 ∈ [regKey R.stdBoot 0] := List.mem_singleton.2 rfl
  have hshows : putsRegs [regKey R.stdBoot 0] s.recoveryStops (s.recoveryStops.recoveryShows code) :=
    ((((putsRegs_refl _ _).putF F.stdBoot_stage 0 8 hkey).putF F.stdBoot_start 0 3 hkey).putF F.stdBoot_minimal 0 1 hkey).putF
      F.stdBoot_fail 0 code hkey
  rw [heq]
  generalize s.recoveryStops.recoveryShows code = b at hshows hstage hst hmin hfail ⊢
  generalize s.recoveryStops = a at hshows hstops hstart hregs htick
  obtain ⟨hup, hbuf, hrestart⟩ := steadingUp_spec b.booted
  generalize hd : b.booted.steadingUp = d at hup hbuf hrestart ⊢
  have hdown : d.start.steadingDown = false := by
    obtain ⟨⟨_, _, _, _, _, _, _, h⟩, -⟩ := hup
    rw [h]
  have hraise := eventPath_raise (ks := [regKey R.hstEvqStat 0, regKey R.stdBootRet 0]) (s := d) k 0 0 arg [] (by simp) (by simp)
  have hbuf' := raise_stdBuf hdown k 0 0 arg []
  have hshown : ∀ f : Fld, f.reg = R.stdBoot → (d.raise k 0 0 arg).getF f 0 = b.getF f 0 := fun f hf =>
    (getF_raise d k 0 0 arg [] f 0 (by rw [hf]; decide) (by rw [hf]; decide)).trans (getF_of_sameRegs hup.2 (by rw [hf]; decide))
  have hrestart' : (d.raise k 0 0 arg).onF F.rstStd_restart = false := by
    rw [onF_of_getF (getF_raise d k 0 0 arg [] F.rstStd_restart 0 (by decide) (by decide)), hrestart]
  have hall : regsIn recoveryRegs s (d.raise k 0 0 arg) := by
    have h1 : regsIn recoveryRegs s a := fun d k h => hregs d k (fun r hr => h r (List.mem_cons_of_mem _ (List.mem_cons_of_mem _ hr)))
    have h2 : regsIn recoveryRegs a b := regsIn_of_sameRegs hshows.2 (by
      rintro k hk
      exact ⟨R.stdBoot, by decide, List.mem_singleton.1 hk ▸ regKey_div _ _⟩)
    have h3 : regsIn recoveryRegs b d := regsIn_of_sameRegs hup.2 (by
      rintro k hk
      rcases List.mem_cons.1 hk with rfl | hk
      · exact ⟨R.rstStd, by decide, regKey_div _ _⟩
      · exact ⟨R.stdBootRet, by decide, List.mem_singleton.1 hk ▸ regKey_div _ _⟩)
    have h4 : regsIn recoveryRegs d (d.raise k 0 0 arg) := regsIn_of_sameRegs hraise.2 (by
      rintro k hk
      rcases List.mem_cons.1 hk with rfl | hk
      · exact ⟨R.hstEvqStat, by decide, regKey_div _ _⟩
      · exact ⟨R.stdBootRet, by decide, List.mem_singleton.1 hk ▸ regKey_div _ _⟩)
    exact regsIn_trans h1 (regsIn_trans h2 (regsIn_trans h3 h4))
  refine ⟨?_, ?_, hall, hrestart', (hshown _ rfl).trans hstage, (hshown _ rfl).trans hst, (hshown _ rfl).trans hmin, (hshown _ rfl).trans hfail⟩
  · obtain ⟨⟨r, m, x, i, bf, l, o, hr⟩, -⟩ := hraise
    obtain ⟨⟨r', m', x', i', bf', l', o', hu⟩, -⟩ := hup
    have hbs := hshows.1
    generalize d.raise k 0 0 arg = e at hr hbuf' ⊢
    generalize b.regs = rb at hbs
    clear hregs hshows hstage hst hmin hfail hdown hshown hrestart' hall hrestart hd htick
    subst hr hu hbs hstops
    have hnil : bf = [] := hbuf'.trans hbuf
    have hsame : start = s.start := hstart
    subst hnil hsame
    exact ⟨r, m, x, i, l, o, cells, ctl, ring, tick, rfl⟩
  · obtain ⟨⟨_, _, _, _, _, _, _, hr⟩, -⟩ := hraise
    obtain ⟨⟨_, _, _, _, _, _, _, hu⟩, -⟩ := hup
    rw [hr, hu, State.booted, hshows.1]
    exact htick

/-! ## Ramps (R401) -/

/-- A ramp's divider and source as they stand in CLK_STAT. -/
def State.showRamp (s : State) (d : Nat) (r : Ramp) : State :=
  let s := (s.putF F.clkStat_div d r.div).putF F.clkStat_src d r.src
  if r.src = 0 then s.putF F.clkStat_locked d 1 else s

/-- A ramp after its next step. -/
def State.rampNext (s : State) (d : Nat) : Ramp := (tget {} s.ramps d).step

theorem opRampStep_of_ramping {s : State} {d : Nat} (h : s.onF F.clkStat_ramping d = true) :
    opRampStep d s = if (s.rampNext d).div = (s.rampNext d).goalDiv ∧ (s.rampNext d).src = (s.rampNext d).goalSrc then
      { (s.showRamp d (s.rampNext d)).putF F.clkStat_ramping d 0 with ramps := tput {} s.ramps d {} }
    else { s.showRamp d (s.rampNext d) with ramps := tput {} s.ramps d (s.rampNext d) } := by
  rw [opRampStep, h, if_neg (by decide), State.showRamp]
  by_cases hsrc : (s.rampNext d).src = 0
  · have hsrc' : (tget {} s.ramps d).step.src = 0 := hsrc
    simp only [hsrc, hsrc', if_true]
    rfl
  · have hsrc' : ¬ (tget {} s.ramps d).step.src = 0 := hsrc
    simp only [hsrc, hsrc', if_false]
    rfl

theorem putsRegs_showRamp (s : State) (d : Nat) (r : Ramp) : putsRegs [regKey R.clkStat d] s (s.showRamp d r) := by
  have hkey : regKey R.clkStat d ∈ [regKey R.clkStat d] := List.mem_singleton.2 rfl
  have h := ((putsRegs_refl [regKey R.clkStat d] s).putF F.clkStat_div d r.div hkey).putF F.clkStat_src d r.src hkey
  exact (h.putF F.clkStat_locked d 1 hkey).ite h

theorem showRamp_fields (s : State) (d : Nat) (r : Ramp) :
    (s.showRamp d r).getF F.clkStat_div d = r.div % 256 ∧ (s.showRamp d r).getF F.clkStat_src d = r.src % 4 ∧
    (s.showRamp d r).getF F.clkStat_ramping d = s.getF F.clkStat_ramping d := by
  rw [State.showRamp]
  split
  · simp (disch := decide) only [getF_putF_apart, getF_putF_same]
    exact ⟨rfl, rfl, trivial⟩
  · simp (disch := decide) only [getF_putF_apart, getF_putF_same]
    exact ⟨rfl, rfl, trivial⟩

/-- One step of a ramp. -/
theorem clockRampStep_spec (s : State) (d : BitVec 6) (hd : d.toNat < 60) :
    (s.onF F.clkStat_ramping d.toNat = true → completes (.clockRampStep d) s (fun t =>
      t.getF F.clkStat_div d.toNat = (tget {} s.ramps d.toNat).step.div % 256 ∧
      t.getF F.clkStat_src d.toNat = (tget {} s.ramps d.toNat).step.src % 4 ∧
      t.onF F.clkStat_ramping d.toNat = !decide ((tget {} s.ramps d.toNat).step.div = (tget {} s.ramps d.toNat).step.goalDiv ∧
        (tget {} s.ramps d.toNat).step.src = (tget {} s.ramps d.toNat).step.goalSrc) ∧
      sameRegs [regKey R.clkStat d.toNat] s t ∧ t = { s with regs := t.regs, ramps := t.ramps, out := [] })) ∧
    (s.onF F.clkStat_ramping d.toNat = false → idles (.clockRampStep d) s) := by
  have hexec : exec (.clockRampStep d) s = run (opRampStep d.toNat) s := by
    show runIf (decide (d.toNat < 60)) (opRampStep d.toNat) s = _
    rw [decide_eq_true hd, runIf_true]
  constructor
  · intro hr
    have hb : s.begin.onF F.clkStat_ramping d.toNat = true := hr
    refine completes_of_eq hexec (opRampStep_of_ramping hb) ?_
    obtain ⟨hframe, hregs⟩ := putsRegs_showRamp s.begin d.toNat (s.rampNext d.toNat)
    obtain ⟨hdiv, hsrc, hramp⟩ := showRamp_fields s.begin d.toNat (s.rampNext d.toNat)
    have hstep : s.begin.rampNext d.toNat = s.rampNext d.toNat := rfl
    have hstep' : (tget {} s.ramps d.toNat).step = s.rampNext d.toNat := rfl
    rw [hstep, hstep']
    generalize s.rampNext d.toNat = r at hframe hregs hdiv hsrc hramp ⊢
    generalize s.begin.showRamp d.toNat r = v at hframe hregs hdiv hsrc hramp ⊢
    by_cases hend : r.div = r.goalDiv ∧ r.src = r.goalSrc
    · rw [if_pos hend, decide_eq_true hend]
      refine ⟨(getF_putF_apart v F.clkStat_ramping F.clkStat_div _ _ rfl (by decide)).trans hdiv,
        (getF_putF_apart v F.clkStat_ramping F.clkStat_src _ _ rfl (by decide)).trans hsrc, ?_,
        sameRegs_putF F.clkStat_ramping _ _ hregs (List.mem_singleton.2 rfl), ?_⟩
      · exact onF_of_bit (b := false) (getF_putF_same v F.clkStat_ramping _ 0 (by decide))
      · rw [hframe]
        rfl
    · rw [if_neg hend, decide_eq_false hend]
      refine ⟨hdiv, hsrc, (onF_of_getF hramp).trans hr, hregs, ?_⟩
      rw [hframe]
      rfl
  · intro hr
    have hb : s.begin.onF F.clkStat_ramping d.toNat = false := hr
    refine idles_of_run hexec ?_
    rw [opRampStep, hb]
    rfl

/-! ## The monitor and the counter (R403, R404) -/

theorem fieldGet_lt (w : Word) (lo n : Nat) : fieldGet w lo n < 2 ^ n := (w.extractLsb' lo n).isLt

/-- A field holds what a field of the same width gives. -/
theorem fieldGet_mod (w : Word) (lo n : Nat) : fieldGet w lo n % 2 ^ n = fieldGet w lo n := Nat.mod_eq_of_lt (fieldGet_lt w lo n)

section
variable (by_ : Requester) (v : Word) (s : State)

theorem exec_clockMonitorSelect : exec (.clockMonitorSelect by_ v) s =
    run (fun u => if u.writes by_ R.clkMon.off then opClkMon v u else u) s := rfl

theorem exec_frequencyMeasurement : exec (.frequencyMeasurement by_ v) s =
    run (fun u => if u.writes by_ R.clkFmc.off then opFmc v u else u) s := rfl

theorem opClkMon_fields : (opClkMon v s).getF F.clkMon_sel = fieldGet v 0 6 ∧ (opClkMon v s).getF F.clkMon_div = fieldGet v 6 5 := by
  simp (disch := decide) only [opClkMon, getF_putF_apart, getF_putF_same]
  exact ⟨fieldGet_mod v 0 6, fieldGet_mod v 6 5⟩

theorem putsRegs_opClkMon : putsRegs [regKey R.clkMon 0] s (opClkMon v s) :=
  ((putsRegs_refl _ s).putF F.clkMon_sel 0 _ (List.mem_singleton.2 rfl)).putF F.clkMon_div 0 _ (List.mem_singleton.2 rfl)

/-- What the monitor measures stands in CLK_STAT and CLK_XTAL. -/
theorem monKhz_of_sameRegs {s t : State} (h : sameRegs [regKey R.clkMon 0] s t) (sel : Nat) : t.monKhz sel = s.monKhz sel := by
  have hget : ∀ (f : Fld) (i : Nat), f.reg.off / 8 ≠ R.clkMon.off / 8 → t.getF f i = s.getF f i := fun f i hf =>
    getF_of_sameRegs h (fun hk => regKey_ne_of_off f.reg R.clkMon i 0 hf (List.mem_singleton.1 hk))
  have h1 := onF_of_getF (hget F.clkStat_running sel (by decide))
  have h2 := hget F.clkStat_src sel (by decide)
  have h3 := hget F.clkStat_div sel (by decide)
  have h4 := onF_of_getF (hget F.clkXtal_mhz50 0 (by decide))
  simp only [State.monKhz, h1, h2, h3, h4]

theorem shows_clkMon : s.shows R.clkMon 0 = fieldPut (s.reg R.clkMon 0) F.clkMon_over.lo 1 (bit s.monOver) := rfl

theorem clockMonitorSelect_spec :
    (s.writes by_ R.clkMon.off = false → idles (.clockMonitorSelect by_ v) s) ∧
    (s.writes by_ R.clkMon.off = true → completes (.clockMonitorSelect by_ v) s (fun t =>
      t.getF F.clkMon_sel = fieldGet v 0 6 ∧ t.getF F.clkMon_div = fieldGet v 6 5 ∧
      t.monOver = (decide (1 ≤ fieldGet v 6 5) && decide (fieldGet v 6 5 ≤ 16) &&
        decide (200000 * 2 ^ fieldGet v 6 5 < s.monKhz (fieldGet v 0 6))) ∧
      fieldGet (t.shows R.clkMon 0) F.clkMon_over.lo 1 = bit t.monOver ∧
      onlyRegs [regKey R.clkMon 0] s t)) := by
  constructor
  · intro hw
    have hb : s.begin.writes by_ R.clkMon.off = false := hw
    exact idles_of_run (exec_clockMonitorSelect by_ v s) (by rw [hb]; rfl)
  · intro hw
    have hb : s.begin.writes by_ R.clkMon.off = true := hw
    obtain ⟨hsel, hdiv⟩ := opClkMon_fields v s.begin
    have hputs := putsRegs_opClkMon v s.begin
    have hkhz := monKhz_of_sameRegs hputs.2 (fieldGet v 0 6)
    refine completes_of_eq (exec_clockMonitorSelect by_ v s) (u := opClkMon v s.begin) (by rw [hb]; rfl) ?_
    have honly := onlyRegs_of_putsRegs hputs
    generalize opClkMon v s.begin = u at hsel hdiv hkhz honly ⊢
    have hover : u.monOver = (decide (1 ≤ fieldGet v 6 5) && decide (fieldGet v 6 5 ≤ 16) &&
        decide (200000 * 2 ^ fieldGet v 6 5 < s.monKhz (fieldGet v 0 6))) := by
      rw [State.monOver, hsel, hdiv, hkhz]
      rfl
    refine ⟨hsel, hdiv, hover, ?_, honly⟩
    rw [shows_clkMon, fieldGet_fieldPut _ _ _ _ (by decide)]
    generalize State.monOver _ = b
    cases b <;> rfl

/-- The settings of the counter. -/
def State.setCounter (s : State) (v : Word) : State :=
  ((s.putF F.clkFmc_target 0 (fieldGet v 0 6)).putF F.clkFmc_ref 0 (fieldGet v 6 1)).putF F.clkFmc_gate 0 (fieldGet v 7 24)

theorem setCounter_fields : (s.setCounter v).getF F.clkFmc_target = fieldGet v 0 6 ∧ (s.setCounter v).getF F.clkFmc_ref = fieldGet v 6 1 ∧
    (s.setCounter v).getF F.clkFmc_gate = fieldGet v 7 24 ∧ (s.setCounter v).getF F.clkFmc_go = s.getF F.clkFmc_go ∧
    (s.setCounter v).getF F.clkFmc_owner = s.getF F.clkFmc_owner := by
  simp (disch := decide) only [State.setCounter, getF_putF_apart, getF_putF_same]
  exact ⟨fieldGet_mod v 0 6, fieldGet_mod v 6 1, fieldGet_mod v 7 24, trivial, trivial⟩

theorem putsRegs_setCounter : putsRegs [regKey R.clkFmc 0] s (s.setCounter v) :=
  (((putsRegs_refl _ s).putF F.clkFmc_target 0 _ (List.mem_singleton.2 rfl)).putF F.clkFmc_ref 0 _ (List.mem_singleton.2 rfl)).putF
    F.clkFmc_gate 0 _ (List.mem_singleton.2 rfl)

theorem opFmc_eq : opFmc v s = if fieldGet v 31 1 = 0 ∨ s.onF F.clkFmc_go = true ∨ s.onF F.clkFmc_owner = true then s.setCounter v
    else if fieldGet v 7 24 = 0 then ((s.setCounter v).putF F.clkFmcRes_count 0 0).putF F.clkFmcRes_done 0 1
    else ((s.setCounter v).putF F.clkFmc_go 0 1).putF F.clkFmcRes_done 0 0 := by
  obtain ⟨-, -, -, -, howner⟩ := setCounter_fields v s
  rw [← onF_of_getF howner]
  rfl

theorem frequencyMeasurement_spec (hw : s.writes by_ R.clkFmc.off = true) : completes (.frequencyMeasurement by_ v) s (fun t =>
    t.getF F.clkFmc_target = fieldGet v 0 6 ∧ t.getF F.clkFmc_ref = fieldGet v 6 1 ∧ t.getF F.clkFmc_gate = fieldGet v 7 24 ∧
    (fieldGet v 31 1 = 0 ∨ s.onF F.clkFmc_go = true ∨ s.onF F.clkFmc_owner = true →
      t.onF F.clkFmc_go = s.onF F.clkFmc_go ∧ onlyRegs [regKey R.clkFmc 0] s t) ∧
    (fieldGet v 31 1 = 1 → s.onF F.clkFmc_go = false → s.onF F.clkFmc_owner = false →
      (fieldGet v 7 24 = 0 → t.onF F.clkFmc_go = false ∧ t.getF F.clkFmcRes_count = 0 ∧ t.onF F.clkFmcRes_done = true) ∧
      (fieldGet v 7 24 ≠ 0 → t.onF F.clkFmc_go = true ∧ t.onF F.clkFmcRes_done = false)) ∧
    onlyRegs [regKey R.clkFmc 0, regKey R.clkFmcRes 0] s t) := by
  have hb : s.begin.writes by_ R.clkFmc.off = true := hw
  refine completes_of_eq (exec_frequencyMeasurement by_ v s) (u := opFmc v s.begin) (by rw [hb]; rfl) ?_
  obtain ⟨htarget, href, hgate, hgo, -⟩ := setCounter_fields v s.begin
  have hputs := putsRegs_setCounter v s.begin
  have hputs' : putsRegs [regKey R.clkFmc 0, regKey R.clkFmcRes 0] s.begin (s.begin.setCounter v) := hputs.mono (by simp)
  rw [opFmc_eq]
  generalize s.begin.setCounter v = u at htarget href hgate hgo hputs hputs' ⊢
  split
  next hnot =>
    have hnot' : fieldGet v 31 1 = 0 ∨ s.onF F.clkFmc_go = true ∨ s.onF F.clkFmc_owner = true := hnot
    refine ⟨htarget, href, hgate, fun _ => ⟨onF_of_getF hgo, onlyRegs_of_putsRegs hputs⟩, fun h1 h2 h3 => ?_, onlyRegs_of_putsRegs hputs'⟩
    rw [h1, h2, h3] at hnot'
    exact absurd hnot' (by decide)
  next hgoes =>
    have hgoes' : ¬ (fieldGet v 31 1 = 0 ∨ s.onF F.clkFmc_go = true ∨ s.onF F.clkFmc_owner = true) := hgoes
    have hoff : s.onF F.clkFmc_go = false := by
      cases h : s.onF F.clkFmc_go
      · rfl
      · exact absurd (Or.inr (Or.inl h)) hgoes'
    split
    next hzero =>
      have hres : regKey R.clkFmcRes 0 ∈ [regKey R.clkFmc 0, regKey R.clkFmcRes 0] := by simp
      refine ⟨?_, ?_, ?_, fun h => absurd h hgoes', fun _ _ _ => ⟨fun _ => ⟨?_, ?_, ?_⟩, fun h => absurd hzero h⟩,
        onlyRegs_of_putsRegs ((hputs'.putF F.clkFmcRes_count 0 0 hres).putF F.clkFmcRes_done 0 1 hres)⟩
      · exact ((getF_putF_off _ F.clkFmcRes_done F.clkFmc_target _ _ _ (by decide)).trans
          (getF_putF_off _ F.clkFmcRes_count F.clkFmc_target _ _ _ (by decide))).trans htarget
      · exact ((getF_putF_off _ F.clkFmcRes_done F.clkFmc_ref _ _ _ (by decide)).trans (getF_putF_off _ F.clkFmcRes_count F.clkFmc_ref _ _ _ (by decide))).trans href
      · exact ((getF_putF_off _ F.clkFmcRes_done F.clkFmc_gate _ _ _ (by decide)).trans (getF_putF_off _ F.clkFmcRes_count F.clkFmc_gate _ _ _ (by decide))).trans hgate
      · refine (onF_of_getF ?_).trans hoff
        exact ((getF_putF_off _ F.clkFmcRes_done F.clkFmc_go _ _ _ (by decide)).trans (getF_putF_off _ F.clkFmcRes_count F.clkFmc_go _ _ _ (by decide))).trans hgo
      · exact (getF_putF_apart _ F.clkFmcRes_done F.clkFmcRes_count _ _ rfl (by decide)).trans (getF_putF_same u F.clkFmcRes_count 0 0 (by decide))
      · exact onF_of_bit (b := true) (getF_putF_same _ F.clkFmcRes_done 0 1 (by decide))
    next hpos =>
      refine ⟨?_, ?_, ?_, fun h => absurd h hgoes', fun _ _ _ => ⟨fun h => absurd h hpos, fun _ => ⟨?_, ?_⟩⟩,
        onlyRegs_of_putsRegs ((hputs'.putF F.clkFmc_go 0 1 (by simp [F.clkFmc_go])).putF F.clkFmcRes_done 0 0 (by simp [F.clkFmcRes_done]))⟩
      · exact ((getF_putF_off _ F.clkFmcRes_done F.clkFmc_target _ _ _ (by decide)).trans
          (getF_putF_apart _ F.clkFmc_go F.clkFmc_target _ _ rfl (by decide))).trans htarget
      · exact ((getF_putF_off _ F.clkFmcRes_done F.clkFmc_ref _ _ _ (by decide)).trans (getF_putF_apart _ F.clkFmc_go F.clkFmc_ref _ _ rfl (by decide))).trans href
      · exact ((getF_putF_off _ F.clkFmcRes_done F.clkFmc_gate _ _ _ (by decide)).trans (getF_putF_apart _ F.clkFmc_go F.clkFmc_gate _ _ rfl (by decide))).trans hgate
      · exact onF_of_bit (b := true) ((getF_putF_off _ F.clkFmcRes_done F.clkFmc_go _ _ _ (by decide)).trans (getF_putF_same u F.clkFmc_go 0 1 (by decide)))
      · exact onF_of_bit (b := false) (getF_putF_same _ F.clkFmcRes_done 0 0 (by decide))

end

/-- The end of a count. -/
theorem frequencyMeasurementDone_spec (n : BitVec 32) (s : State) :
    (s.onF F.clkFmc_go = true → completes (.frequencyMeasurementDone n) s (fun t =>
      t.onF F.clkFmc_go = false ∧ t.getF F.clkFmcRes_count = n.toNat ∧ t.onF F.clkFmcRes_done = true ∧
      onlyRegs [regKey R.clkFmc 0, regKey R.clkFmcRes 0] s t)) ∧
    (s.onF F.clkFmc_go = false → idles (.frequencyMeasurementDone n) s) := by
  constructor
  · intro hg
    have hb : s.begin.onF F.clkFmc_go = true := hg
    refine completes_of_eq (f := opFmcDone n.toNat) rfl (if_pos hb) ⟨?_, ?_, ?_, ?_⟩
    · exact onF_of_bit (b := false) (((getF_putF_off _ F.clkFmcRes_done F.clkFmc_go _ _ _ (by decide)).trans
        (getF_putF_off _ F.clkFmcRes_count F.clkFmc_go _ _ _ (by decide))).trans (getF_putF_same s.begin F.clkFmc_go 0 0 (by decide)))
    · refine (getF_putF_apart _ F.clkFmcRes_done F.clkFmcRes_count _ _ rfl (by decide)).trans ?_
      exact (getF_putF_same _ F.clkFmcRes_count 0 n.toNat (by decide)).trans (Nat.mod_eq_of_lt n.isLt)
    · exact onF_of_bit (b := true) (getF_putF_same _ F.clkFmcRes_done 0 1 (by decide))
    · exact onlyRegs_of_putsRegs ((((putsRegs_refl _ s.begin).putF F.clkFmc_go 0 0 (by simp [F.clkFmc_go])).putF F.clkFmcRes_count 0 n.toNat
        (by simp [F.clkFmcRes_count])).putF F.clkFmcRes_done 0 1 (by simp [F.clkFmcRes_done]))
  · intro hg
    have hb : s.begin.onF F.clkFmc_go = false := hg
    exact idles_of_run (f := opFmcDone n.toNat) rfl (by rw [opFmcDone, hb]; rfl)

/-! ## The crystal (R396 to R398) -/

/-- The expected counts that a gate's count is held against. -/
def State.crystalRates (s : State) : List Nat :=
  if s.onF F.rstOpt_invalid then [25000, 50000] else if s.onF F.clkXtal_mhz50 then [50000] else [25000]

/-- The tolerance of the crystal's counts in percent. -/
def State.crystalPct (s : State) : Nat := if s.onF F.rstOpt_untrimmed then 9 else 2

/-- A count of the crystal that is kept. -/
def State.countCrystal (s : State) (n : Nat) : State :=
  { (s.bump F.clkXtal_meas 0).putF F.clkXtal_count 0 n with
    start := { s.start with xtal := (s.start.xtal ++ [n]).drop (s.start.xtal.length - 3) } }

/-- A crystal that has been judged stable at an expected count. -/
def State.crystalStable (s : State) (e : Nat) : State :=
  (((s.putF F.clkXtal_stable 0 1).putF F.clkXtal_mhz50 0 (bit (e == 50000))).putF F.clkXtal_auto 0 (s.getF F.rstOpt_invalid)).putF
    F.clkFmc_owner 0 0

section
variable (n now : Nat) (s : State)

theorem opCrystal_of_idle (h : s.start.startDelayDone = false ∨ s.start.loading = true ∨ s.onF F.clkXtal_stable = true ∨ s.onF F.clkXtal_fail = true ∨
    100 ≤ s.getF F.clkXtal_meas) : opCrystal n now s = s.at_ now := by
  have hguard : (!(s.at_ now).start.startDelayDone || (s.at_ now).start.loading || (s.at_ now).onF F.clkXtal_stable ||
      (s.at_ now).onF F.clkXtal_fail || decide (100 ≤ (s.at_ now).getF F.clkXtal_meas)) = true := by
    show (!s.start.startDelayDone || s.start.loading || s.onF F.clkXtal_stable || s.onF F.clkXtal_fail ||
      decide (100 ≤ s.getF F.clkXtal_meas)) = true
    rcases h with h | h | h | h | h <;> simp [h]
  exact if_pos hguard

theorem opCrystal_of_counting (h1 : s.start.startDelayDone = true) (h2 : s.start.loading = false) (h3 : s.onF F.clkXtal_stable = false)
    (h4 : s.onF F.clkXtal_fail = false) (h5 : s.getF F.clkXtal_meas < 100) :
    opCrystal n now s = match (s.at_ now).crystalRates.find? (fun e => judges e s.crystalPct ((s.start.xtal ++ [n]).drop (s.start.xtal.length - 3))) with
      | none => (s.at_ now).countCrystal n
      | some e => (((s.at_ now).countCrystal n).crystalStable e).configure now := by
  have hguard : ¬ (!(s.at_ now).start.startDelayDone || (s.at_ now).start.loading || (s.at_ now).onF F.clkXtal_stable ||
      (s.at_ now).onF F.clkXtal_fail || decide (100 ≤ (s.at_ now).getF F.clkXtal_meas)) = true := by
    show ¬ (!s.start.startDelayDone || s.start.loading || s.onF F.clkXtal_stable || s.onF F.clkXtal_fail ||
      decide (100 ≤ s.getF F.clkXtal_meas)) = true
    simp [h1, h2, h3, h4, h5]
  have hinvalid : ((s.at_ now).countCrystal n).onF F.rstOpt_invalid = (s.at_ now).onF F.rstOpt_invalid := onF_of_getF
    ((getF_putF_off _ F.clkXtal_count F.rstOpt_invalid _ _ _ (by decide)).trans (getF_putF_off _ F.clkXtal_meas F.rstOpt_invalid _ _ _ (by decide)))
  have huntrimmed : ((s.at_ now).countCrystal n).onF F.rstOpt_untrimmed = s.onF F.rstOpt_untrimmed := onF_of_getF
    ((getF_putF_off _ F.clkXtal_count F.rstOpt_untrimmed _ _ _ (by decide)).trans (getF_putF_off _ F.clkXtal_meas F.rstOpt_untrimmed _ _ _ (by decide)))
  have hmhz : ((s.at_ now).countCrystal n).onF F.clkXtal_mhz50 = (s.at_ now).onF F.clkXtal_mhz50 := onF_of_getF
    ((getF_putF_apart _ F.clkXtal_count F.clkXtal_mhz50 _ _ rfl (by decide)).trans (getF_putF_apart _ F.clkXtal_meas F.clkXtal_mhz50 _ _ rfl (by decide)))
  have hrates : ((s.at_ now).countCrystal n).crystalRates = (s.at_ now).crystalRates := by
    rw [State.crystalRates, hinvalid, hmhz, State.crystalRates]
  have hpct : ((s.at_ now).countCrystal n).crystalPct = s.crystalPct := by rw [State.crystalPct, huntrimmed, State.crystalPct]
  rw [← hrates, ← hpct]
  exact if_neg hguard

end

theorem judges_of_short {e pct : Nat} {l : List Nat} (h : l.length ≠ 4) : judges e pct l = false := by
  simp [judges, h]

theorem putsRegs_crystalStable (s : State) (e : Nat) : putsRegs [regKey R.clkXtal 0, regKey R.clkFmc 0] s (s.crystalStable e) := by
  have hx : regKey R.clkXtal 0 ∈ [regKey R.clkXtal 0, regKey R.clkFmc 0] := List.mem_cons_self
  have hf : regKey R.clkFmc 0 ∈ [regKey R.clkXtal 0, regKey R.clkFmc 0] := List.mem_cons_of_mem _ List.mem_cons_self
  exact ((((putsRegs_refl _ s).putF F.clkXtal_stable 0 1 hx).putF F.clkXtal_mhz50 0 _ hx).putF F.clkXtal_auto 0 _ hx).putF F.clkFmc_owner 0 0 hf

theorem crystalStable_fields (s : State) (e : Nat) : (s.crystalStable e).getF F.clkXtal_stable = 1 ∧
    (s.crystalStable e).getF F.clkXtal_mhz50 = bit (e == 50000) % 2 ∧ (s.crystalStable e).getF F.clkXtal_auto = s.getF F.rstOpt_invalid % 2 ∧
    (s.crystalStable e).getF F.clkFmc_owner = 0 := by
  simp (disch := decide) only [State.crystalStable, getF_putF_off, getF_putF_apart, getF_putF_same]
  exact ⟨rfl, rfl, rfl, rfl⟩

theorem configure_of_notBooted {s : State} (h : s.start.bootDone = false) (now : Nat) : s.configure now = s := by
  simp [State.configure, h]

theorem crystalMeasurement_spec (n : BitVec 32) (now : Nat) (s : State) :
    (s.start.startDelayDone = false ∨ s.start.loading = true ∨ s.onF F.clkXtal_stable = true ∨ s.onF F.clkXtal_fail = true ∨
      100 ≤ s.getF F.clkXtal_meas → idlesAt (.crystalMeasurement n now) now s) ∧
    (s.start.startDelayDone = true → s.start.loading = false → s.onF F.clkXtal_stable = false → s.onF F.clkXtal_fail = false →
      s.getF F.clkXtal_meas < 100 →
      (s.start.xtal.length < 3 → completes (.crystalMeasurement n now) s (fun t =>
        t.getF F.clkXtal_meas = s.getF F.clkXtal_meas + 1 ∧ t.getF F.clkXtal_count = n.toNat ∧ t.start.xtal = s.start.xtal ++ [n.toNat] ∧
        t.onF F.clkXtal_stable = false ∧ sameRegs [regKey R.clkXtal 0] s t ∧
        t = { s with regs := t.regs, start := { s.start with xtal := t.start.xtal }, out := [], now := max s.now now })) ∧
      (s.start.xtal.length = 3 → s.start.bootDone = false → s.onF F.rstOpt_invalid = false →
        judges (if s.onF F.clkXtal_mhz50 then 50000 else 25000) (if s.onF F.rstOpt_untrimmed then 9 else 2) (s.start.xtal ++ [n.toNat]) = true →
        completes (.crystalMeasurement n now) s (fun t =>
          t.onF F.clkXtal_stable = true ∧ t.onF F.clkXtal_mhz50 = s.onF F.clkXtal_mhz50 ∧ t.onF F.clkXtal_auto = false ∧
          t.onF F.clkFmc_owner = false ∧ sameRegs [regKey R.clkXtal 0, regKey R.clkFmc 0] s t))) := by
  refine ⟨fun h => idlesAt_of_run (f := opCrystal n.toNat now) rfl (opCrystal_of_idle n.toNat now s.begin h), fun h1 h2 h3 h4 h5 => ⟨fun hlen => ?_, ?_⟩⟩
  · have heq := opCrystal_of_counting n.toNat now s.begin h1 h2 h3 h4 h5
    have hdrop : (s.begin.start.xtal ++ [n.toNat]).drop (s.begin.start.xtal.length - 3) = s.start.xtal ++ [n.toNat] := by
      rw [show s.begin.start.xtal.length - 3 = 0 by show s.start.xtal.length - 3 = 0; omega, List.drop_zero]
      rfl
    have hnone : (s.begin.at_ now).crystalRates.find? (fun e => judges e s.begin.crystalPct (s.start.xtal ++ [n.toNat])) = none :=
      List.find?_eq_none.2 (fun e _ => by simp [judges_of_short, List.length_append, show s.start.xtal.length + 1 ≠ 4 by omega])
    rw [hdrop, hnone] at heq
    refine completes_of_eq (f := opCrystal n.toNat now) rfl heq ⟨?_, ?_, hdrop, ?_, ?_, rfl⟩
    · refine (getF_putF_apart _ F.clkXtal_count F.clkXtal_meas _ _ rfl (by decide)).trans ?_
      refine (getF_putF_same _ F.clkXtal_meas 0 _ (by decide)).trans ?_
      have hmeas : (s.begin.at_ now).getF F.clkXtal_meas = s.getF F.clkXtal_meas := rfl
      have hmax : 2 ^ F.clkXtal_meas.width = 128 := rfl
      rw [hmeas, hmax]
      omega
    · exact (getF_putF_same _ F.clkXtal_count 0 n.toNat (by decide)).trans (Nat.mod_eq_of_lt n.isLt)
    · refine (onF_of_getF ?_).trans h3
      exact (getF_putF_apart _ F.clkXtal_count F.clkXtal_stable _ _ rfl (by decide)).trans
        (getF_putF_apart _ F.clkXtal_meas F.clkXtal_stable _ _ rfl (by decide))
    · exact sameRegs_putF F.clkXtal_count 0 _ (sameRegs_putF F.clkXtal_meas 0 _ (sameRegs_refl _ _) (List.mem_singleton.2 rfl))
        (List.mem_singleton.2 rfl)
  · intro hlen hboot hinvalid hjudge
    have heq := opCrystal_of_counting n.toNat now s.begin h1 h2 h3 h4 h5
    have hdrop : (s.begin.start.xtal ++ [n.toNat]).drop (s.begin.start.xtal.length - 3) = s.start.xtal ++ [n.toNat] := by
      rw [show s.begin.start.xtal.length - 3 = 0 by show s.start.xtal.length - 3 = 0; omega, List.drop_zero]
      rfl
    have hrates : (s.begin.at_ now).crystalRates = [if s.onF F.clkXtal_mhz50 then 50000 else 25000] := by
      have hoff : (s.begin.at_ now).onF F.rstOpt_invalid = false := hinvalid
      have hmhz : (s.begin.at_ now).onF F.clkXtal_mhz50 = s.onF F.clkXtal_mhz50 := rfl
      rw [State.crystalRates, hoff, hmhz]
      cases s.onF F.clkXtal_mhz50 <;> rfl
    have hfind : ([if s.onF F.clkXtal_mhz50 then 50000 else 25000] : List Nat).find?
        (fun e => judges e s.begin.crystalPct (s.start.xtal ++ [n.toNat])) = some (if s.onF F.clkXtal_mhz50 then 50000 else 25000) := by
      rw [List.find?_cons_of_pos]
      exact hjudge
    have hputs := putsRegs_crystalStable ((s.begin.at_ now).countCrystal n.toNat) (if s.onF F.clkXtal_mhz50 then 50000 else 25000)
    obtain ⟨hstable, hmhz, hauto, howner⟩ :=
      crystalStable_fields ((s.begin.at_ now).countCrystal n.toNat) (if s.onF F.clkXtal_mhz50 then 50000 else 25000)
    have hdone : (((s.begin.at_ now).countCrystal n.toNat).crystalStable (if s.onF F.clkXtal_mhz50 then 50000 else 25000)).start.bootDone = false := by
      rw [hputs.1]
      exact hboot
    rw [hdrop, hrates, hfind] at heq
    dsimp only at heq
    rw [configure_of_notBooted hdone] at heq
    have hcount : sameRegs [regKey R.clkXtal 0, regKey R.clkFmc 0] s.begin ((s.begin.at_ now).countCrystal n.toNat) :=
      sameRegs_putF F.clkXtal_count 0 _ (sameRegs_putF F.clkXtal_meas 0 _ (sameRegs_refl _ _) List.mem_cons_self) List.mem_cons_self
    have hzero : ((s.begin.at_ now).countCrystal n.toNat).getF F.rstOpt_invalid = s.getF F.rstOpt_invalid :=
      (getF_putF_off _ F.clkXtal_count F.rstOpt_invalid _ _ _ (by decide)).trans (getF_putF_off _ F.clkXtal_meas F.rstOpt_invalid _ _ _ (by decide))
    have hzero' : s.getF F.rstOpt_invalid = 0 := by
      have := hinvalid
      rw [State.onF] at this
      simpa using this
    generalize ((s.begin.at_ now).countCrystal n.toNat).crystalStable (if s.onF F.clkXtal_mhz50 then 50000 else 25000) = u at *
    refine completes_of_eq (f := opCrystal n.toNat now) rfl heq ⟨onF_of_bit (b := true) hstable, ?_, ?_, onF_of_bit (b := false) howner, ?_⟩
    · refine onF_of_bit (b := s.onF F.clkXtal_mhz50) (hmhz.trans ?_)
      cases s.onF F.clkXtal_mhz50 <;> rfl
    · refine onF_of_bit (b := false) (hauto.trans ?_)
      rw [hzero, hzero']
      rfl
    · exact fun d k hk => (hputs.2 d k hk).trans (hcount d k hk)

theorem opCrystalFail_of_failed {s : State} (h : 100 ≤ s.getF F.clkXtal_meas) (h3 : s.onF F.clkXtal_stable = false) (h4 : s.onF F.clkXtal_fail = false) :
    opCrystalFail s = if (s.start.bootDone && s.getF F.stdBoot_stage != 8) = true then
      ((s.putF F.clkXtal_fail 0 1).putF F.clkFmc_owner 0 0).goRecovery 16 else (s.putF F.clkXtal_fail 0 1).putF F.clkFmc_owner 0 0 := by
  have hguard : ¬ (s.getF F.clkXtal_meas < 100 ∨ s.onF F.clkXtal_stable = true ∨ s.onF F.clkXtal_fail = true) := by
    rw [h3, h4]
    simp [h]
  have hstage : ((s.putF F.clkXtal_fail 0 1).putF F.clkFmc_owner 0 0).getF F.stdBoot_stage = s.getF F.stdBoot_stage :=
    (getF_putF_off _ F.clkFmc_owner F.stdBoot_stage _ _ _ (by decide)).trans (getF_putF_off _ F.clkXtal_fail F.stdBoot_stage _ _ _ (by decide))
  rw [← hstage]
  exact if_neg hguard

theorem crystalFail_spec (s : State) :
    (s.getF F.clkXtal_meas < 100 ∨ s.onF F.clkXtal_stable = true ∨ s.onF F.clkXtal_fail = true → idles .crystalFail s) ∧
    (100 ≤ s.getF F.clkXtal_meas → s.onF F.clkXtal_stable = false → s.onF F.clkXtal_fail = false →
      (s.start.bootDone = false ∨ s.getF F.stdBoot_stage = 8 → completes .crystalFail s (fun t =>
        t.onF F.clkXtal_fail = true ∧ t.onF F.clkFmc_owner = false ∧ onlyRegs [regKey R.clkXtal 0, regKey R.clkFmc 0] s t)) ∧
      (s.start.bootDone = true → s.getF F.stdBoot_stage ≠ 8 → completes .crystalFail s (fun t =>
        t.onF F.clkXtal_fail = true ∧ t.getF F.stdBoot_stage = 8 ∧ t.getF F.stdBoot_fail = 16))) := by
  refine ⟨fun h => idles_of_run (f := opCrystalFail) rfl (if_pos h), fun h h3 h4 => ?_⟩
  have heq := opCrystalFail_of_failed (s := s.begin) h h3 h4
  have hfail : ((s.begin.putF F.clkXtal_fail 0 1).putF F.clkFmc_owner 0 0).getF F.clkXtal_fail = 1 :=
    (getF_putF_off _ F.clkFmc_owner F.clkXtal_fail _ _ _ (by decide)).trans (getF_putF_same s.begin F.clkXtal_fail 0 1 (by decide))
  constructor
  · intro hno
    have hguard : ¬ (s.begin.start.bootDone && s.begin.getF F.stdBoot_stage != 8) = true := by
      show ¬ (s.start.bootDone && s.getF F.stdBoot_stage != 8) = true
      rcases hno with h | h <;> simp [h]
    rw [if_neg hguard] at heq
    refine completes_of_eq (f := opCrystalFail) rfl heq ⟨onF_of_bit (b := true) hfail, ?_, ?_⟩
    · exact onF_of_bit (b := false) (getF_putF_same _ F.clkFmc_owner 0 0 (by decide))
    · exact onlyRegs_of_putsRegs (((putsRegs_refl _ s.begin).putF F.clkXtal_fail 0 1 List.mem_cons_self).putF F.clkFmc_owner 0 0
        (List.mem_cons_of_mem _ List.mem_cons_self))
  · intro hboot hstage
    have hguard : (s.begin.start.bootDone && s.begin.getF F.stdBoot_stage != 8) = true := by
      show (s.start.bootDone && s.getF F.stdBoot_stage != 8) = true
      simp [hboot, hstage]
    rw [if_pos hguard] at heq
    obtain ⟨-, -, hregs, -, hshown, -, -, hcode⟩ := goRecovery_spec ((s.begin.putF F.clkXtal_fail 0 1).putF F.clkFmc_owner 0 0) 16
    have hkept := (getF_of_regsIn hregs (f := F.clkXtal_fail) (by decide) 0).trans hfail
    generalize ((s.begin.putF F.clkXtal_fail 0 1).putF F.clkFmc_owner 0 0).goRecovery 16 = u at *
    exact completes_of_eq (f := opCrystalFail) rfl heq ⟨onF_of_bit (b := true) hkept, hshown, hcode⟩

/-! ## The statement -/

/-- Settles O52: the ramp, the monitor, the counter and the crystal, each by its operation. -/
theorem clocksRampAndAreCounted : Obligations.ClocksRampAndAreCounted := by
  intro s
  refine ⟨clockRampStep_spec s, fun by_ v => ⟨(clockMonitorSelect_spec by_ v s).1, (clockMonitorSelect_spec by_ v s).2, fun hw => ?_,
    frequencyMeasurement_spec by_ v s⟩, fun n => frequencyMeasurementDone_spec n s, fun n now => crystalMeasurement_spec n now s,
    crystalFail_spec s⟩
  have hb : s.begin.writes by_ R.clkFmc.off = false := hw
  exact idles_of_run (exec_frequencyMeasurement by_ v s) (by rw [hb]; rfl)

end Sys2Proof.Machine
end


section
/-! SUPPORT. The programming of settings generations and the reports (R451, R462, R463, R469 to R471). -/

namespace Sys2Proof.Machine

/-! ## The programming command -/

theorem putsRegs_otpSlotShown (s : State) : putsRegs [regKey R.otpProg 0] s s.otpSlotShown := by
  unfold State.otpSlotShown
  cases s.targetSlot with
  | none => exact putsRegs_refl _ s
  | some g => exact (putsRegs_refl _ s).putF F.otpProg_slot 0 g (List.mem_singleton.2 rfl)

/-- The checks look at no field of OTP_PROG, and not at what goes out. -/
theorem otpCheck_of_sameRegs {s u : State} (h : u = { s with regs := u.regs, out := u.out }) (hr : sameRegs [regKey R.otpProg 0] s u)
    (b sig : List Byte) : u.otpCheck b sig = s.otpCheck b sig := by
  have hready : u.ready = s.ready := by
    rw [State.ready, State.ready, getF_of_sameRegs hr (f := F.stdBoot_stage) (by decide)]
  have hcmd : u.getF F.stdRcvCtl_cmd = s.getF F.stdRcvCtl_cmd := getF_of_sameRegs hr (by decide)
  have htarget : u.targetSlot = s.targetSlot := by rw [h]; rfl
  have hbound : u.genBound b = s.genBound b := by rw [h]; rfl
  have hheader : u.start = s.start := by rw [h]
  have hsvn : u.minSvn = s.minSvn := by rw [h]
  have himg : u.imgJob = s.imgJob := by rw [h]
  unfold State.otpCheck
  rw [hready, hcmd, htarget, hbound, hheader, hsvn, himg]

theorem otpCheck_of_putsRegs {s u : State} (h : putsRegs [regKey R.otpProg 0] s.begin u) (b sig : List Byte) :
    u.otpCheck b sig = s.otpCheck b sig := by
  obtain ⟨hu, hr⟩ := h
  generalize u.regs = r at hu
  subst hu
  have hs : sameRegs [regKey R.otpProg 0] s { s.begin with regs := r } := fun d k hk => hr d k hk
  exact otpCheck_of_sameRegs (s := s) rfl hs b sig

theorem otpCheck_lt (s : State) (b sig : List Byte) : s.otpCheck b sig < 2 ^ F.otpProg_fail.width := by
  have h : s.otpCheck b sig ≤ 6 := by
    unfold State.otpCheck
    cases s.targetSlot with
    | none => exact Nat.succ_le_succ (Nat.zero_le 5)
    | some g =>
      dsimp only
      repeat' split
      all_goals decide
  exact Nat.lt_of_le_of_lt h (by decide)

theorem otpCapture_eq (b sig : List Byte) (s : State) : otpCapture b sig s = if s.otpCheck b sig = 0 then
    ((({ s with otpJob := some (b ++ sig) } : State).putF F.otpProg_cmd 0 1).putF F.otpProg_state 0 2).putF F.otpProg_fail 0 0
    else ((s.putF F.otpProg_cmd 0 0).putF F.otpProg_state 0 4).putF F.otpProg_fail 0 (s.otpCheck b sig) := by
  unfold otpCapture
  simp only [beq_iff_eq]

/-- A command while none runs: the block is captured where it passes every check. -/
theorem otpCapture_spec (b sig : List Byte) (s : State) {code : Nat} (hcode : s.otpCheck b sig = code) :
    (otpCapture b sig s).getF F.otpProg_fail = code ∧ (otpCapture b sig s).getF F.otpProg_state = (if code = 0 then 2 else 4) ∧
    sameRegs [regKey R.otpProg 0] s (otpCapture b sig s) ∧
    ∃ regs, otpCapture b sig s = { s with regs := regs, otpJob := if code = 0 then some (b ++ sig) else s.otpJob } := by
  have hkey : regKey R.otpProg 0 ∈ [regKey R.otpProg 0] := List.mem_singleton.2 rfl
  have hlt := otpCheck_lt s b sig
  rw [otpCapture_eq, hcode]
  rw [hcode] at hlt
  split
  next h =>
    refine ⟨?_, ?_, ?_, ⟨_, rfl⟩⟩
    · exact (getF_putF_same _ F.otpProg_fail 0 0 (by decide)).trans h.symm
    · exact (getF_putF_apart _ F.otpProg_fail F.otpProg_state _ _ rfl (by decide)).trans (getF_putF_same _ F.otpProg_state 0 2 (by decide))
    · exact sameRegs_putF _ _ _ (sameRegs_putF _ _ _ (sameRegs_putF _ _ _ (sameRegs_of_regs (sameRegs_refl _ s) rfl) hkey) hkey) hkey
  next h =>
    refine ⟨?_, ?_, ?_, ⟨_, rfl⟩⟩
    · rw [getF_putF_same _ F.otpProg_fail 0 _ (by decide), Nat.mod_eq_of_lt hlt]
    · exact (getF_putF_apart _ F.otpProg_fail F.otpProg_state _ _ rfl (by decide)).trans (getF_putF_same _ F.otpProg_state 0 4 (by decide))
    · exact sameRegs_putF _ _ _ (sameRegs_putF _ _ _ (sameRegs_putF _ _ _ (sameRegs_refl _ s) hkey) hkey) hkey

theorem exec_otpProgramGeneration (by_ : Requester) (s : State) : exec (.otpProgramGeneration by_) s =
    run (fun u => if u.mayRecover by_ R.otpProg.off then opOtpProgram u else u) s := rfl

theorem otpProgramGeneration_spec (s : State) (by_ : Requester) :
    (s.mayRecover by_ R.otpProg.off = false → idles (.otpProgramGeneration by_) s) ∧
    (s.mayRecover by_ R.otpProg.off = true →
      (s.otpJob.isSome = true → completes (.otpProgramGeneration by_) s (fun t =>
        t.getF F.otpProg_fail = 6 ∧ onlyRegs [regKey R.otpProg 0] s t)) ∧
      (s.otpJob = none → completes (.otpProgramGeneration by_) s (fun t =>
        t.getF F.otpProg_fail = s.otpCheck (s.bufSrc 0 1024) (s.bufSrc 1024 1280) ∧
        t.otpJob = (if s.otpCheck (s.bufSrc 0 1024) (s.bufSrc 1024 1280) = 0 then some (s.bufSrc 0 1024 ++ s.bufSrc 1024 1280) else none) ∧
        t.getF F.otpProg_state = (if s.otpCheck (s.bufSrc 0 1024) (s.bufSrc 1024 1280) = 0 then 2 else 4) ∧
        sameRegs [regKey R.otpProg 0] s t ∧ t = { s with regs := t.regs, otpJob := t.otpJob, out := [] }))) := by
  refine ⟨fun hmay => ?_, fun hmay => ⟨fun hjob => ?_, fun hjob => ?_⟩⟩
  · have hb : s.begin.mayRecover by_ R.otpProg.off = false := hmay
    exact idles_of_run (exec_otpProgramGeneration by_ s) (by rw [hb]; rfl)
  · have hb : s.begin.mayRecover by_ R.otpProg.off = true := hmay
    have heq : opOtpProgram s.begin = s.begin.putF F.otpProg_fail 0 6 := if_pos hjob
    refine completes_of_eq (exec_otpProgramGeneration by_ s) ((if_pos hb).trans heq) ⟨?_, ?_⟩
    · exact getF_putF_same s.begin F.otpProg_fail 0 6 (by decide)
    · exact onlyRegs_of_putsRegs ((putsRegs_refl _ _).putF F.otpProg_fail 0 6 (List.mem_singleton.2 rfl))
  · have hb : s.begin.mayRecover by_ R.otpProg.off = true := hmay
    have hno : ¬ s.begin.otpJob.isSome = true := by rw [show s.begin.otpJob = none from hjob]; decide
    have heq : opOtpProgram s.begin = otpCapture (s.bufSrc 0 1024) (s.bufSrc 1024 1280) s.begin.otpSlotShown := if_neg hno
    have hshown := putsRegs_otpSlotShown s.begin
    have hcheck : s.begin.otpSlotShown.otpCheck (s.bufSrc 0 1024) (s.bufSrc 1024 1280) = s.otpCheck (s.bufSrc 0 1024) (s.bufSrc 1024 1280) :=
      otpCheck_of_putsRegs hshown _ _
    obtain ⟨hfail, hstate, hregs, regs, hframe⟩ := otpCapture_spec (s.bufSrc 0 1024) (s.bufSrc 1024 1280) s.begin.otpSlotShown hcheck
    refine completes_of_eq (exec_otpProgramGeneration by_ s) ((if_pos hb).trans heq) ?_
    generalize s.otpCheck (s.bufSrc 0 1024) (s.bufSrc 1024 1280) = code at hfail hstate hframe ⊢
    generalize otpCapture (s.bufSrc 0 1024) (s.bufSrc 1024 1280) s.begin.otpSlotShown = u at hfail hstate hregs hframe ⊢
    generalize s.begin.otpSlotShown = v at hshown hregs hframe
    obtain ⟨hv, hvregs⟩ := hshown
    generalize v.regs = r at hv
    subst hv
    refine ⟨hfail, ?_, hstate, fun d k hk => (hregs d k hk).trans (hvregs d k hk), ?_⟩
    · have hnone : s.begin.otpJob = none := hjob
      rw [hframe]
      show (if code = 0 then _ else s.begin.otpJob) = _
      rw [hnone]
    · rw [hframe]
      rfl

/-! ## The end of programming -/

/-- Burning sets bits and clears none. -/
theorem burnJob_keeps_ones (s : State) (job : List Byte) (b i : Nat) (h : (mget s.otp b).getLsbD i = true) :
    (mget (s.burnJob job).otp b).getLsbD i = true :=
  burn_keeps_ones _ _ _ _ _ (burn_keeps_ones _ _ _ _ _ h)

/-- The bytes that stand in the store once programming has ended. -/
def State.burnt (s : State) (ok : Bool) (job : List Byte) : List Byte := if ok then job else s.badJob (s.getF F.otpProg_slot) job

/-- The outcome of programming as OTP_PROG shows it. -/
def State.showBurn (s : State) (ok : Bool) : State :=
  let s := s.putF F.otpProg_cmd 0 0
  if ok then (s.putF F.otpProg_state 0 3).putF F.otpProg_fail 0 0
  else ((s.putF F.otpProg_state 0 4).putF F.otpProg_fail 0 7).nextFree

theorem opOtpDone_of_job {s : State} {job : List Byte} (h : s.otpJob = some job) (ok : Bool) :
    opOtpDone ok s = (s.burnJob (s.burnt ok job)).showBurn ok := by
  rw [opOtpDone, h]
  rfl

theorem showBurn_spec (s : State) (ok : Bool) :
    (s.showBurn ok).getF F.otpProg_cmd = 0 ∧ (s.showBurn ok).getF F.otpProg_state = (if ok then 3 else 4) ∧
    (s.showBurn ok).getF F.otpProg_fail = (if ok then 0 else 7) ∧ sameRegs [regKey R.otpProg 0] s (s.showBurn ok) ∧
    s.showBurn ok = { s with regs := (s.showBurn ok).regs, fresh := (s.showBurn ok).fresh } := by
  have hkey : regKey R.otpProg 0 ∈ [regKey R.otpProg 0] := List.mem_singleton.2 rfl
  have hputs : ∀ n m : Nat, sameRegs [regKey R.otpProg 0] s (((s.putF F.otpProg_cmd 0 0).putF F.otpProg_state 0 n).putF F.otpProg_fail 0 m) :=
    fun n m => sameRegs_putF _ _ _ (sameRegs_putF _ _ _ (sameRegs_putF _ _ _ (sameRegs_refl _ s) hkey) hkey) hkey
  have hcmd : ∀ n m : Nat, (((s.putF F.otpProg_cmd 0 0).putF F.otpProg_state 0 n).putF F.otpProg_fail 0 m).getF F.otpProg_cmd = 0 := fun n m => by
    simp (disch := decide) only [getF_putF_apart, getF_putF_same]
    rfl
  have hstate : ∀ n m : Nat, (((s.putF F.otpProg_cmd 0 0).putF F.otpProg_state 0 n).putF F.otpProg_fail 0 m).getF F.otpProg_state = n % 8 :=
    fun n m => (getF_putF_apart _ F.otpProg_fail F.otpProg_state _ _ rfl (by decide)).trans (getF_putF_same _ F.otpProg_state 0 n (by decide))
  cases ok
  · exact ⟨hcmd 4 7, hstate 4 7, getF_putF_same _ F.otpProg_fail 0 7 (by decide), hputs 4 7, rfl⟩
  · exact ⟨hcmd 3 0, hstate 3 0, getF_putF_same _ F.otpProg_fail 0 0 (by decide), hputs 3 0, rfl⟩

theorem otpProgrammingDone_spec (s : State) (ok : Bool) :
    (s.otpJob.isSome = true → completes (.otpProgrammingDone ok) s (fun t =>
      t.otpJob = none ∧ (∀ b i : Nat, (mget s.otp b).getLsbD i = true → (mget t.otp b).getLsbD i = true) ∧
      t.getF F.otpProg_cmd = 0 ∧ t.getF F.otpProg_state = (if ok then 3 else 4) ∧ t.getF F.otpProg_fail = (if ok then 0 else 7) ∧
      sameRegs [regKey R.otpProg 0] s t ∧ t.devMem = s.devMem ∧ t.flash = s.flash)) ∧
    (s.otpJob = none → idles (.otpProgrammingDone ok) s) := by
  constructor
  · intro hsome
    obtain ⟨job, hjob⟩ := Option.isSome_iff_exists.1 hsome
    have hones := burnJob_keeps_ones s.begin (s.begin.burnt ok job)
    obtain ⟨hcmd, hstate, hfail, hregs, hframe⟩ := showBurn_spec (s.begin.burnJob (s.begin.burnt ok job)) ok
    refine completes_of_eq (f := opOtpDone ok) rfl (opOtpDone_of_job (s := s.begin) hjob ok) ?_
    generalize hu : (s.begin.burnJob (s.begin.burnt ok job)).showBurn ok = u at hcmd hstate hfail hregs hframe ⊢
    refine ⟨?_, fun b i h => ?_, hcmd, hstate, hfail, hregs, ?_, ?_⟩
    · rw [hframe]; rfl
    · rw [hframe]; exact hones b i h
    · rw [hframe]; rfl
    · rw [hframe]; rfl
  · intro hnone
    have hb : s.begin.otpJob = none := hnone
    exact idles_of_run (f := opOtpDone ok) rfl (by rw [opOtpDone, hb])

/-! ## Reports -/

theorem exec_attestationRequest (by_ : Requester) (s : State) : exec (.attestationRequest by_) s =
    run (fun u => if u.reaches by_ R.stdAttCtl.off && (by_ != .i3c || bitOf u.flagsActive 1) then opAttest u else u) s := rfl

theorem attestationRequest_idles (s : State) (by_ : Requester)
    (h : s.reaches by_ R.stdAttCtl.off = false ∨ by_ = .i3c ∧ bitOf s.flagsActive 1 = false ∨ s.ready = false ∨ s.onF F.stdAttCtl_go = true) :
    idles (.attestationRequest by_) s := by
  refine idles_of_run (exec_attestationRequest by_ s) ?_
  have hblocked : ∀ c : Bool, s.ready = false ∨ s.onF F.stdAttCtl_go = true → (if c then opAttest s.begin else s.begin) = s.begin := fun c h => by
    have hguard : (!s.begin.ready || s.begin.onF F.stdAttCtl_go) = true := by
      show (!s.ready || s.onF F.stdAttCtl_go) = true
      rcases h with h | h <;> simp [h]
    cases c
    · rfl
    · exact if_pos hguard
  rcases h with h | ⟨rfl, h⟩ | h
  · have hb : s.begin.reaches by_ R.stdAttCtl.off = false := h
    rw [hb]
    rfl
  · have hb : bitOf s.begin.flagsActive 1 = false := h
    rw [hb]
    cases s.begin.reaches .i3c R.stdAttCtl.off <;> rfl
  · exact hblocked _ h

theorem attestationRequest_spec (s : State) (by_ : Requester) (hreach : s.reaches by_ R.stdAttCtl.off = true)
    (hflag : by_ = .i3c → bitOf s.flagsActive 1 = true) (hready : s.ready = true) (hgo : s.onF F.stdAttCtl_go = false) :
    (s.onF F.otpStat_identity = false → completes (.attestationRequest by_) s (fun t =>
      t.getF F.stdAttCtl_status = 4 ∧ t.onF F.stdAttCtl_go = false ∧ t.report = [] ∧ sameRegs [regKey R.stdAttCtl 0] s t ∧
      t = { s with regs := t.regs, report := [], out := [] })) ∧
    (s.onF F.otpStat_identity = true → completes (.attestationRequest by_) s (fun t =>
      t.getF F.stdAttCtl_status = 1 ∧ t.onF F.stdAttCtl_go = true ∧ t.attBody = s.reportBody ∧ sameRegs [regKey R.stdAttCtl 0] s t ∧
      t = { s with regs := t.regs, attBody := s.reportBody, report := [], out := [] })) := by
  have hkey : regKey R.stdAttCtl 0 ∈ [regKey R.stdAttCtl 0] := List.mem_singleton.2 rfl
  have hmay : (s.begin.reaches by_ R.stdAttCtl.off && (by_ != .i3c || bitOf s.begin.flagsActive 1)) = true := by
    show (s.reaches by_ R.stdAttCtl.off && (by_ != .i3c || bitOf s.flagsActive 1)) = true
    rw [hreach]
    cases by_ <;> simp_all
  have hguard : ¬ (!s.begin.ready || s.begin.onF F.stdAttCtl_go) = true := by
    show ¬ (!s.ready || s.onF F.stdAttCtl_go) = true
    rw [hready, hgo]
    decide
  constructor
  · intro hid
    have hb : (!s.begin.onF F.otpStat_identity) = true := by rw [show s.begin.onF F.otpStat_identity = false from hid]; rfl
    have heq : opAttest s.begin = ({ s.begin with report := [] } : State).putF F.stdAttCtl_status 0 4 := (if_neg hguard).trans (if_pos hb)
    refine completes_of_eq (exec_attestationRequest by_ s) ((if_pos hmay).trans heq) ⟨?_, ?_, rfl, ?_, rfl⟩
    · exact getF_putF_same _ F.stdAttCtl_status 0 4 (by decide)
    · exact (onF_of_getF (getF_putF_apart _ F.stdAttCtl_status F.stdAttCtl_go _ _ rfl (by decide))).trans hgo
    · exact sameRegs_putF _ _ _ (sameRegs_refl _ _) hkey
  · intro hid
    have hb : ¬ (!s.begin.onF F.otpStat_identity) = true := by rw [show s.begin.onF F.otpStat_identity = true from hid]; decide
    have heq : opAttest s.begin = (({ s.begin with attBody := s.begin.reportBody, report := [] } : State).putF F.stdAttCtl_go 0 1).putF
        F.stdAttCtl_status 0 1 := (if_neg hguard).trans (if_neg hb)
    refine completes_of_eq (exec_attestationRequest by_ s) ((if_pos hmay).trans heq) ⟨?_, ?_, rfl, ?_, rfl⟩
    · exact getF_putF_same _ F.stdAttCtl_status 0 1 (by decide)
    · refine onF_of_bit (b := true) ((getF_putF_apart _ F.stdAttCtl_status F.stdAttCtl_go _ _ rfl (by decide)).trans ?_)
      exact getF_putF_same _ F.stdAttCtl_go 0 1 (by decide)
    · exact sameRegs_putF _ _ _ (sameRegs_putF _ _ _ (sameRegs_refl _ _) hkey) hkey

theorem attestationReady_spec (s : State) :
    (s.onF F.stdAttCtl_go = true → completes .attestationReady s (fun t =>
      t.getF F.stdAttCtl_status = 2 ∧ t.onF F.stdAttCtl_go = false ∧ t.report.take 384 = slice s.attBody 0 384 ∧ t.report.length = 1664 ∧
      t.attZero = false ∧ sameRegs [regKey R.stdAttCtl 0] s t ∧ sameMemories s t)) ∧
    (s.onF F.stdAttCtl_go = false → idles .attestationReady s) := by
  have hkey : regKey R.stdAttCtl 0 ∈ [regKey R.stdAttCtl 0] := List.mem_singleton.2 rfl
  constructor
  · intro hgo
    have hb : ¬ (!s.begin.onF F.stdAttCtl_go) = true := by rw [show s.begin.onF F.stdAttCtl_go = true from hgo]; decide
    refine completes_of_eq (f := opAttReady) rfl (if_neg hb) ⟨?_, ?_, ?_, ?_, rfl, ?_, ⟨rfl, rfl, rfl, rfl, rfl⟩⟩
    · exact getF_putF_same _ F.stdAttCtl_status 0 2 (by decide)
    · refine onF_of_bit (b := false) ((getF_putF_apart _ F.stdAttCtl_status F.stdAttCtl_go _ _ rfl (by decide)).trans ?_)
      exact getF_putF_same _ F.stdAttCtl_go 0 0 (by decide)
    · refine List.take_left' ?_
      exact length_slice s.begin.attBody 0 384
    · refine (List.length_append).trans ?_
      rw [List.length_cons, List.length_append, length_slice, length_slice, List.length_map, List.length_range]
    · exact sameRegs_putF _ _ _ (sameRegs_putF _ _ _ (sameRegs_of_regs (sameRegs_refl _ _) rfl) hkey) hkey
  · intro hgo
    have hb : (!s.begin.onF F.stdAttCtl_go) = true := by rw [show s.begin.onF F.stdAttCtl_go = false from hgo]; rfl
    exact idles_of_run (f := opAttReady) rfl (if_pos hb)

/-! ## The statement -/

/-- Settles O51: the command and the end of programming, the request and the signing of a report, each by its operation. -/
theorem generationsAndReportsAreCaptured : Obligations.GenerationsAndReportsAreCaptured := by
  intro s
  refine ⟨otpProgramGeneration_spec s, otpProgrammingDone_spec s, fun by_ => ⟨attestationRequest_idles s by_, fun hreach hflag hready hgo => ?_⟩,
    (attestationReady_spec s).1, (attestationReady_spec s).2⟩
  exact attestationRequest_spec s by_ hreach hflag hready hgo

end Sys2Proof.Machine
end


section
/-! SUPPORT. The cold reset (R405, R407, R410 to R414, Table 13.5). -/

namespace Sys2Proof.Machine

/-! ## What a cold reset leaves -/

theorem cutOtp_of_none {s : State} (h : s.otpJob = none) : s.cutOtp = s := by
  unfold State.cutOtp
  rw [h]

theorem cutImage_of_none {s : State} (h : s.imgJob = none) : s.cutImage = s := by
  unfold State.cutImage
  rw [h]

/-- The standby domain's part of the start that a cold reset keeps. -/
def State.standbyStart (s : State) : Start where
  loadAt := max s.now s.start.loadAt
  restartTimes := if s.start.loading && !s.heldInReset && decide (s.start.loadAt ≤ s.now) then s.start.restartTimes ++ [s.now]
    else s.start.restartTimes
  storm := s.start.storm
  tripTimes := s.start.tripTimes
  tripHold := s.start.tripHold
  tripForever := s.start.tripForever
  therm := s.start.therm
  railsLow := s.start.railsLow
  porstLow := s.start.porstLow
  perstLow := s.start.perstLow
  pwrfailLow := s.start.pwrfailLow

/-- Everything but the registers that a cold reset leaves. -/
def State.coldFrame (s : State) : State :=
  { State.reset with
    pending := s.pending, now := s.now, fresh := s.fresh, out := s.out, hostMem := s.hostMem, flash := s.flash, otp := s.otp
    fuseCells := s.fuseCells, repairMark := s.repairMark
    heat := if s.start.tripHold then { sentinels := s.heat.sentinels, coolSince := s.heat.coolSince } else {}
    devMem := if s.onF F.pwrKeep_keep_ok then s.devMem else [], loftErr := if s.onF F.pwrKeep_keep_ok then s.loftErr else []
    keep := if s.onF F.pwrKeep_keep_ok then s.keep else {}, start := s.standbyStart }

/-- The registers of the standby domain. -/
def State.keepStandby (r s : State) : State := (r.setReg R.rstCause 0 (s.reg R.rstCause 0)).setReg R.pwrKeep 0 (s.reg R.pwrKeep 0)

/-- The cause that a cold reset shows. -/
def State.shownCause (s : State) (cause : Nat) : Nat := if s.onF F.pwrKeep_keep_ok && cause == 1 then 5 else cause

theorem coldReset_eq {s : State} (hotp : s.otpJob = none) (himg : s.imgJob = none) (cause : Nat) : s.coldReset cause =
    ((s.coldFrame.keepStandby s).putF F.rstCause_cold 0 (s.shownCause cause)).putF F.rstCause_storm 0 0 := by
  unfold State.coldReset
  rw [cutOtp_of_none hotp, cutImage_of_none himg]
  rfl

section
variable {s : State} (hotp : s.otpJob = none) (himg : s.imgJob = none) (cause : Nat)
include hotp himg

theorem coldReset_frame : s.coldReset cause = { s.coldFrame with regs := (s.coldReset cause).regs } := by
  rw [coldReset_eq hotp himg]
  rfl

/-- No register of the part stands but the two of the standby domain. -/
theorem coldReset_sameRegs : sameRegs [regKey R.rstCause 0, regKey R.pwrKeep 0] State.reset (s.coldReset cause) := by
  have hcause : regKey R.rstCause 0 ∈ [regKey R.rstCause 0, regKey R.pwrKeep 0] := List.mem_cons_self
  have hkeep : regKey R.pwrKeep 0 ∈ [regKey R.rstCause 0, regKey R.pwrKeep 0] := List.mem_cons_of_mem _ List.mem_cons_self
  rw [coldReset_eq hotp himg]
  exact sameRegs_putF _ _ _ (sameRegs_putF _ _ _ (sameRegs_setReg _ _ _ (sameRegs_setReg _ _ _ (sameRegs_of_regs (sameRegs_refl _ _) rfl) hcause)
    hkeep) hcause) hcause

theorem coldReset_cause : (s.coldReset cause).getF F.rstCause_cold = s.shownCause cause % 16 := by
  rw [coldReset_eq hotp himg]
  exact (getF_putF_apart _ F.rstCause_storm F.rstCause_cold _ _ rfl (by decide)).trans (getF_putF_same _ F.rstCause_cold 0 _ (by decide))

/-- The counts in RST_CAUSE stay. -/
theorem coldReset_counts (f : Fld) (hf : f.reg = R.rstCause) (hlo : 5 ≤ f.lo) : (s.coldReset cause).getF f = s.getF f := by
  have hstorm : F.rstCause_storm.lo + F.rstCause_storm.width ≤ f.lo := hlo
  have hcold : F.rstCause_cold.lo + F.rstCause_cold.width ≤ f.lo := Nat.le_trans (by decide) hlo
  rw [coldReset_eq hotp himg]
  refine (getF_putF_apart _ F.rstCause_storm f _ _ hf.symm (Or.inr hstorm)).trans
    ((getF_putF_apart _ F.rstCause_cold f _ _ hf.symm (Or.inr hcold)).trans ?_)
  rw [State.getF, State.getF, State.keepStandby, hf, reg_setReg_ne _ _ _ _ _ _ (by decide), reg_setReg_same]

theorem coldReset_pwrKeep : (s.coldReset cause).reg R.pwrKeep 0 = s.reg R.pwrKeep 0 := by
  rw [coldReset_eq hotp himg]
  exact (reg_putF_off _ F.rstCause_storm R.pwrKeep _ _ _ (by decide)).trans ((reg_putF_off _ F.rstCause_cold R.pwrKeep _ _ _ (by decide)).trans
    (reg_setReg_same ..))

end

theorem onF_of_reg {s t : State} {f : Fld} {i : Nat} (h : t.reg f.reg i = s.reg f.reg i) : t.onF f i = s.onF f i := by
  rw [State.onF, State.onF, State.getF, State.getF, h]

/-! ## PORST_N and the storm -/

/-- After ten milliseconds a low PORST_N ends the hold of the third trip. -/
def State.endLongTrip (s : State) (lowNs : Nat) : State :=
  if s.start.tripForever && decide (10000000 ≤ lowNs) then
    { s with start := { s.start with tripForever := false, tripHold := false, therm := false } } else s

theorem endLongTrip_spec (s : State) (lowNs : Nat) : (s.endLongTrip lowNs).start.tripForever = (s.start.tripForever && decide (lowNs < 10000000)) ∧
    ∃ start, s.endLongTrip lowNs = { s with start := start } := by
  rw [State.endLongTrip]
  split
  next h =>
    obtain ⟨-, h2⟩ := (Bool.and_eq_true _ _).mp h
    have hno : decide (lowNs < 10000000) = false := decide_eq_false (by have := of_decide_eq_true h2; omega)
    exact ⟨by rw [hno, Bool.and_false], _, rfl⟩
  next h =>
    refine ⟨?_, s.start, rfl⟩
    cases hf : s.start.tripForever
    · rfl
    · rw [hf, Bool.true_and, decide_eq_true_eq] at h
      rw [decide_eq_true (by omega)]
      rfl

theorem opPorst_of_idle {s : State} {lowNs now : Nat} (h : lowNs < 200 ∨ s.start.storm = true ∨ s.start.porstLow = true) :
    opPorst lowNs now s = s.at_ now := by
  refine if_pos ?_
  show (decide (lowNs < 200) || s.start.storm || s.start.porstLow) = true
  rcases h with h | h | h <;> simp [h]

section
variable {s : State} {lowNs now : Nat} (hlow : 200 ≤ lowNs) (hstorm : s.start.storm = false) (hpin : s.start.porstLow = false)
include hlow hstorm hpin

theorem opPorst_of_keep (hkeep : s.keep.inKeep = true) :
    opPorst lowNs now s = { s.at_ now with start := { s.start with porstLow := true } } := by
  have hguard : ¬ (decide (lowNs < 200) || (s.at_ now).start.storm || (s.at_ now).start.porstLow) = true := by
    show ¬ (decide (lowNs < 200) || s.start.storm || s.start.porstLow) = true
    rw [hstorm, hpin, decide_eq_false (by omega)]
    decide
  exact (if_neg hguard).trans (if_pos hkeep)

theorem opPorst_of_awake (hkeep : s.keep.inKeep = false) : opPorst lowNs now s =
    { ((s.at_ now).endLongTrip lowNs).coldReset 1 with
      start := { (((s.at_ now).endLongTrip lowNs).coldReset 1).start with porstLow := true } } := by
  have hguard : ¬ (decide (lowNs < 200) || (s.at_ now).start.storm || (s.at_ now).start.porstLow) = true := by
    show ¬ (decide (lowNs < 200) || s.start.storm || s.start.porstLow) = true
    rw [hstorm, hpin, decide_eq_false (by omega)]
    decide
  have hawake : ¬ (s.at_ now).keep.inKeep = true := by
    rw [show (s.at_ now).keep.inKeep = false from hkeep]
    decide
  exact (if_neg hguard).trans (if_neg hawake)

end

/-- PORST_N low for long enough. -/
theorem porstN_spec (lowNs now : Nat) (s : State) (hlow : 200 ≤ lowNs) (hstorm : s.start.storm = false) (hpin : s.start.porstLow = false) :
    (s.keep.inKeep = true → completes (.porstN lowNs now) s (fun t =>
      t = { s with start := { s.start with porstLow := true }, out := [], now := max s.now now })) ∧
    (s.keep.inKeep = false → s.otpJob = none → s.imgJob = none → completes (.porstN lowNs now) s (fun t =>
      t.start.porstLow = true ∧ t.start.loading = true ∧
      t.start.tripForever = (s.start.tripForever && decide (lowNs < 10000000)) ∧
      t.getF F.rstCause_cold = (if s.onF F.pwrKeep_keep_ok then 5 else 1) ∧ t.getF F.rstCause_warm = s.getF F.rstCause_warm ∧
      t.reg R.pwrKeep 0 = s.reg R.pwrKeep 0 ∧ sameRegs [regKey R.rstCause 0, regKey R.pwrKeep 0] State.reset t ∧
      t.ctl = {} ∧ t.tick = {} ∧ t.commit = none ∧ t.cells = [] ∧ t.hostMem = s.hostMem ∧ t.flash = s.flash ∧ t.otp = s.otp ∧
      t.rcvBuf = [] ∧ t.devMem = (if s.onF F.pwrKeep_keep_ok then s.devMem else []))) := by
  constructor
  · intro hkeep
    exact completes_of_eq (f := opPorst lowNs now) rfl (opPorst_of_keep (s := s.begin) hlow hstorm hpin hkeep) rfl
  · intro hkeep hotp himg
    obtain ⟨hforever, start, hv⟩ := endLongTrip_spec (s.begin.at_ now) lowNs
    refine completes_of_eq (f := opPorst lowNs now) rfl (opPorst_of_awake (s := s.begin) hlow hstorm hpin hkeep) ?_
    generalize (s.begin.at_ now).endLongTrip lowNs = v at hforever hv ⊢
    have hotp' : v.otpJob = none := by rw [hv]; exact hotp
    have himg' : v.imgJob = none := by rw [hv]; exact himg
    have hok : v.onF F.pwrKeep_keep_ok = s.onF F.pwrKeep_keep_ok := by rw [hv]; rfl
    have hwarm : v.getF F.rstCause_warm = s.getF F.rstCause_warm := by rw [hv]; rfl
    have hreg : v.reg R.pwrKeep 0 = s.reg R.pwrKeep 0 := by rw [hv]; rfl
    have hframe := coldReset_frame hotp' himg' 1
    have hcause := coldReset_cause hotp' himg' 1
    have hcounts := (coldReset_counts hotp' himg' 1 F.rstCause_warm rfl (by decide)).trans hwarm
    have hkept := (coldReset_pwrKeep hotp' himg' 1).trans hreg
    have hregs := coldReset_sameRegs hotp' himg' 1
    generalize v.coldReset 1 = u at hframe hcause hcounts hkept hregs ⊢
    refine ⟨rfl, ?_, ?_, ?_, hcounts, hkept, hregs, ?_, ?_, ?_, ?_, ?_, ?_, ?_, ?_, ?_⟩
    · rw [hframe]; rfl
    · rw [hframe]; exact hforever
    · refine hcause.trans ?_
      rw [State.shownCause, hok]
      cases s.onF F.pwrKeep_keep_ok <;> rfl
    · rw [hframe]; rfl
    · rw [hframe]; rfl
    · rw [hframe]; rfl
    · rw [hframe]; rfl
    · rw [hframe, hv]; rfl
    · rw [hframe, hv]; rfl
    · rw [hframe, hv]; rfl
    · rw [hframe]; rfl
    · rw [hframe]
      show (if v.onF F.pwrKeep_keep_ok then v.devMem else []) = _
      rw [hok, hv]
      rfl

theorem porstNRelease_spec (now : Nat) (s : State) :
    (s.start.porstLow = true → completes (.porstNRelease now) s (fun t =>
      t = { s with
        start := { s.start with porstLow := false, loadAt := if s.keep.inKeep then s.start.loadAt else max s.start.loadAt now }
        out := [], now := max s.now now })) ∧
    (s.start.porstLow = false → idlesAt (.porstNRelease now) now s) := by
  constructor
  · intro h
    exact completes_of_eq (f := opPorstRelease now) rfl (if_pos h) rfl
  · intro h
    refine idlesAt_of_run (f := opPorstRelease now) rfl (if_neg ?_)
    rw [show (s.begin.at_ now).start.porstLow = false from h]
    decide

theorem resetStorm_spec (now : Nat) (s : State) :
    (s.start.loading = true → 8 ≤ s.recentRestarts now → completes (.resetStorm now) s (fun t =>
      t = { s with start := { s.start with storm := true }, out := [], now := max s.now now })) ∧
    (s.start.loading = false ∨ s.recentRestarts now < 8 → idlesAt (.resetStorm now) now s) := by
  constructor
  · intro hload hcount
    have hguard : ((s.begin.at_ now).start.loading && decide (8 ≤ (s.begin.at_ now).recentRestarts now)) = true := by
      show (s.start.loading && decide (8 ≤ s.recentRestarts now)) = true
      simp [hload, hcount]
    exact completes_of_eq (f := opStorm now) rfl (if_pos hguard) rfl
  · intro h
    have hguard : ¬ ((s.begin.at_ now).start.loading && decide (8 ≤ (s.begin.at_ now).recentRestarts now)) = true := by
      show ¬ (s.start.loading && decide (8 ≤ s.recentRestarts now)) = true
      rcases h with h | h <;> simp [h]
    exact idlesAt_of_run (f := opStorm now) rfl (if_neg hguard)

theorem stormExit_spec (lowNs now : Nat) (s : State) :
    (s.start.storm = true → 10000000 ≤ lowNs → completes (.stormExit lowNs now) s (fun t =>
      t.start = { s.start with storm := false, restartTimes := [], porstLow := true } ∧ t.getF F.rstCause_cold = 4 ∧
      t.onF F.rstCause_storm = true ∧ sameRegs [regKey R.rstCause 0] s t ∧
      t = { s with regs := t.regs, start := t.start, out := [], now := max s.now now })) ∧
    (s.start.storm = false ∨ lowNs < 10000000 → idlesAt (.stormExit lowNs now) now s) := by
  have hkey : regKey R.rstCause 0 ∈ [regKey R.rstCause 0] := List.mem_singleton.2 rfl
  constructor
  · intro hstorm hlow
    have hguard : ((s.begin.at_ now).start.storm && decide (10000000 ≤ lowNs)) = true := by
      show (s.start.storm && decide (10000000 ≤ lowNs)) = true
      rw [hstorm, decide_eq_true hlow]
      rfl
    refine completes_of_eq (f := opStormExit lowNs now) rfl (if_pos hguard) ⟨rfl, ?_, ?_, ?_, rfl⟩
    · exact (getF_putF_apart _ F.rstCause_storm F.rstCause_cold _ _ rfl (by decide)).trans (getF_putF_same _ F.rstCause_cold 0 4 (by decide))
    · exact onF_of_bit (b := true) (getF_putF_same _ F.rstCause_storm 0 1 (by decide))
    · exact sameRegs_putF _ _ _ (sameRegs_putF _ _ _ (sameRegs_of_regs (sameRegs_refl _ s) rfl) hkey) hkey
  · intro h
    have hguard : ¬ ((s.begin.at_ now).start.storm && decide (10000000 ≤ lowNs)) = true := by
      show ¬ (s.start.storm && decide (10000000 ≤ lowNs)) = true
      rcases h with h | h
      · rw [h, Bool.false_and]; decide
      · rw [decide_eq_false (by omega), Bool.and_false]; decide
    exact idlesAt_of_run (f := opStormExit lowNs now) rfl (if_neg hguard)

/-! ## The rails -/

/-- A rail joins those that are out of their range. -/
def State.railOut (s : State) (r : Rail) : State :=
  { s with start := { s.start with railsLow := if s.start.railsLow.contains r then s.start.railsLow else s.start.railsLow ++ [r] } }

theorem mem_railOut (s : State) (r : Rail) : r ∈ (s.railOut r).start.railsLow := by
  rw [State.railOut]
  dsimp only
  split
  next h => exact List.contains_iff_mem.1 h
  next => exact List.mem_append_right _ (List.mem_singleton.2 rfl)

section
variable {r : Rail} {mv now : Nat} {s : State}

theorem opPowerOn_of_vstby (hr : r = .vstby) (hout : mv < (railRange r).1 ∨ (railRange r).2 < mv) :
    opPowerOn r mv now s = (s.at_ now).loseStandby.railOut r := by
  subst hr
  exact if_pos hout

/-- Every rail is of the start set while Keep is not assured. -/
theorem startSet_contains (hkeep : s.onF F.pwrKeep_keep_ok = false) (r : Rail) : s.startSet.contains r = true := by
  rw [State.startSet, hkeep]
  cases r <;> decide

theorem opPowerOn_of_out (hr : r ≠ .vstby) (hout : mv < (railRange r).1 ∨ (railRange r).2 < mv) (hstorm : s.start.storm = false)
    (hkeep : s.onF F.pwrKeep_keep_ok = false) : opPowerOn r mv now s = ((s.at_ now).coldReset 0).railOut r := by
  have hset : (s.at_ now).startSet.contains r = true := startSet_contains hkeep r
  have hno : ¬ (!(s.at_ now).startSet.contains r || (s.at_ now).start.storm) = true := by
    rw [hset, show (s.at_ now).start.storm = false from hstorm]
    decide
  have hkeep' : ¬ (s.at_ now).onF F.pwrKeep_keep_ok = true := by
    rw [show (s.at_ now).onF F.pwrKeep_keep_ok = false from hkeep]
    decide
  have heq : (if r = .vstby then (s.at_ now).loseStandby
      else if !(s.at_ now).startSet.contains r || (s.at_ now).start.storm then s.at_ now
      else (if (s.at_ now).onF F.pwrKeep_keep_ok then (s.at_ now).giveUpKeep else s.at_ now).coldReset 0) = (s.at_ now).coldReset 0 := by
    rw [if_neg hr, if_neg hno, if_neg hkeep']
  rw [← heq]
  exact if_pos hout

theorem opPowerOn_of_back (hlo : (railRange r).1 + 10 ≤ mv) (hhi : mv + 10 ≤ (railRange r).2) (hlow : s.start.railsLow.contains r = true) :
    opPowerOn r mv now s = { s.at_ now with start := { s.start with
      railsLow := s.start.railsLow.filter (fun x => x != r)
      loadAt := if s.start.loading then now + 1000000 else s.start.loadAt } } := by
  have hin : ¬ (mv < (railRange r).1 ∨ (railRange r).2 < mv) := by omega
  exact (if_neg hin).trans (if_pos ⟨hlo, hhi, hlow⟩)

theorem opPowerOn_of_inside (hlo : (railRange r).1 ≤ mv) (hhi : mv ≤ (railRange r).2)
    (h : s.start.railsLow.contains r = false ∨ mv < (railRange r).1 + 10 ∨ (railRange r).2 < mv + 10) : opPowerOn r mv now s = s.at_ now := by
  have hin : ¬ (mv < (railRange r).1 ∨ (railRange r).2 < mv) := by omega
  have hstays : ¬ ((railRange r).1 + 10 ≤ mv ∧ mv + 10 ≤ (railRange r).2 ∧ (s.at_ now).start.railsLow.contains r = true) := by
    rintro ⟨h1, h2, h3⟩
    rcases h with h | h | h
    · have h3' : s.start.railsLow.contains r = true := h3
      rw [h] at h3'
      exact absurd h3' (by decide)
    · omega
    · omega
  exact (if_neg hin).trans (if_neg hstays)

end

theorem powerOnDetection_spec (rail : Rail) (mv now : Nat) (s : State) :
    (rail ≠ .vstby → mv < (railRange rail).1 ∨ (railRange rail).2 < mv → s.start.storm = false →
      s.onF F.pwrKeep_keep_ok = false → s.otpJob = none → s.imgJob = none → completes (.powerOnDetection rail mv now) s (fun t =>
        rail ∈ t.start.railsLow ∧ t.start.loading = true ∧ t.getF F.rstCause_cold = 0 ∧ t.devMem = [] ∧ t.flash = s.flash ∧
        t.otp = s.otp ∧ t.ctl = {} ∧ sameRegs [regKey R.rstCause 0, regKey R.pwrKeep 0] State.reset t)) ∧
    (rail = .vstby → mv < (railRange rail).1 ∨ (railRange rail).2 < mv → s.otpJob = none → s.imgJob = none →
      completes (.powerOnDetection rail mv now) s (fun t =>
        t.regs = [] ∧ t.keep = {} ∧ t.devMem = [] ∧ rail ∈ t.start.railsLow ∧ t.flash = s.flash ∧ t.otp = s.otp)) ∧
    ((railRange rail).1 + 10 ≤ mv → mv + 10 ≤ (railRange rail).2 → s.start.railsLow.contains rail = true →
      completes (.powerOnDetection rail mv now) s (fun t =>
        t = { s with
          start := { s.start with
            railsLow := s.start.railsLow.filter (fun r => r != rail)
            loadAt := if s.start.loading then now + 1000000 else s.start.loadAt }
          out := [], now := max s.now now })) ∧
    ((railRange rail).1 ≤ mv → mv ≤ (railRange rail).2 →
      s.start.railsLow.contains rail = false ∨ mv < (railRange rail).1 + 10 ∨ (railRange rail).2 < mv + 10 →
      idlesAt (.powerOnDetection rail mv now) now s) := by
  refine ⟨fun hr hout hstorm hkeep hotp himg => ?_, fun hr hout hotp himg => ?_, fun hlo hhi hlow => ?_, fun hlo hhi h => ?_⟩
  · have hotp' : (s.begin.at_ now).otpJob = none := hotp
    have himg' : (s.begin.at_ now).imgJob = none := himg
    have hok : (s.begin.at_ now).onF F.pwrKeep_keep_ok = false := hkeep
    have hframe := coldReset_frame hotp' himg' 0
    have hcause := coldReset_cause hotp' himg' 0
    have hregs := coldReset_sameRegs hotp' himg' 0
    refine completes_of_eq (f := opPowerOn rail mv now) rfl (opPowerOn_of_out (s := s.begin) hr hout hstorm hkeep) ?_
    generalize (s.begin.at_ now).coldReset 0 = u at hframe hcause hregs ⊢
    refine ⟨mem_railOut u rail, ?_, ?_, ?_, ?_, ?_, ?_, hregs⟩
    · rw [hframe]; rfl
    · refine hcause.trans ?_
      rw [State.shownCause, hok]
      rfl
    · rw [hframe]
      show (if (s.begin.at_ now).onF F.pwrKeep_keep_ok then (s.begin.at_ now).devMem else []) = []
      rw [hok]
      rfl
    · rw [hframe]; rfl
    · rw [hframe]; rfl
    · rw [hframe]; rfl
  · have hotp' : (s.begin.at_ now).otpJob = none := hotp
    have himg' : (s.begin.at_ now).imgJob = none := himg
    refine completes_of_eq (f := opPowerOn rail mv now) rfl (opPowerOn_of_vstby (s := s.begin) hr hout) ?_
    have hlost : ∃ start, (s.begin.at_ now).loseStandby = { State.reset with
        pending := s.pending, now := max s.now now, fresh := s.fresh, out := [], hostMem := s.hostMem, flash := s.flash, otp := s.otp
        fuseCells := s.fuseCells, repairMark := s.repairMark, start := start } := by
      unfold State.loseStandby
      rw [cutOtp_of_none hotp', cutImage_of_none himg']
      exact ⟨_, rfl⟩
    obtain ⟨start, hu⟩ := hlost
    generalize (s.begin.at_ now).loseStandby = u at hu ⊢
    refine ⟨?_, ?_, ?_, mem_railOut u rail, ?_, ?_⟩ <;> (rw [hu]; rfl)
  · exact completes_of_eq (f := opPowerOn rail mv now) rfl (opPowerOn_of_back (s := s.begin) hlo hhi hlow) rfl
  · exact idlesAt_of_run (f := opPowerOn rail mv now) rfl (opPowerOn_of_inside (s := s.begin) hlo hhi h)

/-! ## The statement -/

/-- Settles O46: PORST_N, its release, the storm and its end, and the rails, each by its operation on what a cold reset leaves. -/
theorem aColdResetKeepsTheStandbyDomain : Obligations.AColdResetKeepsTheStandbyDomain := by
  refine ⟨fun lowNs now s => ⟨fun h => ?_, porstN_spec lowNs now s⟩, fun now s => ?_, stormExit_spec, powerOnDetection_spec⟩
  · exact idlesAt_of_run (f := opPorst lowNs now) rfl (opPorst_of_idle (s := s.begin) h)
  · exact ⟨(porstNRelease_spec now s).1, (porstNRelease_spec now s).2, (resetStorm_spec now s).1, (resetStorm_spec now s).2⟩

end Sys2Proof.Machine
end


section
/-! SUPPORT. Recovery commands, the programming of the image and the log in the flash (R445, R447 to R449). -/

namespace Sys2Proof.Machine

/-! ## The flash -/

theorem fread_fwrite (m : Memory) (a : Nat) (bs : List Byte) : fread (fwrite m a bs) a bs.length = bs := by
  have h := mread_mblock m a (bs.map (fun b => ~~~b))
  rw [List.length_map] at h
  rw [fread, fwrite, h, List.map_map]
  exact (List.map_congr_left (fun b _ => BitVec.not_not)).trans (List.map_id bs)

theorem mget_fwrite_outside (m : Memory) (a b : Nat) (bs : List Byte) (h : b < a ∨ a + bs.length ≤ b) :
    mget (fwrite m a bs) b = mget m b := by
  refine mget_mblock_outside m a b _ ?_
  rwa [List.length_map]

theorem mget_ferase_outside (m : Memory) (a n b : Nat) (h : b < a ∨ a + n ≤ b) : mget (ferase m a n) b = mget m b := by
  refine tget_filter_key emptyByte (fun k => decide (k < a) || decide (a + n ≤ k)) b ?_ m
  simpa using h

theorem fread_ferase_outside (m : Memory) (a n b k : Nat) (h : b + k ≤ a ∨ a + n ≤ b) : fread (ferase m a n) b k = fread m b k := by
  rw [fread, fread, mread, mread]
  refine congrArg _ (List.map_congr_left (fun i hi => ?_))
  have := List.mem_range.1 hi
  exact mget_ferase_outside m a n (b + i) (by omega)

/-! ## The commands (R448) -/

theorem verifyImage_le (s : State) (src : Nat → Nat → List Byte) (m : Option Nat) (tables : Bool) : s.verifyImage src m tables ≤ 7 := by
  unfold State.verifyImage
  dsimp only
  repeat' split
  all_goals omega

theorem verifyBuffer_lt (s : State) : s.verifyBuffer < 2 ^ F.stdRcvStat_fail.width := by
  have hle := verifyImage_le s s.bufSrc s.svnFloor true
  have hpow : 2 ^ F.stdRcvStat_fail.width = 256 := rfl
  unfold State.verifyBuffer
  dsimp only
  split <;> omega

theorem rcvEnds_spec (s : State) (state fail : Nat) :
    (s.rcvEnds state fail).getF F.stdRcvStat_state = state % 8 ∧ (s.rcvEnds state fail).getF F.stdRcvStat_fail = fail % 256 ∧
    (s.rcvEnds state fail).getF F.stdRcvCtl_cmd = 0 ∧
    putsRegs [regKey R.stdRcvCtl 0, regKey R.stdRcvStat 0] s (s.rcvEnds state fail) := by
  have hctl : regKey R.stdRcvCtl 0 ∈ [regKey R.stdRcvCtl 0, regKey R.stdRcvStat 0] := List.mem_cons_self
  have hstat : regKey R.stdRcvStat 0 ∈ [regKey R.stdRcvCtl 0, regKey R.stdRcvStat 0] := List.mem_cons_of_mem _ List.mem_cons_self
  refine ⟨?_, getF_putF_same _ F.stdRcvStat_fail 0 fail (by decide), ?_, ?_⟩
  · exact (getF_putF_apart _ F.stdRcvStat_fail F.stdRcvStat_state _ _ rfl (by decide)).trans (getF_putF_same _ F.stdRcvStat_state 0 _ (by decide))
  · exact (getF_putF_off _ F.stdRcvStat_fail F.stdRcvCtl_cmd _ _ _ (by decide)).trans
      ((getF_putF_off _ F.stdRcvStat_state F.stdRcvCtl_cmd _ _ _ (by decide)).trans (getF_putF_same _ F.stdRcvCtl_cmd 0 0 (by decide)))
  · exact (((putsRegs_refl _ s).putF F.stdRcvCtl_cmd 0 0 hctl).putF F.stdRcvStat_state 0 state hstat).putF F.stdRcvStat_fail 0 fail hstat

section
variable (by_ : Requester) (s : State)

theorem exec_recoveryVerify : exec (.recoveryVerify by_) s =
    run (fun u => if u.mayRecover by_ R.stdRcvCtl.off then opRcvVerify u else u) s := rfl

theorem exec_recoveryProgram : exec (.recoveryProgram by_) s =
    run (fun u => if u.mayRecover by_ R.stdRcvCtl.off then opRcvProgram u else u) s := rfl

theorem exec_recoveryColdReset : exec (.recoveryColdReset by_) s =
    run (fun u => if u.mayRecover by_ R.stdRcvCtl.off then opRcvCold u else u) s := rfl

end

/-- A command that may not be given, or not now. -/
theorem recovery_idles {by_ : Requester} {c : Instr} {s : State} {op : State → State}
    (hexec : exec c s = run (fun u => if u.mayRecover by_ R.stdRcvCtl.off then op u else u) s)
    (hop : ∀ u : State, u.rcvFree = false → op u = u) (h : s.mayRecover by_ R.stdRcvCtl.off = false ∨ s.rcvFree = false) : idles c s := by
  refine idles_of_run hexec ?_
  rcases h with h | h
  · have hb : s.begin.mayRecover by_ R.stdRcvCtl.off = false := h
    rw [hb]
    rfl
  · rw [hop s.begin h]
    exact ite_self _

theorem completes_recovery {by_ : Requester} {c : Instr} {s u : State} {op : State → State} {P : State → Prop}
    (hexec : exec c s = run (fun u => if u.mayRecover by_ R.stdRcvCtl.off then op u else u) s)
    (hmay : s.mayRecover by_ R.stdRcvCtl.off = true) (hop : op s.begin = u) (hp : P { u with pending := s.pending }) : completes c s P := by
  have hb : s.begin.mayRecover by_ R.stdRcvCtl.off = true := hmay
  exact completes_of_eq hexec ((if_pos hb).trans hop) hp

theorem opRcvVerify_of_busy {s : State} (h : s.rcvFree = false) : opRcvVerify s = s := by simp [opRcvVerify, h]

theorem opRcvProgram_of_busy {s : State} (h : s.rcvFree = false) : opRcvProgram s = s := by simp [opRcvProgram, h]

theorem opRcvCold_of_busy {s : State} (h : s.rcvFree = false) : opRcvCold s = s := by simp [opRcvCold, h]

/-- No programming runs while a command may be given. -/
theorem jobs_of_rcvFree {s : State} (h : s.rcvFree = true) : s.otpJob = none ∧ s.imgJob = none := by
  rw [State.rcvFree] at h
  simp only [Bool.and_eq_true, Option.isNone_iff_eq_none] at h
  exact ⟨h.1.2, h.2⟩

theorem verifyBuffer_begin (s : State) : s.begin.verifyBuffer = s.verifyBuffer := by
  unfold State.verifyBuffer
  rfl

theorem recoveryVerify_spec {by_ : Requester} {s : State} (hmay : s.mayRecover by_ R.stdRcvCtl.off = true) (hfree : s.rcvFree = true) :
    completes (.recoveryVerify by_) s (fun t =>
      t.getF F.stdRcvStat_state = (if s.verifyBuffer = 0 then 4 else 5) ∧ t.getF F.stdRcvStat_fail = s.verifyBuffer ∧
      t.getF F.stdRcvCtl_cmd = 0 ∧ onlyRegs [regKey R.stdRcvCtl 0, regKey R.stdRcvStat 0] s t) := by
  have hlt : s.verifyBuffer < 256 := verifyBuffer_lt s
  have heq : opRcvVerify s.begin = s.begin.rcvEnds (if s.verifyBuffer = 0 then 4 else 5) s.verifyBuffer := by
    have hb : ¬ (!s.begin.rcvFree) = true := by rw [show s.begin.rcvFree = true from hfree]; decide
    unfold opRcvVerify
    rw [if_neg hb, verifyBuffer_begin]
  generalize s.verifyBuffer = code at hlt heq ⊢
  obtain ⟨hstate, hfail, hcmd, hputs⟩ := rcvEnds_spec s.begin (if code = 0 then 4 else 5) code
  refine completes_recovery (exec_recoveryVerify by_ s) hmay heq ⟨hstate.trans ?_, hfail.trans (Nat.mod_eq_of_lt hlt), hcmd, onlyRegs_of_putsRegs hputs⟩
  split <;> rfl

/-- The image captured is on its way into the flash. -/
def State.programs (s : State) : State :=
  (((({ s with imgJob := some (s.bufSrc 0 (s.getF F.stdRcvLen_len)) } : State).putF F.stdRcvCtl_cmd 0 2).putF F.stdRcvStat_state 0 2).putF
    F.stdRcvStat_fail 0 0).putF F.stdRcvStat_progress 0 0

theorem programs_spec (s : State) : s.programs.getF F.stdRcvStat_state = 2 ∧ s.programs.getF F.stdRcvStat_fail = 0 ∧
    sameRegs [regKey R.stdRcvCtl 0, regKey R.stdRcvStat 0] s s.programs := by
  have hctl : regKey R.stdRcvCtl 0 ∈ [regKey R.stdRcvCtl 0, regKey R.stdRcvStat 0] := List.mem_cons_self
  have hstat : regKey R.stdRcvStat 0 ∈ [regKey R.stdRcvCtl 0, regKey R.stdRcvStat 0] := List.mem_cons_of_mem _ List.mem_cons_self
  refine ⟨?_, ?_, ?_⟩
  · rw [State.programs, getF_putF_apart _ F.stdRcvStat_progress F.stdRcvStat_state _ _ rfl (by decide),
      getF_putF_apart _ F.stdRcvStat_fail F.stdRcvStat_state _ _ rfl (by decide), getF_putF_same _ F.stdRcvStat_state 0 2 (by decide)]
    rfl
  · rw [State.programs, getF_putF_apart _ F.stdRcvStat_progress F.stdRcvStat_fail _ _ rfl (by decide),
      getF_putF_same _ F.stdRcvStat_fail 0 0 (by decide)]
    rfl
  · exact sameRegs_putF _ _ _ (sameRegs_putF _ _ _ (sameRegs_putF _ _ _ (sameRegs_putF _ _ _ (sameRegs_of_regs (sameRegs_refl _ s) rfl) hctl)
      hstat) hstat) hstat

theorem opRcvProgram_of_recovery {s : State} (hfree : s.rcvFree = true) (hstage : s.getF F.stdBoot_stage = 8) :
    opRcvProgram s = if s.verifyBuffer ≠ 0 then s.rcvEnds 5 s.verifyBuffer else s.programs := by
  have hno : ¬ (s.getF F.stdBoot_stage = 7 ∧ (!bitOf s.flagsActive 3) = true) := by
    rw [hstage]
    exact fun h => absurd h.1 (by decide)
  have hb : ¬ (!s.rcvFree) = true := by rw [hfree]; decide
  unfold opRcvProgram
  rw [if_neg hb, if_neg hno]
  rfl

theorem recoveryProgram_spec {by_ : Requester} {s : State} (hmay : s.mayRecover by_ R.stdRcvCtl.off = true) (hfree : s.rcvFree = true)
    (hstage : s.getF F.stdBoot_stage = 8) : completes (.recoveryProgram by_) s (fun t =>
      t.imgJob = (if s.verifyBuffer = 0 then some (s.bufSrc 0 (s.getF F.stdRcvLen_len)) else none) ∧
      t.getF F.stdRcvStat_state = (if s.verifyBuffer = 0 then 2 else 5) ∧ t.getF F.stdRcvStat_fail = s.verifyBuffer ∧
      sameRegs [regKey R.stdRcvCtl 0, regKey R.stdRcvStat 0] s t ∧ t = { s with regs := t.regs, imgJob := t.imgJob, out := [] }) := by
  have hlt : s.verifyBuffer < 256 := verifyBuffer_lt s
  have heq := opRcvProgram_of_recovery (s := s.begin) hfree hstage
  have hnone : s.begin.imgJob = none := (jobs_of_rcvFree hfree).2
  rw [verifyBuffer_begin] at heq
  generalize s.verifyBuffer = code at hlt heq ⊢
  by_cases hcode : code = 0
  · subst hcode
    rw [if_neg (by decide)] at heq
    obtain ⟨hstate, hfail, hregs⟩ := programs_spec s.begin
    exact completes_recovery (exec_recoveryProgram by_ s) hmay heq ⟨rfl, hstate, hfail, hregs, rfl⟩
  · rw [if_pos hcode] at heq
    obtain ⟨hstate, hfail, -, hframe, hregs⟩ := rcvEnds_spec s.begin 5 code
    refine completes_recovery (exec_recoveryProgram by_ s) hmay heq ⟨?_, ?_, hfail.trans (Nat.mod_eq_of_lt hlt), hregs, rfl⟩
    · rw [if_neg hcode]
      exact hnone
    · rw [if_neg hcode]
      exact hstate

theorem recoveryProgram_refused {by_ : Requester} {s : State} (hmay : s.mayRecover by_ R.stdRcvCtl.off = true) (hfree : s.rcvFree = true)
    (hstage : s.getF F.stdBoot_stage = 7) (hflag : bitOf s.flagsActive 3 = false) : completes (.recoveryProgram by_) s (fun t =>
      t.getF F.stdRcvStat_state = 5 ∧ t.getF F.stdRcvStat_fail = 0 ∧ onlyRegs [regKey R.stdRcvCtl 0, regKey R.stdRcvStat 0] s t) := by
  have hyes : s.begin.getF F.stdBoot_stage = 7 ∧ (!bitOf s.begin.flagsActive 3) = true := ⟨hstage, by
    rw [show bitOf s.begin.flagsActive 3 = false from hflag]; rfl⟩
  have hb : ¬ (!s.begin.rcvFree) = true := by rw [show s.begin.rcvFree = true from hfree]; decide
  obtain ⟨hstate, hfail, -, hputs⟩ := rcvEnds_spec s.begin 5 0
  exact completes_recovery (exec_recoveryProgram by_ s) hmay ((if_neg hb).trans (if_pos hyes)) ⟨hstate, hfail, onlyRegs_of_putsRegs hputs⟩

/-! ### The cold reset -/

/-- A cold reset whose cause no rule gives, with Keep not assured and nothing being programmed. -/
theorem coldResetFree_spec {s : State} (hotp : s.otpJob = none) (himg : s.imgJob = none) (hkeep : s.onF F.pwrKeep_keep_ok = false) :
    s.coldResetFree.getF F.rstCause_cold ≤ 2 ∧ s.coldResetFree = { s.nextFree.coldFrame with regs := s.coldResetFree.regs } ∧
    s.coldResetFree.devMem = [] ∧ sameRegs [regKey R.rstCause 0, regKey R.pwrKeep 0] State.reset s.coldResetFree := by
  have hotp' : s.nextFree.otpJob = none := hotp
  have himg' : s.nextFree.imgJob = none := himg
  have hok : s.nextFree.onF F.pwrKeep_keep_ok = false := hkeep
  have hframe := coldReset_frame hotp' himg' (s.freeWord.toNat % 3)
  have hcause := coldReset_cause hotp' himg' (s.freeWord.toNat % 3)
  have hregs := coldReset_sameRegs hotp' himg' (s.freeWord.toNat % 3)
  show (s.nextFree.coldReset (s.freeWord.toNat % 3)).getF _ ≤ 2 ∧ s.nextFree.coldReset (s.freeWord.toNat % 3) =
    { s.nextFree.coldFrame with regs := (s.nextFree.coldReset (s.freeWord.toNat % 3)).regs } ∧
    (s.nextFree.coldReset (s.freeWord.toNat % 3)).devMem = [] ∧
    sameRegs [regKey R.rstCause 0, regKey R.pwrKeep 0] State.reset (s.nextFree.coldReset (s.freeWord.toNat % 3))
  have hlt : s.freeWord.toNat % 3 < 3 := Nat.mod_lt _ (by decide)
  generalize s.freeWord.toNat % 3 = v at hframe hcause hregs hlt ⊢
  generalize s.nextFree.coldReset v = u at hframe hcause hregs ⊢
  refine ⟨?_, hframe, ?_, hregs⟩
  · rw [hcause, State.shownCause, hok, Bool.false_and, if_neg (by decide)]
    omega
  · rw [hframe]
    show (if s.nextFree.onF F.pwrKeep_keep_ok then s.nextFree.devMem else []) = []
    rw [hok]
    rfl

theorem recoveryColdReset_spec {by_ : Requester} {s : State} (hmay : s.mayRecover by_ R.stdRcvCtl.off = true) (hfree : s.rcvFree = true)
    (hkeep : s.onF F.pwrKeep_keep_ok = false) : completes (.recoveryColdReset by_) s (fun t =>
      t.start.loading = true ∧ t.getF F.rstCause_cold ≤ 2 ∧ t.ctl = {} ∧ t.tick = {} ∧ t.devMem = [] ∧ t.flash = s.flash ∧ t.otp = s.otp) := by
  have hb : s.begin.rcvFree = true := hfree
  obtain ⟨hotp, himg⟩ := jobs_of_rcvFree hb
  obtain ⟨hcause, hframe, hmem, -⟩ := coldResetFree_spec (s := s.begin) hotp himg hkeep
  refine completes_recovery (exec_recoveryColdReset by_ s) hmay (if_pos hb) ?_
  generalize s.begin.coldResetFree = u at hcause hframe hmem ⊢
  refine ⟨?_, hcause, ?_, ?_, hmem, ?_, ?_⟩ <;> (rw [hframe]; rfl)

/-! ## The end of the programming of the image -/

theorem opImageDone_of_job {s : State} {img : List Byte} (h : s.imgJob = some img) : opImageDone s =
    (({ s with imgJob := none, flash := fwrite (ferase s.flash 0 0x1000000) 0 img } : State).rcvEnds 4 0).putF F.stdRcvStat_progress 0
      (img.length / 4096) := by
  unfold opImageDone
  rw [h]

theorem imageProgrammingDone_spec (s : State) (img : List Byte) (himg : s.imgJob = some img) : completes .imageProgrammingDone s (fun t =>
      t.imgJob = none ∧ fread t.flash 0 img.length = img ∧
      (∀ b : Nat, 0x1000000 ≤ b → img.length ≤ b → mget t.flash b = mget s.flash b) ∧ t.getF F.stdRcvStat_state = 4 ∧
      t.getF F.stdRcvStat_fail = 0 ∧ t.getF F.stdRcvCtl_cmd = 0 ∧ sameRegs [regKey R.stdRcvCtl 0, regKey R.stdRcvStat 0] s t ∧
      t = { s with regs := t.regs, flash := t.flash, imgJob := none, out := [] }) := by
  have hstat : regKey R.stdRcvStat 0 ∈ [regKey R.stdRcvCtl 0, regKey R.stdRcvStat 0] := List.mem_cons_of_mem _ List.mem_cons_self
  have hread := fread_fwrite (ferase s.begin.flash 0 0x1000000) 0 img
  have hrest : ∀ b : Nat, 0x1000000 ≤ b → img.length ≤ b → mget (fwrite (ferase s.begin.flash 0 0x1000000) 0 img) b = mget s.flash b := fun b h1 h2 => by
    rw [mget_fwrite_outside _ _ _ _ (by omega), mget_ferase_outside _ _ _ _ (by omega)]
    rfl
  have heq := opImageDone_of_job (s := s.begin) himg
  generalize fwrite (ferase s.begin.flash 0 0x1000000) 0 img = flash at hread hrest heq
  obtain ⟨hstate, hfail, hcmd, hframe, hregs⟩ := rcvEnds_spec { s.begin with imgJob := none, flash := flash } 4 0
  generalize ({ s.begin with imgJob := none, flash := flash } : State).rcvEnds 4 0 = v at hstate hfail hcmd hframe hregs heq
  refine completes_of_eq (f := opImageDone) rfl heq ⟨?_, ?_, ?_, ?_, ?_, ?_, ?_, ?_⟩
  · rw [hframe]; rfl
  · rw [hframe]; exact hread
  · rw [hframe]; exact hrest
  · exact (getF_putF_apart _ F.stdRcvStat_progress F.stdRcvStat_state _ _ rfl (by decide)).trans hstate
  · exact (getF_putF_apart _ F.stdRcvStat_progress F.stdRcvStat_fail _ _ rfl (by decide)).trans hfail
  · exact (getF_putF_off _ F.stdRcvStat_progress F.stdRcvCtl_cmd _ _ _ (by decide)).trans hcmd
  · exact sameRegs_putF F.stdRcvStat_progress 0 _ hregs hstat
  · rw [hframe]; rfl

/-! ## The log in the flash (R445) -/

theorem Event.bytes_length (e : Event) : e.bytes.length = 32 * e.records := by
  rw [Event.bytes, Event.records]
  simp only [List.length_append, leBytes_length]
  cases e.payload.isEmpty
  · simp [length_slice]
  · simp

/-- A record that fits the current sector is written after its last one. -/
theorem logNext_of_room {s : State} {now i : Nat} {e : Event} {r : List Event} (hpend : s.logPend = e :: r) (hcur : s.logCur = some i)
    (hroom : s.logEnd i + e.records ≤ 2046)
    (hrate : (s.logTimes.filter (fun x => decide (now < x + 1000000000))).length + e.records ≤ 64) :
    s.logNext now = { s with
      flash := if 64 + 32 * s.logEnd i < 57344 ∧ 57344 ≤ 64 + 32 * (s.logEnd i + e.records) then
          ferase (fwrite s.flash (logSector i + 64 + 32 * s.logEnd i) e.bytes) (logSector (1 - i)) 0x10000
        else fwrite s.flash (logSector i + 64 + 32 * s.logEnd i) e.bytes
      logPend := r
      logTimes := s.logTimes.filter (fun x => decide (now < x + 1000000000)) ++ List.replicate e.records now } := by
  have hfits : ¬ 64 < (s.logTimes.filter (fun x => decide (now < x + 1000000000))).length + e.records := by omega
  have hsome : ∀ v : State, v = { s with logTimes := v.logTimes, logPend := r } → (if v.logCur.isNone then v.countStart else v) = v ∧
      v.logRoom e.records = (v, i) := fun v hv => by
    have hc : v.logCur = some i := by rw [hv]; exact hcur
    have hr : v.logEnd i + e.records ≤ 2046 := by rw [hv]; exact hroom
    refine ⟨by rw [hc]; rfl, ?_⟩
    unfold State.logRoom
    dsimp only
    rw [hc, Option.getD_some, if_pos hr]
  unfold State.logNext
  rw [hpend]
  dsimp only
  rw [if_neg hfits]
  unfold State.writeLog
  dsimp only
  obtain ⟨h1, h2⟩ := hsome { s with logTimes := s.logTimes.filter (fun x => decide (now < x + 1000000000)), logPend := r } rfl
  rw [h1, h2]
  rfl

/-- The erasure of the other sector leaves a record as it was written. -/
theorem record_survives (m : Memory) (i n : Nat) (e : Event) (hroom : n + e.records ≤ 2046) :
    fread (if 64 + 32 * n < 57344 ∧ 57344 ≤ 64 + 32 * (n + e.records) then
        ferase (fwrite m (logSector i + 64 + 32 * n) e.bytes) (logSector (1 - i)) 0x10000
      else fwrite m (logSector i + 64 + 32 * n) e.bytes) (logSector i + 64 + 32 * n) e.bytes.length = e.bytes := by
  have hlen := e.bytes_length
  split
  · rw [fread_ferase_outside, fread_fwrite]
    rw [logSector, logSector, hlen]
    omega
  · exact fread_fwrite ..

theorem flashLogWrite_spec (s : State) (now i : Nat) (e : Event) (r : List Event) (hpend : s.logPend = e :: r) (hup : s.start.steadingDown = false)
    (hcur : s.logCur = some i) (hroom : s.logEnd i + e.records ≤ 2046)
    (hrate : (s.logTimes.filter (fun x => decide (now < x + 1000000000))).length + e.records ≤ 64) :
    completes (.flashLogWrite now) s (fun t =>
        t.logPend = r ∧ fread t.flash (logSector i + 64 + 32 * s.logEnd i) e.bytes.length = e.bytes ∧
        t = { s with flash := t.flash, logPend := r, logTimes := t.logTimes, out := [], now := max s.now now }) := by
  have hb : ¬ (s.begin.at_ now).start.steadingDown = true := by
    rw [show (s.begin.at_ now).start.steadingDown = false from hup]
    decide
  have heq := logNext_of_room (s := s.begin.at_ now) (now := now) hpend hcur hroom hrate
  have hread := record_survives (s.begin.at_ now).flash i ((s.begin.at_ now).logEnd i) e hroom
  have hend : (s.begin.at_ now).logEnd i = s.logEnd i := rfl
  rw [hend] at heq hread
  generalize (if 64 + 32 * s.logEnd i < 57344 ∧ 57344 ≤ 64 + 32 * (s.logEnd i + e.records) then
    ferase (fwrite (s.begin.at_ now).flash (logSector i + 64 + 32 * s.logEnd i) e.bytes) (logSector (1 - i)) 0x10000
    else fwrite (s.begin.at_ now).flash (logSector i + 64 + 32 * s.logEnd i) e.bytes) = flash at heq hread
  exact completes_of_eq (f := opFlashLogWrite now) rfl ((if_neg hb).trans heq) ⟨rfl, hread, rfl⟩

theorem flashLogWrite_idles (s : State) (now : Nat) (h : s.logPend = [] ∨ s.start.steadingDown = true) : idlesAt (.flashLogWrite now) now s := by
  refine idlesAt_of_run (f := opFlashLogWrite now) rfl ?_
  unfold opFlashLogWrite
  rcases h with h | h
  · have hp : (s.begin.at_ now).logPend = [] := h
    have hn : (s.begin.at_ now).logNext now = s.begin.at_ now := by
      unfold State.logNext
      rw [hp]
    dsimp only
    rw [hn]
    exact ite_self _
  · exact if_pos h

/-! ## The statement -/

/-- Settles O50: the three commands, the end of programming and the log, each by its operation. -/
theorem recoveryCommandsVerifyAndProgram : Obligations.RecoveryCommandsVerifyAndProgram := by
  intro s
  refine ⟨fun by_ c hc h => ?_, fun by_ hmay hfree => ⟨recoveryVerify_spec hmay hfree, recoveryProgram_spec hmay hfree,
    recoveryProgram_refused hmay hfree, recoveryColdReset_spec hmay hfree⟩, imageProgrammingDone_spec s, fun h => ?_,
    flashLogWrite_spec s, flashLogWrite_idles s⟩
  · rcases hc with rfl | rfl | rfl
    · exact recovery_idles (exec_recoveryVerify by_ s) (fun _ => opRcvVerify_of_busy) h
    · exact recovery_idles (exec_recoveryProgram by_ s) (fun _ => opRcvProgram_of_busy) h
    · exact recovery_idles (exec_recoveryColdReset by_ s) (fun _ => opRcvCold_of_busy) h
  · have hb : s.begin.imgJob = none := h
    refine idles_of_run (f := opImageDone) rfl ?_
    unfold opImageDone
    rw [hb]

end Sys2Proof.Machine
end


section
/-! SUPPORT. What the work of the part leaves alone: the accesses, the stages, the flails, the streams and the events change their own
tables and registers (workRegs), and nothing of the tick, the start, the settings, the stores, the ring, or what a channel is in: its state and
its training. Works of a state and a later one
says so, and for each change of the state that the model names the lemma Works.<its name> says that the change keeps it. The lemmas stand in
the order in which one change uses another, and each follows the branches of its definition. -/

namespace Sys2Proof.Machine

set_option Elab.async false

/-- The registers that the work of the part writes, but for the status of a channel. -/
def tableRegs : List Reg := [
  R.shfAvail0, R.shfAvail1, R.shfAvail2, R.shfAvail3, R.shfAvail4, R.shfAvail5, R.shfAvail6, R.shfAvail7, R.shfAvail8, R.shfAvail9,
  R.shfAvail10, R.shfAvail11, R.shfAvail12, R.shfAvail13, R.shfAvail14, R.shfAvail15, R.celColl, R.celGat, R.celMesh, R.celSamp,
  R.celStat, R.celTick, R.celVec, R.chuCtl, R.chuHead, R.chuStat, R.d2dErr, R.fllEcc, R.fllHold, R.fllOps, R.fllPctl, R.fllStat,
  R.hstErr, R.hstEvqStat, R.hstQcnt, R.hstQstat, R.kvpDrop, R.kvpQuant, R.kvpStat, R.kvpWin, R.vccBkt, R.celBkt, R.stdBkt,
  R.lnkStat, R.mxcBubble, R.mxcFlags, R.mxcPasses, R.mxcStall, R.mxcStat, R.pfxCfg, R.pfxCtl, R.pfxFill, R.pfxIns, R.pfxLook,
  R.pfxMiss, R.rakStat, R.rstCell, R.rstStook, R.rstShf, R.shfCap, R.shfErrsum, R.shfStatus, R.stdBootRet, R.stdUe0, R.stdUe1,
  R.stdUe2, R.stdUe3, R.stdUeCnt, R.thrBlocks, R.thrEdge, R.thrPos, R.thrStat, R.vccErr, R.vccTrain]

/-- The registers that the work of the part writes. -/
def workRegs : List Reg := tableRegs ++ [R.vccStat]

theorem vccStat_of_mem_tableRegs {r : Reg} (hr : r ∈ tableRegs) : R.vccStat.off / 8 ≠ r.off / 8 := by
  have h : tableRegs.all (fun q => decide (R.vccStat.off / 8 ≠ q.off / 8)) = true := by decide
  exact of_decide_eq_true (List.all_eq_true.mp h r hr)

/-- A field keeps its value when another field of its register is written, whichever copy is meant. -/
theorem getF_putF_beside (s : State) {f g : Fld} (i j v : Nat) (hr : f.reg = g.reg) (hclk : g.reg.off ≠ R.clkDom.off)
    (h : g.lo + g.width ≤ f.lo ∨ f.lo + f.width ≤ g.lo) : (s.putF f i v).getF g j = s.getF g j := by
  by_cases hk : regKey g.reg j = regKey g.reg i
  · have hreg : ∀ t : State, t.reg g.reg j = t.reg g.reg i := by
      intro t
      rw [State.reg, State.reg, regReset, regReset, if_neg hclk, if_neg hclk, hk]
    rw [State.getF, State.getF, hreg, hreg]
    exact getF_putF_apart s f g i v hr h
  · rw [State.getF, State.getF]
    refine congrArg (fieldGet · g.lo g.width) ?_
    exact tget_tput_ne _ _ _ _ (fun h => hk (by rw [← h, hr]))

/-- s differs from s0 at most in the tables and the registers of the work. -/
structure Works (s0 s : State) : Prop where
  pending : s.pending = s0.pending
  staged : s.staged = s0.staged
  now : s.now = s0.now
  flash : s.flash = s0.flash
  otp : s.otp = s0.otp
  fuseCells : s.fuseCells = s0.fuseCells
  rcvBuf : s.rcvBuf = s0.rcvBuf
  tick : s.tick = s0.tick
  commit : s.commit = s0.commit
  autos : s.autos = s0.autos
  stagedAfter : s.stagedAfter = s0.stagedAfter
  resets : s.resets = s0.resets
  stackTbl : s.stackTbl = s0.stackTbl
  hubErr : s.hubErr = s0.hubErr
  hubSpares : s.hubSpares = s0.hubSpares
  ring : s.ring = s0.ring
  sqTails : s.sqTails = s0.sqTails
  cqHeads : s.cqHeads = s0.cqHeads
  ramps : s.ramps = s0.ramps
  start : s.start = s0.start
  logRing : s.logRing = s0.logRing
  logTimes : s.logTimes = s0.logTimes
  rakeAt : s.rakeAt = s0.rakeAt
  rakeDue : s.rakeDue = s0.rakeDue
  sensors : s.sensors = s0.sensors
  heat : s.heat = s0.heat
  keep : s.keep = s0.keep
  seqStores : s.seqStores = s0.seqStores
  repairMark : s.repairMark = s0.repairMark
  otpJob : s.otpJob = s0.otpJob
  imgJob : s.imgJob = s0.imgJob
  attBody : s.attBody = s0.attBody
  report : s.report = s0.report
  attZero : s.attZero = s0.attZero
  jtagReset : s.jtagReset = s0.jtagReset
  minSvn : s.minSvn = s0.minSvn
  flagsActive : s.flagsActive = s0.flagsActive
  svn : s.svn = s0.svn
  snap : s.snap = s0.snap
  trains : ∀ c, (s.chan c).retrainStart = (s0.chan c).retrainStart
  chanState : ∀ c, s.chanState c = s0.chanState c
  regs : regsIn workRegs s0 s

theorem Works.same {s : State} : Works s s := by
  constructor
  case regs => exact regsIn_refl workRegs s
  case trains => exact fun _ => rfl
  case chanState => exact fun _ => rfl
  all_goals exact Eq.refl _

section
variable {s0 : State}

/-- Another state with the same registers and the same fields outside the work. -/
theorem Works.upd {s : State} (hs : Works s0 s)
    {accWait} {arrivals} {cells} {chutes} {ctl} {devMem} {fresh} {fullBuckets} {halfAsked} {heldCq} {hostMem} {i3c} {links}
    {loftErr} {logPend} {msix} {out} {ports} {stdBuf} {ueTick} {wroteCq} : Works s0 { s with
      accWait, arrivals, cells, chutes, ctl, devMem, fresh, fullBuckets, halfAsked, heldCq, hostMem, i3c, links, loftErr,
      logPend, msix, out, ports, stdBuf, ueTick, wroteCq } :=
  ⟨hs.pending, hs.staged, hs.now, hs.flash, hs.otp, hs.fuseCells, hs.rcvBuf, hs.tick, hs.commit, hs.autos, hs.stagedAfter,
    hs.resets, hs.stackTbl, hs.hubErr, hs.hubSpares, hs.ring, hs.sqTails, hs.cqHeads, hs.ramps, hs.start, hs.logRing, hs.logTimes,
    hs.rakeAt, hs.rakeDue, hs.sensors, hs.heat, hs.keep, hs.seqStores, hs.repairMark, hs.otpJob, hs.imgJob, hs.attBody, hs.report,
    hs.attZero, hs.jtagReset, hs.minSvn, hs.flagsActive, hs.svn, hs.snap, hs.trains, hs.chanState, hs.regs⟩

theorem Works.setReg {s : State} (hs : Works s0 s) {r : Reg} {inst : Nat} {w : Word} (hr : r ∈ tableRegs := by decide) :
    Works s0 (s.setReg r inst w) :=
  ⟨hs.pending, hs.staged, hs.now, hs.flash, hs.otp, hs.fuseCells, hs.rcvBuf, hs.tick, hs.commit, hs.autos, hs.stagedAfter,
    hs.resets, hs.stackTbl, hs.hubErr, hs.hubSpares, hs.ring, hs.sqTails, hs.cqHeads, hs.ramps, hs.start, hs.logRing, hs.logTimes,
    hs.rakeAt, hs.rakeDue, hs.sensors, hs.heat, hs.keep, hs.seqStores, hs.repairMark, hs.otpJob, hs.imgJob, hs.attBody, hs.report,
    hs.attZero, hs.jtagReset, hs.minSvn, hs.flagsActive, hs.svn, hs.snap, hs.trains,
    fun c => (getF_of_regsIn (regsIn_setReg (D := [r]) s r inst w List.mem_cons_self)
      (fun q hq => by
        rw [List.mem_singleton.mp hq]
        exact vccStat_of_mem_tableRegs hr) c).trans (hs.chanState c),
    regsIn_trans hs.regs (regsIn_setReg s r inst w (List.mem_append_left _ hr))⟩

theorem Works.putF {s : State} (hs : Works s0 s) {f : Fld} {inst v : Nat} (hr : f.reg ∈ tableRegs := by decide) :
    Works s0 (s.putF f inst v) := .setReg hs hr

/-- A field of a channel's status that is not its state. -/
theorem Works.putStatus {s : State} (hs : Works s0 s) {f : Fld} {inst v : Nat} (hf : f.reg = R.vccStat := by rfl)
    (ha : F.vccStat_state.lo + F.vccStat_state.width ≤ f.lo ∨ f.lo + f.width ≤ F.vccStat_state.lo := by decide) : Works s0 (s.putF f inst v) :=
  ⟨hs.pending, hs.staged, hs.now, hs.flash, hs.otp, hs.fuseCells, hs.rcvBuf, hs.tick, hs.commit, hs.autos, hs.stagedAfter,
    hs.resets, hs.stackTbl, hs.hubErr, hs.hubSpares, hs.ring, hs.sqTails, hs.cqHeads, hs.ramps, hs.start, hs.logRing, hs.logTimes,
    hs.rakeAt, hs.rakeDue, hs.sensors, hs.heat, hs.keep, hs.seqStores, hs.repairMark, hs.otpJob, hs.imgJob, hs.attBody, hs.report,
    hs.attZero, hs.jtagReset, hs.minSvn, hs.flagsActive, hs.svn, hs.snap, hs.trains,
    fun c => (getF_putF_beside s inst c v hf (by decide) ha).trans (hs.chanState c),
    regsIn_trans hs.regs (regsIn_putF s f inst v (by rw [hf]; decide))⟩

theorem Works.bump {s : State} (hs : Works s0 s) {f : Fld} {inst n : Nat} (hr : f.reg ∈ tableRegs := by decide) :
    Works s0 (s.bump f inst n) := .putF hs hr

/-! ### Ways to combine changes -/

theorem Works.ite {c : Prop} [Decidable c] {s t : State} (hs : Works s0 s) (ht : Works s0 t) : Works s0 (if c then s else t) := by
  split
  · exact hs
  · exact ht

theorem Works.ite_fst {α : Type} {c : Prop} [Decidable c] {p q : State × α} (hp : Works s0 p.1) (hq : Works s0 q.1) :
    Works s0 (if c then p else q).1 := by
  split
  · exact hp
  · exact hq

theorem Works.of_eq {α : Type} {p : State × α} {s : State} {x : α} (h : p = (s, x)) (hp : Works s0 p.1) : Works s0 s := by
  rw [h] at hp
  exact hp

theorem Works.of_mk_eq {α : Type} {s t : State} {x y : α} (h : (s, x) = (t, y)) (hs : Works s0 s) : Works s0 t :=
  (Prod.mk.inj h).1 ▸ hs

theorem Works.foldl {α : Type} {f : State → α → State} {l : List α} {s : State} (hf : ∀ s a, Works s0 s → Works s0 (f s a)) (hs : Works s0 s) :
    Works s0 (l.foldl f s) := by
  induction l generalizing s with
  | nil => exact hs
  | cons a r ih => exact ih (hf s a hs)

theorem Works.foldl_fst {α β : Type} {f : State × β → α → State × β} {l : List α} {p : State × β}
    (hf : ∀ p a, Works s0 p.1 → Works s0 (f p a).1) (hp : Works s0 p.1) : Works s0 (l.foldl f p).1 := by
  induction l generalizing p with
  | nil => exact hp
  | cons a r ih => exact ih (hf p a hp)

theorem Works.iterate {f : State → State} (n : Nat) {s : State} (hf : ∀ s, Works s0 s → Works s0 (f s)) (hs : Works s0 s) :
    Works s0 (iterate f n s) := by
  induction n generalizing s with
  | zero => exact hs
  | succ n ih => exact ih (hf s hs)

/-! ### The changes -/

theorem Works.reserve {s : State} (hs : Works s0 s) {q n : Nat} : Works s0 (s.reserve q n) := by
  unfold State.reserve
  exact .putF hs

theorem Works.send {s : State} (hs : Works s0 s) {o : Output} : Works s0 (s.send o) := by
  unfold State.send
  exact .upd hs

theorem Works.signal {s : State} (hs : Works s0 s) {fn vec : Nat} : Works s0 (s.signal fn vec) := by
  unfold State.signal
  exact .ite (.upd hs) (.send hs)

theorem Works.signalCq {s : State} (hs : Works s0 s) {q : Nat} : Works s0 (s.signalCq q) := by
  unfold State.signalCq
  exact .signal (.upd hs)

theorem Works.unreserve {s : State} (hs : Works s0 s) {q n : Nat} : Works s0 (s.unreserve q n) := by
  unfold State.unreserve
  exact .putF hs

theorem Works.putCq {s : State} (hs : Works s0 s) {q : Nat} {b : List Byte} : Works s0 (s.putCq q b) := by
  unfold State.putCq
  extract_lets -merge +onlyGivenNames s1 t ph b s2 t' s3
  have h1 : Works s0 s1 := .unreserve hs
  have h2 : Works s0 s2 := .upd h1
  have h3 : Works s0 s3 := .putF h2
  exact .ite (.putF h3) h3

theorem Works.writeCq {s : State} (hs : Works s0 s) {q : Nat} {e : Cqe} : Works s0 (s.writeCq q e) := by
  unfold State.writeCq
  exact .ite (.upd hs) (.ite (.putCq hs) (.unreserve hs))

theorem Works.complete {s : State} (hs : Works s0 s) {c : CmdId} {status : Nat} {e : Cqe} : Works s0 (s.complete c status e) := by
  unfold State.complete
  exact .writeCq hs

theorem Works.countAddr {s : State} (hs : Works s0 s) {a n : Nat} : Works s0 (s.countAddr a n) := by
  unfold State.countAddr
  refine .ite ?_ ?_
  · exact .ite (.bump hs) hs
  · split
    · exact .bump hs
    · exact hs

theorem Works.countWrapped {s : State} (hs : Works s0 s) {tower : Option Nat} {a n : Nat} : Works s0 (s.countWrapped tower a n) := by
  unfold State.countWrapped
  exact .foldl (fun _ _ h1 => .bump h1) hs

theorem Works.setChan {s : State} (hs : Works s0 s) {c : Nat} {x : Chan} (hx : x.retrainStart = (s.chan c).retrainStart := by rfl) :
    Works s0 (s.setChan c x) :=
  ⟨hs.pending, hs.staged, hs.now, hs.flash, hs.otp, hs.fuseCells, hs.rcvBuf, hs.tick, hs.commit, hs.autos, hs.stagedAfter,
    hs.resets, hs.stackTbl, hs.hubErr, hs.hubSpares, hs.ring, hs.sqTails, hs.cqHeads, hs.ramps, hs.start, hs.logRing, hs.logTimes,
    hs.rakeAt, hs.rakeDue, hs.sensors, hs.heat, hs.keep, hs.seqStores, hs.repairMark, hs.otpJob, hs.imgJob, hs.attBody, hs.report,
    hs.attZero, hs.jtagReset, hs.minSvn, hs.flagsActive, hs.svn, hs.snap,
    fun d => by
      refine Eq.trans ?_ (hs.trains d)
      by_cases h : c = d
      · subst h
        rw [chan_setChan_same]
        exact hx
      · rw [chan_setChan_ne s x h],
    hs.chanState, hs.regs⟩

theorem Works.modChan {s : State} (hs : Works s0 s) {c : Nat} {f : Chan → Chan}
    (hf : ∀ x, (f x).retrainStart = x.retrainStart := by exact fun _ => rfl) : Works s0 (s.modChan c f) := .setChan hs (hf _)

theorem Works.queueScrub {s : State} (hs : Works s0 s) {c bank row : Nat} : Works s0 (s.queueScrub c bank row) := by
  unfold State.queueScrub
  exact .ite hs (.ite (.bump hs) (.modChan hs))

theorem Works.urgentRetrain {s : State} (hs : Works s0 s) {c : Nat} : Works s0 (s.urgentRetrain c) := by
  unfold State.urgentRetrain
  exact .putF (.putF (.modChan hs))

theorem Works.halfReached {s : State} (hs : Works s0 s) {c lv : Nat} : Works s0 (s.halfReached c lv) := by
  unfold State.halfReached
  exact .ite (.urgentRetrain (.upd hs)) hs

theorem Works.errsum {s : State} (hs : Works s0 s) {sheafs : List Nat} {b : Nat} : Works s0 (s.errsum sheafs b) := by
  unfold State.errsum
  exact .foldl (fun _ _ h1 => .putF h1) hs

theorem Works.toHostQueue {s : State} (hs : Works s0 s) {e : Event} : Works s0 (s.toHostQueue e) := by
  unfold State.toHostQueue
  exact .ite hs (.ite (.bump hs) (.foldl (fun _ _ h1 => .putF (.upd h1)) hs))

theorem Works.alert {s : State} (hs : Works s0 s) {cls : Nat} {bytes : List Byte} : Works s0 (s.alert cls bytes) := by
  unfold State.alert
  exact .send (.upd hs)

theorem Works.steadingTakes {s : State} (hs : Works s0 s) {e : Event} : Works s0 (s.steadingTakes e) := by
  unfold State.steadingTakes
  split
  · extract_lets -merge +onlyGivenNames s1 s2
    have h1 : Works s0 s1 := .ite (.signal hs) hs
    have h2 : Works s0 s2 := .ite (.foldl (fun _ _ h1 => .alert h1) h1) h1
    exact .ite (.ite (.bump h2) (.upd h2)) h2

theorem Works.raise {s : State} (hs : Works s0 s) {code cls idx : Nat} {arg : Word} {payload : (List Byte)} : Works s0 (s.raise code cls
    idx arg payload) := by
  unfold State.raise
  extract_lets -merge +onlyGivenNames _ s1
  have h1 : Works s0 s1 := .toHostQueue hs
  exact .ite (.upd h1) (.steadingTakes h1)

theorem Works.corrected {s : State} (hs : Works s0 s) {b : BucketId} : Works s0 (s.corrected b) := by
  have hcorrected : b.corrected.reg ∈ tableRegs := by cases b <;> simp only [BucketId.corrected] <;> decide
  have hlevel : b.level.reg ∈ tableRegs := by cases b <;> simp only [BucketId.level] <;> decide
  have hoverflows : b.overflows.reg ∈ tableRegs := by cases b <;> simp only [BucketId.overflows] <;> decide
  unfold State.corrected
  extract_lets -merge +onlyGivenNames _ _ s1 _
  have h1 : Works s0 s1 := hs.bump hcorrected
  refine .ite ?_ ?_
  · exact h1
  · extract_lets -merge +onlyGivenNames s2 s3
    have h2 : Works s0 s2 := h1.putF hlevel
    have h3 : Works s0 s3 := (by
      dsimp only [s3]
      split
      · exact .halfReached h2
      · exact h2)
    refine .ite ?_ ?_
    · extract_lets -merge +onlyGivenNames s4 s5 s6
      have h4 : Works s0 s4 := .upd h3
      have h5 : Works s0 s5 := h4.bump hoverflows
      have h6 : Works s0 s6 := (by
        dsimp only [s6]
        split
        · exact h5
        · exact .errsum h5)
      exact .raise h6
    · exact h3

theorem Works.softWord {s : State} (hs : Works s0 s) {w : Nat} : Works s0 (s.softWord w) := by
  unfold State.softWord
  exact .queueScrub (.corrected hs)

theorem Works.setOwed {s : State} (hs : Works s0 s) {c b n : Nat} : Works s0 (s.setOwed c b n) := by
  unfold State.setOwed
  exact .putStatus (.modChan hs)

theorem Works.forceRefresh {s : State} (hs : Works s0 s) {c b : Nat} : Works s0 (s.forceRefresh c b) := by
  unfold State.forceRefresh
  exact .ite hs (.bump (.setOwed hs))

theorem Works.forceRefreshes {s : State} (hs : Works s0 s) {a n : Nat} : Works s0 (s.forceRefreshes a n) := by
  unfold State.forceRefreshes
  exact .ite (.foldl (fun _ _ h1 => .forceRefresh h1) hs) hs

theorem Works.showUe {s : State} (hs : Works s0 s) {b : List Byte} : Works s0 (s.showUe b) := by
  unfold State.showUe
  exact .putF (.putF (.putF (.putF hs)))

theorem Works.sendRecord {s : State} (hs : Works s0 s) {r : UeRec} : Works s0 (s.sendRecord r) := by
  unfold State.sendRecord
  exact .raise hs

theorem Works.ueRecord {s : State} (hs : Works s0 s) {r : UeRec} : Works s0 (s.ueRecord r) := by
  unfold State.ueRecord
  extract_lets -merge +onlyGivenNames _ s1
  have h1 : Works s0 s1 := .ite (.errsum hs) hs
  refine .ite ?_ ?_
  · extract_lets -merge +onlyGivenNames _ s2
    have h2 : Works s0 s2 := .upd h1
    split
    · exact .ite (.showUe h2) h2
    · exact h2
  · extract_lets -merge +onlyGivenNames s2 s3
    have h2 : Works s0 s2 := .showUe (.bump h1)
    have h3 : Works s0 s3 := .ite (.bump h2) h2
    exact .ite (.upd h3) (.sendRecord h3)

theorem Works.readImage {s : State} (hs : Works s0 s) {a n : Nat} : Works s0 (s.readImage a n).1 := by
  unfold State.readImage
  exact .ite_fst hs (.ite_fst (.countAddr hs) (.ite_fst (.countWrapped hs) (.foldl (fun _ _ h1 => .ueRecord h1) (.foldl (fun _ _ h1
    => .softWord h1) (.forceRefreshes hs)))))

theorem Works.setProg {s : State} (hs : Works s0 s) {j : Nat} {p : Program} : Works s0 (s.setProg j p) := by
  unfold State.setProg
  exact .upd hs

theorem Works.setLink {s : State} (hs : Works s0 s) {l : Nat} {x : Link} : Works s0 (s.setLink l x) := by
  unfold State.setLink
  exact .upd hs

theorem Works.modLink {s : State} (hs : Works s0 s) {l : Nat} {f : Link → Link} : Works s0 (s.modLink l f) := by
  unfold State.modLink
  exact .setLink hs

theorem Works.checkNarrowed {s : State} (hs : Works s0 s) : Works s0 s.checkNarrowed := by
  unfold State.checkNarrowed
  exact .foldl (fun _ _ h1 => .ite (.modLink h1) h1) hs

theorem Works.loadNow {s : State} (hs : Works s0 s) {e : SubEntry} {c : CmdId} {wait : Bool} : Works s0 (s.loadNow e c wait) := by
  unfold State.loadNow
  extract_lets -merge +onlyGivenNames ja jn sa sn finish
  have hfin : ∀ {t st q}, Works s0 t → Works s0 (finish t st q) := fun h => .signalCq (.complete h)
  refine .ite (hfin hs) ?_
  split
  · exact hfin hs
  · refine .ite (hfin hs) (.ite (.upd hs) ?_)
    have h2 : Works s0 (s.readImage ja jn).1 := .readImage hs
    generalize s.readImage ja jn = p2 at h2 ⊢
    obtain ⟨s2, ok⟩ := p2
    dsimp only at h2 ⊢
    have h3 : Works s0 (s2.readImage sa sn).1 := .readImage h2
    generalize s2.readImage sa sn = p3 at h3 ⊢
    obtain ⟨s3, ok2⟩ := p3
    refine .ite (hfin h3) ?_
    extract_lets -merge +onlyGivenNames jb sb
    split
    · exact hfin h3
    · exact hfin (.checkNarrowed (.setProg h3))

theorem Works.setStream {s : State} (hs : Works s0 s) {i : Nat} {x : Stream} : Works s0 (s.setStream i x) := by
  unfold State.setStream
  exact .upd hs

theorem Works.modStream {s : State} (hs : Works s0 s) {i : Nat} {f : Stream → Stream} : Works s0 (s.modStream i f) := by
  unfold State.modStream
  exact .setStream hs

theorem Works.putHead {s : State} (hs : Works s0 s) {ch : Nat} {at_ : Nat × Bool} : Works s0 (s.putHead ch at_) := by
  unfold State.putHead
  exact .putF (.putF hs)

theorem Works.setChute {s : State} (hs : Works s0 s) {ch : Nat} {x : ChuteSt} : Works s0 (s.setChute ch x) := by
  unfold State.setChute
  exact .upd hs

theorem Works.chuteStop {s : State} (hs : Works s0 s) {ch status : Nat} : Works s0 (s.chuteStop ch status) := by
  unfold State.chuteStop
  exact .putF (.putF (.putF (.setChute (.putHead hs))))

theorem Works.flipWord {s : State} (hs : Works s0 s) {w : Nat} {flips : BitVec 64} : Works s0 (s.flipWord w flips) := by
  unfold State.flipWord
  exact .upd hs

theorem Works.findErrs {s : State} (hs : Works s0 s) {found : List WordErr} : Works s0 (s.findErrs found) := by
  unfold State.findErrs
  refine .foldl (fun s e h1 => ?_) hs
  extract_lets -merge +onlyGivenNames s2
  have h2 : Works s0 s2 := by
    unfold s2
    split
    · exact .flipWord h1
    · exact h1
  exact .upd h2

theorem Works.chuteSignal {s : State} (hs : Works s0 s) {ch : Nat} {irq : Bool} : Works s0 (s.chuteSignal ch irq) := by
  unfold State.chuteSignal
  exact .ite (.signal hs) hs

theorem Works.chuteResulted {s : State} (hs : Works s0 s) {a : WaitAcc} : Works s0 (s.chuteResulted a) := by
  unfold State.chuteResulted
  split
  · exact .chuteSignal hs
  · exact hs

theorem Works.respond {s : State} (hs : Works s0 s) {r : Reader} {status : Nat} {bs : List Byte} : Works s0 (s.respond r status bs) := by
  unfold State.respond
  exact .send hs

theorem Works.modProg {s : State} (hs : Works s0 s) {j : Nat} {f : Program → Program} : Works s0 (s.modProg j f) := by
  unfold State.modProg
  exact .setProg hs

theorem Works.invalidate {s : State} (hs : Works s0 s) {j : Nat} : Works s0 (s.invalidate j) := by
  unfold State.invalidate
  exact .ite hs (.modProg hs)

theorem Works.invalidateCell {s : State} (hs : Works s0 s) {c : Nat} : Works s0 (s.invalidateCell c) := by
  unfold State.invalidateCell
  split
  · exact hs
  · exact .invalidate hs

theorem Works.dropPass {s : State} (hs : Works s0 s) {c : Nat} : Works s0 (s.dropPass c) := by
  unfold State.dropPass
  exact .ite (.putF (.bump hs)) hs

theorem Works.portEnd {s : State} (hs : Works s0 s) {c status : Nat} : Works s0 (s.portEnd c status) := by
  unfold State.portEnd
  exact .putF (.putF hs)

theorem Works.failReader {s : State} (hs : Works s0 s) {r : Reader} {status : Nat} : Works s0 (s.failReader r status) := by
  unfold State.failReader
  extract_lets -merge +onlyGivenNames s1
  have h1 : Works s0 s1 := .respond hs
  split
  · exact .invalidateCell (.dropPass h1)
  · exact .invalidateCell h1
  · exact .ite (.chuteStop h1) h1
  · split
    · exact .portEnd h1
    · exact h1
  · exact h1

theorem Works.failAcc {s : State} (hs : Works s0 s) {a : WaitAcc} {status : Nat} : Works s0 (s.failAcc a status) := by
  unfold State.failAcc
  split
  · exact .ite (.chuteResulted hs) (.failReader hs)
  · exact .portEnd hs
  · exact .ite (.raise (.bump hs)) (.send (.bump hs))

theorem Works.wireLost {s : State} (hs : Works s0 s) {c w : Nat} : Works s0 (s.wireLost c w) := by
  unfold State.wireLost
  exact .ite (.setChan hs) (.ite (.setChan hs) (.ite (.setChan hs) (.ite (.setChan hs) (.setChan hs))))

theorem Works.failWire {s : State} (hs : Works s0 s) {c w : Nat} : Works s0 (s.failWire c w) := by
  unfold State.failWire
  exact .ite hs (.ite (.foldl (fun _ _ h1 => .wireLost h1) (.setChan (.modChan (.bump hs)))) (.wireLost (.modChan (.bump hs))))

theorem Works.blameWire {s : State} (hs : Works s0 s) {c w : Nat} : Works s0 (s.blameWire c w) := by
  unfold State.blameWire
  exact .ite hs (.ite (.failWire (.setChan hs)) (.setChan hs))

theorem Works.meetErrs {s : State} (hs : Works s0 s) {found : List WordErr} : Works s0 (s.meetErrs found) := by
  unfold State.meetErrs
  exact .foldl (fun _ _ h1 => (by
    split
    · exact .blameWire (.softWord h1)
    · exact .findErrs h1)) hs

theorem Works.answerAcc {s : State} (hs : Works s0 s) {a : WaitAcc} {bs : List Byte} : Works s0 (s.answerAcc a bs) := by
  unfold State.answerAcc
  split
  · exact .ite (.chuteResulted hs) (.respond hs)
  · exact .portEnd hs
  · exact .ite hs (.send hs)

theorem Works.writeDev {s : State} (hs : Works s0 s) {a : Nat} {bs : List Byte} : Works s0 (s.writeDev a bs) := by
  unfold State.writeDev
  extract_lets -merge +onlyGivenNames parts whole part mem s1 s2
  have h1 : Works s0 s1 := .upd hs
  have h2 : Works s0 s2 := .upd h1
  exact .foldl (fun _ _ h1 => .modChan h1) h2

theorem Works.badPlace {s : State} (hs : Works s0 s) {j : Nat} {b : BadPlace} : Works s0 (s.badPlace j b).1 := by
  unfold State.badPlace
  exact .invalidate (.setProg hs)

theorem Works.setPoolSlot {s : State} (hs : Works s0 s) {k : Nat} {x : PageSlot} : Works s0 (s.setPoolSlot k x) := by
  unfold State.setPoolSlot
  exact .upd hs

theorem Works.reachWords {s : State} (hs : Works s0 s) {ws : List Nat} : Works s0 (s.reachWords ws).1 := by
  unfold State.reachWords
  extract_lets -merge +onlyGivenNames _
  split
  · exact .bump hs
  · exact .ite_fst hs (.ite_fst (.foldl (fun _ _ h1 => .bump h1) hs) (.foldl (fun _ _ h1 => .forceRefresh h1) hs))

theorem Works.checkWords {s : State} (hs : Works s0 s) {j : Nat} {ws : List Nat} : Works s0 (s.checkWords j ws).1 := by
  unfold State.checkWords
  exact .foldl (fun _ _ h1 => .ueRecord h1) (.foldl (fun _ _ h1 => .softWord h1) hs)

theorem Works.touchWords {s : State} (hs : Works s0 s) {j : Nat} {ws needs : List Nat} : Works s0 (s.touchWords j ws needs).1 := by
  unfold State.touchWords
  split
  · rename_i s1 heq
    have h1 : Works s0 s1 := .of_eq heq (.reachWords hs)
    exact h1
  · rename_i s1 heq
    have h1 : Works s0 s1 := .of_eq heq (.reachWords hs)
    exact .checkWords h1

theorem Works.pfxWrite {s : State} (hs : Works s0 s) {j o : Nat} {bs : List Byte} : Works s0 (s.pfxWrite j o bs) := by
  unfold State.pfxWrite
  extract_lets -merge +onlyGivenNames p at_ parts whole
  have h1 : Works s0 (s.touchWords j at_.eraseDups parts).1 := .touchWords hs
  generalize s.touchWords j at_.eraseDups parts = q at h1 ⊢
  obtain ⟨s1, ok⟩ := q
  exact .ite h1 (.foldl (fun _ _ h1 => .modChan h1) (.upd h1))

theorem Works.touchRead {s : State} (hs : Works s0 s) {j a n : Nat} : Works s0 (s.touchRead j a n).1 := by
  unfold State.touchRead
  exact .touchWords hs

theorem Works.readRefs {s : State} (hs : Works s0 s) {j : Nat} {e : KvEntry} {page : Nat} : Works s0 (s.readRefs j e page).1 := by
  unfold State.readRefs
  split
  · rename_i s1 _ heq
    have h1 : Works s0 s1 := .of_eq heq (.touchRead hs)
    exact h1

theorem Works.freeSlot {s : State} (hs : Works s0 s) {j : Nat} {l : ListId} {page re : Nat} : Works s0 (s.freeSlot j l page re) := by
  unfold State.freeSlot
  exact .ite (.bump (.setPoolSlot hs)) hs

theorem Works.dropPfx {s : State} (hs : Works s0 s) {p : PfxEntry} {re : Nat} : Works s0 (s.dropPfx p re) := by
  unfold State.dropPfx
  extract_lets -merge +onlyGivenNames _ s1 s2 s3
  have h1 : Works s0 s1 := .upd hs
  have h2 : Works s0 s2 := .pfxWrite h1
  have h3 : Works s0 s3 := .putF h2
  refine .foldl (fun _ _ h1 => ?_) h3
  split
  · exact .freeSlot (.of_eq ‹_› (.readRefs h1))
  · exact .of_eq ‹_› (.readRefs h1)

theorem Works.retireSlots {s : State} (hs : Works s0 s) {row : Nat} : Works s0 (s.retireSlots row).1 := by
  unfold State.retireSlots
  exact .foldl_fst (fun _ _ h1 => .foldl_fst (fun _ _ h2 => .foldl_fst (fun _ _ h3 => .ite_fst (.setPoolSlot h3) (.foldl (fun _ _ h4
    => (by
    split
    · exact .dropPfx h4
    · exact h4)) (.foldl (fun _ _ h4 => .ite (.modStream h4) h4) (.setPoolSlot h3)))) h2) h1) hs

theorem Works.retireRow {s : State} (hs : Works s0 s) {c bank row : Nat} : Works s0 (s.retireRow c bank row).1 := by
  unfold State.retireRow
  split
  · rename_i s1 _ heq
    have h1 : Works s0 s1 := .of_eq heq (.retireSlots hs)
    extract_lets -merge +onlyGivenNames _ _ _ _ _ _
    split
    · rename_i s2 _ heq
      have h2 : Works s0 s2 := .of_eq heq (.ite_fst h1 (.ite_fst (.raise (.modChan h1)) (.raise (.modChan h1))))
      exact h2

theorem Works.stageUe {s : State} (hs : Works s0 s) {reader c w : Nat} : Works s0 (s.stageUe reader c w) := by
  unfold State.stageUe
  extract_lets -merge +onlyGivenNames _ _
  split
  · exact .ueRecord hs
  · split
    · rename_i s1 _ heq
      have h1 : Works s0 s1 := .of_eq heq (.badPlace hs)
      split
      · rename_i s2 _ heq
        have h2 : Works s0 s2 := .of_eq heq (.ite_fst (.retireRow h1) h1)
        exact .ueRecord h2

theorem Works.metWord {s : State} (hs : Works s0 s) {r : Reader} {w : Nat} : Works s0 (s.metWord r w) := by
  unfold State.metWord
  split
  · exact .stageUe hs
  · exact .ueRecord hs

theorem Works.serve {s : State} (hs : Works s0 s) {a : WaitAcc} : Works s0 (s.serve a) := by
  unfold State.serve
  extract_lets -merge +onlyGivenNames _
  refine .ite ?_ ?_
  · exact .failAcc (.countAddr hs)
  · refine .ite ?_ ?_
    · exact .failAcc (.countWrapped hs)
    · extract_lets -merge +onlyGivenNames s1 _ s2
      have h1 : Works s0 s1 := .forceRefreshes (.meetErrs hs)
      have h2 : Works s0 s2 := .foldl (fun _ _ h1 => .softWord h1) h1
      split
      · exact .answerAcc (.writeDev h2)
      · exact .answerAcc h2
      · exact .failAcc (.foldl (fun _ _ h1 => .metWord h1) h2)

theorem Works.accessDev {s : State} (hs : Works s0 s) {a : WaitAcc} : Works s0 (s.accessDev a) := by
  unfold State.accessDev
  exact .ite (.upd hs) (.serve hs)

theorem Works.endFeed {s : State} (hs : Works s0 s) {i : Nat} {f : Feed} {status : Nat} : Works s0 (s.endFeed i f status) := by
  unfold State.endFeed
  exact .ite (.unreserve hs) (.complete hs)

theorem Works.dropFeeds {s : State} (hs : Works s0 s) {i : Nat} : Works s0 (s.dropFeeds i) := by
  unfold State.dropFeeds
  exact .modStream (.foldl (fun _ _ h1 => .endFeed h1) hs)

theorem Works.dropTokenReservation {s : State} (hs : Works s0 s) {i : Nat} : Works s0 (s.dropTokenReservation i) := by
  unfold State.dropTokenReservation
  exact .ite (.modStream (.unreserve hs)) hs

theorem Works.streamEntry {s : State} (hs : Works s0 s) {i : Nat} {e : Cqe} : Works s0 (s.streamEntry i e) := by
  unfold State.streamEntry
  exact .ite (.unreserve hs) (.writeCq hs)

theorem Works.endStream {s : State} (hs : Works s0 s) {i status : Nat} : Works s0 (s.endStream i status) := by
  unfold State.endStream
  exact .ite hs (.modStream (.ite (.streamEntry (.dropTokenReservation hs)) (.dropTokenReservation hs)))

theorem Works.failStream {s : State} (hs : Works s0 s) {i status : Nat} {signalNow : Bool} : Works s0 (s.failStream i status signalNow) := by
  unfold State.failStream
  exact .ite hs (.ite (.signalCq (.dropFeeds (.endStream hs))) (.dropFeeds (.endStream hs)))

theorem Works.rebaseAll {s : State} (hs : Works s0 s) {old new : Nat} : Works s0 (s.rebaseAll old new) := by
  unfold State.rebaseAll
  exact .upd hs

theorem Works.sendRecords {s : State} (hs : Works s0 s) : Works s0 s.sendRecords := by
  unfold State.sendRecords
  exact .foldl (fun _ _ h1 => .sendRecord h1) (.upd hs)

theorem Works.recordIdle {s : State} (hs : Works s0 s) {j c : Nat} {t : Stage} : Works s0 (s.recordIdle j c t) := by
  unfold State.recordIdle
  exact .ite hs (.putF (.putF (.putF hs)))

theorem Works.closeSheaf {s : State} (hs : Works s0 s) {i : Nat} : Works s0 (s.closeSheaf i) := by
  unfold State.closeSheaf
  exact .putF (.putF (.putF (.putF (.putF (.putF hs)))))

theorem Works.stageRead {s : State} (hs : Works s0 s) {c a n : Nat} : Works s0 (s.stageRead c a n).1 := by
  unfold State.stageRead
  refine .ite_fst ?_ ?_
  · exact hs
  · refine .ite_fst ?_ ?_
    · exact .invalidateCell (.countAddr hs)
    · refine .ite_fst ?_ ?_
      · exact .invalidateCell (.countWrapped hs)
      · extract_lets -merge +onlyGivenNames s1
        have h1 : Works s0 s1 := .foldl (fun _ _ h1 => .softWord h1) (.forceRefreshes hs)
        split
        · exact h1
        · exact .foldl (fun _ _ h1 => .stageUe h1) h1

theorem Works.walkEntry {s : State} (hs : Works s0 s) {c : Nat} {l : ListId} {slot block : Nat} : Works s0 (s.walkEntry c l slot block).1
    := by
  unfold State.walkEntry
  split
  · rename_i s1 heq
    have h1 : Works s0 s1 := .of_eq heq (.stageRead hs)
    exact h1
  · rename_i s1 _ heq
    have h1 : Works s0 s1 := .of_eq heq (.stageRead hs)
    exact h1

theorem Works.walkScores {s : State} (hs : Works s0 s) {c : Nat} {l : ListId} {slot copy block : Nat} : Works s0 (s.walkScores c l slot
    copy block).1 := by
  unfold State.walkScores
  split
  · rename_i s1 _ heq
    have h1 : Works s0 s1 := .of_eq heq (.stageRead hs)
    exact h1

theorem Works.stageWrite {s : State} (hs : Works s0 s) {c a : Nat} {bs : List Byte} : Works s0 (s.stageWrite c a bs) := by
  unfold State.stageWrite
  refine .ite ?_ ?_
  · exact hs
  · refine .ite ?_ ?_
    · exact .invalidateCell (.countAddr hs)
    · refine .ite ?_ ?_
      · exact .invalidateCell (.countWrapped hs)
      · extract_lets -merge +onlyGivenNames _ s1 s2
        have h1 : Works s0 s1 := .forceRefreshes hs
        have h2 : Works s0 s2 := .foldl (fun _ _ h1 => .softWord h1) h1
        split
        · exact .writeDev h2
        · exact .foldl (fun _ _ h1 => .stageUe h1) h2

theorem Works.addIncs {s : State} (hs : Works s0 s) {j : Nat} {l : ListId} {x : Nat × Nat × List WinInc} : Works s0 (s.addIncs j l x) := by
  unfold State.addIncs
  split
  · extract_lets -merge +onlyGivenNames _ _
    split
    · rename_i s1 heq
      have h1 : Works s0 s1 := .of_eq heq (.walkEntry hs)
      exact h1
    · rename_i s1 _ heq
      have h1 : Works s0 s1 := .of_eq heq (.walkEntry hs)
      refine .ite ?_ ?_
      · exact h1
      · split
        · rename_i s2 heq
          have h2 : Works s0 s2 := .of_eq heq (.walkScores h1)
          exact h2
        · rename_i s2 _ heq
          have h2 : Works s0 s2 := .of_eq heq (.walkScores h1)
          exact .stageWrite h2

theorem Works.writeScores {s : State} (hs : Works s0 s) {j : Nat} : Works s0 (s.writeScores j) := by
  unfold State.writeScores
  exact .foldl (fun _ _ h1 => .foldl (fun _ _ h2 => .addIncs h2) h1) hs

theorem Works.readEntry {s : State} (hs : Works s0 s) {j : Nat} {l : ListId} {slot block : Nat} : Works s0 (s.readEntry j l slot block).1
    := by
  unfold State.readEntry
  split
  · rename_i s1 _ heq
    have h1 : Works s0 s1 := .of_eq heq (.touchRead hs)
    exact h1

theorem Works.touchWrite {s : State} (hs : Works s0 s) {j a : Nat} {bs : List Byte} : Works s0 (s.touchWrite j a bs) := by
  unfold State.touchWrite
  split
  · rename_i s1 heq
    have h1 : Works s0 s1 := .of_eq heq (.touchWords hs)
    exact .writeDev h1
  · rename_i s1 heq
    have h1 : Works s0 s1 := .of_eq heq (.touchWords hs)
    exact h1

theorem Works.setTableEntry {s : State} (hs : Works s0 s) {j : Nat} {l : ListId} {slot block : Nat} {t : TableEntry} : Works s0
    (s.setTableEntry j l slot block t) := by
  unfold State.setTableEntry
  exact .touchWrite hs

theorem Works.switchSels {s : State} (hs : Works s0 s) {j : Nat} : Works s0 (s.switchSels j) := by
  unfold State.switchSels
  exact .foldl (fun _ _ h1 => .foldl (fun _ _ h2 => (by
    dsimp only
    split
    · rename_i s1 _ heq
      have h1 : Works s0 s1 := .of_eq heq (.readEntry h2)
      exact .ite h1 (.setTableEntry h1)
    · rename_i s1 heq
      have h1 : Works s0 s1 := .of_eq heq (.readEntry h2)
      exact h1)) h1) hs

theorem Works.setPageRefs {s : State} (hs : Works s0 s) {j : Nat} {e : KvEntry} {page n : Nat} : Works s0 (s.setPageRefs j e page n) := by
  unfold State.setPageRefs
  exact .touchWrite hs

theorem Works.dropRef {s : State} (hs : Works s0 s) {j : Nat} {l : ListId} {page re : Nat} : Works s0 (s.dropRef j l page re) := by
  unfold State.dropRef
  split
  · rename_i s1 heq
    have h1 : Works s0 s1 := .of_eq heq (.readRefs hs)
    exact h1
  · rename_i s1 _ heq
    have h1 : Works s0 s1 := .of_eq heq (.readRefs hs)
    exact .ite (.freeSlot (.setPageRefs h1)) (.setPageRefs h1)

theorem Works.dropPage {s : State} (hs : Works s0 s) {j : Nat} {l : ListId} {slot block : Nat} {page re : Nat} : Works s0 (s.dropPage j l
    slot block page re) := by
  unfold State.dropPage
  exact .ite hs (.dropRef (.setTableEntry hs))

theorem Works.dropBlock {s : State} (hs : Works s0 s) {j : Nat} {l : ListId} {slot block re : Nat} : Works s0 (s.dropBlock j l slot block
    re) := by
  unfold State.dropBlock
  split
  · rename_i s1 heq
    have h1 : Works s0 s1 := .of_eq heq (.readEntry hs)
    exact h1
  · rename_i s1 _ heq
    have h1 : Works s0 s1 := .of_eq heq (.readEntry hs)
    exact .dropPage h1

theorem Works.dropNewPages {s : State} (hs : Works s0 s) {j : Nat} : Works s0 (s.dropNewPages j) := by
  unfold State.dropNewPages
  exact .foldl (fun _ _ h1 => .foldl (fun _ _ h2 => .foldl (fun _ _ h3 => .dropBlock h3) h2) h1) hs

theorem Works.endInTick {s : State} (hs : Works s0 s) {acc : FeedEnds} {i status : Nat} : Works s0 (s.endInTick acc i status).1 := by
  unfold State.endInTick
  dsimp only
  exact .modStream (.endStream hs)

theorem Works.blockEntries {s : State} (hs : Works s0 s) {i block : Nat} : Works s0 (s.blockEntries i block).1 := by
  unfold State.blockEntries
  extract_lets -merge +onlyGivenNames _
  exact .foldl_fst (fun _ _ h1 => (by
    split
    · rename_i s1 _ heq
      have h1 : Works s0 s1 := .of_eq heq (.readEntry h1)
      exact h1)) hs

theorem Works.putPfx {s : State} (hs : Works s0 s) {p : PfxEntry} : Works s0 (s.putPfx p) := by
  unfold State.putPfx
  exact .putF (.pfxWrite (.pfxWrite (.upd hs)))

theorem Works.leaveBlock {s : State} (hs : Works s0 s) {i block re : Nat} : Works s0 (s.leaveBlock i block re) := by
  unfold State.leaveBlock
  extract_lets -merge +onlyGivenNames _
  split
  · rename_i s1 _ heq
    have h1 : Works s0 s1 := .of_eq heq (.blockEntries hs)
    extract_lets -merge +onlyGivenNames s2
    have h2 : Works s0 s2 := (by
      dsimp only [s2]
      split
      · exact .putPfx h1
      · exact h1)
    exact .foldl (fun _ _ h1 => (by
      split
      · exact .dropPage h1
      · exact h1)) h2

theorem Works.leaveFrom {s : State} (hs : Works s0 s) {i first re : Nat} : Works s0 (s.leaveFrom i first re) := by
  unfold State.leaveFrom
  exact .foldl (fun _ _ h1 => .leaveBlock h1) hs

theorem Works.putStreamRec {s : State} (hs : Works s0 s) {i first : Nat} : Works s0 (s.putStreamRec i first) := by
  unfold State.putStreamRec
  extract_lets -merge +onlyGivenNames _
  split
  · exact hs
  · exact .pfxWrite (.pfxWrite hs)

theorem Works.recordKeys {s : State} (hs : Works s0 s) {i : Nat} : Works s0 (s.recordKeys i).1 := by
  unfold State.recordKeys
  exact .ite_fst hs (.putStreamRec (.foldl (fun _ _ h1 => .modStream h1) hs))

theorem Works.validStream {v : Validated} (hv : Works s0 v.s) {i : Nat} : Works s0 (State.validStream v i).s := by
  unfold State.validStream
  extract_lets -merge +onlyGivenNames s t cut
  have hs : Works s0 s := hv
  have hcut : ∀ {s}, Works s0 s → Works s0 (cut s) := fun h => .leaveFrom h
  split
  · rename_i c _
    have h1 : Works s0 ((cut (s.bump F.kvpWin_fails c)).endInTick v.feeds i 0x12).1 := .endInTick (hcut (.bump hs))
    exact h1
  · extract_lets -merge +onlyGivenNames own acc emit len full stop
    generalize takeFed (own.filter (fun r => r.kind == .fed)).length t.feeds = td
    obtain ⟨rest, done⟩ := td
    dsimp -zeta only
    extract_lets -merge +onlyGivenNames s1 s2
    have h1 : Works s0 s1 := .modStream hs
    have h2 : Works s0 s2 := .leaveFrom h1
    have h3 : Works s0 (s2.recordKeys i).1 := .recordKeys h2
    generalize s2.recordKeys i = p at h3 ⊢
    obtain ⟨s3, blocks⟩ := p
    dsimp -zeta only at h3 ⊢
    extract_lets -merge +onlyGivenNames _ entry s4 fs
    have h4 : Works s0 s4 := .ite (.modStream (.streamEntry h3)) (.dropTokenReservation h3)
    cases t.noCand with
    | none => exact h4
    | some c =>
      have h5 : Works s0 ((s4.bump F.celSamp_empty c).endInTick fs i 0x14).1 := .endInTick (.bump h4)
      exact h5

theorem Works.judgeStream {v : Validated} (hv : Works s0 v.s) {i : Nat} : Works s0 (State.judgeStream v i).s := by
  unfold State.judgeStream
  extract_lets -merge +onlyGivenNames t p fail cut out
  have hfail : ∀ {v st}, Works s0 v.s → Works s0 (fail v st).s := fun {v st} h => by
    have h1 : Works s0 (v.s.endInTick v.feeds i st).1 := .endInTick h
    exact h1
  have hcut : Works s0 cut.s := .leaveFrom hv
  have hout : Works s0 out.s := by
    unfold out
    split
    · split
      · exact hcut
      · exact hv
    · split
      · exact hfail hv
      · split
        · split
          · exact hv
          · split
            · exact hfail hcut
            · exact hfail hv
        · split
          · exact hv
          · exact .validStream hv
  exact .modStream hout

theorem judgeStreams_works {v : Validated} (hv : Works s0 v.s) {l : List Nat} : Works s0 (l.foldl State.judgeStream v).s := by
  induction l generalizing v with
  | nil => exact hv
  | cons i r ih => exact ih (.judgeStream hv)

theorem Works.worsen {s : State} (hs : Works s0 s) {i v : Nat} : Works s0 (s.worsen i v) := by
  unfold State.worsen
  exact .putF hs

theorem Works.failAbsent {s : State} (hs : Works s0 s) {j : Nat} : Works s0 (s.failAbsent j) := by
  unfold State.failAbsent
  exact .ite (.foldl (fun _ _ h1 => .worsen h1) hs) hs

theorem Works.endFeeds {s : State} (hs : Works s0 s) {fs : FeedEnds} : Works s0 (s.endFeeds fs) := by
  unfold State.endFeeds
  exact .foldl (fun _ _ h1 => .endFeed h1) hs

theorem Works.settlePools {s : State} (hs : Works s0 s) {js : List Nat} : Works s0 (s.settlePools js) := by
  unfold State.settlePools
  exact .upd hs

theorem Works.validate {s : State} (hs : Works s0 s) {js : List Nat} : Works s0 (s.validate js).1 := by
  unfold State.validate
  extract_lets -merge +onlyGivenNames s1 v s2 s3
  have h1 : Works s0 s1 := .foldl (fun _ _ h1 => .ite (.switchSels (.ite (.writeScores h1) h1)) (.dropNewPages (.ite (.writeScores h1)
    h1))) hs
  have hv : Works s0 v.s := judgeStreams_works h1
  have h2 : Works s0 s2 := .foldl (fun _ _ h1 => .failAbsent h1) hv
  have h3 : Works s0 s3 := .foldl (fun _ _ h1 => .modProg h1) h2
  exact .foldl (fun _ _ h1 => .failStream h1) (.endFeeds (.settlePools h3))

theorem Works.pfxTouch {s : State} (hs : Works s0 s) {j o n : Nat} : Works s0 (s.pfxTouch j o n).1 := by
  unfold State.pfxTouch
  extract_lets -merge +onlyGivenNames _ _
  split
  · rename_i s1 _ heq
    have h1 : Works s0 s1 := .of_eq heq (.touchWords hs)
    exact h1

theorem Works.makeRoom {n f : Nat} {s : State} (hs : Works s0 s) : Works s0 (State.makeRoom n f s) := by
  induction f generalizing s with
  | zero => exact hs
  | succ f ih =>
    unfold State.makeRoom
    refine .ite hs ?_
    split
    · exact hs
    · exact ih (.bump (.dropPfx hs))

theorem Works.pfxInsert {s : State} (hs : Works s0 s) {e : Nat × Nat} : Works s0 (s.pfxInsert e) := by
  have hbe : ∀ {s i b}, Works s0 s → Works s0 (State.blockEntries s i b).1 := fun h => .blockEntries h
  have hpt : ∀ {s j o n}, Works s0 s → Works s0 (State.pfxTouch s j o n).1 := fun h => .pfxTouch h
  rw [show @State.pfxInsert = _ from by delta State.pfxInsert; exact rfl]
  -- as for the lookup: the functions stand for any, so that no step of the check evaluates them
  revert hbe hpt
  generalize blockKey = hash
  generalize State.pfxTouch = touch
  generalize State.blockEntries = entries
  revert hash touch entries
  refine id ?_
  intro hash touch entries hbe hpt
  split
  rename_i i b
  extract_lets -merge +onlyGivenNames t toks
  split
  rename_i key check _
  refine .ite hs ?_
  extract_lets -merge +onlyGivenNames skip
  split
  rename_i s2 es heq
  have h2 : Works s0 s2 := .of_eq heq (hbe hs)
  extract_lets -merge +onlyGivenNames pages
  split
  rename_i s3 bad heq
  have h3 : Works s0 s3 := .of_eq heq (hpt h2)
  refine .ite (.bump h3) (.ite h3 (.ite h3 ?_))
  extract_lets -merge +onlyGivenNames mine old
  split
  rename_i s4 way heq
  have h4 : Works s0 s4 := by
    split at heq
    · exact .of_mk_eq heq h3
    · exact .of_mk_eq heq (.dropPfx h3)
    · exact .of_mk_eq heq h3
  split
  · exact .bump h4
  · extract_lets -merge +onlyGivenNames n s5
    have h5 : Works s0 s5 := .makeRoom h4
    split
    · exact .bump h5
    · exact .bump (.putPfx h5)

theorem Works.flushPfx {s : State} (hs : Works s0 s) : Works s0 s.flushPfx := by
  unfold State.flushPfx
  exact .ite (.putF (.foldl (fun _ _ h1 => .dropPfx h1) hs)) hs

theorem Works.copyTouch {s : State} (hs : Works s0 s) {i : Nat} {ws needs : List Nat} : Works s0 (s.copyTouch i ws needs).1 := by
  unfold State.copyTouch
  extract_lets -merge +onlyGivenNames _
  split
  · rename_i s1 heq
    have h1 : Works s0 s1 := .of_eq heq (.reachWords hs)
    exact .failStream h1
  · rename_i s1 heq
    have h1 : Works s0 s1 := .of_eq heq (.reachWords hs)
    extract_lets -merge +onlyGivenNames s2
    have h2 : Works s0 s2 := .foldl (fun _ _ h1 => .softWord h1) h1
    split
    · exact h2
    · exact .failStream (.foldl (fun _ _ h1 => .ueRecord h1) h2)

theorem Works.reclaim {j : Nat} {l : ListId} {prec f : Nat} {s : State} (hs : Works s0 s) : Works s0 (State.reclaim j l prec f s) := by
  induction f generalizing s with
  | zero => exact hs
  | succ f ih =>
    unfold State.reclaim
    refine .ite hs ?_
    split
    · exact hs
    · exact ih (.bump (.dropPfx hs))

theorem Works.allocPage {s : State} (hs : Works s0 s) {j : Nat} {l : ListId} {prec : Nat} : Works s0 (s.allocPage j l prec).1 := by
  unfold State.allocPage
  extract_lets -merge +onlyGivenNames s1
  have h1 : Works s0 s1 := .ite hs (.reclaim hs)
  split
  · exact .setPoolSlot h1
  · exact h1

theorem Works.copyWrite {i : Nat} {acc : State × Bool} (h_acc : Works s0 acc.1) {a : Nat} {bs : List Byte} : Works s0 (State.copyWrite i
    acc a bs).1 := by
  unfold State.copyWrite
  refine .ite_fst ?_ ?_
  · exact h_acc
  · split
    · rename_i s1 heq
      have h1 : Works s0 s1 := .of_eq heq (.copyTouch h_acc)
      exact .writeDev h1
    · rename_i s1 heq
      have h1 : Works s0 s1 := .of_eq heq (.copyTouch h_acc)
      exact h1

theorem Works.copyPage {s : State} (hs : Works s0 s) {i : Nat} {k : CopyJob} : Works s0 (s.copyPage i k).1 := by
  unfold State.copyPage
  extract_lets -merge +onlyGivenNames _
  split
  · exact hs
  · extract_lets -merge +onlyGivenNames _
    split
    · rename_i s1 heq
      have h1 : Works s0 s1 := .of_eq heq (.copyTouch hs)
      exact h1
    · rename_i s1 heq
      have h1 : Works s0 s1 := .of_eq heq (.copyTouch hs)
      extract_lets -merge +onlyGivenNames _ _ _ _
      refine .ite_fst ?_ ?_
      · exact h1
      · refine .ite_fst ?_ ?_
        · exact h1
        · extract_lets -merge +onlyGivenNames _
          split
          · rename_i s2 heq
            have h2 : Works s0 s2 := .of_eq heq (.copyTouch h1)
            exact h2
          · rename_i s2 heq
            have h2 : Works s0 s2 := .of_eq heq (.copyTouch h1)
            split
            · rename_i s3 heq
              have h3 : Works s0 s3 := .of_eq heq (.allocPage h2)
              exact h3
            · rename_i s3 _ heq
              have h3 : Works s0 s3 := .of_eq heq (.allocPage h2)
              extract_lets -merge +onlyGivenNames _ _ s4 _ _ _ p5
              have h4 : Works s0 s4 := .setPoolSlot h3
              have h5 : Works s0 p5.1 := .foldl_fst (fun _ _ h1 => .copyWrite h1) (.copyWrite h4)
              split
              · rename_i s6 heq
                have h6 : Works s0 s6 := .of_eq heq (.copyWrite h5)
                exact .freeSlot h6
              · rename_i s6 heq
                have h6 : Works s0 s6 := .of_eq heq (.copyWrite h5)
                exact .bump (.dropRef h6)

theorem Works.copyPages {s : State} (hs : Works s0 s) {i : Nat} : Works s0 (s.copyPages i) := by
  unfold State.copyPages
  split
  · exact hs
  · rename_i k _ _
    have h1 : Works s0 (s.blockEntries i k.block).1 := .blockEntries hs
    generalize s.blockEntries i k.block = p at h1 ⊢
    obtain ⟨s1, es⟩ := p
    dsimp -zeta only at h1 ⊢
    extract_lets -merge +onlyGivenNames set s2
    have h2 : Works s0 s2 := .foldl (fun _ _ h1 => .ite h1 (.ite (.modStream (.copyPage h1)) (.copyPage h1))) h1
    clear_value set s2
    cases set with
    | none => exact h2
    | some p => exact .ite (.putPfx h2) h2

theorem Works.streamWork {s : State} (hs : Works s0 s) {js : List Nat} {blocks : List (Nat × Nat)} : Works s0 (s.streamWork js blocks) := by
  unfold State.streamWork
  exact .foldl (fun _ _ h1 => .pfxInsert h1) (.flushPfx (.foldl (fun _ _ h1 => .copyPages h1) hs))

theorem Works.signalWritten {s : State} (hs : Works s0 s) : Works s0 s.signalWritten := by
  unfold State.signalWritten
  exact .foldl (fun _ _ h1 => .signalCq h1) (.upd hs)

theorem Works.giveRows {s : State} (hs : Works s0 s) {i n : Nat} : Works s0 (s.giveRows i n) := by
  unfold State.giveRows
  exact .modStream (.reserve hs)

theorem Works.assignRows {s : State} (hs : Works s0 s) {j : Nat} : Works s0 (s.assignRows j) := by
  unfold State.assignRows
  refine .ite hs (.foldl_fst (fun _ _ h1 => .ite_fst h1 (.ite_fst (.bump h1) (by
    dsimp only
    exact .modProg (.giveRows h1)))) hs)

theorem Works.setScores {s : State} (hs : Works s0 s) {j : Nat} {l : ListId} {slot c block : Nat} {vs : List Nat} : Works s0 (s.setScores
    j l slot c block vs) := by
  unfold State.setScores
  exact .ite (.touchWrite hs) hs

theorem Works.attach {s : State} (hs : Works s0 s) {i : Nat} {p : PfxEntry} {toks : List (BitVec 32)} : Works s0 (s.attach i p toks) := by
  unfold State.attach
  extract_lets -merge +onlyGivenNames _ _ s1 s2
  have h1 : Works s0 s1 := .putPfx hs
  have h2 : Works s0 s2 := .foldl (fun _ _ h1 => .setScores (.setTableEntry (.setPageRefs h1))) h1
  exact .endFeeds (.ite (.streamEntry (.reserve (.bump (.putStreamRec (.modStream h2))))) (.bump (.putStreamRec (.modStream h2))))

theorem Works.pfxLookup {s : State} (hs : Works s0 s) {i : Nat} : Works s0 (s.pfxLookup i).1 := by
  have hpt : ∀ {s j o n}, Works s0 s → Works s0 (State.pfxTouch s j o n).1 := fun h => .pfxTouch h
  rw [show @State.pfxLookup = _ from by delta State.pfxLookup; exact rfl]
  -- the hash and the reads of the region for prefixes stand for any functions, so that no step of the check evaluates them
  revert hpt
  generalize blockKey = hash
  generalize State.pfxTouch = touch
  revert hash touch
  refine id ?_
  intro hash touch hpt
  extract_lets -merge +onlyGivenNames t toks
  split
  rename_i key check _
  extract_lets -merge +onlyGivenNames s1
  have h1 : Works s0 s1 := .bump hs
  split
  rename_i s2 bad heq
  have h2 : Works s0 s2 := .of_eq heq (hpt h1)
  extract_lets -merge +onlyGivenNames miss
  have hmiss : ∀ {s f}, Works s0 s → (hf : f.reg ∈ tableRegs := by decide) → Works s0 (miss s f).1 := fun h hf => by
    dsimp only [miss]
    exact .modStream (h.bump hf)
  split
  · exact hmiss h2
  · refine .ite_fst (hmiss h2) (.ite_fst (hmiss h2) ?_)
    split
    rename_i s3 bad heq
    have h3 : Works s0 s3 := .of_eq heq (hpt h2)
    exact .ite_fst (hmiss (.dropPfx h3)) (.ite_fst (hmiss h3) (.ite_fst (hmiss h3) (.attach h3)))

theorem Works.lookups {i n : Nat} {s : State} (hs : Works s0 s) : Works s0 (State.lookups i n s).1 := by
  have hl : ∀ {s}, Works s0 s → Works s0 (State.pfxLookup s i).1 := fun h => .pfxLookup h
  rw [show @State.lookups = _ from by delta State.lookups State.lookups._f; exact rfl]
  revert hl
  generalize State.pfxLookup = look
  revert look
  refine id ?_
  intro look hl
  induction n generalizing s with
  | zero => exact hs
  | succ n ih =>
    refine .ite_fst (c := s.eligible i = true) ?_ hs
    have h1 := hl hs
    generalize look s i = p at h1 ⊢
    obtain ⟨s1, more⟩ := p
    cases more with
    | true => exact ih h1
    | false => exact h1

theorem Works.allLookups {s : State} (hs : Works s0 s) {js : List Nat} : Works s0 (s.allLookups js) := by
  unfold State.allLookups
  exact .foldl_fst (fun _ _ h1 => (by
    split
    · rename_i s1 _ heq
      have h1 : Works s0 s1 := .of_eq heq (.lookups h1)
      exact h1)) hs

theorem Works.nextRows {s : State} (hs : Works s0 s) : Works s0 s.nextRows := by
  unfold State.nextRows
  exact .ite hs (.foldl (fun _ _ h1 => .assignRows h1) (.allLookups hs))

theorem Works.resumeLoads {s : State} (hs : Works s0 s) {wait : Bool} : Works s0 (s.resumeLoads wait) := by
  unfold State.resumeLoads
  exact .foldl (fun _ _ h1 => .loadNow h1) (.upd hs)

theorem Works.showRefresh {s : State} (hs : Works s0 s) {c : Nat} : Works s0 (s.showRefresh c) := by
  unfold State.showRefresh
  exact .putStatus hs

theorem Works.selfRefresh {s : State} (hs : Works s0 s) {c : Nat} {on : Bool} : Works s0 (s.selfRefresh c on) := by
  unfold State.selfRefresh
  exact .showRefresh (.modChan hs)

theorem Works.dropFlail {s : State} (hs : Works s0 s) {c : Nat} {f : FlailCmd} : Works s0 (s.dropFlail c f) := by
  unfold State.dropFlail
  exact .ite (.portEnd hs) (.ite (.send hs) hs)

theorem Works.showFlails {s : State} (hs : Works s0 s) {c : Nat} : Works s0 (s.showFlails c) := by
  unfold State.showFlails
  exact .putF (.putF (.putF hs))

theorem Works.dropQueued {s : State} (hs : Works s0 s) {c : Nat} : Works s0 (s.dropQueued c) := by
  unfold State.dropQueued
  exact .showFlails (.modChan (.foldl (fun _ _ h1 => .dropFlail h1) hs))

theorem Works.failLater {s : State} (hs : Works s0 s) {j status : Nat} : Works s0 (s.failLater j status) := by
  unfold State.failLater
  exact .modProg hs

theorem Works.setUsable {s : State} (hs : Works s0 s) {c : Nat} {b : Bool} : Works s0 (s.setUsable c b) := by
  unfold State.setUsable
  refine hs.setReg ?_
  rw [availReg, List.getD_eq_getElem?_getD]
  match c / 64 with
  | 0 | 1 | 2 | 3 | 4 | 5 | 6 | 7 | 8 | 9 | 10 | 11 | 12 | 13 | 14 | 15 => decide
  | k + 16 => rw [List.getElem?_eq_none (by simp)]; decide

theorem Works.setCell {s : State} (hs : Works s0 s) {c : Nat} {x : Cell} : Works s0 (s.setCell c x) := by
  unfold State.setCell
  exact .upd hs

theorem Works.modCell {s : State} (hs : Works s0 s) {c : Nat} {f : Cell → Cell} : Works s0 (s.modCell c f) := by
  unfold State.modCell
  exact .setCell hs

theorem Works.degrade {s : State} (hs : Works s0 s) {sheafs : List Nat} : Works s0 (s.degrade sheafs) := by
  unfold State.degrade
  exact .foldl (fun _ _ h1 => .putF h1) hs

theorem Works.failProgram {s : State} (hs : Works s0 s) {j status : Nat} : Works s0 (s.failProgram j status) := by
  unfold State.failProgram
  exact .foldl (fun _ _ h1 => .failStream h1) hs

theorem Works.losePrefix {s : State} (hs : Works s0 s) {c : Nat} : Works s0 (s.losePrefix c) := by
  unfold State.losePrefix
  refine .ite ?_ ?_
  · extract_lets -merge +onlyGivenNames s1 _ s2
    have h1 : Works s0 s1 := .foldl (fun _ _ h1 => .dropPfx h1) hs
    have h2 : Works s0 s2 := .upd h1
    exact .raise (.putF h2)
  · exact hs

theorem Works.countFlailWait {s : State} (hs : Works s0 s) {c ns : Nat} : Works s0 (s.countFlailWait c ns) := by
  unfold State.countFlailWait
  exact .putF (.bump hs)

theorem Works.keepStage {s : State} (hs : Works s0 s) {c : Nat} {held : Bool} {flails : List Nat} : Works s0 (s.keepStage c held flails) := by
  unfold State.keepStage
  exact .modCell (.foldl (fun _ _ h1 => .countFlailWait h1) hs)

theorem Works.endKeep {s : State} (hs : Works s0 s) {c : Nat} : Works s0 (s.endKeep c) := by
  unfold State.endKeep
  exact .ite (.foldl (fun _ _ h1 => .countFlailWait h1) hs) (.modCell (.foldl (fun _ _ h1 => .countFlailWait h1) hs))

theorem Works.walkRefs {s : State} (hs : Works s0 s) {c : Nat} {e : KvEntry} {page : Nat} : Works s0 (s.walkRefs c e page).1 := by
  unfold State.walkRefs
  split
  · rename_i s1 _ heq
    have h1 : Works s0 s1 := .of_eq heq (.stageRead hs)
    exact h1

theorem Works.walkList {s : State} (hs : Works s0 s) {c : Nat} {l : ListId} {t : Stream} : Works s0 (s.walkList c l t).1 := by
  unfold State.walkList
  exact .foldl_fst (fun _ _ h1 => (by
    split
    · exact h1
    · split
      · rename_i s1 heq
        have h1 : Works s0 s1 := .of_eq heq (.walkEntry h1)
        exact h1
      · rename_i s1 _ heq
        have h1 : Works s0 s1 := .of_eq heq (.walkEntry h1)
        refine .ite_fst ?_ ?_
        · exact h1
        · split
          · rename_i s2 heq
            have h2 : Works s0 s2 := .of_eq heq (.walkRefs h1)
            exact h2
          · rename_i s2 _ heq
            have h2 : Works s0 s2 := .of_eq heq (.walkRefs h1)
            split
            · rename_i s3 heq
              have h3 : Works s0 s3 := .of_eq heq (.walkScores h2)
              exact h3
            · rename_i s3 _ heq
              have h3 : Works s0 s3 := .of_eq heq (.walkScores h2)
              exact h3)) hs

theorem Works.winnowRelease {s : State} (hs : Works s0 s) {j : Nat} {l : ListId} {slot block re : Nat} : Works s0 (s.winnowRelease j l
    slot block re) := by
  unfold State.winnowRelease
  extract_lets -merge +onlyGivenNames _ s1
  have h1 : Works s0 s1 := (by
    dsimp only [s1]
    split
    · exact .dropPfx hs
    · exact hs)
  exact .dropBlock h1

theorem Works.winnowList {s : State} (hs : Works s0 s) {j c : Nat} {t : Stage} {l : ListId} {i : Nat} : Works s0 (s.winnowList j c t l i)
    := by
  unfold State.winnowList
  extract_lets -merge +onlyGivenNames _ _
  refine .ite hs ?_
  have h1 : Works s0 (s.walkList c l (s.stream i)).1 := .walkList hs
  split
  · exact hs
  · exact .of_eq ‹_› h1
  · refine .foldl (fun _ _ h1 => .ite h1 (.ite (.bump (.winnowRelease (.bump (.stageWrite h1)))) (.bump (.stageWrite h1)))) (.of_eq
      ‹_› h1)

theorem Works.winnowStage {s : State} (hs : Works s0 s) {j c : Nat} {t : Stage} : Works s0 (s.winnowStage j c t) := by
  unfold State.winnowStage
  exact .foldl (fun _ _ h1 => .foldl (fun _ _ h2 => .foldl (fun _ _ h3 => .winnowList h3) h2) h1) hs

theorem Works.aTables {s : State} (hs : Works s0 s) {j c : Nat} {t : Stage} : Works s0 (s.aTables j c t) := by
  unfold State.aTables
  extract_lets -merge +onlyGivenNames _ s1
  have h1 : Works s0 s1 := .ite hs ((by
    split
    · rename_i s1 heq
      have h1 : Works s0 s1 := .of_eq heq (.stageRead hs)
      exact h1
    · rename_i s1 _ heq
      have h1 : Works s0 s1 := .of_eq heq (.stageRead hs)
      split
      · rename_i s2 heq
        have h2 : Works s0 s2 := .of_eq heq (.stageRead h1)
        exact h2
      · rename_i s2 _ heq
        have h2 : Works s0 s2 := .of_eq heq (.stageRead h1)
        exact .putF (.bump (.modCell h2))))
  split
  · exact h1
  · exact .ite h1 (.modCell h1)

theorem Works.heldTable {s : State} (hs : Works s0 s) {c : Nat} {t : Stage} {i : Nat} : Works s0 (s.heldTable c t i).1 := by
  unfold State.heldTable
  extract_lets -merge +onlyGivenNames _
  split
  · exact hs
  · split
    · rename_i s1 _ heq
      have h1 : Works s0 s1 := .of_eq heq (.stageRead hs)
      exact .putF (.modCell h1)
    · rename_i s1 heq
      have h1 : Works s0 s1 := .of_eq heq (.stageRead hs)
      exact h1

theorem Works.vTables {s : State} (hs : Works s0 s) {c : Nat} {t : Stage} : Works s0 (s.vTables c t) := by
  unfold State.vTables
  exact .foldl (fun _ _ h1 => .heldTable h1) hs

theorem Works.prepare {s : State} (hs : Works s0 s) {j c : Nat} {t : Stage} : Works s0 (s.prepare j c t) := by
  unfold State.prepare
  extract_lets -merge +onlyGivenNames _ _ _
  refine .ite ?_ ?_
  · exact .keepStage hs
  · exact .ite (.modCell (.endKeep hs)) (.ite (.winnowStage (.modCell (.endKeep hs))) (.ite (.aTables (.modCell (.endKeep hs)))
      (.ite (.vTables (.modCell (.endKeep hs))) (.modCell (.endKeep hs)))))

theorem Works.readAll {s : State} (hs : Works s0 s) {c : Nat} {rs : List (Nat × Nat)} : Works s0 (s.readAll c rs).1 := by
  unfold State.readAll
  exact .foldl_fst (fun _ _ h1 => .ite_fst ((by
    split
    · rename_i s1 _ heq
      have h1 : Works s0 s1 := .of_eq heq (.stageRead h1)
      exact h1)) h1) hs

theorem Works.mPass {s : State} (hs : Works s0 s) {c : Nat} {t : Stage} {i code : Nat} {scale n0 : Nat} {n k0 kn : Nat} : Works s0
    (s.mPass c t i code scale n0 n k0 kn).1 := by
  unfold State.mPass
  extract_lets -merge +onlyGivenNames _ _
  split
  · rename_i s1 _ heq
    have h1 : Works s0 s1 := .of_eq heq (.readAll hs)
    exact .ite_fst (.bump h1) (.dropPass h1)

theorem Works.countDrain {s : State} (hs : Works s0 s) {c f : Nat} {outs : MOut} : Works s0 (s.countDrain c f outs) := by
  unfold State.countDrain
  exact .bump (.bump (.bump (.bump hs)))

theorem Works.mRows {s : State} (hs : Works s0 s) {j c : Nat} {t : Stage} {i code : Nat} {scale n0 n : Nat} {rows : List (RowHdr × List
    MeshRow)} : Works s0 (s.mRows j c t i code scale n0 n rows).1 := by
  have hp : ∀ {s c t i code scale n0 n k0 k}, Works s0 s → Works s0 (State.mPass s c t i code scale n0 n k0 k).1 := fun h => .mPass h
  rw [show @State.mRows = _ from by delta State.mRows; exact rfl]
  revert hp
  generalize State.mPass = pass
  revert pass
  refine id ?_
  intro pass hp
  extract_lets -merge +onlyGivenNames _ _
  split
  rename_i s1 _ heq
  have h1 : Works s0 s1 := .of_eq heq (.foldl_fst (fun _ _ h1 => .ite_fst (hp h1) h1) hs)
  exact .ite_fst h1 (.foldl (fun _ _ h1 => .countDrain h1) h1)

theorem Works.mColumns {s : State} (hs : Works s0 s) {j c : Nat} {t : Stage} {i code : Nat} {scale n0 n : Nat} {rows : List (RowHdr ×
    List MeshRow)} : Works s0 (s.mColumns j c t i code scale n0 n rows).1 := by
  have hr : ∀ {s j c t i code scale n0 n rows}, Works s0 s → Works s0 (State.mRows s j c t i code scale n0 n rows).1 := fun h => .mRows h
  rw [show @State.mColumns = _ from by delta State.mColumns; exact rfl]
  revert hr
  generalize State.mRows = mr
  revert mr
  refine id ?_
  intro mr hr
  refine .foldl_fst (fun _ _ h1 => ?_) hs
  split
  · exact h1
  · exact hr h1

theorem Works.emitTo {s : State} (hs : Works s0 s) {c : Nat} {ds : List Nat} {rows : List MeshRow} : Works s0 (s.emitTo c ds rows) := by
  unfold State.emitTo
  exact .modCell hs

theorem Works.nextFree {s : State} (hs : Works s0 s) : Works s0 s.nextFree := by
  unfold State.nextFree
  exact .upd hs

theorem Works.bubbles {s : State} (hs : Works s0 s) {c : Nat} : Works s0 (s.bubbles c) := by
  unfold State.bubbles
  exact .nextFree (.nextFree (.ite (.bump (.bump (.bump (.bump hs)))) (.bump (.bump (.bump hs)))))

theorem Works.mGroup {s : State} (hs : Works s0 s) {j c : Nat} {t : Stage} {i ex : Nat} {rows : List (RowHdr × List MeshRow)} : Works s0
    (s.mGroup j c t i ex rows).1 := by
  unfold State.mGroup
  extract_lets -merge +onlyGivenNames _ _
  split
  · rename_i s1 _ heq
    have h1 : Works s0 s1 := .of_eq heq (.foldl_fst (fun _ _ h1 => (by
      split
      · exact h1
      · split
        · rename_i s1 _ heq
          have h1 : Works s0 s1 := .of_eq heq (.mColumns h1)
          exact h1)) hs)
    split
    · exact h1
    · exact .bubbles (.foldl (fun _ _ h1 => .emitTo h1) h1)

theorem Works.entryDone {s : State} (hs : Works s0 s) {c i : Nat} : Works s0 (s.entryDone c i) := by
  unfold State.entryDone
  exact .modCell hs

theorem Works.mEntry {s : State} (hs : Works s0 s) {j c : Nat} {t : Stage} {i : Nat} : Works s0 (s.mEntry j c t i) := by
  unfold State.mEntry
  extract_lets -merge +onlyGivenNames _ _ _
  split
  · rename_i s1 _ heq
    have h1 : Works s0 s1 := .of_eq heq (.foldl_fst (fun _ _ h1 => .ite_fst (.mGroup h1) h1) hs)
    exact .ite h1 (.ite (.entryDone h1) (.putF (.entryDone h1)))

theorem Works.pageEntry {s : State} (hs : Works s0 s) {k : Nat} {l : ListId} {t : Stream} {kvh block : Nat} : Works s0 (s.pageEntry k l t
    kvh block).1 := by
  unfold State.pageEntry
  split
  · rename_i s1 heq
    have h1 : Works s0 s1 := .of_eq heq (.walkEntry hs)
    exact h1
  · rename_i s1 _ heq
    have h1 : Works s0 s1 := .of_eq heq (.walkEntry hs)
    exact h1

theorem Works.loftRead {s : State} (hs : Works s0 s) {c a n : Nat} : Works s0 (s.loftRead c a n).1 := by
  unfold State.loftRead
  refine .ite_fst ?_ ?_
  · exact .invalidateCell (.countAddr hs)
  · refine .ite_fst ?_ ?_
    · exact .invalidateCell (.countWrapped hs)
    · extract_lets -merge +onlyGivenNames s1
      have h1 : Works s0 s1 := .foldl (fun _ _ h1 => .softWord h1) (.forceRefreshes hs)
      split
      · exact h1
      · exact .foldl (fun _ _ h1 => .stageUe h1) h1

theorem Works.readPage {s : State} (hs : Works s0 s) {j c : Nat} {t : Stage} {l : ListId} {te : PageEntry} {js : List Nat} : Works s0
    (s.readPage j c t l te js).1 := by
  unfold State.readPage
  extract_lets -merge +onlyGivenNames _ _ _ _ _
  split
  · rename_i s1 heq
    have h1 : Works s0 s1 := .of_eq heq (.stageRead hs)
    exact h1
  · rename_i s1 _ heq
    have h1 : Works s0 s1 := .of_eq heq (.stageRead hs)
    refine .ite_fst ?_ ?_
    · exact .invalidate (.bump h1)
    · exact .foldl_fst (fun _ _ h1 => (by
        split
        · exact h1
        · extract_lets -merge +onlyGivenNames _
          split
          · rename_i s2 _ heq
            have h2 : Works s0 s2 := .of_eq heq (.ite_fst (.loftRead h1) (.stageRead h1))
            split
            · rename_i s3 _ heq
              have h3 : Works s0 s3 := .of_eq heq (.stageRead h2)
              split
              · exact h3
              · exact h3)) h1

theorem Works.aPages {s : State} (hs : Works s0 s) {j c : Nat} {t : Stage} : Works s0 (s.aPages j c t).1 := by
  unfold State.aPages
  exact .foldl_fst (fun _ _ h1 => (by
    split
    · exact h1
    · split
      · rename_i s1 heq
        have h1 : Works s0 s1 := .of_eq heq (.pageEntry h1)
        exact h1
      · rename_i s1 _ heq
        have h1 : Works s0 s1 := .of_eq heq (.pageEntry h1)
        extract_lets -merge +onlyGivenNames _
        refine .ite_fst ?_ ?_
        · exact h1
        · refine .ite_fst ?_ ?_
          · exact h1
          · extract_lets -merge +onlyGivenNames s2
            have h2 : Works s0 s2 := .ite (.bump h1) h1
            split
            · rename_i s3 heq
              have h3 : Works s0 s3 := .of_eq heq (.readPage h2)
              exact h3
            · rename_i s3 _ heq
              have h3 : Works s0 s3 := .of_eq heq (.readPage h2)
              exact h3)) hs

theorem Works.admitted {s : State} (hs : Works s0 s) {j c : Nat} {t : Stage} {pages : List APage} {st kvh p : Nat} : Works s0 (s.admitted
    j c t pages st kvh p).1 := by
  unfold State.admitted
  split
  · exact hs
  · exact .foldl_fst (fun _ _ h1 => .bump h1) hs

theorem Works.countHead {s : State} (hs : Works s0 s) {c : Nat} {h : HeadOut} : Works s0 (s.countHead c h) := by
  unfold State.countHead
  exact .bump (.bump (.bump (.bump (.bump hs))))

theorem Works.aHeads {s : State} (hs : Works s0 s) {j c : Nat} {t : Stage} {pages : List APage} {h : RowHdr} {q : List Piece} : Works s0
    (s.aHeads j c t pages h q).1 := by
  unfold State.aHeads
  extract_lets -merge +onlyGivenNames _ _ _ _
  refine .foldl_fst (fun p k h1 => ?_) hs
  have h2 : Works s0 (if aSilent t then (p.1, []) else p.1.admitted j c t pages h.stream.toNat (t.f 0x2E 2 + k) h.pos.toNat).1 :=
    .ite_fst h1 (.admitted h1)
  dsimp only
  exact .modCell (.foldl (fun _ _ h2 => .countHead h2) (h2.bump (f := F.thrPos_admitted)))

theorem Works.settleLam {s : State} (hs : Works s0 s) {cells : List Nat} {st row qhead : Nat} {h : HeadOut} : Works s0 (s.settleLam cells
    st row qhead h) := by
  unfold State.settleLam
  exact .foldl (fun _ _ h1 => .modCell h1) hs

theorem Works.aEntry {s : State} (hs : Works s0 s) {j c : Nat} {t : Stage} : Works s0 (s.aEntry j c t) := by
  unfold State.aEntry
  extract_lets -merge +onlyGivenNames _ _ _ _ _
  split
  · rename_i s1 heq
    have h1 : Works s0 s1 := .of_eq heq (.aPages hs)
    exact h1
  · rename_i s1 _ heq
    have h1 : Works s0 s1 := .of_eq heq (.aPages hs)
    extract_lets -merge +onlyGivenNames s2
    have h2 : Works s0 s2 := .foldl (fun _ _ h1 => (by
      split
      · rename_i s2 _ heq
        have h2 : Works s0 s2 := .of_eq heq (.aHeads h1)
        exact .emitTo (.bump (.ite h2 (.foldl (fun _ _ h2 => .settleLam h2) h2))))) h1
    exact .entryDone h2

theorem Works.vParams {s : State} (hs : Works s0 s) {c : Nat} {t : Stage} {i dh : Nat} : Works s0 (s.vParams c t i dh).1 := by
  unfold State.vParams
  exact .ite_fst (.heldTable hs) (.stageRead hs)

theorem Works.vEmit {s : State} (hs : Works s0 s) {j c : Nat} {t : Stage} {i : Nat} {h : RowHdr} {fl : Flags} {vs : List Num} : Works s0
    (s.vEmit j c t i h fl vs) := by
  unfold State.vEmit
  exact .emitTo (.bump (.bump hs))

theorem Works.scanStream {s : State} (hs : Works s0 s) {j c : Nat} {t : Stage} {i : Nat} {d : List Num} {place : Place} {z : Nat} {rows
    : List (RowHdr × List MeshRow)} {stream : Nat} : Works s0 (s.scanStream j c t i d place z rows stream) := by
  unfold State.scanStream
  extract_lets -merge +onlyGivenNames _ _ _ _ _
  split
  · rename_i s1 heq
    have h1 : Works s0 s1 := .of_eq heq (.stageRead hs)
    exact h1
  · rename_i s1 _ heq
    have h1 : Works s0 s1 := .of_eq heq (.stageRead hs)
    extract_lets -merge +onlyGivenNames _ _
    split
    · rename_i s2 _ heq
      have h2 : Works s0 s2 := .of_eq heq (.foldl_fst (fun _ _ h1 => .vEmit h1) h1)
      exact .stageWrite h2

theorem Works.vEntry {s : State} (hs : Works s0 s) {j c : Nat} {t : Stage} {i : Nat} : Works s0 (s.vEntry j c t i) := by
  unfold State.vEntry
  extract_lets -merge +onlyGivenNames g p fn n opt dh rows others src1
  have h1 : Works s0 (if rows.isEmpty then (s, some []) else s.vParams c t i dh).1 := .ite_fst hs (.vParams hs)
  generalize (if rows.isEmpty then (s, some []) else s.vParams c t i dh) = q at h1 ⊢
  obtain ⟨s1, params⟩ := q
  cases params with
  | none => exact h1
  | some pb =>
    refine .ite ?_ (.entryDone ?_) <;>
    · refine .ite ?_ (.ite (.foldl (fun _ _ h1 => .vEmit h1) h1) (.ite (.foldl (fun _ _ h1 => ?_) h1)
        (.ite (.foldl (fun _ _ h1 => .vEmit h1) h1) (.foldl (fun _ _ h1 => .vEmit h1) h1))))
      · split
        · exact h1
        · exact .foldl (fun _ _ h1 => .scanStream h1) h1
      · dsimp only
        split
        · exact .vEmit h1
        · exact .vEmit h1
        · exact .vEmit h1
        · exact h1

theorem Works.scatterEntry {s : State} (hs : Works s0 s) {j c : Nat} {t : Stage} {i : Nat} {p : Oper} : Works s0 (s.scatterEntry j c t i
    p) := by
  unfold State.scatterEntry
  extract_lets -merge +onlyGivenNames _ _ _ _ _
  split
  · rename_i s1 _ heq
    have h1 : Works s0 s1 := .of_eq heq (.foldl_fst (fun _ _ h1 => (by
      dsimp only
      split
      · exact h1
      · exact .ite_fst (.bump h1) (.stageWrite (.ite (.bump h1) h1)))) hs)
    exact .entryDone h1

theorem Works.routeEntry {s : State} (hs : Works s0 s) {j c : Nat} {t : Stage} {i : Nat} {p : Oper} : Works s0 (s.routeEntry j c t i p) := by
  unfold State.routeEntry
  exact .entryDone (.modCell (.emitTo (.bump hs)))

theorem Works.openPage {s : State} (hs : Works s0 s) {j c : Nat} {l : ListId} {i pos : Nat} {ks vs : List Num} : Works s0 (s.openPage j c
    l i pos ks vs).1 := by
  unfold State.openPage
  extract_lets -merge +onlyGivenNames t fail
  have hfail : ∀ {s}, Works s0 s → Works s0 (fail s).1 := fun h => by
    dsimp only [fail]
    exact .modStream h
  refine .ite_fst (hfail hs) ?_
  split
  · exact hfail (.of_eq ‹_› (.allocPage hs))
  · rename_i s1 _ heq
    have h1 : Works s0 s1 := .of_eq heq (.allocPage hs)
    exact .bump (.stageWrite (.ite (.stageWrite (.stageWrite h1)) (.stageWrite h1)))

theorem Works.appendOne {s : State} (hs : Works s0 s) {j c : Nat} {l : ListId} {i pos : Nat} {ks vs : List Num} : Works s0 (s.appendOne j
    c l i pos ks vs) := by
  unfold State.appendOne
  extract_lets -merge +onlyGivenNames _ _
  split
  · rename_i s1 _ heq
    have h1 : Works s0 s1 := .of_eq heq (.ite_fst hs (.walkEntry hs))
    split
    · rename_i s2 _ heq
      have h2 : Works s0 s2 := .of_eq heq ((by
        split
        · exact h1
        · refine .ite_fst ?_ ?_
          · exact h1
          · split
            · rename_i s2 _ heq
              have h2 : Works s0 s2 := .of_eq heq (.openPage h1)
              exact h2))
      split
      · exact h2
      · extract_lets -merge +onlyGivenNames _
        split
        · rename_i s3 heq
          have h3 : Works s0 s3 := .of_eq heq (.stageRead h2)
          exact h3
        · rename_i s3 _ heq
          have h3 : Works s0 s3 := .of_eq heq (.stageRead h2)
          exact .modCell (.bump (.bump (.ite (.stageWrite (.stageWrite (.stageWrite (.stageWrite h3)))) (.stageWrite (.stageWrite
            (.stageWrite h3))))))

theorem Works.appendEntry {s : State} (hs : Works s0 s) {j c : Nat} {t : Stage} {i : Nat} {p : Oper} : Works s0 (s.appendEntry j c t i p)
    := by
  unfold State.appendEntry
  extract_lets -merge +onlyGivenNames _ _ _ _ _ _ _ _ s1
  have h1 : Works s0 s1 := .foldl (fun _ _ h1 => .ite (.bump (.foldl (fun _ _ h2 => .ite h2 (.appendOne h2)) h1)) (.foldl (fun _ _ h2
    => .ite h2 (.appendOne h2)) h1)) hs
  exact .ite h1 (.entryDone h1)

theorem Works.tableRow {s : State} (hs : Works s0 s) {c : Nat} {t : Stage} {i idx : Nat} : Works s0 (s.tableRow c t i idx).1 := by
  unfold State.tableRow
  exact .ite_fst (.bump hs) (.stageRead hs)

theorem Works.tableRows {s : State} (hs : Works s0 s) {c : Nat} {t : Stage} {i : Nat} {ids : List (RowHdr × Nat)} : Works s0 (s.tableRows
    c t i ids).1 := by
  unfold State.tableRows
  exact .foldl_fst (fun _ _ h1 => .ite_fst ((by
    split
    · rename_i s1 _ heq
      have h1 : Works s0 s1 := .of_eq heq (.tableRow h1)
      exact h1
    · rename_i s1 heq
      have h1 : Works s0 s1 := .of_eq heq (.tableRow h1)
      exact h1)) h1) hs

theorem Works.gatherEntry {s : State} (hs : Works s0 s) {j c : Nat} {t : Stage} {i : Nat} {p : Oper} : Works s0 (s.gatherEntry j c t i p)
    := by
  unfold State.gatherEntry
  extract_lets -merge +onlyGivenNames _
  split
  · rename_i s1 _ _ heq
    have h1 : Works s0 s1 := .of_eq heq (.tableRows hs)
    exact .ite h1 (.entryDone (.emitTo h1))

theorem Works.gEntry {s : State} (hs : Works s0 s) {j c : Nat} {t : Stage} {i : Nat} : Works s0 (s.gEntry j c t i) := by
  unfold State.gEntry
  exact .ite (.scatterEntry hs) (.ite (.routeEntry hs) (.ite (.appendEntry hs) (.gatherEntry hs)))

theorem Works.lSend {s : State} (hs : Works s0 s) {j c : Nat} {t : Stage} {i me n : Nat} {result : List Byte} : Works s0 (s.lSend j c t i
    me n result) := by
  unfold State.lSend
  exact .entryDone (.bump (.emitTo hs))

theorem Works.setPort {s : State} (hs : Works s0 s) {p : Nat} {x : Port} : Works s0 (s.setPort p x) := by
  unfold State.setPort
  exact .upd hs

theorem Works.transmit {s : State} (hs : Works s0 s) {p : Nat} {e : Envelope} : Works s0 (s.transmit p e) := by
  unfold State.transmit
  exact .ite (.setPort hs) (.send (.setPort hs))

theorem Works.linkFailure {s : State} (hs : Works s0 s) {rs : List Nat} : Works s0 (s.linkFailure rs) := by
  unfold State.linkFailure
  exact .foldl (fun _ _ h1 => (by
    split
    · exact .ite (.errsum (.invalidate (.bump h1))) h1
    · exact h1)) hs

theorem Works.sendEnv {s : State} (hs : Works s0 s) {p : Nat} {e : Envelope} : Works s0 (s.sendEnv p e) := by
  unfold State.sendEnv
  exact .ite (.transmit hs) (.ite (.transmit (.ite (.modCell hs) hs)) (.linkFailure hs))

theorem Works.sendFlits {s : State} (hs : Works s0 s) {c : Nat} {t : Stage} {i : Nat} {slots : List SlotEntry} {n k : Nat} {replay :
    Bool} {buf : List Byte} : Works s0 (s.sendFlits c t i slots n k replay buf) := by
  unfold State.sendFlits
  exact .foldl (fun _ _ h1 => .sendEnv h1) (.nextFree hs)

theorem Works.lSendDue {s : State} (hs : Works s0 s) {j c : Nat} {t : Stage} {i n : Nat} {start : List Byte} : Works s0 (s.lSendDue j c t
    i n start) := by
  unfold State.lSendDue
  exact .foldl (fun _ _ h1 => .modCell (.sendFlits h1)) hs

theorem Works.lEntry {s : State} (hs : Works s0 s) {j c : Nat} {t : Stage} {i : Nat} : Works s0 (s.lEntry j c t i) := by
  unfold State.lEntry
  extract_lets -merge +onlyGivenNames _ _ _ _
  refine .ite ?_ ?_
  · exact .ite hs (.lSend hs)
  · extract_lets -merge +onlyGivenNames _ _ _ _
    refine .ite ?_ ?_
    · exact .lSend hs
    · extract_lets -merge +onlyGivenNames _ s1
      have h1 : Works s0 s1 := .lSendDue hs
      split
      · exact h1
      · exact .lSend (.modCell (.ite (.bump h1) h1))

theorem Works.sampleStream {s : State} (hs : Works s0 s) {j c : Nat} {t : Stage} {st : Nat} {rows : List (RowHdr × List MeshRow)}
    {drafts : List Nat} : Works s0 (s.sampleStream j c t st rows drafts) := by
  unfold State.sampleStream
  extract_lets -merge +onlyGivenNames _ _
  split
  · exact hs
  · exact .ite hs (.ite (.modStream hs) (.emitTo (.bump (.bump (.modStream hs)))))

theorem Works.sEntry {s : State} (hs : Works s0 s) {j c : Nat} {t : Stage} : Works s0 (s.sEntry j c t) := by
  unfold State.sEntry
  extract_lets -merge +onlyGivenNames _ _ _ _ _ _ _ s1
  have h1 : Works s0 s1 := .ite (.foldl (fun _ _ h1 => (by
    dsimp only
    split
    · exact h1
    · exact .emitTo (.bump h1))) hs) (.foldl (fun _ _ h1 => .sampleStream h1) hs)
  exact .entryDone h1

theorem Works.runEntry {s : State} (hs : Works s0 s) {j c : Nat} {t : Stage} {i : Nat} : Works s0 (s.runEntry j c t i) := by
  unfold State.runEntry
  exact .ite (.mEntry hs) (.ite (.aEntry hs) (.ite (.vEntry hs) (.ite (.gEntry hs) (.ite (.lEntry hs) (.sEntry hs)))))

theorem Works.noteWait {s : State} (hs : Works s0 s) {j c : Nat} {t : Stage} {i : Nat} : Works s0 (s.noteWait j c t i) := by
  unfold State.noteWait
  exact .ite hs (.modCell hs)

theorem Works.lSkip {s : State} (hs : Works s0 s) {j c : Nat} {t : Stage} {i : Nat} : Works s0 (s.lSkip j c t i) := by
  unfold State.lSkip
  exact .ite hs (.modCell hs)

theorem Works.turn {s : State} (hs : Works s0 s) {j c : Nat} {t : Stage} {i : Nat} : Works s0 (s.turn j c t i) := by
  unfold State.turn
  extract_lets -merge +onlyGivenNames _
  refine .ite ?_ ?_
  · exact hs
  · refine .ite ?_ ?_
    · exact .ite hs (.runEntry hs)
    · extract_lets -merge +onlyGivenNames _ _ _
      refine .ite ?_ ?_
      · exact .keepStage (.noteWait hs)
      · extract_lets -merge +onlyGivenNames s1 s2
        have h1 : Works s0 s1 := .endKeep (.noteWait hs)
        have h2 : Works s0 s2 := .ite (.ite (.lSkip h1) h1) (.runEntry h1)
        exact .ite (.entryDone h2) h2

theorem Works.closeStage {s : State} (hs : Works s0 s) {j c : Nat} {t : Stage} : Works s0 (s.closeStage j c t) := by
  unfold State.closeStage
  exact .foldl (fun _ _ h1 => .modCell h1) hs

theorem Works.runStage {s : State} (hs : Works s0 s) {c : Nat} : Works s0 (s.runStage c) := by
  unfold State.runStage
  split
  · exact hs
  · exact .ite (.closeStage (.foldl (fun _ _ h1 => .ite (.turn h1) h1) (.ite (.prepare hs) hs))) (.foldl (fun _ _ h1 => .ite (.turn
      h1) h1) (.ite (.prepare hs) hs))

theorem Works.runFrom {s : State} (hs : Works s0 s) {c : Nat} : Works s0 (s.runFrom c) := by
  unfold State.runFrom
  exact .foldl (fun _ _ h1 => .runStage h1) (.runStage hs)

theorem Works.resumeCells {s : State} (hs : Works s0 s) : Works s0 s.resumeCells := by
  unfold State.resumeCells
  exact .foldl (fun _ _ h1 => .runFrom h1) (.resumeLoads hs)

theorem Works.errAll {s : State} (hs : Works s0 s) {c : Nat} : Works s0 (s.errAll c) := by
  unfold State.errAll
  exact .resumeCells (.foldl (fun _ _ h1 => .failAcc h1) (.upd hs))

theorem Works.showStack {s : State} (hs : Works s0 s) {k : Nat} : Works s0 (s.showStack k) := by
  unfold State.showStack
  exact .foldl (fun _ _ h1 => .showFlails (.putStatus (.showRefresh h1))) hs

theorem Works.startFlails {s : State} (hs : Works s0 s) {c : Nat} : Works s0 (s.startFlails c) := by
  unfold State.startFlails
  exact .showFlails (.modChan hs)

theorem Works.movePort {s : State} (hs : Works s0 s) {p : Nat} : Works s0 (s.movePort p) := by
  unfold State.movePort
  exact .foldl (fun _ _ h1 => .sendEnv h1) (.ite (.putF (.setPort hs)) (.setPort hs))

theorem Works.discardWork {s : State} (hs : Works s0 s) {c : Nat} : Works s0 (s.discardWork c) := by
  unfold State.discardWork
  exact .modCell (.dropPass hs)

theorem Works.notePending {s : State} (hs : Works s0 s) {j c : Nat} {t : Stage} : Works s0 (s.notePending j c t) := by
  unfold State.notePending
  exact .ite (.endKeep (.noteWait hs)) hs

theorem Works.opProducerLost {c p : Nat} {s : State} (hs : Works s0 s) : Works s0 (opProducerLost c p s) := by
  unfold Machine.opProducerLost
  extract_lets -merge +onlyGivenNames s1
  have h1 : Works s0 s1 := .bump hs
  split
  · exact h1
  · exact .ite h1 (.invalidate (.modCell (.discardWork (.notePending h1))))

theorem Works.errAcross {s : State} (hs : Works s0 s) {l : Nat} : Works s0 (s.errAcross l) := by
  unfold State.errAcross
  exact .foldl (fun _ _ h1 => .opProducerLost (.bump h1)) (.foldl (fun _ _ h1 => .failAcc (.bump h1)) (.upd hs))

theorem Works.setSheaf {s : State} (hs : Works s0 s) {i : Nat} {x : SheafSt} : Works s0 (s.setSheaf i x) := by
  unfold State.setSheaf
  exact .upd hs

theorem Works.showResets {s : State} (hs : Works s0 s) : Works s0 s.showResets := by
  have hgo : ∀ k, (resetGo k).reg ∈ tableRegs := fun k => by
    unfold resetGo; split; · decide
    split <;> decide
  have hactive : ∀ k, (resetActive k).reg ∈ tableRegs := fun k => by
    unfold resetActive; split; · decide
    split <;> decide
  unfold State.showResets
  exact .foldl (fun _ k h1 => (h1.putF (hgo k)).putF (hactive k)) hs

theorem Works.showIdle {s : State} (hs : Works s0 s) {c : Nat} : Works s0 (s.showIdle c) := by
  unfold State.showIdle
  exact .putF (.putF (.putF (.putF (.setReg hs))))

theorem Works.dropProgram {s : State} (hs : Works s0 s) {j edge : Nat} : Works s0 (s.dropProgram j edge) := by
  unfold State.dropProgram
  exact .setProg (.foldl (fun _ _ h1 => .modCell (.showIdle h1)) (.foldl (fun _ _ h1 => .putF (.setSheaf h1)) (.foldl (fun _ _ h1 =>
    .dropPfx h1) hs)))

theorem Works.releaseStream {s : State} (hs : Works s0 s) {i edge : Nat} : Works s0 (s.releaseStream i edge) := by
  unfold State.releaseStream
  exact .setStream (.ite (.unreserve (.leaveFrom (.dropTokenReservation hs))) (.leaveFrom (.dropTokenReservation hs)))

theorem Works.closeSilently {s : State} (hs : Works s0 s) {i edge : Nat} : Works s0 (s.closeSilently i edge) := by
  unfold State.closeSilently
  exact .ite (.releaseStream (.modStream (.foldl (fun _ _ h1 => .unreserve h1) hs))) hs

theorem Works.releaseCell {s : State} (hs : Works s0 s) {j : Nat} {run : Bool} {c : Nat} : Works s0 (s.releaseCell j run c) := by
  unfold State.releaseCell
  exact .putF (.modCell hs)

theorem Works.releaseProgram {s : State} (hs : Works s0 s) {j : Nat} : Works s0 (s.releaseProgram j) := by
  unfold State.releaseProgram
  exact .modProg (.ite (.foldl (fun _ _ h1 => .bump h1) (.foldl (fun _ _ h1 => .releaseCell h1) hs)) (.foldl (fun _ _ h1 =>
    .releaseCell h1) hs))

theorem Works.showPass {s : State} (hs : Works s0 s) {c : Nat} : Works s0 (s.showPass c) := by
  unfold State.showPass
  extract_lets -merge +onlyGivenNames _
  split
  · exact .ite (.putF hs) hs
  · exact hs

theorem Works.recordLate {s : State} (hs : Works s0 s) {c : Nat} {t : Stage} {f wait : Nat} : Works s0 (s.recordLate c t f wait) := by
  unfold State.recordLate
  exact .modCell (.putF (.putF (.putF (.putF hs))))

theorem Works.idleCell {s : State} (hs : Works s0 s) {c : Nat} : Works s0 (s.idleCell c) := by
  unfold State.idleCell
  exact .putF (.putF (.putF hs))

theorem Works.payRefresh {s : State} (hs : Works s0 s) : Works s0 s.payRefresh := by
  unfold State.payRefresh
  exact .foldl (fun _ _ h1 => .startFlails (.putStatus (.modChan h1))) hs

theorem Works.startAll {s : State} (hs : Works s0 s) : Works s0 s.startAll := by
  unfold State.startAll
  exact .foldl (fun _ _ h1 => .startFlails h1) hs

theorem Works.countWait {s : State} (hs : Works s0 s) {a : WaitAcc} : Works s0 (s.countWait a) := by
  unfold State.countWait
  extract_lets -merge +onlyGivenNames _ s1
  have h1 : Works s0 s1 := (by
    dsimp only [s1]
    split
    · exact .ite hs (.modCell hs)
    · exact hs)
  exact .foldl (fun _ _ h1 => .countFlailWait h1) h1

theorem Works.goOn {s : State} (hs : Works s0 s) : Works s0 s.goOn := by
  unfold State.goOn
  exact .startAll (.resumeCells (.foldl (fun _ _ h1 => .ite (.upd h1) (.serve (.countWait h1))) (.upd hs)))

theorem Works.flailMet {s : State} (hs : Works s0 s) {c : Nat} {f : FlailCmd} {bad : List Nat} : Works s0 (s.flailMet c f bad) := by
  unfold State.flailMet
  exact .foldl (fun _ _ h1 => .ite (.metWord h1) (.ite (.metWord h1) ((by
    split
    · exact .metWord h1
    · exact .ueRecord h1)))) hs

theorem Works.flailBad {s : State} (hs : Works s0 s) {c : Nat} {f : FlailCmd} {bad : List Nat} : Works s0 (s.flailBad c f bad) := by
  unfold State.flailBad
  exact .bump (.flailMet hs)

theorem Works.enqueue {s : State} (hs : Works s0 s) {c : Nat} {f : FlailCmd} : Works s0 (s.enqueue c f) := by
  unfold State.enqueue
  extract_lets -merge +onlyGivenNames s1
  have h1 : Works s0 s1 := .modChan hs
  exact .upd h1

theorem Works.stopCell {s : State} (hs : Works s0 s) {c at_ : Nat} : Works s0 (s.stopCell c at_) := by
  unfold State.stopCell
  exact .invalidateCell (.modCell (.putF (.putF (.putF (.dropPass hs)))))

theorem Works.stopStages {s : State} (hs : Works s0 s) {at_ : Nat} : Works s0 (s.stopStages at_) := by
  unfold State.stopStages
  exact .foldl (fun _ _ h1 => .stopCell h1) hs

theorem Works.lateAtLimit {s : State} (hs : Works s0 s) {c : Nat} : Works s0 (s.lateAtLimit c) := by
  unfold State.lateAtLimit
  split
  · exact .recordLate hs
  · exact hs

theorem Works.sramUe {s : State} (hs : Works s0 s) {reader : Nat × Nat} {c w : Nat} : Works s0 (s.sramUe reader c w) := by
  unfold State.sramUe
  extract_lets -merge +onlyGivenNames s1 s2 s3
  have h1 : Works s0 s1 := .modCell hs
  have h2 : Works s0 s2 := .putF h1
  have h3 : Works s0 s3 := .putF h2
  split
  · exact .ueRecord h3
  · split
    · rename_i s4 _ heq
      have h4 : Works s0 s4 := .of_eq heq (.badPlace h3)
      exact .ueRecord (.ite (.modCell (.ite (.dropPass h4) h4)) (.ite (.dropPass h4) h4))

theorem Works.routerUe {s : State} (hs : Works s0 s) {r : Reader} {c w : Nat} : Works s0 (s.routerUe r c w) := by
  unfold State.routerUe
  extract_lets -merge +onlyGivenNames k j s1
  have h1 : Works s0 s1 := .ueRecord hs
  clear_value s1 j
  cases j with
  | none => exact h1
  | some j => exact .invalidate (.modCell (.discardWork (.bump h1)))

theorem Works.opBankRefresh {c b : Nat} {busy : Bool} {s : State} (hs : Works s0 s) : Works s0 (opBankRefresh c b busy s) := by
  unfold Machine.opBankRefresh
  exact .ite hs (.ite (.setOwed hs) (.ite hs (.ite (.setOwed hs) (.bump hs))))

theorem Works.thermalError {s : State} (hs : Works s0 s) {k : Nat} : Works s0 (s.thermalError k) := by
  unfold State.thermalError
  exact .errsum hs

theorem Works.scramble {s : State} (hs : Works s0 s) {a n : Nat} : Works s0 (s.scramble a n) := by
  unfold State.scramble
  exact .nextFree (.writeDev hs)

theorem Works.abandonOp {s : State} (hs : Works s0 s) {c : Nat} {f : FlailCmd} : Works s0 (s.abandonOp c f) := by
  unfold State.abandonOp
  extract_lets -merge +onlyGivenNames s1 s2
  have h1 : Works s0 s1 := .bump hs
  have h2 : Works s0 s2 := .ite (.portEnd h1) h1
  exact .ite (.scramble h2) (.ite (.nextFree (.upd h2)) h2)

theorem Works.abandonFlails {s : State} (hs : Works s0 s) {c : Nat} {err : Bool} : Works s0 (s.abandonFlails c err) := by
  unfold State.abandonFlails
  extract_lets -merge +onlyGivenNames _ s1 s2 s3 s4
  have h1 : Works s0 s1 := .foldl (fun _ _ h1 => .abandonOp h1) hs
  have h2 : Works s0 s2 := .ite (.dropQueued h1) h1
  have h3 : Works s0 s3 := .ite (.portEnd h2) h2
  have h4 : Works s0 s4 := .modChan h3
  exact .putF (.showFlails h4)

theorem Works.flailCmd {s : State} (hs : Works s0 s) {c op : Nat} {w : FlailWords} {data : List Byte} {port : Bool} : Works s0 (s.flailCmd
    c op w data port) := by
  unfold State.flailCmd
  refine .ite ?_ ?_
  · exact .ite (.send hs) hs
  · extract_lets -merge +onlyGivenNames _ s1
    have h1 : Works s0 s1 := (by
      dsimp only [s1]
      split
      · exact .ite (.enqueue hs) hs
      · exact hs)
    exact .startFlails (.enqueue h1)

theorem Works.portStart {s : State} (hs : Works s0 s) {c op : Nat} {w : FlailWords} : Works s0 (s.portStart c op w) := by
  unfold State.portStart
  exact .ite hs (.ite (.portEnd hs) (.ite (.flailCmd (.putF hs)) hs))

theorem Works.portRead {s : State} (hs : Works s0 s) {c n : Nat} : Works s0 (s.portRead c n).1 := by
  unfold State.portRead
  extract_lets -merge +onlyGivenNames _
  refine .ite_fst ?_ ?_
  · exact .countAddr hs
  · refine .ite_fst ?_ ?_
    · exact .countWrapped hs
    · extract_lets -merge +onlyGivenNames s1
      have h1 : Works s0 s1 := .foldl (fun _ _ h1 => .softWord h1) (.forceRefreshes hs)
      split
      · exact h1
      · exact .foldl (fun _ _ h1 => .metWord h1) h1

theorem Works.loadqEnds {s : State} (hs : Works s0 s) {c : Nat} {f : FlailCmd} : Works s0 (s.loadqEnds c f) := by
  unfold State.loadqEnds
  extract_lets -merge +onlyGivenNames _
  split
  · rename_i s1 _ heq
    have h1 : Works s0 s1 := .of_eq heq (.ite_fst (.portRead hs) hs)
    extract_lets -merge +onlyGivenNames s2
    have h2 : Works s0 s2 := .bump h1
    split
    · exact .portEnd h2
    · exact .ite (.portEnd (.putF (.modChan h2))) (.putF (.modChan h2))

theorem Works.flailRead {s : State} (hs : Works s0 s) {c : Nat} {ws : List Nat} : Works s0 (s.flailRead c ws).1 := by
  unfold State.flailRead
  exact .foldl (fun _ _ h1 => .bump (.softWord h1)) hs

theorem Works.flushBurst {s : State} (hs : Works s0 s) {c : Nat} : Works s0 (s.flushBurst c) := by
  unfold State.flushBurst
  exact .ite hs (.modChan (.send hs))

theorem Works.sendScores {s : State} (hs : Works s0 s) {c : Nat} : Works s0 (s.sendScores c) := by
  unfold State.sendScores
  extract_lets -merge +onlyGivenNames _ _ _ s1
  have h1 : Works s0 s1 := .modChan hs
  exact .foldl (fun _ _ h1 => .ite (.flushBurst ((by
    split
    · exact .send h1
    · exact .modChan (.foldl (fun _ _ h2 => .send h2) h1)))) ((by
    split
    · exact .send h1
    · exact .modChan (.foldl (fun _ _ h2 => .send h2) h1)))) h1

theorem Works.putScores {s : State} (hs : Works s0 s) {c : Nat} {f : FlailCmd} {bytes : Option (List Byte)} : Works s0 (s.putScores c f
    bytes) := by
  unfold State.putScores
  exact .ite (.sendScores hs) (.sendScores (.modChan hs))

theorem Works.portWrite {s : State} (hs : Works s0 s) {c : Nat} {bs : List Byte} : Works s0 (s.portWrite c bs) := by
  unfold State.portWrite
  exact .accessDev hs

theorem Works.scoreEnds {s : State} (hs : Works s0 s) {c : Nat} {f : FlailCmd} : Works s0 (s.scoreEnds c f) := by
  unfold State.scoreEnds
  extract_lets -merge +onlyGivenNames w x rb row recs lacks
  have h1 : Works s0 (s.flailRead c (rangeWords (recs.map (fun i =>
    let a := max row (fwRegionAt w c + i * rb)
    (a, fwRegionAt w c + (i + 1) * rb - a))))).1 := .flailRead hs
  generalize s.flailRead c _ = p at h1 ⊢
  obtain ⟨s1, bad⟩ := p
  dsimp -zeta only at h1 ⊢
  extract_lets -merge +onlyGivenNames heads s2 used
  have h2 : Works s0 s2 := .bump h1
  have hused : ∀ {s}, Works s0 s → Works s0 (used s) := fun h => .modChan h
  refine .ite ?_ ?_
  · exact .ite (.portEnd (hused (.flailBad h2))) (.putScores (hused (.flailBad h2)))
  · exact .ite (.putScores (.modChan (hused h2))) (.ite (.portEnd (.modChan (hused h2))) (.portWrite (.modChan (hused h2))))

theorem Works.topkEnds {s : State} (hs : Works s0 s) {c : Nat} {f : FlailCmd} : Works s0 (s.topkEnds c f) := by
  unfold State.topkEnds
  extract_lets -merge +onlyGivenNames _ _ _ _
  split
  · rename_i s1 _ heq
    have h1 : Works s0 s1 := .of_eq heq (.flailRead hs)
    exact .ite (.portEnd (.flailBad (.bump h1))) (.ite (.portEnd (.ite (.bump h1) (.nextFree (.bump h1)))) (.portWrite (.ite (.bump
      h1) (.nextFree (.bump h1)))))

theorem Works.fragParts {s : State} (hs : Works s0 s) {c : Nat} {ps : List (Nat × Nat)} : Works s0 (s.fragParts c ps).1 := by
  unfold State.fragParts
  exact .foldl (fun _ _ h1 => .softWord h1) (.bump hs)

theorem Works.putRecord {s : State} (hs : Works s0 s) {a : Nat} {bs : List Byte} : Works s0 (s.putRecord a bs) := by
  unfold State.putRecord
  exact .ite (.writeDev hs) (.writeDev (.writeDev hs))

theorem Works.requantEnds {s : State} (hs : Works s0 s) {c : Nat} {f : FlailCmd} : Works s0 (s.requantEnds c f) := by
  unfold State.requantEnds
  extract_lets -merge +onlyGivenNames _ _ _ _ _ _ _ _ _
  split
  · rename_i s1 _ heq
    have h1 : Works s0 s1 := .of_eq heq (.flailRead hs)
    split
    · rename_i s2 _ heq
      have h2 : Works s0 s2 := .of_eq heq (.fragParts h1)
      exact .ite (.portEnd (.flailMet (.flailBad (.bump h2)))) (.portEnd (.writeDev (.foldl (fun _ _ h1 => .putRecord h1) (.bump h2))))

theorem Works.fragEnds {s : State} (hs : Works s0 s) {c : Nat} {f : FlailCmd} : Works s0 (s.fragEnds c f) := by
  unfold State.fragEnds
  split
  · rename_i s1 _ heq
    have h1 : Works s0 s1 := .of_eq heq ((by
      split
      · exact hs
      · extract_lets -merge +onlyGivenNames _ s1
        have h1 : Works s0 s1 := .foldl (fun _ _ h1 => .softWord h1) (.forceRefreshes hs)
        split
        · exact h1
        · exact .flailMet h1))
    exact .bump (.modChan h1)

theorem Works.dropStageFlails {s : State} (hs : Works s0 s) : Works s0 s.dropStageFlails := by
  unfold State.dropStageFlails
  extract_lets -merge +onlyGivenNames s1
  have h1 : Works s0 s1 := .foldl (fun _ _ h1 => .showFlails (.modChan h1)) hs
  exact .goOn (.upd h1)

theorem Works.unloadAll {s : State} (hs : Works s0 s) : Works s0 s.unloadAll := by
  unfold State.unloadAll
  extract_lets -merge +onlyGivenNames _ s1 s2
  have h1 : Works s0 s1 := .foldl (fun _ _ h1 => .closeSilently h1) hs
  have h2 : Works s0 s2 := .foldl (fun _ _ h1 => .dropProgram h1) h1
  exact .upd h2

theorem Works.returnCell {s : State} (hs : Works s0 s) {c : Nat} : Works s0 (s.returnCell c) := by
  unfold State.returnCell
  exact .ite (.putF (.setUsable (.setCell hs))) hs

end

end Sys2Proof.Machine
end



section
/-! SUPPORT. The readings of the sensors: a reading is shown in its sensor's register (R474), and nothing that a round of readings does
afterwards, to the stacks, the channels or the part, writes a reading or the rails' voltages again. -/

namespace Sys2Proof.Machine

/-! ## Taking readings -/

theorem getF_takeReadings_of_not_mem (rs : List Reading) (i : Nat) (s : State) (hi : i < 2640) (hr : ∀ r ∈ rs, r.sensor < 2640)
    (hn : i ∉ rs.map (fun r => r.sensor)) : (s.takeReadings rs).getF F.thmSens_reading i = s.getF F.thmSens_reading i := by
  induction rs generalizing s with
  | nil => rfl
  | cons r rs ih =>
    simp only [List.map_cons, List.mem_cons, not_or] at hn
    have hlt : r.sensor < 2640 := hr r (List.mem_cons_self ..)
    exact (ih _ (fun x hx => hr x (List.mem_cons_of_mem _ hx)) hn.2).trans
      (getF_putF_inst s F.thmSens_reading _ _ _ (Ne.symm hn.1) (by omega) (by omega))

/-- Of different sensors, each shows its own reading. -/
theorem getF_takeReadings_of_mem (rs : List Reading) (s : State) (hr : ∀ r ∈ rs, r.sensor < 2640)
    (hd : (rs.map (fun r => r.sensor)).Nodup) :
    ∀ r ∈ rs, (s.takeReadings rs).getF F.thmSens_reading r.sensor = (BitVec.ofInt 16 r.value).toNat := by
  induction rs generalizing s with
  | nil => exact fun _ h => absurd h List.not_mem_nil
  | cons x rs ih =>
    simp only [List.map_cons, List.nodup_cons] at hd
    have hrest : ∀ r ∈ rs, r.sensor < 2640 := fun r h => hr r (List.mem_cons_of_mem _ h)
    intro r hmem
    rcases List.mem_cons.1 hmem with rfl | hin
    · refine (getF_takeReadings_of_not_mem rs _ _ (hr r (List.mem_cons_self ..)) hrest hd.1).trans ?_
      rw [getF_putF_same s F.thmSens_reading _ _ (by decide)]
      exact Nat.mod_eq_of_lt (BitVec.isLt _)
    · exact ih _ hrest hd.2 r hin

theorem takeReadings_frame (rs : List Reading) (s : State) : s.takeReadings rs = { s with regs := (s.takeReadings rs).regs } := by
  induction rs generalizing s with
  | nil => rfl
  | cons r rs ih => exact ih (s.putF F.thmSens_reading r.sensor _)

theorem sameRegs_takeReadings (rs : List Reading) (s : State) :
    sameRegs (rs.map (fun r => regKey R.thmSens r.sensor)) s (s.takeReadings rs) := by
  induction rs generalizing s with
  | nil => exact sameRegs_refl _ s
  | cons r rs ih =>
    intro d k hk
    simp only [List.map_cons, List.mem_cons, not_or] at hk
    exact (ih (s.putF F.thmSens_reading r.sensor _) d k hk.2).trans
      (sameRegs_putF (ks := [regKey R.thmSens r.sensor]) F.thmSens_reading _ _ (sameRegs_refl _ s) (List.mem_singleton.2 rfl) d k
        (fun h => hk.1 (List.mem_singleton.1 h)))

/-- The bookkeeping of the cooling condition moves nothing but the heat record. -/
theorem trackCool_frame (s : State) (now : Nat) : ∃ since, s.trackCool now = { s with heat := { s.heat with coolSince := since } } := by
  by_cases h : s.getF F.pwrStat_state = 2 ∨ s.start.tripHold
  · exact ⟨_, if_pos h⟩
  · exact ⟨s.heat.coolSince, if_neg h⟩

/-! ## What keeps the readings -/

/-- A field of a register that the work does not write. -/
theorem getF_of_works {s u : State} (h : Works s u) {f : Fld} (hf : workRegs.all (fun q => f.reg.off / 8 != q.off / 8) = true) (i : Nat) :
    u.getF f i = s.getF f i :=
  getF_of_regsIn h.regs (fun q hq => by simpa using List.all_eq_true.1 hf q hq) i

/-- The readings shown and the rails' voltages kept are as before. -/
def keepsReadings (s u : State) : Prop :=
  u.heat.railMv = s.heat.railMv ∧ ∀ i, u.getF F.thmSens_reading i = s.getF F.thmSens_reading i

theorem keepsReadings_refl (s : State) : keepsReadings s s := ⟨rfl, fun _ => rfl⟩

theorem keepsReadings_trans (s t u : State) (h : keepsReadings s t) (h' : keepsReadings t u) : keepsReadings s u :=
  ⟨h'.1.trans h.1, fun i => (h'.2 i).trans (h.2 i)⟩

theorem keepsReadings_of_works {s u : State} (h : Works s u) : keepsReadings s u :=
  ⟨congrArg Heat.railMv h.heat, fun i => getF_of_works h (by decide) i⟩

theorem keepsReadings_of_frame {s u : State} (hr : u.regs = s.regs) (hh : u.heat.railMv = s.heat.railMv) : keepsReadings s u :=
  ⟨hh, fun i => getF_of_regs hr _ i⟩

/-- A field of another register, or another field of the sensors' register. -/
theorem keepsReadings_putF (s : State) (f : Fld) (i v : Nat)
    (hf : f.reg.off / 8 ≠ R.thmSens.off / 8 ∨ f.reg = R.thmSens ∧ 16 ≤ f.lo) : keepsReadings s (s.putF f i v) := by
  refine ⟨rfl, fun k => ?_⟩
  rcases hf with hoff | ⟨hreg, hlo⟩
  · exact getF_putF_off s f F.thmSens_reading i k v hoff
  · by_cases hk : regKey f.reg i = regKey R.thmSens k
    · have hsame : ∀ u : State, u.reg R.thmSens k = u.reg R.thmSens i := fun u => by
        rw [State.reg, State.reg, ← hk, hreg]
        exact rfl
      have h3 := getF_putF_apart s f F.thmSens_reading i v hreg (Or.inl hlo)
      simp only [State.getF] at h3 ⊢
      rw [show F.thmSens_reading.reg = R.thmSens from rfl] at h3 ⊢
      rw [hsame, hsame, h3]
    · exact getF_putF_ne s f F.thmSens_reading i k v hk

theorem keepsReadings_ite {s t u : State} {c : Prop} [Decidable c] (h : keepsReadings s t) (h' : keepsReadings s u) :
    keepsReadings s (if c then t else u) := by
  split
  · exact h
  · exact h'

theorem keepsReadings_foldl {α : Type} {f : State → α → State} (hf : ∀ s a, keepsReadings s (f s a)) (l : List α) (s : State) :
    keepsReadings s (l.foldl f s) := foldl_rel keepsReadings_refl keepsReadings_trans hf l s

theorem keepsReadings_of_ringPath {s u : State} (h : ringPath s u) : keepsReadings s u := by
  obtain ⟨_, _, rfl⟩ := h
  exact keepsReadings_of_frame rfl rfl

theorem keepsReadings_start (s : State) (x : Start) : keepsReadings s { s with start := x } := keepsReadings_of_frame rfl rfl

theorem keepsReadings_tick (s : State) (x : TickSt) : keepsReadings s { s with tick := x } := keepsReadings_of_frame rfl rfl

/-! ## A stop leaves the readings -/

theorem ringPath_waitForRelease (s : State) (x : Nat) (ks : List Nat) : ringPath s (s.waitForRelease x ks) :=
  foldl_rel ringPath_refl ringPath_trans (fun _ _ => ⟨_, _, rfl⟩) ks s

/-- Giving planes up sends words of the ring and notes what is waited for (R334). -/
theorem ringPath_releasePlanes (s : State) (ps : List Nat) : ringPath s (s.releasePlanes ps) := by
  unfold State.releasePlanes
  refine ringPath_ite (ringPath_refl s) ?_
  have hwait : ∀ (t : State) (r : Ring) (ks : List Nat), ringPath s t → ringPath s ({ t with ring := r }.waitForRelease t.own ks) :=
    fun t r ks h => ringPath_trans _ _ _ (ringPath_trans _ _ _ h ⟨_, _, rfl⟩) (ringPath_waitForRelease _ _ _)
  exact ringPath_ite
    (ringPath_trans _ _ _ (ringPath_trans _ _ _ (hwait _ _ _ (ringPath_tell _ _)) ⟨_, _, rfl⟩) (ringPath_tell _ _))
    (hwait _ _ _ (ringPath_tell _ _))

/-- The end of a stop fails the streams, serves what waits, and lets the lofts refresh themselves (R508). -/
theorem keepsReadings_finishStop (s : State) : keepsReadings s s.finishStop := by
  unfold State.finishStop
  extract_lets -merge +onlyGivenNames _ s1 s2 s3 s4 s5
  have h3 : Works s s3 := .foldl (fun _ _ h => .selfRefresh (.dropQueued h))
    (.resumeLoads (.foldl (fun _ _ h => .serve h) (.upd (.foldl (fun _ _ h => .failStream h) .same))))
  have h4 : keepsReadings s s4 := keepsReadings_trans _ _ _ (keepsReadings_of_works h3)
    (keepsReadings_putF s3 F.pwrStat_state 0 2 (by decide))
  exact keepsReadings_trans _ _ _ h4 (keepsReadings_trans _ _ _ (keepsReadings_tick s4 _)
    (keepsReadings_of_works (.raise (.sendRecords .same))))

theorem keepsReadings_beginStop (s : State) (cause : Nat) (atOnce : Bool) : keepsReadings s (s.beginStop cause atOnce) := by
  unfold State.beginStop
  refine keepsReadings_ite (keepsReadings_refl s) ?_
  extract_lets -merge +onlyGivenNames s1 _ s2 s3
  have h1 : keepsReadings s s1 := keepsReadings_trans _ _ _ (keepsReadings_putF s F.pwrStat_state 0 1 (by decide))
    (keepsReadings_putF _ F.pwrStat_cause 0 cause (by decide))
  have h3 : keepsReadings s s3 := keepsReadings_trans _ _ _ h1 (keepsReadings_trans _ _ _ (keepsReadings_start s1 _)
    (keepsReadings_of_ringPath (ringPath_releasePlanes _ _)))
  exact keepsReadings_ite
    (keepsReadings_trans _ _ _ h3 (keepsReadings_trans _ _ _ (keepsReadings_of_works (.stopStages .same)) (keepsReadings_finishStop _)))
    (keepsReadings_ite (keepsReadings_trans _ _ _ h3 (keepsReadings_finishStop _)) h3)

/-! ## The rest of a round leaves the readings -/

theorem keepsReadings_sensors (s : State) (x : Tbl Sensor) : keepsReadings s { s with sensors := x } := keepsReadings_of_frame rfl rfl

theorem keepsReadings_setStack (s : State) (k : Nat) (x : Stack) : keepsReadings s (s.setStack k x) := keepsReadings_of_frame rfl rfl

/-- A stack's record changes and its channels show it. -/
theorem keepsReadings_setStack_showStack (s : State) (k : Nat) (x : Stack) : keepsReadings s ((s.setStack k x).showStack k) :=
  keepsReadings_trans _ _ _ (keepsReadings_setStack s k x) (keepsReadings_of_works (.showStack .same))

theorem keepsReadings_enterHotHold (s : State) (k : Nat) (t : Int) : keepsReadings s (s.enterHotHold k t) :=
  keepsReadings_ite (keepsReadings_refl s) (keepsReadings_trans _ _ _ (keepsReadings_setStack s k _)
    (keepsReadings_of_works (.goOn (.raise (.thermalError (.showStack .same))))))

theorem keepsReadings_stopStack (s : State) (k : Nat) (t : Int) : keepsReadings s (s.stopStack k t) := by
  unfold State.stopStack
  refine keepsReadings_ite (keepsReadings_refl s) (keepsReadings_trans _ _ _ ?_ (keepsReadings_beginStop _ 1 false))
  exact keepsReadings_trans _ _ _ (keepsReadings_setStack s k _) (keepsReadings_of_works
    (.raise (.thermalError (.foldl (fun _ _ h => .showRefresh (.abandonFlails (.errAll h))) .same))))

theorem keepsReadings_warmLoft (s : State) (k l : Nat) (t : Int) : keepsReadings s (s.warmLoft k l t) := by
  unfold State.warmLoft
  extract_lets -merge +onlyGivenNames x s1 s2
  have h1 : keepsReadings s s1 := keepsReadings_ite (keepsReadings_setStack_showStack s k _) (keepsReadings_refl s)
  have h2 : keepsReadings s s2 :=
    keepsReadings_trans _ _ _ h1 (keepsReadings_ite (keepsReadings_enterHotHold s1 k t) (keepsReadings_refl s1))
  exact keepsReadings_trans _ _ _ h2 (keepsReadings_ite (keepsReadings_stopStack s2 k t) (keepsReadings_refl s2))

theorem keepsReadings_coolLoft (s : State) (k l : Nat) (t : Int) : keepsReadings s (s.coolLoft k l t) := by
  unfold State.coolLoft
  exact keepsReadings_ite (keepsReadings_setStack_showStack s k _) (keepsReadings_setStack s k _)

theorem keepsReadings_checkGroup (s : State) (now : Nat) (g : List Nat) : keepsReadings s (s.checkGroup now g) := by
  unfold State.checkGroup
  extract_lets -merge +onlyGivenNames live vs hi lo s1 odd s2 first x due
  have h1 : keepsReadings s s1 := keepsReadings_foldl (fun s i => keepsReadings_putF s F.thmSens_disagree i 0 (by decide)) g s
  have h2 : keepsReadings s s2 := keepsReadings_trans _ _ _ h1
    (keepsReadings_foldl (fun s i => keepsReadings_putF s F.thmSens_disagree i 1 (by decide)) live s1)
  have hraise : ∀ (t : State) (sn : Tbl Sensor) (a b c : Nat) (w : Word), keepsReadings t ({ t with sensors := sn }.raise a b c w) :=
    fun t sn a b c w => keepsReadings_trans _ _ _ (keepsReadings_sensors t sn) (keepsReadings_of_works (.raise .same))
  refine keepsReadings_ite h1 (keepsReadings_ite (keepsReadings_ite (keepsReadings_trans _ _ _ h2 (hraise s2 _ _ _ _ _)) h2) ?_)
  exact keepsReadings_trans _ _ _ h1 (keepsReadings_foldl (fun s i =>
    keepsReadings_trans _ _ _ (keepsReadings_putF s F.thmSens_suspect i 1 (by decide)) (hraise _ _ _ _ _ _)) odd s1)

theorem keepsReadings_countAgree (s : State) (i : Nat) : keepsReadings s (s.countAgree i) :=
  keepsReadings_ite (keepsReadings_sensors s _) (keepsReadings_refl s)

theorem keepsReadings_trackCool (s : State) (now : Nat) : keepsReadings s (s.trackCool now) :=
  let ⟨_, h⟩ := trackCool_frame s now
  h ▸ keepsReadings_of_frame rfl rfl

/-- A round shows its temperatures, keeps its voltages, and then changes neither. -/
theorem opHousekeeping_keeps (r : Round) (now : Nat) (s : State) :
    (opHousekeeping r now s).heat.railMv = r.rails ++ s.heat.railMv.filter (fun e => !r.rails.any (fun x => x.1 == e.1)) ∧
    ∀ i, (opHousekeeping r now s).getF F.thmSens_reading i = ((s.at_ now).takeReadings r.temps).getF F.thmSens_reading i := by
  unfold opHousekeeping
  extract_lets -merge +onlyGivenNames s1 v s2 lofts s3 s4 s5 s6 hot s7
  have h3 : keepsReadings s2 s3 := keepsReadings_foldl (f := fun s (e : Nat × Nat) => s.warmLoft e.1 e.2 (s.loftTemp e.1 e.2))
    (fun s e => keepsReadings_warmLoft s e.1 e.2 _) lofts s2
  have h4 : keepsReadings s2 s4 := keepsReadings_trans _ _ _ h3
    (keepsReadings_foldl (f := fun s g => s.checkGroup now g) (fun s g => keepsReadings_checkGroup s now g) sensorGroups s3)
  have h5 : keepsReadings s2 s5 := keepsReadings_trans _ _ _ h4
    (keepsReadings_foldl (f := fun s i => s.countAgree i) keepsReadings_countAgree (List.range 2640) s4)
  have h6 : keepsReadings s2 s6 := keepsReadings_trans _ _ _ h5
    (keepsReadings_foldl (f := fun s (e : Nat × Nat) => s.coolLoft e.1 e.2 (s.loftTemp e.1 e.2))
      (fun s e => keepsReadings_coolLoft s e.1 e.2 _) lofts s5)
  have h7 : keepsReadings s2 s7 := keepsReadings_trans _ _ _ h6 (keepsReadings_trans _ _ _
    (keepsReadings_putF s6 F.thmHot_junction 0 _ (by decide)) (keepsReadings_putF _ F.thmHot_loft 0 _ (by decide)))
  obtain ⟨hrails, hread⟩ := keepsReadings_trans _ _ _ h7 (keepsReadings_trackCool s7 now)
  refine ⟨hrails.trans ?_, fun i => (hread i).trans rfl⟩
  show r.rails ++ ((s.at_ now).takeReadings r.temps).heat.railMv.filter _ = _
  rw [takeReadings_frame]
  rfl

/-! ## Readings of the sentinels -/

/-- Readings of the sentinels without a forecast show them, and keep their own in the heat record (R474, R482). -/
theorem opSentinel_none_frame (rs : List Reading) (reach now : Nat) (s : State) :
    ∃ heat, opSentinel rs none reach now s = { s.at_ now with regs := ((s.at_ now).takeReadings rs).regs, heat := heat } := by
  have hkeep : ∀ (l : List Reading) (u : State), ∃ heat, l.foldl (fun s r => { s with heat := { s.heat with
      sentinels := tmod [] s.heat.sentinels (r.sensor - 2576) (fun l => (l ++ [r.value]).drop (l.length - 49)) } }) u =
      { u with heat := heat } := fun l => by
    induction l with
    | nil => exact fun u => ⟨u.heat, rfl⟩
    | cons r l ih => exact fun u => (ih _).imp fun _ h => by rw [List.foldl_cons, h]
  simp only [opSentinel]
  obtain ⟨heat, hheat⟩ := hkeep rs ((s.at_ now).takeReadings rs)
  rw [hheat]
  obtain ⟨since, hsince⟩ := trackCool_frame { (s.at_ now).takeReadings rs with heat := heat } now
  rw [hsince, takeReadings_frame rs (s.at_ now)]
  exact ⟨_, rfl⟩

/-! ## A suspect sensor returns (R477) -/

theorem opSensorReturn_agreed (i : Nat) (s : State) (hs : s.onF F.thmSens_suspect i = true) (h : 100 ≤ (tget ({} : Sensor) s.sensors i).agree) :
    opSensorReturn i s =
      { s with sensors := tput {} s.sensors i { tget ({} : Sensor) s.sensors i with agree := 0 } }.putF F.thmSens_suspect i 0 :=
  if_pos (by rw [hs, decide_eq_true h]; rfl)

theorem opSensorReturn_early (i : Nat) (s : State) (h : (tget ({} : Sensor) s.sensors i).agree < 100) : opSensorReturn i s = s :=
  if_neg (by rw [decide_eq_false (by omega)]; simp)

/-! ## The three rows -/

theorem exec_housekeepingRound (rs : List Reading) (rails : List (Rail × Nat)) (now : Nat) (s : State) (hr : ∀ r ∈ rs, r.sensor < 2640) :
    exec (.housekeepingRound ⟨rs, rails⟩ now) s = run (opHousekeeping ⟨rs, rails⟩ now) s :=
  if_pos (List.all_eq_true.2 fun r h => decide_eq_true (hr r h))

theorem exec_sentinelReading (rs : List Reading) (reach now : Nat) (s : State) (hr : ∀ r ∈ rs, 2576 ≤ r.sensor ∧ r.sensor < 2640) :
    exec (.sentinelReading rs none reach now) s = run (opSentinel rs none reach now) s :=
  if_pos (List.all_eq_true.2 fun r h => by rw [decide_eq_true (hr r h).1, decide_eq_true (hr r h).2]; rfl)

theorem exec_sensorReturn (i : Nat) (s : State) (hi : i < 2640) : exec (.sensorReturn i) s = run (opSensorReturn i) s :=
  if_pos (decide_eq_true hi)

theorem opHousekeeping_shows (rs : List Reading) (rails : List (Rail × Nat)) (now : Nat) (s : State) (hr : ∀ r ∈ rs, r.sensor < 2640)
    (hd : (rs.map (fun r => r.sensor)).Nodup) :
    ∀ r ∈ rs, (opHousekeeping ⟨rs, rails⟩ now s).getF F.thmSens_reading r.sensor = (BitVec.ofInt 16 r.value).toNat :=
  fun r h => ((opHousekeeping_keeps ⟨rs, rails⟩ now s).2 r.sensor).trans (getF_takeReadings_of_mem rs (s.at_ now) hr hd r h)

theorem housekeepingRound_shows (rs : List Reading) (rails : List (Rail × Nat)) (now : Nat) (s : State) (hr : ∀ r ∈ rs, r.sensor < 2640)
    (hd : (rs.map (fun r => r.sensor)).Nodup) : completes (.housekeepingRound ⟨rs, rails⟩ now) s (fun t =>
      (∀ r ∈ rs, t.getF F.thmSens_reading r.sensor = (BitVec.ofInt 16 r.value).toNat) ∧
      t.heat.railMv = rails ++ s.heat.railMv.filter (fun e => !rails.any (fun x => x.1 == e.1))) := by
  have hshown := opHousekeeping_shows rs rails now s.begin hr hd
  have hrails := (opHousekeeping_keeps ⟨rs, rails⟩ now s.begin).1
  obtain ⟨u, hu⟩ : ∃ u, opHousekeeping ⟨rs, rails⟩ now s.begin = u := ⟨_, rfl⟩
  rw [hu] at hrails hshown
  refine completes_of_eq (exec_housekeepingRound rs rails now s hr) hu ⟨hshown, hrails⟩

theorem sentinelReading_shows (rs : List Reading) (reach now : Nat) (s : State) (hr : ∀ r ∈ rs, 2576 ≤ r.sensor ∧ r.sensor < 2640)
    (hd : (rs.map (fun r => r.sensor)).Nodup) : completes (.sentinelReading rs none reach now) s (fun t =>
      (∀ r ∈ rs, t.getF F.thmSens_reading r.sensor = (BitVec.ofInt 16 r.value).toNat) ∧
      sameRegs (rs.map (fun r => regKey R.thmSens r.sensor)) s t ∧ sameMemories s t) := by
  obtain ⟨heat, heq⟩ := opSentinel_none_frame rs reach now s.begin
  refine completes_of_eq (exec_sentinelReading rs reach now s hr) heq ⟨?_, ?_, ⟨rfl, rfl, rfl, rfl, rfl⟩⟩
  · exact fun r h => getF_takeReadings_of_mem rs (s.begin.at_ now) (fun r h => (hr r h).2) hd r h
  · exact sameRegs_takeReadings rs (s.begin.at_ now)

theorem sensorReturn_agreed (i : Nat) (s : State) (hi : i < 2640) (hs : s.onF F.thmSens_suspect i = true)
    (h : 100 ≤ (tget ({} : Sensor) s.sensors i).agree) : completes (.sensorReturn i) s (fun t =>
      t.onF F.thmSens_suspect i = false ∧ t.getF F.thmSens_reading i = s.getF F.thmSens_reading i ∧
      sameRegs [regKey R.thmSens i] s t ∧ t = { s with regs := t.regs, sensors := t.sensors, out := [] }) := by
  refine completes_of_eq (exec_sensorReturn i s hi) (opSensorReturn_agreed i s.begin hs h) ⟨?_, ?_, ?_, rfl⟩
  · exact onF_of_bit (b := false) (getF_putF_same _ F.thmSens_suspect i 0 (by decide))
  · exact getF_putF_apart _ F.thmSens_suspect F.thmSens_reading i 0 rfl (by decide)
  · exact sameRegs_putF (ks := [regKey R.thmSens i]) F.thmSens_suspect i 0 (sameRegs_refl _ s) (List.mem_singleton.2 rfl)

/-- Settles O43: each sensor of a round shows its own reading, and what the round does afterwards leaves the readings and the rails'
voltages; the readings of the sentinels change the registers they name; a sensor returns by its count of agreeing rounds. -/
theorem readingsAreShown : Obligations.ReadingsAreShown := by
  unfold Obligations.ReadingsAreShown
  intro rs now s hd
  exact ⟨fun rails hr => housekeepingRound_shows rs rails now s hr hd, fun hr reach => sentinelReading_shows rs reach now s hr hd,
    fun i hi hs => ⟨sensorReturn_agreed i s hi hs,
      fun h => idles_of_run (exec_sensorReturn i s hi) (opSensorReturn_early i s.begin h)⟩⟩

end Sys2Proof.Machine
end


section
/-! SUPPORT. The identifiers in use while their state is given up: the accesses, the events and the tables that a closing stream or a
leaving program touches change no stream and no program. SameIds of a state and a later one says so. -/

namespace Sys2Proof.Machine

/-- Streams and programs stand in s as in s0. -/
structure SameIds (s0 s : State) : Prop where
  streams : s.ctl.streams = s0.ctl.streams
  progs : s.ctl.progs = s0.ctl.progs

theorem SameIds.same {s : State} : SameIds s s := ⟨rfl, rfl⟩

section
variable {s0 : State}

/-- Another state with the same streams and programs. -/
theorem SameIds.upd {s t : State} (hs : SameIds s0 s) (h : t.ctl.streams = s.ctl.streams := by rfl)
    (h' : t.ctl.progs = s.ctl.progs := by rfl) : SameIds s0 t := ⟨h.trans hs.streams, h'.trans hs.progs⟩

theorem SameIds.setReg {s : State} (hs : SameIds s0 s) {r : Reg} {inst : Nat} {w : Word} : SameIds s0 (s.setReg r inst w) :=
  ⟨hs.streams, hs.progs⟩

theorem SameIds.putF {s : State} (hs : SameIds s0 s) {f : Fld} {inst v : Nat} : SameIds s0 (s.putF f inst v) := .setReg hs

theorem SameIds.bump {s : State} (hs : SameIds s0 s) {f : Fld} {inst n : Nat} : SameIds s0 (s.bump f inst n) := .putF hs

theorem SameIds.ite {c : Prop} [Decidable c] {s t : State} (hs : SameIds s0 s) (ht : SameIds s0 t) : SameIds s0 (if c then s else t) := by
  split
  · exact hs
  · exact ht

theorem SameIds.ite_fst {α : Type} {c : Prop} [Decidable c] {p q : State × α} (hp : SameIds s0 p.1) (hq : SameIds s0 q.1) :
    SameIds s0 (if c then p else q).1 := by
  split
  · exact hp
  · exact hq

theorem SameIds.of_eq {α : Type} {p : State × α} {s : State} {x : α} (h : p = (s, x)) (hp : SameIds s0 p.1) : SameIds s0 s := by
  rw [h] at hp
  exact hp

theorem SameIds.foldl {α : Type} {f : State → α → State} {l : List α} {s : State} (hf : ∀ s a, SameIds s0 s → SameIds s0 (f s a)) (hs : SameIds s0 s) :
    SameIds s0 (l.foldl f s) := by
  induction l generalizing s with
  | nil => exact hs
  | cons a r ih => exact ih (hf s a hs)

theorem SameIds.foldl_fst {α β : Type} {f : State × β → α → State × β} {l : List α} {p : State × β}
    (hf : ∀ p a, SameIds s0 p.1 → SameIds s0 (f p a).1) (hp : SameIds s0 p.1) : SameIds s0 (l.foldl f p).1 := by
  induction l generalizing p with
  | nil => exact hp
  | cons a r ih => exact ih (hf p a hp)

/-! ### The changes -/

theorem SameIds.send {s : State} (hs : SameIds s0 s) {o : Output} : SameIds s0 (s.send o) := by
  unfold State.send
  exact .upd hs

theorem SameIds.signal {s : State} (hs : SameIds s0 s) {fn vec : Nat} : SameIds s0 (s.signal fn vec) := by
  unfold State.signal
  exact .ite (.upd hs) (.send hs)

theorem SameIds.unreserve {s : State} (hs : SameIds s0 s) {q n : Nat} : SameIds s0 (s.unreserve q n) := by
  unfold State.unreserve
  exact .putF hs

theorem SameIds.setChan {s : State} (hs : SameIds s0 s) {c : Nat} {x : Chan} : SameIds s0 (s.setChan c x) := by
  unfold State.setChan
  exact .upd hs

theorem SameIds.modChan {s : State} (hs : SameIds s0 s) {c : Nat} {f : Chan → Chan} : SameIds s0 (s.modChan c f) := by
  unfold State.modChan
  exact .setChan hs

theorem SameIds.queueScrub {s : State} (hs : SameIds s0 s) {c bank row : Nat} : SameIds s0 (s.queueScrub c bank row) := by
  unfold State.queueScrub
  exact .ite hs (.ite (.bump hs) (.modChan hs))

theorem SameIds.urgentRetrain {s : State} (hs : SameIds s0 s) {c : Nat} : SameIds s0 (s.urgentRetrain c) := by
  unfold State.urgentRetrain
  exact .putF (.putF (.modChan hs))

theorem SameIds.halfReached {s : State} (hs : SameIds s0 s) {c lv : Nat} : SameIds s0 (s.halfReached c lv) := by
  unfold State.halfReached
  exact .ite (.urgentRetrain (.upd hs)) hs

theorem SameIds.errsum {s : State} (hs : SameIds s0 s) {sheafs : List Nat} {b : Nat} : SameIds s0 (s.errsum sheafs b) := by
  unfold State.errsum
  exact .foldl (fun _ _ h1 => .putF h1) hs

theorem SameIds.toHostQueue {s : State} (hs : SameIds s0 s) {e : Event} : SameIds s0 (s.toHostQueue e) := by
  unfold State.toHostQueue
  exact .ite hs (.ite (.bump hs) (.foldl (fun _ _ h1 => .putF (.upd h1)) hs))

theorem SameIds.alert {s : State} (hs : SameIds s0 s) {cls : Nat} {bytes : List Byte} : SameIds s0 (s.alert cls bytes) := by
  unfold State.alert
  exact .send (.upd hs)

theorem SameIds.steadingTakes {s : State} (hs : SameIds s0 s) {e : Event} : SameIds s0 (s.steadingTakes e) := by
  unfold State.steadingTakes
  split
  · extract_lets -merge +onlyGivenNames s1 s2
    have h1 : SameIds s0 s1 := .ite (.signal hs) hs
    have h2 : SameIds s0 s2 := .ite (.foldl (fun _ _ h1 => .alert h1) h1) h1
    exact .ite (.ite (.bump h2) (.upd h2)) h2

theorem SameIds.raise {s : State} (hs : SameIds s0 s) {code cls idx : Nat} {arg : Word} {payload : (List Byte)} : SameIds s0 (s.raise code cls
    idx arg payload) := by
  unfold State.raise
  extract_lets -merge +onlyGivenNames _ s1
  have h1 : SameIds s0 s1 := .toHostQueue hs
  exact .ite (.upd h1) (.steadingTakes h1)

theorem SameIds.corrected {s : State} (hs : SameIds s0 s) {b : BucketId} : SameIds s0 (s.corrected b) := by
  unfold State.corrected
  extract_lets -merge +onlyGivenNames _ _ s1 _
  have h1 : SameIds s0 s1 := .bump hs
  refine .ite ?_ ?_
  · exact h1
  · extract_lets -merge +onlyGivenNames s2 s3
    have h2 : SameIds s0 s2 := .putF h1
    have h3 : SameIds s0 s3 := (by
      dsimp only [s3]
      split
      · exact .halfReached h2
      · exact h2)
    refine .ite ?_ ?_
    · extract_lets -merge +onlyGivenNames s4 s5 s6
      have h4 : SameIds s0 s4 := .upd h3
      have h5 : SameIds s0 s5 := .bump h4
      have h6 : SameIds s0 s6 := (by
        dsimp only [s6]
        split
        · exact h5
        · exact .errsum h5)
      exact .raise h6
    · exact h3

theorem SameIds.softWord {s : State} (hs : SameIds s0 s) {w : Nat} : SameIds s0 (s.softWord w) := by
  unfold State.softWord
  exact .queueScrub (.corrected hs)

theorem SameIds.setOwed {s : State} (hs : SameIds s0 s) {c b n : Nat} : SameIds s0 (s.setOwed c b n) := by
  unfold State.setOwed
  exact .putF (.modChan hs)

theorem SameIds.forceRefresh {s : State} (hs : SameIds s0 s) {c b : Nat} : SameIds s0 (s.forceRefresh c b) := by
  unfold State.forceRefresh
  exact .ite hs (.bump (.setOwed hs))

theorem SameIds.showUe {s : State} (hs : SameIds s0 s) {b : List Byte} : SameIds s0 (s.showUe b) := by
  unfold State.showUe
  exact .putF (.putF (.putF (.putF hs)))

theorem SameIds.sendRecord {s : State} (hs : SameIds s0 s) {r : UeRec} : SameIds s0 (s.sendRecord r) := by
  unfold State.sendRecord
  exact .raise hs

theorem SameIds.ueRecord {s : State} (hs : SameIds s0 s) {r : UeRec} : SameIds s0 (s.ueRecord r) := by
  unfold State.ueRecord
  extract_lets -merge +onlyGivenNames _ s1
  have h1 : SameIds s0 s1 := .ite (.errsum hs) hs
  refine .ite ?_ ?_
  · extract_lets -merge +onlyGivenNames _ s2
    have h2 : SameIds s0 s2 := .upd h1
    split
    · exact .ite (.showUe h2) h2
    · exact h2
  · extract_lets -merge +onlyGivenNames s2 s3
    have h2 : SameIds s0 s2 := .showUe (.bump h1)
    have h3 : SameIds s0 s3 := .ite (.bump h2) h2
    exact .ite (.upd h3) (.sendRecord h3)

theorem SameIds.writeDev {s : State} (hs : SameIds s0 s) {a : Nat} {bs : List Byte} : SameIds s0 (s.writeDev a bs) := by
  unfold State.writeDev
  extract_lets -merge +onlyGivenNames parts whole part mem s1 s2
  have h1 : SameIds s0 s1 := .upd hs
  have h2 : SameIds s0 s2 := .upd h1
  exact .foldl (fun _ _ h1 => .modChan h1) h2

theorem SameIds.setPoolSlot {s : State} (hs : SameIds s0 s) {k : Nat} {x : PageSlot} : SameIds s0 (s.setPoolSlot k x) := by
  unfold State.setPoolSlot
  exact .upd hs

theorem SameIds.reachWords {s : State} (hs : SameIds s0 s) {ws : List Nat} : SameIds s0 (s.reachWords ws).1 := by
  unfold State.reachWords
  extract_lets -merge +onlyGivenNames _
  split
  · exact .bump hs
  · exact .ite_fst hs (.ite_fst (.foldl (fun _ _ h1 => .bump h1) hs) (.foldl (fun _ _ h1 => .forceRefresh h1) hs))

theorem SameIds.checkWords {s : State} (hs : SameIds s0 s) {j : Nat} {ws : List Nat} : SameIds s0 (s.checkWords j ws).1 := by
  unfold State.checkWords
  exact .foldl (fun _ _ h1 => .ueRecord h1) (.foldl (fun _ _ h1 => .softWord h1) hs)

theorem SameIds.touchWords {s : State} (hs : SameIds s0 s) {j : Nat} {ws needs : List Nat} : SameIds s0 (s.touchWords j ws needs).1 := by
  unfold State.touchWords
  split
  · rename_i s1 heq
    have h1 : SameIds s0 s1 := .of_eq heq (.reachWords hs)
    exact h1
  · rename_i s1 heq
    have h1 : SameIds s0 s1 := .of_eq heq (.reachWords hs)
    exact .checkWords h1

theorem SameIds.pfxWrite {s : State} (hs : SameIds s0 s) {j o : Nat} {bs : List Byte} : SameIds s0 (s.pfxWrite j o bs) := by
  unfold State.pfxWrite
  extract_lets -merge +onlyGivenNames p at_ parts whole
  have h1 : SameIds s0 (s.touchWords j at_.eraseDups parts).1 := .touchWords hs
  generalize s.touchWords j at_.eraseDups parts = q at h1 ⊢
  obtain ⟨s1, ok⟩ := q
  exact .ite h1 (.foldl (fun _ _ h1 => .modChan h1) (.upd h1))

theorem SameIds.touchRead {s : State} (hs : SameIds s0 s) {j a n : Nat} : SameIds s0 (s.touchRead j a n).1 := by
  unfold State.touchRead
  exact .touchWords hs

theorem SameIds.readRefs {s : State} (hs : SameIds s0 s) {j : Nat} {e : KvEntry} {page : Nat} : SameIds s0 (s.readRefs j e page).1 := by
  unfold State.readRefs
  split
  · rename_i s1 _ heq
    have h1 : SameIds s0 s1 := .of_eq heq (.touchRead hs)
    exact h1

theorem SameIds.freeSlot {s : State} (hs : SameIds s0 s) {j : Nat} {l : ListId} {page re : Nat} : SameIds s0 (s.freeSlot j l page re) := by
  unfold State.freeSlot
  exact .ite (.bump (.setPoolSlot hs)) hs

theorem SameIds.dropPfx {s : State} (hs : SameIds s0 s) {p : PfxEntry} {re : Nat} : SameIds s0 (s.dropPfx p re) := by
  unfold State.dropPfx
  extract_lets -merge +onlyGivenNames _ s1 s2 s3
  have h1 : SameIds s0 s1 := .upd hs
  have h2 : SameIds s0 s2 := .pfxWrite h1
  have h3 : SameIds s0 s3 := .putF h2
  refine .foldl (fun _ _ h1 => ?_) h3
  split
  · exact .freeSlot (.of_eq ‹_› (.readRefs h1))
  · exact .of_eq ‹_› (.readRefs h1)

theorem SameIds.readEntry {s : State} (hs : SameIds s0 s) {j : Nat} {l : ListId} {slot block : Nat} : SameIds s0 (s.readEntry j l slot block).1
    := by
  unfold State.readEntry
  split
  · rename_i s1 _ heq
    have h1 : SameIds s0 s1 := .of_eq heq (.touchRead hs)
    exact h1

theorem SameIds.touchWrite {s : State} (hs : SameIds s0 s) {j a : Nat} {bs : List Byte} : SameIds s0 (s.touchWrite j a bs) := by
  unfold State.touchWrite
  split
  · rename_i s1 heq
    have h1 : SameIds s0 s1 := .of_eq heq (.touchWords hs)
    exact .writeDev h1
  · rename_i s1 heq
    have h1 : SameIds s0 s1 := .of_eq heq (.touchWords hs)
    exact h1

theorem SameIds.setTableEntry {s : State} (hs : SameIds s0 s) {j : Nat} {l : ListId} {slot block : Nat} {t : TableEntry} : SameIds s0
    (s.setTableEntry j l slot block t) := by
  unfold State.setTableEntry
  exact .touchWrite hs

theorem SameIds.setPageRefs {s : State} (hs : SameIds s0 s) {j : Nat} {e : KvEntry} {page n : Nat} : SameIds s0 (s.setPageRefs j e page n) := by
  unfold State.setPageRefs
  exact .touchWrite hs

theorem SameIds.dropRef {s : State} (hs : SameIds s0 s) {j : Nat} {l : ListId} {page re : Nat} : SameIds s0 (s.dropRef j l page re) := by
  unfold State.dropRef
  split
  · rename_i s1 heq
    have h1 : SameIds s0 s1 := .of_eq heq (.readRefs hs)
    exact h1
  · rename_i s1 _ heq
    have h1 : SameIds s0 s1 := .of_eq heq (.readRefs hs)
    exact .ite (.freeSlot (.setPageRefs h1)) (.setPageRefs h1)

theorem SameIds.dropPage {s : State} (hs : SameIds s0 s) {j : Nat} {l : ListId} {slot block : Nat} {page re : Nat} : SameIds s0 (s.dropPage j l
    slot block page re) := by
  unfold State.dropPage
  exact .ite hs (.dropRef (.setTableEntry hs))

theorem SameIds.blockEntries {s : State} (hs : SameIds s0 s) {i block : Nat} : SameIds s0 (s.blockEntries i block).1 := by
  unfold State.blockEntries
  extract_lets -merge +onlyGivenNames _
  exact .foldl_fst (fun _ _ h1 => (by
    split
    · rename_i s1 _ heq
      have h1 : SameIds s0 s1 := .of_eq heq (.readEntry h1)
      exact h1)) hs

theorem SameIds.putPfx {s : State} (hs : SameIds s0 s) {p : PfxEntry} : SameIds s0 (s.putPfx p) := by
  unfold State.putPfx
  exact .putF (.pfxWrite (.pfxWrite (.upd hs)))

theorem SameIds.leaveBlock {s : State} (hs : SameIds s0 s) {i block re : Nat} : SameIds s0 (s.leaveBlock i block re) := by
  unfold State.leaveBlock
  extract_lets -merge +onlyGivenNames _
  split
  · rename_i s1 _ heq
    have h1 : SameIds s0 s1 := .of_eq heq (.blockEntries hs)
    extract_lets -merge +onlyGivenNames s2
    have h2 : SameIds s0 s2 := (by
      dsimp only [s2]
      split
      · exact .putPfx h1
      · exact h1)
    exact .foldl (fun _ _ h1 => (by
      split
      · exact .dropPage h1
      · exact h1)) h2

theorem SameIds.leaveFrom {s : State} (hs : SameIds s0 s) {i first re : Nat} : SameIds s0 (s.leaveFrom i first re) := by
  unfold State.leaveFrom
  exact .foldl (fun _ _ h1 => .leaveBlock h1) hs

theorem SameIds.setCell {s : State} (hs : SameIds s0 s) {c : Nat} {x : Cell} : SameIds s0 (s.setCell c x) := by
  unfold State.setCell
  exact .upd hs

theorem SameIds.modCell {s : State} (hs : SameIds s0 s) {c : Nat} {f : Cell → Cell} : SameIds s0 (s.modCell c f) := by
  unfold State.modCell
  exact .setCell hs

theorem SameIds.setSheaf {s : State} (hs : SameIds s0 s) {i : Nat} {x : SheafSt} : SameIds s0 (s.setSheaf i x) := by
  unfold State.setSheaf
  exact .upd hs

theorem SameIds.showIdle {s : State} (hs : SameIds s0 s) {c : Nat} : SameIds s0 (s.showIdle c) := by
  unfold State.showIdle
  exact .putF (.putF (.putF (.putF (.setReg hs))))

end

end Sys2Proof.Machine
end

section
/-! SUPPORT. The warm reset (R360, R408, R409): every stream is closed and every program leaves, the registers and the tables of the host
interface return to their reset values, and commits, resets and staged values are given up. -/

namespace Sys2Proof.Machine

/-! ## Streams close and programs leave (R408) -/

/-- Giving up the reservation of a stream's tokens opens no stream and closes none. -/
theorem dropTokenReservation_isOpen (s : State) (i k : Nat) : ((s.dropTokenReservation i).stream k).isOpen = (s.stream k).isOpen := by
  unfold State.dropTokenReservation
  extract_lets t
  split
  · by_cases hk : i = k
    · subst hk
      exact (congrArg Stream.isOpen (stream_setStream_same ..)).trans rfl
    · exact congrArg Stream.isOpen (stream_setStream_ne _ _ hk)
  · rfl

theorem dropTokenReservation_progs (s : State) (i : Nat) : (s.dropTokenReservation i).ctl.progs = s.ctl.progs := by
  unfold State.dropTokenReservation
  extract_lets t
  split <;> rfl

theorem SameIds.isOpen {s0 s : State} (hs : SameIds s0 s) (k : Nat) : (s.stream k).isOpen = (s0.stream k).isOpen := by
  rw [State.stream, hs.streams, State.stream]

/-- A stream that is released is closed, and no other is. -/
theorem releaseStream_isOpen (s : State) (i edge k : Nat) :
    ((s.releaseStream i edge).stream k).isOpen = (if i = k then false else (s.stream k).isOpen) := by
  unfold State.releaseStream
  extract_lets -merge +onlyGivenNames s1 t s2 s3
  have h3 : SameIds s1 s3 := (by
    dsimp only [s3]
    exact .ite (.unreserve (.leaveFrom .same)) (.leaveFrom .same))
  split
  · next hk =>
    subst hk
    exact congrArg Stream.isOpen (stream_setStream_same ..)
  · next hk =>
    calc _ = (s3.stream k).isOpen := congrArg Stream.isOpen (stream_setStream_ne _ _ hk)
      _ = (s1.stream k).isOpen := h3.isOpen k
      _ = (s.stream k).isOpen := dropTokenReservation_isOpen s i k

theorem releaseStream_progs (s : State) (i edge : Nat) : (s.releaseStream i edge).ctl.progs = s.ctl.progs := by
  unfold State.releaseStream
  extract_lets -merge +onlyGivenNames s1 t s2 s3
  have h3 : SameIds s1 s3 := (by
    dsimp only [s3]
    exact .ite (.unreserve (.leaveFrom .same)) (.leaveFrom .same))
  exact h3.progs.trans (dropTokenReservation_progs s i)

theorem closeSilently_isOpen (s : State) (i edge k : Nat) :
    ((s.closeSilently i edge).stream k).isOpen = (if i = k then false else (s.stream k).isOpen) := by
  unfold State.closeSilently
  split
  · extract_lets -merge +onlyGivenNames s1
    have h1 : SameIds s s1 := .foldl (fun _ _ h => .unreserve h) .same
    rw [releaseStream_isOpen]
    split
    · rfl
    · next hk =>
      exact (congrArg Stream.isOpen (stream_setStream_ne _ _ hk)).trans (h1.isOpen k)
  · next hclosed =>
    split
    · next hk => exact hk ▸ Bool.eq_false_iff.2 hclosed
    · rfl

theorem closeSilently_progs (s : State) (i edge : Nat) : (s.closeSilently i edge).ctl.progs = s.ctl.progs := by
  unfold State.closeSilently
  split
  · extract_lets -merge +onlyGivenNames s1
    have h1 : SameIds s s1 := .foldl (fun _ _ h => .unreserve h) .same
    exact (releaseStream_progs _ i edge).trans h1.progs
  · rfl

/-- Of streams that close one after the other, each is closed at the end. -/
theorem foldl_closeSilently_isOpen (l : List Nat) (edge k : Nat) (s : State) (hk : (s.stream k).isOpen = true → k ∈ l) :
    ((l.foldl (fun s i => s.closeSilently i edge) s).stream k).isOpen = false := by
  induction l generalizing s with
  | nil => exact Bool.eq_false_iff.2 (fun h => List.not_mem_nil (hk h))
  | cons i l ih =>
    refine ih _ (fun h => ?_)
    rw [closeSilently_isOpen] at h
    split at h
    · exact absurd h (by simp)
    · next hne => exact (List.mem_cons.1 (hk h)).resolve_left (Ne.symm hne)

theorem mem_of_tget_ne {α : Type} {d : α} {t : Tbl α} {k : Nat} (h : tget d t k ≠ d) : (k, tget d t k) ∈ t := by
  induction t with
  | nil => exact absurd rfl h
  | cons e t ih =>
    obtain ⟨j, v⟩ := e
    rw [tget] at h ⊢
    split
    · next hj => exact hj ▸ List.mem_cons_self ..
    · next hj =>
      rw [if_neg hj] at h
      exact List.mem_cons_of_mem _ (ih h)

/-- An open stream is listed as open. -/
theorem mem_openStreams (s : State) (i : Nat) (h : (s.stream i).isOpen = true) : i ∈ s.openStreams := by
  have hmem : (i, s.stream i) ∈ s.ctl.streams := mem_of_tget_ne (fun he => by
    rw [State.stream, he] at h
    exact absurd h (by decide))
  exact List.mem_map.2 ⟨_, List.mem_filter.2 ⟨hmem, h⟩, rfl⟩

/-- A program that leaves stands in quarantine, and no other changes. -/
theorem dropProgram_ids (s : State) (j edge : Nat) : (s.dropProgram j edge).ctl.streams = s.ctl.streams ∧
    ∀ k, ((s.dropProgram j edge).prog k).state = (if j = k then .quarantine else (s.prog k).state) := by
  unfold State.dropProgram
  extract_lets -merge +onlyGivenNames s1 mine s2 cells s3
  have h1 : SameIds s s1 := .foldl (fun _ _ h => .dropPfx h) .same
  have h2 : SameIds s s2 := .foldl (fun _ _ h => .putF (.setSheaf h)) h1
  have h3 : SameIds s s3 := .foldl (fun _ _ h => .modCell (.showIdle h)) h2
  refine ⟨h3.streams, fun k => ?_⟩
  split
  · next hk =>
    subst hk
    exact congrArg Program.state (prog_setProg_same ..)
  · next hk =>
    refine (congrArg Program.state (prog_setProg_ne _ _ hk)).trans ?_
    rw [State.prog, h3.progs, State.prog]

theorem foldl_dropProgram_ids (l : List Nat) (edge : Nat) (s : State) :
    (l.foldl (fun s j => s.dropProgram j edge) s).ctl.streams = s.ctl.streams ∧
    ∀ k, ((l.foldl (fun s j => s.dropProgram j edge) s).prog k).state = (if k ∈ l then .quarantine else (s.prog k).state) := by
  induction l generalizing s with
  | nil => exact ⟨rfl, fun k => by simp⟩
  | cons j l ih =>
    obtain ⟨hs, hp⟩ := dropProgram_ids s j edge
    obtain ⟨hs', hp'⟩ := ih (s.dropProgram j edge)
    refine ⟨hs'.trans hs, fun k => ?_⟩
    rw [List.foldl_cons, hp', hp]
    by_cases hk : k ∈ l
    · simp [hk]
    · by_cases hj : j = k
      · simp [hj]
      · simp [hk, hj, Ne.symm hj]

/-- After the unload no stream is open, no program is loaded, and no command waits (R408). -/
theorem unloadAll_spec (s : State) :
    (∀ i, (s.unloadAll.stream i).isOpen = false) ∧ s.unloadAll.jobs = [] ∧ s.unloadAll.ctl.waiting = [] := by
  unfold State.unloadAll
  extract_lets -merge +onlyGivenNames edge s1 s2
  obtain ⟨hstreams, hprogs⟩ := foldl_dropProgram_ids s1.jobs edge s1
  refine ⟨fun i => ?_, ?_, rfl⟩
  · have h1 : (s1.stream i).isOpen = false := foldl_closeSilently_isOpen s.openStreams edge i s (mem_openStreams s i)
    exact (congrArg (fun t => (tget ({} : Stream) t i).isOpen) hstreams).trans h1
  · refine List.filter_eq_nil_iff.2 (fun j hj hstate => ?_)
    have hp := hprogs j
    replace hstate : ((s2.prog j).state == .staged || (s2.prog j).state == .active) = true := hstate
    split at hp
    · rw [hp] at hstate
      exact absurd hstate (by decide)
    · next hn =>
      rw [hp] at hstate
      exact hn (List.mem_filter.2 ⟨hj, hstate⟩)

/-! ## The host interface resets (R360) -/

theorem hostReset_ctl (s : State) : s.hostReset.ctl = s.ctl := rfl

/-- The host interface's registers stand at their reset values. -/
theorem getF_hostReset_in (s : State) (f : Fld) (i : Nat) (hr : f.reg.off / 8 / 512 = 0xD) (h0 : regReset f.reg i = 0) :
    s.hostReset.getF f i = 0 := by
  have hreg : s.hostReset.reg f.reg i = regReset f.reg i := tget_filter_of_neg (fun v => by
    show (regKey f.reg i / 65536 / 512 != 0xD && regKey f.reg i / 65536 / 512 != 0xE) = false
    rw [regKey_div, hr]
    rfl)
  rw [State.getF, hreg, h0]
  simp [fieldGet]

theorem getF_hostReset_out (s : State) (f : Fld) (i : Nat) (hr : f.reg.off / 8 / 512 < 0xD ∨ 0xE < f.reg.off / 8 / 512) :
    s.hostReset.getF f i = s.getF f i := by
  have hreg : s.hostReset.reg f.reg i = s.reg f.reg i := tget_filter_of_pos (fun v => by
    show (regKey f.reg i / 65536 / 512 != 0xD && regKey f.reg i / 65536 / 512 != 0xE) = true
    rw [regKey_div, Bool.and_eq_true, bne_iff_ne, bne_iff_ne]
    omega)
  rw [State.getF, hreg, State.getF]

/-! ## What a warm reset gives up after that (R409, R416) -/

/-- The registers that show commits, reports, resets and staged values. -/
def givenUpRegs : List Reg := [R.tikCmtStat, R.stdAttCtl, R.rstCell, R.rstStook, R.rstShf, R.tikStg]

theorem dropCommits_frame (s : State) : (∃ regs, s.dropCommits = { s with commit := none, regs := regs }) ∧
    regsIn givenUpRegs s s.dropCommits := by
  unfold State.dropCommits
  split
  · exact ⟨⟨_, rfl⟩, regsIn_putF { s with commit := none } F.tikCmtStat_result 0 0 (by decide)⟩
  · next h =>
    rw [Bool.not_eq_true, Option.isSome_eq_false_iff, Option.isNone_iff_eq_none] at h
    exact ⟨⟨(s.putF F.tikCmtStat_result 0 0).regs, by rw [← h]; rfl⟩, regsIn_putF s F.tikCmtStat_result 0 0 (by decide)⟩

theorem attAbandon_frame (s : State) : (∃ regs, s.attAbandon = { s with attBody := [], report := [], attZero := true, regs := regs }) ∧
    regsIn givenUpRegs s s.attAbandon := by
  unfold State.attAbandon
  split
  · exact ⟨⟨_, rfl⟩, regsIn_trans (regsIn_putF s F.stdAttCtl_go 0 0 (by decide)) (regsIn_putF _ F.stdAttCtl_status 0 3 (by decide))⟩
  · exact ⟨⟨_, rfl⟩, regsIn_of_regs rfl⟩

/-- Register words change, and nothing else, in the registers D. -/
def wordsIn (D : List Reg) (s u : State) : Prop := (∃ regs, u = { s with regs := regs }) ∧ regsIn D s u

theorem wordsIn_refl {D : List Reg} (s : State) : wordsIn D s s := ⟨⟨_, rfl⟩, regsIn_refl D s⟩

theorem wordsIn_trans {D : List Reg} (s t u : State) (h : wordsIn D s t) (h' : wordsIn D t u) : wordsIn D s u := by
  obtain ⟨⟨_, rfl⟩, hr⟩ := h
  obtain ⟨⟨_, rfl⟩, hr'⟩ := h'
  exact ⟨⟨_, rfl⟩, regsIn_trans hr hr'⟩

theorem wordsIn_putF {D : List Reg} (s : State) (f : Fld) (i v : Nat) (hf : f.reg ∈ D) : wordsIn D s (s.putF f i v) :=
  ⟨⟨_, rfl⟩, regsIn_putF s f i v hf⟩

theorem resetHold_mem (k : Nat) : (resetHold k).reg ∈ givenUpRegs := by
  unfold resetHold
  split
  · decide
  · split <;> decide

theorem resetGo_mem (k : Nat) : (resetGo k).reg ∈ givenUpRegs := by
  unfold resetGo
  split
  · decide
  · split <;> decide

theorem resetActive_mem (k : Nat) : (resetActive k).reg ∈ givenUpRegs := by
  unfold resetActive
  split
  · decide
  · split <;> decide

theorem wordsIn_showResets (s : State) : wordsIn givenUpRegs s s.showResets :=
  foldl_rel wordsIn_refl wordsIn_trans (fun s k => wordsIn_trans _ _ _
    (wordsIn_putF s (resetGo k) 0 _ (resetGo_mem k)) (wordsIn_putF _ (resetActive k) 0 _ (resetActive_mem k))) _ s

theorem foldl_modCell_frame {α : Type} (c : α → Nat) (f : α → Cell → Cell) (l : List α) (s : State) :
    ∃ cells, l.foldl (fun s a => s.modCell (c a) (f a)) s = { s with cells := cells } := by
  induction l generalizing s with
  | nil => exact ⟨s.cells, rfl⟩
  | cons a l ih => exact (ih (s.modCell (c a) (f a))).imp fun _ h => h

theorem clearResets_frame (s : State) : (∃ cells regs, s.clearResets = { s with resets := [], cells := cells, regs := regs }) ∧
    regsIn givenUpRegs s s.clearResets := by
  unfold State.clearResets
  extract_lets -merge +onlyGivenNames s1 s2
  have h1 : wordsIn givenUpRegs { s with resets := [] } s1 :=
    foldl_rel wordsIn_refl wordsIn_trans (fun s k => wordsIn_putF s (resetHold k) 0 0 (resetHold_mem k)) _ _
  obtain ⟨cells, h2⟩ : ∃ cells, s2 = { s1 with cells := cells } := foldl_modCell_frame _ _ _ s1
  obtain ⟨⟨regs, h3⟩, hr3⟩ := wordsIn_showResets s2
  obtain ⟨⟨regs1, heq1⟩, hr1⟩ := h1
  refine ⟨⟨cells, regs, ?_⟩, ?_⟩
  · rw [h3, h2, heq1]
  · refine regsIn_trans (t := s1) (fun d k hk => hr1 d k hk) (regsIn_trans (regsIn_of_regs ?_) hr3)
    rw [h2]

theorem opRevert_frame (s : State) : (∃ staged regs, opRevert s = { s with staged := staged, regs := regs }) ∧
    regsIn givenUpRegs s (opRevert s) := by
  have hstaged : ∀ (l : List Nat) (u : State), ∃ staged, l.foldl (fun s k => s.putStagedKey k (s.activeKey k)) u = { u with staged := staged } := by
    intro l
    induction l with
    | nil => exact fun u => ⟨u.staged, rfl⟩
    | cons k l ih =>
      intro u
      obtain ⟨staged, h⟩ := ih (u.putStagedKey k (u.activeKey k))
      rw [List.foldl_cons, h, putStagedKey_frame]
      exact ⟨staged, rfl⟩
  unfold opRevert
  obtain ⟨staged, h⟩ := hstaged s.stagedDiff s
  rw [h]
  exact ⟨⟨staged, _, rfl⟩, regsIn_trans (regsIn_of_regs (u := { s with staged := staged }) rfl)
    (regsIn_trans (regsIn_putF _ F.tikStg_dirty 0 _ (by decide)) (regsIn_putF _ F.tikStg_diff 0 _ (by decide)))⟩

/-! ## The warm reset -/

/-- What the warm reset of the host interface leaves as it is, once the rest is given up: the tables it has cleared, the streams and
the programs. -/
structure GivenUp (v u : State) : Prop where
  msix : u.msix = v.msix
  sqTails : u.sqTails = v.sqTails
  cqHeads : u.cqHeads = v.cqHeads
  chutes : u.chutes = v.chutes
  ctl : u.ctl = v.ctl
  commit : u.commit = none
  resets : u.resets = []
  autos : u.autos = []
  regs : regsIn givenUpRegs v u

theorem givenUp_of_steps (v : State) : GivenUp v (opRevert { v.dropCommits.attAbandon.clearResets with autos := [] }) := by
  obtain ⟨⟨r1, h1⟩, hr1⟩ := dropCommits_frame v
  obtain ⟨⟨r2, h2⟩, hr2⟩ := attAbandon_frame v.dropCommits
  obtain ⟨⟨c3, r3, h3⟩, hr3⟩ := clearResets_frame v.dropCommits.attAbandon
  obtain ⟨⟨g4, r4, h4⟩, hr4⟩ := opRevert_frame { v.dropCommits.attAbandon.clearResets with autos := [] }
  have hregs := regsIn_trans (regsIn_trans (regsIn_trans hr1 hr2) hr3) (regsIn_trans (t := { v.dropCommits.attAbandon.clearResets with autos := [] })
    (regsIn_of_regs rfl) hr4)
  have heq : opRevert { v.dropCommits.attAbandon.clearResets with autos := [] } = { v with
      commit := none, attBody := [], report := [], attZero := true, resets := [], cells := c3, autos := [], staged := g4, regs := r4 } := by
    rw [h4, h3, h2, h1]
  exact ⟨by rw [heq], by rw [heq], by rw [heq], by rw [heq], by rw [heq], by rw [heq], by rw [heq], by rw [heq], hregs⟩

theorem GivenUp.start {v u : State} (h : GivenUp v u) (x : Start) : GivenUp v { u with start := x } :=
  ⟨h.msix, h.sqTails, h.cqHeads, h.chutes, h.ctl, h.commit, h.resets, h.autos, h.regs⟩

/-- What a warm reset does to the host interface. -/
structure HostDown (u : State) : Prop where
  pairs : ∀ q, u.pairOn q = false
  msix : u.msix = []
  chutes : u.chutes = []
  sqTails : u.sqTails = []
  cqHeads : u.cqHeads = []

theorem hostDown_hostReset (v : State) : HostDown v.hostReset :=
  ⟨fun q => by rw [State.pairOn, State.onF, getF_hostReset_in v F.hstQcfg_enable q (by decide) rfl]; rfl, rfl, rfl, rfl, rfl⟩

theorem hostDown_of_givenUp {v u : State} (h : HostDown v) (hu : GivenUp v u) : HostDown u :=
  ⟨fun q => (onF_of_getF (getF_of_regsIn hu.regs (by decide) q)).trans (h.pairs q), hu.msix.trans h.msix, hu.chutes.trans h.chutes,
    hu.sqTails.trans h.sqTails, hu.cqHeads.trans h.cqHeads⟩

/-- The host interface is down, and the reset counted. -/
def warmDone (s u : State) : Prop := HostDown u ∧ u.getF F.rstCause_warm = min (s.getF F.rstCause_warm + 1) 65535

theorem getF_warm_hostReset {s v : State} (h : v.getF F.rstCause_warm = min (s.getF F.rstCause_warm + 1) 65535) :
    warmDone s v.hostReset :=
  ⟨hostDown_hostReset v, (getF_hostReset_out v F.rstCause_warm 0 (by decide)).trans h⟩

theorem warmDone_of_givenUp {s v u : State} (h : warmDone s v) (hu : GivenUp v u) : warmDone s u :=
  ⟨hostDown_of_givenUp h.1 hu, (getF_of_regsIn hu.regs (by decide) 0).trans h.2⟩

/-- In a Keep entry the tick stops and Chute with it (Table 16.5), which counts no reset. -/
theorem keepComputeStop_warm (s : State) : s.keepComputeStop.getF F.rstCause_warm = s.getF F.rstCause_warm := by
  unfold State.keepComputeStop
  extract_lets t s1
  have h : Works s1 (((List.range 32).filter s1.chuteRuns).foldl (fun s ch =>
      (s.chuteStop ch (s.getF F.chuStat_status ch)).setChute ch { s.chute ch with owedResults := [] }) s1) :=
    .foldl (fun _ _ h => .setChute (.chuteStop h)) .same
  exact getF_of_works (f := F.rstCause_warm) h (by decide) 0

/-- The warm reset ends in a state whose host interface is down; on a ready part outside a Keep entry nothing is left that streams,
programs, commits or resets hold. -/
theorem warmReset_spec (s : State) : warmDone s s.warmReset ∧
    (s.ready = true → s.getF F.pwrStat_state ≠ 3 →
      s.warmReset.jobs = [] ∧ (∀ i, (s.warmReset.stream i).isOpen = false) ∧ s.warmReset.ctl.waiting = [] ∧
      s.warmReset.commit = none ∧ s.warmReset.resets = [] ∧ s.warmReset.autos = []) := by
  have hbump : (s.bump F.rstCause_warm 0).getF F.rstCause_warm = min (s.getF F.rstCause_warm + 1) 65535 :=
    getF_bump s F.rstCause_warm 0 1 (by decide)
  have hstage : (s.bump F.rstCause_warm 0).getF F.stdBoot_stage = s.getF F.stdBoot_stage :=
    getF_putF_off s F.rstCause_warm F.stdBoot_stage 0 0 _ (by decide)
  have hstate : (s.bump F.rstCause_warm 0).getF F.pwrStat_state = s.getF F.pwrStat_state :=
    getF_putF_off s F.rstCause_warm F.pwrStat_state 0 0 _ (by decide)
  unfold State.warmReset
  extract_lets -merge +onlyGivenNames s1 st s2 s3 s4 s5
  have h2 : Works s1 s2 := .dropStageFlails (.stopStages .same)
  have hwarm2 : s2.getF F.rstCause_warm = min (s.getF F.rstCause_warm + 1) 65535 := (getF_of_works h2 (by decide) 0).trans hbump
  have hwarm3 : s3.getF F.rstCause_warm = min (s.getF F.rstCause_warm + 1) 65535 := (by
    dsimp only [s3]
    split
    · exact (keepComputeStop_warm s2).trans hwarm2
    · exact (getF_of_works (.unloadAll .same) (by decide) 0).trans hwarm2)
  have h5 : GivenUp s3.hostReset { s5 with start := { s5.start with warmReset := s5.tick.running } } :=
    (givenUp_of_steps s3.hostReset).start _
  split
  · next hne =>
    refine ⟨getF_warm_hostReset hbump, fun hready => ?_⟩
    rw [bne_iff_ne, hstage] at hne
    exact absurd (beq_iff_eq.1 hready) hne
  · refine ⟨warmDone_of_givenUp (getF_warm_hostReset hwarm3) h5, fun _ hkeep => ?_⟩
    have h3 : s3 = s2.unloadAll := if_neg (fun h => hkeep (hstate.symm.trans h))
    obtain ⟨hstreams, hjobs, hwait⟩ := unloadAll_spec s2
    have hctl : { s5 with start := { s5.start with warmReset := s5.tick.running } }.ctl = s2.unloadAll.ctl :=
      (h5.ctl.trans (hostReset_ctl s3)).trans (congrArg State.ctl h3)
    refine ⟨?_, fun i => ?_, ?_, h5.commit, h5.resets, h5.autos⟩
    · exact (congrArg (fun c : Ctl => (List.range 8).filter (fun j => (tget ({} : Program) c.progs j).state == .staged ||
        (tget ({} : Program) c.progs j).state == .active)) hctl).trans hjobs
    · exact (congrArg (fun c : Ctl => (tget ({} : Stream) c.streams i).isOpen) hctl).trans (hstreams i)
    · exact (congrArg Ctl.waiting hctl).trans hwait

theorem opPerst_warm (lowNs : Nat) (s : State) (h : 200 ≤ lowNs) (hl : s.start.loading = false) (hh : s.heldInReset = false)
    (hk : s.keep.inKeep = false) (hp : s.start.perstLow = false) :
    opPerst lowNs s = { s.warmReset with start := { s.warmReset.start with perstLow := true } } := by
  simp only [opPerst]
  rw [decide_eq_false (by omega), hp, hl, hh, hk]
  rfl

theorem opPerst_idle (lowNs : Nat) (s : State) (h : lowNs < 200 ∨ s.start.perstLow = true) : opPerst lowNs s = s :=
  if_pos (by rcases h with h | h <;> simp [h])

theorem opPerst_noted (lowNs : Nat) (s : State) (h : 200 ≤ lowNs) (hp : s.start.perstLow = false)
    (hb : s.start.loading = true ∨ s.heldInReset = true ∨ s.keep.inKeep = true) :
    opPerst lowNs s = { s with start := { s.start with perstLow := true } } := by
  simp only [opPerst]
  rw [decide_eq_false (by omega), hp, if_neg (by decide), if_pos (by rcases hb with h | h | h <;> simp [h])]

/-- Settles O47: the reset itself, and the pin in a hold, in Keep and at its release. -/
theorem aWarmResetUnloadsThePrograms : Obligations.AWarmResetUnloadsThePrograms := by
  unfold Obligations.AWarmResetUnloadsThePrograms
  intro s
  refine ⟨fun lowNs h hl hh hk hp => ?_, fun lowNs h => ?_, fun lowNs h hp hb => ?_, fun now => ?_⟩
  · obtain ⟨⟨hdown, hwarm⟩, hgone⟩ := warmReset_spec s.begin
    have hop := opPerst_warm lowNs s.begin h hl hh hk hp
    obtain ⟨u, hu⟩ : ∃ u, s.begin.warmReset = u := ⟨_, rfl⟩
    rw [hu] at hop hdown hwarm hgone
    exact completes_of_eq (f := opPerst lowNs) rfl hop ⟨rfl, hwarm, fun q _ => hdown.pairs q, hdown.msix, hdown.chutes, hdown.sqTails,
      hdown.cqHeads, fun hready hstate => hgone hready hstate⟩
  · exact idles_of_run (f := opPerst lowNs) rfl (opPerst_idle lowNs s.begin h)
  · exact completes_of_eq (f := opPerst lowNs) rfl (opPerst_noted lowNs s.begin h hp hb) rfl
  · exact completes_of_run (f := opPerstRelease now) rfl rfl

end Sys2Proof.Machine
end


section
/-! SUPPORT. Restarts, the watchdog, the thermal trip and the end of a stop (R415, R417, R418, R491, R492): a restart of Steading abandons
what Steading does for the host; what a trip does before its cold reset leaves the standby domain's words and the jobs of programming; and
the cold reset does the rest. -/

namespace Sys2Proof.Machine

theorem regsIn_mono {D E : List Reg} {s u : State} (hD : ∀ r ∈ D, r ∈ E) (h : regsIn D s u) : regsIn E s u :=
  fun d k hk => h d k (fun r hr => hk r (hD r hr))

/-! ## Steading restarts (R415, R463, R471) -/

theorem cutOtp_frame (s : State) : (∃ otp fresh regs, s.cutOtp = { s with otp := otp, otpJob := none, fresh := fresh, regs := regs }) ∧
    regsIn [R.otpProg] s s.cutOtp := by
  unfold State.cutOtp
  split
  · next h => exact ⟨⟨s.otp, s.fresh, s.regs, by rw [← h]⟩, regsIn_refl _ s⟩
  · exact ⟨⟨_, _, _, rfl⟩, regsIn_trans (t := (s.burnJob (s.cutJob _))) (regsIn_of_regs rfl)
      (regsIn_trans (regsIn_putF _ F.otpProg_cmd 0 0 (by decide)) (regsIn_trans (regsIn_putF _ F.otpProg_state 0 4 (by decide))
        (regsIn_trans (regsIn_putF _ F.otpProg_fail 0 8 (by decide)) (regsIn_of_regs rfl))))⟩

theorem steadingStops_frame (s : State) : (∃ commit regs, s.steadingStops = { s with
      commit := commit, start := { s.start with steadingDown := true, pinsAt := s.now }, regs := regs }) ∧
    regsIn [R.tikCmtStat] s s.steadingStops ∧
    ∀ k, s.commit = some k → s.steadingStops.commit = if k.steading then none else some k := by
  unfold State.steadingStops
  split
  · next c hc =>
    by_cases hs : c.steading = true
    · rw [if_pos hs]
      refine ⟨⟨none, _, rfl⟩, regsIn_putF { s with commit := none } F.tikCmtStat_result 0 0 (by decide), fun k hk => ?_⟩
      obtain rfl : c = k := Option.some.inj (hc.symm.trans hk)
      exact (if_pos hs).symm
    · rw [if_neg hs]
      refine ⟨⟨s.commit, s.regs, rfl⟩, regsIn_of_regs rfl, fun k hk => ?_⟩
      obtain rfl : c = k := Option.some.inj (hc.symm.trans hk)
      exact hk.trans (if_neg hs).symm
  · next hc =>
    exact ⟨⟨s.commit, s.regs, rfl⟩, regsIn_of_regs rfl, fun k hk => absurd (hc.symm.trans hk) (by simp)⟩

/-- What a restart of Steading leaves and what it ends. -/
structure Restarted (now : Nat) (s u : State) : Prop where
  down : u.start.steadingDown = true
  wdtAt : u.start.wdtAt = now
  otpJob : u.otpJob = none
  attBody : u.attBody = []
  attZero : u.attZero = true
  commit : ∀ k : CommitSt, s.commit = some k → u.commit = if k.steading then none else some k
  devMem : u.devMem = s.devMem
  flash : u.flash = s.flash
  ctl : u.ctl = s.ctl
  tick : u.tick = s.tick
  keep : u.keep = s.keep
  regs : regsIn (R.otpProg :: givenUpRegs) s u

theorem restartSteading_spec (s : State) (now : Nat) : Restarted now s (s.restartSteading now) := by
  obtain ⟨⟨otp, fresh, r1, h1⟩, hr1⟩ := cutOtp_frame s
  obtain ⟨⟨r2, h2⟩, hr2⟩ := attAbandon_frame s.cutOtp
  obtain ⟨⟨commit, r3, h3⟩, hr3, hc⟩ := steadingStops_frame s.cutOtp.attAbandon
  have hcommit : s.cutOtp.attAbandon.commit = s.commit := by rw [h2, h1]
  have hregs : regsIn (R.otpProg :: givenUpRegs) s s.cutOtp.attAbandon.steadingStops :=
    regsIn_trans (regsIn_mono (by decide) hr1) (regsIn_trans (regsIn_mono (by decide) hr2) (regsIn_mono (by decide) hr3))
  have heq : s.cutOtp.attAbandon.steadingStops = { s with
      otp := otp, otpJob := none, fresh := fresh, attBody := [], report := [], attZero := true, commit := commit
      start := { s.start with steadingDown := true, pinsAt := s.now }, regs := r3 } := by
    rw [h3, h2, h1]
  rw [hcommit] at hc
  unfold State.restartSteading
  generalize s.cutOtp.attAbandon.steadingStops = u at *
  subst heq
  exact ⟨rfl, rfl, rfl, rfl, rfl, hc, rfl, rfl, rfl, rfl, rfl, hregs⟩

/-! ## A warm reset counts, and leaves Steading as it is -/

theorem reg_of_works {s u : State} (h : Works s u) {r : Reg} (hr : workRegs.all (fun q => r.off / 8 != q.off / 8) = true) (i : Nat) :
    u.reg r i = s.reg r i :=
  reg_of_regsIn h.regs (fun q hq => by simpa using List.all_eq_true.1 hr q hq) i

theorem reg_hostReset_out (s : State) (r : Reg) (i : Nat) (hr : r.off / 8 / 512 < 0xD ∨ 0xE < r.off / 8 / 512) :
    s.hostReset.reg r i = s.reg r i := tget_filter_of_pos (fun v => by
    show (regKey r i / 65536 / 512 != 0xD && regKey r i / 65536 / 512 != 0xE) = true
    rw [regKey_div, Bool.and_eq_true, bne_iff_ne, bne_iff_ne]
    omega)

/-- The counts of resets and Steading's own state are as in s. -/
def keepsCause (s u : State) : Prop := u.reg R.rstCause 0 = s.reg R.rstCause 0 ∧ u.start.steadingDown = s.start.steadingDown

theorem keepsCause_trans {s t u : State} (h : keepsCause s t) (h' : keepsCause t u) : keepsCause s u :=
  ⟨h'.1.trans h.1, h'.2.trans h.2⟩

theorem keepsCause_of_works {s u : State} (h : Works s u) : keepsCause s u :=
  ⟨reg_of_works h (by decide) 0, congrArg Start.steadingDown h.start⟩

theorem keepsCause_hostReset (s : State) : keepsCause s s.hostReset := ⟨reg_hostReset_out s R.rstCause 0 (by decide), rfl⟩

theorem keepsCause_keepComputeStop (s : State) : keepsCause s s.keepComputeStop := by
  unfold State.keepComputeStop
  extract_lets t s1
  have h : Works s1 (((List.range 32).filter s1.chuteRuns).foldl (fun s ch =>
      (s.chuteStop ch (s.getF F.chuStat_status ch)).setChute ch { s.chute ch with owedResults := [] }) s1) :=
    .foldl (fun _ _ h => .setChute (.chuteStop h)) .same
  exact keepsCause_trans (t := s1) ⟨rfl, rfl⟩ (keepsCause_of_works h)

theorem givenUp_steadingDown (v : State) :
    (opRevert { v.dropCommits.attAbandon.clearResets with autos := [] }).start = v.start := by
  obtain ⟨⟨r1, h1⟩, -⟩ := dropCommits_frame v
  obtain ⟨⟨r2, h2⟩, -⟩ := attAbandon_frame v.dropCommits
  obtain ⟨⟨c3, r3, h3⟩, -⟩ := clearResets_frame v.dropCommits.attAbandon
  obtain ⟨⟨g4, r4, h4⟩, -⟩ := opRevert_frame { v.dropCommits.attAbandon.clearResets with autos := [] }
  rw [h4, h3, h2, h1]

theorem keepsCause_givenUp (v : State) : keepsCause v (opRevert { v.dropCommits.attAbandon.clearResets with autos := [] }) :=
  ⟨reg_of_regsIn (givenUp_of_steps v).regs (by decide) 0, congrArg Start.steadingDown (givenUp_steadingDown v)⟩

theorem keepsCause_warmFlag (s : State) (w : Bool) : keepsCause s { s with start := { s.start with warmReset := w } } := ⟨rfl, rfl⟩

/-- But for its own count, a warm reset leaves RST_CAUSE. -/
theorem warmReset_keepsCause (s : State) : keepsCause (s.bump F.rstCause_warm 0) s.warmReset := by
  unfold State.warmReset
  extract_lets -merge +onlyGivenNames s1 st s2 s3 s4 s5
  have h2 : keepsCause s1 s2 := keepsCause_of_works (.dropStageFlails (.stopStages .same))
  have h3 : keepsCause s1 s3 := keepsCause_trans h2 (by
    dsimp only [s3]
    split
    · exact keepsCause_keepComputeStop s2
    · exact keepsCause_of_works (.unloadAll .same))
  have h5 : keepsCause s1 s5 := keepsCause_trans (keepsCause_trans h3 (keepsCause_hostReset s3)) (keepsCause_givenUp s3.hostReset)
  split
  · exact keepsCause_hostReset s1
  · exact keepsCause_trans h5 (keepsCause_warmFlag s5 _)

/-! ## The log is written (R446) -/

/-- Only the flash and what waits for the log differ. -/
def logPath (s u : State) : Prop :=
  ∃ flash fresh logPend logTimes, u = { s with flash := flash, fresh := fresh, logPend := logPend, logTimes := logTimes }

theorem logPath_refl (s : State) : logPath s s := ⟨_, _, _, _, rfl⟩

theorem logPath_trans {s t u : State} (h : logPath s t) (h' : logPath t u) : logPath s u := by
  obtain ⟨_, _, _, _, rfl⟩ := h
  obtain ⟨_, _, _, _, rfl⟩ := h'
  exact ⟨_, _, _, _, rfl⟩

theorem logPath_countStart (s : State) : logPath s s.countStart := by
  unfold State.countStart
  split
  · exact ⟨_, s.fresh, s.logPend, s.logTimes, rfl⟩
  · exact ⟨_, _, s.logPend, s.logTimes, rfl⟩

theorem logPath_logRoom (s : State) (n : Nat) : logPath s (s.logRoom n).1 := by
  unfold State.logRoom
  extract_lets i
  split
  · exact logPath_refl s
  · exact ⟨_, s.fresh, s.logPend, s.logTimes, rfl⟩

theorem logPath_writeLog (s : State) (e : Event) (now : Nat) : logPath s (s.writeLog e now) := by
  unfold State.writeLog
  extract_lets -merge +onlyGivenNames s1
  have h1 : logPath s s1 := by
    dsimp only [s1]
    split
    · exact logPath_countStart s
    · exact logPath_refl s
  have h2 := logPath_trans h1 (logPath_logRoom s1 e.records)
  generalize s1.logRoom e.records = p at h2 ⊢
  obtain ⟨s2, i⟩ := p
  exact logPath_trans h2 ⟨_, s2.fresh, s2.logPend, _, rfl⟩

theorem logPath_logNext (s : State) (now : Nat) : logPath s (s.logNext now) := by
  unfold State.logNext
  split
  · exact logPath_refl s
  · next e r _ =>
    extract_lets -merge +onlyGivenNames recent s1
    have h1 : logPath s s1 := ⟨s.flash, s.fresh, s.logPend, _, rfl⟩
    split
    · exact h1
    · exact logPath_trans h1 (logPath_trans ⟨s1.flash, s1.fresh, r, s1.logTimes, rfl⟩ (logPath_writeLog { s1 with logPend := r } e now))

theorem logPath_flushLog (s : State) : logPath s s.flushLog := by
  have hiter : ∀ (n : Nat) (u : State), logPath u (iterate (fun s => s.logNext s.now) n u) := by
    intro n
    induction n with
    | zero => exact fun u => logPath_refl u
    | succ n ih => exact fun u => logPath_trans (logPath_logNext u u.now) (ih (u.logNext u.now))
  exact hiter s.logPend.length s

/-! ## What a trip does before its cold reset -/

/-- What the cold reset takes from before it: the store, the jobs of programming, and the words of the standby domain. -/
structure SameStandby (s u : State) : Prop where
  otp : u.otp = s.otp
  otpJob : u.otpJob = s.otpJob
  imgJob : u.imgJob = s.imgJob
  cause : u.reg R.rstCause 0 = s.reg R.rstCause 0
  keepReg : u.reg R.pwrKeep 0 = s.reg R.pwrKeep 0

theorem SameStandby.same {s : State} : SameStandby s s := ⟨rfl, rfl, rfl, rfl, rfl⟩

theorem SameStandby.trans {s t u : State} (h : SameStandby s t) (h' : SameStandby t u) : SameStandby s u :=
  ⟨h'.otp.trans h.otp, h'.otpJob.trans h.otpJob, h'.imgJob.trans h.imgJob, h'.cause.trans h.cause, h'.keepReg.trans h.keepReg⟩

theorem SameStandby.of_works {s u : State} (h : Works s u) : SameStandby s u :=
  ⟨h.otp, h.otpJob, h.imgJob, reg_of_works h (by decide) 0, reg_of_works h (by decide) 0⟩

theorem SameStandby.of_ringPath {s u : State} (h : ringPath s u) : SameStandby s u := by
  obtain ⟨_, _, rfl⟩ := h
  exact ⟨rfl, rfl, rfl, rfl, rfl⟩

theorem SameStandby.of_logPath {s u : State} (h : logPath s u) : SameStandby s u := by
  obtain ⟨_, _, _, _, rfl⟩ := h
  exact ⟨rfl, rfl, rfl, rfl, rfl⟩

theorem SameStandby.of_stopping {s u : State} (h : recoveryPath stoppingRegs s u) : SameStandby s u := by
  obtain ⟨⟨_, _, _, _, _, _, _, _, _, _, _, _, heq⟩, -, hr⟩ := h
  exact ⟨by rw [heq], by rw [heq], by rw [heq], reg_of_regsIn hr (by decide) 0, reg_of_regsIn hr (by decide) 0⟩

theorem SameStandby.putF (s : State) (f : Fld) (i v : Nat) (hc : f.reg.off / 8 ≠ R.rstCause.off / 8) (hk : f.reg.off / 8 ≠ R.pwrKeep.off / 8) :
    SameStandby s (s.putF f i v) := ⟨rfl, rfl, rfl, reg_putF_off s f _ _ _ _ hc, reg_putF_off s f _ _ _ _ hk⟩

theorem SameStandby.start (s : State) (x : Start) : SameStandby s { s with start := x } := ⟨rfl, rfl, rfl, rfl, rfl⟩

theorem SameStandby.tick (s : State) (x : TickSt) : SameStandby s { s with tick := x } := ⟨rfl, rfl, rfl, rfl, rfl⟩

theorem SameStandby.finishStop (s : State) : SameStandby s s.finishStop := by
  unfold State.finishStop
  extract_lets -merge +onlyGivenNames _ s1 s2 s3 s4 s5
  have h3 : Works s s3 := .foldl (fun _ _ h => .selfRefresh (.dropQueued h))
    (.resumeLoads (.foldl (fun _ _ h => .serve h) (.upd (.foldl (fun _ _ h => .failStream h) .same))))
  exact (SameStandby.of_works h3).trans ((SameStandby.putF s3 F.pwrStat_state 0 2 (by decide) (by decide)).trans
    ((SameStandby.tick s4 _).trans (.of_works (.raise (.sendRecords .same)))))

theorem SameStandby.beginStop (s : State) (cause : Nat) (atOnce : Bool) : SameStandby s (s.beginStop cause atOnce) := by
  unfold State.beginStop
  split
  · exact .same
  extract_lets -merge +onlyGivenNames s1 _ s2 s3
  have h1 : SameStandby s s1 := (SameStandby.putF s F.pwrStat_state 0 1 (by decide) (by decide)).trans
    (.putF _ F.pwrStat_cause 0 cause (by decide) (by decide))
  have h3 : SameStandby s s3 := h1.trans ((SameStandby.start s1 _).trans (.of_ringPath (ringPath_releasePlanes _ _)))
  split
  · exact h3.trans ((SameStandby.of_works (.stopStages .same)).trans (.finishStop _))
  · split
    · exact h3.trans (.finishStop _)
    · exact h3

/-! ## A cold reset outside Keep -/

/-- A cold reset without a Keep record: its cause, its loading, and what it clears and keeps. -/
structure ColdDone (cause : Nat) (s u : State) : Prop where
  cause : u.getF F.rstCause_cold = cause
  loading : u.start.loading = true
  state : u.getF F.pwrStat_state = 0
  ctl : u.ctl = {}
  tick : u.tick = {}
  devMem : u.devMem = []
  flash : u.flash = s.flash
  otp : u.otp = s.otp
  counts : ∀ f : Fld, f.reg = R.rstCause → 5 ≤ f.lo → u.getF f = s.getF f

theorem coldReset_spec {s : State} (hotp : s.otpJob = none) (himg : s.imgJob = none) (hk : s.onF F.pwrKeep_keep_ok = false) (cause : Nat)
    (hc : cause < 16) : ColdDone cause s (s.coldReset cause) := by
  have hcause := coldReset_cause hotp himg cause
  rw [State.shownCause, hk, if_neg (by simp), Nat.mod_eq_of_lt hc] at hcause
  have hstate : (s.coldReset cause).getF F.pwrStat_state = State.reset.getF F.pwrStat_state :=
    getF_of_sameRegs (coldReset_sameRegs hotp himg cause) (by decide)
  have hframe := coldReset_frame hotp himg cause
  exact ⟨hcause, (congrArg (fun u : State => u.start.loading) hframe).trans rfl, hstate, (congrArg State.ctl hframe).trans rfl,
    (congrArg State.tick hframe).trans rfl, (congrArg State.devMem hframe).trans (if_neg (by rw [hk]; decide)),
    (congrArg State.flash hframe).trans rfl, (congrArg State.otp hframe).trans rfl, coldReset_counts hotp himg cause⟩

/-- The words of the standby domain decide that no Keep record stands. -/
theorem SameStandby.keepOk {s u : State} (h : SameStandby s u) : u.onF F.pwrKeep_keep_ok = s.onF F.pwrKeep_keep_ok := by
  rw [State.onF, State.onF, State.getF, State.getF, show F.pwrKeep_keep_ok.reg = R.pwrKeep from rfl, h.keepReg]

theorem SameStandby.cold {s u : State} (h : SameStandby s u) (hotp : s.otpJob = none) (himg : s.imgJob = none)
    (hk : s.onF F.pwrKeep_keep_ok = false) (cause : Nat) (hc : cause < 16) : ColdDone cause u (u.coldReset cause) :=
  coldReset_spec (h.otpJob.trans hotp) (h.imgJob.trans himg) (h.keepOk.trans hk) cause hc

/-! ## The thermal trip (R418) -/

/-- The reading and the count of a trip. -/
def State.tripped (s : State) (k : Nat) (v : Int) : State :=
  (s.takeReadings [{ sensor := sentinelNo k, value := v }]).bump F.rstCause_thermal 0

theorem tripped_thermal (s : State) (k : Nat) (v : Int) :
    (s.tripped k v).getF F.rstCause_thermal = min (s.getF F.rstCause_thermal + 1) 255 := by
  have h := getF_bump (s.takeReadings [{ sensor := sentinelNo k, value := v }]) F.rstCause_thermal 0 1 (by decide)
  rw [show (s.takeReadings [{ sensor := sentinelNo k, value := v }]).getF F.rstCause_thermal = s.getF F.rstCause_thermal from
    getF_putF_off s F.thmSens_reading F.rstCause_thermal _ 0 _ (by decide)] at h
  exact h

theorem tripped_keepOk (s : State) (k : Nat) (v : Int) : (s.tripped k v).onF F.pwrKeep_keep_ok = s.onF F.pwrKeep_keep_ok :=
  onF_of_getF ((getF_putF_off _ F.rstCause_thermal F.pwrKeep_keep_ok 0 0 _ (by decide)).trans
    (getF_putF_off s F.thmSens_reading F.pwrKeep_keep_ok _ 0 _ (by decide)))

/-- A trip outside Keep ends in a cold reset of a state with the standby domain's words as they are, and in its hold. -/
theorem opTrip_spec (k : Nat) (v : Int) (now : Nat) (s : State) (hv : deg 115 ≤ v) (hh : s.start.tripHold = false)
    (hs : s.start.storm = false) (hk : s.onF F.pwrKeep_keep_ok = false) : ∃ u, SameStandby ((s.at_ now).tripped k v) u ∧
      opTrip k v now s = { u.coldReset 3 with start := { (u.coldReset 3).start with
        tripHold := true, therm := true
        tripTimes := s.start.tripTimes.filter (fun x => decide (now ≤ x + 3600000000000)) ++ [now]
        tripForever := decide (3 ≤ (s.start.tripTimes.filter (fun x => decide (now ≤ x + 3600000000000)) ++ [now]).length) } } := by
  unfold opTrip
  extract_lets -merge +onlyGivenNames s0 s1 times s2 s3 s4 s5 s6 s7
  have hguard : ¬ (decide (v < deg 115) || s0.start.tripHold || s0.start.storm) = true := by
    rw [decide_eq_false (by omega)]
    show ¬ (false || s.start.tripHold || s.start.storm) = true
    rw [hh, hs]
    decide
  rw [if_neg hguard]
  have h3 : SameStandby s1 s3 := .of_works (.foldl (fun _ _ h => .invalidate h) (.raise (.stopStages .same)))
  have h5 : SameStandby s1 s5 := h3.trans (by
    dsimp only [s5]
    split
    · exact .same
    · refine SameStandby.trans ?_ (.of_logPath (logPath_flushLog _))
      dsimp only [s4]
      split
      · exact .same
      · exact (SameStandby.putF s3 F.pwrStat_state 0 0 (by decide) (by decide)).trans
          ((SameStandby.beginStop _ 2 true).trans (.of_stopping (recoveryPath_closePlanes _ _))))
  have h6 : s6 = s5 := if_neg (by rw [h5.keepOk.trans (tripped_keepOk (s.at_ now) k v)]; exact ne_true_of_eq_false hk)
  exact ⟨s6, h6 ▸ h5, rfl⟩

/-! ## The watchdog (R417) -/

theorem opWdtExpiry_early (now : Nat) (s : State) (h : s.start.loading = true ∨ now < s.start.wdtAt + s.wdtMs * 1000000) :
    opWdtExpiry now s = s.at_ now := by
  refine if_pos (?_ : (s.start.loading || decide (now < s.start.wdtAt + s.wdtMs * 1000000)) = true)
  rcases h with h | h
  · rw [h]; rfl
  · rw [decide_eq_true h, Bool.or_true]

/-- An expiry that is due, by its reach. -/
theorem opWdtExpiry_due (now : Nat) (s : State) (hl : s.start.loading = false) (hd : s.start.wdtAt + s.wdtMs * 1000000 ≤ now) :
    opWdtExpiry now s =
      if s.wdtReach = 2 ∧ s.keep.inKeep = false then ((s.at_ now).bump F.rstCause_wdt 0).coldReset 2
      else if s.wdtReach = 1 ∧ s.keep.inKeep = false then
        { (((s.at_ now).bump F.rstCause_wdt 0).restartSteading now).warmReset with
          start := { (((s.at_ now).bump F.rstCause_wdt 0).restartSteading now).warmReset.start with perstUntil := now + 1000000 } }
      else ((s.at_ now).bump F.rstCause_wdt 0).restartSteading now := by
  have hguard : ¬ (s.start.loading || decide (now < s.start.wdtAt + s.wdtMs * 1000000)) = true := by
    rw [hl, decide_eq_false (by omega)]
    decide
  have hreach : ((s.at_ now).bump F.rstCause_wdt 0).wdtReach = s.wdtReach := by
    unfold State.wdtReach
    rw [getF_bump_off (s.at_ now) F.rstCause_wdt F.rstWdt_reach 0 0 1 (by decide)]
    rfl
  unfold opWdtExpiry
  extract_lets -merge +onlyGivenNames s0 s1 reach s2 s3
  refine (if_neg hguard).trans ?_
  have hr : reach = s.wdtReach := hreach
  have h2 : s2.keep.inKeep = s.keep.inKeep := congrArg KeepSt.inKeep (restartSteading_spec s1 now).keep
  have h1 : s1.keep.inKeep = s.keep.inKeep := rfl
  simp only [hr, h1, h2, Bool.not_eq_true']
  rfl

theorem bumped_wdt (s : State) (now : Nat) :
    ((s.at_ now).bump F.rstCause_wdt 0).getF F.rstCause_wdt = min (s.getF F.rstCause_wdt + 1) 65535 :=
  getF_bump (s.at_ now) F.rstCause_wdt 0 1 (by decide)

theorem watchdog_coldReset (now : Nat) (s : State) (hl : s.start.loading = false) (hd : s.start.wdtAt + s.wdtMs * 1000000 ≤ now)
    (hr : s.wdtReach = 2) (hi : s.keep.inKeep = false) (hk : s.onF F.pwrKeep_keep_ok = false) (hotp : s.otpJob = none)
    (himg : s.imgJob = none) : completes (.watchdogExpiry now) s (fun t =>
      t.getF F.rstCause_cold = 2 ∧ t.getF F.rstCause_wdt = min (s.getF F.rstCause_wdt + 1) 65535 ∧ t.start.loading = true ∧ t.ctl = {} ∧
      t.devMem = [] ∧ t.flash = s.flash ∧ t.otp = s.otp) := by
  have hop : opWdtExpiry now s.begin = ((s.begin.at_ now).bump F.rstCause_wdt 0).coldReset 2 :=
    (opWdtExpiry_due now s.begin hl hd).trans (if_pos ⟨hr, hi⟩)
  have hok : ((s.begin.at_ now).bump F.rstCause_wdt 0).onF F.pwrKeep_keep_ok = false :=
    (onF_of_getF (getF_bump_off _ F.rstCause_wdt F.pwrKeep_keep_ok 0 0 1 (by decide))).trans hk
  have h : ColdDone 2 ((s.begin.at_ now).bump F.rstCause_wdt 0) _ :=
    coldReset_spec (s := (s.begin.at_ now).bump F.rstCause_wdt 0) hotp himg hok 2 (by decide)
  have hwdt := (h.counts F.rstCause_wdt rfl (by decide)).trans (bumped_wdt s.begin now)
  obtain ⟨hcause, hload, -, hctl, -, hdev, hflash, hotp', -⟩ := h
  obtain ⟨u, hu⟩ : ∃ u, ((s.begin.at_ now).bump F.rstCause_wdt 0).coldReset 2 = u := ⟨_, rfl⟩
  rw [hu] at hop hwdt hcause hload hctl hdev hflash hotp'
  exact completes_of_eq (f := opWdtExpiry now) rfl hop ⟨hcause, hwdt, hload, hctl, hdev, hflash, hotp'⟩

theorem watchdog_warmReset (now : Nat) (s : State) (hl : s.start.loading = false) (hd : s.start.wdtAt + s.wdtMs * 1000000 ≤ now)
    (hr : s.wdtReach = 1) (hi : s.keep.inKeep = false) : completes (.watchdogExpiry now) s (fun t =>
      t.getF F.rstCause_wdt = min (s.getF F.rstCause_wdt + 1) 65535 ∧ t.getF F.rstCause_warm = min (s.getF F.rstCause_warm + 1) 65535 ∧
      t.start.steadingDown = true ∧ t.start.perstUntil = now + 1000000 ∧ (∀ q : Nat, q < 64 → t.pairOn q = false)) := by
  have hop := (opWdtExpiry_due now s.begin hl hd).trans ((if_neg (fun h => absurd (h.1.symm.trans hr) (by decide))).trans (if_pos ⟨hr, hi⟩))
  have hrestart := restartSteading_spec ((s.begin.at_ now).bump F.rstCause_wdt 0) now
  have hkept := warmReset_keepsCause (((s.begin.at_ now).bump F.rstCause_wdt 0).restartSteading now)
  obtain ⟨⟨hdown, hwarm⟩, -⟩ := warmReset_spec (((s.begin.at_ now).bump F.rstCause_wdt 0).restartSteading now)
  have hwdt : (((s.begin.at_ now).bump F.rstCause_wdt 0).restartSteading now).warmReset.getF F.rstCause_wdt =
      min (s.getF F.rstCause_wdt + 1) 65535 := by
    have hrest := getF_of_regsIn hrestart.regs (f := F.rstCause_wdt) (by decide) 0
    rw [State.getF, show F.rstCause_wdt.reg = R.rstCause from rfl, hkept.1]
    exact (getF_bump_apart _ F.rstCause_warm F.rstCause_wdt 0 1 rfl (by decide)).trans (hrest.trans (bumped_wdt s.begin now))
  have hwarm' : (((s.begin.at_ now).bump F.rstCause_wdt 0).restartSteading now).getF F.rstCause_warm = s.getF F.rstCause_warm :=
    (getF_of_regsIn hrestart.regs (by decide) 0).trans (getF_bump_apart (s.begin.at_ now) F.rstCause_wdt F.rstCause_warm 0 1 rfl (by decide))
  rw [hwarm'] at hwarm
  have hsteading := hkept.2.trans hrestart.down
  obtain ⟨u, hu⟩ : ∃ u, (((s.begin.at_ now).bump F.rstCause_wdt 0).restartSteading now).warmReset = u := ⟨_, rfl⟩
  rw [hu] at hop hdown hwarm hwdt hsteading
  exact completes_of_eq (f := opWdtExpiry now) rfl hop ⟨hwdt, hwarm, hsteading, rfl, fun q _ => hdown.pairs q⟩

theorem watchdog_restart (now : Nat) (s : State) (hl : s.start.loading = false) (hd : s.start.wdtAt + s.wdtMs * 1000000 ≤ now)
    (hr : s.wdtReach ≠ 1 ∧ s.wdtReach ≠ 2 ∨ s.keep.inKeep = true) : completes (.watchdogExpiry now) s (fun t =>
      t.getF F.rstCause_wdt = min (s.getF F.rstCause_wdt + 1) 65535 ∧ t.start.steadingDown = true ∧ t.start.wdtAt = now ∧
      t.ctl = s.ctl ∧ t.tick = s.tick ∧ t.devMem = s.devMem ∧ t.flash = s.flash) := by
  have hne : ∀ n, n = 1 ∨ n = 2 → ¬ (s.wdtReach = n ∧ s.keep.inKeep = false) := by
    rintro n hn ⟨h, h'⟩
    rcases hr with ⟨h1, h2⟩ | hi
    · omega
    · exact absurd (hi.symm.trans h') (by decide)
  have hop := (opWdtExpiry_due now s.begin hl hd).trans ((if_neg (hne 2 (Or.inr rfl))).trans (if_neg (hne 1 (Or.inl rfl))))
  have h := restartSteading_spec ((s.begin.at_ now).bump F.rstCause_wdt 0) now
  have hwdt := (getF_of_regsIn h.regs (f := F.rstCause_wdt) (by decide) 0).trans (bumped_wdt s.begin now)
  obtain ⟨hdown, hat, -, -, -, -, hdev, hflash, hctl, htick, -, -⟩ := h
  obtain ⟨u, hu⟩ : ∃ u, ((s.begin.at_ now).bump F.rstCause_wdt 0).restartSteading now = u := ⟨_, rfl⟩
  rw [hu] at hop hwdt hdown hat hdev hflash hctl htick
  exact completes_of_eq (f := opWdtExpiry now) rfl hop ⟨hwdt, hdown, hat, hctl, htick, hdev, hflash⟩

/-! ## Restarts by a write (R415) -/

theorem steadingRestart_done (by_ : Requester) (now : Nat) (s : State) (hb : by_ ≠ .i3c) (hl : s.start.loading = false)
    (hr : (s.at_ now).reaches by_ R.rstStd.off = true) : completes (.steadingRestart by_ now) s (fun t =>
      t.onF F.rstStd_restart = true ∧ t.start.steadingDown = true ∧ t.start.wdtAt = now ∧ t.otpJob = none ∧ t.attBody = [] ∧ t.attZero = true ∧
      (∀ k : CommitSt, s.commit = some k → t.commit = if k.steading then none else some k) ∧
      t.devMem = s.devMem ∧ t.flash = s.flash ∧ t.ctl = s.ctl ∧ t.tick = s.tick) := by
  have hguard : ¬ (by_ == .i3c || s.start.loading || !(s.begin.at_ now).reaches by_ R.rstStd.off) = true := by
    rw [beq_false_of_ne hb, hl, show (s.begin.at_ now).reaches by_ R.rstStd.off = true from hr]
    decide
  have hop : opSteadingRestart by_ now s.begin = ((s.begin.at_ now).putF F.rstStd_restart 0 1).restartSteading now := if_neg hguard
  have h := restartSteading_spec ((s.begin.at_ now).putF F.rstStd_restart 0 1) now
  have hon : (((s.begin.at_ now).putF F.rstStd_restart 0 1).restartSteading now).onF F.rstStd_restart = true :=
    (onF_of_getF (getF_of_regsIn h.regs (by decide) 0)).trans (onF_of_bit (b := true) (getF_putF_same _ F.rstStd_restart 0 1 (by decide)))
  obtain ⟨hdown, hat, hjob, hbody, hzero, hcommit, hdev, hflash, hctl, htick, -, -⟩ := h
  obtain ⟨u, hu⟩ : ∃ u, ((s.begin.at_ now).putF F.rstStd_restart 0 1).restartSteading now = u := ⟨_, rfl⟩
  rw [hu] at hop hon hdown hat hjob hbody hzero hcommit hdev hflash hctl htick
  exact completes_of_eq (f := opSteadingRestart by_ now) rfl hop
    ⟨hon, hdown, hat, hjob, hbody, hzero, hcommit, hdev, hflash, hctl, htick⟩

theorem opSteadingRestart_idle (by_ : Requester) (now : Nat) (s : State)
    (h : by_ = .i3c ∨ s.start.loading = true ∨ (s.at_ now).reaches by_ R.rstStd.off = false) :
    opSteadingRestart by_ now s = s.at_ now := by
  refine if_pos (?_ : (by_ == .i3c || s.start.loading || !(s.at_ now).reaches by_ R.rstStd.off) = true)
  rcases h with rfl | h | h
  · rfl
  · rw [h, Bool.or_true, Bool.true_or]
  · rw [h, Bool.not_false, Bool.or_true]

/-! ## The trip, the end of its hold, and of a stop -/

theorem opTrip_idle (k : Nat) (v : Int) (now : Nat) (s : State) (h : v < deg 115 ∨ s.start.tripHold = true ∨ s.start.storm = true) :
    opTrip k v now s = s.at_ now := by
  refine if_pos (?_ : (decide (v < deg 115) || s.start.tripHold || s.start.storm) = true)
  rcases h with h | h | h <;> simp [h]

theorem trip_done (k : BitVec 6) (v : Int) (now : Nat) (s : State) (hv : deg 115 ≤ v) (hh : s.start.tripHold = false)
    (hs : s.start.storm = false) (hk : s.onF F.pwrKeep_keep_ok = false) (hotp : s.otpJob = none) (himg : s.imgJob = none) :
    completes (.thermalTrip k v now) s (fun t =>
      t.start.tripHold = true ∧ t.start.therm = true ∧ t.start.loading = true ∧ t.getF F.rstCause_cold = 3 ∧
      t.getF F.rstCause_thermal = min (s.getF F.rstCause_thermal + 1) 255 ∧
      t.start.tripForever = decide (2 ≤ (s.start.tripTimes.filter (fun x => decide (now ≤ x + 3600000000000))).length) ∧
      t.ctl = {} ∧ t.tick = {} ∧ t.devMem = [] ∧ t.otp = s.otp) := by
  obtain ⟨u, hu, hop⟩ := opTrip_spec k.toNat v now s.begin hv hh hs hk
  have hok : ((s.begin.at_ now).tripped k.toNat v).onF F.pwrKeep_keep_ok = false := (tripped_keepOk _ _ _).trans hk
  have h := hu.cold hotp himg hok 3 (by decide)
  have hthermal : (u.coldReset 3).getF F.rstCause_thermal = min (s.getF F.rstCause_thermal + 1) 255 := by
    refine (h.counts F.rstCause_thermal rfl (by decide)).trans (Eq.trans ?_ (tripped_thermal (s.begin.at_ now) k.toNat v))
    rw [State.getF, State.getF, show F.rstCause_thermal.reg = R.rstCause from rfl, hu.cause]
  have hstore : (u.coldReset 3).otp = s.otp := h.otp.trans hu.otp
  obtain ⟨hcause, hload, -, hctl, htick, hdev, -, -, -⟩ := h
  obtain ⟨w, hw⟩ : ∃ w, u.coldReset 3 = w := ⟨_, rfl⟩
  rw [hw] at hop hthermal hstore hcause hload hctl htick hdev
  refine completes_of_eq (f := opTrip k.toNat v now) rfl hop ⟨rfl, rfl, hload, hcause, hthermal, ?_, hctl, htick, hdev, hstore⟩
  refine decide_eq_decide.2 ?_
  show 3 ≤ (s.start.tripTimes.filter _ ++ [now]).length ↔ _
  rw [List.length_append, List.length_singleton]
  omega

theorem opTripEnd_done (now x : Nat) (s : State) (hc : s.heat.coolSince = some x) (hh : s.start.tripHold = true)
    (hf : s.start.tripForever = false) (hx : x + 10000000000 ≤ now) : opTripEnd now s = { s.at_ now with
      start := { s.start with tripHold := false, therm := false, loadAt := max s.start.loadAt now }
      heat := { s.heat with coolSince := none } } := by
  simp only [opTripEnd]
  rw [show (s.at_ now).heat.coolSince = some x from hc]
  refine if_pos ?_
  show (s.start.tripHold && !s.start.tripForever && decide (x + 10000000000 ≤ now)) = true
  rw [hh, hf, decide_eq_true hx]
  rfl

theorem opTripEnd_idle (now : Nat) (s : State)
    (h : s.heat.coolSince = none ∨ s.start.tripHold = false ∨ s.start.tripForever = true) : opTripEnd now s = s.at_ now := by
  simp only [opTripEnd]
  split
  · next x hx =>
    refine if_neg ?_
    show ¬ (s.start.tripHold && !s.start.tripForever && decide (x + 10000000000 ≤ now)) = true
    rcases h with h | h | h
    · exact absurd (h.symm.trans hx) (by simp)
    · simp [h]
    · simp [h]
  · rfl

theorem opCooldown_done (x : Nat) (s : State) (hc : s.heat.coolSince = some x) (hs : s.getF F.pwrStat_state = 2)
    (hcause : s.getF F.pwrStat_cause ∈ [1, 3, 4]) (hx : x + 10000000000 ≤ s.now) (hd : s.start.steadingDown = false) :
    opCooldown s = s.coldReset 3 := by
  unfold opCooldown
  rw [hc]
  refine if_pos ?_
  rw [hs, List.contains_iff_mem.2 hcause, decide_eq_true hx, hd]
  rfl

theorem opCooldown_idle (s : State) (h : s.heat.coolSince = none ∨ s.getF F.pwrStat_state ≠ 2 ∨ s.start.steadingDown = true ∨
    s.getF F.pwrStat_cause ∉ [1, 3, 4]) : opCooldown s = s := by
  unfold opCooldown
  split
  · next x hx =>
    refine if_neg (fun hall => ?_)
    simp only [Bool.and_eq_true, Bool.not_eq_true', beq_iff_eq, decide_eq_true_eq] at hall
    obtain ⟨⟨⟨hs, hc⟩, -⟩, hd⟩ := hall
    rcases h with h | h | h | h
    · exact absurd (h.symm.trans hx) (by simp)
    · exact h hs
    · exact absurd (h.symm.trans hd) (by decide)
    · exact h (List.contains_iff_mem.1 hc)
  · rfl

theorem cooldown_done (x : Nat) (s : State) (hc : s.heat.coolSince = some x) (hs : s.getF F.pwrStat_state = 2)
    (hcause : s.getF F.pwrStat_cause ∈ [1, 3, 4]) (hx : x + 10000000000 ≤ s.now) (hd : s.start.steadingDown = false)
    (hk : s.onF F.pwrKeep_keep_ok = false) (hotp : s.otpJob = none) (himg : s.imgJob = none) : completes .stopCooldown s (fun t =>
      t.getF F.rstCause_cold = 3 ∧ t.start.loading = true ∧ t.getF F.pwrStat_state = 0 ∧ t.ctl = {} ∧ t.devMem = [] ∧ t.flash = s.flash) := by
  have hop := opCooldown_done x s.begin hc hs hcause hx hd
  obtain ⟨hcold, hload, hstate, hctl, -, hdev, hflash, -, -⟩ := coldReset_spec (s := s.begin) hotp himg hk 3 (by decide)
  obtain ⟨u, hu⟩ : ∃ u, s.begin.coldReset 3 = u := ⟨_, rfl⟩
  rw [hu] at hop hcold hload hstate hctl hdev hflash
  exact completes_of_eq (f := opCooldown) rfl hop ⟨hcold, hload, hstate, hctl, hdev, hflash⟩

/-- Settles O53: restarts by a write and by the watchdog, the watchdog's three reaches, the trip and the end of its hold, and the end of a
stop. -/
theorem restartsTripsAndStopsEnd : Obligations.RestartsTripsAndStopsEnd := by
  unfold Obligations.RestartsTripsAndStopsEnd
  intro now s
  refine ⟨fun by_ => ⟨fun h => ?_, steadingRestart_done by_ now s⟩, fun h => ?_, fun hl hd => ?_, fun h => ?_, fun hl hd =>
    ⟨watchdog_coldReset now s hl hd, watchdog_warmReset now s hl hd, watchdog_restart now s hl hd⟩,
    fun k v => ⟨fun h => ?_, trip_done k v now s⟩, fun x hc hh hf hx => ?_, fun h => ?_, fun x => cooldown_done x s, fun h => ?_⟩
  · exact idlesAt_of_run (f := opSteadingRestart by_ now) rfl (opSteadingRestart_idle by_ now s.begin h)
  · exact idlesAt_of_run (f := opWdtRestart now) rfl (if_pos (by
      show (s.start.loading || s.start.steadingDown) = true
      rcases h with h | h <;> simp [h]))
  · exact completes_of_eq (f := opWdtRestart now) rfl (if_neg (by
      show ¬ (s.start.loading || s.start.steadingDown) = true
      rw [hl, hd]
      decide)) rfl
  · exact idlesAt_of_run (f := opWdtExpiry now) rfl (opWdtExpiry_early now s.begin h)
  · exact idlesAt_of_run (f := opTrip k.toNat v now) rfl (opTrip_idle k.toNat v now s.begin h)
  · exact completes_of_eq (f := opTripEnd now) rfl (opTripEnd_done now x s.begin hc hh hf hx) rfl
  · exact idlesAt_of_run (f := opTripEnd now) rfl (opTripEnd_idle now s.begin h)
  · exact idles_of_run (f := opCooldown) rfl (opCooldown_idle s.begin h)

end Sys2Proof.Machine
end


section
/-! SUPPORT. The inlet, the throttles, the loss of coolant and the failure of power (R482 to R496): the small rows say what they write, a
stop of a running tick leaves the tick and the memories as they are, and a failure of power begins Keep or such a stop. -/

namespace Sys2Proof.Machine

/-! ## The inlet (R482) -/

theorem opInletStale_due (now x : Nat) (s : State) (hc : s.heat.coolWritten = some x) (hs : s.heat.inletStale = false)
    (hx : x + 5000000000 < now) : opInletStale now s =
      { s.at_ now with heat := { s.heat with inletStale := true } }.raise 0x62 0 0 (BitVec.ofNat 64 ((now - x) / 1000000)) := by
  unfold opInletStale
  extract_lets s0
  split
  · next y hy =>
    obtain rfl : y = x := Option.some.inj (hy.symm.trans hc)
    refine if_neg ?_
    show ¬ (s.heat.inletStale || decide (now ≤ y + 5000000000)) = true
    rw [hs, decide_eq_false (by omega)]
    decide
  · next hn => exact absurd (hn.symm.trans hc) (by simp)

theorem opInletStale_idle (now : Nat) (s : State)
    (h : ∀ x, s.heat.coolWritten = some x → s.heat.inletStale = true ∨ now ≤ x + 5000000000) : opInletStale now s = s.at_ now := by
  simp only [opInletStale]
  split
  · next x hx =>
    refine if_pos ?_
    show (s.heat.inletStale || decide (now ≤ x + 5000000000)) = true
    rcases h x hx with h | h <;> simp [h]
  · rfl

theorem inletWrite_done (by_ : Requester) (v : BitVec 16) (now : Nat) (s : State) (hr : s.reaches by_ R.thmCool.off = true) :
    completes (.inletWrite by_ v now) s (fun t =>
      t.getF F.thmCool_t_in = v.toNat ∧ t.getF F.thmCool_age_ms = 0 ∧ sameRegs [regKey R.thmCool 0] s t ∧
      t = { s with
        regs := t.regs, heat := { s.heat with coolWritten := some now, inletStale := false }, out := [], now := max s.now now }) := by
  refine completes_of_eq (f := fun s => if s.reaches by_ R.thmCool.off then opInletWrite v.toNat now s else s.at_ now) rfl
    (if_pos hr) ⟨?_, ?_, ?_, rfl⟩
  · refine (getF_putF_apart _ F.thmCool_age_ms F.thmCool_t_in 0 0 rfl (by decide)).trans
      ((getF_putF_same _ F.thmCool_t_in 0 _ (by decide)).trans (Nat.mod_eq_of_lt v.isLt))
  · exact getF_putF_same _ F.thmCool_age_ms 0 0 (by decide)
  · exact sameRegs_putF F.thmCool_age_ms 0 0 (sameRegs_putF F.thmCool_t_in 0 _ (sameRegs_refl _ s) (List.mem_singleton.2 rfl))
      (List.mem_singleton.2 rfl)

theorem inletStale_done (now x : Nat) (s : State) (hc : s.heat.coolWritten = some x) (hs : s.heat.inletStale = false)
    (hx : x + 5000000000 < now) : completes (.inletStale now) s (fun t =>
      t.heat = { s.heat with inletStale := true } ∧ sameRegs [regKey R.hstEvqStat 0, regKey R.stdBootRet 0] s t ∧ t.ctl = s.ctl ∧
      t.devMem = s.devMem) := by
  obtain ⟨⟨_, _, _, _, _, _, _, hu⟩, hr⟩ := eventPath_raise (ks := [regKey R.hstEvqStat 0, regKey R.stdBootRet 0])
    (s := { s.begin.at_ now with heat := { s.begin.heat with inletStale := true } }) 0x62 0 0 (BitVec.ofNat 64 ((now - x) / 1000000)) []
    (by simp) (by simp)
  refine completes_of_eq (f := opInletStale now) rfl ((opInletStale_due now x s.begin hc hs hx).trans hu) ⟨rfl, ?_, rfl, rfl⟩
  rw [hu] at hr
  exact hr

/-! ## Throttles (R485, R486) -/

theorem fastThrottle_done (p : Nat) (s : State) (hp : 105 * s.getF F.pwrStat_cap < 100 * p) (hk : s.getF F.pwrStat_skip = 0) :
    completes (.fastThrottle p) s (fun t => t.getF F.pwrStat_skip = 2 ∧ onlyRegs [regKey R.pwrStat 0] s t) := by
  have hop : opFastThrottle p s.begin = s.begin.putF F.pwrStat_skip 0 2 := if_pos (by
    show (decide (105 * s.getF F.pwrStat_cap < 100 * p) && s.getF F.pwrStat_skip == 0) = true
    rw [decide_eq_true hp, hk]
    rfl)
  exact completes_of_eq (f := opFastThrottle p) rfl hop ⟨getF_putF_same _ F.pwrStat_skip 0 2 (by decide),
    onlyRegs_of_putsRegs ((putsRegs_refl _ _).putF F.pwrStat_skip 0 2 (List.mem_singleton.2 rfl))⟩

theorem opFastThrottle_idle (p : Nat) (s : State) (h : 100 * p ≤ 105 * s.getF F.pwrStat_cap ∨ s.getF F.pwrStat_skip ≠ 0) :
    opFastThrottle p s = s := by
  refine if_neg ?_
  rw [Bool.and_eq_true, decide_eq_true_eq, beq_iff_eq]
  omega

theorem opThrottleStep_moves (excess : Bool) (us : Nat) (s : State) (hk : s.getF F.pwrStat_skip ≠ 0) (h : excess = true ∨ 100 ≤ us) :
    opThrottleStep excess us s =
      s.putF F.pwrStat_skip 0 (if excess then min 15 (s.getF F.pwrStat_skip + 1) else s.getF F.pwrStat_skip - 1) := by
  refine (if_neg hk).trans ?_
  cases excess with
  | true => rfl
  | false => exact if_pos (h.resolve_left (by decide))

theorem opThrottleStep_idle (excess : Bool) (us : Nat) (s : State) (h : s.getF F.pwrStat_skip = 0 ∨ excess = false ∧ us < 100) :
    opThrottleStep excess us s = s := by
  by_cases hk : s.getF F.pwrStat_skip = 0
  · exact if_pos hk
  · obtain ⟨rfl, hu⟩ := h.resolve_left hk
    exact (if_neg hk).trans ((if_neg (by decide)).trans (if_neg (by omega)))

theorem fastThrottleStep_done (excess : Bool) (us : Nat) (s : State) (hk : s.getF F.pwrStat_skip ≠ 0) (h : excess = true ∨ 100 ≤ us) :
    completes (.fastThrottleStep excess us) s (fun t =>
      t.getF F.pwrStat_skip = (if excess then min 15 (s.getF F.pwrStat_skip + 1) else s.getF F.pwrStat_skip - 1) ∧
      onlyRegs [regKey R.pwrStat 0] s t) := by
  refine completes_of_eq (f := opThrottleStep excess us) rfl (opThrottleStep_moves excess us s.begin hk h) ⟨?_, ?_⟩
  · refine (getF_putF_same _ F.pwrStat_skip 0 _ (by decide)).trans (Nat.mod_eq_of_lt ?_)
    have hlt : s.getF F.pwrStat_skip < 16 := fieldGet_lt _ _ _
    show (if excess then min 15 (s.getF F.pwrStat_skip + 1) else s.getF F.pwrStat_skip - 1) < 16
    split <;> omega
  · exact onlyRegs_of_putsRegs ((putsRegs_refl _ _).putF F.pwrStat_skip 0 _ (List.mem_singleton.2 rfl))

/-! ## A stop of a running tick (R491) -/

/-- A stop in order that does not wait is begun: its state and cause show, and the tick and the memories are as they were. -/
structure StopBegun (cause : Nat) (s u : State) : Prop where
  state : u.getF F.pwrStat_state = 1
  cause : u.getF F.pwrStat_cause = cause
  tick : u.tick = s.tick
  devMem : u.devMem = s.devMem
  otpJob : u.otpJob = s.otpJob
  imgJob : u.imgJob = s.imgJob
  pwrfailLow : u.start.pwrfailLow = s.start.pwrfailLow

theorem beginStop_running (s : State) (cause : Nat) (hc : cause < 8) (hs : s.getF F.pwrStat_state ≠ 1 ∧ s.getF F.pwrStat_state ≠ 2)
    (hr : s.tick.running = true) : StopBegun cause s (s.beginStop cause false) := by
  unfold State.beginStop
  rw [if_neg (by omega)]
  extract_lets -merge +onlyGivenNames s1 _ s2 s3
  have hstate : s1.getF F.pwrStat_state = 1 := (getF_putF_apart _ F.pwrStat_cause F.pwrStat_state 0 cause rfl (by decide)).trans
    (getF_putF_same s F.pwrStat_state 0 1 (by decide))
  have hcause : s1.getF F.pwrStat_cause = cause :=
    (getF_putF_same _ F.pwrStat_cause 0 cause (by decide)).trans (Nat.mod_eq_of_lt hc)
  obtain ⟨ring, out, h3⟩ : ringPath s2 s3 := ringPath_releasePlanes s2 _
  have hrun : s3.tick.running = true := by rw [h3]; exact hr
  rw [if_neg (by decide), if_neg (by rw [hrun]; decide), h3]
  exact ⟨hstate, hcause, rfl, rfl, rfl, rfl, rfl⟩

/-! ## The loss of coolant (R489, R490) -/

theorem coolantLost_running (s : State) (hs : s.getF F.pwrStat_state = 0) (hr : s.tick.running = true) :
    StopBegun 4 s (s.coolantLost false false) := by
  have hworks : Works s ((s.errsum (0 :: s.sheafIds) 3).raise 0x64 0 0 (BitVec.ofNat 64 (bit false))) := .raise (.errsum .same)
  have hdev : ((s.errsum (0 :: s.sheafIds) 3).raise 0x64 0 0 (BitVec.ofNat 64 (bit false))).devMem = s.devMem := by
    refine (raise_devMem ..).trans (foldl_keeps State.devMem ?_ _ s)
    exact fun _ _ => rfl
  have hstate := (getF_of_works hworks (f := F.pwrStat_state) (by decide) 0).trans hs
  unfold State.coolantLost
  rw [if_neg (by rw [hs]; decide)]
  generalize (s.errsum (0 :: s.sheafIds) 3).raise 0x64 0 0 (BitVec.ofNat 64 (bit false)) = u at *
  obtain ⟨h1, h2, h3, h4, h5, h6, h7⟩ := beginStop_running u 4 (by decide) (by rw [hstate]; decide) (by rw [hworks.tick]; exact hr)
  exact ⟨h1, h2, h3.trans hworks.tick, h4.trans hdev, h5.trans hworks.otpJob, h6.trans hworks.imgJob,
    h7.trans (congrArg Start.pwrfailLow hworks.start)⟩

theorem coolantLoss_done (now x : Nat) (s : State) (hc : s.heat.lowSince = some x) (hm : s.onF F.pwrCap_mode = true)
    (hx : x + 1000000000 ≤ now) (hs : s.getF F.pwrStat_state = 0) (hr : s.tick.running = true) : completes (.coolantLoss now) s (fun t =>
      t.getF F.pwrStat_state = 1 ∧ t.getF F.pwrStat_cause = 4 ∧ t.tick = s.tick ∧ t.devMem = s.devMem) := by
  have hop : opCoolantLoss now s.begin = (s.begin.at_ now).coolantLost false false := by
    unfold opCoolantLoss
    extract_lets s0
    split
    · next y hy =>
      obtain rfl : y = x := Option.some.inj (hy.symm.trans hc)
      refine if_pos ?_
      show (s.onF F.pwrCap_mode && decide (y + 1000000000 ≤ now)) = true
      rw [hm, decide_eq_true hx]
      rfl
    · next hn => exact absurd (hn.symm.trans hc) (by simp)
  obtain ⟨hstate, hcause, htick, hdev, -, -, -⟩ := coolantLost_running (s.begin.at_ now) hs hr
  obtain ⟨u, hu⟩ : ∃ u, (s.begin.at_ now).coolantLost false false = u := ⟨_, rfl⟩
  rw [hu] at hop hstate hcause htick hdev
  exact completes_of_eq (f := opCoolantLoss now) rfl hop ⟨hstate, hcause, htick, hdev⟩

theorem opCoolantLoss_idle (now : Nat) (s : State) (h : s.heat.lowSince = none ∨ s.onF F.pwrCap_mode = false ∨
    s.getF F.pwrStat_state = 1 ∨ s.getF F.pwrStat_state = 2) : opCoolantLoss now s = s.at_ now := by
  unfold opCoolantLoss
  extract_lets s0
  split
  · next y hy =>
    rcases h with h | h | h
    · exact absurd (h.symm.trans hy) (by simp)
    · exact if_neg (by rw [show s0.onF F.pwrCap_mode = false from h]; simp)
    · split
      · exact if_pos h
      · rfl
  · rfl

/-! ## The failure of power (R494 to R496) -/

theorem cutImage_frame (s : State) : (∃ flash fresh regs, s.cutImage = { s with flash := flash, imgJob := none, fresh := fresh, regs := regs }) ∧
    regsIn [R.stdRcvCtl, R.stdRcvStat] s s.cutImage := by
  unfold State.cutImage
  split
  · next h => exact ⟨⟨s.flash, s.fresh, s.regs, by rw [← h]⟩, regsIn_refl _ s⟩
  · exact ⟨⟨_, _, _, rfl⟩, regsIn_trans (t := { s with flash := _, imgJob := none }) (regsIn_of_regs rfl)
      (regsIn_trans (regsIn_putF _ F.stdRcvCtl_cmd 0 0 (by decide)) (regsIn_trans (regsIn_putF _ F.stdRcvStat_state 0 5 (by decide))
        (regsIn_of_regs rfl)))⟩

/-- The registers of the jobs of programming and of events. -/
def failingRegs : List Reg := [R.otpProg, R.stdRcvCtl, R.stdRcvStat, R.hstEvqStat, R.stdBootRet]

/-- u is s but for what events and the jobs of programming write. -/
structure Undisturbed (s u : State) : Prop where
  configured : u.start.configured = s.start.configured
  keep : u.keep = s.keep
  tick : u.tick = s.tick
  devMem : u.devMem = s.devMem
  regs : regsIn failingRegs s u

theorem undisturbed_raise (s : State) (code cls idx : Nat) (arg : Word) : Undisturbed s (s.raise code cls idx arg) := by
  obtain ⟨⟨_, _, _, _, _, _, _, hu⟩, hr⟩ := eventPath_raise (ks := [regKey R.hstEvqStat 0, regKey R.stdBootRet 0])
    (s := s) code cls idx arg [] (by simp) (by simp)
  have hregs : regsIn failingRegs s (s.raise code cls idx arg) := regsIn_of_sameRegs hr (by
    intro k hk
    rcases List.mem_cons.1 hk with rfl | hk
    · exact ⟨R.hstEvqStat, by decide, regKey_div _ _⟩
    · exact ⟨R.stdBootRet, by decide, List.mem_singleton.1 hk ▸ regKey_div _ _⟩)
  generalize s.raise code cls idx arg = w at *
  subst hu
  exact ⟨rfl, rfl, rfl, rfl, hregs⟩

theorem Undisturbed.trans {s t u : State} (h : Undisturbed s t) (h' : Undisturbed t u) : Undisturbed s u :=
  ⟨h'.configured.trans h.configured, h'.keep.trans h.keep, h'.tick.trans h.tick, h'.devMem.trans h.devMem, regsIn_trans h.regs h'.regs⟩

/-- A register that no job and no event writes. -/
theorem Undisturbed.getF {s u : State} (h : Undisturbed s u) {f : Fld} (hf : ∀ q ∈ failingRegs, f.reg.off / 8 ≠ q.off / 8) :
    u.getF f = s.getF f := getF_of_regsIn h.regs hf 0

theorem Undisturbed.onF {s u : State} (h : Undisturbed s u) {f : Fld} (hf : ∀ q ∈ failingRegs, f.reg.off / 8 ≠ q.off / 8) :
    u.onF f = s.onF f := onF_of_getF (h.getF hf)

theorem Undisturbed.keepArmed {s u : State} (h : Undisturbed s u) : u.keepArmed = s.keepArmed := by
  simp only [State.keepArmed, State.ready, h.configured]
  rw [h.onF (f := F.pwrCap_keep) (by decide), h.getF (f := F.pwrStat_state) (by decide), h.getF (f := F.stdBoot_stage) (by decide),
    h.getF (f := F.stdBoot_start) (by decide)]

/-- The same, with no job of programming left and the failure noted. -/
structure Failing (s u : State) : Prop extends Undisturbed s u where
  otpJob : u.otpJob = none
  imgJob : u.imgJob = none
  low : u.start.pwrfailLow = true

theorem Failing.of_raise {s u : State} (h : Failing s u) (code cls idx : Nat) (arg : Word) : Failing s (u.raise code cls idx arg) := by
  have hund := h.toUndisturbed.trans (undisturbed_raise u code cls idx arg)
  obtain ⟨⟨_, _, _, _, _, _, _, hu⟩, -⟩ := eventPath_raise (ks := [regKey R.hstEvqStat 0, regKey R.stdBootRet 0])
    (s := u) code cls idx arg [] (by simp) (by simp)
  generalize u.raise code cls idx arg = w at *
  subst hu
  exact ⟨hund, h.otpJob, h.imgJob, h.low⟩

/-- The jobs of programming are cut short, and the failure noted. -/
def State.failing (s : State) : State :=
  { s.cutOtp.cutImage with start := { s.cutOtp.cutImage.start with pwrfailLow := true } }

theorem failing_spec (s : State) : Failing s s.failing := by
  obtain ⟨⟨otp, f1, r1, h1⟩, hr1⟩ := cutOtp_frame s
  obtain ⟨⟨flash, f2, r2, h2⟩, hr2⟩ := cutImage_frame s.cutOtp
  have hregs : regsIn failingRegs s s.failing :=
    regsIn_trans (regsIn_mono (by decide) hr1) (regsIn_trans (regsIn_mono (by decide) hr2) (regsIn_of_regs rfl))
  have heq : s.failing = { s with
      otp := otp, otpJob := none, flash := flash, imgJob := none, fresh := f2, start := { s.start with pwrfailLow := true }, regs := r2 } := by
    rw [State.failing, h2, h1]
  generalize s.failing = u at *
  subst heq
  exact ⟨⟨rfl, rfl, rfl, rfl, hregs⟩, rfl, rfl, rfl⟩

/-- Without a record of Keep a failure of power begins Keep where it is armed, and a stop where it is not. -/
theorem powerFails_eq (s : State) (now : Nat) (hi : s.keep.inKeep = false) (hk : s.onF F.pwrKeep_keep_ok = false) : s.powerFails now =
    if s.keepArmed then s.failing.beginKeep now
    else if s.getF F.pwrStat_state = 0 then (s.failing.raise 0x68 0 0 0).beginStop 5 false else s.failing := by
  have h := failing_spec s
  unfold State.powerFails
  extract_lets -merge +onlyGivenNames s1 x s2
  have h2 : s2 = s.failing := rfl
  rw [h2, if_neg (by rw [h.keep, hi]; decide), if_neg (by rw [h.onF (by decide)]; exact ne_true_of_eq_false hk), h.keepArmed,
    h.getF (f := F.pwrStat_state) (by decide)]

/-- What a failure of power leaves where Keep is armed. -/
structure KeepBegun (now : Nat) (s u : State) : Prop where
  state : u.getF F.pwrStat_state = 3
  entryAt : u.keep.entryAt = some now
  commit : u.commit = none
  autos : u.autos = []
  low : u.start.pwrfailLow = true
  otpJob : u.otpJob = none
  imgJob : u.imgJob = none
  devMem : u.devMem = s.devMem

theorem beginKeep_spec (s u : State) (now : Nat) (h : Failing s u) : KeepBegun now s (u.beginKeep now) := by
  unfold State.beginKeep
  extract_lets -merge +onlyGivenNames s1 s2 c t s3 k s4
  obtain ⟨⟨-, -, -, hdev, -⟩, hotp, himg, hlow⟩ : Failing s s1 := h.of_raise 0x68 0 0 1
  obtain ⟨⟨regs, h2⟩, hr2⟩ : (∃ regs, s2 = { s1.putF F.pwrStat_state 0 3 with commit := none, regs := regs }) ∧
    regsIn givenUpRegs (s1.putF F.pwrStat_state 0 3) s2 := dropCommits_frame _
  have hstate2 : s2.getF F.pwrStat_state = 3 :=
    (getF_of_regsIn hr2 (by decide) 0).trans (getF_putF_same s1 F.pwrStat_state 0 3 (by decide))
  have hstate3 : s3.getF F.pwrStat_state = 3 := by
    dsimp only [s3]
    split
    · exact (getF_putF_apart s2 F.pwrStat_cap F.pwrStat_state 0 800 rfl (by decide)).trans hstate2
    · exact hstate2
  obtain ⟨regs3, tick3, h3⟩ : ∃ regs tick, s3 = { s2 with regs := regs, tick := tick } := by
    dsimp only [s3]
    split
    · exact ⟨_, _, rfl⟩
    · exact ⟨s2.regs, s2.tick, rfl⟩
  obtain ⟨ring, out, h4⟩ : ringPath s4 (s4.releasePlanes s4.heldPlanes) := ringPath_releasePlanes s4 _
  rw [h4]
  have hregs : s4.getF F.pwrStat_state = 3 := hstate3
  have heq : s4 = { s3 with autos := [], keep := { s3.keep with entryAt := some now } } := rfl
  rw [h3, h2] at heq
  clear_value s4
  subst heq
  exact ⟨hregs, rfl, rfl, rfl, hlow, hotp, himg, hdev⟩

/-- The state in which a failure of power finds the part, and what it means for Keep. -/
structure PowerUp (s w : State) : Prop extends Undisturbed s w where
  inKeep : s.keep.inKeep = false
  keepOk : s.onF F.pwrKeep_keep_ok = false
  running : s.tick.running = true

theorem powerFails_armed {s w : State} (h : PowerUp s w) (now : Nat) (ha : s.keepArmed = true) : KeepBegun now s (w.powerFails now) := by
  rw [powerFails_eq w now (h.keep ▸ h.inKeep) ((h.onF (by decide)).trans h.keepOk), if_pos (h.keepArmed.trans ha)]
  obtain ⟨hund, hotp, himg, hlow⟩ := failing_spec w
  exact beginKeep_spec s _ now ⟨h.toUndisturbed.trans hund, hotp, himg, hlow⟩

theorem powerFails_stops {s w : State} (h : PowerUp s w) (now : Nat) (ha : s.keepArmed = false) (hs : s.getF F.pwrStat_state = 0) :
    (w.powerFails now).getF F.pwrStat_state = 1 ∧ (w.powerFails now).getF F.pwrStat_cause = 5 ∧
    (w.powerFails now).start.pwrfailLow = true ∧ (w.powerFails now).otpJob = none ∧ (w.powerFails now).imgJob = none ∧
    (w.powerFails now).devMem = s.devMem := by
  have hstate : w.getF F.pwrStat_state = 0 := (h.getF (by decide)).trans hs
  rw [powerFails_eq w now (h.keep ▸ h.inKeep) ((h.onF (by decide)).trans h.keepOk),
    if_neg (by rw [h.keepArmed, ha]; decide), if_pos hstate]
  obtain ⟨hund, hotp, himg, hlow⟩ := (failing_spec w).of_raise 0x68 0 0 0
  obtain ⟨h1, h2, -, h4, h5, h6, h7⟩ := beginStop_running (w.failing.raise 0x68 0 0 0) 5 (by decide)
    (by rw [hund.getF (by decide), hstate]; decide) (by rw [hund.tick, h.tick]; exact h.running)
  exact ⟨h1, h2, h7.trans hlow, h5.trans hotp, h6.trans himg, h4.trans (hund.devMem.trans h.devMem)⟩

/-- Either command is a failure of power on a state that the part's own events may have touched. -/
theorem exec_powerFails {c : Instr} {now : Nat} {s : State}
    (hc : (∃ lowNs, c = .pwrfail lowNs now ∧ 1000 ≤ lowNs) ∨ (∃ mv, c = .railFault mv now ∧ mv < 1550 ∧ s.keep.inKeep = false))
    (hh : s.heldInReset = false) (hl : s.start.pwrfailLow = false) :
    ∃ f w, exec c s = run f s ∧ f s.begin = State.powerFails w now ∧ Undisturbed s w := by
  rcases hc with ⟨lowNs, rfl, hn⟩ | ⟨mv, rfl, hmv, hi⟩
  · refine ⟨opPwrfail lowNs now, s.begin.at_ now, rfl, if_neg ?_, ⟨rfl, rfl, rfl, rfl, regsIn_of_regs rfl⟩⟩
    show ¬ (decide (lowNs < 1000) || s.heldInReset || s.start.pwrfailLow) = true
    rw [decide_eq_false (by omega), hh, hl]
    decide
  · refine ⟨opRailFault mv now, (s.begin.at_ now).raise 0x67 0xE 0 (BitVec.ofNat 64 mv), rfl, if_neg ?_, ?_⟩
    · show ¬ (s.heldInReset || s.start.pwrfailLow || s.keep.inKeep || decide (1550 ≤ mv)) = true
      rw [decide_eq_false (by omega), hh, hl, hi]
      decide
    · exact Undisturbed.trans (t := s.begin.at_ now) ⟨rfl, rfl, rfl, rfl, regsIn_of_regs rfl⟩ (undisturbed_raise _ _ _ _ _)

theorem opPwrfail_idle (n now : Nat) (s : State) (h : n < 1000 ∨ s.heldInReset = true ∨ s.start.pwrfailLow = true) :
    opPwrfail n now s = s.at_ now := by
  refine if_pos (?_ : (decide (n < 1000) || s.heldInReset || s.start.pwrfailLow) = true)
  rcases h with h | h | h <;> simp [h]

theorem opRailFault_idle (mv now : Nat) (s : State)
    (h : 1550 ≤ mv ∨ s.heldInReset = true ∨ s.start.pwrfailLow = true ∨ s.keep.inKeep = true) : opRailFault mv now s = s.at_ now := by
  refine if_pos (?_ : (s.heldInReset || s.start.pwrfailLow || s.keep.inKeep || decide (1550 ≤ mv)) = true)
  rcases h with h | h | h | h <;> simp [h]

/-! ## The release of PWRFAIL_N (R495) -/

theorem opPwrfailRelease_cold (okNs : Nat) (s : State) (hs : s.getF F.pwrStat_state = 2)
    (hc : s.getF F.pwrStat_cause = 5 ∨ s.getF F.pwrStat_cause = 6) (hn : 10000000 ≤ okNs) :
    opPwrfailRelease okNs s = { s with start := { s.start with pwrfailLow := false } }.coldResetFree := by
  refine if_pos (?_ : (s.getF F.pwrStat_state == 2 && [5, 6].contains (s.getF F.pwrStat_cause) && decide (10000000 ≤ okNs)) = true)
  rw [hs, decide_eq_true hn]
  rcases hc with hc | hc <;> rw [hc] <;> rfl

theorem opPwrfailRelease_stays (okNs : Nat) (s : State)
    (h : s.getF F.pwrStat_state ≠ 2 ∨ s.getF F.pwrStat_cause ≠ 5 ∧ s.getF F.pwrStat_cause ≠ 6 ∨ okNs < 10000000) :
    opPwrfailRelease okNs s = { s with start := { s.start with pwrfailLow := false } } := by
  refine if_neg (?_ : ¬ (s.getF F.pwrStat_state == 2 && [5, 6].contains (s.getF F.pwrStat_cause) && decide (10000000 ≤ okNs)) = true)
  simp only [Bool.and_eq_true, beq_iff_eq, decide_eq_true_eq, List.contains_iff_mem, List.mem_cons, List.not_mem_nil, or_false]
  omega

theorem pwrfailRelease_cold (okNs : Nat) (s : State) (hs : s.getF F.pwrStat_state = 2)
    (hc : s.getF F.pwrStat_cause = 5 ∨ s.getF F.pwrStat_cause = 6) (hn : 10000000 ≤ okNs) (hk : s.onF F.pwrKeep_keep_ok = false)
    (hotp : s.otpJob = none) (himg : s.imgJob = none) : completes (.pwrfailNRelease okNs) s (fun t =>
      t.start.loading = true ∧ t.start.pwrfailLow = false ∧ t.getF F.rstCause_cold ≤ 2 ∧ t.getF F.pwrStat_state = 0 ∧ t.devMem = []) := by
  have hop := opPwrfailRelease_cold okNs s.begin hs hc hn
  obtain ⟨hcause, hframe, hdev, hregs⟩ := coldResetFree_spec (s := { s.begin with start := { s.begin.start with pwrfailLow := false } })
    hotp himg hk
  obtain ⟨u, hu⟩ : ∃ u, { s.begin with start := { s.begin.start with pwrfailLow := false } }.coldResetFree = u := ⟨_, rfl⟩
  rw [hu] at hop hcause hframe hdev hregs
  have hstate : u.getF F.pwrStat_state = State.reset.getF F.pwrStat_state := getF_of_sameRegs hregs (by decide)
  exact completes_of_eq (f := opPwrfailRelease okNs) rfl hop ⟨(congrArg (fun v : State => v.start.loading) hframe).trans rfl,
    (congrArg (fun v : State => v.start.pwrfailLow) hframe).trans rfl, hcause, hstate, hdev⟩

/-- Settles O54: the inlet, the two throttles, a region's own skip, and the losses of coolant and of power. -/
theorem powerAndCoolantAreWatched : Obligations.PowerAndCoolantAreWatched := by
  unfold Obligations.PowerAndCoolantAreWatched
  intro now s
  refine ⟨fun by_ v => ⟨inletWrite_done by_ v now s, fun h => ?_⟩, fun x hc => ⟨inletStale_done now x s hc, fun h => ?_⟩, fun hc => ?_,
    fun p => ⟨fastThrottle_done p s, fun h => ?_⟩, fun excess us => ⟨fastThrottleStep_done excess us s, fun h => ?_⟩, fun c ma => ?_,
    fun x hc hm hx hs hr => coolantLoss_done now x s hc hm hx hs hr, fun h => ?_, fun c hc hh hl hi hk hr => ⟨fun ha => ?_, fun ha hs => ?_⟩,
    fun n h => ?_, fun mv h => ?_, fun okNs => ⟨pwrfailRelease_cold okNs s, fun h => ?_⟩⟩
  · exact idlesAt_of_run (f := fun s => if s.reaches by_ R.thmCool.off then opInletWrite v.toNat now s else s.at_ now) rfl
      (if_neg (by rw [show s.begin.reaches by_ R.thmCool.off = false from h]; decide))
  · exact idlesAt_of_run (f := opInletStale now) rfl
      (opInletStale_idle now s.begin (fun y hy => by obtain rfl : x = y := Option.some.inj (hc.symm.trans hy); exact h))
  · exact idlesAt_of_run (f := opInletStale now) rfl (opInletStale_idle now s.begin (fun y hy => absurd (hc.symm.trans hy) (by simp)))
  · exact idles_of_run (f := opFastThrottle p) rfl (opFastThrottle_idle p s.begin h)
  · exact idles_of_run (f := opThrottleStep excess us) rfl (opThrottleStep_idle excess us s.begin h)
  · exact completes_of_run (f := opRegionSkip c.toNat ma) rfl ⟨tget_tput_same .., fun k hk => tget_tput_ne _ _ _ _ (Ne.symm hk), rfl⟩
  · exact idlesAt_of_run (f := opCoolantLoss now) rfl (opCoolantLoss_idle now s.begin h)
  · obtain ⟨f, w, hf, hop, hw⟩ := exec_powerFails hc hh hl
    obtain ⟨h1, h2, h3, h4, h5, h6, h7, h8⟩ := powerFails_armed ⟨hw, hi, hk, hr⟩ now ha
    obtain ⟨u, hu⟩ : ∃ u, w.powerFails now = u := ⟨_, rfl⟩
    rw [hu] at hop h1 h2 h3 h4 h5 h6 h7 h8
    exact completes_of_eq hf hop ⟨h1, h2, h3, h4, h5, h6, h7, h8⟩
  · obtain ⟨f, w, hf, hop, hw⟩ := exec_powerFails hc hh hl
    obtain ⟨h1, h2, h3, h4, h5, h6⟩ := powerFails_stops ⟨hw, hi, hk, hr⟩ now ha hs
    obtain ⟨u, hu⟩ : ∃ u, w.powerFails now = u := ⟨_, rfl⟩
    rw [hu] at hop h1 h2 h3 h4 h5 h6
    exact completes_of_eq hf hop ⟨h1, h2, h3, h4, h5, h6⟩
  · exact idlesAt_of_run (f := opPwrfail n now) rfl (opPwrfail_idle n now s.begin h)
  · exact idlesAt_of_run (f := opRailFault mv now) rfl (opRailFault_idle mv now s.begin h)
  · exact completes_of_eq (f := opPwrfailRelease okNs) rfl (opPwrfailRelease_stays okNs s.begin h) rfl

end Sys2Proof.Machine
end


section
/-! SUPPORT. Keep (R496 to R501): a tick that is stopped for it runs again after the resume, an entry that is complete holds the record and the
lofts refresh themselves, one that is not ends in a stop, and the return from Keep is a cold reset that keeps lofts and record. -/

namespace Sys2Proof.Machine

/-! ## Compute stops for Keep (R496) -/

/-- Chute stops with no result, and the tick runs no more. -/
theorem keepComputeStop_frame (s : State) : ∃ regs chutes, s.keepComputeStop = { s with
    tick := { s.tick with running := false, windowOpen := false }, regs := regs, chutes := chutes } := by
  have hstop : ∀ (l : List Nat) (u : State), ∃ regs chutes, l.foldl (fun s ch =>
      (s.chuteStop ch (s.getF F.chuStat_status ch)).setChute ch { s.chute ch with owedResults := [] }) u =
      { u with regs := regs, chutes := chutes } := by
    intro l
    induction l with
    | nil => exact fun u => ⟨u.regs, u.chutes, rfl⟩
    | cons ch l ih =>
      intro u
      obtain ⟨regs, chutes, h⟩ := ih ((u.chuteStop ch (u.getF F.chuStat_status ch)).setChute ch { u.chute ch with owedResults := [] })
      exact ⟨regs, chutes, h.trans rfl⟩
  exact hstop _ { s with tick := { s.tick with running := false, windowOpen := false } }

/-- But for whether its tick is invalid, a program stands as before. -/
def keepsProgs (s u : State) : Prop := ∀ j, ∃ b, u.prog j = { s.prog j with invalid := b }

theorem keepsProgs_refl (s : State) : keepsProgs s s := fun j => ⟨(s.prog j).invalid, rfl⟩

theorem keepsProgs_trans (s t u : State) (h : keepsProgs s t) (h' : keepsProgs t u) : keepsProgs s u := fun j => by
  obtain ⟨b, hb⟩ := h j
  obtain ⟨b', hb'⟩ := h' j
  exact ⟨b', by rw [hb', hb]⟩

theorem keepsProgs_invalidate (s : State) (j : Nat) : keepsProgs s (s.invalidate j) := by
  unfold State.invalidate
  split
  · exact keepsProgs_refl s
  · intro k
    by_cases hk : j = k
    · subst hk
      exact ⟨true, prog_setProg_same ..⟩
    · exact ⟨(s.prog k).invalid, prog_setProg_ne _ _ hk⟩

theorem dropPass_frame (s : State) (c : Nat) : ∃ regs, s.dropPass c = { s with regs := regs } := by
  unfold State.dropPass
  split
  · exact ⟨_, rfl⟩
  · exact ⟨s.regs, rfl⟩

theorem invalidate_cells (s : State) (j : Nat) : (s.invalidate j).cells = s.cells := by
  unfold State.invalidate
  split <;> rfl

theorem invalidateCell_cells (s : State) (c : Nat) : (s.invalidateCell c).cells = s.cells := by
  unfold State.invalidateCell
  split
  · rfl
  · exact invalidate_cells s _

theorem keepsProgs_invalidateCell (s : State) (c : Nat) : keepsProgs s (s.invalidateCell c) := by
  unfold State.invalidateCell
  split
  · exact keepsProgs_refl s
  · exact keepsProgs_invalidate s _

theorem keepsProgs_stopCell (s : State) (c at_ : Nat) : keepsProgs s (s.stopCell c at_) := by
  unfold State.stopCell
  obtain ⟨regs, h⟩ := dropPass_frame s c
  rw [h]
  exact keepsProgs_trans _ _ _ (fun j => ⟨(s.prog j).invalid, rfl⟩) (keepsProgs_invalidateCell _ c)

/-- A cell that stops is stopped, and another stays as it is. -/
theorem stopCell_stopped (s : State) (c at_ d : Nat) : ((s.stopCell c at_).cell d).stopped = if c = d then true else (s.cell d).stopped := by
  unfold State.stopCell
  obtain ⟨regs, h⟩ := dropPass_frame s c
  rw [h, State.cell, invalidateCell_cells]
  split
  · next hd =>
    subst hd
    exact congrArg Cell.stopped (cell_modCell_same _ _ _)
  · next hd => exact congrArg Cell.stopped (cell_modCell_ne _ _ hd)

theorem foldl_stopCell_stopped (l : List Nat) (at_ : Nat) (s : State) :
    ∀ d, d ∈ l ∨ (s.cell d).stopped = true → ((l.foldl (fun s c => s.stopCell c at_) s).cell d).stopped = true := by
  induction l generalizing s with
  | nil => exact fun d h => h.resolve_left List.not_mem_nil
  | cons c l ih =>
    intro d h
    refine ih (s.stopCell c at_) d ?_
    rw [stopCell_stopped]
    by_cases hd : c = d
    · exact Or.inr (if_pos hd)
    · rw [if_neg hd]
      exact h.imp_left (fun hm => (List.mem_cons.1 hm).resolve_left (Ne.symm hd))

theorem keepsProgs_stopStages (s : State) (at_ : Nat) : keepsProgs s (s.stopStages at_) :=
  foldl_rel keepsProgs_refl keepsProgs_trans (fun s c => keepsProgs_stopCell s c at_) _ s

theorem activeJobs_of_keepsProgs {s u : State} (h : keepsProgs s u) : u.activeJobs = s.activeJobs := by
  refine List.filter_congr (fun j _ => ?_)
  obtain ⟨b, hb⟩ := h j
  rw [hb]

/-- A program that the end of compute for Keep finds active runs its tick again after the resume, and is not invalid. -/
def Program.forKeep (p : Program) : Program := { p with invalid := false, replayNext := p.replaying }

theorem foldl_forKeep_prog (l : List Nat) (s : State) (j : Nat) :
    ((l.foldl (fun s j => s.modProg j Program.forKeep) s).prog j) = if j ∈ l then (s.prog j).forKeep else s.prog j := by
  induction l generalizing s with
  | nil => simp
  | cons i l ih =>
    rw [List.foldl_cons, ih]
    by_cases hi : i = j
    · subst hi
      have hsame : (s.modProg i Program.forKeep).prog i = (s.prog i).forKeep := prog_setProg_same ..
      rw [hsame, if_pos (List.mem_cons_self ..)]
      split <;> rfl
    · have hne : (s.modProg i Program.forKeep).prog j = s.prog j := prog_setProg_ne _ _ hi
      rw [hne]
      simp only [List.mem_cons, Ne.symm hi, false_or]

theorem foldl_forKeep_cells (l : List Nat) (s : State) : (l.foldl (fun s j => s.modProg j Program.forKeep) s).cells = s.cells := by
  refine foldl_keeps State.cells ?_ l s
  exact fun _ _ => rfl

/-- A tick that ends too late stops. -/
theorem opKeepStop_late (now t0 : Nat) (s : State) (he : s.keep.entryAt = some t0) (hs : s.getF F.pwrStat_state = 3)
    (hr : s.tick.running = true) (hw : s.tick.windowOpen = false) (hn : t0 + 1400000 ≤ now)
    (hd : t0 + 1400000 < s.tick.edgeAt + s.deadline) : opKeepStop now s =
      (((s.at_ now).stopStages now).activeJobs.foldl (fun s j => s.modProg j Program.forKeep) ((s.at_ now).stopStages now)).keepComputeStop := by
  unfold opKeepStop
  extract_lets s0 s1 s2
  split
  · next t ht =>
    obtain rfl : t = t0 := Option.some.inj (ht.symm.trans he)
    have hguard : ¬ (s0.getF F.pwrStat_state != 3 || !s0.tick.running || decide (now < t + 1400000)) = true := by
      rw [show s0.getF F.pwrStat_state = 3 from hs, show s0.tick.running = true from hr, decide_eq_false (by omega)]
      decide
    rw [if_neg hguard, if_neg (by rw [show s0.tick.windowOpen = false from hw]; decide)]
    exact if_neg (by
      show ¬ s.tick.edgeAt + s.deadline ≤ t + 1400000
      omega)
  · next hn => exact absurd (hn.symm.trans he) (by simp)

theorem opKeepStop_open (now t0 : Nat) (s : State) (he : s.keep.entryAt = some t0) (hs : s.getF F.pwrStat_state = 3)
    (hr : s.tick.running = true) (hw : s.tick.windowOpen = true) (hn : t0 + 1400000 ≤ now) :
    opKeepStop now s = (s.at_ now).keepComputeStop := by
  unfold opKeepStop
  extract_lets s0 s1 s2
  split
  · next t ht =>
    obtain rfl : t = t0 := Option.some.inj (ht.symm.trans he)
    have hguard : ¬ (s0.getF F.pwrStat_state != 3 || !s0.tick.running || decide (now < t + 1400000)) = true := by
      rw [show s0.getF F.pwrStat_state = 3 from hs, show s0.tick.running = true from hr, decide_eq_false (by omega)]
      decide
    rw [if_neg hguard]
    exact if_pos hw
  · next hn => exact absurd (hn.symm.trans he) (by simp)

theorem opKeepStop_idle (now : Nat) (s : State) (h : ∀ t0, s.keep.entryAt = some t0 → s.tick.running = false ∨ now < t0 + 1400000 ∨
    s.tick.windowOpen = false ∧ s.tick.edgeAt + s.deadline ≤ t0 + 1400000) : opKeepStop now s = s.at_ now := by
  unfold opKeepStop
  extract_lets s0 s1 s2
  split
  · next t ht =>
    rcases h t ht with h | h | ⟨hw, hd⟩
    · exact if_pos (by rw [show s0.tick.running = false from h]; simp)
    · exact if_pos (by rw [decide_eq_true h]; simp)
    · split
      · rfl
      · rw [if_neg (by rw [show s0.tick.windowOpen = false from hw]; decide)]
        exact if_pos hd
  · rfl

theorem keepStageStop_late (now t0 : Nat) (s : State) (he : s.keep.entryAt = some t0) (hs : s.getF F.pwrStat_state = 3)
    (hr : s.tick.running = true) (hw : s.tick.windowOpen = false) (hn : t0 + 1400000 ≤ now)
    (hd : t0 + 1400000 < s.tick.edgeAt + s.deadline) : completes (.keepStageStop now) s (fun t =>
      t.tick.running = false ∧ (∀ c ∈ s.unfinished, (t.cell c).stopped = true) ∧
      (∀ j ∈ s.activeJobs, (t.prog j).invalid = false ∧ (t.prog j).replayNext = (s.prog j).replaying)) := by
  have hop := opKeepStop_late now t0 s.begin he hs hr hw hn hd
  have hprogs := keepsProgs_stopStages (s.begin.at_ now) now
  have hstopped := fun c hc => foldl_stopCell_stopped (s.begin.at_ now).unfinished now (s.begin.at_ now) c (Or.inl hc)
  rw [activeJobs_of_keepsProgs hprogs] at hop
  obtain ⟨u, hu⟩ : ∃ u, (s.begin.at_ now).stopStages now = u := ⟨_, rfl⟩
  rw [show List.foldl (fun s c => State.stopCell s c now) (s.begin.at_ now) (s.begin.at_ now).unfinished = u from hu] at hstopped
  rw [hu] at hop hprogs
  obtain ⟨regs, chutes, hframe⟩ := keepComputeStop_frame ((s.begin.at_ now).activeJobs.foldl (fun s j => s.modProg j Program.forKeep) u)
  refine completes_of_eq (f := opKeepStop now) rfl (hop.trans hframe) ⟨rfl, fun c hc => ?_, fun j hj => ?_⟩
  · exact (congrArg (fun t => (tget ({} : Cell) t c).stopped) (foldl_forKeep_cells (s.begin.at_ now).activeJobs u)).trans (hstopped c hc)
  · have hp : ((s.begin.at_ now).activeJobs.foldl (fun s j => s.modProg j Program.forKeep) u).prog j = (u.prog j).forKeep :=
      (foldl_forKeep_prog _ u j).trans (if_pos hj)
    obtain ⟨b, hb⟩ := hprogs j
    have hq : ((s.begin.at_ now).activeJobs.foldl (fun s j => s.modProg j Program.forKeep) u).prog j =
      { s.prog j with invalid := b }.forKeep := hp.trans (congrArg Program.forKeep hb)
    exact ⟨congrArg Program.invalid hq, congrArg Program.replayNext hq⟩

theorem keepStageStop_open (now t0 : Nat) (s : State) (he : s.keep.entryAt = some t0) (hs : s.getF F.pwrStat_state = 3)
    (hr : s.tick.running = true) (hw : s.tick.windowOpen = true) (hn : t0 + 1400000 ≤ now) : completes (.keepStageStop now) s (fun t =>
      t.tick = { s.tick with running := false, windowOpen := false } ∧ t.ctl = s.ctl ∧ t.cells = s.cells ∧ sameMemories s t) := by
  obtain ⟨regs, chutes, hframe⟩ := keepComputeStop_frame (s.begin.at_ now)
  exact completes_of_eq (f := opKeepStop now) rfl ((opKeepStop_open now t0 s.begin he hs hr hw hn).trans hframe)
    ⟨rfl, rfl, rfl, rfl, rfl, rfl, rfl, rfl⟩

/-! ## Lofts refresh themselves (R498) -/

/-- Each channel's own refresh is as before. -/
def keepsSelf (s u : State) : Prop := ∀ d, (u.chan d).selfRefresh = (s.chan d).selfRefresh

theorem keepsSelf_refl (s : State) : keepsSelf s s := fun _ => rfl

theorem keepsSelf_trans (s t u : State) (h : keepsSelf s t) (h' : keepsSelf t u) : keepsSelf s u := fun d => (h' d).trans (h d)

theorem keepsSelf_of_chans {s u : State} (h : u.chans = s.chans) : keepsSelf s u := fun d => by rw [State.chan, h, State.chan]

theorem keepsSelf_modChan (s : State) (c : Nat) (f : Chan → Chan) (hf : ∀ x, (f x).selfRefresh = x.selfRefresh) :
    keepsSelf s (s.modChan c f) := fun d => by
  by_cases hd : c = d
  · subst hd
    exact (congrArg Chan.selfRefresh (chan_setChan_same ..)).trans (hf _)
  · exact congrArg Chan.selfRefresh (chan_setChan_ne _ _ hd)

theorem keepsSelf_showFlails (s : State) (c : Nat) : keepsSelf s (s.showFlails c) := keepsSelf_of_chans rfl

theorem keepsSelf_portEnd (s : State) (c status : Nat) : keepsSelf s (s.portEnd c status) := keepsSelf_of_chans rfl

theorem keepsSelf_ite {s t u : State} {c : Prop} [Decidable c] (h : keepsSelf s t) (h' : keepsSelf s u) : keepsSelf s (if c then t else u) := by
  split
  · exact h
  · exact h'

theorem keepsSelf_dropFlail (s : State) (c : Nat) (f : FlailCmd) : keepsSelf s (s.dropFlail c f) :=
  keepsSelf_ite (keepsSelf_portEnd s c 6) (keepsSelf_ite (keepsSelf_of_chans rfl) (keepsSelf_refl s))

theorem keepsSelf_dropQueued (s : State) (c : Nat) : keepsSelf s (s.dropQueued c) := by
  unfold State.dropQueued
  exact keepsSelf_trans _ _ _ (foldl_rel keepsSelf_refl keepsSelf_trans (fun s f => keepsSelf_dropFlail s c f) _ s)
    (keepsSelf_trans _ _ _ (keepsSelf_modChan _ c (fun x => { x with flails := x.flails.filter (fun f => f.running) }) (fun _ => rfl))
      (keepsSelf_showFlails _ c))

theorem keepsSelf_writeDev (s : State) (a : Nat) (bs : List Byte) : keepsSelf s (s.writeDev a bs) := by
  unfold State.writeDev
  extract_lets -merge +onlyGivenNames parts whole part mem s1 s2
  have h2 : keepsSelf s s2 := keepsSelf_of_chans rfl
  refine keepsSelf_trans _ _ _ h2 (foldl_rel keepsSelf_refl keepsSelf_trans (fun s w => ?_) _ s2)
  exact keepsSelf_modChan s _ (fun c => { c with lostWords := c.lostWords.filter (fun x => x != w) }) (fun _ => rfl)

theorem keepsSelf_abandonOp (s : State) (c : Nat) (f : FlailCmd) : keepsSelf s (s.abandonOp c f) := by
  unfold State.abandonOp
  extract_lets -merge +onlyGivenNames s1 s2
  have h1 : keepsSelf s s1 := keepsSelf_of_chans rfl
  have h2 : keepsSelf s s2 := keepsSelf_trans _ _ _ h1 (keepsSelf_ite (keepsSelf_portEnd s1 c 6) (keepsSelf_refl s1))
  exact keepsSelf_ite (keepsSelf_trans _ _ _ h2 (keepsSelf_trans _ _ _ (keepsSelf_writeDev s2 _ _) (keepsSelf_of_chans rfl)))
    (keepsSelf_ite (keepsSelf_trans _ _ _ h2 (keepsSelf_of_chans rfl)) h2)

theorem keepsSelf_abandonFlails (s : State) (c : Nat) (err : Bool) : keepsSelf s (s.abandonFlails c err) := by
  unfold State.abandonFlails
  extract_lets -merge +onlyGivenNames fs s1 s2 s3 s4
  have h1 : keepsSelf s s1 := foldl_rel keepsSelf_refl keepsSelf_trans (fun s f => keepsSelf_abandonOp s c f) _ s
  have h2 : keepsSelf s s2 := keepsSelf_trans _ _ _ h1 (keepsSelf_ite (keepsSelf_dropQueued s1 c) (keepsSelf_refl s1))
  have h3 : keepsSelf s s3 := keepsSelf_trans _ _ _ h2 (keepsSelf_ite (keepsSelf_portEnd s2 c 6) (keepsSelf_refl s2))
  have h4 : keepsSelf s s4 := keepsSelf_trans _ _ _ h3 (keepsSelf_modChan s3 c (fun x => { x with
    flails := [], scored := [], burst := [], burstTags := [], qbuf := none, maxima := [], frags := [] }) (fun _ => rfl))
  exact keepsSelf_trans _ _ _ h4 (keepsSelf_of_chans rfl)

/-- Every loft refreshes itself. -/
def allSelf (s : State) : Prop := ∀ c ∈ allCells, (s.chan c).selfRefresh = true

theorem allSelf_of_keepsSelf {s u : State} (h : allSelf s) (hk : keepsSelf s u) : allSelf u := fun c hc => (hk c).trans (h c hc)

theorem selfRefresh_chan (s : State) (c d : Nat) : ((s.selfRefresh c true).chan d).selfRefresh = if c = d then true else (s.chan d).selfRefresh := by
  split
  · next hd =>
    subst hd
    exact congrArg Chan.selfRefresh (chan_setChan_same s c _)
  · next hd => exact congrArg Chan.selfRefresh (chan_setChan_ne s _ hd)

theorem foldl_selfRefresh {g : State → Nat → State} (hg : ∀ s c, keepsSelf s (g s c)) (l : List Nat) (s : State) :
    ∀ d, d ∈ l ∨ (s.chan d).selfRefresh = true → ((l.foldl (fun s c => (g s c).selfRefresh c true) s).chan d).selfRefresh = true := by
  induction l generalizing s with
  | nil => exact fun d h => h.resolve_left List.not_mem_nil
  | cons c l ih =>
    intro d h
    refine ih ((g s c).selfRefresh c true) d ?_
    rw [selfRefresh_chan]
    by_cases hd : c = d
    · exact Or.inr (if_pos hd)
    · rw [if_neg hd, hg s c d]
      exact h.imp_left (fun hm => (List.mem_cons.1 hm).resolve_left (Ne.symm hd))

theorem allSelf_foldl {g : State → Nat → State} (hg : ∀ s c, keepsSelf s (g s c)) (s : State) :
    allSelf (allCells.foldl (fun s c => (g s c).selfRefresh c true) s) := fun c hc => foldl_selfRefresh hg allCells s c (Or.inl hc)

theorem raise_chans (s : State) (code cls idx : Nat) (arg : Word) (payload : List Byte) : (s.raise code cls idx arg payload).chans = s.chans := by
  obtain ⟨⟨_, _, _, _, _, _, _, h⟩, -⟩ := eventPath_raise (ks := [regKey R.hstEvqStat 0, regKey R.stdBootRet 0]) (s := s)
    code cls idx arg payload (by simp) (by simp)
  rw [h]

theorem sendRecords_chans (s : State) : s.sendRecords.chans = s.chans := by
  unfold State.sendRecords
  refine foldl_keeps State.chans ?_ _ { s with ueTick := [] }
  exact fun s r => raise_chans ..

/-- The end of a stop as it shows: its state, no tick, and the records of the errors of the tick that was stopped. -/
def State.stopShown (s : State) (cause : Nat) : State :=
  let s := s.putF F.pwrStat_state 0 2
  let s := { s with tick := { s.tick with running := false, windowOpen := false } }.sendRecords
  s.raise 0x65 0 0 (BitVec.ofNat 64 cause)

theorem stopShown_spec (s : State) (cause : Nat) : (s.stopShown cause).getF F.pwrStat_state = 2 ∧
    (s.stopShown cause).getF F.pwrStat_cause = s.getF F.pwrStat_cause ∧ (s.stopShown cause).chans = s.chans ∧
    (s.stopShown cause).keep = s.keep := by
  have hw : Works { s.putF F.pwrStat_state 0 2 with tick := { s.tick with running := false, windowOpen := false } } (s.stopShown cause) :=
    .raise (.sendRecords .same)
  exact ⟨(getF_of_works hw (by decide) 0).trans (getF_putF_same s F.pwrStat_state 0 2 (by decide)),
    (getF_of_works hw (by decide) 0).trans (getF_putF_apart s F.pwrStat_state F.pwrStat_cause 0 2 rfl (by decide)),
    (raise_chans ..).trans (sendRecords_chans _), hw.keep⟩

/-- A stop that ends leaves every loft refreshing itself, with the cause of the stop shown (R508). -/
theorem finishStop_spec (s : State) : s.finishStop.getF F.pwrStat_state = 2 ∧
    s.finishStop.getF F.pwrStat_cause = s.getF F.pwrStat_cause ∧ allSelf s.finishStop ∧ s.finishStop.keep = s.keep := by
  unfold State.finishStop
  extract_lets -merge +onlyGivenNames cause s1 s2 s3 s4 x s5
  have hw : Works s s3 := .foldl (fun _ _ h => .selfRefresh (.dropQueued h))
    (.resumeLoads (.foldl (fun _ _ h => .serve h) (.upd (.foldl (fun _ _ h => .failStream h) .same))))
  have hself : allSelf s3 := allSelf_foldl (fun s c => keepsSelf_dropQueued s c) s2
  clear_value s3
  obtain ⟨h1, h2, h3, h4⟩ := stopShown_spec s3 cause
  exact ⟨h1, h2.trans (getF_of_works hw (by decide) 0), allSelf_of_keepsSelf hself (keepsSelf_of_chans h3), h4.trans hw.keep⟩

/-- A stop at once ends in the same step. -/
theorem beginStop_atOnce (s : State) (cause : Nat) (hc : cause < 8) (hs : s.getF F.pwrStat_state ≠ 1 ∧ s.getF F.pwrStat_state ≠ 2) :
    (s.beginStop cause true).getF F.pwrStat_state = 2 ∧ (s.beginStop cause true).getF F.pwrStat_cause = cause ∧
    allSelf (s.beginStop cause true) ∧ (s.beginStop cause true).keep = s.keep := by
  unfold State.beginStop
  rw [if_neg (by omega)]
  extract_lets -merge +onlyGivenNames s1 x s2 s3
  rw [if_pos rfl]
  have hcause : s1.getF F.pwrStat_cause = cause :=
    (getF_putF_same _ F.pwrStat_cause 0 cause (by decide)).trans (Nat.mod_eq_of_lt hc)
  obtain ⟨ring, out, h3⟩ : ringPath s2 s3 := ringPath_releasePlanes s2 _
  have hcause3 : s3.getF F.pwrStat_cause = cause := by rw [h3]; exact hcause
  have hkeep3 : s3.keep = s.keep := by rw [h3]; rfl
  have hw : Works s3 (s3.stopStages s3.now) := .stopStages .same
  obtain ⟨h1, h2, h3, h4⟩ := finishStop_spec (s3.stopStages s3.now)
  exact ⟨h1, h2.trans ((getF_of_works hw (by decide) 0).trans hcause3), h3, h4.trans (hw.keep.trans hkeep3)⟩

/-! ## An entry that is not complete in time (R499) -/

/-- The entry is abandoned: the lofts refresh themselves, and what is known shows, before the stop. -/
theorem opKeepGivesUp_late (now t0 : Nat) (s : State) (he : s.keep.entryAt = some t0) (hs : s.getF F.pwrStat_state = 3)
    (hi : s.keep.inKeep = false) (hn : t0 + 1800000 ≤ now) : ∃ u : State, u.getF F.pwrStat_state = 0 ∧ u.keep.entryAt = none ∧
      u.getF F.pwrKeep_last = 3 ∧ opKeepGivesUp now s = u.beginStop 6 true := by
  unfold opKeepGivesUp
  extract_lets -merge +onlyGivenNames s0 s1 x s2 s3
  have hw1 : Works s0 s1 := .foldl (fun _ _ h => .selfRefresh h) .same
  clear_value s1
  split
  · next t ht =>
    obtain rfl : t = t0 := Option.some.inj (ht.symm.trans he)
    have hguard : ¬ (s0.getF F.pwrStat_state != 3 || s0.keep.inKeep || decide (now < t + 1800000)) = true := by
      rw [show s0.getF F.pwrStat_state = 3 from hs, show s0.keep.inKeep = false from hi, decide_eq_false (by omega)]
      decide
    refine ⟨s3.putF F.pwrStat_state 0 0, getF_putF_same _ F.pwrStat_state 0 0 (by decide), ?_, ?_, if_neg hguard⟩
    · have hw3 : Works s2 s3 := .nextFree (.raise .same)
      exact (congrArg KeepSt.entryAt hw3.keep).trans rfl
    · have hw3 : Works s2 s3 := .nextFree (.raise .same)
      exact (getF_putF_off s3 F.pwrStat_state F.pwrKeep_last 0 0 0 (by decide)).trans ((getF_of_works hw3 (by decide) 0).trans
        (getF_putF_same _ F.pwrKeep_last 0 3 (by decide)))
  · next hn => exact absurd (hn.symm.trans he) (by simp)

theorem keepEntryAbandoned_done (now t0 : Nat) (s : State) (he : s.keep.entryAt = some t0) (hs : s.getF F.pwrStat_state = 3)
    (hi : s.keep.inKeep = false) (hn : t0 + 1800000 ≤ now) : completes (.keepEntryAbandoned now) s (fun t =>
      t.keep.entryAt = none ∧ t.getF F.pwrKeep_last = 3 ∧ t.getF F.pwrStat_state = 2 ∧ t.getF F.pwrStat_cause = 6 ∧
      (∀ c ∈ allCells, (t.chan c).selfRefresh = true)) := by
  obtain ⟨u, hstate, hentry, hlast, hop⟩ := opKeepGivesUp_late now t0 s.begin he hs hi hn
  obtain ⟨h1, h2, h3, h4⟩ := beginStop_atOnce u 6 (by decide) (by rw [hstate]; decide)
  have hlast' : (u.beginStop 6 true).getF F.pwrKeep_last = 3 := by
    rw [State.getF, show F.pwrKeep_last.reg = R.pwrKeep from rfl, (SameStandby.beginStop u 6 true).keepReg]
    exact hlast
  have hentry' : (u.beginStop 6 true).keep.entryAt = none := (congrArg KeepSt.entryAt h4).trans hentry
  obtain ⟨w, hw⟩ : ∃ w, u.beginStop 6 true = w := ⟨_, rfl⟩
  rw [hw] at hop h1 h2 h3 hlast' hentry'
  exact completes_of_eq (f := opKeepGivesUp now) rfl hop ⟨hentry', hlast', h1, h2, h3⟩

/-! ## A complete entry (R497, R498) -/

/-- With no plane held, giving planes up leaves all but the ring, the part's role in it and the event path. -/
theorem closePlanes_nil (s : State) : (∃ ring regs hostMem msix i3c stdBuf logPend out, s.closePlanes [] = { s with
      ring := ring, regs := regs, hostMem := hostMem, msix := msix, i3c := i3c, stdBuf := stdBuf, logPend := logPend, out := out }) ∧
    regsIn [R.lnkRing, R.hstEvqStat, R.stdBootRet] s (s.closePlanes []) := by
  have halone : ∀ u : State, eventPath [regKey R.lnkRing 0, regKey R.hstEvqStat 0, regKey R.stdBootRet 0] u u.aloneKeeper := fun u => by
    have hput : eventPath [regKey R.lnkRing 0, regKey R.hstEvqStat 0, regKey R.stdBootRet 0] u
        ((u.putF F.lnkRing_is_keeper 0 1).putF F.lnkRing_keeper 0 u.own) :=
      ⟨⟨_, _, _, _, _, _, _, rfl⟩, sameRegs_putF _ _ _ (sameRegs_putF _ _ _ (sameRegs_refl _ u) List.mem_cons_self) List.mem_cons_self⟩
    exact eventPath_ite (eventPath_refl _ u) (eventPath_ite hput (eventPath_trans _ _ _ hput (eventPath_raise _ _ _ _ _ (by simp) (by simp))))
  obtain ⟨⟨r, m, x, i, b, l, o, h⟩, hr⟩ := halone { s with ring := { s.ring with
    releasedPlanes := (s.ring.releasedPlanes ++ []).eraseDups, releasing := s.ring.releasing.filter (fun k => !([] : List Nat).contains k)
    pauseWaits := s.ring.pauseWaits.filter (fun w => !(w.part == s.own && ([] : List Nat).contains w.plane)) } }
  refine ⟨⟨_, r, m, x, i, b, l, o, h⟩, regsIn_of_sameRegs (ks := [regKey R.lnkRing 0, regKey R.hstEvqStat 0, regKey R.stdBootRet 0]) hr ?_⟩
  intro k hk
  simp only [List.mem_cons, List.not_mem_nil, or_false] at hk
  rcases hk with rfl | rfl | rfl
  · exact ⟨R.lnkRing, by decide, regKey_div _ _⟩
  · exact ⟨R.hstEvqStat, by decide, regKey_div _ _⟩
  · exact ⟨R.stdBootRet, by decide, regKey_div _ _⟩

/-- Keep is entered with a record. -/
def State.keepShown (s : State) (k : KeepRec) (now t0 : Nat) : State :=
  let s := { s with keep := { s.keep with inKeep := true, enteredAt := now, record := some k } }
  ((s.putF F.pwrKeep_keep_ok 0 1).putF F.pwrKeep_record 0 1).raise 0x69 0 0 (BitVec.ofNat 64 ((now - t0) / 1000))

theorem keepShown_spec (s : State) (k : KeepRec) (now t0 : Nat) : (s.keepShown k now t0).keep.inKeep = true ∧
    (s.keepShown k now t0).keep.enteredAt = now ∧ (s.keepShown k now t0).keep.record = some k ∧
    (s.keepShown k now t0).onF F.pwrKeep_keep_ok = true ∧ (s.keepShown k now t0).onF F.pwrKeep_record = true ∧
    (s.keepShown k now t0).chans = s.chans := by
  have hw : Works (({ s with keep := { s.keep with inKeep := true, enteredAt := now, record := some k } }.putF F.pwrKeep_keep_ok 0 1).putF
      F.pwrKeep_record 0 1) (s.keepShown k now t0) := .raise .same
  exact ⟨congrArg KeepSt.inKeep hw.keep, congrArg KeepSt.enteredAt hw.keep, congrArg KeepSt.record hw.keep,
    onF_of_bit (b := true) ((getF_of_works hw (by decide) 0).trans
      ((getF_putF_apart _ F.pwrKeep_record F.pwrKeep_keep_ok 0 1 rfl (by decide)).trans (getF_putF_same _ F.pwrKeep_keep_ok 0 1 (by decide)))),
    onF_of_bit (b := true) ((getF_of_works hw (by decide) 0).trans (getF_putF_same _ F.pwrKeep_record 0 1 (by decide))),
    raise_chans ..⟩

theorem keepRecord_ctl (s : State) : s.keepRecord.ctl = s.ctl := rfl

/-- Keep is entered, if everything it waits for is done. -/
def State.enterKeep (s : State) (now t0 : Nat) : State :=
  if s.getF F.pwrStat_state != 3 || s.tick.running || !s.heldPlanes.isEmpty || decide (t0 + 1800000 < now) || s.keep.inKeep then s
  else
    let k := s.keepRecord
    let s := allCells.foldl (fun s c => (s.abandonFlails c false).selfRefresh c true) s
    let s := { s with keep := { s.keep with inKeep := true, enteredAt := now, record := some k } }
    ((s.putF F.pwrKeep_keep_ok 0 1).putF F.pwrKeep_record 0 1).raise 0x69 0 0 (BitVec.ofNat 64 ((now - t0) / 1000))

theorem opKeepEntered_of_entry (now t0 : Nat) (s : State) (he : s.keep.entryAt = some t0) : opKeepEntered now s =
    (if t0 + 1600000 ≤ now then (s.at_ now).closePlanes (s.at_ now).heldPlanes else s.at_ now).enterKeep now t0 := by
  unfold opKeepEntered State.enterKeep
  extract_lets -merge +onlyGivenNames s0
  split
  · next t ht =>
    obtain rfl : t = t0 := Option.some.inj (ht.symm.trans he)
    with_reducible rfl
  · next hn => exact absurd (hn.symm.trans he) (by simp)

/-- The lofts refresh themselves, and the record holds the control state. -/
theorem enterKeep_shown (s : State) (now t0 : Nat)
    (h : ¬ (s.getF F.pwrStat_state != 3 || s.tick.running || !s.heldPlanes.isEmpty || decide (t0 + 1800000 < now) || s.keep.inKeep) = true) :
    ∃ u : State, allSelf u ∧ s.enterKeep now t0 = u.keepShown s.keepRecord now t0 := by
  unfold State.enterKeep
  rw [if_neg h]
  extract_lets -merge +onlyGivenNames k s1
  have hself : allSelf s1 := fun c hc =>
    foldl_selfRefresh (g := fun s c => s.abandonFlails c false) (fun s c => keepsSelf_abandonFlails s c false) allCells s c (Or.inl hc)
  exact ⟨s1, hself, rfl⟩

/-- The entry is complete: the planes that Keep would still wait for are none, and nothing runs. -/
theorem opKeepEntered_done (now t0 : Nat) (s : State) (he : s.keep.entryAt = some t0) (hs : s.getF F.pwrStat_state = 3)
    (hr : s.tick.running = false) (hp : s.heldPlanes = []) (hn : now ≤ t0 + 1800000) (hi : s.keep.inKeep = false) :
    ∃ (u : State) (k : KeepRec), allSelf u ∧ k.ctl = s.ctl ∧ opKeepEntered now s = u.keepShown k now t0 := by
  obtain ⟨⟨_, _, _, _, _, _, _, _, hclose⟩, hregs⟩ := closePlanes_nil (s.at_ now)
  have hplanes : ((s.at_ now).closePlanes []).heldPlanes = [] := by
    refine Eq.trans (List.filter_congr (fun k _ => ?_)) hp
    rw [onF_of_getF (getF_of_regsIn hregs (f := F.lnkStat_take) (by decide) (2 * k)),
      onF_of_getF (getF_of_regsIn hregs (f := F.lnkStat_take) (by decide) (2 * k + 1))]
    rfl
  have hstate : ((s.at_ now).closePlanes []).getF F.pwrStat_state = 3 := (getF_of_regsIn hregs (by decide) 0).trans hs
  obtain ⟨v, hv, h1, h2, h3, h4, h5⟩ : ∃ v : State, opKeepEntered now s = v.enterKeep now t0 ∧ v.getF F.pwrStat_state = 3 ∧
      v.tick = s.tick ∧ v.heldPlanes = [] ∧ v.keep = s.keep ∧ v.ctl = s.ctl := by
    refine ⟨_, opKeepEntered_of_entry now t0 s he, ?_⟩
    rw [show (s.at_ now).heldPlanes = [] from hp]
    split
    · exact ⟨hstate, by rw [hclose]; rfl, hplanes, by rw [hclose]; rfl, by rw [hclose]; rfl⟩
    · exact ⟨hs, rfl, hp, rfl, rfl⟩
  obtain ⟨u, hself, hu⟩ := enterKeep_shown v now t0 (by
    rw [h1, h2, h3, h4, hr, hi, decide_eq_false (by omega)]
    decide)
  exact ⟨u, v.keepRecord, hself, (keepRecord_ctl v).trans h5, hv.trans hu⟩

theorem keepEntered_done (now t0 : Nat) (s : State) (he : s.keep.entryAt = some t0) (hs : s.getF F.pwrStat_state = 3)
    (hr : s.tick.running = false) (hp : s.heldPlanes = []) (hn : now ≤ t0 + 1800000) (hi : s.keep.inKeep = false) :
    completes (.keepEntered now) s (fun t =>
      t.keep.inKeep = true ∧ t.keep.enteredAt = now ∧ t.keep.record.map KeepRec.ctl = some s.ctl ∧ t.onF F.pwrKeep_keep_ok = true ∧
      t.onF F.pwrKeep_record = true ∧ (∀ c ∈ allCells, (t.chan c).selfRefresh = true)) := by
  obtain ⟨u, k, hself, hctl, hop⟩ := opKeepEntered_done now t0 s.begin he hs hr hp hn hi
  obtain ⟨h1, h2, h3, h4, h5, h6⟩ := keepShown_spec u k now t0
  have h7 : allSelf (u.keepShown k now t0) := allSelf_of_keepsSelf hself (keepsSelf_of_chans h6)
  have h8 : (u.keepShown k now t0).keep.record.map KeepRec.ctl = some s.ctl := by rw [h3, Option.map_some, hctl]; rfl
  obtain ⟨w, hw⟩ : ∃ w, u.keepShown k now t0 = w := ⟨_, rfl⟩
  rw [hw] at hop h1 h2 h4 h5 h7 h8
  exact completes_of_eq (f := opKeepEntered now) rfl hop ⟨h1, h2, h8, h4, h5, h7⟩

theorem opKeepEntered_none (now : Nat) (s : State) (he : s.keep.entryAt = none) : opKeepEntered now s = s.at_ now := by
  unfold opKeepEntered
  extract_lets s0
  split
  · next t ht => exact absurd (he.symm.trans ht) (by simp)
  · rfl

theorem opKeepGivesUp_none (now : Nat) (s : State) (he : s.keep.entryAt = none) : opKeepGivesUp now s = s.at_ now := by
  unfold opKeepGivesUp
  extract_lets s0
  split
  · next t ht => exact absurd (he.symm.trans ht) (by simp)
  · rfl

/-! ## Keep is given up (R499) -/

/-- No record and no lofts are left, and the part stands as after a stop with cause 6. -/
structure KeepGone (u : State) : Prop where
  keep : u.keep = {}
  devMem : u.devMem = []
  keepOk : u.onF F.pwrKeep_keep_ok = false
  last : u.getF F.pwrKeep_last = 2
  state : u.getF F.pwrStat_state = 2
  cause : u.getF F.pwrStat_cause = 6

/-- The words of Keep once it is given up. -/
def State.keepLost (s : State) (held : Nat) : State :=
  ((({ s with devMem := [], loftErr := [], keep := {} }.putF F.pwrKeep_keep_ok 0 0).putF F.pwrKeep_record 0 0).putF F.pwrKeep_last 0 2).putF
    F.pwrKeep_held_s 0 (min held (2 ^ 32 - 1))

theorem giveUpKeep_spec (s : State) : s.giveUpKeep.keep = {} ∧ s.giveUpKeep.devMem = [] ∧ s.giveUpKeep.onF F.pwrKeep_keep_ok = false ∧
    s.giveUpKeep.getF F.pwrKeep_last = 2 ∧ s.giveUpKeep.start = s.start := by
  obtain ⟨v, hv, hev⟩ : ∃ v : State, eventPath [regKey R.hstEvqStat 0, regKey R.stdBootRet 0]
      (s.keepLost ((s.now - s.keep.enteredAt) / 1000000000)) v ∧ s.giveUpKeep = v.nextFree.flushLog :=
    ⟨_, eventPath_raise 0x06 0 0 _ [] (by simp) (by simp), rfl⟩
  obtain ⟨flash, fresh, logPend, logTimes, hlog⟩ := logPath_flushLog v.nextFree
  obtain ⟨⟨_, _, _, _, _, _, _, heq⟩, hr⟩ := hv
  have hreg : ∀ f : Fld, f.reg = R.pwrKeep → s.giveUpKeep.getF f = (s.keepLost ((s.now - s.keep.enteredAt) / 1000000000)).getF f := by
    intro f hf
    rw [hev, hlog]
    refine (getF_of_regs (t := { v.nextFree with flash := flash, fresh := fresh, logPend := logPend, logTimes := logTimes }) (s := v) rfl f 0).trans
      (getF_of_sameRegs hr ?_)
    rw [hf]
    decide
  have hok : (s.keepLost ((s.now - s.keep.enteredAt) / 1000000000)).getF F.pwrKeep_keep_ok = 0 :=
    (getF_putF_apart _ F.pwrKeep_held_s F.pwrKeep_keep_ok 0 _ rfl (by decide)).trans
      ((getF_putF_apart _ F.pwrKeep_last F.pwrKeep_keep_ok 0 _ rfl (by decide)).trans
        ((getF_putF_apart _ F.pwrKeep_record F.pwrKeep_keep_ok 0 _ rfl (by decide)).trans (getF_putF_same _ F.pwrKeep_keep_ok 0 0 (by decide))))
  have hlast : (s.keepLost ((s.now - s.keep.enteredAt) / 1000000000)).getF F.pwrKeep_last = 2 :=
    (getF_putF_apart _ F.pwrKeep_held_s F.pwrKeep_last 0 _ rfl (by decide)).trans (getF_putF_same _ F.pwrKeep_last 0 2 (by decide))
  refine ⟨?_, ?_, onF_of_bit (b := false) ((hreg _ rfl).trans hok), (hreg _ rfl).trans hlast, ?_⟩
  · rw [hev, hlog, heq]; rfl
  · rw [hev, hlog, heq]; rfl
  · rw [hev, hlog, heq]; rfl

theorem abandonKeep_spec (s : State) (hr : s.start.railsLow = []) : KeepGone s.abandonKeep := by
  obtain ⟨hkeep, hdev, hok, hlast, hstart⟩ := giveUpKeep_spec s
  have heq : s.abandonKeep = (s.giveUpKeep.putF F.pwrStat_state 0 2).putF F.pwrStat_cause 0 6 := if_pos (by rw [hstart, hr]; rfl)
  have hword : ∀ f : Fld, f.reg = R.pwrKeep → s.abandonKeep.getF f = s.giveUpKeep.getF f := by
    intro f hf
    rw [heq]
    refine (getF_putF_off _ F.pwrStat_cause f 0 0 6 ?_).trans (getF_putF_off _ F.pwrStat_state f 0 0 2 ?_) <;> rw [hf] <;> decide
  refine ⟨by rw [heq]; exact hkeep, by rw [heq]; exact hdev, ?_, (hword _ rfl).trans hlast, ?_, ?_⟩
  · exact (onF_of_getF (hword _ rfl)).trans hok
  · rw [heq]
    exact (getF_putF_apart _ F.pwrStat_cause F.pwrStat_state 0 6 rfl (by decide)).trans (getF_putF_same _ F.pwrStat_state 0 2 (by decide))
  · rw [heq]
    exact getF_putF_same _ F.pwrStat_cause 0 6 (by decide)

/-- What the check of Keep shows with no rail low. -/
def State.noRailLow (s : State) : State := { s with start := { s.start with railsLow := (s.start.railsLow ++ []).eraseDups } }

theorem opKeepCheck_eq (rs : List Reading) (bad : Bool) (now : Nat) (s : State) (hi : s.keep.inKeep = true) : opKeepCheck rs [] bad now s =
    if bad || rs.any (fun r => decide (deg 95 < r.value)) then ((s.at_ now).takeReadings rs).noRailLow.abandonKeep
    else ((s.at_ now).takeReadings rs).noRailLow := by
  unfold opKeepCheck State.noRailLow
  extract_lets -merge +onlyGivenNames s0 s1 x s2
  rw [if_neg (by rw [show s0.keep.inKeep = true from hi]; decide), if_neg (by decide)]
  simp only [List.contains_nil, Bool.false_or]
  rfl

theorem exec_keepCheck {rs : List Reading} {bad : Bool} {now : Nat} (hw : (Instr.keepCheck rs [] bad now).wellFormed = true) (s : State) :
    exec (.keepCheck rs [] bad now) s = run (opKeepCheck rs [] bad now) s := congrArg (fun ok => runIf ok (opKeepCheck rs [] bad now) s) hw

theorem noRailLow_frame (rs : List Reading) (s : State) : ∃ regs, (s.takeReadings rs).noRailLow = { s.noRailLow with regs := regs } := by
  refine ⟨(s.takeReadings rs).regs, ?_⟩
  rw [State.noRailLow, takeReadings_frame]
  rfl

theorem keepCheck_good (rs : List Reading) (bad : Bool) (now : Nat) (s : State)
    (hw : (Instr.keepCheck rs [] bad now).wellFormed = true) (hi : s.keep.inKeep = true) (hb : bad = false)
    (hr : ∀ r ∈ rs, r.value ≤ deg 95) : completes (.keepCheck rs [] bad now) s (fun t =>
      t.keep = s.keep ∧ t.ctl = s.ctl ∧ sameMemories s t ∧ t.reg R.pwrKeep 0 = s.reg R.pwrKeep 0) := by
  have hop : opKeepCheck rs [] bad now s.begin = ((s.begin.at_ now).takeReadings rs).noRailLow := by
    refine (opKeepCheck_eq rs bad now s.begin hi).trans (if_neg ?_)
    rw [hb, Bool.false_or, List.any_eq_true]
    rintro ⟨r, hm, h⟩
    exact absurd (of_decide_eq_true h) (Int.not_lt.mpr (hr r hm))
  have hword : ((s.begin.at_ now).takeReadings rs).reg R.pwrKeep 0 = s.reg R.pwrKeep 0 := by
    refine sameRegs_takeReadings rs (s.begin.at_ now) _ _ (fun hm => ?_)
    obtain ⟨r, -, h⟩ := List.mem_map.mp hm
    have := congrArg (· / 65536) h
    simp only [regKey_div] at this
    revert this
    decide
  obtain ⟨regs, hframe⟩ := noRailLow_frame rs (s.begin.at_ now)
  have hregs : ((s.begin.at_ now).takeReadings rs).regs = regs := congrArg State.regs hframe
  rw [State.reg, hregs] at hword
  exact completes_of_eq (f := opKeepCheck rs [] bad now) (exec_keepCheck hw s) (hop.trans hframe) ⟨rfl, rfl, ⟨rfl, rfl, rfl, rfl, rfl⟩, hword⟩

/-- What is said of a part whose Keep is given up. -/
def KeepGone.shown (t : State) : Prop := t.keep = {} ∧ t.devMem = [] ∧ t.onF F.pwrKeep_keep_ok = false ∧ t.getF F.pwrKeep_last = 2 ∧
  t.getF F.pwrStat_state = 2 ∧ t.getF F.pwrStat_cause = 6

theorem completes_of_keepGone {c : Instr} {s u : State} {f : State → State} (h : exec c s = run f s) (hf : f s.begin = u)
    (hu : KeepGone u) : completes c s KeepGone.shown := by
  obtain ⟨h1, h2, h3, h4, h5, h6⟩ := hu
  exact completes_of_eq h hf ⟨h1, h2, h3, h4, h5, h6⟩

theorem keepCheck_bad (rs : List Reading) (bad : Bool) (now : Nat) (s : State)
    (hw : (Instr.keepCheck rs [] bad now).wellFormed = true) (hi : s.keep.inKeep = true) (hb : bad = true)
    (hr : s.start.railsLow = []) : completes (.keepCheck rs [] bad now) s KeepGone.shown := by
  have hop : opKeepCheck rs [] bad now s.begin = ((s.begin.at_ now).takeReadings rs).noRailLow.abandonKeep :=
    (opKeepCheck_eq rs bad now s.begin hi).trans (if_pos (by rw [hb, Bool.true_or]))
  obtain ⟨regs, hframe⟩ := noRailLow_frame rs (s.begin.at_ now)
  refine completes_of_keepGone (f := opKeepCheck rs [] bad now) (exec_keepCheck hw s) hop (abandonKeep_spec _ ?_)
  rw [hframe]
  show (s.start.railsLow ++ []).eraseDups = []
  rw [hr]
  rfl

/-! ## Keep ends (R500) -/

theorem keepEnd_done (now : Nat) (s : State) (hi : s.keep.inKeep = true) (hk : s.onF F.pwrKeep_keep_ok = true) (hotp : s.otpJob = none)
    (himg : s.imgJob = none) : completes (.keepEnd now) s (fun t =>
      t.keep.inKeep = false ∧ t.keep.record = s.keep.record ∧ t.devMem = s.devMem ∧ t.start.loading = true ∧ t.start.railsLow = [] ∧
      t.getF F.rstCause_cold = 5 ∧ t.onF F.pwrKeep_keep_ok = true ∧
      t.getF F.pwrKeep_held_s = min ((now - s.keep.enteredAt) / 1000000000) (2 ^ 32 - 1)) := by
  obtain ⟨u, hop, hu1, hu2, hu3, hu4, hu5, hu6, hu7, hu8⟩ : ∃ u : State, opKeepEnd now s.begin = u.coldReset 5 ∧ u.otpJob = none ∧
      u.imgJob = none ∧ u.onF F.pwrKeep_keep_ok = true ∧ u.getF F.pwrKeep_held_s = min ((now - s.keep.enteredAt) / 1000000000) (2 ^ 32 - 1) ∧
      u.keep.inKeep = false ∧ u.keep.record = s.keep.record ∧ u.devMem = s.devMem ∧ u.start.railsLow = [] := by
    unfold opKeepEnd
    extract_lets -merge +onlyGivenNames s0 s1 x y s2
    refine ⟨s2, if_neg (by rw [show s0.keep.inKeep = true from hi]; decide), hotp, himg, ?_, ?_, rfl, rfl, rfl, rfl⟩
    · exact (onF_of_getF (getF_putF_apart s0 F.pwrKeep_held_s F.pwrKeep_keep_ok 0 _ rfl (by decide))).trans hk
    · exact (getF_putF_same s0 F.pwrKeep_held_s 0 _ (by decide)).trans (Nat.mod_eq_of_lt (by
        show min _ _ < 2 ^ 32
        omega))
  have hframe := coldReset_frame hu1 hu2 5
  have hcause := coldReset_cause hu1 hu2 5
  have hword := coldReset_pwrKeep hu1 hu2 5
  have hkeep : (u.coldReset 5).keep = u.keep := (congrArg State.keep hframe).trans (if_pos hu3)
  have hok : (u.coldReset 5).onF F.pwrKeep_keep_ok = true := (onF_of_reg hword).trans hu3
  have hheld : (u.coldReset 5).getF F.pwrKeep_held_s = u.getF F.pwrKeep_held_s := by
    rw [State.getF, State.getF, show F.pwrKeep_held_s.reg = R.pwrKeep from rfl, hword]
  have hdev : (u.coldReset 5).devMem = u.devMem := (congrArg State.devMem hframe).trans (if_pos hu3)
  have hcause' : (u.coldReset 5).getF F.rstCause_cold = 5 := by
    rw [hcause, State.shownCause, hu3]
    decide
  have hstart : (u.coldReset 5).start = u.standbyStart := congrArg State.start hframe
  refine completes_of_eq (f := opKeepEnd now) rfl hop ⟨?_, ?_, hdev.trans hu7, ?_, ?_, hcause', hok, hheld.trans hu4⟩
  · exact (congrArg KeepSt.inKeep hkeep).trans hu5
  · exact (congrArg KeepSt.record hkeep).trans hu6
  · exact (congrArg Start.loading hstart).trans rfl
  · exact (congrArg Start.railsLow hstart).trans hu8

/-- Settles O55: the stops, the entry, the check and the end of Keep, each by the equation of its command. -/
theorem keepIsEnteredAndLeft : Obligations.KeepIsEnteredAndLeft := by
  unfold Obligations.KeepIsEnteredAndLeft
  intro now s
  refine ⟨fun t0 he hs => ⟨fun hr hw hn hd => keepStageStop_late now t0 s he hs hr hw hn hd,
    fun hr hw hn => keepStageStop_open now t0 s he hs hr hw hn, fun h => ?_,
    fun hr hp hn hi => keepEntered_done now t0 s he hs hr hp hn hi, fun hi hn => keepEntryAbandoned_done now t0 s he hs hi hn⟩,
    fun he => ⟨?_, ?_, ?_⟩, fun rs bad hw => ⟨fun hi => ?_, fun hi hb hr => keepCheck_good rs bad now s hw hi hb hr,
      fun hi hb hr => keepCheck_bad rs bad now s hw hi hb hr⟩, fun by_ => ⟨fun h => ?_, fun hb hi hr => ?_⟩, fun hi => ?_,
    fun hi hk hotp himg => keepEnd_done now s hi hk hotp himg⟩
  · refine idlesAt_of_run (f := opKeepStop now) rfl (opKeepStop_idle now s.begin (fun t ht => ?_))
    obtain rfl : t = t0 := Option.some.inj (ht.symm.trans he)
    exact h
  · exact idlesAt_of_run (f := opKeepStop now) rfl (opKeepStop_idle now s.begin (fun t ht => absurd (ht.symm.trans he) (by simp)))
  · exact idlesAt_of_run (f := opKeepEntered now) rfl (opKeepEntered_none now s.begin he)
  · exact idlesAt_of_run (f := opKeepGivesUp now) rfl (opKeepGivesUp_none now s.begin he)
  · refine idlesAt_of_run (f := opKeepCheck rs [] bad now) (exec_keepCheck hw s) ?_
    unfold opKeepCheck
    exact if_pos (by rw [show (s.begin.at_ now).keep.inKeep = false from hi]; rfl)
  · refine idles_of_run (f := opKeepAbandon by_) rfl (if_neg ?_)
    rintro hc
    obtain ⟨h1, h2⟩ := Bool.and_eq_true_iff.mp hc
    rcases h with h | h
    · exact h (eq_of_beq h1)
    · exact absurd (h2.symm.trans h) (by decide)
  · refine completes_of_keepGone (f := opKeepAbandon by_) rfl (if_pos ?_) (abandonKeep_spec s.begin hr)
    rw [hb, show s.begin.keep.inKeep = true from hi]
    rfl
  · refine idlesAt_of_run (f := opKeepEnd now) rfl ?_
    unfold opKeepEnd
    exact if_pos (by rw [show (s.begin.at_ now).keep.inKeep = false from hi]; rfl)

end Sys2Proof.Machine
end

section
/-! SUPPORT. The links: flits, resends and lanes (R323, R345 to R348), the statement on them (O36), and what an error response leaves. -/
namespace Sys2Proof.Machine

/-! ## An error response -/

theorem invalidate_frame (s : State) (j : Nat) : ∃ ctl, s.invalidate j = { s with ctl := ctl } := by
  unfold State.invalidate
  split
  · exact ⟨s.ctl, rfl⟩
  · exact ⟨_, rfl⟩

theorem invalidateCell_frame (s : State) (c : Nat) : ∃ ctl, s.invalidateCell c = { s with ctl := ctl } := by
  unfold State.invalidateCell
  split
  · exact ⟨s.ctl, rfl⟩
  · exact invalidate_frame s _

/-- The response goes out; nothing but registers, programs and Chute channels is changed by the rest. -/
theorem failReader_frame (s : State) (r : Reader) (status : Nat) : ∃ regs ctl chutes, s.failReader r status =
    { s with regs := regs, ctl := ctl, chutes := chutes, out := s.out ++ [.memResp r status []] } := by
  unfold State.failReader
  extract_lets -merge +onlyGivenNames s1
  split
  · next c =>
    obtain ⟨regs, h1⟩ := dropPass_frame s1 c.toNat
    obtain ⟨ctl, h2⟩ := invalidateCell_frame (s1.dropPass c.toNat) c.toNat
    exact ⟨regs, ctl, s.chutes, h2.trans (by rw [h1]; rfl)⟩
  · next c =>
    obtain ⟨ctl, h⟩ := invalidateCell_frame s1 c.toNat
    exact ⟨s.regs, ctl, s.chutes, h⟩
  · next ch =>
    split
    · exact ⟨_, s.ctl, _, chuteStop_frame s1 ch.toNat (if status = 1 then 3 else if status = 2 then 4 else 8)⟩
    · exact ⟨s.regs, s.ctl, s.chutes, rfl⟩
  · split
    · exact ⟨_, s.ctl, s.chutes, rfl⟩
    · exact ⟨s.regs, s.ctl, s.chutes, rfl⟩
  · exact ⟨s.regs, s.ctl, s.chutes, rfl⟩

/-- A cell's stage is a stage of an active program. -/
theorem active_of_stageOf {s : State} {c : Nat} {e : Nat × Stage} (h : s.stageOf c = some e) : (s.prog e.1).state = .active := by
  obtain ⟨j, -, hj⟩ := List.mem_flatMap.mp (List.mem_of_head? h)
  split at hj
  · next ha =>
    obtain ⟨x, -, rfl⟩ := List.mem_map.mp hj
    exact eq_of_beq ha
  · cases hj

/-- While the window is not open the tick of a cell's program is invalidated. -/
theorem invalidateCell_invalid {s : State} {c : Nat} {e : Nat × Stage} (h : s.stageOf c = some e) (hw : s.tick.windowOpen = false) :
    ((s.invalidateCell c).prog e.1).invalid = true := by
  have heq : s.invalidateCell c = s.modProg e.1 (fun p => { p with invalid := true }) := by
    unfold State.invalidateCell
    split
    · next hn => exact absurd (hn.symm.trans h) (by simp)
    · next j g hj =>
      obtain rfl : (j, g) = e := Option.some.inj (hj.symm.trans h)
      exact if_neg (by rw [State.outputsValid, hw, active_of_stageOf h]; simp)
  rw [heq, State.modProg, prog_setProg_same]

theorem failReader_cell_invalid {s : State} {c : BitVec 10} {e : Nat × Stage} (status : Nat) (h : s.stageOf c.toNat = some e)
    (hw : s.tick.windowOpen = false) : ((s.failReader (.cell c) status).prog e.1).invalid = true := by
  obtain ⟨regs, hdrop⟩ := dropPass_frame (s.respond (.cell c) status []) c.toNat
  have h1 : s.failReader (.cell c) status = ({ s.respond (.cell c) status [] with regs := regs } : State).invalidateCell c.toNat :=
    congrArg (fun u : State => u.invalidateCell c.toNat) hdrop
  rw [h1]
  exact invalidateCell_invalid h hw

/-! ## A flit that has come (R345, R346) -/

theorem Link.dir_put_same (x : Link) (b : Bool) (d : LinkDir) : (x.put b d).dir b = d := by cases b <;> rfl

theorem Link.dir_put_not (x : Link) (b : Bool) (d : LinkDir) : (x.put b d).dir (!b) = x.dir (!b) := by cases b <;> rfl

theorem countParity_frame (s : State) (l : Nat) (lanes : List Nat) (now : Nat) :
    s.countParity l lanes now = { s with links := (s.countParity l lanes now).links } := by
  unfold State.countParity
  split <;> rfl

theorem countParity_link_ne (s : State) {l k : Nat} (lanes : List Nat) (now : Nat) (hk : k ≠ l) :
    (s.countParity l lanes now).link k = s.link k := by
  unfold State.countParity
  split
  · rfl
  · exact link_setLink_ne s _ hk.symm

theorem countParity_dir (s : State) (l : Nat) (lanes : List Nat) (now : Nat) (b : Bool) :
    ((s.countParity l lanes now).link l).dir b = (s.link l).dir b := by
  unfold State.countParity
  split
  · rfl
  · rw [State.modLink, link_setLink_same]
    split <;> rfl

/-- What every flit does: its parity errors are counted, and one that has been seen before counts as a retry. -/
def State.flitNoted (s : State) (l : Nat) (p : ParityErrs) (again : Bool) : State :=
  let s := (s.at_ p.now).countParity l p.lanes (max s.now p.now)
  if again then s.bump F.d2dErr_retries l else s

theorem flitNoted_links (s : State) (l : Nat) (p : ParityErrs) (again : Bool) :
    (s.flitNoted l p again).links = ((s.at_ p.now).countParity l p.lanes (max s.now p.now)).links := by
  cases again <;> rfl

theorem flitNoted_frame (s : State) (l : Nat) (p : ParityErrs) (again : Bool) : ∃ regs links, s.flitNoted l p again =
    { s with regs := regs, links := links, now := max s.now p.now } := by
  have h := countParity_frame (s.at_ p.now) l p.lanes (max s.now p.now)
  cases again
  · exact ⟨s.regs, _, h⟩
  · exact ⟨_, _, congrArg (fun u : State => u.bump F.d2dErr_retries l) h⟩

theorem countParity_begin (s : State) (l : Nat) (lanes : List Nat) (n m : Nat) :
    ((s.begin.at_ n).countParity l lanes m).link l = ((s.at_ n).countParity l lanes m).link l := by
  unfold State.countParity
  split
  · rfl
  · simp only [State.modLink, link_setLink_same]
    rfl

/-- The rest of what the statement says of a flit holds whatever becomes of the link and of the outputs. -/
theorem flitCame_of_noted {s u : State} {l : Nat} {p : ParityErrs} {again : Bool} {links : Tbl Link} {out : List Output}
    (hu : u = { s.begin.flitNoted l p again with pending := s.pending, links := links, out := out })
    (hl : ∀ k, k ≠ l → tget ({} : Link) links k = (s.begin.flitNoted l p again).link k) : flitCame l again p.now s u := by
  obtain ⟨regs, links', hframe⟩ := flitNoted_frame s.begin l p again
  have hregs : (s.begin.flitNoted l p again).regs = if again then (s.bump F.d2dErr_retries l).regs else s.regs := by
    have h := countParity_frame (s.begin.at_ p.now) l p.lanes (max s.now p.now)
    cases again
    · exact (congrArg State.regs h).trans rfl
    · exact (congrArg (fun v : State => (v.bump F.d2dErr_retries l).regs) h).trans rfl
  have huregs : u.regs = (s.begin.flitNoted l p again).regs := by rw [hu]
  refine ⟨?_, fun k hk => ?_, ?_, ?_⟩
  · cases again
    · exact getF_of_regs (huregs.trans hregs) ..
    · exact (getF_of_regs (t := u) (s := s.bump F.d2dErr_retries l) (huregs.trans hregs) ..).trans (getF_bump s F.d2dErr_retries l 1 (by decide))
  · rw [State.link, hu]
    refine (hl k hk).trans ?_
    rw [State.link, flitNoted_links]
    exact countParity_link_ne (s.begin.at_ p.now) p.lanes _ hk
  · cases again
    · exact sameRegs_of_regs (sameRegs_refl _ s) (huregs.trans hregs)
    · exact sameRegs_of_regs (sameRegs_bump F.d2dErr_retries l 1 (sameRegs_refl _ s) List.mem_cons_self) (huregs.trans hregs)
  · rw [hu, hframe]
    rfl

theorem flitWindow_noted (s : State) (l : Nat) (p : ParityErrs) (again : Bool) : (s.flitNoted l p again).flitWindow l = s.flitWindow l := by
  have h : ((s.at_ p.now).countParity l p.lanes (max s.now p.now)).getF F.d2dStat_proto l = s.getF F.d2dStat_proto l :=
    getF_of_regs (congrArg State.regs (countParity_frame (s.at_ p.now) l p.lanes _)) ..
  rw [State.flitWindow, State.flitWindow, ← h]
  cases again
  · rfl
  · rw [show (s.flitNoted l p true).getF F.d2dStat_proto l = _ from getF_bump_off _ F.d2dErr_retries F.d2dStat_proto l l 1 (by decide)]

section
variable {l : Nat} {seq : BitVec 16} {crc : BitVec 32} {p : ParityErrs} {payload : List Byte} {s : State} {x : Link} {d : LinkDir} {next : Nat}
variable (hs : s.getF F.d2dStat_state l = 1) (hx : x = ((s.at_ p.now).countParity l p.lanes (max s.now p.now)).link l)
variable (hd : d = (s.link l).dir p.back) (hn : next = (if d.seen seq.toNat then d.next else (seq.toNat + 1) % 65536))
include hs hx hd hn

/-- The cases of a flit. -/
theorem opFlit_eq : opFlit l seq crc p payload s =
    (let u := s.flitNoted l p (d.seen seq.toNat)
     let ok := payload.length == 256 && crc32c 0 payload == crc
     if ok && d.past seq.toNat == 0 then u.setLink l (x.put p.back { seq := (d.seq + 1) % 65536, next := next })
     else if ok && decide (65536 - s.flitWindow l ≤ d.past seq.toNat) then u
     else
       let v := u.setLink l (x.put p.back { d with
         next := next, retryAsked := true, outSeq := some (d.past seq.toNat), resends := d.resends + bit (d.newRun seq.toNat) })
       if d.newRun seq.toNat then v.send (.d2dRetry l p.back (d.seq % 65536)) else v) := by
  have hw : (s.at_ p.now).getF F.d2dStat_state l = 1 := hs
  unfold opFlit
  extract_lets -merge +onlyGivenNames s0 s1 e ok q s2 n
  have he : e = d := (countParity_dir (s.at_ p.now) l p.lanes _ p.back).trans hd.symm
  have hlink : s2.link l = x := by
    rw [hx]
    dsimp only [s2]
    split <;> rfl
  have h2 : s2 = s.flitNoted l p (d.seen seq.toNat) := by rw [← he]; rfl
  have hnext : n = next := by rw [hn, ← he]
  clear_value e n s2
  subst he hnext
  rw [if_neg (by rw [show s0.getF F.d2dStat_state l = 1 from hs]; decide)]
  subst h2
  extract_lets u
  dsimp only [u]
  simp only [State.setDir, State.modLink, hlink, flitWindow_noted]
  rfl
end

section
variable {link : BitVec 3} {seq : BitVec 16} {crc : BitVec 32} {p : ParityErrs} {payload : List Byte} {s : State} {x : Link}
variable {d : LinkDir} {next : Nat} (hs : s.getF F.d2dStat_state link.toNat = 1)
variable (hx : x = ((s.at_ p.now).countParity link.toNat p.lanes (max s.now p.now)).link link.toNat)
variable (hd : d = (s.link link.toNat).dir p.back) (hn : next = (if d.seen seq.toNat then d.next else (seq.toNat + 1) % 65536))
include hs hx hd hn

theorem flit_accepted (hl : payload.length = 256) (hc : crc = crc32c 0 payload) (hp : d.past seq.toNat = 0) :
    completes (.d2dFlit link seq crc p payload) s (fun t =>
      t.link link.toNat = x.put p.back { seq := (d.seq + 1) % 65536, next := next } ∧ t.out = [] ∧
      flitCame link.toNat (d.seen seq.toNat) p.now s t) := by
  have hx' := hx.trans (countParity_begin s link.toNat p.lanes p.now _).symm
  have hop := (opFlit_eq (s := s.begin) (crc := crc) (payload := payload) hs hx' hd hn).trans (if_pos (by rw [hl, hc, hp]; simp))
  obtain ⟨regs, links, hframe⟩ := flitNoted_frame s.begin link.toNat p (d.seen seq.toNat)
  refine completes_of_eq (f := opFlit link.toNat seq crc p payload) rfl hop ⟨link_setLink_same _ _ _, by rw [hframe]; rfl, ?_⟩
  refine flitCame_of_noted (by rw [hframe]; rfl) (fun k hk => link_setLink_ne _ _ hk.symm)

theorem flit_dropped (hl : payload.length = 256) (hc : crc = crc32c 0 payload) (hp : d.past seq.toNat ≠ 0)
    (hw : 65536 - s.flitWindow link.toNat ≤ d.past seq.toNat) : completes (.d2dFlit link seq crc p payload) s (fun t =>
      t.link link.toNat = x ∧ t.out = [] ∧ flitCame link.toNat (d.seen seq.toNat) p.now s t) := by
  have hx' := hx.trans (countParity_begin s link.toNat p.lanes p.now _).symm
  have hop := (opFlit_eq (s := s.begin) (crc := crc) (payload := payload) hs hx' hd hn).trans
    ((if_neg (by simp [hp])).trans (if_pos (by
         rw [hl, hc, show decide (65536 - s.begin.flitWindow link.toNat ≤ d.past seq.toNat) = true from decide_eq_true hw]; simp)))
  have hlink : (s.begin.flitNoted link.toNat p (d.seen seq.toNat)).link link.toNat = x := by
    rw [State.link, flitNoted_links]
    exact hx'.symm
  obtain ⟨regs, links, hframe⟩ := flitNoted_frame s.begin link.toNat p (d.seen seq.toNat)
  refine completes_of_eq (f := opFlit link.toNat seq crc p payload) rfl hop ⟨hlink, by rw [hframe]; rfl, ?_⟩
  exact flitCame_of_noted (by rw [hframe]) (fun k hk => rfl)

theorem flit_bad (hb : payload.length ≠ 256 ∨ crc ≠ crc32c 0 payload ∨
      (d.past seq.toNat ≠ 0 ∧ d.past seq.toNat < 65536 - s.flitWindow link.toNat)) :
    completes (.d2dFlit link seq crc p payload) s (fun t =>
      t.link link.toNat = x.put p.back { d with
        next := next, retryAsked := true, outSeq := some (d.past seq.toNat), resends := d.resends + bit (d.newRun seq.toNat) } ∧
      t.out = (if d.newRun seq.toNat then [.d2dRetry link.toNat p.back (d.seq % 65536)] else []) ∧
      flitCame link.toNat (d.seen seq.toNat) p.now s t) := by
  have hx' := hx.trans (countParity_begin s link.toNat p.lanes p.now _).symm
  have h1 : ¬ (payload.length == 256 && crc32c 0 payload == crc && d.past seq.toNat == 0) = true := by
    rcases hb with hb | hb | hb
    · simp [hb]
    · rw [beq_false_of_ne (Ne.symm hb), Bool.and_false, Bool.false_and]
      decide
    · simp [hb.1]
  have h2 : ¬ (payload.length == 256 && crc32c 0 payload == crc && decide (65536 - s.flitWindow link.toNat ≤ d.past seq.toNat)) = true := by
    rcases hb with hb | hb | hb
    · simp [hb]
    · rw [beq_false_of_ne (Ne.symm hb), Bool.and_false, Bool.false_and]
      decide
    · simp [Nat.not_le.mpr hb.2]
  have hop := (opFlit_eq (s := s.begin) (crc := crc) (payload := payload) hs hx' hd hn).trans ((if_neg h1).trans (if_neg h2))
  obtain ⟨regs, links, hframe⟩ := flitNoted_frame s.begin link.toNat p (d.seen seq.toNat)
  cases hr : d.newRun seq.toNat
  · rw [hr] at hop
    refine completes_of_eq (f := opFlit link.toNat seq crc p payload) rfl hop ⟨link_setLink_same _ _ _, by rw [hframe]; rfl, ?_⟩
    exact flitCame_of_noted (by rw [hframe]; rfl) (fun k hk => link_setLink_ne _ _ hk.symm)
  · rw [hr] at hop
    refine completes_of_eq (f := opFlit link.toNat seq crc p payload) rfl hop ⟨link_setLink_same _ _ _, by rw [hframe]; rfl, ?_⟩
    exact flitCame_of_noted (by rw [hframe]; rfl) (fun k hk => link_setLink_ne _ _ hk.symm)
end

/-! ## A flit asked for again 16 times, and a lane that fails -/

theorem resendLimit_spent (link : BitVec 3) (seq : BitVec 16) (r : Reader) (s : State) (b : Bool)
    (hb : (s.link link.toNat).spent seq.toNat = some b) : completes (.d2dResendLimit link seq r) s (fun t =>
      (t.link link.toNat).dir b = { seq := (seq.toNat + 1) % 65536, next := ((s.link link.toNat).dir b).next } ∧
      (t.link link.toNat).dir (!b) = (s.link link.toNat).dir (!b) ∧ t.out = [.memResp r 3 []] ∧
      ∀ c : BitVec 10, r = .cell c → s.tick.windowOpen = false → ∀ e, s.stageOf c.toNat = some e → (t.prog e.1).invalid = true) := by
  have hop : opResendLimit link.toNat seq r s.begin = (s.begin.setDir link.toNat b
      { seq := (seq.toNat + 1) % 65536, next := ((s.link link.toNat).dir b).next }).failReader r 3 := by
    unfold opResendLimit
    split
    · next hn => exact absurd (hn.symm.trans hb) (by simp)
    · next c hc =>
      obtain rfl : c = b := Option.some.inj (hc.symm.trans hb)
      rfl
  obtain ⟨regs, ctl, chutes, hframe⟩ := failReader_frame (s.begin.setDir link.toNat b
      { seq := (seq.toNat + 1) % 65536, next := ((s.link link.toNat).dir b).next }) r 3
  have hlink : ((s.begin.setDir link.toNat b { seq := (seq.toNat + 1) % 65536, next := ((s.link link.toNat).dir b).next }).failReader r
      3).link link.toNat = (s.link link.toNat).put b { seq := (seq.toNat + 1) % 65536, next := ((s.link link.toNat).dir b).next } := by
    rw [hframe]
    exact link_setLink_same ..
  refine completes_of_eq (f := opResendLimit link.toNat seq r) rfl hop ⟨?_, ?_, ?_, fun c hc hw e he => ?_⟩
  · exact (congrArg (fun y : Link => y.dir b) hlink).trans (Link.dir_put_same ..)
  · exact (congrArg (fun y : Link => y.dir (!b)) hlink).trans (Link.dir_put_not ..)
  · rw [hframe]; rfl
  · subst hc
    exact failReader_cell_invalid 3 he hw

theorem resendLimit_unspent (link : BitVec 3) (seq : BitVec 16) (r : Reader) (s : State)
    (hb : (s.link link.toNat).spent seq.toNat = none) : idles (.d2dResendLimit link seq r) s := by
  refine idles_of_run (f := opResendLimit link.toNat seq r) rfl ?_
  unfold opResendLimit
  split
  · rfl
  · next c hc => exact absurd (hc.symm.trans hb) (by simp)

theorem exec_d2dLaneFailed {link : BitVec 3} {lane : Nat} (h : lane < dataLanes link.toNat) (s : State) :
    exec (.d2dLaneFailed link lane) s = run (opLane link.toNat lane) s :=
  congrArg (fun ok => runIf ok (opLane link.toNat lane) s) (decide_eq_true h)

theorem not_starting_of_ready {s : State} (h : s.ready = true) : ¬ s.getF F.stdBoot_stage < 7 := by
  have := eq_of_beq h
  omega

theorem laneFailed_spared (link : BitVec 3) (lane : Nat) (s : State) (hl : lane < dataLanes link.toNat) (hr : s.ready = true)
    (h1 : lane ∉ (s.link link.toNat).toSpare) (h2 : lane ∉ (s.link link.toNat).failed)
    (h3 : s.laneLimit link.toNat < tget 0 (s.link link.toNat).parity lane)
    (h4 : s.getF F.d2dStat_spares link.toNat + (s.link link.toNat).toSpare.length < spareLanes link.toNat) :
    completes (.d2dLaneFailed link lane) s (fun t =>
      t.link link.toNat = { s.link link.toNat with toSpare := (s.link link.toNat).toSpare ++ [lane] } ∧
      t.getF F.d2dErr_lanes link.toNat = min (s.getF F.d2dErr_lanes link.toNat + 1) 65535 ∧
      sameRegs [regKey R.d2dErr link.toNat] s t ∧ t = { s with regs := t.regs, links := t.links, out := [] }) := by
  have hop : opLane link.toNat lane s.begin = (s.begin.bump F.d2dErr_lanes link.toNat).setLink link.toNat
      { s.link link.toNat with toSpare := (s.link link.toNat).toSpare ++ [lane] } := by
    refine (if_neg (not_starting_of_ready (s := s.begin) hr)).trans ((if_pos h3).trans ((if_neg ?_).trans (if_pos ?_)))
    · rw [show s.begin.link link.toNat = s.link link.toNat from rfl]
      simp [h1, h2]
    · rw [getF_bump_off _ F.d2dErr_lanes F.d2dStat_spares _ _ _ (by decide)]
      exact h4
  refine completes_of_eq (f := opLane link.toNat lane) (exec_d2dLaneFailed hl s) hop ⟨link_setLink_same .., ?_, ?_, rfl⟩
  · exact getF_bump s.begin F.d2dErr_lanes link.toNat 1 (by decide)
  · exact sameRegs_bump (s := s) (t := s) F.d2dErr_lanes link.toNat 1 (sameRegs_refl _ s) List.mem_cons_self

theorem laneFailed_within (link : BitVec 3) (lane : Nat) (s : State) (hl : lane < dataLanes link.toNat) (hr : s.ready = true)
    (h : tget 0 (s.link link.toNat).parity lane ≤ s.laneLimit link.toNat) : idles (.d2dLaneFailed link lane) s := by
  refine idles_of_run (f := opLane link.toNat lane) (exec_d2dLaneFailed hl s) ?_
  exact (if_neg (not_starting_of_ready (s := s.begin) hr)).trans (if_neg (Nat.not_lt.mpr h))

/-- Settles O36: a flit's three cases, the resend limit, and the lane that fails. -/
theorem flitsAndLanesOfALink : Obligations.FlitsAndLanesOfALink := by
  unfold Obligations.FlitsAndLanesOfALink
  intro link s
  refine ⟨fun seq crc p payload x d next hs hx hd hn => ⟨fun hl hc hp => flit_accepted hs hx hd hn hl hc hp,
    fun hl hc hp hw => flit_dropped hs hx hd hn hl hc hp hw, fun hb => flit_bad hs hx hd hn hb⟩,
    fun seq r => ⟨fun b hb => resendLimit_spent link seq r s b hb, fun hb => resendLimit_unspent link seq r s hb⟩,
    fun lane hl hr => ⟨fun h1 h2 h3 h4 => laneFailed_spared link lane s hl hr h1 h2 h3 h4, fun h => laneFailed_within link lane s hl hr h⟩⟩

end Sys2Proof.Machine
end

section
/-! SUPPORT. A link's reset, its test mode and its training (R350 to R352, R447), and the statement on them (O37). -/
namespace Sys2Proof.Machine

/-! ## What an error response leaves of the links and of the accesses that wait -/

/-- The links and the accesses that wait are as before. -/
def keepsWaits (s u : State) : Prop := u.links = s.links ∧ u.accWait = s.accWait

theorem keepsWaits_refl (s : State) : keepsWaits s s := ⟨rfl, rfl⟩

theorem keepsWaits_trans (s t u : State) (h : keepsWaits s t) (h' : keepsWaits t u) : keepsWaits s u := ⟨h'.1.trans h.1, h'.2.trans h.2⟩

theorem keepsWaits_ite {s t u : State} {c : Prop} [Decidable c] (h : keepsWaits s t) (h' : keepsWaits s u) :
    keepsWaits s (if c then t else u) := by
  split
  · exact h
  · exact h'

theorem keepsWaits_of_eventPath {ks : List Nat} {s u : State} (h : eventPath ks s u) : keepsWaits s u := by
  obtain ⟨⟨_, _, _, _, _, _, _, rfl⟩, -⟩ := h
  exact ⟨rfl, rfl⟩

theorem keepsWaits_raise (s : State) (code cls idx : Nat) (arg : Word) (payload : List Byte) :
    keepsWaits s (s.raise code cls idx arg payload) :=
  keepsWaits_of_eventPath (eventPath_raise (ks := [regKey R.hstEvqStat 0, regKey R.stdBootRet 0]) code cls idx arg payload (by simp) (by simp))

theorem keepsWaits_failReader (s : State) (r : Reader) (status : Nat) : keepsWaits s (s.failReader r status) := by
  obtain ⟨_, _, _, h⟩ := failReader_frame s r status
  rw [h]
  exact ⟨rfl, rfl⟩

theorem keepsWaits_chuteResulted (s : State) (a : WaitAcc) : keepsWaits s (s.chuteResulted a) := by
  unfold State.chuteResulted
  split
  · exact keepsWaits_ite (keepsWaits_of_eventPath (eventPath_signal (ks := []) ..)) (keepsWaits_refl s)
  · exact keepsWaits_refl s

theorem keepsWaits_failAcc (s : State) (a : WaitAcc) (status : Nat) : keepsWaits s (s.failAcc a status) := by
  unfold State.failAcc
  split
  · exact keepsWaits_ite (keepsWaits_chuteResulted s a) (keepsWaits_failReader s _ status)
  · exact keepsWaits_refl s
  · exact keepsWaits_ite (keepsWaits_trans _ _ _ (keepsWaits_refl s) (keepsWaits_raise ..)) (keepsWaits_refl s)

theorem keepsWaits_dropPass (s : State) (c : Nat) : keepsWaits s (s.dropPass c) := by
  obtain ⟨_, h⟩ := dropPass_frame s c
  rw [h]
  exact ⟨rfl, rfl⟩

theorem keepsWaits_noteWait (s : State) (j c : Nat) (t : Stage) (i : Nat) : keepsWaits s (s.noteWait j c t i) := by
  unfold State.noteWait
  exact keepsWaits_ite (keepsWaits_refl s) ⟨rfl, rfl⟩

theorem keepsWaits_endKeep (s : State) (c : Nat) : keepsWaits s (s.endKeep c) := by
  unfold State.endKeep
  extract_lets x u
  have hu : keepsWaits s u := by
    refine foldl_rel keepsWaits_refl keepsWaits_trans ?_ x.flailSince s
    exact fun v _ => ⟨rfl, rfl⟩
  exact keepsWaits_ite hu (keepsWaits_trans _ _ _ hu ⟨rfl, rfl⟩)

theorem keepsWaits_notePending (s : State) (j c : Nat) (t : Stage) : keepsWaits s (s.notePending j c t) := by
  unfold State.notePending
  exact keepsWaits_ite (keepsWaits_trans _ _ _ (keepsWaits_noteWait ..) (keepsWaits_endKeep ..)) (keepsWaits_refl s)

theorem keepsWaits_discardWork (s : State) (c : Nat) : keepsWaits s (s.discardWork c) := keepsWaits_dropPass s c

theorem keepsWaits_invalidate (s : State) (j : Nat) : keepsWaits s (s.invalidate j) := by
  obtain ⟨_, h⟩ := invalidate_frame s j
  rw [h]
  exact ⟨rfl, rfl⟩

theorem keepsWaits_opProducerLost (c p : Nat) (s : State) : keepsWaits s (opProducerLost c p s) := by
  unfold opProducerLost
  extract_lets -merge +onlyGivenNames s1
  split
  · exact keepsWaits_refl s
  · next j t hj =>
    refine keepsWaits_ite (keepsWaits_refl s) (keepsWaits_trans _ _ _ ?_ (keepsWaits_invalidate ..))
    have h : keepsWaits s1 ((s1.notePending j c t).discardWork c) :=
      keepsWaits_trans _ _ _ (keepsWaits_notePending s1 j c t) (keepsWaits_discardWork ..)
    exact h

/-! ## What is outstanding across a link (R350) -/

/-- The accesses that wait across a link. -/
def State.accAcross (s : State) (l : Nat) : List WaitAcc :=
  s.accWait.filter (fun a => (s.linksTo ((readerCell a.reader).map cellTower) a.addr a.bytes).contains l)

theorem errAcross_links (s : State) (l : Nat) : (s.errAcross l).links = s.links ∧
    (s.errAcross l).accWait = s.accWait.filter (fun a => !(s.accAcross l).contains a) := by
  have hacc := foldl_rel (f := fun (s : State) (a : WaitAcc) => (s.bump F.d2dErr_wrapper l).failAcc a 3) keepsWaits_refl keepsWaits_trans
    (fun s a => keepsWaits_trans s (s.bump F.d2dErr_wrapper l) _ (keepsWaits_refl s) (keepsWaits_failAcc ..)) (s.accAcross l)
    { s with accWait := s.accWait.filter (fun a => !(s.accAcross l).contains a) }
  have hrows := foldl_rel (f := fun (s : State) (e : Nat × Nat) => opProducerLost e.2 e.1 (s.bump F.d2dErr_wrapper l)) keepsWaits_refl
    keepsWaits_trans (fun s e => keepsWaits_trans s (s.bump F.d2dErr_wrapper l) _ (keepsWaits_refl s) (keepsWaits_opProducerLost ..))
  exact keepsWaits_trans _ _ _ hacc (hrows _ _)

/-- No access waits across the link any more. -/
theorem errAcross_waits (s : State) (l : Nat) :
    ∀ a ∈ (s.errAcross l).accWait, l ∉ s.linksTo ((readerCell a.reader).map cellTower) a.addr a.bytes := by
  intro a ha hl
  rw [(errAcross_links s l).2] at ha
  obtain ⟨hm, hn⟩ := List.mem_filter.mp ha
  have : a ∈ s.accAcross l := List.mem_filter.mpr ⟨hm, List.contains_iff_mem.mpr hl⟩
  simp [this] at hn

theorem errAcross_none {s : State} {l : Nat} (ha : ∀ a ∈ s.accWait, l ∉ s.linksTo ((readerCell a.reader).map cellTower) a.addr a.bytes)
    (hr : s.rowsAcross l = []) : (s.errAcross l).regs = s.regs := by
  have hacc : s.accAcross l = [] := List.filter_eq_nil_iff.mpr (fun a hm hc => ha a hm (List.contains_iff_mem.mp hc))
  unfold State.errAcross
  extract_lets mine u
  have hm : mine = [] := hacc
  have hu : u.rowsAcross l = [] := by
    dsimp only [u]
    rw [hm]
    exact hr
  have hregs : u.regs = s.regs := by
    dsimp only [u]
    rw [hm]
    rfl
  rw [hu]
  exact hregs

/-! ## Reset and test mode -/

/-- The link shows itself untrained, and its wrapper answers. -/
def State.untrainLink (s : State) (l : Nat) : State := ((s.putF F.d2dStat_state l 0).putF F.d2dStat_proto l 0).putF F.d2dStat_wrapper l 1

theorem untrainLink_shown (s : State) (l : Nat) : (s.untrainLink l).getF F.d2dStat_state l = 0 ∧
    (s.untrainLink l).getF F.d2dStat_proto l = 0 ∧ (s.untrainLink l).onF F.d2dStat_wrapper l = true ∧
    (s.untrainLink l).onF F.d2dCtl_reset l = s.onF F.d2dCtl_reset l := by
  refine ⟨?_, ?_, onF_of_bit (b := true) (getF_putF_same _ F.d2dStat_wrapper l 1 (by decide)), onF_of_getF ?_⟩
  · exact (getF_putF_apart _ F.d2dStat_wrapper F.d2dStat_state l 1 rfl (by decide)).trans
      ((getF_putF_apart _ F.d2dStat_proto F.d2dStat_state l 0 rfl (by decide)).trans (getF_putF_same s F.d2dStat_state l 0 (by decide)))
  · exact (getF_putF_apart _ F.d2dStat_wrapper F.d2dStat_proto l 1 rfl (by decide)).trans (getF_putF_same _ F.d2dStat_proto l 0 (by decide))
  · exact (getF_putF_off _ F.d2dStat_wrapper F.d2dCtl_reset l l 1 (by decide)).trans
      ((getF_putF_off _ F.d2dStat_proto F.d2dCtl_reset l l 0 (by decide)).trans (getF_putF_off s F.d2dStat_state F.d2dCtl_reset l l 0 (by decide)))

theorem sameRegs_untrainLink {ks : List Nat} {s t : State} (l : Nat) (h : sameRegs ks s t) (hk : regKey R.d2dStat l ∈ ks) :
    sameRegs ks s (t.untrainLink l) :=
  sameRegs_putF F.d2dStat_wrapper l 1 (sameRegs_putF F.d2dStat_proto l 0 (sameRegs_putF F.d2dStat_state l 0 h hk) hk) hk

theorem d2dReset_done (by_ : Requester) (l : Nat) (s : State) (on : Bool) (hw : s.writes by_ R.d2dCtl.off = true)
    (hl : l = s.sel by_ F.d2dSel_link) (hon : s.onF F.d2dCtl_reset l = !on) (hst : s.getF F.d2dStat_state l ≠ 2) :
    completes (.d2dReset by_ on) s (fun t =>
      t.onF F.d2dCtl_reset l = on ∧ t.getF F.d2dStat_state l = 0 ∧ t.getF F.d2dStat_proto l = 0 ∧ t.onF F.d2dStat_wrapper l = true ∧
      (t.link l).forth = {} ∧ (t.link l).back = {} ∧ (∀ a ∈ t.accWait, l ∉ s.linksTo ((readerCell a.reader).map cellTower) a.addr a.bytes) ∧
      ((∀ a ∈ s.accWait, l ∉ s.linksTo ((readerCell a.reader).map cellTower) a.addr a.bytes) → s.rowsAcross l = [] →
        sameRegs [regKey R.d2dCtl l, regKey R.d2dStat l] s t)) := by
  obtain ⟨u, hlink, hwait, hacross, hrows, hputs, hreset, hop⟩ : ∃ u : State, (u.link l = { s.link l with forth := {}, back := {} }) ∧
      u.accWait = s.accWait ∧ (∀ t a n, u.linksTo t a n = s.linksTo t a n) ∧ u.rowsAcross l = s.rowsAcross l ∧
      u.regs = (s.begin.putF F.d2dCtl_reset l (bit on)).regs ∧ u.onF F.d2dCtl_reset l = on ∧
      (fun s : State => if s.writes by_ R.d2dCtl.off then opD2dReset (s.sel by_ F.d2dSel_link) on s else s) s.begin =
        (u.errAcross l).untrainLink l := by
    refine ⟨((s.begin.putF F.d2dCtl_reset l (bit on)).markStale 7 l).modLink l (fun x => { x with forth := {}, back := {} }),
      link_setLink_same .., rfl, fun _ _ _ => rfl, rfl, rfl, ?_, (if_pos hw).trans ?_⟩
    · exact onF_of_bit (getF_putF_same s.begin F.d2dCtl_reset l (bit on) (by decide))
    · rw [show s.begin.sel by_ F.d2dSel_link = l from hl.symm]
      unfold opD2dReset
      refine if_neg (not_or.mpr ⟨?_, ?_⟩)
      · rw [show s.begin.onF F.d2dCtl_reset l = !on from hon]
        cases on <;> decide
      · rw [State.markStale_getF, getF_putF_off _ F.d2dCtl_reset F.d2dStat_state _ _ _ (by decide)]
        exact hst
  have hworks : Works u (u.errAcross l) := .errAcross .same
  obtain ⟨hlinks, -⟩ := errAcross_links u l
  obtain ⟨hstate, hproto, hwrap, hkept⟩ := untrainLink_shown (u.errAcross l) l
  have hlink' : (u.errAcross l).link l = { s.link l with forth := {}, back := {} } := (congrArg (fun t => tget ({} : Link) t l) hlinks).trans hlink
  refine completes_of_eq (f := fun s => if s.writes by_ R.d2dCtl.off then opD2dReset (s.sel by_ F.d2dSel_link) on s else s) rfl hop
    ⟨?_, hstate, hproto, hwrap, ?_, ?_, fun a ha => ?_, fun ha hr => ?_⟩
  · exact hkept.trans ((onF_of_getF (getF_of_works hworks (by decide) l)).trans hreset)
  · exact congrArg Link.forth hlink'
  · exact congrArg Link.back hlink'
  · rw [← hacross]
    exact errAcross_waits u l a ha
  · have hregs : (u.errAcross l).regs = (s.begin.putF F.d2dCtl_reset l (bit on)).regs :=
      (errAcross_none (fun a h => by rw [hacross]; exact ha a (hwait ▸ h)) (hrows.trans hr)).trans hputs
    have h1 : sameRegs [regKey R.d2dCtl l, regKey R.d2dStat l] s (u.errAcross l) :=
      sameRegs_of_regs (t := s.begin.putF F.d2dCtl_reset l (bit on))
        (sameRegs_putF F.d2dCtl_reset l (bit on) (sameRegs_of_regs (sameRegs_refl _ s) s.begin_regs) List.mem_cons_self) hregs
    exact sameRegs_of_regs (sameRegs_untrainLink l h1 (List.mem_cons_of_mem _ List.mem_cons_self)) rfl

theorem d2dTest_done (by_ : Requester) (l : Nat) (s : State) (test loop : Bool) (hw : s.writes by_ R.d2dCtl.off = true)
    (hl : l = s.sel by_ F.d2dSel_link) : completes (.d2dTest by_ test loop) s (fun t =>
      t.onF F.d2dCtl_test l = test ∧ t.onF F.d2dCtl_loop l = loop ∧
      t.onF F.d2dStat_test l = (if test && s.linkBusy l then s.onF F.d2dStat_test l else test) ∧
      onlyRegs [regKey R.d2dCtl l, regKey R.d2dStat l] s t) := by
  obtain ⟨v, hv⟩ : ∃ v, (s.begin.putF F.d2dCtl_test l (bit test)).putF F.d2dCtl_loop l (bit loop) = v := ⟨_, rfl⟩
  have hop : (fun s : State => if s.writes by_ R.d2dCtl.off then opD2dTest (s.sel by_ F.d2dSel_link) test loop s else s) s.begin =
      if test && s.linkBusy l then v else v.putF F.d2dStat_test l (bit test) := by
    refine (if_pos hw).trans ?_
    rw [show s.begin.sel by_ F.d2dSel_link = l from hl.symm, ← hv]
    rfl
  have h1 : v.onF F.d2dCtl_test l = test := by
    rw [← hv]
    exact onF_of_bit ((getF_putF_apart _ F.d2dCtl_loop F.d2dCtl_test l _ rfl (by decide)).trans
      (getF_putF_same s.begin F.d2dCtl_test l (bit test) (by decide)))
  have h2 : v.onF F.d2dCtl_loop l = loop := by
    rw [← hv]
    exact onF_of_bit (getF_putF_same _ F.d2dCtl_loop l (bit loop) (by decide))
  have h3 : v.onF F.d2dStat_test l = s.onF F.d2dStat_test l := by
    rw [← hv]
    exact onF_of_getF ((getF_putF_off _ F.d2dCtl_loop F.d2dStat_test l l _ (by decide)).trans
      (getF_putF_off s.begin F.d2dCtl_test F.d2dStat_test l l _ (by decide)))
  have hputs : putsRegs [regKey R.d2dCtl l, regKey R.d2dStat l] s.begin v := by
    rw [← hv]
    exact ((putsRegs_refl _ _).putF F.d2dCtl_test l _ List.mem_cons_self).putF F.d2dCtl_loop l _ List.mem_cons_self
  cases hb : test && s.linkBusy l
  · rw [hb] at hop
    refine completes_of_eq (f := fun s => if s.writes by_ R.d2dCtl.off then opD2dTest (s.sel by_ F.d2dSel_link) test loop s else s) rfl hop
      ⟨?_, ?_, ?_, onlyRegs_of_putsRegs (hputs.putF F.d2dStat_test l _ (List.mem_cons_of_mem _ List.mem_cons_self))⟩
    · exact (onF_of_getF (getF_putF_off v F.d2dStat_test F.d2dCtl_test l l _ (by decide))).trans h1
    · exact (onF_of_getF (getF_putF_off v F.d2dStat_test F.d2dCtl_loop l l _ (by decide))).trans h2
    · exact onF_of_bit (getF_putF_same v F.d2dStat_test l (bit test) (by decide))
  · rw [hb] at hop
    exact completes_of_eq (f := fun s => if s.writes by_ R.d2dCtl.off then opD2dTest (s.sel by_ F.d2dSel_link) test loop s else s) rfl hop
      ⟨h1, h2, h3, onlyRegs_of_putsRegs hputs⟩

/-! ## Training (R351, R447) -/

theorem capability_in_recovery (link : BitVec 3) (near far : Word) (s : State) (h : s.getF F.stdBoot_stage = 8) :
    idles (.d2dCapabilityWord link near far) s :=
  idles_of_run (f := opCapability link.toNat near far) rfl (if_pos (.inr (.inr h)))

/-- The link is trained at a protocol version, with the far side's revision known. -/
def State.trainLink (s : State) (l rev proto : Nat) : State :=
  (((s.putF F.d2dStat_rev_far l rev).putF F.d2dStat_proto l proto).putF F.d2dStat_state l 1).putF F.d2dStat_wrapper l 0

section
variable (s : State) (l rev proto : Nat)

theorem trainLink_state : (s.trainLink l rev proto).getF F.d2dStat_state l = 1 :=
  (getF_putF_apart _ F.d2dStat_wrapper F.d2dStat_state l 0 rfl (by decide)).trans (getF_putF_same _ F.d2dStat_state l 1 (by decide))

theorem trainLink_proto : (s.trainLink l rev proto).getF F.d2dStat_proto l = proto % 16 :=
  (getF_putF_apart _ F.d2dStat_wrapper F.d2dStat_proto l 0 rfl (by decide)).trans
    ((getF_putF_apart _ F.d2dStat_state F.d2dStat_proto l 1 rfl (by decide)).trans (getF_putF_same _ F.d2dStat_proto l proto (by decide)))

theorem trainLink_wrapper : (s.trainLink l rev proto).onF F.d2dStat_wrapper l = false :=
  onF_of_bit (b := false) (getF_putF_same _ F.d2dStat_wrapper l 0 (by decide))

theorem trainLink_rev_near : (s.trainLink l rev proto).getF F.d2dStat_rev_near l = s.getF F.d2dStat_rev_near l :=
  (getF_putF_apart _ F.d2dStat_wrapper F.d2dStat_rev_near l 0 rfl (by decide)).trans
    ((getF_putF_apart _ F.d2dStat_state F.d2dStat_rev_near l 1 rfl (by decide)).trans
      ((getF_putF_apart _ F.d2dStat_proto F.d2dStat_rev_near l proto rfl (by decide)).trans
        (getF_putF_apart s F.d2dStat_rev_far F.d2dStat_rev_near l rev rfl (by decide))))

theorem trainLink_rev_far : (s.trainLink l rev proto).getF F.d2dStat_rev_far l = rev % 256 :=
  (getF_putF_apart _ F.d2dStat_wrapper F.d2dStat_rev_far l 0 rfl (by decide)).trans
    ((getF_putF_apart _ F.d2dStat_state F.d2dStat_rev_far l 1 rfl (by decide)).trans
      ((getF_putF_apart _ F.d2dStat_proto F.d2dStat_rev_far l proto rfl (by decide)).trans (getF_putF_same s F.d2dStat_rev_far l rev (by decide))))

theorem trainLink_sameRegs : sameRegs [regKey R.d2dStat l] s (s.trainLink l rev proto) :=
  sameRegs_putF F.d2dStat_wrapper l 0 (sameRegs_putF F.d2dStat_state l 1 (sameRegs_putF F.d2dStat_proto l proto
    (sameRegs_putF F.d2dStat_rev_far l rev (sameRegs_refl _ s) List.mem_cons_self) List.mem_cons_self) List.mem_cons_self) List.mem_cons_self

end

theorem capability_shared (link : BitVec 3) (near far : Word) (s : State) (hst : s.getF F.d2dStat_state link.toNat ≠ 2)
    (hr : s.onF F.d2dCtl_reset link.toNat = false) (hb : s.getF F.stdBoot_stage ≠ 8)
    (hv : max (fieldGet near 16 4) (fieldGet far 16 4) ≤ min (fieldGet near 20 4) (fieldGet far 20 4)) :
    completes (.d2dCapabilityWord link near far) s (fun t =>
      t.getF F.d2dStat_state link.toNat = 1 ∧ t.getF F.d2dStat_proto link.toNat = min (fieldGet near 20 4) (fieldGet far 20 4) ∧
      t.onF F.d2dStat_wrapper link.toNat = false ∧ t.getF F.d2dStat_rev_near link.toNat = s.getF F.d2dStat_rev_near link.toNat ∧
      t.getF F.d2dStat_rev_far link.toNat = fieldGet far 8 8 ∧ (t.link link.toNat).forth = {} ∧ (t.link link.toNat).back = {} ∧
      sameRegs [regKey R.d2dStat link.toNat] s t) := by
  have hlt : min (fieldGet near 20 4) (fieldGet far 20 4) % 16 = min (fieldGet near 20 4) (fieldGet far 20 4) := by
    have := fieldGet_lt near 20 4
    omega
  obtain ⟨u, hregs, hlink, hop⟩ : ∃ u : State, u.regs = s.regs ∧
      u.link link.toNat = { s.link link.toNat with forth := {}, back := {} } ∧ opCapability link.toNat near far s.begin =
        u.trainLink link.toNat (fieldGet far 8 8) (min (fieldGet near 20 4) (fieldGet far 20 4)) := by
    refine ⟨s.begin.modLink link.toNat (fun x => { x with forth := {}, back := {} }), rfl, link_setLink_same .., ?_⟩
    unfold opCapability
    rw [if_neg (by
      rw [show s.begin.onF F.d2dCtl_reset link.toNat = false from hr]
      exact not_or.mpr ⟨hst, not_or.mpr ⟨by decide, hb⟩⟩)]
    rw [show sharedProto near far = some _ from if_pos hv]
    rfl
  refine completes_of_eq (f := opCapability link.toNat near far) rfl hop
    ⟨trainLink_state .., (trainLink_proto ..).trans hlt, trainLink_wrapper .., (trainLink_rev_near ..).trans (getF_of_regs hregs ..),
      (trainLink_rev_far ..).trans (fieldGet_mod far 8 8), congrArg Link.forth hlink, congrArg Link.back hlink, ?_⟩
  intro d k hk
  exact (trainLink_sameRegs u link.toNat _ _ d k hk).trans (by rw [hregs])

/-- Settles O37: the reset of a link, its test mode, and its training. -/
theorem linksTrainAndReset : Obligations.LinksTrainAndReset := by
  unfold Obligations.LinksTrainAndReset
  refine ⟨fun by_ l s hw hl => ⟨fun on hon hst => d2dReset_done by_ l s on hw hl hon hst, fun test loop => d2dTest_done by_ l s test loop hw hl⟩,
    fun link near far s hst hr => ⟨fun hb => capability_in_recovery link near far s hb,
      fun hb hv => capability_shared link near far s hst hr hb hv⟩⟩

end Sys2Proof.Machine
end

section
/-! SUPPORT. Rows on the mesh: the cell whose work ends, the row kept or dropped (R135, R137, R143, R169, R235), and the statement on them (O38). -/
namespace Sys2Proof.Machine

/-! ## A cell's own state and registers -/

/-- The registers that count what a cell's work met when it is discarded. -/
def discardRegs : List Reg := [R.fllHold, R.mxcPasses, R.mxcStat]

/-- Nothing but cell c's own state and those registers differs. -/
def ownCell (c : Nat) (s u : State) : Prop :=
  (∃ regs cells, u = { s with regs := regs, cells := cells }) ∧ (∀ d, d ≠ c → u.cell d = s.cell d) ∧ regsIn discardRegs s u

theorem ownCell_refl (c : Nat) (s : State) : ownCell c s s := ⟨⟨s.regs, s.cells, rfl⟩, fun _ _ => rfl, regsIn_refl _ s⟩

theorem ownCell_trans {c : Nat} (s t u : State) (h : ownCell c s t) (h' : ownCell c t u) : ownCell c s u := by
  obtain ⟨⟨regs, cells, rfl⟩, hcell, hr⟩ := h
  obtain ⟨⟨regs', cells', rfl⟩, hcell', hr'⟩ := h'
  exact ⟨⟨regs', cells', rfl⟩, fun d hd => (hcell' d hd).trans (hcell d hd), regsIn_trans hr hr'⟩

theorem ownCell_ite {c : Nat} {s t u : State} {p : Prop} [Decidable p] (h : ownCell c s t) (h' : ownCell c s u) :
    ownCell c s (if p then t else u) := by
  split
  · exact h
  · exact h'

theorem ownCell_modCell (s : State) (c : Nat) (f : Cell → Cell) : ownCell c s (s.modCell c f) :=
  ⟨⟨s.regs, _, rfl⟩, fun _ hd => cell_setCell_ne s _ hd.symm, regsIn_refl _ s⟩

theorem ownCell_putF (s : State) (c : Nat) (f : Fld) (i v : Nat) (hf : f.reg ∈ discardRegs) : ownCell c s (s.putF f i v) :=
  ⟨⟨_, s.cells, rfl⟩, fun _ _ => rfl, regsIn_putF s f i v hf⟩

theorem ownCell_noteWait (s : State) (j c : Nat) (t : Stage) (i : Nat) : ownCell c s (s.noteWait j c t i) := by
  unfold State.noteWait
  exact ownCell_ite (ownCell_refl c s) (ownCell_modCell ..)

theorem ownCell_countFlailWait (s : State) (c k ns : Nat) : ownCell c s (s.countFlailWait k ns) :=
  ownCell_trans s (s.bump F.fllHold_held k) _ (ownCell_putF _ _ F.fllHold_held _ _ (by decide))
    (ownCell_putF _ _ F.fllHold_longest_ns _ _ (by decide))

theorem ownCell_endKeep (s : State) (c : Nat) : ownCell c s (s.endKeep c) := by
  unfold State.endKeep
  extract_lets x u
  have hu : ownCell c s u := by
    refine foldl_rel (ownCell_refl c) ownCell_trans ?_ x.flailSince s
    exact fun v f => ownCell_countFlailWait ..
  exact ownCell_ite hu (ownCell_trans _ _ _ hu (ownCell_modCell ..))

theorem ownCell_notePending (s : State) (j c : Nat) (t : Stage) : ownCell c s (s.notePending j c t) := by
  unfold State.notePending
  exact ownCell_ite (ownCell_trans _ _ _ (ownCell_noteWait ..) (ownCell_endKeep ..)) (ownCell_refl c s)

theorem ownCell_dropPass (s : State) (c : Nat) : ownCell c s (s.dropPass c) := by
  unfold State.dropPass
  exact ownCell_ite (ownCell_trans s (s.bump F.mxcPasses_discarded c) _ (ownCell_putF _ _ F.mxcPasses_discarded _ _ (by decide))
    (ownCell_putF _ _ F.mxcStat_busy _ _ (by decide))) (ownCell_refl c s)

/-! ## A producer that is lost (R143, R169) -/

/-- The consumer's work ends, and the producer is noted as lost. -/
def State.loseProducer (s : State) (j c p : Nat) (t : Stage) : State :=
  ((s.notePending j c t).discardWork c).modCell c (fun x => { x with lost := if x.lost.contains p then x.lost else x.lost ++ [p] })

theorem loseProducer_own (s : State) (j c p : Nat) (t : Stage) : ownCell c s (s.loseProducer j c p t) :=
  ownCell_trans _ _ _ (ownCell_notePending s j c t) (ownCell_trans _ _ _ (ownCell_dropPass ..)
    (ownCell_trans _ _ _ (ownCell_modCell ..) (ownCell_modCell ..)))

theorem loseProducer_cell (s : State) (j c p : Nat) (t : Stage) : ((s.loseProducer j c p t).cell c).rowsIn = [] ∧
    ((s.loseProducer j c p t).cell c).rowsOut = [] ∧ p ∈ ((s.loseProducer j c p t).cell c).lost := by
  have hcell : ∀ u : State, ((u.discardWork c).modCell c
      (fun x => { x with lost := if x.lost.contains p then x.lost else x.lost ++ [p] })).cell c = { (u.dropPass c).cell c with
        rowsIn := [], rowsOut := [], inTick := [], increments := [], flits := []
        lost := if ((u.dropPass c).cell c).lost.contains p then ((u.dropPass c).cell c).lost else ((u.dropPass c).cell c).lost ++ [p] } := by
    intro u
    rw [State.modCell, cell_setCell_same, State.discardWork, State.modCell, cell_setCell_same]
  rw [State.loseProducer, hcell]
  refine ⟨rfl, rfl, ?_⟩
  dsimp only
  split
  · next h => exact List.contains_iff_mem.mp h
  · exact List.mem_append_right _ List.mem_cons_self

theorem opProducerLost_working {s : State} {c j : Nat} {t : Stage} (p : Nat) (hst : s.stageOf c = some (j, t))
    (hw : s.tick.windowOpen = false) (hj : (s.cell c).job.isSome = true) :
    opProducerLost c p s = ((s.bump F.celMesh_lost c).loseProducer j c p t).modProg j (fun q => { q with invalid := true }) := by
  have hact : (s.prog j).state = .active := active_of_stageOf hst
  unfold opProducerLost
  extract_lets u
  split
  · next hn => exact absurd (hn.symm.trans hst) (by simp)
  · next k g hg =>
    obtain ⟨rfl, rfl⟩ : k = j ∧ g = t := by
      have := Option.some.inj (hg.symm.trans hst)
      exact Prod.mk.inj this
    obtain ⟨⟨regs, cells, h⟩, -, -⟩ := loseProducer_own u k c p g
    refine (if_neg ?_).trans (if_neg ?_)
    · rw [show u.tick.windowOpen = false from hw, Option.isNone_eq_false_iff.mpr (show (u.cell c).job.isSome = true from hj)]
      decide
    · show ¬ ((u.loseProducer k c p g).outputsValid k || ((u.loseProducer k c p g).prog k).state != .active) = true
      rw [h]
      show ¬ ((s.tick.windowOpen && !s.tick.heldJobs.contains k) || (s.prog k).state != .active) = true
      rw [hw, hact]
      simp

/-- What the loss of a producer leaves. -/
structure ProducerLost (c j p : Nat) (s u : State) : Prop where
  invalid : (u.prog j).invalid = true
  rowsIn : (u.cell c).rowsIn = []
  rowsOut : (u.cell c).rowsOut = []
  lost : p ∈ (u.cell c).lost
  others : ∀ d, d ≠ c → u.cell d = s.cell d
  count : u.getF F.celMesh_lost c = min (s.getF F.celMesh_lost c + 1) (2 ^ 32 - 1)
  memories : sameMemories s u
  regs : ∀ f : Fld, f.reg = R.d2dErr → ∀ i, u.getF f i = s.getF f i

theorem opProducerLost_spec {s : State} {c j : Nat} {t : Stage} (p : Nat) (hst : s.stageOf c = some (j, t))
    (hw : s.tick.windowOpen = false) (hj : (s.cell c).job.isSome = true) : ProducerLost c j p s (opProducerLost c p s) := by
  rw [opProducerLost_working p hst hw hj]
  obtain ⟨⟨regs, cells, h⟩, hothers, hregs⟩ := loseProducer_own (s.bump F.celMesh_lost c) j c p t
  obtain ⟨hin, hout, hlost⟩ := loseProducer_cell (s.bump F.celMesh_lost c) j c p t
  refine ⟨?_, hin, hout, hlost, hothers, ?_, ?_, fun f hf i => ?_⟩
  · rw [State.modProg, prog_setProg_same]
  · exact (getF_of_regsIn hregs (f := F.celMesh_lost) (by decide) c).trans (getF_bump s F.celMesh_lost c 1 (by decide))
  · rw [h]
    exact ⟨rfl, rfl, rfl, rfl, rfl⟩
  · refine (getF_of_regsIn hregs (f := f) (by rw [hf]; decide) i).trans (getF_bump_off s F.celMesh_lost f c i 1 ?_)
    rw [hf]
    decide

theorem producerLost_working (c p : BitVec 10) (j : Nat) (g : Stage) (s : State) (hst : s.stageOf c.toNat = some (j, g))
    (hw : s.tick.windowOpen = false) (hj : (s.cell c.toNat).job.isSome = true) : completes (.producerLost c p) s (fun t =>
      (t.prog j).invalid = true ∧ (t.cell c.toNat).rowsIn = [] ∧ (t.cell c.toNat).rowsOut = [] ∧ p.toNat ∈ (t.cell c.toNat).lost ∧
      (∀ d, d ≠ c.toNat → t.cell d = s.cell d) ∧
      t.getF F.celMesh_lost c.toNat = min (s.getF F.celMesh_lost c.toNat + 1) (2 ^ 32 - 1) ∧ sameMemories s t) := by
  obtain ⟨u, hu⟩ : ∃ u, opProducerLost c.toNat p.toNat s.begin = u := ⟨_, rfl⟩
  have h : ProducerLost c.toNat j p.toNat s.begin u := hu ▸ opProducerLost_spec p.toNat (s := s.begin) hst hw hj
  exact completes_of_eq (f := opProducerLost c.toNat p.toNat) rfl hu
    ⟨h.invalid, h.rowsIn, h.rowsOut, h.lost, h.others, h.count, h.memories⟩

theorem producerLost_idle (c p : BitVec 10) (j : Nat) (g : Stage) (s : State) (hst : s.stageOf c.toNat = some (j, g))
    (hj : (s.cell c.toNat).job = none) : completes (.producerLost c p) s (fun t =>
      t.getF F.celMesh_lost c.toNat = min (s.getF F.celMesh_lost c.toNat + 1) (2 ^ 32 - 1) ∧ onlyRegs [regKey R.celMesh c.toNat] s t) := by
  have hop : opProducerLost c.toNat p.toNat s.begin = s.begin.bump F.celMesh_lost c.toNat := by
    unfold opProducerLost
    extract_lets u
    split
    · rfl
    · refine if_pos ?_
      rw [show (u.cell c.toNat).job = none from hj]
      simp
  exact completes_of_eq (f := opProducerLost c.toNat p.toNat) rfl hop ⟨getF_bump s.begin F.celMesh_lost c.toNat 1 (by decide),
    onlyRegs_of_putsRegs ((putsRegs_refl _ _).bump F.celMesh_lost c.toNat 1 List.mem_cons_self)⟩

/-! ## A row that arrives -/

theorem meshRow_blocked (c : BitVec 10) (j : Nat) (g : Stage) (s : State) (r : MeshRow) (now l : Nat)
    (hst : s.stageOf c.toNat = some (j, g)) (hw : s.tick.windowOpen = false) (hb : s.rowBlocked c.toNat r = some l)
    (hj : (s.cell c.toNat).job.isSome = true) : completes (.meshRow c ⟨r, now⟩) s (fun t =>
        (t.prog j).invalid = true ∧ (t.cell c.toNat).rowsIn = [] ∧ r.hdr.src.toNat ∈ (t.cell c.toNat).lost ∧
        t.getF F.d2dErr_wrapper l = min (s.getF F.d2dErr_wrapper l + 1) 65535 ∧ sameMemories s t) := by
  obtain ⟨u, hu⟩ : ∃ u, opProducerLost c.toNat r.hdr.src.toNat ((s.begin.at_ now).bump F.d2dErr_wrapper l) = u := ⟨_, rfl⟩
  have hop : opMeshRow c.toNat r now s.begin = u := by
    rw [← hu]
    unfold opMeshRow
    extract_lets v
    rw [show v.stageOf c.toNat = some (j, g) from hst, show v.rowBlocked c.toNat r = some l from hb]
  have h : ProducerLost c.toNat j r.hdr.src.toNat ((s.begin.at_ now).bump F.d2dErr_wrapper l) u := by
    rw [← hu]
    exact opProducerLost_spec r.hdr.src.toNat (s := (s.begin.at_ now).bump F.d2dErr_wrapper l) hst hw hj
  exact completes_of_eq (f := opMeshRow c.toNat r now) rfl hop ⟨h.invalid, h.rowsIn, h.lost,
    (h.regs F.d2dErr_wrapper rfl l).trans (getF_bump (s.begin.at_ now) F.d2dErr_wrapper l 1 (by decide)), h.memories⟩

theorem errsum_frame (s : State) (is : List Nat) (b : Nat) : s.errsum is b = { s with regs := (s.errsum is b).regs } := by
  have h : ∃ regs, s.errsum is b = { s with regs := regs } := by
    unfold State.errsum
    refine foldl_rel (r := fun s u : State => ∃ regs, u = { s with regs := regs }) (fun s => ⟨s.regs, rfl⟩) ?_ ?_ is s
    · rintro s _ _ ⟨regs, rfl⟩ ⟨regs', rfl⟩
      exact ⟨regs', rfl⟩
    · exact fun s i => ⟨_, rfl⟩
  obtain ⟨regs, h⟩ := h
  rw [h]

theorem getF_errsum (s : State) (is : List Nat) (b : Nat) (f : Fld) (i : Nat) (hf : F.shfErrsum_sources.reg.off / 8 ≠ f.reg.off / 8) :
    (s.errsum is b).getF f i = s.getF f i := by
  unfold State.errsum
  refine foldl_keeps (fun s => s.getF f i) ?_ is s
  exact fun s k => getF_putF_off s F.shfErrsum_sources f k i _ hf

theorem opMeshRow_free {c : Nat} {s : State} {e : Nat × Stage} (r : MeshRow) (now : Nat) (hst : s.stageOf c = some e)
    (hr : (s.cell c).inReset = false) (hb : s.rowBlocked c r = none) : opMeshRow c r now s =
      if s.staleRow r then ((s.at_ now).bump F.celMesh_epoch_drop c).errsum (s.sheafsOfJob e.1) 6
      else if s.tick.windowOpen || (s.cell c).stopped || (s.cell c).finished.isSome then s.at_ now
      else ((((s.at_ now).modCell c (fun x => { x with
        rowsIn := x.rowsIn ++ [r], idleAt := if x.started.isNone && x.rowsIn.isEmpty then max s.now now else x.idleAt })).bump
          F.celStat_rows_in c).showPass c).runFrom c := by
  unfold opMeshRow
  extract_lets v
  rw [show v.stageOf c = some (e.1, e.2) from hst, show v.rowBlocked c r = none from hb]
  refine (if_neg ?_).trans rfl
  rw [show (v.cell c).inReset = false from hr]
  decide

theorem meshRow_stale (c : BitVec 10) (j : Nat) (g : Stage) (s : State) (r : MeshRow) (now : Nat)
    (hst : s.stageOf c.toNat = some (j, g)) (hr : (s.cell c.toNat).inReset = false) (hb : s.rowBlocked c.toNat r = none)
    (hs : s.staleRow r = true) : completes (.meshRow c ⟨r, now⟩) s (fun t =>
        t.getF F.celMesh_epoch_drop c.toNat = min (s.getF F.celMesh_epoch_drop c.toNat + 1) (2 ^ 32 - 1) ∧ t.cells = s.cells ∧
        t = { s with regs := t.regs, out := [], now := max s.now now }) := by
  have hop := (opMeshRow_free (s := s.begin) r now hst hr hb).trans (if_pos hs)
  have hframe := errsum_frame ((s.begin.at_ now).bump F.celMesh_epoch_drop c.toNat) (s.begin.sheafsOfJob j) 6
  have hcount : (((s.begin.at_ now).bump F.celMesh_epoch_drop c.toNat).errsum (s.begin.sheafsOfJob j) 6).getF F.celMesh_epoch_drop c.toNat =
      min (s.getF F.celMesh_epoch_drop c.toNat + 1) (2 ^ 32 - 1) :=
    (getF_errsum _ _ _ F.celMesh_epoch_drop _ (by decide)).trans (getF_bump (s.begin.at_ now) F.celMesh_epoch_drop c.toNat 1 (by decide))
  obtain ⟨u, hu⟩ : ∃ u, ((s.begin.at_ now).bump F.celMesh_epoch_drop c.toNat).errsum (s.begin.sheafsOfJob j) 6 = u := ⟨_, rfl⟩
  rw [hu] at hframe hcount
  refine completes_of_eq (f := opMeshRow c.toNat r now) rfl (hop.trans hu) ⟨hcount, ?_, ?_⟩
  · rw [hframe]
    rfl
  · rw [hframe]
    rfl

/-! ## A row that is kept -/

/-- A stage that does not work has nothing to run. -/
theorem runStage_idle {s : State} {c : Nat} (h : s.works c = false) : s.runStage c = s := by
  unfold State.runStage
  split
  · rfl
  · next j t hj =>
    extract_lets before u v n
    have hu : u = s := if_neg (by rw [h]; simp)
    have hv : v = s := by
      dsimp only [v]
      rw [hu]
      generalize List.range t.opCount = is
      induction is with
      | nil => rfl
      | cons i is ih => rw [List.foldl_cons, if_neg (by rw [h]; simp), ih]
    have hn : n = before := by
      dsimp only [n]
      rw [hv]
    rw [if_neg (by rw [hn]; omega), hv]

theorem runFrom_idle {s : State} {c : Nat} (h : ∀ d ∈ c :: s.served c, s.works d = false) : s.runFrom c = s := by
  unfold State.runFrom
  rw [runStage_idle (h c List.mem_cons_self)]
  have hserved : ∀ d ∈ s.served c, s.works d = false := fun d hd => h d (List.mem_cons_of_mem _ hd)
  generalize s.served c = ds at hserved
  induction ds with
  | nil => rfl
  | cons d ds ih =>
    rw [List.foldl_cons, runStage_idle (hserved d List.mem_cons_self)]
    exact ih (fun e he => hserved e (List.mem_cons_of_mem _ he))

theorem showPass_frame (s : State) (c : Nat) : ∃ regs, s.showPass c = { s with regs := regs } ∧ sameRegs [regKey R.mxcStat c] s { s with regs := regs } := by
  unfold State.showPass
  extract_lets x
  split
  · split
    · exact ⟨_, rfl, sameRegs_putF F.mxcStat_busy c 1 (sameRegs_refl _ s) List.mem_cons_self⟩
    · exact ⟨s.regs, rfl, sameRegs_refl _ s⟩
  · exact ⟨s.regs, rfl, sameRegs_refl _ s⟩

/-- The row that a cell takes in. -/
def Cell.takeRow (x : Cell) (r : MeshRow) (now : Nat) : Cell :=
  { x with rowsIn := x.rowsIn ++ [r], idleAt := if x.started.isNone && x.rowsIn.isEmpty then now else x.idleAt }

theorem works_takeRow (s : State) (c d : Nat) (r : MeshRow) (now : Nat) :
    (s.setCell c ((s.cell c).takeRow r now)).works d = s.works d := by
  unfold State.works
  by_cases hd : c = d
  · subst hd
    rw [cell_setCell_same]
    rfl
  · rw [cell_setCell_ne s _ hd]
    rfl

theorem meshRow_kept (c : BitVec 10) (j : Nat) (g : Stage) (s : State) (r : MeshRow) (now : Nat)
    (hst : s.stageOf c.toNat = some (j, g)) (hw : s.tick.windowOpen = false) (hr : (s.cell c.toNat).inReset = false)
    (hb : s.rowBlocked c.toNat r = none) (hs : s.staleRow r = false) (hstop : (s.cell c.toNat).stopped = false)
    (hfin : (s.cell c.toNat).finished = none) (hidle : ∀ d ∈ c.toNat :: s.served c.toNat, s.works d = false) :
    completes (.meshRow c ⟨r, now⟩) s (fun t =>
      t.cell c.toNat = { s.cell c.toNat with
        rowsIn := (s.cell c.toNat).rowsIn ++ [r]
        idleAt := if (s.cell c.toNat).started.isNone && (s.cell c.toNat).rowsIn.isEmpty then max s.now now else (s.cell c.toNat).idleAt } ∧
      (∀ d, d ≠ c.toNat → t.cell d = s.cell d) ∧
      t.getF F.celStat_rows_in c.toNat = min (s.getF F.celStat_rows_in c.toNat + 1) 65535 ∧
      sameRegs [regKey R.celStat c.toNat, regKey R.mxcStat c.toNat] s t ∧
      t = { s with regs := t.regs, cells := t.cells, out := [], now := max s.now now }) := by
  obtain ⟨v, hv⟩ : ∃ v, v = (s.begin.at_ now).setCell c.toNat ((s.cell c.toNat).takeRow r (max s.now now)) := ⟨_, rfl⟩
  obtain ⟨regs, hpass, hregs⟩ := showPass_frame (v.bump F.celStat_rows_in c.toNat) c.toNat
  obtain ⟨u, hu⟩ : ∃ u, u = { v.bump F.celStat_rows_in c.toNat with regs := regs } := ⟨_, rfl⟩
  rw [← hu] at hpass hregs
  have huv : u = { v with regs := regs } := by
    rw [hu]
    rfl
  have hworks : ∀ d, u.works d = s.works d := by
    intro d
    rw [huv, hv]
    exact works_takeRow (s.begin.at_ now) c.toNat d r (max s.now now)
  have hserved : u.served c.toNat = s.served c.toNat := by
    rw [huv, hv]
    rfl
  have hrun : u.runFrom c.toNat = u := runFrom_idle (fun d hd => (hworks d).trans (hidle d (hserved ▸ hd)))
  have hop : opMeshRow c.toNat r now s.begin = u := by
    refine (opMeshRow_free (s := s.begin) r now hst hr hb).trans ((if_neg ?_).trans ((if_neg ?_).trans ?_))
    · rw [show s.begin.staleRow r = false from hs]
      decide
    · rw [show s.begin.tick.windowOpen = false from hw, show (s.begin.cell c.toNat).stopped = false from hstop,
        show (s.begin.cell c.toNat).finished = none from hfin]
      decide
    · rw [hv] at hpass
      exact (congrArg (fun w : State => w.runFrom c.toNat) hpass).trans hrun
  have hcell : u.cell c.toNat = (s.cell c.toNat).takeRow r (max s.now now) := by
    rw [huv, hv]
    exact cell_setCell_same ..
  refine completes_of_eq (f := opMeshRow c.toNat r now) rfl hop ⟨hcell, fun d hd => ?_, ?_, ?_, ?_⟩
  · rw [huv, hv]
    exact cell_setCell_ne (s.begin.at_ now) _ hd.symm
  · refine (getF_of_sameRegs hregs ?_).trans ?_
    · simp only [List.mem_singleton]
      exact fun h => absurd (congrArg (· / 65536) h) (by simp only [regKey_div]; decide)
    · rw [hv]
      exact getF_bump (s.begin.at_ now) F.celStat_rows_in c.toNat 1 (by decide)
  · have h1 : sameRegs [regKey R.celStat c.toNat, regKey R.mxcStat c.toNat] s (v.bump F.celStat_rows_in c.toNat) := by
      rw [hv]
      exact sameRegs_bump F.celStat_rows_in c.toNat 1 (sameRegs_of_regs (sameRegs_refl _ s) rfl) List.mem_cons_self
    intro d k hk
    exact (hregs d k (fun hm => hk (List.mem_cons_of_mem _ hm))).trans (h1 d k hk)
  · rw [huv, hv]
    rfl

/-- Settles O38: the row kept, dropped or blocked, and the producer lost. -/
theorem rowsAreKeptDroppedOrLost : Obligations.RowsAreKeptDroppedOrLost := by
  unfold Obligations.RowsAreKeptDroppedOrLost
  intro c j g s hst hw
  exact ⟨fun r now hr hb => ⟨fun hs hstop hfin hidle => meshRow_kept c j g s r now hst hw hr hb hs hstop hfin hidle,
    fun hs => meshRow_stale c j g s r now hst hr hb hs⟩, fun r now l hb hj => meshRow_blocked c j g s r now l hst hw hb hj,
    fun p hj => producerLost_idle c p j g s hst hj, fun p hj => producerLost_working c p j g s hst hw hj⟩

end Sys2Proof.Machine
end

section
/-! SUPPORT. A refutation: the Rake's own access to a cell's SRAM logs what it corrects (O39). -/
namespace Sys2Proof.Machine

/-- The Rake reads a word of a cell's SRAM after the reset and finds one bad bit. -/
def rakeReads (s : State) : State := opMemoryAccess .rake (.cellSram 0 0) 1 none [{ word := 0, fault := .single 0 }] 0 s

theorem rakeReads_counts : (rakeReads State.reset.begin).reg R.rakStat 0 ≠ State.reset.reg R.rakStat 0 := by decide +kernel

theorem reset_bucket_free : State.reset.getF F.celBkt_level (0 : BitVec 10).toNat + 1 < State.reset.thresh := by decide +kernel

/-- Refutes O39: a corrected bit in a cell's SRAM that the Rake itself meets is counted in RAK_STAT and logged as well, so that RAK_STAT, and not
the cell's bucket register alone, differs after the access. -/
theorem not_accessesReadAndWriteDeviceMemory : ¬ Obligations.AccessesReadAndWriteDeviceMemory := by
  unfold Obligations.AccessesReadAndWriteDeviceMemory
  intro h
  obtain ⟨-, -, hfixed⟩ := h .rake 0 State.reset
  obtain ⟨t, ht, -, -, -, hregs⟩ := hfixed 0 0 1 0 reset_bucket_free
  have hnext : exec (.memoryAccess .rake (.cellSram 0 0) 1 none [{ word := 0, fault := .single 0 }] 0) State.reset =
      .next { rakeReads State.reset.begin with pending := State.reset.pending } := rfl
  have htt : t = { rakeReads State.reset.begin with pending := State.reset.pending } := by
    have := ht.symm.trans hnext
    injection this
  have hword : t.reg R.rakStat 0 = State.reset.reg R.rakStat 0 := hregs (regReset R.rakStat 0) (regKey R.rakStat 0) (by decide)
  have hcount := rakeReads_counts
  clear hnext
  generalize rakeReads State.reset.begin = u at htt hcount
  rw [htt] at hword
  exact hcount hword

end Sys2Proof.Machine
end

section
/-! SUPPORT. An access to device memory that is served (R239, R247, R252, R295), the window through which the host makes it, and the statement on
the window (O13). -/
namespace Sys2Proof.Machine

/-! ## Forced refreshes -/

/-- Nothing but registers and channels differs, and no channel has lost other words. -/
def keepsLost (s u : State) : Prop :=
  (∃ regs chans, u = { s with regs := regs, chans := chans }) ∧ ∀ c, (u.chan c).lostWords = (s.chan c).lostWords

theorem keepsLost_refl (s : State) : keepsLost s s := ⟨⟨s.regs, s.chans, rfl⟩, fun _ => rfl⟩

theorem keepsLost_trans (s t u : State) (h : keepsLost s t) (h' : keepsLost t u) : keepsLost s u := by
  obtain ⟨⟨_, _, rfl⟩, hl⟩ := h
  obtain ⟨⟨regs, chans, rfl⟩, hl'⟩ := h'
  exact ⟨⟨regs, chans, rfl⟩, fun c => (hl' c).trans (hl c)⟩

theorem setOwed_lost (s : State) (c b n : Nat) : keepsLost s (s.setOwed c b n) := by
  refine ⟨⟨_, _, rfl⟩, fun d => ?_⟩
  show ((s.setChan c { s.chan c with owed := tput 0 (s.chan c).owed b n }).chan d).lostWords = _
  by_cases hd : c = d
  · subst hd
    rw [chan_setChan_same]
  · rw [chan_setChan_ne s _ hd]

theorem forceRefresh_lost (s : State) (c b : Nat) : keepsLost s (s.forceRefresh c b) := by
  unfold State.forceRefresh
  extract_lets n
  split
  · exact keepsLost_refl s
  · exact keepsLost_trans _ _ _ (setOwed_lost s c b 7) ⟨⟨_, _, rfl⟩, fun _ => rfl⟩

theorem forceRefreshes_lost (s : State) (a n : Nat) : keepsLost s (s.forceRefreshes a n) := by
  unfold State.forceRefreshes
  split
  · refine foldl_rel keepsLost_refl keepsLost_trans ?_ _ s
    exact fun v b => forceRefresh_lost ..
  · exact keepsLost_refl s

theorem forceRefreshes_none {s : State} (h : ∀ e ∈ s.chans, ∀ o ∈ e.2.owed, o.2 < 8) (a n : Nat) : s.forceRefreshes a n = s := by
  refine if_neg ?_
  simp only [List.any_eq_true, not_exists, not_and, decide_eq_true_eq, Nat.not_le]
  exact fun e he o ho => h e he o ho

theorem wordErr_of_keepsLost {s u : State} (h : keepsLost s u) (w : Nat) : u.wordErr w = s.wordErr w := by
  obtain ⟨⟨regs, chans, hu⟩, hl⟩ := h
  have hlost : u.isLost w = s.isLost w := by rw [State.isLost, State.isLost, hl]
  have herr : u.loftErr = s.loftErr := by rw [hu]
  rw [State.wordErr, State.wordErr, hlost, herr]

/-! ## An access that is served -/

theorem partWords_subset (s : State) (a n w : Nat) (h : w ∈ s.partWords a n) : w ∈ s.wordsTouched a n := (List.mem_filter.mp h).1

theorem wordsTouched_of_keepsLost {s u : State} (h : keepsLost s u) (a n : Nat) : u.wordsTouched a n = s.wordsTouched a n := by
  obtain ⟨⟨_, _, rfl⟩, -⟩ := h
  rfl

theorem partWords_of_keepsLost {s u : State} (h : keepsLost s u) (a n : Nat) : u.partWords a n = s.partWords a n := by
  obtain ⟨⟨_, _, rfl⟩, -⟩ := h
  rfl

/-- Where every word is as it should be, none is met with an error. -/
theorem metWords_none {s u : State} {x : WaitAcc} (hl : keepsLost s u) (hw : ∀ w ∈ s.wordsTouched x.addr x.bytes, s.wordErr w = 0) {v : Nat}
    (hv : v ≠ 0) : (if x.write.isSome then u.partWords x.addr x.bytes else u.wordsTouched x.addr x.bytes).filter
      (fun w => u.wordErr w == v) = [] := by
  rw [wordsTouched_of_keepsLost hl, partWords_of_keepsLost hl, List.filter_eq_nil_iff]
  intro w hm
  rw [wordErr_of_keepsLost hl, hw w (by
    split at hm
    · exact partWords_subset s _ _ w hm
    · exact hm)]
  simpa using hv.symm

theorem isLost_of_wordErr {s : State} {w : Nat} (h : s.wordErr w = 0) : s.isLost w = false := by
  cases hl : s.isLost w
  · rfl
  · rw [State.wordErr, hl] at h
    cases h

theorem writeDev_frame (s : State) {a : Nat} {bs : List Byte} (hp : isPhys a = true) (hw : ∀ w ∈ s.wordsTouched a bs.length, s.isLost w = false) :
    ∃ loftErr, s.writeDev a bs = { s with devMem := mblock s.devMem a bs, loftErr := loftErr } := by
  unfold State.writeDev
  extract_lets -merge +onlyGivenNames parts whole part mem s1 s2
  have hwhole : whole.filter s2.isLost = [] := by
    rw [List.filter_eq_nil_iff]
    intro w hm
    rw [show s2.isLost w = s.isLost w from rfl, hw w (List.mem_filter.mp hm).1]
    decide
  have hmem : mem = mblock s.devMem a bs := if_pos hp
  refine ⟨s2.loftErr, ?_⟩
  rw [hwhole, ← hmem]
  rfl

section
variable {s : State} {x : WaitAcc} (hf : x.found = []) (ha : s.addrError x.addr x.bytes = false) (he : s.accessErr x x.bytes = false)
variable (hw : ∀ w ∈ s.wordsTouched x.addr x.bytes, s.wordErr w = 0)
include hf ha he hw

/-- With no error in its words an access is served from the words as they are. -/
theorem serve_clean : s.serve x = (match x.write with
    | some bs => ((s.forceRefreshes x.addr x.bytes).writeDev x.addr bs).answerAcc x []
    | none => (s.forceRefreshes x.addr x.bytes).answerAcc x ((s.forceRefreshes x.addr x.bytes).readDev x.addr x.bytes)) := by
  have hlost := forceRefreshes_lost s x.addr x.bytes
  unfold State.serve
  extract_lets -merge +onlyGivenNames n u ws v
  have hu : u = s.forceRefreshes x.addr x.bytes := by
    dsimp only [u]
    rw [hf]
    rfl
  rw [← hu] at hlost ⊢
  have hv : v = u := by
    dsimp only [v, ws]
    rw [metWords_none hlost hw (by decide)]
    rfl
  have hbad : ws.filter (fun w => v.wordErr w == 2) = [] := by
    rw [hv]
    exact metWords_none hlost hw (by decide)
  rw [if_neg (by rw [ha]; decide), if_neg (by rw [he]; decide), hbad, hv]
  cases x.write <;> rfl

variable (hp : isPhys x.addr = true)
include hp

theorem serve_read (hn : x.write = none) : ∃ regs chans, s.serve x =
      ({ s with regs := regs, chans := chans } : State).answerAcc x (mread s.devMem x.addr x.bytes) ∧
    ((∀ e ∈ s.chans, ∀ o ∈ e.2.owed, o.2 < 8) → { s with regs := regs, chans := chans } = s) := by
  obtain ⟨⟨regs, chans, h⟩, -⟩ := forceRefreshes_lost s x.addr x.bytes
  refine ⟨regs, chans, ?_, fun hno => h.symm.trans (forceRefreshes_none hno ..)⟩
  rw [serve_clean hf ha he hw, hn, h]
  exact congrArg (State.answerAcc _ x) (if_pos hp)

theorem serve_write {bs : List Byte} (hb : x.write = some bs) : ∃ regs chans loftErr, s.serve x = ({ s with
      regs := regs, chans := chans, devMem := mblock s.devMem x.addr bs, loftErr := loftErr } : State).answerAcc x [] ∧
    ((∀ e ∈ s.chans, ∀ o ∈ e.2.owed, o.2 < 8) → regs = s.regs ∧ chans = s.chans) := by
  have hbytes : x.bytes = bs.length := by rw [WaitAcc.bytes, hb]
  have hlost := forceRefreshes_lost s x.addr x.bytes
  have hclean : ∀ w ∈ (s.forceRefreshes x.addr x.bytes).wordsTouched x.addr bs.length,
      (s.forceRefreshes x.addr x.bytes).isLost w = false := by
    intro w hm
    rw [← hbytes, wordsTouched_of_keepsLost hlost] at hm
    exact isLost_of_wordErr ((wordErr_of_keepsLost hlost w).trans (hw w hm))
  obtain ⟨loftErr, hwrite⟩ := writeDev_frame (s.forceRefreshes x.addr x.bytes) hp hclean
  have hnone := fun hno => forceRefreshes_none (s := s) hno x.addr x.bytes
  obtain ⟨⟨regs, chans, h⟩, -⟩ := hlost
  rw [h] at hwrite hnone
  refine ⟨regs, chans, loftErr, ?_, fun hno => ⟨congrArg State.regs (hnone hno), congrArg State.chans (hnone hno)⟩⟩
  rw [serve_clean hf ha he hw, hb, h]
  exact congrArg (fun u : State => u.answerAcc x []) hwrite

end

/-! ## The window (R363, R364, R412, R431) -/

theorem opBar4Read_open {off n : Nat} {s : State} (h : s.windowShut = false) : opBar4Read off n [] s =
    if n = 0 ∧ (s.winAddr off n).isSome then s.send (.readData 0 []) else s.accessDev (s.windowAcc off n none) :=
  if_neg (by rw [h]; decide)

theorem opBar4Write_open {off : Nat} {bs : List Byte} {s : State} (h : s.windowShut = false) : opBar4Write off bs [] s =
    if bs.isEmpty ∧ (s.winAddr off 0).isSome then s else s.accessDev (s.windowAcc off bs.length (some bs)) :=
  if_neg (by rw [h]; decide)

/-- The window's device address. -/
theorem winAddr_some {s : State} {off n a : Nat} (h : s.winAddr off n = some a) : a = s.getF F.hstWin_base + off ∧ a < 2 ^ 41 := by
  unfold State.winAddr at h
  extract_lets b at h
  split at h
  · have := Option.some.inj h
    subst this
    exact ⟨rfl, by omega⟩
  · cases h

theorem windowAcc_addr {s : State} {off n a : Nat} (wr : Option (List Byte)) (h : s.winAddr off n = some a) :
    s.windowAcc off n wr = { reader := .host 0, addr := a, len := n, write := wr, since := s.now, bar4 := some off } := by
  rw [State.windowAcc, h]
  rfl

theorem accessDev_now {s : State} {x : WaitAcc} (h : s.mustWait { x with no := s.arrivals } = false) :
    s.accessDev x = s.serve { x with no := s.arrivals } := if_neg (ne_true_of_eq_false h)

section
variable {off : BitVec 41} {s : State} {a : Nat}

theorem window_shut (hs : s.windowShut = true) :
    (∀ n : Nat, (s.perstOn || s.start.loading) = false → completes (.bar4Read off n []) s (fun t =>
      t = { s with out := [.readData 1 []] })) ∧
    (∀ n : Nat, (s.perstOn || s.start.loading) = true → idles (.bar4Read off n []) s) ∧
    (∀ bs : List Byte, idles (.bar4Write off bs []) s) := by
  refine ⟨fun n hd => ?_, fun n hd => ?_, fun bs => ?_⟩
  · have hop : opBar4Read off.toNat n [] s.begin = s.begin.send (.readData 1 []) :=
      (if_pos hs).trans (if_neg (by rw [show (s.begin.perstOn || s.begin.start.loading) = false from hd]; decide))
    exact completes_of_eq (f := opBar4Read off.toNat n []) rfl hop rfl
  · exact idles_of_run (f := opBar4Read off.toNat n []) rfl ((if_pos hs).trans (if_pos hd))
  · exact idles_of_run (f := opBar4Write off.toNat bs []) rfl (if_pos hs)

variable (hs : s.windowShut = false)
include hs

theorem window_read {n : Nat} (ha : s.winAddr off.toNat n = some a) (he : s.addrError a n = false) (hr : s.errResponse a n = false)
    (hm : s.mustWait { s.windowAcc off.toNat n none with no := s.arrivals } = false) (hw : ∀ w ∈ s.wordsTouched a n, s.wordErr w = 0) :
    completes (.bar4Read off n []) s (fun t =>
        t.out = [.readData 0 (mread s.devMem (s.getF F.hstWin_base + off.toNat) n)] ∧ sameMemories s t ∧ t.ctl = s.ctl ∧ t.cells = s.cells ∧
        ((∀ e ∈ s.chans, ∀ o ∈ e.2.owed, o.2 < 8) → t = { s with out := t.out })) := by
  obtain ⟨hbase, hlt⟩ := winAddr_some ha
  have hop := opBar4Read_open (off := off.toNat) (n := n) (s := s.begin) hs
  rw [windowAcc_addr (s := s) none ha] at hm
  by_cases h0 : n = 0
  · rw [if_pos ⟨h0, by rw [show s.begin.winAddr off.toNat n = some a from ha]; rfl⟩] at hop
    refine completes_of_eq (f := opBar4Read off.toNat n []) rfl hop ⟨?_, ⟨rfl, rfl, rfl, rfl, rfl⟩, rfl, rfl, fun _ => rfl⟩
    rw [h0]
    rfl
  · rw [if_neg (fun h => h0 h.1), windowAcc_addr (s := s.begin) none ha] at hop
    obtain ⟨regs, chans, hserve, hnone⟩ := serve_read (s := s.begin)
      (x := { reader := .host 0, addr := a, len := n, since := s.now, bar4 := some off.toNat, no := s.arrivals }) rfl he hr hw
      (decide_eq_true hlt) rfl
    have hdev : opBar4Read off.toNat n [] s.begin = _ := hop.trans ((accessDev_now (s := s.begin) hm).trans hserve)
    refine completes_of_eq (f := opBar4Read off.toNat n []) rfl hdev ⟨?_, ⟨rfl, rfl, rfl, rfl, rfl⟩, rfl, rfl, fun hno => ?_⟩
    · rw [← hbase]
      rfl
    · have h := hnone hno
      have hregs : regs = s.regs := congrArg State.regs h
      have hchans : chans = s.chans := congrArg State.chans h
      rw [hregs, hchans]
      rfl

theorem window_write {bs : List Byte} (ha : s.winAddr off.toNat bs.length = some a) (he : s.addrError a bs.length = false)
    (hr : s.errResponse a bs.length = false) (hm : s.mustWait { s.windowAcc off.toNat bs.length (some bs) with no := s.arrivals } = false)
    (hw : ∀ w ∈ s.wordsTouched a bs.length, s.wordErr w = 0) : completes (.bar4Write off bs []) s (fun t =>
        (∀ (i : Nat) (h : i < bs.length), mget t.devMem (s.getF F.hstWin_base + off.toNat + i) = bs[i]) ∧
        (∀ b : Nat, b < s.getF F.hstWin_base + off.toNat ∨ s.getF F.hstWin_base + off.toNat + bs.length ≤ b →
          mget t.devMem b = mget s.devMem b) ∧
        t.out = [] ∧ t.hostMem = s.hostMem ∧ t.ctl = s.ctl ∧ t.cells = s.cells ∧
        ((∀ e ∈ s.chans, ∀ o ∈ e.2.owed, o.2 < 8) → t = { s with devMem := t.devMem, loftErr := t.loftErr, out := [] })) := by
  obtain ⟨hbase, hlt⟩ := winAddr_some ha
  have hop := opBar4Write_open (off := off.toNat) (bs := bs) (s := s.begin) hs
  rw [windowAcc_addr (s := s) (some bs) ha] at hm
  by_cases h0 : bs = []
  · subst h0
    rw [if_pos ⟨rfl, by rw [show s.begin.winAddr off.toNat 0 = some a from ha]; rfl⟩] at hop
    exact completes_of_eq (f := opBar4Write off.toNat [] []) rfl hop
      ⟨fun i h => absurd h (Nat.not_lt_zero i), fun _ _ => rfl, rfl, rfl, rfl, rfl, fun _ => rfl⟩
  · rw [if_neg (fun h => h0 (List.isEmpty_iff.mp h.1)), windowAcc_addr (s := s.begin) (some bs) ha] at hop
    obtain ⟨regs, chans, loftErr, hserve, hnone⟩ := serve_write (s := s.begin) (bs := bs)
      (x := { reader := .host 0, addr := a, len := bs.length, write := some bs, since := s.now, bar4 := some off.toNat, no := s.arrivals })
      rfl he hr hw (decide_eq_true hlt) rfl
    have hdev : opBar4Write off.toNat bs [] s.begin = _ := hop.trans ((accessDev_now (s := s.begin) hm).trans hserve)
    rw [← hbase]
    refine completes_of_eq (f := opBar4Write off.toNat bs []) rfl hdev ⟨fun i h => mget_mblock_inside s.devMem a i bs h,
      fun b hb => mget_mblock_outside s.devMem a b bs hb, rfl, rfl, rfl, rfl, fun hno => ?_⟩
    obtain ⟨hregs, hchans⟩ := hnone hno
    rw [hregs, hchans]
    rfl

theorem window_waits {n : Nat} (ha : s.winAddr off.toNat n = some a) (h0 : n ≠ 0)
    (hm : s.mustWait { s.windowAcc off.toNat n none with no := s.arrivals } = true) : completes (.bar4Read off n []) s (fun t =>
        (∃ w, t.accWait = s.accWait ++ [w] ∧ w.addr = a ∧ w.len = n ∧ w.write = none ∧ w.bar4 = some off.toNat ∧ w.no = s.arrivals) ∧
        t = { s with accWait := t.accWait, arrivals := s.arrivals + 1, out := [] }) := by
  have hop := (opBar4Read_open (off := off.toNat) (n := n) (s := s.begin) hs).trans (if_neg (fun h => h0 h.1))
  rw [windowAcc_addr (s := s) none ha] at hm
  rw [windowAcc_addr (s := s.begin) none ha] at hop
  have hdev : opBar4Read off.toNat n [] s.begin = _ := hop.trans (if_pos hm)
  exact completes_of_eq (f := opBar4Read off.toNat n []) rfl hdev ⟨⟨_, rfl, rfl, rfl, rfl, rfl, rfl⟩, rfl⟩

end

/-- Settles O13: the window shut, an access that is served, and one that waits. -/
theorem theWindowReadsAndWritesDeviceMemory : Obligations.TheWindowReadsAndWritesDeviceMemory := by
  unfold Obligations.TheWindowReadsAndWritesDeviceMemory
  intro off s a
  exact ⟨fun hs => window_shut hs, fun hs => ⟨fun n ha he hr hm hw => window_read hs ha he hr hm hw,
    fun bs ha he hr hm hw => window_write hs ha he hr hm hw, fun n ha h0 hm => window_waits hs ha h0 hm⟩⟩

end Sys2Proof.Machine
end

section
/-! SUPPORT. A refutation: a leak also lets a channel ask for its urgent retrain again (O40). -/
namespace Sys2Proof.Machine

/-- A channel whose bucket stands at level 1, and which has asked for an urgent retrain since its bucket was half full. -/
def State.asked (s : State) : State := { s with halfAsked := [0] }.putF F.vccBkt_level 0 1

theorem asked_level (s : State) : s.asked.begin.getF F.vccBkt_level 0 = 1 :=
  getF_putF_same { s with halfAsked := [0] } F.vccBkt_level 0 1 (by decide)

theorem asked_halfAsked (s : State) : s.asked.halfAsked = [0] := rfl

/-- What the next state of a command is. -/
theorem next_of_run {c : Instr} {s t u : State} {f : State → State} (h : exec c s = run f s) (hf : f s.begin = u) (ht : exec c s = .next t) :
    t = { u with pending := s.pending } := by
  rw [h, run_eq, hf] at ht
  injection ht with ht
  exact ht.symm

theorem leak_halfAsked_subset (s : State) (b : BucketId) (c : Nat) (h : c ∈ (s.leak b).halfAsked) : c ∈ s.halfAsked := by
  unfold State.leak at h
  extract_lets lv u v at h
  have hv : c ∈ v.halfAsked → c ∈ s.halfAsked := by
    intro hm
    dsimp only [v] at hm
    split at hm
    · split at hm
      · exact (List.mem_filter.mp hm).1
      · exact hm
    · exact hm
  split at h
  · exact h
  · split at h
    · exact hv h
    · exact hv h

theorem foldl_leak_halfAsked_subset (bs : List BucketId) (s : State) (c : Nat) (h : c ∈ (bs.foldl State.leak s).halfAsked) :
    c ∈ s.halfAsked := by
  induction bs generalizing s with
  | nil => exact h
  | cons b bs ih => exact leak_halfAsked_subset s b c (ih _ h)

/-- A channel's leak from level 1 forgets that it has asked. -/
theorem leak_chan_forgets (s : State) (c : Nat) (h : s.getF F.vccBkt_level c = 1) : c ∉ (s.leak (.chan c)).halfAsked := by
  unfold State.leak
  extract_lets lv u v
  have hlv : lv = 1 := h
  have hv : c ∉ v.halfAsked := by
    dsimp only [v]
    rw [hlv, if_pos (Nat.zero_le _)]
    intro hm
    simpa using (List.mem_filter.mp hm).2
  rw [if_neg (by rw [hlv]; decide)]
  split
  · exact hv
  · exact hv

theorem allBuckets_eq : ∃ rest, allBuckets = BucketId.chan 0 :: rest := by
  rw [allBuckets, allCells, List.range_succ_eq_map]
  exact ⟨_, rfl⟩

theorem allBuckets_forget {s : State} (h : s.getF F.vccBkt_level 0 = 1) : 0 ∉ (allBuckets.foldl State.leak s).halfAsked := by
  obtain ⟨rest, hrest⟩ := allBuckets_eq
  rw [hrest, List.foldl_cons]
  exact fun hm => leak_chan_forgets s 0 h (foldl_leak_halfAsked_subset rest _ 0 hm)

/-- Refutes O40: a leak from level 1 also lets the channel ask for its urgent retrain again, so that another field than the registers and the
full buckets differs after it. -/
theorem not_refreshesAreOwedAndBucketsLeak : ¬ Obligations.RefreshesAreOwedAndBucketsLeak := by
  unfold Obligations.RefreshesAreOwedAndBucketsLeak
  intro h
  obtain ⟨askedState, hasked⟩ : ∃ u, u = State.reset.asked := ⟨_, rfl⟩
  obtain ⟨-, t, ht, -, -, hframe⟩ := h askedState
  have hlevel : askedState.begin.getF F.vccBkt_level 0 = 1 := by
    rw [hasked]
    exact asked_level State.reset
  obtain ⟨u, hu⟩ : ∃ u, allBuckets.foldl State.leak askedState.begin = u := ⟨_, rfl⟩
  have hgone : 0 ∉ u.halfAsked := by
    rw [← hu]
    exact allBuckets_forget hlevel
  have htt := next_of_run (f := fun s => allBuckets.foldl State.leak s) rfl hu ht
  have hkept : t.halfAsked = [0] := (congrArg State.halfAsked hframe).trans (by rw [hasked]; exact asked_halfAsked State.reset)
  refine hgone ?_
  rw [show u.halfAsked = t.halfAsked from (congrArg State.halfAsked htt).symm, hkept]
  exact List.mem_cons_self

end Sys2Proof.Machine
end

section
/-! SUPPORT. What goes on when nothing waits for memory (R260, R287), the training of a channel (R257 to R260), and the statement on it (O41). -/
namespace Sys2Proof.Machine

/-! ## Nothing waits -/

theorem mem_tput {α : Type} [DecidableEq α] {d v : α} {t : Tbl α} {i : Nat} {e : Nat × α} (h : e ∈ tput d t i v) : e ∈ t ∨ e = (i, v) := by
  induction t with
  | nil =>
    rw [tput] at h
    split at h
    · cases h
    · exact .inr (List.mem_singleton.mp h)
  | cons x t ih =>
    obtain ⟨k, w⟩ := x
    have hrest : ∀ u, (u = (k, w) :: tput d t i v ∨ u = tput d t i v) → e ∈ u → e ∈ (k, w) :: t ∨ e = (i, v) := by
      rintro u (rfl | rfl) hm
      · rcases List.mem_cons.mp hm with hm | hm
        · exact .inl (hm ▸ List.mem_cons_self)
        · exact (ih hm).imp_left (List.mem_cons_of_mem _)
      · exact (ih hm).imp_left (List.mem_cons_of_mem _)
    rw [tput] at h
    split at h
    · split at h
      · exact hrest _ (.inr rfl) h
      · exact hrest _ (.inl rfl) h
    · split at h
      · rcases List.mem_cons.mp h with h | h
        · exact .inr h
        · exact .inl h
      · split at h
        · rcases List.mem_cons.mp h with h | h
          · exact .inr h
          · exact .inl (List.mem_cons_of_mem _ h)
        · exact hrest _ (.inl rfl) h

theorem resumeCells_idle {s : State} (h : stagesGo s) : s.resumeCells = s := by
  obtain ⟨hloads, hcells⟩ := h
  have hload : s.resumeLoads true = s := by
    rw [State.resumeLoads, hloads, List.foldl_nil, ← hloads]
  have hnone : s.cells.filter (fun e => e.2.memHeld.isSome || !e.2.flailSince.isEmpty) = [] := by
    rw [List.filter_eq_nil_iff]
    intro e he
    obtain ⟨h1, h2⟩ := hcells e he
    rw [h1, h2]
    decide
  rw [State.resumeCells, hnone, hload]
  rfl

theorem goOn_idle {s : State} (ha : s.accWait = []) (hs : stagesGo s) (hf : ∀ e ∈ s.chans, ∀ f ∈ e.2.flails, f.running = true) :
    s.goOn = s := by
  have hnone : s.chans.filter (fun e => e.2.flails.any (fun f => !f.running)) = [] := by
    rw [List.filter_eq_nil_iff]
    intro e he
    simp only [List.any_eq_true, not_exists, not_and]
    intro f hm
    rw [hf e he f hm]
    decide
  rw [State.goOn, ha, List.foldl_nil, ← ha, resumeCells_idle (s := s) hs, State.startAll, hnone]
  rfl

theorem errAll_idle {s : State} {c : Nat} (h : nothingWaitsAt c s) : s.errAll c = s := by
  obtain ⟨hacc, hs⟩ := h
  have hnone : s.accWait.filter (fun a => (s.chansTouched a.addr (max a.bytes 1)).contains c) = [] := by
    rw [List.filter_eq_nil_iff]
    exact fun a ha hc => hacc a ha (List.contains_iff_mem.mp hc)
  have hall : s.accWait.filter (fun a => !([] : List WaitAcc).contains a) = s.accWait := List.filter_eq_self.mpr (fun _ _ => rfl)
  unfold State.errAll
  extract_lets mine
  have hmine : mine = [] := hnone
  rw [hmine, hall]
  exact resumeCells_idle hs

/-! ## Asked for (R258) -/

theorem scheduledRetrain_asks (ch : BitVec 10) (now : Nat) (s : State) (hst : s.chanState ch.toNat ≠ vccRetired)
    (hw : (s.chan ch.toNat).want = false)
    (hd : (s.chan ch.toNat).lastTrainAt + s.getF F.vccRetrain_interval_ms * 1000000 ≤ now ∨
      (∃ e ∈ (s.loftTemps ch.toNat).zip (s.chan ch.toNat).lastTemps, 16 * s.getF F.vccRetrain_delta_c ≤ (e.1 - e.2).natAbs)) :
    completes (.scheduledRetrain ch now) s (fun t =>
        t.chan ch.toNat = { s.chan ch.toNat with want := true } ∧ t.onF F.vccTrain_pending ch.toNat = true ∧
        (∀ d, d ≠ ch.toNat → t.chan d = s.chan d) ∧ sameRegs [regKey R.vccTrain ch.toNat] s t ∧
        t = { s with regs := t.regs, chans := t.chans, out := [], now := max s.now now }) := by
  have hdue : s.retrainDue ch.toNat now = true := by
    rw [State.retrainDue, Bool.or_eq_true, decide_eq_true_eq, List.any_eq_true]
    refine hd.imp_right ?_
    rintro ⟨e, he, hle⟩
    exact ⟨e, he, decide_eq_true hle⟩
  have hop : opScheduledRetrain ch.toNat now s.begin =
      ((s.begin.at_ now).modChan ch.toNat (fun x => { x with want := true })).putF F.vccTrain_pending ch.toNat 1 := by
    refine if_neg ?_
    rw [show (s.begin.at_ now).retrainDue ch.toNat now = true from hdue, show ((s.begin.at_ now).chan ch.toNat).want = false from hw]
    rintro (h | h | h)
    · exact hst h
    · cases h
    · cases h
  refine completes_of_eq (f := opScheduledRetrain ch.toNat now) rfl hop ⟨chan_setChan_same .., ?_, ?_, ?_, rfl⟩
  · exact onF_of_bit (b := true) (getF_putF_same _ F.vccTrain_pending ch.toNat 1 (by decide))
  · exact fun d hne => chan_setChan_ne (s.begin.at_ now) _ hne.symm
  · exact sameRegs_putF (t := (s.begin.at_ now).modChan ch.toNat (fun x => { x with want := true })) F.vccTrain_pending ch.toNat 1
      (sameRegs_of_regs (sameRegs_refl _ s) rfl) List.mem_cons_self

theorem scheduledRetrain_idle (ch : BitVec 10) (now : Nat) (s : State)
    (h : (s.chan ch.toNat).want = true ∨ s.retrainDue ch.toNat now = false) : idlesAt (.scheduledRetrain ch now) now s := by
  refine idlesAt_of_run (f := opScheduledRetrain ch.toNat now) rfl (if_pos ?_)
  rcases h with h | h
  · exact .inr (.inl h)
  · exact .inr (.inr (by rw [show (s.begin.at_ now).retrainDue ch.toNat now = false from h]; rfl))

theorem channelRetrainRequest_asks (by_ : Requester) (c : Nat) (s : State) (hw : s.writes by_ R.vccCtl.off = true)
    (hc : c = s.sel by_ F.vccSel_channel) (hst : s.chanState c ≠ vccRetired) : completes (.channelRetrainRequest by_) s (fun t =>
      t.onF F.vccCtl_retrain c = true ∧ t.onF F.vccTrain_pending c = true ∧ t.onF F.vccTrain_urgent c = true ∧
      t.chan c = { s.chan c with want := true, wantUrgent := true } ∧ sameRegs [regKey R.vccCtl c, regKey R.vccTrain c] s t) := by
  have hop : (fun s : State => if s.writes by_ R.vccCtl.off then opChannelRetrain (s.sel by_ F.vccSel_channel) s else s) s.begin =
      (s.begin.putF F.vccCtl_retrain c 1).urgentRetrain c := by
    refine (if_pos hw).trans ?_
    rw [show s.begin.sel by_ F.vccSel_channel = c from hc.symm]
    exact if_neg hst
  refine completes_of_eq (f := fun s => if s.writes by_ R.vccCtl.off then opChannelRetrain (s.sel by_ F.vccSel_channel) s else s) rfl hop
    ⟨?_, ?_, ?_, chan_setChan_same .., ?_⟩
  · exact onF_of_bit (b := true) ((getF_putF_off _ F.vccTrain_urgent F.vccCtl_retrain c c 1 (by decide)).trans
      ((getF_putF_off _ F.vccTrain_pending F.vccCtl_retrain c c 1 (by decide)).trans (getF_putF_same s.begin F.vccCtl_retrain c 1 (by decide))))
  · exact onF_of_bit (b := true) ((getF_putF_apart _ F.vccTrain_urgent F.vccTrain_pending c 1 rfl (by decide)).trans
      (getF_putF_same _ F.vccTrain_pending c 1 (by decide)))
  · exact onF_of_bit (b := true) (getF_putF_same _ F.vccTrain_urgent c 1 (by decide))
  · have h1 : sameRegs [regKey R.vccCtl c, regKey R.vccTrain c] s ((s.begin.putF F.vccCtl_retrain c 1).modChan c
        (fun x => { x with want := true, wantUrgent := true })) :=
      sameRegs_of_regs (t := s.begin.putF F.vccCtl_retrain c 1)
        (sameRegs_putF F.vccCtl_retrain c 1 (sameRegs_of_regs (sameRegs_refl _ s) s.begin_regs) List.mem_cons_self) rfl
    exact sameRegs_putF F.vccTrain_urgent c 1 (sameRegs_putF F.vccTrain_pending c 1 h1 (List.mem_cons_of_mem _ List.mem_cons_self))
      (List.mem_cons_of_mem _ List.mem_cons_self)

theorem channelRetrainRequest_retired (by_ : Requester) (c : Nat) (s : State) (hw : s.writes by_ R.vccCtl.off = true)
    (hc : c = s.sel by_ F.vccSel_channel) (hst : s.chanState c = vccRetired) : idles (.channelRetrainRequest by_) s := by
  refine idles_of_run (f := fun s => if s.writes by_ R.vccCtl.off then opChannelRetrain (s.sel by_ F.vccSel_channel) s else s) rfl ?_
  refine (if_pos hw).trans ?_
  rw [show s.begin.sel by_ F.vccSel_channel = c from hc.symm]
  exact if_pos hst

/-! ## A hold that lasts (R260) -/

theorem holdTimeout_fails (ch : BitVec 10) (now t0 : Nat) (s : State) (hh : (s.chan ch.toNat).heldSince = some t0)
    (hst : s.chanState ch.toNat = vccHeld) (hn : t0 + s.guardNs ≤ now) (hw : nothingWaitsAt ch.toNat s) :
    completes (.channelHoldTimeout ch now) s (fun t =>
          t.chan ch.toNat = { s.chan ch.toNat with retrainStart := none, heldSince := none, retirePending := some 2 } ∧
          (∀ d, d ≠ ch.toNat → t.chan d = s.chan d) ∧ t = { s with chans := t.chans, out := [], now := max s.now now }) := by
  have hop : opHoldTimeout ch.toNat now s.begin = (s.begin.at_ now).modChan ch.toNat
      (fun x => { x with retrainStart := none, heldSince := none, retirePending := some 2 }) := by
    unfold opHoldTimeout
    extract_lets s0
    split
    · next t ht =>
      obtain rfl : t = t0 := Option.some.inj (ht.symm.trans hh)
      refine (if_neg ?_).trans (errAll_idle hw)
      rw [show s0.chanState ch.toNat = vccHeld from hst, show s0.guardNs = s.guardNs from rfl, decide_eq_false (by omega)]
      decide
    · next hne => exact absurd (hne.symm.trans hh) (by simp)
  exact completes_of_eq (f := opHoldTimeout ch.toNat now) rfl hop
    ⟨chan_setChan_same .., fun d hne => chan_setChan_ne (s.begin.at_ now) _ hne.symm, rfl⟩

theorem holdTimeout_idle (ch : BitVec 10) (now t0 : Nat) (s : State) (hh : (s.chan ch.toNat).heldSince = some t0)
    (h : s.chanState ch.toNat ≠ vccHeld ∨ now < t0 + s.guardNs) : idlesAt (.channelHoldTimeout ch now) now s := by
  refine idlesAt_of_run (f := opHoldTimeout ch.toNat now) rfl ?_
  unfold opHoldTimeout
  extract_lets s0
  split
  · next t ht =>
    obtain rfl : t = t0 := Option.some.inj (ht.symm.trans hh)
    refine if_pos ?_
    rcases h with h | h
    · rw [show (s0.chanState ch.toNat != vccHeld) = true from bne_iff_ne.mpr h, Bool.true_or]
    · rw [show decide (now < t + s0.guardNs) = true from decide_eq_true h, Bool.or_true]
  · rfl

/-! ## A training that ends (R260) -/

/-- What a training shows of itself at its end. -/
def State.trainingShown (s : State) (c dur : Nat) : State :=
  ((s.putF F.vccTrain_dur c (min (dur / 100) 0xFFF)).putF F.vccTrain_edge c (s.getF F.tikCount_count % 2 ^ 32)).bump F.vccTrain_count c

section
variable (s : State) (c dur : Nat)

theorem trainingShown_dur : (s.trainingShown c dur).getF F.vccTrain_dur c = min (dur / 100) 4095 :=
  (getF_bump_apart _ F.vccTrain_count F.vccTrain_dur c 1 rfl (by decide)).trans
    ((getF_putF_apart _ F.vccTrain_edge F.vccTrain_dur c _ rfl (by decide)).trans
      ((getF_putF_same s F.vccTrain_dur c _ (by decide)).trans (Nat.mod_eq_of_lt (by
        show min _ _ < 2 ^ 12
        omega))))

theorem trainingShown_edge : (s.trainingShown c dur).getF F.vccTrain_edge c = s.getF F.tikCount_count % 2 ^ 32 :=
  (getF_bump_apart _ F.vccTrain_count F.vccTrain_edge c 1 rfl (by decide)).trans
    ((getF_putF_same _ F.vccTrain_edge c _ (by decide)).trans (Nat.mod_mod _ _))

theorem trainingShown_count : (s.trainingShown c dur).getF F.vccTrain_count c = min (s.getF F.vccTrain_count c + 1) 65535 := by
  refine (getF_bump _ F.vccTrain_count c 1 (by decide)).trans ?_
  rw [getF_putF_apart _ F.vccTrain_edge F.vccTrain_count c _ rfl (by decide), getF_putF_apart s F.vccTrain_dur F.vccTrain_count c _ rfl (by decide)]
  rfl

theorem trainingShown_sameRegs : sameRegs [regKey R.vccTrain c] s (s.trainingShown c dur) :=
  sameRegs_bump F.vccTrain_count c 1 (sameRegs_putF F.vccTrain_edge c _ (sameRegs_putF F.vccTrain_dur c _ (sameRegs_refl _ s)
    List.mem_cons_self) List.mem_cons_self) List.mem_cons_self

/-- The request is over, but for one that has become urgent meanwhile. -/
def State.requestOver : State := if (s.chan c).wantUrgent then s else s.putF F.vccCtl_retrain c 0

theorem requestOver_frame : ∃ regs, s.requestOver c = { s with regs := regs } ∧ sameRegs [regKey R.vccCtl c] s { s with regs := regs } := by
  unfold State.requestOver
  split
  · exact ⟨s.regs, rfl, sameRegs_refl _ s⟩
  · exact ⟨_, rfl, sameRegs_putF F.vccCtl_retrain c 0 (sameRegs_refl _ s) List.mem_cons_self⟩

theorem requestOver_sameRegs : sameRegs [regKey R.vccTrain c, regKey R.vccCtl c] s ((s.trainingShown c dur).requestOver c) := by
  obtain ⟨regs, hover, hsame⟩ := requestOver_frame (s.trainingShown c dur) c
  rw [hover]
  intro d k hk
  refine (hsame d k (fun hm => hk (List.mem_cons_of_mem _ hm))).trans (trainingShown_sameRegs s c dur d k (fun hm => hk ?_))
  rw [List.mem_singleton.mp hm]
  exact List.mem_cons_self

end

/-- The channel's state stands in another register than those of its training. -/
theorem chanState_of_training {s u : State} {c : Nat} (h : sameRegs [regKey R.vccTrain c, regKey R.vccCtl c] s u) :
    u.chanState c = s.chanState c := by
  refine getF_of_sameRegs h ?_
  simp only [List.mem_cons, List.not_mem_nil, or_false]
  rintro (h | h)
  · exact absurd (congrArg (· / 65536) h) (by simp only [regKey_div]; decide)
  · exact absurd (congrArg (· / 65536) h) (by simp only [regKey_div]; decide)

/-- What has come of a training, the channel's own state apart. -/
structure Trained (c dur : Nat) (s u : State) : Prop where
  frame : ∃ regs chans, u = { s with regs := regs, chans := chans }
  retrainStart : (u.chan c).retrainStart = none
  heldSince : (u.chan c).heldSince = none
  narrowed : (u.chan c).narrowed = (s.chan c).narrowed
  flails : ∀ e ∈ u.chans, e ∈ s.chans ∨ e.2.flails = (s.chan c).flails
  durShown : u.getF F.vccTrain_dur c = min (dur / 100) 4095
  edge : u.getF F.vccTrain_edge c = s.getF F.tikCount_count % 2 ^ 32
  count : u.getF F.vccTrain_count c = min (s.getF F.vccTrain_count c + 1) 65535
  state : u.chanState c = s.chanState c
  regs : sameRegs [regKey R.vccTrain c, regKey R.vccCtl c] s u

/-- The channel as it is after a training. -/
def Chan.trained (x : Chan) (now dur : Nat) (temps : List Int) : Chan :=
  { x with retrainStart := none, heldSince := none, lastTrainAt := now, lastTemps := temps, lastDur := dur }

theorem trained_spec (s : State) (c dur now : Nat) (temps : List Int) :
    Trained c dur s (((s.trainingShown c dur).requestOver c).modChan c (fun x => x.trained now dur temps)) := by
  obtain ⟨regs, hover, hsame⟩ := requestOver_frame (s.trainingShown c dur) c
  have hword : ∀ f : Fld, f.reg = R.vccTrain → ∀ u : State, u.regs = regs → u.getF f c = (s.trainingShown c dur).getF f c := by
    intro f hf u hu
    refine getF_of_sameRegs (sameRegs_of_regs hsame hu) ?_
    rw [hf]
    simp only [List.mem_singleton]
    exact fun h => absurd (congrArg (· / 65536) h) (by simp only [regKey_div]; decide)
  rw [hover]
  have hchan : (State.modChan ({ s.trainingShown c dur with regs := regs }) c (fun x => x.trained now dur temps)).chan c =
      (s.chan c).trained now dur temps := chan_setChan_same ..
  have hboth : sameRegs [regKey R.vccTrain c, regKey R.vccCtl c] s
      (State.modChan ({ s.trainingShown c dur with regs := regs }) c (fun x => x.trained now dur temps)) :=
    sameRegs_of_regs (hover ▸ requestOver_sameRegs s c dur) rfl
  refine ⟨⟨regs, _, rfl⟩, by rw [hchan]; rfl, by rw [hchan]; rfl, by rw [hchan]; rfl, fun e he => ?_, ?_, ?_, ?_, ?_, hboth⟩
  · rcases mem_tput he with he | he
    · exact .inl he
    · exact .inr (by rw [he]; rfl)
  · exact (hword F.vccTrain_dur rfl _ rfl).trans (trainingShown_dur ..)
  · exact (hword F.vccTrain_edge rfl _ rfl).trans (trainingShown_edge ..)
  · exact (hword F.vccTrain_count rfl _ rfl).trans (trainingShown_count ..)
  · exact chanState_of_training hboth

theorem opRetrainDone_eq (c now t0 : Nat) (s : State) (h : (s.chan c).retrainStart = some t0) : ∃ u : State,
    Trained c (now - t0) (s.at_ now) u ∧
    opRetrainDone c [] now s = if s.chanState c == vccHeld then (u.putF F.vccStat_state c (u.servingState c)).goOn else u := by
  refine ⟨_, trained_spec (s.at_ now) c (now - t0) now ((((s.at_ now).trainingShown c (now - t0)).requestOver c).loftTemps c), ?_⟩
  have hheld : (((s.at_ now).trainingShown c (now - t0)).requestOver c).chanState c = s.chanState c := by
    rw [chanState_of_training (requestOver_sameRegs (s.at_ now) c (now - t0))]
    rfl
  unfold opRetrainDone
  extract_lets s0
  split
  · next hn => exact absurd (hn.symm.trans h) (by simp)
  · next t ht =>
    obtain rfl : t = t0 := Option.some.inj (ht.symm.trans h)
    rw [← hheld]
    rfl

theorem channelRetrainDone_done (ch : BitVec 10) (now t0 : Nat) (s : State) (hst : (s.chan ch.toNat).retrainStart = some t0)
    (hw : s.chanState ch.toNat ≠ vccHeld ∨ nothingWaits s) : completes (.channelRetrainDone ch [] now) s (fun t =>
        (t.chan ch.toNat).retrainStart = none ∧ (t.chan ch.toNat).heldSince = none ∧
        t.getF F.vccTrain_dur ch.toNat = min ((now - t0) / 100) 4095 ∧
        t.getF F.vccTrain_edge ch.toNat = s.getF F.tikCount_count % 2 ^ 32 ∧
        t.getF F.vccTrain_count ch.toNat = min (s.getF F.vccTrain_count ch.toNat + 1) 65535 ∧
        (s.chanState ch.toNat = vccHeld → t.chanState ch.toNat = s.servingState ch.toNat) ∧
        (s.chanState ch.toNat ≠ vccHeld → t.chanState ch.toNat = s.chanState ch.toNat) ∧
        sameRegs [regKey R.vccTrain ch.toNat, regKey R.vccCtl ch.toNat, regKey R.vccStat ch.toNat] s t ∧ sameMemories s t) := by
  obtain ⟨u, h, hop⟩ := opRetrainDone_eq ch.toNat now t0 s.begin hst
  have hregs : sameRegs [regKey R.vccTrain ch.toNat, regKey R.vccCtl ch.toNat, regKey R.vccStat ch.toNat] s u := by
    intro d k hk
    exact h.regs d k (fun hm => hk (by
      simp only [List.mem_cons, List.not_mem_nil, or_false] at hm ⊢
      exact hm.imp_right .inl))
  obtain ⟨regs, chans, hframe⟩ := h.frame
  by_cases hheld : s.chanState ch.toNat = vccHeld
  · have hwait : nothingWaits s := hw.resolve_left (fun hn => hn hheld)
    obtain ⟨hacc, hgo, hrun⟩ := hwait
    have hon : (u.putF F.vccStat_state ch.toNat (u.servingState ch.toNat)).goOn = u.putF F.vccStat_state ch.toNat (u.servingState ch.toNat) := by
      refine goOn_idle ?_ ?_ ?_
      · rw [hframe]
        exact hacc
      · rw [hframe]
        exact hgo
      · intro e he f hf
        rcases h.flails e he with hm | hm
        · exact hrun e hm f hf
        · rw [hm] at hf
          have hne : tget ({} : Chan) s.chans ch.toNat ≠ {} := by
            intro h0
            rw [show ((s.begin.at_ now).chan ch.toNat) = {} from h0] at hf
            cases hf
          exact hrun _ (mem_of_tget_ne hne) f hf
    have hserving : u.servingState ch.toNat = s.servingState ch.toNat := by
      rw [State.servingState, h.narrowed]
      rfl
    have hop' := hop.trans ((if_pos (by rw [show s.begin.chanState ch.toNat = vccHeld from hheld]; rfl)).trans hon)
    have hlt : s.servingState ch.toNat < 8 := by
      rw [State.servingState]
      split <;> decide
    refine completes_of_eq (f := opRetrainDone ch.toNat [] now) rfl hop' ⟨h.retrainStart, h.heldSince, ?_, ?_, ?_, fun _ => ?_,
      fun hn => absurd hheld hn, ?_, ?_⟩
    · exact (getF_putF_off u F.vccStat_state F.vccTrain_dur _ _ _ (by decide)).trans h.durShown
    · exact (getF_putF_off u F.vccStat_state F.vccTrain_edge _ _ _ (by decide)).trans h.edge
    · exact (getF_putF_off u F.vccStat_state F.vccTrain_count _ _ _ (by decide)).trans h.count
    · exact (getF_putF_same u F.vccStat_state _ _ (by decide)).trans ((Nat.mod_eq_of_lt (hserving ▸ hlt)).trans hserving)
    · exact sameRegs_putF F.vccStat_state _ _ hregs (List.mem_cons_of_mem _ (List.mem_cons_of_mem _ List.mem_cons_self))
    · rw [hframe]
      exact ⟨rfl, rfl, rfl, rfl, rfl⟩
  · have hop' := hop.trans (if_neg (fun he => hheld (eq_of_beq he)))
    refine completes_of_eq (f := opRetrainDone ch.toNat [] now) rfl hop' ⟨h.retrainStart, h.heldSince, h.durShown, h.edge, h.count,
      fun hh => absurd hh hheld, fun _ => h.state, hregs, ?_⟩
    rw [hframe]
    exact ⟨rfl, rfl, rfl, rfl, rfl⟩

/-- Settles O41: what asks for a retrain, its end, and the hold that lasts. -/
theorem channelsRetrain : Obligations.ChannelsRetrain := by
  unfold Obligations.ChannelsRetrain
  refine ⟨fun ch s hst => ⟨fun now hw hd => scheduledRetrain_asks ch now s hst hw hd, fun now h => scheduledRetrain_idle ch now s h,
    fun now t0 hr hw => channelRetrainDone_done ch now t0 s hr hw, fun now t0 hh => ⟨fun hst hn hw => holdTimeout_fails ch now t0 s hh hst hn hw,
      fun h => holdTimeout_idle ch now t0 s hh h⟩⟩,
    fun by_ c s hw hc => ⟨fun hst => channelRetrainRequest_asks by_ c s hw hc hst, fun hst => channelRetrainRequest_retired by_ c s hw hc hst⟩⟩

end Sys2Proof.Machine
end

section
/-! SUPPORT. The reset bits of cells, stooks and sheafs (R415, R416), and the statement on them (O48). -/
namespace Sys2Proof.Machine

/-! ## A cell that enters reset -/

/-- The registers of a cell that show its reset. -/
def enterRegs : List Reg := [R.mxcPasses, R.mxcStat, R.celStat, R.thrStat]

/-- Nothing but programs, cells, those registers, the outputs and the mirror's marks differs. -/
def enterPath (s u : State) : Prop :=
  (∃ ctl regs cells out snap, u = { s with ctl := ctl, regs := regs, cells := cells, out := out, snap := snap }) ∧ regsIn enterRegs s u

theorem enterPath_refl (s : State) : enterPath s s := ⟨⟨s.ctl, s.regs, s.cells, s.out, s.snap, rfl⟩, regsIn_refl _ s⟩

theorem enterPath_trans (s t u : State) (h : enterPath s t) (h' : enterPath t u) : enterPath s u := by
  obtain ⟨⟨_, _, _, _, _, rfl⟩, hr⟩ := h
  obtain ⟨⟨c, r, x, o, n, rfl⟩, hr'⟩ := h'
  exact ⟨⟨c, r, x, o, n, rfl⟩, regsIn_trans hr hr'⟩

theorem enterPath_putF (s : State) (f : Fld) (i v : Nat) (hf : f.reg ∈ enterRegs) : enterPath s (s.putF f i v) :=
  ⟨⟨s.ctl, _, s.cells, s.out, s.snap, rfl⟩, regsIn_putF s f i v hf⟩

theorem enterPath_invalidate (s : State) (j : Nat) : enterPath s (s.invalidate j) := by
  obtain ⟨ctl, h⟩ := invalidate_frame s j
  rw [h]
  exact ⟨⟨ctl, s.regs, s.cells, s.out, s.snap, rfl⟩, regsIn_refl _ s⟩

theorem enterPath_dropPass (s : State) (c : Nat) : enterPath s (s.dropPass c) := by
  unfold State.dropPass
  split
  · exact enterPath_trans s (s.bump F.mxcPasses_discarded c) _ (enterPath_putF _ F.mxcPasses_discarded _ _ (by decide))
      (enterPath_putF _ F.mxcStat_busy _ _ (by decide))
  · exact enterPath_refl s

theorem enterPath_showIdle (s : State) (c : Nat) : enterPath s (s.showIdle c) := by
  have h1 : enterPath s (s.setReg R.celStat c 0) := ⟨⟨s.ctl, _, s.cells, s.out, s.snap, rfl⟩, regsIn_setReg s R.celStat c 0 (by decide)⟩
  have hput : ∀ (u : State) (f : Fld), f.reg ∈ enterRegs → enterPath s u → enterPath s (u.putF f c 0) :=
    fun u f hf h => enterPath_trans _ _ _ h (enterPath_putF u f c 0 hf)
  exact hput _ F.thrStat_in_loft (by decide) (hput _ F.thrStat_tables (by decide) (hput _ F.thrStat_busy (by decide)
    (hput _ F.mxcStat_busy (by decide) h1)))

/-- The cell as it is in reset. -/
def Cell.reset (x : Cell) : Cell :=
  ({ x with
      inReset := true, job := none, started := none, finished := none, stopped := false, memHeld := none, flailSince := [], prepared := false
      rowsIn := [], lost := [], rowsOut := []
      doneOps := [], inTick := [], increments := [], flits := [] } : Cell).dropTables

/-- What the router of a cell tells the consumers of its stage. -/
def State.tellLost (s : State) (c : Nat) : State :=
  match (s.cell c).job, s.stageOf c with
  | some j, some (_, t) => t.dst.foldl (fun (s : State) k => s.send (.lostMark (s.runnerOf j k) c)) s
  | _, _ => s

theorem tellLost_frame (s : State) (c : Nat) : ∃ out, s.tellLost c = { s with out := out } := by
  unfold State.tellLost
  split
  · refine foldl_rel (r := fun s u : State => ∃ out, u = { s with out := out }) (fun s => ⟨s.out, rfl⟩) ?_ ?_ _ s
    · rintro s _ _ ⟨o, rfl⟩ ⟨o', rfl⟩
      exact ⟨o', rfl⟩
    · exact fun s k => ⟨_, rfl⟩
  · exact ⟨s.out, rfl⟩

theorem enterReset_entered {s : State} {c : Nat} (h : (s.cell c).inReset = false) :
    s.enterReset c = ((((s.tellLost c).dropPass c).showIdle c).modCell c Cell.reset).markStale 1 c := by
  unfold State.enterReset
  exact (if_neg (by rw [h]; decide)).trans rfl

theorem enterPath_enterReset (s : State) (c : Nat) : enterPath s (s.enterReset c) := by
  cases h : (s.cell c).inReset
  · rw [enterReset_entered h]
    obtain ⟨out, hout⟩ := tellLost_frame s c
    have h1 : enterPath s (s.tellLost c) := by
      rw [hout]
      exact ⟨⟨s.ctl, s.regs, s.cells, out, s.snap, rfl⟩, regsIn_refl _ s⟩
    have h2 := enterPath_trans _ _ _ h1 (enterPath_trans _ _ _ (enterPath_dropPass (s.tellLost c) c) (enterPath_showIdle _ c))
    exact enterPath_trans _ _ _ h2 ⟨⟨_, _, _, _, _, rfl⟩, regsIn_refl _ _⟩
  · rw [State.enterReset, if_pos h]
    exact enterPath_refl s

theorem enterReset_cell (s : State) (c d : Nat) :
    (s.enterReset c).cell d = if c = d ∧ (s.cell d).inReset = false then (s.cell d).reset else s.cell d := by
  cases h : (s.cell c).inReset
  · rw [enterReset_entered h, State.markStale_cell]
    obtain ⟨out, hout⟩ := tellLost_frame s c
    obtain ⟨regs, hdrop⟩ := dropPass_frame (s.tellLost c) c
    have hcell : ∀ k, (((s.tellLost c).dropPass c).showIdle c).cell k = s.cell k := by
      intro k
      rw [hdrop, hout]
      rfl
    by_cases hd : c = d
    · subst hd
      rw [if_pos ⟨rfl, h⟩, State.modCell, cell_setCell_same, hcell]
    · rw [if_neg (fun hn => hd hn.1), State.modCell, cell_setCell_ne _ _ hd, hcell]
  · rw [State.enterReset, if_pos h, if_neg]
    rintro ⟨rfl, hn⟩
    rw [h] at hn
    cases hn

theorem foldl_enterReset_cell (cs : List Nat) (s : State) (d : Nat) :
    (cs.foldl State.enterReset s).cell d = if d ∈ cs ∧ (s.cell d).inReset = false then (s.cell d).reset else s.cell d := by
  induction cs generalizing s with
  | nil => simp
  | cons c cs ih =>
    rw [List.foldl_cons, ih, enterReset_cell]
    have hreset : (s.cell d).reset.inReset = true := rfl
    by_cases hc : c = d
    · cases hr : (s.cell d).inReset <;> simp [hc, hr, hreset]
    · simp [hc, Ne.symm hc]

/-! ## The cells of a target -/

theorem otpAt_of {s u : State} (h : u.otp = s.otp) (o n : Nat) : u.otpAt o n = s.otpAt o n := by rw [State.otpAt, State.otpAt, h]

theorem otpNat_of {s u : State} (h : u.otp = s.otp) (o n : Nat) : u.otpNat o n = s.otpNat o n := by
  rw [State.otpNat, State.otpNat, otpAt_of h]

theorem factoryOk_of {s u : State} (h : u.otp = s.otp) : u.factoryOk = s.factoryOk := by
  rw [State.factoryOk, State.factoryOk, State.mCount, State.mCount]
  rw [otpNat_of h, otpNat_of h, otpNat_of h, otpAt_of h, otpAt_of h, otpAt_of h]

theorem disabled_of_otp {s u : State} (h : u.otp = s.otp) (c : Nat) : u.disabled c = s.disabled c := by
  unfold State.disabled
  rw [factoryOk_of h, h]
theorem cellsOfSheaf_of_ctl {s u : State} (h : u.ctl = s.ctl) (t : Nat) : u.cellsOfSheaf t = s.cellsOfSheaf t := by
  have hsheaf : ∀ i, u.sheaf i = s.sheaf i := fun i => by rw [State.sheaf, h, State.sheaf]
  have hdown : ∀ m i, u.downFrom m i = s.downFrom m i := by
    intro m
    induction m with
    | zero => exact fun _ => rfl
    | succ m ih =>
      intro i
      simp only [State.downFrom, ih, hsheaf]
  simp only [State.cellsOfSheaf, hdown, hsheaf, h]
theorem resetCells_of {s u : State} (ho : u.otp = s.otp) (hc : u.ctl = s.ctl) (k t : Nat) : u.resetCells k t = s.resetCells k t := by
  simp only [State.resetCells, disabled_of_otp ho, cellsOfSheaf_of_ctl hc]

/-- The jobs whose tick the reset of cells invalidates, and the cells that enter reset. -/
theorem putInReset_spec (s : State) (k target : Nat) : enterPath s (s.putInReset k target) ∧ ∀ c ∈ s.resetCells k target,
    ((s.putInReset k target).cell c).inReset = true ∧ ((s.cell c).inReset = false → ((s.putInReset k target).cell c).job = none) := by
  unfold State.putInReset
  extract_lets cs jobs u
  obtain ⟨hu, hcells⟩ : enterPath s u ∧ u.cells = s.cells := by
    dsimp only [u]
    split
    · refine ⟨foldl_rel enterPath_refl enterPath_trans enterPath_invalidate _ s, foldl_keeps State.cells ?_ _ s⟩
      intro v j
      obtain ⟨ctl, h⟩ := invalidate_frame v j
      rw [h]
    · exact ⟨enterPath_refl s, rfl⟩
  refine ⟨enterPath_trans _ _ _ hu (foldl_rel enterPath_refl enterPath_trans enterPath_enterReset cs u), fun c hc => ?_⟩
  have hcell : u.cell c = s.cell c := by rw [State.cell, hcells, State.cell]
  rw [foldl_enterReset_cell, hcell]
  cases hr : (s.cell c).inReset
  · rw [if_pos ⟨hc, rfl⟩]
    exact ⟨rfl, fun _ => rfl⟩
  · rw [if_neg (fun h => absurd h.2 (by decide))]
    exact ⟨hr, fun h => absurd h (by decide)⟩

/-! ## The record of a target, and what its register shows -/

theorem resetHoldOf_key (s : State) (k target : Nat) : (s.resetHoldOf k target).kind = k ∧ (s.resetHoldOf k target).target = target := by
  unfold State.resetHoldOf
  cases h : s.resets.find? (fun r => r.kind == k && r.target == target)
  · exact ⟨rfl, rfl⟩
  · next r =>
    have := List.find?_some h
    simp only [Bool.and_eq_true, beq_iff_eq] at this
    exact this

/-- The record that the register of a kind shows. -/
def State.shownHold (s : State) (q : Nat) : Option ResetHold := s.resets.find? (fun r => r.kind == q && r.target == s.getF (resetTarget q))

/-- The register of one kind is brought up to date. -/
def State.showReset (s : State) (q : Nat) : State :=
  (s.putF (resetGo q) 0 (bit (((s.shownHold q).map (fun r => r.pulse)).getD false))).putF (resetActive q) 0 (bit (s.shownHold q).isSome)

theorem showResets_eq (s : State) : s.showResets = ((s.showReset 0).showReset 1).showReset 2 := rfl

/-- Two fields share no bit. -/
def Fld.clear (f g : Fld) : Bool :=
  g.reg.off / 8 != f.reg.off / 8 || (g.reg == f.reg && (decide (f.lo + f.width ≤ g.lo) || decide (g.lo + g.width ≤ f.lo)))

theorem getF_putF_clear (s : State) (f g : Fld) (v : Nat) (h : f.clear g = true) : (s.putF g 0 v).getF f 0 = s.getF f 0 := by
  simp only [Fld.clear, Bool.or_eq_true, Bool.and_eq_true, bne_iff_ne, beq_iff_eq, decide_eq_true_eq] at h
  rcases h with h | ⟨h1, h2⟩
  · exact getF_putF_off s g f 0 0 v h
  · exact getF_putF_apart s g f 0 v h1 h2

theorem getF_showReset (s : State) (q : Nat) (f : Fld) (h : (f.clear (resetGo q) && f.clear (resetActive q)) = true) :
    (s.showReset q).getF f 0 = s.getF f 0 := by
  obtain ⟨h1, h2⟩ := Bool.and_eq_true_iff.mp h
  exact (getF_putF_clear _ f (resetActive q) _ h2).trans (getF_putF_clear s f (resetGo q) _ h1)

/-- No register but its own shows the reset of a kind. -/
theorem reset_shown_apart : ∀ k < 3, ∀ q < 3, k ≠ q → ((resetGo k).clear (resetGo q) && (resetGo k).clear (resetActive q)) = true ∧
    ((resetActive k).clear (resetGo q) && (resetActive k).clear (resetActive q)) = true := by decide

/-- No register's update touches a target or a hold. -/
theorem reset_named_apart : ∀ k < 3, ∀ q < 3, ((resetTarget k).clear (resetGo q) && (resetTarget k).clear (resetActive q)) = true ∧
    ((resetHold k).clear (resetGo q) && (resetHold k).clear (resetActive q)) = true := by decide

theorem resetTarget_hold_apart : ∀ k < 3, (resetTarget k).clear (resetHold k) = true := by decide

theorem resetGo_active_apart : ∀ k < 3, (resetGo k).clear (resetActive k) = true := by decide

theorem reset_bits : ∀ k < 3, ∀ f ∈ [resetGo k, resetActive k, resetHold k], f.lo + f.width ≤ 64 ∧ f.width = 1 := by decide

theorem resetHold_reg (k : Nat) : (resetHold k).reg = (resetTarget k).reg := by
  unfold resetHold resetTarget
  split_ifs <;> rfl

theorem showReset_shown {s : State} {q : Nat} {r : ResetHold} (hq : q < 3) (hr : s.shownHold q = some r) :
    (s.showReset q).onF (resetGo q) = r.pulse ∧ (s.showReset q).onF (resetActive q) = true := by
  have hclear := resetGo_active_apart q hq
  obtain ⟨hgo, wgo⟩ := reset_bits q hq (resetGo q) (by simp)
  obtain ⟨hact, wact⟩ := reset_bits q hq (resetActive q) (by simp)
  rw [State.showReset, hr]
  constructor
  · refine onF_of_bit ((getF_putF_clear _ (resetGo q) (resetActive q) _ hclear).trans ?_)
    rw [getF_putF_same _ (resetGo q) 0 _ hgo, wgo]
    rfl
  · refine onF_of_bit (b := true) ?_
    rw [getF_putF_same _ (resetActive q) 0 _ hact, wact]
    rfl

/-- What the three registers show of a target that is in reset. -/
theorem showResets_shown {s : State} {k : Nat} {r : ResetHold} (hk : k < 3) (hr : s.shownHold k = some r) :
    s.showResets.onF (resetGo k) = r.pulse ∧ s.showResets.onF (resetActive k) = true ∧
    s.showResets.getF (resetHold k) = s.getF (resetHold k) := by
  have hother : ∀ q < 3, k ≠ q → ∀ u : State, (u.showReset q).onF (resetGo k) = u.onF (resetGo k) ∧
      (u.showReset q).onF (resetActive k) = u.onF (resetActive k) := by
    intro q hq hne u
    obtain ⟨h1, h2⟩ := reset_shown_apart k hk q hq hne
    exact ⟨onF_of_getF (getF_showReset u q _ h1), onF_of_getF (getF_showReset u q _ h2)⟩
  have hkeep : ∀ q < 3, ∀ u : State, (u.showReset q).shownHold k = u.shownHold k ∧ (u.showReset q).getF (resetHold k) = u.getF (resetHold k) := by
    intro q hq u
    obtain ⟨ht, hh⟩ := reset_named_apart k hk q hq
    refine ⟨?_, getF_showReset u q _ hh⟩
    rw [State.shownHold, getF_showReset u q _ ht]
    rfl
  rw [showResets_eq]
  have hhold := ((hkeep 2 (by decide) ((s.showReset 0).showReset 1)).2.trans (hkeep 1 (by decide) (s.showReset 0)).2).trans
    (hkeep 0 (by decide) s).2
  obtain rfl | rfl | rfl : k = 0 ∨ k = 1 ∨ k = 2 := by omega
  · obtain ⟨h1, h2⟩ := showReset_shown hk hr
    obtain ⟨a1, a2⟩ := hother 1 (by decide) (by decide) (s.showReset 0)
    obtain ⟨b1, b2⟩ := hother 2 (by decide) (by decide) ((s.showReset 0).showReset 1)
    exact ⟨b1.trans (a1.trans h1), b2.trans (a2.trans h2), hhold⟩
  · obtain ⟨h1, h2⟩ := showReset_shown hk ((hkeep 0 (by decide) s).1.trans hr)
    obtain ⟨b1, b2⟩ := hother 2 (by decide) (by decide) ((s.showReset 0).showReset 1)
    exact ⟨b1.trans h1, b2.trans h2, hhold⟩
  · obtain ⟨h1, h2⟩ := showReset_shown hk ((hkeep 1 (by decide) (s.showReset 0)).1.trans ((hkeep 0 (by decide) s).1.trans hr))
    exact ⟨h1, h2, hhold⟩

/-- What is said of a target whose record is set. -/
structure HoldSet (k : Nat) (r : ResetHold) (s u : State) : Prop where
  listed : r ∈ u.resets
  go : u.onF (resetGo k) = r.pulse
  active : u.onF (resetActive k) = true
  hold : u.onF (resetHold k) = s.onF (resetHold k)
  frame : ∃ regs resets, u = { s with regs := regs, resets := resets }

theorem setResetHold_spec {s : State} {k : Nat} {r : ResetHold} (hk : k < 3) (hkind : r.kind = k) (ht : r.target = s.getF (resetTarget k)) :
    HoldSet k r s (s.setResetHold r) := by
  obtain ⟨v, hv⟩ : ∃ v : State, v = { s with
    resets := s.resets.filter (fun (x : ResetHold) => !(x.kind == r.kind && x.target == r.target)) ++ [r] } := ⟨_, rfl⟩
  have hshown : v.shownHold k = some r := by
    rw [State.shownHold, hv]
    show List.find? (fun (x : ResetHold) => x.kind == k && x.target == s.getF (resetTarget k)) (_ ++ [r]) = some r
    rw [List.find?_append, List.find?_eq_none.mpr, Option.none_or, List.find?_cons_of_pos (by rw [hkind, ht]; simp)]
    intro x hx
    rw [← ht, ← hkind]
    exact fun h => absurd (List.mem_filter.mp hx).2 (by rw [h]; decide)
  obtain ⟨hgo, hact, hhold⟩ := showResets_shown hk hshown
  obtain ⟨⟨regs, hframe⟩, -⟩ := wordsIn_showResets v
  have heq : s.setResetHold r = v.showResets := by rw [hv]; rfl
  rw [heq]
  refine ⟨?_, hgo, hact, onF_of_getF (hhold.trans (by rw [hv]; rfl)), ⟨regs, v.resets, ?_⟩⟩
  · rw [hframe, hv]
    exact List.mem_append_right _ List.mem_cons_self
  · rw [hframe, hv]

/-! ## The commands -/

/-- What go leaves. -/
theorem opResetGo_spec (k now : Nat) (s : State) (hk : k < 3) :
    (∀ c ∈ s.resetCells k (s.getF (resetTarget k)), ((opResetGo k now s).cell c).inReset = true ∧
      ((s.cell c).inReset = false → ((opResetGo k now s).cell c).job = none)) ∧
    (opResetGo k now s).onF (resetGo k) = true ∧ (opResetGo k now s).onF (resetActive k) = true ∧ (opResetGo k now s).devMem = s.devMem ∧
    ∃ r ∈ (opResetGo k now s).resets, r.kind = k ∧ r.target = s.getF (resetTarget k) ∧ r.pulse = true ∧ now + 1000 ≤ r.releaseAfter := by
  obtain ⟨v, hv⟩ : ∃ v, (s.at_ now).putInReset k (s.getF (resetTarget k)) = v := ⟨_, rfl⟩
  obtain ⟨⟨⟨ctl, regs, cells, out, snap, hframe⟩, hregs⟩, hcells⟩ := putInReset_spec (s.at_ now) k (s.getF (resetTarget k))
  rw [hv] at hframe hregs hcells
  obtain ⟨hkind, htarget⟩ := resetHoldOf_key v k (s.getF (resetTarget k))
  obtain ⟨r, hr⟩ : ∃ r : ResetHold, r = { v.resetHoldOf k (s.getF (resetTarget k)) with
    pulse := true, releaseAfter := max (v.resetHoldOf k (s.getF (resetTarget k))).releaseAfter (now + 1000) } := ⟨_, rfl⟩
  have hop : opResetGo k now s = v.setResetHold r := by
    unfold opResetGo
    extract_lets -merge +onlyGivenNames s0 t s1 r0
    rw [hr]
    dsimp only [r0]
    rw [show s1 = v from hv]
    rfl
  have ht : v.getF (resetTarget k) = s.getF (resetTarget k) := by
    refine getF_of_regsIn hregs ?_ 0
    obtain rfl | rfl | rfl : k = 0 ∨ k = 1 ∨ k = 2 := by omega
    · decide
    · decide
    · decide
  obtain ⟨hlisted, hgo, hact, -, ⟨regs', resets', hframe'⟩⟩ := setResetHold_spec (s := v) (r := r) hk (by rw [hr]; exact hkind)
    (by rw [hr, ht]; exact htarget)
  rw [hop]
  refine ⟨?_, hgo.trans (by rw [hr]), hact, ?_, r, hlisted, by rw [hr]; exact hkind, by rw [hr]; exact htarget, by rw [hr], ?_⟩
  · rw [resetCells_of (s := s) (u := s.at_ now) rfl rfl] at hcells
    rw [hframe']
    exact hcells
  · rw [hframe', hframe]
    rfl
  · rw [hr]
    exact Nat.le_max_right ..

/-- What setting a hold leaves. -/
theorem opResetHold_set (k now : Nat) (s : State) (hk : k < 3) (hoff : s.onF (resetHold k) = false) :
    (∀ c ∈ s.resetCells k (s.getF (resetTarget k)), ((opResetHold k true now s).cell c).inReset = true ∧
      ((s.cell c).inReset = false → ((opResetHold k true now s).cell c).job = none)) ∧
    (opResetHold k true now s).onF (resetHold k) = true ∧ (opResetHold k true now s).onF (resetActive k) = true ∧
    (opResetHold k true now s).devMem = s.devMem ∧
    ∃ r ∈ (opResetHold k true now s).resets, r.kind = k ∧ r.target = s.getF (resetTarget k) ∧ r.held = true := by
  obtain ⟨w, hw⟩ : ∃ w, (s.at_ now).putF (resetHold k) 0 1 = w := ⟨_, rfl⟩
  obtain ⟨v, hv⟩ : ∃ v, w.putInReset k (s.getF (resetTarget k)) = v := ⟨_, rfl⟩
  obtain ⟨⟨⟨ctl, regs, cells, out, snap, hframe⟩, hregs⟩, hcells⟩ := putInReset_spec w k (s.getF (resetTarget k))
  rw [hv] at hframe hregs hcells
  obtain ⟨hkind, htarget⟩ := resetHoldOf_key v k (s.getF (resetTarget k))
  obtain ⟨r, hr⟩ : ∃ r : ResetHold, r = { v.resetHoldOf k (s.getF (resetTarget k)) with held := true } := ⟨_, rfl⟩
  have hop : opResetHold k true now s = v.setResetHold r := by
    unfold opResetHold
    extract_lets -merge +onlyGivenNames s0 t was s1
    have hs1 : s1 = w := hw
    rw [if_neg (by rw [show was = false from hoff]; decide), if_pos rfl]
    extract_lets -merge +onlyGivenNames s2
    have hs2 : s2 = v := by
      rw [← hv, ← hs1]
      rfl
    rw [hs2, hr]
    rfl
  have hkeep : ∀ f : Fld, f.reg = (resetTarget k).reg → v.getF f = w.getF f := by
    intro f hf
    refine getF_of_regsIn hregs ?_ 0
    rw [hf]
    obtain rfl | rfl | rfl : k = 0 ∨ k = 1 ∨ k = 2 := by omega
    · decide
    · decide
    · decide
  have ht : v.getF (resetTarget k) = s.getF (resetTarget k) := by
    rw [hkeep _ rfl, ← hw]
    exact getF_putF_clear _ _ _ _ (resetTarget_hold_apart k hk)
  have hhold : v.onF (resetHold k) = true := by
    refine onF_of_bit (b := true) ((hkeep _ (resetHold_reg k)).trans ?_)
    obtain ⟨hlo, hone⟩ := reset_bits k hk (resetHold k) (by simp)
    rw [← hw, getF_putF_same _ (resetHold k) 0 _ hlo, hone]
    rfl
  obtain ⟨hlisted, -, hact, hheld, ⟨regs', resets', hframe'⟩⟩ := setResetHold_spec (s := v) (r := r) hk (by rw [hr]; exact hkind)
    (by rw [hr, ht]; exact htarget)
  rw [hop]
  refine ⟨?_, hheld.trans hhold, hact, ?_, r, hlisted, by rw [hr]; exact hkind, by rw [hr]; exact htarget, by rw [hr]⟩
  · rw [resetCells_of (s := s) (u := w) (by rw [← hw]; rfl) (by rw [← hw]; rfl)] at hcells
    have hbefore : ∀ c, w.cell c = s.cell c := fun c => by rw [← hw]; rfl
    rw [hframe']
    exact fun c hc => ⟨(hcells c hc).1, fun h => (hcells c hc).2 ((congrArg Cell.inReset (hbefore c)).trans h)⟩
  · rw [hframe', hframe, ← hw]
    rfl

/-- What clearing a hold leaves. -/
theorem opResetHold_clear (k now : Nat) (s : State) (hk : k < 3) (hon : s.onF (resetHold k) = true) :
    (opResetHold k false now s).cells = s.cells ∧ (opResetHold k false now s).onF (resetHold k) = false ∧
    (opResetHold k false now s).onF (resetActive k) = true ∧ (opResetHold k false now s).devMem = s.devMem ∧
    ∃ r ∈ (opResetHold k false now s).resets, r.kind = k ∧ r.target = s.getF (resetTarget k) ∧ r.held = false ∧
      now + 1000 ≤ r.releaseAfter := by
  obtain ⟨w, hw⟩ : ∃ w, (s.at_ now).putF (resetHold k) 0 0 = w := ⟨_, rfl⟩
  obtain ⟨hkind, htarget⟩ := resetHoldOf_key w k (s.getF (resetTarget k))
  obtain ⟨r, hr⟩ : ∃ r : ResetHold, r = { w.resetHoldOf k (s.getF (resetTarget k)) with
    held := false, releaseAfter := max (w.resetHoldOf k (s.getF (resetTarget k))).releaseAfter (now + 1000) } := ⟨_, rfl⟩
  have hop : opResetHold k false now s = w.setResetHold r := by
    unfold opResetHold
    extract_lets -merge +onlyGivenNames s0 t was s1
    have hs1 : s1 = w := hw
    rw [if_neg (by rw [show was = true from hon]; decide), if_neg (by decide), hr, hs1]
    rfl
  have ht : w.getF (resetTarget k) = s.getF (resetTarget k) := by
    rw [← hw]
    exact getF_putF_clear _ _ _ _ (resetTarget_hold_apart k hk)
  have hhold : w.onF (resetHold k) = false := by
    refine onF_of_bit (b := false) ?_
    obtain ⟨hlo, hone⟩ := reset_bits k hk (resetHold k) (by simp)
    rw [← hw, getF_putF_same _ (resetHold k) 0 _ hlo, hone]
    rfl
  obtain ⟨hlisted, -, hact, hheld, ⟨regs', resets', hframe'⟩⟩ := setResetHold_spec (s := w) (r := r) hk (by rw [hr]; exact hkind)
    (by rw [hr, ht]; exact htarget)
  rw [hop]
  refine ⟨?_, hheld.trans hhold, hact, ?_, r, hlisted, by rw [hr]; exact hkind, by rw [hr]; exact htarget, by rw [hr], ?_⟩
  · rw [hframe', ← hw]
    rfl
  · rw [hframe', ← hw]
    rfl
  · rw [hr]
    exact Nat.le_max_right ..

/-- A write of hold that changes nothing. -/
theorem opResetHold_same (k now : Nat) (s : State) (on : Bool) (h : s.onF (resetHold k) = on) :
    opResetHold k on now s = (s.at_ now).putF (resetHold k) 0 (bit on) := by
  unfold opResetHold
  exact if_pos h

section
variable {k now : Nat} {s : State} {by_ : Requester} (hk : k < 3)
include hk

theorem resetGo_done {go : Instr} (he : exec go s = run (fun s => if s.mayReset by_ then opResetGo k now s else s) s)
    (hm : s.mayReset by_ = true) : completes go s (fun t =>
        (∀ c ∈ s.resetCells k (s.getF (resetTarget k)), (t.cell c).inReset = true ∧ ((s.cell c).inReset = false → (t.cell c).job = none)) ∧
        t.onF (resetGo k) = true ∧ t.onF (resetActive k) = true ∧ t.devMem = s.devMem ∧
        ∃ r ∈ t.resets, r.kind = k ∧ r.target = s.getF (resetTarget k) ∧ r.pulse = true ∧ now + 1000 ≤ r.releaseAfter) := by
  have hspec := opResetGo_spec k now s.begin hk
  rw [resetCells_of (s := s) (u := s.begin) rfl rfl] at hspec
  obtain ⟨u, hu⟩ : ∃ u, opResetGo k now s.begin = u := ⟨_, rfl⟩
  rw [hu] at hspec
  exact completes_of_eq he ((if_pos hm).trans hu) hspec

variable {hold : Bool → Instr} (he : ∀ on, exec (hold on) s = run (fun s => if s.mayReset by_ then opResetHold k on now s else s) s)
variable (hm : s.mayReset by_ = true)
include he hm

theorem resetHold_set_done (hoff : s.onF (resetHold k) = false) : completes (hold true) s (fun t =>
        (∀ c ∈ s.resetCells k (s.getF (resetTarget k)), (t.cell c).inReset = true ∧ ((s.cell c).inReset = false → (t.cell c).job = none)) ∧
        t.onF (resetHold k) = true ∧ t.onF (resetActive k) = true ∧ t.devMem = s.devMem ∧
        ∃ r ∈ t.resets, r.kind = k ∧ r.target = s.getF (resetTarget k) ∧ r.held = true) := by
  have hspec := opResetHold_set k now s.begin hk hoff
  rw [resetCells_of (s := s) (u := s.begin) rfl rfl] at hspec
  obtain ⟨u, hu⟩ : ∃ u, opResetHold k true now s.begin = u := ⟨_, rfl⟩
  rw [hu] at hspec
  exact completes_of_eq (he true) ((if_pos hm).trans hu) hspec

theorem resetHold_clear_done (hon : s.onF (resetHold k) = true) : completes (hold false) s (fun t =>
        t.cells = s.cells ∧ t.onF (resetHold k) = false ∧ t.onF (resetActive k) = true ∧ t.devMem = s.devMem ∧
        ∃ r ∈ t.resets, r.kind = k ∧ r.target = s.getF (resetTarget k) ∧ r.held = false ∧ now + 1000 ≤ r.releaseAfter) := by
  have hspec := opResetHold_clear k now s.begin hk hon
  obtain ⟨u, hu⟩ : ∃ u, opResetHold k false now s.begin = u := ⟨_, rfl⟩
  rw [hu] at hspec
  exact completes_of_eq (he false) ((if_pos hm).trans hu) hspec

theorem resetHold_same_done (on : Bool) (h : s.onF (resetHold k) = on) : completes (hold on) s (fun t =>
        t.onF (resetHold k) = on ∧ onlyRegsAt now [regKey (resetHold k).reg 0] s t) := by
  obtain ⟨hlo, hone⟩ := reset_bits k hk (resetHold k) (by simp)
  refine completes_of_eq (he on) ((if_pos hm).trans (opResetHold_same k now s.begin on h)) ⟨onF_of_bit ?_, ?_⟩
  · refine (getF_putF_same (s.begin.at_ now) (resetHold k) 0 (bit on) hlo).trans ?_
    rw [hone]
    rfl
  · exact onlyRegsAt_of_putsRegs ((putsRegs_refl _ _).putF (resetHold k) 0 _ List.mem_cons_self)
end

/-- Settles O48: go, the hold set, cleared and written as it was, for the three kinds of target. -/
theorem resetBitsHoldTheirCells : Obligations.ResetBitsHoldTheirCells := by
  unfold Obligations.ResetBitsHoldTheirCells
  intro k by_ now s go hold hkind
  obtain ⟨hk, hgo, hhold⟩ : k < 3 ∧ exec go s = run (fun s => if s.mayReset by_ then opResetGo k now s else s) s ∧
      ∀ on, exec (hold on) s = run (fun s => if s.mayReset by_ then opResetHold k on now s else s) s := by
    rcases hkind with ⟨rfl, rfl, rfl⟩ | ⟨rfl, rfl, rfl⟩ | ⟨rfl, rfl, rfl⟩
    · exact ⟨by decide, rfl, fun _ => rfl⟩
    · exact ⟨by decide, rfl, fun _ => rfl⟩
    · exact ⟨by decide, rfl, fun _ => rfl⟩
  refine ⟨fun hm => ⟨idles_of_run hgo (if_neg (ne_true_of_eq_false hm)), fun on => idles_of_run (hhold on) (if_neg (ne_true_of_eq_false hm))⟩,
    fun hm => ⟨resetGo_done hk hgo hm, fun hoff => resetHold_set_done hk hhold hm hoff, fun hon => resetHold_clear_done hk hhold hm hon,
      fun on h => resetHold_same_done hk hhold hm on h⟩⟩

end Sys2Proof.Machine
end

section
/-! SUPPORT. Flail commands: their queue, what starts, the command port (R273 to R278, R286 to R288, R292), and the statement on them (O44). -/
namespace Sys2Proof.Machine

/-! ## The queue of a channel -/

/-- A command as it stands in its channel's queue. -/
def FlailCmd.queued (f : FlailCmd) (c no : Nat) : FlailCmd := { f with no := no, banks := flailBanks c f.op f.words }

theorem enqueue_chan_same (s : State) (c : Nat) (f : FlailCmd) :
    (s.enqueue c f).chan c = { s.chan c with flails := (s.chan c).flails ++ [f.queued c s.arrivals] } := chan_setChan_same ..

theorem enqueue_chan_ne (s : State) {c d : Nat} (f : FlailCmd) (h : c ≠ d) : (s.enqueue c f).chan d = s.chan d := chan_setChan_ne s _ h

/-- Commands that run go on, and one that waits behind them starts if it may. -/
theorem started_running (s : State) (c : Nat) (fs : List FlailCmd) (h : ∀ g ∈ fs, g.running = true) (acc gs : List FlailCmd) :
    (fs ++ gs).foldl (fun acc f => acc ++ [if f.running then f else { f with running := s.mayStart c acc f }]) acc =
      gs.foldl (fun acc f => acc ++ [if f.running then f else { f with running := s.mayStart c acc f }]) (acc ++ fs) := by
  induction fs generalizing acc with
  | nil => simp
  | cons g fs ih =>
    rw [List.cons_append, List.foldl_cons, if_pos (h g List.mem_cons_self), ih (fun x hx => h x (List.mem_cons_of_mem _ hx)),
      List.append_assoc, List.singleton_append]

theorem started_one (s : State) (c : Nat) (fs : List FlailCmd) (f : FlailCmd) (h : ∀ g ∈ fs, g.running = true) (hf : f.running = false) :
    s.started c (fs ++ [f]) = fs ++ [{ f with running := s.mayStart c fs f }] := by
  rw [State.started, started_running s c fs h, List.nil_append, List.foldl_cons, List.foldl_nil, if_neg (by rw [hf]; decide)]

theorem started_two (s : State) (c : Nat) (fs : List FlailCmd) (f g : FlailCmd) (h : ∀ g ∈ fs, g.running = true) (hf : f.running = false)
    (hg : g.running = false) : s.started c (fs ++ [f, g]) = fs ++ [{ f with running := s.mayStart c fs f },
      { g with running := s.mayStart c (fs ++ [{ f with running := s.mayStart c fs f }]) g }] := by
  rw [State.started, started_running s c fs h, List.nil_append, List.foldl_cons, if_neg (by rw [hf]; decide), List.foldl_cons,
    List.foldl_nil, if_neg (by rw [hg]; decide), List.append_assoc, List.singleton_append]

/-- What the start of a channel's queue leaves. -/
theorem startFlails_spec (s : State) (c : Nat) :
    ((s.startFlails c).chan c = { s.chan c with flails := s.started c (s.chan c).flails }) ∧
    (∀ d, d ≠ c → (s.startFlails c).chan d = s.chan d) ∧ sameRegs [regKey R.fllStat c] s (s.startFlails c) ∧
    ∃ regs chans, s.startFlails c = { s with regs := regs, chans := chans } := by
  refine ⟨chan_setChan_same .., fun d hd => chan_setChan_ne s _ hd.symm, ?_, ⟨_, _, rfl⟩⟩
  exact sameRegs_putF F.fllStat_held c _ (sameRegs_putF F.fllStat_queued c _ (sameRegs_putF F.fllStat_active c _
    (sameRegs_of_regs (sameRegs_refl _ s) rfl) List.mem_cons_self) List.mem_cons_self) List.mem_cons_self

/-! ## What may start -/

/-- A queued command keeps nothing from starting that does not come after it. -/
theorem mayStart_enqueue (s : State) (c : Nat) (f0 f : FlailCmd) (ahead : List FlailCmd) (hno : f.no ≤ s.arrivals) :
    (s.enqueue c f0).mayStart c ahead f = s.mayStart c ahead f := by
  have howed : ∀ b, tget 0 ((s.enqueue c f0).chan c).owed b = tget 0 (s.chan c).owed b := fun b => by rw [enqueue_chan_same]
  have hcopy : ∀ d, ((s.enqueue c f0).chan d).copyRows = (s.chan d).copyRows := by
    intro d
    by_cases hd : c = d
    · rw [← hd, enqueue_chan_same]
    · rw [enqueue_chan_ne s f0 hd]
  have hflails : ∀ d (p : FlailCmd → Bool), ((s.enqueue c f0).chan d).flails.any (fun g => decide (g.no < f.no) && p g) =
      (s.chan d).flails.any (fun g => decide (g.no < f.no) && p g) := by
    intro d p
    by_cases hd : c = d
    · subst hd
      rw [enqueue_chan_same, List.any_append, List.any_cons, List.any_nil,
        show decide ((f0.queued c s.arrivals).no < f.no) = false from decide_eq_false (Nat.not_lt.mpr hno), Bool.false_and, Bool.or_false,
        Bool.or_false]
    · rw [enqueue_chan_ne s f0 hd]
  have hway : ∀ a n, (s.enqueue c f0).flailInWay a n f.no = s.flailInWay a n f.no := by
    intro a n
    rw [State.flailInWay, State.flailInWay, State.flailChans, State.flailChans]
    simp only [Bool.and_assoc, hflails]
    rfl
  have hcopyWay : ∀ a n, (s.enqueue c f0).copyInWay a n = s.copyInWay a n := by
    intro a n
    rw [State.copyInWay, State.copyInWay]
    simp only [hcopy]
    rfl
  unfold State.mayStart
  simp only [howed, hway, hcopyWay]
  rfl

/-! ## A command that reaches its bank -/

/-- The command that FLAIL commands and the port queue. -/
def State.flailOf (s : State) (c op : Nat) (w : FlailWords) (data : List Byte) (port : Bool) : FlailCmd :=
  { op := op, bank := fwBankNo w, words := w, data := data, port := port
    src := if op = 1 ∧ port then some (s.getF F.fllPaddr_addr c, loadqBytes w) else none
    left := if op = 2 ∧ !port then scorePieces c w else 1 }

/-- The FRAG by which the controller sends the first part of a split record. -/
def fragOf (w : FlailWords) (port : Bool) (p : Nat × Nat) : FlailCmd :=
  { op := 6, bank := fwBankNo w, words := w, port := port, src := some p }

section
variable {s : State} {c op : Nat} {w : FlailWords} {data : List Byte} {port : Bool} (hw : s.flailsWork c = true)
include hw

theorem flailCmd_whole (h : op ≠ 2 ∨ splitPart c w = none ∨ tget [] (s.chan c).frags (fwBankNo w) ≠ []) :
    s.flailCmd c op w data port = (s.enqueue c (s.flailOf c op w data port)).startFlails c := by
  unfold State.flailCmd
  rw [if_neg (by rw [hw]; decide)]
  extract_lets b u
  have hu : u = s := by
    dsimp only [u]
    split
    · next p hp =>
      refine if_neg ?_
      rintro ⟨h2, hf⟩
      rcases h with h | h | h
      · exact h h2
      · exact absurd (h.symm.trans hp) (by simp)
      · rw [Chan.hasFrag, List.isEmpty_eq_false_iff.mpr h] at hf
        simp at hf
    · rfl
  rw [hu]
  rfl

theorem flailCmd_split {p : Nat × Nat} (h2 : op = 2) (hp : splitPart c w = some p) (hf : (s.chan c).hasFrag (fwBankNo w) = false) :
    s.flailCmd c op w data port =
      ((s.enqueue c (fragOf w port p)).enqueue c ((s.enqueue c (fragOf w port p)).flailOf c op w data port)).startFlails c := by
  unfold State.flailCmd
  rw [if_neg (by rw [hw]; decide)]
  extract_lets b u
  have hu : u = s.enqueue c (fragOf w port p) := by
    dsimp only [u]
    rw [hp]
    exact if_pos ⟨h2, by rw [hf]; rfl⟩
  rw [hu]
  rfl
end

/-- Nothing keeps a command from its banks. -/
structure BankFree (s : State) (c op : Nat) (w : FlailWords) : Prop where
  access : ∀ a ∈ s.accWait, ∀ r ∈ s.localRanges a.addr a.bytes, r.1 ≠ c
  owed : ∀ b ∈ flailBanks c op w, tget 0 (s.chan c).owed b < 8
  ahead : ∀ g ∈ (s.chan c).flails, g.running = true ∧ FlailCmd.after { op := op, bank := fwBankNo w, words := w, banks := flailBanks c op w } g = false
  cool : (s.stackSt (stackOf c)).hotHold = false

theorem srcBank_none {f : FlailCmd} (h : f.src = none) : f.srcBank = [] := by
  unfold FlailCmd.srcBank
  rw [h]
  split
  · next hp => cases hp
  · rfl

/-- A command of a stage or of the Rake with free banks may start at once. -/
theorem mayStart_of_bankFree {s : State} {c op : Nat} {w : FlailWords} {f : FlailCmd} (h : BankFree s c op w) (hop : f.op = op)
    (hbanks : f.banks = flailBanks c op w) (hsrc : f.src = none) : s.mayStart c (s.chan c).flails f = true := by
  obtain ⟨hacc, howed, hahead, hcool⟩ := h
  have hafter : (s.chan c).flails.any f.after = false := by
    rw [List.any_eq_false]
    intro g hg
    have hsame : f.after g = FlailCmd.after { op := op, bank := fwBankNo w, words := w, banks := flailBanks c op w } g := by
      rw [FlailCmd.after, FlailCmd.after, srcBank_none hsrc,
        srcBank_none (f := { op := op, bank := fwBankNo w, words := w, banks := flailBanks c op w }) rfl, hop, hbanks]
    rw [hsame, (hahead g hg).2]
    decide
  have hbank : f.banks.all (fun b => decide (tget 0 (s.chan c).owed b < 8)) = true := by
    rw [hbanks, List.all_eq_true]
    exact fun b hb => decide_eq_true (howed b hb)
  have hwait : s.accWait.any (fun a => decide (a.no < f.no) && (s.localRanges a.addr a.bytes).any (fun r => r.1 == c &&
      f.op != 1 && f.banks.any (rangeInBank r.2.1 r.2.2))) = false := by
    rw [List.any_eq_false]
    intro a ha
    have hnone : (s.localRanges a.addr a.bytes).any (fun r => r.1 == c && f.op != 1 && f.banks.any (rangeInBank r.2.1 r.2.2)) = false := by
      rw [List.any_eq_false]
      intro r hr
      rw [beq_false_of_ne (hacc a ha r hr), Bool.false_and, Bool.false_and]
      decide
    rw [hnone, Bool.and_false]
    decide
  rw [State.mayStart, hcool, hafter, hbank, hwait, hsrc]
  rfl

theorem flailCmd_runs {s : State} {c op : Nat} {w : FlailWords} {data : List Byte} (hw : s.flailsWork c = true) (hb : BankFree s c op w)
    (h : op ≠ 2 ∨ splitPart c w = none ∨ tget [] (s.chan c).frags (fwBankNo w) ≠ []) :
    (∃ f, (s.flailCmd c op w data false).chan c = { s.chan c with flails := (s.chan c).flails ++ [f] } ∧
      f.op = op ∧ f.bank = fwBankNo w ∧ f.words = w ∧ f.data = data ∧ f.port = false ∧ f.running = true) ∧
    (∀ d, d ≠ c → (s.flailCmd c op w data false).chan d = s.chan d) ∧ sameRegs [regKey R.fllStat c] s (s.flailCmd c op w data false) ∧
    sameMemories s (s.flailCmd c op w data false) := by
  rw [flailCmd_whole hw h]
  obtain ⟨hchan, hothers, hregs, ⟨_, _, hframe⟩⟩ := startFlails_spec (s.enqueue c (s.flailOf c op w data false)) c
  have hstart : (s.enqueue c (s.flailOf c op w data false)).mayStart c (s.chan c).flails ((s.flailOf c op w data false).queued c s.arrivals) = true := by
    rw [mayStart_enqueue s c _ _ _ (Nat.le_refl _)]
    refine mayStart_of_bankFree hb rfl rfl ?_
    exact if_neg (fun h => absurd h.2 (by decide))
  rw [enqueue_chan_same, started_one _ c _ _ (fun g hg => (hb.ahead g hg).1) rfl, hstart] at hchan
  refine ⟨⟨_, hchan, rfl, rfl, rfl, rfl, rfl, rfl⟩, fun d hd => (hothers d hd).trans (enqueue_chan_ne s _ hd.symm), hregs, ?_⟩
  rw [hframe]
  exact ⟨rfl, rfl, rfl, rfl, rfl⟩

/-- The SCORE of a split record waits for the FRAG of its first part. -/
theorem flailCmd_waits {s : State} {c op : Nat} {w : FlailWords} {data : List Byte} {p : Nat × Nat} (hw : s.flailsWork c = true)
    (hb : BankFree s c op w) (h2 : op = 2) (hp : splitPart c w = some p) (hf : (s.chan c).hasFrag (fwBankNo w) = false) :
    (∃ f g, (s.flailCmd c op w data false).chan c = { s.chan c with flails := (s.chan c).flails ++ [f, g] } ∧
      (f.op = 6 ∧ f.bank = fwBankNo w ∧ f.src = some p) ∧ g.op = 2 ∧ g.bank = fwBankNo w ∧ g.words = w ∧ g.running = false) ∧
    (∀ d, d ≠ c → (s.flailCmd c op w data false).chan d = s.chan d) ∧ sameRegs [regKey R.fllStat c] s (s.flailCmd c op w data false) ∧
    sameMemories s (s.flailCmd c op w data false) := by
  rw [flailCmd_split hw h2 hp hf]
  obtain ⟨u, hu⟩ : ∃ u, u = s.enqueue c (fragOf w false p) := ⟨_, rfl⟩
  rw [← hu]
  obtain ⟨hchan, hothers, hregs, ⟨_, _, hframe⟩⟩ := startFlails_spec (u.enqueue c (u.flailOf c op w data false)) c
  have huchan : u.chan c = { s.chan c with flails := (s.chan c).flails ++ [(fragOf w false p).queued c s.arrivals] } := by
    rw [hu]
    exact enqueue_chan_same ..
  have hnot : ∀ (v : State) (ahead : List FlailCmd) (b : Bool), v.mayStart c (ahead ++ [{ (fragOf w false p).queued c s.arrivals with running := b }])
      ((u.flailOf c op w data false).queued c u.arrivals) = false := by
    intro v ahead b
    have hafter : FlailCmd.after ((u.flailOf c op w data false).queued c u.arrivals)
        { (fragOf w false p).queued c s.arrivals with running := b } = true := by
      subst h2
      simp [FlailCmd.after, FlailCmd.queued, State.flailOf, fragOf, flailBanks, FlailCmd.srcBank]
    rw [State.mayStart, List.any_append, List.any_cons, hafter]
    simp
  rw [enqueue_chan_same, huchan, List.append_assoc, List.singleton_append,
    started_two _ c _ _ _ (fun g hg => (hb.ahead g hg).1) rfl rfl, hnot] at hchan
  generalize State.mayStart (u.enqueue c (u.flailOf c op w data false)) c (s.chan c).flails _ = b at hchan
  have hfrag : ∀ x : FlailCmd, x = { (fragOf w false p).queued c s.arrivals with running := b } →
      x.op = 6 ∧ x.bank = fwBankNo w ∧ x.src = some p := by
    rintro x rfl
    exact ⟨rfl, rfl, rfl⟩
  have hscore : ∀ x : FlailCmd, x = { (u.flailOf c op w data false).queued c u.arrivals with running := false } →
      x.op = 2 ∧ x.bank = fwBankNo w ∧ x.words = w ∧ x.running = false := by
    rintro x rfl
    exact ⟨h2, rfl, rfl, rfl⟩
  refine ⟨⟨_, _, hchan, hfrag _ rfl, hscore _ rfl⟩, fun d hd => ?_, ?_, ?_⟩
  · rw [hothers d hd, enqueue_chan_ne u _ hd.symm, hu, enqueue_chan_ne s _ hd.symm]
  · exact fun d k hk => (hregs d k hk).trans (by rw [hu]; rfl)
  · have humem : sameMemories s u := by
      rw [hu]
      exact ⟨rfl, rfl, rfl, rfl, rfl⟩
    rw [hframe]
    exact humem

/-! ## The commands of a stage, the Rake and the matrix of fragments -/

theorem flail_at_once {c : Instr} {ch : BitVec 10} {w : FlailWords} {op : Nat} {data : List Byte} {s : State}
    (he : exec c s = run (fun s => s.flailCmd ch.toNat op w data false) s) (hw : s.flailsWork ch.toNat = true) (hb : BankFree s ch.toNat op w)
    (h : op ≠ 2 ∨ splitPart ch.toNat w = none ∨ tget [] (s.chan ch.toNat).frags (fwBankNo w) ≠ []) : completes c s (fun t =>
        (∃ f ∈ (t.chan ch.toNat).flails, f.op = op ∧ f.bank = fwBankNo w ∧ f.words = w ∧ f.data = data ∧ f.port = false ∧ f.running = true) ∧
        (t.chan ch.toNat).flails.length = (s.chan ch.toNat).flails.length + 1 ∧ (∀ d, d ≠ ch.toNat → t.chan d = s.chan d) ∧
        sameRegs [regKey R.fllStat ch.toNat] s t ∧ sameMemories s t) := by
  obtain ⟨⟨f, hchan, hf⟩, hothers, hregs, hmem⟩ := flailCmd_runs (s := s.begin) (data := data) hw ⟨hb.access, hb.owed, hb.ahead, hb.cool⟩ h
  obtain ⟨u, hu⟩ : ∃ u, s.begin.flailCmd ch.toNat op w data false = u := ⟨_, rfl⟩
  rw [hu] at hchan hothers hregs hmem
  have hflails : (u.chan ch.toNat).flails = (s.chan ch.toNat).flails ++ [f] := by rw [hchan]; rfl
  refine completes_of_eq he hu ⟨⟨f, ?_, hf⟩, ?_, hothers, hregs, hmem⟩
  · show f ∈ (u.chan ch.toNat).flails
    rw [hflails]
    exact List.mem_append_right _ List.mem_cons_self
  · show (u.chan ch.toNat).flails.length = _
    rw [hflails, List.length_append]
    rfl

theorem flail_split {c : Instr} {ch : BitVec 10} {w : FlailWords} {op : Nat} {data : List Byte} {s : State} {p : Nat × Nat}
    (he : exec c s = run (fun s => s.flailCmd ch.toNat op w data false) s) (hw : s.flailsWork ch.toNat = true) (hb : BankFree s ch.toNat op w)
    (h2 : op = 2) (hp : splitPart ch.toNat w = some p) (hf : (s.chan ch.toNat).hasFrag (fwBankNo w) = false) : completes c s (fun t =>
        (∃ f ∈ (t.chan ch.toNat).flails, f.op = 6 ∧ f.bank = fwBankNo w ∧ f.src = some p) ∧
        (∃ f ∈ (t.chan ch.toNat).flails, f.op = 2 ∧ f.bank = fwBankNo w ∧ f.words = w ∧ f.running = false) ∧
        (t.chan ch.toNat).flails.length = (s.chan ch.toNat).flails.length + 2 ∧ (∀ d, d ≠ ch.toNat → t.chan d = s.chan d) ∧
        sameRegs [regKey R.fllStat ch.toNat] s t ∧ sameMemories s t) := by
  obtain ⟨⟨f, g, hchan, hfrag, hscore⟩, hothers, hregs, hmem⟩ := flailCmd_waits (s := s.begin) (data := data) hw
    ⟨hb.access, hb.owed, hb.ahead, hb.cool⟩ h2 hp hf
  obtain ⟨u, hu⟩ : ∃ u, s.begin.flailCmd ch.toNat op w data false = u := ⟨_, rfl⟩
  rw [hu] at hchan hothers hregs hmem
  have hflails : (u.chan ch.toNat).flails = (s.chan ch.toNat).flails ++ [f, g] := by rw [hchan]; rfl
  refine completes_of_eq he hu ⟨⟨f, ?_, hfrag⟩, ⟨g, ?_, hscore⟩, ?_, hothers, hregs, hmem⟩
  · show f ∈ (u.chan ch.toNat).flails
    rw [hflails]
    exact List.mem_append_right _ List.mem_cons_self
  · show g ∈ (u.chan ch.toNat).flails
    rw [hflails]
    exact List.mem_append_right _ (List.mem_cons_of_mem _ List.mem_cons_self)
  · show (u.chan ch.toNat).flails.length = _
    rw [hflails, List.length_append]
    rfl

/-! ## The command port (R292) -/

theorem portMayStart_iff (s : State) (c op : Nat) (w : FlailWords) : s.portMayStart c op w = true ↔
    ((s.tick.windowOpen = true ∧ (s.chan c).retrainStart = none) ∧ flailTime c op w ≤ 10000 * s.windowLeft s.now) ∧
      s.mayStart c (s.chan c).flails { op := op, bank := fwBankNo w, words := w, banks := flailBanks c op w, port := true, no := s.arrivals
                                       src := if op = 1 then some (s.getF F.fllPaddr_addr c, loadqBytes w) else none } = true := by
  simp only [State.portMayStart, Bool.and_eq_true, decide_eq_true_eq, Option.isNone_iff_eq_none]

/-- What the port has started shows in no condition of a start. -/
theorem mayStart_putF_status (s : State) (c v : Nat) (ahead : List FlailCmd) (f : FlailCmd) :
    (s.putF F.fllPctl_status c v).mayStart c ahead f = s.mayStart c ahead f := by
  have hheld : ∀ a n, (s.putF F.fllPctl_status c v).heldInWay a n = s.heldInWay a n := by
    intro a n
    have hstate : ∀ d, (s.putF F.fllPctl_status c v).chanState d = s.chanState d := fun d =>
      getF_putF_off s F.fllPctl_status F.vccStat_state c d v (by decide)
    rw [State.heldInWay, State.heldInWay]
    simp only [hstate]
    rfl
  unfold State.mayStart
  simp only [hheld]
  rfl

/-- What a start looks at in a command. -/
theorem mayStart_congr (s : State) (c : Nat) (ahead : List FlailCmd) {f g : FlailCmd} (hop : f.op = g.op) (hbanks : f.banks = g.banks)
    (hsrc : f.src = g.src) (hno : f.no = g.no) : s.mayStart c ahead f = s.mayStart c ahead g := by
  have hafter : f.after = g.after := by
    have hbank : f.srcBank = g.srcBank := by rw [FlailCmd.srcBank, FlailCmd.srcBank, hop, hsrc]
    funext x
    rw [FlailCmd.after, FlailCmd.after, hop, hbanks, hbank]
  unfold State.mayStart
  rw [hafter, hop, hbanks, hsrc, hno]

theorem flailsWork_putF_status (s : State) (c v : Nat) : (s.putF F.fllPctl_status c v).flailsWork c = s.flailsWork c := by
  unfold State.flailsWork State.chanErrs State.chanState
  rw [getF_putF_off s F.fllPctl_status F.vccStat_state c c v (by decide), getF_putF_off s F.fllPctl_status F.pwrStat_state c 0 v (by decide)]
  rfl

/-- A command with the port's words starts at once. -/
theorem portStart_runs {s : State} {c op : Nat} {w : FlailWords} (hw : s.flailsWork c = true)
    (hrun : ∀ g ∈ (s.chan c).flails, g.running = true) (hst : s.getF F.fllPctl_status c = 1) (hwords : s.portWords c = w)
    (hmay : s.portMayStart c op w = true) (h : op ≠ 2 ∨ splitPart c w = none ∨ tget [] (s.chan c).frags (fwBankNo w) ≠ []) :
    (∃ f, ((s.portStart c op w).chan c).flails = (s.chan c).flails ++ [f] ∧ f.op = op ∧ f.bank = fwBankNo w ∧ f.words = w ∧
      f.port = true ∧ f.running = true) ∧ (s.portStart c op w).getF F.fllPctl_status c = 2 ∧
    sameRegs [regKey R.fllStat c, regKey R.fllPctl c] s (s.portStart c op w) ∧ sameMemories s (s.portStart c op w) := by
  obtain ⟨v, hv⟩ : ∃ v, v = s.putF F.fllPctl_status c 2 := ⟨_, rfl⟩
  have hvwork : v.flailsWork c = true := by
    rw [hv, flailsWork_putF_status]
    exact hw
  have hvchan : v.chan c = s.chan c := by rw [hv]; rfl
  have hvregs : sameRegs [regKey R.fllStat c, regKey R.fllPctl c] s v := by
    rw [hv]
    exact sameRegs_putF F.fllPctl_status c _ (sameRegs_refl _ s) (List.mem_cons_of_mem _ List.mem_cons_self)
  have hvmem : sameMemories s v := by
    rw [hv]
    exact ⟨rfl, rfl, rfl, rfl, rfl⟩
  have hvstat : v.getF F.fllPctl_status c = 2 := by
    rw [hv]
    exact getF_putF_same _ _ _ _ (by decide)
  have hmay2 : (v.enqueue c (v.flailOf c op w [] true)).mayStart c (s.chan c).flails ((v.flailOf c op w [] true).queued c v.arrivals) = true := by
    rw [mayStart_enqueue v c _ _ _ (Nat.le_refl _), hv, mayStart_putF_status]
    refine Eq.trans ?_ ((portMayStart_iff s c op w).1 hmay).2
    refine mayStart_congr s c _ rfl rfl ?_ rfl
    show (if op = 1 ∧ true = true then _ else _) = _
    rw [getF_putF_off s F.fllPctl_status F.fllPaddr_addr c c 2 (by decide)]
    simp only [and_true]
  have hop : s.portStart c op w = (v.enqueue c (v.flailOf c op w [] true)).startFlails c := by
    rw [← flailCmd_whole hvwork (by rw [hvchan]; exact h), hv]
    refine (if_neg (not_or.mpr ⟨not_not.mpr hst, not_not.mpr hwords⟩)).trans ((if_neg (by rw [hw]; decide)).trans (if_pos hmay))
  obtain ⟨hchan, -, hregs, ⟨_, _, hframe⟩⟩ := startFlails_spec (v.enqueue c (v.flailOf c op w [] true)) c
  rw [enqueue_chan_same, hvchan, started_one _ c _ _ hrun rfl, hmay2] at hchan
  rw [hop]
  refine ⟨⟨_, congrArg (·.flails) hchan, rfl, rfl, rfl, rfl, rfl⟩, ?_, ?_, ?_⟩
  · rw [← hvstat]
    exact getF_of_sameRegs hregs (f := F.fllPctl_status) (fun h => absurd (List.mem_singleton.mp h) (regKey_ne_of_off _ _ _ _ (by decide)))
  · exact fun d k hk => (hregs d k (fun hm => hk (List.mem_cons.mpr (.inl (List.mem_singleton.mp hm))))).trans (hvregs d k hk)
  · rw [hframe]
    exact hvmem

/-- Without go, with other words or while something keeps it, a command of the port does nothing. -/
theorem portStart_waits {s : State} {c op : Nat} {w : FlailWords} (hw : s.flailsWork c = true)
    (h : s.getF F.fllPctl_status c ≠ 1 ∨ s.portWords c ≠ w ∨ s.portMayStart c op w = false) : s.portStart c op w = s := by
  unfold State.portStart
  by_cases h1 : s.getF F.fllPctl_status c ≠ 1 ∨ s.portWords c ≠ w
  · exact if_pos h1
  · rw [if_neg h1, if_neg (by rw [hw]; decide), if_neg]
    rcases h with h | h | h
    · exact absurd (.inl h) h1
    · exact absurd (.inr h) h1
    · rw [h]
      decide

/-! ## The statement -/

theorem exec_flail {c : Instr} {ch : BitVec 10} {w : FlailWords} {op : Nat} {data : List Byte} (s : State)
    (hok : w.ok (BitVec.ofNat 4 op) = true)
    (hc : c = .loadq ch w data true ∧ op = 1 ∨ c = .score ch w [] true ∧ op = 2 ∧ data = [] ∨ c = .scrub ch w [] true ∧ op = 5 ∧ data = [] ∨
      c = .frag ch w data ∧ op = 6) : exec c s = run (fun s => s.flailCmd ch.toNat op w data false) s := by
  obtain ⟨rfl, rfl⟩ | ⟨rfl, rfl, rfl⟩ | ⟨rfl, rfl, rfl⟩ | ⟨rfl, rfl⟩ := hc
  · exact congrArg (fun ok => runIf ok (fun s => s.flailCmd ch.toNat 1 w data false) s) hok
  · exact congrArg (fun ok => runIf ok (fun s => s.flailCmd ch.toNat 2 w [] false) s) hok
  · exact congrArg (fun ok => runIf ok (fun s => s.flailCmd ch.toNat 5 w [] false) s) hok
  · exact congrArg (fun ok => runIf ok (fun s => s.flailCmd ch.toNat 6 w data false) s) hok

theorem exec_port {c : Instr} {ch : BitVec 10} {w : FlailWords} {op : Nat} (s : State) (hok : w.ok (BitVec.ofNat 4 op) = true)
    (hc : c = .loadq ch w [] false ∧ op = 1 ∨ c = .score ch w [] false ∧ op = 2 ∨ c = .topk ch w [] ∧ op = 3 ∨
      c = .requant ch w [] ∧ op = 4 ∨ c = .scrub ch w [] false ∧ op = 5) : exec c s = run (fun s => s.portStart ch.toNat op w) s := by
  obtain ⟨rfl, rfl⟩ | ⟨rfl, rfl⟩ | ⟨rfl, rfl⟩ | ⟨rfl, rfl⟩ | ⟨rfl, rfl⟩ := hc
  · exact congrArg (fun ok => runIf ok (fun s => s.portStart ch.toNat 1 w) s) hok
  · exact congrArg (fun ok => runIf ok (fun s => s.portStart ch.toNat 2 w) s) hok
  · exact congrArg (fun ok => runIf ok (fun s => s.portStart ch.toNat 3 w) s) hok
  · exact congrArg (fun ok => runIf ok (fun s => s.portStart ch.toNat 4 w) s) hok
  · exact congrArg (fun ok => runIf ok (fun s => s.portStart ch.toNat 5 w) s) hok

/-- Settles O44: a command behind others that run starts if nothing keeps it from its banks; a FRAG is queued in front of a split SCORE and
keeps it; the port's command is queued in the same way once its own condition holds. -/
theorem flailCommandsReachTheirBank : Obligations.FlailCommandsReachTheirBank := by
  unfold Obligations.FlailCommandsReachTheirBank
  intro ch w op s hok hw hacc howed hahead hcool
  have hb : BankFree s ch.toNat op w := ⟨hacc, howed, hahead, hcool⟩
  refine ⟨fun c data hc => ⟨fun h => ?_, fun p h2 hp hf => ?_⟩, fun c hc => ⟨fun hst hwords hmay h => ?_, fun h => ?_⟩, fun hmay => ?_⟩
  · exact flail_at_once (exec_flail s hok hc) hw hb h
  · exact flail_split (exec_flail s hok hc) hw hb h2 hp hf
  · obtain ⟨⟨f, hflails, hf⟩, hstat, hregs, hmem⟩ :=
      portStart_runs (s := s.begin) hw (fun g hg => (hahead g hg).1) hst hwords hmay h
    obtain ⟨u, hu⟩ : ∃ u, s.begin.portStart ch.toNat op w = u := ⟨_, rfl⟩
    rw [hu] at hflails hstat hregs hmem
    refine completes_of_eq (exec_port s hok hc) hu ⟨⟨f, ?_, hf⟩, hstat, hregs, hmem⟩
    show f ∈ (u.chan ch.toNat).flails
    rw [hflails]
    exact List.mem_append_right _ List.mem_cons_self
  · exact idles_of_run (exec_port s hok hc) (portStart_waits (s := s.begin) hw h)
  · obtain ⟨⟨⟨hwindow, hretrain⟩, htime⟩, -⟩ := (portMayStart_iff s ch.toNat op w).1 hmay
    exact ⟨hwindow, htime, hretrain⟩

end Sys2Proof.Machine
end

section
/-! SUPPORT. Flail operations that end: what their reports leave alone, what goes on behind them, LOADQ, FRAG, SCRUB and the parts of a SCORE
(R273, R275, R277, R278, R282), the go bit of the command port (R292), and the statement on them (O45). -/
namespace Sys2Proof.Machine

/-! ## What a report leaves alone -/

/-- Device memory, its check bits and the work that waits stay as they are. -/
def keepsWork (s u : State) : Prop :=
  u.devMem = s.devMem ∧ u.loftErr = s.loftErr ∧ u.accWait = s.accWait ∧ u.ctl = s.ctl ∧ u.cells = s.cells

theorem keepsWork_refl (s : State) : keepsWork s s := ⟨rfl, rfl, rfl, rfl, rfl⟩

theorem keepsWork_trans (s t u : State) (h : keepsWork s t) (h' : keepsWork t u) : keepsWork s u := by
  obtain ⟨hm, he, ha, hc, hk⟩ := h
  obtain ⟨hm', he', ha', hc', hk'⟩ := h'
  exact ⟨hm'.trans hm, he'.trans he, ha'.trans ha, hc'.trans hc, hk'.trans hk⟩

theorem keepsWork_ite {s t u : State} {c : Prop} [Decidable c] (h : keepsWork s t) (h' : keepsWork s u) :
    keepsWork s (if c then t else u) := by
  split
  · exact h
  · exact h'

theorem keepsWork_raise (s : State) (code cls idx : Nat) (arg : Word) (payload : List Byte) :
    keepsWork s (s.raise code cls idx arg payload) := by
  obtain ⟨⟨_, _, _, _, _, _, _, h⟩, -⟩ := eventPath_raise (ks := [regKey R.hstEvqStat 0, regKey R.stdBootRet 0]) (s := s)
    code cls idx arg payload (by simp) (by simp)
  rw [h]
  exact ⟨rfl, rfl, rfl, rfl, rfl⟩

theorem keepsWork_errsum (s : State) (is : List Nat) (b : Nat) : keepsWork s (s.errsum is b) := by
  rw [errsum_frame]
  exact ⟨rfl, rfl, rfl, rfl, rfl⟩

theorem keepsWork_urgentRetrain (s : State) (c : Nat) : keepsWork s (s.urgentRetrain c) := by
  exact ⟨rfl, rfl, rfl, rfl, rfl⟩

theorem keepsWork_corrected (s : State) (b : BucketId) : keepsWork s (s.corrected b) := by
  unfold State.corrected
  extract_lets -merge +onlyGivenNames i th s1 lv s2 s3 s4 s5 s6
  have h1 : keepsWork s s1 := ⟨rfl, rfl, rfl, rfl, rfl⟩
  clear_value s1
  have h2 : keepsWork s s2 := h1
  have h3 : keepsWork s s3 := by
    clear_value s2
    dsimp only [s3, State.halfReached]
    split
    · exact keepsWork_trans _ _ _ h2 (keepsWork_ite (keepsWork_urgentRetrain { s2 with halfAsked := _ } _) (keepsWork_refl s2))
    · exact h2
  clear_value s3
  have h4 : keepsWork s s4 := h3
  clear_value s4
  have h5 : keepsWork s s5 := h4
  clear_value s5
  have h6 : keepsWork s s6 := by
    dsimp only [s6]
    split
    · exact h5
    · exact keepsWork_trans _ _ _ h5 (keepsWork_errsum ..)
  clear_value s6
  exact keepsWork_ite h1 (keepsWork_ite (keepsWork_trans _ _ _ h6 (keepsWork_raise ..)) h3)

theorem keepsWork_ueRecord (s : State) (r : UeRec) : keepsWork s (s.ueRecord r) := by
  unfold State.ueRecord
  extract_lets -merge +onlyGivenNames r1 s1 more s2 s3 s4
  have h1 : keepsWork s s1 := keepsWork_ite (keepsWork_errsum ..) (keepsWork_refl s)
  refine keepsWork_ite ?_ ?_
  · split
    · exact keepsWork_ite h1 h1
    · exact h1
  · have h4 : keepsWork s s4 := keepsWork_trans _ _ _ h1 (keepsWork_ite ⟨rfl, rfl, rfl, rfl, rfl⟩ ⟨rfl, rfl, rfl, rfl, rfl⟩)
    exact keepsWork_ite h4 (keepsWork_trans _ _ _ h4 (keepsWork_raise ..))

theorem keepsWork_rakeFixed (s : State) (w b : Nat) : keepsWork s (s.rakeFixed w b) := by
  unfold State.rakeFixed State.rakeLog
  extract_lets -merge +onlyGivenNames s1 h s2 s3
  have h2 : keepsWork s s2 := keepsWork_ite ⟨rfl, rfl, rfl, rfl, rfl⟩ ⟨rfl, rfl, rfl, rfl, rfl⟩
  have h3 : keepsWork s s3 := keepsWork_trans s s2 s3 h2 ⟨rfl, rfl, rfl, rfl, rfl⟩
  exact keepsWork_trans s s3 _ h3 (foldl_rel (f := fun s q => s.putF F.rakLogsel_head q ((h + 1) % 4096)) keepsWork_refl keepsWork_trans
    (fun _ _ => ⟨rfl, rfl, rfl, rfl, rfl⟩) _ s3)

/-- What the Rake's scrub of a row meets. -/
theorem keepsWork_flailBad (s : State) (c : Nat) {f : FlailCmd} (hport : f.port = false) (hop : f.op = 5) (bad : List Nat) :
    keepsWork s (s.flailBad c f bad) := by
  refine keepsWork_trans s (s.flailMet c f bad) _ ?_ ⟨rfl, rfl, rfl, rfl, rfl⟩
  refine foldl_rel keepsWork_refl keepsWork_trans (fun s w => ?_) bad s
  rw [if_neg (by rw [hport]; decide), if_pos hop]
  exact keepsWork_ueRecord ..

/-! ## The scrub of a row (R282) -/

/-- The Rake rewrites a word that it can correct. -/
def State.scrubWord (s : State) (c w : Nat) : State :=
  let b := s.errBit w
  let s := ((s.corrected (.chan c)).bump F.fllEcc_corrected c).rakeFixed w b
  { s with loftErr := tput 0 s.loftErr w 0 }

theorem scrubWord_spec (s : State) (c w : Nat) : (s.scrubWord c w).loftErr = tput 0 s.loftErr w 0 ∧ (s.scrubWord c w).devMem = s.devMem ∧
    (s.scrubWord c w).accWait = s.accWait ∧ (s.scrubWord c w).ctl = s.ctl ∧ (s.scrubWord c w).cells = s.cells := by
  unfold State.scrubWord
  extract_lets -merge +onlyGivenNames b u
  have h : keepsWork s u := keepsWork_trans _ (s.corrected (.chan c)) _ (keepsWork_corrected s _) (keepsWork_rakeFixed ((s.corrected (.chan c)).bump _ _ _) w b)
  clear_value u
  obtain ⟨hm, he, ha, hc, hk⟩ := h
  exact ⟨congrArg (tput 0 · w 0) he, hm, ha, hc, hk⟩

theorem foldl_scrubWord (c : Nat) (ws : List Nat) (s : State) :
    (∀ w, tget 0 (ws.foldl (fun s w => s.scrubWord c w) s).loftErr w = if w ∈ ws then 0 else tget 0 s.loftErr w) ∧
    (ws.foldl (fun s w => s.scrubWord c w) s).devMem = s.devMem ∧ (ws.foldl (fun s w => s.scrubWord c w) s).accWait = s.accWait ∧
    (ws.foldl (fun s w => s.scrubWord c w) s).ctl = s.ctl ∧ (ws.foldl (fun s w => s.scrubWord c w) s).cells = s.cells := by
  induction ws generalizing s with
  | nil => simp
  | cons a l ih =>
    obtain ⟨he, hm, ha, hc, hk⟩ := scrubWord_spec s c a
    obtain ⟨he', hm', ha', hc', hk'⟩ := ih (s.scrubWord c a)
    refine ⟨fun w => ?_, hm'.trans hm, ha'.trans ha, hc'.trans hc, hk'.trans hk⟩
    rw [List.foldl_cons, he', he]
    by_cases hw : w ∈ l
    · rw [if_pos hw, if_pos (List.mem_cons_of_mem a hw)]
    · rw [if_neg hw, tget_tput]
      by_cases hwa : a = w
      · rw [if_pos hwa, if_pos (hwa ▸ List.mem_cons_self)]
      · rw [if_neg hwa, if_neg (fun h => (List.mem_cons.mp h).elim (fun h => hwa h.symm) hw)]

/-- The words of the row that can be corrected are as written; the others keep what their check bits say. -/
theorem scrubEnds_spec {s : State} {c : Nat} {f : FlailCmd} (hport : f.port = false) (hop : f.op = 5) :
    (∀ w, tget 0 (s.scrubEnds c f).loftErr w = if w ∈ ((List.range 256).map (fun i => fwRowAt f.words c / 8 + i)).filter (fun w => s.wordErr w == 1)
      then 0 else tget 0 s.loftErr w) ∧ (s.scrubEnds c f).devMem = s.devMem ∧ (s.scrubEnds c f).accWait = s.accWait ∧
    (s.scrubEnds c f).ctl = s.ctl ∧ (s.scrubEnds c f).cells = s.cells := by
  unfold State.scrubEnds
  rw [if_neg (by rw [hport]; decide)]
  unfold State.scrubRow
  extract_lets -merge +onlyGivenNames a ws bad u v
  have hu : u = (ws.filter (fun w => s.wordErr w == 1)).foldl (fun s w => s.scrubWord c w) s := by
    have hone : (fun (s : State) w => { (if f.port = true then (s.corrected (.chan c)).bump F.fllEcc_corrected c else
        ((s.corrected (.chan c)).bump F.fllEcc_corrected c).rakeFixed w (s.errBit w)) with loftErr := tput 0 (if f.port = true then
          (s.corrected (.chan c)).bump F.fllEcc_corrected c else
          ((s.corrected (.chan c)).bump F.fllEcc_corrected c).rakeFixed w (s.errBit w)).loftErr w 0 }) = fun s w => s.scrubWord c w := by
      funext s w
      rw [if_neg (by rw [hport]; decide)]
      rfl
    exact congrArg (fun g => (ws.filter (fun w => s.wordErr w == 1)).foldl g s) hone
  obtain ⟨he, hm, ha, hc, hk⟩ := foldl_scrubWord c (ws.filter (fun w => s.wordErr w == 1)) s
  rw [← hu] at he hm ha hc hk
  obtain ⟨hm', he', ha', hc', hk'⟩ := keepsWork_flailBad v c hport hop bad
  refine ⟨fun w => ?_, hm'.trans hm, ha'.trans ha, hc'.trans hc, hk'.trans hk⟩
  rw [← he w]
  exact congrArg (tget 0 · w) he'

/-! ## What goes on behind an operation -/

/-- The commands of every channel are as many, and all else but registers and channels is as it was. -/
structure GoneOn (s u : State) : Prop where
  frame : ∃ regs chans, u = { s with regs := regs, chans := chans }
  chan : ∀ c, ∃ fs, u.chan c = { s.chan c with flails := fs } ∧ fs.length = (s.chan c).flails.length
  regs : ∀ f : Fld, f.reg.off / 8 ≠ R.fllStat.off / 8 → ∀ c, u.getF f c = s.getF f c
  valid : ∀ c, u.getF F.fllStat_qvalid c = s.getF F.fllStat_qvalid c

theorem goneOn_refl (s : State) : GoneOn s s := ⟨⟨_, _, rfl⟩, fun _ => ⟨_, rfl, rfl⟩, fun _ _ _ => rfl, fun _ => rfl⟩

theorem goneOn_trans (s t u : State) (h : GoneOn s t) (h' : GoneOn t u) : GoneOn s u := by
  obtain ⟨⟨_, _, hf⟩, hc, hr, hv⟩ := h
  obtain ⟨⟨_, _, hf'⟩, hc', hr', hv'⟩ := h'
  refine ⟨⟨_, _, by rw [hf', hf]⟩, fun c => ?_, fun f hne c => (hr' f hne c).trans (hr f hne c), fun c => (hv' c).trans (hv c)⟩
  obtain ⟨fs, hfs, hl⟩ := hc c
  obtain ⟨fs', hfs', hl'⟩ := hc' c
  refine ⟨fs', by rw [hfs', hfs], ?_⟩
  rw [hl', ← hl, hfs]

theorem length_started (s : State) (c : Nat) (fs : List FlailCmd) : (s.started c fs).length = fs.length := by
  have h : ∀ (l acc : List FlailCmd), (l.foldl (fun acc f => acc ++ [if f.running then f else { f with running := s.mayStart c acc f }]) acc).length
      = acc.length + l.length := by
    intro l
    induction l with
    | nil => intro acc; rfl
    | cons a l ih =>
      intro acc
      rw [List.foldl_cons, ih, List.length_append, List.length_singleton, List.length_cons, Nat.add_assoc, Nat.add_comm 1]
  rw [State.started, h, List.length_nil, Nat.zero_add]

/-- What shows of a channel's commands is three counts in one register. -/
theorem getF_showFlails (s : State) (c d : Nat) {g : Fld} (h : g.reg.off / 8 ≠ R.fllStat.off / 8 ∨ g = F.fllStat_qvalid) :
    (s.showFlails c).getF g d = s.getF g d := by
  have hone : ∀ (t : State) (f : Fld) (v : Nat), f = F.fllStat_held ∨ f = F.fllStat_queued ∨ f = F.fllStat_active →
      (t.putF f c v).getF g d = t.getF g d := by
    intro t f v hf
    obtain h | rfl := h
    · refine getF_putF_off t f g c d v ?_
      obtain rfl | rfl | rfl := hf <;> exact h.symm
    · obtain rfl | rfl | rfl := hf <;> exact getF_putF_beside t c d v rfl (by decide) (by decide)
  exact (hone _ F.fllStat_held _ (.inl rfl)).trans ((hone _ F.fllStat_queued _ (.inr (.inl rfl))).trans (hone s F.fllStat_active _ (.inr (.inr rfl))))

theorem goneOn_startFlails (s : State) (c : Nat) : GoneOn s (s.startFlails c) := by
  obtain ⟨hc, ho, -, hf⟩ := startFlails_spec s c
  have hshow : ∀ {g : Fld}, g.reg.off / 8 ≠ R.fllStat.off / 8 ∨ g = F.fllStat_qvalid → ∀ d, (s.startFlails c).getF g d = s.getF g d :=
    fun hg d => getF_showFlails (s.modChan c (fun x => { x with flails := s.started c x.flails })) c d hg
  refine ⟨hf, fun d => ?_, fun g hg => hshow (.inl hg), hshow (.inr rfl)⟩
  by_cases hd : d = c
  · rw [hd]
    exact ⟨_, hc, length_started ..⟩
  · exact ⟨_, ho d hd, rfl⟩

theorem goOn_goneOn {s : State} (ha : s.accWait = []) (hs : stagesGo s) : GoneOn s s.goOn := by
  rw [State.goOn, ha, List.foldl_nil, ← ha, resumeCells_idle (s := s) hs]
  exact foldl_rel goneOn_refl goneOn_trans goneOn_startFlails _ s

/-- What is shown of a channel and what starts behind an operation that has ended. -/
theorem goneOn_ended {u : State} (c : Nat) (ha : u.accWait = []) (hs : stagesGo u) : GoneOn u (u.showFlails c).goOn := by
  refine goneOn_trans u (u.showFlails c) _ ?_ (goOn_goneOn ha hs)
  exact ⟨⟨_, _, rfl⟩, fun _ => ⟨_, rfl, rfl⟩, fun g hg d => getF_showFlails u c d (.inl hg), fun d => getF_showFlails u c d (.inr rfl)⟩

/-! ## An operation ends -/

/-- An operation leaves its channel's queue. -/
def State.unqueued (s : State) (c : Nat) (f : FlailCmd) (now : Nat) : State :=
  (s.at_ now).modChan c (fun x => { x with flails := x.flails.erase f })

theorem unqueued_chan (s : State) (c : Nat) (f : FlailCmd) (now : Nat) :
    (s.unqueued c f now).chan c = { s.chan c with flails := (s.chan c).flails.erase f } := chan_setChan_same ..

theorem wordErr_unqueued (s : State) (c : Nat) (f : FlailCmd) (now w : Nat) : (s.unqueued c f now).wordErr w = s.wordErr w := by
  have hlost : (s.unqueued c f now).isLost w = s.isLost w := by
    rw [State.isLost, State.isLost]
    by_cases hd : c = chanAt (8 * w)
    · rw [← hd, unqueued_chan]
    · rw [State.unqueued, State.modChan, chan_setChan_ne _ _ hd]
      rfl
  rw [State.wordErr, State.wordErr, hlost]
  rfl

section
variable {s : State} {c b now : Nat} {f : FlailCmd} (hf : (s.chan c).flails.find? (fun f => f.running && f.bank == b) = some f)
include hf

theorem unqueued_length : ((s.unqueued c f now).chan c).flails.length + 1 = (s.chan c).flails.length := by
  rw [unqueued_chan]
  have hmem := List.mem_of_find?_eq_some hf
  show ((s.chan c).flails.erase f).length + 1 = _
  rw [List.length_erase_of_mem hmem]
  exact Nat.sub_add_cancel (List.length_pos_of_mem hmem)

theorem opFlailComplete_last (hl : f.left ≤ 1) : opFlailComplete c b now s = (((s.unqueued c f now).opEnds c f).showFlails c).goOn := by
  have hf' : ((s.at_ now).chan c).flails.find? (fun f => f.running && f.bank == b) = some f := hf
  unfold opFlailComplete
  extract_lets s0
  rw [show (s0.chan c).flails.find? _ = some f from hf']
  exact if_neg (Nat.not_lt.mpr hl)

/-- One of the operations that a SCORE is split into: it counts, and the next may start. -/
theorem opFlailComplete_part (hl : 1 < f.left) :
    (opFlailComplete c b now s).getF F.fllOps_score c = min (s.getF F.fllOps_score c + 1) (2 ^ 32 - 1) ∧
    ((opFlailComplete c b now s).chan c).flails.length = (s.chan c).flails.length ∧ (opFlailComplete c b now s).out = s.out ∧
    sameMemories s (opFlailComplete c b now s) := by
  have hf' : ((s.at_ now).chan c).flails.find? (fun f => f.running && f.bank == b) = some f := hf
  obtain ⟨v, hv⟩ : ∃ v, v = ((s.at_ now).bump F.fllOps_score c).modChan c (fun x => { x with
    flails := x.flails.map (fun g => if g = f then { f with left := f.left - 1, running := false } else g) }) := ⟨_, rfl⟩
  have hop : opFlailComplete c b now s = v.startFlails c := by
    rw [hv]
    unfold opFlailComplete
    extract_lets s0
    rw [show (s0.chan c).flails.find? _ = some f from hf']
    exact if_pos hl
  have hlen : (v.chan c).flails.length = (s.chan c).flails.length := by
    rw [hv, State.modChan, chan_setChan_same]
    exact List.length_map _
  have hcount : v.getF F.fllOps_score c = min (s.getF F.fllOps_score c + 1) (2 ^ 32 - 1) := by
    rw [hv]
    exact getF_bump (s.at_ now) F.fllOps_score c 1 (by decide)
  have hvmem : sameMemories s v := by
    rw [hv]
    exact ⟨rfl, rfl, rfl, rfl, rfl⟩
  have hvout : v.out = s.out := by rw [hv]; rfl
  obtain ⟨⟨_, _, hframe⟩, hchan, hregs, -⟩ := goneOn_startFlails v c
  obtain ⟨fs, hfs, hl'⟩ := hchan c
  rw [hop]
  refine ⟨(hregs _ (by decide) c).trans hcount, ?_, by rw [hframe]; exact hvout, by rw [hframe]; exact hvmem⟩
  rw [hfs, ← hlen]
  exact hl'

variable (hl : f.left ≤ 1) (ha : s.accWait = []) (hs : stagesGo s)
include hl ha hs

/-- A LOADQ (R273). -/
theorem loadq_ends (hport : f.port = false) (hop : f.op = 1) :
    ((opFlailComplete c b now s).chan c).qbuf = some (slice f.data 0 (up64 ((fwCount f.words + 1) * fwDh f.words) + 128)) ∧
    ((opFlailComplete c b now s).chan c).qhead = fwCount f.words + 1 ∧ ((opFlailComplete c b now s).chan c).qdh = fwDh f.words ∧
    ((opFlailComplete c b now s).chan c).maxima = [] ∧ (opFlailComplete c b now s).onF F.fllStat_qvalid c = true ∧
    ((opFlailComplete c b now s).chan c).flails.length + 1 = (s.chan c).flails.length ∧ sameMemories s (opFlailComplete c b now s) := by
  rw [opFlailComplete_last hf hl]
  obtain ⟨v, hv⟩ : ∃ v, v = s.unqueued c f now := ⟨_, rfl⟩
  have hlen : (v.chan c).flails.length + 1 = (s.chan c).flails.length := by
    rw [hv]
    exact unqueued_length hf
  obtain ⟨u, hu⟩ : ∃ u, u = ((v.bump F.fllOps_other c).modChan c (fun x => { x with
    qbuf := some (slice f.data 0 (loadqBytes f.words)), qhead := fwCount f.words + 1, qdh := fwDh f.words, maxima := [] })).putF
      F.fllStat_qvalid c 1 := ⟨_, rfl⟩
  have hends : v.opEnds c f = u := by
    rw [State.opEnds, if_pos hop, hu]
    unfold State.loadqEnds
    simp only [hport]
    rfl
  have huchan : u.chan c = { v.chan c with
      qbuf := some (slice f.data 0 (loadqBytes f.words)), qhead := fwCount f.words + 1, qdh := fwDh f.words, maxima := [] } := by
    rw [hu]
    exact chan_setChan_same ..
  have huq : u.getF F.fllStat_qvalid c = 1 := by
    rw [hu]
    exact getF_putF_same _ _ _ _ (by decide)
  have hrest : sameMemories s u ∧ u.accWait = [] ∧ stagesGo u := by
    rw [hu, hv]
    exact ⟨⟨rfl, rfl, rfl, rfl, rfl⟩, ha, hs⟩
  obtain ⟨hmem, hua, hus⟩ := hrest
  obtain ⟨⟨_, _, hframe⟩, hchan, -, hvalid⟩ := goneOn_ended c hua hus
  obtain ⟨fs, hfs, hl'⟩ := hchan c
  rw [← hv, hends, hfs, huchan]
  rw [huchan] at hl'
  refine ⟨rfl, rfl, rfl, rfl, ?_, ?_, by rw [hframe]; exact hmem⟩
  · rw [State.onF, hvalid, huq]
    rfl
  · rw [← hlen, ← hl']

/-- A FRAG with its data (R277). -/
theorem frag_ends (hop : f.op = 6) (hsrc : f.src = none) :
    tget [] ((opFlailComplete c b now s).chan c).frags f.bank = slice f.data 0 (min 512 (ceilDiv f.data.length 256 * 256)) ∧
    ((opFlailComplete c b now s).chan c).flails.length + 1 = (s.chan c).flails.length ∧ sameMemories s (opFlailComplete c b now s) := by
  rw [opFlailComplete_last hf hl]
  obtain ⟨v, hv⟩ : ∃ v, v = s.unqueued c f now := ⟨_, rfl⟩
  have hlen : (v.chan c).flails.length + 1 = (s.chan c).flails.length := by
    rw [hv]
    exact unqueued_length hf
  obtain ⟨u, hu⟩ : ∃ u, u = (v.modChan c (fun x => { x with
    frags := tput [] x.frags f.bank (slice f.data 0 (min 512 (ceilDiv f.data.length 256 * 256))) })).bump F.fllOps_other c := ⟨_, rfl⟩
  have hends : v.opEnds c f = u := by
    rw [State.opEnds, hop, hu]
    unfold State.fragEnds
    rw [hsrc]
    rfl
  have huchan : u.chan c = { v.chan c with
      frags := tput [] (v.chan c).frags f.bank (slice f.data 0 (min 512 (ceilDiv f.data.length 256 * 256))) } := by
    rw [hu]
    exact chan_setChan_same ..
  have hrest : sameMemories s u ∧ u.accWait = [] ∧ stagesGo u := by
    rw [hu, hv]
    exact ⟨⟨rfl, rfl, rfl, rfl, rfl⟩, ha, hs⟩
  obtain ⟨hmem, hua, hus⟩ := hrest
  obtain ⟨⟨_, _, hframe⟩, hchan, -, -⟩ := goneOn_ended c hua hus
  obtain ⟨fs, hfs, hl'⟩ := hchan c
  rw [← hv, hends, hfs, huchan]
  rw [huchan] at hl'
  refine ⟨tget_tput_same .., ?_, by rw [hframe]; exact hmem⟩
  rw [← hlen, ← hl']

/-- A SCRUB of the Rake (R282). -/
theorem scrub_ends (hport : f.port = false) (hop : f.op = 5) :
    (∀ i, i < 256 → s.wordErr (fwRowAt f.words c / 8 + i) = 1 → tget 0 (opFlailComplete c b now s).loftErr (fwRowAt f.words c / 8 + i) = 0) ∧
    (∀ w, w < fwRowAt f.words c / 8 ∨ fwRowAt f.words c / 8 + 256 ≤ w → tget 0 (opFlailComplete c b now s).loftErr w = tget 0 s.loftErr w) ∧
    (opFlailComplete c b now s).devMem = s.devMem := by
  rw [opFlailComplete_last hf hl]
  have hends : (s.unqueued c f now).opEnds c f = (s.unqueued c f now).scrubEnds c f := by
    rw [State.opEnds, hop]
    rfl
  obtain ⟨he, hm, hacc, hctl, hcells⟩ := scrubEnds_spec (s := s.unqueued c f now) (c := c) hport hop
  rw [← hends] at he hm hacc hctl hcells
  obtain ⟨u, hu⟩ : ∃ u, (s.unqueued c f now).opEnds c f = u := ⟨_, rfl⟩
  rw [hu] at he hm hacc hctl hcells ⊢
  have hus : stagesGo u := by
    rw [stagesGo, hctl, hcells]
    exact hs
  obtain ⟨⟨_, _, hframe⟩, -, -, -⟩ := goneOn_ended c (hacc.trans ha) hus
  rw [hframe]
  refine ⟨fun i hi hw => ?_, fun w hw => ?_, hm⟩
  · refine (he _).trans (if_pos ?_)
    rw [List.mem_filter]
    refine ⟨List.mem_map_of_mem (List.mem_range.mpr hi), ?_⟩
    rw [wordErr_unqueued, hw]
    rfl
  · refine (he w).trans ((if_neg ?_).trans rfl)
    intro h
    obtain ⟨i, hi, rfl⟩ := List.mem_map.mp (List.mem_filter.mp h).1
    have := List.mem_range.mp hi
    omega
end

/-! ## The go bit of the command port (R292) -/

theorem opPortGo_refused {s : State} {c : Nat} (hgo : s.onF F.fllPctl_go c = false) (h : s.portRefuses c (s.portWords c) = true) :
    opPortGo c s = s.putF F.fllPctl_status c 4 := by
  rw [opPortGo, hgo, if_neg (by decide), if_pos h]

theorem opPortGo_starts {s : State} {c : Nat} (hgo : s.onF F.fllPctl_go c = false) (h : s.portRefuses c (s.portWords c) = false) :
    opPortGo c s = (s.putF F.fllPctl_go c 1).putF F.fllPctl_status c 1 := by
  rw [opPortGo, hgo, if_neg (by decide), if_neg (by rw [h]; decide)]

theorem portGo_clause (by_ : Requester) (c : Nat) (s : State) (hw : s.writes by_ R.fllPctl.off = true) (hc : c = s.sel by_ F.vccSel_channel) :
    (s.onF F.fllPctl_go c = true → idles (.flailPortGo by_) s) ∧
    (s.onF F.fllPctl_go c = false → s.portRefuses c (s.portWords c) = false → completes (.flailPortGo by_) s (fun t =>
      t.onF F.fllPctl_go c = true ∧ t.getF F.fllPctl_status c = 1 ∧ onlyRegs [regKey R.fllPctl c] s t)) ∧
    (s.onF F.fllPctl_go c = false → s.portRefuses c (s.portWords c) = true → completes (.flailPortGo by_) s (fun t =>
      t.onF F.fllPctl_go c = false ∧ t.getF F.fllPctl_status c = 4 ∧ onlyRegs [regKey R.fllPctl c] s t)) := by
  subst hc
  obtain ⟨c, hc⟩ : ∃ c, c = s.sel by_ F.vccSel_channel := ⟨_, rfl⟩
  have hrun : exec (.flailPortGo by_) s = run (fun s => if s.writes by_ R.fllPctl.off then opPortGo (s.sel by_ F.vccSel_channel) s else s) s := rfl
  have hgo : ∀ u, opPortGo c s.begin = u →
      (if s.begin.writes by_ R.fllPctl.off then opPortGo (s.begin.sel by_ F.vccSel_channel) s.begin else s.begin) = u := by
    rintro u rfl
    rw [hc]
    exact if_pos hw
  rw [← hc]
  refine ⟨fun h => idles_of_run hrun (hgo _ (if_pos h)), fun h hr => ?_, fun h hr => ?_⟩
  · refine completes_of_eq hrun (hgo _ (opPortGo_starts (s := s.begin) h hr)) ⟨?_, getF_putF_same _ _ _ _ (by decide), ?_⟩
    · refine onF_of_bit (b := true) ?_
      exact (getF_putF_apart _ F.fllPctl_status F.fllPctl_go c 1 rfl (by decide)).trans (getF_putF_same s.begin F.fllPctl_go c 1 (by decide))
    · exact onlyRegs_of_putsRegs (((putsRegs_refl _ _).putF F.fllPctl_go c 1 List.mem_cons_self).putF F.fllPctl_status c 1 List.mem_cons_self)
  · refine completes_of_eq hrun (hgo _ (opPortGo_refused (s := s.begin) h hr)) ⟨?_, getF_putF_same _ _ _ _ (by decide), ?_⟩
    · exact (onF_of_getF (getF_putF_apart s.begin F.fllPctl_status F.fllPctl_go c 4 rfl (by decide))).trans h
    · exact onlyRegs_of_putsRegs ((putsRegs_refl _ _).putF F.fllPctl_status c 4 List.mem_cons_self)

/-! ## The statement -/

/-- Settles O45: the operation leaves its queue, its own effect shows, and what goes on behind it are commands that start and nothing else,
since no access and no stage waits. -/
theorem flailOperationsComplete : Obligations.FlailOperationsComplete := by
  unfold Obligations.FlailOperationsComplete
  refine ⟨fun ch b now f s hb hf hport => ?_, portGo_clause⟩
  have hrun : exec (.flailOpComplete ch b now) s = run (opFlailComplete ch.toNat b now) s :=
    congrArg (fun ok => runIf ok (opFlailComplete ch.toNat b now) s) (decide_eq_true hb)
  have hf' : (s.begin.chan ch.toNat).flails.find? (fun f => f.running && f.bank == b) = some f := hf
  obtain ⟨u, hu⟩ : ∃ u, opFlailComplete ch.toNat b now s.begin = u := ⟨_, rfl⟩
  refine ⟨fun hl ha hs => ⟨fun hop => ?_, fun hop hsrc => ?_, fun hop => ?_⟩, fun hl => ?_⟩
  · have h := loadq_ends (now := now) hf' hl ha hs hport hop
    rw [hu] at h
    exact completes_of_eq hrun hu h
  · have h := frag_ends (now := now) hf' hl ha hs hop hsrc
    rw [hu] at h
    exact completes_of_eq hrun hu h
  · have h := scrub_ends (now := now) hf' hl ha hs hport hop
    rw [hu] at h
    exact completes_of_eq hrun hu h
  · have h := opFlailComplete_part (now := now) hf' hl
    rw [hu] at h
    exact completes_of_eq hrun hu h

end Sys2Proof.Machine
end

section
/-! SUPPORT. Taking and leaving the ring: take and release words, what a pause waits for, a port that trains at full rate, planes that close
(R328, R332 to R336, R491, R496), and the statement on them (O34). -/
namespace Sys2Proof.Machine

/-! ## Pauses that are announced or ended -/

/-- An edge word that only announces or ends a pause changes nothing else. -/
theorem heedEdge_pause (s : State) {w : EdgeWord} (hr : w.raise = none) (ho : w.overrun = false) (hn : w.newEdge = 0)
    (hp : (w.pause || w.pauseEnds) = true) : s.heedEdge w = { s with
      ring := { s.ring with pauseNext := s.ring.pauseNext || w.pause, pauseEnds := s.ring.pauseEnds || w.pauseEnds } } := by
  unfold State.heedEdge
  simp only [hr, ho, hn, hp, Bool.true_or, if_true, Bool.false_eq_true, if_false]

theorem ringPath_announce (s : State) {w : EdgeWord} (hr : w.raise = none) (ho : w.overrun = false) (hn : w.newEdge = 0)
    (hp : (w.pause || w.pauseEnds) = true) : ringPath s (s.announce w) := by
  rw [State.announce, heedEdge_pause _ hr ho hn hp]
  exact ringPath_trans _ _ _ (ringPath_tell s _) ⟨_, _, rfl⟩

theorem ringPath_checkPause (s : State) : ringPath s s.checkPause :=
  ringPath_ite (ringPath_announce s rfl rfl rfl rfl) (ringPath_refl s)

theorem checkPause_idle {s : State} (h : s.tick.held = false) : s.checkPause = s := by
  refine if_neg ?_
  rw [h, Bool.false_and, Bool.false_and, Bool.false_and]
  decide

theorem ringPath_sawTake (s : State) (part plane : Nat) : ringPath s (s.sawTake part plane) :=
  ringPath_trans _ _ _ ⟨_, _, rfl⟩ (ringPath_checkPause _)

theorem ringPath_addPart (s : State) (k plane : Nat) : ringPath s (s.addPart k plane) := ⟨_, _, rfl⟩

/-! ## A take word -/

theorem addPart_parts (s : State) (k plane : Nat) : (k ∈ (s.addPart k plane).ring.parts ∨ k = s.own) ∧
    ∀ x ∈ s.ring.parts, x ∈ (s.addPart k plane).ring.parts := by
  unfold State.addPart
  extract_lets r
  by_cases h : k = s.own ∨ r.parts.contains k = true
  · rw [if_pos h]
    exact ⟨h.symm.imp_left List.contains_iff_mem.mp, fun x hx => hx⟩
  · rw [if_neg h]
    exact ⟨.inl ((mem_sortBy _ _ _).mpr List.mem_cons_self), fun x hx => (mem_sortBy _ _ _).mpr (List.mem_cons_of_mem _ hx)⟩

theorem addPart_seen (s : State) (k plane : Nat) : (s.addPart k plane).ring.seen = s.ring.seen := by
  unfold State.addPart
  extract_lets r
  by_cases h : k = s.own ∨ r.parts.contains k = true
  · rw [if_pos h]
  · rw [if_neg h]

theorem takeWord_spec {s : State} (port part plane : Nat) (w : CtlWord) (hheld : s.tick.held = false) (hw : (part, w) ∉ s.ring.seen) (t : State)
    (ht : t = ((s.begin.relay (some port) part w).addPart part plane).sawTake part plane) :
    (part ∈ t.ring.parts ∨ part = s.own) ∧ (∀ k ∈ s.ring.parts, k ∈ t.ring.parts) ∧ carries (some port) part w s t ∧ t.regs = s.regs := by
  obtain ⟨u, hu⟩ : ∃ u, u = s.begin.relay (some port) part w := ⟨_, rfl⟩
  rw [← hu, State.sawTake, checkPause_idle (by rw [hu, relay_begin]; exact hheld)] at ht
  obtain ⟨hpart, hparts⟩ := addPart_parts u part plane
  have huown : u.own = s.own := by rw [hu, relay_begin]; rfl
  have huparts : u.ring.parts = s.ring.parts := by rw [hu, relay_begin]
  have huregs : u.regs = s.regs := by rw [hu, relay_begin]
  rw [huown] at hpart
  rw [huparts] at hparts
  subst ht
  refine ⟨hpart, hparts, carries_begin ?_ ?_, huregs⟩
  · rw [← hu]
    exact addPart_seen u part plane
  · rw [← hu]
    rfl

/-! ## A release word: what a pause waits for -/

/-- A pause waits for the neighbours of a part on a plane that it releases, and no longer for it. -/
def pauseStep (nb : Nat → List Nat) (x : Nat) (ws : List PauseEnd) (k : Nat) : List PauseEnd :=
  (ws.filter (fun w => !(w.part == x && w.plane == k))).filter (fun w => !(w.plane == k && (nb k).contains w.part)) ++
    (nb k).map (fun y => { part := y, plane := k, atEdge := true })

theorem waitForRelease_eq (s : State) (x : Nat) (ks : List Nat) : s.waitForRelease x ks = { s with
    ring := { s.ring with pauseWaits := ks.foldl (pauseStep (s.neighbours x) x) s.ring.pauseWaits } } := by
  have h : ∀ (l : List Nat) (ws : List PauseEnd), State.waitForRelease { s with ring := { s.ring with pauseWaits := ws } } x l = { s with
      ring := { s.ring with pauseWaits := l.foldl (pauseStep (s.neighbours x) x) ws } } := by
    intro l
    induction l with
    | nil => exact fun ws => rfl
    | cons k l ih => exact fun ws => ih (pauseStep (s.neighbours x) x ws k)
  exact h ks s.ring.pauseWaits

/-- A pause waits for a part's neighbours on a plane, and not for it. -/
def waitsAround (nb : Nat → List Nat) (x k : Nat) (ws : List PauseEnd) : Prop :=
  (∀ e ∈ ws, e.plane = k → e.part ≠ x) ∧ ∀ y ∈ nb k, { part := y, plane := k, atEdge := true } ∈ ws

theorem waitsAround_step {nb : Nat → List Nat} {x k : Nat} (hx : x ∉ nb k) (ws : List PauseEnd) : waitsAround nb x k (pauseStep nb x ws k) := by
  refine ⟨fun e he hk => ?_, fun y hy => List.mem_append_right _ (List.mem_map.mpr ⟨y, hy, rfl⟩)⟩
  rcases List.mem_append.mp he with he | he
  · have h := (List.mem_filter.mp (List.mem_filter.mp he).1).2
    simp only [hk, beq_self_eq_true, Bool.and_true, Bool.not_eq_true', beq_eq_false_iff_ne] at h
    exact h
  · obtain ⟨y, hy, rfl⟩ := List.mem_map.mp he
    exact fun h => hx (h ▸ hy)

theorem waitsAround_step_ne {nb : Nat → List Nat} {x k j : Nat} {ws : List PauseEnd} (hj : j ≠ k) (h : waitsAround nb x k ws) :
    waitsAround nb x k (pauseStep nb x ws j) := by
  obtain ⟨hpart, hnb⟩ := h
  refine ⟨fun e he hk => ?_, fun y hy => ?_⟩
  · rcases List.mem_append.mp he with he | he
    · exact hpart e (List.mem_filter.mp (List.mem_filter.mp he).1).1 hk
    · obtain ⟨y, -, rfl⟩ := List.mem_map.mp he
      exact absurd hk hj
  · have hne : (k == j) = false := beq_false_of_ne hj.symm
    refine List.mem_append_left _ (List.mem_filter.mpr ⟨List.mem_filter.mpr ⟨hnb y hy, ?_⟩, ?_⟩)
    · show (!(y == x && k == j)) = true
      rw [hne, Bool.and_false]
      rfl
    · show (!(k == j && _)) = true
      rw [hne]
      rfl

theorem waitsAround_foldl {nb : Nat → List Nat} {x : Nat} (hx : ∀ k, x ∉ nb k) (ks : List Nat) (ws : List PauseEnd) :
    ∀ k, k ∈ ks ∨ waitsAround nb x k ws → waitsAround nb x k (ks.foldl (pauseStep nb x) ws) := by
  induction ks generalizing ws with
  | nil => exact fun k h => h.resolve_left List.not_mem_nil
  | cons j l ih =>
    intro k h
    refine ih (pauseStep nb x ws j) k ?_
    by_cases hj : j = k
    · exact .inr (hj ▸ waitsAround_step (hx j) ws)
    · exact h.imp (fun hm => (List.mem_cons.mp hm).resolve_left (Ne.symm hj)) (waitsAround_step_ne hj)

theorem not_mem_neighbours (s : State) (x k : Nat) : x ∉ s.neighbours x k := by
  unfold State.neighbours
  extract_lets row n pos line mine ys ahead
  have hys : x ∉ ys := fun h => by
    have h := (List.mem_filter.mp h).2
    simp at h
  intro h
  rw [List.mem_eraseDups, List.mem_append] at h
  rcases h with h | h <;> exact hys ((mem_sortBy _ _ _).mp (List.mem_of_mem_head? (Option.mem_toList.mp h)))

/-! ## A part that leaves -/

/-- A part is noted to have left planes. -/
def State.noteGone (s : State) (planes : List Nat) (k : Nat) : State :=
  { s with ring := { s.ring with gone := (s.ring.gone ++ planes.map (fun p => (k, p))).eraseDups } }

theorem memberGone_eq (s : State) (planes : List Nat) (k : Nat) : s.memberGone planes k = if (s.noteGone planes k).absent k then
    { s.noteGone planes k with ring := { (s.noteGone planes k).ring with parts := s.ring.parts.filter (fun x => x != k) } }
    else s.noteGone planes k := rfl

theorem memberGone_spec (s : State) (planes : List Nat) (k : Nat) :
    (∀ p ∈ planes, (k, p) ∈ (s.memberGone planes k).ring.gone) ∧
    (k ∈ (s.memberGone planes k).ring.parts → (s.memberGone planes k).absent k = false) ∧
    (∀ x, x ≠ k → (x ∈ (s.memberGone planes k).ring.parts ↔ x ∈ s.ring.parts)) ∧
    (s.memberGone planes k).ring.seen = s.ring.seen ∧ (s.memberGone planes k).regs = s.regs ∧
    (s.memberGone planes k).out = s.out := by
  rw [memberGone_eq]
  obtain ⟨u, hu⟩ : ∃ u, u = s.noteGone planes k := ⟨_, rfl⟩
  rw [← hu]
  have hsame : u.ring.parts = s.ring.parts ∧ u.ring.seen = s.ring.seen ∧ u.regs = s.regs ∧ u.out = s.out := by
    rw [hu]
    exact ⟨rfl, rfl, rfl, rfl⟩
  obtain ⟨hparts, hseen, hregs, hout⟩ := hsame
  have hgone : ∀ p ∈ planes, (k, p) ∈ u.ring.gone := fun p hp => by
    rw [hu]
    exact List.mem_eraseDups.mpr (List.mem_append_right _ (List.mem_map.mpr ⟨p, hp, rfl⟩))
  by_cases h : u.absent k = true
  · rw [if_pos h]
    refine ⟨hgone, fun hk => absurd (List.mem_filter.mp hk).2 (by simp), fun x hx => ?_, hseen, hregs, hout⟩
    show x ∈ s.ring.parts.filter (fun x => x != k) ↔ _
    rw [List.mem_filter]
    exact ⟨fun h => h.1, fun h => ⟨h, bne_iff_ne.mpr hx⟩⟩
  · rw [if_neg h]
    exact ⟨hgone, fun _ => Bool.not_eq_true _ ▸ h, fun _ _ => by rw [hparts], hseen, hregs, hout⟩

theorem neighbours_memberGone_begin (s : State) (port part : Nat) (w : CtlWord) (planes : List Nat) (k x y : Nat) :
    ((s.begin.relay (some port) part w).memberGone planes k).neighbours x y = (s.memberGone planes k).neighbours x y := by
  obtain ⟨u, hu⟩ : ∃ u, u = s.begin.relay (some port) part w := ⟨_, rfl⟩
  have hgone : (u.noteGone planes k).absent k = (s.noteGone planes k).absent k := by
    rw [hu, relay_begin]
    rfl
  rw [← hu, memberGone_eq, memberGone_eq, hgone, hu, relay_begin]
  by_cases h : (s.noteGone planes k).absent k = true
  · rw [if_pos h, if_pos h]
    rfl
  · rw [if_neg h, if_neg h]
    rfl

theorem releaseWord_spec (s : State) (port part : Nat) (w : CtlWord) (planes : List Nat) (t : State)
    (ht : t = opRelease part planes (s.begin.relay (some port) part w)) :
    (∀ k ∈ planes, (part, k) ∈ t.ring.gone ∧ (∀ e ∈ t.ring.pauseWaits, e.plane = k → e.part ≠ part) ∧
      ∀ y ∈ (s.memberGone planes part).neighbours part k, { part := y, plane := k, atEdge := true } ∈ t.ring.pauseWaits) ∧
    (part ∈ t.ring.parts → t.absent part = false) ∧ (∀ k, k ≠ part → (k ∈ t.ring.parts ↔ k ∈ s.ring.parts)) ∧
    (s.isKeeper = true → t.ring.pauseNext = true) ∧ carries (some port) part w s t := by
  obtain ⟨u, hu⟩ : ∃ u, u = s.begin.relay (some port) part w := ⟨_, rfl⟩
  obtain ⟨hgone, habsent, hparts, hseen, hregs, hout⟩ := memberGone_spec u planes part
  have hwaits := waitsAround_foldl (nb := (u.memberGone planes part).neighbours part) (not_mem_neighbours (u.memberGone planes part) part) planes
    (u.memberGone planes part).ring.pauseWaits
  have hnb : ∀ k, (s.memberGone planes part).neighbours part k = (u.memberGone planes part).neighbours part k := fun k => by
    rw [hu, neighbours_memberGone_begin]
  obtain ⟨v, hv⟩ : ∃ v, v = (u.memberGone planes part).waitForRelease part planes := ⟨_, rfl⟩
  have hveq := hv.trans (waitForRelease_eq (u.memberGone planes part) part planes)
  obtain ⟨m, hm⟩ : ∃ m, m = u.memberGone planes part := ⟨_, rfl⟩
  rw [← hm] at hgone habsent hparts hseen hregs hout hwaits hveq hv hnb
  have huparts : u.ring.parts = s.ring.parts := by rw [hu, relay_begin]
  have hkeeper : v.isKeeper = s.isKeeper := onF_of_reg (by
    rw [hveq]
    show State.reg m _ _ = _
    rw [State.reg, hregs, hu, relay_begin]
    rfl)
  have hseen' : v.ring.seen = (s.begin.relay (some port) part w).ring.seen := by
    rw [hveq, ← hu]
    exact hseen
  have hout' : v.out = (s.begin.relay (some port) part w).out := by
    rw [hveq, ← hu]
    exact hout
  have hring : (∀ k ∈ planes, (part, k) ∈ v.ring.gone ∧ (∀ e ∈ v.ring.pauseWaits, e.plane = k → e.part ≠ part) ∧
      ∀ y ∈ (s.memberGone planes part).neighbours part k, { part := y, plane := k, atEdge := true } ∈ v.ring.pauseWaits) ∧
      (part ∈ v.ring.parts → v.absent part = false) ∧ (∀ k, k ≠ part → (k ∈ v.ring.parts ↔ k ∈ s.ring.parts)) := by
    rw [hveq, ← huparts]
    refine ⟨fun k hk => ⟨hgone k hk, ?_⟩, habsent, hparts⟩
    rw [hnb]
    exact hwaits k (.inl hk)
  obtain ⟨h1, h2, h3⟩ := hring
  obtain ⟨h4, h5⟩ : carries (some port) part w s v := carries_begin hseen' hout'
  rw [opRelease, ← hu, ← hm, ← hv] at ht
  by_cases hk : s.isKeeper = true
  · rw [if_pos (hkeeper.trans hk), State.announce, heedEdge_pause _ rfl rfl rfl rfl, State.tell, relay_eq] at ht
    rw [ht]
    exact ⟨h1, h2, h3, fun _ => Bool.or_true _, List.mem_append_left _ h4, fun p hp hne => List.mem_append_left _ (h5 p hp hne)⟩
  · rw [if_neg (by rw [hkeeper]; exact hk)] at ht
    rw [ht]
    exact ⟨h1, h2, h3, fun h => absurd h hk, h4, h5⟩

/-! ## A port that trains at full rate (R316, R338, R429) -/

theorem bypassedTo_congr {s u : State} (h : ∀ f : Fld, f.reg = R.lnkRing → u.getF f 0 = s.getF f 0) (p peer : Nat) :
    u.bypassedTo p peer = s.bypassedTo p peer := by
  unfold State.bypassedTo State.own
  rw [h F.lnkRing_row_len rfl, h F.lnkRing_col_len rfl, h F.lnkRing_own rfl]

/-- A port has come up at full rate. -/
def State.fullUp (s : State) (p : Nat) (peer : BitVec 10) (hop : BitVec 14) (ns : Nat) : State :=
  let s := (s.putF F.lnkTrain_edge p (s.getF F.tikCount_count % 2 ^ 32)).putF F.lnkTrain_dur p (min (ns / 10000) 4095)
  let b := s.bypassedTo p peer.toNat
  let s := (s.putF F.lnkStat_peer p peer.toNat).putF F.lnkStat_bypassed p b
  let s := s.modPort p (fun x => { x with
    hopNs := hop.toNat, txSeq := 0, rxSeq := 0, retryAsked := false, outSeq := none, failedTrains := 0, retraining := false })
  (s.putF F.lnkStat_rerouted p 0).putF F.lnkStat_state p lnkFull

theorem sameRegs_fullUp (s : State) (p : Nat) (peer : BitVec 10) (hop : BitVec 14) (ns : Nat) :
    sameRegs [regKey R.lnkTrain p, regKey R.lnkStat p] s (s.fullUp p peer hop ns) := by
  have hstat : regKey R.lnkStat p ∈ [regKey R.lnkTrain p, regKey R.lnkStat p] := List.mem_cons_of_mem _ List.mem_cons_self
  refine sameRegs_putF F.lnkStat_state p _ (sameRegs_putF F.lnkStat_rerouted p _ ?_ hstat) hstat
  refine sameRegs_of_regs (sameRegs_putF F.lnkStat_bypassed p _ (sameRegs_putF F.lnkStat_peer p _ ?_ hstat) hstat) rfl
  exact sameRegs_putF F.lnkTrain_dur p _ (sameRegs_putF F.lnkTrain_edge p _ (sameRegs_refl _ s) List.mem_cons_self) List.mem_cons_self

theorem trained_full {s : State} {p : Nat} {peer : BitVec 10} (hop : BitVec 14) (ns : Nat) (hb : s.bypassedTo p peer.toNat ≤ 2) :
    s.trained p (.full peer hop) ns = (s.fullUp p peer hop ns, true) := by
  unfold State.trained
  extract_lets -merge +onlyGivenNames s1 up
  have hb1 : s1.bypassedTo p peer.toNat ≤ 2 := by
    rw [bypassedTo_congr (s := s)]
    · exact hb
    · intro f hf
      refine (getF_putF_off _ F.lnkTrain_dur f p 0 _ ?_).trans (getF_putF_off s F.lnkTrain_edge f p 0 _ ?_)
      · rw [hf]; decide
      · rw [hf]; decide
  show up s1 true peer hop = _
  dsimp only [up]
  rw [if_neg, if_pos]
  · rfl
  · rw [Bool.true_and]
    exact decide_eq_true hb1
  · simp only [Bool.not_true, Bool.false_eq_true, false_and, or_false, Nat.not_lt]
    exact Nat.le_trans hb1 (by decide)

/-- What a port that has come up shows. -/
theorem fullUp_spec (s : State) (p : Nat) (peer : BitVec 10) (hop : BitVec 14) (ns : Nat) :
    (s.fullUp p peer hop ns).getF F.lnkTrain_dur p = min (ns / 10000) 4095 ∧ (s.fullUp p peer hop ns).lnk p = lnkFull ∧
    (s.fullUp p peer hop ns).onF F.lnkStat_take p = s.onF F.lnkStat_take p ∧ (s.fullUp p peer hop ns).getF F.lnkStat_peer p = peer.toNat := by
  obtain ⟨u, hu⟩ : ∃ u, u = (s.putF F.lnkTrain_edge p (s.getF F.tikCount_count % 2 ^ 32)).putF F.lnkTrain_dur p (min (ns / 10000) 4095) := ⟨_, rfl⟩
  obtain ⟨v, hv⟩ : ∃ v, v = (u.putF F.lnkStat_peer p peer.toNat).putF F.lnkStat_bypassed p (u.bypassedTo p peer.toNat) := ⟨_, rfl⟩
  obtain ⟨w, hw⟩ : ∃ w, w = v.modPort p (fun x => { x with
    hopNs := hop.toNat, txSeq := 0, rxSeq := 0, retryAsked := false, outSeq := none, failedTrains := 0, retraining := false }) := ⟨_, rfl⟩
  have hwv : ∀ f i, w.getF f i = v.getF f i := fun f i => by rw [hw]; rfl
  have hend : s.fullUp p peer hop ns = (w.putF F.lnkStat_rerouted p 0).putF F.lnkStat_state p lnkFull := by rw [hw, hv, hu]; rfl
  rw [hend]
  refine ⟨?_, getF_putF_same _ F.lnkStat_state p _ (by decide), ?_, ?_⟩
  · rw [getF_putF_off _ F.lnkStat_state F.lnkTrain_dur p p _ (by decide), getF_putF_off _ F.lnkStat_rerouted F.lnkTrain_dur p p _ (by decide), hwv, hv,
      getF_putF_off _ F.lnkStat_bypassed F.lnkTrain_dur p p _ (by decide), getF_putF_off _ F.lnkStat_peer F.lnkTrain_dur p p _ (by decide), hu,
      getF_putF_same _ F.lnkTrain_dur p _ (by decide)]
    exact Nat.mod_eq_of_lt (Nat.lt_of_le_of_lt (Nat.min_le_right _ _) (by decide))
  · refine onF_of_getF ?_
    rw [getF_putF_apart _ F.lnkStat_state F.lnkStat_take p _ rfl (by decide), getF_putF_apart _ F.lnkStat_rerouted F.lnkStat_take p _ rfl (by decide), hwv,
      hv, getF_putF_apart _ F.lnkStat_bypassed F.lnkStat_take p _ rfl (by decide), getF_putF_apart _ F.lnkStat_peer F.lnkStat_take p _ rfl (by decide), hu,
      getF_putF_off _ F.lnkTrain_dur F.lnkStat_take p p _ (by decide), getF_putF_off _ F.lnkTrain_edge F.lnkStat_take p p _ (by decide)]
  · rw [getF_putF_apart _ F.lnkStat_state F.lnkStat_peer p _ rfl (by decide), getF_putF_apart _ F.lnkStat_rerouted F.lnkStat_peer p _ rfl (by decide), hwv,
      hv, getF_putF_apart _ F.lnkStat_bypassed F.lnkStat_peer p _ rfl (by decide), getF_putF_same _ F.lnkStat_peer p _ (by decide)]
    exact Nat.mod_eq_of_lt peer.isLt

/-! ## A plane that is taken -/

theorem ringPath_tellTake (s : State) (k : Nat) : ringPath s (s.tellTake k) :=
  ringPath_ite (ringPath_trans _ _ _ (ringPath_tell s _) (ringPath_sawTake ..)) (ringPath_refl s)

theorem ringPath_nowTakes (s : State) (p : Nat) : ringPath s (s.nowTakes p) := ringPath_trans _ _ _ (ringPath_addPart ..) (ringPath_tellTake ..)

/-- The registers of the ports are as before. -/
def samePorts (s u : State) : Prop := ∀ f : Fld, f.reg = R.lnkStat ∨ f.reg = R.lnkTrain → ∀ i, u.getF f i = s.getF f i

theorem samePorts_refl (s : State) : samePorts s s := fun _ _ _ => rfl

theorem samePorts_trans (s t u : State) (h : samePorts s t) (h' : samePorts t u) : samePorts s u :=
  fun f hf i => (h' f hf i).trans (h f hf i)

theorem samePorts_ite {s t u : State} {c : Prop} [Decidable c] (h : samePorts s t) (h' : samePorts s u) : samePorts s (if c then t else u) := by
  split
  · exact h
  · exact h'

theorem samePorts_of_ringPath {s u : State} (h : ringPath s u) : samePorts s u := by
  obtain ⟨_, _, rfl⟩ := h
  exact samePorts_refl s

theorem samePorts_putF (s : State) (f : Fld) (i v : Nat) (hs : f.reg.off / 8 ≠ R.lnkStat.off / 8) (ht : f.reg.off / 8 ≠ R.lnkTrain.off / 8) :
    samePorts s (s.putF f i v) := by
  intro g hg j
  refine getF_putF_off s f g i j v ?_
  obtain hg | hg := hg <;> rw [hg]
  · exact hs
  · exact ht

theorem samePorts_raise (s : State) (code cls idx : Nat) (arg : Word) (payload : List Byte) : samePorts s (s.raise code cls idx arg payload) := by
  intro g hg j
  refine getF_raise _ _ _ _ _ _ _ _ ?_ ?_
  · obtain hg | hg := hg <;> rw [hg] <;> decide
  · obtain hg | hg := hg <;> rw [hg] <;> decide

theorem samePorts_showCap (s : State) : samePorts s s.showCap :=
  samePorts_trans _ _ _ (samePorts_putF s F.shfCap_a 0 _ (by decide) (by decide)) (samePorts_trans _ _ _
    (samePorts_putF _ F.shfCap_v 0 _ (by decide) (by decide)) (samePorts_trans _ _ _ (samePorts_putF _ F.shfCap_g 0 _ (by decide) (by decide))
      (samePorts_trans _ _ _ (samePorts_putF _ F.shfCap_l 0 _ (by decide) (by decide)) (samePorts_putF _ F.shfCap_s 0 _ (by decide) (by decide)))))

theorem samePorts_becomeReady (s : State) : samePorts s s.becomeReady := by
  unfold State.becomeReady
  extract_lets -merge +onlyGivenNames s1 s2 s3
  have h2 : samePorts s1 s2 := samePorts_trans _ _ _ (samePorts_putF s1 F.stdBoot_stage 0 7 (by decide) (by decide))
    (samePorts_putF _ F.stdBoot_minimal 0 0 (by decide) (by decide))
  have h3 : samePorts s2 s3 := samePorts_putF s2 F.stdBoot_elapsed_ms 0 _ (by decide) (by decide)
  exact samePorts_ite (samePorts_refl s) (samePorts_trans s s3 _ (samePorts_trans s s1 s3 (samePorts_showCap s) (samePorts_trans _ _ _ h2 h3))
    (samePorts_raise s3 _ _ _ _ _))

/-- The bits of take on a plane, and whether the part was alone before. -/
def State.planeTaken (s : State) (k : Nat) : State :=
  let s := { s with ring := { s.ring with releasedPlanes := s.ring.releasedPlanes.filter (fun x => x != k) } }
  (s.putF F.lnkStat_take (2 * k) 1).putF F.lnkStat_take (2 * k + 1) 1

/-- A plane is taken, and both its ports come up at full rate. -/
theorem opRingTake_full {s : State} {k en wn : Nat} {e w : BitVec 10} (he hw : BitVec 14) (hm : s.mayTake k = true)
    (hbe : s.bypassedTo (2 * k) e.toNat ≤ 2) (hbw : s.bypassedTo (2 * k + 1) w.toNat ≤ 2) :
    samePorts (((s.planeTaken k).fullUp (2 * k) e he en).fullUp (2 * k + 1) w hw wn) (opRingTake k (.full e he) (.full w hw) en wn s) := by
  have hring : ∀ u : State, (∀ f : Fld, f.reg = R.lnkRing → u.getF f 0 = s.getF f 0) → ∀ p peer, u.bypassedTo p peer = s.bypassedTo p peer :=
    fun u h => bypassedTo_congr h
  have htaken : ∀ f : Fld, f.reg = R.lnkRing → (s.planeTaken k).getF f 0 = s.getF f 0 := by
    intro f hf
    refine (getF_putF_off _ F.lnkStat_take f (2 * k + 1) 0 1 ?_).trans (getF_putF_off _ F.lnkStat_take f (2 * k) 0 1 ?_)
    · rw [hf]; decide
    · rw [hf]; decide
  obtain ⟨u, hu⟩ : ∃ u, u = s.planeTaken k := ⟨_, rfl⟩
  have heast : ∀ f : Fld, f.reg = R.lnkRing → (u.fullUp (2 * k) e he en).getF f 0 = s.getF f 0 := by
    intro f hf
    rw [← htaken f hf, ← hu]
    refine getF_of_sameRegs (sameRegs_fullUp u (2 * k) e he en) ?_
    rw [hf]
    simp only [List.mem_cons, List.not_mem_nil, or_false, not_or]
    exact ⟨regKey_ne_of_off _ _ _ _ (by decide), regKey_ne_of_off _ _ _ _ (by decide)⟩
  unfold opRingTake
  rw [if_neg (by rw [hm]; decide)]
  extract_lets -merge +onlyGivenNames alone s1 s2 s3
  have hs3 : s3 = u := hu.symm
  rw [hs3, trained_full he en (by rw [hring u (by rw [hu]; exact htaken)]; exact hbe)]
  obtain ⟨v, hv⟩ : ∃ v, v = u.fullUp (2 * k) e he en := ⟨_, rfl⟩
  dsimp only
  rw [← hu, ← hv, trained_full hw wn (by rw [hring v (by rw [hv]; exact heast)]; exact hbw)]
  obtain ⟨x, hx⟩ : ∃ x, x = v.fullUp (2 * k + 1) w hw wn := ⟨_, rfl⟩
  dsimp only
  rw [← hx, if_pos rfl, if_pos rfl]
  refine samePorts_trans _ _ _ ?_ (samePorts_becomeReady _)
  have htakes : samePorts x ((x.nowTakes (2 * k)).nowTakes (2 * k + 1)) :=
    samePorts_of_ringPath (ringPath_trans _ _ _ (ringPath_nowTakes x _) (ringPath_nowTakes _ _))
  exact samePorts_ite (samePorts_trans _ _ _ htakes (samePorts_of_ringPath (ringPath_enterElection _))) htakes

theorem ringTake_spec {s : State} {k en wn : Nat} {e w : BitVec 10} (he hw : BitVec 14) (hk : k < 4) (t : State)
    (ht : samePorts (((s.planeTaken k).fullUp (2 * k) e he en).fullUp (2 * k + 1) w hw wn) t) :
    t.getF F.lnkTrain_dur (2 * k) = min (en / 10000) 4095 ∧ t.getF F.lnkTrain_dur (2 * k + 1) = min (wn / 10000) 4095 ∧
    t.lnk (2 * k) = lnkFull ∧ t.lnk (2 * k + 1) = lnkFull ∧ t.onF F.lnkStat_take (2 * k) = true ∧ t.onF F.lnkStat_take (2 * k + 1) = true ∧
    t.getF F.lnkStat_peer (2 * k) = e.toNat ∧ t.getF F.lnkStat_peer (2 * k + 1) = w.toNat ∧ k ∈ t.heldPlanes := by
  obtain ⟨u, hu⟩ : ∃ u, u = s.planeTaken k := ⟨_, rfl⟩
  obtain ⟨v, hv⟩ : ∃ v, v = u.fullUp (2 * k) e he en := ⟨_, rfl⟩
  rw [← hu, ← hv] at ht
  obtain ⟨hdurW, hlnkW, htakeW, hpeerW⟩ := fullUp_spec v (2 * k + 1) w hw wn
  obtain ⟨hdurE, hlnkE, htakeE, hpeerE⟩ := fullUp_spec u (2 * k) e he en
  rw [← hv] at hdurE hlnkE htakeE hpeerE
  have hother : ∀ f : Fld, f.reg = R.lnkStat ∨ f.reg = R.lnkTrain → ∀ j, j ≠ 2 * k + 1 → j < 65536 →
      (v.fullUp (2 * k + 1) w hw wn).getF f j = v.getF f j := by
    intro f hf j hj hlt
    refine getF_of_sameRegs (sameRegs_fullUp v (2 * k + 1) w hw wn) ?_
    simp only [List.mem_cons, List.not_mem_nil, or_false, not_or]
    obtain hf | hf := hf <;> rw [hf]
    · exact ⟨regKey_ne_of_off _ _ _ _ (by decide), regKey_ne_of_inst _ _ _ hj hlt (by omega)⟩
    · exact ⟨regKey_ne_of_inst _ _ _ hj hlt (by omega), regKey_ne_of_off _ _ _ _ (by decide)⟩
  have hfirst : ∀ f : Fld, f.reg = R.lnkStat → (v.getF f (2 * k + 1)) = u.getF f (2 * k + 1) := by
    intro f hf
    rw [hv]
    refine getF_of_sameRegs (sameRegs_fullUp u (2 * k) e he en) ?_
    rw [hf]
    simp only [List.mem_cons, List.not_mem_nil, or_false, not_or]
    exact ⟨regKey_ne_of_off _ _ _ _ (by decide), regKey_ne_of_inst _ _ _ (by omega) (by omega) (by omega)⟩
  have htake1 : u.onF F.lnkStat_take (2 * k + 1) = true := onF_of_bit (b := true) (by rw [hu]; exact getF_putF_same _ F.lnkStat_take _ _ (by decide))
  have htake0 : u.onF F.lnkStat_take (2 * k) = true := onF_of_bit (b := true) (by
    rw [hu, State.planeTaken, getF_putF_inst _ F.lnkStat_take _ _ _ (by omega) (by omega) (by omega)]
    exact getF_putF_same _ F.lnkStat_take _ _ (by decide))
  have hE : ∀ f : Fld, f.reg = R.lnkStat ∨ f.reg = R.lnkTrain → t.getF f (2 * k) = v.getF f (2 * k) := fun f hf =>
    (ht f hf _).trans (hother f hf _ (by omega) (by omega))
  have htakeT0 : t.onF F.lnkStat_take (2 * k) = true := (onF_of_getF (hE _ (.inl rfl))).trans (htakeE.trans htake0)
  have htakeT1 : t.onF F.lnkStat_take (2 * k + 1) = true :=
    (onF_of_getF (ht _ (.inl rfl) _)).trans (htakeW.trans ((onF_of_getF (hfirst _ rfl)).trans htake1))
  refine ⟨(hE _ (.inr rfl)).trans hdurE, (ht _ (.inr rfl) _).trans hdurW, (hE _ (.inl rfl)).trans hlnkE, (ht _ (.inl rfl) _).trans hlnkW, htakeT0,
    htakeT1, (hE _ (.inl rfl)).trans hpeerE, (ht _ (.inl rfl) _).trans hpeerW, ?_⟩
  refine List.mem_filter.mpr ⟨List.mem_range.mpr hk, ?_⟩
  rw [htakeT0]
  rfl

/-! ## Planes that close (R332, R334) -/

/-- A part none of whose ports holds take is its own timekeeper. -/
theorem aloneKeeper_spec {s : State} (h : s.takePorts = []) : s.aloneKeeper.isKeeper = true ∧ s.aloneKeeper.getF F.lnkRing_keeper = s.own ∧
    ∀ p, s.aloneKeeper.onF F.lnkStat_take p = s.onF F.lnkStat_take p := by
  obtain ⟨u, hu⟩ : ∃ u, u = (s.putF F.lnkRing_is_keeper 0 1).putF F.lnkRing_keeper 0 s.own := ⟨_, rfl⟩
  have hkeeper : u.isKeeper = true := onF_of_bit (b := true) (by
    rw [hu, getF_putF_apart _ F.lnkRing_keeper F.lnkRing_is_keeper 0 _ rfl (by decide)]
    exact getF_putF_same s F.lnkRing_is_keeper 0 1 (by decide))
  have hown : u.getF F.lnkRing_keeper = s.own := by
    rw [hu, getF_putF_same _ F.lnkRing_keeper 0 _ (by decide)]
    exact Nat.mod_eq_of_lt (fieldGet_lt ..)
  have htake : ∀ p, u.getF F.lnkStat_take p = s.getF F.lnkStat_take p := fun p => by
    rw [hu, getF_putF_off _ F.lnkRing_keeper F.lnkStat_take 0 p _ (by decide), getF_putF_off _ F.lnkRing_is_keeper F.lnkStat_take 0 p _ (by decide)]
  have halone : s.aloneKeeper = if s.onF F.lnkRing_is_keeper then u else u.raise 0x13 0 0 (BitVec.ofNat 64 u.own) := by
    unfold State.aloneKeeper
    rw [h, hu]
    rfl
  rw [halone]
  by_cases hwas : s.onF F.lnkRing_is_keeper = true
  · rw [if_pos hwas]
    exact ⟨hkeeper, hown, fun p => onF_of_getF (htake p)⟩
  · rw [if_neg hwas]
    have hraise : ∀ f : Fld, f.reg.off / 8 ≠ R.hstEvqStat.off / 8 → f.reg.off / 8 ≠ R.stdBootRet.off / 8 → ∀ i,
        (u.raise 0x13 0 0 (BitVec.ofNat 64 u.own)).getF f i = u.getF f i := fun f h1 h2 i => getF_raise _ _ _ _ _ _ _ _ h1 h2
    exact ⟨(onF_of_getF (hraise _ (by decide) (by decide) 0)).trans hkeeper, (hraise _ (by decide) (by decide) 0).trans hown,
      fun p => onF_of_getF ((hraise _ (by decide) (by decide) p).trans (htake p))⟩

/-- The ports of a plane that closes lose take. -/
def State.closePort (s : State) (p : Nat) : State :=
  (s.putF F.lnkStat_take p 0).putF F.lnkStat_state p (if s.planeReset p then lnkReset else lnkLoop)

theorem closePort_take (s : State) (p q : Nat) (hp : p < 8) (hq : q < 8) :
    (s.closePort p).onF F.lnkStat_take q = (decide (q ≠ p) && s.onF F.lnkStat_take q) := by
  have hstate : (s.closePort p).getF F.lnkStat_take q = (s.putF F.lnkStat_take p 0).getF F.lnkStat_take q :=
    getF_putF_beside _ (f := F.lnkStat_state) p q _ rfl (by decide) (by decide)
  rw [onF_of_getF hstate]
  by_cases h : q = p
  · rw [h, decide_eq_false (fun hn => hn rfl), Bool.false_and]
    exact onF_of_bit (b := false) (getF_putF_same s F.lnkStat_take p 0 (by decide))
  · rw [decide_eq_true h, Bool.true_and]
    exact onF_of_getF (getF_putF_inst s F.lnkStat_take p q 0 (Ne.symm h) (by omega) (by omega))

theorem foldl_closePort_take (ps : List Nat) (hps : ∀ p ∈ ps, p < 8) (s : State) (q : Nat) (hq : q < 8) :
    (ps.foldl State.closePort s).onF F.lnkStat_take q = (decide (q ∉ ps) && s.onF F.lnkStat_take q) := by
  induction ps generalizing s with
  | nil => simp
  | cons p l ih =>
    rw [List.foldl_cons, ih (fun x hx => hps x (List.mem_cons_of_mem _ hx)), closePort_take s p q (hps p List.mem_cons_self) hq, ← Bool.and_assoc]
    simp [Bool.and_comm]

theorem closeHeld_spec (s : State) : (s.closePlanes s.heldPlanes).heldPlanes = [] ∧ (s.closePlanes s.heldPlanes).isKeeper = true ∧
    (s.closePlanes s.heldPlanes).getF F.lnkRing_keeper = s.own := by
  obtain ⟨ps, hps⟩ : ∃ ps, ps = s.heldPlanes.flatMap (fun k => [2 * k, 2 * k + 1]) := ⟨_, rfl⟩
  obtain ⟨u, hu⟩ : ∃ u, u = ps.foldl State.closePort s := ⟨_, rfl⟩
  obtain ⟨ring, hclose⟩ : ∃ ring, s.closePlanes s.heldPlanes = ({ u with ring := ring } : State).aloneKeeper := by
    rw [hu, hps]
    exact ⟨_, rfl⟩
  have hps8 : ∀ p ∈ ps, p < 8 := by
    intro p hp
    rw [hps] at hp
    obtain ⟨k, hk, hp⟩ := List.mem_flatMap.mp hp
    have hk4 := List.mem_range.mp (List.mem_filter.mp hk).1
    simp only [List.mem_cons, List.not_mem_nil, or_false] at hp
    omega
  have hnone : ∀ q, q < 8 → u.onF F.lnkStat_take q = false := by
    intro q hq
    rw [hu, foldl_closePort_take ps hps8 s q hq, Bool.and_eq_false_iff]
    by_cases hm : s.onF F.lnkStat_take q = true
    · refine .inl (decide_eq_false (not_not.mpr ?_))
      rw [hps]
      refine List.mem_flatMap.mpr ⟨q / 2, List.mem_filter.mpr ⟨List.mem_range.mpr (by omega), ?_⟩, ?_⟩
      · obtain h | h : q = 2 * (q / 2) ∨ q = 2 * (q / 2) + 1 := by omega
        · rw [← h, hm, Bool.true_or]
        · rw [← h, hm, Bool.or_true]
      · simp only [List.mem_cons, List.not_mem_nil, or_false]
        omega
    · exact .inr (Bool.not_eq_true _ ▸ hm)
  have huown : u.own = s.own := by
    rw [hu]
    refine foldl_keeps State.own ?_ ps s
    intro s p
    exact (getF_putF_off _ F.lnkStat_state F.lnkRing_own p 0 _ (by decide)).trans (getF_putF_off s F.lnkStat_take F.lnkRing_own p 0 0 (by decide))
  have halone : ({ u with ring := ring } : State).takePorts = [] := by
    refine List.filter_eq_nil_iff.mpr fun p hp => ?_
    rw [show ({ u with ring := ring } : State).onF F.lnkStat_take p = false from hnone p (List.mem_range.mp hp)]
    exact Bool.false_ne_true
  obtain ⟨h1, h2, h3⟩ := aloneKeeper_spec halone
  rw [hclose]
  refine ⟨List.filter_eq_nil_iff.mpr fun k hk => ?_, h1, h2.trans huown⟩
  have hk4 := List.mem_range.mp hk
  rw [h3, h3, show ({ u with ring := ring } : State).onF F.lnkStat_take (2 * k) = false from hnone _ (by omega),
    show ({ u with ring := ring } : State).onF F.lnkStat_take (2 * k + 1) = false from hnone _ (by omega)]
  decide

/-! ## The switches and the release's timeout -/

theorem opBypass_eq (k : Nat) (s : State) : opBypass k s = { s with ring := { s.ring with
    bypassOpen := (List.range 4).map (fun i => if i = k then s.heldPlanes.contains k else s.ring.bypassOpen.getD i false) } } := rfl

theorem getD_switches (l : List Bool) (k i : Nat) (b : Bool) (hi : i < 4) :
    ((List.range 4).map (fun i => if i = k then b else l.getD i false)).getD i false = if i = k then b else l.getD i false := by
  rw [List.getD_eq_getElem?_getD, List.getElem?_map, List.getElem?_range hi]
  rfl

/-- Whether the bypasses close regardless. -/
theorem opReleaseTimeout_due {s : State} {now : Nat}
    (h : ((s.getF F.pwrStat_state = 1 ∨ s.getF F.pwrStat_state = 2) ∧ s.start.stopAt + 1000000 ≤ now) ∨
      ∃ t0, s.getF F.pwrStat_state = 3 ∧ s.keep.entryAt = some t0 ∧ t0 + 1600000 ≤ now) :
    opReleaseTimeout now s = (s.at_ now).closePlanes (s.at_ now).heldPlanes := by
  unfold opReleaseTimeout
  extract_lets -merge +onlyGivenNames u due
  have hstate : u.getF F.pwrStat_state = s.getF F.pwrStat_state := rfl
  have hkeep : u.keep.entryAt = s.keep.entryAt := rfl
  have hstop : u.start.stopAt = s.start.stopAt := rfl
  have hdue : due = true := by
    dsimp only [due]
    rw [hstate, hkeep, hstop]
    rcases h with ⟨h | h, hd⟩ | ⟨t0, h, ht, hd⟩
    · simp only [h, decide_eq_true_eq]
      exact hd
    · simp only [h, decide_eq_true_eq]
      exact hd
    · simp only [h, ht, decide_eq_true_eq]
      exact hd
  rw [if_pos hdue]

theorem opReleaseTimeout_early {s : State} {now : Nat}
    (h : s.getF F.pwrStat_state = 0 ∨ ((s.getF F.pwrStat_state = 1 ∨ s.getF F.pwrStat_state = 2) ∧ now < s.start.stopAt + 1000000) ∨
      ∃ t0, s.getF F.pwrStat_state = 3 ∧ s.keep.entryAt = some t0 ∧ now < t0 + 1600000) : opReleaseTimeout now s = s.at_ now := by
  unfold opReleaseTimeout
  extract_lets -merge +onlyGivenNames u due
  have hstate : u.getF F.pwrStat_state = s.getF F.pwrStat_state := rfl
  have hkeep : u.keep.entryAt = s.keep.entryAt := rfl
  have hstop : u.start.stopAt = s.start.stopAt := rfl
  have hdue : due = false := by
    dsimp only [due]
    rw [hstate, hkeep, hstop]
    rcases h with h | ⟨h | h, hd⟩ | ⟨t0, h, ht, hd⟩
    · simp only [h]
    · simp only [h, decide_eq_false_iff_not, Nat.not_le]
      exact hd
    · simp only [h, decide_eq_false_iff_not, Nat.not_le]
      exact hd
    · simp only [h, ht, decide_eq_false_iff_not, Nat.not_le]
      exact hd
  rw [hdue, if_neg Bool.false_ne_true]

theorem releaseTimeout_closes {s : State} {now : Nat}
    (h : ((s.getF F.pwrStat_state = 1 ∨ s.getF F.pwrStat_state = 2) ∧ s.start.stopAt + 1000000 ≤ now) ∨
      ∃ t0, s.getF F.pwrStat_state = 3 ∧ s.keep.entryAt = some t0 ∧ t0 + 1600000 ≤ now) :
    completes (.ringReleaseTimeout now) s (fun t => t.heldPlanes = [] ∧ t.isKeeper = true ∧ t.getF F.lnkRing_keeper = s.own) := by
  obtain ⟨h1, h2, h3⟩ := closeHeld_spec (s.begin.at_ now)
  have hop := opReleaseTimeout_due (s := s.begin) h
  obtain ⟨u, hu⟩ : ∃ u, (s.begin.at_ now).closePlanes (s.begin.at_ now).heldPlanes = u := ⟨_, rfl⟩
  rw [hu] at h1 h2 h3 hop
  exact completes_of_eq (f := opReleaseTimeout now) rfl hop ⟨h1, h2, h3⟩

/-! ## The statement -/

/-- Settles O34: what a word leaves is the ring's own table; a port that trains at full rate shows it in its two registers, which nothing after
it touches; planes that close leave no port that holds take. -/
theorem planesAreTakenAndReleased : Obligations.PlanesAreTakenAndReleased := by
  unfold Obligations.PlanesAreTakenAndReleased
  intro s
  refine ⟨fun port part plane hw hheld => ?_, fun port part tick planes hw => ?_, fun plane e w he hw en wn hm hbe hbw => ?_, fun plane => ?_,
    fun now hst => ⟨fun hd => releaseTimeout_closes (.inl ⟨hst, hd⟩), fun hd => ?_⟩,
    fun now t0 hst ht => ⟨fun hd => releaseTimeout_closes (.inr ⟨t0, hst, ht, hd⟩), fun hd => ?_⟩, fun now hst => ?_⟩
  · refine completes_onWord (port := port.toNat) (part := part.toNat) (w := .take plane)
      (f := fun s => (s.addPart part.toNat plane.toNat).sawTake part.toNat plane.toNat) rfl hw ?_
    obtain ⟨u, hu⟩ : ∃ u, u = ((s.begin.relay (some port.toNat) part.toNat (.take plane)).addPart part.toNat plane.toNat).sawTake
      part.toNat plane.toNat := ⟨_, rfl⟩
    obtain ⟨h1, h2, h3, h4⟩ := takeWord_spec port.toNat part.toNat plane.toNat (.take plane) hheld hw u hu
    rw [← hu]
    exact ⟨h1, h2, h3, h4⟩
  · refine completes_onWord (port := port.toNat) (part := part.toNat) (w := .release tick)
      (f := opRelease part.toNat (planes.map BitVec.toNat)) rfl hw ?_
    obtain ⟨u, hu⟩ : ∃ u, u = opRelease part.toNat (planes.map BitVec.toNat) (s.begin.relay (some port.toNat) part.toNat (.release tick)) := ⟨_, rfl⟩
    obtain ⟨h1, h2, h3, h4, h5⟩ := releaseWord_spec s port.toNat part.toNat (.release tick) (planes.map BitVec.toNat) u hu
    rw [← hu]
    exact ⟨fun k hk => h1 k.toNat (List.mem_map_of_mem hk), h2, h3, h4, h5⟩
  · obtain ⟨u, hu⟩ : ∃ u, opRingTake plane.toNat (.full e he) (.full w hw) en wn s.begin = u := ⟨_, rfl⟩
    have hsame := opRingTake_full (s := s.begin) (en := en) (wn := wn) he hw hm hbe hbw
    rw [hu] at hsame
    exact completes_of_eq (f := opRingTake plane.toNat (.full e he) (.full w hw) en wn) rfl hu (ringTake_spec he hw plane.isLt u hsame)
  · refine completes_of_eq (f := opBypass plane.toNat) rfl (opBypass_eq plane.toNat s.begin) ⟨fun i hi => ?_, rfl⟩
    refine (getD_switches s.ring.bypassOpen plane.toNat i (s.heldPlanes.contains plane.toNat) hi).trans ?_
    by_cases h : i = plane.toNat
    · rw [if_pos h, if_pos h, h]
    · rw [if_neg h, if_neg h]
  · exact idlesAt_of_run (f := opReleaseTimeout now) rfl (opReleaseTimeout_early (s := s.begin) (.inr (.inl ⟨hst, hd⟩)))
  · exact idlesAt_of_run (f := opReleaseTimeout now) rfl (opReleaseTimeout_early (s := s.begin) (.inr (.inr ⟨t0, hst, ht, hd⟩)))
  · exact idlesAt_of_run (f := opReleaseTimeout now) rfl (opReleaseTimeout_early (s := s.begin) (.inl hst))

end Sys2Proof.Machine
end

section
/-! SUPPORT. Ports that go down, retrain and are reset, losses of a ring and its slow hops (R323, R334 to R336, R340 to R343), and the statement
on them (O35). -/
namespace Sys2Proof.Machine

/-! ## What moves to the sibling plane (R323, R162) -/

/-- The registers that an envelope on its way may touch. -/
def sendRegs : List Reg := [R.celColl, R.shfErrsum]

/-- While a port carries nothing, it stays as it is, and only a failed collective is noted. -/
def sentBeside (p : Nat) (s u : State) : Prop := s.portCarries p = false → u.port p = s.port p ∧ regsIn sendRegs s u

theorem portCarries_of {s u : State} {p : Nat} (hp : u.port p = s.port p) (hr : regsIn sendRegs s u) : u.portCarries p = s.portCarries p := by
  have hl : u.lnk p = s.lnk p := getF_of_regsIn hr (by decide) p
  simp only [State.portCarries, State.portUp, hl, hp]

theorem sentBeside_refl (p : Nat) (s : State) : sentBeside p s s := fun _ => ⟨rfl, regsIn_refl _ s⟩

theorem sentBeside_trans (p : Nat) (s t u : State) (h : sentBeside p s t) (h' : sentBeside p t u) : sentBeside p s u := by
  intro hc
  obtain ⟨hp, hr⟩ := h hc
  obtain ⟨hp', hr'⟩ := h' ((portCarries_of hp hr).trans hc)
  exact ⟨hp'.trans hp, regsIn_trans hr hr'⟩

theorem regsIn_errsum (s : State) (is : List Nat) (b : Nat) : regsIn sendRegs s (s.errsum is b) :=
  foldl_rel (r := regsIn sendRegs) (regsIn_refl _) (fun _ _ _ => regsIn_trans) (fun s i => regsIn_putF s F.shfErrsum_sources i _ (by decide)) is s

theorem sentBeside_linkFailure (s : State) (p : Nat) (rs : List Nat) : sentBeside p s (s.linkFailure rs) := by
  refine foldl_rel (sentBeside_refl p) (sentBeside_trans p) (fun s c => ?_) _ s
  split
  · next j t _ =>
    split
    · intro _
      obtain ⟨ctl, hinv⟩ := invalidate_frame (s.bump F.celColl_failed c) j
      have hreg : regsIn sendRegs s ((s.bump F.celColl_failed c).invalidate j) := by
        rw [hinv]
        exact regsIn_trans (regsIn_putF s F.celColl_failed c _ (by decide)) (regsIn_of_regs rfl)
      refine ⟨?_, regsIn_trans hreg (regsIn_errsum _ _ _)⟩
      rw [errsum_frame, hinv]
      rfl
    · exact sentBeside_refl p s
  · exact sentBeside_refl p s

theorem sentBeside_transmit (s : State) {p q : Nat} (e : Envelope) (h : q ≠ p) : sentBeside p s (s.transmit q e) := by
  intro _
  unfold State.transmit
  extract_lets -merge +onlyGivenNames x e1 e2
  split
  · exact ⟨port_setPort_ne s _ h, regsIn_of_regs rfl⟩
  · exact ⟨port_setPort_ne s _ h, regsIn_of_regs rfl⟩

theorem sentBeside_sendEnv (s : State) {p : Nat} (e : Envelope) (h : sibling p ≠ p) : sentBeside p s (s.sendEnv p e) := by
  intro hc
  unfold State.sendEnv
  rw [if_neg (by rw [hc]; decide)]
  split
  · extract_lets -merge +onlyGivenNames s1
    have h1 : s1.port p = s.port p ∧ s1.regs = s.regs := by
      dsimp only [s1]
      split <;> exact ⟨rfl, rfl⟩
    obtain ⟨hp, hr⟩ := h1
    obtain ⟨hp', hr'⟩ := sentBeside_transmit s1 _ h ((portCarries_of hp (regsIn_of_regs hr)).trans hc)
    exact ⟨hp'.trans hp, regsIn_trans (regsIn_of_regs hr) hr'⟩
  · exact sentBeside_linkFailure s p _ hc

/-- A port that is not up keeps no envelope; beside the note on its rerouting the ports' registers stay. -/
theorem movePort_spec {s : State} {p : Nat} (hs : sibling p ≠ p) (hup : s.portUp p = false) :
    (s.movePort p).port p = { s.port p with replay := [], waiting := [] } ∧
    ∃ u, (u = s ∨ u = s.putF F.lnkStat_rerouted p 1) ∧ regsIn sendRegs u (s.movePort p) := by
  unfold State.movePort
  extract_lets -merge +onlyGivenNames x es s1 s2
  have h2 : s2.port p = s1.port p ∧ ∃ u, (u = s ∨ u = s.putF F.lnkStat_rerouted p 1) ∧ s2.regs = u.regs := by
    dsimp only [s2]
    split
    · exact ⟨rfl, _, .inr rfl, rfl⟩
    · exact ⟨rfl, _, .inl rfl, rfl⟩
  obtain ⟨hp, u, hu, hr⟩ := h2
  have hlnk : s2.lnk p = s.lnk p := by
    rw [State.lnk, State.getF, State.reg, hr]
    obtain rfl | rfl := hu
    · rfl
    · exact getF_putF_apart s F.lnkStat_rerouted F.lnkStat_state p 1 rfl (by decide)
  have hcarries : s2.portCarries p = false := by
    rw [State.portCarries, State.portUp, hlnk, ← State.portUp, hup, Bool.false_and]
  obtain ⟨hp', hr'⟩ := foldl_rel (sentBeside_refl p) (sentBeside_trans p) (fun s e => sentBeside_sendEnv s e hs) es s2 hcarries
  refine ⟨hp'.trans (hp.trans (port_setPort_same ..)), u, hu, fun d k hk => (hr' d k hk).trans ?_⟩
  rw [hr]

/-- A field that no envelope on its way and no rerouting touches. -/
theorem getF_movePort {s : State} {p : Nat} (hs : sibling p ≠ p) (hup : s.portUp p = false) {f : Fld}
    (hf : f.reg.off / 8 ≠ R.lnkStat.off / 8 ∨ f = F.lnkStat_state ∨ f = F.lnkStat_take) (hn : ∀ q ∈ sendRegs, f.reg.off / 8 ≠ q.off / 8) (i : Nat) :
    (s.movePort p).getF f i = s.getF f i := by
  obtain ⟨-, u, hu, hr⟩ := movePort_spec hs hup
  refine (getF_of_regsIn hr hn i).trans ?_
  obtain rfl | rfl := hu
  · rfl
  · obtain hf | rfl | rfl := hf
    · exact getF_putF_off s F.lnkStat_rerouted f p i 1 (Ne.symm hf)
    · exact getF_putF_beside s p i 1 rfl (by decide) (by decide)
    · exact getF_putF_beside s p i 1 rfl (by decide) (by decide)

/-! ## What a change of a port leaves of the ports (R71, R327, R427) -/

/-- The registers in which the part's role in the ring and its readiness show. -/
def roleRegs : List Reg := [R.lnkRing, R.hstEvqStat, R.stdBootRet, R.stdBoot, R.shfCap]

/-- The ports stay as they are. -/
def keepsPorts (s u : State) : Prop := u.ports = s.ports ∧ regsIn roleRegs s u

theorem keepsPorts_refl (s : State) : keepsPorts s s := ⟨rfl, regsIn_refl _ s⟩

theorem keepsPorts_trans (s t u : State) (h : keepsPorts s t) (h' : keepsPorts t u) : keepsPorts s u := by
  obtain ⟨hp, hr⟩ := h
  obtain ⟨hp', hr'⟩ := h'
  exact ⟨hp'.trans hp, regsIn_trans hr hr'⟩

theorem port_of_keepsPorts {s u : State} (h : keepsPorts s u) (p : Nat) : u.port p = s.port p := by rw [State.port, State.port, h.1]

theorem keepsPorts_ite {s t u : State} {c : Prop} [Decidable c] (h : keepsPorts s t) (h' : keepsPorts s u) : keepsPorts s (if c then t else u) := by
  split
  · exact h
  · exact h'

theorem keepsPorts_of_ringPath {s u : State} (h : ringPath s u) : keepsPorts s u := by
  obtain ⟨_, _, rfl⟩ := h
  exact keepsPorts_refl s

theorem keepsPorts_putF (s : State) (f : Fld) (i v : Nat) (hr : f.reg ∈ roleRegs) : keepsPorts s (s.putF f i v) := ⟨rfl, regsIn_putF s f i v hr⟩

theorem keepsPorts_raise (s : State) (code cls idx : Nat) (arg : Word) (payload : List Byte) : keepsPorts s (s.raise code cls idx arg payload) := by
  obtain ⟨⟨_, _, _, _, _, _, _, h⟩, hr⟩ := eventPath_raise (ks := [regKey R.hstEvqStat 0, regKey R.stdBootRet 0]) (s := s)
    code cls idx arg payload (by simp) (by simp)
  refine ⟨by rw [h], regsIn_of_sameRegs hr ?_⟩
  intro k hk
  simp only [List.mem_cons, List.not_mem_nil, or_false] at hk
  rcases hk with rfl | rfl
  · exact ⟨R.hstEvqStat, by decide, regKey_div _ _⟩
  · exact ⟨R.stdBootRet, by decide, regKey_div _ _⟩

theorem keepsPorts_aloneKeeper (s : State) : keepsPorts s s.aloneKeeper := by
  have hkeeper : keepsPorts s ((s.putF F.lnkRing_is_keeper 0 1).putF F.lnkRing_keeper 0 s.own) :=
    keepsPorts_trans _ _ _ (keepsPorts_putF s F.lnkRing_is_keeper 0 1 (by decide)) (keepsPorts_putF _ F.lnkRing_keeper 0 _ (by decide))
  exact keepsPorts_ite (keepsPorts_refl s) (keepsPorts_ite hkeeper (keepsPorts_trans _ _ _ hkeeper (keepsPorts_raise ..)))

theorem keepsPorts_becomeReady (s : State) : keepsPorts s s.becomeReady := by
  unfold State.becomeReady
  extract_lets -merge +onlyGivenNames s1 s2 s3
  have h1 : keepsPorts s s1 := keepsPorts_trans _ _ _ (keepsPorts_putF s F.shfCap_a 0 _ (by decide)) (keepsPorts_trans _ _ _
    (keepsPorts_putF _ F.shfCap_v 0 _ (by decide)) (keepsPorts_trans _ _ _ (keepsPorts_putF _ F.shfCap_g 0 _ (by decide))
      (keepsPorts_trans _ _ _ (keepsPorts_putF _ F.shfCap_l 0 _ (by decide)) (keepsPorts_putF _ F.shfCap_s 0 _ (by decide)))))
  have h2 : keepsPorts s1 s2 := keepsPorts_trans _ _ _ (keepsPorts_putF s1 F.stdBoot_stage 0 7 (by decide))
    (keepsPorts_putF _ F.stdBoot_minimal 0 0 (by decide))
  have h3 : keepsPorts s2 s3 := keepsPorts_putF s2 F.stdBoot_elapsed_ms 0 _ (by decide)
  exact keepsPorts_ite (keepsPorts_refl s) (keepsPorts_trans s s3 _ (keepsPorts_trans s s1 s3 h1 (keepsPorts_trans _ _ _ h2 h3))
    (keepsPorts_raise s3 _ _ _ _ _))

theorem keepsPorts_countInStart (s : State) (f : Fld) (hf : f.reg ∈ roleRegs) : keepsPorts s (s.countInStart f) :=
  keepsPorts_ite (keepsPorts_trans _ _ _ (keepsPorts_putF s f 0 _ hf) (keepsPorts_putF _ F.stdBoot_degraded 0 1 (by decide))) (keepsPorts_refl s)

/-! ## A port that goes down or fails to train -/

theorem portFalls_of_down {s : State} {p : Nat} (h : s.portUp p = false) : s.portFalls p = s := by
  unfold State.portFalls
  rw [h]
  exact if_pos rfl

theorem portFalls_spec {s : State} {p : Nat} (hs : sibling p ≠ p) (h : s.portUp p = true) :
    (s.portFalls p).lnk p = lnkDown ∧ (s.portFalls p).getF F.lnkErr_down p = min (s.getF F.lnkErr_down p + 1) 65535 ∧
    (s.portFalls p).onF F.lnkTrain_pending p = true ∧ ((s.portFalls p).port p).replay = [] ∧ ((s.portFalls p).port p).waiting = [] := by
  obtain ⟨u, hu⟩ : ∃ u, u = ((s.putF F.lnkStat_state p lnkDown).bump F.lnkErr_down p).putF F.lnkTrain_pending p 1 := ⟨_, rfl⟩
  have hfalls : s.portFalls p = (u.movePort p).aloneKeeper := by
    unfold State.portFalls
    rw [h, hu]
    exact if_neg (by decide)
  have hlnk : u.lnk p = lnkDown := by
    rw [State.lnk, hu, getF_putF_off _ F.lnkTrain_pending F.lnkStat_state p p 1 (by decide), getF_bump_off _ F.lnkErr_down F.lnkStat_state p p 1 (by decide)]
    exact getF_putF_same s F.lnkStat_state p _ (by decide)
  have herr : u.getF F.lnkErr_down p = min (s.getF F.lnkErr_down p + 1) 65535 := by
    rw [hu, getF_putF_off _ F.lnkTrain_pending F.lnkErr_down p p 1 (by decide), getF_bump _ F.lnkErr_down p 1 (by decide),
      getF_putF_off _ F.lnkStat_state F.lnkErr_down p p _ (by decide)]
    rfl
  have hpend : u.getF F.lnkTrain_pending p = 1 := by
    rw [hu]
    exact getF_putF_same _ F.lnkTrain_pending p 1 (by decide)
  have hup : u.portUp p = false := by rw [State.portUp, hlnk]; decide
  obtain ⟨hport, -⟩ := movePort_spec hs hup
  have hport' := port_of_keepsPorts (keepsPorts_aloneKeeper (u.movePort p)) p
  obtain ⟨-, hregs⟩ := keepsPorts_aloneKeeper (u.movePort p)
  rw [hfalls, hport', hport]
  refine ⟨?_, ?_, ?_, rfl, rfl⟩
  · exact (getF_of_regsIn hregs (by decide) p).trans ((getF_movePort hs hup (.inr (.inl rfl)) (by decide) p).trans hlnk)
  · exact (getF_of_regsIn hregs (by decide) p).trans ((getF_movePort hs hup (.inl (by decide)) (by decide) p).trans herr)
  · refine onF_of_bit (b := true) ?_
    exact (getF_of_regsIn hregs (by decide) p).trans ((getF_movePort hs hup (.inl (by decide)) (by decide) p).trans hpend)

/-- A port that has failed to train has failed once more, and asks for another retrain until the third time (R343). -/
theorem trainFails_spec (s : State) (p : Nat) (hpend : s.onF F.lnkTrain_pending p = false) :
    (s.trainFails p).port p = { s.port p with failedTrains := (s.port p).failedTrains + 1 } ∧
    (s.trainFails p).onF F.lnkTrain_pending p = decide ((s.port p).failedTrains < 2) ∧ (s.trainFails p).lnk p = s.lnk p ∧
    (s.trainFails p).getF F.lnkTrain_dur p = s.getF F.lnkTrain_dur p := by
  unfold State.trainFails
  extract_lets -merge +onlyGivenNames n s1 s2
  have h1 : s1.port p = { s.port p with failedTrains := (s.port p).failedTrains + 1 } ∧ s1.regs = s.regs := ⟨port_modPort_same .., rfl⟩
  obtain ⟨hp1, hr1⟩ := h1
  have hget : ∀ f i, s1.getF f i = s.getF f i := fun f i => by rw [State.getF, State.getF, State.reg, State.reg, hr1]
  have h2 : s2.port p = s1.port p ∧ s2.onF F.lnkTrain_pending p = decide ((s.port p).failedTrains < 2) ∧ s2.lnk p = s.lnk p ∧
      s2.getF F.lnkTrain_dur p = s.getF F.lnkTrain_dur p := by
    dsimp only [s2]
    by_cases hn : n < 3
    · rw [if_pos hn, decide_eq_true (by omega : (s.port p).failedTrains < 2)]
      refine ⟨rfl, onF_of_bit (b := true) (getF_putF_same s1 F.lnkTrain_pending p 1 (by decide)), ?_, ?_⟩
      · exact (getF_putF_off s1 F.lnkTrain_pending F.lnkStat_state p p 1 (by decide)).trans (hget _ _)
      · exact (getF_putF_apart s1 F.lnkTrain_pending F.lnkTrain_dur p 1 rfl (by decide)).trans (hget _ _)
    · rw [if_neg hn, decide_eq_false (by omega : ¬ (s.port p).failedTrains < 2)]
      have hk : keepsPorts s1 (if n = 3 then ((s1.countInStart F.stdBootRet_ports).raise 0x41 6 p 0).tellTake (portPlane p) else s1) :=
        keepsPorts_ite (keepsPorts_trans _ _ _ (keepsPorts_countInStart s1 _ (by decide)) (keepsPorts_trans _ _ _ (keepsPorts_raise ..)
          (keepsPorts_of_ringPath (ringPath_tellTake ..)))) (keepsPorts_refl s1)
      have hports := port_of_keepsPorts hk p
      obtain ⟨-, hregs⟩ := hk
      refine ⟨hports, ?_, ?_, ?_⟩
      · exact (onF_of_getF ((getF_of_regsIn hregs (by decide) p).trans (hget _ _))).trans hpend
      · exact (getF_of_regsIn hregs (by decide) p).trans (hget _ _)
      · exact (getF_of_regsIn hregs (by decide) p).trans (hget _ _)
  clear_value s2
  obtain ⟨hp2, hpend2, hlnk2, hdur2⟩ := h2
  have hports := port_of_keepsPorts (keepsPorts_aloneKeeper s2) p
  obtain ⟨-, hregs⟩ := keepsPorts_aloneKeeper s2
  refine ⟨hports.trans (hp2.trans hp1), ?_, ?_, ?_⟩
  · exact (onF_of_getF (getF_of_regsIn hregs (by decide) p)).trans hpend2
  · exact (getF_of_regsIn hregs (by decide) p).trans hlnk2
  · exact (getF_of_regsIn hregs (by decide) p).trans hdur2

/-! ## A retrain that ends (R338, R341 to R343) -/

/-- A port begins to train: what it carried has moved on, and nothing asks for the retrain any more. -/
def State.training (s : State) (p : Nat) : State :=
  let s := if s.portUp p then (s.putF F.lnkStat_state p lnkTraining).movePort p else s
  let s := s.bump F.lnkTrain_count p
  ((s.putF F.lnkCtl_retrain p 0).putF F.lnkTrain_pending p 0).modPort p (fun x => { x with retraining := false })

theorem training_spec {s : State} {p : Nat} (hs : sibling p ≠ p) : ((s.training p).port p).failedTrains = (s.port p).failedTrains ∧
    (s.training p).onF F.lnkTrain_pending p = false ∧ (s.training p).onF F.lnkStat_take p = s.onF F.lnkStat_take p ∧
    ∀ f : Fld, f.reg = R.lnkRing → (s.training p).getF f 0 = s.getF f 0 := by
  unfold State.training
  extract_lets -merge +onlyGivenNames s1 s2
  have h1 : (s1.port p).failedTrains = (s.port p).failedTrains ∧ s1.onF F.lnkStat_take p = s.onF F.lnkStat_take p ∧
      ∀ f : Fld, f.reg = R.lnkRing → s1.getF f 0 = s.getF f 0 := by
    dsimp only [s1]
    split
    · have hup : (s.putF F.lnkStat_state p lnkTraining).portUp p = false := by
        rw [State.portUp, State.lnk, getF_putF_same s F.lnkStat_state p _ (by decide)]
        decide
      obtain ⟨hport, -⟩ := movePort_spec hs hup
      refine ⟨by rw [hport]; rfl, ?_, fun f hf => ?_⟩
      · exact (onF_of_getF (getF_movePort hs hup (.inr (.inr rfl)) (by decide) p)).trans
          (onF_of_getF (getF_putF_apart s F.lnkStat_state F.lnkStat_take p _ rfl (by decide)))
      · refine (getF_movePort hs hup (.inl ?_) ?_ 0).trans (getF_putF_off s F.lnkStat_state f p 0 _ ?_)
        · rw [hf]; decide
        · rw [hf]; decide
        · rw [hf]; decide
    · exact ⟨rfl, rfl, fun _ _ => rfl⟩
  clear_value s1
  obtain ⟨hport, htake, hring⟩ := h1
  obtain ⟨v, hv⟩ : ∃ v, v = (s2.putF F.lnkCtl_retrain p 0).putF F.lnkTrain_pending p 0 := ⟨_, rfl⟩
  rw [← hv]
  have hvport : v.port p = s1.port p := by rw [hv]; rfl
  have hmod : ∀ f i, (v.modPort p (fun x => { x with retraining := false })).getF f i = v.getF f i := fun _ _ => rfl
  refine ⟨?_, ?_, ?_, fun f hf => ?_⟩
  · rw [port_modPort_same, hvport]
    exact hport
  · refine onF_of_bit (b := false) ((hmod _ _).trans ?_)
    rw [hv]
    exact getF_putF_same _ F.lnkTrain_pending p 0 (by decide)
  · refine (onF_of_getF ((hmod _ _).trans ?_)).trans htake
    rw [hv, getF_putF_off _ F.lnkTrain_pending F.lnkStat_take p p 0 (by decide), getF_putF_off _ F.lnkCtl_retrain F.lnkStat_take p p 0 (by decide)]
    exact getF_bump_off s1 F.lnkTrain_count F.lnkStat_take p p 1 (by decide)
  · refine (hmod f 0).trans (Eq.trans ?_ (hring f hf))
    rw [hv, getF_putF_off _ F.lnkTrain_pending f p 0 0 (by rw [hf]; decide), getF_putF_off _ F.lnkCtl_retrain f p 0 0 (by rw [hf]; decide)]
    exact getF_bump_off s1 F.lnkTrain_count f p 0 1 (by rw [hf]; decide)

section
variable {s : State} {p : Nat} (h : (s.port p).retraining = true ∨ (s.lnk p = lnkDown ∨ s.portUp p = true) ∧ s.mayJoin p = true)
include h

theorem retrain_goes : (!(s.port p).retraining && !((s.portUp p || s.lnk p == lnkDown) && s.mayJoin p)) = false := by
  rcases h with h | ⟨h | h, hj⟩
  · rw [h]; rfl
  · rw [h, hj]
    simp
  · rw [h, hj]
    simp

theorem opPortRetrainDone_failed (d : Nat) : opPortRetrainDone p .failed d s = ((((s.training p).putF F.lnkTrain_edge p
    ((s.training p).getF F.tikCount_count % 2 ^ 32)).putF F.lnkTrain_dur p (min (d / 10000) 4095)).putF F.lnkStat_state p lnkDown
    |>.trainFails p).becomeReady := by
  unfold opPortRetrainDone
  rw [retrain_goes h, if_neg Bool.false_ne_true]
  rfl

theorem opPortRetrainDone_full {e : BitVec 10} (hop : BitVec 14) (d : Nat) (hs : sibling p ≠ p) (hb : s.bypassedTo p e.toNat ≤ 2) :
    keepsPorts ((s.training p).fullUp p e hop d) (opPortRetrainDone p (.full e hop) d s) := by
  have hb' : (s.training p).bypassedTo p e.toNat ≤ 2 := by
    obtain ⟨-, -, -, hring⟩ := training_spec (s := s) hs
    rw [bypassedTo_congr hring]
    exact hb
  unfold opPortRetrainDone
  rw [retrain_goes h, if_neg Bool.false_ne_true]
  extract_lets -merge +onlyGivenNames s1 alone s2 s3
  have h3 : s3 = s.training p := rfl
  rw [h3, trained_full hop d hb']
  refine keepsPorts_trans _ _ _ (keepsPorts_ite (keepsPorts_trans _ _ _ ?_ (keepsPorts_of_ringPath (ringPath_enterElection _))) ?_)
    (keepsPorts_becomeReady _)
  · exact keepsPorts_of_ringPath (ringPath_nowTakes ..)
  · exact keepsPorts_of_ringPath (ringPath_nowTakes ..)
end

theorem retrainFailed_spec {s : State} {p d : Nat} (hs : sibling p ≠ p)
    (h : (s.port p).retraining = true ∨ (s.lnk p = lnkDown ∨ s.portUp p = true) ∧ s.mayJoin p = true) :
    (opPortRetrainDone p .failed d s).lnk p = lnkDown ∧
    ((opPortRetrainDone p .failed d s).port p).failedTrains = (s.port p).failedTrains + 1 ∧
    (opPortRetrainDone p .failed d s).getF F.lnkTrain_dur p = min (d / 10000) 4095 ∧
    (opPortRetrainDone p .failed d s).onF F.lnkTrain_pending p = decide ((s.port p).failedTrains < 2) := by
  obtain ⟨hfails, hpend, -, -⟩ := training_spec (s := s) hs
  rw [opPortRetrainDone_failed h d]
  obtain ⟨u, hu⟩ : ∃ u, u = s.training p := ⟨_, rfl⟩
  rw [← hu] at hfails hpend ⊢
  obtain ⟨v, hv⟩ : ∃ v, v = ((u.putF F.lnkTrain_edge p (u.getF F.tikCount_count % 2 ^ 32)).putF F.lnkTrain_dur p (min (d / 10000) 4095)).putF
      F.lnkStat_state p lnkDown := ⟨_, rfl⟩
  rw [← hv]
  have hvport : v.port p = u.port p := by rw [hv]; rfl
  have hvlnk : v.lnk p = lnkDown := by
    rw [State.lnk, hv]
    exact getF_putF_same _ F.lnkStat_state p _ (by decide)
  have hvdur : v.getF F.lnkTrain_dur p = min (d / 10000) 4095 := by
    rw [hv, getF_putF_off _ F.lnkStat_state F.lnkTrain_dur p p _ (by decide), getF_putF_same _ F.lnkTrain_dur p _ (by decide)]
    exact Nat.mod_eq_of_lt (Nat.lt_of_le_of_lt (Nat.min_le_right _ _) (by decide))
  have hvpend : v.onF F.lnkTrain_pending p = false := by
    refine (onF_of_getF ?_).trans hpend
    rw [hv, getF_putF_off _ F.lnkStat_state F.lnkTrain_pending p p _ (by decide), getF_putF_apart _ F.lnkTrain_dur F.lnkTrain_pending p _ rfl (by decide),
      getF_putF_apart _ F.lnkTrain_edge F.lnkTrain_pending p _ rfl (by decide)]
  obtain ⟨h1, h2, h3, h4⟩ := trainFails_spec v p hvpend
  have hk := keepsPorts_becomeReady (v.trainFails p)
  have hregs := hk.2
  rw [hvport, hfails] at h2
  refine ⟨(getF_of_regsIn hregs (by decide) p).trans (h3.trans hvlnk), ?_, (getF_of_regsIn hregs (by decide) p).trans (h4.trans hvdur),
    (onF_of_getF (getF_of_regsIn hregs (by decide) p)).trans h2⟩
  rw [port_of_keepsPorts hk p, h1, hvport]
  exact congrArg (· + 1) hfails

theorem retrainFull_spec {s : State} {p d : Nat} {e : BitVec 10} {hop : BitVec 14} (hs : sibling p ≠ p) {t : State}
    (ht : keepsPorts ((s.training p).fullUp p e hop d) t) : t.lnk p = lnkFull ∧ t.onF F.lnkStat_take p = s.onF F.lnkStat_take p ∧
    t.getF F.lnkStat_peer p = e.toNat ∧ t.getF F.lnkTrain_dur p = min (d / 10000) 4095 ∧ (t.port p).failedTrains = 0 := by
  obtain ⟨-, -, htake, -⟩ := training_spec (s := s) hs
  obtain ⟨h1, h2, h3, h4⟩ := fullUp_spec (s.training p) p e hop d
  have hport := port_of_keepsPorts ht p
  obtain ⟨-, hregs⟩ := ht
  refine ⟨(getF_of_regsIn hregs (by decide) p).trans h2, ((onF_of_getF (getF_of_regsIn hregs (by decide) p)).trans h3).trans htake,
    (getF_of_regsIn hregs (by decide) p).trans h4, (getF_of_regsIn hregs (by decide) p).trans h1, ?_⟩
  rw [hport]
  exact congrArg Port.failedTrains (port_setPort_same ..)

/-! ## The reset of a plane's ports (R334) -/

theorem sel_port_lt (s : State) (by_ : Requester) : s.sel by_ F.lnkSel_port < 8 := fieldGet_lt ..

theorem heldPlanes_congr {s u : State} (h : ∀ i, u.getF F.lnkStat_take i = s.getF F.lnkStat_take i) : u.heldPlanes = s.heldPlanes := by
  simp only [State.heldPlanes, State.onF, h]

/-- The note that a link's control has changed, before its effect. -/
def State.resetNoted (s : State) (p : Nat) (on : Bool) : State :=
  ((s.putF F.lnkCtl_reset p (bit on)).markStale 6 (2 * portPlane p)).markStale 6 (2 * portPlane p + 1)

/-- Both ports of a plane show a state. -/
def State.bothShow (s : State) (k v : Nat) : State := (s.putF F.lnkStat_state (2 * k) v).putF F.lnkStat_state (2 * k + 1) v

theorem opLinkReset_eq (p : Nat) (on : Bool) (s : State) : opLinkReset p on s =
    if on then (if (s.resetNoted p on).heldPlanes.contains (portPlane p) then (s.resetNoted p on).releasePlanes [portPlane p]
      else (s.resetNoted p on).bothShow (portPlane p) lnkReset)
    else if (s.resetNoted p on).planeReset p || (s.resetNoted p on).heldPlanes.contains (portPlane p) then s.resetNoted p on
      else (s.resetNoted p on).bothShow (portPlane p) lnkUntrained := rfl

section
variable {s : State} {p : Nat} (on : Bool)

theorem sameRegs_resetNoted : sameRegs [regKey R.lnkCtl p] s (s.resetNoted p on) :=
  sameRegs_of_regs (sameRegs_putF F.lnkCtl_reset p (bit on) (sameRegs_refl _ s) List.mem_cons_self) rfl

theorem onF_resetNoted : (s.resetNoted p on).onF F.lnkCtl_reset p = on := onF_of_bit (getF_putF_same s F.lnkCtl_reset p _ (by decide))

theorem getF_resetNoted (f : Fld) (i : Nat) (hf : R.lnkCtl.off / 8 ≠ f.reg.off / 8) : (s.resetNoted p on).getF f i = s.getF f i :=
  getF_putF_off s F.lnkCtl_reset f p i _ hf

theorem heldPlanes_resetNoted : (s.resetNoted p on).heldPlanes = s.heldPlanes :=
  heldPlanes_congr (fun i => getF_resetNoted on F.lnkStat_take i (by decide))
end

theorem bothShow_spec (s : State) {k v : Nat} (hk : k < 4) (hv : v < 8) : (s.bothShow k v).lnk (2 * k) = v ∧ (s.bothShow k v).lnk (2 * k + 1) = v ∧
    sameRegs [regKey R.lnkStat (2 * k), regKey R.lnkStat (2 * k + 1)] s (s.bothShow k v) := by
  have hmod : v % 2 ^ F.lnkStat_state.width = v := Nat.mod_eq_of_lt hv
  refine ⟨?_, ?_, ?_⟩
  · rw [State.lnk, State.bothShow, getF_putF_inst _ F.lnkStat_state _ _ _ (by omega) (by omega) (by omega),
      getF_putF_same s F.lnkStat_state _ _ (by decide), hmod]
  · rw [State.lnk, State.bothShow, getF_putF_same _ F.lnkStat_state _ _ (by decide), hmod]
  · exact sameRegs_putF F.lnkStat_state _ _ (sameRegs_putF F.lnkStat_state _ _ (sameRegs_refl _ s) List.mem_cons_self)
      (List.mem_cons_of_mem _ List.mem_cons_self)

theorem releasePlanes_adds {s : State} {k : Nat} (hh : s.heldPlanes.contains k = true) (hr : s.ring.releasing.contains k = false) :
    k ∈ (s.releasePlanes [k]).ring.releasing := by
  have hps : [k].filter (fun k => s.heldPlanes.contains k && !s.ring.releasing.contains k) = [k] := by
    rw [List.filter_cons_of_pos (by rw [hh, hr]; rfl), List.filter_nil]
  unfold State.releasePlanes
  extract_lets -merge +onlyGivenNames ps s1 r s2
  have hps' : ps = [k] := hps
  have hs2 : k ∈ s2.ring.releasing := by
    dsimp only [s2]
    rw [waitForRelease_eq, hps']
    exact List.mem_append_right _ List.mem_cons_self
  clear_value s2
  rw [if_neg (by rw [hps']; exact Bool.false_ne_true)]
  split
  · rw [State.tell, relay_eq]
    exact hs2
  · exact hs2

theorem linkReset_held {s : State} {p : Nat} (hh : s.heldPlanes.contains (portPlane p) = true)
    (hr : s.ring.releasing.contains (portPlane p) = false) : (opLinkReset p true s).onF F.lnkCtl_reset p = true ∧
    portPlane p ∈ (opLinkReset p true s).ring.releasing ∧ sameRegs [regKey R.lnkCtl p] s (opLinkReset p true s) := by
  have hop : opLinkReset p true s = (s.resetNoted p true).releasePlanes [portPlane p] := by
    rw [opLinkReset_eq, if_pos rfl, heldPlanes_resetNoted, if_pos hh]
  obtain ⟨_, _, hring⟩ := ringPath_releasePlanes (s.resetNoted p true) [portPlane p]
  have hregs : (opLinkReset p true s).regs = (s.resetNoted p true).regs := by rw [hop, hring]
  refine ⟨?_, ?_, sameRegs_of_regs (sameRegs_resetNoted true) hregs⟩
  · rw [onF_of_reg (s := s.resetNoted p true) (by rw [State.reg, State.reg, hregs])]
    exact onF_resetNoted true
  · rw [hop]
    exact releasePlanes_adds (by rw [heldPlanes_resetNoted]; exact hh) hr

theorem linkReset_free {s : State} {p : Nat} (hp : p < 8) (hh : s.heldPlanes.contains (portPlane p) = false) :
    (opLinkReset p true s).onF F.lnkCtl_reset p = true ∧ (opLinkReset p true s).lnk (2 * portPlane p) = lnkReset ∧
    (opLinkReset p true s).lnk (2 * portPlane p + 1) = lnkReset ∧
    sameRegs [regKey R.lnkCtl p, regKey R.lnkStat (2 * portPlane p), regKey R.lnkStat (2 * portPlane p + 1)] s (opLinkReset p true s) := by
  have hop : opLinkReset p true s = (s.resetNoted p true).bothShow (portPlane p) lnkReset := by
    rw [opLinkReset_eq, if_pos rfl, heldPlanes_resetNoted, if_neg (by rw [hh]; decide)]
  have hk : portPlane p < 4 := by rw [portPlane]; omega
  obtain ⟨h0, h1, hregs⟩ := bothShow_spec (s.resetNoted p true) (v := lnkReset) hk (by decide)
  rw [hop]
  refine ⟨?_, h0, h1, fun d k hk => ?_⟩
  · refine (onF_of_getF (getF_of_sameRegs hregs ?_)).trans (onF_resetNoted (s := s) (p := p) true)
    simp only [List.mem_cons, List.not_mem_nil, or_false, not_or]
    exact ⟨regKey_ne_of_off _ _ _ _ (by decide), regKey_ne_of_off _ _ _ _ (by decide)⟩
  · rw [List.mem_cons, not_or] at hk
    exact (hregs d k hk.2).trans (sameRegs_resetNoted true d k (fun h => hk.1 (List.mem_singleton.mp h)))

theorem opposite_cases (p : Nat) (hp : p < 8) : (2 * (p / 2) = p ∧ 2 * (p / 2) + 1 = opposite p) ∨ (2 * (p / 2) = opposite p ∧ 2 * (p / 2) + 1 = p) := by
  interval_cases p <;> decide

theorem linkReset_cleared {s : State} {p : Nat} (hp : p < 8) (hh : s.heldPlanes.contains (portPlane p) = false)
    (ho : s.onF F.lnkCtl_reset (opposite p) = false) : (opLinkReset p false s).onF F.lnkCtl_reset p = false ∧
    (opLinkReset p false s).lnk (2 * portPlane p) = lnkUntrained ∧ (opLinkReset p false s).lnk (2 * portPlane p + 1) = lnkUntrained := by
  have hk : portPlane p < 4 := by rw [portPlane]; omega
  have hcases := opposite_cases p hp
  have hopp : (s.resetNoted p false).onF F.lnkCtl_reset (opposite p) = false := by
    rw [← ho]
    exact onF_of_getF (getF_putF_inst s F.lnkCtl_reset p (opposite p) _ (by omega) (by omega) (by omega))
  have hplane : (s.resetNoted p false).planeReset p = false := by
    rw [State.planeReset]
    obtain ⟨h0, h1⟩ | ⟨h0, h1⟩ := hcases
    · rw [h1, h0, onF_resetNoted, hopp]; rfl
    · rw [h1, h0, onF_resetNoted, hopp]; rfl
  have hop : opLinkReset p false s = (s.resetNoted p false).bothShow (portPlane p) lnkUntrained := by
    rw [opLinkReset_eq, if_neg Bool.false_ne_true, hplane, heldPlanes_resetNoted, hh]
    exact if_neg Bool.false_ne_true
  obtain ⟨h0, h1, hregs⟩ := bothShow_spec (s.resetNoted p false) (v := lnkUntrained) hk (by decide)
  rw [hop]
  refine ⟨?_, h0, h1⟩
  refine (onF_of_getF (getF_of_sameRegs hregs ?_)).trans (onF_resetNoted (s := s) (p := p) false)
  simp only [List.mem_cons, List.not_mem_nil, or_false, not_or]
  exact ⟨regKey_ne_of_off _ _ _ _ (by decide), regKey_ne_of_off _ _ _ _ (by decide)⟩

/-! ## A sudden loss (R162, R335) -/

/-- What the loss of a hop takes from a program. -/
def State.loseTick (s : State) (r : RingId) (j : Nat) : State :=
  (((s.prog j).stagesAt.filter (fun e => (s.cell e.1).unfinished && s.ringLeft e.1 e.2 (ringOf r))).foldl
    (fun s e => s.bump F.celColl_failed e.1) s).invalidate j

/-- Programs keep their state, and one that is invalid stays so; the ring and the part's role in it stay. -/
structure LosesTicks (s u : State) : Prop where
  ring : u.ring = s.ring
  tick : u.tick = s.tick
  regs : regsIn sendRegs s u
  state : ∀ j, (u.prog j).state = (s.prog j).state
  invalid : ∀ j, (s.prog j).invalid = true → (u.prog j).invalid = true

theorem losesTicks_refl (s : State) : LosesTicks s s := ⟨rfl, rfl, regsIn_refl _ s, fun _ => rfl, fun _ h => h⟩

theorem losesTicks_trans (s t u : State) (h : LosesTicks s t) (h' : LosesTicks t u) : LosesTicks s u :=
  ⟨h'.ring.trans h.ring, h'.tick.trans h.tick, regsIn_trans h.regs h'.regs, fun j => (h'.state j).trans (h.state j),
    fun j hj => h'.invalid j (h.invalid j hj)⟩

theorem losesTicks_of_bumps (s : State) (l : List (Nat × Stage)) : LosesTicks s (l.foldl (fun s e => s.bump F.celColl_failed e.1) s) :=
  foldl_rel (f := fun s e => s.bump F.celColl_failed e.1) losesTicks_refl losesTicks_trans
    (fun s e => ⟨rfl, rfl, regsIn_putF s F.celColl_failed e.1 _ (by decide), fun _ => rfl, fun _ h => h⟩) l s

theorem losesTicks_invalidate (s : State) (j : Nat) : LosesTicks s (s.invalidate j) := by
  unfold State.invalidate
  split
  · exact losesTicks_refl s
  · refine ⟨rfl, rfl, regsIn_of_regs rfl, fun k => ?_, fun k hk => ?_⟩
    · by_cases hj : j = k
      · subst hj
        rw [State.modProg, prog_setProg_same]
      · rw [State.modProg, prog_setProg_ne s _ hj]
    · by_cases hj : j = k
      · subst hj
        rw [State.modProg, prog_setProg_same]
      · rw [State.modProg, prog_setProg_ne s _ hj]
        exact hk

theorem invalid_of_invalidate {s : State} {j : Nat} (hw : s.tick.windowOpen = false) (hj : (s.prog j).state = .active) :
    ((s.invalidate j).prog j).invalid = true := by
  unfold State.invalidate
  rw [if_neg]
  · rw [State.modProg, prog_setProg_same]
  · rw [State.outputsValid, hw, hj, Bool.false_and, Bool.false_or]
    decide

theorem losesTicks_loseTick (s : State) (r : RingId) (j : Nat) : LosesTicks s (s.loseTick r j) :=
  losesTicks_trans _ _ _ (losesTicks_of_bumps s _) (losesTicks_invalidate ..)

theorem invalid_of_loseTick {s : State} {r : RingId} {j : Nat} (hw : s.tick.windowOpen = false) (hj : (s.prog j).state = .active) :
    ((s.loseTick r j).prog j).invalid = true := by
  have h := losesTicks_of_bumps s ((s.prog j).stagesAt.filter (fun e => (s.cell e.1).unfinished && s.ringLeft e.1 e.2 (ringOf r)))
  exact invalid_of_invalidate (by rw [h.tick]; exact hw) (by rw [h.state]; exact hj)

theorem foldl_loseTick (r : RingId) (js : List Nat) (s : State) (hw : s.tick.windowOpen = false) :
    LosesTicks s (js.foldl (fun s j => s.loseTick r j) s) ∧
    ∀ j ∈ js, (s.prog j).state = .active → ((js.foldl (fun s j => s.loseTick r j) s).prog j).invalid = true := by
  induction js generalizing s with
  | nil => exact ⟨losesTicks_refl s, fun j h => absurd h List.not_mem_nil⟩
  | cons k l ih =>
    have hk := losesTicks_loseTick s r k
    obtain ⟨hl, hinv⟩ := ih (s.loseTick r k) (by rw [hk.tick]; exact hw)
    refine ⟨losesTicks_trans _ _ _ hk hl, fun j hj hs => ?_⟩
    rcases List.mem_cons.mp hj with rfl | hj
    · exact hl.invalid _ (invalid_of_loseTick hw hs)
    · exact hinv j hj (by rw [hk.state]; exact hs)

/-- Parts are noted to have left, and no part is noted to have come back. -/
theorem foldl_memberGone (planes parts : List Nat) (s : State) :
    (∃ ring, parts.foldl (fun s k => s.memberGone planes k) s = { s with ring := ring }) ∧
    (∀ e ∈ s.ring.gone, e ∈ (parts.foldl (fun s k => s.memberGone planes k) s).ring.gone) ∧
    ∀ k ∈ parts, ∀ p ∈ planes, (k, p) ∈ (parts.foldl (fun s k => s.memberGone planes k) s).ring.gone := by
  induction parts generalizing s with
  | nil => exact ⟨⟨_, rfl⟩, fun _ h => h, fun k h => absurd h List.not_mem_nil⟩
  | cons k l ih =>
    obtain ⟨hgone, -⟩ := memberGone_spec s planes k
    obtain ⟨⟨ring, hring⟩, hmono, hl⟩ := ih (s.memberGone planes k)
    have hframe : (∃ ring, s.memberGone planes k = { s with ring := ring }) ∧ ∀ e ∈ s.ring.gone, e ∈ (s.memberGone planes k).ring.gone := by
      rw [memberGone_eq]
      have hu : ∀ e ∈ s.ring.gone, e ∈ (s.noteGone planes k).ring.gone := fun e he => List.mem_eraseDups.mpr (List.mem_append_left _ he)
      by_cases h : (s.noteGone planes k).absent k = true
      · rw [if_pos h]
        exact ⟨⟨_, rfl⟩, hu⟩
      · rw [if_neg h]
        exact ⟨⟨_, rfl⟩, hu⟩
    obtain ⟨⟨ring', hring'⟩, hmono'⟩ := hframe
    refine ⟨⟨ring, ?_⟩, fun e he => hmono e (hmono' e he), fun x hx p hp => ?_⟩
    · rw [List.foldl_cons, hring, hring']
    · rcases List.mem_cons.mp hx with rfl | hx
      · exact hmono _ (hgone p hp)
      · exact hl x hx p hp

/-- Both planes of a ring wait for the parts at the ends of a hop that is lost. -/
theorem waitFor_both (s : State) (k : Nat) (ys : List Nat) :
    (∃ ring, [2 * k, 2 * k + 1].foldl (fun s p => s.waitFor p false ys) s = { s with ring := ring }) ∧
    ([2 * k, 2 * k + 1].foldl (fun s p => s.waitFor p false ys) s).ring.gone = s.ring.gone ∧
    ∀ y ∈ ys, ∀ i, i < 2 → { part := y, plane := 2 * k + i } ∈ ([2 * k, 2 * k + 1].foldl (fun s p => s.waitFor p false ys) s).ring.pauseWaits := by
  refine ⟨⟨_, rfl⟩, rfl, fun y hy i hi => ?_⟩
  have hsecond : ∀ u : State, ∀ w ∈ u.ring.pauseWaits, w.plane ≠ 2 * k + 1 → w ∈ (u.waitFor (2 * k + 1) false ys).ring.pauseWaits := by
    intro u w hw hne
    refine List.mem_append_left _ (List.mem_filter.mpr ⟨hw, ?_⟩)
    rw [beq_false_of_ne hne]
    rfl
  obtain rfl | rfl : i = 0 ∨ i = 1 := by omega
  · exact hsecond (s.waitFor (2 * k) false ys) _ (List.mem_append_right _ (List.mem_map.mpr ⟨y, hy, rfl⟩)) (by show 2 * k + 0 ≠ _; omega)
  · exact List.mem_append_right _ (List.mem_map.mpr ⟨y, hy, rfl⟩)

/-- What follows a loss: a pause by the timekeeper, or an election where it is lost itself. -/
def State.afterLoss (s : State) : State :=
  if s.isKeeper then s.announce { pause := true } else if s.absent (s.getF F.lnkRing_keeper) then s.enterElection else s

theorem afterLoss_spec (s : State) : s.afterLoss.ring.gone = s.ring.gone ∧ s.afterLoss.ring.pauseWaits = s.ring.pauseWaits ∧
    (s.isKeeper = true → s.afterLoss.ring.pauseNext = true) ∧ s.afterLoss.ctl = s.ctl := by
  unfold State.afterLoss
  by_cases hk : s.isKeeper = true
  · rw [if_pos hk, State.announce, heedEdge_pause _ rfl rfl rfl rfl, State.tell, relay_eq]
    exact ⟨rfl, rfl, fun _ => Bool.or_true _, rfl⟩
  · rw [if_neg hk]
    refine ⟨?_, ?_, fun h => absurd h hk, ?_⟩ <;>
      (split
       · unfold State.enterElection
         split
         · rfl
         · rw [State.spread, State.tell, relay_eq]
       · rfl)

theorem suddenLoss_spec {s : State} {r : RingId} {jobs parts ends : List Nat} {now : Nat} (hw : s.tick.windowOpen = false) {t : State}
    (ht : opSuddenLoss r jobs parts ends now s = t) : (∀ j ∈ jobs, (s.prog j).state = .active → (t.prog j).invalid = true) ∧
    (∀ k ∈ parts, ∀ i, i < 2 → (k, 2 * ringOf r + i) ∈ t.ring.gone) ∧
    (∀ k ∈ ends, k ∉ parts → ∀ i, i < 2 → { part := k, plane := 2 * ringOf r + i } ∈ t.ring.pauseWaits) ∧
    (s.isKeeper = true → t.ring.pauseNext = true) := by
  unfold opSuddenLoss at ht
  extract_lets -merge +onlyGivenNames s0 s1 planes s2 es s3 at ht
  have h1 := foldl_loseTick r jobs s0 hw
  have hs1 : s1 = jobs.foldl (fun s j => s.loseTick r j) s0 := rfl
  rw [← hs1] at h1
  clear_value s1
  obtain ⟨hlose, hinv⟩ := h1
  obtain ⟨⟨ring2, h2⟩, -, hgone⟩ := foldl_memberGone planes parts s1
  obtain ⟨⟨ring3, h3⟩, hgone3, hwaits⟩ := waitFor_both s2 (ringOf r) es
  have hs3 : t = s3.afterLoss := ht.symm
  obtain ⟨hg, hp, hn, hc⟩ := afterLoss_spec s3
  rw [hs3]
  refine ⟨fun j hj hs => ?_, fun k hk i hi => ?_, fun k hk hnot i hi => ?_, fun hk => hn ?_⟩
  · have hctl : s3.afterLoss.ctl = s1.ctl := by
      rw [hc, show s3 = _ from h3, show s2 = _ from h2]
    rw [State.prog, hctl]
    exact hinv j hj hs
  · rw [hg, show s3.ring.gone = s2.ring.gone from hgone3]
    refine hgone k hk _ ?_
    obtain rfl | rfl : i = 0 ∨ i = 1 := by omega
    · exact List.mem_cons_self
    · exact List.mem_cons_of_mem _ List.mem_cons_self
  · rw [hp]
    refine hwaits k ?_ i hi
    refine List.mem_eraseDups.mpr (List.mem_append_right _ (List.mem_filter.mpr ⟨hk, ?_⟩))
    simp only [Bool.not_eq_true', List.contains_eq_mem, decide_eq_false_iff_not]
    exact hnot
  · have hregs : s3.regs = s1.regs := by
      rw [show s3 = _ from h3, show s2 = _ from h2]
    refine Eq.trans ?_ hk
    refine (onF_of_reg (s := s1) (by rw [State.reg, State.reg, hregs])).trans (onF_of_getF ?_)
    exact getF_of_regsIn hlose.regs (by decide) 0

/-! ## A ring that stays broken, and one with a slow hop (R336, R340) -/

theorem ringBroken_spec (r : RingId) (s : State) :
    (opRingBroken r s).onF (if r = .row then F.lnkRing_row_broken else F.lnkRing_column_broken) = true ∧
    (s.tick.held = true → (opRingBroken r s).ring.pauseEnds = true) ∧
    (s.tick.held = false → eventPath [regKey R.lnkRing 0, regKey R.hstEvqStat 0, regKey R.stdBootRet 0] s (opRingBroken r s)) := by
  obtain ⟨f, hf⟩ : ∃ f, f = (if r = .row then F.lnkRing_row_broken else F.lnkRing_column_broken) := ⟨_, rfl⟩
  have hreg : f.reg = R.lnkRing ∧ f.lo + f.width ≤ 64 ∧ 1 ≤ f.width := by
    rw [hf]
    split <;> decide
  obtain ⟨hfreg, hfits, hwide⟩ := hreg
  obtain ⟨u, hu⟩ : ∃ u, u = (s.putF f 0 1).raise 0x42 6 (4 * ringOf r) (BitVec.ofNat 64 (ringOf r)) := ⟨_, rfl⟩
  have hop : opRingBroken r s = if !u.tick.held then u
      else if u.isKeeper then u.announce { pauseEnds := true } else { u with ring := { u.ring with pauseEnds := true } } := by
    rw [hu, hf]
    rfl
  have hpath : eventPath [regKey R.lnkRing 0, regKey R.hstEvqStat 0, regKey R.stdBootRet 0] s u := by
    rw [hu]
    refine eventPath_trans _ (s.putF f 0 1) _ ⟨⟨_, _, _, _, _, _, _, rfl⟩, ?_⟩ (eventPath_raise _ _ _ _ _ (by simp) (by simp))
    exact sameRegs_putF f 0 1 (sameRegs_refl _ s) (by rw [hfreg]; exact List.mem_cons_self)
  have hbroken : u.onF f = true := by
    refine onF_of_bit (b := true) ?_
    rw [hu, getF_raise _ _ _ _ _ _ _ _ (by rw [hfreg]; decide) (by rw [hfreg]; decide), getF_putF_same s f 0 1 hfits]
    exact Nat.mod_eq_of_lt (Nat.one_lt_two_pow (by omega))
  have hheld : u.tick.held = s.tick.held := by
    obtain ⟨⟨_, _, _, _, _, _, _, h⟩, -⟩ := hpath
    rw [h]
  rw [← hf, hop, hheld]
  by_cases hh : s.tick.held = true
  · rw [hh, if_neg (by decide)]
    refine ⟨?_, fun _ => ?_, fun h => absurd h (by decide)⟩
    · split
      · rw [State.announce, heedEdge_pause _ rfl rfl rfl rfl, State.tell, relay_eq]
        exact hbroken
      · exact hbroken
    · split
      · rw [State.announce, heedEdge_pause _ rfl rfl rfl rfl, State.tell, relay_eq]
        exact Bool.or_true _
      · rfl
  · rw [Bool.not_eq_true] at hh
    rw [hh, if_pos (by decide)]
    exact ⟨hbroken, fun h => absurd h (by decide), fun _ => hpath⟩

theorem opSlowRaise_eq (r : RingId) (late : Nat) (s : State) : opSlowRaise r late s =
    if !s.isKeeper || !s.slowHop r || max late (maxList (s.ring.lateLog.getD (ringOf r) [])) == 0 ||
      (!(s.ringStages (ringOf r)).isEmpty && decide ((s.ring.lateLog.getD (ringOf r) []).length < 16)) then s
    else ({ s with ring := { s.ring with lateLog := s.ring.lateLog.set (ringOf r) [] } } : State).declareRaise none
      (max 1 (ceilDiv (max late (maxList (s.ring.lateLog.getD (ringOf r) []))) 1000)) := rfl

theorem opSlowRaise_raises {r : RingId} {late worst us n : Nat} {s : State} (hworst : worst = max late (maxList (s.ring.lateLog.getD (ringOf r) [])))
    (hus : us = max 1 (ceilDiv worst 1000)) (hn : n = 1 + bit s.replayDue) (hk : s.isKeeper = true) (hslow : s.slowHop r = true) (h0 : worst ≠ 0)
    (hlog : s.ringStages (ringOf r) = [] ∨ 16 ≤ (s.ring.lateLog.getD (ringOf r) []).length) (hper : s.getF F.tikPeriod_us + us ≤ 1000) :
    opSlowRaise r late s = ({ s with ring := { s.ring with lateLog := s.ring.lateLog.set (ringOf r) [] }
                                     autos := s.autos ++ [.raise n none us false] } : State).tell
      (s.raiseWord us (some (s.getF F.tikCount_count + n))) := by
  rw [opSlowRaise_eq, ← hworst, ← hus, hk, hslow, beq_false_of_ne h0, if_neg]
  · rw [State.declareRaise]
    refine (if_neg (Nat.not_lt.mpr hper)).trans ((if_pos hk).trans ?_)
    rw [hn]
    rfl
  · simp only [Bool.not_true, Bool.false_or, Bool.and_eq_true, Bool.not_eq_true', decide_eq_true_eq, not_and, Nat.not_lt]
    intro he
    rcases hlog with h | h
    · rw [h] at he
      exact absurd he (by decide)
    · exact h

theorem opSlowRaise_idle {r : RingId} {late : Nat} {s : State} (h : s.isKeeper = false ∨ s.slowHop r = false ∨
    max late (maxList (s.ring.lateLog.getD (ringOf r) [])) = 0 ∨
      (s.ringStages (ringOf r) ≠ [] ∧ (s.ring.lateLog.getD (ringOf r) []).length < 16)) : opSlowRaise r late s = s := by
  rw [opSlowRaise_eq]
  refine if_pos ?_
  rcases h with h | h | h | ⟨h, hlt⟩
  · rw [h, Bool.not_false, Bool.true_or, Bool.true_or, Bool.true_or]
  · rw [h, Bool.not_false, Bool.or_true, Bool.true_or, Bool.true_or]
  · rw [h, beq_self_eq_true, Bool.or_true, Bool.true_or]
  · rw [List.isEmpty_eq_false_iff.mpr h, decide_eq_true hlt, Bool.not_false, Bool.true_and, Bool.or_true]

/-! ## The statement -/

theorem sibling_ne (p : BitVec 3) : sibling p.toNat ≠ p.toNat := by
  have h : ∀ n, n < 8 → sibling n ≠ n := by decide
  exact h _ p.isLt

/-- The reset and the retrain of a port by its control register. -/
theorem linkControl_clauses (by_ : Requester) (p : Nat) (s : State) (hw : s.writes by_ R.lnkCtl.off = true) (hp : p = s.sel by_ F.lnkSel_port) :
    (s.heldPlanes.contains (portPlane p) = false → completes (.linkReset by_ true) s (fun t =>
      t.onF F.lnkCtl_reset p = true ∧ t.lnk (2 * portPlane p) = lnkReset ∧ t.lnk (2 * portPlane p + 1) = lnkReset ∧
      sameRegs [regKey R.lnkCtl p, regKey R.lnkStat (2 * portPlane p), regKey R.lnkStat (2 * portPlane p + 1)] s t)) ∧
    (s.heldPlanes.contains (portPlane p) = true → s.ring.releasing.contains (portPlane p) = false →
      completes (.linkReset by_ true) s (fun t =>
        t.onF F.lnkCtl_reset p = true ∧ portPlane p ∈ t.ring.releasing ∧ sameRegs [regKey R.lnkCtl p] s t)) ∧
    (s.heldPlanes.contains (portPlane p) = false → s.onF F.lnkCtl_reset (opposite p) = false → completes (.linkReset by_ false) s (fun t =>
      t.onF F.lnkCtl_reset p = false ∧ t.lnk (2 * portPlane p) = lnkUntrained ∧ t.lnk (2 * portPlane p + 1) = lnkUntrained)) ∧
    completes (.linkRetrainRequest by_) s (fun t =>
      t.onF F.lnkCtl_retrain p = true ∧ (s.portUp p = true ∨ s.lnk p = lnkDown → t.onF F.lnkTrain_pending p = true) ∧
      onlyRegs [regKey R.lnkCtl p, regKey R.lnkTrain p] s t) := by
  have hp8 : p < 8 := by
    rw [hp]
    exact sel_port_lt s by_
  have hreset : ∀ on, exec (.linkReset by_ on) s =
      run (fun s => if s.writes by_ R.lnkCtl.off then opLinkReset (s.sel by_ F.lnkSel_port) on s else s) s := fun _ => rfl
  have hgo : ∀ on u, opLinkReset p on s.begin = u →
      (if s.begin.writes by_ R.lnkCtl.off then opLinkReset (s.begin.sel by_ F.lnkSel_port) on s.begin else s.begin) = u := by
    rintro on u rfl
    rw [hp]
    exact if_pos hw
  refine ⟨fun hh => ?_, fun hh hr => ?_, fun hh ho => ?_, ?_⟩
  · obtain ⟨u, hu⟩ : ∃ u, opLinkReset p true s.begin = u := ⟨_, rfl⟩
    have h := linkReset_free (s := s.begin) hp8 hh
    rw [hu] at h
    exact completes_of_eq (hreset true) (hgo true u hu) h
  · obtain ⟨u, hu⟩ : ∃ u, opLinkReset p true s.begin = u := ⟨_, rfl⟩
    have h := linkReset_held (s := s.begin) hh hr
    rw [hu] at h
    exact completes_of_eq (hreset true) (hgo true u hu) h
  · obtain ⟨u, hu⟩ : ∃ u, opLinkReset p false s.begin = u := ⟨_, rfl⟩
    have h := linkReset_cleared (s := s.begin) hp8 hh ho
    rw [hu] at h
    exact completes_of_eq (hreset false) (hgo false u hu) h
  · obtain ⟨v, hv⟩ : ∃ v, v = s.begin.putF F.lnkCtl_retrain p 1 := ⟨_, rfl⟩
    have hretrain : v.onF F.lnkCtl_retrain p = true := onF_of_bit (b := true) (by rw [hv]; exact getF_putF_same s.begin F.lnkCtl_retrain p 1 (by decide))
    have hlnk : v.lnk p = s.lnk p := by
      rw [hv]
      exact getF_putF_off s.begin F.lnkCtl_retrain F.lnkStat_state p p 1 (by decide)
    have hputs : putsRegs [regKey R.lnkCtl p, regKey R.lnkTrain p] s.begin v := by
      rw [hv]
      exact (putsRegs_refl _ _).putF F.lnkCtl_retrain p 1 List.mem_cons_self
    have hop : (if s.begin.writes by_ R.lnkCtl.off then opLinkRetrain (s.begin.sel by_ F.lnkSel_port) s.begin else s.begin) =
        if s.portUp p ∨ s.lnk p = lnkDown then v.putF F.lnkTrain_pending p 1 else v := by
      refine (if_pos hw).trans ?_
      rw [show s.begin.sel by_ F.lnkSel_port = p from hp.symm, State.portUp, ← hlnk, hv]
      rfl
    by_cases hup : s.portUp p = true ∨ s.lnk p = lnkDown
    · rw [if_pos hup] at hop
      refine completes_of_eq rfl hop ⟨?_, fun _ => onF_of_bit (b := true) (getF_putF_same v F.lnkTrain_pending p 1 (by decide)), ?_⟩
      · exact (onF_of_getF (getF_putF_off v F.lnkTrain_pending F.lnkCtl_retrain p p 1 (by decide))).trans hretrain
      · exact onlyRegs_of_putsRegs (hputs.putF F.lnkTrain_pending p 1 (List.mem_cons_of_mem _ List.mem_cons_self))
    · rw [if_neg hup] at hop
      exact completes_of_eq rfl hop ⟨hretrain, fun h => absurd h hup, onlyRegs_of_putsRegs hputs⟩

/-- The end of a retrain. -/
theorem retrainDone_clauses (port : BitVec 3) (s : State) :
    (∀ (d : Nat) (o : TrainOutcome), (s.port port.toNat).retraining = false →
      (s.portUp port.toNat = false ∧ s.lnk port.toNat ≠ lnkDown) ∨ s.mayJoin port.toNat = false → idles (.portRetrainDone port o d) s) ∧
    (∀ d : Nat, (s.port port.toNat).retraining = true ∨
        (s.lnk port.toNat = lnkDown ∨ s.portUp port.toNat = true) ∧ s.mayJoin port.toNat = true →
      completes (.portRetrainDone port .failed d) s (fun t =>
        t.lnk port.toNat = lnkDown ∧ (t.port port.toNat).failedTrains = (s.port port.toNat).failedTrains + 1 ∧
        t.getF F.lnkTrain_dur port.toNat = min (d / 10000) 4095 ∧
        t.onF F.lnkTrain_pending port.toNat = decide ((s.port port.toNat).failedTrains < 2)) ∧
      ∀ (e : BitVec 10) (h : BitVec 14), s.bypassedTo port.toNat e.toNat ≤ 2 → completes (.portRetrainDone port (.full e h) d) s (fun t =>
        t.lnk port.toNat = lnkFull ∧ t.onF F.lnkStat_take port.toNat = s.onF F.lnkStat_take port.toNat ∧
        t.getF F.lnkStat_peer port.toNat = e.toNat ∧
        t.getF F.lnkTrain_dur port.toNat = min (d / 10000) 4095 ∧ (t.port port.toNat).failedTrains = 0)) := by
  refine ⟨fun d o hr h => ?_, fun d h => ⟨?_, fun e hop hb => ?_⟩⟩
  · refine idles_of_run (f := opPortRetrainDone port.toNat o d) rfl (if_pos ?_)
    show (!(s.port port.toNat).retraining && !((s.portUp port.toNat || s.lnk port.toNat == lnkDown) && s.mayJoin port.toNat)) = true
    rcases h with ⟨hup, hdown⟩ | hj
    · rw [hr, hup, beq_false_of_ne hdown]
      rfl
    · rw [hr, hj, Bool.and_false]
      rfl
  · obtain ⟨u, hu⟩ : ∃ u, opPortRetrainDone port.toNat .failed d s.begin = u := ⟨_, rfl⟩
    have h' := retrainFailed_spec (s := s.begin) (d := d) (sibling_ne port) h
    rw [hu] at h'
    exact completes_of_eq (f := opPortRetrainDone port.toNat .failed d) rfl hu h'
  · obtain ⟨u, hu⟩ : ∃ u, opPortRetrainDone port.toNat (.full e hop) d s.begin = u := ⟨_, rfl⟩
    have h' := opPortRetrainDone_full (s := s.begin) h hop d (sibling_ne port) hb
    rw [hu] at h'
    exact completes_of_eq (f := opPortRetrainDone port.toNat (.full e hop) d) rfl hu (retrainFull_spec (s := s.begin) (sibling_ne port) h')

/-- Settles O35: a port's own table and registers are set before what follows for the ring, which leaves them alone. -/
theorem portsGoDownAndRetrain : Obligations.PortsGoDownAndRetrain := by
  unfold Obligations.PortsGoDownAndRetrain
  refine ⟨linkControl_clauses, fun port s => ⟨fun hup => ?_, fun hup => ?_, fun n hn hup => ?_, fun n hn => ?_, retrainDone_clauses port s⟩,
    fun ring s => ⟨fun l now hw => ?_, ?_, fun late worst us n hworst hus hn hk hslow h0 hlog hper => ?_, fun late h => ?_⟩⟩
  · obtain ⟨u, hu⟩ : ∃ u, s.begin.portFalls port.toNat = u := ⟨_, rfl⟩
    have h := portFalls_spec (s := s.begin) (sibling_ne port) hup
    rw [hu] at h
    exact completes_of_eq (f := fun s => s.portFalls port.toNat) rfl hu h
  · exact idles_of_run (f := fun s => s.portFalls port.toNat) rfl (portFalls_of_down (s := s.begin) hup)
  · refine completes_of_eq (f := opSerLimit port.toNat n) (u := s.begin.putF F.lnkTrain_pending port.toNat 1) rfl (if_pos ⟨hn, hup⟩)
      ⟨onF_of_bit (b := true) (getF_putF_same s.begin F.lnkTrain_pending _ 1 (by decide)), ?_⟩
    exact onlyRegs_of_putsRegs ((putsRegs_refl _ _).putF F.lnkTrain_pending port.toNat 1 List.mem_cons_self)
  · exact idles_of_run (f := opSerLimit port.toNat n) rfl (if_neg (fun h => absurd h.1 (Nat.not_lt.mpr hn)))
  · obtain ⟨u, hu⟩ : ∃ u, opSuddenLoss ring (l.jobs.map BitVec.toNat) (l.parts.map BitVec.toNat) (l.ends.map BitVec.toNat) now s.begin = u :=
      ⟨_, rfl⟩
    obtain ⟨h1, h2, h3, h4⟩ := suddenLoss_spec (s := s.begin) hw hu
    refine completes_of_eq (f := opSuddenLoss ring (l.jobs.map BitVec.toNat) (l.parts.map BitVec.toNat) (l.ends.map BitVec.toNat) now) rfl hu
      ⟨fun j hj => h1 j.toNat (List.mem_map_of_mem hj), fun k hk => h2 k.toNat (List.mem_map_of_mem hk), fun k hk hn => ?_, h4⟩
    refine h3 k.toNat (List.mem_map_of_mem hk) (fun h => hn ?_)
    obtain ⟨x, hx, he⟩ := List.mem_map.mp h
    rwa [← BitVec.eq_of_toNat_eq he]
  · obtain ⟨u, hu⟩ : ∃ u, opRingBroken ring s.begin = u := ⟨_, rfl⟩
    obtain ⟨h1, h2, h3⟩ := ringBroken_spec ring s.begin
    rw [hu] at h1 h2 h3
    refine completes_of_eq (f := opRingBroken ring) rfl hu ⟨h1, h2, fun hh => ?_⟩
    obtain ⟨⟨_, _, _, _, _, _, _, he⟩, hr⟩ := h3 hh
    refine ⟨hr, ?_⟩
    rw [he]
    rfl
  · refine completes_of_eq (f := opSlowRaise ring late) rfl (opSlowRaise_raises (s := s.begin) hworst hus hn hk hslow h0 hlog hper) ?_
    obtain ⟨v, hv⟩ : ∃ v, v = ({ s.begin with
      ring := { s.ring with lateLog := s.ring.lateLog.set (ringOf ring) [] }
      autos := s.autos ++ [.raise n none us false] } : State) := ⟨_, rfl⟩
    have hword : tells (s.raiseWord us (some (s.getF F.tikCount_count + n))) s
        (v.tell (s.raiseWord us (some (s.getF F.tikCount_count + n)))) :=
      tells_of_tell (u := v) (by rw [hv]; rfl) (by rw [hv]; rfl) rfl rfl
    have hrest : (v.tell (s.raiseWord us (some (s.getF F.tikCount_count + n)))).autos = s.autos ++ [.raise n none us false] ∧
        (v.tell (s.raiseWord us (some (s.getF F.tikCount_count + n)))).regs = s.regs ∧
        (v.tell (s.raiseWord us (some (s.getF F.tikCount_count + n)))).tick = s.tick := by
      rw [State.tell, relay_eq, hv]
      exact ⟨rfl, rfl, rfl⟩
    rw [hv] at hword hrest
    obtain ⟨hautos, hregs, htick⟩ := hrest
    exact ⟨hautos, hword, hregs, htick⟩
  · exact idles_of_run (f := opSlowRaise ring late) rfl (opSlowRaise_idle (s := s.begin) h)

end Sys2Proof.Machine
end

section
/-! SUPPORT. The last descriptor of a chain on a Chute channel (R382 to R386), and the statement on it (O17). -/
namespace Sys2Proof.Machine

/-! ## The end of a chain with no result owed -/

theorem chute_setChute_same (s : State) (ch : Nat) (x : ChuteSt) : (s.setChute ch x).chute ch = x := tget_tput_same ..

section
variable {s : State} {ch : Nat} {d : Desc}

/-- With neither a result nor a signal to give, the end of a chain is a stop. -/
theorem chuteEnd_plain (hwb : d.wb = 0) (hirq : d.irq = false) (howed : (s.chute ch).owedResults = []) (st : Nat) (crc : BitVec 32) :
    s.chuteEnd ch d st crc = (s.setChute ch { s.chute ch with owedResults := [] }).chuteStop ch st := by
  unfold State.chuteEnd
  simp only [hwb, hirq, howed, State.chuteSignal, State.putOwed, if_true, Bool.false_eq_true, if_false, List.append_nil, List.foldl_nil,
    show ((0 : Nat) == 1) = false from rfl, show ((0 : Nat) == 2) = false from rfl, ite_self]

/-- What a stop at the end of a chain shows. -/
theorem stopped_spec (s : State) (ch : Nat) (st : Nat) (hst : st < 256) (os : List ((Nat × Bool) × Bool)) :
    ∀ t, t = (s.setChute ch { s.chute ch with owedResults := os }).chuteStop ch st → t.chuteRuns ch = false ∧ t.getF F.chuStat_status ch = st ∧
      t.devMem = s.devMem ∧ t.hostMem = s.hostMem ∧ t.getF F.chuHead_addr ch = (s.chute ch).cur.1 % 2 ^ 63 ∧
      t.onF F.chuHead_dev ch = (s.chute ch).cur.2 ∧ sameRegs (stopKeys ch) s t := by
  rintro t rfl
  obtain ⟨u, hu⟩ : ∃ u, u = s.setChute ch { s.chute ch with owedResults := os } := ⟨_, rfl⟩
  have hcur : (u.chute ch).cur = (s.chute ch).cur := by
    rw [hu]
    rw [chute_setChute_same]
  have hmem : u.devMem = s.devMem ∧ u.hostMem = s.hostMem ∧ u.regs = s.regs := by
    rw [hu]
    exact ⟨rfl, rfl, rfl⟩
  obtain ⟨hd, hh, hr⟩ := hmem
  rw [← hu, ← hcur]
  refine ⟨chuteStop_running .., (chuteStop_status ..).trans (Nat.mod_eq_of_lt hst), ?_, ?_, chuteStop_head_addr .., chuteStop_head_dev .., ?_⟩
  · rw [chuteStop_frame]
    exact hd
  · rw [chuteStop_frame]
    exact hh
  · exact fun x k hk => (chuteStop_sameRegs u ch st x k hk).trans (by rw [hr])

/-! ## The move of at most 256 bytes (R385) -/

theorem chuteMove_done {f o : Nat} (h : d.len ≤ o) (crc : BitVec 32) (s : State) : State.chuteMove d ch f o crc s = (s, 0, crc) := by
  cases f with
  | zero => rfl
  | succ f => exact if_pos h

/-- Where every word is as it should be, a device write meets nothing. -/
theorem chuteMeets_none {a n : Nat} (he : s.addrError a n = false) (hr : s.errResponse a n = false)
    (hw : ∀ w ∈ s.wordsTouched a n, s.wordErr w = 0) : s.chuteMeets a n true = 0 := by
  have hbad : (s.partWords a n).any (fun w => s.wordErr w == 2) = false := by
    rw [List.any_eq_false]
    intro w hm
    rw [hw w (partWords_subset s a n w hm)]
    decide
  rw [State.chuteMeets, he, hr, hbad]
  rfl

theorem chuteMet_none {a n : Nat} (hw : ∀ w ∈ s.wordsTouched a n, s.wordErr w = 0) : s.chuteMet ch a n true 0 = s.forceRefreshes a n := by
  have hl := forceRefreshes_lost s a n
  have hnone : ∀ v, v ≠ 0 → ((s.forceRefreshes a n).partWords a n).filter (fun w => (s.forceRefreshes a n).wordErr w == v) = [] := by
    intro v hv
    rw [partWords_of_keepsLost hl, List.filter_eq_nil_iff]
    intro w hm
    rw [wordErr_of_keepsLost hl, hw w (partWords_subset s a n w hm), beq_false_of_ne (Ne.symm hv)]
    exact Bool.false_ne_true
  show (s.forceRefreshes a n).chuteWords ch a n true = _
  unfold State.chuteWords
  simp only [if_true, hnone 1 (by decide), hnone 2 (by decide), List.foldl_nil]

theorem chuteMove_small (hs : d.srcDev = false) (hd : d.dstDev = true) (h1 : 1 ≤ d.len) (h2 : d.len ≤ 256) (he : s.addrError d.dst d.len = false)
    (hr : s.errResponse d.dst d.len = false) (hw : ∀ w ∈ s.wordsTouched d.dst d.len, s.wordErr w = 0) (crc : BitVec 32) :
    ∃ crc', State.chuteMove d ch (d.len / 256 + 1) 0 crc s =
      (((s.forceRefreshes d.dst d.len).writeDev d.dst (mread s.hostMem d.src d.len)).putF F.chuStat_moved ch d.len, 0, crc') := by
  have hn : min 256 (d.len - 0) = d.len := by omega
  refine ⟨if d.crcMode == 0 then crc else crc32c crc (mread s.hostMem d.src d.len), ?_⟩
  rw [State.chuteMove, if_neg (by omega)]
  simp only [hs, hd, hn, Nat.add_zero, Nat.zero_add, Bool.false_eq_true, if_false, if_true, bne_self_eq_false, chuteMeets_none he hr hw,
    chuteMet_none hw]
  exact chuteMove_done (Nat.le_refl _) _ _
end

/-! ## The end of a descriptor -/

section
variable {s : State} {ch : Nat} {d : Desc} (hd : d = Desc.parse (s.chuteHolds ch)) (hrun : s.chuteRuns ch = true) (hmay : s.chuteMayMove ch d = true)
include hd hrun hmay

theorem opDescriptorDone_rejected (hrej : s.rejects ch d = true) :
    opDescriptorDone ch s = s.chuteEnd ch d 2 (BitVec.ofNat 32 (s.getF F.chuCrc_crc ch)) := by
  have hdue : (s.chute ch).fetchDue = false := by
    have h := hmay
    rw [State.chuteMayMove, Bool.and_eq_true, Bool.not_eq_true'] at h
    exact h.1
  unfold opDescriptorDone
  simp only [hrun, hdue, Bool.and_false, Bool.false_eq_true, if_false, ← hd, hmay, Bool.not_true, Bool.or_false, hrej, if_true]

theorem opDescriptorDone_last (hrej : s.rejects ch d = false) (hlast : d.last = true) (hs : d.srcDev = false) (hdst : d.dstDev = true) (h1 : 1 ≤ d.len)
    (h2 : d.len ≤ 256) (he : s.addrError d.dst d.len = false) (hr : s.errResponse d.dst d.len = false)
    (hw : ∀ w ∈ s.wordsTouched d.dst d.len, s.wordErr w = 0) : ∃ crc, opDescriptorDone ch s =
      ((((s.forceRefreshes d.dst d.len).writeDev d.dst (mread s.hostMem d.src d.len)).putF F.chuStat_moved ch d.len).bump F.chuCrc_done ch).chuteEnd
        ch d 1 crc := by
  have hdue : (s.chute ch).fetchDue = false := by
    have h := hmay
    rw [State.chuteMayMove, Bool.and_eq_true, Bool.not_eq_true'] at h
    exact h.1
  obtain ⟨crc, hmove⟩ := chuteMove_small (ch := ch) hs hdst h1 h2 he hr hw (crcStart d.crcMode d.seed (BitVec.ofNat 32 (s.getF F.chuCrc_crc ch)))
  refine ⟨crc, ?_⟩
  unfold opDescriptorDone
  simp only [hrun, hdue, Bool.and_false, Bool.false_eq_true, if_false, ← hd, hmay, Bool.not_true, Bool.or_false, hrej, if_true, hs, hdst, he,
    Bool.false_and, hmove, bne_self_eq_false, hlast]
end

theorem regsIn_forceRefreshes (s : State) (a n : Nat) : regsIn [R.vccStat, R.vccErr] s (s.forceRefreshes a n) := by
  unfold State.forceRefreshes
  split
  · refine foldl_rel (r := regsIn [R.vccStat, R.vccErr]) (regsIn_refl _) (fun _ _ _ => regsIn_trans) (fun s b => ?_) _ s
    unfold State.forceRefresh
    extract_lets n
    split
    · exact regsIn_refl _ s
    · refine regsIn_trans (t := s.setOwed b.1 b.2 7) ?_ (regsIn_putF _ F.vccErr_forced b.1 _ (by decide))
      exact regsIn_trans (regsIn_of_regs rfl) (regsIn_putF _ F.vccStat_owed b.1 _ (by decide))
  · exact regsIn_refl _ s

theorem chuteStop_moved (s : State) (ch st : Nat) : (s.chuteStop ch st).getF F.chuStat_moved ch = s.getF F.chuStat_moved ch := by
  obtain ⟨u, hu⟩ : ∃ u, u = (s.putHead ch (s.chuteAt ch)).setChute ch { s.chute ch with fetchDue := false, first := false } := ⟨_, rfl⟩
  have hstop : s.chuteStop ch st = ((u.putF F.chuStat_running ch 0).putF F.chuStat_status ch st).putF F.chuCtl_go ch 0 := by rw [hu]; rfl
  have hhead : u.getF F.chuStat_moved ch = s.getF F.chuStat_moved ch := by
    rw [hu]
    exact (getF_putF_off _ F.chuHead_dev F.chuStat_moved ch ch _ (by decide)).trans (getF_putF_off s F.chuHead_addr F.chuStat_moved ch ch _ (by decide))
  rw [hstop, getF_putF_off _ F.chuCtl_go F.chuStat_moved ch ch 0 (by decide), getF_putF_apart _ F.chuStat_status F.chuStat_moved ch _ rfl (by decide),
    getF_putF_apart _ F.chuStat_running F.chuStat_moved ch _ rfl (by decide), hhead]

/-- What the move and the count of a descriptor leave. -/
theorem moved_spec {s : State} {ch : Nat} {d : Desc} (hp : isPhys d.dst = true) (h2 : d.len ≤ 256) (hw : ∀ w ∈ s.wordsTouched d.dst d.len, s.wordErr w = 0) :
    ∀ v, v = ((((s.forceRefreshes d.dst d.len).writeDev d.dst (mread s.hostMem d.src d.len)).putF F.chuStat_moved ch d.len).bump F.chuCrc_done ch) →
      v.devMem = mblock s.devMem d.dst (mread s.hostMem d.src d.len) ∧ v.hostMem = s.hostMem ∧ v.chute ch = s.chute ch ∧
      v.getF F.chuStat_moved ch = d.len ∧ v.getF F.chuCrc_crc ch = s.getF F.chuCrc_crc ch ∧
      ((∀ e ∈ s.chans, ∀ o ∈ e.2.owed, o.2 < 8) →
        sameRegs [regKey R.chuStat ch, regKey R.chuCtl ch, regKey R.chuCrc ch, regKey R.chuHead ch] s v) := by
  rintro v rfl
  have hl := forceRefreshes_lost s d.dst d.len
  have hlen : (mread s.hostMem d.src d.len).length = d.len := by simp [mread]
  obtain ⟨loftErr, hwrite⟩ := writeDev_frame (s.forceRefreshes d.dst d.len) (a := d.dst) (bs := mread s.hostMem d.src d.len) hp (by
    rw [hlen, wordsTouched_of_keepsLost hl]
    exact fun w hm => isLost_of_wordErr ((wordErr_of_keepsLost hl w).trans (hw w hm)))
  obtain ⟨u, hu⟩ : ∃ u, u = (s.forceRefreshes d.dst d.len).writeDev d.dst (mread s.hostMem d.src d.len) := ⟨_, rfl⟩
  have hmem : u.devMem = mblock s.devMem d.dst (mread s.hostMem d.src d.len) ∧ u.hostMem = s.hostMem ∧ u.chute ch = s.chute ch ∧
      u.getF F.chuCrc_crc ch = s.getF F.chuCrc_crc ch ∧ ((∀ e ∈ s.chans, ∀ o ∈ e.2.owed, o.2 < 8) → u.regs = s.regs) := by
    obtain ⟨⟨_, _, hf⟩, -⟩ := hl
    rw [hu, hwrite]
    refine ⟨by rw [hf], by rw [hf], by rw [hf]; rfl,
      getF_of_regsIn (regsIn_forceRefreshes s d.dst d.len) (by decide) ch, fun hno => ?_⟩
    show (s.forceRefreshes d.dst d.len).regs = s.regs
    rw [forceRefreshes_none hno]
  obtain ⟨hdev, hhost, hchute, hcrc, hregs⟩ := hmem
  rw [← hu]
  refine ⟨hdev, hhost, hchute, ?_, ?_, fun hno => ?_⟩
  · rw [getF_bump_off _ F.chuCrc_done F.chuStat_moved ch ch 1 (by decide), getF_putF_same u F.chuStat_moved ch _ (by decide)]
    exact Nat.mod_eq_of_lt (Nat.lt_of_le_of_lt h2 (by decide))
  · rw [getF_bump_apart _ F.chuCrc_done F.chuCrc_crc ch 1 rfl (by decide), getF_putF_off u F.chuStat_moved F.chuCrc_crc ch ch _ (by decide)]
    exact hcrc
  · refine sameRegs_putF F.chuCrc_done ch _ (sameRegs_putF F.chuStat_moved ch _ (sameRegs_of_regs (sameRegs_refl _ s) (hregs hno)) List.mem_cons_self) ?_
    exact List.mem_cons_of_mem _ (List.mem_cons_of_mem _ List.mem_cons_self)

/-- Settles O17: with neither a result nor a signal to give the end of a chain is a stop, and one transfer moves what is to move. -/
theorem aChuteDescriptorMovesItsBytes : Obligations.AChuteDescriptorMovesItsBytes := by
  unfold Obligations.AChuteDescriptorMovesItsBytes
  intro ch s d hd hrun hmay hwb hirq howed
  refine ⟨fun hrej => ?_, fun hrej hlast hsrc hdst hp h1 h2 he hr hw => ?_⟩
  · have hop := (opDescriptorDone_rejected (s := s.begin) hd hrun hmay hrej).trans (chuteEnd_plain (s := s.begin) hwb hirq howed 2 _)
    obtain ⟨u, hu⟩ : ∃ u, u = (s.begin.setChute ch.toNat { s.begin.chute ch.toNat with owedResults := [] }).chuteStop ch.toNat 2 := ⟨_, rfl⟩
    obtain ⟨h1, h2, h3, h4, h5, h6, h7⟩ := stopped_spec s.begin ch.toNat 2 (by decide) [] u hu
    rw [← hu] at hop
    refine completes_of_eq (f := opDescriptorDone ch.toNat) rfl hop ⟨h1, h2, h3, h4, h5, h6, ?_, h7⟩
    refine getF_of_sameRegs h7 ?_
    simp only [stopKeys, List.mem_cons, List.not_mem_nil, or_false, not_or]
    exact ⟨regKey_ne_of_off _ _ _ _ (by decide), regKey_ne_of_off _ _ _ _ (by decide), regKey_ne_of_off _ _ _ _ (by decide)⟩
  · obtain ⟨crc, hop⟩ := opDescriptorDone_last (s := s.begin) hd hrun hmay hrej hlast hsrc hdst h1 h2 he hr hw
    obtain ⟨v, hv⟩ : ∃ v, v = ((((s.begin.forceRefreshes d.dst d.len).writeDev d.dst (mread s.begin.hostMem d.src d.len)).putF F.chuStat_moved
      ch.toNat d.len).bump F.chuCrc_done ch.toNat) := ⟨_, rfl⟩
    obtain ⟨hdev, hhost, hchute, hmoved, hcrc, hcalm⟩ := moved_spec (s := s.begin) hp h2 hw v hv
    have hstop := chuteEnd_plain (s := v) (ch := ch.toNat) hwb hirq (by rw [hchute]; exact howed) 1 crc
    obtain ⟨u, hu⟩ : ∃ u, u = (v.setChute ch.toNat { v.chute ch.toNat with owedResults := [] }).chuteStop ch.toNat 1 := ⟨_, rfl⟩
    obtain ⟨g1, g2, g3, g4, g5, g6, g7⟩ := stopped_spec v ch.toNat 1 (by decide) [] u hu
    rw [← hv, hstop, ← hu] at hop
    rw [hchute] at g5 g6
    have hlen : (mread s.hostMem d.src d.len).length = d.len := by simp [mread]
    refine completes_of_eq (f := opDescriptorDone ch.toNat) rfl hop ⟨g1, g2, ?_, ?_, fun b hb => ?_, g4.trans hhost, g5, g6, ?_, fun hno x k hk => ?_⟩
    · rw [hu]
      exact (chuteStop_moved ..).trans hmoved
    · show mread u.devMem d.dst d.len = _
      rw [g3, hdev]
      have h := mread_mblock s.devMem d.dst (mread s.hostMem d.src d.len)
      rwa [hlen] at h
    · show mget u.devMem b = _
      rw [g3, hdev]
      exact mget_mblock_outside s.devMem d.dst b _ (by rw [show (mread s.begin.hostMem d.src d.len).length = d.len from hlen]; exact hb)
    · refine (getF_of_sameRegs g7 ?_).trans hcrc
      simp only [stopKeys, List.mem_cons, List.not_mem_nil, or_false, not_or]
      exact ⟨regKey_ne_of_off _ _ _ _ (by decide), regKey_ne_of_off _ _ _ _ (by decide), regKey_ne_of_off _ _ _ _ (by decide)⟩
    · refine (g7 x k (fun h => hk ?_)).trans (hcalm hno x k hk)
      simp only [stopKeys, List.mem_cons, List.not_mem_nil, or_false] at h ⊢
      tauto

end Sys2Proof.Machine
end

section
/-! SUPPORT. What a change leaves of the time: the instant, the tick's edge and window, the count and the state of power. -/
namespace Sys2Proof.Machine

/-- The time of s is that of s0: its tick runs from the same edge with the same window, and its count is the same; so are the account of the
start and the fuses. -/
structure SameTime (s0 s : State) : Prop where
  now : s.now = s0.now
  start : s.start = s0.start
  otp : s.otp = s0.otp
  running : s.tick.running = s0.tick.running
  windowOpen : s.tick.windowOpen = s0.tick.windowOpen
  edgeAt : s.tick.edgeAt = s0.tick.edgeAt
  realignTo : s.ring.realignTo = s0.ring.realignTo
  count : s.getF F.tikCount_count = s0.getF F.tikCount_count
  power : s.getF F.pwrStat_state = s0.getF F.pwrStat_state

theorem SameTime.same {s : State} : SameTime s s := ⟨rfl, rfl, rfl, rfl, rfl, rfl, rfl, rfl, rfl⟩

section
variable {s0 : State}

theorem SameTime.trans {s t : State} (hs : SameTime s0 s) (h : SameTime s t) : SameTime s0 t :=
  ⟨h.now.trans hs.now, h.start.trans hs.start, h.otp.trans hs.otp, h.running.trans hs.running, h.windowOpen.trans hs.windowOpen,
    h.edgeAt.trans hs.edgeAt, h.realignTo.trans hs.realignTo, h.count.trans hs.count, h.power.trans hs.power⟩

theorem SameTime.works {s t : State} (hs : SameTime s0 s) (h : Works s t) : SameTime s0 t :=
  hs.trans ⟨h.now, h.start, h.otp, by rw [h.tick], by rw [h.tick], by rw [h.tick], by rw [h.ring],
    getF_of_regsIn h.regs (by decide) 0, getF_of_regsIn h.regs (by decide) 0⟩

theorem SameTime.upd {s : State} (hs : SameTime s0 s)
    {pending} {staged} {fresh} {out} {devMem} {hostMem} {flash} {fuseCells} {rcvBuf} {loftErr} {ueTick} {ctl} {commit} {autos} {stagedAfter}
    {cells} {resets} {chans} {stackTbl} {fullBuckets} {halfAsked} {accWait} {arrivals} {ports} {links} {msix} {sqTails} {cqHeads} {heldCq} {wroteCq}
    {chutes} {i3c} {ramps} {stdBuf} {logPend} {logRing} {rakeAt} {rakeDue} {heat} {keep} {repairMark} {snap} : SameTime s0 { s with
      pending, staged, fresh, out, devMem, hostMem, flash, fuseCells, rcvBuf, loftErr, ueTick, ctl, commit, autos, stagedAfter
      cells, resets, chans, stackTbl, fullBuckets, halfAsked, accWait, arrivals, ports, links, msix, sqTails, cqHeads, heldCq, wroteCq
      chutes, i3c, ramps, stdBuf, logPend, logRing, rakeAt, rakeDue, heat, keep, repairMark, snap } :=
  ⟨hs.now, hs.start, hs.otp, hs.running, hs.windowOpen, hs.edgeAt, hs.realignTo, hs.count, hs.power⟩

theorem SameTime.setTick {s : State} (hs : SameTime s0 s) {t : TickSt} (hr : t.running = s.tick.running) (hw : t.windowOpen = s.tick.windowOpen)
    (he : t.edgeAt = s.tick.edgeAt) : SameTime s0 { s with tick := t } :=
  ⟨hs.now, hs.start, hs.otp, hr.trans hs.running, hw.trans hs.windowOpen, he.trans hs.edgeAt, hs.realignTo, hs.count, hs.power⟩

theorem SameTime.setRing {s : State} (hs : SameTime s0 s) {r : Ring} (hr : r.realignTo = s.ring.realignTo) : SameTime s0 { s with ring := r } :=
  ⟨hs.now, hs.start, hs.otp, hs.running, hs.windowOpen, hs.edgeAt, hr.trans hs.realignTo, hs.count, hs.power⟩

theorem SameTime.setReg {s : State} (hs : SameTime s0 s) {r : Reg} {i : Nat} {w : Word}
    (hr : R.tikCount.off / 8 ≠ r.off / 8 ∧ R.pwrStat.off / 8 ≠ r.off / 8 := by decide) : SameTime s0 (s.setReg r i w) := by
  have hregs := regsIn_setReg (D := [r]) s r i w List.mem_cons_self
  have hoff : ∀ f : Fld, f.reg.off / 8 ≠ r.off / 8 → (s.setReg r i w).getF f 0 = s.getF f 0 := fun f hf =>
    getF_of_regsIn hregs (fun q hq => by rwa [List.mem_singleton.mp hq]) 0
  exact ⟨hs.now, hs.start, hs.otp, hs.running, hs.windowOpen, hs.edgeAt, hs.realignTo, (hoff F.tikCount_count hr.1).trans hs.count,
    (hoff F.pwrStat_state hr.2).trans hs.power⟩

theorem SameTime.putF {s : State} (hs : SameTime s0 s) {f : Fld} {i v : Nat}
    (hr : R.tikCount.off / 8 ≠ f.reg.off / 8 ∧ R.pwrStat.off / 8 ≠ f.reg.off / 8 := by decide) : SameTime s0 (s.putF f i v) := .setReg hs hr

theorem SameTime.bump {s : State} (hs : SameTime s0 s) {f : Fld} {i n : Nat}
    (hr : R.tikCount.off / 8 ≠ f.reg.off / 8 ∧ R.pwrStat.off / 8 ≠ f.reg.off / 8 := by decide) : SameTime s0 (s.bump f i n) := .putF hs hr

theorem SameTime.ite {c : Prop} [Decidable c] {s t : State} (hs : SameTime s0 s) (ht : SameTime s0 t) : SameTime s0 (if c then s else t) := by
  split
  · exact hs
  · exact ht

theorem SameTime.foldl {α : Type} {f : State → α → State} {l : List α} {s : State} (hf : ∀ s a, SameTime s0 s → SameTime s0 (f s a))
    (hs : SameTime s0 s) : SameTime s0 (l.foldl f s) := by
  induction l generalizing s with
  | nil => exact hs
  | cons a l ih => exact ih (hf s a hs)

theorem SameTime.raise {s : State} (hs : SameTime s0 s) {code cls idx : Nat} {arg : Word} {payload : List Byte} :
    SameTime s0 (s.raise code cls idx arg payload) := .works hs (.raise .same)

theorem SameTime.countInStart {s : State} (hs : SameTime s0 s) {f : Fld}
    (hr : R.tikCount.off / 8 ≠ f.reg.off / 8 ∧ R.pwrStat.off / 8 ≠ f.reg.off / 8 := by decide) : SameTime s0 (s.countInStart f) :=
  .ite (.putF (.bump hs hr)) hs

theorem SameTime.modChan {s : State} (hs : SameTime s0 s) {c : Nat} {f : Chan → Chan} : SameTime s0 (s.modChan c f) := .upd hs

/-! ## Cells and channels that leave service -/

theorem SameTime.retireCell {s : State} (hs : SameTime s0 s) {c reason : Nat} : SameTime s0 (s.retireCell c reason) := by
  unfold State.retireCell
  extract_lets -merge +onlyGivenNames was s1 s2
  have h2 : SameTime s0 s2 := .works hs (.errsum (.degrade (.setUsable (.modCell .same))))
  exact .ite hs (.ite (.raise (.countInStart h2)) h2)

theorem SameTime.moveStage {s : State} (hs : SameTime s0 s) {c : Nat} : SameTime s0 (s.moveStage c) := by
  unfold State.moveStage
  split
  · exact hs
  · split
    · exact .upd hs
    · exact .works hs (.failProgram (.worsen .same))

theorem SameTime.retireChannel {s : State} (hs : SameTime s0 s) {c reason : Nat} : SameTime s0 (s.retireChannel c reason) := by
  unfold State.retireChannel
  refine .ite hs ?_
  extract_lets -merge +onlyGivenNames s1 s2 s3 hit s4 s5 s6 s7
  have h1 : SameTime s0 s1 := .modChan hs
  have h2 : SameTime s0 s2 := .putF (.putF (.putF (.putF (.works h1 (.dropQueued .same)))))
  have h3 : SameTime s0 s3 := .raise (.countInStart h2)
  have h4 : SameTime s0 s4 := .works h3 (.foldl (fun _ _ h1 => .ite (.foldl (fun _ _ h2 => .failStream h2) (.modProg h1)) h1) .same)
  have h5 : SameTime s0 s5 := .works h4 (.foldl (fun _ _ h1 => .failLater h1) .same)
  have h6 : SameTime s0 s6 := .retireCell h5
  have h7 : SameTime s0 s7 := by
    dsimp only [s7]
    split
    · exact .ite h6 (.moveStage h6)
    · exact h6
  exact .works h7 (.losePrefix .same)

theorem SameTime.retireNow {s : State} (hs : SameTime s0 s) {c reason : Nat} : SameTime s0 (s.retireNow c reason) :=
  .retireChannel (.works hs (.errAll .same))

theorem SameTime.narrowChannel {s : State} (hs : SameTime s0 s) {c : Nat} : SameTime s0 (s.narrowChannel c) := by
  unfold State.narrowChannel
  extract_lets -merge +onlyGivenNames h s1 s2
  have h1 : SameTime s0 s1 := .putF (.modChan hs)
  have h2 : SameTime s0 s2 := .ite (.putF h1) h1
  exact .works (.raise (.countInStart h2)) (.worsen .same)

theorem SameTime.assignBond {s : State} (hs : SameTime s0 s) {c w : Nat} : SameTime s0 (s.assignBond c w) := by
  unfold State.assignBond
  split
  · exact .works hs (.wireLost .same)
  · exact .works (.raise (.bump (.modChan hs))) (.urgentRetrain .same)

end

/-! ## Words that go out, and overruns -/

/-- The registers that announcements write. -/
def toldRegs : List Reg := [R.hstEvqStat, R.stdBootRet, R.shfErrsum, R.tikCmtStat]

/-- From s0 to s words have gone out, and ticks of programs may have been counted as overrun, which invalidates them. -/
structure Overran (s0 s : State) : Prop where
  frame : ∃ regs hostMem msix i3c stdBuf logPend out autos commit ctl ring overrunJobs, s = { s0 with
    regs := regs, hostMem := hostMem, msix := msix, i3c := i3c, stdBuf := stdBuf, logPend := logPend, out := out, autos := autos
    commit := commit, ctl := ctl, ring := ring, tick := { s0.tick with overrunJobs := overrunJobs } }
  regs : regsIn toldRegs s0 s
  realignTo : s.ring.realignTo = s0.ring.realignTo
  overrun : ∀ j ∈ s0.tick.overrunJobs, j ∈ s.tick.overrunJobs
  progs : ∀ j, s.prog j = s0.prog j ∨ s.prog j = { s0.prog j with invalid := true }

theorem Overran.same {s : State} : Overran s s :=
  ⟨⟨_, _, _, _, _, _, _, _, _, _, _, _, rfl⟩, regsIn_refl _ s, rfl, fun _ h => h, fun _ => Or.inl rfl⟩

theorem Overran.trans {s0 s t : State} (hs : Overran s0 s) (h : Overran s t) : Overran s0 t := by
  obtain ⟨⟨_, _, _, _, _, _, _, _, _, _, _, _, hf⟩, hr, hre, ho, hp⟩ := hs
  obtain ⟨⟨_, _, _, _, _, _, _, _, _, _, _, _, hf'⟩, hr', hre', ho', hp'⟩ := h
  refine ⟨⟨_, _, _, _, _, _, _, _, _, _, _, _, by rw [hf', hf]⟩, regsIn_trans hr hr', hre'.trans hre, fun j hj => ho' j (ho j hj), fun j => ?_⟩
  rcases hp j with h | h
  · rcases hp' j with h' | h'
    · exact Or.inl (h'.trans h)
    · exact Or.inr (h'.trans (by rw [h]))
  · rcases hp' j with h' | h'
    · exact Or.inr (h'.trans h)
    · exact Or.inr (h'.trans (by rw [h]))

section
variable {s0 : State}

theorem Overran.says {s : State} (hs : Overran s0 s) {out : List Output} {autos : List AutoCommit} {commit : Option CommitSt} {r : Ring}
    (hr : r.realignTo = s.ring.realignTo) : Overran s0 { s with out := out, autos := autos, commit := commit, ring := r } :=
  hs.trans ⟨⟨_, _, _, _, _, _, _, _, _, _, _, _, rfl⟩, regsIn_of_regs rfl, hr, fun _ h => h, fun _ => Or.inl rfl⟩

theorem Overran.putF {s : State} (hs : Overran s0 s) {f : Fld} {i v : Nat} (hf : f.reg ∈ toldRegs := by decide) : Overran s0 (s.putF f i v) :=
  hs.trans ⟨⟨_, _, _, _, _, _, _, _, _, _, _, _, rfl⟩, regsIn_putF s f i v hf, rfl, fun _ h => h, fun _ => Or.inl rfl⟩

theorem Overran.ite {c : Prop} [Decidable c] {s t : State} (hs : Overran s0 s) (ht : Overran s0 t) : Overran s0 (if c then s else t) := by
  split
  · exact hs
  · exact ht

theorem Overran.foldl {α : Type} {f : State → α → State} {l : List α} {s : State} (hf : ∀ s a, Overran s0 s → Overran s0 (f s a))
    (hs : Overran s0 s) : Overran s0 (l.foldl f s) := by
  induction l generalizing s with
  | nil => exact hs
  | cons a l ih => exact ih (hf s a hs)

theorem Overran.tell {s : State} (hs : Overran s0 s) {w : CtlWord} : Overran s0 (s.tell w) := by
  rw [State.tell, relay_eq]
  exact .says hs rfl

theorem Overran.moveRaise {s : State} (hs : Overran s0 s) {us : Nat} : Overran s0 (s.moveRaise us) := .tell (.says hs rfl)

theorem Overran.deferRinged {s : State} (hs : Overran s0 s) : Overran s0 s.deferRinged := by
  unfold State.deferRinged
  split
  · exact .ite (.putF (.says hs rfl)) hs
  · exact hs

theorem Overran.moveTarget {s : State} (hs : Overran s0 s) : Overran s0 s.moveTarget := by
  unfold State.moveTarget
  split
  · exact hs
  · next r hr =>
    extract_lets -merge +onlyGivenNames r1 s1
    have h1 : Overran s0 s1 := .deferRinged (.says hs rfl)
    exact .ite (.tell h1) h1

theorem Overran.replayAhead {s : State} (hs : Overran s0 s) : Overran s0 s.replayAhead := by
  unfold State.replayAhead
  extract_lets -merge +onlyGivenNames next s1
  have h1 : Overran s0 s1 := .foldl (fun _ _ h => .ite (.moveRaise h) (.tell h)) hs
  exact .ite hs (.ite h1 (.ite (.moveTarget h1) (.tell h1)))

theorem Overran.heedRaise {s : State} (hs : Overran s0 s) {r : RaiseWord} : Overran s0 (s.heedRaise r) := by
  unfold State.heedRaise
  split
  · exact .ite (.tell (.says hs rfl)) hs
  · exact .ite (.ite (.says hs rfl) (.ite (.moveRaise hs) hs)) (.says hs rfl)

/-- A job counts as overrun, before its event. -/
def State.countOverrun (s : State) (j : Nat) : State :=
  ({ s with tick := { s.tick with overrunJobs := s.tick.overrunJobs ++ [j] } } : State).invalidate j

theorem overrunJob_eq (s : State) (j : Nat) : s.overrunJob j = if s.tick.overrunJobs.contains j then s
    else (((s.countOverrun j).errsum (s.sheafsOfJob j) 4).raise 0x10 9 (s.image j).lowestSheaf s.overrunLate) := rfl

theorem invalidate_progs (s : State) (j k : Nat) : (s.invalidate j).prog k = s.prog k ∨ (s.invalidate j).prog k = { s.prog k with invalid := true } := by
  unfold State.invalidate
  split
  · exact Or.inl rfl
  · by_cases h : j = k
    · subst h
      exact Or.inr (prog_setProg_same ..)
    · exact Or.inl (prog_setProg_ne (h := h) ..)

theorem invalidate_of_active {s : State} {j : Nat} (hw : s.tick.windowOpen = false) (ha : (s.prog j).state = .active) :
    ((s.invalidate j).prog j).invalid = true := by
  unfold State.invalidate State.outputsValid
  rw [hw, ha, Bool.false_and, if_neg (by decide), State.modProg, prog_setProg_same]

theorem overran_countOverrun (s : State) (j : Nat) : Overran s (s.countOverrun j) ∧ j ∈ (s.countOverrun j).tick.overrunJobs := by
  obtain ⟨ctl, h⟩ := invalidate_frame ({ s with tick := { s.tick with overrunJobs := s.tick.overrunJobs ++ [j] } } : State) j
  have hp := invalidate_progs ({ s with tick := { s.tick with overrunJobs := s.tick.overrunJobs ++ [j] } } : State) j
  have hc : s.countOverrun j = { s with tick := { s.tick with overrunJobs := s.tick.overrunJobs ++ [j] }, ctl := ctl } := h
  refine ⟨⟨⟨_, _, _, _, _, _, _, _, _, _, _, _, hc⟩, regsIn_of_regs (by rw [hc]), by rw [hc], fun k hk => ?_, hp⟩, ?_⟩
  · rw [hc]
    exact List.mem_append_left _ hk
  · rw [hc]
    exact List.mem_append_right _ (List.mem_singleton.mpr rfl)

theorem Overran.events {s : State} (hs : Overran s0 s) {is : List Nat} {b code cls idx : Nat} {arg : Word} :
    Overran s0 ((s.errsum is b).raise code cls idx arg) := by
  have herr : Overran s0 (s.errsum is b) := .foldl (fun _ _ h => .putF h) hs
  obtain ⟨⟨_, _, _, _, _, _, _, h⟩, hr⟩ := eventPath_raise (ks := [regKey R.hstEvqStat 0, regKey R.stdBootRet 0]) (s := s.errsum is b)
    code cls idx arg [] (by simp) (by simp)
  refine herr.trans ⟨⟨_, _, _, _, _, _, _, _, _, _, _, _, h⟩, regsIn_of_sameRegs hr ?_, by rw [h], fun j hj => ?_, fun j => Or.inl (by rw [h]; rfl)⟩
  · intro k hk
    simp only [List.mem_cons, List.not_mem_nil, or_false] at hk
    rcases hk with rfl | rfl
    · exact ⟨R.hstEvqStat, by decide, regKey_div _ _⟩
    · exact ⟨R.stdBootRet, by decide, regKey_div _ _⟩
  · rw [h]
    exact hj

theorem Overran.overrunJob {s : State} (hs : Overran s0 s) {j : Nat} : Overran s0 (s.overrunJob j) := by
  rw [overrunJob_eq]
  exact .ite hs (.events (hs.trans (overran_countOverrun s j).1))

theorem mem_overrunJob (s : State) (j : Nat) : j ∈ (s.overrunJob j).tick.overrunJobs := by
  rw [overrunJob_eq]
  split
  · next h => exact List.contains_iff_mem.mp h
  · exact (Overran.events (s := s.countOverrun j) .same).overrun j (overran_countOverrun s j).2

theorem mem_foldl_overrunJob (js : List Nat) (s : State) {j : Nat} (hj : j ∈ js) : j ∈ (js.foldl State.overrunJob s).tick.overrunJobs := by
  induction js generalizing s with
  | nil => exact absurd hj (by simp)
  | cons k js ih =>
    rcases List.mem_cons.mp hj with rfl | h
    · exact (Overran.foldl (l := js) (fun _ _ h => .overrunJob h) .same).overrun j (mem_overrunJob s j)
    · exact ih (s.overrunJob k) h

theorem SameTime.overran {s t : State} (hs : SameTime s0 s) (h : Overran s t) : SameTime s0 t := by
  obtain ⟨⟨_, _, _, _, _, _, _, _, _, _, _, _, hf⟩, hr, hre, -, -⟩ := h
  exact hs.trans ⟨by rw [hf], by rw [hf], by rw [hf], by rw [hf], by rw [hf], by rw [hf], hre, getF_of_regsIn hr (by decide) 0,
    getF_of_regsIn hr (by decide) 0⟩

/-! ## Announcements -/

/-- From s0 to s an announcement has been heeded: the tick may be deferred and have a new edge. -/
structure Announced (s0 s : State) : Prop where
  time : SameTime s0 s
  cells : s.cells = s0.cells
  wroteCq : s.wroteCq = s0.wroteCq
  overrun : ∀ j ∈ s0.tick.overrunJobs, j ∈ s.tick.overrunJobs
  invalid : ∀ j, (s0.prog j).invalid = true → (s.prog j).invalid = true

theorem Announced.same {s : State} : Announced s s := ⟨.same, rfl, rfl, fun _ h => h, fun _ h => h⟩

theorem Announced.trans {s t : State} (hs : Announced s0 s) (h : Announced s t) : Announced s0 t :=
  ⟨hs.time.trans h.time, h.cells.trans hs.cells, h.wroteCq.trans hs.wroteCq, fun j hj => h.overrun j (hs.overrun j hj),
    fun j hj => h.invalid j (hs.invalid j hj)⟩

theorem Announced.overran {s t : State} (hs : Announced s0 s) (h : Overran s t) : Announced s0 t := by
  have htime : SameTime s t := .overran .same h
  obtain ⟨⟨_, _, _, _, _, _, _, _, _, _, _, _, hf⟩, -, -, ho, hp⟩ := h
  refine hs.trans ⟨htime, by rw [hf], by rw [hf], ho, fun j hj => ?_⟩
  rcases hp j with h | h
  · rw [h]
    exact hj
  · rw [h]

theorem Announced.setTick {s : State} (hs : Announced s0 s) {t : TickSt} (hr : t.running = s.tick.running) (hw : t.windowOpen = s.tick.windowOpen)
    (he : t.edgeAt = s.tick.edgeAt) (ho : t.overrunJobs = s.tick.overrunJobs) : Announced s0 { s with tick := t } :=
  hs.trans ⟨.setTick .same hr hw he, rfl, rfl, fun j hj => ho ▸ hj, fun _ h => h⟩

theorem Announced.ite {c : Prop} [Decidable c] {s t : State} (hs : Announced s0 s) (ht : Announced s0 t) : Announced s0 (if c then s else t) := by
  split
  · exact hs
  · exact ht

theorem Announced.heedEdge {s : State} (hs : Announced s0 s) {w : EdgeWord} : Announced s0 (s.heedEdge w) := by
  unfold State.heedEdge
  extract_lets -merge +onlyGivenNames s1 r1 s2 ids t1 s3
  have h1 : Announced s0 s1 := by
    dsimp only [s1]
    split
    · exact .overran hs (.replayAhead (.heedRaise .same))
    · exact hs
  have h2 : Announced s0 s2 := .overran h1 (.says .same rfl)
  have h3 : Announced s0 s3 := .setTick h2 rfl rfl rfl rfl
  exact .ite (.overran h3 (.replayAhead (.foldl (fun _ _ h => .overrunJob h) .same)))
    (.ite (.ite h2 (.setTick h2 rfl rfl rfl rfl)) (.setTick h2 rfl rfl rfl rfl))

theorem Announced.announce {s : State} (hs : Announced s0 s) {w : EdgeWord} : Announced s0 (s.announce w) := .heedEdge (.overran hs (.tell .same))

theorem Announced.settleEdge {s : State} (hs : Announced s0 s) : Announced s0 s.settleEdge := by
  unfold State.settleEdge
  exact .ite hs (.ite (.announce hs) (.announce hs))

theorem Announced.reportFrom {s : State} (hs : Announced s0 s) {part ns : Nat} {overrun : Bool} {sheafs : List Nat} :
    Announced s0 (s.reportFrom part ns overrun sheafs) := by
  unfold State.reportFrom
  extract_lets -merge +onlyGivenNames t1 t2 t3
  have h3 : t3.running = s.tick.running ∧ t3.windowOpen = s.tick.windowOpen ∧ t3.edgeAt = s.tick.edgeAt ∧ t3.overrunJobs = s.tick.overrunJobs := by
    dsimp only [t3]
    split
    · exact ⟨rfl, rfl, rfl, rfl⟩
    · exact ⟨rfl, rfl, rfl, rfl⟩
  clear_value t3
  obtain ⟨hr, hw, he, ho⟩ := h3
  have h4 : Announced s0 { s with tick := t3 } := .setTick hs hr hw he ho
  exact .settleEdge h4

theorem Announced.sendReport {s : State} (hs : Announced s0 s) {ns : Nat} {overrun : Bool} {sheafs : List Nat} :
    Announced s0 (s.sendReport ns overrun sheafs) := by
  unfold State.sendReport
  extract_lets -merge +onlyGivenNames t1 s1
  have h1 : Announced s0 s1 := .setTick hs rfl rfl rfl rfl
  exact .ite (.reportFrom h1) (.overran h1 (.tell .same))

/-! ## The validation point -/

theorem SameTime.settleHeld {s : State} (hs : SameTime s0 s) : SameTime s0 s.settleHeld := by
  unfold State.settleHeld
  extract_lets -merge +onlyGivenNames js
  refine .ite hs ?_
  split
  next u blocks hv =>
    have hu : Works s u := by
      have h : Works s (s.validate js).1 := .validate .same
      rwa [hv] at h
    have h1 : SameTime s0 { u with tick := { u.tick with heldJobs := [] } } := .setTick (.works hs hu) rfl rfl rfl
    have h2 : SameTime s0 (({ u with tick := { u.tick with heldJobs := [] } } : State).streamWork js blocks).nextRows :=
      .works h1 (.nextRows (.streamWork .same))
    exact .works (.overran h2 (.replayAhead .same)) (.signalWritten .same)

theorem SameTime.settleIfClear {s : State} (hs : SameTime s0 s) : SameTime s0 s.settleIfClear := .ite (.settleHeld hs) hs

end

end Sys2Proof.Machine
end

section
/-! SUPPORT. The start by its stages: option loading, Steading boot, broadcast, memory test, self-test (R411, R426 to R428, R433, R434, R441, R443,
R447, R459, R467), and the statement on them (O49). -/
namespace Sys2Proof.Machine

/-! ## What shows in registers only -/

/-- Only registers of D differ. -/
def showsIn (D : List Reg) (s u : State) : Prop := (∃ regs, u = { s with regs := regs }) ∧ regsIn D s u

section
variable {D : List Reg}

theorem showsIn_refl (s : State) : showsIn D s s := ⟨⟨_, rfl⟩, regsIn_refl D s⟩

theorem showsIn_trans (s t u : State) (h : showsIn D s t) (h' : showsIn D t u) : showsIn D s u := by
  obtain ⟨⟨_, rfl⟩, hr⟩ := h
  obtain ⟨⟨_, rfl⟩, hr'⟩ := h'
  exact ⟨⟨_, rfl⟩, regsIn_trans hr hr'⟩

theorem showsIn_putF (s : State) (f : Fld) (i v : Nat) (hf : f.reg ∈ D) : showsIn D s (s.putF f i v) := ⟨⟨_, rfl⟩, regsIn_putF s f i v hf⟩

theorem showsIn_foldl {α : Type} {g : State → α → State} (hg : ∀ s a, showsIn D s (g s a)) (l : List α) (s : State) : showsIn D s (l.foldl g s) :=
  foldl_rel showsIn_refl showsIn_trans hg l s
end

/-! ## Option loading (R411) -/

/-- The registers that the end of option loading shows, beside the strap's. -/
def optionRegs : List Reg := availRegs ++ [R.otpStat, R.d2dStat, R.shfCap, R.clkStat, R.rstCause]

/-- What option loading shows after the strap. -/
def State.optionsShown (s : State) : State :=
  let s := s.showOtp.showRevs.loadAvail.bootClocks
  s.putF F.rstCause_restarts 0 (min 255 s.start.restartTimes.length)

/-- Option loading has ended. -/
def State.loadEnds (s : State) (now : Nat) : State :=
  { s with start := { s.start with loading := false, restartTimes := [], wdtAt := now, header := s.flashSrc 0 4096 } }

theorem showsIn_setUsable (s : State) (c : Nat) (b : Bool) : showsIn optionRegs s (s.setUsable c b) :=
  ⟨⟨_, rfl⟩, regsIn_setReg s (availReg c) 0 _ (List.mem_append_left _ (availReg_mem c))⟩

theorem showsIn_optionsShown (s : State) : showsIn optionRegs s s.optionsShown := by
  have hotp : showsIn optionRegs s s.showOtp := showsIn_trans _ _ _ (showsIn_putF s F.otpStat_factory 0 _ (by decide)) (showsIn_trans _ _ _
    (showsIn_putF _ F.otpStat_trim 0 _ (by decide)) (showsIn_trans _ _ _ (showsIn_putF _ F.otpStat_debug 0 _ (by decide)) (showsIn_trans _ _ _
      (showsIn_putF _ F.otpStat_candidates 0 _ (by decide)) (showsIn_trans _ _ _ (showsIn_putF _ F.otpStat_spent 0 _ (by decide))
        (showsIn_putF _ F.otpStat_bad_repair 0 _ (by decide))))))
  have hrevs : ∀ u : State, showsIn optionRegs u u.showRevs := fun u => showsIn_foldl (fun s l => showsIn_putF s F.d2dStat_rev_near l _ (by decide)) _ u
  have havail : ∀ u : State, showsIn optionRegs u u.loadAvail := fun u =>
    showsIn_trans _ _ _ (showsIn_foldl (fun s c => showsIn_setUsable s c _) _ u) (showsIn_putF _ F.shfCap_m 0 _ (by decide))
  have hclocks : ∀ u : State, showsIn optionRegs u u.bootClocks := fun u => showsIn_trans _ _ _
    (showsIn_foldl (fun s d => showsIn_trans _ _ _ (showsIn_putF s F.clkStat_src d 1 (by decide)) (showsIn_trans _ _ _
      (showsIn_putF _ F.clkStat_div d _ (by decide)) (showsIn_putF _ F.clkStat_running d 1 (by decide)))) _ u)
    (showsIn_foldl (fun s d => showsIn_trans _ _ _ (showsIn_putF s F.clkStat_div d 8 (by decide)) (showsIn_trans _ _ _
      (showsIn_putF _ F.clkStat_locked d 1 (by decide)) (showsIn_putF _ F.clkStat_running d 1 (by decide)))) _ _)
  exact showsIn_trans _ _ _ hotp (showsIn_trans _ _ _ (hrevs _) (showsIn_trans _ _ _ (havail _) (showsIn_trans _ _ _ (hclocks _)
    (showsIn_putF _ F.rstCause_restarts 0 _ (by decide)))))

theorem strapCode_lt {mv k : Nat} (h : strapCode mv = some k) : k < 16 := by
  unfold strapCode findIdx? at h
  obtain ⟨e, he, rfl⟩ := Option.map_eq_some_iff.mp h
  exact List.mem_range.mp (List.of_mem_zip (List.mem_of_find?_eq_some he)).2

/-- The strap's outcome shows in its own registers. -/
theorem showStrap_spec (s : State) (mv : Nat) : (∃ regs, s.showStrap mv = { s with regs := regs }) ∧
    (s.showStrap mv).getF F.rstOpt_reading = min mv 2047 ∧ (∀ k, strapCode mv = some k → (s.showStrap mv).getF F.rstOpt_code = k) ∧
    (strapCode mv = none → (s.showStrap mv).onF F.rstOpt_invalid = true) := by
  unfold State.showStrap
  extract_lets -merge +onlyGivenNames s1
  have hread : s1.getF F.rstOpt_reading = min mv 2047 := by
    refine (getF_putF_same s F.rstOpt_reading 0 _ (by decide)).trans (Nat.mod_eq_of_lt ?_)
    exact Nat.lt_of_le_of_lt (Nat.min_le_right _ _) (by decide)
  have hframe : ∃ regs, s1 = { s with regs := regs } := ⟨_, rfl⟩
  clear_value s1
  obtain ⟨_, rfl⟩ := hframe
  cases hc : strapCode mv with
  | some k =>
    refine ⟨⟨_, rfl⟩, ?_, fun x hx => ?_, fun h => absurd h (by simp)⟩
    · dsimp only
      rw [getF_putF_off _ F.clkXtal_delay F.rstOpt_reading 0 0 _ (by decide), getF_putF_off _ F.clkXtal_mhz50 F.rstOpt_reading 0 0 _ (by decide),
        getF_putF_apart _ F.rstOpt_code F.rstOpt_reading 0 _ rfl (by decide), hread]
    · dsimp only
      obtain rfl := Option.some.inj hx
      rw [getF_putF_off _ F.clkXtal_delay F.rstOpt_code 0 0 _ (by decide), getF_putF_off _ F.clkXtal_mhz50 F.rstOpt_code 0 0 _ (by decide),
        getF_putF_same _ F.rstOpt_code 0 _ (by decide)]
      exact Nat.mod_eq_of_lt (strapCode_lt hc)
  | none =>
    refine ⟨⟨_, rfl⟩, ?_, fun x hx => absurd hx (by simp), fun _ => onF_of_bit (b := true) ?_⟩
    · dsimp only
      rw [getF_putF_off _ F.clkXtal_delay F.rstOpt_reading 0 0 _ (by decide), getF_putF_apart _ F.rstOpt_invalid F.rstOpt_reading 0 _ rfl (by decide), hread]
    · dsimp only
      rw [getF_putF_off _ F.clkXtal_delay F.rstOpt_invalid 0 0 _ (by decide)]
      exact getF_putF_same _ F.rstOpt_invalid 0 1 (by decide)

theorem opOptionLoading_eq (mv now : Nat) (s : State) : opOptionLoading mv now s =
    if !s.start.loading || s.heldInReset || decide (now < s.start.loadAt) || s.getF F.pwrStat_state != 0 || decide (8 ≤ s.recentRestarts now) then s.at_ now
    else (((s.at_ now).loadTrim.showStrap mv).optionsShown.putF F.stdBoot_stage 0 2).loadEnds now := rfl

theorem optionLoading_idles {mv now : Nat} {s : State}
    (h : s.start.loading = false ∨ s.heldInReset = true ∨ now < s.start.loadAt ∨ s.getF F.pwrStat_state ≠ 0 ∨ 8 ≤ s.recentRestarts now) :
    opOptionLoading mv now s = s.at_ now := by
  rw [opOptionLoading_eq]
  refine if_pos ?_
  rcases h with h | h | h | h | h
  · rw [h]; rfl
  · rw [h, Bool.or_true]; rfl
  · rw [decide_eq_true h, Bool.or_true]; rfl
  · rw [bne_iff_ne.mpr h, Bool.or_true]; rfl
  · rw [decide_eq_true h, Bool.or_true]

theorem optionLoading_spec {mv now : Nat} {s : State} (hl : s.start.loading = true) (hh : s.heldInReset = false) (hat : s.start.loadAt ≤ now)
    (hp : s.getF F.pwrStat_state = 0) (hr : s.recentRestarts now < 8) : ∀ t, opOptionLoading mv now s = t →
      t.start.loading = false ∧ t.start.wdtAt = now ∧ t.getF F.stdBoot_stage = 2 ∧ t.getF F.rstOpt_reading = min mv 2047 ∧
      (∀ k : Nat, strapCode mv = some k → t.getF F.rstOpt_code = k) ∧ (strapCode mv = none → t.onF F.rstOpt_invalid = true) ∧
      sameMemories s t ∧ t.ctl = s.ctl := by
  intro t ht
  obtain ⟨v, hv⟩ : ∃ v, v = (s.at_ now).loadTrim.showStrap mv := ⟨_, rfl⟩
  obtain ⟨hframe, hread, hcode, hinvalid⟩ := showStrap_spec (s.at_ now).loadTrim mv
  rw [← hv] at hframe hread hcode hinvalid
  obtain ⟨⟨_, hopt⟩, hregs⟩ := showsIn_optionsShown v
  obtain ⟨u, hu⟩ : ∃ u, u = v.optionsShown.putF F.stdBoot_stage 0 2 := ⟨_, rfl⟩
  have hmem : sameMemories s u ∧ u.ctl = s.ctl := by
    obtain ⟨_, hframe⟩ := hframe
    rw [hu, hopt, hframe]
    exact ⟨⟨rfl, rfl, rfl, rfl, rfl⟩, rfl⟩
  obtain ⟨hm, hc⟩ := hmem
  have hstage : u.getF F.stdBoot_stage = 2 := by
    rw [hu]
    exact getF_putF_same _ F.stdBoot_stage 0 2 (by decide)
  have hget : ∀ f : Fld, f.reg = R.rstOpt → u.getF f 0 = v.getF f 0 := by
    intro f hf
    rw [hu]
    refine (getF_putF_off _ F.stdBoot_stage f 0 0 2 (by rw [hf]; decide)).trans (getF_of_regsIn hregs ?_ 0)
    rw [hf]
    decide
  rw [opOptionLoading_eq, if_neg, ← hv, ← hu] at ht
  · subst ht
    exact ⟨rfl, rfl, hstage, (hget F.rstOpt_reading rfl).trans hread, fun k hk => (hget F.rstOpt_code rfl).trans (hcode k hk),
      fun hn => (onF_of_getF (hget F.rstOpt_invalid rfl)).trans (hinvalid hn), hm, hc⟩
  · rw [hl, hh, hp, decide_eq_false (Nat.not_lt.mpr hat), decide_eq_false (Nat.not_le.mpr hr)]
    decide

/-! ## The start delay (R396) -/

theorem opStartDelay_over {now : Nat} {s : State} (hh : s.heldInReset = false) (hd : s.delayOver now = true) :
    opStartDelay now s = { s.at_ now with start := { s.start with startDelayDone := true } } := by
  unfold opStartDelay
  extract_lets u
  rw [show u.heldInReset = false from hh, show u.delayOver now = true from hd]
  rfl

theorem opStartDelay_idle {now : Nat} {s : State} (h : s.heldInReset = true ∨ s.delayOver now = false) : opStartDelay now s = s.at_ now := by
  unfold opStartDelay
  extract_lets u
  refine if_pos ?_
  rcases h with h | h
  · rw [show u.heldInReset = true from h]
    rfl
  · rw [show u.delayOver now = false from h, Bool.not_false, Bool.or_true]

/-! ## Steading boot (R426, R428, R459, R467) -/

theorem opSteadingBoot_eq {answers : Bool} {now : Nat} {s : State} (hl : s.start.loading = false) (hh : s.heldInReset = false)
    (hd : s.start.steadingDown = true) : opSteadingBoot answers now s =
      if !answers then (s.at_ now).goRecovery 1
      else if s.start.bootDone then (s.at_ now).laterBoot now else (s.at_ now).firstBoot now := by
  unfold opSteadingBoot
  extract_lets -merge +onlyGivenNames u
  rw [if_neg]
  · rfl
  · rw [show u.start.loading = false from hl, show u.heldInReset = false from hh, show u.start.steadingDown = true from hd]
    decide

theorem opSteadingBoot_idle {answers : Bool} {now : Nat} {s : State}
    (h : s.start.loading = true ∨ s.heldInReset = true ∨ s.start.steadingDown = false) : opSteadingBoot answers now s = s.at_ now := by
  unfold opSteadingBoot
  extract_lets -merge +onlyGivenNames u
  refine if_pos ?_
  rcases h with h | h | h
  · rw [show u.start.loading = true from h]
    rfl
  · rw [show u.heldInReset = true from h, Bool.or_true]
    rfl
  · rw [show u.start.steadingDown = false from h, Bool.not_false, Bool.or_true]

theorem verifyImage_none (s : State) (src : Nat → Nat → List Byte) (tables : Bool) : s.verifyImage src none tables ≠ 0 := by
  unfold State.verifyImage
  extract_lets h gs
  split
  · decide
  · split
    · decide
    · split
      · decide
      · exact Nat.succ_ne_zero 4

/-- What a generation that becomes active sets. -/
theorem activateGen_spec (s : State) (g : Nat) : (∃ regs minSvn flagsActive svn, s.activateGen g = { s with
      regs := regs, minSvn := minSvn, flagsActive := flagsActive, svn := svn }) ∧
    (s.activateGen g).minSvn = genMinSvn (s.genBlock g) ∧ (s.activateGen g).flagsActive = genFlags (s.genBlock g) ∧
    (s.activateGen g).svn = hdrSvn s.start.header ∧ (s.activateGen g).getF F.otpStat_active = g % 8 ∧
    (s.activateGen g).onF F.otpStat_identity = s.onF F.otpStat_identity ∧ regsIn [R.otpStat] s (s.activateGen g) := by
  obtain ⟨v, hv⟩ : ∃ v : State, v = { s with
    minSvn := genMinSvn (s.genBlock g), flagsActive := genFlags (s.genBlock g), svn := hdrSvn s.start.header } := ⟨_, rfl⟩
  have hact : s.activateGen g = v.putF F.otpStat_active 0 g := by
    rw [hv]
    rfl
  have hvregs : v.regs = s.regs := by rw [hv]
  have hset : v.minSvn = genMinSvn (s.genBlock g) ∧ v.flagsActive = genFlags (s.genBlock g) ∧ v.svn = hdrSvn s.start.header :=
    ⟨by rw [hv], by rw [hv], by rw [hv]⟩
  obtain ⟨hmin, hflags, hsvn⟩ := hset
  obtain ⟨regs, hput⟩ : ∃ regs, v.putF F.otpStat_active 0 g = { v with regs := regs } := ⟨_, rfl⟩
  rw [hact]
  refine ⟨⟨regs, genMinSvn (s.genBlock g), genFlags (s.genBlock g), hdrSvn s.start.header, by rw [hput, hv]⟩, hmin, hflags, hsvn,
    getF_putF_same v F.otpStat_active 0 g (by decide), ?_, regsIn_trans (regsIn_of_regs hvregs) (regsIn_putF v F.otpStat_active 0 g (by decide))⟩
  refine onF_of_getF ((getF_putF_apart v F.otpStat_active F.otpStat_identity 0 g rfl (by decide)).trans ?_)
  rw [State.getF, State.getF, State.reg, State.reg, hvregs]

/-- The generation by which a first boot verifies. -/
def State.bootGen (s : State) : Option Nat :=
  if headerOk (s.flashSrc 0 4096) && s.keyTrusted (s.flashSrc 0 4096) then s.confirmed (hdrKey (s.flashSrc 0 4096)) else none

/-- The check of a first boot that fails, or 0. -/
def State.bootCode (s : State) : Nat := s.verifyImage s.flashSrc (s.bootGen.map (fun k => genMinSvn (s.genBlock k))) false

/-- The count of the start and the identity pair. -/
def State.counted (s : State) : State := ({ s with start := { s.start with header := s.flashSrc 0 4096 } } : State).countStart.checkIdentity

/-- The settings with which a first boot goes on. -/
def State.settled (s : State) : State :=
  match s.bootGen with
  | some g => if s.bootCode = 0 ∨ 5 ≤ s.bootCode then s.counted.activateGen g else s.counted
  | none => s.counted

/-- The identity pair is accepted. -/
def State.identityOk (s : State) : Bool := shake256 (s.otpAt 0x200 64) 32 == s.otpAt 0x240 32 &&
  shake256 (Config.falconPublic (s.otpAt 0x200 64)) 64 == s.otpAt 0x80 64

theorem counted_spec (s : State) : (∃ regs flash fresh logPend logTimes, s.counted = { s with
      regs := regs, flash := flash, fresh := fresh, logPend := logPend, logTimes := logTimes
      start := { s.start with header := s.flashSrc 0 4096 } }) ∧
    s.counted.onF F.otpStat_identity = s.identityOk ∧ regsIn [R.otpStat] s s.counted := by
  obtain ⟨u, hu⟩ : ∃ u, u = ({ s with start := { s.start with header := s.flashSrc 0 4096 } } : State).countStart := ⟨_, rfl⟩
  obtain ⟨flash, fresh, logPend, logTimes, hc⟩ := logPath_countStart ({ s with start := { s.start with header := s.flashSrc 0 4096 } } : State)
  rw [← hu] at hc
  have hcounted : s.counted = u.checkIdentity := by rw [hu]; rfl
  have hseed : ∀ a n, u.otpAt a n = s.otpAt a n := fun a n => by rw [hc]; rfl
  rw [hcounted]
  refine ⟨⟨u.checkIdentity.regs, flash, fresh, logPend, logTimes, ?_⟩, onF_of_bit ?_, ?_⟩
  · rw [hc]
    rfl
  · unfold State.checkIdentity
    extract_lets seed
    rw [getF_putF_same _ F.otpStat_identity 0 _ (by decide), State.identityOk, ← hseed, ← hseed, ← hseed]
    rfl
  · refine regsIn_trans (t := u) (regsIn_of_regs (by rw [hc])) (regsIn_putF u F.otpStat_identity 0 _ (by decide))

/-- What a first boot has settled before it goes on or leads into recovery. -/
structure BootSettled (s u : State) : Prop where
  otp : u.otp = s.otp
  start : u.start = { s.start with header := s.flashSrc 0 4096 }
  tick : u.tick = s.tick
  identity : u.onF F.otpStat_identity = s.identityOk
  regs : regsIn [R.otpStat] s u
  active : ∀ k, s.bootCode = 0 ∨ 5 ≤ s.bootCode → s.bootGen = some k → u.minSvn = genMinSvn (s.genBlock k) ∧
    u.flagsActive = genFlags (s.genBlock k) ∧ u.svn = hdrSvn (s.flashSrc 0 4096) ∧ u.getF F.otpStat_active = k % 8

theorem bootSettled (s : State) : BootSettled s s.settled := by
  obtain ⟨⟨regs, flash, fresh, logPend, logTimes, hc⟩, hid, hregs⟩ := counted_spec s
  have hcounted : (¬ ∃ k, (s.bootCode = 0 ∨ 5 ≤ s.bootCode) ∧ s.bootGen = some k) → BootSettled s s.counted := by
    intro hn
    exact ⟨by rw [hc], by rw [hc], by rw [hc], hid, hregs, fun k hk hg => absurd ⟨k, hk, hg⟩ hn⟩
  unfold State.settled
  split
  · next g hg =>
    by_cases h : s.bootCode = 0 ∨ 5 ≤ s.bootCode
    · rw [if_pos h]
      obtain ⟨⟨_, _, _, _, hframe⟩, hmin, hflags, hsvn, hact, hident, hr⟩ := activateGen_spec s.counted g
      have hblock : s.counted.genBlock g = s.genBlock g := by rw [hc]; rfl
      rw [hblock] at hmin hflags
      refine ⟨by rw [hframe, hc], by rw [hframe, hc], by rw [hframe, hc], hident.trans hid, regsIn_trans hregs hr, fun k _ hk => ?_⟩
      obtain rfl : g = k := Option.some.inj (hg.symm.trans hk)
      exact ⟨hmin, hflags, hsvn.trans (by rw [hc]), hact⟩
    · rw [if_neg h]
      exact hcounted (fun ⟨k, hk, _⟩ => h hk)
  · next hg => exact hcounted (fun ⟨k, _, hk⟩ => absurd (hg.symm.trans hk) (by simp))

/-! ## The first boot -/

/-- The registers in which the kind of a start and its events show. -/
def chosenRegs : List Reg := [R.stdBoot, R.pwrKeep, R.hstEvqStat, R.stdBootRet]

/-- What the choice of the kind of start may change: Keep and what it held, the event path. -/
def chosenPath (s u : State) : Prop :=
  (∃ regs hostMem msix i3c stdBuf logPend out keep devMem loftErr, u = { s with
    regs := regs, hostMem := hostMem, msix := msix, i3c := i3c, stdBuf := stdBuf, logPend := logPend, out := out, keep := keep
    devMem := devMem, loftErr := loftErr }) ∧ regsIn chosenRegs s u

theorem chosenPath_refl (s : State) : chosenPath s s := ⟨⟨_, _, _, _, _, _, _, _, _, _, rfl⟩, regsIn_refl _ s⟩

theorem chosenPath_trans (s t u : State) (h : chosenPath s t) (h' : chosenPath t u) : chosenPath s u := by
  obtain ⟨⟨_, _, _, _, _, _, _, _, _, _, rfl⟩, hr⟩ := h
  obtain ⟨⟨_, _, _, _, _, _, _, _, _, _, rfl⟩, hr'⟩ := h'
  exact ⟨⟨_, _, _, _, _, _, _, _, _, _, rfl⟩, regsIn_trans hr hr'⟩

theorem chosenPath_putF (s : State) (f : Fld) (i v : Nat) (hf : f.reg ∈ chosenRegs) : chosenPath s (s.putF f i v) :=
  ⟨⟨_, _, _, _, _, _, _, _, _, _, rfl⟩, regsIn_putF s f i v hf⟩

theorem chosenPath_raise (s : State) (code cls idx : Nat) (arg : Word) (payload : List Byte) : chosenPath s (s.raise code cls idx arg payload) := by
  obtain ⟨⟨_, _, _, _, _, _, _, h⟩, hr⟩ := eventPath_raise (ks := [regKey R.hstEvqStat 0, regKey R.stdBootRet 0]) (s := s)
    code cls idx arg payload (by simp) (by simp)
  refine ⟨⟨_, _, _, _, _, _, _, _, _, _, h⟩, regsIn_of_sameRegs hr ?_⟩
  intro k hk
  simp only [List.mem_cons, List.not_mem_nil, or_false] at hk
  rcases hk with rfl | rfl
  · exact ⟨R.hstEvqStat, by decide, regKey_div _ _⟩
  · exact ⟨R.stdBootRet, by decide, regKey_div _ _⟩

theorem chosenPath_dropKeep (s : State) : chosenPath s s.dropKeep := by
  unfold State.dropKeep
  extract_lets -merge +onlyGivenNames s1 s2
  have h1 : chosenPath s s1 := ⟨⟨_, _, _, _, _, _, _, _, _, _, rfl⟩, regsIn_of_regs rfl⟩
  have h2 : chosenPath s1 s2 := chosenPath_trans _ _ _ (chosenPath_putF s1 F.pwrKeep_keep_ok 0 0 (by decide)) (chosenPath_trans _ _ _
    (chosenPath_putF _ F.pwrKeep_record 0 0 (by decide)) (chosenPath_putF _ F.pwrKeep_last 0 2 (by decide)))
  exact chosenPath_trans s s2 _ (chosenPath_trans _ _ _ h1 h2) (chosenPath_raise s2 _ _ _ _ _)

theorem chosenPath_chooseStart (s : State) : chosenPath s s.chooseStart := by
  unfold State.chooseStart
  extract_lets other
  split
  · exact chosenPath_putF s F.stdBoot_start 0 _ (by decide)
  · split
    · exact chosenPath_putF s F.stdBoot_start 0 _ (by decide)
    · exact chosenPath_trans _ _ _ (chosenPath_dropKeep s) (chosenPath_putF _ F.stdBoot_start 0 _ (by decide))

/-- Steading runs after a first boot, and the start is in stage 3. -/
def State.bootGoesOn (s : State) : State :=
  let s := { s.steadingUp with start := { s.start with bootDone := true, steadingDown := false } }
  let s := s.chooseStart.putF F.stdBoot_stage 0 3
  if s.onF F.rstOpt_invalid then s.raise 0x02 0 0 (BitVec.ofNat 64 (s.getF F.rstOpt_reading)) else s

/-- A first boot whose header is `h`. -/
def State.bootFrom (s : State) (h : List Byte) (now : Nat) : State :=
  let s := { s with start := { s.start with header := h } }
  let gen := if headerOk h && s.keyTrusted h then s.confirmed (hdrKey h) else none
  let code := s.verifyImage s.flashSrc (gen.map (fun g => genMinSvn (s.genBlock g))) false
  let s := s.countStart.checkIdentity
  let s := match gen with
    | some g => if code = 0 ∨ 5 ≤ code then s.activateGen g else s
    | none => s
  if code ≠ 0 then s.goRecovery code
  else if s.bootGoesOn.onF F.clkXtal_fail then s.bootGoesOn.goRecovery 16 else s.bootGoesOn.configure now

theorem firstBoot_bootFrom (s : State) (now : Nat) : s.firstBoot now = s.bootFrom (s.flashSrc 0 4096) now := by
  unfold State.firstBoot
  generalize s.flashSrc 0 4096 = h
  rfl

theorem bootFrom_eq {s : State} {h : List Byte} (hh : h = s.flashSrc 0 4096) (now : Nat) : s.bootFrom h now =
    if s.bootCode ≠ 0 then s.settled.goRecovery s.bootCode
    else if s.settled.bootGoesOn.onF F.clkXtal_fail then s.settled.bootGoesOn.goRecovery 16 else s.settled.bootGoesOn.configure now := by
  have hgen : s.bootGen = if headerOk h && s.keyTrusted h then s.confirmed (hdrKey h) else none := by
    rw [hh]
    rfl
  have hcode : s.bootCode = s.verifyImage s.flashSrc (s.bootGen.map (fun k => genMinSvn (s.genBlock k))) false := rfl
  have hcounted : s.counted = ({ s with start := { s.start with header := h } } : State).countStart.checkIdentity := by
    rw [hh]
    rfl
  clear hh
  unfold State.settled
  rw [hcode, hcounted, hgen]
  rfl

theorem firstBoot_eq (s : State) (now : Nat) : s.firstBoot now =
    if s.bootCode ≠ 0 then s.settled.goRecovery s.bootCode
    else if s.settled.bootGoesOn.onF F.clkXtal_fail then s.settled.bootGoesOn.goRecovery 16 else s.settled.bootGoesOn.configure now :=
  (firstBoot_bootFrom s now).trans (bootFrom_eq rfl now)

/-- What a boot that goes on leaves, and what it shows. -/
theorem bootGoesOn_spec (s : State) : (∃ regs hostMem msix i3c stdBuf logPend out keep devMem loftErr, s.bootGoesOn = { s with
      regs := regs, hostMem := hostMem, msix := msix, i3c := i3c, stdBuf := stdBuf, logPend := logPend, out := out, keep := keep
      devMem := devMem, loftErr := loftErr, start := { s.start with bootDone := true, steadingDown := false } }) ∧
    s.bootGoesOn.getF F.stdBoot_stage = 3 ∧ s.bootGoesOn.onF F.rstStd_restart = false ∧
    ∀ f : Fld, (∀ q ∈ R.rstStd :: chosenRegs, f.reg.off / 8 ≠ q.off / 8) → s.bootGoesOn.getF f 0 = s.getF f 0 := by
  obtain ⟨⟨⟨_, _, _, _, _, _, _, hup⟩, hupr⟩, -, hrestart⟩ := steadingUp_spec s
  have hupr' : regsIn (R.rstStd :: chosenRegs) s s.steadingUp := by
    refine regsIn_trans (t := { s with start := { s.start with steadingDown := false } }) (regsIn_of_regs rfl) (regsIn_of_sameRegs hupr ?_)
    intro k hk
    simp only [List.mem_cons, List.not_mem_nil, or_false] at hk
    rcases hk with rfl | rfl
    · exact ⟨R.rstStd, by decide, regKey_div _ _⟩
    · exact ⟨R.stdBootRet, by decide, regKey_div _ _⟩
  obtain ⟨b, hb⟩ : ∃ b : State, b = { s.steadingUp with start := { s.start with bootDone := true, steadingDown := false } } := ⟨_, rfl⟩
  have hbregs : b.regs = s.steadingUp.regs := by rw [hb]
  obtain ⟨v, hv⟩ : ∃ v, v = b.chooseStart.putF F.stdBoot_stage 0 3 := ⟨_, rfl⟩
  have hpath : chosenPath b v := by
    rw [hv]
    exact chosenPath_trans _ _ _ (chosenPath_chooseStart b) (chosenPath_putF _ F.stdBoot_stage 0 3 (by decide))
  have hstage : v.getF F.stdBoot_stage = 3 := by
    rw [hv]
    exact getF_putF_same _ F.stdBoot_stage 0 3 (by decide)
  obtain ⟨w, hw⟩ : ∃ w, w = if v.onF F.rstOpt_invalid then v.raise 0x02 0 0 (BitVec.ofNat 64 (v.getF F.rstOpt_reading)) else v := ⟨_, rfl⟩
  have hgoes : s.bootGoesOn = w := by
    rw [hw, hv, hb]
    rfl
  have hwpath : chosenPath v w ∧ w.getF F.stdBoot_stage = v.getF F.stdBoot_stage := by
    rw [hw]
    split
    · exact ⟨chosenPath_raise v _ _ _ _ _, getF_raise v _ _ _ _ _ _ 0 (by decide) (by decide)⟩
    · exact ⟨chosenPath_refl v, rfl⟩
  obtain ⟨hwpath, hwstage⟩ := hwpath
  obtain ⟨⟨_, _, _, _, _, _, _, _, _, _, hframe⟩, hregs⟩ := chosenPath_trans b v w hpath hwpath
  rw [hgoes]
  refine ⟨⟨_, _, _, _, _, _, _, _, _, _, by rw [hframe, hb, hup]⟩, hwstage.trans hstage, ?_, fun f hf => ?_⟩
  · refine (onF_of_getF (getF_of_regsIn hregs (f := F.rstStd_restart) (by decide) 0)).trans ((onF_of_getF ?_).trans hrestart)
    rw [State.getF, State.getF, State.reg, State.reg, hbregs]
  · exact getF_of_regsIn (regsIn_trans (regsIn_trans hupr' (regsIn_of_regs hbregs)) (regsIn_mono (fun r hr => List.mem_cons_of_mem _ hr) hregs)) hf 0

theorem verifyImage_zero {s : State} (h : s.bootCode = 0) : ∃ k, s.bootGen = some k := by
  unfold State.bootCode at h
  cases hg : s.bootGen with
  | some k => exact ⟨k, rfl⟩
  | none =>
    rw [hg] at h
    exact absurd h (verifyImage_none _ _ _)

theorem configure_of_unstable {s : State} (now : Nat) (h : s.onF F.clkXtal_stable = false) : s.configure now = s := by
  unfold State.configure
  refine if_pos ?_
  rw [h, Bool.not_false, Bool.or_true, Bool.true_or]

theorem onF_of_regsIn {D : List Reg} {s u : State} (h : regsIn D s u) {f : Fld} (hf : ∀ q ∈ D, f.reg.off / 8 ≠ q.off / 8) (i : Nat) :
    u.onF f i = s.onF f i := onF_of_getF (getF_of_regsIn h hf i)

/-- A first boot of a crystal that is not yet stable: one whose image passes goes on, another leads into recovery. -/
theorem firstBoot_spec {s : State} (now : Nat) (hstable : s.onF F.clkXtal_stable = false) (hfail : s.onF F.clkXtal_fail = false) :
    s.firstBoot now = if s.bootCode ≠ 0 then s.settled.goRecovery s.bootCode else s.settled.bootGoesOn := by
  obtain ⟨-, -, -, hget⟩ := bootGoesOn_spec s.settled
  have hset := bootSettled s
  have hshow : ∀ f : Fld, f.reg = R.clkXtal → s.settled.bootGoesOn.onF f = s.onF f := fun f hf =>
    (onF_of_getF (hget f (by rw [hf]; decide))).trans (onF_of_regsIn hset.regs (by rw [hf]; decide) 0)
  rw [firstBoot_eq, hshow F.clkXtal_fail rfl, hfail, configure_of_unstable now ((hshow F.clkXtal_stable rfl).trans hstable)]
  rfl

/-- The part is in recovery, and why shows. -/
structure InRecovery (code : Nat) (s t : State) : Prop where
  stage : t.getF F.stdBoot_stage = 8
  start : t.getF F.stdBoot_start = 3
  minimal : t.onF F.stdBoot_minimal = true
  fail : t.getF F.stdBoot_fail = code
  up : t.start.steadingDown = false
  booted : t.start.bootDone = true
  header : t.start.header = s.start.header
  stopped : t.tick.running = false
  devMem : t.devMem = s.devMem
  otp : t.otp = s.otp
  minSvn : t.minSvn = s.minSvn
  taken : t.stdBuf = []
  restarted : t.onF F.rstStd_restart = false
  regs : regsIn recoveryRegs s t

theorem inRecovery_goRecovery (s : State) {code : Nat} (hc : code < 256) : InRecovery code s (s.goRecovery code) := by
  obtain ⟨⟨_, _, _, _, _, _, _, _, _, tick, h⟩, hrun, hregs, hrestart, hstage, hstart, hmin, hfail⟩ := goRecovery_spec s code
  have hcode : code % 2 ^ F.stdBoot_fail.width = code := Nat.mod_eq_of_lt hc
  generalize s.goRecovery code = t at *
  have hkept : t.start = { s.start with bootDone := true, steadingDown := false } ∧ t.devMem = s.devMem ∧ t.otp = s.otp ∧ t.minSvn = s.minSvn ∧
      t.stdBuf = [] := by
    rw [h]
    exact ⟨rfl, rfl, rfl, rfl, rfl⟩
  obtain ⟨hst, hdev, hotp, hsvn, hbuf⟩ := hkept
  exact ⟨hstage, hstart, onF_of_bit (b := true) hmin, hfail.trans hcode, by rw [hst], by rw [hst], by rw [hst], hrun, hdev, hotp, hsvn, hbuf,
    hrestart, hregs⟩

/-- What a first boot with the image of the flash leaves. -/
structure FirstBooted (s t : State) : Prop where
  booted : t.start.bootDone = true
  up : t.start.steadingDown = false
  header : t.start.header = s.flashSrc 0 4096
  otp : t.otp = s.otp
  identity : t.onF F.otpStat_identity = s.identityOk
  active : ∀ k, 5 ≤ s.bootCode → s.bootGen = some k → t.minSvn = genMinSvn (s.genBlock k) ∧ t.getF F.otpStat_active = k % 8
  goesOn : s.bootCode = 0 → t.getF F.stdBoot_stage = 3 ∧ t.minSvn = genMinSvn (s.genBlock (s.bootGen.getD 0)) ∧
    t.flagsActive = genFlags (s.genBlock (s.bootGen.getD 0)) ∧ t.svn = hdrSvn (s.flashSrc 0 4096) ∧
    t.getF F.otpStat_active = s.bootGen.getD 0 % 8 ∧ t.onF F.rstStd_restart = false ∧ t.tick = s.tick
  recovers : s.bootCode ≠ 0 → t.getF F.stdBoot_stage = 8 ∧ t.getF F.stdBoot_start = 3 ∧ t.onF F.stdBoot_minimal = true ∧
    t.getF F.stdBoot_fail = s.bootCode ∧ t.tick.running = false

theorem firstBooted {s : State} (now : Nat) (hstable : s.onF F.clkXtal_stable = false) (hfail : s.onF F.clkXtal_fail = false) :
    FirstBooted s (s.firstBoot now) := by
  have hset := bootSettled s
  rw [firstBoot_spec now hstable hfail]
  generalize s.settled = u at hset ⊢
  by_cases hc : s.bootCode ≠ 0
  · rw [if_pos hc]
    have hr := inRecovery_goRecovery u (code := s.bootCode) (Nat.lt_of_le_of_lt (verifyImage_le _ _ _ _) (by decide))
    generalize u.goRecovery s.bootCode = t at hr ⊢
    refine ⟨hr.booted, hr.up, hr.header.trans (by rw [hset.start]), hr.otp.trans hset.otp,
      (onF_of_regsIn hr.regs (by decide) 0).trans hset.identity, fun k h5 hk => ?_, fun h => absurd h hc,
      fun _ => ⟨hr.stage, hr.start, hr.minimal, hr.fail, hr.stopped⟩⟩
    obtain ⟨hmin, -, -, hact⟩ := hset.active k (Or.inr h5) hk
    exact ⟨hr.minSvn.trans hmin, (getF_of_regsIn hr.regs (by decide) 0).trans hact⟩
  · have hc0 : s.bootCode = 0 := not_not.mp hc
    rw [if_neg hc]
    obtain ⟨⟨_, _, _, _, _, _, _, _, _, _, hframe⟩, hstage, hrestart, hget⟩ := bootGoesOn_spec u
    obtain ⟨g, hg⟩ := verifyImage_zero hc0
    obtain ⟨hmin, hflags, hsvn, hact⟩ := hset.active g (Or.inl hc0) hg
    generalize u.bootGoesOn = t at hframe hstage hrestart hget ⊢
    have hkept : t.start = { u.start with bootDone := true, steadingDown := false } ∧ t.otp = u.otp ∧
        t.minSvn = u.minSvn ∧ t.flagsActive = u.flagsActive ∧ t.svn = u.svn ∧ t.tick = u.tick := by
      rw [hframe]
      exact ⟨rfl, rfl, rfl, rfl, rfl, rfl⟩
    obtain ⟨hst, hotp, hmin', hflags', hsvn', htick⟩ := hkept
    have hheader : u.start.header = s.flashSrc 0 4096 := by rw [hset.start]
    refine ⟨by rw [hst], by rw [hst], (congrArg Start.header hst).trans hheader, hotp.trans hset.otp, (onF_of_getF (hget _ (by decide))).trans hset.identity,
      fun k h5 _ => absurd h5 (by rw [hc0]; decide), fun _ => ?_, fun h => absurd hc0 h⟩
    rw [hg]
    exact ⟨hstage, hmin'.trans hmin, hflags'.trans hflags, hsvn'.trans hsvn, (hget _ (by decide)).trans hact, hrestart, htick.trans hset.tick⟩

/-! ## A later boot -/

theorem steadingTakes_memories (s : State) (e : Event) : (s.steadingTakes e).hostMem = s.hostMem := by
  have halert : ∀ (s : State) (n : Nat), ((chunksOf 32 2 e.bytes).foldl (fun s r => s.alert n r) s).hostMem = s.hostMem := fun s n => by
    refine foldl_keeps State.hostMem ?_ _ s
    exact fun _ _ => rfl
  have hsignal : (s.signal 0 0).hostMem = s.hostMem := keeps_ite State.hostMem rfl rfl
  have htold : ∀ (c d : Prop) [Decidable c] [Decidable d] (n : Nat), (if c then (chunksOf 32 2 e.bytes).foldl (fun s r => s.alert n r)
      (if d then s.signal 0 0 else s) else (if d then s.signal 0 0 else s)).hostMem = s.hostMem := fun c d _ _ n =>
    have hd := keeps_ite State.hostMem (c := d) hsignal rfl
    keeps_ite State.hostMem ((halert _ n).trans hd) hd
  exact keeps_ite State.hostMem (keeps_ite State.hostMem (htold ..) (htold ..)) (htold ..)

/-- Steading runs again and has taken what waited for it; nothing else of a start differs. -/
structure UpAgain (s t : State) : Prop where
  start : t.start = { s.start with steadingDown := false }
  taken : t.stdBuf = []
  restarted : t.onF F.rstStd_restart = false
  stage : t.getF F.stdBoot_stage = s.getF F.stdBoot_stage
  tick : t.tick = s.tick
  ctl : t.ctl = s.ctl
  minSvn : t.minSvn = s.minSvn
  memories : sameMemories s t

theorem upAgain_steadingUp (s : State) : UpAgain s s.steadingUp := by
  obtain ⟨⟨⟨_, _, _, _, _, _, _, h⟩, hregs⟩, hbuf, hrestart⟩ := steadingUp_spec s
  have hhost : s.steadingUp.hostMem = s.hostMem := by
    unfold State.steadingUp
    refine (foldl_keeps State.hostMem ?_ _ _).trans rfl
    exact steadingTakes_memories
  generalize s.steadingUp = t at *
  have hkept : t.start = { s.start with steadingDown := false } ∧ t.tick = s.tick ∧ t.ctl = s.ctl ∧ t.minSvn = s.minSvn ∧ t.devMem = s.devMem ∧
      t.flash = s.flash ∧ t.otp = s.otp ∧ t.rcvBuf = s.rcvBuf := by
    rw [h]
    exact ⟨rfl, rfl, rfl, rfl, rfl, rfl, rfl, rfl⟩
  obtain ⟨hst, htick, hctl, hsvn, hdev, hflash, hotp, hrcv⟩ := hkept
  exact ⟨hst, hbuf, hrestart, getF_of_sameRegs hregs (by decide), htick, hctl, hsvn, hdev, hhost, hflash, hotp, hrcv⟩

theorem configure_of_configured {s : State} (now : Nat) (h : s.start.configured = true) : s.configure now = s := by
  unfold State.configure
  refine if_pos ?_
  rw [h, Bool.or_true, Bool.true_or, Bool.true_or, Bool.true_or]

theorem laterBoot_recovered {s : State} (now : Nat) (h : s.getF F.stdBoot_stage = 8) : s.laterBoot now = s.steadingUp := if_pos h

theorem laterBoot_spec {s : State} (now : Nat) (hc : s.start.configured = true) (hn : s.getF F.stdBoot_stage ≠ 8) :
    s.laterBoot now = if s.verifyImage s.flashSrc (some s.minSvn) false ≠ 0 then s.goRecovery (s.verifyImage s.flashSrc (some s.minSvn) false)
      else s.steadingUp := by
  have hup : s.steadingUp.start.configured = true := by
    rw [(upAgain_steadingUp s).start]
    exact hc
  unfold State.laterBoot
  rw [if_neg hn]
  dsimp only
  rw [configure_of_configured now hup]

/-! ## The boot commands -/

theorem steadingBoot_silent {s : State} {now : Nat} (hl : s.start.loading = false) (hh : s.heldInReset = false) (hd : s.start.steadingDown = true) :
    completes (.steadingBoot false now) s (fun t =>
      t.getF F.stdBoot_stage = 8 ∧ t.getF F.stdBoot_start = 3 ∧ t.onF F.stdBoot_minimal = true ∧ t.getF F.stdBoot_fail = 1 ∧
      t.start.steadingDown = false ∧ t.start.bootDone = true ∧ t.tick.running = false ∧ t.devMem = s.devMem ∧ t.otp = s.otp) := by
  have hr := inRecovery_goRecovery (s.begin.at_ now) (code := 1) (by decide)
  have heq : opSteadingBoot false now s.begin = (s.begin.at_ now).goRecovery 1 :=
    (opSteadingBoot_eq (s := s.begin) hl hh hd).trans (if_pos (by decide))
  generalize (s.begin.at_ now).goRecovery 1 = u at hr heq
  exact completes_of_eq (f := opSteadingBoot false now) rfl heq
    ⟨hr.stage, hr.start, hr.minimal, hr.fail, hr.up, hr.booted, hr.stopped, hr.devMem, hr.otp⟩

theorem completes_firstBoot {s : State} {now : Nat} (hl : s.start.loading = false) (hh : s.heldInReset = false) (hd : s.start.steadingDown = true)
    (hb : s.start.bootDone = false) (hstable : s.onF F.clkXtal_stable = false) (hfail : s.onF F.clkXtal_fail = false) :
    ∃ u, opSteadingBoot true now s.begin = u ∧ FirstBooted (s.begin.at_ now) u := by
  refine ⟨_, opSteadingBoot_eq (s := s.begin) hl hh hd, ?_⟩
  rw [if_neg (by decide), show s.begin.start.bootDone = false from hb, if_neg (by decide)]
  exact firstBooted (s := s.begin.at_ now) now hstable hfail

theorem steadingBoot_later {s : State} {now : Nat} (hl : s.start.loading = false) (hh : s.heldInReset = false) (hd : s.start.steadingDown = true)
    (hb : s.start.bootDone = true) : opSteadingBoot true now s.begin = (s.begin.at_ now).laterBoot now := by
  refine (opSteadingBoot_eq (s := s.begin) hl hh hd).trans ?_
  rw [if_neg (by decide), show s.begin.start.bootDone = true from hb, if_pos rfl]

theorem steadingBoot_again {s : State} {now : Nat} (hl : s.start.loading = false) (hh : s.heldInReset = false) (hd : s.start.steadingDown = true)
    (hb : s.start.bootDone = true) (hc : s.start.configured = true) (hn : s.getF F.stdBoot_stage ≠ 8) {code : Nat}
    (hcode : code = s.verifyImage s.flashSrc (some s.minSvn) false) : completes (.steadingBoot true now) s (fun t =>
      t.start.steadingDown = false ∧ t.stdBuf = [] ∧ t.onF F.rstStd_restart = false ∧ t.minSvn = s.minSvn ∧ t.otp = s.otp ∧
      (code = 0 → t.getF F.stdBoot_stage = s.getF F.stdBoot_stage ∧ t.start = { s.start with steadingDown := false } ∧
        t.tick = s.tick ∧ t.ctl = s.ctl ∧ sameMemories s t) ∧
      (code ≠ 0 → t.getF F.stdBoot_stage = 8 ∧ t.getF F.stdBoot_fail = code ∧ t.tick.running = false)) := by
  have heq := (steadingBoot_later hl hh hd hb (now := now)).trans (laterBoot_spec (s := s.begin.at_ now) now hc hn)
  have hv : (s.begin.at_ now).verifyImage (s.begin.at_ now).flashSrc (some (s.begin.at_ now).minSvn) false = code := hcode.symm
  have hlt : code < 256 := hcode ▸ Nat.lt_of_le_of_lt (verifyImage_le _ _ _ _) (by decide)
  rw [hv] at heq
  clear hv hcode
  by_cases h : code ≠ 0
  · rw [if_pos h] at heq
    have hr := inRecovery_goRecovery (s.begin.at_ now) hlt
    generalize (s.begin.at_ now).goRecovery code = u at hr heq
    exact completes_of_eq (f := opSteadingBoot true now) rfl heq ⟨hr.up, hr.taken, hr.restarted, hr.minSvn, hr.otp, fun h0 => absurd h0 h,
      fun _ => ⟨hr.stage, hr.fail, hr.stopped⟩⟩
  · rw [if_neg h] at heq
    have hr := upAgain_steadingUp (s.begin.at_ now)
    generalize (s.begin.at_ now).steadingUp = u at hr heq
    exact completes_of_eq (f := opSteadingBoot true now) rfl heq ⟨congrArg Start.steadingDown hr.start, hr.taken, hr.restarted, hr.minSvn,
      hr.memories.2.2.2.1, fun _ => ⟨hr.stage, hr.start, hr.tick, hr.ctl, hr.memories⟩, fun h' => absurd h' h⟩

theorem steadingBoot_recovered {s : State} {now : Nat} (hl : s.start.loading = false) (hh : s.heldInReset = false)
    (hd : s.start.steadingDown = true) (hb : s.start.bootDone = true) (h8 : s.getF F.stdBoot_stage = 8) :
    completes (.steadingBoot true now) s (fun t =>
      t.start = { s.start with steadingDown := false } ∧ t.stdBuf = [] ∧ t.onF F.rstStd_restart = false ∧
      t.getF F.stdBoot_stage = 8 ∧ t.ctl = s.ctl ∧ sameMemories s t) := by
  have heq := (steadingBoot_later hl hh hd hb (now := now)).trans (laterBoot_recovered (s := s.begin.at_ now) now h8)
  have hr := upAgain_steadingUp (s.begin.at_ now)
  generalize (s.begin.at_ now).steadingUp = u at hr heq
  exact completes_of_eq (f := opSteadingBoot true now) rfl heq ⟨hr.start, hr.taken, hr.restarted, hr.stage.trans h8, hr.ctl, hr.memories⟩

/-! ## The broadcast (R433, R434) -/

theorem segSent_noteFrame (s : State) (f : Frame) : (s.noteFrame f).segSent f.seq.toNat = some f.targets := by
  have h : tget 0 (s.noteFrame f).start.sentSegs f.seq.toNat = f.targets.toNat + 1 := tget_tput_same ..
  unfold State.segSent
  extract_lets v
  have hv : v = f.targets.toNat + 1 := h
  rw [hv, if_neg (Nat.succ_ne_zero _), Nat.add_sub_cancel, BitVec.ofNat_toNat, BitVec.setWidth_eq]

/-- A target keeps the segment of a frame. -/
def State.keepSegment (s : State) (n : Nat) (f : Frame) : State :=
  { s with
    seqStores := tmod [] s.seqStores n (fun m => mblock m f.storeOff.toNat (slice f.payload 0 4096))
    start := { s.start with gotSegs := tmod [] s.start.gotSegs n (fun l => if l.contains f.seq.toNat then l else l ++ [f.seq.toNat]) } }

theorem opFrame_eq (tg : Target) (f : Frame) (s : State) : opFrame tg f s =
    if s.getF F.stdBoot_stage != 3 || !s.start.configured || !s.frameSent f then s
    else if !s.targetOn tg || !targetNamed tg f.targets || shake256 (slice f.payload 0 4096) 32 != slice f.digest 0 32 then s.noteFrame f
    else (s.noteFrame f).keepSegment (targetNo tg) f := rfl

theorem opFrame_idle {tg : Target} {f : Frame} {s : State}
    (h : s.getF F.stdBoot_stage ≠ 3 ∨ s.start.configured = false ∨ s.frameSent f = false) : opFrame tg f s = s := by
  rw [opFrame_eq]
  refine if_pos ?_
  rcases h with h | h | h
  · rw [bne_iff_ne.mpr h]
    rfl
  · rw [h, Bool.not_false, Bool.or_true]
    rfl
  · rw [h, Bool.not_false, Bool.or_true]

theorem opFrame_sent {tg : Target} {f : Frame} {s : State} (h3 : s.getF F.stdBoot_stage = 3) (hc : s.start.configured = true)
    (hf : s.frameSent f = true) : opFrame tg f s =
      if !s.targetOn tg || !targetNamed tg f.targets || shake256 (slice f.payload 0 4096) 32 != slice f.digest 0 32 then s.noteFrame f
      else (s.noteFrame f).keepSegment (targetNo tg) f := by
  rw [opFrame_eq, if_neg]
  rw [h3, hc, hf]
  decide

theorem opFrame_passes {tg : Target} {f : Frame} {s : State} (h3 : s.getF F.stdBoot_stage = 3) (hc : s.start.configured = true)
    (hf : s.frameSent f = true)
    (h : s.targetOn tg = false ∨ targetNamed tg f.targets = false ∨ shake256 (slice f.payload 0 4096) 32 ≠ slice f.digest 0 32) :
    opFrame tg f s = s.noteFrame f := by
  rw [opFrame_sent h3 hc hf]
  refine if_pos ?_
  rcases h with h | h | h
  · rw [h]
    rfl
  · rw [h, Bool.not_false, Bool.or_true]
    rfl
  · rw [bne_iff_ne.mpr h, Bool.or_true]

theorem opFrame_kept {tg : Target} {f : Frame} {s : State} (h3 : s.getF F.stdBoot_stage = 3) (hc : s.start.configured = true)
    (hf : s.frameSent f = true) (hon : s.targetOn tg = true) (hn : targetNamed tg f.targets = true)
    (hd : shake256 (slice f.payload 0 4096) 32 = slice f.digest 0 32) : opFrame tg f s = (s.noteFrame f).keepSegment (targetNo tg) f := by
  rw [opFrame_sent h3 hc hf, hon, hn, hd, bne_self_eq_false]
  rfl

theorem keepSegment_spec (s : State) (n : Nat) (f : Frame) :
    f.seq.toNat ∈ tget [] (s.keepSegment n f).start.gotSegs n ∧
    mread (tget [] (s.keepSegment n f).seqStores n) f.storeOff.toNat 4096 = slice f.payload 0 4096 ∧
    ∀ k, k ≠ n → tget [] (s.keepSegment n f).seqStores k = tget [] s.seqStores k ∧
      tget [] (s.keepSegment n f).start.gotSegs k = tget [] s.start.gotSegs k := by
  refine ⟨?_, ?_, fun k hk => ⟨tget_tput_ne _ _ _ _ (Ne.symm hk), tget_tput_ne _ _ _ _ (Ne.symm hk)⟩⟩
  · unfold State.keepSegment tmod
    rw [tget_tput_same]
    dsimp only
    split
    · next h => exact List.contains_iff_mem.mp h
    · exact List.mem_append_right _ (List.mem_singleton.mpr rfl)
  · have hb := length_slice f.payload 0 4096
    unfold State.keepSegment tmod
    generalize slice f.payload 0 4096 = b at hb ⊢
    rw [tget_tput_same, ← hb]
    exact mread_mblock _ _ _

/-- A target that asks is answered in a round of its own. -/
theorem opSegments_asked {tg : Target} {missing : List Nat} {s : State} {lack : List Nat}
    (hlack : lack = missing.filter (fun k => decide (k < s.start.segCount) && !(tget [] s.start.gotSegs (targetNo tg)).contains k))
    (h3 : s.getF F.stdBoot_stage = 3) (hc : s.start.configured = true) (hon : s.targetOn tg = true) (hl : lack ≠ [])
    (hd : s.start.steadingDown = false) (hr : tget 0 s.start.asked (targetNo tg) < 3) : opSegments tg missing s =
      { s with start := { s.start with asked := tmod 0 s.start.asked (targetNo tg) (fun k => k + 1) }, out := s.out ++ lack.map (Output.frame tg) } := by
  unfold opSegments
  extract_lets -merge +onlyGivenNames n l
  have hll : l = lack := hlack.symm
  rw [hll, if_neg, if_pos hr, foldl_send]
  rw [h3, hc, hon, hd, List.isEmpty_eq_false_iff.mpr hl]
  decide

theorem opSegments_idle {tg : Target} {missing : List Nat} {s : State} {lack : List Nat}
    (hlack : lack = missing.filter (fun k => decide (k < s.start.segCount) && !(tget [] s.start.gotSegs (targetNo tg)).contains k))
    (h : s.getF F.stdBoot_stage ≠ 3 ∨ s.start.configured = false ∨ s.targetOn tg = false ∨ lack = [] ∨ s.start.steadingDown = true) :
    opSegments tg missing s = s := by
  unfold opSegments
  extract_lets -merge +onlyGivenNames n l
  have hll : l = lack := hlack.symm
  rw [hll]
  refine if_pos ?_
  rcases h with h | h | h | h | h
  · rw [bne_iff_ne.mpr h]
    rfl
  · rw [h, Bool.not_false, Bool.or_true]
    rfl
  · rw [h, Bool.not_false, Bool.or_true]
    rfl
  · rw [h, List.isEmpty_nil, Bool.or_true]
    rfl
  · rw [h, Bool.or_true]

/-! ## What has gone out and the time are not looked at -/

theorem factoryOk_at (s : State) (o : List Output) (n : Nat) : ({ s with out := o, now := n } : State).factoryOk = s.factoryOk := rfl

theorem disabled_at (s : State) (o : List Output) (n c : Nat) : ({ s with out := o, now := n } : State).disabled c = s.disabled c := by
  unfold State.disabled
  simp only [factoryOk_at]

theorem targetOn_at (s : State) (o : List Output) (n : Nat) (t : Target) : ({ s with out := o, now := n } : State).targetOn t = s.targetOn t := by
  unfold State.targetOn
  cases t with
  | cell c => simp only [disabled_at]
  | controller c => rfl

theorem targetGone_at (s : State) (o : List Output) (n : Nat) (t : Target) : ({ s with out := o, now := n } : State).targetGone t = s.targetGone t := by
  cases t with
  | cell c => rfl
  | controller c => rfl

theorem targetHas_at (s : State) (o : List Output) (n : Nat) (t : Target) : ({ s with out := o, now := n } : State).targetHas t = s.targetHas t := rfl

theorem segSent_at (s : State) (o : List Output) (n : Nat) (t : Nat) : ({ s with out := o, now := n } : State).segSent t = s.segSent t := rfl

theorem getF_at (s : State) (o : List Output) (n : Nat) (f : Fld) (i : Nat) : ({ s with out := o, now := n } : State).getF f i = s.getF f i := rfl

theorem keyTrusted_at (s : State) (o : List Output) (n : Nat) (h : List Byte) :
    ({ s with out := o, now := n } : State).keyTrusted h = s.keyTrusted h := rfl

theorem confirmed_at (s : State) (o : List Output) (n : Nat) (k : List Byte) :
    ({ s with out := o, now := n } : State).confirmed k = s.confirmed k := rfl

theorem genBlock_at (s : State) (o : List Output) (n g : Nat) : ({ s with out := o, now := n } : State).genBlock g = s.genBlock g := rfl

theorem flashSrc_at (s : State) (o : List Output) (n : Nat) : ({ s with out := o, now := n } : State).flashSrc = s.flashSrc := rfl

theorem verifyImage_at (s : State) (o : List Output) (n : Nat) : ({ s with out := o, now := n } : State).verifyImage = s.verifyImage := rfl

theorem bootGen_at (s : State) (o : List Output) (n : Nat) : ({ s with out := o, now := n } : State).bootGen = s.bootGen := by
  unfold State.bootGen
  rw [flashSrc_at, keyTrusted_at, confirmed_at]

theorem bootCode_at (s : State) (o : List Output) (n : Nat) : ({ s with out := o, now := n } : State).bootCode = s.bootCode := by
  simp only [State.bootCode, verifyImage_at, genBlock_at, bootGen_at, flashSrc_at]

theorem tableSeg_at (s : State) (o : List Output) (n k : Nat) : ({ s with out := o, now := n } : State).tableSeg k = s.tableSeg k := by
  simp only [State.tableSeg, flashSrc_at]

theorem frameSent_at (s : State) (o : List Output) (n : Nat) (f : Frame) :
    ({ s with out := o, now := n } : State).frameSent f = s.frameSent f := by
  simp only [State.frameSent, segSent_at, tableSeg_at]

theorem stage3Done_at (s : State) (o : List Output) (n : Nat) : ({ s with out := o, now := n } : State).stage3Done = s.stage3Done := by
  simp only [State.stage3Done, targetOn_at, targetGone_at, targetHas_at, segSent_at, getF_at]

theorem stage5Done_at (s : State) (o : List Output) (n : Nat) : ({ s with out := o, now := n } : State).stage5Done = s.stage5Done := rfl

theorem startGoes_at (s : State) (o : List Output) (n : Nat) : ({ s with out := o, now := n } : State).startGoes = s.startGoes := rfl

/-! ## The heating of the full test (R439) -/

theorem opHeating_spec {k : Nat} {r : Int} {s : State} (hg : s.startGoes = true) (ht : s.start.memTested = false) (h3 : s.stage3Done = true)
    (h2 : s.getF F.stdBoot_start ≠ 2) : ∃ u, opHeating k r s.begin = u ∧ u.getF F.stdBoot_stage = 4 ∧ u.onF F.stdBoot_cool = true ∧
      eventPath ([regKey R.stdBoot 0] ++ [regKey R.hstEvqStat 0, regKey R.stdBootRet 0]) s.begin u := by
  obtain ⟨v, hv⟩ : ∃ v, v = (s.begin.putF F.stdBoot_stage 0 4).putF F.stdBoot_cool 0 1 := ⟨_, rfl⟩
  have hcool : v.getF F.stdBoot_cool = 1 := by
    rw [hv]
    exact getF_putF_same _ F.stdBoot_cool 0 1 (by decide)
  have hstage : v.getF F.stdBoot_stage = 4 := by
    rw [hv]
    exact (getF_putF_apart _ F.stdBoot_cool F.stdBoot_stage 0 1 rfl (by decide)).trans (getF_putF_same _ F.stdBoot_stage 0 4 (by decide))
  have hpath : eventPath ([regKey R.stdBoot 0] ++ [regKey R.hstEvqStat 0, regKey R.stdBootRet 0]) s.begin v := by
    rw [hv]
    exact eventPath_trans _ _ _ (eventPath_putF F.stdBoot_stage 0 4 List.mem_cons_self) (eventPath_putF F.stdBoot_cool 0 1 List.mem_cons_self)
  refine ⟨v.raise 0x05 3 k (tempArg r), ?_, (getF_raise v _ _ _ _ _ _ 0 (by decide) (by decide)).trans hstage,
    onF_of_bit (b := true) ((getF_raise v _ _ _ _ _ _ 0 (by decide) (by decide)).trans hcool),
    eventPath_trans _ _ _ hpath (eventPath_raise _ _ _ _ _ (by simp) (by simp))⟩
  have hdone : s.begin.stage3Done = true := (stage3Done_at s [] s.now).trans h3
  unfold opHeating
  rw [if_neg, hv]
  rw [show s.begin.startGoes = true from hg, show s.begin.start.memTested = false from ht, hdone,
    show (s.begin.getF F.stdBoot_start == 2) = false from beq_false_of_ne h2]
  decide

theorem opHeating_idle {k : Nat} {r : Int} {s : State}
    (h : s.startGoes = false ∨ s.start.memTested = true ∨ s.stage3Done = false ∨ s.getF F.stdBoot_start = 2) : opHeating k r s = s := by
  unfold opHeating
  refine if_pos ?_
  rcases h with h | h | h | h
  · rw [h]
    rfl
  · rw [h, Bool.or_true]
    rfl
  · rw [h, Bool.not_false, Bool.or_true]
    rfl
  · rw [h, beq_self_eq_true, Bool.or_true]

/-! ## The tests of a start leave the fuses and the account of the start -/

section
variable {s0 : State}

theorem SameTime.wiresNow {s : State} (hs : SameTime s0 s) {c : Nat} : SameTime s0 (s.wiresNow c) := by
  unfold State.wiresNow
  extract_lets -merge +onlyGivenNames ws s1
  have h1 : SameTime s0 s1 := .foldl (fun _ _ h => .assignBond h) (.works hs (.modChan .same))
  split
  · exact .retireNow h1
  · exact .ite (.narrowChannel h1) h1

theorem SameTime.trainedNow {s : State} (hs : SameTime s0 s) {c : Nat} {wires : List Nat} {now : Nat} : SameTime s0 (s.trainedNow c wires now) := by
  unfold State.trainedNow
  extract_lets -merge +onlyGivenNames temps dur s1 s2 s3 s4 s5 s6
  have h2 : SameTime s0 s2 := .putF (.putF (.upd hs))
  clear_value s2 dur
  have h3 : SameTime s0 s3 := .putF (.modChan h2)
  have h4 : SameTime s0 s4 := .works h3 (.foldl (fun _ _ h1 => .failWire h1) .same)
  have h5 : SameTime s0 s5 := .wiresNow h4
  exact .works h5 (.showRefresh (.putF (.putF (.modChan .same))))

theorem SameTime.repairRow {s : State} (hs : SameTime s0 s) {c : Nat} {r : Nat × Nat} : SameTime s0 (s.repairRow c r) := by
  unfold State.repairRow
  extract_lets -merge +onlyGivenNames x used
  refine .ite hs ?_
  split
  · exact .works hs (.bump (.setChan .same))
  · exact .retireNow (.works hs (.nextFree .same))

theorem SameTime.testChannel {s : State} (hs : SameTime s0 s) {full : Bool} {now : Nat} {t : ChanTest} :
    SameTime s0 (s.testChannel full now t) := by
  unfold State.testChannel
  extract_lets -merge +onlyGivenNames c
  refine .ite hs ?_
  split
  exact .foldl (fun _ _ h => .repairRow h) (.trainedNow (.putF (.modChan hs)))

theorem SameTime.loseWord {s : State} (hs : SameTime s0 s) {c w : Nat} : SameTime s0 (s.loseWord c w) :=
  .works hs (.ite (.setChan .same) (.ite .same (.raise (.setChan .same))))

theorem SameTime.decay {s : State} (hs : SameTime s0 s) {c : Nat} {ws : List (Nat × Nat)} : SameTime s0 (s.decay c ws) :=
  .foldl (fun _ _ h => .upd h) hs

theorem SameTime.resumeChannel {s : State} (hs : SameTime s0 s) {now : Nat} {t : ChanTest} : SameTime s0 (s.resumeChannel now t) := by
  unfold State.resumeChannel
  extract_lets -merge +onlyGivenNames c s1 ws s2
  have h1 : SameTime s0 s1 := .decay (.bump (.trainedNow hs))
  have h2 : SameTime s0 s2 := .foldl (fun _ _ h => .works h (.upd (.corrected .same))) h1
  exact .ite hs (.ite (.retireNow hs) (.foldl (fun _ _ h => .loseWord h) h2))

theorem SameTime.keepResumed {s : State} (hs : SameTime s0 s) : SameTime s0 s.keepResumed :=
  .raise (.putF (.putF (.putF (.upd hs))))

theorem SameTime.writeRecord {s : State} (hs : SameTime s0 s) {now : Nat} : SameTime s0 (s.writeRecord now) := by
  unfold State.writeRecord
  split
  exact .upd (.ite (.upd hs) hs)

theorem SameTime.routerTests {s : State} (hs : SameTime s0 s) {ts : List ChanTest} : SameTime s0 (s.routerTests ts) :=
  .foldl (fun _ _ h => .moveStage (.retireCell h)) hs
end

/-! ## What the tests of the cells leave -/

/-- The registers that the tests of the cells write, beside the degradation of the start. -/
def testRegs : List Reg := availRegs ++ [R.shfCap, R.shfErrsum, R.shfStatus, R.hstQstat, R.hstEvqStat, R.stdBootRet, R.celTick]

/-- A cell's test may set what the program, the queues and the events hold, but no cell. -/
def testPath (s t : State) : Prop :=
  (∃ regs hostMem msix i3c stdBuf logPend out heldCq wroteCq ctl autos, t = { s with
    regs := regs, hostMem := hostMem, msix := msix, i3c := i3c, stdBuf := stdBuf, logPend := logPend, out := out, heldCq := heldCq
    wroteCq := wroteCq, ctl := ctl, autos := autos }) ∧ regsIn (R.stdBoot :: testRegs) s t ∧ t.getF F.stdBoot_stage = s.getF F.stdBoot_stage

theorem testPath_refl (s : State) : testPath s s := ⟨⟨_, _, _, _, _, _, _, _, _, _, _, rfl⟩, regsIn_refl _ s, rfl⟩

theorem testPath_trans (s t u : State) (h : testPath s t) (h' : testPath t u) : testPath s u := by
  obtain ⟨⟨_, _, _, _, _, _, _, _, _, _, _, rfl⟩, hr, hs⟩ := h
  obtain ⟨⟨_, _, _, _, _, _, _, _, _, _, _, rfl⟩, hr', hs'⟩ := h'
  exact ⟨⟨_, _, _, _, _, _, _, _, _, _, _, rfl⟩, regsIn_trans hr hr', hs'.trans hs⟩

theorem testPath_ite {s t u : State} {c : Prop} [Decidable c] (h : testPath s t) (h' : testPath s u) : testPath s (if c then t else u) := by
  split
  · exact h
  · exact h'

theorem testPath_foldl {α : Type} {g : State → α → State} (hg : ∀ s a, testPath s (g s a)) (l : List α) (s : State) :
    testPath s (l.foldl g s) := foldl_rel testPath_refl testPath_trans hg l s

theorem testRegs_ne_stdBoot : ∀ r ∈ testRegs, r.off / 8 ≠ R.stdBoot.off / 8 := by decide

theorem testPath_setReg (s : State) (r : Reg) (i : Nat) (w : Word) (hr : r ∈ testRegs) : testPath s (s.setReg r i w) := by
  have hregs := regsIn_setReg (D := [r]) s r i w List.mem_cons_self
  refine ⟨⟨_, _, _, _, _, _, _, _, _, _, _, rfl⟩, regsIn_setReg s r i w (List.mem_cons_of_mem _ hr), getF_of_regsIn hregs ?_ 0⟩
  intro q hq
  rw [List.mem_singleton.mp hq]
  exact (testRegs_ne_stdBoot r hr).symm

theorem testPath_putF (s : State) (f : Fld) (i v : Nat) (hf : f.reg ∈ testRegs) : testPath s (s.putF f i v) := testPath_setReg s f.reg i _ hf

theorem testPath_raise (s : State) (code cls idx : Nat) (arg : Word) (payload : List Byte) : testPath s (s.raise code cls idx arg payload) := by
  obtain ⟨⟨_, _, _, _, _, _, _, h⟩, hr⟩ := eventPath_raise (ks := [regKey R.hstEvqStat 0, regKey R.stdBootRet 0]) (s := s)
    code cls idx arg payload (by simp) (by simp)
  refine ⟨⟨_, _, _, _, _, _, _, _, _, _, _, h⟩, regsIn_of_sameRegs hr ?_, getF_raise s _ _ _ _ _ _ 0 (by decide) (by decide)⟩
  intro k hk
  simp only [List.mem_cons, List.not_mem_nil, or_false] at hk
  rcases hk with rfl | rfl
  · exact ⟨R.hstEvqStat, by decide, regKey_div _ _⟩
  · exact ⟨R.stdBootRet, by decide, regKey_div _ _⟩

theorem testPath_countInStart (s : State) (f : Fld) (hf : f.reg ∈ testRegs) : testPath s (s.countInStart f) := by
  have hdegraded : ∀ u : State, testPath u (u.putF F.stdBoot_degraded 0 1) := fun u =>
    ⟨⟨_, _, _, _, _, _, _, _, _, _, _, rfl⟩, regsIn_putF u F.stdBoot_degraded 0 1 List.mem_cons_self,
      getF_putF_apart u F.stdBoot_degraded F.stdBoot_stage 0 1 rfl (by decide)⟩
  exact testPath_ite (testPath_trans _ _ _ (testPath_putF s f 0 _ hf) (hdegraded _)) (testPath_refl s)

/-! ### A stream that fails meanwhile -/

theorem testPath_unreserve (s : State) (q n : Nat) : testPath s (s.unreserve q n) := testPath_putF s F.hstQstat_reserved_cq q _ (by decide)

theorem testPath_putCq (s : State) (q : Nat) (b : List Byte) : testPath s (s.putCq q b) := by
  have h : ∀ m w v, testPath s (({ s.unreserve q 1 with hostMem := m, wroteCq := w } : State).putF F.hstQstat_cq_tail q v) := fun m w v =>
    testPath_trans _ _ _ (testPath_unreserve s q 1) (testPath_trans _ _ _ ⟨⟨_, _, _, _, _, _, _, _, _, _, _, rfl⟩, regsIn_of_regs rfl, rfl⟩
      (testPath_putF _ F.hstQstat_cq_tail q v (by decide)))
  exact testPath_ite (testPath_trans _ _ _ (h _ _ _) (testPath_putF _ F.hstQstat_phase q _ (by decide))) (h _ _ _)

theorem testPath_writeCq (s : State) (q : Nat) (e : Cqe) : testPath s (s.writeCq q e) :=
  testPath_ite ⟨⟨_, _, _, _, _, _, _, _, _, _, _, rfl⟩, regsIn_of_regs rfl, rfl⟩ (testPath_ite (testPath_putCq ..) (testPath_unreserve ..))

theorem testPath_streamEntry (s : State) (i : Nat) (e : Cqe) : testPath s (s.streamEntry i e) :=
  testPath_ite (testPath_unreserve ..) (testPath_writeCq ..)

theorem testPath_endFeed (s : State) (i : Nat) (f : Feed) (st : Nat) : testPath s (s.endFeed i f st) :=
  testPath_ite (testPath_unreserve ..) (testPath_writeCq ..)

theorem testPath_modStream (s : State) (i : Nat) (f : Stream → Stream) : testPath s (s.modStream i f) :=
  ⟨⟨_, _, _, _, _, _, _, _, _, _, _, rfl⟩, regsIn_of_regs rfl, rfl⟩

theorem testPath_dropFeeds (s : State) (i : Nat) : testPath s (s.dropFeeds i) :=
  testPath_trans _ _ _ (testPath_foldl (fun s f => testPath_endFeed s i f 9) (s.stream i).feeds s) (testPath_modStream _ i (fun t => { t with feeds := [] }))

theorem testPath_dropTokenReservation (s : State) (i : Nat) : testPath s (s.dropTokenReservation i) :=
  testPath_ite (testPath_trans _ _ _ (testPath_unreserve ..) (testPath_modStream ..)) (testPath_refl s)

theorem testPath_endStream (s : State) (i st : Nat) : testPath s (s.endStream i st) := by
  unfold State.endStream
  extract_lets -merge +onlyGivenNames t s1 e s2
  have h1 : testPath s s1 := testPath_dropTokenReservation s i
  have h2 : testPath s1 s2 := testPath_ite (testPath_streamEntry ..) (testPath_refl s1)
  exact testPath_ite (testPath_refl s) (testPath_trans _ _ _ (testPath_trans _ _ _ h1 h2) (testPath_modStream s2 i _))

theorem testPath_signalCq (s : State) (q : Nat) : testPath s (s.signalCq q) := by
  have hsignal : ∀ (u : State) (fn vec : Nat), testPath u (u.signal fn vec) := fun u fn vec =>
    testPath_ite ⟨⟨_, _, _, _, _, _, _, _, _, _, _, rfl⟩, regsIn_of_regs rfl, rfl⟩ ⟨⟨_, _, _, _, _, _, _, _, _, _, _, rfl⟩, regsIn_of_regs rfl, rfl⟩
  exact testPath_trans s { s with wroteCq := s.wroteCq.filter (fun x => x != q) } _
    ⟨⟨_, _, _, _, _, _, _, _, _, _, _, rfl⟩, regsIn_of_regs rfl, rfl⟩ (hsignal _ _ _)

theorem testPath_failStream (s : State) (i st : Nat) (b : Bool) : testPath s (s.failStream i st b) := by
  unfold State.failStream
  extract_lets -merge +onlyGivenNames t s1
  have h1 : testPath s s1 := testPath_trans _ _ _ (testPath_endStream ..) (testPath_dropFeeds ..)
  exact testPath_ite (testPath_refl s) (testPath_trans _ _ _ h1 (testPath_ite (testPath_signalCq ..) (testPath_refl s1)))

theorem testPath_moveStage (s : State) (c : Nat) : testPath s (s.moveStage c) := by
  unfold State.moveStage
  split
  · exact testPath_refl s
  · split
    · exact ⟨⟨_, _, _, _, _, _, _, _, _, _, _, rfl⟩, regsIn_of_regs rfl, rfl⟩
    · exact testPath_trans _ _ _ (testPath_putF _ F.shfStatus_state _ _ (by decide)) (testPath_foldl (fun s i => testPath_failStream ..) ..)

/-! ### A cell that is retired or returns -/

/-- The retirement of a cell as its own entry shows it. -/
def State.markRetired (s : State) (c reason : Nat) : State :=
  if (s.cell c).retired then s else s.modCell c (fun x => { x with retired := true, stuckSram := false, why := reason })

theorem testPath_setUsable (s : State) (c : Nat) (b : Bool) : testPath s (s.setUsable c b) :=
  testPath_setReg s (availReg c) 0 _ (List.mem_append_left _ (availReg_mem c))

theorem testPath_retireCell (s : State) (c reason : Nat) : testPath (s.markRetired c reason) (s.retireCell c reason) := by
  unfold State.markRetired State.retireCell
  split
  · exact testPath_refl s
  · extract_lets -merge +onlyGivenNames was s1 s2
    have h1 : testPath (s.modCell c (fun x => { x with retired := true, stuckSram := false, why := reason })) s1 := testPath_setUsable ..
    have h2 : testPath s1 s2 := testPath_trans _ _ _ (testPath_foldl (fun s i => testPath_putF s F.shfCap_degraded i 1 (by decide)) ..)
      (testPath_foldl (fun s i => testPath_putF s F.shfErrsum_sources i _ (by decide)) ..)
    exact testPath_trans _ _ _ (testPath_trans _ _ _ h1 h2) (testPath_ite
      (testPath_trans _ _ _ (testPath_countInStart s2 F.stdBootRet_cells (by decide)) (testPath_raise ..)) (testPath_refl s2))

theorem markRetired_spec (s : State) (c reason : Nat) : (∃ cells, s.markRetired c reason = { s with cells := cells }) ∧
    ((s.markRetired c reason).cell c).retired = true ∧ ∀ k, k ≠ c → (s.markRetired c reason).cell k = s.cell k := by
  unfold State.markRetired
  split
  · next h => exact ⟨⟨_, rfl⟩, h, fun k _ => rfl⟩
  · refine ⟨⟨_, rfl⟩, ?_, fun k hk => cell_modCell_ne s _ (Ne.symm hk)⟩
    rw [cell_modCell_same]

theorem returnCell_spec (s : State) (c : Nat) : ∃ v : State, (∃ cells, v = { s with cells := cells }) ∧ (∀ k, k ≠ c → v.cell k = s.cell k) ∧
    testPath v (s.returnCell c) := by
  unfold State.returnCell
  extract_lets x
  split
  · exact ⟨s.setCell c { x with retired := false, demoted := false, why := 0 }, ⟨_, rfl⟩, fun k hk => cell_setCell_ne s _ (Ne.symm hk),
      testPath_trans _ _ _ (testPath_setUsable ..) (testPath_putF _ F.celTick_demoted c 0 (by decide))⟩
  · exact ⟨s, ⟨_, rfl⟩, fun k _ => rfl, testPath_refl s⟩

/-- The test of one cell. -/
def State.testCell (fails : List Nat) (s : State) (c : Nat) : State :=
  if fails.contains c then (s.retireCell c 0).moveStage c else s.returnCell c

theorem testCell_spec (fails : List Nat) (s : State) (c : Nat) : ∃ v : State, (∃ cells, v = { s with cells := cells }) ∧
    (∀ k, k ≠ c → v.cell k = s.cell k) ∧ (c ∈ fails → (v.cell c).retired = true) ∧ testPath v (s.testCell fails c) := by
  unfold State.testCell
  by_cases h : fails.contains c = true
  · rw [if_pos h]
    obtain ⟨hframe, hc, hk⟩ := markRetired_spec s c 0
    exact ⟨_, hframe, hk, fun _ => hc, testPath_trans _ _ _ (testPath_retireCell ..) (testPath_moveStage ..)⟩
  · rw [if_neg h]
    obtain ⟨v, hframe, hk, hv⟩ := returnCell_spec s c
    exact ⟨v, hframe, hk, fun hm => absurd (List.contains_iff_mem.mpr hm) h, hv⟩

theorem cell_of_testPath {s t : State} (h : testPath s t) (k : Nat) : t.cell k = s.cell k := by
  obtain ⟨⟨_, _, _, _, _, _, _, _, _, _, _, rfl⟩, -⟩ := h
  rfl

/-- What the tests of the cells leave: the cells may differ too. -/
def tested (fails : List Nat) (s t : State) : Prop :=
  testPath { s with cells := t.cells } t ∧ ∀ k ∈ fails, (s.cell k).retired = true → (t.cell k).retired = true

theorem tested_refl (fails : List Nat) (s : State) : tested fails s s := ⟨testPath_refl s, fun _ _ h => h⟩

theorem tested_trans (fails : List Nat) (s t u : State) (h : tested fails s t) (h' : tested fails t u) : tested fails s u := by
  obtain ⟨⟨⟨_, _, _, _, _, _, _, _, _, _, _, ht⟩, hr, hs⟩, hk⟩ := h
  obtain ⟨⟨⟨_, _, _, _, _, _, _, _, _, _, _, hu⟩, hr', hs'⟩, hk'⟩ := h'
  exact ⟨⟨⟨_, _, _, _, _, _, _, _, _, _, _, by rw [hu, ht]⟩, regsIn_trans (t := t) hr hr', hs'.trans hs⟩, fun k hm hret => hk' k hm (hk k hm hret)⟩

theorem tested_testCell (fails : List Nat) (s : State) (c : Nat) : tested fails s (s.testCell fails c) := by
  obtain ⟨v, ⟨cells, rfl⟩, hk, hc, hv⟩ := testCell_spec fails s c
  have hcells : (s.testCell fails c).cells = cells := by
    obtain ⟨⟨_, _, _, _, _, _, _, _, _, _, _, h⟩, -⟩ := hv
    rw [h]
  refine ⟨by rwa [hcells], fun k hm hret => ?_⟩
  rw [cell_of_testPath hv k]
  by_cases h : k = c
  · subst h
    exact hc hm
  · rw [hk k h]
    exact hret

theorem retired_of_testCells (fails l : List Nat) (s : State) {c : Nat} (hl : c ∈ l) (hc : c ∈ fails) :
    ((l.foldl (State.testCell fails) s).cell c).retired = true := by
  obtain ⟨a, b, rfl⟩ := List.append_of_mem hl
  rw [List.foldl_append, List.foldl_cons]
  obtain ⟨-, hkeep⟩ := foldl_rel (tested_refl fails) (tested_trans fails) (tested_testCell fails) b ((a.foldl (State.testCell fails) s).testCell fails c)
  obtain ⟨v, -, -, hret, hv⟩ := testCell_spec fails (a.foldl (State.testCell fails) s) c
  refine hkeep c hc ?_
  rw [cell_of_testPath hv c]
  exact hret hc

/-! ## The part becomes ready (R447) -/

theorem stage5Done_congr {D : List Reg} {s u : State} (hring : u.ring = s.ring) (hregs : regsIn D s u)
    (hD : ∀ q ∈ D, R.lnkRing.off / 8 ≠ q.off / 8 ∧ R.lnkStat.off / 8 ≠ q.off / 8) : u.stage5Done = s.stage5Done := by
  have hrow : u.getF F.lnkRing_row_len = s.getF F.lnkRing_row_len := getF_of_regsIn hregs (fun q hq => (hD q hq).1) 0
  have hcol : u.getF F.lnkRing_col_len = s.getF F.lnkRing_col_len := getF_of_regsIn hregs (fun q hq => (hD q hq).1) 0
  have hlnk : ∀ p, u.lnk p = s.lnk p := fun p => getF_of_regsIn hregs (fun q hq => (hD q hq).2) p
  simp only [State.stage5Done, hring, hrow, hcol, hlnk]

/-- The registers in which a part shows that it is ready. -/
def readyRegs : List Reg := [R.shfCap, R.stdBoot, R.hstEvqStat, R.stdBootRet]

/-- What a part that becomes ready may change. -/
def readyPath (s t : State) : Prop :=
  (∃ regs hostMem msix i3c stdBuf logPend out, t = { s with
    regs := regs, hostMem := hostMem, msix := msix, i3c := i3c, stdBuf := stdBuf, logPend := logPend, out := out }) ∧ regsIn readyRegs s t

theorem becomeReady_waits {s : State} (h : s.start.memTested = false ∨ s.start.cellsTested = false ∨ s.stage5Done = false) : s.becomeReady = s := by
  unfold State.becomeReady
  refine if_pos ?_
  rcases h with h | h | h
  · rw [h]
    rfl
  · rw [h, Bool.not_false, Bool.or_true]
    rfl
  · rw [h, Bool.not_false, Bool.or_true]
    rfl

/-- The part shows that it is ready. -/
def State.readyShown (s : State) : State :=
  let s := (s.showCap.putF F.stdBoot_stage 0 7).putF F.stdBoot_minimal 0 0
  s.putF F.stdBoot_elapsed_ms 0 (min ((s.now - s.start.loadAt) / 1000000) (2 ^ 32 - 1))

theorem becomeReady_eq (s : State) : s.becomeReady = if !s.start.memTested || !s.start.cellsTested || !s.stage5Done || s.getF F.stdBoot_stage != 5 then s
    else s.readyShown.raise 0x01 0 0 (s.readyShown.reg R.stdBoot 0) := rfl

theorem readyShown_spec (s : State) : showsIn readyRegs s s.readyShown ∧ s.readyShown.getF F.stdBoot_stage = 7 ∧
    s.readyShown.getF F.stdBoot_minimal = 0 := by
  obtain ⟨v, hv⟩ : ∃ v, v = (s.showCap.putF F.stdBoot_stage 0 7).putF F.stdBoot_minimal 0 0 := ⟨_, rfl⟩
  have hshown : s.readyShown = v.putF F.stdBoot_elapsed_ms 0 (min ((v.now - v.start.loadAt) / 1000000) (2 ^ 32 - 1)) := by rw [hv]; rfl
  have hpath : showsIn readyRegs s v := by
    rw [hv]
    exact showsIn_trans _ _ _ (showsIn_putF s F.shfCap_a 0 _ (by decide)) (showsIn_trans _ _ _ (showsIn_putF _ F.shfCap_v 0 _ (by decide))
      (showsIn_trans _ _ _ (showsIn_putF _ F.shfCap_g 0 _ (by decide)) (showsIn_trans _ _ _ (showsIn_putF _ F.shfCap_l 0 _ (by decide))
        (showsIn_trans _ _ _ (showsIn_putF _ F.shfCap_s 0 _ (by decide)) (showsIn_trans _ _ _ (showsIn_putF _ F.stdBoot_stage 0 7 (by decide))
          (showsIn_putF _ F.stdBoot_minimal 0 0 (by decide)))))))
  have hmin : v.getF F.stdBoot_minimal = 0 := by
    rw [hv]
    exact getF_putF_same _ F.stdBoot_minimal 0 0 (by decide)
  have hstage : v.getF F.stdBoot_stage = 7 := by
    rw [hv]
    exact (getF_putF_apart _ F.stdBoot_minimal F.stdBoot_stage 0 0 rfl (by decide)).trans (getF_putF_same _ F.stdBoot_stage 0 7 (by decide))
  rw [hshown]
  clear hshown hv
  refine ⟨showsIn_trans _ _ _ hpath (showsIn_putF v F.stdBoot_elapsed_ms 0 _ (by decide)), ?_, ?_⟩
  · exact (getF_putF_apart v F.stdBoot_elapsed_ms F.stdBoot_stage 0 _ rfl (by decide)).trans hstage
  · exact (getF_putF_apart v F.stdBoot_elapsed_ms F.stdBoot_minimal 0 _ rfl (by decide)).trans hmin

theorem readyPath_becomeReady (s : State) : readyPath s s.becomeReady := by
  obtain ⟨⟨⟨_, hframe⟩, hregs⟩, -, -⟩ := readyShown_spec s
  obtain ⟨⟨_, _, _, _, _, _, _, h⟩, hr⟩ := eventPath_raise (ks := [regKey R.hstEvqStat 0, regKey R.stdBootRet 0]) (s := s.readyShown)
    0x01 0 0 (s.readyShown.reg R.stdBoot 0) [] (by simp) (by simp)
  have hraise : regsIn readyRegs s.readyShown (s.readyShown.raise 0x01 0 0 (s.readyShown.reg R.stdBoot 0)) := by
    refine regsIn_of_sameRegs hr ?_
    intro k hk
    simp only [List.mem_cons, List.not_mem_nil, or_false] at hk
    rcases hk with rfl | rfl
    · exact ⟨R.hstEvqStat, by decide, regKey_div _ _⟩
    · exact ⟨R.stdBootRet, by decide, regKey_div _ _⟩
  rw [becomeReady_eq]
  split
  · exact ⟨⟨_, _, _, _, _, _, _, rfl⟩, regsIn_refl _ s⟩
  · exact ⟨⟨_, _, _, _, _, _, _, by rw [h, hframe]⟩, regsIn_trans hregs hraise⟩

theorem becomeReady_ready {s : State} (hm : s.start.memTested = true) (hc : s.start.cellsTested = true) (h5 : s.stage5Done = true)
    (hs : s.getF F.stdBoot_stage = 5) : s.becomeReady.getF F.stdBoot_stage = 7 ∧ s.becomeReady.onF F.stdBoot_minimal = false := by
  obtain ⟨-, hstage, hmin⟩ := readyShown_spec s
  rw [becomeReady_eq, if_neg (by rw [hm, hc, h5, hs]; decide)]
  exact ⟨(getF_raise _ _ _ _ _ _ _ 0 (by decide) (by decide)).trans hstage,
    onF_of_bit (b := false) ((getF_raise _ _ _ _ _ _ _ 0 (by decide) (by decide)).trans hmin)⟩

theorem readyPath_stage5Done {s t : State} (h : readyPath s t) : t.stage5Done = s.stage5Done := by
  obtain ⟨⟨_, _, _, _, _, _, _, ht⟩, hregs⟩ := h
  exact stage5Done_congr (by rw [ht]) hregs (by decide)

/-! ## The tests of memory and cells as commands -/

/-- The work of stage 4, by the kind of start. -/
def State.memoryWork (s : State) (ts : List ChanTest) (now : Nat) : State :=
  let kind := s.getF F.stdBoot_start
  let s := s.routerTests ts
  if kind = 2 then (ts.foldl (fun s t => s.resumeChannel now t) s).keepResumed
  else
    let whole := if kind = 1 then s.fullStacks else List.range 32
    let s := { s with devMem := [], loftErr := [] }
    let s := ts.foldl (fun s t => s.testChannel (whole.contains (stackOf t.channel.toNat)) now t) s
    if kind = 0 || !whole.isEmpty || ts.any (fun t => !t.rows.isEmpty || !t.wires.isEmpty) then s.writeRecord now else s

theorem sameTime_memoryWork (s : State) (ts : List ChanTest) (now : Nat) : SameTime s (s.memoryWork ts now) := by
  unfold State.memoryWork
  extract_lets -merge +onlyGivenNames kind s1 whole s2 s3
  have h1 : SameTime s s1 := .routerTests .same
  have h3 : SameTime s s3 := .foldl (fun _ _ h => .testChannel h) (.upd h1)
  exact .ite (.keepResumed (.foldl (fun _ _ h => .resumeChannel h) h1)) (.ite (.writeRecord h3) h3)

/-- Stage 4 is done. -/
def State.memoryDone (s : State) : State := ({ s with start := { s.start with memTested := true } } : State).putF F.stdBoot_stage 0 5

theorem opMemoryTest_eq (ts : List ChanTest) (now : Nat) (s : State) : opMemoryTest ts now s =
    if !(s.at_ now).startGoes || (s.at_ now).start.memTested || !(s.at_ now).stage3Done then s.at_ now
    else ((s.at_ now).memoryWork ts now).memoryDone.becomeReady := rfl

theorem memoryDone_spec (s : State) : s.memoryDone.start = { s.start with memTested := true } ∧ s.memoryDone.otp = s.otp ∧
    s.memoryDone.getF F.stdBoot_stage = 5 :=
  ⟨rfl, rfl, getF_putF_same _ F.stdBoot_stage 0 5 (by decide)⟩

theorem memoryTest_spec {s : State} (ts : List ChanTest) (now : Nat) (hg : s.startGoes = true) (hm : s.start.memTested = false)
    (h3 : s.stage3Done = true) : completes (.memoryTest ts now) s (fun t =>
      t.start.memTested = true ∧ (s.start.cellsTested = false ∨ t.stage5Done = false → t.getF F.stdBoot_stage = 5) ∧
      (s.start.cellsTested = true → t.stage5Done = true → t.getF F.stdBoot_stage = 7 ∧ t.onF F.stdBoot_minimal = false) ∧ t.otp = s.otp) := by
  have hdone : (s.begin.at_ now).stage3Done = true := (stage3Done_at s [] (max s.now now)).trans h3
  have hgoes : (s.begin.at_ now).startGoes = true := hg
  have htested : (s.begin.at_ now).start.memTested = false := hm
  have heq := opMemoryTest_eq ts now s.begin
  rw [if_neg (by rw [hdone, hgoes, htested]; decide)] at heq
  have hwork := sameTime_memoryWork (s.begin.at_ now) ts now
  have hotp := hwork.otp
  have hstart := hwork.start
  clear hwork
  obtain ⟨hst, hotp', hstage⟩ := memoryDone_spec ((s.begin.at_ now).memoryWork ts now)
  generalize ((s.begin.at_ now).memoryWork ts now).memoryDone = d at heq hst hotp' hstage
  generalize (s.begin.at_ now).memoryWork ts now = w at hotp hstart hst hotp'
  have hpath := readyPath_becomeReady d
  have hfive := readyPath_stage5Done hpath
  have hmem : d.start.memTested = true := by rw [hst]
  have hcells : d.start.cellsTested = s.start.cellsTested := by
    rw [hst, hstart]
    rfl
  obtain ⟨⟨_, _, _, _, _, _, _, hframe⟩, -⟩ := hpath
  have hwait : s.start.cellsTested = false ∨ d.becomeReady.stage5Done = false → d.becomeReady.getF F.stdBoot_stage = 5 := fun h => by
    rw [hfive] at h
    rw [becomeReady_waits (Or.inr (h.imp_left hcells.trans))]
    exact hstage
  have hready : s.start.cellsTested = true → d.becomeReady.stage5Done = true →
      d.becomeReady.getF F.stdBoot_stage = 7 ∧ d.becomeReady.onF F.stdBoot_minimal = false := fun h h' =>
    becomeReady_ready hmem (hcells.trans h) (hfive.symm.trans h') hstage
  have hmem' : d.becomeReady.start.memTested = true := by
    rw [hframe]
    exact hmem
  have hotp'' : d.becomeReady.otp = s.otp := by
    rw [hframe]
    exact hotp'.trans hotp
  generalize d.becomeReady = u at *
  exact completes_of_eq (f := opMemoryTest ts now) rfl heq ⟨hmem', hwait, hready, hotp''⟩

theorem opMemoryTest_idle {s : State} (ts : List ChanTest) (now : Nat)
    (h : s.startGoes = false ∨ s.start.memTested = true ∨ s.stage3Done = false) : opMemoryTest ts now s.begin = s.begin.at_ now := by
  have hdone : (s.begin.at_ now).stage3Done = s.stage3Done := stage3Done_at s [] (max s.now now)
  have hgoes : (s.begin.at_ now).startGoes = s.startGoes := rfl
  have htested : (s.begin.at_ now).start.memTested = s.start.memTested := rfl
  rw [opMemoryTest_eq, hdone, hgoes, htested]
  refine if_pos ?_
  rcases h with h | h | h
  · rw [h]
    rfl
  · rw [h, Bool.or_true]
    rfl
  · rw [h, Bool.not_false, Bool.or_true]

/-- The cells of the part are tested. -/
def State.cellsDone (s : State) (fails : List Nat) : State :=
  let s := (allCells.filter (fun c => !s.disabled c)).foldl (State.testCell fails) s
  { s with start := { s.start with cellsTested := true } }

theorem opSelfTest_eq (fails : List Nat) (now : Nat) (s : State) : opSelfTest fails now s =
    if !(s.at_ now).startGoes || (s.at_ now).start.cellsTested || !(if (s.at_ now).getF F.stdBoot_start = 2 then (s.at_ now).stage3Done
      else (s.at_ now).start.memTested && (s.at_ now).stage5Done) then s.at_ now
    else ((s.at_ now).cellsDone fails).becomeReady := by
  unfold opSelfTest State.cellsDone
  extract_lets -merge +onlyGivenNames u on
  have hon : on = allCells.filter (fun c => !(s.at_ now).disabled c) := rfl
  rw [← hon]
  clear_value on
  rfl

theorem cellsDone_spec (s : State) (fails : List Nat) : (s.cellsDone fails).start = { s.start with cellsTested := true } ∧
    (s.cellsDone fails).stage5Done = s.stage5Done ∧ (s.cellsDone fails).getF F.stdBoot_stage = s.getF F.stdBoot_stage ∧
    (s.cellsDone fails).devMem = s.devMem ∧
    ∀ c ∈ fails, c < 1024 → s.disabled c = false → ((s.cellsDone fails).cell c).retired = true := by
  obtain ⟨⟨⟨_, _, _, _, _, _, _, _, _, _, _, hframe⟩, hregs, hstage⟩, -⟩ :=
    foldl_rel (tested_refl fails) (tested_trans fails) (tested_testCell fails) (allCells.filter (fun c => !s.disabled c)) s
  have hret : ∀ c ∈ fails, c < 1024 → s.disabled c = false →
      ((((allCells.filter (fun c => !s.disabled c)).foldl (State.testCell fails) s)).cell c).retired = true := by
    intro c hc hlt hd
    refine retired_of_testCells fails _ s (List.mem_filter.mpr ⟨List.mem_range.mpr hlt, ?_⟩) hc
    rw [hd]
    rfl
  unfold State.cellsDone
  dsimp only
  generalize (allCells.filter (fun c => !s.disabled c)).foldl (State.testCell fails) s = t at *
  have hkept : t.start = s.start ∧ t.ring = s.ring ∧ t.devMem = s.devMem := by
    rw [hframe]
    exact ⟨rfl, rfl, rfl⟩
  obtain ⟨hst, hring, hdev⟩ := hkept
  have hregs' : regsIn (R.stdBoot :: testRegs) s { t with start := { t.start with cellsTested := true } } :=
    regsIn_trans (t := { s with cells := t.cells }) (regsIn_of_regs rfl) (regsIn_trans (t := t) hregs (regsIn_of_regs rfl))
  exact ⟨by rw [hst], stage5Done_congr hring hregs' (by decide), hstage, hdev, hret⟩

theorem cellSelfTest_spec {s : State} (fails : List (BitVec 10)) (now : Nat) (hg : s.startGoes = true) (hc : s.start.cellsTested = false)
    (h : if s.getF F.stdBoot_start = 2 then s.stage3Done = true else s.start.memTested = true ∧ s.stage5Done = true) :
    completes (.cellSelfTest fails now) s (fun t =>
      t.start.cellsTested = true ∧
      (s.start.memTested = true → s.stage5Done = true → s.getF F.stdBoot_stage = 5 →
        t.getF F.stdBoot_stage = 7 ∧ t.onF F.stdBoot_minimal = false) ∧
      (s.start.memTested = false ∨ s.stage5Done = false → t.getF F.stdBoot_stage = s.getF F.stdBoot_stage) ∧
      (∀ c ∈ fails, s.disabled c.toNat = false → (t.cell c.toNat).retired = true) ∧ t.devMem = s.devMem) := by
  have hdone : (s.begin.at_ now).stage3Done = s.stage3Done := stage3Done_at s [] (max s.now now)
  have hgoes : (s.begin.at_ now).startGoes = true := hg
  have htested : (s.begin.at_ now).start.cellsTested = false := hc
  have hfive : (s.begin.at_ now).stage5Done = s.stage5Done := rfl
  have hmem : (s.begin.at_ now).start.memTested = s.start.memTested := rfl
  have hkind : (s.begin.at_ now).getF F.stdBoot_start = s.getF F.stdBoot_start := rfl
  have hguard : (if s.getF F.stdBoot_start = 2 then s.stage3Done else s.start.memTested && s.stage5Done) = true := by
    by_cases hk : s.getF F.stdBoot_start = 2
    · rw [if_pos hk] at h ⊢
      exact h
    · rw [if_neg hk] at h ⊢
      rw [h.1, h.2]
      rfl
  have heq := opSelfTest_eq (fails.map BitVec.toNat) now s.begin
  rw [if_neg (by rw [hgoes, htested, hkind, hdone, hmem, hfive, hguard]; decide)] at heq
  obtain ⟨hst, hd5, hstage, hdev, hret⟩ := cellsDone_spec (s.begin.at_ now) (fails.map BitVec.toNat)
  have hret' : ∀ c ∈ fails, s.disabled c.toNat = false → (((s.begin.at_ now).cellsDone (fails.map BitVec.toNat)).cell c.toNat).retired = true :=
    fun c hc hd => hret c.toNat (List.mem_map_of_mem hc) c.isLt ((disabled_at s [] (max s.now now) c.toNat).trans hd)
  clear hret
  generalize (s.begin.at_ now).cellsDone (fails.map BitVec.toNat) = d at *
  have hm : d.start.memTested = s.start.memTested := by
    rw [hst]
    rfl
  have hcell : d.start.cellsTested = true := by rw [hst]
  have h5 : d.stage5Done = s.stage5Done := hd5
  have hstage' : d.getF F.stdBoot_stage = s.getF F.stdBoot_stage := hstage
  have hready : s.start.memTested = true → s.stage5Done = true → s.getF F.stdBoot_stage = 5 →
      d.becomeReady.getF F.stdBoot_stage = 7 ∧ d.becomeReady.onF F.stdBoot_minimal = false := fun h1 h2 h3 =>
    becomeReady_ready (hm.trans h1) hcell (h5.trans h2) (hstage'.trans h3)
  have hwait : s.start.memTested = false ∨ s.stage5Done = false → d.becomeReady.getF F.stdBoot_stage = s.getF F.stdBoot_stage := fun h => by
    rw [becomeReady_waits (h.imp hm.trans (fun h => Or.inr (h5.trans h)))]
    exact hstage'
  obtain ⟨⟨_, _, _, _, _, _, _, hframe⟩, -⟩ := readyPath_becomeReady d
  have hkept : d.becomeReady.start = d.start ∧ d.becomeReady.devMem = d.devMem ∧ d.becomeReady.cells = d.cells := by
    rw [hframe]
    exact ⟨rfl, rfl, rfl⟩
  obtain ⟨hs', hd', hc'⟩ := hkept
  generalize d.becomeReady = u at *
  refine completes_of_eq (f := opSelfTest (fails.map BitVec.toNat) now) rfl heq ⟨(congrArg Start.cellsTested hs').trans hcell, hready, hwait,
    fun c hm hd => ?_, hd'.trans hdev⟩
  have hcu : u.cell c.toNat = d.cell c.toNat := by rw [State.cell, State.cell, hc']
  exact (congrArg Cell.retired hcu).trans (hret' c hm hd)

theorem opSelfTest_idle {s : State} (fails : List Nat) (now : Nat)
    (h : s.startGoes = false ∨ s.start.cellsTested = true ∨ s.getF F.stdBoot_start = 2 ∧ s.stage3Done = false ∨
      s.getF F.stdBoot_start ≠ 2 ∧ (s.start.memTested = false ∨ s.stage5Done = false)) : opSelfTest fails now s.begin = s.begin.at_ now := by
  have hdone : (s.begin.at_ now).stage3Done = s.stage3Done := stage3Done_at s [] (max s.now now)
  have hgoes : (s.begin.at_ now).startGoes = s.startGoes := rfl
  have htested : (s.begin.at_ now).start.cellsTested = s.start.cellsTested := rfl
  have hfive : (s.begin.at_ now).stage5Done = s.stage5Done := rfl
  have hmem : (s.begin.at_ now).start.memTested = s.start.memTested := rfl
  have hkind : (s.begin.at_ now).getF F.stdBoot_start = s.getF F.stdBoot_start := rfl
  rw [opSelfTest_eq, hdone, hgoes, htested, hfive, hmem, hkind]
  refine if_pos ?_
  rcases h with h | h | ⟨hk, h⟩ | ⟨hk, h⟩
  · rw [h]
    rfl
  · rw [h, Bool.or_true]
    rfl
  · rw [if_pos hk, h, Bool.not_false, Bool.or_true]
  · rw [if_neg hk]
    rcases h with h | h
    · rw [h, Bool.false_and, Bool.not_false, Bool.or_true]
    · rw [h, Bool.and_false, Bool.not_false, Bool.or_true]

/-! ## The statement -/

/-- Settles O49: each stage by the equation of its command, and the tests by what they leave of the start. -/
theorem theStartGoesByItsStages : Obligations.TheStartGoesByItsStages := by
  unfold Obligations.TheStartGoesByItsStages
  intro now s
  refine ⟨fun mv => ⟨fun hl hh hat hp hr => ?_, fun h => ?_⟩, fun hh hd => ?_, fun h => ?_, fun hl hh hd => ⟨steadingBoot_silent hl hh hd,
    fun g code hb hstable hfail hg hcode => ?_, fun code hb hc hn hcode => steadingBoot_again hl hh hd hb hc hn hcode,
    fun hb h8 => steadingBoot_recovered hl hh hd hb h8⟩, fun answers h => ?_,
    fun tg f => ⟨fun h3 hc hf hon hn hdig => ?_, fun h3 hc hf h => ?_, fun h => ?_⟩,
    fun tg missing lack hlack => ⟨fun h3 hc hon hl hd hr => ?_, fun h => ?_⟩,
    fun ts => ⟨fun hg hm h3 => memoryTest_spec ts now hg hm h3, fun h => ?_⟩,
    fun stack reached => ⟨fun hg ht h3 h2 => ?_, fun h => ?_⟩,
    fun fails => ⟨fun hg hc h => cellSelfTest_spec fails now hg hc h, fun h => ?_⟩⟩
  · obtain ⟨u, hu⟩ : ∃ u, opOptionLoading mv now s.begin = u := ⟨_, rfl⟩
    have h := optionLoading_spec (s := s.begin) hl hh hat hp hr u hu
    exact completes_of_eq (f := opOptionLoading mv now) rfl hu h
  · exact idlesAt_of_run (f := opOptionLoading mv now) rfl (optionLoading_idles (s := s.begin) h)
  · exact completes_of_eq (f := opStartDelay now) rfl (opStartDelay_over (s := s.begin) hh hd) rfl
  · exact idlesAt_of_run (f := opStartDelay now) rfl (opStartDelay_idle (s := s.begin) h)
  · obtain ⟨u, hu, h⟩ := completes_firstBoot (now := now) hl hh hd hb hstable hfail
    have hg' : g = s.bootGen := hg
    have hcode' : code = s.bootCode := by
      rw [hcode, hg']
      rfl
    rw [hg', hcode', ← bootGen_at s [] (max s.now now), ← bootCode_at s [] (max s.now now)]
    exact completes_of_eq (f := opSteadingBoot true now) rfl hu
      ⟨h.booted, h.up, h.header, h.otp, h.identity, h.active, h.goesOn, h.recovers⟩
  · exact idlesAt_of_run (f := opSteadingBoot answers now) rfl (opSteadingBoot_idle (s := s.begin) h)
  · obtain ⟨hgot, hread, hother⟩ := keepSegment_spec (s.begin.noteFrame f) (targetNo tg) f
    exact completes_of_eq (f := opFrame tg f) rfl (opFrame_kept (s := s.begin) h3 hc ((frameSent_at s [] s.now f).trans hf)
        ((targetOn_at s [] s.now tg).trans hon) hn hdig)
      ⟨segSent_noteFrame s.begin f, hgot, hread, hother, rfl⟩
  · exact completes_of_eq (f := opFrame tg f) rfl (opFrame_passes (s := s.begin) h3 hc ((frameSent_at s [] s.now f).trans hf)
      (h.imp_left (targetOn_at s [] s.now tg).trans)) ⟨segSent_noteFrame s.begin f, rfl⟩
  · exact idles_of_run (f := opFrame tg f) rfl (opFrame_idle (s := s.begin) (h.imp_right (Or.imp_right (frameSent_at s [] s.now f).trans)))
  · refine completes_of_eq (f := opSegments tg (missing.map BitVec.toNat)) rfl
      (opSegments_asked (s := s.begin) hlack h3 hc ((targetOn_at s [] s.now tg).trans hon) hl hd hr) ⟨?_, rfl, rfl⟩
    exact tget_tput_same ..
  · exact idles_of_run (f := opSegments tg (missing.map BitVec.toNat)) rfl (opSegments_idle (s := s.begin) hlack
      (h.imp_right (Or.imp_right (Or.imp_left (targetOn_at s [] s.now tg).trans))))
  · exact idlesAt_of_run (f := opMemoryTest ts now) rfl (opMemoryTest_idle ts now h)
  · obtain ⟨u, hu, hstage, hcool, hpath⟩ := opHeating_spec (k := stack.toNat) (r := reached) hg ht h3 h2
    exact completes_of_eq (f := opHeating stack.toNat reached) rfl hu ⟨hstage, hcool, afterEvents_of_eventPath hpath⟩
  · refine idles_of_run (f := opHeating stack.toNat reached) rfl (opHeating_idle (s := s.begin) (h.imp_right (Or.imp_right (Or.imp_left ?_))))
    exact (stage3Done_at s [] s.now).trans
  · exact idlesAt_of_run (f := opSelfTest (fails.map BitVec.toNat) now) rfl (opSelfTest_idle (fails.map BitVec.toNat) now h)

end Sys2Proof.Machine
end

section
/-! SUPPORT. The run deadline, the stretch limit and the maintenance window (R78, R79, R83, R86, R87), and the statement on them (O23). -/
namespace Sys2Proof.Machine

/-! ## What the work of a window leaves of the time -/

section
variable {s0 : State}

theorem SameTime.retireStuck {s : State} (hs : SameTime s0 s) : SameTime s0 s.retireStuck := .foldl (fun _ _ h => .moveStage (.retireCell h)) hs

theorem SameTime.assignBonds {s : State} (hs : SameTime s0 s) : SameTime s0 s.assignBonds :=
  .foldl (fun _ _ h => .foldl (fun _ _ h => .assignBond h) (.works h (.modChan .same))) hs

theorem SameTime.marginStep {s : State} (hs : SameTime s0 s) {c : Nat} : SameTime s0 (s.marginStep c) := by
  unfold State.marginStep
  extract_lets -merge +onlyGivenNames v n k s1 w worst at_ sel s2 s3
  have h1 : SameTime s0 s1 := .works hs (.modChan .same)
  have h2 : SameTime s0 s2 := .ite (.putF (.putF h1)) (.putF (.putF h1))
  have h3 : SameTime s0 s3 := .putF h2
  exact .ite hs (.ite h1 (.works (.putF (.putF h3)) (.nextFree (.modChan .same))))

theorem SameTime.rakeLog {s : State} (hs : SameTime s0 s) {w0 w1 : Nat} : SameTime s0 (s.rakeLog w0 w1) := by
  unfold State.rakeLog
  extract_lets -merge +onlyGivenNames h s1 s2
  have h1 : SameTime s0 s1 := .ite (.bump hs) hs
  exact .foldl (fun _ _ h => .putF h) (.upd h1)

theorem SameTime.rakeFixed {s : State} (hs : SameTime s0 s) {w b : Nat} : SameTime s0 (s.rakeFixed w b) := .rakeLog (.bump hs)

theorem SameTime.copyRow {s : State} (hs : SameTime s0 s) {c : Nat} {r : Nat × Nat × Nat} : SameTime s0 (s.copyRow c r) := by
  unfold State.copyRow
  extract_lets -merge +onlyGivenNames ws s1 bad s2 s3
  have h1 : SameTime s0 s1 := .foldl (fun _ _ h => .upd (.rakeFixed (.works h (.corrected .same)))) hs
  have h2 : SameTime s0 s2 := .works h1 (.modChan .same)
  have h3 : SameTime s0 s3 := .foldl (fun _ _ h => .upd (.works h (.metWord .same))) h2
  exact .ite (.works h2 (.goOn (.raise (.modChan .same)))) (.works h3 (.goOn (.modChan .same)))

theorem SameTime.scrubRow {s : State} (hs : SameTime s0 s) {c : Nat} {f : FlailCmd} : SameTime s0 (s.scrubRow c f) := by
  unfold State.scrubRow
  extract_lets -merge +onlyGivenNames a ws bad s1 s2
  have h1 : SameTime s0 s1 := .foldl (fun _ _ h => .upd (.ite (.bump (.works h (.corrected .same)))
    (.rakeFixed (.bump (.works h (.corrected .same)))))) hs
  exact .works h1 (.flailBad (.modChan .same))

theorem SameTime.rakeRow {s : State} (hs : SameTime s0 s) {c bank row : Nat} : SameTime s0 (s.rakeRow c bank row) :=
  .ite (.bump (.scrubRow hs)) (.works hs (.startFlails (.enqueue .same)))

theorem SameTime.rakePass (c n : Nat) {s : State} (hs : SameTime s0 s) : SameTime s0 (State.rakePass c n s) := by
  induction n generalizing s with
  | zero => exact hs
  | succ n ih => exact .ite hs (ih (.rakeRow (.works hs (.modChan .same))))

theorem SameTime.rakeChannel {s : State} (hs : SameTime s0 s) {gain left c : Nat} : SameTime s0 (s.rakeChannel gain left c) := by
  unfold State.rakeChannel
  extract_lets -merge +onlyGivenNames st s1 x used room s2 room' rows s3 s4 y
  have h1 : SameTime s0 s1 := .works hs (.modChan .same)
  have h2 : SameTime s0 s2 := .foldl (fun _ _ h => .copyRow h) h1
  have h3 : SameTime s0 s3 := .foldl (fun _ _ h => .rakeRow h) h2
  have h4 : SameTime s0 s4 := .ite h1 (.rakePass _ _ h3)
  exact .ite (.works hs (.modChan .same)) (.ite hs (.ite (.raise (.bump (.works h4 (.modChan .same)))) (.ite (.works h4 (.modChan .same)) h4)))

theorem SameTime.retrainStack {s : State} (hs : SameTime s0 s) {want : List Nat} {left now k : Nat} :
    SameTime s0 (s.retrainStack want left now k) := by
  unfold State.retrainStack
  extract_lets -merge +onlyGivenNames mine busy able best s1
  have h1 : SameTime s0 s1 := .foldl (fun _ _ h => .modChan h) hs
  clear_value s1 best
  cases best with
  | none => exact h1
  | some c => exact .putF (.putF (.modChan h1))

theorem SameTime.channelWork {s : State} (hs : SameTime s0 s) {now : Nat} : SameTime s0 (s.channelWork now) := by
  unfold State.channelWork
  extract_lets -merge +onlyGivenNames left want s1 s2
  have h1 : SameTime s0 s1 := .assignBonds (.works hs (.payRefresh .same))
  have h2 : SameTime s0 s2 := .foldl (fun _ _ h => .retrainStack h) h1
  have h3 : SameTime s0 s2.marginSteps := .foldl (fun _ _ h => .marginStep h) h2
  exact .foldl (fun _ _ h => .rakeChannel h) (.upd h3)

theorem SameTime.spareTheLanes {s : State} (hs : SameTime s0 s) {l : Nat} : SameTime s0 (s.spareTheLanes l) :=
  .foldl (fun _ _ h => .raise (.bump h)) (.works hs (.setLink .same))

end

/-! ## A window that stays open -/

/-- The instant is the same, and the tick runs on with the same window. -/
structure SameWindow (s0 s : State) : Prop where
  now : s.now = s0.now
  running : s.tick.running = s0.tick.running
  windowOpen : s.tick.windowOpen = s0.tick.windowOpen

theorem SameTime.window {s0 s : State} (h : SameTime s0 s) : SameWindow s0 s := ⟨h.now, h.running, h.windowOpen⟩

theorem SameWindow.trans {s0 s t : State} (hs : SameWindow s0 s) (h : SameWindow s t) : SameWindow s0 t :=
  ⟨h.now.trans hs.now, h.running.trans hs.running, h.windowOpen.trans hs.windowOpen⟩

theorem SameTime.writeLimits {s0 s : State} (hs : SameTime s0 s) {w : LimitWords} : SameTime s0 (s.writeLimits w) :=
  ⟨hs.now, hs.start, hs.otp, hs.running, hs.windowOpen, hs.edgeAt, hs.realignTo, hs.count, hs.power⟩

/-- A stop that is not at once leaves a tick that runs to its end. -/
theorem sameWindow_beginStop {s : State} (hr : s.tick.running = true) (cause : Nat) : SameWindow s (s.beginStop cause false) := by
  unfold State.beginStop
  extract_lets -merge +onlyGivenNames s1 t1 s2 s3
  split
  · exact ⟨rfl, rfl, rfl⟩
  · obtain ⟨_, _, h⟩ := ringPath_releasePlanes s2 s2.heldPlanes
    have hs3 : SameWindow s s3 := ⟨(congrArg State.now h).trans rfl, (congrArg (fun u : State => u.tick.running) h).trans rfl,
      (congrArg (fun u : State => u.tick.windowOpen) h).trans rfl⟩
    rw [if_neg (by decide), if_neg (by rw [hs3.running, hr]; decide)]
    exact hs3

theorem sameWindow_coolantLost {s : State} (hr : s.tick.running = true) (sudden : Bool) : SameWindow s (s.coolantLost sudden false) := by
  unfold State.coolantLost
  split
  · exact ⟨rfl, rfl, rfl⟩
  · have h : SameTime s ((s.errsum (0 :: s.sheafIds) 3).raise 0x64 0 0 (BitVec.ofNat 64 (bit sudden))) := .works .same (.raise (.errsum .same))
    exact h.window.trans (sameWindow_beginStop (h.running.trans hr) _)

theorem sameWindow_watchCap (s : State) (cap : Nat) : SameWindow s (s.watchCap cap) := by
  have h : SameTime s (s.watchCap cap) := by
    unfold State.watchCap
    extract_lets w
    exact .ite .same (.ite (.raise (.upd .same)) (.ite (.upd .same) .same))
  exact h.window

theorem sameWindow_govern {s : State} (hr : s.tick.running = true) (g : GovIn) : SameWindow s (s.govern g) := by
  unfold State.govern
  extract_lets -merge +onlyGivenNames s1 s2 s3 s4 asked want s5 s6 h1 s7 s8 s9
  have h2 : SameTime s s2 := .putF (.putF (.foldl (fun _ _ h => .putF h) .same))
  have h3 : SameWindow s s3 := h2.window.trans ⟨rfl, rfl, rfl⟩
  have h5 : SameTime s3 s5 := .putF (.ite (.putF .same) .same)
  have h7 : SameTime s3 s7 := .upd (.ite (.works h5 (.nextFree .same)) h5)
  have h8 : SameTime s3 s8 := .writeLimits h7
  have h9 : SameWindow s s9 := (h3.trans h8.window).trans (sameWindow_watchCap s8 want)
  clear_value s9
  split
  · exact ⟨rfl, rfl, rfl⟩
  · split
    · exact h9.trans (sameWindow_coolantLost (h9.running.trans hr) true)
    · exact h9

/-! ## The work of the window -/

theorem signalWritten_wroteCq (s : State) : s.signalWritten.wroteCq = [] := by
  have hsignal : ∀ (u : State) (q : Nat), u.wroteCq = [] → (u.signalCq q).wroteCq = [] := by
    intro u q h
    have hnone : (u.signalCq q).wroteCq = u.wroteCq.filter (fun x => x != q) := keeps_ite State.wroteCq rfl rfl
    rw [hnone, h]
    rfl
  have hall : ∀ (l : List Nat) (u : State), u.wroteCq = [] → (l.foldl (fun s q => s.signalCq q) u).wroteCq = [] := by
    intro l
    induction l with
    | nil => exact fun u h => h
    | cons q l ih => exact fun u h => ih _ (hsignal u q h)
  exact hall _ _ rfl

/-- The window opens, and other programs may still have to wait for their validation point. -/
def State.openWindow (s : State) : State :=
  let held := s.mayBeNamed
  let s := (s.validate (s.activeJobs.filter (fun j => !held.contains j))).1
  { s with tick := { s.tick with windowOpen := true, heldJobs := held } }

/-- The work of a window, up to the rows of the coming tick. -/
def State.windowWork (s : State) (js : List Nat) (blocks : List (Nat × Nat)) (now : Nat) (gov : Option GovIn) : State :=
  let s := s.retireStuck.channelWork now
  let s := (List.range 8).foldl State.spareTheLanes s
  let s := s.streamWork js blocks
  let s := match gov with
    | some g => s.govern g
    | none => s
  s.nextRows.replayAhead.signalWritten

/-- What the part reports of its tick once the window is open. -/
def State.windowReports (s : State) (now : Nat) : State :=
  (if s.tick.lateSent then s.sendReport (now - s.tick.edgeAt) false [] else s).settleEdge.settleIfClear

theorem opWindow_eq (now : Nat) (gov : Option GovIn) (s : State) : ∃ js blocks, opWindow now gov s =
    if !s.tick.running || s.tick.windowOpen || !s.unfinished.isEmpty || decide (now < s.tick.edgeAt + s.deadline) then s.at_ now
    else (((s.at_ now).openWindow.windowWork js blocks now gov).windowReports now) := by
  unfold opWindow
  extract_lets -merge +onlyGivenNames a held js
  obtain ⟨v, hv⟩ : ∃ v, v = a.validate js := ⟨_, rfl⟩
  have hopen : a.openWindow = { v.1 with tick := { v.1.tick with windowOpen := true, heldJobs := held } } := by
    rw [hv]
    rfl
  refine ⟨js, v.2, ?_⟩
  rewrite [← hv, show s.at_ now = a from rfl, hopen]
  clear hv hopen
  obtain ⟨u, blocks⟩ := v
  rfl

theorem openWindow_spec (s : State) : s.openWindow.tick.windowOpen = true ∧ s.openWindow.tick.running = s.tick.running ∧ s.openWindow.now = s.now := by
  have h : Works s (s.validate (s.activeJobs.filter (fun j => !s.mayBeNamed.contains j))).1 := .validate .same
  have hr := congrArg TickSt.running h.tick
  have hn := h.now
  unfold State.openWindow
  dsimp only
  generalize (s.validate (s.activeJobs.filter (fun j => !s.mayBeNamed.contains j))).1 = u at hr hn ⊢
  exact ⟨rfl, hr, hn⟩

theorem sameWindow_windowWork {s : State} (hr : s.tick.running = true) (js : List Nat) (blocks : List (Nat × Nat)) (now : Nat) (gov : Option GovIn) :
    SameWindow s (s.windowWork js blocks now gov) := by
  unfold State.windowWork
  extract_lets -merge +onlyGivenNames s1 s2 s3 s4
  have h1 : SameTime s s1 := .channelWork (.retireStuck .same)
  have h2 : SameTime s s2 := .foldl (fun _ _ h => .spareTheLanes h) h1
  have h3 : SameTime s s3 := .works h2 (.streamWork .same)
  have h4 : SameWindow s s4 := by
    dsimp only [s4]
    split
    · exact h3.window.trans (sameWindow_govern (h3.running.trans hr) _)
    · exact h3.window
  have h5 : SameTime s4 s4.nextRows.replayAhead.signalWritten :=
    .works (.overran (.works .same (.nextRows .same)) (.replayAhead .same)) (.signalWritten .same)
  exact h4.trans h5.window

theorem windowWork_wroteCq (s : State) (js : List Nat) (blocks : List (Nat × Nat)) (now : Nat) (gov : Option GovIn) :
    (s.windowWork js blocks now gov).wroteCq = [] := signalWritten_wroteCq _

theorem settleHeld_wroteCq {s : State} (h : s.wroteCq = []) : s.settleHeld.wroteCq = [] := by
  unfold State.settleHeld
  extract_lets js
  split
  · exact h
  · split
    exact signalWritten_wroteCq _

theorem windowReports_spec (s : State) (now : Nat) : SameWindow s (s.windowReports now) ∧ (s.wroteCq = [] → (s.windowReports now).wroteCq = []) := by
  have h : Announced s (if s.tick.lateSent then s.sendReport (now - s.tick.edgeAt) false [] else s).settleEdge :=
    .settleEdge (.ite (.sendReport .same) .same)
  unfold State.windowReports
  generalize (if s.tick.lateSent then s.sendReport (now - s.tick.edgeAt) false [] else s).settleEdge = u at h ⊢
  refine ⟨(h.time.settleIfClear).window, fun hw => ?_⟩
  unfold State.settleIfClear
  split
  · exact settleHeld_wroteCq (h.wroteCq.trans hw)
  · exact h.wroteCq.trans hw

theorem opWindow_opens {now : Nat} {gov : Option GovIn} {s : State} (hr : s.tick.running = true) (hw : s.tick.windowOpen = false)
    (hu : s.unfinished = []) (hd : s.tick.edgeAt + s.deadline ≤ now) : ∃ u, opWindow now gov s = u ∧
      u.tick.windowOpen = true ∧ u.now = max s.now now ∧ u.wroteCq = [] := by
  obtain ⟨js, blocks, heq⟩ := opWindow_eq now gov s
  rw [if_neg] at heq
  · obtain ⟨hopen, hrun, hnow⟩ := openWindow_spec (s.at_ now)
    have hwork := sameWindow_windowWork (hrun.trans hr) js blocks now gov
    have hcq := windowWork_wroteCq (s.at_ now).openWindow js blocks now gov
    obtain ⟨hrep, hrepcq⟩ := windowReports_spec ((s.at_ now).openWindow.windowWork js blocks now gov) now
    exact ⟨_, heq, (hrep.windowOpen.trans hwork.windowOpen).trans hopen, (hrep.now.trans hwork.now).trans hnow, hrepcq hcq⟩
  · rw [hr, hw, hu, decide_eq_false (Nat.not_lt.mpr hd)]
    decide

theorem opWindow_idle {now : Nat} {gov : Option GovIn} {s : State} (h : s.unfinished ≠ [] ∨ now < s.tick.edgeAt + s.deadline) :
    opWindow now gov s = s.at_ now := by
  obtain ⟨js, blocks, heq⟩ := opWindow_eq now gov s
  rw [heq]
  refine if_pos ?_
  rcases h with h | h
  · rw [List.isEmpty_eq_false_iff.mpr h, Bool.not_false, Bool.or_true, Bool.true_or]
  · rw [decide_eq_true h, Bool.or_true]

/-! ## The run deadline -/

theorem opRunDeadline_eq (now : Nat) (s : State) : opRunDeadline now s =
    if !s.tick.running || s.tick.windowOpen || s.tick.lateSent || s.unfinished.isEmpty || decide (now < s.tick.edgeAt + s.deadline) then s.at_ now
    else
      let u := { s.at_ now with tick := { s.tick with lateSent := true } }
      if s.isKeeper then u.lateFrom (s.getF F.lnkRing_own) else u.tell (.late (BitVec.ofNat 32 (s.getF F.tikCount_count))) := rfl

theorem opRunDeadline_late {now : Nat} {s : State} (hr : s.tick.running = true) (hw : s.tick.windowOpen = false) (hu : s.unfinished ≠ [])
    (hk : s.isKeeper = false) (hl : s.tick.lateSent = false) (hd : s.tick.edgeAt + s.deadline ≤ now) : opRunDeadline now s =
      ({ s.at_ now with tick := { s.tick with lateSent := true } } : State).tell (.late (BitVec.ofNat 32 (s.getF F.tikCount_count))) := by
  rw [opRunDeadline_eq, if_neg]
  · dsimp only
    rw [if_neg (by rw [hk]; decide)]
  · rw [hr, hw, hl, List.isEmpty_eq_false_iff.mpr hu, decide_eq_false (Nat.not_lt.mpr hd)]
    decide

theorem opRunDeadline_idle {now : Nat} {s : State} (h : s.tick.lateSent = true ∨ now < s.tick.edgeAt + s.deadline) :
    opRunDeadline now s = s.at_ now := by
  rw [opRunDeadline_eq]
  refine if_pos ?_
  rcases h with h | h
  · rw [h, Bool.or_true, Bool.true_or, Bool.true_or]
  · rw [decide_eq_true h, Bool.or_true]

/-! ## The stretch limit -/

/-- A value other than the default leaves every other entry of a table, and takes the place of what its key read. -/
theorem mem_tput_of_mem {α : Type} [DecidableEq α] {d v : α} (hv : v ≠ d) (t : Tbl α) (i : Nat) {e : Nat × α} (he : e ∈ t) :
    e ∈ tput d t i v ∨ (e = (i, tget d t i) ∧ (i, v) ∈ tput d t i v) := by
  induction t with
  | nil => exact absurd he (by simp)
  | cons x r ih =>
    obtain ⟨k, w⟩ := x
    unfold tput
    rw [if_neg hv]
    by_cases hik : i < k
    · rw [if_pos hik]
      exact Or.inl (List.mem_cons_of_mem _ he)
    · rw [if_neg hik]
      by_cases hi : i = k
      · rw [if_pos hi]
        rcases List.mem_cons.mp he with rfl | hr
        · refine Or.inr ⟨?_, List.mem_cons_self⟩
          rw [tget, if_pos hi.symm, hi]
        · exact Or.inl (List.mem_cons_of_mem _ hr)
      · rw [if_neg hi]
        have hget : tget d ((k, w) :: r) i = tget d r i := by rw [tget, if_neg (Ne.symm hi)]
        rcases List.mem_cons.mp he with rfl | hr
        · exact Or.inl List.mem_cons_self
        · rw [hget]
          exact (ih hr).imp (List.mem_cons_of_mem _) (fun h => ⟨h.1, List.mem_cons_of_mem _ h.2⟩)

theorem mem_unfinished {s : State} {c : Nat} : c ∈ s.unfinished ↔ ∃ x, (c, x) ∈ s.cells ∧ x.unfinished = true := by
  unfold State.unfinished
  simp only [List.mem_map, List.mem_filter, Prod.exists, exists_and_right, exists_eq_right]

/-- The lateness of a cell leaves the cells that are unfinished. -/
theorem unfinished_modCell_worst {s : State} {c worst : Nat} (hj : (s.cell c).job ≠ none) {k : Nat} (hk : k ∈ s.unfinished) :
    k ∈ (s.modCell c (fun x => { x with worstLate := worst })).unfinished := by
  obtain ⟨x, hx, hun⟩ := mem_unfinished.mp hk
  have hv : { s.cell c with worstLate := worst } ≠ ({} : Cell) := fun h => hj (congrArg Cell.job h)
  refine mem_unfinished.mpr ?_
  rcases mem_tput_of_mem hv s.cells c hx with h | ⟨h, hm⟩
  · exact ⟨x, h, hun⟩
  · obtain ⟨rfl, rfl⟩ := Prod.mk.inj h
    exact ⟨_, hm, hun⟩

/-- The lateness of cells is in registers and in the cells, and leaves the cells that are unfinished. -/
def judgesLate (s u : State) : Prop :=
  (∃ regs cells, u = { s with regs := regs, cells := cells }) ∧ regsIn [R.celTick] s u ∧ ∀ k ∈ s.unfinished, k ∈ u.unfinished

theorem judgesLate_refl (s : State) : judgesLate s s := ⟨⟨_, _, rfl⟩, regsIn_refl _ s, fun _ h => h⟩

theorem judgesLate_trans (s t u : State) (h : judgesLate s t) (h' : judgesLate t u) : judgesLate s u := by
  obtain ⟨⟨_, _, rfl⟩, hr, hk⟩ := h
  obtain ⟨⟨_, _, rfl⟩, hr', hk'⟩ := h'
  exact ⟨⟨_, _, rfl⟩, regsIn_trans hr hr', fun k hm => hk' k (hk k hm)⟩

theorem judgesLate_recordLate {s : State} {c : Nat} (hj : (s.cell c).job ≠ none) (t : Stage) (f wait : Nat) :
    judgesLate s (s.recordLate c t f wait) := by
  obtain ⟨worst, h⟩ := recordLate_eq s c t f wait
  rw [h]
  have hjob : ((s.showLate c t f wait).cell c).job ≠ none := hj
  have hregs : regsIn [R.celTick] s (s.showLate c t f wait) := regsIn_trans (regsIn_putF s F.celTick_margin_ns c _ List.mem_cons_self)
    (regsIn_trans (regsIn_putF _ F.celTick_own_late_ns c _ List.mem_cons_self)
      (regsIn_trans (regsIn_putF _ F.celTick_late_run c _ List.mem_cons_self) (regsIn_putF _ F.celTick_idle c _ List.mem_cons_self)))
  exact ⟨⟨_, _, rfl⟩, regsIn_trans hregs (regsIn_of_regs rfl), fun k hk => unfinished_modCell_worst hjob hk⟩

theorem judgesLate_lateAtLimit (s : State) (c : Nat) : judgesLate s (s.lateAtLimit c) := by
  unfold State.lateAtLimit
  split
  · next j _ _ hj _ => exact judgesLate_recordLate (by rw [hj]; exact Option.some_ne_none j) ..
  · exact judgesLate_refl s

/-- A cell has stopped at an instant. -/
def Cell.stoppedAt (x : Cell) (at_ : Nat) : Prop := x.stopped = true ∧ x.finished = some at_

theorem stopCell_cell (s : State) (c at_ d : Nat) : (c = d → ((s.stopCell c at_).cell d).stoppedAt at_) ∧
    (c ≠ d → (s.stopCell c at_).cell d = s.cell d) := by
  unfold State.stopCell
  obtain ⟨regs, h⟩ := dropPass_frame s c
  rw [h, State.cell, invalidateCell_cells]
  refine ⟨fun hd => ?_, fun hd => cell_modCell_ne _ _ hd⟩
  subst hd
  exact ⟨congrArg Cell.stopped (cell_modCell_same _ _ _), congrArg Cell.finished (cell_modCell_same _ _ _)⟩

theorem stoppedAt_foldl_stopCell (l : List Nat) (at_ : Nat) (s : State) :
    ∀ d, d ∈ l ∨ (s.cell d).stoppedAt at_ → ((l.foldl (fun s c => s.stopCell c at_) s).cell d).stoppedAt at_ := by
  induction l generalizing s with
  | nil => exact fun d h => h.resolve_left List.not_mem_nil
  | cons c l ih =>
    intro d h
    refine ih (s.stopCell c at_) d ?_
    obtain ⟨hsame, hne⟩ := stopCell_cell s c at_ d
    by_cases hd : c = d
    · exact Or.inr (hsame hd)
    · rw [hne hd]
      exact h.imp_left (fun hm => (List.mem_cons.1 hm).resolve_left (Ne.symm hd))

theorem active_of_jobOfCell {s : State} {c j : Nat} (h : s.jobOfCell c = some j) : (s.prog j).state = .active := by
  obtain ⟨e, he, rfl⟩ := Option.map_eq_some_iff.mp h
  have hm := List.mem_of_mem_head? he
  obtain ⟨k, -, hk⟩ := List.mem_flatMap.mp hm
  split at hk
  · next ha =>
    obtain ⟨x, -, rfl⟩ := List.mem_map.mp hk
    exact eq_of_beq ha
  · exact absurd hk (by simp)

theorem overrunJob_jobs (s : State) (j : Nat) : ∀ k ∈ (s.overrunJob j).tick.overrunJobs, k = j ∨ k ∈ s.tick.overrunJobs := by
  intro k hk
  rw [overrunJob_eq] at hk
  split at hk
  · exact Or.inr hk
  · have htick : ((s.countOverrun j).errsum (s.sheafsOfJob j) 4 |>.raise 0x10 9 (s.image j).lowestSheaf s.overrunLate).tick =
        (s.countOverrun j).tick := (Works.raise (.errsum .same)).tick
    obtain ⟨ctl, h⟩ := invalidate_frame ({ s with tick := { s.tick with overrunJobs := s.tick.overrunJobs ++ [j] } } : State) j
    rw [htick, State.countOverrun, h] at hk
    exact (List.mem_append.mp hk).symm.imp_left List.mem_singleton.mp

theorem overrunJob_invalid {s : State} {j : Nat} (hw : s.tick.windowOpen = false) (ha : (s.prog j).state = .active) (hn : j ∉ s.tick.overrunJobs) :
    ((s.overrunJob j).prog j).invalid = true := by
  have hc : ((s.countOverrun j).prog j).invalid = true :=
    invalidate_of_active (s := { s with tick := { s.tick with overrunJobs := s.tick.overrunJobs ++ [j] } }) hw ha
  rw [overrunJob_eq, if_neg (fun h => hn (List.contains_iff_mem.mp h))]
  exact (Announced.overran .same (.events .same)).invalid j hc

/-- The programs of a tick that overruns are invalid, but for those that had overrun before. -/
theorem foldl_overrunJob_invalid (js : List Nat) (s : State) (hw : s.tick.windowOpen = false) (ha : ∀ j ∈ js, (s.prog j).state = .active) :
    ∀ j ∈ js, j ∉ s.tick.overrunJobs → ((js.foldl State.overrunJob s).prog j).invalid = true := by
  induction js generalizing s with
  | nil => exact fun j hj => absurd hj (by simp)
  | cons k js ih =>
    intro j hj hn
    have hstep : Overran s (s.overrunJob k) := .overrunJob .same
    have hrest : Overran (s.overrunJob k) (js.foldl State.overrunJob (s.overrunJob k)) := .foldl (fun _ _ h => .overrunJob h) .same
    by_cases hk : j = k
    · subst hk
      exact (Announced.overran .same hrest).invalid j (overrunJob_invalid hw (ha j hj) hn)
    · refine ih (s.overrunJob k) ((SameTime.overran .same hstep).windowOpen.trans hw) (fun i hi => ?_) j ((List.mem_cons.mp hj).resolve_left hk)
        (fun h => (overrunJob_jobs s k j h).elim hk hn)
      have hact := ha i (List.mem_cons_of_mem _ hi)
      rcases hstep.progs i with h | h
      · rw [h]
        exact hact
      · rw [h]
        exact hact

/-- The work of the stretch limit on the unfinished cells, before the part reports. -/
def State.stopLate (s : State) : State :=
  let cs := s.unfinished
  let s := cs.foldl State.lateAtLimit s
  let jobs := (cs.filterMap s.jobOfCell).eraseDups
  let s := s.stopStages (s.tick.edgeAt + s.stretchLimit)
  jobs.foldl State.overrunJob s

theorem opStretchLimit_eq (now : Nat) (s : State) : ∃ ns sheafs, opStretchLimit now s =
    if !s.tick.running || s.tick.windowOpen || s.unfinished.isEmpty || decide (now < s.tick.edgeAt + s.stretchLimit) then s.at_ now
    else (s.at_ now).stopLate.sendReport ns true sheafs := ⟨_, _, rfl⟩

theorem stretchLimit_congr {D : List Reg} {s u : State} (h : regsIn D s u) (hp : ∀ q ∈ D, R.tikPeriod.off / 8 ≠ q.off / 8)
    (hw : ∀ q ∈ D, R.tikWindow.off / 8 ≠ q.off / 8) (hg : ∀ q ∈ D, R.tikGuard.off / 8 ≠ q.off / 8) : u.stretchLimit = s.stretchLimit := by
  have hperiod : u.getF F.tikPeriod_us = s.getF F.tikPeriod_us := getF_of_regsIn h hp 0
  have hwindow : u.getF F.tikWindow_ns = s.getF F.tikWindow_ns := getF_of_regsIn h hw 0
  have hguard : u.getF F.tikGuard_pct = s.getF F.tikGuard_pct := getF_of_regsIn h hg 0
  simp only [State.stretchLimit, State.deadline, State.guardNs, State.period, State.windowNs, hperiod, hwindow, hguard]

theorem stopLate_spec {s : State} (hw : s.tick.windowOpen = false) :
    (∀ c ∈ s.unfinished, (s.stopLate.cell c).stoppedAt (s.tick.edgeAt + s.stretchLimit)) ∧
    (∀ c ∈ s.unfinished, ∀ j, s.jobOfCell c = some j → j ∈ s.stopLate.tick.overrunJobs ∧
      (j ∉ s.tick.overrunJobs → (s.stopLate.prog j).invalid = true)) := by
  obtain ⟨u, hu⟩ : ∃ u, u = s.unfinished.foldl State.lateAtLimit s := ⟨_, rfl⟩
  obtain ⟨⟨regs, cells, hframe⟩, hregs, hun⟩ := foldl_rel judgesLate_refl judgesLate_trans judgesLate_lateAtLimit s.unfinished s
  rw [← hu] at hframe hregs hun
  have hlimit : u.stretchLimit = s.stretchLimit := stretchLimit_congr hregs (by decide) (by decide) (by decide)
  have hkept : u.tick = s.tick ∧ u.jobOfCell = s.jobOfCell ∧ ∀ j, u.prog j = s.prog j := by
    rw [hframe]
    exact ⟨rfl, rfl, fun _ => rfl⟩
  obtain ⟨htick, hjob, hprog⟩ := hkept
  obtain ⟨v, hv⟩ : ∃ v, v = u.stopStages (s.tick.edgeAt + s.stretchLimit) := ⟨_, rfl⟩
  have hlate : s.stopLate = (s.unfinished.filterMap s.jobOfCell).eraseDups.foldl State.overrunJob v := by
    unfold State.stopLate
    dsimp only
    rw [← hu, hjob, htick, hlimit, ← hv]
  have hcells : ∀ c ∈ s.unfinished, (v.cell c).stoppedAt (s.tick.edgeAt + s.stretchLimit) := fun c hc => by
    rw [hv]
    exact stoppedAt_foldl_stopCell u.unfinished _ u c (Or.inl (hun c hc))
  have hvtick : v.tick = s.tick := by
    rw [hv]
    exact ((Works.stopStages .same : Works u _).tick).trans htick
  have hactive : ∀ j ∈ (s.unfinished.filterMap s.jobOfCell).eraseDups, (v.prog j).state = .active := by
    intro j hj
    obtain ⟨c, -, hc⟩ := List.mem_filterMap.mp (List.mem_eraseDups.mp hj)
    obtain ⟨b, hb⟩ := keepsProgs_stopStages u (s.tick.edgeAt + s.stretchLimit) j
    rw [hv, hb, hprog]
    exact active_of_jobOfCell hc
  have hmem : ∀ c ∈ s.unfinished, ∀ j, s.jobOfCell c = some j → j ∈ (s.unfinished.filterMap s.jobOfCell).eraseDups := fun c hc j hj =>
    List.mem_eraseDups.mpr (List.mem_filterMap.mpr ⟨c, hc, hj⟩)
  rw [hlate]
  have hover : Announced v ((s.unfinished.filterMap s.jobOfCell).eraseDups.foldl State.overrunJob v) :=
    .overran .same (.foldl (fun _ _ h => .overrunJob h) .same)
  refine ⟨fun c hc => ?_, fun c hc j hj => ⟨mem_foldl_overrunJob _ v (hmem c hc j hj), fun hn => ?_⟩⟩
  · rw [State.cell, hover.cells]
    exact hcells c hc
  · exact foldl_overrunJob_invalid _ v (hvtick ▸ hw) hactive j (hmem c hc j hj) (hvtick ▸ hn)

theorem opStretchLimit_spec {now : Nat} {s : State} (hr : s.tick.running = true) (hw : s.tick.windowOpen = false) (hu : s.unfinished ≠ [])
    (hd : s.tick.edgeAt + s.stretchLimit ≤ now) : ∃ t, opStretchLimit now s = t ∧
      (∀ c ∈ s.unfinished, (t.cell c).stopped = true ∧ (t.cell c).finished = some (s.tick.edgeAt + s.stretchLimit)) ∧
      (∀ c ∈ s.unfinished, ∀ j, s.jobOfCell c = some j → j ∈ t.tick.overrunJobs ∧
        (j ∉ s.tick.overrunJobs → (t.prog j).invalid = true)) := by
  obtain ⟨ns, sheafs, heq⟩ := opStretchLimit_eq now s
  rw [if_neg] at heq
  · obtain ⟨hcells, hjobs⟩ := stopLate_spec (s := s.at_ now) hw
    have hrep : Announced (s.at_ now).stopLate ((s.at_ now).stopLate.sendReport ns true sheafs) := .sendReport .same
    refine ⟨_, heq, fun c hc => ?_, fun c hc j hj => ?_⟩
    · rw [State.cell, hrep.cells]
      exact hcells c hc
    · obtain ⟨hm, hinv⟩ := hjobs c hc j hj
      exact ⟨hrep.overrun j hm, fun hn => hrep.invalid j (hinv hn)⟩
  · rw [hr, hw, List.isEmpty_eq_false_iff.mpr hu, decide_eq_false (Nat.not_lt.mpr hd)]
    decide

theorem exec_maintenanceWindow {now : Nat} {gov : Option GovIn} (h : (Instr.maintenanceWindow now gov).wellFormed = true) (s : State) :
    exec (.maintenanceWindow now gov) s = run (opWindow now gov) s := congrArg (fun ok => runIf ok (opWindow now gov) s) h

/-! ## The statement -/

/-- Settles O23: the deadline by its word, the limit by the stops and overruns it starts, the window by what its work leaves of the time. -/
theorem aLateTickIsToldAndEnded : Obligations.ALateTickIsToldAndEnded := by
  unfold Obligations.ALateTickIsToldAndEnded
  refine ⟨fun now s hr hw hu hk => ⟨fun hl hd => ?_, fun h => ?_⟩, fun now s hr hw hu hd => ?_, fun now gov s hwf hr hw => ⟨fun hu hd => ?_, fun h => ?_⟩⟩
  · refine completes_of_eq (f := opRunDeadline now) rfl (opRunDeadline_late (s := s.begin) hr hw hu hk hl hd) ?_
    obtain ⟨v, hv⟩ : ∃ v : State, v = { s.begin.at_ now with tick := { s.tick with lateSent := true } } := ⟨_, rfl⟩
    have htells : tells (.late (BitVec.ofNat 32 (s.getF F.tikCount_count))) s (v.tell (.late (BitVec.ofNat 32 (s.getF F.tikCount_count)))) :=
      tells_of_tell (u := v) (by rw [hv]; rfl) (by rw [hv]; rfl) rfl rfl
    have hrest : (v.tell (.late (BitVec.ofNat 32 (s.getF F.tikCount_count)))).tick = { s.tick with lateSent := true } := by
      rw [State.tell, relay_eq, hv]
    rw [hv] at htells hrest
    refine ⟨hrest, htells, ?_⟩
    rw [State.tell, relay_eq]
    rfl
  · exact completes_of_eq (f := opRunDeadline now) rfl (opRunDeadline_idle (s := s.begin) h) rfl
  · obtain ⟨u, heq, h1, h2⟩ := opStretchLimit_spec (s := s.begin) hr hw hu hd
    exact completes_of_eq (f := opStretchLimit now) rfl heq ⟨h1, h2⟩
  · obtain ⟨u, heq, h1, h2, h3⟩ := opWindow_opens (gov := gov) (s := s.begin) hr hw hu hd
    exact completes_of_eq (f := opWindow now gov) (exec_maintenanceWindow hwf s) heq ⟨h1, h2, h3⟩
  · exact completes_of_eq (f := opWindow now gov) (exec_maintenanceWindow hwf s) (opWindow_idle (s := s.begin) h) rfl

end Sys2Proof.Machine
end

section
/-! SUPPORT. Late notices, finish reports and edge announcements (R83, R86, R328, R334), and the statement on them (O24). -/
namespace Sys2Proof.Machine

/-! ## Words that follow an announcement -/

/-- From s to t words have gone out, and raises wait for their edges: nothing that has been seen or sent is lost, nor what the ring awaits. -/
structure Speaks (s t : State) : Prop where
  frame : ∃ autos ring out, t = { s with autos := autos, ring := ring, out := out }
  seen : ∀ x ∈ s.ring.seen, x ∈ t.ring.seen
  out : ∀ x ∈ s.out, x ∈ t.out
  pauseNext : t.ring.pauseNext = s.ring.pauseNext

theorem Speaks.same {s : State} : Speaks s s := ⟨⟨_, _, _, rfl⟩, fun _ h => h, fun _ h => h, rfl⟩

theorem Speaks.trans {s t u : State} (h : Speaks s t) (h' : Speaks t u) : Speaks s u := by
  obtain ⟨⟨_, _, _, hf⟩, hs, ho, hp⟩ := h
  obtain ⟨⟨_, _, _, hf'⟩, hs', ho', hp'⟩ := h'
  exact ⟨⟨_, _, _, by rw [hf', hf]⟩, fun x hx => hs' x (hs x hx), fun x hx => ho' x (ho x hx), hp'.trans hp⟩

theorem speaks_autos (s : State) (a : List AutoCommit) : Speaks s { s with autos := a } := ⟨⟨_, _, _, rfl⟩, fun _ h => h, fun _ h => h, rfl⟩

theorem speaks_tell (s : State) (w : CtlWord) : Speaks s (s.tell w) := by
  rw [State.tell, relay_eq]
  exact ⟨⟨_, _, _, rfl⟩, fun _ h => List.mem_append_left _ h, fun _ h => List.mem_append_left _ h, rfl⟩

theorem speaks_ite {s t u : State} {c : Prop} [Decidable c] (h : Speaks s t) (h' : Speaks s u) : Speaks s (if c then t else u) := by
  split
  · exact h
  · exact h'

theorem speaks_moveRaise (s : State) (us : Nat) : Speaks s (s.moveRaise us) := (speaks_autos s _).trans (speaks_tell _ _)

theorem speaks_heedRaise (s : State) (r : RaiseWord) : Speaks s (s.heedRaise r) := by
  unfold State.heedRaise
  split
  · exact speaks_ite ((speaks_autos s _).trans (speaks_tell _ _)) .same
  · exact speaks_ite (speaks_ite (speaks_autos s _) (speaks_ite (speaks_moveRaise s _) .same)) (speaks_autos s _)

/-! ## What a part does with an announcement -/

/-- The raise of an announcement is heeded. -/
def State.raised (s : State) (w : EdgeWord) : State :=
  match w.raise with
  | some r => (s.heedRaise r).replayAhead
  | none => s

/-- The pause of an announcement is heeded. -/
def State.paused (s : State) (w : EdgeWord) : State :=
  { s with ring := { s.ring with pauseNext := s.ring.pauseNext || w.pause, pauseEnds := s.ring.pauseEnds || w.pauseEnds } }

/-- The tick that an announced overrun ends. -/
def TickSt.overrunTo (t : TickSt) (edge : Nat) (ids : List Nat) : TickSt :=
  { t with deferred := true, newEdge := some edge, overrun := true, namedSheafs := ids }

/-- An announced overrun is heeded. -/
def State.heedOverrun (s : State) (ids : List Nat) : State :=
  let s := { s with tick := s.tick.overrunTo s.longest ids }
  ((s.jobsNamed ids).foldl State.overrunJob s).replayAhead

theorem heedEdge_eq (s : State) (w : EdgeWord) : s.heedEdge w =
    let v := (s.raised w).paused w
    if w.overrun then v.heedOverrun (w.sheafs.map BitVec.toNat)
    else if w.newEdge = 0 then (if w.pause || w.pauseEnds || w.raise.isSome then v else { v with tick := { v.tick with deferred := true } })
    else { v with tick := { v.tick with deferred := true, newEdge := some (min (100 * w.newEdge.toNat) v.longest) } } := rfl

theorem replayAhead_of_not_due {s : State} (h : s.replayDue = false) : s.replayAhead = s := by
  unfold State.replayAhead
  refine if_pos ?_
  rw [h]
  rfl

theorem replayDue_of_speaks {s t : State} (h : Speaks s t) : t.replayDue = s.replayDue := by
  obtain ⟨⟨_, _, _, hf⟩, -, -, -⟩ := h
  rw [hf]
  rfl

theorem raised_of_none {s : State} {w : EdgeWord} (h : w.raise = none) : s.raised w = s := by
  unfold State.raised
  rw [h]

theorem raised_of_some {s : State} {w : EdgeWord} {r : RaiseWord} (h : w.raise = some r) (hd : s.replayDue = false) :
    s.raised w = s.heedRaise r := by
  unfold State.raised
  rw [h]
  exact replayAhead_of_not_due ((replayDue_of_speaks (speaks_heedRaise s r)).trans hd)

theorem speaks_raised {s : State} {w : EdgeWord} (h : s.replayDue = false ∨ w.raise = none) : Speaks s (s.raised w) := by
  cases hw : w.raise with
  | none =>
    rw [raised_of_none hw]
    exact .same
  | some r =>
    rw [raised_of_some hw (h.resolve_right (by rw [hw]; exact Option.some_ne_none r))]
    exact speaks_heedRaise s r

/-- The state of a part that has heeded the raise and the pause of an announcement. -/
structure Heeds (w : EdgeWord) (s v : State) : Prop where
  frame : ∃ autos ring out, v = { s with autos := autos, ring := ring, out := out }
  seen : ∀ x ∈ s.ring.seen, x ∈ v.ring.seen
  out : ∀ x ∈ s.out, x ∈ v.out
  pauseNext : v.ring.pauseNext = (s.ring.pauseNext || w.pause)

theorem heeds_paused {s : State} {w : EdgeWord} (h : s.replayDue = false ∨ w.raise = none) : Heeds w s ((s.raised w).paused w) := by
  obtain ⟨⟨_, _, _, hf⟩, hs, ho, hp⟩ := speaks_raised h
  unfold State.paused
  refine ⟨⟨_, _, _, by rw [hf]⟩, hs, ho, ?_⟩
  dsimp only
  rw [hp]

theorem settleIfClear_of_none {s : State} (h : s.tick.heldJobs = []) : s.settleIfClear = s := by
  have hheld : s.settleHeld = s := by
    unfold State.settleHeld
    extract_lets js
    exact if_pos (by rw [show js = [] from h]; rfl)
  unfold State.settleIfClear
  rw [hheld, ite_self]

theorem settleIfClear_of_newEdge {s : State} (h : s.tick.newEdge.isSome = true) : s.settleIfClear = s.settleHeld := by
  unfold State.settleIfClear State.noReports
  rw [h]
  rfl

theorem settleHeld_pending (s : State) : s.settleHeld.pending = s.pending := by
  unfold State.settleHeld
  extract_lets js
  split
  · rfl
  · split
    next u blocks hv =>
      have hu : Works s u := by
        have h : Works s (s.validate js).1 := .validate .same
        rwa [hv] at h
      obtain ⟨v, hv'⟩ : ∃ v, v = (({ u with tick := { u.tick with heldJobs := [] } } : State).streamWork js blocks).nextRows := ⟨_, rfl⟩
      have h1 : v.pending = u.pending := by
        rw [hv']
        exact (Works.nextRows (.streamWork .same) : Works { u with tick := { u.tick with heldJobs := [] } } _).pending
      have h2 : v.replayAhead.pending = v.pending := by
        obtain ⟨⟨_, _, _, _, _, _, _, _, _, _, _, _, hf⟩, -, -, -, -⟩ := (Overran.replayAhead .same : Overran v _)
        rw [hf]
      have h3 : v.replayAhead.signalWritten.pending = v.replayAhead.pending := (Works.signalWritten .same).pending
      rw [hv'] at h1 h2 h3
      exact h3.trans (h2.trans (h1.trans hu.pending))

/-! ## An announcement that comes -/

/-- The state of a part that has carried a word on. -/
def State.carried (s : State) (port : BitVec 3) (part : Nat) (w : CtlWord) : State := s.begin.relay (some port.toNat) part w

theorem carried_frame (s : State) (port : BitVec 3) (part : Nat) (w : CtlWord) :
    ∃ seen out, s.carried port part w = { s with ring := { s.ring with seen := seen }, out := out } := ⟨_, _, relay_eq ..⟩

theorem carries_carried (s : State) (port : BitVec 3) (part : Nat) (w : CtlWord) : carries (some port.toNat) part w s (s.carried port part w) :=
  carries_begin rfl rfl

/-- What has been carried on stays carried on, whatever is told beside it. -/
theorem carries_of_heeds {s u v t : State} {e : EdgeWord} {port : Option Nat} {part : Nat} {w : CtlWord} (h : carries port part w s u)
    (hv : Heeds e u v) (hr : t.ring = v.ring) (ho : t.out = v.out) : carries port part w s t := by
  obtain ⟨hseen, hout⟩ := h
  refine ⟨?_, fun p hp hne => ?_⟩
  · rw [hr]
    exact hv.seen _ hseen
  · rw [ho]
    exact hv.out _ (hout p hp hne)

/-- An announcement that is new to the part is carried on and heeded. -/
theorem completes_edgeAnnouncement {port : BitVec 3} {w : EdgeWord} {s : State} {P : State → Prop}
    (h : (edgeSender w (s.getF F.lnkRing_keeper), CtlWord.edge w) ∉ s.ring.seen) {u : State}
    (hu : ((s.carried port (edgeSender w (s.getF F.lnkRing_keeper)) (.edge w)).heedEdge w).settleIfClear = u)
    (hp : P { u with pending := s.pending }) : completes (.edgeAnnouncement port w) s P :=
  completes_of_eq (f := fun s => s.onWord port.toNat (edgeSender w (s.getF F.lnkRing_keeper)) (.edge w) (fun s => (s.heedEdge w).settleIfClear)) rfl
    ((onWord_of_new (s := s.begin) _ h).trans hu) hp

section
variable {s u v : State} {w : EdgeWord}

/-- An announced new edge. -/
theorem heedEdge_newEdge (hv : v = (u.raised w).paused w) (ho : w.overrun = false) (hn : w.newEdge ≠ 0) : u.heedEdge w =
    { v with tick := { v.tick with deferred := true, newEdge := some (min (100 * w.newEdge.toNat) v.longest) } } := by
  rw [heedEdge_eq, ← hv]
  dsimp only
  rw [if_neg (by rw [ho]; decide), if_neg hn]

theorem heedEdge_deferral (hv : v = (u.raised w).paused w) (ho : w.overrun = false) (hn : w.newEdge = 0) (hp : w.pause = false)
    (he : w.pauseEnds = false) (hr : w.raise = none) : u.heedEdge w = { v with tick := { v.tick with deferred := true } } := by
  rw [heedEdge_eq, ← hv]
  dsimp only
  rw [if_neg (by rw [ho]; decide), if_pos hn, if_neg (by rw [hp, he, hr]; decide)]

theorem heedEdge_overrun (hv : v = (u.raised w).paused w) (ho : w.overrun = true) : u.heedEdge w = v.heedOverrun (w.sheafs.map BitVec.toNat) := by
  rw [heedEdge_eq, ← hv]
  dsimp only
  rw [if_pos ho]

end

/-- An announced overrun sets the longest tick, and the tick of every program named overruns. -/
theorem heedOverrun_spec (v : State) (ids : List Nat) : (∃ js, (v.heedOverrun ids).tick = { v.tick.overrunTo v.longest ids with overrunJobs := js }) ∧
    ∀ j ∈ v.jobsNamed ids, j ∈ (v.heedOverrun ids).tick.overrunJobs := by
  unfold State.heedOverrun
  extract_lets -merge +onlyGivenNames x
  have hjobs : x.jobsNamed ids = v.jobsNamed ids := rfl
  have htick : x.tick = v.tick.overrunTo v.longest ids := rfl
  clear_value x
  have hfold : Overran x ((x.jobsNamed ids).foldl State.overrunJob x) := .foldl (fun _ _ h => .overrunJob h) .same
  have hall : Overran x ((x.jobsNamed ids).foldl State.overrunJob x).replayAhead := .replayAhead hfold
  refine ⟨?_, fun j hj => ?_⟩
  · obtain ⟨⟨_, _, _, _, _, _, _, _, _, _, _, js, hf⟩, -, -, -, -⟩ := hall
    exact ⟨js, by rw [hf, htick]⟩
  · exact (Overran.replayAhead .same : Overran _ _).overrun j (mem_foldl_overrunJob _ x (hjobs ▸ hj))

/-! ## The clauses on announcements -/

section
variable {port : BitVec 3} {w : EdgeWord} {s : State} (hnew : (edgeSender w (s.getF F.lnkRing_keeper), CtlWord.edge w) ∉ s.ring.seen)
include hnew

theorem edgeAnnouncement_settles (ho : w.overrun = false) (hn : w.newEdge ≠ 0) (hr : w.raise = none) :
    completes (.edgeAnnouncement port w) s (fun t => ∃ u : State, t = u.settleHeld ∧
      u.tick = { s.tick with deferred := true, newEdge := some (min (100 * w.newEdge.toNat) s.longest) } ∧
      u.ctl = s.ctl ∧ u.cells = s.cells ∧ u.regs = s.regs ∧ sameMemories s u) := by
  obtain ⟨seen, out, hc⟩ := carried_frame s port (edgeSender w (s.getF F.lnkRing_keeper)) (.edge w)
  obtain ⟨⟨_, _, _, hv⟩, -, -, -⟩ := heeds_paused (s := s.carried port (edgeSender w (s.getF F.lnkRing_keeper)) (.edge w)) (Or.inr hr)
  have heed := heedEdge_newEdge rfl ho hn (u := s.carried port (edgeSender w (s.getF F.lnkRing_keeper)) (.edge w))
  obtain ⟨x, hx⟩ : ∃ x, (s.carried port (edgeSender w (s.getF F.lnkRing_keeper)) (.edge w)).heedEdge w = x := ⟨_, rfl⟩
  rw [hx, hv, hc] at heed
  have hsettle : x.settleIfClear = x.settleHeld := settleIfClear_of_newEdge (by rw [heed]; rfl)
  have hpend : x.pending = s.pending := by rw [heed]
  refine completes_edgeAnnouncement hnew (u := x.settleHeld) (by rw [hx, hsettle]) ⟨x, ?_, ?_⟩
  · have h := (settleHeld_pending x).trans hpend
    generalize x.settleHeld = y at h ⊢
    cases y
    dsimp only at h
    rw [h]
  · rw [heed]
    exact ⟨rfl, rfl, rfl, rfl, rfl, rfl, rfl, rfl, rfl⟩

variable (hheld : s.tick.heldJobs = [])
include hheld

theorem edgeAnnouncement_newEdge (hd : s.replayDue = false ∨ w.raise = none) (ho : w.overrun = false) (hn : w.newEdge ≠ 0) :
    completes (.edgeAnnouncement port w) s (fun t =>
      carries (some port.toNat) (edgeSender w (s.getF F.lnkRing_keeper)) (.edge w) s t ∧
      t.tick = { s.tick with deferred := true, newEdge := some (min (100 * w.newEdge.toNat) s.longest) } ∧
      t.ring.pauseNext = (s.ring.pauseNext || w.pause) ∧ t.regs = s.regs ∧ sameMemories s t) := by
  obtain ⟨c, hc⟩ : ∃ c, c = s.carried port (edgeSender w (s.getF F.lnkRing_keeper)) (.edge w) := ⟨_, rfl⟩
  obtain ⟨seen, out, hframe⟩ := carried_frame s port (edgeSender w (s.getF F.lnkRing_keeper)) (.edge w)
  have hcar := carries_carried s port (edgeSender w (s.getF F.lnkRing_keeper)) (.edge w)
  rw [← hc] at hframe hcar
  have hcd : c.replayDue = false ∨ w.raise = none := hd.imp_left (fun h => by rw [hframe]; exact h)
  have hheeds := heeds_paused hcd
  have heed := heedEdge_newEdge rfl ho hn (u := c)
  generalize (c.raised w).paused w = v at hheeds heed
  obtain ⟨_, ring, _, hv⟩ := hheeds.frame
  have hpause := hheeds.pauseNext
  have hcp : c.ring.pauseNext = s.ring.pauseNext := by rw [hframe]
  have hlong : v.longest = s.longest := by rw [hv, hframe]; rfl
  have hkept : v.tick = s.tick ∧ v.regs = s.regs ∧ sameMemories s v := by
    rw [hv, hframe]
    exact ⟨rfl, rfl, rfl, rfl, rfl, rfl, rfl⟩
  obtain ⟨htick, hregs, hmem⟩ := hkept
  rw [htick, hlong] at heed
  refine completes_edgeAnnouncement hnew (u := c.heedEdge w) ?_ ?_
  · rw [← hc]
    exact settleIfClear_of_none (by rw [heed]; exact hheld)
  · rw [heed]
    exact ⟨carries_of_heeds hcar hheeds rfl rfl, rfl, hpause.trans (by rw [hcp]), hregs, hmem⟩

theorem edgeAnnouncement_deferral (ho : w.overrun = false) (hn : w.newEdge = 0) (hp : w.pause = false) (he : w.pauseEnds = false)
    (hr : w.raise = none) : completes (.edgeAnnouncement port w) s (fun t => t.tick = { s.tick with deferred := true } ∧ t.regs = s.regs) := by
  obtain ⟨seen, out, hc⟩ := carried_frame s port (edgeSender w (s.getF F.lnkRing_keeper)) (.edge w)
  obtain ⟨⟨_, _, _, hv⟩, -, -, -⟩ := heeds_paused (s := s.carried port (edgeSender w (s.getF F.lnkRing_keeper)) (.edge w)) (Or.inr hr)
  have heed := heedEdge_deferral rfl ho hn hp he hr (u := s.carried port (edgeSender w (s.getF F.lnkRing_keeper)) (.edge w))
  obtain ⟨x, hx⟩ : ∃ x, (s.carried port (edgeSender w (s.getF F.lnkRing_keeper)) (.edge w)).heedEdge w = x := ⟨_, rfl⟩
  rw [hx, hv, hc] at heed
  refine completes_edgeAnnouncement hnew (u := x) ?_ ?_
  · rw [hx]
    exact settleIfClear_of_none (by rw [heed]; exact hheld)
  · rw [heed]
    exact ⟨rfl, rfl⟩

theorem edgeAnnouncement_overrun (hd : s.replayDue = false ∨ w.raise = none) (ho : w.overrun = true) :
    completes (.edgeAnnouncement port w) s (fun t => t.tick.deferred = true ∧ t.tick.newEdge = some s.longest ∧ t.tick.overrun = true ∧
      (∀ j ∈ s.jobsNamed (w.sheafs.map BitVec.toNat), j ∈ t.tick.overrunJobs)) := by
  obtain ⟨c, hc⟩ : ∃ c, c = s.carried port (edgeSender w (s.getF F.lnkRing_keeper)) (.edge w) := ⟨_, rfl⟩
  obtain ⟨seen, out, hframe⟩ := carried_frame s port (edgeSender w (s.getF F.lnkRing_keeper)) (.edge w)
  rw [← hc] at hframe
  have hcd : c.replayDue = false ∨ w.raise = none := hd.imp_left (fun h => by rw [hframe]; exact h)
  obtain ⟨⟨_, _, _, hv⟩, -, -, -⟩ := heeds_paused hcd
  have heed := heedEdge_overrun rfl ho (u := c)
  generalize (c.raised w).paused w = v at hv heed
  obtain ⟨⟨js, htick⟩, hjobs⟩ := heedOverrun_spec v (w.sheafs.map BitVec.toNat)
  have hlong : v.longest = s.longest := by rw [hv, hframe]; rfl
  have hnamed : v.jobsNamed (w.sheafs.map BitVec.toNat) = s.jobsNamed (w.sheafs.map BitVec.toNat) := by rw [hv, hframe]; rfl
  have hheld' : v.tick.heldJobs = [] := by rw [hv, hframe]; exact hheld
  rw [hnamed] at hjobs
  rw [hlong] at htick
  refine completes_edgeAnnouncement hnew (u := c.heedEdge w) ?_ ?_
  · rw [← hc]
    exact settleIfClear_of_none (by rw [heed, htick]; exact hheld')
  · rw [heed]
    generalize v.heedOverrun (w.sheafs.map BitVec.toNat) = y at htick hjobs
    exact ⟨by rw [htick]; rfl, by rw [htick]; rfl, by rw [htick]; rfl, hjobs⟩

end

theorem heedRaise_target {s : State} {r : RaiseWord} {n : BitVec 64} (ht : r.target = some n) (hm : r.moved = false) (ho : r.part.toNat ≠ s.own) :
    s.heedRaise r = { s with autos := s.autos ++ [.raise (max 1 (n.toNat - s.getF F.tikCount_count)) none r.us.toNat false] } := by
  unfold State.heedRaise
  rw [ht]
  dsimp only
  rw [if_neg (by rw [hm]; decide), if_neg ho]

theorem edgeAnnouncement_raise {port : BitVec 3} {s : State} {r : RaiseWord} {n : BitVec 64}
    (hnew : (edgeSender { raise := some r } (s.getF F.lnkRing_keeper), CtlWord.edge { raise := some r }) ∉ s.ring.seen)
    (hheld : s.tick.heldJobs = []) (hd : s.replayDue = false) (ht : r.target = some n) (hm : r.moved = false) (ho : r.part.toNat ≠ s.own) :
    completes (.edgeAnnouncement port { raise := some r }) s (fun t =>
      t.autos = s.autos ++ [.raise (max 1 (n.toNat - s.getF F.tikCount_count)) none r.us.toNat false] ∧
      carries (some port.toNat) (edgeSender { raise := some r } (s.getF F.lnkRing_keeper)) (.edge { raise := some r }) s t ∧
      t.tick = s.tick ∧ t.regs = s.regs) := by
  obtain ⟨w, hw⟩ : ∃ w : EdgeWord, w = { raise := some r } := ⟨_, rfl⟩
  have hraise : w.raise = some r := by rw [hw]
  have hplain : w.overrun = false ∧ w.newEdge = 0 := by
    rw [hw]
    exact ⟨rfl, rfl⟩
  rw [← hw] at hnew ⊢
  clear hw
  obtain ⟨c, hc⟩ : ∃ c, c = s.carried port (edgeSender w (s.getF F.lnkRing_keeper)) (.edge w) := ⟨_, rfl⟩
  obtain ⟨seen, out, hframe⟩ := carried_frame s port (edgeSender w (s.getF F.lnkRing_keeper)) (.edge w)
  have hcar := carries_carried s port (edgeSender w (s.getF F.lnkRing_keeper)) (.edge w)
  rw [← hc] at hframe hcar
  have hcd : c.replayDue = false := by rw [hframe]; exact hd
  have hheeds := heeds_paused (w := w) (Or.inl hcd)
  have hco : r.part.toNat ≠ c.own := by rw [hframe]; exact ho
  have hv : (c.raised w).paused w = ({ c with autos := c.autos ++ [.raise (max 1 (n.toNat - c.getF F.tikCount_count)) none r.us.toNat false] } : State).paused w := by
    rw [raised_of_some hraise hcd, heedRaise_target ht hm hco]
  have heed : c.heedEdge w = (c.raised w).paused w := by
    rw [heedEdge_eq]
    dsimp only
    rw [if_neg (by rw [hplain.1]; decide), if_pos hplain.2, if_pos (by rw [hraise, Option.isSome_some, Bool.or_true])]
  generalize (c.raised w).paused w = v at hheeds heed hv
  have hkept : v.autos = s.autos ++ [.raise (max 1 (n.toNat - s.getF F.tikCount_count)) none r.us.toNat false] ∧ v.tick = s.tick ∧ v.regs = s.regs := by
    rw [hv, hframe]
    exact ⟨rfl, rfl, rfl⟩
  obtain ⟨hautos, htick, hregs⟩ := hkept
  refine completes_edgeAnnouncement hnew (u := v) ?_ ⟨hautos, carries_of_heeds hcar hheeds rfl rfl, htick, hregs⟩
  rw [← hc, heed]
  exact settleIfClear_of_none (by rw [htick]; exact hheld)

/-! ## Late notices -/

theorem completes_lateNotice {port : BitVec 3} {part : BitVec 10} {tick : BitVec 32} {s : State} {P : State → Prop}
    (h : (part.toNat, CtlWord.late tick) ∉ s.ring.seen) {c u : State} (hc : c = s.carried port part.toNat (.late tick))
    (hu : (if c.isKeeper && decide (tick.toNat = c.getF F.tikCount_count % 2 ^ 32) then c.lateFrom part.toNat else c) = u)
    (hp : P { u with pending := s.pending }) : completes (.lateNotice port part tick) s P := by
  subst hc
  exact completes_onWord rfl h (hu ▸ hp)

theorem isKeeper_carried (s : State) (port : BitVec 3) (part : Nat) (w : CtlWord) : (s.carried port part w).isKeeper = s.isKeeper := by
  obtain ⟨seen, out, h⟩ := carried_frame s port part w
  rw [h]
  rfl

theorem lateNotice_carried {port : BitVec 3} {part : BitVec 10} {tick : BitVec 32} {s : State}
    (h : (part.toNat, CtlWord.late tick) ∉ s.ring.seen) (hk : s.isKeeper = false) : completes (.lateNotice port part tick) s (fun t =>
      carries (some port.toNat) part.toNat (.late tick) s t ∧ t = { s with ring := { s.ring with seen := t.ring.seen }, out := t.out }) := by
  obtain ⟨seen, out, hframe⟩ := carried_frame s port part.toNat (.late tick)
  have hcar := carries_carried s port part.toNat (.late tick)
  have hkeep := isKeeper_carried s port part.toNat (.late tick)
  refine completes_lateNotice h rfl (if_neg (by rw [hkeep, hk, Bool.false_and]; decide)) ⟨hcar, ?_⟩
  rw [hframe]

/-- The timekeeper's announcement that the edge is deferred. -/
theorem announce_deferral (s : State) : (s.announce {}).tick = { s.tick with deferred := true } ∧ (s.announce {}).regs = s.regs ∧
    sameMemories s (s.announce {}) := by
  have h : s.announce {} = { (s.tell (.edge {})).paused {} with tick := { (s.tell (.edge {})).tick with deferred := true } } :=
    heedEdge_deferral rfl rfl rfl rfl rfl rfl
  rw [h, State.tell, relay_eq]
  exact ⟨rfl, rfl, rfl, rfl, rfl, rfl, rfl⟩

theorem lateNotice_kept {port : BitVec 3} {part : BitVec 10} {tick : BitVec 32} {s : State}
    (h : (part.toNat, CtlWord.late tick) ∉ s.ring.seen) (hk : s.isKeeper = true) (ht : tick.toNat = s.getF F.tikCount_count % 2 ^ 32)
    (hl : s.tick.lateParts = []) : completes (.lateNotice port part tick) s (fun t =>
      t.tick = { s.tick with lateParts := [part.toNat], deferred := true } ∧ t.regs = s.regs ∧ sameMemories s t) := by
  obtain ⟨c, hc⟩ : ∃ c, c = s.carried port part.toNat (.late tick) := ⟨_, rfl⟩
  obtain ⟨seen, out, hframe⟩ := carried_frame s port part.toNat (.late tick)
  have hkeep := isKeeper_carried s port part.toNat (.late tick)
  rw [← hc] at hframe hkeep
  have hcount : c.getF F.tikCount_count = s.getF F.tikCount_count := by rw [hframe]; rfl
  have hlate : c.tick.lateParts = [] := by rw [hframe]; exact hl
  have hfrom : c.lateFrom part.toNat = ({ c with tick := { c.tick with lateParts := [part.toNat] } } : State).announce {} := by
    unfold State.lateFrom
    rw [hlate]
    rfl
  obtain ⟨htick, hregs, hmem⟩ := announce_deferral ({ c with tick := { c.tick with lateParts := [part.toNat] } } : State)
  have hctick : c.tick = s.tick ∧ c.regs = s.regs ∧ sameMemories s c := by
    rw [hframe]
    exact ⟨rfl, rfl, rfl, rfl, rfl, rfl, rfl⟩
  obtain ⟨hct, hcr, hcm⟩ := hctick
  refine completes_lateNotice h hc (u := c.lateFrom part.toNat) (if_pos (by rw [hkeep, hk, hcount, decide_eq_true ht]; rfl)) ?_
  rw [hfrom]
  generalize ({ c with tick := { c.tick with lateParts := [part.toNat] } } : State).announce {} = x at htick hregs hmem
  obtain ⟨m1, m2, m3, m4, m5⟩ := hmem
  obtain ⟨n1, n2, n3, n4, n5⟩ := hcm
  exact ⟨htick.trans (by rw [hct]), hregs.trans hcr, m1.trans n1, m2.trans n2, m3.trans n3, m4.trans n4, m5.trans n5⟩

/-! ## Finish reports -/

section
variable {port : BitVec 3} {part : BitVec 10} {ns : Nat} {late : Bool} {ids : List (BitVec 12)} {s : State}
  (hnew : (part.toNat, CtlWord.finish ns late (ids.map BitVec.toNat)) ∉ s.ring.seen)
include hnew

theorem completes_finishReport {P : State → Prop} {c u : State} (hc : c = s.carried port part.toNat (.finish ns late (ids.map BitVec.toNat)))
    (hu : (if c.isKeeper then (c.reportFrom part.toNat ns late (ids.map BitVec.toNat)).settleIfClear else c) = u)
    (hp : P { u with pending := s.pending }) : completes (.finishReport port part ns late ids) s P := by
  subst hc
  exact completes_onWord rfl hnew (hu ▸ hp)

theorem finishReport_carried (hk : s.isKeeper = false) : completes (.finishReport port part ns late ids) s (fun t =>
    carries (some port.toNat) part.toNat (.finish ns late (ids.map BitVec.toNat)) s t ∧
    t = { s with ring := { s.ring with seen := t.ring.seen }, out := t.out }) := by
  obtain ⟨seen, out, hframe⟩ := carried_frame s port part.toNat (.finish ns late (ids.map BitVec.toNat))
  have hcar := carries_carried s port part.toNat (.finish ns late (ids.map BitVec.toNat))
  have hkeep := isKeeper_carried s port part.toNat (.finish ns late (ids.map BitVec.toNat))
  refine completes_finishReport hnew rfl (if_neg (by rw [hkeep, hk]; decide)) ⟨hcar, ?_⟩
  rw [hframe]
end

/-- The timekeeper has the only report it waits for: it settles the edge once every late notice is in. -/
theorem settleEdge_of_one {s : State} {p : Nat} (hk : s.isKeeper = true) (hn : s.tick.newEdge = none) (hl : s.tick.lateParts = [p])
    (ht : s.takePorts ≠ []) (hr : p ∈ s.tick.reports ∨ ∃ ns, (p, ns) ∈ s.tick.finishes) : s.settleEdge =
      if s.tick.edgeAt + s.deadline + 900 ≤ s.now then
        (if s.tick.reports.isEmpty then
          s.announce { newEdge := BitVec.ofNat 16 (ceilDiv (maxList (s.tick.finishes.map (fun f => f.2)) + s.windowNs) 100) }
        else s.announce { newEdge := BitVec.ofNat 16 (ceilDiv s.longest 100), overrun := true, sheafs := s.tick.namedSheafs.map (BitVec.ofNat 12) })
      else s := by
  have hte : s.takePorts.isEmpty = false := List.isEmpty_eq_false_iff.mpr ht
  have hones : s.lateOnes = [p] := by
    unfold State.lateOnes
    rw [hte, hl]
    rfl
  have hall : (s.tick.reports.contains p || s.tick.finishes.any (fun f => f.1 == p)) = true := by
    rcases hr with h | ⟨ns, h⟩
    · rw [List.contains_iff_mem.mpr h]
      rfl
    · rw [List.any_eq_true.mpr ⟨(p, ns), h, beq_self_eq_true p⟩, Bool.or_true]
  unfold State.settleEdge
  extract_lets -merge +onlyGivenNames t ps
  have hps : ps = [p] := hones
  have hin : s.noticesIn = decide (s.tick.edgeAt + s.deadline + 900 ≤ s.now) := by
    unfold State.noticesIn
    rw [hte, Bool.false_or]
  rw [hk, hin, hps, show t.newEdge = none from hn]
  simp only [List.all_cons, List.all_nil, Bool.and_true, show (t.reports.contains p || t.finishes.any (fun f => f.1 == p)) = true from hall]
  by_cases hd : s.tick.edgeAt + s.deadline + 900 ≤ s.now
  · rw [if_neg (by rw [decide_eq_true hd, List.isEmpty_cons]; decide), if_pos hd]
    by_cases he : s.tick.reports.isEmpty = true
    · rw [if_pos he, if_neg (by rw [show t.reports.isEmpty = true from he]; decide)]
    · rw [if_neg he, if_pos (by rw [show t.reports.isEmpty = false from Bool.eq_false_iff.mpr he]; decide)]
  · rw [if_pos (by rw [decide_eq_false hd, List.isEmpty_cons]; decide), if_neg hd]

/-- The timekeeper's announcement of a new edge. -/
theorem announce_newEdge (s : State) {e : BitVec 16} (he : e ≠ 0) :
    (s.announce { newEdge := e }).tick = { s.tick with deferred := true, newEdge := some (min (100 * e.toNat) s.longest) } ∧
    (s.announce { newEdge := e }).regs = s.regs ∧ sameMemories s (s.announce { newEdge := e }) := by
  have h : s.announce { newEdge := e } = { (s.tell (.edge { newEdge := e })).paused { newEdge := e } with
      tick := { (s.tell (.edge { newEdge := e })).tick with
        deferred := true, newEdge := some (min (100 * e.toNat) ((s.tell (.edge { newEdge := e })).paused { newEdge := e }).longest) } } :=
    heedEdge_newEdge rfl rfl he
  rw [h, State.tell, relay_eq]
  exact ⟨rfl, rfl, rfl, rfl, rfl, rfl, rfl⟩

/-- The timekeeper's announcement of an overrun. -/
theorem announce_overrun (s : State) (w : EdgeWord) (ho : w.overrun = true) (hr : w.raise = none) :
    (s.announce w).tick.newEdge = some s.longest ∧ (s.announce w).tick.overrun = true ∧ (s.announce w).tick.heldJobs = s.tick.heldJobs := by
  obtain ⟨v, hv⟩ : ∃ v, v = ((s.tell (.edge w)).raised w).paused w := ⟨_, rfl⟩
  have h : s.announce w = v.heedOverrun (w.sheafs.map BitVec.toNat) := heedEdge_overrun hv ho
  obtain ⟨⟨js, htick⟩, -⟩ := heedOverrun_spec v (w.sheafs.map BitVec.toNat)
  have hkept : v.longest = s.longest ∧ v.tick = s.tick := by
    rw [hv, raised_of_none hr, State.tell, relay_eq]
    exact ⟨rfl, rfl⟩
  rw [h, htick, hkept.1, hkept.2]
  exact ⟨rfl, rfl, rfl⟩

/-- A report of a finish time. -/
theorem reportFrom_finish {s : State} {p ns : Nat} (ids : List Nat) (hl : s.tick.lateParts = [p]) (hf : s.tick.finishes = []) :
    s.reportFrom p ns false ids = ({ s with tick := { s.tick with finishes := [(p, ns)] } } : State).settleEdge := by
  have hparts : (if s.tick.lateParts.contains p then s.tick.lateParts else s.tick.lateParts ++ [p]) = s.tick.lateParts :=
    if_pos (by rw [hl]; exact List.contains_iff_mem.mpr List.mem_cons_self)
  unfold State.reportFrom
  dsimp only
  rw [hparts, hf]
  rfl

/-- A report of an overrun. -/
theorem reportFrom_overrun {s : State} {p ns : Nat} (ids : List Nat) (hl : s.tick.lateParts = [p]) :
    s.reportFrom p ns true ids = ({ s with tick := { s.tick with
      reports := s.tick.reports ++ [p], namedSheafs := (s.tick.namedSheafs ++ ids).eraseDups } } : State).settleEdge := by
  have hparts : (if s.tick.lateParts.contains p then s.tick.lateParts else s.tick.lateParts ++ [p]) = s.tick.lateParts :=
    if_pos (by rw [hl]; exact List.contains_iff_mem.mpr List.mem_cons_self)
  unfold State.reportFrom
  dsimp only
  rw [hparts]
  rfl

/-- A new edge in steps of 100 ns that a word can hold. -/
theorem edgeSteps {n : Nat} (h1 : 1 ≤ n) (h2 : n ≤ 6000000) : BitVec.ofNat 16 (ceilDiv n 100) ≠ 0 ∧ 100 * (BitVec.ofNat 16 (ceilDiv n 100)).toNat = up100 n := by
  have hdiv : ceilDiv n 100 = (n + 99) / 100 := rfl
  have hsmall : ceilDiv n 100 < 2 ^ 16 := by rw [hdiv]; omega
  have hnat : (BitVec.ofNat 16 (ceilDiv n 100)).toNat = ceilDiv n 100 := by rw [BitVec.toNat_ofNat, Nat.mod_eq_of_lt hsmall]
  refine ⟨fun h0 => ?_, by rw [hnat, up100, Nat.mul_comm]⟩
  have hzero : ceilDiv n 100 = 0 := by rw [← hnat, h0]; rfl
  rw [hdiv] at hzero
  omega

section
variable {port : BitVec 3} {part : BitVec 10} {ns : Nat} {late : Bool} {ids : List (BitVec 12)} {s : State}
  (hnew : (part.toNat, CtlWord.finish ns late (ids.map BitVec.toNat)) ∉ s.ring.seen) (hheld : s.tick.heldJobs = []) (hk : s.isKeeper = true)
  (hn : s.tick.newEdge = none) (hl : s.tick.lateParts = [part.toNat]) (htp : s.takePorts ≠ [])
include hnew hheld hk hn hl htp

theorem finishReport_finish (hlate : late = false) (hr : s.tick.reports = []) (hf : s.tick.finishes = []) (h1 : 1 ≤ ns + s.windowNs)
    (h2 : ns + s.windowNs ≤ 6000000) : completes (.finishReport port part ns late ids) s (fun t =>
      t.tick.finishes = [(part.toNat, ns)] ∧
      t.tick.newEdge = (if s.tick.edgeAt + s.deadline + 900 ≤ s.now then some (min (up100 (ns + s.windowNs)) s.longest) else none) ∧
      t.regs = s.regs ∧ sameMemories s t) := by
  subst hlate
  obtain ⟨c, hc⟩ : ∃ c, c = s.carried port part.toNat (.finish ns false (ids.map BitVec.toNat)) := ⟨_, rfl⟩
  obtain ⟨seen, out, hframe⟩ := carried_frame s port part.toNat (.finish ns false (ids.map BitVec.toNat))
  have hkeep := (isKeeper_carried s port part.toNat (.finish ns false (ids.map BitVec.toNat))).trans hk
  rw [← hc] at hframe hkeep
  have hcl : c.tick.lateParts = [part.toNat] := by rw [hframe]; exact hl
  have hcf : c.tick.finishes = [] := by rw [hframe]; exact hf
  obtain ⟨b, hb⟩ : ∃ b : State, b = { c with tick := { c.tick with finishes := [(part.toNat, ns)] } } := ⟨_, rfl⟩
  have hreport : c.reportFrom part.toNat ns false (ids.map BitVec.toNat) = b.settleEdge := (reportFrom_finish _ hcl hcf).trans (by rw [hb])
  have hkept : b.isKeeper = s.isKeeper ∧ b.takePorts = s.takePorts ∧ b.deadline = s.deadline ∧ b.windowNs = s.windowNs ∧ b.longest = s.longest ∧
      b.now = s.now ∧ b.tick = { s.tick with finishes := [(part.toNat, ns)] } ∧ b.regs = s.regs ∧ sameMemories s b := by
    rw [hb, hframe]
    exact ⟨rfl, rfl, rfl, rfl, rfl, rfl, rfl, rfl, rfl, rfl, rfl, rfl, rfl⟩
  obtain ⟨hbk, hbt, hbd, hbw, hbl, hbn, htick, hregs, hmem⟩ := hkept
  have hsettle := settleEdge_of_one (s := b) (p := part.toNat) (hbk.trans hk) (by rw [htick]; exact hn) (by rw [htick]; exact hl)
    (hbt ▸ htp) (Or.inr ⟨ns, by rw [htick]; exact List.mem_cons_self⟩)
  have hmax : maxList (b.tick.finishes.map (fun f => f.2)) = ns := by
    rw [htick]
    exact Nat.zero_max ns
  have hempty : b.tick.reports.isEmpty = true := by rw [htick, hr]; rfl
  have hedge : b.tick.edgeAt = s.tick.edgeAt := by rw [htick]
  rw [hedge, hbd, hbn, if_pos hempty, hmax, hbw] at hsettle
  obtain ⟨hne, hsteps⟩ := edgeSteps h1 h2
  obtain ⟨hat, har, ham⟩ := announce_newEdge b hne
  rw [hsteps, hbl, htick] at hat
  have hreportHeld : (c.reportFrom part.toNat ns false (ids.map BitVec.toNat)).tick.heldJobs = [] := by
    rw [hreport, hsettle]
    split
    · rw [hat]
      exact hheld
    · rw [htick]
      exact hheld
  refine completes_finishReport hnew hc (u := b.settleEdge) ?_ ?_
  · rw [if_pos hkeep, settleIfClear_of_none hreportHeld, hreport]
  · rw [hsettle]
    split
    · generalize b.announce { newEdge := BitVec.ofNat 16 (ceilDiv (ns + s.windowNs) 100) } = x at hat har ham
      obtain ⟨m1, m2, m3, m4, m5⟩ := ham
      obtain ⟨n1, n2, n3, n4, n5⟩ := hmem
      exact ⟨by rw [hat], by rw [hat], har.trans hregs, m1.trans n1, m2.trans n2, m3.trans n3, m4.trans n4, m5.trans n5⟩
    · exact ⟨by rw [htick], by rw [htick]; exact hn, hregs, hmem⟩

theorem finishReport_overrun (hlate : late = true) (hin : s.tick.edgeAt + s.deadline + 900 ≤ s.now) :
    completes (.finishReport port part ns late ids) s (fun t => t.tick.newEdge = some s.longest ∧ t.tick.overrun = true) := by
  subst hlate
  obtain ⟨c, hc⟩ : ∃ c, c = s.carried port part.toNat (.finish ns true (ids.map BitVec.toNat)) := ⟨_, rfl⟩
  obtain ⟨seen, out, hframe⟩ := carried_frame s port part.toNat (.finish ns true (ids.map BitVec.toNat))
  have hkeep := (isKeeper_carried s port part.toNat (.finish ns true (ids.map BitVec.toNat))).trans hk
  rw [← hc] at hframe hkeep
  have hcl : c.tick.lateParts = [part.toNat] := by rw [hframe]; exact hl
  obtain ⟨b, hb⟩ : ∃ b : State, b = { c with tick := { c.tick with
    reports := c.tick.reports ++ [part.toNat], namedSheafs := (c.tick.namedSheafs ++ ids.map BitVec.toNat).eraseDups } } := ⟨_, rfl⟩
  have hreport : c.reportFrom part.toNat ns true (ids.map BitVec.toNat) = b.settleEdge := (reportFrom_overrun _ hcl).trans (by rw [hb])
  have hkept : b.isKeeper = s.isKeeper ∧ b.takePorts = s.takePorts ∧ b.deadline = s.deadline ∧ b.longest = s.longest ∧
      b.now = s.now ∧ b.tick.edgeAt = s.tick.edgeAt ∧ b.tick.newEdge = s.tick.newEdge ∧ b.tick.lateParts = s.tick.lateParts ∧
      b.tick.heldJobs = s.tick.heldJobs ∧ b.tick.reports = s.tick.reports ++ [part.toNat] := by
    rw [hb, hframe]
    exact ⟨rfl, rfl, rfl, rfl, rfl, rfl, rfl, rfl, rfl, rfl⟩
  obtain ⟨hbk, hbt, hbd, hbl, hbn, hedge, hbe, hbp, hbh, hbr⟩ := hkept
  have hmem : part.toNat ∈ b.tick.reports := by
    rw [hbr]
    exact List.mem_append_right _ List.mem_cons_self
  have hsettle := settleEdge_of_one (s := b) (p := part.toNat) (hbk.trans hk) (hbe.trans hn) (hbp.trans hl) (hbt ▸ htp) (Or.inl hmem)
  rw [hedge, hbd, hbn, if_pos hin, if_neg (fun h => absurd hmem (by rw [List.isEmpty_iff.mp h]; exact List.not_mem_nil))] at hsettle
  obtain ⟨hat, hao, hah⟩ := announce_overrun b
    { newEdge := BitVec.ofNat 16 (ceilDiv b.longest 100), overrun := true, sheafs := b.tick.namedSheafs.map (BitVec.ofNat 12) } rfl rfl
  rw [← hsettle, ← hreport] at hat hao hah
  refine completes_finishReport hnew hc (u := c.reportFrom part.toNat ns true (ids.map BitVec.toNat)) ?_ ⟨hat.trans (by rw [hbl]), hao⟩
  rw [if_pos hkeep, settleIfClear_of_none (hah.trans (hbh.trans hheld))]

end

/-! ## The statement -/

/-- Settles O24: each word by what a part does that hears it, and the announcements it makes of it. -/
theorem announcementsMoveTheEdge : Obligations.AnnouncementsMoveTheEdge := by
  unfold Obligations.AnnouncementsMoveTheEdge
  refine ⟨fun port w s hnew ho hn hr => edgeAnnouncement_settles hnew ho hn hr, fun port part s hheld => ⟨fun tick hnew =>
    ⟨fun hk => lateNotice_carried hnew hk, fun hk ht hl => lateNotice_kept hnew hk ht hl⟩, fun ns late ids hnew =>
    ⟨fun hk => finishReport_carried hnew hk, fun hk hlate hn hr hf hl h2 h1 htp => finishReport_finish hnew hheld hk hn hl htp hlate hr hf h1 h2,
      fun hk hlate hn hl htp hin => finishReport_overrun hnew hheld hk hn hl htp hlate hin⟩, fun w hnew hd =>
    ⟨fun ho hn => edgeAnnouncement_newEdge hnew hheld hd ho hn, fun ho hn hp he hr => edgeAnnouncement_deferral hnew hheld ho hn hp he hr,
      fun ho => edgeAnnouncement_overrun hnew hheld hd ho, fun r n hw ht hm ho => ?_⟩⟩⟩
  subst hw
  exact edgeAnnouncement_raise hnew hheld (hd.resolve_right (Option.some_ne_none r)) ht hm ho

end Sys2Proof.Machine
end

section
/-! SUPPORT. What the work of a tick edge leaves of the time: commands that act, limits, commits, edges of channels and links. -/
namespace Sys2Proof.Machine

section
variable {s0 : State}

/-! ## Commands that act at the edge -/

theorem Works.closeNow {s : State} (hs : Works s0 s) {c : CmdId} {fn i epoch : Nat} : Works s0 (s.closeNow c fn i epoch) :=
  .ite (.complete hs) (.ite (.complete hs) (.complete (.releaseStream (.dropFeeds hs))))

theorem Works.unloadNow {s : State} (hs : Works s0 s) {c : CmdId} {j epoch : Nat} : Works s0 (s.unloadNow c j epoch) :=
  .ite (.complete hs) (.ite (.complete hs) (.complete (.dropProgram hs)))

theorem Works.feedNow {s : State} (hs : Works s0 s) {c : CmdId} {fn i epoch addr count : Nat} : Works s0 (s.feedNow c fn i epoch addr count) := by
  unfold State.feedNow
  extract_lets -merge +onlyGivenNames _
  exact .ite (.modStream hs) (.complete hs)

theorem Works.clearRegion {s : State} (hs : Works s0 s) {j slot : Nat} : Works s0 (s.clearRegion j slot) := by
  unfold State.clearRegion
  refine .foldl (fun _ _ h => ?_) (.foldl (fun _ _ h => .touchWrite h) hs)
  split
  · exact .touchWrite h
  · exact h

theorem Works.openNow {s : State} (hs : Works s0 s) {c : CmdId} {fn job epoch : Nat} {b : List Byte} : Works s0 (s.openNow c fn job epoch b) := by
  unfold State.openNow
  extract_lets -merge +onlyGivenNames _
  split
  · exact .complete (.clearRegion (.reserve (.setStream hs)))
  · exact .complete hs

theorem Works.cutBlock {s : State} (hs : Works s0 s) {j : Nat} {l : ListId} {slot b keep : Nat} : Works s0 (s.cutBlock j l slot b keep).1 := by
  unfold State.cutBlock
  split
  · next heq => exact .of_eq heq (.readEntry hs)
  · next heq =>
    have h1 := Works.of_eq heq (.readEntry hs)
    refine .ite_fst h1 ?_
    split
    · next heq => exact .of_eq heq (.readRefs (.setTableEntry h1))
    · next heq => exact .of_eq heq (.readRefs (.setTableEntry h1))

theorem Works.truncateTo {s : State} (hs : Works s0 s) {i len : Nat} : Works s0 (s.truncateTo i len) := by
  unfold State.truncateTo
  extract_lets -merge +onlyGivenNames s1 _ _ s2 _ _
  have h2 : Works s0 s2 := .leaveFrom (.modStream (.dropTokenReservation hs))
  split
  next heq =>
    refine .putStreamRec (.modStream (.of_eq heq (.ite_fst h2 (.foldl_fst (fun _ _ h => ?_) h2))))
    split
    next heq => exact .of_eq heq (.cutBlock h)

theorem Works.setNow {s : State} (hs : Works s0 s) {c : CmdId} {fn i epoch : Nat} {mask : Word} {b : List Byte} :
    Works s0 (s.setNow c fn i epoch mask b) :=
  .ite (.complete hs) (.complete (.ite (.truncateTo (.modStream hs)) (.modStream hs)))

theorem Works.act {s : State} (hs : Works s0 s) {w : Waiting} : Works s0 (s.act w) := by
  cases w with
  | unload => exact .unloadNow hs
  | openS => exact .openNow hs
  | feed => exact .feedNow hs
  | setP => exact .setNow hs
  | close => exact .closeNow hs
  | closeSilent => exact .closeSilently hs
  | done => exact .complete hs

theorem Works.actAll {s : State} (hs : Works s0 s) : Works s0 s.actAll := .foldl (fun _ _ h => .ite (.upd h) (.act h)) (.upd hs)

/-! ## Limits -/

theorem SameTime.putPwrStat {s : State} (hs : SameTime s0 s) {f : Fld} {v : Nat} (hf : f = F.pwrStat_cap ∨ f = F.pwrStat_fallback) :
    SameTime s0 (s.putF f 0 v) := by
  have hreg : f.reg = R.pwrStat := by rcases hf with rfl | rfl <;> rfl
  have hc : (s.putF f 0 v).getF F.tikCount_count = s.getF F.tikCount_count :=
    getF_of_regsIn (regsIn_putF (D := [R.pwrStat]) s f 0 v (by rw [hreg]; exact List.mem_cons_self)) (by decide) 0
  have hp : (s.putF f 0 v).getF F.pwrStat_state = s.getF F.pwrStat_state := by
    rcases hf with rfl | rfl
    · exact getF_putF_apart s F.pwrStat_cap F.pwrStat_state 0 v rfl (by decide)
    · exact getF_putF_apart s F.pwrStat_fallback F.pwrStat_state 0 v rfl (by decide)
  exact ⟨hs.now, hs.start, hs.otp, hs.running, hs.windowOpen, hs.edgeAt, hs.realignTo, hc.trans hs.count, hp.trans hs.power⟩

theorem flailLimit_reg (k : Nat) : (flailLimit k).reg ∈ [R.fllLimit0, R.fllLimit1, R.fllLimit2, R.fllLimit3] := by
  show [R.fllLimit0, R.fllLimit1, R.fllLimit2, R.fllLimit3].getD (k / 16) R.fllLimit0 ∈ _
  rw [List.getD_eq_getElem?_getD]
  cases h : [R.fllLimit0, R.fllLimit1, R.fllLimit2, R.fllLimit3][k / 16]? with
  | none => exact List.mem_cons_self
  | some r => exact List.mem_of_getElem? h

theorem apart_of_mem {D : List Reg} {r : Reg} (hr : r ∈ D)
    (hD : D.all (fun r => decide (R.tikCount.off / 8 ≠ r.off / 8 ∧ R.pwrStat.off / 8 ≠ r.off / 8)) = true) :
    R.tikCount.off / 8 ≠ r.off / 8 ∧ R.pwrStat.off / 8 ≠ r.off / 8 :=
  of_decide_eq_true (List.all_eq_true.mp hD r hr)

theorem SameTime.applyLimits {s : State} (hs : SameTime s0 s) : SameTime s0 s.applyLimits := by
  unfold State.applyLimits
  split
  · next l _ =>
    extract_lets -merge +onlyGivenNames s1 s2 s3 s4
    have h2 : SameTime s0 s2 := .foldl (fun _ _ h => .putF h) (.putPwrStat hs (Or.inl rfl))
    have h3 : SameTime s0 s3 := .foldl (fun _ _ h => .putF h (apart_of_mem (flailLimit_reg _) (by decide))) h2
    have h4 : SameTime s0 s4 := .ite (.putPwrStat h3 (Or.inr rfl)) (.ite (.putPwrStat h3 (Or.inr rfl)) h3)
    exact .setTick h4 rfl rfl rfl
  · exact .setTick hs rfl rfl rfl

/-! ## Edges of channels and links -/

theorem SameTime.holdChannel {s : State} (hs : SameTime s0 s) {now c : Nat} : SameTime s0 (s.holdChannel now c) := by
  unfold State.holdChannel
  split
  · exact hs
  · extract_lets -merge +onlyGivenNames s1 s2
    have h1 : SameTime s0 s1 := .putF (.modChan hs)
    have h2 : SameTime s0 s2 := .raise (.bump h1)
    have h3 : SameTime s0 (s2.failHold c) := .works (.modChan h2) (.errAll .same)
    exact .ite hs (.ite h3 h2)

theorem SameTime.endHotHold {s : State} (hs : SameTime s0 s) {k : Nat} : SameTime s0 (s.endHotHold k) := by
  unfold State.endHotHold
  extract_lets -merge +onlyGivenNames x s1
  have h0 : SameTime s0 (s.setStack k { x with hotHold := false, below102 := [] }) := .upd hs
  have h1 : SameTime s0 s1 := .works h0 (.showStack .same)
  exact .ite (.works h1 (.foldl (fun _ _ h => .startFlails h) .same)) hs

theorem SameTime.isolateTower {s : State} (hs : SameTime s0 s) {l : Nat} : SameTime s0 (s.isolateTower l) := by
  unfold State.isolateTower
  extract_lets -merge +onlyGivenNames t cs s1 s2 s3 s4 s5
  have h1 : SameTime s0 s1 := .works hs (.modLink .same)
  have h2 : SameTime s0 s2 := .raise (.countInStart h1)
  have h3 : SameTime s0 s3 := .foldl (fun s k h => by
    have h1 : SameTime s0 (s.errAcross k) := .works h (.errAcross .same)
    exact .putF (.ite h1 (.putF h1))) h2
  have h4 : SameTime s0 s4 := .works h3 (.foldl (fun _ _ h => .modChan (.errAll h)) .same)
  have h5 : SameTime s0 s5 := .foldl (fun _ _ h => .retireNow h) h4
  exact .ite h1 (.works h5 (.errsum (.degrade .same)))

theorem SameTime.linkEdge {s : State} (hs : SameTime s0 s) {l : Nat} : SameTime s0 (s.linkEdge l) := by
  unfold State.linkEdge
  extract_lets -merge +onlyGivenNames x h s1 s2
  have h1 : SameTime s0 s1 := .works hs (.setLink .same)
  have h2 : SameTime s0 s2 := .ite (.putF h1) h1
  exact .ite (.isolateTower hs) (.ite (.works (.raise (.putF h2)) (.checkNarrowed .same)) hs)

theorem SameTime.aloneKeeper {s : State} (hs : SameTime s0 s) : SameTime s0 s.aloneKeeper := by
  unfold State.aloneKeeper
  extract_lets -merge +onlyGivenNames was s1
  have h1 : SameTime s0 s1 := .putF (.putF hs)
  exact .ite hs (.ite h1 (.raise h1))

theorem SameTime.startRetrain {s : State} (hs : SameTime s0 s) : SameTime s0 s.startRetrain := by
  unfold State.startRetrain
  split
  · exact hs
  · extract_lets -merge +onlyGivenNames s1 s2
    have h2 : SameTime s0 s2 := .works hs (.movePort (.setPort .same))
    exact .aloneKeeper (.putF (.putF h2))

theorem SameTime.channelEdges {s : State} (hs : SameTime s0 s) {now : Nat} : SameTime s0 (s.channelEdges now) := by
  unfold State.channelEdges
  extract_lets -merge +onlyGivenNames _ _ _ s1 s2 s3 s4
  have h1 : SameTime s0 s1 := .foldl (fun _ _ h => .ite h (.narrowChannel h)) hs
  have h2 : SameTime s0 s2 := .foldl (fun _ _ h => .retireNow h) h1
  have h3 : SameTime s0 s3 := .foldl (fun _ _ h => .holdChannel h) h2
  have h4 : SameTime s0 s4 := .foldl (fun _ _ h => .endHotHold h) h3
  exact .startRetrain (.foldl (fun _ _ h => .linkEdge h) h4)

/-! ## Commits -/

theorem SameTime.recordApplied {s : State} (hs : SameTime s0 s) {source : Nat} {deferred : Bool} : SameTime s0 (s.recordApplied source deferred) :=
  .putF (.putF (.putF (.putF (.putF hs))))

theorem SameTime.showDiff {s : State} (hs : SameTime s0 s) : SameTime s0 s.showDiff := .putF (.putF hs)

theorem SameTime.tell {s : State} (hs : SameTime s0 s) {w : CtlWord} : SameTime s0 (s.tell w) := .overran hs (.tell .same)

theorem SameTime.putStagedF {s : State} (hs : SameTime s0 s) {f : Fld} {i v : Nat} : SameTime s0 (s.putStagedF f i v) := .upd hs

theorem SameTime.applyRaise {s : State} (hs : SameTime s0 s) {cell : Option Nat} {us : Nat} {moved : Bool} :
    SameTime s0 (s.applyRaise cell us moved) := by
  unfold State.applyRaise
  extract_lets -merge +onlyGivenNames _ s1 s2 s3 s4
  have h1 : SameTime s0 s1 := .putF (.putF hs)
  have h2 : SameTime s0 s2 := .putStagedF h1
  have h3 : SameTime s0 s3 := .ite (.upd h2) h2
  have h4 : SameTime s0 s4 := .ite h1 (.putF h3)
  refine .ite ?_ (.showDiff (.recordApplied h4))
  split
  · exact .works hs (.failProgram (.worsen .same))
  · exact hs

theorem SameTime.declareRaise {s : State} (hs : SameTime s0 s) {cell : Option Nat} {us : Nat} : SameTime s0 (s.declareRaise cell us) :=
  .ite (.applyRaise hs) (.ite (.tell (.upd hs)) (.tell (.upd hs)))

theorem SameTime.replaceSlow {s : State} (hs : SameTime s0 s) {j c : Nat} {t : Stage} : SameTime s0 (s.replaceSlow j c t) := by
  unfold State.replaceSlow
  split
  · exact .upd hs
  · exact .declareRaise hs

theorem SameTime.applyRepair {s : State} (hs : SameTime s0 s) {c spare : Nat} {moved : Bool} : SameTime s0 (s.applyRepair c spare moved) := by
  unfold State.applyRepair
  split
  · exact hs
  · have h1 : ∀ {u c f}, SameTime s0 u → SameTime s0 (u.modCell c f) := fun h => .works h (.modCell .same)
    refine .ite (.ite (.moveStage hs) (.replaceSlow hs)) (.recordApplied ?_)
    exact .works (.ite (.putF (h1 hs)) (.retireCell (.putF (h1 hs)))) (.modProg .same)

theorem SameTime.applyAuto {s : State} (hs : SameTime s0 s) {a : AutoCommit} : SameTime s0 (s.applyAuto a) := by
  unfold State.applyAuto
  split
  · exact .applyRepair hs
  · exact .applyRaise hs
  · exact hs

theorem SameTime.openRingCommit {s : State} (hs : SameTime s0 s) : SameTime s0 s.openRingCommit := by
  unfold State.openRingCommit
  extract_lets -merge +onlyGivenNames tgt r s1
  have h1 : SameTime s0 s1 := .setRing hs rfl
  exact .ite hs (.tell h1)

theorem SameTime.accept {s : State} (hs : SameTime s0 s) {steading align : Bool} {captured : List (Nat × Word)} {images : List Nat} :
    SameTime s0 (s.accept steading align captured images) := by
  unfold State.accept
  extract_lets -merge +onlyGivenNames _ _ _ s1 s2 s3
  have h1 : SameTime s0 s1 := .upd hs
  have h3 : SameTime s0 s3 := .foldl (fun _ _ h => .tell h) (.putF (.putF (.putF h1)))
  exact .ite h3 (.ite (.openRingCommit h3) (.tell h3))

theorem SameTime.startAlign {s : State} (hs : SameTime s0 s) : SameTime s0 s.startAlign := by
  unfold State.startAlign
  split
  · exact hs
  · extract_lets -merge +onlyGivenNames put cap r s1
    have h1 : SameTime s0 s1 := .setRing hs rfl
    exact .ite hs (.ite h1 (.accept h1))

theorem SameTime.recordFail {s : State} (hs : SameTime s0 s) {steading : Bool} {code off inst : Nat} :
    SameTime s0 (s.recordFail steading code off inst) :=
  .putF (.putF (.putF (.putF (.putF (.putF (.putF hs))))))

theorem SameTime.closePlanes {s : State} (hs : SameTime s0 s) {ks : List Nat} : SameTime s0 (s.closePlanes ks) := by
  unfold State.closePlanes
  extract_lets -merge +onlyGivenNames s1
  have h1 : SameTime s0 s1 := .foldl (fun _ _ h => .putF (.putF h)) hs
  exact .aloneKeeper (.setRing h1 rfl)

theorem SameTime.spread {s : State} (hs : SameTime s0 s) {b : Nat × Nat} : SameTime s0 (s.spread b) := by
  unfold State.spread
  have h1 : SameTime s0 { s with ring := { s.ring with best := some b } } := .setRing hs rfl
  exact .tell h1

theorem SameTime.enterElection {s : State} (hs : SameTime s0 s) : SameTime s0 s.enterElection := by
  unfold State.enterElection
  extract_lets -merge +onlyGivenNames r s1
  have h1 : SameTime s0 s1 := .setRing hs rfl
  exact .ite hs (.spread h1)

theorem SameTime.mismatch {s : State} (hs : SameTime s0 s) {us : Nat} : SameTime s0 (s.mismatch us) := by
  unfold State.mismatch
  extract_lets -merge +onlyGivenNames s1 r s2 s3
  have h1 : SameTime s0 s1 := .closePlanes hs
  have h2 : SameTime s0 s2 := .setRing h1 rfl
  have h3 : SameTime s0 s3 := .raise (.putF h2)
  exact .ite h3 (.enterElection h3)

theorem realignTo_ite {r : Ring} (b : Bool) : (if b then { r with commit := none } else r).realignTo = r.realignTo := by
  cases b with
  | false => rfl
  | true => rfl

theorem SameTime.failCommit {s : State} (hs : SameTime s0 s) {f : Nat × Nat × Nat} : SameTime s0 (s.failCommit f) := by
  unfold State.failCommit
  split
  · exact hs
  · next c _ =>
    extract_lets -merge +onlyGivenNames s1 r s2 s3 s4
    have h1 : SameTime s0 s1 := .works hs (.foldl (fun _ _ h => .setSheaf h) .same)
    have hr : SameTime s0 { s1 with ring := if c.ringed then { s1.ring with commit := none } else s1.ring } := .setRing h1 (realignTo_ite _)
    have h2 : SameTime s0 s2 := .upd hr
    have h3 : SameTime s0 s3 := .putF (.recordFail h2)
    exact .startAlign (.ite (.mismatch h3) h3)

theorem SameTime.takeBudget {s : State} (hs : SameTime s0 s) {d : SheafDesc} : SameTime s0 (s.takeBudget d) :=
  .ite (.putF hs) (.putStagedF (.putF hs))

theorem SameTime.activate {s : State} (hs : SameTime s0 s) {j : Nat} : SameTime s0 (s.activate j) := by
  unfold State.activate
  extract_lets -merge +onlyGivenNames _ s1 s2 s3 s4
  have h1 : SameTime s0 s1 := .works hs (.modProg .same)
  have h2 : SameTime s0 s2 := .foldl (fun _ _ h => .putF h) h1
  have h3 : SameTime s0 s3 := .ite (.putF h2) h2
  have h4 : SameTime s0 s4 := .foldl (fun _ _ h => .takeBudget h) h3
  refine .ite hs (.foldl (fun _ _ h => ?_) h4)
  exact .putF (.putF (.putF (.takeBudget (.setReg (.works h (.setSheaf .same))))))

theorem SameTime.putActiveKey {s : State} (hs : SameTime s0 s) {k : Nat} {v : Word} : SameTime s0 (s.putActiveKey k v) := by
  unfold State.putActiveKey
  split
  · next hr => exact .setReg hs (apart_of_mem (mem_of_keyReg hr) (by decide))
  · exact hs

theorem SameTime.putStagedKey {s : State} (hs : SameTime s0 s) {k : Nat} {v : Word} : SameTime s0 (s.putStagedKey k v) := by
  unfold State.putStagedKey
  split
  · exact .upd hs
  · exact hs

theorem BucketId.level_apart (b : BucketId) : R.tikCount.off / 8 ≠ b.level.reg.off / 8 ∧ R.pwrStat.off / 8 ≠ b.level.reg.off / 8 := by
  cases b <;> simp only [BucketId.level] <;> decide

theorem SameTime.rethresh {s : State} (hs : SameTime s0 s) : SameTime s0 s.rethresh := by
  unfold State.rethresh
  exact .foldl (fun _ b h => .ite (.putF (.upd h) b.level_apart) h) hs

theorem SameTime.startRamp {s : State} (hs : SameTime s0 s) {d : Nat} : SameTime s0 (s.startRamp d) := .putF (.upd hs)

theorem SameTime.applyCommit {s : State} (hs : SameTime s0 s) {c : CommitSt} : SameTime s0 (s.applyCommit c) := by
  unfold State.applyCommit
  extract_lets -merge +onlyGivenNames _ _ s1 s2 s3 s4 s5 s6 r s7
  have h1 : SameTime s0 s1 := .ite (.upd hs) hs
  have h2 : SameTime s0 s2 := .foldl (fun _ _ h => .activate h) h1
  have h3 : SameTime s0 s3 := .foldl (fun _ _ h => .ite (.putActiveKey h) (.putStagedKey (.putActiveKey h))) h2
  have h4 : SameTime s0 s4 := .ite h3 (.putF h3)
  have h5 : SameTime s0 s5 := .ite (.rethresh h4) h4
  have h6 : SameTime s0 s6 := .foldl (fun _ _ h => .startRamp h) h5
  have hr : SameTime s0 { s6 with ring := if c.ringed then { s6.ring with commit := none } else s6.ring } := .setRing h6 (realignTo_ite _)
  have h7 : SameTime s0 s7 := .upd hr
  exact .startAlign (.showDiff (.recordApplied h7))

theorem SameTime.commitsAtEdge {s : State} (hs : SameTime s0 s) {replay : Bool} : SameTime s0 (s.commitsAtEdge replay) := by
  unfold State.commitsAtEdge
  extract_lets -merge +onlyGivenNames _ _ s1 s2
  have h1 : SameTime s0 s1 := .upd hs
  have h2 : SameTime s0 s2 := .ite h1 (.foldl (fun _ _ h => .applyAuto h) h1)
  split
  · exact h2
  · refine .ite h2 (.ite h2 (.ite ?_ ?_))
    · extract_lets -merge +onlyGivenNames s3 s4 s5
      have h3 : SameTime s0 s3 := .upd h2
      have h4 : SameTime s0 s4 := .ite (.putF h3) h3
      have h5 : SameTime s0 s5 := .ite (.overran h4 (.moveTarget .same)) h4
      refine .ite h5 ?_
      split
      · exact .failCommit h5
      · exact h5
    · split
      · exact .failCommit h2
      · exact .applyCommit h2

/-! ## The edge -/

theorem SameTime.releaseResets {s : State} (hs : SameTime s0 s) {now : Nat} : SameTime s0 (s.releaseResets now) := by
  unfold State.releaseResets
  extract_lets -merge +onlyGivenNames _ stay _ s1
  have h0 : SameTime s0 { s with resets := stay } := .upd hs
  exact .works h0 (.foldl (fun _ _ h => .modCell h) (.showResets .same))

/-- What a load does before the snapshot is published. -/
def State.loaded (s : State) (now : Nat) : State :=
  let s := s.applyLimits
  let s := s.commitsAtEdge ((List.range 8).any s.willReplay)
  let s := (s.actAll.channelEdges now).releaseResets now
  let s := s.activeJobs.foldl State.releaseProgram s
  let s := s.openStreams.foldl (fun s i => s.modStream i (fun t => { t with lenEdge := t.length })) s
  { s with tick := { s.tick with replaying := s.activeJobs.any (fun j => (s.prog j).replaying) } }

theorem load_eq (s : State) (now : Nat) : s.load now = (s.loaded now).publish := rfl

theorem SameTime.loaded {s : State} (hs : SameTime s0 s) {now : Nat} : SameTime s0 (s.loaded now) := by
  unfold State.loaded
  extract_lets -merge +onlyGivenNames s1 s2 s3 s4 s5
  have h2 : SameTime s0 s2 := .commitsAtEdge (.applyLimits hs)
  have h3 : SameTime s0 s3 := .releaseResets (.channelEdges (.works h2 (.actAll .same)))
  have h4 : SameTime s0 s4 := .works h3 (.foldl (fun _ _ h => .releaseProgram h) .same)
  have h5 : SameTime s0 s5 := .works h4 (.foldl (fun _ _ h => .modStream h) .same)
  clear_value s5
  exact .setTick h5 rfl rfl rfl

theorem SameTime.closeTick {s : State} (hs : SameTime s0 s) : SameTime s0 s.closeTick := by
  unfold State.closeTick
  extract_lets -merge +onlyGivenNames _ s1 s2 s3
  have h1 : SameTime s0 s1 := .putF hs
  have h2 : SameTime s0 s2 := .ite (.bump h1) (.ite (.bump h1) h1)
  have h3 : SameTime s0 s3 := .works h2 (.foldl (fun _ _ h => .foldl (fun _ _ h => .recordIdle h) h) .same)
  have h4 : SameTime s0 s3.countLate := .setRing h3 rfl
  exact .works h4 (.foldl (fun _ _ h => .closeSheaf h) .same)

theorem SameTime.sendRecords {s : State} (hs : SameTime s0 s) : SameTime s0 s.sendRecords :=
  have h1 : SameTime s0 { s with ueTick := [] } := .upd hs
  .works h1 (.foldl (fun _ _ h => .sendRecord h) .same)

end

/-- With no count to take over from the ring, the count goes up by one. -/
theorem nextCount_of_none {s : State} (hr : s.ring.realignTo = none) : s.nextCount = s.putF F.tikCount_count 0 (s.getF F.tikCount_count + 1) := by
  unfold State.nextCount
  rw [hr]

theorem freshTick_facts (s : State) (now : Nat) : (s.freshTick now).tick.edgeAt = now ∧ (s.freshTick now).tick.windowOpen = false ∧
    (s.freshTick now).start = s.start ∧ (s.freshTick now).getF F.tikCount_count = s.getF F.tikCount_count := by
  unfold State.freshTick
  extract_lets -merge +onlyGivenNames t r s1
  have h1 : s1.tick.edgeAt = now ∧ s1.tick.windowOpen = false ∧ s1.start = s.start ∧ s1.getF F.tikCount_count = s.getF F.tikCount_count :=
    ⟨rfl, rfl, rfl, rfl⟩
  clear_value s1
  split
  · have h := SameTime.tell (s0 := s1) (s := s1) .same (w := .marker (BitVec.ofNat 32 (s1.getF F.tikCount_count)) 0)
    obtain ⟨he, hw, hst, hc⟩ := h1
    exact ⟨h.edgeAt.trans he, h.windowOpen.trans hw, h.start.trans hst, h.count.trans hc⟩
  · exact h1

theorem publish_eq (s : State) : ∃ snap : Snap, s.publish = { s with snap := snap } ∧ snap.valid = true ∧ snap.edge = s.getF F.tikCount_count :=
  ⟨_, rfl, rfl, rfl⟩

/-- What the load leaves of a tick that is fresh, with the snapshot of its edge. -/
theorem load_facts (s : State) (now : Nat) : (s.load now).getF F.tikCount_count = s.getF F.tikCount_count ∧ (s.load now).tick.edgeAt = s.tick.edgeAt ∧
    (s.load now).tick.windowOpen = s.tick.windowOpen ∧ (s.load now).snap.valid = true ∧
    (s.load now).snap.edge = (s.load now).getF F.tikCount_count := by
  have h := SameTime.loaded (s0 := s) (s := s) .same (now := now)
  rw [load_eq]
  generalize s.loaded now = u at h ⊢
  obtain ⟨snap, heq, hv, he⟩ := publish_eq u
  rw [heq]
  exact ⟨h.count, h.edgeAt, h.windowOpen, hv, he⟩

theorem takeEdge_facts {s : State} {now : Nat} (hr : s.ring.realignTo = none) (h1 : s.getF F.pwrStat_state ≠ 1) (h3 : s.getF F.pwrStat_state ≠ 3)
    (hw : s.start.warmReset = false) : (s.takeEdge now).getF F.tikCount_count = (s.getF F.tikCount_count + 1) % 2 ^ 64 ∧
      (s.takeEdge now).tick.edgeAt = now ∧ (s.takeEdge now).tick.windowOpen = false ∧ (s.takeEdge now).snap.valid = true ∧
      (s.takeEdge now).snap.edge = (s.takeEdge now).getF F.tikCount_count := by
  have hv : SameTime s s.settleHeld.closeTick.sendRecords := .sendRecords (.closeTick (.settleHeld .same))
  unfold State.takeEdge
  generalize s.settleHeld.closeTick.sendRecords = v at hv ⊢
  rw [nextCount_of_none (hv.realignTo.trans hr)]
  extract_lets -merge +onlyGivenNames u u1
  have hp : u.getF F.pwrStat_state = s.getF F.pwrStat_state :=
    (getF_of_regsIn (regsIn_putF (D := [R.tikCount]) v F.tikCount_count 0 _ List.mem_cons_self) (by decide) 0).trans hv.power
  have hc : u.getF F.tikCount_count = (s.getF F.tikCount_count + 1) % 2 ^ 64 := by
    rw [← hv.count]
    exact getF_putF_same v F.tikCount_count 0 _ (by decide)
  have hst : u.start = s.start := hv.start
  obtain ⟨he, hwin, hst1, hc1⟩ : u1.tick.edgeAt = now ∧ u1.tick.windowOpen = false ∧ u1.start = u.start ∧
    u1.getF F.tikCount_count = u.getF F.tikCount_count := freshTick_facts u now
  clear_value u1 u
  rw [if_neg (by rw [hp]; exact h1), if_neg (by rw [hp]; exact h3), if_neg (by rw [hst1, hst, hw, Bool.false_and]; decide)]
  have hload := load_facts { u1 with start := { u1.start with warmReset := false } } now
  generalize State.load _ now = w at hload ⊢
  obtain ⟨hc2, he2, hw2, hv2, hs2⟩ := hload
  have hc3 : w.getF F.tikCount_count = u1.getF F.tikCount_count := hc2
  exact ⟨hc3.trans (hc1.trans hc), he2.trans he, hw2.trans hwin, hv2, hs2⟩

/-- An edge that no late part keeps open, or that has been announced, is not settled again. -/
theorem settleEdge_of_settled {s : State} (h : s.tick.deferred = false ∧ s.tick.lateParts = [] ∨ s.tick.newEdge.isSome = true) :
    s.settleEdge = s := by
  unfold State.settleEdge
  extract_lets -merge +onlyGivenNames t ps
  refine if_pos ?_
  rcases h with ⟨-, hl⟩ | hn
  · have hps : ps.isEmpty = true := by
      show s.lateOnes.isEmpty = true
      unfold State.lateOnes
      rw [hl]
      split <;> rfl
    rw [hps]
    simp only [Bool.or_true, Bool.true_or]
  · have hn' : t.newEdge.isSome = true := hn
    rw [hn']
    simp only [Bool.or_true, Bool.true_or]

/-- An edge that is not deferred, or that has been announced, is known. -/
theorem edgeUnknown_of_settled {s : State} (h : s.tick.deferred = false ∧ s.tick.lateParts = [] ∨ s.tick.newEdge.isSome = true) :
    s.edgeUnknown = false := by
  unfold State.edgeUnknown
  rcases h with ⟨hd, -⟩ | hn
  · rw [hd, Bool.false_and, Bool.false_and]
  · rw [Option.isNone_eq_false_iff.mpr hn, Bool.and_false, Bool.false_and]

/-- Settles O19: what comes before and after the count at an edge leaves the time, and the load publishes the snapshot of its end. -/
theorem theEdgeAdvancesTheCount : Obligations.TheEdgeAdvancesTheCount := by
  unfold Obligations.TheEdgeAdvancesTheCount
  intro now s hrun hheld hopen hset hfalls hpause hre h1 h3 hwarm
  have hfalls' : ¬ now + 20 < (s.begin.at_ now).edgeFalls := Nat.not_lt.mpr hfalls
  have hedge : opTickEdge now s.begin = (s.begin.at_ now).takeEdge now := by
    unfold opTickEdge
    have hset' := settleEdge_of_settled (s := s.begin.at_ now) hset
    have hkn := edgeUnknown_of_settled (s := s.begin.at_ now) hset
    extract_lets -merge +onlyGivenNames u v
    have hv : v = s.begin.at_ now := hset'
    have hrun' : u.tick.running = true := hrun
    have hheld' : u.tick.held = false := hheld
    have hopen' : v.tick.windowOpen = true := hv ▸ hopen
    have hpause' : v.ring.pauseNext = false := hv ▸ hpause
    rw [if_neg (by rw [hrun']; decide), if_neg (by rw [hheld']; decide), if_neg (by rw [hopen', hv, hkn, decide_eq_false hfalls']; decide),
      if_neg (by rw [hpause']; decide), hv]
  refine completes_of_run (f := opTickEdge now) rfl ?_
  have h := takeEdge_facts (s := s.begin.at_ now) (now := now) hre h1 h3 hwarm
  rw [hedge]
  exact h

end Sys2Proof.Machine
end

section
/-! SUPPORT. A channel's controller reset, a margin request and a failed wire (R261, R263, R268), and the statement on them (O42). -/
namespace Sys2Proof.Machine

/-! ## A controller reset that is set -/

theorem sameMemories_trans {s t u : State} (h : sameMemories s t) (h' : sameMemories t u) : sameMemories s u := by
  obtain ⟨hd, hh, hf, ho, hr⟩ := h
  obtain ⟨hd', hh', hf', ho', hr'⟩ := h'
  exact ⟨hd'.trans hd, hh'.trans hh, hf'.trans hf, ho'.trans ho, hr'.trans hr⟩

/-- What the end of flail commands leaves: the accesses that wait, and the host's memory. -/
def sameAccesses (s t : State) : Prop := t.accWait = s.accWait ∧ t.hostMem = s.hostMem

theorem sameAccesses_refl (s : State) : sameAccesses s s := ⟨rfl, rfl⟩

theorem sameAccesses_trans (s t u : State) (h : sameAccesses s t) (h' : sameAccesses t u) : sameAccesses s u :=
  ⟨h'.1.trans h.1, h'.2.trans h.2⟩

theorem sameAccesses_ite {s t u : State} {c : Prop} [Decidable c] (h : sameAccesses s t) (h' : sameAccesses s u) :
    sameAccesses s (if c then t else u) := by
  split
  · exact h
  · exact h'

theorem sameAccesses_writeDev (s : State) (a : Nat) (bs : List Byte) : sameAccesses s (s.writeDev a bs) := by
  unfold State.writeDev
  extract_lets -merge +onlyGivenNames parts whole part mem s1 s2
  have h2 : sameAccesses s s2 := ⟨rfl, rfl⟩
  refine sameAccesses_trans _ _ _ h2 (foldl_rel sameAccesses_refl sameAccesses_trans (fun s w => ?_) _ s2)
  exact ⟨rfl, rfl⟩

theorem sameAccesses_abandonOp (s : State) (c : Nat) (f : FlailCmd) : sameAccesses s (s.abandonOp c f) := by
  unfold State.abandonOp
  extract_lets -merge +onlyGivenNames s1 s2
  have h1 : sameAccesses s s1 := ⟨rfl, rfl⟩
  have h2 : sameAccesses s s2 := sameAccesses_ite (sameAccesses_trans _ _ _ h1 ⟨rfl, rfl⟩) h1
  exact sameAccesses_ite (sameAccesses_trans _ _ _ h2 (sameAccesses_trans _ _ _ (sameAccesses_writeDev s2 _ _) ⟨rfl, rfl⟩))
    (sameAccesses_ite (sameAccesses_trans _ _ _ h2 ⟨rfl, rfl⟩) h2)

theorem abandonFlails_spec (s : State) (c : Nat) : ((s.abandonFlails c false).chan c).flails = [] ∧ sameAccesses s (s.abandonFlails c false) := by
  unfold State.abandonFlails
  extract_lets -merge +onlyGivenNames fs s1 s2 s3 s4
  have h1 : sameAccesses s s1 := foldl_rel sameAccesses_refl sameAccesses_trans (fun s f => sameAccesses_abandonOp s c f) _ s
  have h3 : sameAccesses s s3 := sameAccesses_ite (sameAccesses_trans _ _ _ h1 ⟨rfl, rfl⟩) h1
  have h4 : (s4.chan c).flails = [] := congrArg Chan.flails (chan_setChan_same ..)
  exact ⟨h4, sameAccesses_trans _ _ _ h3 ⟨rfl, rfl⟩⟩

theorem selfRefresh_spec (s : State) (c : Nat) (on : Bool) : (s.selfRefresh c on).chan c = { s.chan c with selfRefresh := on } ∧
    sameAccesses s (s.selfRefresh c on) ∧ sameMemories s (s.selfRefresh c on) := by
  have hframe : ∀ u : State, (u.showRefresh c).chans = u.chans ∧ sameAccesses u (u.showRefresh c) ∧ sameMemories u (u.showRefresh c) := fun u => by
    unfold State.showRefresh
    extract_lets k self v
    clear_value v
    exact ⟨rfl, ⟨rfl, rfl⟩, rfl, rfl, rfl, rfl, rfl⟩
  obtain ⟨hchans, hacc, hmem⟩ := hframe (s.modChan c (fun x => { x with selfRefresh := on }))
  rw [State.selfRefresh]
  generalize (s.modChan c (fun x => { x with selfRefresh := on })).showRefresh c = u at hchans hacc hmem ⊢
  refine ⟨?_, hacc, hmem⟩
  rw [State.chan, hchans]
  exact chan_setChan_same ..

/-- A channel whose reset is set, before what it did ends. -/
def State.resetSet (s : State) (c : Nat) : State :=
  (((s.putF F.vccCtl_reset c 1).markStale 2 c).modChan c (fun x => { x with
    retrainStart := none, heldSince := none, rakeCredit := 0, rakeBehind := false })).putF F.vccStat_state c vccInReset

theorem opChannelReset_set {c : Nat} {s : State} (hst : s.chanState c ≠ vccRetired) (hoff : s.onF F.vccCtl_reset c = false) :
    opChannelReset c true s = (((s.resetSet c).errAll c).abandonFlails c false).selfRefresh c true := by
  have hst' : ((s.putF F.vccCtl_reset c 1).markStale 2 c).chanState c = s.chanState c :=
    getF_putF_off s F.vccCtl_reset F.vccStat_state c c 1 (by decide)
  refine (if_neg ?_).trans (if_pos rfl)
  rintro (h | h)
  · exact hst (hst'.symm.trans h)
  · rw [hoff] at h
    cases h

theorem channelReset_sets {by_ : Requester} {c : Nat} {s : State} (hw : s.writes by_ R.vccCtl.off = true)
    (hc : c = s.sel by_ F.vccSel_channel) (hst : s.chanState c ≠ vccRetired) (hoff : s.onF F.vccCtl_reset c = false) :
    completes (.channelReset by_ true) s (fun t =>
      t.onF F.vccCtl_reset c = true ∧ t.chanState c = vccInReset ∧ (t.chan c).flails = [] ∧
      (t.chan c).retrainStart = none ∧ (t.chan c).selfRefresh = true ∧
      (nothingWaitsAt c s → t.accWait = s.accWait ∧ t.hostMem = s.hostMem)) := by
  have hop : (fun s : State => if s.writes by_ R.vccCtl.off then opChannelReset (s.sel by_ F.vccSel_channel) true s else s) s.begin =
      (((s.begin.resetSet c).errAll c).abandonFlails c false).selfRefresh c true := by
    refine (if_pos hw).trans ?_
    rw [show s.begin.sel by_ F.vccSel_channel = c from hc.symm]
    exact opChannelReset_set hst hoff
  have hworks : Works (s.begin.resetSet c) ((((s.begin.resetSet c).errAll c).abandonFlails c false).selfRefresh c true) :=
    .selfRefresh (.abandonFlails (.errAll .same))
  obtain ⟨hnone, hsame⟩ := abandonFlails_spec ((s.begin.resetSet c).errAll c) c
  obtain ⟨hself, hacc, -⟩ := selfRefresh_spec (((s.begin.resetSet c).errAll c).abandonFlails c false) c true
  have hreset : (s.begin.resetSet c).getF F.vccCtl_reset c = 1 :=
    (getF_putF_off _ F.vccStat_state F.vccCtl_reset c c vccInReset (by decide)).trans (getF_putF_same s.begin F.vccCtl_reset c 1 (by decide))
  have hstate : (s.begin.resetSet c).chanState c = vccInReset := getF_putF_same _ F.vccStat_state c vccInReset (by decide)
  have htrain : ((s.begin.resetSet c).chan c).retrainStart = none := congrArg Chan.retrainStart (chan_setChan_same ..)
  have hwait : nothingWaitsAt c s → sameAccesses s (((s.begin.resetSet c).errAll c).abandonFlails c false) := fun h => by
    have h' : nothingWaitsAt c (s.begin.resetSet c) := h
    rw [errAll_idle h'] at hsame ⊢
    exact sameAccesses_trans s (s.begin.resetSet c) _ ⟨rfl, rfl⟩ hsame
  generalize ((s.begin.resetSet c).errAll c).abandonFlails c false = v at hop hworks hnone hself hacc hwait
  generalize v.selfRefresh c true = t at hop hworks hself hacc
  refine completes_of_eq (f := fun s : State => if s.writes by_ R.vccCtl.off then opChannelReset (s.sel by_ F.vccSel_channel) true s else s) rfl hop
    ⟨onF_of_bit (b := true) ((getF_of_works hworks (by decide) c).trans hreset), (hworks.chanState c).trans hstate, ?_,
      (hworks.trains c).trans htrain, congrArg Chan.selfRefresh hself, fun h => sameAccesses_trans s v t (hwait h) hacc⟩
  exact (congrArg Chan.flails hself).trans hnone

/-! ## A controller reset that is cleared -/

/-- A channel whose reset is cleared, before it trains. -/
def State.resetCleared (s : State) (c : Nat) : State :=
  ((((s.putF F.vccCtl_reset c 0).markStale 2 c).putF F.vccStat_state c (s.servingState c)).selfRefresh c false).putF F.vccTrain_pending c 0

/-- A channel that trains from an instant, and has asked for nothing. -/
def Chan.training (x : Chan) (now : Nat) : Chan := { x with retrainStart := some now, want := false, wantUrgent := false, waited := 0 }

/-- A channel trains from an instant on. -/
def State.trainsFrom (s : State) (c now : Nat) : State := (s.putF F.vccTrain_urgent c 0).modChan c (fun x => x.training now)

theorem trainsFrom_spec (u : State) (c now : Nat) : (u.trainsFrom c now).onF F.vccCtl_reset c = u.onF F.vccCtl_reset c ∧
    (u.trainsFrom c now).chanState c = u.chanState c ∧ (u.trainsFrom c now).onF F.vccTrain_pending c = u.onF F.vccTrain_pending c ∧
    (u.trainsFrom c now).onF F.vccTrain_urgent c = false ∧ (u.trainsFrom c now).chan c = (u.chan c).training now ∧
    sameMemories u (u.trainsFrom c now) := by
  refine ⟨onF_of_getF ?_, ?_, onF_of_getF ?_, onF_of_bit (b := false) (getF_putF_same u F.vccTrain_urgent c 0 (by decide)),
    chan_setChan_same .., rfl, rfl, rfl, rfl, rfl⟩
  · exact getF_putF_off u F.vccTrain_urgent F.vccCtl_reset c c 0 (by decide)
  · exact getF_putF_off u F.vccTrain_urgent F.vccStat_state c c 0 (by decide)
  · exact getF_putF_apart u F.vccTrain_urgent F.vccTrain_pending c 0 rfl (by decide)

theorem opChannelReset_clear {c : Nat} {s : State} (hst : s.chanState c ≠ vccRetired) (hon : s.onF F.vccCtl_reset c = true) :
    opChannelReset c false s = (s.resetCleared c).trainsFrom c s.now := by
  have hst' : ((s.putF F.vccCtl_reset c 0).markStale 2 c).chanState c = s.chanState c :=
    getF_putF_off s F.vccCtl_reset F.vccStat_state c c 0 (by decide)
  refine (if_neg ?_).trans (if_neg (by decide))
  rintro (h | h)
  · exact hst (hst'.symm.trans h)
  · rw [hon] at h
    cases h

theorem servingState_lt (s : State) (c : Nat) : s.servingState c % 2 ^ F.vccStat_state.width = s.servingState c := by
  unfold State.servingState
  split
  · decide
  · decide

theorem chan_putF (s : State) (f : Fld) (i v c : Nat) : (s.putF f i v).chan c = s.chan c := rfl

theorem sameMemories_putF {s t : State} (f : Fld) (i v : Nat) (h : sameMemories s t) : sameMemories s (t.putF f i v) := h

theorem resetCleared_spec (s : State) (c : Nat) : (s.resetCleared c).onF F.vccCtl_reset c = false ∧
    (s.resetCleared c).chanState c = s.servingState c ∧ (s.resetCleared c).onF F.vccTrain_pending c = false ∧
    (s.resetCleared c).chan c = { s.chan c with selfRefresh := false } ∧ sameMemories s (s.resetCleared c) := by
  unfold State.resetCleared
  generalize hu : (s.putF F.vccCtl_reset c 0).markStale 2 c = u
  have hreset : u.getF F.vccCtl_reset c = 0 := hu ▸ getF_putF_same s F.vccCtl_reset c 0 (by decide)
  have hsame : sameMemories s (u.putF F.vccStat_state c (s.servingState c)) ∧ (u.putF F.vccStat_state c (s.servingState c)).chan c = s.chan c :=
    hu ▸ ⟨⟨rfl, rfl, rfl, rfl, rfl⟩, rfl⟩
  obtain ⟨hchan, -, hmem⟩ := selfRefresh_spec (u.putF F.vccStat_state c (s.servingState c)) c false
  rw [hsame.2] at hchan
  have hself : Works (u.putF F.vccStat_state c (s.servingState c)) ((u.putF F.vccStat_state c (s.servingState c)).selfRefresh c false) :=
    .selfRefresh .same
  generalize (u.putF F.vccStat_state c (s.servingState c)).selfRefresh c false = v at hself hchan hmem ⊢
  refine ⟨onF_of_bit (b := false) ?_, ?_, onF_of_bit (b := false) (getF_putF_same _ F.vccTrain_pending c 0 (by decide)),
    (chan_putF v F.vccTrain_pending c 0 c).trans hchan, sameMemories_putF F.vccTrain_pending c 0 (sameMemories_trans hsame.1 hmem)⟩
  · refine (getF_putF_off v F.vccTrain_pending F.vccCtl_reset c c 0 (by decide)).trans ((getF_of_works hself (by decide) c).trans ?_)
    exact (getF_putF_off u F.vccStat_state F.vccCtl_reset c c _ (by decide)).trans hreset
  · refine (getF_putF_off v F.vccTrain_pending F.vccStat_state c c 0 (by decide)).trans ((hself.chanState c).trans ?_)
    exact (getF_putF_same u F.vccStat_state c _ (by decide)).trans (servingState_lt s c)

/-- A channel's reset is cleared in u, and the channel serves and trains. -/
def clearedReset (c : Nat) (s u : State) : Prop :=
  u.onF F.vccCtl_reset c = false ∧ u.chanState c = s.servingState c ∧
  u.chan c = { s.chan c with selfRefresh := false, retrainStart := some s.now, want := false, wantUrgent := false, waited := 0 } ∧
  u.onF F.vccTrain_pending c = false ∧ u.onF F.vccTrain_urgent c = false ∧ sameMemories s u

theorem clearedReset_pending {c : Nat} {s u : State} (h : clearedReset c s u) : clearedReset c s { u with pending := s.pending } := h

theorem clearedReset_trainsFrom (s : State) (c : Nat) : clearedReset c s ((s.resetCleared c).trainsFrom c s.now) := by
  obtain ⟨hreset, hstate, hpend, hchan, hmem⟩ := resetCleared_spec s c
  obtain ⟨hreset', hstate', hpend', hurgent, hchan', hmem'⟩ := trainsFrom_spec (s.resetCleared c) c s.now
  refine ⟨hreset'.trans hreset, hstate'.trans hstate, hchan'.trans ?_, hpend'.trans hpend, hurgent, sameMemories_trans hmem hmem'⟩
  rw [hchan]
  rfl

theorem channelReset_clears {by_ : Requester} {c : Nat} {s : State} (hw : s.writes by_ R.vccCtl.off = true)
    (hc : c = s.sel by_ F.vccSel_channel) (hst : s.chanState c ≠ vccRetired) (hon : s.onF F.vccCtl_reset c = true) :
    completes (.channelReset by_ false) s (clearedReset c s) := by
  refine completes_of_eq (f := fun s : State => if s.writes by_ R.vccCtl.off then opChannelReset (s.sel by_ F.vccSel_channel) false s else s)
    (u := (s.begin.resetCleared c).trainsFrom c s.begin.now) rfl ((if_pos hw).trans ?_) ?_
  · rw [show s.begin.sel by_ F.vccSel_channel = c from hc.symm]
    exact opChannelReset_clear hst hon
  · exact clearedReset_pending (s := s.begin) (clearedReset_trainsFrom s.begin c)

/-! ## Margin requests -/

/-- A margin request of a channel shows what it asks for. -/
def State.marginAsked (s : State) (c : Nat) (mode : Bool) (wire : Nat) : State :=
  (s.putF F.vccMargin_mode c (bit mode)).putF F.vccMargin_bit c wire

theorem marginRequest_sweeps {by_ : Requester} {c : Nat} {m : Bool} {w : BitVec 9} {s : State} (hw : s.writes by_ R.vccMargin.off = true)
    (hc : c = s.sel by_ F.vccSel_channel) (hreq : s.onF F.vccMargin_req c = false) (hst : s.chanState c = vccInService) :
    completes (.marginRequest by_ m w) s (fun t =>
      t.onF F.vccMargin_req c = true ∧ t.getF F.vccMargin_status c = 1 ∧ t.onF F.vccMargin_mode c = m ∧
      t.getF F.vccMargin_bit c = w.toNat ∧ (t.chan c).marginStep = 0 ∧ sameRegs [regKey R.vccMargin c] s t) := by
  have hop : (fun s : State => if s.writes by_ R.vccMargin.off then opMargin (s.sel by_ F.vccSel_channel) m w.toNat s else s) s.begin =
      (((s.begin.marginAsked c m w.toNat).putF F.vccMargin_req c 1).putF F.vccMargin_status c 1).modChan c (fun x => { x with marginStep := 0 }) := by
    refine (if_pos hw).trans ?_
    rw [show s.begin.sel by_ F.vccSel_channel = c from hc.symm]
    refine (if_neg (by rw [show s.begin.onF F.vccMargin_req c = false from hreq]; decide)).trans (if_neg ?_)
    rw [show s.begin.chanState c = vccInService from hst]
    decide
  have hkey : regKey R.vccMargin c ∈ [regKey R.vccMargin c] := List.mem_cons_self
  refine completes_of_eq rfl hop ⟨onF_of_bit (b := true) ?_, getF_putF_same _ F.vccMargin_status c 1 (by decide), onF_of_bit ?_, ?_,
    congrArg Chan.marginStep (chan_setChan_same ..), ?_⟩
  · exact (getF_putF_apart _ F.vccMargin_status F.vccMargin_req c 1 rfl (by decide)).trans (getF_putF_same _ F.vccMargin_req c 1 (by decide))
  · refine (getF_putF_apart _ F.vccMargin_status F.vccMargin_mode c 1 rfl (by decide)).trans
      ((getF_putF_apart _ F.vccMargin_req F.vccMargin_mode c 1 rfl (by decide)).trans ?_)
    exact (getF_putF_apart _ F.vccMargin_bit F.vccMargin_mode c w.toNat rfl (by decide)).trans
      (getF_putF_same s.begin F.vccMargin_mode c (bit m) (by decide))
  · refine (getF_putF_apart _ F.vccMargin_status F.vccMargin_bit c 1 rfl (by decide)).trans
      ((getF_putF_apart _ F.vccMargin_req F.vccMargin_bit c 1 rfl (by decide)).trans ?_)
    exact (getF_putF_same _ F.vccMargin_bit c w.toNat (by decide)).trans (Nat.mod_eq_of_lt w.isLt)
  · have h0 : sameRegs [regKey R.vccMargin c] s s.begin := sameRegs_of_regs (sameRegs_refl _ s) s.begin_regs
    have h2 : sameRegs [regKey R.vccMargin c] s (s.begin.marginAsked c m w.toNat) :=
      sameRegs_putF F.vccMargin_bit c _ (sameRegs_putF F.vccMargin_mode c _ h0 hkey) hkey
    exact sameRegs_putF F.vccMargin_status c 1 (sameRegs_putF F.vccMargin_req c 1 h2 hkey) hkey

theorem marginRequest_refused {by_ : Requester} {c : Nat} {m : Bool} {w : BitVec 9} {s : State} (hw : s.writes by_ R.vccMargin.off = true)
    (hc : c = s.sel by_ F.vccSel_channel)
    (h : s.onF F.vccMargin_req c = true ∨ s.chanState c = vccHeld ∨ s.chanState c = vccNarrowed ∨ s.chanState c = vccRetired) :
    completes (.marginRequest by_ m w) s (fun t => t.getF F.vccMargin_status c = 3 ∧ onlyRegs [regKey R.vccMargin c] s t) := by
  have hkey : regKey R.vccMargin c ∈ [regKey R.vccMargin c] := List.mem_cons_self
  obtain ⟨v, hv, hop⟩ : ∃ v, (v = s.begin ∨ v = s.begin.marginAsked c m w.toNat) ∧
      (fun s : State => if s.writes by_ R.vccMargin.off then opMargin (s.sel by_ F.vccSel_channel) m w.toNat s else s) s.begin =
        v.putF F.vccMargin_status c 3 := by
    by_cases hreq : s.onF F.vccMargin_req c = true
    · refine ⟨_, Or.inl rfl, (if_pos hw).trans ?_⟩
      rw [show s.begin.sel by_ F.vccSel_channel = c from hc.symm]
      exact if_pos hreq
    · refine ⟨_, Or.inr rfl, (if_pos hw).trans ?_⟩
      rw [show s.begin.sel by_ F.vccSel_channel = c from hc.symm]
      exact (if_neg hreq).trans (if_pos (h.resolve_left hreq))
  have h0 : sameRegs [regKey R.vccMargin c] s s.begin := sameRegs_of_regs (sameRegs_refl _ s) s.begin_regs
  refine completes_of_eq rfl hop ⟨getF_putF_same v F.vccMargin_status c 3 (by decide), ?_⟩
  rcases hv with rfl | rfl
  · exact ⟨rfl, sameRegs_putF F.vccMargin_status c 3 h0 hkey⟩
  · exact ⟨rfl, sameRegs_putF F.vccMargin_status c 3 (sameRegs_putF F.vccMargin_bit c _ (sameRegs_putF F.vccMargin_mode c _ h0 hkey) hkey) hkey⟩

/-! ## A failed wire -/

/-- A channel whose wire has failed: the wire is blamed no longer. -/
def State.wireCounted (s : State) (c w : Nat) : State :=
  (s.bump F.vccErr_wires c).modChan c (fun x => { x with blame := x.blame.filter (fun b => b.1 != w), blameTick := x.blameTick.filter (fun b => b != w) })

theorem failWire_bonds {s : State} {c w : Nat} (hw : w < 288 ∨ 304 ≤ w) (hst : s.chanState c ≠ vccRetired) (hleft : 0 < (s.chan c).sparesLeft) :
    s.failWire c w = (s.wireCounted c w).setChan c { (s.wireCounted c w).chan c with newBonds := ((s.wireCounted c w).chan c).newBonds ++ [w] } := by
  have hchan : (s.wireCounted c w).chan c = { s.chan c with
      blame := (s.chan c).blame.filter (fun b => b.1 != w), blameTick := (s.chan c).blameTick.filter (fun b => b != w) } := chan_setChan_same ..
  have hwire : ¬ (dataWires ≤ w ∧ w < cmdWire) := by
    unfold dataWires cmdWire
    omega
  refine (if_neg hst).trans ((if_neg hwire).trans (if_pos ?_))
  show 0 < ((s.wireCounted c w).chan c).sparesLeft
  rw [hchan]
  exact hleft

theorem wireFailed_bonds {ch : BitVec 10} {w : BitVec 9} {s : State} (hw : w.toNat < 288 ∨ (304 ≤ w.toNat ∧ w.toNat < 344))
    (hst : s.chanState ch.toNat ≠ vccRetired) (hleft : 0 < (s.chan ch.toNat).sparesLeft) (hready : s.ready = true) :
    completes (.wireFailed ch w) s (fun t =>
      (t.chan ch.toNat).newBonds = (s.chan ch.toNat).newBonds ++ [w.toNat] ∧
      t.getF F.vccErr_wires ch.toNat = min (s.getF F.vccErr_wires ch.toNat + 1) 65535 ∧
      (∀ d, d ≠ ch.toNat → t.chan d = s.chan d) ∧ sameRegs [regKey R.vccErr ch.toNat] s t ∧
      t = { s with regs := t.regs, chans := t.chans, out := [] }) := by
  have hok : (Instr.wireFailed ch w).wellFormed = true := decide_eq_true (by omega)
  obtain ⟨c, hc⟩ : ∃ c, c = ch.toNat := ⟨_, rfl⟩
  have hexec : exec (.wireFailed ch w) s = run (opWireFailed c w.toNat) s := by
    have h : exec (.wireFailed ch w) s = runIf (Instr.wireFailed ch w).wellFormed (opWireFailed ch.toNat w.toNat) s := rfl
    rw [h, hok, runIf_true, hc]
  rw [← hc] at hst hleft ⊢
  obtain ⟨v, hv⟩ : ∃ v, v = s.begin.wireCounted c w.toNat := ⟨_, rfl⟩
  have hchan : v.chan c = { s.chan c with
      blame := (s.chan c).blame.filter (fun b => b.1 != w.toNat), blameTick := (s.chan c).blameTick.filter (fun b => b != w.toNat) } := hv ▸ chan_setChan_same ..
  have hne : ∀ d, d ≠ c → v.chan d = s.chan d := fun d hd => hv ▸ chan_setChan_ne _ _ hd.symm
  have hcount : v.getF F.vccErr_wires c = min (s.getF F.vccErr_wires c + 1) 65535 := by
    rw [hv]
    exact (getF_putF_same s.begin F.vccErr_wires c _ (by decide)).trans (Nat.mod_eq_of_lt (Nat.lt_of_le_of_lt (Nat.min_le_right ..) (by decide)))
  have hregs : sameRegs [regKey R.vccErr c] s v := by
    rw [hv]
    exact sameRegs_bump F.vccErr_wires c 1 (sameRegs_of_regs (sameRegs_refl _ s) s.begin_regs) List.mem_cons_self
  have hframe : { v with pending := s.pending } = { s with regs := v.regs, chans := v.chans, out := [] } := hv ▸ rfl
  have hstage : v.getF F.stdBoot_stage = s.getF F.stdBoot_stage := hv ▸ getF_putF_off s.begin F.vccErr_wires F.stdBoot_stage c 0 _ (by decide)
  have hop : opWireFailed c w.toNat s.begin = v.setChan c { v.chan c with newBonds := (v.chan c).newBonds ++ [w.toNat] } := by
    unfold opWireFailed
    rw [failWire_bonds (s := s.begin) (hw.imp_right And.left) hst hleft, ← hv]
    refine if_neg (Nat.not_lt.mpr ?_)
    have h7 : s.getF F.stdBoot_stage = 7 := beq_iff_eq.mp hready
    exact Nat.le_of_eq (hstage.trans h7).symm
  refine completes_of_eq hexec hop ⟨?_, hcount, fun d hd => (chan_setChan_ne _ _ hd.symm).trans (hne d hd), hregs, ?_⟩
  · refine (congrArg Chan.newBonds (chan_setChan_same ..)).trans ?_
    rw [hchan]
  · exact congrArg (fun u : State => ({ u with chans := (v.setChan c _).chans } : State)) hframe

/-- Settles O42: the reset by what it ends, the margin request and the wire each by its branch. -/
theorem channelsFailAndReset : Obligations.ChannelsFailAndReset :=
  ⟨fun _ _ _ hw hc hst => ⟨channelReset_sets hw hc hst, channelReset_clears hw hc hst⟩,
    fun _ _ _ _ _ hw hc => ⟨marginRequest_sweeps hw hc, marginRequest_refused hw hc⟩,
    fun _ _ _ hw hst hleft hready => wireFailed_bonds hw hst hleft hready⟩

end Sys2Proof.Machine
end
